-- ==== Sys2Proof/Word.lean ====
section
/-! DEFINITION. Word types of the JXM1024-M (registers of R7, lines of 256 bytes, line numbers PA[51:8]) and their
plainest arithmetic. -/

namespace Sys2Proof

/-- A 64-bit register, socket value or control-space word (R7). -/
abbrev Word := BitVec 64
/-- One byte; multi-byte values are little-endian (00_scope, "Numbers and time"). -/
abbrev Byte := BitVec 8
/-- The 256 bytes of a cache line (chapter Caches); byte i stands at bits [8i+7:8i]. -/
abbrev Line := BitVec 2048
/-- The number of a line, PA[51:8] (R445). -/
abbrev LineNo := BitVec 44
/-- A 16-bit source number (R3). -/
abbrev Source := BitVec 16
/-- A byte string. -/
abbrev Bytes := List Byte
/-- Sparse data by key: a list of key and value pairs; a key that is not listed holds the default its reader names. -/
abbrev Tbl (α : Type) := List (Nat × α)

abbrev EngineId := Fin 1088
abbrev BenchId := Fin 64
abbrev HomeId := Fin 16
abbrev ChanId := Fin 12
abbrev SeamId := Fin 4
abbrev LinkId := Fin 8
abbrev PcieId := Fin 2
abbrev CpId := Fin 16
abbrev CrushId := Fin 8
abbrev CiphId := Fin 8
abbrev HubId := Fin 2
abbrev LeaseId := Fin 256
abbrev PathId := Fin 64
abbrev LevelId := Fin 4
abbrev SlotId := Fin 32768
abbrev DomainId := Fin 131

end Sys2Proof
end

