-- ==== Sys2Proof/Syntax.lean ====
section
/-! DEFINITION. The commands of the block: one constructor of `Instr` for each row of spec/opcode_table.json, in the
table's order, with the operands that the row's rule gives the command. The table gives the rows no bits and no fields,
so the operands are taken from the chapters (log entry 3). -/

namespace Sys2Proof

/-- Who makes a control-space access (R723): the service controller (REG_READ, REG_WRITE) or a bank of a lease;
lease 0 is the manager. -/
inductive Actor where
  | service
  | lease (n : LeaseId)
  deriving DecidableEq, Repr

/-- The four service ports (R59, R61): service port or I3C sideband of a hub. -/
inductive Port where
  | sp0 | sp1 | i3c0 | i3c1
  deriving DecidableEq, Repr

/-- The 16-byte header of a service message, with the port that it arrives on (R65). `type` is the row's own type, or a type that R71
reserves: a message of a reserved type may be sent as any row (log entry 108). -/
structure SvcHdr where
  port : Port
  major : Byte
  minor : Byte
  type : BitVec 16
  seq : BitVec 32
  len : BitVec 16
  status : BitVec 16
  crc : BitVec 32
  deriving DecidableEq, Repr

/-- A cache that CACHE_DISABLE, CACHE_ENABLE, CACHE_SCRUB and the maintenance rows name (R421 to R426). -/
inductive CacheId where
  | l1i (e : EngineId)
  | l1d (e : EngineId)
  | l2 (b : BenchId)
  | l3 (h : HomeId)
  deriving DecidableEq, Repr

/-- The unit of a range or set-and-way operation whose status register shows BUSY (R419, R439). -/
inductive MaintUnit where
  | crange
  | l2 (b : BenchId)
  | l3 (h : HomeId)
  deriving DecidableEq, Repr

/-- The value written to L2_SETWAY or L3_SETWAY, without its OP field, which the row gives (R440). -/
structure SetWay where
  all : Bool
  inclLocked : Bool
  slot : BitVec 5
  cache : BitVec 2
  set : BitVec 12
  way : BitVec 4
  deriving DecidableEq, Repr

/-- An error that an array shows in a scrub or a read (R424); `both` is a multi-bit error of a line whose pair-way copy is bad too. -/
inductive ArrayErr where
  | none | single | multi | both | tagOne | tagBoth
  deriving DecidableEq, Repr

/-- A unit with a control store (R353). -/
inductive StoreUnit where
  | engine (e : EngineId)
  | cp (c : CpId)
  deriving DecidableEq, Repr

/-- An error that an engine finds in its control store: a corrected word of patch RAM (R389), or an uncorrectable patch-RAM word or a ROM
parity error, with whether the retry of the interval fails again (R390). -/
inductive StoreErr where
  | corrected (word : Fin 256)
  | patchRam (word : Fin 256) (again : Bool)
  | romParity (addr : Fin 12288) (again : Bool)
  deriving DecidableEq, Repr

/-- A queued iterative or pipelined unit whose operations complete by OPERATION_COMPLETE (R198, R199). -/
inductive QUnit where
  | mul | div | fpu
  deriving DecidableEq, Repr

/-- What a DIMM's SPD reports (R490, R538). -/
structure Spd where
  gb : BitVec 16
  ranks : BitVec 8
  dies : BitVec 4
  width : BitVec 4
  rate : BitVec 8
  deriving DecidableEq, Repr

/-- One byte lane's trained values (R519, R538), in 1/64 UI, and its reference-voltage step. -/
structure Lane where
  readDelay : Byte
  writeDelay : Byte
  readEye : Byte
  writeEye : Byte
  vref : BitVec 3
  deriving DecidableEq, Repr

/-- What training of one memory channel found: the DIMMs in its slots and its lanes, 10 for each DIMM (R519, R520). -/
structure ChanTrain where
  dimm0 : Option Spd
  dimm1 : Option Spd
  lanes : List Lane
  deriving DecidableEq, Repr

/-- What Training found at the unit boundary: a result for each memory channel that finished its training, the links
that are Up, and for each PCIe downstream link that reached L0 (port × 4 + link) its speed and width code (R28, R57). -/
structure TrainResult where
  chans : List (ChanId × ChanTrain)
  links : List LinkId
  pcie : List (Fin 8 × BitVec 4 × BitVec 8)
  deriving DecidableEq, Repr

/-- What the Identify commands of a ready NVMe controller return (R541, R543). -/
structure NvmeIdent where
  nguid : BitVec 128
  lbaShift : BitVec 8
  metadata : Bool
  protection : Bool
  deriving DecidableEq, Repr

/-- The fields of a PTP message that the slave-only clock uses (R768; IEEE 1588-2019). -/
structure PtpMsg where
  link : LinkId
  domain : Byte
  seq : BitVec 16
  srcPort : BitVec 80
  rxStamp : Word
  origin : BitVec 80
  correction : Word
  twoStep : Bool
  logInterval : Byte
  deriving DecidableEq, Repr

/-- The dataset fields of a PTP Announce that the dataset comparison reads (R768; IEEE 1588-2019). -/
structure PtpData where
  priority1 : Byte
  clockClass : Byte
  clockAccuracy : Byte
  variance : BitVec 16
  priority2 : Byte
  identity : Word
  stepsRemoved : BitVec 16
  deriving DecidableEq, Repr

/-- What an ECC check of one piece of a line found (R496, R499, R500). -/
inductive PieceEcc where
  | good | corrected | uncorrectable | caParity
  deriving DecidableEq, Repr

/-- The stable or transient bench state that a takeover report carries, with data where there is some (R476). -/
inductive Report where
  | shared | exclusive (d : Line) | owned (d : Line) (poison : Bool) | modified (d : Line) (poison : Bool)
  | handed (d : Line) (poison : Bool)
  deriving DecidableEq, Repr

/-- The commands, one for each row of spec/opcode_table.json. -/
inductive Instr where
  | powerOnReset
  | mrstNReset
  | pwrgdAoFall
  | pwrgdMainFall
  | serviceDomainRelease
  | bootImageRead
  | hello (h : SvcHdr) (p : Bytes)
  | sessionOpen (h : SvcHdr) (p : Bytes)
  | sessionClose (h : SvcHdr) (p : Bytes)
  | keepalive (h : SvcHdr) (p : Bytes)
  | handoverPrepare (h : SvcHdr) (p : Bytes)
  | sessionLapse
  | handoverTokenExpiry
  | regRead (h : SvcHdr) (p : Bytes)
  | regWrite (h : SvcHdr) (p : Bytes)
  | tagBulk (h : SvcHdr) (p : Bytes)
  | start (h : SvcHdr) (p : Bytes)
  | moduleReset (h : SvcHdr) (p : Bytes)
  | holdEnter (h : SvcHdr) (p : Bytes)
  | holdEntryComplete
  | holdExit (h : SvcHdr) (p : Bytes)
  | holdExitComplete
  | testEnter (h : SvcHdr) (p : Bytes)
  | testExit (h : SvcHdr) (p : Bytes)
  | imagePut (h : SvcHdr) (p : Bytes)
  | imageLoad (h : SvcHdr) (p : Bytes)
  | flashRead (h : SvcHdr) (p : Bytes)
  | flashWrite (h : SvcHdr) (p : Bytes)
  | flashErase (h : SvcHdr) (p : Bytes) (failAt : Option Nat)
  | dumpRead (h : SvcHdr) (p : Bytes)
  | notifyAnswer (h : SvcHdr) (p : Bytes)
  | notifyResend
  | fuseArm (h : SvcHdr) (p : Bytes)
  | fuseConfirm (h : SvcHdr) (p : Bytes)
  | fuseArmExpiry
  | trainingEnd (r : TrainResult)
  | verifyComplete
  | patchCheckComplete
  | checkComplete (absent : List (Fin 19 × BitVec 16))
  | prepareComplete
  | quiesceTimeout
  | sectionApplied
  | reworkComplete
  | registerWrite (a : Actor) (addr : BitVec 52) (size : Nat) (v : Word)
  | readAndClear (a : Actor) (addr : BitVec 52) (size : Nat)
  | unitReset (a : Actor) (kind : Fin 16) (index : BitVec 12) (v : Word)
  | microcodeLoad (u : StoreUnit) (readBack : Option (Fin 256))
  | leaseSettAdd (a : Actor) (l : LeaseId) (v : Word)
  | crangeClean (a : Actor) (inclLocked : Bool)
  | crangeInvalidate (a : Actor) (inclLocked : Bool)
  | crangeCleanInvalidate (a : Actor) (inclLocked : Bool)
  | crangeZero (a : Actor) (inclLocked : Bool)
  | setwayClean (a : Actor) (u : MaintUnit) (v : SetWay)
  | setwayInvalidate (a : Actor) (u : MaintUnit) (v : SetWay)
  | setwayCleanInvalidate (a : Actor) (u : MaintUnit) (v : SetWay)
  | maintenanceComplete (u : MaintUnit)
  | cacheDisable (a : Actor) (c : CacheId)
  | cacheEnable (a : Actor) (c : CacheId)
  | disablingComplete (c : CacheId)
  | wayLock (a : Actor) (b : BenchId) (mask : Byte)
  | mchRetrain (a : Actor) (m : ChanId)
  | mchOffline (a : Actor) (m : ChanId)
  | mchOfflineForce (a : Actor) (m : ChanId)
  | mchPowerOff (a : Actor) (m : ChanId)
  | mchPowerOn (a : Actor) (m : ChanId)
  | mchOnline (a : Actor) (m : ChanId)
  | pathOnline (a : Actor) (p : PathId)
  | pathOffline (a : Actor) (p : PathId)
  | cpOffline (a : Actor) (c : CpId)
  | cpOnline (a : Actor) (c : CpId)
  | linkOnline (a : Actor) (l : LinkId)
  | linkOffline (a : Actor) (l : LinkId)
  | crusherOnline (a : Actor) (k : CrushId)
  | crusherOffline (a : Actor) (k : CrushId)
  | crusherDrained (k : CrushId)
  | cipherOnline (a : Actor) (x : CiphId)
  | cipherOffline (a : Actor) (x : CiphId)
  | leaseCreate (a : Actor) (l : LeaseId)
  | leaseStart (a : Actor) (l : LeaseId)
  | leaseQuiesce (a : Actor) (l : LeaseId)
  | leaseResume (a : Actor) (l : LeaseId)
  | leaseReset (a : Actor) (l : LeaseId) (key : BitVec 16)
  | leaseForcedReset (a : Actor) (l : LeaseId) (key : BitVec 16)
  | leaseRemove (a : Actor) (l : LeaseId) (key : BitVec 16)
  | leaseCmdReserved (a : Actor) (l : LeaseId) (key : BitVec 16) (code : BitVec 4)
  | leasePendingCleared (l : LeaseId)
  | leaseSpawn (a : Actor) (l : LeaseId) (v : Word)
  | leaseTlbInval (a : Actor) (l : LeaseId) (v : Word)
  | tlbInvalComplete (l : LeaseId)
  | chnJrnMove (a : Actor) (v : Word)
  | journalMoveComplete
  | chnSumpReplace (a : Actor) (v : Word)
  | pcieCfgRead (a : Actor) (p : PcieId) (answer : Option (BitVec 32))
  | pcieCfgWrite (a : Actor) (p : PcieId) (v : Word) (done : Bool)
  | tsSet (a : Actor) (hub : HubId) (v : Word)
  | tsAdj (a : Actor) (hub : HubId) (v : Word)
  | errSelect (a : Actor) (v : Word)
  | bundleIssue (e : EngineId) (check : Option (Fin 4)) (fix : Option (Fin 256))
  | fetchLineArrival (e : EngineId)
  | translationComplete (e : EngineId)
  | operationComplete (e : EngineId) (l : LevelId) (u : QUnit)
  | loadComplete (e : EngineId) (op : Nat)
  | storeComplete (e : EngineId) (op : Nat)
  | atomicComplete (e : EngineId) (op : Nat)
  | macFetchComplete (e : EngineId) (op : Nat)
  | dstkFillComplete (e : EngineId) (l : LevelId)
  | rstkSpillComplete (e : EngineId) (l : LevelId)
  | rstkFillComplete (e : EngineId) (l : LevelId)
  | saveComplete (e : EngineId) (l : LevelId)
  | cxRoutineEnd (e : EngineId) (l : LevelId) (err : Option StoreErr)
  | microTrap (e : EngineId) (l : LevelId) (check : Option (Fin 4))
  | microTimingOverrun (u : StoreUnit) (cycles : BitVec 16)
  | ringAnswer (e : EngineId) (l : LevelId)
  | timerExpiry (e : EngineId) (l : LevelId) (t : Fin 2)
  | waitGraceExpiry (e : EngineId) (l : LevelId)
  | displacement (e : EngineId) (l : LevelId)
  | savingComplete (e : EngineId) (l : LevelId)
  | taskEnd (e : EngineId) (l : LevelId)
  | queueEntryDispatch (b : BenchId)
  | stealProbe (e : EngineId)
  | stealCommit (e : EngineId)
  | idleReprobe (e : EngineId)
  | waitTableTimer (b : BenchId)
  | queuePlaceFreed (b : BenchId)
  | stockRefill (b : BenchId) (l : LeaseId)
  | dirtyAgeClean (b : BenchId) (n : LineNo)
  | cacheScrub (c : CacheId) (n : LineNo) (err : ArrayErr)
  | rds (n : LineNo) (b : BenchId) (lease : LeaseId)
  | rdx (n : LineNo) (b : BenchId) (lease : LeaseId)
  | upg (n : LineNo) (b : BenchId) (lease : LeaseId)
  | mntc (n : LineNo) (src : Source) (lease : LeaseId) (self incl : Bool)
  | mnti (n : LineNo) (src : Source) (lease : LeaseId) (self incl : Bool)
  | mntci (n : LineNo) (src : Source) (lease : LeaseId) (self incl : Bool)
  | iord (n : LineNo) (src : Source) (lease : LeaseId)
  | iowr (n : LineNo) (src : Source) (lease : LeaseId) (mask : BitVec 256) (d : Line) (poison : Bool)
  | wbm (n : LineNo) (b : BenchId) (d : Line) (poison : Bool)
  | eve (n : LineNo) (b : BenchId) (d : Line) (poison : Bool)
  | done (n : LineNo) (b : BenchId)
  | snps (b : BenchId) (n : LineNo)
  | snpx (b : BenchId) (n : LineNo) (maint incl : Bool)
  | snpcln (b : BenchId) (n : LineNo)
  | snpdrop (b : BenchId) (n : LineNo) (maint incl : Bool)
  | rspi (n : LineNo) (b : BenchId)
  | rspk (n : LineNo) (b : BenchId)
  | rspd (n : LineNo) (b : BenchId) (d : Line) (poison : Bool)
  | rspc (n : LineNo) (b : BenchId) (d : Line) (poison : Bool)
  | rspdo (n : LineNo) (b : BenchId) (d : Line) (poison : Bool)
  | rspcs (n : LineNo) (b : BenchId) (d : Line) (poison : Bool)
  | rspds (n : LineNo) (b : BenchId) (d : Line) (poison : Bool)
  | rspde (n : LineNo) (b : BenchId) (d : Line) (poison : Bool)
  | datas (b : BenchId) (n : LineNo) (d : Line) (poison : Bool)
  | datae (b : BenchId) (n : LineNo) (d : Line) (poison : Bool)
  | datam (b : BenchId) (n : LineNo) (d : Line) (poison : Bool)
  | grantm (b : BenchId) (n : LineNo)
  | wback (b : BenchId) (n : LineNo)
  | wbstale (b : BenchId) (n : LineNo)
  | iodata (src : Source) (n : LineNo) (d : Line) (poison : Bool)
  | ioack (src : Source) (n : LineNo)
  | mntack (src : Source) (n : LineNo)
  | mir (h : HomeId) (n : LineNo) (d : Line) (poison : Bool)
  | mirrel (h : HomeId) (n : LineNo)
  | mirack (n : LineNo)
  | hrReadReturn (n : LineNo)
  | hwWriteComplete (n : LineNo)
  | tenureEnd (b : BenchId) (n : LineNo)
  | snoopTimeout (n : LineNo)
  | homeLost (b : BenchId) (h : HomeId)
  | takeoverReport (h : HomeId) (b : BenchId) (n : LineNo) (r : Report)
  | shareOpen (h : HomeId)
  | memRead (m : ChanId) (sub : Fin 2) (ecc : PieceEcc)
  | memWrite (m : ChanId) (sub : Fin 2) (parity : Bool)
  | commandTimeout (m : ChanId)
  | rebuildRequest (s : SeamId) (bad : Option (Fin 5))
  | seamRebuildComplete (s : SeamId)
  | retrainDue (m : ChanId) (temp : Byte)
  | retrainComplete (m : ChanId) (lanes : List Lane)
  | catchUpComplete (s : SeamId)
  | refreshDue (m : ChanId) (sub : Fin 2)
  | selfRefreshExit (m : ChanId)
  | rowIdleClose (m : ChanId) (sub : Fin 2) (bank : Nat)
  | memoryScrub (m : ChanId) (n : LineNo) (ecc : PieceEcc)
  | journalEntryWritten (t : SlotId)
  | txnIssue (t : SlotId)
  | txnSent (t : SlotId)
  | nvmeCompletion (p : PathId) (t : SlotId) (step : Fin 64) (status : BitVec 16) (gen : BitVec 16) (data : Bytes)
  | issueDeadlineExpiry (t : SlotId)
  | partnerWaitExpiry (t : SlotId)
  | completionWaitExpiry (t : SlotId)
  | pathFailure (p : PathId) (reason : Byte)
  | txnCompletionRecord (t : SlotId)
  | sumpSpaceAvailable
  | establishTimeout (p : PathId)
  | pathDrained (p : PathId)
  | nvmeControllerReset (p : PathId)
  | nvmeReady (p : PathId) (i : NvmeIdent)
  | nvmeReadyTimeout (p : PathId)
  | cpFailure (c : CpId)
  | frameReceive (l : LinkId) (frame : Bytes) (fcsGood : Bool)
  | frameTransmit (l : LinkId)
  | coalesceTimeout (l : LeaseId) (q : Fin 16)
  | linkUp (l : LinkId)
  | trainingAttemptTimeout (l : LinkId)
  | linkDown (l : LinkId)
  | pauseRepeat (l : LinkId)
  | pcieDmaRequest (p : PcieId) (rid : BitVec 16) (write : Bool) (addr : Word) (len : Nat) (data : Bytes)
  | msixMessage (p : PcieId) (rid : BitVec 16) (addr : Word) (data : BitVec 32)
  | pcieLinkDown (p : PcieId) (j : Fin 4) (aer : Option (BitVec 32))
  | capReq (p : PathId) (datagram : Bytes) (checksumGood : Bool)
  | capReqResend (p : PathId)
  | capRsp (p : PathId) (datagram : Bytes) (checksumGood : Bool)
  | helarAck (p : PathId) (datagram : Bytes) (checksumGood : Bool)
  | helarKeepalive (p : PathId) (datagram : Bytes) (checksumGood : Bool)
  | helarClose (p : PathId) (datagram : Bytes) (checksumGood : Bool)
  | answerSegment (p : PathId) (datagram : Bytes) (checksumGood : Bool)
  | ackDue (p : PathId)
  | retransmitTimeout (p : PathId) (seq : BitVec 32)
  | keepaliveDue (p : PathId)
  | silenceTimeout (p : PathId)
  | slabBoundary (k : CrushId)
  | crusherFailure (k : CrushId)
  | recordBoundary (u : Fin 10)
  | cipherUnitFailure (u : Fin 10)
  | ctxHalfLoss (h : HubId)
  | ctxHalfCopyComplete (h : HubId)
  | eventRelease
  | evtBlockTakeover
  | spillRecheck (l : LeaseId)
  | ptpSync (m : PtpMsg)
  | ptpFollowUp (m : PtpMsg)
  | ptpAnnounce (m : PtpMsg) (d : PtpData)
  | ptpDelayResp (m : PtpMsg)
  | ppsEdge (h : HubId) (stamp : Word)
  | disciplineInputAbsent (h : HubId)
  | tsDistributionPulse
  | tsMasterTakeover
  | heartbeatLoss (d : DomainId)
  | engineSparing (e : EngineId) (bad : BitVec 4)
  | benchLoss (b : BenchId)
  | homeNodeLoss (h : HomeId)
  | tileLoss (t : Fin 4)
  | meshTransfer (link : Fin 13) (dir : Fin 2) (vc : Fin 5) (crcGood : Bool)
  | serviceCoreLoss (h : HubId)
  | hubLoss (h : HubId)
  | frequencyDecision (d : DomainId) (target : Byte) (temp : Byte)
  | thermalLimitStep (d : DomainId) (temp : Byte)
  | thermalTrip (d : DomainId) (temp : Byte)
  | refclkFailure (h : HubId)
  | refclkHoldoverExpiry
  | pwrgdMainRise
  | mchPrsntNChange (m : ChanId) (low : Bool)
  | channelTrained (m : ChanId) (r : ChanTrain)
  | refclkRecovery (h : HubId)
  | ppsOutputEdge (land : Fin 14)
  | pcieLinkUp (p : PcieId) (j : Fin 4) (speed : BitVec 4) (width : BitVec 8)
  | modeMachineUncorrectableError
  | hubReturn (h : HubId)
  | tapInstruction (code : Fin 7)
  deriving DecidableEq, Repr

end Sys2Proof
end

