-- ==== Sys2Proof/Decode.lean ====
section
/-! DEFINITION. The command that a word of spec/opcode_table.json spells. The table gives its rows no bits: no word spells a command. -/

namespace Sys2Proof

/-- No row of the table gives bits, so every word answers none. -/
def decodeTableWord (_nbits _w : Nat) : Option Instr := none

end Sys2Proof
end

