-- ==== Sys2Proof/Config.lean ====
section
/-! DEFINITION. The free values of the model: what the spec leaves open and one module may answer in any way it
allows. Each is an opaque constant with no body, so no proof can rest on a value of it (log entry 2). -/

namespace Sys2Proof.Config

/-- A fresh free 64-bit value, one for each use (log entry 2): a handover token (R64), a fuse challenge (R84),
the sett key and the context key (R300, R695), a private key of KEYGEN (R701), the outcomes of microcode conditions (R354). -/
opaque freeWord : Nat → Word

/-- A fresh free number (log entry 2), used for choices among several outcomes that the spec allows. -/
opaque freeNat : Nat → Nat

/-- The check word of a sett or context-table entry under a key (R300 and R695 name its job and not its function). -/
opaque checkWord : Word → Bytes → Word

/-- The DEFLATE stream that the compressor emits for an input at a level (R650 to R655 bound it and do not fix it). -/
opaque deflate : Nat → Bytes → Bytes

/-- The free bytes of an output that the spec calls unspecified (R663, R664, R707). -/
opaque freeByte : Nat → Nat → Byte

/-- The words of a control store's ROM by micro-address, for a channel processor or an engine: bits [111:0], and the parity bit in [112]
(R353, R356). Their content is not published. -/
opaque romWord : Bool → Nat → BitVec 113

/-- The eight check bits of a patch-RAM word (R356), whose code is not published. -/
opaque ramCheck : Nat → Byte

/-- The micro-address at which ROM begins the routine of a code of R378. -/
opaque microEntry : Nat → Nat

/-- The credits of the pool of a virtual channel (5 × direction + channel) on a substrate link, less one (R20 gives no number); the ledgers' counts of
32 bits (R824) tell how many of them are out. -/
opaque creditPool : Nat → Nat → BitVec 31

/-- The visible fields of the fuse block as programmed for an order (R861: "as Peilapol programs them for the order"). -/
opaque fuseByte : Nat → Byte

end Sys2Proof.Config
end

