-- ==== Sys2Proof/Machine/Crc.lean ====
section
/-! DEFINITION. CRC-32C (Castagnoli), which the spec names for service messages, journal entries, Helar payloads and image
sections, and CRC-32 (IEEE 802.3); both reflected, from all ones, complemented at the end (log entry 30). -/

namespace Sys2Proof.Machine

/-- One bit of a reflected CRC. -/
def crcBit (poly c : Nat) : Nat := if c % 2 = 1 then Nat.xor (c / 2) poly else c / 2

/-- Eight bits. -/
def crcByte (poly c : Nat) (b : Byte) : Nat :=
  let c := Nat.xor c b.toNat
  crcBit poly (crcBit poly (crcBit poly (crcBit poly (crcBit poly (crcBit poly (crcBit poly (crcBit poly c)))))))

/-- The reflected CRC register after bytes, from a register value. -/
def crcRun (poly c : Nat) (b : Bytes) : Nat := b.foldl (crcByte poly) c

/-- CRC-32C of bytes. -/
def crc32c (b : Bytes) : Nat := Nat.xor (crcRun 0x82F63B78 0xFFFFFFFF b) 0xFFFFFFFF

/-- CRC-32 (IEEE 802.3) of bytes. -/
def crc32 (b : Bytes) : Nat := Nat.xor (crcRun 0xEDB88320 0xFFFFFFFF b) 0xFFFFFFFF

end Sys2Proof.Machine
end

