-- ==== Sys2Proof/Machine/State.lean ====
section
/-! DEFINITION. The state of the module: every register, buffer, queue, timer, mode and pin that the spec gives it, as
plain data, with the reset values; the queue of commands that wait; the reasons a step can stop. -/

namespace Sys2Proof.Machine

/-! ## Faults and refusals -/

/-- The block has no way to stop itself outside its modes: Check-stop is a mode (R819). No meaning raises this;
it stands so that the type has its place. Safe. -/
inductive Fault where
  | none
  deriving DecidableEq, Repr

/-- A command with no meaning yet (raised by Dispatch.exec alone; safe: it stops). -/
inductive Refusal where
  | notModelled (mnemonic : String)
  deriving DecidableEq, Repr

/-! ## Every unit (R42 to R49, R830) -/

/-- `UNIT_STATUS.STATE` (R44). -/
inductive UState where
  | reset | starting | active | draining | offline | failed | spare
  deriving DecidableEq, Repr

/-- What every unit's block holds: status (R44), tag area (R46), `UNIT_ERRORS` (R830). -/
structure UnitSt where
  st : UState
  patchLevel : Nat
  tags : List Word
  errCount : Nat
  errCause : Nat
  deriving DecidableEq, Repr

def UnitSt.reset : UnitSt := { st := .reset, patchLevel := 0, tags := [0, 0, 0, 0], errCount := 0, errCause := 0 }

/-! ## Error records and events -/

/-- An error record (R790), without its format byte. -/
structure ErrRec where
  sev : Nat
  cause : Nat
  src : Nat
  det : Nat
  stamp : Word
  index : Nat
  mode : Nat
  lease : Option Nat
  addr : Option Nat
  suppressed : Nat
  detail : Bytes
  tag : List Word
  interruption : Nat
  deriving DecidableEq, Repr

/-- The suppression state of one unit and cause (R792): when the last record was written, records suppressed since. -/
structure Suppress where
  last : Nat
  count : Nat
  deriving DecidableEq, Repr

/-- An event (R771, R775). `deliver` is false for the copy that goes to the manager (flag COPY). -/
structure Event where
  stamp : Word
  src : Nat
  cls : Nat
  flags : Nat
  vector : Nat
  lease : Nat
  level : Nat
  payload : Bytes
  engine : Nat
  deriving DecidableEq, Repr

/-- A vector's task (R779): its task identifier, where the entry stands, the re-run mark with the record number that
the re-run takes. -/
structure VecTask where
  task : Nat
  rerun : Option Nat
  deriving DecidableEq, Repr

/-- A fresh entry that waits in the active event block for a queue place (R780), or a level-3 delivery that waits for
room in an engine (R781; `bench` is then the engine). -/
structure WaitEntry where
  lease : Nat
  level : Nat
  bench : Nat
  pc : Word
  dsBase : Word
  dsLimit : Word
  task : Nat
  arg : Word
  vector : Nat
  deriving DecidableEq, Repr

/-- A time-stamp master with its discipline state (R761 to R770, R786). -/
structure TsMaster where
  running : Bool
  failed : Bool
  count : Word
  slew : Int
  slewAcc : Nat
  freq : Int
  freqAcc : Int
  setPending : Option Word
  lock : Nat
  good : Nat
  offset : Int
  lastSample : Nat
  interval : Nat
  input : Nat
  parent : Option (PtpData × BitVec 80)
  sync : Option PtpMsg
  delaySeq : Nat
  delaySent : Option Nat
  msDelay : Int
  deriving DecidableEq, Repr

def TsMaster.reset : TsMaster :=
  { running := false, failed := false, count := 0, slew := 0, slewAcc := 0, freq := 0, freqAcc := 0, setPending := none,
    lock := 0, good := 0, offset := 0, lastSample := 0, interval := 1000000000, input := 0, parent := none, sync := none,
    delaySeq := 0, delaySent := none, msDelay := 0 }

/-- The event-and-time blocks (R773, R774, R785 to R787), `EVT_LOG` and `EVT_SPILL`, and the vectors' waiting entries. -/
structure EvtSt where
  masters : Vector TsMaster 2
  activeMaster : Nat
  activeBlock : Nat
  takeoverUntil : Nat
  lastStamp : Tbl Word
  window : List Event
  released : List Event
  releasedN : Nat
  late : Nat
  badVector : Nat
  queueWaits : Nat
  waiting : List WaitEntry
  l3Waiting : List WaitEntry
  logHead : Nat
  logTail : Nat
  lastReleased : Word
  logReg : Word
  spillReg : Word
  deriving DecidableEq, Repr

def EvtSt.reset : EvtSt :=
  { masters := Vector.replicate 2 TsMaster.reset, activeMaster := 0, activeBlock := 0, takeoverUntil := 0, lastStamp := [],
    window := [], released := [], releasedN := 0, late := 0, badVector := 0, queueWaits := 0, waiting := [],
    l3Waiting := [], logHead := 0, logTail := 0, lastReleased := 0, logReg := 0, spillReg := 0 }

/-! ## Leases (R717 to R760) -/

/-- `LEASE_STATE.STATE` (R717). -/
inductive LeaseState where
  | free | stopped | active | quiescing | quiesced | resetting | removing
  deriving DecidableEq, Repr

/-- A translation kept in a translation buffer (R729): lease, virtual and physical page address, log2 of the page size,
rights R W X and TYPE. -/
structure TlbEntry where
  lease : Nat
  va : Nat
  pa : Nat
  bits : Nat
  r : Bool
  w : Bool
  x : Bool
  sett : Bool
  deriving DecidableEq, Repr

/-- One lease: its registers of R756, its sett pool (R305), spilled and held events (R782), vector tasks (R779).
`regs` holds the lease block's other stored registers by offset (R350, R580, R639, R686, R714, R785). -/
structure Lease where
  st : LeaseState
  lastCmd : Nat
  cmdResult : Nat
  pendBanks : Bool
  pendCrush : Bool
  pendCipher : Bool
  pendChan : Bool
  pendCtx : Bool
  shares : Word
  affinity : Word
  ptRoot : Word
  tlbBusy : Bool
  tlbOverrun : Bool
  tlbTarget : Word
  dEntries : Nat
  dEvents : Nat
  dDma : Nat
  dRing : Nat
  dirtyMode : Bool
  evtLost : Nat
  evtOverflow : Bool
  evtIssued : Nat
  evtReturned : Nat
  evtTail : Nat
  evtHead : Nat
  spill : List Event
  held : List Event
  rerecheck : Nat
  vecTasks : Tbl VecTask
  pool : List Nat
  settIssued : Nat
  settReturned : Nat
  settInUse : Nat
  regs : Tbl Word
  deriving DecidableEq, Repr

def Lease.reset : Lease :=
  { st := .free, lastCmd := 0, cmdResult := 0, pendBanks := false, pendCrush := false, pendCipher := false,
    pendChan := false, pendCtx := false, shares := 0, affinity := 0, ptRoot := 0, tlbBusy := false,
    tlbOverrun := false, tlbTarget := 0, dEntries := 0, dEvents := 0, dDma := 0, dRing := 0, dirtyMode := false,
    evtLost := 0, evtOverflow := false, evtIssued := 0, evtReturned := 0, evtTail := 0, evtHead := 0, spill := [],
    held := [], rerecheck := 0, vecTasks := [], pool := [], settIssued := 0, settReturned := 0, settInUse := 0,
    regs := [] }

/-! ## Caches and coherence (R400 to R489) -/

/-- The state of a line in a bench L2 (R458); a line that is not listed is in I. -/
inductive CohSt where
  | s | e | o | m | isD | imD | smA | omA | eiA | miA | oiA | iiA
  deriving DecidableEq, Repr

/-- The four snoops (R450). -/
inductive SnpOp where
  | snpS | snpX | snpCln | snpDrop
  deriving DecidableEq, Repr

/-- A line of a bench L2: state, data, poison mark (R427), way (none while it waits for one or leaves), when it turned
dirty (R428), the end of its tenure (R456), a deferred snoop with its maintenance and INCL_LOCKED flags, the lease of the
access that obtained it (R429), the last access of it by the model's own stamps (R402), the engine and operation whose miss asked for it (R456; operation 0 for a
fetch), and whether the stride prefetcher asked for it (R405). -/
structure L2Line where
  st : CohSt
  data : Line
  poison : Bool
  way : Option Nat
  dirtyAt : Option Nat
  tenureEnd : Option Nat
  deferred : Option (SnpOp × Bool × Bool)
  lease : Nat
  lastUse : Nat
  cause : Option (Nat × Nat)
  pf : Bool
  deriving DecidableEq, Repr

/-- A way of an L1 cache that holds a line: the line, the way, and the last access of it by the model's own stamps (R402). -/
structure L1Way where
  line : Nat
  way : Nat
  use : Nat
  deriving DecidableEq, Repr

/-- A cache's control state (R422, R441, R442). -/
inductive CacheSt where
  | enabled | disabling | disabled
  deriving DecidableEq, Repr

/-- The status of one maintenance operation slot (R419, R439), with the operation that runs: its code, flags, the lines
that are left. -/
structure MaintSt where
  busy : Bool
  overrun : Bool
  bad : Bool
  written : Nat
  skipped : Nat
  op : Nat
  incl : Bool
  first : Nat
  count : Nat
  deriving DecidableEq, Repr

def MaintSt.reset : MaintSt :=
  { busy := false, overrun := false, bad := false, written := 0, skipped := 0, op := 0, incl := false, first := 0, count := 0 }

/-- The L2 of a bench with its registers (R436 to R444, R489). -/
structure L2St where
  lines : Tbl L2Line
  side : List Nat
  ctl : CacheSt
  disableReq : Bool
  pfDisable : Bool
  lockable : Byte
  lockLease : Word
  lock : Byte
  age : Nat
  op : MaintSt
  errData : Nat
  errTag : Nat
  errUnc : Nat
  snoops : Nat
  deferredN : Nat
  stale : Nat
  deriving DecidableEq, Repr

def L2St.reset : L2St :=
  { lines := [], side := [], ctl := .enabled, disableReq := false, pfDisable := false, lockable := 0, lockLease := 0,
    lock := 0, age := 50, op := MaintSt.reset, errData := 0, errTag := 0, errUnc := 0, snoops := 0, deferredN := 0,
    stale := 0 }

/-- What a request asks of a home node (R450), with its own evictions, zeroing and rebuilds. -/
inductive ReqOp where
  | rdS | rdX | upg | mntC | mntI | mntCI | ioRd | ioWr | wbM | evE | dirEvict | zero | rebuild
  deriving DecidableEq, Repr

/-- A request at a home node (R450, R451): the message, the line, the requester and its lease, the flags SELF and
INCL_LOCKED, and for IoWr and WbM the byte mask, data and poison mark. -/
structure HReq where
  op : ReqOp
  n : Nat
  src : Nat
  lease : Nat
  self : Bool
  incl : Bool
  mask : BitVec 256
  data : Line
  poison : Bool
  deriving DecidableEq, Repr

/-- A directory entry (R448, R464): the owner, whether it is an owner in O, the sharers in ascending order, the lease of
R429, and when the entry was last used. -/
structure DirEnt where
  owner : Option Nat
  ownerO : Bool
  sharers : List Nat
  lease : Nat
  lastUse : Nat
  deriving DecidableEq, Repr

/-- A line of an L3 slice (R403): data, poison mark, dirty, its way, when it turned dirty and was last used. -/
structure L3Line where
  data : Line
  poison : Bool
  dirty : Bool
  way : Nat
  dirtySeq : Nat
  lastUse : Nat
  deriving DecidableEq, Repr

/-- The transient home states (R464). -/
inductive HSt where
  | hr | hs | hw | hd
  deriving DecidableEq, Repr

/-- What a finished write answers (R467, the HW row). -/
inductive HAfter where
  | wbAck | ioAck | mntAck | grantS | stable
  deriving DecidableEq, Repr

/-- A line that a home node serves: the request, its state, the snoop responses still awaited, whether a read or a
MirAck is outstanding, the newest data seen and whether dirty data was left by a responder now I, the directory state
when it began, the time at which waiting ends (R468). -/
structure HTxn where
  req : HReq
  st : HSt
  awaited : List Nat
  sent : SnpOp
  readPend : Bool
  mirPend : Bool
  newest : Option (Line × Bool)
  dirtyOrphan : Bool
  dirtySeen : Bool
  upgHolder : Bool
  toMem : Bool
  after : HAfter
  deadline : Nat
  deriving DecidableEq, Repr

/-- `HN_STATUS.STATE` (R487). -/
inductive HomeState where
  | serving | takingOver | covering
  deriving DecidableEq, Repr

/-- A mirror held in pair ways (R471): its owner home, data and poison mark. -/
structure Mirror where
  owner : Nat
  data : Line
  poison : Bool
  deriving DecidableEq, Repr

/-- A home node with its L3 slice and registers (R436 to R444, R486 to R489). `waitDir` holds the requests that wait for a directory
eviction to make room for their entry (R448). -/
structure Home where
  st : HomeState
  lost : Bool
  covered : BitVec 16
  buddy : Nat
  mirrorFlag : Bool
  mirrorMode : Nat
  dir : Tbl DirEnt
  txns : Tbl HTxn
  queues : Tbl (List HReq)
  l3 : Tbl L3Line
  pair : Tbl Mirror
  pairWays : Nat
  ctl : CacheSt
  disableReq : Bool
  op : MaintSt
  errData : Nat
  errTag : Nat
  errUnc : Nat
  staleN : Nat
  evictN : Nat
  timeoutN : Nat
  protoN : Nat
  takeoverUs : Nat
  takeoverOf : Nat
  takeoverAt : Nat
  heldReqs : List HReq
  waitDir : List HReq
  reports : Tbl (List (Nat × Report))
  deriving DecidableEq, Repr

def Home.reset : Home :=
  { st := .serving, lost := false, covered := 0, buddy := 0, mirrorFlag := false, mirrorMode := 0, dir := [], txns := [],
    queues := [], l3 := [], pair := [], pairWays := 0, ctl := .enabled, disableReq := false, op := MaintSt.reset,
    errData := 0, errTag := 0, errUnc := 0, staleN := 0, evictN := 0, timeoutN := 0, protoN := 0, takeoverUs := 0,
    takeoverOf := 0xFF, takeoverAt := 0, heldReqs := [], waitDir := [], reports := [] }

/-- A coherence message in the mesh (R450), as its sender placed it. -/
inductive Msg where
  | req (h : Nat) (r : HReq)
  | done (h : Nat) (n : Nat) (b : Nat)
  | snp (b : Nat) (op : SnpOp) (n : Nat) (maint incl : Bool)
  | rsp (h : Nat) (kind : Nat) (n : Nat) (b : Nat) (d : Option (Line × Bool))
  | data (b : Nat) (kind : Nat) (n : Nat) (d : Line) (poison : Bool)
  | ack (dst : Nat) (kind : Nat) (n : Nat)
  | ioData (dst : Nat) (n : Nat) (d : Line) (poison : Bool)
  | mir (h : Nat) (n : Nat) (owner : Nat) (d : Line) (poison : Bool)
  | mirRel (h : Nat) (n : Nat)
  | mirAck (h : Nat) (n : Nat)
  | homeLost (h : Nat)
  | shareOpen (h : Nat)
  deriving DecidableEq, Repr

/-! ## Memory (R490 to R539) -/

/-- A request in a channel's queue (R522 to R526): the piece it names, its port, lease, source, arrival, deadline and
latency target, page hint. -/
structure PReq where
  n : Nat
  pos : Nat
  port : Nat
  lease : Nat
  src : Nat
  seq : Nat
  deadline : Nat
  target : Nat
  hint : Bool
  deriving DecidableEq, Repr

/-- A write that the seam has accepted; `left` holds its pieces that still stand in the channels' write queues, each by its subchannel
(channel × 2 + subchannel; R498, R525). -/
structure WReq where
  n : Nat
  data : Line
  poison : Bool
  seq : Nat
  left : List (Nat × PReq)
  deriving DecidableEq, Repr

/-- The pieces of a line read under way: those still to be fetched (as channel × 2 + subchannel, with the position), and
those that proved uncorrectable or missing (R499), and the one whose rebuild is counted when the other four prove good (R500: its channel,
its position). -/
structure LineRead where
  need : List (Nat × Nat)
  bad : List Nat
  parity : Bool
  unc : Option (Nat × Nat)
  deriving DecidableEq, Repr

/-- `MCH_STATUS.PHASE` (R537). -/
inductive Phase where
  | reset | training | running | selfRefresh | retraining | catchUp | poweredOff | failed
  deriving DecidableEq, Repr

/-- A subchannel of a memory channel (R490, R523 to R527): its queued reads, whether it drains writes, its postponed refreshes, the bank that
a same-bank refresh takes next, the open row and last touch of each bank, and its ledger (R539). -/
structure SubSt where
  reads : List PReq
  draining : Bool
  postponed : Nat
  refBank : Nat
  openRows : Tbl (Nat × Nat)
  ledgerIn : Nat
  ledgerOut : Nat
  deriving DecidableEq, Repr

def SubSt.reset : SubSt :=
  { reads := [], draining := false, postponed := 0, refBank := 0, openRows := [], ledgerIn := 0, ledgerOut := 0 }

/-- A memory channel: its registers (R535 to R539), its role (R42), power and presence (R510, R511), the steps of the entry into self-refresh
(R528), since when a retraining is due (R521), the DIMMs' data and the trained lanes (R519, R538), the errors counted towards a failure (R500,
R502), and its subchannels. -/
structure Chan where
  phase : Phase
  offline : Bool
  draining : Bool
  role : Nat
  powered : Bool
  present : Bool
  presentSince : Nat
  trained : Bool
  srStep : Nat
  dueSince : Option Nat
  temp : Nat
  tempAtTrain : Nat
  lastTrain : Nat
  lastCmd : Nat
  cmdResult : Nat
  dimm0 : Option Spd
  dimm1 : Option Spd
  lanes : List Lane
  oldLanes : List Lane
  timeouts : Nat
  caParity : Nat
  uncLines : List (Nat × Nat)
  corrected : Nat
  uncorrectable : Nat
  caErrors : Nat
  retrainings : Nat
  pwrOnAt : Nat
  sub0 : SubSt
  sub1 : SubSt
  deriving DecidableEq, Repr

def Chan.reset : Chan :=
  { phase := .reset, offline := false, draining := false, role := 0, powered := false, present := false, presentSince := 0,
    trained := false, srStep := 0, dueSince := none, temp := 0, tempAtTrain := 0, lastTrain := 0, lastCmd := 0, cmdResult := 0, dimm0 := none,
    dimm1 := none, lanes := [], oldLanes := [], timeouts := 0, caParity := 0, uncLines := [], corrected := 0,
    uncorrectable := 0, caErrors := 0, retrainings := 0, pwrOnAt := 0, sub0 := SubSt.reset, sub1 := SubSt.reset }

/-- `SEAM_STATUS.STATE` (R504, R539). -/
inductive SeamState where
  | complete | degraded | rebuilding | catchUp | failed
  deriving DecidableEq, Repr

/-- A seam (R493, R504 to R518, R539); `members` holds channel × 2 + subchannel for each position, `map` the marked
catch-up regions, `w` the watermark, `sweep` the next line of the catch-up sweep. -/
structure Seam where
  st : SeamState
  members : List Nat
  missing : Option Nat
  target : Option Nat
  w : Nat
  rate : Nat
  map : List Nat
  sweep : Option Nat
  rebuilds : Nat
  lost : Nat
  deriving DecidableEq, Repr

def Seam.reset : Seam :=
  { st := .complete, members := [], missing := none, target := none, w := 0, rate := 0, map := [], sweep := none,
    rebuilds := 0, lost := 0 }

/-- Main memory: the bytes (canonical: addresses rising, no byte 0, since an unlisted byte reads 0, log entry 8), the
poisoned lines in ascending order, the accepted writes that the channels still hold, the reads under way. -/
structure Memory where
  cells : List Host.Cell
  poisoned : List Nat
  writes : List WReq
  reads : Tbl LineRead
  lines : Nat
  seq : Nat
  deriving DecidableEq, Repr

def Memory.reset : Memory := { cells := [], poisoned := [], writes := [], reads := [], lines := 0, seq := 0 }

/-! ## Modes and recoveries (R26 to R41, R814) -/

/-- The eight modes, in the order of their codes. -/
inductive Mode where
  | bare | training | loading | service | rework | hold | test | checkStop
  deriving DecidableEq, Repr

/-- A fault whose recovery needs reconfiguration (R814), as the recovery names it. -/
inductive FaultEv where
  | engine (e : Nat)
  | bench (b : Nat) (alive : Bool)
  | home (h : Nat)
  | tile (t : Nat)
  | hub (h : Nat)
  | meshLink (l : Nat)
  | chan (m : Nat) (trigger : Nat)
  deriving DecidableEq, Repr

/-- The mode machine: the fields of `MODE` (R26), the recoveries that run with whether each is done (R814, R828), the
faults that wait for the end of Hold (R32) and those found whose recovery has not begun, the condition of Check-stop, the channels that
Hold placed in self-refresh with the phase that each returns to (R34, R35). -/
structure ModeSt where
  st : Mode
  prior : Mode
  transit : Bool
  recPending : Bool
  cause : Nat
  testAllowed : Bool
  verified : Bool
  recoveries : List (FaultEv × Bool)
  deferred : List FaultEv
  found : List FaultEv
  foundAt : List (FaultEv × Nat)
  entered : Nat
  holdStart : Option Nat
  stopCause : Nat
  dump : Bytes
  srChans : Tbl Phase
  deriving DecidableEq, Repr

def ModeSt.reset : ModeSt :=
  { st := .bare, prior := .bare, transit := false, recPending := false, cause := 0x01, testAllowed := true,
    verified := false, recoveries := [], deferred := [], found := [], foundAt := [], entered := 0, holdStart := none, stopCause := 0,
    dump := [], srChans := [] }

/-- The error logs (R791, R792, R830), the fault registers of the module block (R828, R829), the record that `ERR_SELECT` loaded
(R830), the test log (R28). -/
structure ErrSt where
  index : Nat
  retained : List ErrRec
  hubLogs : List (List ErrRec)
  suppress : Tbl Suppress
  select : Nat
  ledgerBad : Bool
  tilesLost : List Nat
  policy : Nat
  loaded : Bytes
  testLog : List ErrRec
  deriving DecidableEq, Repr

def ErrSt.reset : ErrSt :=
  { index := 0, retained := [], hubLogs := [[], []], suppress := [], select := 0, ledgerBad := false, tilesLost := [],
    policy := 0x40, loaded := List.replicate 128 0, testLog := [] }

/-- A notification kept until it is answered (R83): its sequence number (0 while no session is open), content code and
bytes, when it was last sent and how often. -/
structure Notify where
  seq : Nat
  content : Nat
  body : Bytes
  sentAt : Nat
  sends : Nat
  deriving DecidableEq, Repr

/-- How a Helar datagram is addressed (R577, R636, R638): link, destination MAC, VLAN (0 untagged), addresses and UDP ports. -/
structure UdpTo where
  link : Nat
  mac : Nat
  vlan : Nat
  src : Bytes
  dst : Bytes
  sport : Nat
  dport : Nat
  deriving DecidableEq, Repr

/-- What the module puts out at its lands and ports: the model's own record of it, newest last (log entry 5). -/
inductive Out where
  | svc (p : Port) (type : Nat) (h : SvcHdr) (payload : Bytes)
  | frame (link : Nat) (bytes : Bytes)
  | pause (link : Nat) (pfc : Bool) (quanta : Nat)
  | datagram (path : Nat) (dest : UdpTo) (bytes : Bytes)
  | cfgRead (port : Nat) (addr : Nat)
  | cfgWrite (port : Nat) (addr : Nat) (v : Nat)
  | dmaAnswer (port : Nat) (rid : Nat) (ok : Bool) (data : Bytes)
  | nvme (path : Nat) (slot : Nat) (step : Nat) (cmd : Bytes)
  | nvmeAdmin (path : Nat) (what : String)
  | ptpDelayReq (link : Nat) (seq : Nat) (stamp : Word)
  | land (n : Nat) (level : Bool)
  | ctlRead (addr : Nat) (v : Word)
  deriving DecidableEq, Repr

/-! ## Channel transactions (R540 to R588) -/

/-- The states of a transaction (R561). -/
inductive TxnSt where
  | submitted | journalled | issued | awaiting | held | completed | reported
  deriving DecidableEq, Repr

/-- What a journal entry and a slot-table entry say of a transaction (R558, R560), and what its channel processor keeps. -/
structure TxnId where
  num : Word
  lease : Nat
  ep : Nat
  tag : Word
  accepted : Word
  progVa : Nat
  progPa : Nat
  ringRec : Nat
  steps : Nat
  ordered : Bool
  deadline : Word
  submitter : Nat
  deriving DecidableEq, Repr

/-- A slot of the channel transactions (R549, R554, R561 to R572): the identity, the state, whether it was ever issued, whether the partner may
hold it, whether it goes to the sump and why, its path and redrives, its processor, the steps done and outstanding, the outcome that its record
will give, the generation of its controller, and since when it waits. -/
structure Txn where
  id : TxnId
  st : TxnSt
  everIssued : Bool
  heldInPartner : Bool
  toSump : Bool
  sumpReason : Nat
  path : Nat
  redrives : Nat
  cp : Nat
  done : Nat
  status : Nat
  outcome : Nat
  partnerStatus : Nat
  gen : Nat
  writes : Nat
  reserved : Bool
  waitSince : Nat
  awaitSince : Nat
  outSteps : List Nat
  order : Nat
  sumpWaiting : Bool
  deriving DecidableEq, Repr

/-- The ring of an endpoint as the module keeps it (R547, R548): TAIL and the last accepted HEAD. -/
structure RingSt where
  tail : Nat
  head : Nat
  deriving DecidableEq, Repr

/-- A segment sent and not acknowledged (R622 to R624), or one that waits for the window; `txn` is the slot plus one. -/
structure Seg where
  seq : Nat
  type : Nat
  flags : Nat
  body : Bytes
  sentAt : Nat
  timeout : Nat
  count : Nat
  txn : Nat
  deriving DecidableEq, Repr

/-- The Helar association of a path (R614 to R627). -/
structure HelarSt where
  token : Nat
  peerToken : Nat
  version : Nat
  mask : Nat
  payload : Nat
  window : Nat
  keepaliveMs : Nat
  rtoUs : Nat
  txNext : Nat
  rxNext : Nat
  unacked : List Seg
  queue : List Seg
  kept : Tbl (Nat × Bytes)
  partial_ : Bytes
  inMsg : Bool
  lastRx : Nat
  lastTx : Nat
  ackDue : Option Nat
  capAt : Nat
  deriving DecidableEq, Repr

def HelarSt.reset : HelarSt :=
  { token := 0, peerToken := 0, version := 0, mask := 0, payload := 0, window := 0, keepaliveMs := 0, rtoUs := 0, txNext := 0,
    rxNext := 0, unacked := [], queue := [], kept := [], partial_ := [], inMsg := false, lastRx := 0, lastTx := 0,
    ackDue := none, capAt := 0 }

/-- `CHN_PATH_STATUS.STATE` (R542, R585). -/
inductive PathState where
  | offline | establishing | operational | failed | draining
  deriving DecidableEq, Repr

/-- A channel path (R540 to R543, R585): its state, its Helar association, its NVMe controller's generation and reset. -/
structure Path where
  st : PathState
  reason : Nat
  lastOp : Nat
  estAt : Nat
  helar : HelarSt
  gen : Nat
  ready : Bool
  resetting : Bool
  resetAt : Nat
  lbaShift : Nat
  deriving DecidableEq, Repr

def Path.reset : Path :=
  { st := .offline, reason := 0, lastOp := 0, estAt := 0, helar := HelarSt.reset, gen := 0, ready := false, resetting := false, resetAt := 0, lbaShift := 9 }

/-- The channel subsystem: slots, rings, paths and the registers of R580 to R584. -/
structure ChnSt where
  txns : Tbl Txn
  rings : Tbl RingSt
  paths : Tbl Path
  jrn : Word
  jrnMove : Option Nat
  epoch : Nat
  serial : Nat
  journal : Nat
  sump : Word
  sumpTail : Nat
  sumpHead : Nat
  sumpLost : Bool
  queue : Word
  redriveN : Nat
  stray : Nat
  nvmeResets : Nat
  adoptions : Nat
  ledgerIn : Nat
  ledgerOut : Nat
  order : Nat
  deriving DecidableEq, Repr

def ChnSt.reset : ChnSt :=
  { txns := [], rings := [], paths := [], jrn := 0, jrnMove := none, epoch := 0, serial := 0, journal := 0, sump := 0, sumpTail := 0,
    sumpHead := 0, sumpLost := false, queue := 0, redriveN := 0, stray := 0, nvmeResets := 0, adoptions := 0,
    ledgerIn := 0, ledgerOut := 0, order := 0 }

/-! ## Links and PCIe ports (R589 to R644) -/

/-- `LINK_STATUS.STATE` (R592, R641). -/
inductive LinkState where
  | offline | training | up | down | failed
  deriving DecidableEq, Repr

/-- The virtual counts V of a unit that serves leases in turn, and the leases that were eligible at its last choice (R736). -/
structure Fair where
  v : Tbl Rat
  elig : List Nat
  deriving DecidableEq, Repr

/-- An Ethernet link: its registers (R639 to R642), its rules as written (R596), the shares' counts V (R736), the queue that
each lease sends next (R606), until when the partner's flow control holds each priority (R641), and the MAC addresses it has resolved (R595). -/
structure LinkSt where
  st : LinkState
  cmd : Nat
  since : Nat
  attempts : Nat
  pausedTill : List Nat
  rules : Tbl Word
  rxbuf : Word
  mcast : Word
  rx : Nat
  tx : Nat
  drops : List Nat
  fair : Fair
  nextQ : Tbl Nat
  pauseAt : Nat
  arp : Tbl Nat
  deriving DecidableEq, Repr

def LinkSt.reset : LinkSt :=
  { st := .offline, cmd := 0, since := 0, attempts := 0, pausedTill := [], rules := [], rxbuf := 0, mcast := 0, rx := 0, tx := 0,
    drops := [0, 0, 0, 0, 0, 0, 0], fair := { v := [], elig := [] }, nextQ := [], pauseAt := 0, arp := [] }

/-- A frame queue as the module keeps it (R599, R603, R644): DONE, the last accepted POSTED, descriptors not yet signalled and
when the first of them was completed, its counters, the POSTED value at which a quiesce stops it. -/
structure FqSt where
  done : Nat
  posted : Nat
  unsignalled : Nat
  firstAt : Nat
  completed : Nat
  dropped : Nat
  stopAt : Option Nat
  deriving DecidableEq, Repr

def FqSt.reset : FqSt := { done := 0, posted := 0, unsignalled := 0, firstAt := 0, completed := 0, dropped := 0, stopAt := none }

/-- A downstream link of a PCIe port (R643). -/
structure DownLink where
  st : Nat
  speed : Nat
  width : Nat
  deriving DecidableEq, Repr

/-- A PCIe root port (R608 to R613, R639, R643). -/
structure PcieSt where
  links : Vector DownLink 4
  cfgAddr : Word
  cfgFailed : Bool
  cfgData : Word
  corr : Nat
  uncorr : Nat
  dmaFaults : Nat
  msixDrops : Nat
  deriving DecidableEq, Repr

def PcieSt.reset : PcieSt :=
  { links := Vector.replicate 4 { st := 0, speed := 0, width := 0 }, cfgAddr := 0, cfgFailed := false, cfgData := 0, corr := 0,
    uncorr := 0, dmaFaults := 0, msixDrops := 0 }

/-! ## Crushers and cipher engines (R645 to R716) -/

/-- A job of a crusher (kind 0) or of a cipher engine or public-key unit (kind 1): when it was accepted, whose it is, the unit
(cipher: 8 and 9 are the public-key units), the slot it holds, its descriptor as read, its progress (R666, R673), its place in
the output chain (the next entry, where the next byte goes, the bytes left of that buffer), the input taken so far and the context of a cipher job, the status it ended with and where its record goes. -/
structure Job where
  kind : Nat
  num : Nat
  lease : Nat
  queue : Nat
  unit : Nat
  reserved : Bool
  desc : Bytes
  begun : Bool
  restarted : Bool
  consumed : Nat
  written : Nat
  slabs : Nat
  lastSeen : Bool
  chainIdx : Nat
  outAddr : Nat
  outLeft : Nat
  buf : Bytes
  ctx : Option Nat
  seqField : Nat
  ctype : Nat
  ended : Option Nat
  sump : Option Nat
  stop : Bool
  by_ : Nat
  deriving DecidableEq, Repr

/-- A crusher, cipher engine or public-key unit: the job at work, the counts V (R736), the queue of each lease that it served
last (R673), the last command and the counters of R689 and R715. -/
structure WorkUnit where
  run : Option Nat
  fair : Fair
  turn : Tbl Nat
  cmd : Nat
  counts : List Nat
  failed : Bool
  deriving DecidableEq, Repr

def WorkUnit.reset : WorkUnit :=
  { run := none, fair := { v := [], elig := [] }, turn := [], cmd := 0, counts := [0, 0, 0, 0, 0, 0], failed := false }

/-- A resident context (R693, R696): its 256 bytes and when a job last used it. -/
structure CtxEnt where
  data : Bytes
  lastUse : Nat
  deriving DecidableEq, Repr

/-- The crusher and cipher queues and the context store: open jobs by number, the job counter (R711), rings, slot ledgers
(R824), the resident contexts by table index (both halves hold the same, R696), the context key, `CTX_TABLE`, the mirror
state, the lost half and the store's ledger. -/
structure JobsSt where
  jobs : Tbl Job
  next : Nat
  crush : Tbl WorkUnit
  ciph : Tbl WorkUnit
  rings : Tbl RingSt
  ledgers : Tbl (Nat × Nat)
  ctx : Tbl CtxEnt
  ctxKey : Bytes
  settKey : Word
  ctxTable : Word
  mirror : Nat
  halfLost : Option Nat
  ctxIn : Nat
  ctxOut : Nat
  deriving DecidableEq, Repr

def JobsSt.reset : JobsSt :=
  { jobs := [], next := 1, crush := [], ciph := [], rings := [], ledgers := [], ctx := [], ctxKey := List.replicate 32 0, settKey := 0,
    ctxTable := 0, mirror := 0, halfLost := none, ctxIn := 0, ctxOut := 0 }

/-! ## Engines and benches (R142 to R399) -/

/-- The states of a bank (R318); the level-3 bank is Empty, or Running, which is `ready` (R320). -/
inductive BankSt where
  | empty | ready | waiting | exception | saving
  deriving DecidableEq, Repr

/-- An entry of a result queue (R171, R172): the operation that it belongs to, whether the result has come, its two halves, its
marks (R175), the flags that the FPU raises when the operation completes, and whether it needs the unit's iterative array. -/
structure QEnt where
  op : Nat
  ready : Bool
  lo : Word
  hi : Word
  poison : Bool
  trap : Bool
  flags : Nat
  iter : Bool
  deriving DecidableEq, Repr

/-- What a memory operation does (R234, R241); `maint` holds 0 CLEAN, 1 INVAL, 2 CLINV; `mac` says whether it fetches y. -/
inductive MemKind where
  | load (sgn : Bool) | ldx | store | stx | swap | cas | fadd | fand | forOp | fxor | fence | isync | maint (code : Nat)
  | mac (y : Bool)
  deriving DecidableEq, Repr

/-- A memory operation in flight (R166, R236): its number in trigger order, the level and unit (0 LSU0, 1 LSU1, 2 MAC), the
address and size, data and expected value, and the number of the queue entry that takes its result (0 for none). -/
structure MemOp where
  id : Nat
  lv : Nat
  unit : Nat
  kind : MemKind
  lease : Nat
  pa : Nat
  size : Nat
  data : Word
  exp : Word
  entry : Nat
  deriving DecidableEq, Repr

/-- A MAC operation that the accumulator has not taken yet (R242): 0 SMAC, 1 UMAC, 2 SMAC32, 3 SADD, 4 CLR, 5 and 6 a write of
ACC_LO or ACC_HI; the numbers of the fetches that it awaits, and the elements that have come. -/
structure MacOp where
  code : Nat
  a : Word
  waitX : Option Nat
  waitY : Option Nat
  x : Word
  y : Word
  poison : Bool
  deriving DecidableEq, Repr

/-- A task that is in no bank (R321 to R325): an entry of a bench queue or wait table. A fresh one holds the fields of its
descriptor; a resume entry the first sett of its chain and the kind of its save area (0 reserve, 1 home chain, 2 setts of the
pool), the wake-pending bit, the wait mask and its timers; both hold the vector that placed the task (R779) and how many setts of
the pool the task holds. -/
structure QTask where
  fresh : Bool
  lease : Nat
  level : Nat
  task : Nat
  pc : Word
  dsBase : Word
  dsLimit : Word
  arg : Word
  area : Nat
  kind : Nat
  wake : Bool
  mask : Nat
  vector : Option Nat
  setts : Nat
  d0 : Word
  d1 : Word
  armed : Nat
  deriving DecidableEq, Repr

/-- One level of an engine: the bank (R293), its transport record (R203), return stack (R248, newest last), data-stack cache
(R246, top first, with a dirty mark), result queues by unit (0 MUL, 1 DIV, 2 FPU, 3 CX, 4 LSU0, 5 LSU1), MAC operations, the
scheduling point that it stands at with the time until which the level may settle (R318), the end of its grace (R318),
ownership of timer 1 (R254), the ring in flight (R258; its code and, times 8, the number of the first operation after it, then ARG and A), the SAVE operation or CX routine at work (R251, R262) with the jump of its bundle, where the lines that a MOVE has not yet covered begin (R427), what a stalled
bundle waits for (R246, R248), a fault that its next attempt raises (cause, detail, address), and its task's vector and setts, and the sett that
a suspended SAVE has taken (R378; 0 for none). -/
structure Bank where
  st : BankSt
  g : Vector Word 32
  c : Vector Word 16
  t : Vector Word 24
  rstk : List Word
  dc : List (Word × Bool)
  queues : Tbl (List QEnt)
  macq : List MacOp
  point : Option Nat
  graceAt : Option Nat
  owns1 : Bool
  ring : Option (Nat × Word × Word)
  save : Option (Nat × Word)
  cx : Option (Nat × Word)
  jmp : Option Nat
  dfill : Nat
  cxFrom : Nat
  spill : Bool
  fill : Bool
  fault : Option (Nat × Nat × Nat)
  vector : Option Nat
  setts : Nat
  taken : Nat
  saved : Option QTask
  deriving DecidableEq, Repr

def Bank.reset : Bank :=
  { st := .empty, g := Vector.replicate 32 0, c := (Vector.replicate 16 0).set 1 0x100, t := Vector.replicate 24 0, rstk := [], dc := [], queues := [],
    macq := [], point := none, graceAt := none, owns1 := false, ring := none, save := none, cx := none, jmp := none, dfill := 0, cxFrom := 0, spill := false,
    fill := false, fault := none, vector := none, setts := 0, taken := 0, saved := none }

/-- The sequencer of a control store (R355, R358): the micro-address of the next word, that of the last TP word, the return address. -/
structure MicroSeq where
  addr : Nat
  tp : Nat
  ret : Nat
  deriving DecidableEq, Repr

def MicroSeq.reset : MicroSeq := { addr := 0, tp := 0, ret := 0 }

/-- An engine: its levels, translation buffer and the walks it waits for (level, lease, address; R729), failed walks not yet used by the bundle that
asked (level, lease, address, detail), memory operations, the iterative arrays (unit, level, operation), the exception
registers (R186 to R194) with EXC_CAUSE, EXC_PC, EXC_ADDR and the level whose exception is pending, the level-3 stack (R349),
CTL.CYCLES as last read, retries (R796), the lines fetched ahead (R170), the line that a stalled fetch awaits and one that came poisoned, the L1 control and error registers (R442, R444), the address streams that its bench's prefetcher follows for it (last line and stride, R405), the steal it
has found with the minimum that it went by and the end of its parking (R333), the event that level 3 handles, whether it is parked or has stopped, and the sequencer of its
control store. -/
structure Eng where
  lv : Vector Bank 4
  tlb : List TlbEntry
  walks : List (Nat × Nat × Nat)
  xfails : List (Nat × Nat × Nat × Nat)
  memops : List MemOp
  nextOp : Nat
  arrays : Tbl (Nat × Nat)
  vec : Word
  last : Word
  lastPc : Word
  excCount : Nat
  cause : Word
  excPc : Word
  excAddr : Word
  excLevel : Option Nat
  l3Base : Word
  l3Limit : Word
  cycles : Word
  retryN : Nat
  retryAt : List Nat
  ahead : List (Nat × Line)
  fetch : Option Nat
  badFetch : Option Nat
  l1dOff : Bool
  l1iOff : Bool
  l1Errs : List Nat
  streams : List (Nat × Int)
  probe : Option (Nat × Nat)
  parkedTill : Option Nat
  l3Event : Option WaitEntry
  doubleFault : Bool
  useq : MicroSeq
  deriving DecidableEq, Repr

def Eng.reset : Eng :=
  { lv := Vector.replicate 4 Bank.reset, tlb := [], walks := [], xfails := [], memops := [], nextOp := 1, arrays := [], vec := 0,
    last := 0, lastPc := 0, excCount := 0, cause := 0, excPc := 0, excAddr := 0, excLevel := none, l3Base := 0, l3Limit := 0,
    cycles := 0, retryN := 0, retryAt := [], ahead := [], fetch := none, badFetch := none, l1dOff := false, l1iOff := false, l1Errs := [0, 0, 0], streams := [], probe := none,
    parkedTill := none, l3Event := none, doubleFault := false, useq := MicroSeq.reset }

/-- A bench's scheduler (R306, R323, R325, R344 to R346): its control register, queue (oldest first), wait table, the leases it
served last with the setts that it stocks for them (newest first), and its steal counts. -/
structure Bench where
  ctl : Word
  queue : List QTask
  waiting : List QTask
  stock : List (Nat × List Nat)
  taken : Nat
  stolen : Nat
  deriving DecidableEq, Repr

def Bench.reset : Bench := { ctl := 0x00140200, queue := [], waiting := [], stock := [], taken := 0, stolen := 0 }

/-- A control store (R353, R356, R357, R396 to R399): its patch RAM (none for all zeros) with the check bits of its words, the match
registers that are valid, as (register, patch index, ROM address), what `MC_STATUS` shows, and the error counts. -/
structure StoreSt where
  ram : Bytes
  check : Bytes
  matches_ : List (Nat × Nat × Nat)
  set : Nat
  bundle : Nat
  loaded : Bool
  tries : Nat
  errs : List Nat
  deriving DecidableEq, Repr

def StoreSt.reset : StoreSt := { ram := [], check := [], matches_ := [], set := 0, bundle := 0, loaded := false, tries := 0, errs := [0, 0, 0] }

/-! ## Clock domains (R831 to R842, R859) -/

/-- A clock domain: its frequency in MHz, last sensor reading, whether R835 has lowered it, when it last lowered or raised, whether it
tripped (R836). -/
structure Dom where
  mhz : Nat
  temp : Nat
  throttled : Bool
  loweredAt : Option Nat
  raisedAt : Option Nat
  tripped : Bool
  lost : Bool
  deriving DecidableEq, Repr

def Dom.reset : Dom := { mhz := 0, temp := 0, throttled := false, loweredAt := none, raisedAt := none, tripped := false, lost := false }

/-! ## Fuses, flash, the service session and the loader (R50 to R90, R91 to R141, R367 to R395) -/

/-- A field of a fuse-block copy that is not a bit: its bytes, and whether the check code that the copy carries for it passes (R823). -/
structure FuseField where
  bytes : Bytes
  ok : Bool
  deriving DecidableEq, Repr

/-- One copy of the fuse block (R17, R85, R96, R97, R361, R362): the test fuse, the revocation bits of the image-key and vendor-key slots,
and the other fields: the identity, the base MAC address, the digests of the four image-key and the two vendor-key slots, the patch key. -/
structure FuseCopy where
  test : Bool
  image : List Bool
  vendor : List Bool
  ident : FuseField
  mac : FuseField
  imageKeys : List FuseField
  vendorKeys : List FuseField
  patchKey : FuseField
  deriving DecidableEq, Repr

/-- A field as programmed for the order (R861): `Config.fuseByte` numbers the bytes of the fields (log entry 46). -/
def FuseField.programmed (off len : Nat) : FuseField := { bytes := (List.range len).map (fun i => Config.fuseByte (off + i)), ok := true }

def FuseCopy.reset : FuseCopy :=
  { test := false, image := [false, false, false, false], vendor := [false, false], ident := FuseField.programmed 0 16,
    mac := FuseField.programmed 16 6, imageKeys := (List.range 4).map (fun n => FuseField.programmed (28 + 48 * n) 48),
    vendorKeys := (List.range 2).map (fun n => FuseField.programmed (220 + 48 * n) 48), patchKey := FuseField.programmed 316 32 }

/-- A hub's boot flash (R50 to R55): whether it can be read, its density and page size, and its bytes, each inverted so that an
erased byte is not listed, with addresses rising. -/
structure FlashSt where
  present : Bool
  size : Nat
  page : Nat
  cells : List Host.Cell
  deriving DecidableEq, Repr

def FlashSt.reset : FlashSt := { present := true, size := 0x2000000, page := 256, cells := [] }

/-- A response that the module keeps (R67): the port, sequence number, type, status and payload. -/
structure Kept where
  port : Port
  seq : Nat
  type : Nat
  status : Nat
  body : Bytes
  deriving DecidableEq, Repr

/-- A request that is still being executed: an erase or a fuse blow (R81, R87), whose effect is taken when it begins (log entry 108): its
port, sequence number and type, the status and payload of its response, when the response leaves, whether it blows a fuse. -/
structure Running where
  port : Port
  seq : Nat
  type : Nat
  status : Nat
  body : Bytes
  till : Nat
  blow : Bool
  deriving DecidableEq, Repr

/-- The service cores (R56 to R89): whether the service domains are released, whether the cores stay in their ROM loader, cores lost
(R811), hubs whose service block returns (R813), what HELLO agreed on each port (major, minor, features), the session, the handover
token with its expiry, the kept responses, the requests still being executed, the fuse that is armed (code, challenge, time). -/
structure SvcSt where
  released : Bool
  releaseAt : Nat
  rom : Bool
  coresLost : List Nat
  returning : List Nat
  agreed : Tbl (Nat × Nat × Nat)
  owner : Option Port
  keepalive : Nat
  lastMsg : Nat
  token : Option (Word × Nat)
  kept : List Kept
  running : List Running
  armed : Option (Nat × Nat × Nat)
  deriving DecidableEq, Repr

def SvcSt.reset : SvcSt :=
  { released := false, releaseAt := 2000000, rom := false, coresLost := [], returning := [], agreed := [], owner := none, keepalive := 3000, lastMsg := 0,
    token := none, kept := [], running := [], armed := none }

/-- `LOAD_STATUS.STATE` (R126, R134). -/
inductive LState where
  | idle | staging | verifying | verified | checking | preparing | applying
  deriving DecidableEq, Repr

/-- A held patch bundle (R368): its sequence number, the vendor-key slot that verified it, its patch sets, whether it
came from flash (R370). -/
structure Bundle_ where
  seq : Nat
  key : Nat
  sets : List Bytes
  fromFlash : Bool
  deriving DecidableEq, Repr

/-- The loader (R111 to R137): the staging buffer with its target, the image at work and whether it came from flash, the kind that
IMAGE_LOAD expects, the quiesce timeout and its end (R113, R131), the candidate, what `IMAGE_ACTIVE` and `SECT_VERSION` show, the
last rejection, the patch bundles held the patch registers (R392 to R395), the states of the units
that a partial load holds, as they were (R105, R126). -/
structure LoadSt where
  st : LState
  stage : Bytes
  target : Nat
  image : Bytes
  flash : Bool
  expect : Nat
  timeoutNs : Nat
  deadline : Option Nat
  candidate : Option Bytes
  active : Word
  sectVer : Tbl Nat
  done : Nat
  record : Nat
  rejectN : Nat
  rejectCause : Nat
  reject : Bytes
  held : List (Option Bundle_)
  patchSt : Word
  progress : Word
  prior : Tbl UState
  deriving DecidableEq, Repr

def LoadSt.reset : LoadSt :=
  { st := .idle, stage := [], target := 0, image := [], flash := false, expect := 0, timeoutNs := 100000000, deadline := none, candidate := none, active := 0,
    sectVer := [], done := 0, record := 0, rejectN := 0, rejectCause := 0, reject := List.replicate 64 0, held := [none, none], patchSt := 0, progress := 0, prior := [] }

/-! ## Substrate links and lands (R807, R824, R833, R845 to R860) -/

/-- A substrate link (R807, R824): lost or not; by direction × 5 + virtual channel the failures of the transfer at its head, and
the credits of that channel's pool issued and returned (R20): those between are out. -/
structure SubLink where
  lost : Bool
  fails : Tbl Nat
  issued : Tbl Nat
  returned : Tbl Nat
  deriving DecidableEq, Repr

def SubLink.reset : SubLink := { lost := false, fails := [], issued := [], returned := [] }

/-- The lands and supplies (R833, R836, R847, R850, R851, R858): power-good levels, THERMTRIP_N driven low, the references that
have failed with the time since which both have, the lowerings counted, GPIO outputs and input levels, the lands that drive the
1 PPS pulse high with its end, the TAP's instruction. -/
structure PinSt where
  ao : Bool
  main : Bool
  thermtrip : Bool
  refBad : List Nat
  refBadAt : Option Nat
  throttles : Nat
  gpioOut : Nat
  gpioIn : Nat
  pps : List Nat
  ppsUntil : Nat
  tap : Nat
  deriving DecidableEq, Repr

def PinSt.reset : PinSt :=
  { ao := true, main := false, thermtrip := false, refBad := [], refBadAt := none, throttles := 0, gpioOut := 0, gpioIn := 0, pps := [], ppsUntil := 0,
    tap := 0 }

/-! ## The machine -/

/-- Everything but the queue of commands and the fuse block. `now` counts ns since power-on (the model's own clock for
deadlines, log entry 4), `freeIdx` numbers the free values used (log entry 2), `tick` numbers accesses for
replacement order; units are keyed by kind × 65,536 + index; engines, benches, leases and the like by number, with
their reset value where they are not listed. `resets` holds the units without microcode whose unit reset is under way, with the state that
each returns to (R41). -/
structure Mach where
  now : Nat
  freeIdx : Nat
  tick : Nat
  out : List Out
  mode : ModeSt
  units : Tbl UnitSt
  resets : Tbl UState
  errs : ErrSt
  notes : List Notify
  noteSeq : Nat
  noteDropped : Nat
  evt : EvtSt
  leases : Tbl Lease
  hubTlb : List (List TlbEntry)
  hubsLost : List Nat
  image : Tbl Bytes
  l2 : Tbl L2St
  homes : Tbl Home
  mesh : List Msg
  l1d : Tbl (List L1Way)
  l1i : Tbl (List (L1Way × Line))
  eside : Tbl (List Nat)
  resv : Tbl Nat
  crange : MaintSt
  crangeBase : Nat
  crangeLen : Nat
  mem : Memory
  chans : Tbl Chan
  seams : Tbl Seam
  ident : Bytes
  macBase : Nat
  answers : Tbl (Nat × Word)
  chn : ChnSt
  links : Tbl LinkSt
  fqs : Tbl FqSt
  pcie : Tbl PcieSt
  jobs : JobsSt
  engs : Tbl Eng
  benches : Tbl Bench
  stores : Tbl StoreSt
  microMask : Word
  doms : Tbl Dom
  svc : SvcSt
  load : LoadSt
  flash : Tbl FlashSt
  subs : Tbl SubLink
  pins : PinSt
  deriving DecidableEq, Repr

def Mach.reset : Mach :=
  { now := 0, freeIdx := 0, tick := 0, out := [], mode := ModeSt.reset, units := [], resets := [], errs := ErrSt.reset, notes := [],
    noteSeq := 0, noteDropped := 0, evt := EvtSt.reset, leases := [], hubTlb := [[], []], hubsLost := [], image := [], l2 := [], homes := [],
    mesh := [], l1d := [], l1i := [], eside := [], resv := [], crange := MaintSt.reset, crangeBase := 0, crangeLen := 0, mem := Memory.reset, chans := [], seams := [],
    ident := [], macBase := 0, answers := [], chn := ChnSt.reset, links := [], fqs := [], pcie := [], jobs := JobsSt.reset, engs := [], benches := [], stores := [],
    microMask := 0, doms := [], svc := SvcSt.reset, load := LoadSt.reset, flash := [], subs := [], pins := PinSt.reset }

/-- The state: the commands that wait, first in, first out; the two copies of the fuse block, which only a fuse blow changes; the
machine. -/
structure State where
  pending : List Instr
  fuse : FuseCopy × FuseCopy
  m : Mach
  deriving DecidableEq, Repr

def State.reset : State := { pending := [], fuse := (FuseCopy.reset, FuseCopy.reset), m := Mach.reset }

end Sys2Proof.Machine
end

