-- ==== Sys2Proof/Machine/Ops.lean ====
section
/-! DEFINITION. The shared operations: tables, bytes and bit fields, access to the parts of the state, free values, time
stamps (R761 to R771), error records (R788 to R794, R830), notifications (R82, R83), the raising of events, main memory. -/

namespace Sys2Proof.Machine

/-! ## Tables -/

/-- The value of a key, where it is listed. -/
def tfind {α : Type} (t : Tbl α) (k : Nat) : Option α :=
  match t with
  | [] => none
  | (k', v) :: r => if k' = k then some v else tfind r k

/-- The value of a key, or the default where it is not listed. -/
def tget {α : Type} (t : Tbl α) (k : Nat) (d : α) : α := (tfind t k).getD d

/-- The table with a key at a value; a listed key keeps its place. -/
def tset {α : Type} (t : Tbl α) (k : Nat) (v : α) : Tbl α :=
  match t with
  | [] => [(k, v)]
  | (k', v') :: r => if k' = k then (k, v) :: r else (k', v') :: tset r k v

/-- The table without a key. -/
def tdel {α : Type} (t : Tbl α) (k : Nat) : Tbl α := t.filter (fun p => p.1 != k)

/-- Element i of a list set to a value; the list is as it was where it has no such element. -/
def lset {α : Type} (l : List α) (i : Nat) (v : α) : List α := l.set i v

/-- An entry of a vector, `d` beyond its end; one entry replaced, nothing beyond the end; every entry changed; the entries given by their
places. -/
def vget {α : Type} {n : Nat} (v : Vector α n) (i : Nat) (d : α) : α := v.toList.getD i d
def vset {α : Type} {n : Nat} (v : Vector α n) (i : Nat) (x : α) : Vector α n := ⟨⟨v.toList.set i x⟩, by simp⟩
def vmap {α : Type} {n : Nat} (f : α → α) (v : Vector α n) : Vector α n := ⟨⟨v.toList.map f⟩, by simp⟩
def vof {α : Type} (n : Nat) (f : Nat → α) : Vector α n := ⟨⟨(List.range n).map f⟩, by simp⟩

/-! ## Numbers, bits and bytes -/

/-- Bits [hi:lo] of a number. -/
def bits (v hi lo : Nat) : Nat := (v / 2 ^ lo) % 2 ^ (hi + 1 - lo)

/-- Bit i of a number. -/
def bit (v i : Nat) : Bool := v / 2 ^ i % 2 == 1

/-- A Boolean as a number. -/
def b2n (b : Bool) : Nat := if b then 1 else 0

/-- A register word from its fields, each as (lowest bit, width, value); a value wider than its field is cut. -/
def packN (l : List (Nat × Nat × Nat)) : Nat := l.foldl (fun a f => a ||| ((f.2.2 % 2 ^ f.2.1) <<< f.1)) 0

def pack (l : List (Nat × Nat × Nat)) : Word := BitVec.ofNat 64 (packN l)

/-- Bits [hi:lo] of v replaced by x. -/
def setBits (v hi lo x : Nat) : Nat :=
  v / 2 ^ (hi + 1) * 2 ^ (hi + 1) + (x % 2 ^ (hi + 1 - lo)) * 2 ^ lo + v % 2 ^ lo

/-- A counter that stops at its largest value. -/
def sat (max v : Nat) : Nat := min max v

/-- A signed value from its two's complement in w bits. -/
def signed (w v : Nat) : Int := if v % 2 ^ w < 2 ^ (w - 1) then (v % 2 ^ w : Nat) else ((v % 2 ^ w : Nat) : Int) - (2 ^ w : Nat)

/-- The two's complement of a signed value in w bits. -/
def toTwos (w : Nat) (v : Int) : Nat := (v % ((2 ^ w : Nat) : Int)).toNat

/-- v in n little-endian bytes. -/
def le (n v : Nat) : Bytes :=
  match n with
  | 0 => []
  | k + 1 => BitVec.ofNat 8 v :: le k (v / 256)

/-- The number that little-endian bytes spell. -/
def leVal (b : Bytes) : Nat :=
  match b with
  | [] => 0
  | x :: r => x.toNat + 256 * leVal r

/-- v in n big-endian bytes. -/
def be (n v : Nat) : Bytes := (le n v).reverse

/-- The number that big-endian bytes spell. -/
def beVal (b : Bytes) : Nat := leVal b.reverse

/-- The len bytes from an offset; bytes beyond the end read as none. -/
def bslice (b : Bytes) (off len : Nat) : Bytes := (b.drop off).take len

/-- The little-endian field of len bytes at an offset; bytes beyond the end read as 0. -/
def fld (b : Bytes) (off len : Nat) : Nat := leVal (bslice b off len)

/-- The bytes cut or filled with zeros to a length. -/
def padTo (n : Nat) (b : Bytes) : Bytes := (b ++ List.replicate (n - b.length) 0).take n

/-- The bytes with a string written over them at an offset. -/
def patch (b : Bytes) (off : Nat) (x : Bytes) : Bytes := b.take off ++ x ++ b.drop (off + x.length)

/-- Every byte is 0. -/
def allZero (b : Bytes) : Bool := b.all (fun x => x == 0)

/-- The bytes of a line. -/
def lineBytes (d : Line) : Bytes := (List.range 256).map (fun i => (d >>> (8 * i)).setWidth 8)

/-- The line that bytes spell, the first byte lowest. -/
def lineOf (b : Bytes) : Line := b.foldr (fun x a => (a <<< 8) ||| x.setWidth 2048) 0

/-- Bits 8i to 8i+7 set for each bit i of a byte mask. -/
def maskLine (mask : BitVec 256) : Line :=
  (List.range 256).foldl (fun a i => if mask.getLsbD i then a ||| ((255 : Line) <<< (8 * i)) else a) 0

/-- A line with the masked bytes of another written over it. -/
def mergeLine (old new : Line) (mask : BitVec 256) : Line := (old &&& ~~~ maskLine mask) ||| (new &&& maskLine mask)

/-- The byte mask of len bytes from an offset. -/
def maskOf (off len : Nat) : BitVec 256 := BitVec.ofNat 256 ((2 ^ len - 1) * 2 ^ off)

/-- A value placed at a byte offset of a line. -/
def placeLine (off : Nat) (b : Bytes) : Line := lineOf b <<< (8 * off)

/-- len bytes of a line from an offset. -/
def lineSlice (d : Line) (off len : Nat) : Bytes := bslice (lineBytes d) off len

/-- The quotient rounded up. -/
def ceilDiv (a b : Nat) : Nat := (a + b - 1) / b

/-! ## The parts of the machine -/

/-- The key of a unit: kind and index (R5). -/
def ukey (kind index : Nat) : Nat := kind * 65536 + index

def unit (m : Mach) (kind index : Nat) : UnitSt := tget m.units (ukey kind index) UnitSt.reset
def setUnit (m : Mach) (kind index : Nat) (u : UnitSt) : Mach := { m with units := tset m.units (ukey kind index) u }
def ustate (m : Mach) (kind index : Nat) : UState := (unit m kind index).st
def setUState (m : Mach) (kind index : Nat) (st : UState) : Mach :=
  setUnit m kind index { unit m kind index with st := st }

def lease (m : Mach) (l : Nat) : Lease := tget m.leases l Lease.reset
def setLease (m : Mach) (l : Nat) (x : Lease) : Mach := { m with leases := tset m.leases l x }
def modLease (m : Mach) (l : Nat) (f : Lease → Lease) : Mach := setLease m l (f (lease m l))
def l2 (m : Mach) (b : Nat) : L2St := tget m.l2 b L2St.reset
def setL2 (m : Mach) (b : Nat) (x : L2St) : Mach := { m with l2 := tset m.l2 b x }
def modL2 (m : Mach) (b : Nat) (f : L2St → L2St) : Mach := setL2 m b (f (l2 m b))
def home (m : Mach) (h : Nat) : Home := tget m.homes h Home.reset
def setHome (m : Mach) (h : Nat) (x : Home) : Mach := { m with homes := tset m.homes h x }
def modHome (m : Mach) (h : Nat) (f : Home → Home) : Mach := setHome m h (f (home m h))
def chan (m : Mach) (c : Nat) : Chan := tget m.chans c Chan.reset
def setChan (m : Mach) (c : Nat) (x : Chan) : Mach := { m with chans := tset m.chans c x }
def modChan (m : Mach) (c : Nat) (f : Chan → Chan) : Mach := setChan m c (f (chan m c))
def seam (m : Mach) (s : Nat) : Seam := tget m.seams s Seam.reset
def setSeam (m : Mach) (s : Nat) (x : Seam) : Mach := { m with seams := tset m.seams s x }
def modSeam (m : Mach) (s : Nat) (f : Seam → Seam) : Mach := setSeam m s (f (seam m s))
def modEvt (m : Mach) (f : EvtSt → EvtSt) : Mach := { m with evt := f m.evt }
def modMode (m : Mach) (f : ModeSt → ModeSt) : Mach := { m with mode := f m.mode }
def emit (m : Mach) (o : Out) : Mach := { m with out := m.out ++ [o] }
def send (m : Mach) (x : Msg) : Mach := { m with mesh := m.mesh ++ [x] }
def touch (m : Mach) : Mach := { m with tick := m.tick + 1 }

/-- A fresh free value as a word (log entry 2). -/
def takeFree (m : Mach) : Word × Mach := (Config.freeWord m.freeIdx, { m with freeIdx := m.freeIdx + 1 })

/-- A fresh free choice among n outcomes (log entry 2); 0 where there is but one. -/
def takeChoice (m : Mach) (n : Nat) : Nat × Mach := (Config.freeNat m.freeIdx % n, { m with freeIdx := m.freeIdx + 1 })

/-- The code of a mode (R26). -/
def modeCode : Mode → Nat
  | .bare => 0 | .training => 1 | .loading => 2 | .service => 3 | .rework => 4 | .hold => 5 | .test => 6 | .checkStop => 7

/-- The `MODE` register (R26). -/
def modeWord (m : Mach) : Word :=
  pack [(0, 3, modeCode m.mode.st), (3, 3, modeCode m.mode.prior), (6, 1, b2n m.mode.transit),
    (7, 1, b2n m.mode.recPending), (8, 8, m.mode.cause), (16, 1, b2n m.mode.testAllowed), (17, 1, b2n m.mode.verified)]

/-- Units with a role work (modes Service and Rework). -/
def unitsRun (m : Mach) : Bool := m.mode.st == .service || m.mode.st == .rework

/-- Messages that a unit has sent are delivered and memory works: Service, Rework, and Hold, whose steps drain them (R34). -/
def meshRuns (m : Mach) : Bool := unitsRun m || m.mode.st == .hold

/-- Not frozen (R820). -/
def alive (m : Mach) : Bool := m.mode.st != .checkStop

/-- A hub is in service. -/
def hubIn (m : Mach) (h : Nat) : Bool := !m.hubsLost.contains h

/-- The record of a section kind and index in the committed image, where there is one. -/
def imgRec (m : Mach) (kind index : Nat) : Option Bytes := tfind m.image (ukey kind index)

/-- A full structure image has been committed (R57 step 8, R135); while Training runs only its physical stage is. -/
def committed (m : Mach) : Bool := m.load.active.getLsbD 0

/-- The field of a committed record; 0 where there is no record. -/
def imgFld (m : Mach) (kind index off len : Nat) : Nat := fld ((imgRec m kind index).getD []) off len

/-- The committed image carries some record of a kind (an optional kind may be omitted, R102). -/
def imgHas (m : Mach) (kind : Nat) : Bool := m.image.any (fun p => p.1 / 65536 == kind)

/-! ## Sources and units (R3, R43, R49) -/

/-- The block of the unit that a source number names, as (kind, index); public-key unit n is reached through cipher engine
x(4n) (R49). -/
def unitOfSource (s : Nat) : Nat × Nat :=
  if s < 0x0440 then (0x02, s)
  else if 0x0500 ≤ s ∧ s < 0x0540 then (0x01, s - 0x0500)
  else if 0x0600 ≤ s ∧ s < 0x0610 then (0x03, s - 0x0600)
  else if 0x0700 ≤ s ∧ s < 0x070C then (0x04, s - 0x0700)
  else if 0x0780 ≤ s ∧ s < 0x0784 then (0x05, s - 0x0780)
  else if 0x0800 ≤ s ∧ s < 0x0808 then (0x06, s - 0x0800)
  else if 0x0880 ≤ s ∧ s < 0x0882 then (0x07, s - 0x0880)
  else if 0x0900 ≤ s ∧ s < 0x0910 then (0x08, s - 0x0900)
  else if 0x0A00 ≤ s ∧ s < 0x0A08 then (0x09, s - 0x0A00)
  else if 0x0B00 ≤ s ∧ s < 0x0B08 then (0x0A, s - 0x0B00)
  else if 0x0B08 ≤ s ∧ s < 0x0B0A then (0x0A, 4 * (s - 0x0B08))
  else if 0x0C00 ≤ s ∧ s < 0x0C02 then (0x0B, s - 0x0C00)
  else if 0x0D00 ≤ s ∧ s < 0x0D02 then (0x0E, s - 0x0D00)
  else if 0x0E00 ≤ s ∧ s < 0x0E02 then (0x0D, s - 0x0E00)
  else if 0x1000 ≤ s ∧ s < 0x1100 then (0x0C, s - 0x1000)
  else (0x00, 0)

/-- The source number that a unit's `UNIT_ID` reports (R3, R43). -/
def sourceOf (kind index : Nat) : Nat :=
  match kind with
  | 0x01 => 0x0500 + index
  | 0x02 => index
  | 0x03 => 0x0600 + index
  | 0x04 => 0x0700 + index
  | 0x05 => 0x0780 + index
  | 0x06 => 0x0800 + index
  | 0x07 => 0x0880 + index
  | 0x08 => 0x0900 + index
  | 0x09 => 0x0A00 + index
  | 0x0A => 0x0B00 + index
  | 0x0B => 0x0C00 + index
  | 0x0C => 0x1000 + index
  | 0x0D => 0x0E00 + index
  | 0x0E => 0x0D00 + index
  | _ => 0x0F00

/-- How many units a kind has (R5, R23). -/
def kindCount : Nat → Nat
  | 0x00 => 1 | 0x01 => 64 | 0x02 => 1088 | 0x03 => 16 | 0x04 => 12 | 0x05 => 4 | 0x06 => 8 | 0x07 => 2 | 0x08 => 16
  | 0x09 => 8 | 0x0A => 8 | 0x0B => 2 | 0x0C => 256 | 0x0D => 2 | 0x0E => 2 | 0x0F => 1
  | _ => 0

/-- The bench of an engine, its slot, and the engine of a bench and slot (R1). -/
def benchOf (e : Nat) : Nat := e / 17
def slotOf (e : Nat) : Nat := e % 17
def engineOf (b slot : Nat) : Nat := 17 * b + slot
/-- The compute tile of a bench, home node, memory channel (R1). -/
def tileOfBench (b : Nat) : Nat := b / 16
def tileOfHome (h : Nat) : Nat := h / 4
def tileOfChan (c : Nat) : Nat := c / 3

/-! ## Time stamps (R761 to R764, R771) -/

def master (m : Mach) (i : Nat) : TsMaster := vget m.evt.masters i TsMaster.reset
def setMaster (m : Mach) (i : Nat) (x : TsMaster) : Mach := modEvt m (fun e => { e with masters := vset e.masters i x })

/-- The active master's counter. -/
def timeNow (m : Mach) : Word := (master m m.evt.activeMaster).count

/-- A unit's local copy of the counter: within 2 ns of the active master, within 5 ns in the 50 µs after a takeover
(R762), never below what the unit last showed (R764); where in that band it stands is free. -/
def takeStamp (m : Mach) (src : Nat) : Word × Mach :=
  let band := if m.now < m.evt.takeoverUntil then 5 else 2
  let (c, m) := takeChoice m (2 * band + 1)
  let t := (timeNow m).toNat + c - band
  let t := max t (tget m.evt.lastStamp src 0).toNat
  let w := BitVec.ofNat 64 t
  (w, modEvt m (fun e => { e with lastStamp := tset e.lastStamp src w }))

/-! ## Service messages that leave (R65, R74) -/

/-- The hub of a service port, and the port's number. -/
def portHub : Port → Nat
  | .sp0 | .i3c0 => 0
  | .sp1 | .i3c1 => 1
def portKey : Port → Nat
  | .sp0 => 0 | .i3c0 => 1 | .sp1 => 2 | .i3c1 => 3

/-- What HELLO agreed on a port: major and minor version, features. -/
def portAgreed (m : Mach) (p : Port) : Option (Nat × Nat × Nat) := tfind m.svc.agreed (portKey p)

/-- The header's bytes with the CRC field 0, then the payload (R65). -/
def svcBytes (major minor : Byte) (type seq len status : Nat) (p : Bytes) : Bytes :=
  [major, minor] ++ le 2 type ++ le 4 seq ++ le 2 len ++ le 2 status ++ le 4 0 ++ p

/-- A message leaves on a port with its header: 0.0 in HELLO's response, else the agreed version (R65, R69, R74). -/
def svcSend (m : Mach) (p : Port) (type seq status : Nat) (body : Bytes) : Mach :=
  let v := if type = 0x0001 then (0, 0) else match portAgreed m p with | some (a, b, _) => (a, b) | none => (0, 0)
  let a := BitVec.ofNat 8 v.1
  let b := BitVec.ofNat 8 v.2
  emit m (.svc p type { port := p, major := a, minor := b, type := BitVec.ofNat 16 type, seq := BitVec.ofNat 32 seq, len := BitVec.ofNat 16 body.length,
                        status := BitVec.ofNat 16 status, crc := BitVec.ofNat 32 (crc32c (svcBytes a b type seq body.length status body)) } body)

/-! ## Notifications (R82, R83) -/

/-- The payload of an EVENT_NOTIFY (R82). -/
def noteBytes (dropped : Nat) (n : Notify) (t : Word) : Bytes :=
  le 1 n.content ++ le 1 0 ++ le 2 (min 0xFFFF dropped) ++ le 4 n.body.length ++ le 8 t.toNat ++ n.body

/-- A notification sent to the session owner as an EVENT_NOTIFY (R65, R71), numbered where it has no number yet; as it was while no session is open. -/
def noteSend (m : Mach) (n : Notify) : Notify × Mach :=
  match m.svc.owner with
  | none => (n, m)
  | some p =>
    let (t, m) := takeStamp m 0x0F00
    let seq := if n.seq = 0 then m.noteSeq + 1 else n.seq
    let n := { n with seq := seq, sentAt := m.now, sends := n.sends + 1 }
    (n, svcSend { m with noteSeq := max m.noteSeq seq, noteDropped := 0 } p 0x0060 seq 0 (noteBytes m.noteDropped n t))

/-- A notification arises: of more than 64 that are kept the oldest is dropped and counted (R83). It is sent at once where a session is
open, and kept until it is answered. -/
def notify (m : Mach) (content : Nat) (body : Bytes) : Mach :=
  let m := if m.notes.length < 64 then m else { m with notes := m.notes.drop 1, noteDropped := m.noteDropped + 1 }
  let r := noteSend m { seq := 0, content := content, body := body, sentAt := 0, sends := 0 }
  { r.2 with notes := r.2.notes ++ [r.1] }

/-! ## Events: taking one (R771 to R776, R783) -/

/-- The vector and flags of a class's routing record (R783). -/
def routeVector (m : Mach) (cls : Nat) : Nat := imgFld m 0x000A cls 0 2
def routeFlag (m : Mach) (cls i : Nat) : Bool := bit (imgFld m 0x000A cls 2 1) i

/-- The order of R772: ascending stamp, then source, then the order of raising. -/
def evtInsert (l : List Event) (e : Event) : List Event :=
  match l with
  | [] => [e]
  | x :: r =>
    if x.stamp.toNat < e.stamp.toNat ∨ (x.stamp = e.stamp ∧ x.src ≤ e.src) then x :: evtInsert r e else e :: l

/-- The event record of R775. -/
def evtBytes (e : Event) (recFlags : Nat) : Bytes :=
  le 8 e.stamp.toNat ++ le 2 e.src ++ le 1 e.cls ++ le 1 (e.flags ||| recFlags) ++ le 2 e.vector ++ le 1 e.lease ++
    le 1 e.level ++ padTo 48 e.payload

/-- An event is taken at its source (R771) and reaches both event blocks (R773, R774): it waits in the window. One that
arrives after a later one was released is marked LATE and counted (R773). `engine` is the raising engine of a class that
names one (R781). -/
def raiseEventAt (m : Mach) (cls src lease vector : Nat) (payload : Bytes) (engine : Nat) : Mach :=
  let (t, m) := takeStamp m src
  let late := m.evt.releasedN ≠ 0 ∧ t.toNat < m.evt.lastReleased.toNat
  let ev : Event := { stamp := t, src := src, cls := cls, flags := if late then 4 else 0, vector := vector, lease := lease,
                      level := 0, payload := payload, engine := engine }
  let m := modEvt m (fun e => { e with window := evtInsert e.window ev,
                                       late := if late then sat 0xFFFF (e.late + 1) else e.late })
  modLease m lease (fun l => { l with evtIssued := (l.evtIssued + 1) % 2 ^ 32 })

def raiseEvent (m : Mach) (cls src lease vector : Nat) (payload : Bytes) : Mach :=
  raiseEventAt m cls src lease vector payload 0

/-- An event of a class that the routing record sends to the manager (R776). -/
def raiseManager (m : Mach) (cls src : Nat) (payload : Bytes) : Mach :=
  raiseEvent m cls src 0 (routeVector m cls) payload

/-- The manager's copy of an event (flag COPY, R775, R776). -/
def raiseCopy (m : Mach) (cls src : Nat) (payload : Bytes) : Mach :=
  let m := raiseManager m cls src payload
  modEvt m (fun e => { e with window := e.window.map (fun x =>
    if x.cls = cls ∧ x.src = src ∧ x.lease = 0 ∧ x.payload = payload then { x with flags := x.flags ||| 8 } else x) })

/-! ## Error records (R790 to R794, R830) -/

/-- The severity of a cause (R794). -/
def causeSev : Nat → Nat
  | 0x0001 => 0 | 0x0002 => 2 | 0x0003 => 3 | 0x0004 => 2 | 0x0005 => 2 | 0x0006 => 4 | 0x0010 => 0 | 0x0011 => 1
  | 0x0012 => 2 | 0x0013 => 3 | 0x0014 => 3 | 0x0015 => 3 | 0x0016 => 3 | 0x0017 => 0 | 0x0018 => 1 | 0x0019 => 0
  | 0x001A => 3 | 0x0020 => 0 | 0x0021 => 1 | 0x0022 => 3 | 0x0023 => 3 | 0x0030 => 3 | 0x0031 => 3 | 0x0032 => 1
  | 0x0033 => 2 | 0x0040 => 0 | 0x0041 => 1 | 0x0042 => 2 | 0x0043 => 3 | 0x0044 => 3 | 0x0045 => 3 | 0x0050 => 0
  | 0x0051 => 2 | 0x0052 => 3 | 0x0053 => 3 | 0x0054 => 2 | 0x0060 => 1 | 0x0061 => 3 | 0x0062 => 1 | 0x0063 => 1
  | 0x0064 => 1 | 0x0065 => 2 | 0x0066 => 0 | 0x0067 => 2 | 0x0070 => 2 | 0x0071 => 1 | 0x0072 => 1 | 0x0073 => 0
  | 0x0080 => 1 | 0x0081 => 1 | 0x0082 => 2 | 0x0090 => 1 | 0x0091 => 1
  | _ => 0

/-- The error record of R790 as its 128 bytes. -/
def errBytes (r : ErrRec) : Bytes :=
  le 1 1 ++ le 1 r.sev ++ le 2 r.cause ++ le 2 r.src ++ le 2 r.det ++ le 8 r.stamp.toNat ++ le 8 r.index ++ le 1 r.mode ++
    le 1 (r.lease.getD 0) ++ le 2 (b2n r.lease.isSome + 2 * b2n r.addr.isSome) ++ le 4 r.suppressed ++ padTo 32 r.detail ++
    padTo 32 (r.tag.flatMap (fun w => le 8 w.toNat)) ++ le 8 (r.addr.getD 0) ++ le 8 r.interruption ++ le 16 0

/-- The last n elements of a list. -/
def lastN {α : Type} (n : Nat) (l : List α) : List α := l.drop (l.length - n)

/-- A record in Test goes to the test log only (R28). -/
def testRecord (m : Mach) (r : ErrRec) : Mach := { m with errs := { m.errs with testLog := m.errs.testLog ++ [r] } }

/-- A record placed in the retained log and in the log of each hub in service (R791, R792). -/
def placeRecord (m : Mach) (key : Nat) (r : ErrRec) : Mach :=
  { m with errs := { m.errs with
      index := m.errs.index + 1, retained := lastN 64 (m.errs.retained ++ [r]),
      hubLogs := (List.range 2).map (fun h =>
        let l := m.errs.hubLogs.getD h []
        if hubIn m h then lastN 1024 (l ++ [r]) else l),
      suppress := tset m.errs.suppress key { last := m.now, count := 0 } } }

/-- A record that is not written, only counted (R792). -/
def countRecord (m : Mach) (key : Nat) (x : Suppress) : Mach :=
  { m with errs := { m.errs with suppress := tset m.errs.suppress key { x with count := x.count + 1 } } }

/-- `UNIT_ERRORS` of the unit that a source names (R830). -/
def countUnit (m : Mach) (src cause : Nat) : Mach :=
  let u := unitOfSource src
  setUnit m u.1 u.2 { unit m u.1 u.2 with errCount := sat 0xFFFFFFFF ((unit m u.1 u.2).errCount + 1), errCause := cause }

/-- A record is sent to the session owner (R791). -/
def tellOwner (m : Mach) (r : ErrRec) : Mach := if routeFlag m 0x13 1 || !committed m then notify m 2 (errBytes r) else m

/-- A record raises the manager's ERROR event (R791). -/
def tellManager (m : Mach) (r : ErrRec) : Mach :=
  if committed m then raiseManager m 0x13 r.src (le 2 r.cause ++ le 2 r.src ++ le 4 0 ++ le 8 r.index) else m

/-- A CORRECTED record within one second of the last of its unit and cause (R792). -/
def suppressed (m : Mach) (cause src : Nat) : Option Suppress :=
  match tfind m.errs.suppress (src * 65536 + cause) with
  | none => none
  | some x => if causeSev cause = 0 ∧ m.now < x.last + 1000000000 then some x else none

/-- A record is written about unit `src` (R791, R792): numbered, placed in the retained log and in the log of each hub in
service, sent to the manager as an ERROR event and to the session owner; a CORRECTED record within one second of the
last of its unit and cause is only counted. In Test an error goes to the test log only (R28). -/
def raiseErrD (m : Mach) (cause src det : Nat) (detail : Bytes) (ls addr : Option Nat) (interruption : Nat) : Mach :=
  let key := src * 65536 + cause
  let u := unitOfSource src
  let rec_ (m : Mach) (t : Word) (index n : Nat) : ErrRec :=
    { sev := causeSev cause, cause := cause, src := src, det := det, stamp := t, index := index, mode := modeCode m.mode.st, lease := ls,
      addr := addr, suppressed := n, detail := detail, tag := (unit m u.1 u.2).tags, interruption := interruption }
  if m.mode.st = .test then testRecord (takeStamp m det).2 (rec_ m (takeStamp m det).1 0 0)
  else match suppressed m cause src with
    | some x => countRecord m key x
    | none =>
      let r := rec_ m (takeStamp m det).1 (m.errs.index + 1) (((tfind m.errs.suppress key).map (fun s => s.count)).getD 0)
      tellManager (tellOwner (countUnit (placeRecord (takeStamp m det).2 key r) src cause) r) r

/-- A record whose unit detected its own error, about no lease and no address. -/
def raiseErr (m : Mach) (cause src : Nat) (detail : Bytes) : Mach := raiseErrD m cause src src detail none none 0

/-! ## Main memory (R493, R498, R427) -/

/-- The byte that an address holds; an address that is not listed reads 0 (log entry 8). -/
def cellGet (c : List Host.Cell) (a : Nat) : Byte :=
  match c with
  | [] => 0
  | (k, v) :: r => if k = a then v else if a < k then 0 else cellGet r a

/-- The cells with a byte written; the form stays canonical: addresses rise, and no byte 0 is listed. -/
def cellSet (c : List Host.Cell) (a : Nat) (x : Byte) : List Host.Cell :=
  match c with
  | [] => if x = 0 then [] else [(a, x)]
  | (k, v) :: r =>
    if k = a then (if x = 0 then r else (a, x) :: r)
    else if a < k then (if x = 0 then (k, v) :: r else (a, x) :: (k, v) :: r)
    else (k, v) :: cellSet r a x

/-- Consecutive bytes from an address. -/
def cellsSet (c : List Host.Cell) (a : Nat) (b : Bytes) : List Host.Cell :=
  match b with
  | [] => c
  | x :: r => cellsSet (cellSet c a x) (a + 1) r

/-- Insertion into an ascending list without repeats. -/
def insNat (l : List Nat) (n : Nat) : List Nat :=
  match l with
  | [] => [n]
  | x :: r => if n = x then l else if n < x then n :: l else x :: insNat r n

/-- Addresses rise and no listed byte is 0. -/
def cellsWf (c : List Host.Cell) : Bool :=
  match c with
  | [] => true
  | (_, v) :: [] => v != 0
  | (k, v) :: (k', v') :: r => decide (k < k') && v != 0 && cellsWf ((k', v') :: r)

/-- The canonical form of main memory: its cells as `cellsWf` says, the poisoned lines ascending without repeats. -/
def Memory.wf (x : Memory) : Bool := cellsWf x.cells && decide (x.poisoned.Pairwise (fun a b => a < b))

/-- The bytes of line n as the DIMMs hold them. -/
def memLine (x : Memory) (n : Nat) : Line := lineOf ((List.range 256).map (fun i => cellGet x.cells (256 * n + i)))

/-- Line n and its poison mark written whole (R498, R497). -/
def memPut (x : Memory) (n : Nat) (d : Line) (poison : Bool) : Memory :=
  { x with cells := cellsSet x.cells (256 * n) (lineBytes d),
           poisoned := if poison then insNat x.poisoned n else x.poisoned.filter (fun k => k != n) }

/-- Line n marked poisoned, its bytes as they were (R430, R515). -/
def memPoison (x : Memory) (n : Nat) : Memory := { x with poisoned := insNat x.poisoned n }

end Sys2Proof.Machine
end

