-- ==== Sys2Proof/Machine/ImageFmt.lean ====
section
/-! DEFINITION. The bytes of a structure image (R91 to R101): container header, section directory, records of each kind; what the
partial image at work names. -/

namespace Sys2Proof.Machine

/-! ## The container header (R92) -/

def imgKind (b : Bytes) : Nat := fld b 6 2
def imgVersion (b : Bytes) : Nat := fld b 8 4
def imgBase (b : Bytes) : Nat := fld b 12 4
def imgTotal (b : Bytes) : Nat := fld b 16 4
def imgEntries (b : Bytes) : Nat := fld b 20 2
def imgDegraded (b : Bytes) : Bool := bit (fld b 22 2) 0
def imgSlot (b : Bytes) : Nat := fld b 26 1
def imgBuild (b : Bytes) : Bytes := padTo 16 (bslice b 32 16)

/-! ## Section kinds (R101) -/

/-- The records of a kind, and how many bytes record i has, as the owning chapters state; 0 for a reserved kind. -/
def recCount (kind : Nat) : Nat :=
  match kind with
  | 0x01 => 64 | 0x02 => 131 | 0x03 => 6 | 0x04 => 1 | 0x05 => 16 | 0x06 => 80 | 0x07 => 64 | 0x08 => 256 | 0x09 => 8 | 0x0A => 32
  | 0x0B => 64 | 0x0C => 10 | 0x0D => 264 | 0x0E => 264 | 0x0F => 14 | 0x10 => 80 | 0x11 => 2 | 0x12 => 16
  | _ => 0

def recSize (kind i : Nat) : Nat :=
  match kind with
  | 0x01 => 16 | 0x02 => 4 | 0x03 => 16 | 0x04 => 80 | 0x05 => if i < 12 then 32 else 16 | 0x06 => 32 | 0x07 => 32 | 0x08 => 64
  | 0x09 => 16 | 0x0A => 8 | 0x0B => 64 | 0x0C => 48 | 0x0D => 8 | 0x0E => if i < 8 then 8 else 16 | 0x0F => 8 | 0x10 => 8
  | 0x11 => 16 | 0x12 => 8
  | _ => 0

/-- Kinds that a full image must carry, of the physical stage, and those that a partial image may carry (R101). -/
def kindRequired (k : Nat) : Bool := [0x01, 0x02, 0x03, 0x04, 0x05, 0x08, 0x0A, 0x0C, 0x0F, 0x12].contains k
def kindPhysical (k : Nat) : Bool := [0x02, 0x03, 0x05, 0x0C, 0x0F].contains k
def kindLive (k : Nat) : Bool := decide (0x01 ≤ k) && decide (k ≤ 0x12) && !([0x03, 0x04, 0x0F].contains k)

/-! ## The section directory (R98, R99) -/

/-- A directory entry. -/
structure DirEntry where
  kind : Nat
  major : Nat
  minor : Nat
  flags : Nat
  first : Nat
  count : Nat
  off : Nat
  len : Nat
  crc : Nat
  zero : Bool
  deriving DecidableEq, Repr

/-- Entry i of an image's directory. -/
def dirEntry (b : Bytes) (i : Nat) : DirEntry :=
  let e := bslice b (64 + 32 * i) 32
  { kind := fld e 0 2, major := fld e 2 1, minor := fld e 3 1, flags := fld e 4 2, first := fld e 6 2, count := fld e 8 2,
    off := fld e 12 4, len := fld e 16 4, crc := fld e 20 4, zero := fld e 10 2 == 0 && fld e 24 8 == 0 }

def dirEntries (b : Bytes) : List DirEntry := (List.range (imgEntries b)).map (dirEntry b)

/-- The record indices that a section covers (R98). -/
def entryCovers (e : DirEntry) : List Nat :=
  if bit e.flags 0 then List.range (recCount e.kind) else (List.range e.count).map (fun i => e.first + i)

/-- Bytes of a section body of the kind with these records. -/
def bodySize (kind : Nat) (l : List Nat) : Nat := l.foldl (fun a i => a + recSize kind i) 0

/-- The records of a section: index, offset in the image, bytes. -/
def entryRecords (b : Bytes) (e : DirEntry) : List (Nat × Nat × Bytes) :=
  ((entryCovers e).foldl (fun (a : Nat × List (Nat × Nat × Bytes)) i =>
    (a.1 + recSize e.kind i, a.2 ++ [(i, a.1, padTo (recSize e.kind i) (bslice b a.1 (recSize e.kind i)))])) (e.off, [])).2

/-- Every record of an image in directory order: its key (kind × 65,536 + index) and bytes. -/
def imageRecords (b : Bytes) : Tbl Bytes :=
  (dirEntries b).flatMap (fun e => (entryRecords b e).map (fun r => (e.kind * 65536 + r.1, r.2.2)))

/-- Where an image holds a record; 0xFFFFFFFF where it does not (R139). -/
def recOff (b : Bytes) (kind i : Nat) : Nat :=
  ((dirEntries b).findSome? (fun e => if e.kind = kind then ((entryRecords b e).find? (fun r => r.1 == i)).map (fun r => r.2.1) else none)).getD 0xFFFFFFFF

/-- An image names a record. -/
def imageNames (b : Bytes) (kind i : Nat) : Bool := (dirEntries b).any (fun e => e.kind == kind && (entryCovers e).contains i)

/-- A partial load holds a record: it is in Preparing or Applying and names it (R126). -/
def loadHolds (m : Mach) (kind i : Nat) : Bool :=
  (m.load.st == .preparing || m.load.st == .applying) && imgKind m.load.image == 1 && imageNames m.load.image kind i

end Sys2Proof.Machine
end

