-- ==== Sys2Proof/Machine/Reject.lean ====
section
/-! DEFINITION. Rejection records (R139 to R141); what a partial load holds, and how a recovery pre-empts it (R105, R126, R127, R129). -/

namespace Sys2Proof.Machine

/-! ## Rejections (R139, R140) -/

/-- What a rejection record says of a failure: step, cause, section kind and record index, class and resource index of R108 and R109, the
claimants (kind, index, source), byte offset. -/
structure Rej where
  step : Nat
  cause : Nat
  kind : Nat
  idx : Nat
  cls : Nat
  res : Nat
  a : Nat × Nat × Nat
  b : Nat × Nat × Nat
  off : Nat
  deriving DecidableEq, Repr

def rejAt (step cause kind idx off : Nat) : Rej :=
  { step := step, cause := cause, kind := kind, idx := idx, cls := 0, res := 0, a := (0, 0, 0), b := (0, 0, 0), off := off }

/-- A failure of the container. -/
def rejBox (cause off : Nat) : Rej := rejAt 1 cause 0 0xFFFF off

/-- The 64 bytes of a rejection record. The header counts as not readable with BAD_MAGIC alone, and then the build identifier is 0 as well
(R139 does not say when it is readable; DESIGN CHOICE, log entry 48). -/
def rejBytes (img : Bytes) (r : Rej) (further : Nat) (t : Word) : Bytes :=
  let readable := r.cause ≠ 1
  le 1 1 ++ le 1 r.step ++ le 2 r.cause ++ le 4 (if readable then imgVersion img else 0) ++ le 8 t.toNat ++ le 2 r.kind ++ le 2 r.idx ++ le 2 r.cls ++
    le 2 0 ++ le 4 r.res ++ le 2 r.a.1 ++ le 2 r.a.2.1 ++ le 2 r.a.2.2 ++ le 2 r.b.1 ++ le 2 r.b.2.1 ++ le 2 r.b.2.2 ++ le 4 further ++ le 4 r.off ++
    (if readable then imgBuild img else le 16 0)

/-- A rejection is written, counted, and sent to the session owner; the loader goes to a state. -/
def reject (m : Mach) (img : Bytes) (r : Rej) (further : Nat) (st : LState) : Mach :=
  let (t, m) := takeStamp m 0x0F00
  let rec_ := rejBytes img r further t
  let m := { m with load := { m.load with st := st, reject := rec_, rejectN := sat 0xFFFF (m.load.rejectN + 1), rejectCause := r.cause } }
  notify m 3 rec_

/-! ## Held units (R105, R126, R127, R129) -/

/-- A partial image that is being applied names a record: a recovery does not use its unit (R129). -/
def applyingNames (m : Mach) (kind i : Nat) : Bool := m.load.st == .applying && imgKind m.load.image == 1 && imageNames m.load.image kind i

/-- The record that holds a unit. -/
def heldBy (k i : Nat) : Nat × Nat :=
  match k with
  | 0x01 => (0x01, i) | 0x03 => (0x12, i) | 0x04 => (0x05, i) | 0x06 => (0x0C, i) | 0x07 => (0x0C, 8 + i) | 0x09 => (0x0D, i) | _ => (0x0E, i)

/-- The held units return to the states that they had. -/
def releaseHeld (m : Mach) : Mach :=
  let m := m.load.prior.foldl (fun m (p : Nat × UState) =>
    if ustate m (p.1 / 65536) (p.1 % 65536) == .draining then setUState m (p.1 / 65536) (p.1 % 65536) p.2 else m) m
  { m with load := { m.load with prior := [], deadline := none } }

/-- A partial load in Preparing ends without a change to any committed record. -/
def loadAbandoned (m : Mach) (r : Rej) : Mach := reject (releaseHeld m) m.load.image r 0 .idle

/-- A recovery needs units: where a partial load in Preparing holds one, the load is rejected with PREEMPTED. -/
def preempt (m : Mach) (units : List (Nat × Nat)) : Mach :=
  if m.load.st ≠ .preparing then m else
  match m.load.prior.find? (fun (p : Nat × UState) => units.contains (p.1 / 65536, p.1 % 65536)) with
  | none => m
  | some p =>
    let r := heldBy (p.1 / 65536) (p.1 % 65536)
    loadAbandoned m (rejAt 3 0x0017 r.1 r.2 (recOff m.load.image r.1 r.2))

end Sys2Proof.Machine
end

