-- ==== Sys2Proof/Machine/MemOps.lean ====
section
/-! DEFINITION. Operations of the memory channels and seams (R490 to R539): where a line lies, missing members, reading and
writing a line through the channels' queues, channels that fail, rebuilds, retraining; the entry into a mode and the
beginning of a recovery, which they share with the other units (R28, R814). -/

namespace Sys2Proof.Machine

/-! ## Modes and recoveries -/

/-- The module enters a mode with a cause (R26, R27): the prior mode is kept, the session owner is notified (R79, R82) and
the manager gets a MODE event (class 0x14). -/
def enterMode (m : Mach) (st : Mode) (cause : Nat) : Mach :=
  let m := modMode m (fun x => { x with prior := x.st, st := st, cause := cause, transit := false, entered := m.now })
  let w := le 8 (modeWord m).toNat
  let m := notify m 1 w
  if committed m then raiseManager m 0x14 0x0F00 w else m

/-- The module is in Hold or on its way into it (R32, R34). -/
def holding (m : Mach) : Bool := m.mode.st == .hold || m.mode.holdStart.isSome

/-- A recovery begins (R814): from Service the module enters Rework with cause 0x08; in Rework it joins the recoveries that
run (R815); around Hold it waits for HOLD_EXIT (R32). -/
def beginRecovery (m : Mach) (f : FaultEv) : Mach :=
  let m := modMode m (fun x => { x with recoveries := x.recoveries ++ [(f, false)], recPending := x.recPending || holding m })
  if !holding m && m.mode.st == .service then enterMode m .rework 0x08 else m

/-- A recovery that runs is done. -/
def endRecovery (m : Mach) (f : FaultEv) : Mach :=
  modMode m (fun x => { x with recoveries := x.recoveries.map (fun p => if p.1 = f then (p.1, true) else p) })

/-! ## Where a line lies (R493 to R495) -/

/-- The seam of a line and its seam line index (R493). -/
def seamOf (n : Nat) : Nat := Nat.xor (n % 4) (n / 4096 % 4)
def seamLine (n : Nat) : Nat := n / 4
/-- The line of a seam and a seam line index. -/
def lineOfSeam (s k : Nat) : Nat := 4 * k + Nat.xor s (k / 1024 % 4)
/-- The position of the parity piece and of data piece j of seam line k (R494). -/
def parityPos (k : Nat) : Nat := k % 5
def dataPos (k j : Nat) : Nat := (k + 1 + j) % 5
/-- Data piece j of a line, and its parity piece (R494). -/
def dataPiece (d : Line) (j : Nat) : BitVec 512 := (d >>> (512 * j)).setWidth 512
def parityPiece (d : Line) : BitVec 512 := dataPiece d 0 ^^^ dataPiece d 1 ^^^ dataPiece d 2 ^^^ dataPiece d 3
/-- A data piece rebuilt from the other three and the parity piece (R499). -/
def rebuildPiece (d : Line) (j : Nat) : BitVec 512 :=
  (List.range 4).foldl (fun a i => if i = j then a else a ^^^ dataPiece d i) (parityPiece d)

/-- The first physical line above main memory: 4 × L (R536). -/
def memLines (m : Mach) : Nat := 4 * m.mem.lines

/-- The bank of a line within its subchannel: bank group k[2:0] and bank k[4:3] (R495); its row, die, rank and DIMM bits. -/
def lineBank (k : Nat) : Nat := k % 32
def lineRow (x8 : Bool) (k : Nat) : Nat := k / 2 ^ (if x8 then 11 else 12)

/-- The channel record's fields (R531). -/
def chanRate (m : Mach) (c : Nat) : Nat := imgFld m 0x0005 c 1 1
def chanFlag (m : Mach) (c i : Nat) : Bool := bit (imgFld m 0x0005 c 3 1) i
/-- The latency target of a port in ns; 0 in the record selects the default (R522, R531). -/
def portTarget (m : Mach) (c port : Nat) : Nat :=
  let v := imgFld m 0x0005 c (8 + 2 * port) 2
  if v = 0 then [200, 400, 1000, 600, 20000].getD port 200 else 10 * v
/-- The fixed priority of a port (R524, R531). -/
def portPrio (m : Mach) (c port : Nat) : Nat :=
  if imgFld m 0x0005 c 18 5 = 0 then [1, 0, 3, 2, 4].getD port 4 else imgFld m 0x0005 c (18 + port) 1
/-- The page hint of a port (R526, R531). -/
def portHint (m : Mach) (c port : Nat) : Bool := bit (imgFld m 0x0005 c 23 1) port

/-- SCALE of a lease's memory QoS class for a port (R737, R755): 0 selects 16; 16 where the section is omitted. -/
def qosScale (m : Mach) (ls : Option Nat) (port : Nat) : Nat :=
  match ls with
  | none => 16
  | some l =>
    let cls := bits (lease m l).shares.toNat 34 32
    let v := if imgHas m 0x0009 then imgFld m 0x0009 cls port 1 else 16
    if v = 0 then 16 else v

/-- The port of a requester (chapter Memory, Scheduling). -/
def portOf (src : Nat) : Nat :=
  if 0x0A00 ≤ src ∧ src < 0x0A08 then 2
  else if 0x0B00 ≤ src ∧ src < 0x0B0A then 3
  else if 0x0780 ≤ src ∧ src < 0x0784 then 4
  else if 0x0800 ≤ src ∧ src < 0x0A00 then 1
  else 0

/-! ## Missing members (R501) -/

/-- A channel whose members are missing whatever the line: Failed, Offline, Draining, retraining, powered off (R501, R512). -/
def chanGone (m : Mach) (c : Nat) : Bool :=
  let x := chan m c
  x.phase == .failed || x.phase == .poweredOff || x.phase == .retraining || x.phase == .reset || x.phase == .training ||
    x.offline || x.draining

/-- The catch-up region of a seam line (R513). -/
def regionOf (m : Mach) (k : Nat) : Nat := k * 65536 / max 1 m.mem.lines

/-- The piece at a position of seam line k cannot be fetched (R501, R508, R513). -/
def posMissing (m : Mach) (s k p : Nat) : Bool :=
  let x := seam m s
  if x.missing = some p then
    match x.st with
    | .rebuilding => decide (x.w ≤ k)
    | .catchUp => chanGone m (x.members.getD p 0 / 2) || (x.map.contains (regionOf m k) &&
        (match x.sweep with | none => true | some w => decide (w ≤ k)))
    | .complete => false
    | .degraded | .failed => true
  else chanGone m (x.members.getD p 0 / 2)

/-- The subchannel (channel × 2 + subchannel) from which the piece at a position is fetched: the spare's, below W (R508). -/
def posSub (m : Mach) (s p : Nat) : Nat :=
  let x := seam m s
  let own := x.members.getD p 0
  if x.missing = some p ∧ x.st = .rebuilding then (x.target.getD 0) * 2 + own % 2 else own

/-- A line that a Failed seam no longer holds: every line but those below the watermark of R516. -/
def lineGone (m : Mach) (n : Nat) : Bool :=
  let x := seam m (seamOf n)
  x.st == .failed && decide (x.w ≤ seamLine n)

/-- The line as the memory side sees it: the newest accepted write that the channels still hold (R525), else the DIMMs. A
line at or above `MEM_TOP` (R493) or of a Failed seam (R517) reads with the poison mark. -/
def memRead (m : Mach) (n : Nat) : Line × Bool :=
  if memLines m ≤ n then (0, true)
  else if lineGone m n then (memLine m.mem n, true)
  else match (m.mem.writes.filter (fun w => w.n == n)).getLast? with
    | some w => (w.data, w.poison)
    | none => (memLine m.mem n, m.mem.poisoned.contains n)

/-- A record with cause MEM_RANGE for an access to a line that has no seam (R493). -/
def memRange (m : Mach) (h n src : Nat) : Mach :=
  raiseErrD m 0x0045 (0x0600 + h) (0x0600 + h) (le 2 src) none (some (256 * n)) 0

/-- The seam of a written line marks its region while a member's channel retrains (R513). -/
def markCatchUp (m : Mach) (n : Nat) : Mach :=
  let s := seamOf n
  let x := seam m s
  if x.st == .catchUp && x.sweep.isNone then setSeam m s { x with map := insNat x.map (regionOf m (seamLine n)) } else m

/-! ## The channels' queues (R522 to R528) -/

def subOf (x : Chan) (i : Nat) : SubSt := if i = 0 then x.sub0 else x.sub1
def setSub (x : Chan) (i : Nat) (y : SubSt) : Chan := if i = 0 then { x with sub0 := y } else { x with sub1 := y }
def modSub (m : Mach) (cs : Nat) (f : SubSt → SubSt) : Mach :=
  modChan m (cs / 2) (fun x => setSub x (cs % 2) (f (subOf x (cs % 2))))

/-- The positions of a line's pieces with the subchannels on which they lie (R494, R501): those not missing, with the rebuild target (R508). -/
def lineSubs (m : Mach) (n : Nat) : List (Nat × Nat) :=
  let s := seamOf n
  let x := seam m s
  ((List.range 5).filter (fun p => !posMissing m s (seamLine n) p || (x.st == .rebuilding && x.missing == some p))).map (fun p => (p, posSub m s p))

/-- The pieces of accepted writes that a subchannel holds (R525), oldest first. -/
def writesOn (m : Mach) (cs : Nat) : List PReq :=
  m.mem.writes.flatMap (fun w => (w.left.filter (fun e => e.1 == cs)).map (fun e => e.2))

/-- A piece has left a subchannel's write queue: served, discarded, or replaced. It drains writes until 16 remain (R525). -/
def writeLeft (m : Mach) (cs : Nat) : Mach :=
  modSub m cs (fun x => { x with
    ledgerOut := (x.ledgerOut + 1) % 2 ^ 32, draining := x.draining && decide (16 < (writesOn m cs).length) })

/-- Queued writes of a line leave their queues with the pieces of a newer one (R525). -/
def dropWrites (m : Mach) (n : Nat) : Mach :=
  (m.mem.writes.filter (fun w => w.n == n)).foldl (fun m w =>
    w.left.foldl (fun m e => writeLeft m e.1) { m with mem := { m.mem with writes := m.mem.writes.erase w } }) m

/-- A write whose pieces have all left the queues: the line stands in memory as it says (R498). -/
def writeSettled (m : Mach) (w : WReq) : Mach :=
  { m with mem := { memPut m.mem w.n w.data w.poison with writes := m.mem.writes.erase w } }

/-- Queued pieces leave a write, those of which `keep` does not hold: the channels discard or have written them. -/
def dropPieces (m : Mach) (w : WReq) (keep : Nat × PReq → Bool) : Mach :=
  let w' := { w with left := w.left.filter keep }
  let m' := if w'.left.isEmpty then writeSettled m w
            else { m with mem := { m.mem with writes := m.mem.writes.map (fun x => if x = w then w' else x) } }
  (w.left.filter (fun e => !keep e)).foldl (fun m e => writeLeft m e.1) m'

/-- A whole line written with all five pieces (R498); a line without a seam or of a Failed seam takes no write. -/
def memWriteNow (m : Mach) (n : Nat) (d : Line) (poison : Bool) : Mach :=
  if memLines m ≤ n ∨ lineGone m n then m
  else
    let m := dropWrites (markCatchUp m n) n
    { m with mem := memPut m.mem n d poison }

/-- The line is marked poisoned in memory, a write of it that is still queued with it (R430). -/
def poisonNow (m : Mach) (n : Nat) : Mach :=
  { m with mem := memPoison { m.mem with writes := m.mem.writes.map (fun w => if w.n = n then { w with poison := true } else w) } n }

/-- A request that reaches a channel which has begun to enter self-refresh but not issued the command aborts the entry (R528). -/
def abortSelfRefresh (m : Mach) (cs : Nat) : Mach :=
  modChan m (cs / 2) (fun x => if x.srStep = 1 ∨ x.srStep = 2 then { x with srStep := 0 } else x)

/-- The request for a piece that reaches a subchannel, with its deadline and page hint (R522, R526, R737). -/
def pieceReq (m : Mach) (n p cs src : Nat) (ls : Option Nat) (stream : Bool) : PReq :=
  let port := portOf src
  let target := portTarget m (cs / 2) port * qosScale m ls port / 16
  { n := n, pos := p, port := port, lease := ls.getD 0, src := src, seq := m.mem.seq,
    deadline := m.now + target, target := target, hint := stream || portHint m (cs / 2) port }

/-- A piece read enters a subchannel's queue; `stream` says that a prefetch stream asked for it. -/
def queueRead (m : Mach) (n p : Nat) (src : Nat) (ls : Option Nat) (stream : Bool) : Mach :=
  let cs := posSub m (seamOf n) p
  let r := pieceReq m n p cs src ls stream
  let m := abortSelfRefresh m cs
  let m := modSub m cs (fun x => { x with reads := x.reads ++ [r], ledgerIn := (x.ledgerIn + 1) % 2 ^ 32 })
  { m with mem := { m.mem with seq := m.mem.seq + 1 } }

/-- The read of a line under way set. -/
def setRead (m : Mach) (n : Nat) (r : LineRead) : Mach := { m with mem := { m.mem with reads := tset m.mem.reads n r } }

/-- A home begins to read a line from memory (R499): the four data pieces, and the parity piece where a data piece is
missing. A line that two missing pieces keep from being read has nothing to fetch. -/
def startRead (m : Mach) (n src : Nat) (ls : Option Nat) (stream : Bool) : Mach :=
  if memLines m ≤ n ∨ lineGone m n then (setRead m n ({ need := [], bad := [], parity := false, unc := none }))
  else
    let s := seamOf n
    let k := seamLine n
    let data := (List.range 4).map (dataPos k)
    let gone := data.filter (posMissing m s k)
    let want := data.filter (fun p => !posMissing m s k p) ++ (if gone.isEmpty then [] else [parityPos k])
    let m := want.foldl (fun m p => queueRead m n p src ls stream) m
    let m := if gone.isEmpty then m else modSeam m s (fun x => { x with rebuilds := sat 0xFFFFFFFF (x.rebuilds + 1) })
    (setRead m n ({ need := want.map (fun p => (posSub m s p, p)), bad := gone, parity := !gone.isEmpty, unc := none }))

/-- All pieces of a read under way have come. -/
def readReady (m : Mach) (n : Nat) : Bool :=
  match tfind m.mem.reads n with
  | none => true
  | some r => r.need.isEmpty

/-- The channels serve at once the pieces of a read under way that are still to come, for an access that is one step (log entry 9). -/
def readServed (m : Mach) (n : Nat) : Mach :=
  match tfind m.mem.reads n with
  | none => m
  | some q =>
    let m := q.need.foldl (fun m e => modSub m e.1 (fun x =>
      match x.reads.find? (fun r => r.n == n && r.pos == e.2) with
      | some r => { x with reads := x.reads.erase r, ledgerOut := (x.ledgerOut + 1) % 2 ^ 32 }
      | none => x)) m
    setRead m n { q with need := [] }

/-- The read of a line is over. -/
def endRead (m : Mach) (n : Nat) : Mach := { m with mem := { m.mem with reads := tdel m.mem.reads n } }

/-- The seam can take a write: none of its subchannels holds 64 (R525). -/
def seamTakes (m : Mach) (n : Nat) : Bool :=
  decide (memLines m ≤ n) || lineGone m n || (lineSubs m n).all (fun e => decide ((writesOn m e.2).length < 64))

/-- The seam accepts a whole-line write (R473, R498, R525); a line without a seam takes none and is recorded (R493). -/
def acceptWrite (m : Mach) (h n : Nat) (d : Line) (poison : Bool) (src : Nat) (ls : Option Nat) : Mach :=
  if memLines m ≤ n then memRange m h n src
  else if lineGone m n then m
  else
    let m := markCatchUp m n
    let left := (lineSubs m n).map (fun e => (e.2, pieceReq m n e.1 e.2 src ls false))
    let m := { m with mem := { m.mem with
        writes := m.mem.writes ++ [{ n := n, data := d, poison := poison, seq := m.mem.seq, left := left }], seq := m.mem.seq + 1 } }
    left.foldl (fun m e => modSub (abortSelfRefresh m e.1) e.1 (fun x => { x with
      ledgerIn := (x.ledgerIn + 1) % 2 ^ 32, draining := x.draining || decide (48 ≤ (writesOn m e.1).length) })) m

/-! ## Lost lines and machine checks (R430, R515) -/

/-- Lists of at most six. -/
def chunk6 {α : Type} (fuel : Nat) (l : List α) : List (List α) :=
  match fuel with
  | 0 => []
  | f + 1 => if l.isEmpty then [] else l.take 6 :: chunk6 f (l.drop 6)

/-- Machine-check events to a lease for lines, six addresses each (R430, class 0x0A), with a copy to the manager where the
routing record says so (R776). -/
def machineCheck (m : Mach) (src l : Nat) (lines : List Nat) : Mach :=
  (chunk6 (lines.length + 1) lines).foldl (fun m c =>
    let pay := padTo 48 (c.flatMap (fun n => le 8 (256 * n + 1)))
    let m := raiseEvent m 0x0A src l 0 pay
    if routeFlag m 0x0A 2 then raiseCopy m 0x0A src pay else m) m

/-- A page-table entry of a lease as memory holds it (R724, R725). -/
def rawEntry (m : Mach) (table idx : Nat) : Nat :=
  leVal (lineSlice (memRead m ((table + 8 * idx) / 256)).1 ((8 * idx + table) % 256) 8)

/-- Some leaf of the lease's page table maps the line (R515: "each lease that has the line mapped"). -/
def leaseMaps (m : Mach) (l n : Nat) : Bool :=
  let root := (lease m l).ptRoot.toNat
  bit root 0 && (List.range 512).any (fun i =>
    let e1 := rawEntry m (bits root 51 12 * 4096) i
    bit e1 0 && !bit e1 1 && (List.range 512).any (fun j =>
      let e2 := rawEntry m (bits e1 51 12 * 4096) j
      bit e2 0 && (if bit e2 1 then bits e2 51 30 == n / 2 ^ 22 else
        (List.range 512).any (fun k =>
          let e3 := rawEntry m (bits e2 51 12 * 4096) k
          bit e3 0 && bit e3 1 && bits e3 51 21 == n / 2 ^ 13))))

/-- Lines of a seam are lost (R515): each lease that maps some gets machine checks, the count is recorded once. -/
def linesLost (m : Mach) (s : Nat) (ks : List Nat) : Mach :=
  if ks.isEmpty then m else
  let lines := ks.map (lineOfSeam s)
  let m := (List.range 256).foldl (fun m l =>
    let mine := lines.filter (leaseMaps m l)
    if mine.isEmpty then m else machineCheck m (0x0780 + s) l mine) m
  let m := modSeam m s (fun x => { x with lost := sat 0xFFFFFFFF (x.lost + ks.length) })
  raiseErr m 0x0043 (0x0780 + s) (le 1 s ++ le 7 0 ++ le 8 ks.length)

/-- One line found unreadable: it is poisoned in its present pieces and counted lost (R515). -/
def lineLost (m : Mach) (n : Nat) : Mach :=
  linesLost { m with mem := memPoison m.mem n } (seamOf n) [seamLine n]

/-! ## Channels that go missing (R502 to R506, R514 to R518) -/

/-- The seam and side that a channel serves on subchannel i: the seam number, 0xF where there is none. -/
def seamServed (m : Mach) (c i : Nat) : Nat :=
  ((List.range 4).find? (fun s => (seam m s).members.contains (2 * c + i))).getD 0xF

/-- The position that a subchannel holds in a seam. -/
def memberPos (m : Mach) (s cs : Nat) : Nat := (seam m s).members.findIdx (· == cs)

/-- A healthy spare channel (R504): role spare, trained, running or in self-refresh. -/
def spareChan (m : Mach) : Option Nat :=
  (List.range 12).find? (fun c =>
    let x := chan m c
    x.role == 2 && !x.offline && (x.phase == .running || x.phase == .selfRefresh) && !applyingNames m 0x05 c)

/-- A seam begins rebuilding a position onto a spare channel (R504, R507). -/
def startRebuild (m : Mach) (s p target : Nat) : Mach :=
  let m := modSeam m s (fun x => { x with st := .rebuilding, missing := some p, target := some target, w := 0, map := [], sweep := none })
  modChan m target (fun x => { x with role := 3 })

/-- Lines of the regions of a catch-up map that the sweep has not reached (R514). -/
def unswept (m : Mach) (x : Seam) : List Nat :=
  (List.range m.mem.lines).filter (fun k => x.map.contains (regionOf m k) && (match x.sweep with | none => true | some w => decide (w ≤ k)))

/-- A member of a seam goes missing (R504): what the seam does in its state. `spare` is the channel onto which the lost
channel is rebuilt, the same for both its seams (R506). -/
def seamLoses (m : Mach) (s p : Nat) (spare : Option Nat) : Mach :=
  let x := seam m s
  let fromComplete (m : Mach) : Mach :=
    match spare with
    | some t => startRebuild m s p t
    | none => modSeam m s (fun x => { x with st := .degraded, missing := some p, map := [], sweep := none })
  let fail (m : Mach) (from_ : Nat) : Mach :=
    let ks := (List.range m.mem.lines).filter (fun k => decide (from_ ≤ k))
    let m := modSeam m s (fun x => { x with st := .failed, w := from_ })
    let m := linesLost m s ks
    raiseErr m 0x0044 (0x0780 + s) (le 1 s)
  match x.st with
  | .complete => fromComplete m
  | .degraded => if x.missing = some p then m else fail m 0
  | .rebuilding => if x.missing = some p then m else fail m x.w
  | .catchUp =>
    if x.missing = some p then fromComplete m
    else
      -- R514: the retraining channel returns with its old settings; what the sweep has not rewritten is lost
      let ks := unswept m x
      let c := x.members.getD (x.missing.getD 0) 0 / 2
      let was := (chan m c).phase
      let m := modChan m c (fun y => { y with phase := .running, lanes := if y.oldLanes.isEmpty then y.lanes else y.oldLanes })
      -- the channel's other seam goes on with its catch-up; where the retraining was stopped, its sweep begins
      let other := (List.range 4).find? (fun q => q != s && (seam m q).st == .catchUp && (seam m q).members.any (fun cs => cs / 2 == c))
      let m := match other with
        | none => m
        | some q => modChan (if was = Phase.retraining then modSeam m q (fun y => { y with sweep := some 0 }) else m) c (fun y => { y with phase := .catchUp })
      let m := { m with mem := ks.foldl (fun q k => memPoison q (lineOfSeam s k)) m.mem }
      let m := modSeam m s (fun x => { x with st := .degraded, missing := some p, map := [], sweep := none })
      linesLost m s ks
  | .failed => m

/-- The read of a line cannot be rebuilt: it ends with nothing to fetch, and the line is lost where its seam still held it (R515). -/
def readLost (m : Mach) (n : Nat) (q : LineRead) : Mach :=
  let m := setRead m n { q with need := [], unc := none }
  if lineGone m n then m else lineLost m n

/-- A piece of a read under way cannot be had (R499, R503): the parity piece is fetched in its place; where that is missing or one piece was
bad before, the line is lost. `unc` names the piece where it proved uncorrectable. -/
def pieceGone (m : Mach) (n p src : Nat) (ls : Option Nat) (unc : Option (Nat × Nat)) : Mach :=
  match tfind m.mem.reads n with
  | none => m
  | some q =>
    let s := seamOf n
    let pp := parityPos (seamLine n)
    let q := { q with need := q.need.filter (fun e => e.2 != p), bad := q.bad ++ [p], unc := unc }
    if q.parity || posMissing m s (seamLine n) pp then readLost m n q
    else
      let m := setRead m n { q with parity := true, need := q.need ++ [(posSub m s pp, pp)] }
      let m := if unc.isSome then m else modSeam m s (fun x => { x with rebuilds := sat 0xFFFFFFFF (x.rebuilds + 1) })
      queueRead m n pp src ls false

/-- What a channel's queues still hold is returned (R503, R512): its piece reads are served by inline rebuild, the pieces of its writes are
discarded. -/
def drainChan (m : Mach) (c : Nat) : Mach :=
  let m := m.mem.writes.foldl (fun m w => if w.left.any (fun e => e.1 / 2 == c) then dropPieces m w (fun e => e.1 / 2 != c) else m) m
  [0, 1].foldl (fun m i =>
    let cs := 2 * c + i
    let rs := (subOf (chan m c) i).reads
    let m := modSub m cs (fun x => { x with reads := [], ledgerOut := (x.ledgerOut + rs.length) % 2 ^ 32 })
    rs.foldl (fun m r => pieceGone m r.n r.pos r.src (some r.lease) none) m) m

/-- The seams that a channel serves lose it. A channel that was a rebuild target leaves its seams looking for another spare. -/
def channelGone (m : Mach) (c : Nat) (spare : Option Nat) : Mach :=
  let m := [0, 1].foldl (fun m i =>
    let s := seamServed m c i
    if s = 0xF then m else seamLoses m s (memberPos m s (2 * c + i)) spare) m
  (List.range 4).foldl (fun m s =>
    let x := seam m s
    if x.st = .rebuilding ∧ x.target = some c then
      match spare with
      | some t => startRebuild m s (x.missing.getD 0) t
      | none => modSeam m s (fun x => { x with st := .degraded, target := none })
    else m) m

/-- A channel is declared Failed (R502, R503): its queues are returned, its record written, and its seams move (R504). Around Hold no recovery
starts: the seams run without the channel, and the rebuild waits for HOLD_EXIT (R32). -/
def channelFails (m : Mach) (c trigger : Nat) : Mach :=
  if (chan m c).phase = .failed then m else
  let sa := seamServed m c 0
  let sb := seamServed m c 1
  let wasMember := sa ≠ 0xF ∨ sb ≠ 0xF
  let m := modChan m c (fun x => { x with phase := .failed, draining := false })
  let m := setUState m 0x04 c .failed
  let m := raiseErr m 0x0042 (0x0700 + c) (le 1 c ++ le 1 sa ++ le 1 sb ++ le 1 trigger)
  let m := preempt m [(4, c)]
  let wasTarget := (List.range 4).any (fun s => (seam m s).st == .rebuilding && (seam m s).target == some c)
  let spare := if (wasMember ∨ wasTarget) ∧ !holding m then spareChan m else none
  let m := match spare with | some t => preempt m [(4, t)] | none => m
  let m := channelGone m c spare
  let m := drainChan m c
  let rebuilds := (List.range 4).any (fun s => (seam m s).st == .rebuilding)
  if (wasMember ∨ wasTarget) ∧ holding m then modMode m (fun x => { x with deferred := x.deferred ++ [.chan c trigger], recPending := true })
  else if wasMember ∧ spare.isSome ∧ rebuilds then beginRecovery m (.chan c trigger) else m

/-- The rebuild that a channel's failure around Hold left waiting begins, where there is a spare (R32, R504): of the seams that still run
without a failed channel, that channel's own first. -/
def chanRecovers (m : Mach) (c trigger : Nat) : Mach :=
  let lost (s : Nat) : Nat := (seam m s).members.getD ((seam m s).missing.getD 0) 0 / 2
  let ss := (List.range 4).filter (fun s => (seam m s).st == .degraded && (seam m s).missing.isSome && (chan m (lost s)).phase == .failed)
  let own := ss.filter (fun s => lost s == c)
  let ss := if own.isEmpty then ss.filter (fun s => lost s == lost (ss.headD 0)) else own
  match ss, spareChan m with
  | [], _ => m
  | _, none => m
  | ss, some t => beginRecovery (ss.foldl (fun m s => startRebuild m s ((seam m s).missing.getD 0) t) (preempt m [(4, t)])) (.chan c trigger)

/-- A channel found an uncorrectable piece of a line (R502, R538): counted, with the lines of the last second. -/
def countUnc (m : Mach) (c n : Nat) : Mach :=
  modChan m c (fun x => { x with
    uncorrectable := sat 0xFFFF (x.uncorrectable + 1),
    uncLines := (x.uncLines.filter (fun e => decide (m.now < e.2 + 1000000000) && e.1 != n)) ++ [(n, m.now)] })

/-- The channel that found uncorrectable pieces in 64 distinct lines within a second is Failed (R502). -/
def uncFails (m : Mach) (c : Nat) : Mach := if 64 ≤ (chan m c).uncLines.length then channelFails m c 4 else m

/-- The piece at position p, which channel c found uncorrectable, is rebuilt inline from the other four and written back (R500). -/
def pieceRebuilt (m : Mach) (c n p : Nat) : Mach :=
  let s := seamOf n
  let m := modSeam m s (fun x => { x with rebuilds := sat 0xFFFFFFFF (x.rebuilds + 1) })
  raiseErrD m 0x0041 (0x0780 + s) (0x0700 + c) (le 1 s ++ le 1 p ++ le 6 0 ++ le 8 (seamLine n)) none (some (256 * n)) 0

/-- A piece of a read under way has come good (R499); the last one shows that an uncorrectable piece could be rebuilt (R500). -/
def pieceGood (m : Mach) (n p : Nat) : Mach :=
  match tfind m.mem.reads n with
  | none => m
  | some q =>
    let q := { q with need := q.need.filter (fun e => e.2 != p) }
    match q.unc with
    | some u => if q.need.isEmpty then pieceRebuilt (setRead m n { q with unc := none }) u.1 n u.2 else setRead m n q
    | none => setRead m n q

/-- A piece proves uncorrectable (R499, R500, R502): the parity piece is fetched in its place; a second one loses the line. -/
def pieceBad (m : Mach) (c n p : Nat) (src : Nat) (ls : Option Nat) : Mach :=
  uncFails (pieceGone (countUnc m c n) n p src ls (some (c, p))) c

/-- A single-device error that the piece's own code corrects (R500). -/
def pieceCorrected (m : Mach) (c sub n : Nat) : Mach :=
  let m := modChan m c (fun x => { x with corrected := sat 0xFFFF (x.corrected + 1) })
  raiseErrD m 0x0040 (0x0700 + c) (0x0700 + c) (le 1 c ++ le 1 sub ++ le 6 0 ++ le 8 (seamLine n)) none (some (256 * n)) 0

/-- The RCD reports a command/address parity error; the sixteenth in a row fails the channel (R502). -/
def caParityError (m : Mach) (c : Nat) : Mach :=
  let m := modChan m c (fun x => { x with caErrors := sat 0xFFFF (x.caErrors + 1), caParity := x.caParity + 1 })
  if 16 ≤ (chan m c).caParity then channelFails m c 2 else m

/-- Priority scheduling holds: some seam is Rebuilding, or the module is in Rework (R505). -/
def fixedPrio (m : Mach) : Bool :=
  m.mode.st == .rework || (List.range 4).any (fun s => (seam m s).st == .rebuilding)

/-- The first element that a strict order puts before all others. -/
def pickBest {α : Type} (lt : α → α → Bool) (l : List α) : Option α :=
  match l with
  | [] => none
  | x :: r => match pickBest lt r with
    | none => some x
    | some y => if lt y x then some y else some x

/-- The request that a subchannel takes of those that it may serve (R523, R524). -/
def choosePiece (m : Mach) (c i : Nat) (elig : List PReq) : Option PReq :=
  let sub := subOf (chan m c) i
  let tie (a b : PReq) : Bool := decide (a.lease < b.lease) || (a.lease == b.lease && decide (a.src < b.src))
  if fixedPrio m then
    pickBest (fun a b => decide (portPrio m c a.port < portPrio m c b.port) ||
      (a.port == b.port && decide (a.seq < b.seq))) elig
  else
    let early (l : List PReq) := pickBest (fun a b => decide (a.deadline < b.deadline) || (a.deadline == b.deadline && tie a b)) l
    let x8 := match (chan m c).dimm0 with | some d => d.width.toNat == 8 | none => false
    let urgent := elig.filter (fun r => decide (4 * (r.deadline - m.now) < r.target))
    let hits := elig.filter (fun r => ((tfind sub.openRows (lineBank (seamLine r.n))).map (fun e => e.1)) == some (lineRow x8 (seamLine r.n)))
    match early urgent with
    | some r => some r
    | none => match pickBest (fun a b => decide (a.seq < b.seq)) hits with
      | some r => some r
      | none => early elig

/-- The requests of a list with no older request of the same line before them (R525). -/
def inOrder (l all_ : List PReq) : List PReq :=
  l.filter (fun r => all_.all (fun q => !(q.n == r.n && decide (q.seq < r.seq))))

/-- The read that a subchannel serves next: a later one of a line waits for an earlier one, and is served from the queue behind a write. -/
def chooseRead (m : Mach) (c i : Nat) : Option PReq :=
  let rs := (subOf (chan m c) i).reads
  choosePiece m c i (inOrder rs rs)

/-- The write that a subchannel serves next. -/
def chooseWrite (m : Mach) (c i : Nat) : Option PReq :=
  let ws := writesOn m (2 * c + i)
  choosePiece m c i (inOrder ws ((subOf (chan m c) i).reads ++ ws))

/-- A subchannel serves writes: it drains them, or has no read (R525). -/
def servesWrites (m : Mach) (c i : Nat) : Bool :=
  (chooseWrite m c i).isSome && ((subOf (chan m c) i).draining || (chooseRead m c i).isNone)

/-- A served request opens its row with page hint 1, closes it with hint 0 (R526). -/
def touchRow (m : Mach) (c i : Nat) (r : PReq) : Mach :=
  let x8 := match (chan m c).dimm0 with | some d => d.width.toNat == 8 | none => false
  let b := lineBank (seamLine r.n)
  modSub m (2 * c + i) (fun x => { x with openRows := if r.hint then tset x.openRows b (lineRow x8 (seamLine r.n), m.now) else tdel x.openRows b })

/-- A channel that takes commands. -/
def chanServes (m : Mach) (c : Nat) : Bool :=
  let x := chan m c
  (x.phase == .running || x.phase == .catchUp) && x.srStep != 3

/-- The DIMM has answered a command without a parity error (R502). -/
def answered (m : Mach) (c : Nat) : Mach := modChan m c (fun x => { x with timeouts := 0, caParity := 0 })

/-- A subchannel serves the piece read that it chooses (R499, R500, R523 to R526). -/
def servePiece (m : Mach) (c i : Nat) (ecc : PieceEcc) : Mach :=
  if !chanServes m c || servesWrites m c i then m else
  match chooseRead m c i with
  | none => m
  | some r =>
    let took (m : Mach) : Mach :=
      modSub m (2 * c + i) (fun x => { x with reads := x.reads.erase r, ledgerOut := (x.ledgerOut + 1) % 2 ^ 32 })
    -- a read that a queued write covers needs no command
    if (writesOn m (2 * c + i)).any (fun w => w.n == r.n) then pieceGood (took m) r.n r.pos else
    if ecc = .caParity then caParityError m c else
    let m := took (touchRow (answered m c) c i r)
    match ecc with
    | .good => pieceGood m r.n r.pos
    | .corrected => pieceCorrected (pieceGood m r.n r.pos) c i r.n
    | .uncorrectable => pieceBad m c r.n r.pos r.src (some r.lease)
    | .caParity => m

/-- A subchannel writes the piece that it chooses, or its DIMM reports a command/address parity error (R498, R502, R523 to R526). The line
stands in memory when its last piece is written. -/
def serveWrite (m : Mach) (c i : Nat) (parity : Bool) : Mach :=
  if !chanServes m c || !servesWrites m c i then m else
  match chooseWrite m c i with
  | none => m
  | some r =>
    if parity then caParityError m c else
    match m.mem.writes.find? (fun w => w.left.any (fun e => e.1 == 2 * c + i && e.2 == r)) with
    | none => m
    | some w => dropPieces (touchRow (answered m c) c i r) w (fun e => e.1 != 2 * c + i || e.2 != r)

/-! ## Taking channels out and back (R510 to R513, R521, R534) -/

def chanSeams (m : Mach) (c : Nat) : List Nat := ([0, 1].map (seamServed m c)).filter (fun s => s != 0xF)

/-- RETRAIN would be accepted (R510, R521). -/
def retrainOk (m : Mach) (c : Nat) : Bool :=
  (chan m c).trained && !(chan m c).offline && !(chan m c).draining && !chanGone m c &&
  ((chan m c).role == 1 || (chan m c).role == 2)

/-- Every seam that the channel serves is Complete and none is Rebuilding: the conditions on seams of RETRAIN (R510). -/
def retrainSeamsOk (m : Mach) (c : Nat) : Bool :=
  (chanSeams m c).all (fun s => (seam m s).st == .complete) && (List.range 4).all (fun s => (seam m s).st != .rebuilding)

/-- No other channel is retraining (R510). -/
def noneRetrains (m : Mach) (c : Nat) : Bool := (List.range 12).all (fun d => d == c || (chan m d).phase != .retraining)

/-- A channel is retrained live (R512, R513): its seams start the catch-up map, its queues are returned. -/
def startRetrain (m : Mach) (c : Nat) : Mach :=
  let m := (chanSeams m c).foldl (fun m s =>
    let p := (seam m s).members.findIdx (fun cs => cs / 2 == c)
    modSeam m s (fun x => { x with st := .catchUp, missing := some p, map := [], sweep := none })) m
  let m := modChan m c (fun x => { x with phase := .retraining, oldLanes := x.lanes, dueSince := none })
  drainChan m c

/-- A spare becomes Spare (R504, R510): each Degraded seam that needs one begins rebuilding onto it; R506 binds the two seams
of one channel to subchannels A and B of the same spare, so a second lost channel finds it taken. -/
def offerSpare (m : Mach) (c : Nat) : Mach :=
  let needs := (List.range 4).filter (fun s => (seam m s).st == .degraded)
  match needs with
  | [] => m
  | s0 :: _ =>
    let lostChan := (seam m s0).members.getD ((seam m s0).missing.getD 0) 0 / 2
    let both := needs.filter (fun s => (seam m s).members.getD ((seam m s).missing.getD 0) 0 / 2 == lostChan)
    let m := both.foldl (fun m s => startRebuild m s ((seam m s).missing.getD 0) c) m
    beginRecovery m (.chan lostChan 0)

/-- A channel that becomes Spare stays in self-refresh where its record says so (R529). -/
def becomeSpare (m : Mach) (c : Nat) : Mach :=
  let sr := chanFlag m c 2
  let m := modChan m c (fun x => { x with role := 2, offline := false, phase := if sr then .selfRefresh else .running, srStep := if sr then 3 else 0 })
  let m := setUState m 0x04 c .spare
  offerSpare m c

/-- The DIMM facts that R491 binds. -/
def spdSame (a b : Option Spd) : Bool :=
  match a, b with
  | some x, some y => x.gb == y.gb && x.width == y.width && x.ranks == y.ranks && x.dies == y.dies
  | none, none => true
  | _, _ => false

def dimmsOf (x : Chan) : List Spd := [x.dimm0, x.dimm1].filterMap id

/-- The capacity, width, ranks and dies are ones the module supports (R490). -/
def spdSupported (d : Spd) : Bool :=
  decide (32 ≤ d.gb.toNat) && decide (d.gb.toNat ≤ 256) && (d.width == 4 || d.width == 8) &&
  (d.ranks == 1 || d.ranks == 2 || d.ranks == 4) && decide (1 ≤ d.dies.toNat) && decide (d.dies.toNat ≤ 4)

/-- A channel's DIMMs keep R490 and R491 against its record and the member channels; a spare's may be larger. -/
def chanFits (m : Mach) (c : Nat) (x : Chan) : Bool :=
  let rate := chanRate m c
  let want := imgFld m 0x0005 c 2 1
  let ds := dimmsOf x
  let refs := ((List.range 12).filter (fun d => d != c && imgFld m 0x0005 d 0 1 == 1 && (chan m d).trained)).map (fun d => dimmsOf (chan m d))
  let spare := imgFld m 0x0005 c 0 1 == 2
  ds.length == want && ds.all spdSupported && ds.all (fun d => decide (rate ≤ d.rate.toNat)) &&
  ds.all (fun d => match ds.head? with | some e => spdSame (some d) (some e) | none => true) &&
  (match refs.head? with | some l => l.length == ds.length | none => true) &&
  (match refs.head?.bind (fun l => l.head?), ds.head? with
   | some r, some d => r.width == d.width && r.ranks == d.ranks && r.dies == d.dies &&
       (if spare then decide (r.gb.toNat ≤ d.gb.toNat) else r.gb == d.gb)
   | _, _ => true)

/-- Every lane's widest eye is at least 0.25 UI (R502, R520). -/
def lanesOk (l : List Lane) : Bool := l.all (fun x => decide (16 ≤ x.readEye.toNat) && decide (16 ≤ x.writeEye.toNat))

/-- The training of a channel ended (R519, R520): its SPD and lanes stand, and it passed where lanes and DIMMs allow. -/
def applyTraining (m : Mach) (c : Nat) (r : ChanTrain) : Mach :=
  let x := { chan m c with dimm0 := r.dimm0, dimm1 := r.dimm1, lanes := r.lanes, oldLanes := [], lastTrain := m.now,
                           tempAtTrain := (chan m c).temp }
  setChan m c { x with trained := lanesOk r.lanes && !r.lanes.isEmpty && chanFits m c x, powered := true }

/-- The command of `MCH_CMD` (R510, R511, R536, R537): accepted with its effect, or refused in CMD_RESULT. -/
def mchCmd (m : Mach) (c code : Nat) : Mach :=
  let x := chan m c
  let done (m : Mach) (r : Nat) : Mach := modChan m c (fun x => { x with lastCmd := code, cmdResult := r })
  let member := (chanSeams m c) ≠ [] ∧ x.role = 1 ∧ x.offline = false ∧ x.draining = false ∧ x.phase ≠ .failed ∧ x.phase ≠ .poweredOff
  match code with
  | 1 =>
    if !retrainOk m c || (retrainSeamsOk m c && !noneRetrains m c) then done m 1
    else if !retrainSeamsOk m c then done m 2
    else done (startRetrain m c) 0
  | 2 =>
    if x.role = 2 ∧ x.offline = false ∧ (x.phase = .running ∨ x.phase = .selfRefresh) then
      done (setUState (modChan m c (fun x => { x with offline := true })) 0x04 c .offline) 0
    else if member then
      match spareChan m with
      | none => done m 3
      | some t =>
        let m := channelGone m c (some t)
        let m := modChan m c (fun x => { x with draining := true })
        let m := drainChan (setUState m 0x04 c .draining) c
        done (if (chanSeams m c).any (fun s => (seam m s).st == .rebuilding) then beginRecovery m (.chan c 0) else m) 0
    else done m 1
  | 3 =>
    if member then
      if (chanSeams m c).all (fun s => (seam m s).st == .complete) then
        let m := modChan m c (fun x => { x with offline := true })
        let m := channelGone m c none
        done (setUState (drainChan m c) 0x04 c .offline) 0
      else done m 2
    else done m 1
  | 4 =>
    if x.powered ∧ (x.offline ∨ x.phase = .failed) then
      done (emit (modChan m c (fun x => { x with phase := .poweredOff, powered := false, trained := false, offline := true })) (.land (6800 + 2 * c) false)) 0
    else done m 1
  | 5 =>
    if !x.powered && x.phase == .poweredOff then
      if x.present && decide (x.presentSince + 100000000 ≤ m.now) then
        done (emit (modChan m c (fun x => { x with powered := true, phase := .training, pwrOnAt := m.now })) (.land (6800 + 2 * c) true)) 0
      else done m 4
    else done m 1
  | 6 =>
    if x.offline ∧ x.powered ∧ x.trained ∧ x.phase ≠ .failed ∧ x.phase ≠ .training then done (becomeSpare m c) 0
    else done m 1
  | _ => done m 5

end Sys2Proof.Machine
end

