-- ==== Sys2Proof/Machine/Coh.lean ====
section
/-! DEFINITION. Operations of the bench L2s and the home nodes (R400 to R489): the interleave, the bench side (R458 to
R463), the home side (R464 to R470), write-backs and mirrors (R471 to R474), bench loss and takeover at the homes (R430,
R475 to R479). -/

namespace Sys2Proof.Machine

/-! ## Clocks of units -/

def dom (m : Mach) (d : Nat) : Dom := tget m.doms d Dom.reset
def modDom (m : Mach) (d : Nat) (f : Dom → Dom) : Mach := { m with doms := tset m.doms d (f (dom m d)) }
/-- The clock of a bench in MHz (R834). -/
def benchMhz (m : Mach) (b : Nat) : Nat := (dom m b).mhz

/-! ## Replacement (R402) -/

/-- The pseudo-LRU tree over the 2^d ways from `base`: at each node replacement goes to the half whose last access is older, to the other where
that half has no way to choose. `use` is the last access of a way, in place of the tree's bits, each of which says which half that is. -/
def plruPick (d base : Nat) (use : Nat → Nat) (ok : Nat → Bool) : Option Nat :=
  match d with
  | 0 => if ok base then some base else none
  | d + 1 =>
    let half := 2 ^ d
    let newest (k : Nat) : Nat := (List.range half).foldl (fun (a i : Nat) => max a (use (k + i))) 0
    let lo := plruPick d base use ok
    let hi := plruPick d (base + half) use ok
    if newest (base + half) < newest base then hi.orElse (fun _ => lo) else lo.orElse (fun _ => hi)

/-- The way of an L1 set that a line takes: its own, else an invalid one, else the one that the tree names. -/
def l1Pick (t : List L1Way) (sets d n : Nat) : Nat :=
  let set := t.filter (fun x => x.line % sets == n % sets)
  let free := (List.range (2 ^ d)).find? (fun w => !set.any (fun x => x.way == w))
  let tree := plruPick d 0 (fun w => match set.find? (fun x => x.way == w) with | some x => x.use | none => 0) (fun _ => true)
  match set.find? (fun x => x.line == n) with
  | some x => x.way
  | none => free.getD (tree.getD 0)

/-! ## Homes (R445 to R448) -/

/-- The slot of a line: the exclusive OR of its 6-bit fields (R445). -/
def slotOfLine (n : Nat) : Nat :=
  (List.range 8).foldl (fun a i => Nat.xor a (n / 64 ^ i % 64)) 0

/-- The share index PA[51:14], and the L3 set that its low bits form (R446). -/
def shareIndex (n : Nat) : Nat := n / 64
def l3Set (n : Nat) : Nat := shareIndex n % 4096
/-- The L2 set of a line, address [17:8] (R400). -/
def l2SetOf (n : Nat) : Nat := n % 1024

/-- The home node that the interleave table names (R445). -/
def ownHome (m : Mach) (n : Nat) : Nat := imgFld m 0x0004 0 (slotOfLine n) 1 % 16

/-- The home node of a line: the covering node where a takeover is in force (R445). -/
def homeOf (m : Mach) (n : Nat) : Nat :=
  let h := ownHome m n
  if (home m h).lost then ((List.range 16).find? (fun g => g != h && !(home m g).lost && (home m g).covered.getLsbD h)).getD h else h

/-- A directory set: 16 entries of those with the same low bits of the share index (R448, log entry 12). -/
def dirSet (n : Nat) : Nat := shareIndex n % 8192

/-- The bench that a source number names. -/
def benchOfSrc (src : Nat) : Option Nat := if 0x0500 ≤ src ∧ src < 0x0540 then some (src - 0x0500) else none

/-! ## Codes of COH_PROTOCOL (R794) -/

def msgCode : ReqOp → Nat
  | .rdS => 1 | .rdX => 2 | .upg => 3 | .mntC => 4 | .mntI => 5 | .mntCI => 6 | .ioRd => 7 | .wbM => 8 | .evE => 9
  | .ioWr => 10 | .dirEvict => 0 | .zero => 0 | .rebuild => 0
def snpCode : SnpOp → Nat
  | .snpS => 12 | .snpX => 13 | .snpCln => 14 | .snpDrop => 15
/-- RspI, RspK, RspD, RspC, RspDO, RspCS, RspDS, RspDE by kind 0 to 7; DataS, DataE, DataM by kind 0 to 2. -/
def rspCode (kind : Nat) : Nat := 16 + kind
def dataCode (kind : Nat) : Nat := 24 + kind
def benchStCode : Option CohSt → Nat
  | none => 1 | some .s => 2 | some .e => 3 | some .o => 4 | some .m => 5 | some .isD => 6 | some .imD => 7 | some .smA => 8
  | some .omA => 9 | some .eiA => 10 | some .miA => 11 | some .oiA => 12 | some .iiA => 13

/-- A fault whose loss command has not been taken yet is noted once. -/
def noteFault (m : Mach) (f : FaultEv) : Mach :=
  modMode m (fun x => if x.found.contains f then x else { x with found := x.found ++ [f], foundAt := x.foundAt ++ [(f, m.now)] })

/-- A protocol error at a bench makes the bench lost (R468). -/
def benchError (m : Mach) (b code n : Nat) : Mach :=
  let st := (tfind (l2 m b).lines n).map (fun x => x.st)
  let m := raiseErrD m 0x0030 (0x0500 + b) (0x0500 + b) (le 1 code ++ le 1 (benchStCode st)) none (some (256 * n)) 0
  noteFault m (.bench b true)

/-- The stable state of a line from its entry (R464): 1 U, 2 S, 3 X, 4 O. -/
def stableCode (e : Option DirEnt) : Nat :=
  match e with
  | none => 1
  | some d => match d.owner with
    | some _ => if d.ownerO then 4 else 3
    | none => if d.sharers.isEmpty then 1 else 2

def homeStCode (x : Home) (n : Nat) : Nat :=
  match tfind x.txns n with
  | some t => (match t.st with | .hr => 5 | .hs => 6 | .hw => 7 | .hd => 8)
  | none => stableCode (tfind x.dir n)

/-- A protocol error at a home node makes it lost (R468). -/
def homeError (m : Mach) (h code n : Nat) : Mach :=
  let m := raiseErrD m 0x0030 (0x0600 + h) (0x0600 + h) (le 1 code ++ le 1 (homeStCode (home m h) n)) none (some (256 * n)) 0
  let m := modHome m h (fun x => { x with protoN := sat 0xFFFF (x.protoN + 1) })
  noteFault m (.home h)

/-! ## The bench's first level (R402, R406, R461) -/

def enginesOf (b : Nat) : List Nat := (List.range 17).map (engineOf b)

/-- A line leaves every L1I of a bench. -/
def dropL1I (m : Mach) (b n : Nat) : Mach :=
  { m with l1i := m.l1i.map (fun p => if benchOf p.1 = b then (p.1, p.2.filter (fun x => x.1.line != n)) else p) }

/-- A line leaves every L1 cache and side buffer of a bench (R402, R406, R461). -/
def dropL1 (m : Mach) (b n : Nat) : Mach :=
  let m := dropL1I m b n
  modL2 { m with
    l1d := m.l1d.map (fun p => if benchOf p.1 = b then (p.1, p.2.filter (fun x => x.line != n)) else p),
    eside := m.eside.map (fun p => if benchOf p.1 = b then (p.1, p.2.filter (fun x => x != n)) else p) } b
    (fun x => { x with side := x.side.filter (fun k => k != n) })

/-- A write to a line clears every reservation on it but that of the level that writes (R237). -/
def clearResv (m : Mach) (n : Nat) (except : Option Nat) : Mach :=
  { m with resv := m.resv.filter (fun p => p.2 / 256 != n || some p.1 == except) }

/-! ## The bench side -/

def lineAt (m : Mach) (b n : Nat) : Option L2Line := tfind (l2 m b).lines n
def stAt (m : Mach) (b n : Nat) : Option CohSt := (lineAt m b n).map (fun x => x.st)
def setLine (m : Mach) (b n : Nat) (x : L2Line) : Mach := modL2 m b (fun y => { y with lines := tset y.lines n x })
def delLine (m : Mach) (b n : Nat) : Mach := modL2 m b (fun y => { y with lines := tdel y.lines n })

def isTransient : CohSt → Bool
  | .s | .e | .o | .m => false
  | _ => true

/-- The miss trackers in use: one for each line in a transient state (R449). -/
def missTrackers (m : Mach) (b : Nat) : Nat := ((l2 m b).lines.filter (fun p => isTransient p.2.st)).length

/-- The L2 holds the line as dirty. -/
def dirtySt : CohSt → Bool
  | .o | .m | .omA | .miA | .oiA => true
  | _ => false

/-- A way is locked (R408). -/
def wayLocked (x : L2St) (w : Option Nat) : Bool :=
  match w with
  | some k => decide (k < 8) && x.lock.toNat.testBit k
  | none => false

/-- The lease assigned to a lockable way (R443). -/
def wayLease (x : L2St) (w : Nat) : Nat := bits x.lockLease.toNat (8 * w + 7) (8 * w)

/-- A bench's request to the home of a line. -/
def benchReq (m : Mach) (b : Nat) (op : ReqOp) (n ls : Nat) (self incl : Bool) (d : Line) (poison : Bool) : Mach :=
  send m (.req (homeOf m n) { op := op, n := n, src := 0x0500 + b, lease := ls, self := self, incl := incl, mask := 0,
                              data := d, poison := poison })

/-- A line leaves by replacement or by a clean that evicts (R459, column Replace). -/
def replaceLine (m : Mach) (b n : Nat) : Mach :=
  match lineAt m b n with
  | none => m
  | some x =>
    let m := dropL1 m b n
    match x.st with
    | .s => delLine m b n
    | .e => benchReq (setLine m b n { x with st := .eiA, way := none }) b .evE n x.lease false false x.data x.poison
    | .m => benchReq (setLine m b n { x with st := .miA, way := none, dirtyAt := none }) b .wbM n x.lease false false x.data x.poison
    | .o => benchReq (setLine m b n { x with st := .oiA, way := none, dirtyAt := none }) b .wbM n x.lease false false x.data x.poison
    | _ => m

/-- The way that a fill for a lease takes (R402, R409, R456): an invalid locked way of the lease, else an invalid unlocked
way, else the way of a victim; replacement chooses no locked way, no line in a transient state, and no line in tenure
while another can be chosen. None where the fill must wait. The second part is the victim's line. -/
def chooseWay (m : Mach) (b n ls : Nat) : Option (Nat × Option Nat) :=
  let x := l2 m b
  let inSet := x.lines.filter (fun p => l2SetOf p.1 == l2SetOf n && p.1 != n && p.2.way.isSome)
  let used := inSet.filterMap (fun p => p.2.way)
  let mine := (List.range 8).filter (fun w => wayLocked x (some w) && wayLease x w == ls && !used.contains w)
  let free := (List.range 16).filter (fun w => !wayLocked x (some w) && !used.contains w)
  match mine, free with
  | w :: _, _ => some (w, none)
  | [], w :: _ => some (w, none)
  | [], [] =>
    let inWay (w : Nat) : Option (Nat × L2Line) := inSet.find? (fun p => p.2.way == some w)
    let calm (p : Nat × L2Line) : Bool := !wayLocked x p.2.way && !isTransient p.2.st &&
      (match p.2.tenureEnd with | some t => decide (t ≤ m.now) | none => true)
    match plruPick 4 0 (fun w => match inWay w with | some p => p.2.lastUse | none => 0) (fun w => match inWay w with | some p => calm p | none => false) with
    | some w => (inWay w).map (fun p => (w, some p.1))
    | none => none

/-- 64 bench cycles of a bench in ns, rounded up (R456); its clock is set by `benchMhz`. -/
def tenureNs (mhz : Nat) : Nat := ceilDiv 64000 (max 1 mhz)

/-- The state of a bench's access to a line: served at once with its data, waiting, or a miss that sends a request. -/
inductive L2Answer where
  | hit (d : Line) (poison : Bool)
  | wait

/-- A miss takes a line from I into the transient state of its request, with the access that caused it. -/
def l2Miss (m : Mach) (b n ls : Nat) (own pf : Bool) (cause : Option (Nat × Nat)) : Mach :=
  let x : L2Line := { st := if own then .imD else .isD, data := 0, poison := false, way := none, dirtyAt := none, tenureEnd := none,
                      deferred := none, lease := ls, lastUse := m.tick, cause := cause, pf := pf }
  benchReq (setLine m b n x) b (if own then .rdX else .rdS) n ls false false 0 false

/-- The first access that hits a line of the bench's side buffer moves it into the L2 (R407); none where no way can be had now. -/
def l2Seat (m : Mach) (b n ls : Nat) : Option Mach :=
  if !(l2 m b).side.contains n then some m else
  match lineAt m b n, chooseWay m b n ls with
  | some x, some (w, victim) =>
    let m := match victim with | some v => replaceLine m b v | none => m
    some (modL2 (setLine m b n { x with way := some w }) b (fun y => { y with side := y.side.filter (fun k => k != n) }))
  | _, _ => none

/-- A load or fetch at the L2 (R459, column Load): a hit, or the request that a miss sends. -/
def l2Load (m : Mach) (b n ls : Nat) (cause : Option (Nat × Nat)) : L2Answer × Mach :=
  match lineAt m b n with
  | none => (.wait, if missTrackers m b < 64 then l2Miss m b n ls false false cause else m)
  | some x =>
    match x.st with
    | .s | .e | .o | .m | .smA | .omA =>
      let m := (l2Seat m b n ls).getD m
      (.hit x.data x.poison, modL2 (touch m) b (fun y => { y with
        lines := y.lines.map (fun (p : Nat × L2Line) => if p.1 = n then (p.1, { p.2 with lastUse := m.tick }) else p) }))
    -- a demand access that meets a prefetch under way takes its fill
    | .isD => (.wait, if x.pf then setLine m b n { x with pf := false, lease := ls, cause := cause } else m)
    | _ => (.wait, m)

/-- A store or atomic at the L2 (R459, column Store or atomic): a hit leaves the line in M; its data is then written by
`l2Put`. An upgrade makes the lease of the access the one that obtains ownership (R429). -/
def l2Store (m : Mach) (b n ls : Nat) (cause : Option (Nat × Nat)) : L2Answer × Mach :=
  match lineAt m b n with
  | none => (.wait, if missTrackers m b < 64 then l2Miss m b n ls true false cause else m)
  | some _ =>
    match l2Seat m b n ls with
    | none => (.wait, m)
    | some m =>
      match lineAt m b n with
      | none => (.wait, m)
      | some x =>
        let up (st : CohSt) : Mach :=
          if missTrackers m b < 64 then benchReq (setLine m b n { x with st := st, lease := ls, cause := cause }) b .upg n ls false false 0 false else m
        match x.st with
        | .m => (.hit x.data x.poison, setLine (touch m) b n { x with lastUse := m.tick })
        | .e => (.hit x.data x.poison, setLine (touch m) b n { x with st := .m, dirtyAt := some m.now, lastUse := m.tick })
        | .s => (.wait, up .smA)
        | .o => (.wait, up .omA)
        | _ => (.wait, m)

/-- A prefetch of the bench's stride prefetcher (R405): it asks for a line that the bench does not hold. -/
def l2Prefetch (m : Mach) (b n ls : Nat) : Mach :=
  if (lineAt m b n).isSome ∨ 64 ≤ missTrackers m b then m else l2Miss m b n ls false true none

/-- The bytes of a store written into a line that the bench holds in M. -/
def l2Put (m : Mach) (b n : Nat) (mask : BitVec 256) (d : Line) (level : Option Nat) : Mach :=
  match lineAt m b n with
  | none => m
  | some x =>
    let whole := mask == BitVec.allOnes 256
    let m := setLine m b n { x with data := mergeLine x.data d mask, poison := x.poison && !whole }
    clearResv m n level

/-- A bench's response to the home of a line. -/
def benchRsp (m : Mach) (b n kind : Nat) (d : Option (Line × Bool)) : Mach := send m (.rsp (homeOf m n) kind n b d)

/-- What a bench answers to a snoop, and the line after it (R460, R462), when no tenure defers it. -/
def answerSnoop (m : Mach) (b n : Nat) (op : SnpOp) (maint incl : Bool) : Mach :=
  match lineAt m b n with
  | none => benchRsp m b n 0 none
  | some x =>
    let held := wayLocked (l2 m b) x.way && maint && !incl
    let op := if held && op == .snpX then .snpCln else op
    let dat := some (x.data, x.poison)
    let gone (m : Mach) : Mach := delLine (dropL1 m b n) b n
    let keep (m : Mach) (st : CohSt) : Mach := setLine m b n { x with st := st }
    let clean (m : Mach) (st : CohSt) : Mach := setLine m b n { x with st := st, dirtyAt := none }
    let lose (m : Mach) : Mach := setLine (dropL1 m b n) b n { x with st := .imD, dirtyAt := none, data := 0, poison := false }
    let hand (m : Mach) : Mach := setLine (dropL1 m b n) b n { x with st := .iiA, dirtyAt := none }
    if held && op == .snpDrop then benchRsp m b n 1 none else
    match x.st, op with
    | .s, .snpS => benchRsp m b n 1 none
    | .s, .snpX => benchRsp (gone m) b n 0 none
    | .s, .snpCln => benchRsp (dropL1I m b n) b n 1 none
    | .s, .snpDrop => benchRsp (gone m) b n 0 none
    | .e, .snpS => benchRsp (keep m .s) b n 5 dat
    | .e, .snpX => benchRsp (gone m) b n 3 dat
    | .e, .snpCln => benchRsp (dropL1I m b n) b n 1 none
    | .e, .snpDrop => benchRsp (gone m) b n 0 none
    | .o, .snpS => benchRsp m b n 4 dat
    | .o, .snpX => benchRsp (gone m) b n 2 dat
    | .o, .snpCln => benchRsp (clean (dropL1I m b n) .s) b n 6 dat
    | .o, .snpDrop => benchRsp (gone m) b n 0 none
    | .m, .snpS => benchRsp (keep m .o) b n 4 dat
    | .m, .snpX => benchRsp (gone m) b n 2 dat
    | .m, .snpCln => benchRsp (clean (dropL1I m b n) .e) b n 7 dat
    | .m, .snpDrop => benchRsp (gone m) b n 0 none
    | .isD, _ => benchRsp m b n 0 none
    | .imD, _ => benchRsp m b n 0 none
    | .smA, .snpS => benchRsp m b n 1 none
    | .smA, .snpX => benchRsp (lose m) b n 0 none
    | .smA, .snpCln => benchRsp (dropL1I m b n) b n 1 none
    | .smA, .snpDrop => benchRsp (lose m) b n 0 none
    | .omA, .snpS => benchRsp m b n 4 dat
    | .omA, .snpX => benchRsp (lose m) b n 2 dat
    | .omA, .snpCln => benchRsp (clean (dropL1I m b n) .smA) b n 6 dat
    | .omA, .snpDrop => benchRsp (lose m) b n 0 none
    | .eiA, .snpDrop => benchRsp (hand m) b n 0 none
    | .eiA, _ => benchRsp (hand m) b n 3 dat
    | .miA, .snpDrop => benchRsp (hand m) b n 0 none
    | .miA, _ => benchRsp (hand m) b n 2 dat
    | .oiA, .snpDrop => benchRsp (hand m) b n 0 none
    | .oiA, _ => benchRsp (hand m) b n 2 dat
    | .iiA, _ => benchRsp m b n 0 none

/-- The line is in a tenure that runs (R456). -/
def inTenure (m : Mach) (x : L2Line) : Bool :=
  match x.tenureEnd with | some t => decide (m.now < t) | none => false

/-- A snoop reaches a bench: SnpX and SnpDrop of a line in E or M wait for its tenure (R456), all others are answered. -/
def benchSnoop (m : Mach) (b n : Nat) (op : SnpOp) (maint incl : Bool) : Mach :=
  let defer : Bool := match lineAt m b n with
    | some x => inTenure m x && (x.st == .e || x.st == .m) && (op == .snpX || op == .snpDrop)
    | none => false
  if defer then
    modL2 m b (fun y => { y with
      deferredN := sat 0xFFFF (y.deferredN + 1),
      lines := y.lines.map (fun (p : Nat × L2Line) => if p.1 = n then (p.1, { p.2 with deferred := some (op, maint, incl) }) else p) })
  else
    answerSnoop (modL2 m b (fun y => { y with snoops := sat 0xFFFF (y.snoops + 1) })) b n op maint incl

/-- A fill finds no way that it may take: it waits for a tenure to end (R456). A prefetched line needs none. -/
def fillWaits (m : Mach) (b n kind : Nat) : Bool :=
  match lineAt m b n with
  | none => false
  | some x => (x.st == .isD || x.st == .imD) && !(x.pf && kind != 2) && (chooseWay m b n x.lease).isNone

/-- A prefetched line enters the bench's side buffer of 32 lines, of which the least recently used leaves (R405, R406). -/
def sideFill (m : Mach) (b n : Nat) (y : L2Line) : Mach :=
  let m := modL2 (setLine m b n y) b (fun z => { z with side := z.side.filter (fun k => k != n) ++ [n] })
  match (l2 m b).side with
  | v :: r => if 32 ≤ r.length then replaceLine m b v else m
  | [] => m

/-- A grant fills the line at the bench (R456, R459): a way is chosen, Done goes to the home, a tenure of 64 bc begins for E
and M. Where every way is in tenure the fill waits, and nothing has changed. A prefetched line goes to the side buffer, unless it comes
dirty. Kind 0 DataS, 1 DataE, 2 DataM. -/
def benchFill (m : Mach) (b n kind : Nat) (d : Line) (poison : Bool) (mhz : Nat) : Mach :=
  match lineAt m b n with
  | none => benchError m b (dataCode kind) n
  | some x =>
    let ok := match x.st, kind with
      | .isD, _ => true
      | .imD, 2 => true
      | _, _ => false
    if !ok then benchError m b (dataCode kind) n else
    let st : CohSt := match kind with | 0 => .s | 1 => .e | _ => .m
    let y (w : Option Nat) : L2Line := { x with
      st := st, data := d, poison := poison, way := w, dirtyAt := if kind = 2 then some m.now else none,
      tenureEnd := if kind = 0 then none else some (m.now + tenureNs mhz), lastUse := m.tick, cause := none, pf := false }
    if x.pf && kind != 2 then send (sideFill (touch m) b n (y none)) (.done (homeOf m n) n b)
    else match chooseWay m b n x.lease with
    | none => m
    | some (w, victim) =>
      let m := match victim with | some v => replaceLine m b v | none => m
      send (setLine (touch m) b n (y (some w))) (.done (homeOf m n) n b)

/-- GrantM at the bench (R459): an upgrade is granted; an owner in O keeps its dirty time (R428). -/
def benchGrant (m : Mach) (b n mhz : Nat) : Mach :=
  match lineAt m b n with
  | none => benchError m b 28 n
  | some x =>
    match x.st with
    | .smA | .omA =>
      let y : L2Line := { x with st := .m, dirtyAt := some (x.dirtyAt.getD m.now), tenureEnd := some (m.now + tenureNs mhz), cause := none }
      send (setLine m b n y) (.done (homeOf m n) n b)
    | _ => benchError m b 28 n

/-- What follows a fill: an L2 that is disabled or empties itself keeps no new line (R421, R422). -/
def fillKept (m : Mach) (b n : Nat) : Mach := if (l2 m b).ctl = .enabled then m else replaceLine m b n

/-- A grant with data reaches a bench: where it fills a line, the access that asked for it is performed at the fill (R456). -/
def fillLine (m : Mach) (b n kind : Nat) (d : Line) (poison : Bool) (access : Mach → Mach) : Mach :=
  let f := benchFill m b n kind d poison (benchMhz m b)
  match stAt m b n with
  | some .isD | some .imD => fillKept (access f) b n
  | _ => f

/-- GrantM reaches a bench: the access that asked for the upgrade is performed (R456). -/
def grantLine (m : Mach) (b n : Nat) (access : Mach → Mach) : Mach :=
  let f := benchGrant m b n (benchMhz m b)
  match stAt m b n with
  | some .smA | some .omA => let m := access f; if (l2 m b).ctl = .disabled then replaceLine m b n else m
  | _ => f

/-- Every line of an L2 goes, the locked ones too: S silently, E by EvE while it has a miss tracker for it (R449), the rest as trackers are
freed; a line that waits for a grant goes when it comes. -/
def l2Invalidate (m : Mach) (b : Nat) : Mach :=
  (l2 m b).lines.foldl (fun m p => if p.2.st = .s ∨ missTrackers m b < 64 then replaceLine m b p.1 else m) m

/-- A tracker is free again: a disabled L2 goes on to give up its lines. -/
def trackerFree (m : Mach) (b : Nat) : Mach := if (l2 m b).ctl = .disabled then l2Invalidate m b else m

/-- WbAck at the bench (R459). -/
def benchWbAck (m : Mach) (b n : Nat) : Mach :=
  match stAt m b n with
  | some .eiA | some .miA | some .oiA => trackerFree (delLine m b n) b
  | _ => benchError m b 29 n

/-- WbStale at the bench (R459, R489). -/
def benchWbStale (m : Mach) (b n : Nat) : Mach :=
  match stAt m b n with
  | some .iiA => trackerFree (modL2 (delLine m b n) b (fun y => { y with stale := sat 0xFFFF (y.stale + 1) })) b
  | _ => benchError m b 30 n

/-- A tenure ends: a deferred snoop is answered (R456). -/
def tenureEnds (m : Mach) (b n : Nat) : Mach :=
  match lineAt m b n with
  | none => m
  | some x =>
    let m := setLine m b n { x with tenureEnd := none, deferred := none }
    match x.deferred with
    | none => m
    | some (op, maint, incl) =>
      answerSnoop (modL2 m b (fun y => { y with snoops := sat 0xFFFF (y.snoops + 1) })) b n op maint incl

/-- The end of a tenure, once its time has come. -/
def tenureOver (m : Mach) (b n : Nat) : Mach :=
  match (lineAt m b n).bind (fun x => x.tenureEnd) with
  | none => m
  | some t => if m.now < t then m else tenureEnds m b n

/-! ## The home side: the L3 and its mirrors (R471 to R474) -/

def buddyOf (m : Mach) (h : Nat) : Nat := (home m h).buddy

/-- The home drops an L3 copy; the mirror of a dirty one is released (R467, R474). -/
def dropL3 (m : Mach) (h n : Nat) : Mach :=
  match tfind (home m h).l3 n with
  | none => m
  | some x =>
    let m := modHome m h (fun y => { y with l3 := tdel y.l3 n })
    if x.dirty then send m (.mirRel (buddyOf m h) n) else m

/-- A dirty L3 line is written to memory and its mirror released (R472, R474); the copy stays, clean. -/
def cleanL3 (m : Mach) (h n : Nat) : Mach :=
  match tfind (home m h).l3 n with
  | none => m
  | some x =>
    if !x.dirty then m else
    let m := memWriteNow m n x.data x.poison
    let m := modHome m h (fun y => { y with l3 := tset y.l3 n { x with dirty := false } })
    send m (.mirRel (buddyOf m h) n)

/-- The line belongs to a lost share that the home node covers: it allocates no L3 way for it (R477). -/
def foreignShare (m : Mach) (h n : Nat) : Bool := (home m h).st == .covering && ownHome m n != h

/-- The L3 takes a clean line (R403, R421, R477). -/
def l3Takes (m : Mach) (h n : Nat) : Bool := (home m h).ctl == .enabled && !foreignShare m h n

/-- A write of a line goes to memory in place of the L3 (R473, R477). -/
def writesToMem (m : Mach) (h n : Nat) : Bool :=
  let x := home m h
  (home m x.buddy).pairWays == 0 || x.ctl != .enabled || !x.mirrorFlag || x.mirrorMode == 2 || foreignShare m h n

/-- A line placed in the slice's own ways (R402, R403): its own, else an invalid one, else that which the tree names. -/
def putL3 (m : Mach) (h n : Nat) (d : Line) (poison dirty : Bool) : Mach :=
  let x := home m h
  match tfind x.l3 n with
  | some y =>
    let y' : L3Line := { y with data := d, poison := poison, dirty := dirty, lastUse := m.tick,
                                dirtySeq := if dirty && !y.dirty then m.tick else y.dirtySeq }
    modHome (touch m) h (fun z => { z with l3 := tset z.l3 n y' })
  | none =>
    let ways := 12 - x.pairWays
    let inWay (w : Nat) : Option (Nat × L3Line) := x.l3.find? (fun p => l3Set p.1 == l3Set n && p.2.way == w)
    let place (m : Mach) (w : Nat) : Mach :=
      let y : L3Line := { data := d, poison := poison, dirty := dirty, way := w, dirtySeq := m.tick, lastUse := m.tick }
      modHome (touch m) h (fun z => { z with l3 := tset z.l3 n y })
    match (List.range ways).find? (fun w => (inWay w).isNone) with
    | some w => place m w
    | none =>
      match (plruPick 4 0 (fun w => match inWay w with | some p => p.2.lastUse | none => 0) (fun w => decide (w < ways))).bind inWay with
      | some p => place (dropL3 (cleanL3 m h p.1) h p.1) p.2.way
      | none => m

/-- A read that the L3 serves is an access of its line (R402). -/
def useL3 (m : Mach) (h n : Nat) : Mach :=
  modHome (touch m) h (fun x => { x with l3 := x.l3.map (fun (p : Nat × L3Line) => if p.1 = n then (p.1, { p.2 with lastUse := m.tick }) else p) })

/-- At most P dirty lines stand in a set, with P the buddy's pair ways: the oldest goes to memory before a further one (R472). -/
def makeRoom (m : Mach) (h n : Nat) : Mach :=
  let x := home m h
  let p := (home m x.buddy).pairWays
  let dirty := x.l3.filter (fun q => l3Set q.1 == l3Set n && q.2.dirty && q.1 != n)
  if dirty.length < p then m else
  match pickBest (fun a b => decide (a.2.dirtySeq < b.2.dirtySeq)) dirty with
  | some q => cleanL3 m h q.1
  | none => m

/-- The line as the home's own side holds it: its L3 copy, else memory (R464, "read"). -/
def homeRead (m : Mach) (h n : Nat) : Line × Bool :=
  match tfind (home m h).l3 n with
  | some x => (x.data, x.poison)
  | none => memRead m n

def l3Dirty (m : Mach) (h n : Nat) : Bool := match tfind (home m h).l3 n with | some x => x.dirty | none => false

/-! ## The home side: transactions (R453 to R470) -/

def setTxn (m : Mach) (h n : Nat) (t : HTxn) : Mach := modHome m h (fun x => { x with txns := tset x.txns n t })

def setDir (m : Mach) (h n : Nat) (d : DirEnt) : Mach :=
  modHome m h (fun x => { x with dir := if d.owner.isNone && d.sharers.isEmpty then tdel x.dir n else tset x.dir n d })

def dirOf (m : Mach) (h n : Nat) : DirEnt :=
  tget (home m h).dir n { owner := none, ownerO := false, sharers := [], lease := 0, lastUse := 0 }

def holders (d : DirEnt) : List Nat := d.owner.toList ++ d.sharers

/-- Snoops go to benches for a request (R465): never to the requester, and only to it with SELF. -/
def sendSnoops (m : Mach) (r : HReq) (op : SnpOp) (dst : List Nat) : Mach :=
  let maint := r.op == .mntC || r.op == .mntI || r.op == .mntCI
  dst.foldl (fun m b => send m (.snp b op r.n maint r.incl)) m

def freshTxn (m : Mach) (r : HReq) (st : HSt) : HTxn :=
  { req := r, st := st, awaited := [], sent := .snpS, readPend := false, mirPend := false, newest := none, dirtyOrphan := false,
    dirtySeen := false, upgHolder := false, toMem := false, after := .stable, deadline := m.now + 50000 }

/-- A bench's read that its stride prefetcher asked for (R405, R526). -/
def fromStream (m : Mach) (r : HReq) : Bool :=
  r.op == .rdS && (match lineAt m (r.src - 0x0500) r.n with | some x => x.pf && x.st == .isD | none => false)

/-- A read begins (R464): from the L3 where it holds the line, else from memory. -/
def homeStartRead (m : Mach) (h : Nat) (r : HReq) : Mach :=
  if (tfind (home m h).l3 r.n).isSome then useL3 m h r.n else startRead m r.n (if r.src < 0x0500 ∨ 0x0800 ≤ r.src then r.src else 0x0500) (some r.lease) (fromStream m r)

/-- A grant to a bench (R455, R467): the data goes out, the requester is recorded, the home awaits Done. Kinds 0 to 2. -/
def grant (m : Mach) (h : Nat) (t : HTxn) (kind : Nat) (d : Line) (poison : Bool) : Mach :=
  let n := t.req.n
  let b := t.req.src - 0x0500
  let e := dirOf m h n
  let e := if kind = 0 then { e with sharers := insNat e.sharers b, lastUse := m.tick }
           else { e with owner := some b, ownerO := false, sharers := [], lease := t.req.lease, lastUse := m.tick }
  let m := if kind = 0 then m else dropL3 m h n
  let m := setDir (touch m) h n e
  let m := setTxn m h n { t with st := .hd, awaited := [], readPend := false, deadline := m.now + 50000 }
  send m (.data b kind n d poison)

/-- A line that a home takes is written (R471, R473): into its own L3 dirty with a mirror at the buddy, or to memory. HW
lasts until `HW_WRITE_COMPLETE`. A write by a unit, or a zero, clears the reservations on the line (R237). -/
def homeWrite (m : Mach) (h : Nat) (t : HTxn) (d : Line) (poison : Bool) (after : HAfter) (forceMem : Bool) : Mach :=
  let n := t.req.n
  let m := if t.req.op = .ioWr ∨ t.req.op = .zero then clearResv m n none else m
  let toMem := forceMem || writesToMem m h n
  let m := if toMem then m else
    send (putL3 (makeRoom m h n) h n d poison true) (.mir (buddyOf m h) n h d poison)
  setTxn m h n { t with st := .hw, awaited := [], readPend := false, mirPend := !toMem, newest := some (d, poison),
                        toMem := toMem, after := after, deadline := m.now + 50000 }

/-- The acknowledgement of a request that changes no holder. -/
def homeAck (m : Mach) (r : HReq) : Mach :=
  match r.op with
  | .wbM | .evE => send m (.ack r.src 0 r.n)
  | .ioWr => send m (.ack r.src 2 r.n)
  | .mntC | .mntI | .mntCI | .zero => send m (.ack r.src 3 r.n)
  | _ => m

/-- The line returns to a stable state (R454): the transaction ends. The next queued request is taken by `homeNext`. -/
def homeStable (m : Mach) (h n : Nat) : Mach := modHome (endRead m n) h (fun x => { x with txns := tdel x.txns n })

/-- What a home does when the last snoop response and the read are in (R467, HS rows). -/
def homeResolve (m : Mach) (h : Nat) (t : HTxn) : Mach :=
  let r := t.req
  let n := r.n
  let e := dirOf m h n
  let none' := (holders e).isEmpty
  let rd := homeRead m h n
  let best := t.newest.getD rd
  let l3d := l3Dirty m h n && t.newest.isNone
  match r.op with
  | .rdS =>
    if none' then grant m h t (if t.dirtySeen || l3d then 2 else 1) best.1 best.2
    else if t.dirtyOrphan then homeWrite m h t best.1 best.2 .grantS false
    else grant m h t 0 best.1 best.2
  | .rdX => grant m h t 2 best.1 best.2
  | .upg =>
    if t.upgHolder then
      let m := setDir m h n { e with owner := some (r.src - 0x0500), ownerO := false, sharers := [], lease := r.lease }
      let m := dropL3 m h n
      send (setTxn m h n { t with st := .hd, awaited := [], deadline := m.now + 50000 }) (.ack r.src 4 n)
    else grant m h t 2 best.1 best.2
  | .ioRd =>
    let m := send m (.ioData r.src n best.1 best.2)
    if t.dirtyOrphan then homeWrite m h t best.1 best.2 .stable false else homeStable m h n
  | .ioWr =>
    let whole := r.mask == BitVec.allOnes 256
    homeWrite m h t (mergeLine best.1 r.data r.mask) (if whole then r.poison else best.2 || r.poison) .ioAck false
  | .mntC =>
    if t.dirtyOrphan || t.dirtySeen then
      homeWrite m h t best.1 best.2 .mntAck true
    else if l3Dirty m h n then homeWrite m h t rd.1 rd.2 .mntAck true
    else homeStable (homeAck m r) h n
  | .mntCI =>
    let dirty := t.dirtyOrphan || t.dirtySeen || l3Dirty m h n
    let v := if t.dirtyOrphan || t.dirtySeen then best else rd
    let m' := dropL3 m h n
    if dirty then homeWrite m' h t v.1 v.2 .mntAck true else homeStable (homeAck m' r) h n
  | .mntI => homeStable (homeAck (dropL3 m h n) r) h n
  | .dirEvict =>
    let m := setDir m h n { e with owner := none, sharers := [] }
    if t.dirtySeen || t.dirtyOrphan then homeWrite m h t best.1 best.2 .stable false else homeStable m h n
  -- zero (R416): the line is 0 in memory, without poison, and no cache holds it
  | .zero => homeWrite (dropL3 m h n) h t 0 false .mntAck true
  | .wbM | .evE | .rebuild => homeStable m h n

/-- A request may make its requester a holder of the line. -/
def asksHold : ReqOp → Bool
  | .rdS | .rdX | .upg => true
  | _ => false

/-- The entries of a line's directory set, those counted in that requests being served will make. -/
def dirUsed (x : Home) (n : Nat) : Nat :=
  (x.dir.filter (fun p => dirSet p.1 == dirSet n)).length +
  (x.txns.filter (fun p => dirSet p.1 == dirSet n && p.1 != n && asksHold p.2.req.op && (tfind x.dir p.1).isNone)).length

/-- A request needs a new entry and its set has no room for it (R448). -/
def dirFull (x : Home) (r : HReq) : Bool := asksHold r.op && (tfind x.dir r.n).isNone && decide (16 ≤ dirUsed x r.n)

/-- The trackers in use (R449): lines served and requests queued. -/
def homeLoad (x : Home) : Nat := x.txns.length + (x.queues.map (fun p => p.2.length)).sum + x.waitDir.length

/-- A directory eviction begins (R448): of the least recently used entry of the set whose line is not busy, while a tracker is free and the set
has no other under way. -/
def evictStart (m : Mach) (h n : Nat) : Mach :=
  let x := home m h
  let inSet (k : Nat) : Bool := dirSet k == dirSet n
  let idle := x.dir.filter (fun p => inSet p.1 && (tfind x.txns p.1).isNone)
  let under := x.txns.any (fun p => inSet p.1 && p.2.req.op == .dirEvict)
  match (if under || decide (512 ≤ homeLoad x) then none else pickBest (fun a b => decide (a.2.lastUse < b.2.lastUse)) idle) with
  | none => m
  | some v =>
    let r : HReq := { op := .dirEvict, n := v.1, src := 0x0600 + h, lease := v.2.lease, self := false, incl := true, mask := 0, data := 0, poison := false }
    let hs := holders v.2
    let m := modHome m h (fun y => { y with evictN := sat 0xFFFF (y.evictN + 1) })
    let m := setTxn m h v.1 { freshTxn m r .hs with awaited := hs, sent := .snpX }
    sendSnoops m r .snpX hs

/-- A request waits for room in its directory set, and an entry is evicted first (R448). -/
def dirWait (m : Mach) (h : Nat) (r : HReq) : Mach :=
  evictStart (modHome m h (fun x => { x with waitDir := x.waitDir ++ [r] })) h r.n

/-- A snoop round begins (R465). Where no bench is to be snooped and no read is needed, the request completes at once. -/
def snoopRound (m : Mach) (h : Nat) (r : HReq) (op : SnpOp) (dst : List Nat) (withRead upgHolder : Bool) : Mach :=
  let req := if r.self then [r.src - 0x0500] else dst.filter (fun b => r.src != 0x0500 + b)
  let needData := r.op == .rdS || r.op == .rdX || r.op == .ioRd || (r.op == .upg && !upgHolder)
  let readNow := withRead || (req.isEmpty && needData)
  let t := { freshTxn m r .hs with awaited := req, sent := op, readPend := readNow, upgHolder := upgHolder }
  let m := if readNow then homeStartRead m h r else m
  if req.isEmpty && !readNow then homeResolve (setTxn m h r.n t) h t
  else sendSnoops (setTxn m h r.n t) r op req

/-- A home serves a request for a line that is not busy (R465). -/
def serveReq (m : Mach) (h : Nat) (r : HReq) : Mach :=
  let n := r.n
  let e := dirOf m h n
  let st := stableCode (tfind (home m h).dir n)
  let b := r.src - 0x0500
  let read (m : Mach) : Mach := homeStartRead (setTxn m h n { freshTxn m r .hr with readPend := true }) h r
  let owner := e.owner.toList
  let whole := r.mask == BitVec.allOnes 256
  let asRdX (m : Mach) : Mach :=
    match st with
    | 1 => read m
    | 2 => snoopRound m h r .snpX e.sharers true false
    | 3 => snoopRound m h r .snpX owner false false
    | _ => snoopRound m h r .snpX (holders e) false false
  match r.op with
  | .rdS => if st ≤ 2 then read m else snoopRound m h r .snpS owner false false
  | .rdX => asRdX m
  | .upg =>
    match st with
    | 2 => if e.sharers.contains b then snoopRound m h r .snpX e.sharers false true else asRdX m
    | 3 => if e.owner = some b then homeError m h 3 n else asRdX m
    | 4 => if (holders e).contains b then snoopRound m h r .snpX (holders e) false true else asRdX m
    | _ => asRdX m
  | .evE =>
    if e.owner = some b ∧ st = 3 then
      let m := if l3Takes m h n then putL3 m h n r.data r.poison false else m
      homeAck (setDir m h n { e with owner := none }) r
    else if e.owner = some b ∧ st = 4 then homeError m h 9 n
    else send (modHome m h (fun x => { x with staleN := sat 0xFFFF (x.staleN + 1) })) (.ack r.src 1 n)
  | .wbM =>
    if e.owner = some b then
      homeWrite (setDir m h n { e with owner := none, ownerO := false }) h (freshTxn m r .hw) r.data r.poison .wbAck false
    else send (modHome m h (fun x => { x with staleN := sat 0xFFFF (x.staleN + 1) })) (.ack r.src 1 n)
  | .ioRd => if st ≤ 2 then read m else snoopRound m h r .snpS owner false false
  | .ioWr =>
    match st with
    | 1 => if whole then homeWrite m h (freshTxn m r .hw) r.data r.poison .ioAck false else read m
    | 2 => snoopRound m h r .snpDrop e.sharers (!whole) false
    | 3 => snoopRound m h r (if whole then .snpDrop else .snpX) owner false false
    | _ =>
      -- the owner is snooped as in X, the sharers get SnpDrop
      let t := { freshTxn m r .hs with awaited := holders e, sent := .snpX }
      sendSnoops (sendSnoops (setTxn m h n t) r (if whole then .snpDrop else .snpX) owner) r .snpDrop e.sharers
  | .mntC =>
    match st with
    | 1 => if l3Dirty m h n then homeResolve (setTxn m h n (freshTxn m r .hs)) h (freshTxn m r .hs) else homeAck m r
    | 2 => snoopRound m h r .snpCln e.sharers false false
    | 3 => snoopRound m h r .snpCln owner false false
    | _ => snoopRound m h r .snpCln (holders e) false false
  | .mntI => if st = 1 then homeAck (dropL3 m h n) r else snoopRound m h r .snpDrop (holders e) false false
  | .mntCI =>
    if st = 1 then homeResolve (setTxn m h n (freshTxn m r .hs)) h (freshTxn m r .hs)
    else snoopRound m h r .snpX (holders e) false false
  | .zero => snoopRound m h r .snpDrop (holders e) false false
  | _ => m

/-- A line is served, or its oldest request waits for a directory entry: further requests for it queue (R448, R454). -/
def lineBusy (x : Home) (n : Nat) : Bool := (tfind x.txns n).isSome || x.waitDir.any (fun r => r.n == n)

/-- A request is served, after a directory eviction where it needs one. -/
def serveOrWait (m : Mach) (h : Nat) (r : HReq) : Mach := if dirFull (home m h) r then dirWait m h r else serveReq m h r

/-- A line that has become stable takes the requests of its queue until one makes it busy (R454). -/
def homeNext (fuel : Nat) (m : Mach) (h n : Nat) : Mach :=
  match fuel with
  | 0 => m
  | f + 1 =>
    if lineBusy (home m h) n then m else
    match tget (home m h).queues n [] with
    | [] => modHome m h (fun y => { y with queues := tdel y.queues n })
    | r :: q =>
      let m := modHome m h (fun y => { y with queues := if q.isEmpty then tdel y.queues n else tset y.queues n q })
      homeNext f (serveOrWait m h r) h n

/-- The queue length bounds how often `homeNext` runs. -/
def homeQueue (m : Mach) (h n : Nat) : Mach := homeNext ((tget (home m h).queues n []).length + 1) m h n

/-- Requests that waited for a directory entry are served in their order as far as there is room; for the others the next eviction begins. -/
def dirRetry (m : Mach) (h : Nat) : Mach :=
  (home m h).waitDir.foldl (fun m r =>
    if dirFull (home m h) r then evictStart m h r.n
    else homeQueue (serveReq (modHome m h (fun x => { x with waitDir := x.waitDir.erase r })) h r) h r.n) m

/-- A line has left its busy state: its queue goes on, and requests that waited for a directory entry are looked at again. -/
def homeDrain (m : Mach) (h n : Nat) : Mach := dirRetry (homeQueue m h n) h

/-- A home without a free tracker grants no credit for a request (R449). -/
def homeFull (m : Mach) (h : Nat) : Bool := !(home m h).lost && decide (512 ≤ homeLoad (home m h))

/-- A request reaches its home (R453, R454): held while its share is taken over (R475), queued behind a busy line, else
served. Without a free tracker it stays in the mesh (R449). -/
def homeReq (m : Mach) (h : Nat) (r : HReq) : Mach :=
  let x := home m h
  if x.lost then modHome m h (fun y => { y with heldReqs := y.heldReqs ++ [r] })
  else if 512 ≤ homeLoad x then send m (.req h r)
  else if lineBusy x r.n then
    modHome m h (fun y => { y with queues := tset y.queues r.n (tget y.queues r.n [] ++ [r]) })
  else dirRetry (serveOrWait m h r) h

/-- A snoop response at the home (R466, R467, R468). Kinds as `rspCode` orders them. -/
def homeRsp (m : Mach) (n b kind : Nat) (d : Option (Line × Bool)) : Mach :=
  let h := homeOf m n
  match tfind (home m h).txns n with
  | none => homeError m h (rspCode kind) n
  | some t =>
    if t.st ≠ .hs ∨ !t.awaited.contains b then homeError m h (rspCode kind) n else
    let e := dirOf m h n
    let e := match kind with
      | 0 | 2 | 3 => { e with owner := if e.owner = some b then none else e.owner, sharers := e.sharers.filter (fun k => k != b),
                              ownerO := e.ownerO && e.owner != some b }
      | 4 => { e with ownerO := if e.owner = some b then true else e.ownerO }
      | 5 | 6 => { e with owner := if e.owner = some b then none else e.owner, ownerO := e.ownerO && e.owner != some b,
                          sharers := insNat e.sharers b }
      | 7 => { e with ownerO := if e.owner = some b then false else e.ownerO }
      | _ => e
    let m := setDir m h n e
    let dirty := kind == 2 || kind == 6 || kind == 7
    let t := { t with
      awaited := t.awaited.erase b,
      newest := match d with | some x => some x | none => t.newest,
      dirtyOrphan := t.dirtyOrphan || (kind == 2 || kind == 6),
      dirtySeen := t.dirtySeen || dirty }
    let m := setTxn m h n t
    if t.awaited.isEmpty && (!t.readPend || readReady m n && t.newest.isSome) then
      let needs := t.newest.isNone && (t.req.op == .rdS || t.req.op == .rdX || t.req.op == .ioRd ||
        (t.req.op == .upg && !t.upgHolder) || (t.req.op == .ioWr && t.req.mask != BitVec.allOnes 256))
      if needs then homeStartRead (setTxn m h n { t with readPend := true }) h t.req
      else homeDrain (homeResolve m h t) h n
    else m

/-- A home's read returns (R467): it completes the request where no snoop response is outstanding. -/
def homeReadBack (m : Mach) (n : Nat) : Mach :=
  let h := homeOf m n
  match tfind (home m h).txns n with
  | none => m
  | some t =>
    if !t.readPend || !(readReady m n) then m else
    let inL3 := (tfind (home m h).l3 n).isSome
    let m := if !inL3 ∧ memLines m ≤ n then memRange m h n t.req.src else m
    let v := homeRead m h n
    let m := endRead m n
    -- R403: the L3 takes the lines that the home reads from memory for a request, but those that the requester is about to own
    let stS := stableCode (tfind (home m h).dir n)
    let keeps := t.req.op == .ioRd || (t.req.op == .rdS && stS == 2)
    let m := if !inL3 && keeps && l3Takes m h n && decide (n < memLines m) then putL3 m h n v.1 v.2 false else m
    let t := { t with readPend := false, newest := match t.newest with | some x => some x | none => some v }
    if !t.awaited.isEmpty then setTxn m h n t
    else if t.st = .hr ∧ t.req.op = .rdS then
      let m := if stS = 2 then grant m h t 0 v.1 v.2 else grant m h t (if l3Dirty m h n then 2 else 1) v.1 v.2
      homeDrain m h n
    else homeDrain (homeResolve m h t) h n

/-- A home's write completes (R467, R471, R473): the mirror has been acknowledged, or the seam accepts the line. For an access that is one step
(`now`, log entry 9) a seam without room writes the line at once. -/
def homeWritten (m : Mach) (n : Nat) (now : Bool) : Mach :=
  let h := homeOf m n
  match tfind (home m h).txns n with
  | none => m
  | some t =>
    if t.st ≠ .hw ∨ t.mirPend ∨ (t.toMem && !now && !seamTakes m n) then m else
    let v := t.newest.getD (0, false)
    let m := if t.toMem then
        let m := if seamTakes m n then acceptWrite m h n v.1 v.2 t.req.src (some t.req.lease) else memWriteNow m n v.1 v.2
        -- the L3 copy, where one stays, is now as memory holds it
        match tfind (home m h).l3 n with
        | some x =>
          let m := modHome m h (fun y => { y with l3 := tset y.l3 n { x with data := v.1, poison := v.2, dirty := false } })
          if x.dirty then send m (.mirRel (buddyOf m h) n) else m
        | none => m
      else m
    match t.after with
    | .grantS => homeDrain (grant m h t 0 v.1 v.2) h n
    | .stable => homeDrain (homeStable m h n) h n
    | _ => homeDrain (homeStable (homeAck m t.req) h n) h n

def homeWriteDone (m : Mach) (n : Nat) : Mach := homeWritten m n false

/-- Done at the home (R455, R467). -/
def homeDone (m : Mach) (n b : Nat) : Mach :=
  let h := homeOf m n
  match tfind (home m h).txns n with
  | none => homeError m h 11 n
  | some t =>
    if t.st = .hd ∧ t.req.src = 0x0500 + b then homeDrain (homeStable m h n) h n else homeError m h 11 n

/-- A home has waited 50 µs for a snoop response or Done (R468): the benches are lost with cause COH_TIMEOUT, and the
request completes as if they had answered RspI. -/
def homeTimeout (m : Mach) (n : Nat) : Mach :=
  let h := homeOf m n
  match tfind (home m h).txns n with
  | none => m
  | some t =>
    if m.now < t.deadline then m else
    match t.st with
    | .hs =>
      if t.awaited.isEmpty then m else
      let late := t.awaited
      let m := modHome m h (fun x => { x with timeoutN := sat 0xFFFF (x.timeoutN + late.length) })
      let m := late.foldl (fun m b =>
        noteFault (raiseErrD m 0x0031 (0x0500 + b) (0x0600 + h) (le 1 h ++ le 1 16) none (some (256 * n)) 0) (.bench b true)) m
      late.foldl (fun m b => homeRsp m n b 0 none) m
    | .hd =>
      let b := t.req.src - 0x0500
      let m := modHome m h (fun x => { x with timeoutN := sat 0xFFFF (x.timeoutN + 1) })
      let m := noteFault (raiseErrD m 0x0031 (0x0500 + b) (0x0600 + h) (le 1 h ++ le 1 11) none (some (256 * n)) 0) (.bench b true)
      -- the bench counts as having answered that it holds I (R466)
      let e := dirOf m h n
      let m := setDir m h n { e with owner := if e.owner = some b then none else e.owner, ownerO := e.ownerO && e.owner != some b,
                                     sharers := e.sharers.filter (fun k => k != b) }
      homeDrain (homeStable m h n) h n
    | _ => m

/-- Mir at the buddy (R471, R472): the mirror is placed in its pair ways, and acknowledged. -/
def buddyMir (m : Mach) (h n : Nat) (d : Line) (poison : Bool) : Mach :=
  let o := homeOf m n
  send (modHome m h (fun x => { x with pair := tset x.pair n { owner := o, data := d, poison := poison } })) (.mirAck o n)

def buddyMirRel (m : Mach) (h n : Nat) : Mach := modHome m h (fun x => { x with pair := tdel x.pair n })

/-- MirAck at the home. -/
def homeMirAck (m : Mach) (n : Nat) : Mach :=
  let h := homeOf m n
  match tfind (home m h).txns n with
  | some t => if t.st = .hw ∧ t.mirPend then setTxn m h n { t with mirPend := false } else homeError m h 35 n
  | none => homeError m h 35 n

/-! ## Bench loss and takeover at the homes (R430, R475 to R479) -/

/-- What a directory records as owned by a bench was dirty there (R430, R431): the bench holds it dirty, or dirty data or the grant of an upgrade
is on its way to it. -/
def lostDirty (m : Mach) (b n : Nat) : Bool :=
  let dataM := m.mesh.any (fun x => match x with | .data b' k n' _ _ => b' == b && k == 2 && n' == n | _ => false)
  match stAt m b n with
  | some .smA => true
  | some st => dirtySt st || dataM
  | none => false

/-- The copy of a sharer that still holds the line (R430). -/
def sharerCopy (m : Mach) (b n : Nat) (e : DirEnt) : Option Line :=
  e.sharers.findSome? (fun k => if k = b then none else match lineAt m k n with
    | some x => if x.st == .s || x.st == .smA then some x.data else none
    | none => none)

/-- The homes deal with the lines of a lost bench (R430): a sharer's data goes to memory unpoisoned, else the line is poisoned
there, and the lease of R429 gets machine checks from each home. A line that was clean loses nothing (R431). -/
def benchLinesLost (m : Mach) (b : Nat) : Mach :=
  let m := (List.range 16).foldl (fun m h =>
    let dirty := (home m h).dir.filter (fun p => p.2.owner == some b && lostDirty m b p.1)
    let lost := dirty.filter (fun p => (sharerCopy m b p.1 p.2).isNone)
    let m := dirty.foldl (fun m p => match sharerCopy m b p.1 p.2 with | some d => memWriteNow m p.1 d false | none => poisonNow m p.1) m
    let leases := (lost.map (fun p => p.2.lease)).eraseDups
    let m := leases.foldl (fun m l =>
      machineCheck m (0x0600 + h) l ((lost.filter (fun p => p.2.lease == l)).map (fun p => p.1))) m
    let strip (e : DirEnt) : DirEnt :=
      { e with owner := if e.owner = some b then none else e.owner, sharers := e.sharers.filter (fun k => k != b) }
    modHome m h (fun x => { x with
      dir := (x.dir.map (fun p => (p.1, strip p.2))).filter (fun p => p.2.owner.isSome || !p.2.sharers.isEmpty) })) m
  setL2 m b { l2 m b with lines := [], side := [] }

/-- The homes that use h as buddy lose their mirror (R478). -/
def mirrorsLost (m : Mach) (h : Nat) : Mach :=
  (List.range 16).foldl (fun m g =>
    let x := home m g
    if x.buddy = h ∧ g ≠ h ∧ !x.lost ∧ x.mirrorFlag ∧ x.mirrorMode = 0 then
      let m := x.l3.foldl (fun m p => if p.2.dirty then memWriteNow m p.1 p.2.data p.2.poison else m) m
      let m := modHome m g (fun y => { y with mirrorMode := 2, l3 := y.l3.map (fun p => (p.1, { p.2 with dirty := false })) })
      raiseErr m 0x0033 (0x0600 + g) (le 1 g)
    else m) m

/-- A home is lost and its buddy begins to take over (R475 steps 1 to 3): requests for the share are held, HOME_LOST goes to
all, and each bench reports its lines of the share (R476) to the buddy. -/
def homeTakeoverBegin (m : Mach) (h : Nat) : Mach :=
  let b := buddyOf m h
  let shares := (List.range 16).filter (fun i => i == h || (home m h).covered.getLsbD i)
  -- requests that a unit or an engine reissues after SHARE_OPEN are held (R457, R475, R476); a read whose data has gone out is complete
  let again (r : HReq) : Bool := r.op == .ioRd || r.op == .ioWr || r.op == .mntC || r.op == .mntI || r.op == .mntCI
  let open_ := ((home m h).txns.filterMap (fun p => if p.2.req.op == .ioRd && p.2.st == .hw then none else some p.2.req)) ++
    (home m h).queues.flatMap (fun p => p.2) ++ m.mesh.filterMap (fun x => match x with | .req g r => if g = h then some r else none | _ => none)
  let m := modHome m h (fun x => { x with lost := true, txns := [], queues := [], waitDir := [], l3 := [], heldReqs := x.heldReqs ++ open_.filter again })
  let m := setUState m 0x03 h .failed
  let m := modHome m b (fun x => { x with st := .takingOver, takeoverAt := m.now, takeoverOf := h, reports := [] })
  let inShare (n : Nat) : Bool := shares.contains (ownHome m n)
  -- messages to the lost home are gone, those that it had placed are still delivered
  let m := { m with mesh := m.mesh.filter (fun x => match x with
    | .req g _ => g != h
    | .done g _ _ => g != h
    | .rsp g _ _ _ _ => g != h
    | .mirAck g _ => g != h
    | _ => true) }
  let m := send m (.homeLost h)
  let rep (x : L2Line) : Option Report := match x.st with
    | .s | .smA => some .shared
    | .e | .eiA => some (.exclusive x.data)
    | .o | .omA | .oiA => some (.owned x.data x.poison)
    | .m | .miA => some (.modified x.data x.poison)
    | .iiA => some (.handed x.data x.poison)
    | .isD | .imD => none
  let all := m.l2.flatMap (fun p => p.2.lines.filterMap (fun q => if inShare q.1 then (rep q.2).map (fun r => (q.1, p.1, r)) else none))
  let m := all.foldl (fun m t =>
    modHome m b (fun x => { x with reports := tset x.reports t.1 (tget x.reports t.1 [] ++ [(t.2.1, t.2.2)]) })) m
  -- R479: lines adopted for another share and not yet in memory are poisoned
  let adopted := (home m h).pair.filter (fun p => p.2.owner != b && (home m p.2.owner).lost)
  let m := adopted.foldl (fun m p => poisonNow m p.1) m
  let m := adopted.foldl (fun m p => machineCheck m (0x0600 + h) ((tfind (home m h).dir p.1).map (fun d => d.lease) |>.getD 0) [p.1]) m
  mirrorsLost m h

/-- A takeover report at the buddy (R476). -/
def takeoverReportAt (m : Mach) (h b n : Nat) (r : Report) : Mach :=
  let d := buddyOf m h
  if (home m d).st = .takingOver then
    modHome m d (fun x => { x with reports := tset x.reports n ((tget x.reports n []).filter (fun p => p.1 != b) ++ [(b, r)]) })
  else m

/-- The takeover completes (R475 steps 4 and 5, R476, R477): the buddy builds the directory from the reports and its mirrors,
the share is routed to it, held requests are served, and the benches reissue. The count is that of lines adopted. -/
def homeTakeoverEnd (m : Mach) (h : Nat) : Mach × Nat :=
  let b := buddyOf m h
  let shares := (home m h).covered ||| (1#16 <<< h)
  let reps := (home m b).reports
  let mirrors := (home m b).pair.filter (fun p => p.2.owner == h)
  let lines := (reps.map (fun p => p.1) ++ mirrors.map (fun p => p.1)).eraseDups
  let m := lines.foldl (fun m n =>
    let rs := tget reps n []
    let owner := rs.find? (fun p => match p.2 with | .exclusive _ => true | .owned _ _ => true | .modified _ _ => true | _ => false)
    let sharers := (rs.filter (fun p => match p.2 with | .shared => true | _ => false)).map (fun p => p.1)
    let handed := rs.findSome? (fun p => match p.2 with | .handed d q => some (d, q) | _ => none)
    let m := match owner with
      | some _ => m
      | none => match handed with
        | some v => memWriteNow m n v.1 v.2
        | none => match tfind (home m b).pair n with
          | some v => memWriteNow m n v.data v.poison
          | none => m
    setDir m b n { owner := owner.map (fun p => p.1),
                   ownerO := (match owner with | some (_, .owned _ _) => true | _ => false),
                   sharers := sharers.foldl insNat [], lease := ((owner.bind (fun p => lineAt m p.1 n)).map (fun x => x.lease)).getD 0,
                   lastUse := m.tick }) m
  let held := (List.range 16).flatMap (fun i => if shares.getLsbD i then (home m i).heldReqs else [])
  let m := (List.range 16).foldl (fun m i => if shares.getLsbD i then modHome m i (fun x => { x with heldReqs := [] }) else m) m
  let us := ceilDiv (m.now - (home m b).takeoverAt) 1000
  let m := modHome m b (fun x => { x with st := .covering, covered := x.covered ||| shares, takeoverUs := sat 0xFFFF us,
                                          reports := [], pair := x.pair.filter (fun p => p.2.owner != h) })
  let m := modHome m h (fun x => { x with covered := 0 })
  let m := send m (.shareOpen h)
  let inShare (n : Nat) : Bool := shares.getLsbD (ownHome m n)
  let m := m.l2.foldl (fun m p => p.2.lines.foldl (fun m q =>
    if !inShare q.1 then m else
    let x := q.2
    match x.st with
    | .isD => benchReq m p.1 .rdS q.1 x.lease false false 0 false
    | .imD => benchReq m p.1 .rdX q.1 x.lease false false 0 false
    | .smA | .omA => benchReq m p.1 .upg q.1 x.lease false false 0 false
    | .eiA => benchReq m p.1 .evE q.1 x.lease false false x.data x.poison
    | .miA | .oiA => benchReq m p.1 .wbM q.1 x.lease false false x.data x.poison
    | .iiA => delLine m p.1 q.1
    | _ => m) m) m
  let m := held.foldl (fun m r => homeReq m b r) m
  (m, lines.length)

end Sys2Proof.Machine
end

