-- ==== Sys2Proof/Machine/Settle.lean ====
section
/-! DEFINITION. Accesses and maintenance of one line that the model makes in one step (log entry 9): a unit that holds no line reads and writes
through the home node (R22, R447), an engine through its bench's L2 (R421), and a maintenance operation runs at the home (R412, R416). What the
mesh and the memory still have to do for the line is done first, as the home orders it. -/

namespace Sys2Proof.Machine

/-! ## What a line waits for, done at once -/

/-- A message that the line's state depends on. Acknowledgements of an access or of maintenance, and data for a unit, are for their receivers. -/
def aboutLine (n : Nat) : Msg → Bool
  | .req _ r => r.n == n
  | .done _ k _ => k == n
  | .snp _ _ k _ _ => k == n
  | .rsp _ _ k _ _ => k == n
  | .data _ _ k _ _ => k == n
  | .ack _ kind k => k == n && (kind == 0 || kind == 1 || kind == 4)
  | .mir _ k _ _ _ => k == n
  | .mirRel _ k => k == n
  | .mirAck _ k => k == n
  | .ioData _ _ _ _ => false
  | .homeLost _ => false
  | .shareOpen _ => false

/-- A message that its receiver can take now. -/
def takable (m : Mach) : Msg → Bool
  | .req _ r => !homeFull m (homeOf m r.n)
  | .data b k n _ _ => !fillWaits m b n k
  | _ => true

/-- A message about a line reaches its receiver. -/
def deliverMsg (m : Mach) (x : Msg) : Mach :=
  match x with
  | .req _ r => homeReq m (homeOf m r.n) r
  | .done _ n b => homeDone m n b
  | .snp b op n maint incl => benchSnoop m b n op maint incl
  | .rsp _ k n b d => homeRsp m n b k d
  | .data b k n d p => fillLine m b n k d p id
  | .ack dst 0 n => benchWbAck m (dst - 0x0500) n
  | .ack dst 1 n => benchWbStale m (dst - 0x0500) n
  | .ack dst 4 n => grantLine m (dst - 0x0500) n id
  | .mir h n _ d p => buddyMir m h n d p
  | .mirRel h n => buddyMirRel m h n
  | .mirAck _ n => homeMirAck m n
  | _ => m

/-- The next thing that the exchange about a line waits for: its oldest message, a snoop that a tenure defers, a read or a write of its home. -/
def settleLine (m : Mach) (n : Nat) : Option Mach :=
  match m.mesh.find? (fun x => aboutLine n x && takable m x) with
  | some x => some (deliverMsg { m with mesh := m.mesh.erase x } x)
  | none =>
    match m.l2.find? (fun p => match tfind p.2.lines n with | some x => x.deferred.isSome | none => false) with
    | some p => some (tenureEnds m p.1 n)
    | none =>
      match tfind (home m (homeOf m n)).txns n with
      | none => none
      | some t => if t.readPend then some (homeReadBack (readServed m n) n)
                  else if t.st = .hw ∧ !t.mirPend then some (homeWritten m n true) else none

/-- The same, with the directory evictions that a request for the line may wait for (R448). -/
def settleStep (m : Mach) (n : Nat) : Option Mach :=
  match settleLine m n with
  | some m => some m
  | none =>
    let x := home m (homeOf m n)
    if !x.waitDir.any (fun r => r.n == n) then none else
    (x.txns.filter (fun p => p.2.req.op == .dirEvict && dirSet p.1 == dirSet n)).findSome? (fun p => settleLine m p.1)

/-- The exchange about a line goes on until it shows what is asked for, or waits for something else. -/
def settleTo (fuel : Nat) (m : Mach) (n : Nat) (done : Mach → Bool) : Mach :=
  match fuel with
  | 0 => m
  | f + 1 =>
    if done m then m else
    match settleStep m n with
    | none => m
    | some m => settleTo f m n done

/-- More than an exchange with all 64 benches and 512 queued requests takes. -/
def settleFuel : Nat := 131072

/-- The last message that satisfies a test leaves the mesh. -/
def dropLast (m : Mach) (p : Msg → Bool) : Mach := { m with mesh := (m.mesh.reverse.eraseP p).reverse }

/-- A request is made of the home and followed until a further message of some kind answers it; none where the home is lost or full, or
the exchange cannot end now. The answer is taken out of the mesh. -/
def askHome (m : Mach) (r : HReq) (answer : Msg → Bool) : Option (Msg × Mach) :=
  let h := homeOf m r.n
  let k := (m.mesh.filter answer).length
  if (home m h).lost ∨ homeFull m h then none else
  let m' := settleTo settleFuel (homeReq m h r) r.n (fun m => decide (k < (m.mesh.filter answer).length))
  if (m'.mesh.filter answer).length ≤ k then none else
  (m'.mesh.filter answer).getLast?.map (fun x => (x, dropLast m' answer))

def unitReq (op : ReqOp) (n src ls : Nat) (mask : BitVec 256) (d : Line) : HReq :=
  { op := op, n := n, src := src, lease := ls, self := false, incl := false, mask := mask, data := d, poison := false }

/-! ## The newest data of a line, for what cannot be exchanged now -/

/-- A bench's copy that is newer than what the home side holds: an owner's, or one on its way out. -/
def ownerCopy (m : Mach) (n : Nat) : Option (Line × Bool) :=
  (m.l2.findSome? (fun p => match tfind p.2.lines n with
    | some x => (match x.st with
      | .m | .o | .e | .omA | .miA | .oiA | .eiA => some (x.data, x.poison)
      | _ => none)
    | none => none))

/-- Data of the line on its way to a bench that will own it. -/
def flyingCopy (m : Mach) (n : Nat) : Option (Line × Bool) :=
  m.mesh.findSome? (fun x => match x with
    | .data _ k n' d p => if n' = n ∧ k ≠ 0 then some (d, p) else none
    | _ => none)

/-- The current data of a line, wherever it stands, with the writes that are held while its share is taken over. -/
def cohLine (m : Mach) (n : Nat) : Line × Bool :=
  let h := homeOf m n
  let v := match ownerCopy m n with
    | some v => v
    | none => match flyingCopy m n with
      | some v => v
      | none =>
        match (tfind (home m h).txns n).bind (fun t => if t.dirtySeen || t.st == .hw then t.newest else none) with
        | some v => v
        | none => homeRead m h n
  ((home m h).heldReqs.filter (fun r => r.op == .ioWr && r.n == n)).foldl (fun (v : Line × Bool) r =>
    (mergeLine v.1 r.data r.mask, v.2 && r.mask != BitVec.allOnes 256)) v

/-- A line given a new value by a write that its home orders (R465 IoWr): the benches lose their copies, the home's side
takes the line. -/
def cohStore (m : Mach) (n : Nat) (d : Line) (poison : Bool) : Mach :=
  let h := homeOf m n
  let m := m.l2.foldl (fun m p =>
    match tfind p.2.lines n with
    | none => m
    | some x =>
      let m := dropL1 m p.1 n
      match x.st with
      | .s | .e | .o | .m => delLine m p.1 n
      | .smA | .omA => setLine m p.1 n { x with st := .imD, dirtyAt := none, data := 0, poison := false }
      | .eiA | .miA | .oiA => setLine m p.1 n { x with st := .iiA, dirtyAt := none }
      | _ => m) m
  let m := { m with mesh := m.mesh.map (fun x => match x with
    | .data b k n' d' p' => if n' = n then .data b k n d poison else .data b k n' d' p'
    | x => x) }
  let busy := tfind (home m h).txns n
  let m := match busy with
    | some t => setTxn m h n { t with newest := t.newest.map (fun _ => (d, poison)) }
    | none => modHome m h (fun x => { x with dir := tdel x.dir n })
  let m := clearResv m n none
  if writesToMem m h n then memWriteNow (modHome m h (fun x => { x with l3 := tdel x.l3 n })) n d poison
  else
    let m := putL3 (makeRoom m h n) h n d poison true
    modHome m (buddyOf m h) (fun x => { x with pair := tset x.pair n { owner := h, data := d, poison := poison } })

/-- A masked write to a line (R427: only a write of all 256 bytes clears poison). -/
def cohWrite (m : Mach) (n : Nat) (mask : BitVec 256) (d : Line) : Mach :=
  let old := cohLine m n
  let whole := mask == BitVec.allOnes 256
  cohStore m n (mergeLine old.1 d mask) (old.2 && !whole)

/-! ## The accesses of a unit that holds no line (R22) -/

/-- A line is read for a unit: IoRd at its home (R465). While the home is lost the value is that of its newest copy. -/
def ioRead (m : Mach) (src ls n : Nat) : (Line × Bool) × Mach :=
  if memLines m ≤ n then (memRead m n, memRange m (homeOf m n) n src) else
  match askHome m (unitReq .ioRd n src ls 0 0) (fun x => match x with | .ioData s k _ _ => s == src && k == n | _ => false) with
  | some (.ioData _ _ d p, m) => ((d, p), m)
  | _ => (cohLine m n, m)

/-- Bytes of a line are written for a unit: IoWr at its home (R465). While the home is lost the request is held (R475). -/
def ioWrite (m : Mach) (src ls n : Nat) (mask : BitVec 256) (d : Line) : Mach :=
  let h := homeOf m n
  if memLines m ≤ n then memRange m h n src
  else if (home m h).lost then homeReq m h (unitReq .ioWr n src ls mask d)
  else match askHome m (unitReq .ioWr n src ls mask d) (fun x => x == .ack src 2 n) with
    | some (_, m) => m
    | none => cohWrite m n mask d

/-! ## The accesses that an engine makes for itself, through its bench's L2 -/

/-- The L2 of a bench does not take a line: accesses go to the home node one by one (R421, R422). -/
def l2Off (m : Mach) (b n : Nat) : Bool :=
  match (l2 m b).ctl with
  | .enabled => false
  | .disabling => (lineAt m b n).isNone
  | .disabled => true

def readableSt : CohSt → Bool
  | .s | .e | .o | .m | .smA | .omA => true
  | _ => false

/-- A line is read by a bench for an engine. -/
def benchRead (m : Mach) (b e ls n : Nat) : (Line × Bool) × Mach :=
  if memLines m ≤ n ∨ l2Off m b n then ioRead m e ls n else
  match l2Load m b n ls none with
  | (.hit d p, m) => ((d, p), m)
  | (.wait, m') =>
    let m' := settleTo settleFuel m' n (fun m => match stAt m b n with | some st => readableSt st | none => false)
    match l2Load m' b n ls none with
    | (.hit d p, m') => ((d, p), m')
    | _ => (cohLine m n, m)

/-- Bytes of a line are written by a bench for an engine; the reservation of the writing level stays (R237). -/
def benchWrite (m : Mach) (b e ls n : Nat) (mask : BitVec 256) (d : Line) (level : Option Nat) : Mach :=
  let keep := m.resv.filter (fun p => some p.1 == level && p.2 / 256 == n)
  let back (m : Mach) : Mach := { m with resv := m.resv.filter (fun p => !keep.contains p) ++ keep }
  if memLines m ≤ n ∨ l2Off m b n then back (ioWrite m e ls n mask d) else
  match l2Store m b n ls none with
  | (.hit _ _, m) => l2Put m b n mask d level
  | (.wait, m') =>
    let m' := settleTo settleFuel m' n (fun m => stAt m b n == some .e || stAt m b n == some .m)
    match l2Store m' b n ls none with
    | (.hit _ _, m') => l2Put m' b n mask d level
    | _ => back (cohWrite m n mask d)

/-! ## Maintenance of one line (R412, R416 to R418) -/

/-- Whether some bench holds the line in a locked way (R413, R417). -/
def lockedSomewhere (m : Mach) (n : Nat) : Bool :=
  m.l2.any (fun p => match tfind p.2.lines n with | some x => wayLocked p.2 x.way | none => false)

/-- CLEAN: memory takes the line where any cache holds it dirty; the copies stay, clean; no L1I keeps it (R412). -/
def maintClean (m : Mach) (n : Nat) : Mach :=
  let v := cohLine m n
  let h := homeOf m n
  let dirty := (m.l2.any (fun p => match tfind p.2.lines n with | some x => dirtySt x.st | none => false)) || l3Dirty m h n
  let m := m.l2.foldl (fun m p =>
    match tfind p.2.lines n with
    | none => m
    | some x =>
      let m := dropL1I m p.1 n
      match x.st with
      | .m => setLine m p.1 n { x with st := .e, dirtyAt := none }
      | .o => setLine m p.1 n { x with st := .s, dirtyAt := none }
      | .omA => setLine m p.1 n { x with st := .smA, dirtyAt := none }
      | _ => m) m
  let e := dirOf m h n
  let m := match e.owner with
    | some b => if e.ownerO then setDir m h n { e with owner := none, ownerO := false, sharers := insNat e.sharers b } else m
    | none => m
  let m := if dirty then memWriteNow m n v.1 v.2 else m
  match tfind (home m h).l3 n with
  | some x =>
    let m := modHome m h (fun y => { y with l3 := tset y.l3 n { x with data := v.1, poison := v.2, dirty := false } })
    if x.dirty then send m (.mirRel (buddyOf m h) n) else m
  | none => m

/-- Every copy goes, the locked ones only where asked (R412, R413, R417); memory is left as it was. -/
def maintDrop (m : Mach) (n : Nat) (incl : Bool) : Mach :=
  let h := homeOf m n
  let m := m.l2.foldl (fun m p =>
    match tfind p.2.lines n with
    | none => m
    | some x =>
      if wayLocked p.2 x.way && !incl then m else
      let m := dropL1 m p.1 n
      match x.st with
      | .s | .e | .o | .m =>
        let e := dirOf m h n
        setDir (delLine m p.1 n) h n { e with owner := if e.owner = some p.1 then none else e.owner, ownerO := e.ownerO && e.owner != some p.1,
                                              sharers := e.sharers.filter (fun k => k != p.1) }
      | .smA | .omA => setLine m p.1 n { x with st := .imD, dirtyAt := none, data := 0, poison := false }
      | .eiA | .miA | .oiA => setLine m p.1 n { x with st := .iiA, dirtyAt := none }
      | _ => m) m
  dropL3 m h n

/-- A maintenance request at the home of a line, followed until its MntAck; none where it cannot end now. -/
def maintAsk (m : Mach) (op : ReqOp) (src ls n : Nat) (self incl : Bool) : Option Mach :=
  (askHome m { unitReq op n src ls 0 0 with self := self, incl := incl } (fun x => x == .ack src 3 n)).map (fun p => p.2)

/-- The request of a range operation: 0 clean, 1 invalidate, 2 clean-and-invalidate, 3 zero. -/
def maintOp : Nat → ReqOp
  | 0 => .mntC | 1 => .mntI | 2 => .mntCI | _ => .zero

/-- The range engine of a line's home acts on it (R416, R453), its source number that of R453; none where it cannot end now. The second part says
whether a locked line was skipped (R417). -/
def maintLine (m : Mach) (n op : Nat) (incl : Bool) : Option (Mach × Bool) :=
  let locked := op == 1 && lockedSomewhere m n && !incl
  (maintAsk m (maintOp op) (0x0600 + homeOf m n) 0 n false incl).map (fun m => (m, locked))

/-- The same where it must end now. -/
def maintNow (m : Mach) (n op : Nat) (incl : Bool) : Mach :=
  match maintLine m n op incl with
  | some r => r.1
  | none =>
    match op with
    | 0 => maintClean m n
    | 1 => maintDrop m n incl
    | 2 => maintDrop (maintClean m n) n incl
    | _ => memWriteNow (clearResv (maintDrop m n true) n none) n 0 false

end Sys2Proof.Machine
end

