-- ==== Sys2Proof/Machine/Access.lean ====
section
/-! DEFINITION. Translation of lease addresses (R724 to R729) and the accesses of the units that hold no line: coherent reads
and writes of a lease's memory and of physical memory (R22, R727), and the rings of R545 to R548. -/

namespace Sys2Proof.Machine

/-! ## Refused accesses to control space (R9) -/

/-- The accessor in the detail of ACCESS_REFUSED (R794). -/
def accessorCode (a : Actor) : Nat :=
  match a with
  | .service => 0xFFFF
  | .lease n => n.val

/-- The address of a register (R5, R6). -/
def regAddr (kind index off : Nat) : Nat := 0xFFF0000000000 + kind * 0x100000000 + index * 0x100000 + off

/-- A refused access is reported with its reason (R9, R794): 1 narrow, 2 misaligned, 3 no unit or register, 4 writer not allowed,
5 refused by the rule of the register or unit. -/
def refuseAccess (m : Mach) (a : Actor) (addr reason : Nat) : Mach :=
  let k := (addr - 0xFFF0000000000) / 0x100000000
  let i := (addr - 0xFFF0000000000) / 0x100000 % 4096
  let src := if 0xFFF0000000000 ≤ addr ∧ i < kindCount k then sourceOf k i else 0x0F00
  raiseErrD m 0x0001 src 0x0F00 (le 8 addr ++ le 2 (accessorCode a) ++ le 1 reason)
    (match a with | .service => none | .lease n => some n.val) (some addr) 0

/-- An address lies in control space (R5). -/
def isControl (pa : Nat) : Bool := decide (0xFFF0000000000 ≤ pa)

/-- An access to control space that is not the single aligned access of R8 is refused: too narrow, or by its rule (R9, R732; DEDUCED, log
entry 44, for those that no software instruction makes). -/
def refuseRaw (m : Mach) (l pa len : Nat) : Mach := refuseAccess m (.lease (Fin.ofNat 256 l)) pa (if len < 8 then 1 else 5)

/-! ## Page tables (R724 to R729) -/

/-- The need of an access (R727). -/
inductive Need where
  | exec | read | write | settSave | reserve
  deriving DecidableEq, Repr

/-- Why an access of a unit fails: a translation or right, with the detail code of R728, or the poison mark. -/
inductive AccErr where
  | xlate (detail : Nat)
  | poison
  deriving DecidableEq, Repr

/-- A valid entry is malformed (R726). Levels 1 to 3. -/
def malformed (e level l : Nat) : Bool :=
  let leaf := bit e 1
  let ty := bits e 6 5
  let pageBits := if level = 2 then 30 else 21
  bits e 55 52 != 0 || bits e 11 7 != 0 || decide (2 ≤ ty) || (level == 1 && leaf) || (level == 3 && !leaf) ||
  (!leaf && (bits e 4 2 != 0 || ty != 0)) || (leaf && bit e 3 && !bit e 2) ||
  (leaf && ty == 1 && (bit e 4 || !bit e 2)) ||
  (leaf && bits e 51 12 * 4096 % 2 ^ pageBits != 0) ||
  (leaf && l != 0 && decide (0xFFF0000000000 ≤ bits e 51 12 * 4096))

/-- A page-table entry, read coherently (R729); none where its line carries the poison mark. -/
def readEntry (m : Mach) (table idx : Nat) : Option Nat :=
  let a := table + 8 * idx
  let v := cohLine m (a / 256)
  if v.2 then none else some (leVal (lineSlice v.1 (a % 256) 8))

/-- The walk of a lease address (R724): the leaf's translation, or the detail code of R728. -/
def walk (m : Mach) (l va : Nat) : Except Nat TlbEntry :=
  if 2 ^ 48 ≤ va then .error 5 else
  let root := (lease m l).ptRoot.toNat
  if !bit root 0 then .error 0 else
  let leafOf (e pb : Nat) : TlbEntry :=
    { lease := l, va := va / 2 ^ pb * 2 ^ pb, pa := bits e 51 pb * 2 ^ pb, bits := pb, r := bit e 2, w := bit e 3, x := bit e 4,
      sett := bits e 6 5 == 1 }
  match readEntry m (bits root 51 12 * 4096) (bits va 47 39) with
  | none => .error 4
  | some e1 =>
    if !bit e1 0 then .error 0 else if malformed e1 1 l then .error 3 else
    match readEntry m (bits e1 51 12 * 4096) (bits va 38 30) with
    | none => .error 4
    | some e2 =>
      if !bit e2 0 then .error 0 else if malformed e2 2 l then .error 3
      else if bit e2 1 then .ok (leafOf e2 30) else
      match readEntry m (bits e2 51 12 * 4096) (bits va 29 21) with
      | none => .error 4
      | some e3 => if !bit e3 0 then .error 0 else if malformed e3 3 l then .error 3 else .ok (leafOf e3 21)

/-- A kept translation of a lease address (R729). -/
def tlbFind (t : List TlbEntry) (l va : Nat) : Option TlbEntry :=
  t.find? (fun e => e.lease == l && va / 2 ^ e.bits * 2 ^ e.bits == e.va)

/-- A translation through a buffer of `cap` entries: the walk's result is kept, an invalid or malformed one never (R729). The
oldest entry goes where the buffer is full. -/
def translate (m : Mach) (t : List TlbEntry) (cap l va : Nat) : Except Nat TlbEntry × List TlbEntry :=
  if 2 ^ 48 ≤ va then (.error 5, t) else
  match tlbFind t l va with
  | some e => (.ok e, t)
  | none => match walk m l va with
    | .ok e => (.ok e, lastN cap (t ++ [e]))
    | .error d => (.error d, t)

/-- The rights of R727 on a translated page; the detail code of R728 where one is lacking. -/
def rightsErr (e : TlbEntry) (n : Need) : Option Nat :=
  match n with
  | .exec => if e.x then none else some 1
  | .read => if e.r then none else some 1
  | .write => if e.sett then some 2 else if e.w then none else some 1
  | .settSave => if e.sett then none else some 1
  | .reserve => if e.sett then some 2 else if e.r && e.w then none else some 1

/-- The physical address of a lease address for a hub's unit, through the hub's buffer of 512 entries (R729). -/
def hubAddr (m : Mach) (hub l va : Nat) (n : Need) : Except Nat Nat × Mach :=
  let (r, t) := translate m (m.hubTlb.getD hub []) 512 l va
  let m := { m with hubTlb := lset m.hubTlb hub t }
  match r with
  | .error d => (.error d, m)
  | .ok e => match rightsErr e n with
    | some d => (.error d, m)
    | none => (.ok (e.pa + va % 2 ^ e.bits), m)

/-! ## Accesses by line -/

/-- The part of a line that an access reads, for a unit (R22); control space reads as all ones (R9). -/
def unitLine (m : Mach) (src l pa len : Nat) : (Line × Bool) × Mach :=
  if isControl pa then ((BitVec.allOnes 2048, false), refuseRaw m l pa len) else ioRead m src l (pa / 256)

/-- Bytes of one line written by a unit (R22); a write to control space changes nothing (R9). -/
def unitPut (m : Mach) (src l pa : Nat) (b : Bytes) : Mach :=
  if isControl pa then refuseRaw m l pa b.length
  else ioWrite m src l (pa / 256) (maskOf (pa % 256) b.length) (placeLine (pa % 256) b)

/-- Bytes of physical memory, line by line; none where a line carries the poison mark. -/
def physRead (fuel : Nat) (m : Mach) (src pa len : Nat) : Option Bytes × Mach :=
  match fuel with
  | 0 => (some [], m)
  | f + 1 =>
    if len = 0 then (some [], m) else
    let k := min len (256 - pa % 256)
    let (v, m) := unitLine m src 0 pa k
    if v.2 then (none, m) else
    let (r, m) := physRead f m src (pa + k) (len - k)
    (r.map (fun b => lineSlice v.1 (pa % 256) k ++ b), m)

/-- Bytes written to physical memory, line by line. -/
def physWrite (fuel : Nat) (m : Mach) (src pa : Nat) (b : Bytes) : Mach :=
  match fuel with
  | 0 => m
  | f + 1 =>
    if b.isEmpty then m else
    let k := min b.length (256 - pa % 256)
    physWrite f (unitPut m src 0 pa (b.take k)) src (pa + k) (b.drop k)

/-- How many lines an access of some length can touch. -/
def linesFor (len : Nat) : Nat := len / 256 + 2

/-- Bytes read by a unit of a hub in a lease's address space (R22, R727). -/
def unitRead (fuel : Nat) (m : Mach) (hub src l va len : Nat) : Except AccErr Bytes × Mach :=
  match fuel with
  | 0 => (.ok [], m)
  | f + 1 =>
    if len = 0 then (.ok [], m) else
    match hubAddr m hub l va .read with
    | (.error d, m) => (.error (.xlate d), m)
    | (.ok pa, m) =>
      let k := min len (256 - pa % 256)
      let (v, m) := unitLine m src l pa k
      if v.2 then (.error .poison, m) else
      match unitRead f m hub src l (va + k) (len - k) with
      | (.error e, m) => (.error e, m)
      | (.ok b, m) => (.ok (lineSlice v.1 (pa % 256) k ++ b), m)

/-- Bytes written by a unit of a hub in a lease's address space; lines before the one that fails are written. -/
def unitWrite (fuel : Nat) (m : Mach) (hub src l va : Nat) (b : Bytes) : Except AccErr Unit × Mach :=
  match fuel with
  | 0 => (.ok (), m)
  | f + 1 =>
    if b.isEmpty then (.ok (), m) else
    match hubAddr m hub l va .write with
    | (.error d, m) => (.error (.xlate d), m)
    | (.ok pa, m) =>
      let k := min b.length (256 - pa % 256)
      unitWrite f (unitPut m src l pa (b.take k)) hub src l (va + k) (b.drop k)

/-- Reads and writes of a given length with enough fuel. -/
def rdLease (m : Mach) (hub src l va len : Nat) : Except AccErr Bytes × Mach := unitRead (linesFor len) m hub src l va len
def wrLease (m : Mach) (hub src l va : Nat) (b : Bytes) : Except AccErr Unit × Mach := unitWrite (linesFor b.length) m hub src l va b
def rdPhys (m : Mach) (src pa len : Nat) : Option Bytes × Mach := physRead (linesFor len) m src pa len
def wrPhys (m : Mach) (src pa : Nat) (b : Bytes) : Mach := physWrite (linesFor b.length) m src pa b

/-- Whether a range of a lease's addresses can be accessed, before anything is transferred. -/
def canAccess (fuel : Nat) (m : Mach) (hub l va len : Nat) (n : Need) : Option Nat × Mach :=
  match fuel with
  | 0 => (none, m)
  | f + 1 =>
    if len = 0 then (none, m) else
    match hubAddr m hub l va n with
    | (.error d, m) => (some d, m)
    | (.ok pa, m) =>
      let k := min len (256 - pa % 256)
      canAccess f m hub l (va + k) (len - k) n

/-- The address could be written: the range translates with the rights of a write. -/
def canWrite (m : Mach) (hub l va len : Nat) : Bool × Mach :=
  let (r, m) := canAccess (linesFor len) m hub l va len .write
  (r.isNone, m)

/-! ## Rings (R545, R547, R548) -/

/-- A ring fault counted for a lease (R548, R760). -/
def ringFault (m : Mach) (l : Nat) : Mach := modLease m l (fun x => { x with dRing := sat 0xFFFF (x.dRing + 1) })

/-- The HEAD value that the module goes on with (R548): the value read where it lies from the last accepted one up to TAIL,
else the last accepted one; the second part says that the value was ignored. -/
def acceptHead (v last tail : Nat) : Nat × Bool :=
  if last ≤ v ∧ v ≤ tail then (v, false) else (last, true)

/-- The HEAD of a lease's ring read and judged; none where the header cannot be read. -/
def ringHead (m : Mach) (hub src l base last tail : Nat) : Option Nat × Mach :=
  match rdLease m hub src l base 8 with
  | (.error _, m) => (none, m)
  | (.ok b, m) =>
    let (h, bad) := acceptHead (leVal b) last tail
    (some h, if bad then ringFault m l else m)

/-- A record written to a ring of a lease, then TAIL (R545, R547). -/
def ringPut (m : Mach) (hub src l base size recSize tail : Nat) (rec_ : Bytes) : Except AccErr Unit × Mach :=
  match wrLease m hub src l (base + 64 + recSize * (tail % max 1 size)) rec_ with
  | (.error e, m) => (.error e, m)
  | (.ok _, m) => wrLease m hub src l (base + 8) (le 8 (tail + 1))

end Sys2Proof.Machine
end

