-- ==== Sys2Proof/Machine/LinkAddr.lean ====
section
/-! DEFINITION. What the records of a link say of its addresses (R636), checksums, and where the datagrams of a Helar path go (R577, R595,
R638). -/

namespace Sys2Proof.Machine

def link (m : Mach) (l : Nat) : LinkSt := tget m.links l LinkSt.reset
def setLink (m : Mach) (l : Nat) (x : LinkSt) : Mach := { m with links := tset m.links l x }
def modLink (m : Mach) (l : Nat) (f : LinkSt → LinkSt) : Mach := setLink m l (f (link m l))
/-! ## Records of a link (R636) -/

def linkMac (m : Mach) (l : Nat) : Nat :=
  let v := beVal (bslice ((imgRec m 0x000C l).getD []) 4 6)
  if v = 0 then m.macBase + l else v
def linkMaxFrame (m : Mach) (l : Nat) : Nat :=
  let v := imgFld m 0x000C l 2 2
  if v = 0 then 1518 else v
def linkAddr (m : Mach) (l : Nat) : Bytes := bslice ((imgRec m 0x000C l).getD []) 16 16
def linkHub (l : Nat) : Nat := l / 4

/-! ## Checksums and addresses -/

/-- The 16-bit ones' complement sum of bytes. -/
def sum16 (fuel acc : Nat) (b : Bytes) : Nat :=
  match fuel with
  | 0 => acc
  | f + 1 =>
    match b with
    | [] => acc
    | x :: [] => sum16 f (acc + 256 * x.toNat) []
    | x :: y :: r => sum16 f (acc + 256 * x.toNat + y.toNat) r

def fold16 (v : Nat) : Nat :=
  let v := v % 65536 + v / 65536
  v % 65536 + v / 65536

def onesSum (b : Bytes) (init : Nat) : Nat := fold16 (fold16 (sum16 (b.length + 1) init b))

def mapV4 (b : Bytes) : Bytes := List.replicate 10 0 ++ [0xFF, 0xFF] ++ b

/-- A prefix of two 16-byte addresses agrees in its first n bits. -/
def prefixEq (a b : Bytes) (n : Nat) : Bool := beVal (padTo 16 a) / 2 ^ (128 - n) == beVal (padTo 16 b) / 2 ^ (128 - n)

/-! ## Where a Helar path's datagrams go (R577, R595, R636, R638) -/

/-- The kind of a path's record: 0 none, 1 Helar, 2 NVMe (R577), and its fields. -/
def pathKind (m : Mach) (p : Nat) : Nat := imgFld m 0x000B p 0 1
def pathLink (m : Mach) (p : Nat) : Nat := imgFld m 0x000B p 1 1

/-- The partner's address of a path, and the link's prefix: whether the partner lies on it. -/
def partnerAddr (m : Mach) (p : Nat) : Bytes := bslice ((imgRec m 0x000B p).getD []) 32 16
def onPrefix (m : Mach) (l p : Nat) : Bool := prefixEq (linkAddr m l) (partnerAddr m p) (imgFld m 0x000C l 32 1)

/-- The next-hop MAC of a link; 0 means none. -/
def nextHop (m : Mach) (l : Nat) : Nat := beVal (bslice ((imgRec m 0x000C l).getD []) 10 6)

/-- The MAC to which a path's datagrams go: its partner's own, once resolved, on the link's prefix; else the next hop. -/
def hopMac (m : Mach) (l p : Nat) : Option Nat :=
  if onPrefix m l p then tfind (link m l).arp (beVal (partnerAddr m p))
  else if nextHop m l = 0 then none else some (nextHop m l)

/-- The frame by which the link resolves an address on its prefix: an ARP request for an IPv4-mapped one, else a neighbour solicitation. -/
def resolveFrame (m : Mach) (l vlan : Nat) (who : Bytes) : Bytes :=
  let mac := be 6 (linkMac m l)
  let own := linkAddr m l
  let tag := if vlan = 0 then [] else be 2 0x8100 ++ be 2 vlan
  if who.take 12 = mapV4 [] then
    be 6 0xFFFFFFFFFFFF ++ mac ++ tag ++ be 2 0x0806 ++ be 2 1 ++ be 2 0x0800 ++ be 1 6 ++ be 1 4 ++ be 2 1 ++ mac ++ own.drop 12 ++ be 6 0 ++ who.drop 12
  else
    let group := be 2 0xFF02 ++ be 9 0 ++ be 2 0x01FF ++ who.drop 13
    let body := be 1 135 ++ be 1 0 ++ be 2 0 ++ be 4 0 ++ who ++ be 1 1 ++ be 1 1 ++ mac
    let sum := 0xFFFF - onesSum body (onesSum (own ++ group) 0 + 58 + body.length)
    be 2 0x3333 ++ be 1 0xFF ++ who.drop 13 ++ mac ++ tag ++ be 2 0x86DD ++ be 4 0x60000000 ++ be 2 body.length ++ be 1 58 ++ be 1 255 ++
      own ++ group ++ patch body 2 (be 2 sum)

/-- A Helar datagram of a path leaves its link, addressed as the path's and the link's records say. Where the partner's MAC is not resolved
yet the resolution leaves in its place, and without a next hop nothing does (DESIGN CHOICE, log entry 112). -/
def helarOut (m : Mach) (p : Nat) (d : Bytes) : Mach :=
  let l := pathLink m p
  let vlan := imgFld m 0x000C l 36 2 % 4096
  match hopMac m l p with
  | some mac => emit m (.datagram p { link := l, mac := mac, vlan := vlan, src := linkAddr m l, dst := partnerAddr m p,
                                      sport := imgFld m 0x000B p 4 2, dport := imgFld m 0x000B p 6 2 } d)
  | none => if onPrefix m l p then emit m (.frame l (resolveFrame m l vlan (partnerAddr m p))) else m

end Sys2Proof.Machine
end

