-- ==== Sys2Proof/Machine/ChanOps.lean ====
section
/-! DEFINITION. Operations of the channel subsystem (R540 to R588) and of the Helar protocol (R614 to R635): the journal,
transactions from submission to completion, paths and their failures, segments, acknowledgement, capability exchange. -/

namespace Sys2Proof.Machine

/-! ## Parts of the state -/

def modChn (m : Mach) (f : ChnSt → ChnSt) : Mach := { m with chn := f m.chn }
def path (m : Mach) (p : Nat) : Path := tget m.chn.paths p Path.reset
def setPath (m : Mach) (p : Nat) (x : Path) : Mach := modChn m (fun c => { c with paths := tset c.paths p x })
def modPath (m : Mach) (p : Nat) (f : Path → Path) : Mach := setPath m p (f (path m p))
def modHelar (m : Mach) (p : Nat) (f : HelarSt → HelarSt) : Mach := modPath m p (fun x => { x with helar := f x.helar })
def txn (m : Mach) (t : Nat) : Option Txn := tfind m.chn.txns t
def setTxnSt (m : Mach) (t : Nat) (x : Txn) : Mach := modChn m (fun c => { c with txns := tset c.txns t x })
def ring (m : Mach) (l e : Nat) : RingSt := tget m.chn.rings (l * 64 + e) { tail := 0, head := 0 }
def setRing (m : Mach) (l e : Nat) (r : RingSt) : Mach := modChn m (fun c => { c with rings := tset c.rings (l * 64 + e) r })

def pathIdent (m : Mach) (p : Nat) : Bytes := bslice ((imgRec m 0x000B p).getD []) 16 16
/-- The hub of a path: of its link or its root port (R1). -/
def pathHub (m : Mach) (p : Nat) : Nat := if pathKind m p = 2 then pathLink m p else pathLink m p / 4
def operational (m : Mach) (p : Nat) : Bool := (path m p).st == .operational

/-- The stored registers of endpoint e of a lease (R587, R588); the path fields reset to 0xFF. -/
def epCtl (m : Mach) (l e : Nat) : Nat := (tget (lease m l).regs (0x1000 + 32 * e) 0xFFFFFFFF).toNat
def epRing (m : Mach) (l e : Nat) : Nat := (tget (lease m l).regs (0x1008 + 32 * e) 0).toNat
def epTimers (m : Mach) (l e : Nat) : Nat := (tget (lease m l).regs (0x1010 + 32 * e) 0).toNat
def epPaths (m : Mach) (l e : Nat) : List Nat :=
  ((List.range 4).map (fun i => bits (epCtl m l e) (8 * i + 7) (8 * i))).filter (fun p => p < 64)
def epSize (m : Mach) (l e : Nat) : Nat := 16 * 2 ^ bits (epRing m l e) 59 56
def epBase (m : Mach) (l e : Nat) : Nat := bits (epRing m l e) 47 6 * 64
/-- Partner wait and completion wait in ns, redrive limit (R588: 0 selects 10,000 ms, 30,000 ms, 8). -/
def partnerWait (m : Mach) (l e : Nat) : Nat :=
  let v := bits (epTimers m l e) 15 0
  (if v = 0 then 10000 else v) * 1000000
def completionWait (m : Mach) (l e : Nat) : Nat :=
  let v := bits (epTimers m l e) 31 16
  (if v = 0 then 30000 else v) * 1000000
def redriveLimit (m : Mach) (l e : Nat) : Nat :=
  let v := bits (epTimers m l e) 35 32
  if v = 0 then 8 else v

/-- The transactions from Submitted to Completed (R583), of all, a lease, an endpoint, a path, a channel processor. -/
def openTxns (m : Mach) : List (Nat × Txn) := m.chn.txns.filter (fun p => p.2.st != .reported)
def cpOpen (m : Mach) (c : Nat) : Nat := ((openTxns m).filter (fun p => p.2.cp == c)).length
def epOpen (m : Mach) (l e : Nat) : List (Nat × Txn) := (openTxns m).filter (fun p => p.2.id.lease == l && p.2.id.ep == e)

/-- A channel processor in service. -/
def cpIn (m : Mach) (c : Nat) : Bool := hubIn m (c / 8) && ustate m 0x08 c == .active

/-- The channel processor of a hub's group with the fewest open transactions, the lower index among equals; none where all are
full or out (R555). -/
def chooseCp (m : Mach) (hub : Nat) : Option Nat :=
  pickBest (fun a b => decide (cpOpen m a < cpOpen m b))
    ((List.range 16).filter (fun c => c / 8 == hub && cpIn m c && decide (cpOpen m c < 4096)))

/-- The same for a recovery: none that a partial image at work names (R129). -/
def spareCp (m : Mach) (hub : Nat) : Option Nat :=
  pickBest (fun a b => decide (cpOpen m a < cpOpen m b))
    ((List.range 16).filter (fun c => c / 8 == hub && cpIn m c && decide (cpOpen m c < 4096) && !applyingNames m 0x10 (64 + c)))

/-- The hub whose group takes an endpoint's transaction: of the first Operational path, else of the first path (R555); hub 0 for an endpoint
without a path (DESIGN CHOICE, log entry 114). -/
def epHub (m : Mach) (l e : Nat) : Nat :=
  match (epPaths m l e).find? (operational m) with
  | some p => pathHub m p
  | none => pathHub m ((epPaths m l e).headD 64)

/-- Bytes that the spec leaves open (log entry 2). -/
def freeBytes (m : Mach) (n : Nat) : Bytes × Mach :=
  ((List.range n).map (Config.freeByte m.freeIdx), { m with freeIdx := m.freeIdx + 1 })

/-! ## The journal (R557 to R560, R571, R582) -/

/-- The codes of a transaction's state, status and kind in an entry (R558). -/
def txnStCode : TxnSt → Nat
  | .submitted => 0 | .journalled => 1 | .issued => 2 | .awaiting => 3 | .held => 4 | .completed => 5 | .reported => 6

/-- The journal entry of R558 with its CRC-32C. -/
def entryBytes (x : Txn) (stamp : Word) : Bytes :=
  let b := le 8 x.id.num.toNat ++ le 1 (txnStCode x.st) ++
    le 1 (b2n x.everIssued + 2 * b2n x.heldInPartner + 4 * b2n x.toSump) ++ le 1 x.id.lease ++ le 1 x.id.ep ++ le 1 x.path ++
    le 1 x.redrives ++ le 1 x.cp ++ le 1 1 ++ le 8 x.id.progPa ++ le 8 x.id.ringRec ++ le 8 x.id.tag.toNat ++
    le 8 x.id.accepted.toNat ++ le 8 stamp.toNat ++ le 8 x.done ++ le 2 x.status ++ le 1 x.outcome ++ le 1 x.id.steps ++
    le 2 x.partnerStatus ++ le 2 x.gen ++ le 4 0 ++ le 4 x.writes ++ le 8 x.id.deadline.toNat ++ padTo 36 []
  b ++ le 4 (crc32c b)

/-- A physical line can be written: it lies below `MEM_TOP` and its seam holds it. -/
def lineWritable (m : Mach) (n : Nat) : Bool := decide (n < memLines m) && !lineGone m n

/-- An entry is written (R557 to R560, R582): in the region, and in the new region while a move runs; then the write succeeds where the new
region takes it (DESIGN CHOICE, log entry 111). A failing write makes the journal Degraded, once with a record (R571). The answer says
whether the write succeeded. -/
def journalWrite (m : Mach) (t : Nat) (x : Txn) : Bool × Mach :=
  let x := { x with writes := x.writes + 1 }
  let m := setTxnSt m t x
  let base := bits m.chn.jrn.toNat 51 22 * 2 ^ 22
  let ok := bit m.chn.jrn.toNat 0 && lineWritable m ((m.chn.jrnMove.getD base + 128 * t) / 256) && m.chn.journal != 0
  if ok then
    let (stamp, m) := takeStamp m (0x0900 + x.cp)
    let b := entryBytes x stamp
    let m := if lineWritable m ((base + 128 * t) / 256) then wrPhys m (0x0900 + x.cp) (base + 128 * t) b else m
    (true, match m.chn.jrnMove with
      | some nb => wrPhys m (0x0900 + x.cp) (nb + 128 * t) b
      | none => m)
  else
    let m := if m.chn.journal = 2 then m else raiseErr (modChn m (fun c => { c with journal := 2 })) 0x0065 (0x0900 + x.cp) (le 2 t)
    (false, m)

/-- The same where the transaction goes on whatever comes of the write (R571). -/
def journal (m : Mach) (t : Nat) (x : Txn) : Mach := (journalWrite m t x).2

/-! ## Submission (R549 to R556) -/

/-- The code of a step, its byte count, buffer, object offset or LBA, operation code (R550). -/
structure Step where
  code : Nat
  count : Nat
  buf : Nat
  off : Nat
  op : Nat
  ok : Bool
  deriving DecidableEq, Repr

def stepOf (b : Bytes) : Step :=
  { code := fld b 0 1, count := fld b 4 4, buf := fld b 8 8, off := fld b 16 8, op := fld b 24 4,
    ok := fld b 1 3 == 0 && fld b 28 4 == 0 }

/-- A step is well formed and suits a path kind (R550, R551). -/
def stepFits (kind lbaShift : Nat) (s : Step) : Bool :=
  s.ok && decide (s.count ≤ 1048576) &&
  (if kind = 2 then
    s.op == 0 && (match s.code with
      | 1 | 2 => s.count != 0 && s.count % 2 ^ lbaShift == 0
      | 3 => s.count == 0
      | _ => false)
  else match s.code with
    | 1 | 2 | 3 => true
    | 4 => decide (s.count ≤ 4096)
    | _ => false)

/-- The program at a lease address: its header and steps; none where it cannot be read. -/
def readProgram (m : Mach) (hub l va : Nat) : Option (Bytes × List Step) × Mach :=
  match rdLease m hub 0x0900 l va 32 with
  | (.error _, m) => (none, m)
  | (.ok h, m) =>
    let n := fld h 1 1
    if n = 0 ∨ 64 < n then (some (h, []), m) else
    match rdLease m hub 0x0900 l (va + 32) (32 * n) with
    | (.error _, m) => (none, m)
    | (.ok b, m) => (some (h, (List.range n).map (fun i => stepOf (bslice b (32 * i) 32))), m)

/-- Every buffer is mapped with the rights of R551. -/
def buffersOk (m : Mach) (hub l : Nat) (steps : List Step) : Bool × Mach :=
  steps.foldl (fun (a : Bool × Mach) s =>
    if !a.1 then a else
    match s.code with
    | 1 | 4 =>
      let (r, m) := canAccess (linesFor s.count) a.2 hub l s.buf s.count .read
      (r.isNone, m)
    | 2 =>
      let (r, m) := canAccess (linesFor s.count) a.2 hub l s.buf s.count .write
      (r.isNone, m)
    | _ => a) (true, m)

def leaseAccepts (m : Mach) (l : Nat) : Bool := (lease m l).st == .active

/-- RING_CHAN (R256, R553, R554): the checks in order, ARG's own bits with those of check 3 (DEDUCED, log entry 97), the Hold entry (R34) with
those of check 4; the answer code, or a slot Submitted with its entry still to be written. -/
def ringChan (m : Mach) (level l : Nat) (arg a : Word) : Mach :=
  let answer (m : Mach) (code : Nat) : Mach := { m with answers := tset m.answers level (code, 0) }
  let e := bits arg.toNat 15 0
  if !leaseAccepts m l then answer m 3
  else if 64 ≤ e ∨ !bit (epCtl m l e) 63 then answer m 2
  else if bits arg.toNat 63 16 ≠ 0 then answer m 5
  else
    let hub := epHub m l e
    let kind := pathKind m ((epPaths m l e).headD 64)
    let lba := (path m ((epPaths m l e).headD 64)).lbaShift
    if a.toNat % 64 ≠ 0 then answer m 5 else
    match readProgram m hub l a.toNat with
    | (none, m) => answer m 5
    | (some (h, steps), m) =>
      let headOk := fld h 0 1 == 1 && steps != [] && fld h 2 2 < 2 && fld h 4 4 == 0 && fld h 24 8 == 0
      if !headOk ∨ !steps.all (stepFits kind lba) then answer m 5 else
      match buffersOk m hub l steps with
      | (false, m) => answer m 5
      | (true, m) =>
        let r := ring m l e
        let (h', m) := ringHead m hub 0x0900 l (epBase m l e) r.head r.tail
        let head := h'.getD r.head
        let m := setRing m l e { r with head := head }
        let held := ((openTxns m).filter (fun p => p.2.id.lease == l && p.2.id.ep == e && p.2.reserved)).length
        let slot := (List.range 32768).find? (fun t => match txn m t with | none => true | some x => x.st == .reported)
        match slot, chooseCp m hub with
        | some t, some c =>
          if m.mode.holdStart.isSome ∨ epSize m l e ≤ held + (r.tail - head) then answer m 1
          else if m.chn.journal ≠ 1 ∧ m.chn.journal ≠ 3 then answer m 4
          else
            let (stamp, m) := takeStamp m (0x0900 + c)
            let (pa, m) := hubAddr m hub l a.toNat .read
            let num := m.chn.epoch * 2 ^ 48 + m.chn.serial
            let dl := fld h 16 8
            let id : TxnId :=
              { num := BitVec.ofNat 64 num, lease := l, ep := e, tag := BitVec.ofNat 64 (fld h 8 8), accepted := stamp, progVa := a.toNat,
                progPa := (match pa with | .ok x => x | .error _ => 0),
                ringRec := epBase m l e + 64 + 32 * ((r.tail + held) % epSize m l e), steps := steps.length,
                ordered := bit (fld h 2 2) 0, deadline := if dl = 0 then 0 else BitVec.ofNat 64 (stamp.toNat + 1000 * dl), submitter := level }
            let x : Txn :=
              { id := id, st := .submitted, everIssued := false, heldInPartner := false, toSump := false, sumpReason := 0, path := 0xFF,
                redrives := 0, cp := c, done := 0, status := 0, outcome := 0, partnerStatus := 0, gen := 0, writes := 0, reserved := true,
                waitSince := m.now, awaitSince := 0, outSteps := [], order := 0, sumpWaiting := false }
            let next := m.chn.serial + 1
            let m := modChn m (fun z => { z with
              serial := next % 2 ^ 48, epoch := if next = 2 ^ 48 then (z.epoch + 1) % 65536 else z.epoch })
            setTxnSt m t x
        | _, _ => answer m 1

/-! ## Completion (R546, R561, R565, R573, R574) -/

/-- The outcome of a status that ends without a partner answer (R565): 1 NOT_PERFORMED, 2 UNKNOWN, 3 PARTIAL. -/
def lostOutcome (m : Mach) (x : Txn) : Nat :=
  if !x.everIssued then 1 else if pathKind m x.path = 2 ∧ x.done ≠ 0 then 3 else 2

/-- A transaction completes with a status and an outcome: its entry is written before its record (R559). -/
def txnComplete (m : Mach) (t : Nat) (x : Txn) (status outcome : Nat) : Mach :=
  let m := modChn m (fun c => { c with order := c.order + 1 })
  journal m t { x with st := .completed, status := status, outcome := outcome, outSteps := [], order := m.chn.order }

/-- The lease is quiescing or quiesced: none of its transactions is issued (R561, R572). -/
def leaseQuiet (m : Mach) (l : Nat) : Bool := (lease m l).st == .quiescing || (lease m l).st == .quiesced

/-- A transaction goes back to Journalled, or, while its lease is quiescing or quiesced, to Held (R561, R572). -/
def txnBack (m : Mach) (t : Nat) (x : Txn) : Mach :=
  journal m t { x with st := if leaseQuiet m x.id.lease then .held else .journalled, outSteps := [], waitSince := m.now }

/-- The entry of a submitted transaction is written (R554, R561): accepted, or the slot is freed and the answer is UNIT_DOWN. An accepted
transaction of a quiescing lease is Held, one of a lease that was reset or is removed is CANCELLED (R572). -/
def journalSubmitted (m : Mach) (t : Nat) : Mach :=
  match txn m t with
  | none => m
  | some x =>
    if x.st ≠ .submitted then m else
    let (ok, m) := journalWrite m t { x with st := .journalled, waitSince := m.now }
    if ok then
      let m := { m with answers := tset m.answers x.id.submitter (0, x.id.num) }
      let m := modChn m (fun c => { c with ledgerIn := (c.ledgerIn + 1) % 2 ^ 32 })
      match txn m t with
      | some y =>
        if y.toSump then txnComplete m t y 2 1
        else if leaseQuiet m x.id.lease then journal m t { y with st := .held }
        else m
      | none => m
    else
      let m := modChn m (fun c => { c with txns := tdel c.txns t })
      { m with answers := tset m.answers x.id.submitter (4, 0) }

/-- The completion record of R546. -/
def recordBytes (x : Txn) (tail size : Nat) : Bytes :=
  le 8 x.id.num.toNat ++ le 8 x.id.tag.toNat ++ le 8 x.done ++ le 2 x.status ++ le 1 x.outcome ++
    le 1 (b2n (tail / max 1 size % 2 == 0) + 16 * sat 15 x.redrives) ++ le 2 x.partnerStatus ++ le 2 0

def sumpSize (m : Mach) : Nat := 16 * 2 ^ bits m.chn.sump.toNat 63 60
def sumpBase (m : Mach) : Nat := bits m.chn.sump.toNat 47 6 * 64

/-- What became of a record for the sump (R573, R574). -/
inductive SumpRes where
  | written | full | lost
  deriving DecidableEq, Repr

/-- A 64-byte record written to the sump, then TAIL, then the SUMP event to the manager; or the sump is full, or cannot be
written: then SUMP_LOST is set, once with a record and an event (R574). -/
def sumpPut (m : Mach) (src : Nat) (rec_ : Bytes) : SumpRes × Mach :=
  let vec := bits m.chn.sump.toNat 59 48
  let lost (m : Mach) (line : Nat) : SumpRes × Mach :=
    if m.chn.sumpLost then (.lost, m) else
    let m := modChn m (fun c => { c with sumpLost := true })
    let waiting := ((openTxns m).filter (fun p => p.2.sumpWaiting)).length
    let m := raiseErr m 0x0067 src (le 2 (waiting + 1) ++ le 6 0 ++ le 8 line)
    (.lost, raiseEvent m 0x12 src 0 vec (le 8 m.chn.sumpTail))
  if !bit m.chn.sump.toNat 0 ∨ m.chn.sumpLost then (if m.chn.sumpLost then .lost else .full, m) else
  let hub := m.evt.activeBlock
  match ringHead m hub src 0 (sumpBase m) m.chn.sumpHead m.chn.sumpTail with
  | (none, m) => lost m 0
  | (some h, m) =>
    let m := modChn m (fun c => { c with sumpHead := h })
    if sumpSize m ≤ m.chn.sumpTail - h then (.full, m) else
    let va := sumpBase m + 64 + 64 * (m.chn.sumpTail % sumpSize m)
    match hubAddr m hub 0 va .write with
    | (.error _, m) => lost m 0
    | (.ok pa, m) =>
      if !lineWritable m (pa / 256) then lost m (pa / 256 * 256) else
      match ringPut m hub src 0 (sumpBase m) (sumpSize m) 64 m.chn.sumpTail (padTo 64 rec_) with
      | (.error _, m) => lost m (pa / 256 * 256)
      | (.ok _, m) =>
        let m := modChn m (fun c => { c with sumpTail := c.sumpTail + 1 })
        (.written, raiseEvent m 0x12 src 0 vec (le 8 m.chn.sumpTail))

/-- The sump record of a transaction (R573). -/
def sumpRecord (x : Txn) (reason : Nat) (m : Mach) : Bytes :=
  recordBytes x m.chn.sumpTail (sumpSize m) ++ le 1 x.id.lease ++ le 1 x.id.ep ++ le 1 reason ++ padTo 29 []

/-- A lease that was reset or is removed loses ENABLED of an endpoint once it has no open transaction (R749). -/
def endpointOff (m : Mach) (l e : Nat) : Mach :=
  let gone := match (lease m l).st with | .resetting | .removing | .stopped => true | _ => false
  if gone && bit (epCtl m l e) 63 && (epOpen m l e).isEmpty then
    modLease m l (fun x => { x with regs := tset x.regs (0x1000 + 32 * e) (BitVec.ofNat 64 (epCtl m l e % 2 ^ 63)) })
  else m

/-- The record is out: Reported, the slot is free, the entry is kept (R559, R561). -/
def txnReported (m : Mach) (t : Nat) (x : Txn) : Mach :=
  let m := journal m t { x with st := .reported, reserved := false, sumpWaiting := false }
  let m := modChn m (fun c => { c with ledgerOut := (c.ledgerOut + 1) % 2 ^ 32 })
  if x.sumpReason = 1 ∨ x.sumpReason = 2 then endpointOff m x.id.lease x.id.ep else m

/-- A completed transaction's record goes to the sump, with a reason. -/
def txnToSump (m : Mach) (t : Nat) (x : Txn) (reason : Nat) : Mach :=
  match sumpPut m (0x0900 + x.cp) (sumpRecord x reason m) with
  | (.written, m) => txnReported m t x
  | (_, m) => setTxnSt m t { x with toSump := true, sumpReason := reason, sumpWaiting := true }

/-- A completed transaction's record is written: to its ring, then TAIL, then the event; to the sump where it is so marked or
the ring cannot be written (R547, R561, R566, R572). -/
def txnRecord (m : Mach) (t : Nat) : Mach :=
  match txn m t with
  | none => m
  | some x =>
    if x.st ≠ .completed ∨ x.sumpWaiting then m else
    if x.toSump then txnToSump m t x (if x.sumpReason = 0 then 1 else x.sumpReason) else
    let l := x.id.lease
    let e := x.id.ep
    let hub := x.cp / 8
    let r := ring m l e
    let base := epBase m l e
    let va := base + 64 + 32 * (r.tail % epSize m l e)
    let (pa, m) := hubAddr m hub l va .write
    let ok := match pa with | .ok a => lineWritable m (a / 256) | .error _ => false
    if !ok then txnToSump m t x 3 else
    match ringPut m hub (0x0900 + x.cp) l base (epSize m l e) 32 r.tail (recordBytes x r.tail (epSize m l e)) with
    | (.error _, m) => txnToSump m t x 3
    | (.ok _, m) =>
      let m := setRing m l e { r with tail := r.tail + 1 }
      let m := raiseEvent m 0x02 (0x0900 + x.cp) l (bits (epCtl m l e) 55 44) (le 8 x.id.num.toNat ++ le 8 (r.tail + 1) ++ le 1 e)
      txnReported m t x

/-! ## Helar datagrams (R614, R622 to R628) -/

/-- The header of R614 before a payload. -/
def helarHeader (h : HelarSt) (version type flags seq : Nat) (token : Nat) (body : Bytes) : Bytes :=
  let sack := if bit h.mask 3 then
      (List.range 32).foldl (fun a i => if (tfind h.kept ((h.rxNext + 1 + i) % 2 ^ 32)).isSome then a + 2 ^ i else a) 0
    else 0
  le 1 0x48 ++ le 1 0x4C ++ le 1 version ++ le 1 type ++ le 2 flags ++ le 2 body.length ++ le 4 token ++ le 4 seq ++
    le 4 (if bit flags 2 then h.rxNext else 0) ++ le 4 (if bit flags 2 then sack else 0) ++
    le 4 (if bit h.mask 5 && type != 1 && type != 2 then crc32c body else 0) ++ le 4 0

/-- A datagram sent on an operational path; it carries the acknowledgement that is due (R623). -/
def helarSend (m : Mach) (p type flags seq : Nat) (body : Bytes) : Mach :=
  let h := (path m p).helar
  let m := helarOut m p (helarHeader h h.version type (flags ||| 4) seq h.peerToken body ++ body)
  modHelar m p (fun h => { h with lastTx := m.now, ackDue := none })

/-- Segments that the window lets go are sent (R622). -/
def helarPump (fuel : Nat) (m : Mach) (p : Nat) : Mach :=
  match fuel with
  | 0 => m
  | f + 1 =>
    let h := (path m p).helar
    match h.queue with
    | [] => m
    | s :: q =>
      if h.window ≤ h.unacked.length then m else
      let s := { s with seq := h.txNext, sentAt := m.now, timeout := 1000 * h.rtoUs, count := 0 }
      let m := modHelar m p (fun h => { h with queue := q, unacked := h.unacked ++ [s], txNext := (h.txNext + 1) % 2 ^ 32 })
      helarPump f (helarSend m p s.type s.flags s.seq s.body) p

/-- A message cut into segments of the agreed payload (R622) and queued. -/
def helarQueue (m : Mach) (p type t : Nat) (msg : Bytes) : Mach :=
  let size := max 1 (path m p).helar.payload
  let n := max 1 (ceilDiv msg.length size)
  let segs := (List.range n).map (fun i =>
    ({ seq := 0, type := type, flags := b2n (i == 0) + 2 * b2n (i + 1 == n), body := bslice msg (i * size) size, sentAt := 0,
       timeout := 0, count := 0, txn := t + 1 } : Seg))
  let m := modHelar m p (fun h => { h with queue := h.queue ++ segs })
  helarPump (n + (path m p).helar.queue.length) m p

/-- Fields padded with zeros to a multiple of 8 bytes (R628). -/
def pad8 (b : Bytes) : Bytes := padTo (8 * ceilDiv b.length 8) b

/-- A REQUEST message (R628): the buffers are read as they stand (R552). -/
def requestMsg (m : Mach) (hub : Nat) (x : Txn) (steps : List Step) : Bytes × Mach :=
  let desc := steps.flatMap (fun s => le 1 s.code ++ le 3 0 ++ le 4 s.count ++ le 8 s.off ++ le 4 s.op ++ le 4 0)
  let (data, m) := steps.foldl (fun (a : Bytes × Mach) s =>
    if s.code = 1 ∨ s.code = 4 then
      match rdLease a.2 hub (0x0900 + x.cp) x.id.lease s.buf s.count with
      | (.ok b, m) => (a.1 ++ pad8 b, m)
      | (.error _, m) => let (b, m) := freeBytes m s.count; (a.1 ++ pad8 b, m)
    else a) ([], m)
  let len := 32 + desc.length + data.length
  (le 8 x.id.num.toNat ++ le 1 steps.length ++ le 1 (b2n x.id.ordered) ++ le 2 0 ++ le 4 len ++ le 16 0 ++ desc ++ data, m)

/-- A path's program as it stands in the lease's memory (R552). -/
def programOf (m : Mach) (hub : Nat) (x : Txn) : List Step × Mach :=
  match readProgram m hub x.id.lease x.id.progVa with
  | (some (_, s), m) => (s, m)
  | (none, m) => ([], m)

/-- The NVMe command of a step (R541): Write, Read or Flush with its LBA, count and buffer. -/
def nvmeCmd (m : Mach) (p t i : Nat) (s : Step) (prp : Nat) : Bytes :=
  let opc := match s.code with | 1 => 1 | 2 => 2 | _ => 0
  let sh := (path m p).lbaShift
  le 1 opc ++ le 1 0 ++ le 2 (t % 65536) ++ le 4 (imgFld m 0x000B p 12 4) ++ le 16 i ++ le 16 prp ++ le 8 s.off ++
    le 4 (if s.count = 0 then 0 else s.count / 2 ^ sh - 1) ++ le 12 0

/-- The steps of an NVMe program that are issued now (R551, R567): those not done, one at a time with ORDERED. -/
def nvmeIssue (m : Mach) (t p : Nat) (x : Txn) (steps : List Step) : Mach :=
  let left := (List.range steps.length).filter (fun i => !x.done.testBit i)
  let now' := if x.id.ordered then left.take 1 else left
  let m := now'.foldl (fun m i => match steps[i]? with
    | some s =>
      let (pa, m) := hubAddr m (x.cp / 8) x.id.lease s.buf (if s.code = 2 then .write else .read)
      emit m (.nvme p t i (nvmeCmd m p t i s (match pa with | .ok a => a | .error _ => 0)))
    | none => m) m
  setTxnSt m t { x with outSteps := now' }

/-! ## Issue (R561, R567, R631) -/

/-- A path can carry a program: it is Operational, and a Helar path without CONTROL carries no CONTROL step (R631). -/
def pathCarries (m : Mach) (p : Nat) (steps : List Step) : Bool :=
  operational m p && (pathKind m p == 2 || bit (path m p).helar.mask 0 || steps.all (fun s => s.code != 4))

/-- The endpoint's paths in the order in which a (re)drive tries them: after the last path, wrapping (R567). -/
def driveOrder (paths : List Nat) (last : Nat) : List Nat :=
  match paths.findIdx? (fun p => p == last) with
  | none => paths
  | some i => paths.drop (i + 1) ++ paths.take (i + 1)

/-- A Journalled transaction is issued on a path (R559, R561, R567): ownership passes to the path's group, the entry is written
Issued with EVER_ISSUED, and sending begins. Where no Operational path has the CONTROL feature, it completes (R631). -/
def txnIssueOn (m : Mach) (t : Nat) : Mach :=
  match txn m t with
  | none => m
  | some x =>
    let late := x.id.deadline ≠ 0 ∧ x.id.deadline.toNat ≤ (timeNow m).toNat
    if x.st ≠ .journalled ∨ leaseQuiet m x.id.lease ∨ late ∨ !unitsRun m then m else
    let paths := driveOrder (epPaths m x.id.lease x.id.ep) x.path
    let hub0 := x.cp / 8
    let (steps, m) := programOf m hub0 x
    match paths.find? (fun p => pathCarries m p steps) with
    | none =>
      if paths.any (operational m) then txnComplete m t x 4 (lostOutcome m x) else m
    | some p =>
      let hub := pathHub m p
      let cp := if x.cp / 8 = hub ∧ cpIn m x.cp then x.cp else (chooseCp m hub).getD x.cp
      let x := { x with cp := cp, path := p, st := .issued, everIssued := true, gen := (path m p).gen, awaitSince := m.now }
      let m := journal m t x
      match txn m t with
      | none => m
      | some x =>
        if pathKind m p = 2 then nvmeIssue m t p x steps
        else
          let (msg, m) := requestMsg m hub x steps
          helarQueue m p 0x10 t msg

/-- The last byte or command of an issue has been sent (R561, R572). -/
def txnSentAll (m : Mach) (t : Nat) : Mach :=
  match txn m t with
  | none => m
  | some x =>
    if x.st ≠ .issued then m else
    let h := (path m x.path).helar
    if h.queue.any (fun s => s.txn == t + 1) then m else
    journal m t { x with st := .awaiting, awaitSince := m.now, heldInPartner := x.heldInPartner || leaseQuiet m x.id.lease }

/-! ## Path failures (R542, R561, R566 to R570) -/

/-- A transaction loses its path (R561): redriven while redrives are left, Held where it is held in the partner, else
RETRY_LIMIT. The answer says whether it was redriven. -/
def txnLosesPath (m : Mach) (t : Nat) (x : Txn) : Bool × Mach :=
  let x := { x with outSteps := [] }
  if x.heldInPartner ∧ x.st = .awaiting then (false, journal m t { x with st := .held })
  else if x.redrives < redriveLimit m x.id.lease x.id.ep then
    let m := modChn m (fun c => { c with redriveN := sat 0xFFFF (c.redriveN + 1) })
    (true, txnBack m t { x with redrives := x.redrives + 1 })
  else (false, txnComplete m t x 4 (lostOutcome m x))

/-- The transactions of a path that are Issued or Awaiting. -/
def pathTxns (m : Mach) (p : Nat) : List (Nat × Txn) :=
  m.chn.txns.filter (fun q => q.2.path == p && (q.2.st == .issued || q.2.st == .awaiting))

/-- A path is declared Failed with a reason (R542, R566, R585); its transactions are redriven (R567). R542 gives an Offline and a Draining
path no such event, but where its hub is lost (reason 6) a Draining path fails too (R570). -/
def pathFails (m : Mach) (p reason : Nat) : Mach :=
  let x := path m p
  if x.st = .failed ∨ x.st = .offline ∨ (x.st = .draining ∧ reason ≠ 6) then m else
  let wasOp := x.st = .operational
  let m := setPath m p { x with st := .failed, reason := reason, lastOp := m.now, resetting := false, ready := false,
                                helar := { x.helar with unacked := [], queue := [], kept := [], partial_ := [], inMsg := false, ackDue := none } }
  let (n, m) := (pathTxns m p).foldl (fun (a : Nat × Mach) q =>
    let (r, m) := txnLosesPath a.2 q.1 q.2
    (a.1 + b2n r, m)) (0, m)
  if wasOp then raiseErr m 0x0060 (0x0900 + 8 * pathHub m p) (le 1 p ++ le 1 reason ++ le 2 n) else m

/-- Every Helar path of a link fails (R592). -/
def linkPathsFail (m : Mach) (link reason : Nat) : Mach :=
  (List.range 64).foldl (fun m p => if pathKind m p = 1 ∧ pathLink m p = link then pathFails m p reason else m) m

/-- NVMe paths whose controller lies behind a downstream link fail (R613). -/
def portPathsFail (m : Mach) (port : Nat) (bus : Option Nat) (reason : Nat) : Mach :=
  (List.range 64).foldl (fun m p =>
    let hit := pathKind m p == 2 && pathLink m p == port && (match bus with | none => true | some b => imgFld m 0x000B p 4 2 / 256 == b)
    if hit then pathFails m p reason else m) m

/-- The other processors of a group adopt the transactions of one that leaves (R569), or that fails (`failed`: a recovery, R129); the count is
that of transactions adopted. -/
def cpAdopt (m : Mach) (c : Nat) (failed : Bool) : Nat × Mach :=
  ((openTxns m).filter (fun p => p.2.cp == c)).foldl (fun (a : Nat × Mach) p =>
    match (if failed then spareCp a.2 (c / 8) else chooseCp a.2 (c / 8)) with
    | some d =>
      let m := setTxnSt a.2 p.1 { p.2 with cp := d }
      (a.1 + 1, modChn m (fun z => { z with adoptions := sat 0xFFFF (z.adoptions + 1) }))
    | none => a) (0, m)

/-- The surviving group adopts the transactions of a lost hub (R570); a transaction whose entry cannot be read completes with
JOURNAL_LOST. Adopted, and completed so. -/
def groupAdopt (m : Mach) (hub : Nat) : (Nat × Nat) × Mach :=
  let base := bits m.chn.jrn.toNat 51 22 * 2 ^ 22
  ((openTxns m).filter (fun p => p.2.cp / 8 == hub)).foldl (fun (a : (Nat × Nat) × Mach) p =>
    let m := a.2
    match txn m p.1 with
    | none => a
    | some x =>
      let readable := lineWritable m ((base + 128 * p.1) / 256) && !(cohLine m ((base + 128 * p.1) / 256)).2
      let c := (spareCp m (1 - hub)).getD x.cp
      let m := setTxnSt m p.1 { x with cp := c }
      let m := modChn m (fun z => { z with adoptions := sat 0xFFFF (z.adoptions + 1) })
      if readable ∨ x.st = .completed then ((a.1.1 + 1, a.1.2), m)
      else ((a.1.1 + 1, a.1.2 + 1), txnComplete m p.1 { x with cp := c } 6 2)) ((0, 0), m)

/-! ## Partner answers (R561, R563, R629, R630) -/

/-- The READ fields of an answer written into their buffers, in step order. -/
def writeReads (m : Mach) (hub : Nat) (x : Txn) (steps : List Step) (data : Bytes) : Mach :=
  (steps.foldl (fun (a : Bytes × Mach) s =>
    if s.code = 2 then
      let m := (wrLease a.2 hub (0x0900 + x.cp) x.id.lease s.buf (a.1.take s.count)).2
      (a.1.drop (8 * ceilDiv s.count 8), m)
    else a) (data, m)).2

/-- An ANSWER message on a path (R563, R629, R630). -/
def helarAnswer (m : Mach) (p : Nat) (msg : Bytes) : Mach :=
  let num := fld msg 0 8
  match m.chn.txns.find? (fun q => q.2.id.num.toNat == num && (q.2.st == .issued || q.2.st == .awaiting) && q.2.path == p) with
  | none => modChn m (fun c => { c with stray := sat 0xFFFF (c.stray + 1) })
  | some (t, x) =>
    let hub := x.cp / 8
    let (steps, m) := programOf m hub x
    let want := 16 + (steps.map (fun s => if s.code = 2 then 8 * ceilDiv s.count 8 else 0)).sum
    let st := fld msg 8 2
    if st = 0 ∧ (msg.length ≠ want ∨ fld msg 12 4 ≠ want) then
      raiseErr m 0x0066 (0x0900 + x.cp) (le 1 p ++ le 7 0 ++ le 8 num)
    else if st = 0 then
      let m := writeReads m hub x steps (msg.drop 16)
      txnComplete m t { x with done := 2 ^ x.id.steps - 1, partnerStatus := 0 } 0 0
    else txnComplete m t { x with partnerStatus := st } 1 1

/-- An NVMe completion (R561, R563, R565, R567): of a step that is out under the controller's present generation. -/
def nvmeDone (m : Mach) (p t step status gen : Nat) (data : Bytes) : Mach :=
  let strayed := modChn m (fun c => { c with stray := sat 0xFFFF (c.stray + 1) })
  match txn m t with
  | none => strayed
  | some x =>
    if x.path ≠ p ∨ gen ≠ (path m p).gen ∨ (x.st ≠ .issued ∧ x.st ≠ .awaiting) ∨ !x.outSteps.contains step then strayed else
    let hub := x.cp / 8
    let (steps, m) := programOf m hub x
    let s := steps[step]?
    let m := match s with
      | some s => if s.code = 2 ∧ status = 0 then (wrLease m hub (0x0900 + x.cp) x.id.lease s.buf (padTo s.count data)).2 else m
      | none => m
    let x := { x with outSteps := x.outSteps.filter (fun i => i != step),
                      done := if status = 0 then x.done ||| 2 ^ step else x.done,
                      partnerStatus := if status = 0 then x.partnerStatus else status }
    let allDone := x.done == 2 ^ x.id.steps - 1
    if allDone then txnComplete m t x 0 0
    else if x.outSteps.isEmpty then
      if x.partnerStatus ≠ 0 then txnComplete m t x 1 (if x.done = 0 then 1 else 3)
      else nvmeIssue m t p x steps
    else setTxnSt m t x

/-! ## Lease commands (R572) -/

/-- QUIESCE. -/
def chanQuiesce (m : Mach) (l : Nat) : Mach :=
  m.chn.txns.foldl (fun m q =>
    if q.2.id.lease ≠ l then m else
    match q.2.st with
    | .journalled => journal m q.1 { q.2 with st := .held }
    | .awaiting => journal m q.1 { q.2 with heldInPartner := true }
    | _ => m) m

/-- RESUME: Held transactions return to Journalled (R561, R718). -/
def chanResume (m : Mach) (l : Nat) : Mach :=
  m.chn.txns.foldl (fun m q =>
    if q.2.id.lease ≠ l then m else
    match q.2.st with
    | .held => journal m q.1 { q.2 with st := .journalled, heldInPartner := false, waitSince := m.now }
    | .awaiting => setTxnSt m q.1 { q.2 with heldInPartner := false }
    | _ => m) m

/-- Forced reset (reason 1) or removal (reason 2). -/
def chanReset (m : Mach) (l reason : Nat) : Mach :=
  m.chn.txns.foldl (fun m q =>
    if q.2.id.lease ≠ l then m else
    let x := { q.2 with toSump := true, sumpReason := reason }
    match q.2.st with
    | .journalled | .held => txnComplete m q.1 x 2 1
    | .submitted | .issued | .awaiting | .completed => setTxnSt m q.1 x
    | .reported => m) m

/-- No transaction of the lease is Submitted or Issued (R572, R744). -/
def chanSettled (m : Mach) (l : Nat) : Bool :=
  m.chn.txns.all (fun q => q.2.id.lease != l || (q.2.st != .submitted && q.2.st != .issued))

/-! ## Establishing a path (R542, R616 to R621) -/

/-- The segment payload and the window that the module offers (R619). -/
def helarOffer (m : Mach) (p : Nat) : Nat × Nat :=
  let b := imgFld m 0x000B p 10 2 * 4096
  let pay := min 8192 b
  (pay, min 256 (b / max 1 pay))

/-- The versions that the module lists, from 2.0 down to the record's lowest (R618). -/
def helarVersions (m : Mach) (p : Nat) : List Nat := [0x20, 0x11, 0x10].filter (fun v => imgFld m 0x000B p 3 1 ≤ v)

/-- The feature bits of a version (R617). -/
def helarFeatures (v : Nat) : Nat := if v = 0x20 then 0x3F else if v = 0x11 then 0x07 else 0

/-- The capability payload of the module (R616), as CAP_REQ or, with settled values, as CAP_RSP. -/
def capReqBody (m : Mach) (p : Nat) : Bytes :=
  let (pay, win) := helarOffer m p
  let vs := helarVersions m p
  padTo 16 m.ident ++ le 2 m.chn.epoch ++ le 1 vs.length ++ le 1 0 ++ padTo 4 (vs.map (BitVec.ofNat 8)) ++ le 8 0x3F ++
    le 4 (path m p).helar.token ++ le 2 pay ++ le 2 win ++ le 4 100 ++ le 4 500 ++ le 16 0

/-- CAP_REQ sent (R618). -/
def sendCapReq (m : Mach) (p : Nat) : Mach :=
  let body := capReqBody m p
  let h := (path m p).helar
  let m := helarOut m p (helarHeader { h with mask := 0 } 0 1 0 0 0 body ++ body)
  modHelar m p (fun h => { h with capAt := m.now, lastTx := m.now })

/-- What two offers settle (R618): version, mask, payload, window, keepalive ms, retransmit µs. -/
def settle (versions : List Nat) (low peerMask : Nat) (myPay myWin : Nat) (peerPay peerWin peerKeep peerRto : Nat) :
    Option (Nat × Nat × Nat × Nat × Nat × Nat) :=
  match (versions.filter (fun v => low ≤ v && [0x20, 0x11, 0x10].contains v)).foldl (fun a v => max a v) 0 with
  | 0 => none
  | v =>
    let mask := 0x3F &&& peerMask &&& helarFeatures v
    let pay := if bit mask 1 then max 1024 (min 8192 (min myPay peerPay / 64 * 64)) else 1024
    let cap := if v = 0x20 then 256 else if v = 0x11 then 64 else 32
    let win := min cap (min myWin peerWin)
    let keep := if bit mask 2 then max 10 (min 10000 (max 100 peerKeep)) else 100
    let rto := if bit mask 2 then max 100 (min 100000 (max 500 peerRto)) else 1000
    some (v, mask, pay, win, keep, rto)

/-- ONLINE takes effect, or a commit brings the path online (R542): establishment starts; it fails at once for a Helar path whose partner lies
off the link's prefix where the link has no next hop (R638). -/
def pathOnlineNow (m : Mach) (p : Nat) : Mach :=
  let (w, m) := takeFree m
  let tok := w.toNat % (2 ^ 32 - 1) + 1
  let m := setPath m p { path m p with st := .establishing, estAt := m.now,
                                       helar := { HelarSt.reset with token := tok, lastRx := m.now, lastTx := m.now } }
  let l := pathLink m p
  if pathKind m p = 1 then (if !onPrefix m l p ∧ nextHop m l = 0 then pathFails m p 7 else sendCapReq m p)
  else emit (emit (emit m (.nvmeAdmin p "enable controller")) (.nvmeAdmin p "identify")) (.nvmeAdmin p "create queues")

/-- The path's link or port is Active (R542). -/
def pathCarrierActive (m : Mach) (p : Nat) : Bool :=
  if pathKind m p = 1 then ustate m 0x06 (pathLink m p) == .active
  else pathKind m p == 2 && ustate m 0x07 (pathLink m p) == .active

/-- The path becomes Operational. -/
def pathUp (m : Mach) (p : Nat) : Mach := modPath m p (fun x => { x with st := .operational, reason := 0 })

/-- `CHN_PATH_CMD` (R542, R585): 1 ONLINE, 2 OFFLINE; a command that the state does not take changes nothing. -/
def pathCmd (m : Mach) (p code : Nat) : Mach :=
  let x := path m p
  match code, x.st with
  | 1, .offline | 1, .failed => if pathCarrierActive m p then pathOnlineNow m p else m
  | 2, .operational =>
    -- R542: its transactions move as for a redrive, without counting one
    let m := modPath m p (fun x => { x with st := .draining, lastOp := m.now })
    (pathTxns m p).foldl (fun m q =>
      if q.2.heldInPartner && q.2.st == .awaiting then journal m q.1 { q.2 with st := .held, outSteps := [] } else txnBack m q.1 q.2) m
  | 2, .failed => modPath m p (fun x => { x with st := .offline })
  | _, _ => m

end Sys2Proof.Machine
end

