-- ==== Sys2Proof/Machine/Ctl.lean ====
section
/-! DEFINITION. How a command runs on the machine; roles of units (R25, R862); who may make a control-space access and how one
is refused (R9, R723, R794); the choice among leases (R736). -/

namespace Sys2Proof.Machine

/-- A command whose effect is a change of the machine. -/
def runM (s : State) (f : Mach → Mach) : Host.Outcome State Fault Refusal := .next { s with m := f s.m }

/-- A command of a unit that works in Service and Rework; in any other mode the unit is parked, in reset or frozen and there is
no such event (log entry 6). -/
def runUnits (s : State) (f : Mach → Mach) : Host.Outcome State Fault Refusal := runM s (fun m => if unitsRun m then f m else m)

/-- A message or memory event, which Hold's own steps still drain (R34). -/
def runMesh (s : State) (f : Mach → Mach) : Host.Outcome State Fault Refusal := runM s (fun m => if meshRuns m then f m else m)

/-- An event that happens in any mode but Check-stop, where all but the service cores and ports is frozen (R820). -/
def runAlive (s : State) (f : Mach → Mach) : Host.Outcome State Fault Refusal := runM s (fun m => if alive m then f m else m)

/-! ## Roles (R25, R862) -/

/-- A crusher or cipher engine has a role where its record gives one; where the section is omitted, every unit of the kind has
one (chapters Crushers, Cipher Engines). -/
def unitHasRole (m : Mach) (kind index : Nat) : Bool :=
  match kind with
  | 0x00 | 0x0F => true
  | 0x01 => bit (imgFld m 0x0001 index 5 1) 0
  | 0x02 => bit (imgFld m 0x0001 (index / 17) 5 1) 0
  | 0x03 => ((imgRec m 0x0004 0).getD []).take 64 |>.any (fun b => b.toNat == index)
  | 0x04 => imgFld m 0x0005 index 0 1 != 0
  | 0x05 => (imgRec m 0x0005 (12 + index)).isSome
  | 0x06 => imgFld m 0x000C index 0 1 != 0
  | 0x07 => imgFld m 0x000C (8 + index) 0 1 != 0
  | 0x08 => committed m && hubIn m (index / 8)
  | 0x09 => committed m && (!imgHas m 0x000D || bit (imgFld m 0x000D index 0 1) 0)
  | 0x0A => committed m && (!imgHas m 0x000E || bit (imgFld m 0x000E index 0 1) 0)
  | 0x0B => committed m && hubIn m index
  | 0x0C => committed m
  | 0x0D | 0x0E => hubIn m index
  | _ => false

/-! ## Control-space accesses (R5, R9, R723) -/

/-- The manager or the service controller (R723). -/
def privileged (a : Actor) : Bool :=
  match a with
  | .service => true
  | .lease n => n.val == 0

/-- A write to a command register of a unit that only the manager and the service controller may make: refused for a unit
without a role (R25) or another writer, else it takes effect. -/
def ctlWrite (a : Actor) (kind index off : Nat) (f : Mach → Mach) (m : Mach) : Mach :=
  if !alive m then m
  else if !unitHasRole m kind index then refuseAccess m a (regAddr kind index off) 5
  else if !privileged a then refuseAccess m a (regAddr kind index off) 4
  else f m

/-- The same for a register whose own rule may refuse the write (none, reason 5 of R794). -/
def ctlWriteRule (a : Actor) (kind index off : Nat) (f : Mach → Option Mach) : Mach → Mach :=
  ctlWrite a kind index off (fun m => (f m).getD (refuseAccess m a (regAddr kind index off) 5))

/-! ## The choice among leases (R736) -/

/-- The lowest count among leases. -/
def minV (v : Tbl Rat) (ls : List Nat) : Rat :=
  match ls with
  | [] => 0
  | l :: r => r.foldl (fun a k => min a (tget v k 0)) (tget v l 0)

/-- The lease that a unit serves next among those eligible, with shares (R736), and the counts brought up to date: a lease that
has become eligible is raised to the lowest count of those already eligible. -/
def fairPick (f : Fair) (elig : List Nat) (share : Nat → Nat) : Option Nat × Fair :=
  if elig.isEmpty then (none, { v := [], elig := [] }) else
  let old := elig.filter (fun l => f.elig.contains l)
  let floor := minV f.v old
  let v := elig.foldl (fun v l => if f.elig.contains l ∨ old.isEmpty then v else tset v l (max (tget v l 0) floor)) f.v
  let f := { v := v, elig := elig }
  let lt (a b : Nat) : Bool := decide (tget v a 0 < tget v b 0) || (decide (tget v a 0 = tget v b 0) && decide (a < b))
  match pickBest lt (elig.filter (fun l => share l != 0)) with
  | some l => (some l, f)
  | none => (pickBest (fun a b => decide (a < b)) elig, f)

/-- The bytes that a unit serves are charged to the chosen lease (R736 step 3); a share of 0 is charged nothing. -/
def fairCharge (f : Fair) (l bytes share : Nat) : Fair :=
  if share = 0 then f else { f with v := tset f.v l (tget f.v l 0 + (bytes : Rat) / (share : Rat)) }

end Sys2Proof.Machine
end

