-- ==== Sys2Proof/Machine/Operands.lean ====
section
/-! DEFINITION. What a bundle says (R142 to R149) and what its sockets are (R150 to R157, with each unit's table): fields of a
bundle, guards, literals, classes, widths, levels and views of sockets. -/

namespace Sys2Proof.Machine

/-! ## Bundles (R142 to R149) -/

/-- The source of a move: a socket, or a literal already extended to 64 bits (R146, R148). -/
inductive Src where
  | sock (n : Nat)
  | lit (w : Word)
  deriving DecidableEq, Repr

/-- A move in a slot (R143). -/
structure Move where
  slot : Nat
  guard : Nat
  dest : Nat
  src : Src
  deriving DecidableEq, Repr

/-- A bundle: its REPEAT bit and the moves of its non-empty slots, lowest slot first. -/
structure Bundle where
  rep : Bool
  moves : List Move
  deriving DecidableEq, Repr

/-- The 30 bits of a slot. -/
def slotBits (w n : Nat) : Nat := bits w (30 * n + 29) (30 * n)
/-- A slot is empty (R144, R145). -/
def slotEmpty (s : Nat) : Bool := bits s 29 26 == 8

/-- A signed literal of some width as a 64-bit word. -/
def litWord (width v : Nat) : Word := BitVec.ofNat 64 (toTwos 64 (signed width v))

/-- The move of slot n, where the slot holds one; `long` is the upper part of a 45-bit literal for this slot. -/
def moveOf (w n : Nat) (long : Option Nat) : Option Move :=
  let s := slotBits w n
  if slotEmpty s then none else
  let src := bits s 15 0
  let v : Src := if bit src 15 then
      (match long with
       | some hi => .lit (litWord 45 (hi * 2 ^ 15 + bits src 14 0))
       | none => .lit (litWord 15 (bits src 14 0)))
    else .sock (bits src 9 0)
  some { slot := n, guard := bits s 29 26, dest := bits s 25 16, src := v }

/-- The slots at fault under R149, the header's own faults counted as slot 0. -/
def bundleFaults (w : Nat) : List Nat :=
  let long := bit w 126
  let lsel := bits w 125 124
  let header := bits w 123 120 != 0 || (!long && lsel != 0) || (long && lsel == 3)
  let badLong := long && lsel != 3 && (slotEmpty (slotBits w lsel) || !bit (slotBits w lsel) 15)
  let badSlot (n : Nat) : Bool :=
    let s := slotBits w n
    !slotEmpty s && !bit s 15 && bits s 14 10 != 0
  (List.range 4).filter (fun n =>
    (header && n == 0) || (badLong && n == lsel) || (badSlot n && !(long && n == 3)))

/-- A bundle, or the lowest slot for which R149 refuses it. -/
def decodeBundle (w : Nat) : Except Nat Bundle :=
  match bundleFaults w with
  | n :: _ => .error n
  | [] =>
    let long := bit w 126
    let hi := slotBits w 3
    .ok { rep := bit w 127,
          moves := (List.range (if long then 3 else 4)).filterMap (fun n =>
            moveOf w n (if long && n == bits w 125 124 then some hi else none)) }

/-- A move executes under the guards of its bank (R144); bit 0 of the guard word reads 1. -/
def guardHolds (guards code : Nat) : Bool :=
  if code = 0 then true
  else if code < 8 then bit guards code
  else if code = 8 then false
  else !bit guards (code - 8)

/-! ## Sockets (R150 to R154) -/

/-- The units behind the sockets (R151). -/
inductive EUnit where
  | reg | cword | ctl | alu0 | alu1 | mul | div | fpu | lsu0 | lsu1 | mac | dstk | rstk | save | tmr | evt | cx | zero
  deriving DecidableEq, Repr

/-- The classes of R150; a control port is read-write, read-only or write-only. -/
inductive SClass where
  | reg | cword | operand | trigger | latched | pop | peek | rw | ro | wo
  deriving DecidableEq, Repr

/-- A socket: its unit, class, width, whether a read extends its sign (R154), and the levels that may use it, as a mask. -/
structure Sock where
  u : EUnit
  cls : SClass
  width : Nat
  sgn : Bool
  levels : Nat
  deriving DecidableEq, Repr

def mkSock (u : EUnit) (cls : SClass) (width : Nat) : Option Sock := some { u := u, cls := cls, width := width, sgn := false, levels := 0xF }
def l3Sock (u : EUnit) (cls : SClass) (width : Nat) : Option Sock := some { u := u, cls := cls, width := width, sgn := false, levels := 0x8 }
def lowSock (u : EUnit) (cls : SClass) (width : Nat) : Option Sock := some { u := u, cls := cls, width := width, sgn := false, levels := 0x7 }
def sgnSock (u : EUnit) (cls : SClass) (width : Nat) : Option Sock := some { u := u, cls := cls, width := width, sgn := true, levels := 0xF }

/-- CTL, by its offset from 0x030 (R155, R207). -/
def ctlSock (o : Nat) : Option Sock :=
  if o = 0 then mkSock .ctl .rw 8
  else if o < 8 then mkSock .ctl .rw 1
  else match o with
    | 0x08 => mkSock .ctl .rw 16
    | 0x09 => mkSock .ctl .rw 32
    | 0x0A => mkSock .ctl .trigger 64
    | 0x0B => sgnSock .ctl .trigger 64
    | 0x0C => mkSock .ctl .trigger 16
    | 0x0D => mkSock .ctl .trigger 64
    | 0x0E => lowSock .ctl .trigger 16
    | 0x0F => lowSock .ctl .trigger 8
    | 0x10 => mkSock .ctl .ro 64
    | 0x11 => mkSock .ctl .ro 2
    | 0x12 => mkSock .ctl .ro 8
    | 0x13 => mkSock .ctl .ro 32
    | 0x14 | 0x15 => mkSock .ctl .ro 64
    | 0x16 => mkSock .ctl .ro 16
    | 0x18 | 0x19 | 0x1A => l3Sock .ctl .ro 64
    | 0x1B => l3Sock .ctl .wo 2
    | _ => none

/-- An ALU, by its offset (R217). -/
def aluSock (u : EUnit) (o : Nat) : Option Sock :=
  match o with
  | 0x00 => mkSock u .operand 64
  | 0x01 => mkSock u .operand 1
  | 0x02 => mkSock u .operand 8
  | 0x03 => mkSock u .latched 64
  | 0x04 => mkSock u .latched 4
  | _ => mkSock u .trigger 64

/-- A queued unit with a popping port, a peek port, REPLACE and QCOUNT from its offset 1 on: MUL and DIV (R222, R224). -/
def mulSock (u : EUnit) (ops o : Nat) : Option Sock :=
  match o with
  | 0 => mkSock u .operand 64
  | 1 => mkSock u .pop 64
  | 2 => mkSock u .peek 64
  | 3 => l3Sock u .wo 64
  | 4 => mkSock u .ro 3
  | _ => if o < 5 + ops then mkSock u .trigger 64 else none

/-- The FPU, by its offset from 0x0D0 (R227). -/
def fpuSock (o : Nat) : Option Sock :=
  match o with
  | 0 | 1 => mkSock .fpu .operand 64
  | 2 => mkSock .fpu .pop 64
  | 3 => mkSock .fpu .peek 64
  | 4 => l3Sock .fpu .wo 64
  | 5 => mkSock .fpu .ro 3
  | _ => if (0x10 ≤ o ∧ o ≤ 0x1C) ∨ (0x20 ≤ o ∧ o ≤ 0x2C) ∨ (0x30 ≤ o ∧ o ≤ 0x3B) then mkSock .fpu .trigger 64 else none

/-- An LSU, by its offset (R234). -/
def lsuSock (u : EUnit) (o : Nat) : Option Sock :=
  match o with
  | 0 | 1 => mkSock u .operand 64
  | 2 => mkSock u .pop 64
  | 3 => mkSock u .peek 64
  | 4 => l3Sock u .wo 64
  | 5 => mkSock u .ro 3
  | _ => if (0x08 ≤ o ∧ o ≤ 0x10) ∨ (0x18 ≤ o ∧ o ≤ 0x1C) ∨ (0x20 ≤ o ∧ o ≤ 0x25) ∨ (0x28 ≤ o ∧ o ≤ 0x2C) then mkSock u .trigger 64
         else none

/-- MAC, by its offset from 0x190 (R240). -/
def macSock (o : Nat) : Option Sock :=
  match o with
  | 0 | 1 | 2 => mkSock .mac .operand 64
  | 3 | 4 => mkSock .mac .rw 64
  | 0x0A => l3Sock .mac .wo 64
  | _ => if 5 ≤ o ∧ o ≤ 9 then mkSock .mac .trigger 64 else none

/-- DSTK, RSTK, SAVE, TMR, EVT and CX (R244, R247, R250, R252, R255, R260). -/
def dstkSock (o : Nat) : Option Sock :=
  match o with
  | 0 => mkSock .dstk .wo 64
  | 1 => mkSock .dstk .ro 64
  | 2 | 3 | 4 | 5 => mkSock .dstk .ro 64
  | 6 => mkSock .dstk .trigger 64
  | 7 => mkSock .dstk .rw 64
  | _ => none
def rstkSock (o : Nat) : Option Sock :=
  match o with
  | 0 => mkSock .rstk .trigger 64
  | 1 => sgnSock .rstk .trigger 64
  | 2 => mkSock .rstk .trigger 64
  | 3 => mkSock .rstk .ro 64
  | 4 => mkSock .rstk .ro 6
  | 5 => mkSock .rstk .ro 64
  | _ => none
def saveSock (o : Nat) : Option Sock :=
  match o with
  | 0 | 1 | 2 | 3 => lowSock .save .trigger 64
  | 4 => lowSock .save .latched 64
  | 5 => lowSock .save .latched 8
  | _ => none
def tmrSock (o : Nat) : Option Sock :=
  match o with
  | 0 | 1 => mkSock .tmr .rw 64
  | 2 | 3 => mkSock .tmr .trigger 64
  | 4 => mkSock .tmr .rw 4
  | 5 => mkSock .tmr .trigger 64
  | _ => none
def evtSock (o : Nat) : Option Sock :=
  match o with
  | 0 => mkSock .evt .operand 64
  | 1 => mkSock .evt .latched 8
  | 2 => mkSock .evt .latched 64
  | _ => if 8 ≤ o ∧ o ≤ 0x0D then mkSock .evt .trigger 64 else none
def cxSock (o : Nat) : Option Sock :=
  match o with
  | 0 => mkSock .cx .operand 64
  | 1 => mkSock .cx .pop 64
  | 2 => mkSock .cx .peek 64
  | 3 => l3Sock .cx .wo 64
  | 4 => mkSock .cx .ro 3
  | _ => if 8 ≤ o ∧ o ≤ 0x0C then mkSock .cx .trigger 64 else none

/-- The socket of a number (R151); none where it is reserved (R152). -/
def sockOf (n : Nat) : Option Sock :=
  if n < 0x20 then mkSock .reg .reg 64
  else if n < 0x30 then mkSock .cword .cword 64
  else if n < 0x50 then ctlSock (n - 0x30)
  else if n < 0x70 then aluSock .alu0 (n - 0x50)
  else if n < 0x90 then aluSock .alu1 (n - 0x70)
  else if n < 0xB0 then mulSock .mul 3 (n - 0x90)
  else if n < 0xD0 then mulSock .div 2 (n - 0xB0)
  else if n < 0x110 then fpuSock (n - 0xD0)
  else if n < 0x150 then lsuSock .lsu0 (n - 0x110)
  else if n < 0x190 then lsuSock .lsu1 (n - 0x150)
  else if n < 0x1B0 then macSock (n - 0x190)
  else if n < 0x1D0 then dstkSock (n - 0x1B0)
  else if n < 0x1F0 then rstkSock (n - 0x1D0)
  else if n < 0x200 then saveSock (n - 0x1F0)
  else if n < 0x210 then tmrSock (n - 0x200)
  else if n < 0x250 then evtSock (n - 0x210)
  else if n < 0x290 then cxSock (n - 0x250)
  else if n = 0x3FF then mkSock .zero .rw 64
  else none

/-- A class may be read, or written, by a move (R150). -/
def clsRead : SClass → Bool
  | .operand | .trigger | .wo => false
  | .reg | .cword | .latched | .pop | .peek | .rw | .ro => true
def clsWrite : SClass → Bool
  | .latched | .pop | .peek | .ro => false
  | .reg | .cword | .operand | .trigger | .rw | .wo => true

/-- The value that a socket of some width takes of a value (R154). -/
def cutTo (width : Nat) (w : Word) : Word := BitVec.ofNat 64 (w.toNat % 2 ^ width)

/-! ## Decode checks of one move (R150, R152, R156, R182) -/

/-- The sockets that a move names: its destination, then its source where that is a socket. -/
def moveSocks (v : Move) : List (Nat × Bool) :=
  (v.dest, true) :: (match v.src with | .sock n => [(n, false)] | .lit _ => [])

/-- ILLEGAL_SOCKET: the socket is reserved, or its class does not allow the access. -/
def sockIllegal (p : Nat × Bool) : Bool :=
  match sockOf p.1 with
  | none => true
  | some s => if p.2 then !clsWrite s.cls else !clsRead s.cls

/-- PRIVILEGED_SOCKET: the level may not use the socket; or a control word that the bank may not write (R293, R296). -/
def sockPrivileged (level : Nat) (p : Nat × Bool) : Bool :=
  match sockOf p.1 with
  | none => false
  | some s => !bit s.levels level ||
      (p.2 && s.cls == .cword && ([0, 4, 9, 10, 11, 12, 13, 14, 15].contains (p.1 - 0x20) || (p.1 == 0x28 && level == 3)))

/-- Two ports that show one word are one destination (R206, R293); ZERO is none (R153). -/
def destWord (n : Nat) : Option Nat :=
  if n = 0x3FF then none
  else if n = 0x039 then some 0x21
  else if n = 0x030 then some 0x22
  else if n = 0x1B7 then some 0x23
  else if n = 0x038 then some 0x25
  else some n

end Sys2Proof.Machine
end

