-- ==== Sys2Proof/Machine/BankOps.lean ====
section
/-! DEFINITION. Banks, setts, bench queues and the level-3 bank (R293 to R335): reading and writing a bank with its dirty bits, the
memory accesses that an engine makes for itself, setts and pools, queue entries, events for a task, wakes, exceptions (R185 to
R191) and entries into level 3 (R320, R781). -/

namespace Sys2Proof.Machine

/-! ## Access -/

def eng (m : Mach) (e : Nat) : Eng := tget m.engs e Eng.reset
def setEng (m : Mach) (e : Nat) (x : Eng) : Mach := { m with engs := tset m.engs e x }
def modEng (m : Mach) (e : Nat) (f : Eng → Eng) : Mach := setEng m e (f (eng m e))
def bank (m : Mach) (e l : Nat) : Bank := vget (eng m e).lv l Bank.reset
def setBank (m : Mach) (e l : Nat) (b : Bank) : Mach := modEng m e (fun x => { x with lv := vset x.lv l b })
def modBank (m : Mach) (e l : Nat) (f : Bank → Bank) : Mach := setBank m e l (f (bank m e l))
def bench (m : Mach) (b : Nat) : Bench := tget m.benches b Bench.reset
def modBench (m : Mach) (b : Nat) (f : Bench → Bench) : Mach := { m with benches := tset m.benches b (f (bench m b)) }

/-- An engine works: Active, with its bench not failed (R44, R190). -/
def engActive (m : Mach) (e : Nat) : Bool := ustate m 0x02 e == .active
def benchDraining (m : Mach) (b : Nat) : Bool := ustate m 0x01 b == .draining
def benchIn (m : Mach) (b : Nat) : Bool := ustate m 0x01 b == .active

/-! ## Registers and control words of a bank (R293, R311) -/

def cw (b : Bank) (i : Nat) : Nat := (vget b.c i 0).toNat
def gw (b : Bank) (i : Nat) : Word := vget b.g i 0
def tw (b : Bank) (i : Nat) : Nat := (vget b.t i 0).toNat
/-- A control word set without its dirty bit. -/
def Bank.rawC (b : Bank) (i : Nat) (v : Nat) : Bank := { b with c := vset b.c i (BitVec.ofNat 64 v) }
/-- A group is marked dirty. -/
def Bank.dirty (b : Bank) (k : Nat) : Bank := b.rawC 11 (cw b 11 ||| 2 ^ k)
/-- A general register, a control word, set with the dirty bit of its group; c10 and c11 set none. -/
def Bank.setG (b : Bank) (i : Nat) (v : Word) : Bank := Bank.dirty { b with g := vset b.g i v } (i / 8)
def Bank.setC (b : Bank) (i : Nat) (v : Nat) : Bank :=
  if i = 10 ∨ i = 11 then b.rawC i v else (b.rawC i v).dirty (4 + i / 8)
def Bank.setT (b : Bank) (i : Nat) (v : Nat) : Bank := { b with t := vset b.t i (BitVec.ofNat 64 v) }
/-- A field of word 4 of the transport record. -/
def Bank.setT4 (b : Bank) (hi lo v : Nat) : Bank := b.setT 4 (setBits (tw b 4) hi lo v)

/-- The program counter, lease, task, wait mask, wake-pending bit and END mark of a bank. -/
def bkPc (b : Bank) : Nat := bits (cw b 0) 47 4 * 16
def bkLease (b : Bank) (l : Nat) : Nat := if l = 3 then 0 else bits (cw b 8) 39 32
def bkTask (b : Bank) : Nat := bits (cw b 8) 31 0
def bkMask (b : Bank) : Nat := bits (cw b 8) 45 43
def bkWake (b : Bank) : Bool := bit (cw b 8) 42
def bkEnd (b : Bank) : Bool := bit (cw b 8) 63
/-- The guards, with bit 0 reading 1; the hidden count where it is valid (R177). -/
def bkGuards (b : Bank) : Nat := bits (cw b 2) 7 1 * 2 + 1
def bkCount (b : Bank) : Option Nat := if bit (cw b 5) 32 then some (bits (cw b 5) 31 16) else none
/-- `TMR.ST` (R252). -/
def bkTmr (b : Bank) : Nat := bits (tw b 4) 51 48

def queueOf (b : Bank) (q : Nat) : List QEnt := tget b.queues q []
def Bank.setQueue (b : Bank) (q : Nat) (l : List QEnt) : Bank := { b with queues := tset b.queues q l }

/-- A level is settled (R200). -/
def settled (m : Mach) (e l : Nat) : Bool :=
  let b := bank m e l
  !(eng m e).memops.any (fun o => o.lv == l) && b.queues.all (fun q => q.2.isEmpty) && b.macq.isEmpty && b.ring.isNone &&
    b.save.isNone && b.cx.isNone

/-- The level that issues (R319): the highest whose bank is Ready or Running. -/
def runLevel (m : Mach) (e : Nat) : Option Nat := [3, 2, 1, 0].find? (fun l => (bank m e l).st == .ready)

/-- Whether a lease's affinity mask includes a bench (R734). -/
def inMask (m : Mach) (l b : Nat) : Bool := (lease m l).affinity.getLsbD b
/-- A queue entry is eligible for an engine at its own level (R318, R734). -/
def entryEligible (m : Mach) (e : Nat) (q : QTask) : Bool := (lease m q.lease).st == .active && inMask m q.lease (benchOf e)
/-- An entry of a level in the engine's bench queue is eligible for it. -/
def eligibleHere (m : Mach) (e l : Nat) : Bool := (bench m (benchOf e)).queue.any (fun q => q.level == l && entryEligible m e q)

/-! ## Memory accesses of the engine itself (stacks, setts, micro-routines) -/

/-- The physical address of a lease address for an engine, through its buffer of 64 entries (R729). -/
def engAddr (m : Mach) (e l va : Nat) (n : Need) : Except Nat Nat × Mach :=
  let (r, t) := translate m (eng m e).tlb 64 l va
  let m := modEng m e (fun x => { x with tlb := t })
  match r with
  | .error d => (.error d, m)
  | .ok x => match rightsErr x n with
    | some d => (.error d, m)
    | none => (.ok (x.pa + va % 2 ^ x.bits), m)

/-- A memory operation of the engine overlaps a range of bytes (R236). -/
def memBusy (m : Mach) (e pa len : Nat) : Bool :=
  (eng m e).memops.any (fun o => decide (o.pa < pa + len) && decide (pa < o.pa + o.size))

/-- Bytes of one line written by an engine's bench; the reservation of the writing level stays (R237). Control space takes no such access (R9). -/
def engPut (m : Mach) (e l pa : Nat) (b : Bytes) (level : Option Nat) : Mach :=
  if isControl pa then refuseRaw m l pa b.length
  else benchWrite m (benchOf e) e l (pa / 256) (maskOf (pa % 256) b.length) (placeLine (pa % 256) b) level

/-- The part of a line that an engine reads through its bench. -/
def engLine (m : Mach) (e l pa len : Nat) : (Line × Bool) × Mach :=
  if isControl pa then ((BitVec.allOnes 2048, false), refuseRaw m l pa len) else benchRead m (benchOf e) e l (pa / 256)

/-- Bytes read in a lease's address space, line by line, with the need that governs the access. -/
def engRead (fuel : Nat) (m : Mach) (e l va len : Nat) (n : Need) : Except AccErr Bytes × Mach :=
  match fuel with
  | 0 => (.ok [], m)
  | f + 1 =>
    if len = 0 then (.ok [], m) else
    match engAddr m e l va n with
    | (.error d, m) => (.error (.xlate d), m)
    | (.ok pa, m) =>
      let k := min len (256 - pa % 256)
      let (v, m) := engLine m e l pa k
      if v.2 then (.error .poison, m) else
      match engRead f m e l (va + k) (len - k) n with
      | (.error x, m) => (.error x, m)
      | (.ok b, m) => (.ok (lineSlice v.1 (pa % 256) k ++ b), m)

/-- Bytes written in a lease's address space; the lines before one that fails are written. -/
def engWrite (fuel : Nat) (m : Mach) (e l va : Nat) (b : Bytes) (n : Need) (level : Option Nat) : Except Nat Unit × Mach :=
  match fuel with
  | 0 => (.ok (), m)
  | f + 1 =>
    if b.isEmpty then (.ok (), m) else
    match engAddr m e l va n with
    | (.error d, m) => (.error d, m)
    | (.ok pa, m) =>
      let k := min b.length (256 - pa % 256)
      engWrite f (engPut m e l pa (b.take k) level) e l (va + k) (b.drop k) n level

def rdEng (m : Mach) (e l va len : Nat) : Except AccErr Bytes × Mach := engRead (linesFor len) m e l va len .read

/-! ## Setts (R298 to R303) -/

/-- The 256 bytes of a sett with its check word (R298, R300). -/
def settBytes (m : Mach) (link task ls content level groups : Nat) (stamp : Word) (src flags : Nat) (payload : Bytes) : Bytes :=
  let h := le 8 link ++ le 4 task ++ le 1 ls ++ le 1 content ++ le 1 level ++ le 1 groups ++ le 8 stamp.toNat ++ le 2 src ++ le 1 1 ++
    le 1 flags ++ le 28 0
  let p := padTo 192 payload
  h ++ le 8 (Config.checkWord m.jobs.settKey (h ++ p)).toNat ++ p

/-- A sett written by an engine; an inaccessible page leaves memory as it is. -/
def writeSett (m : Mach) (e ls va : Nat) (n : Need) (link task content level groups flags : Nat) (payload : Bytes) : Mach :=
  let (t, m) := takeStamp m e
  (engWrite 2 m e ls va (settBytes m link task ls content level groups t e flags payload) n none).2

/-- The checks of R301 on a sett, in their order; `want` lists the contents expected. -/
def readSett (m : Mach) (e ls va : Nat) (want : List Nat) : Except Nat Bytes × Mach :=
  if va % 256 ≠ 0 then (.error 2, m) else
  match rdEng m e ls va 256 with
  | (.error (.xlate _), m) => (.error 2, m)
  | (.error .poison, m) => (.error 3, m)
  | (.ok b, m) =>
    if Config.checkWord m.jobs.settKey (bslice b 0 56 ++ bslice b 64 192) ≠ BitVec.ofNat 64 (fld b 56 8) then (.error 3, m)
    else if fld b 12 1 ≠ ls then (.error 2, m)
    else if !want.contains (fld b 13 1) then (.error 4, m)
    else (.ok b, m)

def settLink (b : Bytes) : Nat := fld b 0 8
/-- Word i of a sett's payload. -/
def settWord (b : Bytes) (i : Nat) : Word := BitVec.ofNat 64 (fld b (64 + 8 * i) 8)
def wordsBytes (l : List Word) : Bytes := l.flatMap (fun w => le 8 w.toNat)

/-! ## Pools and stocks (R304 to R309, R824) -/

def stockOf (x : Bench) (l : Nat) : List Nat := tget x.stock l []
def setStock (x : Bench) (l : Nat) (s : List Nat) : Bench :=
  { x with stock := x.stock.map (fun p => if p.1 = l then (l, s) else p) }

/-- The setts of a lease outside pool and stocks, and those that are withdrawn, counted in its ledger. -/
def settUse (m : Mach) (l : Nat) (take back lost : Nat) : Mach :=
  modLease m l (fun x => { x with
    settInUse := x.settInUse + take - back - lost, settReturned := (x.settReturned + lost) % 2 ^ 32 })

/-- The pool-empty event (R308), with its count in `LEASE_SETT_EMPTY`: reason 1 displacement, 2 spill, 3 SAVE.OUT. -/
def poolEmpty (m : Mach) (e l k reason : Nat) : Mach :=
  let m := modLease m l (fun x => { x with regs := tset x.regs 0x0410 (BitVec.ofNat 64 (sat 0xFFFFFFFF ((tget x.regs 0x0410 0).toNat + 1))) })
  raiseEventAt m 0x10 e 0 (routeVector m 0x10) (le 1 l ++ le 1 reason ++ le 2 k ++ le 2 e) e

/-- All k setts taken for an engine of the bench, the bench's stock before the pool, or none (R306, R307). A sett whose page is no
longer mapped as TYPE 1 is passed over (log entry 31). -/
def takeSetts (m : Mach) (e l k reason : Nat) : Option (List Nat) × Mach :=
  let b := benchOf e
  let s := stockOf (bench m b) l
  let p := (lease m l).pool
  let (good, m) := (s ++ p).foldl (fun (a : List Nat × Mach) va =>
    if k ≤ a.1.length then a else
    match engAddr a.2 e l va .settSave with
    | (.ok _, m) => (a.1 ++ [va], m)
    | (.error _, m) => (a.1, m)) ([], m)
  if good.length < k then (none, poolEmpty m e l k reason) else
  let m := modBench m b (fun x => setStock x l (s.filter (fun a => !good.contains a)))
  let m := modLease m l (fun x => { x with pool := x.pool.filter (fun a => !good.contains a) })
  (some good, settUse m l k 0 0)

/-- A sett is marked free and goes back to its pool (R303, R314); what its link then holds is open (log entry 32). -/
def returnSett (m : Mach) (e l va : Nat) : Mach :=
  let (r, m) := rdEng m e l va 256
  let (link, m) := takeFree m
  let m := match r with
    | .ok b => writeSett m e l va .settSave link.toNat 0 0xFF 0 0 0 (bslice b 64 192)
    | .error _ => m
  settUse (modLease m l (fun x => { x with pool := x.pool ++ [va] })) l 0 1 0

/-- The addresses of a chain of setts whose headers hold, from its first (R298); at most `fuel`. -/
def settChain (fuel : Nat) (m : Mach) (e l va : Nat) (want : List Nat) : List (Nat × Bytes) × Mach :=
  match fuel with
  | 0 => ([], m)
  | f + 1 =>
    if va = 0 then ([], m) else
    match readSett m e l va want with
    | (.error _, m) => ([], m)
    | (.ok b, m) =>
      let (r, m) := settChain f m e l (settLink b) want
      ((va, b) :: r, m)

/-- The lease is one of the eight that the bench has served last (R306); a stock that falls out returns to its pool. -/
def served (m : Mach) (b l : Nat) : Mach :=
  let x := bench m b
  let st := (l, stockOf x l) :: x.stock.filter (fun p => p.1 != l)
  let m := (st.drop 8).foldl (fun m p => modLease m p.1 (fun y => { y with pool := y.pool ++ p.2 })) m
  modBench m b (fun x => { x with stock := st.take 8 })

/-! ## Events for a task (R742, R776), vectors' tasks (R777 to R780) -/

/-- TASK_LOST to the lease with a copy to the manager (R191, R742). -/
def taskLost (m : Mach) (e l task area : Nat) : Mach :=
  let pay := le 4 task ++ le 2 e ++ le 2 0 ++ le 8 area
  raiseCopy (raiseEvent m 0x09 e l 2 pay) 0x09 e pay

/-- The hub whose event block is active. -/
def evtHub (m : Mach) : Nat := m.evt.activeBlock

/-- A vector's entry read at delivery (R777): none where `LEASE_EVT_TABLE` is not VALID or the entry cannot be read (R780). -/
def vectorEntry (m : Mach) (l v : Nat) : Option Bytes × Mach :=
  let t := (tget (lease m l).regs 0x0188 0).toNat
  if !bit t 0 then (none, m) else
  match rdLease m (evtHub m) (0x0D00 + evtHub m) l (bits t 47 17 * 131072 + 32 * v) 32 with
  | (.ok b, m) => (some b, m)
  | (.error _, m) => (none, m)

/-- The bench of a lease's affinity mask with the fewest queued entries of a level, the lowest number among equals (R780). -/
def fewestBench (m : Mach) (l level : Nat) : Option Nat :=
  let n (b : Nat) : Nat := ((bench m b).queue.filter (fun q => q.level == level)).length
  pickBest (fun a b => decide (n a < n b)) ((List.range 64).filter (fun b => inMask m l b))

/-- A fresh entry of a task (R321). -/
def freshTask (l level task : Nat) (pc dsBase dsLimit arg : Word) (vector : Option Nat) : QTask :=
  { fresh := true, lease := l, level := level, task := task, pc := pc, dsBase := dsBase, dsLimit := dsLimit, arg := arg, area := 0, kind := 0,
    wake := false, mask := 0, vector := vector, setts := 0, d0 := 0, d1 := 0, armed := 0 }

/-- An entry of its queue has come, or has become eligible, for an engine of a bench: a parked engine wakes (R333), and a Waiting bank whose
grace has passed and whose level is settled stands at a scheduling point where the entry is one of its level and the wait table has a
place (R317, R318). -/
def pointsFor (m : Mach) (b e : Nat) (x : Eng) : Eng :=
  let stands (l : Nat) : Bool :=
    let k := vget x.lv l Bank.reset
    k.st == .waiting && k.graceAt.isNone && k.point.isNone && !bkEnd k && settled m e l && eligibleHere m e l &&
      decide ((bench m b).waiting.length < 256)
  { x with parkedTill := none,
           lv := (List.range 3).foldl (fun v l => if stands l then vset v l { vget v l Bank.reset with point := some m.now } else v) x.lv }

def queueGrew (m : Mach) (b : Nat) : Mach :=
  { m with engs := m.engs.map (fun (p : Nat × Eng) => if benchOf p.1 = b then (p.1, pointsFor m b p.1 p.2) else p) }

/-- What a lease's state or affinity mask bars has changed: entries of every queue may have become eligible (R317). -/
def entriesChanged (m : Mach) : Mach := m.benches.foldl (fun m p => if p.2.queue.isEmpty then m else queueGrew m p.1) m

/-- Entries enter a bench queue at the tail of their levels (R323). -/
def enqueueAll (m : Mach) (b : Nat) (l : List QTask) : Mach :=
  if l.isEmpty then m else queueGrew (modBench m b (fun x => { x with queue := x.queue ++ l })) b

def enqueue (m : Mach) (b : Nat) (q : QTask) : Mach := enqueueAll m b [q]

/-- A fresh entry for a vector's task (R778): to the bench queue, or to the entries that wait for a place (R780). -/
def placeVector (m : Mach) (l v rec_ : Nat) (b : Bytes) : Mach :=
  let level := fld b 25 1
  let w8 (i : Nat) : Word := BitVec.ofNat 64 (fld b i 8)
  let bn := if fld b 26 1 = 0xFF then fewestBench m l level else some (fld b 26 1)
  match bn with
  | none => m
  | some bn =>
    let m := modLease m l (fun x => { x with vecTasks := tset x.vecTasks v { task := fld b 28 4, rerun := none } })
    if (bench m bn).queue.length < 512 then
      enqueue m bn (freshTask l level (fld b 28 4) (w8 0) (w8 8) (w8 16) (BitVec.ofNat 64 rec_) (some v))
    else
      let w : WaitEntry := { lease := l, level := level, bench := bn, pc := w8 0, dsBase := w8 8, dsLimit := w8 16, task := fld b 28 4,
                             arg := BitVec.ofNat 64 rec_, vector := v }
      modEvt m (fun x => { x with waiting := x.waiting ++ [w], queueWaits := sat 0xFFFF (x.queueWaits + 1) })

/-- BAD_VECTOR (R780): the entry is not VALID, a field is reserved, level 3 outside lease 0, or no bench can be chosen. -/
def badVector (m : Mach) (l : Nat) (b : Bytes) : Bool :=
  let bn := fld b 26 1
  !bit (fld b 27 1) 0 || decide (2 < fld b 24 1) || decide (3 < fld b 25 1) || (fld b 25 1 == 3 && l != 0) ||
    (decide (64 ≤ bn) && bn != 0xFF) || (bn == 0xFF && (fewestBench m l 0).isNone)

def countBadVector (m : Mach) : Mach := modEvt m (fun x => { x with badVector := sat 0xFFFF (x.badVector + 1) })

/-- A vector's task is no more (R779): a set re-run mark places a fresh entry at once. -/
def vectorDone (m : Mach) (l : Nat) (v : Option Nat) : Mach :=
  match v with
  | none => m
  | some v =>
    let t := tfind (lease m l).vecTasks v
    let m := modLease m l (fun x => { x with vecTasks := tdel x.vecTasks v })
    match t.bind (fun t => t.rerun) with
    | none => m
    | some rec_ =>
      match vectorEntry m l v with
      | (none, m) => countBadVector m
      | (some b, m) => if badVector m l b then countBadVector m else placeVector m l v rec_ b

/-! ## The level-3 bank (R320, R781) -/

/-- Level 3 starts at a handler (R320); an event's record number goes to g0. -/
def l3Start (m : Mach) (e pc : Nat) (ev : Option WaitEntry) : Mach :=
  let x := eng m e
  let b := bank m e 3
  let c := vset (vset (vset (vset (vset (vset b.c 0 (BitVec.ofNat 64 (bits pc 47 4 * 16))) 1 0x100) 2 0) 5 0) 11 0) 3 x.l3Limit
  let b := { b with st := .ready, c := c, rstk := [], dc := [], fault := none, dfill := 0,
                    g := match ev with | some w => vset b.g 0 w.arg | none => b.g }
  modEng (setBank m e 3 b) e (fun y => { y with l3Event := ev, ahead := [], parkedTill := none })

/-- An operation of a bank's bundle is at work that keeps the engine from a bundle boundary: a micro-routine of CX or SAVE (R168). -/
def routineOf (b : Bank) : Bool := b.cx.isSome || (match b.save with | some (c, _) => bit c 2 | none => false)
def inRoutine (m : Mach) (e : Nat) : Bool := (List.range 4).any (fun l => routineOf (bank m e l))

/-- A delivery that waits for the engine enters its level-3 bank once that is Empty, at a bundle boundary (R168, R320, R781). -/
def l3Next (m : Mach) (e : Nat) : Mach :=
  if (bank m e 3).st != .empty || !engActive m e || inRoutine m e then m else
  match m.evt.l3Waiting.find? (fun w => w.bench == e) with
  | none => m
  | some w => l3Start (modEvt m (fun x => { x with l3Waiting := x.l3Waiting.erase w })) e w.pc.toNat (some w)

/-- The level-3 bank is Empty again (R189, R213). -/
def l3End (m : Mach) (e : Nat) : Mach :=
  let m := modBank m e 3 (fun b => { b with st := .empty, rstk := [], dc := [] })
  l3Next (modEng m e (fun x => { x with l3Event := none })) e

/-- The engine that takes a level-3 delivery at a bench (R781): the lowest active slot there, else on its tile, else anywhere. -/
def l3Engine (m : Mach) (b : Nat) : Option Nat :=
  let slot (b : Nat) : Option Nat := (enginesOf b).find? (fun e => engActive m e)
  match slot b with
  | some e => some e
  | none =>
    match ((List.range 16).map (fun i => 16 * (b / 16) + i)).findSome? slot with
    | some e => some e
    | none => (List.range 64).findSome? slot

/-! ## Exceptions (R181 to R191) -/

/-- An exception: cause, slot (7 for a fetch), socket (0x3FF for none), detail, address. -/
structure Exc where
  cause : Nat
  slot : Nat
  sock : Nat
  det : Nat
  addr : Nat
  deriving DecidableEq, Repr

/-- EXC_CAUSE (R186). -/
def excWord (l ls : Nat) (x : Exc) (rep : Bool) (rem : Nat) : Word :=
  pack [(0, 8, x.cause), (8, 3, x.slot), (12, 2, l), (14, 1, b2n rep), (16, 16, rem), (32, 10, x.sock), (48, 8, x.det), (56, 8, ls)]

/-- What REMAINING shows of a bundle with REPEAT (R186). -/
def remaining (b : Bank) (rep : Bool) : Nat :=
  if !rep then 0 else match bkCount b with | some n => n | none => bits (cw b 5) 15 0

/-- A task is lost with its bank or entry: its setts are withdrawn (R824), its vector's task is no more. -/
def taskGone (m : Mach) (l : Nat) (v : Option Nat) (setts : Nat) : Mach := vectorDone (settUse m l 0 0 setts) l v

/-- The save area of a bank's task (R352): the one that a displacement under way writes, else the one that c10 records. -/
def areaOf (b : Bank) : Nat := match b.saved with | some q => q.area | none => cw b 10

/-- A double fault (R190, R191): the engine is Failed, each task in its banks is lost. -/
def doubleFault (m : Mach) (e l : Nat) (x : Exc) (rep : Bool) : Mach :=
  let b := bank m e l
  let w := excWord l (bkLease b l) x rep (remaining b rep)
  let m := raiseErr m 0x0013 e (le 8 w.toNat ++ le 8 (bkPc b))
  let m := setUState m 0x02 e .failed
  let m := (List.range 3).foldl (fun m k =>
    let b := bank m e k
    if b.st = .empty then m else
    let m := taskLost m e (bkLease b k) (bkTask b) (areaOf b)
    let m := taskGone m (bkLease b k) b.vector b.setts
    setBank m e k { b with st := .empty, vector := none, setts := 0 }) m
  modEng (modBank m e 3 (fun b => { b with st := .empty })) e (fun y => { y with doubleFault := true, excLevel := none, l3Event := none })

/-- The exception registers of an engine (R185 step 2). -/
def excRegs (m : Mach) (e l : Nat) (x : Exc) (rep : Bool) : Mach :=
  let b := bank m e l
  let w := excWord l (bkLease b l) x rep (remaining b rep)
  let pc := BitVec.ofNat 64 (bkPc b)
  modEng m e (fun y => { y with
    last := w, lastPc := pc, excCount := sat 0xFFFFFFFF (y.excCount + 1), cause := w, excPc := pc, excAddr := BitVec.ofNat 64 x.addr })

/-- An exception is delivered (R185): the bank is exception-pending, the registers are written, level 3 starts at the vector. -/
def deliver (m : Mach) (e l : Nat) (x : Exc) (rep : Bool) : Mach :=
  let y := eng m e
  if l = 3 then doubleFault m e l x rep else
  if !y.vec.getLsbD 0 then doubleFault (excRegs m e l x rep) e l x rep else
  let b := bank m e l
  -- the micro-routine and the point at which the bank stood are over; FP_TRAP clears the mark of its entry (R176)
  let m := setBank (excRegs m e l x rep) e l { b with st := .exception, point := none, dfill := 0, spill := false, fill := false, fault := none }
  let m := modEng m e (fun y => { y with excLevel := some l, xfails := y.xfails.filter (fun f => f.1 != l) })
  l3Start m e (bits y.vec.toNat 47 4 * 16) none

/-! ## The end of a task (R296, R318) -/

/-- The spill chain of a task returns to the pool; the setts are counted by the entries that c9 holds (R318). -/
def returnChain (m : Mach) (e l : Nat) (chain : List (Nat × Bytes)) : Mach := chain.foldl (fun m p => returnSett m e l p.1) m

/-- A bank is released (R296, R188): its home chain (R314) and its return-stack spill chain go back to the pool. -/
def releaseTask (m : Mach) (e l : Nat) : Mach :=
  let b := bank m e l
  let ls := bkLease b l
  let (home, m) := if (lease m ls).dirtyMode then settChain 3 m e ls (cw b 10) [0, 1, 2] else ([], m)
  let (spill, m) := settChain (cw b 9) m e ls (cw b 4) [3]
  let m := returnChain (returnChain m e ls home) e ls spill
  let m := { m with resv := tdel m.resv (4 * e + l) }
  let m := setBank m e l Bank.reset
  vectorDone m ls b.vector

/-- A bank is emptied without a save (R748): its loads are discarded, its setts stay out of the pool. -/
def emptyBank (m : Mach) (e l : Nat) : Mach :=
  let m := { m with resv := tdel m.resv (4 * e + l), answers := tdel m.answers (4 * e + l) }
  let m := setBank m e l Bank.reset
  modEng m e (fun x => { x with arrays := x.arrays.filter (fun a => a.2.1 != l), walks := x.walks.filter (fun w => w.1 != l), excLevel := if x.excLevel = some l then none else x.excLevel,
                                xfails := x.xfails.filter (fun f => f.1 != l),
                                memops := x.memops.map (fun o => if o.lv = l then { o with entry := 0 } else o) })

/-- The bank holds a task of a lease under a reset or removal (R748). -/
def mustEmpty (m : Mach) (e l : Nat) : Bool :=
  let b := bank m e l
  decide (l < 3) && b.st != .empty && (match (lease m (bkLease b l)).st with | .resetting | .removing => true | _ => false)

/-! ## Waits and wakes (R214, R318, R326) -/

/-- A condition that a wait mask selects holds. -/
def waitHolds (mask tmr : Nat) (wake : Bool) : Bool :=
  (bit mask 0 && bit tmr 1) || (bit mask 1 && bit tmr 3) || (bit mask 2 && wake)

/-- A Waiting bank's wait ends (R318): the mask is cleared, a WAKE that it selected is consumed. -/
def endWait (b : Bank) : Bank :=
  let wake := if bit (bkMask b) 2 then 0 else b2n (bkWake b)
  { (b.setC 8 (setBits (setBits (cw b 8) 45 43 0) 42 42 wake)) with st := .ready, graceAt := none, point := none }

/-- A Waiting bank whose condition holds becomes Ready. -/
def checkWait (m : Mach) (e l : Nat) : Mach :=
  let b := bank m e l
  if b.st = .waiting ∧ waitHolds (bkMask b) (bkTmr b) (bkWake b) then
    modEng (setBank m e l (endWait b)) e (fun x => { x with parkedTill := none })
  else m

/-- The wait of a task outside the banks is over: one of its conditions holds, its deadlines judged against a time. -/
def taskReady (q : QTask) (now : Nat) : Bool :=
  let tmr := q.armed
  (bit q.mask 0 && (bit tmr 1 || (bit tmr 0 && decide (q.d0.toNat ≤ now)))) ||
  (bit q.mask 1 && (bit tmr 3 || (bit tmr 2 && decide (q.d1.toNat ≤ now)))) || (bit q.mask 2 && q.wake)

/-- Wait-table entries that may go to the queue do so in their order, while it has places (R325, R866); all of them where the
bench is Draining, and those whose lease excludes the bench (R334, R738). -/
def drainWaits (m : Mach) (b now : Nat) : Mach :=
  let x := bench m b
  let out (q : QTask) : Bool := taskReady q now || benchDraining m b || !inMask m q.lease b
  let go := (x.waiting.filter out).take (512 - x.queue.length)
  enqueueAll (modBench m b (fun x => { x with waiting := x.waiting.diff go })) b go

/-- A WAKE reaches a task in the wait table, in a queue, in a bank, or in one being saved (R326). -/
def wakeTask (m : Mach) (l task : Nat) : Bool × Mach :=
  let hit (q : QTask) : Bool := q.lease == l && q.task == task
  let mark (q : QTask) : QTask := if hit q then { q with wake := true } else q
  let inBank (b : Bank) (k : Nat) : Bool := b.st != .empty && bkLease b k == l && bkTask b == task
  let inBenches := m.benches.any (fun p => p.2.queue.any hit || p.2.waiting.any hit)
  let inEngs := m.engs.any (fun p => (List.range 3).any (fun k => inBank (vget p.2.lv k Bank.reset) k))
  let m := { m with benches := m.benches.map (fun (p : Nat × Bench) => (p.1, { p.2 with queue := p.2.queue.map mark, waiting := p.2.waiting.map mark })) }
  let m := m.engs.foldl (fun (m : Mach) (p : Nat × Eng) => (List.range 3).foldl (fun (m : Mach) (k : Nat) =>
    let b := bank m p.1 k
    if !inBank b k then m
    else if b.st = .saving then setBank m p.1 k { b with saved := b.saved.map (fun q => { q with wake := true }) }
    else checkWait (setBank m p.1 k (b.setC 8 (setBits (cw b 8) 42 42 1))) p.1 k) m) m
  let m := m.benches.foldl (fun (m : Mach) (p : Nat × Bench) => if p.2.waiting.any hit then drainWaits m p.1 (timeNow m).toNat else m) m
  (inBenches || inEngs, m)

end Sys2Proof.Machine
end

