-- ==== Sys2Proof/Machine/CacheOps.lean ====
section
/-! DEFINITION. Cache maintenance by range and by set and way (R412 to R420, R436 to R440), disabling (R421 to R423), the dirty-age
limit (R428) and the array errors (R424 to R426). -/

namespace Sys2Proof.Machine

/-! ## Starting an operation (R419, R439) -/

/-- A write of an operation: while BUSY it changes nothing and sets OVERRUN; with a reserved encoding it sets BAD; else the operation
begins and clears every field but OVERRUN and BAD. -/
def maintStart (x : MaintSt) (bad : Bool) (op : Nat) (incl : Bool) (first count : Nat) : MaintSt :=
  if x.busy then { x with overrun := true }
  else if bad then { x with bad := true }
  else { busy := true, overrun := x.overrun, bad := x.bad, written := 0, skipped := 0, op := op, incl := incl, first := first, count := count }

/-- A write of `CRANGE_CMD` (R416, R438): OP 0 clean, 1 invalidate, 2 clean-and-invalidate, 3 zero. -/
def crangeStart (m : Mach) (op : Nat) (incl : Bool) : Mach :=
  { m with crange := maintStart m.crange false op incl m.crangeBase m.crangeLen }

/-- The range operation acts on lines from the first on (R416, R417), at most `count`: those above main memory are recorded by their homes
(R493). The second part is the number of locked lines skipped, the third that of the lines left, where one cannot be done now. -/
def crangeLines (count : Nat) (m : Mach) (n op : Nat) (incl : Bool) (k : Nat) : Mach × Nat × Nat :=
  match count with
  | 0 => (m, k, 0)
  | c + 1 =>
    let n := n % 2 ^ 44
    if memLines m ≤ n then crangeLines c (memRange m (homeOf m n) n 0x0F00) (n + 1) op incl k else
    match maintLine m n op incl with
    | none => (m, k, c + 1)
    | some (m, b) => crangeLines c m (n + 1) op incl (k + b2n b)

/-- The operation is over when every line is done; one that waits for the end of a takeover goes on then. -/
def crangeRun (m : Mach) : Mach :=
  let x := m.crange
  if !x.busy then m else
  let (m, k, left) := crangeLines x.count m x.first x.op x.incl 0
  { m with crange := { x with busy := decide (0 < left), first := x.first + (x.count - left), count := left, skipped := sat 0xFFFFFFFF (x.skipped + k) } }

/-! ## Set and way (R418, R440, R463) -/

/-- The encodings of `L2_SETWAY` that are reserved. -/
def l2SetwayBad (v : SetWay) : Bool :=
  decide (v.cache.toNat = 3) || (!v.all && (match v.cache.toNat with
    | 0 => decide (1023 < v.set.toNat)
    | 1 => decide (15 < v.set.toNat)
    | _ => decide (31 < v.set.toNat))) || (v.cache != 0 && decide (16 < v.slot.toNat))

/-- The lines of an L2 that an operation names. -/
def l2Targets (x : L2St) (v : SetWay) : List (Nat × L2Line) :=
  x.lines.filter (fun (p : Nat × L2Line) => match p.2.way with
    | none => false
    | some w => v.all || (l2SetOf p.1 == v.set.toNat && w == v.way.toNat))

/-- The operation on one line of an L2 (R417, R418, R463): a line that is or may become owned sends the matching request with SELF; of a
line in S an invalidation is silent and a clean does nothing. The second part counts a locked line skipped. -/
def l2SetwayLine (m : Mach) (b op : Nat) (incl : Bool) (n : Nat) (x : L2Line) : Mach × Nat :=
  let locked := wayLocked (l2 m b) x.way && !incl
  if op = 1 ∧ locked then (m, 1) else
  match x.st with
  | .s => (if op = 0 ∨ locked then m else delLine (dropL1 m b n) b n, 0)
  | _ => (benchReq m b (if op = 0 then .mntC else if op = 1 then .mntI else .mntCI) n x.lease true incl 0 false, 0)

/-- The lines of an L1 that an operation names. -/
def l1Target (sets : Nat) (v : SetWay) (x : L1Way) : Bool := v.all || (x.line % sets == v.set.toNat && x.way == v.way.toNat)

/-- A write of `L2_SETWAY` that begins an operation. -/
def l2SetwayStart (m : Mach) (b op : Nat) (v : SetWay) : Mach :=
  let x := (l2 m b).op
  let y := maintStart x (l2SetwayBad v) op v.inclLocked 0 0
  let m := modL2 m b (fun z => { z with op := y })
  if x.busy || l2SetwayBad v then m else
  let e := engineOf b v.slot.toNat
  match v.cache.toNat with
  | 0 =>
    let lines := l2Targets (l2 m b) v
    let (m, k) := lines.foldl (fun (p : Mach × Nat) q => let r := l2SetwayLine p.1 b op v.inclLocked q.1 q.2; (r.1, p.2 + r.2)) (m, 0)
    let w := if op = 1 then 0 else (lines.filter (fun (q : Nat × L2Line) => dirtySt q.2.st)).length
    modL2 m b (fun z => { z with op := { z.op with skipped := k, written := sat 0xFFFF w } })
  | 1 =>
    if op = 0 then m else
    { m with l1d := tset m.l1d e ((tget m.l1d e []).filter (fun x => !l1Target 16 v x)) }
  | _ =>
    if op = 0 then m else
    { m with l1i := tset m.l1i e ((tget m.l1i e []).filter (fun x => !l1Target 32 v x.1)) }

/-- A request of a bench about its own line that the home has not answered yet, and its MntAck on the way. -/
def selfWaits (m : Mach) (b : Nat) (n : Option Nat) : Bool :=
  let mine (r : HReq) : Bool := r.self && r.src == 0x0500 + b && (n.isNone || n == some r.n)
  m.mesh.any (fun x => match x with
    | .req _ r => mine r
    | .ack d k k' => d == 0x0500 + b && k == 3 && (n.isNone || n == some k')
    | _ => false) ||
  m.homes.any (fun (p : Nat × Home) => p.2.txns.any (fun (q : Nat × HTxn) => mine q.2.req) || p.2.queues.any (fun (q : Nat × List HReq) => q.2.any mine) ||
    p.2.heldReqs.any mine)

/-- The operation of an L2 is over when the home has answered each of its requests. -/
def l2SetwayDone (m : Mach) (b : Nat) : Mach :=
  if selfWaits m b none then m else modL2 m b (fun z => { z with op := { z.op with busy := false } })

/-- A write of `L3_SETWAY` that begins an operation; CACHE and SLOT must be 0. The slice's own ways are meant, not the mirrors of
another home in its pair ways. -/
def l3SetwayStart (m : Mach) (h op : Nat) (v : SetWay) : Mach :=
  let x := (home m h).op
  let bad := v.cache != 0 || v.slot != 0
  let m := modHome m h (fun z => { z with op := maintStart x bad op v.inclLocked 0 0 })
  if x.busy || bad then m else
  let lines := (home m h).l3.filter (fun (p : Nat × L3Line) => v.all || (l3Set p.1 == v.set.toNat && p.2.way == v.way.toNat))
  let w := if op = 1 then 0 else (lines.filter (fun (p : Nat × L3Line) => p.2.dirty)).length
  let m := if op = 1 then m else lines.foldl (fun m p => cleanL3 m h p.1) m
  let m := if op = 0 then m else lines.foldl (fun m p => dropL3 m h p.1) m
  modHome m h (fun z => { z with op := { z.op with written := sat 0xFFFF w } })

/-- A write of a set-and-way register with its operation. -/
def setwayStart (m : Mach) (u : MaintUnit) (op : Nat) (v : SetWay) : Mach :=
  match u with
  | .crange => m
  | .l2 b => l2SetwayStart m b.val op v
  | .l3 h => l3SetwayStart m h.val op v

/-- MAINTENANCE_COMPLETE: BUSY clears. -/
def maintDone (m : Mach) (u : MaintUnit) : Mach :=
  match u with
  | .crange => crangeRun m
  | .l2 b => if (l2 m b.val).op.busy then l2SetwayDone m b.val else m
  | .l3 h => modHome m h.val (fun z => { z with op := { z.op with busy := false } })

/-! ## Disabling (R421 to R423) -/

def l2HasDirty (x : L2St) : Bool := x.lines.any (fun (p : Nat × L2Line) => dirtySt p.2.st)

/-- The dirty lines of an L2 that empties itself are written back, each by a clean of its own; around Hold this is suspended, and DISABLING_COMPLETE
takes it up again (R422). -/
def l2CleanAll (m : Mach) (b : Nat) : Mach :=
  if holding m then m else
  (l2 m b).lines.foldl (fun m p =>
    if (p.2.st = .m ∨ p.2.st = .o) ∧ !selfWaits m b (some p.1) then benchReq m b .mntC p.1 p.2.lease true true 0 false else m) m

/-- DISABLE written 1 to an L2. -/
def l2Disable (m : Mach) (b : Nat) : Mach :=
  let m := modL2 m b (fun x => { x with disableReq := true })
  if (l2 m b).ctl ≠ .enabled then m
  else if l2HasDirty (l2 m b) then l2CleanAll (modL2 m b (fun x => { x with ctl := .disabling })) b
  else modL2 (l2Invalidate m b) b (fun x => { x with ctl := .disabled, side := [] })

/-- DISABLE written 0 to an L2. -/
def l2Enable (m : Mach) (b : Nat) : Mach := modL2 m b (fun x => { x with disableReq := false, ctl := .enabled })

/-- The last dirty line of a Disabling L2 is written back: every line is invalidated. -/
def l2Emptied (m : Mach) (b : Nat) : Mach :=
  if (l2 m b).ctl ≠ .disabling then m
  else if l2HasDirty (l2 m b) then l2CleanAll m b
  else modL2 (l2Invalidate m b) b (fun x => { x with ctl := .disabled, side := [] })

def l3Invalidate (m : Mach) (h : Nat) : Mach := (home m h).l3.foldl (fun m p => dropL3 m h p.1) m

/-- DISABLE written 1 and 0 to an L3 slice, and the end of Disabling; its pair ways stay in use (R403). -/
def l3Disable (m : Mach) (h : Nat) : Mach :=
  let m := modHome m h (fun x => { x with disableReq := true })
  if (home m h).ctl ≠ .enabled then m
  else if (home m h).l3.any (fun (p : Nat × L3Line) => p.2.dirty) then modHome m h (fun x => { x with ctl := .disabling })
  else modHome (l3Invalidate m h) h (fun x => { x with ctl := .disabled })
def l3Enable (m : Mach) (h : Nat) : Mach := modHome m h (fun x => { x with disableReq := false, ctl := .enabled })
def l3Emptied (m : Mach) (h : Nat) : Mach :=
  if (home m h).ctl ≠ .disabling then m else
  let m := (home m h).l3.foldl (fun m p => cleanL3 m h p.1) m
  modHome (l3Invalidate m h) h (fun x => { x with ctl := .disabled })

/-- The L1 caches have no Disabling: a write of 1 invalidates and disables at once (R423). -/
def l1Ctl (m : Mach) (e : Nat) (dOff iOff : Bool) : Mach :=
  let m := modEng m e (fun x => { x with l1dOff := dOff, l1iOff := iOff })
  let m := if dOff then { m with l1d := tset m.l1d e [] } else m
  if iOff then { m with l1i := tset m.l1i e [] } else m

def cacheOff (m : Mach) (c : CacheId) : Mach :=
  match c with
  | .l1i e => l1Ctl m e.val (eng m e.val).l1dOff true
  | .l1d e => l1Ctl m e.val true (eng m e.val).l1iOff
  | .l2 b => l2Disable m b.val
  | .l3 h => l3Disable m h.val
def cacheOn (m : Mach) (c : CacheId) : Mach :=
  match c with
  | .l1i e => l1Ctl m e.val (eng m e.val).l1dOff false
  | .l1d e => l1Ctl m e.val false (eng m e.val).l1iOff
  | .l2 b => l2Enable m b.val
  | .l3 h => l3Enable m h.val

/-- The register that disables a cache: kind, index, offset (R436). -/
def cacheReg : CacheId → Nat × Nat × Nat
  | .l1i e => (0x02, e.val, 0x0500)
  | .l1d e => (0x02, e.val, 0x0500)
  | .l2 b => (0x01, b.val, 0x0300)
  | .l3 h => (0x03, h.val, 0x0300)

/-- The LOCK bits of an L2 written: a way that no lease is assigned to stays unlocked (R408, R411). -/
def setLock (m : Mach) (b : Nat) (mask : Byte) : Mach := modL2 m b (fun x => { x with lock := mask &&& x.lockable })

/-! ## The dirty-age limit (R428) -/

/-- The background clean of a line, from three quarters of the limit on. -/
def dirtyAge (m : Mach) (b n : Nat) : Mach :=
  match lineAt m b n with
  | none => m
  | some x =>
    match x.dirtyAt with
    | none => m
    | some t =>
      if (x.st = .m ∨ x.st = .o) ∧ t + 750 * (l2 m b).age ≤ m.now ∧ !selfWaits m b (some n) then benchReq m b .mntC n x.lease true true 0 false else m

/-! ## Array errors (R424 to R426) -/

/-- The record of an array error. -/
def arrayRec (m : Mach) (cause src array part set way n : Nat) : Mach :=
  raiseErrD m cause src src (le 1 array ++ le 1 part ++ le 2 set ++ le 1 way) none (some (256 * n)) 0

def countL1 (m : Mach) (e i : Nat) : Mach := modEng m e (fun x => { x with l1Errs := lset x.l1Errs i (sat 0xFFFF (x.l1Errs.getD i 0 + 1)) })

def scrubL1 (m : Mach) (e n : Nat) (data : Bool) (err : ArrayErr) : Mach :=
  let inD := (tget m.l1d e []).any (fun x => x.line == n) || (tget m.eside e []).contains n
  let drop (m : Mach) : Mach :=
    { m with l1d := tset m.l1d e ((tget m.l1d e []).filter (fun x => x.line != n)), eside := tset m.eside e ((tget m.eside e []).filter (fun k => k != n)) }
  match data, err with
  | _, .none => m
  | true, .single => if inD then countL1 m e 0 else m
  | true, .multi | true, .both => if inD then countL1 (drop m) e 0 else m
  | true, _ => if inD then countL1 (drop m) e 1 else m
  | false, _ =>
    if (tget m.l1i e []).any (fun x => x.1.line == n) then
      countL1 { m with l1i := tset m.l1i e ((tget m.l1i e []).filter (fun x => x.1.line != n)) } e 2 else m

/-- A clean line of an L2 with a multi-bit error is invalidated and read again from the next level: one in S is gone at the bench, one in E is
read at once, since the home records its owner; one that waits for an acknowledgement keeps the data that it is read with. -/
def l2Reread (m : Mach) (b n : Nat) (x : L2Line) : Mach :=
  let m := dropL1 m b n
  match x.st with
  | .s => delLine m b n
  | .e => let v := homeRead m (homeOf m n) n; setLine m b n { x with data := v.1, poison := v.2 }
  | _ => m

/-- An error in a bench's side buffer: corrected, or the line goes and is read again when it is wanted; counted, with no record (R424). -/
def scrubSide (m : Mach) (b n : Nat) (err : ArrayErr) : Mach :=
  let m := if err = .none then m else modL2 m b (fun y => { y with errData := sat 0xFFFF (y.errData + 1) })
  if err = .none ∨ err = .single then m else replaceLine m b n

def scrubL2 (m : Mach) (b n : Nat) (err : ArrayErr) : Mach :=
  match lineAt m b n with
  | none => m
  | some x =>
    if (l2 m b).side.contains n then scrubSide m b n err else
    let src := 0x0500 + b
    let rec_ (m : Mach) (cause part : Nat) : Mach := arrayRec m cause src 1 part (l2SetOf n) (x.way.getD 0) n
    let unc (m : Mach) : Mach := modL2 m b (fun y => { y with errUnc := sat 0xFFFF (y.errUnc + 1) })
    match err with
    | .none => m
    | .single => rec_ (modL2 m b (fun y => { y with errData := sat 0xFFFF (y.errData + 1) })) 0x0020 1
    | .multi | .both =>
      if dirtySt x.st then
        let l := (dirOf m (homeOf m n) n).lease
        machineCheck (rec_ (unc (setLine m b n { x with poison := true })) 0x0022 1) src l [n]
      else rec_ (unc (l2Reread m b n x)) 0x0021 1
    | .tagOne => rec_ (modL2 m b (fun y => { y with errTag := sat 0xFFFF (y.errTag + 1) })) 0x0020 2
    | .tagBoth => noteFault (rec_ m 0x0023 2) (.bench b true)

/-- An L3 line of a home's own: a dirty one is restored from the buddy's pair ways, or poisoned where that copy is bad too. -/
def scrubOwn (m : Mach) (h n : Nat) (x : L3Line) (err : ArrayErr) : Mach :=
  let src := 0x0600 + h
  let rec_ (m : Mach) (cause part : Nat) : Mach := arrayRec m cause src 2 part (l3Set n) x.way n
  let unc (m : Mach) : Mach := modHome m h (fun y => { y with errUnc := sat 0xFFFF (y.errUnc + 1) })
  let put (m : Mach) (y : L3Line) : Mach := modHome m h (fun z => { z with l3 := tset z.l3 n y })
  match err with
  | .none => m
  | .single => rec_ (modHome m h (fun y => { y with errData := sat 0xFFFF (y.errData + 1) })) 0x0020 1
  | .multi | .both =>
    if !x.dirty then rec_ (unc (dropL3 m h n)) 0x0021 1
    else match (if err = .both then none else tfind (home m (buddyOf m h)).pair n) with
      | some y => rec_ (unc (put m { x with data := y.data, poison := y.poison })) 0x0021 1
      | none => machineCheck (rec_ (unc (put m { x with poison := true })) 0x0022 1) src (dirOf m h n).lease [n]
  | .tagOne => rec_ (modHome m h (fun y => { y with errTag := sat 0xFFFF (y.errTag + 1) })) 0x0020 2
  | .tagBoth => noteFault (rec_ m 0x0023 2) (.home h)

/-- A mirror in the pair ways is rebuilt from its owner's copy. -/
def scrubPair (m : Mach) (h n : Nat) (y : Mirror) (err : ArrayErr) : Mach :=
  let rec_ (m : Mach) (cause part : Nat) : Mach := arrayRec m cause (0x0600 + h) 3 part (l3Set n) 11 n
  match err with
  | .none => m
  | .single => rec_ (modHome m h (fun y => { y with errData := sat 0xFFFF (y.errData + 1) })) 0x0020 1
  | .multi | .both =>
    let m := match tfind (home m y.owner).l3 n with
      | some z => modHome m h (fun q => { q with pair := tset q.pair n { y with data := z.data, poison := z.poison } })
      | none => m
    rec_ (modHome m h (fun y => { y with errUnc := sat 0xFFFF (y.errUnc + 1) })) 0x0021 1
  | .tagOne => rec_ (modHome m h (fun y => { y with errTag := sat 0xFFFF (y.errTag + 1) })) 0x0020 2
  | .tagBoth => noteFault (rec_ m 0x0023 2) (.home h)

def scrubL3 (m : Mach) (h n : Nat) (err : ArrayErr) : Mach :=
  match tfind (home m h).l3 n, tfind (home m h).pair n with
  | some x, _ => scrubOwn m h n x err
  | none, some y => scrubPair m h n y err
  | none, none => m

/-- CACHE_SCRUB: a line read in the background shows an error of its array. -/
def scrubLine (m : Mach) (c : CacheId) (n : Nat) (err : ArrayErr) : Mach :=
  match c with
  | .l1i e => scrubL1 m e.val n false err
  | .l1d e => scrubL1 m e.val n true err
  | .l2 b => scrubL2 m b.val n err
  | .l3 h => scrubL3 m h.val n err

end Sys2Proof.Machine
end

