-- ==== Sys2Proof/Machine/CacheCmds.lean ====
section
/-! DEFINITION. The commands of the caches (R400 to R444): maintenance by range and by set and way, disabling, locked ways, the
dirty-age limit and the scrub. -/

namespace Sys2Proof.Machine

/-- CRANGE_CLEAN: `CRANGE_CMD` with OP 0 (R416, R438). -/
def execCrangeClean (a : Actor) (inclLocked : Bool) (s : State) : Host.Outcome State Fault Refusal :=
  runM s (ctlWrite a 0x00 0 0x0410 (fun m => crangeStart m 0 inclLocked))
/-- CRANGE_INVALIDATE: OP 1 (R416, R417). -/
def execCrangeInvalidate (a : Actor) (inclLocked : Bool) (s : State) : Host.Outcome State Fault Refusal :=
  runM s (ctlWrite a 0x00 0 0x0410 (fun m => crangeStart m 1 inclLocked))
/-- CRANGE_CLEAN_INVALIDATE: OP 2 (R416, R417). -/
def execCrangeCleanInvalidate (a : Actor) (inclLocked : Bool) (s : State) : Host.Outcome State Fault Refusal :=
  runM s (ctlWrite a 0x00 0 0x0410 (fun m => crangeStart m 2 inclLocked))
/-- CRANGE_ZERO: OP 3 (R416). -/
def execCrangeZero (a : Actor) (inclLocked : Bool) (s : State) : Host.Outcome State Fault Refusal :=
  runM s (ctlWrite a 0x00 0 0x0410 (fun m => crangeStart m 3 inclLocked))

/-- The register of a set-and-way operation: kind, index, offset (R436). -/
def setwayReg : MaintUnit → Nat × Nat × Nat
  | .crange => (0x00, 0, 0x0410)
  | .l2 b => (0x01, b.val, 0x0308)
  | .l3 h => (0x03, h.val, 0x0308)

def setwayWrite (a : Actor) (u : MaintUnit) (op : Nat) (v : SetWay) : Mach → Mach :=
  ctlWrite a (setwayReg u).1 (setwayReg u).2.1 (setwayReg u).2.2 (fun m => setwayStart m u op v)

/-- SETWAY_CLEAN: OP 0 of `L2_SETWAY` or `L3_SETWAY` (R418, R440). -/
def execSetwayClean (a : Actor) (u : MaintUnit) (v : SetWay) (s : State) : Host.Outcome State Fault Refusal := runM s (setwayWrite a u 0 v)
/-- SETWAY_INVALIDATE: OP 1 (R418, R440). -/
def execSetwayInvalidate (a : Actor) (u : MaintUnit) (v : SetWay) (s : State) : Host.Outcome State Fault Refusal := runM s (setwayWrite a u 1 v)
/-- SETWAY_CLEAN_INVALIDATE: OP 2 (R418, R440). -/
def execSetwayCleanInvalidate (a : Actor) (u : MaintUnit) (v : SetWay) (s : State) : Host.Outcome State Fault Refusal :=
  runM s (setwayWrite a u 2 v)
/-- MAINTENANCE_COMPLETE: an operation ends and its BUSY clears (R419, R439). -/
def execMaintenanceComplete (u : MaintUnit) (s : State) : Host.Outcome State Fault Refusal := runMesh s (fun m => maintDone m u)

/-- CACHE_DISABLE: a DISABLE field written 1 (R421 to R423). -/
def execCacheDisable (a : Actor) (c : CacheId) (s : State) : Host.Outcome State Fault Refusal :=
  runM s (ctlWrite a (cacheReg c).1 (cacheReg c).2.1 (cacheReg c).2.2 (fun m => cacheOff m c))
/-- CACHE_ENABLE: a DISABLE field written 0 (R422). -/
def execCacheEnable (a : Actor) (c : CacheId) (s : State) : Host.Outcome State Fault Refusal :=
  runM s (ctlWrite a (cacheReg c).1 (cacheReg c).2.1 (cacheReg c).2.2 (fun m => cacheOn m c))

/-- The last dirty line of a Disabling cache is written back; an L1 has no Disabling. -/
def cacheEmptied (m : Mach) (c : CacheId) : Mach :=
  match c with
  | .l1i _ => m
  | .l1d _ => m
  | .l2 b => l2Emptied m b.val
  | .l3 h => l3Emptied m h.val

/-- DISABLING_COMPLETE (R422); in Hold the write-back is suspended. -/
def execDisablingComplete (c : CacheId) (s : State) : Host.Outcome State Fault Refusal := runUnits s (fun m => cacheEmptied m c)
/-- WAY_LOCK: the LOCK field of `L2_CTL` written (R408, R411). -/
def execWayLock (a : Actor) (b : BenchId) (mask : Byte) (s : State) : Host.Outcome State Fault Refusal :=
  runM s (ctlWrite a 0x01 b.val 0x0300 (fun m => setLock m b.val mask))
/-- DIRTY_AGE_CLEAN: the background clean of a dirty line (R428). -/
def execDirtyAgeClean (b : BenchId) (n : LineNo) (s : State) : Host.Outcome State Fault Refusal := runUnits s (fun m => dirtyAge m b.val n.toNat)
/-- CACHE_SCRUB: a line read in the background, with the error that its array shows (R424 to R426). -/
def execCacheScrub (c : CacheId) (n : LineNo) (err : ArrayErr) (s : State) : Host.Outcome State Fault Refusal :=
  runMesh s (fun m => scrubLine m c n.toNat err)

end Sys2Proof.Machine
end

