-- ==== Sys2Proof/Machine/JobOps.lean ====
section
/-! DEFINITION. What crushers and cipher engines share: their units, slots and pools (R670 to R672, R709), the choice of a job
(R673, R736), completion rings and their records in order (R668, R674), quiesce and reset of a lease's jobs, failure of a unit
(R676, R711). Kind 0 is the crushers, kind 1 the cipher engines with the public-key units as units 8 and 9. -/

namespace Sys2Proof.Machine

/-! ## Access -/

def modJobs (m : Mach) (f : JobsSt → JobsSt) : Mach := { m with jobs := f m.jobs }
def job (m : Mach) (n : Nat) : Option Job := tfind m.jobs.jobs n
def setJob (m : Mach) (x : Job) : Mach := modJobs m (fun j => { j with jobs := tset j.jobs x.num x })
def workUnit (m : Mach) (kind u : Nat) : WorkUnit := tget (if kind = 0 then m.jobs.crush else m.jobs.ciph) u WorkUnit.reset
def modWork (m : Mach) (kind u : Nat) (f : WorkUnit → WorkUnit) : Mach :=
  let w := f (workUnit m kind u)
  modJobs m (fun j => if kind = 0 then { j with crush := tset j.crush u w } else { j with ciph := tset j.ciph u w })

/-- One is added to a counter of a unit, which stops at its largest value. -/
def countWork (m : Mach) (kind u i max : Nat) : Mach :=
  modWork m kind u (fun w => { w with counts := lset w.counts i (sat max (w.counts.getD i 0 + 1)) })

/-- The section of the structure image, the kind of the block, and the slots of a unit (R680, R712, R709). -/
def workSect (kind : Nat) : Nat := 0x000D + kind
def workBlock (kind : Nat) : Nat := 0x09 + kind
def unitSlots (kind u : Nat) : Nat := if kind = 0 then 256 else if u < 8 then 512 else 128
/-- The hub of a unit, and its source number (R3, R668, R706). -/
def unitHub (u : Nat) : Nat := if u < 8 then u / 4 else u - 8
def workSource (kind u : Nat) : Nat := if kind = 0 then 0x0A00 + u else 0x0B00 + u

/-- The unit's record says that it is ENABLED (R680, R684). -/
def workEnabled (m : Mach) (kind u : Nat) : Bool := !imgHas m (workSect kind) || bit (imgFld m (workSect kind) u 0 1) 0

/-- The lease to which a unit is dedicated (R680). -/
def dedicated (m : Mach) (kind u : Nat) : Option Nat :=
  if imgHas m (workSect kind) && bit (imgFld m (workSect kind) u 0 1) 1 then some (imgFld m (workSect kind) u 1 1) else none

/-- The units that a lease may use (R680, R684, R712); a dedicated unit takes jobs of its own lease only (R681). -/
def leaseMask (m : Mach) (kind l : Nat) : List Nat :=
  let v := if imgHas m (workSect kind) then imgFld m (workSect kind) (8 + l) 0 1 else 0xFF
  (List.range 8).filter (fun u => bit v u && (match dedicated m kind u with | none => true | some d => d == l))

/-- The public-key units that a lease may use (R712). -/
def pkAllowed (m : Mach) (l h : Nat) : Bool := !imgHas m 0x000E || bit (imgFld m 0x000E (8 + l) 1 1) h

/-- The slots that a lease reserves on a hub (R680, R712). -/
def leaseReserve (m : Mach) (kind l h : Nat) : Nat :=
  if imgHas m (workSect kind) then imgFld m (workSect kind) (8 + l) (2 + 2 * h) 2 else 0

/-- A unit is Active; a public-key unit is, where its hub is in service and it has not failed. -/
def workActive (m : Mach) (kind u : Nat) : Bool :=
  if u < 8 then hubIn m (u / 4) && workEnabled m kind u && ustate m (workBlock kind) u == .active
  else hubIn m (u - 8) && committed m && !(workUnit m 1 u).failed

/-! ## Slots (R670) -/

/-- The jobs that hold slots. -/
def openJobs (m : Mach) : List Job := m.jobs.jobs.map (fun p => p.2)
def unitJobs (m : Mach) (kind u : Nat) : List Job := (openJobs m).filter (fun x => x.kind == kind && x.unit == u)
def leaseJobs (m : Mach) (kind l : Nat) : List Job := (openJobs m).filter (fun x => x.kind == kind && x.lease == l)
def queueJobs (m : Mach) (kind l q : Nat) : List Job := (leaseJobs m kind l).filter (fun x => x.queue == q)

/-- The jobs on a hub's crushers or cipher engines (the public-key units' slots are apart). -/
def hubJobs (m : Mach) (kind h : Nat) : List Job :=
  (openJobs m).filter (fun x => x.kind == kind && decide (x.unit < 8) && unitHub x.unit == h)

/-- The slots of a hub that no lease reserves, and those of them that are free (R670, R682, R683). -/
def commonSize (m : Mach) (kind h : Nat) : Nat :=
  let all := (List.range 4).foldl (fun a i => a + if workEnabled m kind (4 * h + i) then unitSlots kind 0 else 0) 0
  all - (List.range 256).foldl (fun a l => a + leaseReserve m kind l h) 0
def commonFree (m : Mach) (kind h : Nat) : Nat := commonSize m kind h - (hubJobs m kind h).countP (fun x => !x.reserved)

/-- A slot for a lease on a unit: reserved ones first (R670); whether it is a reserved one. -/
def freeSlot (m : Mach) (kind u l : Nat) : Option Bool :=
  if unitSlots kind u ≤ (unitJobs m kind u).length then none
  else if 8 ≤ u then some false
  else
    let h := unitHub u
    if (hubJobs m kind h).countP (fun x => x.lease == l && x.reserved) < leaseReserve m kind l h then some true
    else if 0 < commonFree m kind h then some false else none

/-- The input bytes that the jobs of a unit still have before them (R672). -/
def inputLen (x : Job) : Nat := if x.kind = 0 then fld x.desc 24 8 else fld x.desc 16 4
def queuedBytes (m : Mach) (kind u : Nat) : Nat := (unitJobs m kind u).foldl (fun a x => a + (inputLen x - x.consumed)) 0

/-! ## Queues and their rings (R666, R690, R691, R706, R715) -/

/-- The offset of a queue's registers in the lease block. -/
def queueOff (kind q : Nat) : Nat := (if kind = 0 then 0x2800 else 0x2C00) + 32 * q
def queueCtl (m : Mach) (kind l q : Nat) : Nat := (tget (lease m l).regs (queueOff kind q) 0).toNat
def queueRing (m : Mach) (kind l q : Nat) : Nat := (tget (lease m l).regs (queueOff kind q + 8) 0).toNat
def queueSize (m : Mach) (kind l q : Nat) : Nat := 16 * 2 ^ bits (queueRing m kind l q) 59 56
def queueBase (m : Mach) (kind l q : Nat) : Nat := bits (queueRing m kind l q) 47 6 * 64
def qkey (kind l q : Nat) : Nat := (kind * 256 + l) * 16 + q
def jobRing (m : Mach) (kind l q : Nat) : RingSt := tget m.jobs.rings (qkey kind l q) { tail := 0, head := 0 }
def setJobRing (m : Mach) (kind l q : Nat) (r : RingSt) : Mach := modJobs m (fun j => { j with rings := tset j.rings (qkey kind l q) r })

/-- ENABLED is cleared in the queues of a lease that hold no open job (R749). -/
def queuesOff (m : Mach) (l : Nat) : Mach :=
  [0, 1].foldl (fun m kind => (List.range 16).foldl (fun m q =>
    if bit (queueCtl m kind l q) 63 && (queueJobs m kind l q).isEmpty then
      modLease m l (fun x => { x with regs := tset x.regs (queueOff kind q) (BitVec.ofNat 64 (queueCtl m kind l q % 2 ^ 63)) })
    else m) m) m

/-- A lease's ledger of slots (R824). -/
def ledgerAdd (m : Mach) (kind l : Nat) (taken freed : Nat) : Mach :=
  modJobs m (fun j => { j with ledgers := (
    let v := tget j.ledgers (kind * 256 + l) (0, 0)
    tset j.ledgers (kind * 256 + l) ((v.1 + taken) % 2 ^ 32, (v.2 + freed) % 2 ^ 32)) })

/-! ## Records (R666 to R668, R674, R706) -/

/-- The completion record of an ended job, for the place that TAIL gives it. -/
def jobRecord (x : Job) (tail size : Nat) : Bytes :=
  let phase := b2n (tail / max 1 size % 2 == 0)
  if x.kind = 0 then
    bslice x.desc 48 8 ++ le 8 x.consumed ++ le 8 x.written ++ le 4 x.slabs ++ le 1 (x.ended.getD 0) ++
      le 1 (phase + 2 * b2n x.lastSeen + 4 * b2n x.restarted) ++ le 1 x.by_ ++ le 1 0
  else
    bslice x.desc 48 8 ++ le 8 x.seqField ++ le 4 x.written ++ le 1 (x.ended.getD 0) ++ le 1 (phase + 2 * b2n x.restarted) ++
      le 1 x.ctype ++ le 1 x.by_ ++ le 8 0

/-- A job's slot is free (R674, R824); the queues of a lease under reset close when they are empty (R749). -/
def freeJob (m : Mach) (x : Job) : Mach :=
  let m := modJobs m (fun j => { j with jobs := tdel j.jobs x.num })
  let m := ledgerAdd m x.kind x.lease 0 1
  if (lease m x.lease).st = .resetting ∨ (lease m x.lease).st = .removing then queuesOff m x.lease else m

/-- The record of an ended job is written to the sump (R674); where the sump cannot take it the job keeps its slot. -/
def jobToSump (m : Mach) (x : Job) (reason : Nat) : Bool × Mach :=
  let rec_ := jobRecord x m.chn.sumpTail (sumpSize m) ++ le 1 x.lease ++ le 1 ((if x.kind = 0 then 0x40 else 0x80) + x.queue) ++ le 1 reason
  match sumpPut m (workSource x.kind x.by_) rec_ with
  | (.written, m) => (true, freeJob m x)
  | (_, m) => (false, setJob m { x with sump := some reason })

/-- The record of an ended job is written: to its ring, then TAIL, then the event at the queue's vector (R668); to the sump where
a reset sent it there (R674) or the ring cannot be written (reason 3 of R573). -/
def jobOut (m : Mach) (x : Job) : Bool × Mach :=
  match x.sump with
  | some r => jobToSump m x r
  | none =>
    let hub := unitHub x.by_
    let src := workSource x.kind x.by_
    let r := jobRing m x.kind x.lease x.queue
    let base := queueBase m x.kind x.lease x.queue
    let size := queueSize m x.kind x.lease x.queue
    match ringPut m hub src x.lease base size 32 r.tail (jobRecord x r.tail size) with
    | (.error _, m) => jobToSump m x 3
    | (.ok _, m) =>
      let m := setJobRing m x.kind x.lease x.queue { r with tail := r.tail + 1 }
      let vec := bits (queueCtl m x.kind x.lease x.queue) 55 44
      let m := freeJob m x
      (true, raiseEvent m (0x03 + x.kind) src x.lease vec (le 8 (r.tail + 1) ++ le 1 x.queue))

/-- The oldest of some jobs. -/
def oldest (l : List Job) : Option Job := pickBest (fun a b => decide (a.num < b.num)) l

/-- The records of a queue are written in the order of acceptance, up to the first job that has not ended (R668). -/
def queueOut (fuel : Nat) (m : Mach) (kind l q : Nat) : Mach :=
  match fuel with
  | 0 => m
  | f + 1 =>
    match oldest (queueJobs m kind l q) with
    | none => m
    | some x =>
      if x.ended.isNone then m else
      match jobOut m x with
      | (true, m) => queueOut f m kind l q
      | (false, m) => m

/-- The output of a cipher job that does not end OK is unspecified (R707): free bytes, as far as the operation could have written. -/
def outputFree (m : Mach) (x : Job) : Mach :=
  if x.kind = 0 then m else
  let (b, m) := freeBytes m (min (fld x.desc 20 4) (fld x.desc 16 4 + 320))
  (wrLease m (unitHub x.unit) (workSource 1 x.unit) x.lease (fld x.desc 24 8) b).2

/-- A job ends with a status on the unit where it stands; its record and those that waited for it are written. -/
def endJob (m : Mach) (x : Job) (status : Nat) : Mach :=
  let m := if status = 0 then m else outputFree m x
  let x := if x.kind = 1 ∧ status ≠ 0 then { x with written := 0 } else x
  let m := setJob m { x with ended := some status, by_ := x.unit, buf := [] }
  let m := modWork m x.kind x.unit (fun w => { w with run := if w.run = some x.num then none else w.run })
  queueOut ((queueJobs m x.kind x.lease x.queue).length + 1) m x.kind x.lease x.queue

/-- Every queue's ended jobs whose records wait for the sump try again (R573). -/
def jobsDrain (m : Mach) : Mach :=
  ((openJobs m).filter (fun x => x.ended.isSome && x.sump.isSome)).foldl (fun m x =>
    queueOut ((queueJobs m x.kind x.lease x.queue).length + 1) m x.kind x.lease x.queue) m

/-! ## The choice of a job (R673, R736) -/

/-- The job of a queue that a unit may work on: the oldest on that unit that has not ended; of a cipher job's context no job
accepted earlier is still open (R698). -/
def eligible (m : Mach) (kind u : Nat) : List Job :=
  let js := (unitJobs m kind u).filter (fun x => x.ended.isNone)
  js.filter (fun x =>
    js.all (fun y => y.lease != x.lease || y.queue != x.queue || decide (x.num ≤ y.num)) &&
    (x.ctx.isNone || (openJobs m).all (fun y => y.ctx != x.ctx || y.ended.isSome || decide (x.num ≤ y.num))))

/-- The share of a lease at a kind of unit (R759). -/
def workShare (m : Mach) (kind l : Nat) : Nat :=
  if kind = 0 then bits (lease m l).shares.toNat 15 8 else bits (lease m l).shares.toNat 23 16

/-- The next job of a unit: the lease by R736, its queue in turn (R673). -/
def chooseJob (m : Mach) (kind u : Nat) : Option Job × Mach :=
  let js := eligible m kind u
  let w := workUnit m kind u
  let (l, f) := fairPick w.fair ((js.map (fun x => x.lease)).dedup) (workShare m kind)
  let m := modWork m kind u (fun w => { w with fair := f })
  match l with
  | none => (none, m)
  | some l =>
    let last := tget w.turn l 15
    let rank (x : Job) : Nat := (x.queue + 15 - last) % 16
    match pickBest (fun a b => decide (rank a < rank b)) (js.filter (fun x => x.lease == l)) with
    | none => (none, m)
    | some x => (some x, modWork m kind u (fun w => { w with turn := tset w.turn l x.queue }))

/-- The bytes that a unit has served are charged to the lease (R736). -/
def chargeJob (m : Mach) (x : Job) (bytes : Nat) : Mach :=
  modWork m x.kind x.unit (fun w => { w with fair := fairCharge w.fair x.lease bytes (workShare m x.kind x.lease) })

/-! ## Quiesce, reset, removal of a lease (R674, R710) -/

/-- The jobs of a lease at a forced reset (reason 1) or removal (reason 2): one that runs stops at its next boundary, the others
are CANCELLED; all records go to the sump. -/
def jobsReset (m : Mach) (l reason : Nat) : Mach :=
  let js := (openJobs m).filter (fun x => x.lease == l)
  let m := js.foldl (fun m x =>
    let x := { x with sump := some reason }
    if x.ended.isSome then setJob m x
    else if (workUnit m x.kind x.unit).run = some x.num then setJob m { x with stop := true }
    else setJob (outputFree m x) { x with ended := some (if x.kind = 0 then 0x04 else 0x0C), by_ := x.unit, buf := [],
                                          written := if x.kind = 0 then x.written else 0 }) m
  let m := js.foldl (fun m x => queueOut ((queueJobs m x.kind l x.queue).length + 1) m x.kind l x.queue) m
  queuesOff m l

/-- No crusher slot, and no cipher slot, is held by the lease (R744). -/
def jobsSettled (m : Mach) (kind l : Nat) : Bool := (leaseJobs m kind l).isEmpty

/-! ## Failure of a unit (R676, R711) -/

/-- Where a job of a failed unit goes: an Active unit that the lease may use with a slot free, on the same hub first;
none that a partial image at work names (R129). -/
def handTo (m : Mach) (x : Job) : Option (Nat × Bool) :=
  let us := if x.unit < 8 then
      let mask := (leaseMask m x.kind x.lease).filter (fun u => u != x.unit && workActive m x.kind u)
      mask.filter (fun u => unitHub u == unitHub x.unit) ++ mask.filter (fun u => unitHub u != unitHub x.unit)
    else [17 - x.unit].filter (fun u => workActive m 1 u && pkAllowed m x.lease (u - 8))
  let us := us.filter (fun u => !(decide (u < 8) && applyingNames m (0x0D + x.kind) u))
  us.findSome? (fun u => (freeSlot m x.kind u x.lease).map (fun r => (u, r)))

/-- A failed unit's jobs are handed on and begin again from their first byte, or end UNIT_FAILED; with the numbers of each. -/
def handOn (m : Mach) (kind u : Nat) : Nat × Nat × Mach :=
  let js := ((unitJobs m kind u).filter (fun x => x.ended.isNone)).mergeSort (fun a b => decide (a.num ≤ b.num))
  let m := modWork m kind u (fun w => { w with run := none })
  js.foldl (fun (s : Nat × Nat × Mach) x =>
    let (on, bad, m) := s
    if x.stop then (on, bad, endJob m { x with written := if kind = 0 then x.written else 0 } (if kind = 0 then 0x04 else 0x0C)) else
    match handTo m x with
    | some (v, r) =>
      (on + 1, bad, setJob m { x with unit := v, reserved := r, restarted := x.restarted || x.begun, begun := false, consumed := 0,
                                      written := 0, slabs := 0, lastSeen := false, chainIdx := 0, outAddr := 0, outLeft := 0, buf := [] })
    | none => (on, bad + 1, endJob m x (if kind = 0 then 0x0C else 0x0D))) (0, 0, m)

/-- A unit fails: its state (a public-key unit's mark), its jobs, the error record (R676, R711). -/
def workFails (m : Mach) (kind u : Nat) : Mach :=
  let m := if u < 8 then setUState m (workBlock kind) u .failed else modWork m 1 u (fun w => { w with failed := true })
  let (on, bad, m) := handOn m kind u
  raiseErr m (0x0080 + kind) (workSource kind u) (le 2 on ++ le 2 bad)

/-! ## Taking a unit out of service (R677, R687, R715) -/

/-- ONLINE and OFFLINE: OFFLINE drains the unit; ONLINE returns it. -/
def workCmd (m : Mach) (kind u code : Nat) : Mach :=
  let m := modWork m kind u (fun w => { w with cmd := code })
  let st := ustate m (workBlock kind) u
  if code = 2 then
    if st = .active then setUState m (workBlock kind) u (if (unitJobs m kind u).isEmpty then .offline else .draining) else m
  else if st = .draining ∨ st = .offline ∨ st = .failed then setUState m (workBlock kind) u .active else m

/-- A Draining unit without a job is Offline. -/
def workDrained (m : Mach) (kind u : Nat) : Mach :=
  if ustate m (workBlock kind) u = .draining ∧ (unitJobs m kind u).isEmpty ∧ (tfind m.load.prior (ukey (workBlock kind) u)).isNone then setUState m (workBlock kind) u .offline else m

end Sys2Proof.Machine
end

