-- ==== Sys2Proof/Machine/LinkOps.lean ====
section
/-! DEFINITION. Operations of the Ethernet links, frame queues, PCIe ports (R589 to R613, R636 to R644) and of datagrams that
reach a Helar path (R614 to R630). -/

namespace Sys2Proof.Machine

def fq (m : Mach) (l q : Nat) : FqSt := tget m.fqs (l * 32 + q) FqSt.reset
def setFq (m : Mach) (l q : Nat) (x : FqSt) : Mach := { m with fqs := tset m.fqs (l * 32 + q) x }
def pcie (m : Mach) (p : Nat) : PcieSt := tget m.pcie p PcieSt.reset
def setPcie (m : Mach) (p : Nat) (x : PcieSt) : Mach := { m with pcie := tset m.pcie p x }
def modPcie (m : Mach) (p : Nat) (f : PcieSt → PcieSt) : Mach := setPcie m p (f (pcie m p))

/-- Drops by reason (R642): 0 FCS, 1 ADDRESS, 2 NO_MATCH, 3 NO_BUFFER, 4 TOO_LONG, 5 HOLD, 6 Helar; each stops at 0xFF. -/
def linkDrop (m : Mach) (l reason : Nat) : Mach :=
  modLink m l (fun x => { x with drops := lset x.drops reason (sat 0xFF (x.drops.getD reason 0 + 1)) })

/-! ## Frames -/

/-- What a link reads of a frame (R594): destination MAC, VLAN, EtherType, and of IPv4 and IPv6 the protocol, addresses (IPv4
written IPv4-mapped), ports, whether it is a fragment, and the checksums. -/
structure FrameInfo where
  dst : Nat
  vlan : Option Nat
  etype : Nat
  l3 : Bytes
  ip : Bool
  v4 : Bool
  proto : Nat
  src6 : Bytes
  dst6 : Bytes
  frag : Bool
  l4 : Bytes
  ipGood : Bool
  l4Checked : Bool
  l4Good : Bool
  deriving DecidableEq, Repr

def frameInfo (f : Bytes) : FrameInfo :=
  let t0 := beVal (bslice f 12 2)
  let tagged := t0 == 0x8100
  let et := if tagged then beVal (bslice f 16 2) else t0
  let l3 := f.drop (if tagged then 18 else 14)
  let v4 := et == 0x0800
  let v6 := et == 0x86DD
  let ihl := 4 * (fld l3 0 1 % 16)
  let proto := if v4 then fld l3 9 1 else if v6 then fld l3 6 1 else 0
  let len4 := beVal (bslice l3 2 2)
  let l4 := if v4 then (l3.take len4).drop ihl else if v6 then (l3.drop 40).take (beVal (bslice l3 4 2)) else []
  let src6 := if v4 then mapV4 (bslice l3 12 4) else bslice l3 8 16
  let dst6 := if v4 then mapV4 (bslice l3 16 4) else bslice l3 24 16
  let frag := v4 && (beVal (bslice l3 6 2) % 0x4000 != 0) || (v6 && proto == 44)
  let pseudo := (if v4 then onesSum (bslice l3 12 8) 0 else onesSum (bslice l3 8 32) 0) + proto + l4.length
  let udp0 := proto == 17 && beVal (bslice l4 6 2) == 0
  let chk := (v4 || v6) && !frag && (proto == 6 || (proto == 17 && !udp0))
  { dst := beVal (f.take 6), vlan := if tagged then some (beVal (bslice f 14 2) % 4096) else none, etype := et, l3 := l3,
    ip := v4 || v6, v4 := v4, proto := proto, src6 := src6, dst6 := dst6, frag := frag, l4 := l4,
    ipGood := v4 && onesSum (l3.take ihl) 0 == 0xFFFF, l4Checked := chk, l4Good := chk && onesSum l4 pseudo == 0xFFFF }

/-- The destination port of an unfragmented UDP or TCP frame. -/
def FrameInfo.port (x : FrameInfo) : Option Nat :=
  if x.ip && !x.frag && (x.proto == 6 || x.proto == 17) then some (beVal (bslice x.l4 2 2)) else none

/-- The four words of rule r (R596) as bytes. -/
def ruleBytes (m : Mach) (l r : Nat) : Bytes :=
  (List.range 4).flatMap (fun i => le 8 (tget (link m l).rules (4 * r + i) 0).toNat)

/-- Every selected test of a valid rule holds (R594 step 4, R596). -/
def ruleMatches (b : Bytes) (x : FrameInfo) : Bool :=
  let fl := fld b 0 1
  bit fl 0 &&
  (!bit fl 1 || x.vlan == some (fld b 4 2 % 4096)) &&
  (!bit fl 2 || x.etype == fld b 2 2) &&
  (!bit fl 3 || (x.ip && x.proto == fld b 1 1)) &&
  (!bit fl 4 || (x.ip && prefixEq (bslice b 8 16) x.dst6 (fld b 6 1))) &&
  (!bit fl 5 || (match x.port with | some p => decide (fld b 24 2 ≤ p) && decide (p ≤ fld b 26 2) | none => false))

/-- The lease, queue and deciding rule of a frame (R594 steps 4 and 5); none where it is dropped with NO_MATCH. -/
def classify (m : Mach) (l : Nat) (x : FrameInfo) : Option (Nat × Nat × Nat) :=
  match (List.range 256).find? (fun r => ruleMatches (ruleBytes m l r) x) with
  | some r => let b := ruleBytes m l r; some (fld b 7 1, fld b 28 1 % 16, r)
  | none =>
    let q := imgFld m 0x000C l 34 1
    if q = 0xFF ∨ 16 ≤ q then none else some (imgFld m 0x000C l 33 1, q, 0xFFFF)

/-! ## Frame queues (R599 to R603, R644) -/

def fqCtl (m : Mach) (l q : Nat) : Nat := (tget (lease m l).regs (0x2000 + 32 * q) 0).toNat
def fqRing (m : Mach) (l q : Nat) : Nat := (tget (lease m l).regs (0x2008 + 32 * q) 0).toNat
def fqSize (m : Mach) (l q : Nat) : Nat := 16 * 2 ^ bits (fqRing m l q) 59 56
def fqBase (m : Mach) (l q : Nat) : Nat := bits (fqRing m l q) 47 6 * 64
def fqOn (m : Mach) (l q link : Nat) : Bool := bit (fqCtl m l q) 63 && bits (fqCtl m l q) 58 56 == link

/-- POSTED read and judged (R548): at or above the last accepted value and at most the ring size above DONE. -/
def fqPosted (m : Mach) (src l q : Nat) : Mach :=
  let x := fq m l q
  match rdLease m (linkHub (bits (fqCtl m l q) 58 56)) src l (fqBase m l q) 8 with
  | (.error _, m) => m
  | (.ok b, m) =>
    let v := leVal b
    if x.posted ≤ v ∧ v ≤ x.done + fqSize m l q then setFq m l q { x with posted := v } else ringFault m l

/-- The event of a queue with completed descriptors not yet signalled (R603). -/
def fqSignal (m : Mach) (link l q : Nat) : Mach :=
  let x := fq m l q
  let m := setFq m l q { x with unsignalled := 0 }
  raiseEvent m 0x05 (0x0800 + link) l (bits (fqCtl m l q) 55 44) (le 8 x.done ++ le 1 q)

/-- A descriptor is completed: rewritten, then DONE, then the event as coalescing allows (R601, R603, R604). -/
def fqComplete (m : Mach) (link l q : Nat) (desc : Bytes) : Mach :=
  let x := fq m l q
  let hub := linkHub link
  let m := (wrLease m hub (0x0800 + link) l (fqBase m l q + 64 + 32 * (x.done % fqSize m l q)) desc).2
  let m := (wrLease m hub (0x0800 + link) l (fqBase m l q + 8) (le 8 (x.done + 1))).2
  let m := setFq m l q { x with done := x.done + 1, completed := (x.completed + 1) % 2 ^ 32, unsignalled := x.unsignalled + 1,
                                firstAt := if x.unsignalled = 0 then m.now else x.firstAt }
  if max 1 (bits (fqCtl m l q) 15 8) ≤ x.unsignalled + 1 then fqSignal m link l q else m

/-- The phase of the next descriptor: 1 on the first pass (R600). -/
def fqPhase (m : Mach) (l q : Nat) : Nat := b2n ((fq m l q).done / fqSize m l q % 2 == 0)

/-- A lease's receive queue drops a frame, by reason. -/
def fqDrop (m : Mach) (link l q reason : Nat) : Mach :=
  linkDrop (setFq m l q { fq m l q with dropped := (fq m l q).dropped + 1 }) link reason

/-- A frame is placed in a receive queue (R600 to R602). A queue that is not the lease's and this link's has no posted buffer. -/
def placeFrame (m : Mach) (link l q rule : Nat) (f : Bytes) (x : FrameInfo) : Mach :=
  if !fqOn m l q link then fqDrop m link l q 3 else
  let hub := linkHub link
  let src := 0x0800 + link
  let m := fqPosted m src l q
  let s := fq m l q
  if s.posted ≤ s.done then fqDrop m link l q 3 else
  match rdLease m hub src l (fqBase m l q + 64 + 32 * (s.done % fqSize m l q)) 32 with
  | (.error _, m) => fqDrop m link l q 3
  | (.ok d, m) =>
    let buf := fld d 0 8
    let len := fld d 8 4
    if len < f.length then fqDrop m link l q 4 else
    let (ok, m) := canWrite m hub l buf f.length
    if !ok then fqDrop m link l q 3 else
    let m := (wrLease m hub src l buf f).2
    let (t, m) := takeStamp m src
    let bad := (x.v4 && !x.ipGood) || (x.l4Checked && !x.l4Good)
    let fl := fqPhase m l q + 2 * b2n x.ipGood + 4 * b2n x.l4Good + 8 * b2n bad + 16 * b2n x.vlan.isSome
    fqComplete m link l q (le 8 buf ++ le 2 f.length ++ le 1 fl ++ le 1 0 ++ le 2 rule ++ le 2 (x.vlan.getD 0) ++ le 8 t.toNat ++ le 8 0)

/-! ## ARP and neighbour discovery (R595) -/

/-- The reply to an ARP request for the link's own IPv4 address; none for another frame. -/
def arpReply (m : Mach) (l : Nat) (x : FrameInfo) : Option Bytes :=
  let own := (linkAddr m l).drop 12
  if x.etype = 0x0806 ∧ beVal (bslice x.l3 6 2) = 1 ∧ bslice x.l3 24 4 = own ∧ (linkAddr m l).take 12 = mapV4 [] then
    let mac := be 6 (linkMac m l)
    some (bslice x.l3 8 6 ++ mac ++ be 2 0x0806 ++ bslice x.l3 0 6 ++ be 2 2 ++ mac ++ own ++ bslice x.l3 8 10)
  else none

/-- The advertisement that answers a neighbour solicitation for the link's own IPv6 address. -/
def ndReply (m : Mach) (l : Nat) (x : FrameInfo) : Option Bytes :=
  let own := linkAddr m l
  if x.etype = 0x86DD ∧ x.proto = 58 ∧ fld x.l4 0 1 = 135 ∧ bslice x.l4 8 16 = own then
    let mac := be 6 (linkMac m l)
    let body := be 1 136 ++ be 1 0 ++ be 2 0 ++ be 4 0x60000000 ++ own ++ be 1 2 ++ be 1 1 ++ mac
    let sum := 0xFFFF - onesSum body (onesSum (own ++ x.src6) 0 + 58 + body.length)
    let body := patch body 2 (be 2 sum)
    some (mac ++ mac ++ be 2 0x86DD ++ be 4 0x60000000 ++ be 2 body.length ++ be 1 58 ++ be 1 255 ++ own ++ x.src6 ++ body)
  else none

/-- An ARP reply or a neighbour advertisement is consumed: the address resolved is kept. -/
def isResolution (x : FrameInfo) : Bool :=
  (x.etype == 0x0806 && beVal (bslice x.l3 6 2) == 2) || (x.etype == 0x86DD && x.proto == 58 && fld x.l4 0 1 == 136)

/-- A PTP message: EtherType 0x88F7, or UDP to ports 319 and 320 (R589, R594). -/
def isPtp (x : FrameInfo) : Bool :=
  x.etype == 0x88F7 || (x.proto == 17 && (x.port == some 319 || x.port == some 320))

/-- A time-stamp master is named for the link (R594 step 2, R766). -/
def ptpMasterOf (m : Mach) (l : Nat) : Option Nat :=
  (List.range 2).find? (fun h => imgFld m 0x0011 h 0 1 == 1 && imgFld m 0x0011 h 1 1 == l && imgHas m 0x0011)

/-- The Helar path of a link that claims a local UDP port (R578, R594 step 3). -/
def helarPathAt (m : Mach) (l port : Nat) : Option Nat :=
  (List.range 64).find? (fun p => pathKind m p == 1 && pathLink m p == l && imgFld m 0x000B p 4 2 == port)

/-! ## Helar datagrams (R614 to R630) -/

/-- a lies before b among sequence numbers modulo 2^32. -/
def seqBefore (a b : Nat) : Bool := a != b && decide ((b + 2 ^ 32 - a) % 2 ^ 32 < 2 ^ 31)

/-- The header fields of a datagram. -/
structure HelarHdr where
  version : Nat
  type : Nat
  flags : Nat
  len : Nat
  token : Nat
  seq : Nat
  ack : Nat
  sack : Nat
  crc : Nat
  body : Bytes
  ok : Bool
  deriving DecidableEq, Repr

def helarHdr (d : Bytes) : HelarHdr :=
  { version := fld d 2 1, type := fld d 3 1, flags := fld d 4 2, len := fld d 6 2, token := fld d 8 4, seq := fld d 12 4, ack := fld d 16 4,
    sack := fld d 20 4, crc := fld d 24 4, body := d.drop 32,
    ok := decide (32 ≤ d.length) && d.take 2 == [0x48, 0x4C] && fld d 6 2 == d.length - 32 }

/-- The header of a datagram that a path takes (R614, R615): good checksum, magic, length, a known token, version and type, and the
payload CRC where it is agreed. -/
def helarValid (m : Mach) (p : Nat) (h : HelarHdr) (checksumGood : Bool) : Bool :=
  let x := (path m p).helar
  checksumGood && h.ok && [0x01, 0x02, 0x03, 0x04, 0x05, 0x11].contains h.type &&
  (if h.type = 1 then h.token == 0 else h.token == x.token) &&
  (if h.type = 1 ∨ h.type = 2 then h.version == 0 else h.version == x.version && (!bit x.mask 5 || h.crc == crc32c h.body))

/-- A datagram is discarded and counted (R614, R642). -/
def helarDiscard (m : Mach) (p : Nat) : Mach := linkDrop m (pathLink m p) 6

/-- The acknowledgement in a header (R622, R623): acknowledged segments are dropped, and the window lets further ones go. -/
def helarAckIn (m : Mach) (p : Nat) (h : HelarHdr) : Mach :=
  if !bit h.flags 2 then m else
  let x := (path m p).helar
  let sackOn := bit x.mask 3
  let left := x.unacked.filter (fun s => !(seqBefore s.seq h.ack) &&
    !(sackOn && (List.range 32).any (fun i => h.sack.testBit i && (h.ack + 1 + i) % 2 ^ 32 == s.seq)))
  helarPump (x.queue.length) (modHelar m p (fun y => { y with unacked := left })) p

/-- A datagram that is valid proves the partner alive (R625). -/
def helarSeen (m : Mach) (p : Nat) : Mach := modHelar m p (fun h => { h with lastRx := m.now })

/-- Segments in order go into the message; a LAST segment hands the message on (R622, R629). -/
def helarTake (m : Mach) (p flags : Nat) (body : Bytes) : Mach :=
  let x := (path m p).helar
  let msg := if bit flags 0 then body else x.partial_ ++ body
  let m := modHelar m p (fun y => { y with rxNext := (y.rxNext + 1) % 2 ^ 32, partial_ := if bit flags 1 then [] else msg, inMsg := !bit flags 1 })
  if bit flags 1 then helarAnswer m p msg else m

/-- Kept segments that have become next are taken (R623). -/
def helarTakeKept (fuel : Nat) (m : Mach) (p : Nat) : Mach :=
  match fuel with
  | 0 => m
  | f + 1 =>
    let x := (path m p).helar
    match tfind x.kept x.rxNext with
    | none => m
    | some (fl, b) =>
      let n := x.rxNext
      helarTakeKept f (helarTake (modHelar m p (fun y => { y with kept := tdel y.kept n })) p fl b) p

/-- An ANSWER segment (R622, R623): the next expected one is taken; with SACK, one within the window is kept; an acknowledgement
is due within 50 µs. -/
def helarSegment (m : Mach) (p : Nat) (h : HelarHdr) : Mach :=
  let m := modHelar m p (fun y => { y with ackDue := some (y.ackDue.getD (m.now + 50000)) })
  let x := (path m p).helar
  if h.seq = x.rxNext then helarTakeKept (x.kept.length) (helarTake m p h.flags h.body) p
  else if bit x.mask 3 ∧ seqBefore x.rxNext h.seq ∧ (h.seq + 2 ^ 32 - x.rxNext) % 2 ^ 32 < x.window ∧ (tfind x.kept h.seq).isNone then
    modHelar m p (fun y => { y with kept := tset y.kept h.seq (h.flags, h.body) })
  else m

/-- CAP_RSP (R618, R620): the settled values must be as R618 gives them from what the partner agreed. -/
def helarCapRsp (m : Mach) (p : Nat) (h : HelarHdr) : Mach :=
  if (path m p).st ≠ .establishing then m else
  let b := h.body
  let (pay, win) := helarOffer m p
  let v := fld b 18 1
  let mask := fld b 24 8
  let aPay := fld b 36 2
  let aWin := fld b 38 2
  let keep := fld b 40 4
  let rto := fld b 44 4
  let cap := if v = 0x20 then 256 else if v = 0x11 then 64 else 32
  let ok := b.length == 64 && fld b 16 2 == 0 && (helarVersions m p).contains v && (mask &&& helarFeatures v) == mask &&
    (if bit mask 1 then decide (1024 ≤ aPay) && decide (aPay ≤ max 1024 pay) && decide (aPay ≤ 8192) && aPay % 64 == 0 else aPay == 1024) &&
    decide (1 ≤ aWin) && decide (aWin ≤ min cap win) &&
    (if bit mask 2 then decide (100 ≤ keep) && decide (keep ≤ 10000) else keep == 100) &&
    (if bit mask 2 then decide (500 ≤ rto) && decide (rto ≤ 100000) else rto == 1000) && fld b 32 4 != 0
  if !ok then pathFails m p 7
  else if b.take 16 ≠ pathIdent m p then pathFails m p 3
  else if fld b 20 4 < 3600 then pathFails m p 7
  else
    let m := modHelar m p (fun x => { x with
      peerToken := fld b 32 4, version := v, mask := mask, payload := aPay, window := aWin, keepaliveMs := keep, rtoUs := rto, txNext := 0,
      rxNext := 0, lastRx := m.now })
    pathUp m p

/-- CAP_REQ from the partner on an Operational path means that it has restarted (R621): answered by CAP_RSP as R618 settles, the
path Failed with reason 2. -/
def helarCapReq (m : Mach) (p : Nat) (h : HelarHdr) : Mach :=
  if (path m p).st ≠ .operational then m else
  let b := h.body
  let (pay, win) := helarOffer m p
  let n := min 3 (fld b 18 1)
  let vs := (List.range n).map (fun i => fld b (20 + i) 1)
  let own := (path m p).helar
  let head (st v : Nat) : Bytes := padTo 16 m.ident ++ le 2 st ++ le 1 v ++ le 1 0 ++ le 4 0
  let rsp := match settle vs (imgFld m 0x000B p 3 1) (fld b 24 8) pay win (fld b 36 2) (fld b 38 2) (fld b 40 4) (fld b 44 4) with
    | none => head 1 0 ++ padTo 40 []
    | some (v, mask, sp, sw, sk, sr) => head 0 v ++ le 8 mask ++ le 4 own.token ++ le 2 sp ++ le 2 sw ++ le 4 sk ++ le 4 sr ++ le 16 0
  let m := helarOut m p (helarHeader { own with mask := 0 } 0 2 0 0 (fld b 32 4) rsp ++ rsp)
  pathFails m p 2

/-- A datagram reaches a Helar path; in Hold it waits behind the flow control and is taken at HOLD_EXIT by being sent again. -/
def helarReceive (m : Mach) (p : Nat) (d : Bytes) (checksumGood : Bool) : Mach :=
  let h := helarHdr d
  if pathKind m p ≠ 1 then m
  else if !helarValid m p h checksumGood then helarDiscard m p
  else if h.type = 1 then helarCapReq (helarSeen m p) p h
  else if h.type = 2 then helarCapRsp (helarSeen m p) p h
  else if !((path m p).st == .operational || (path m p).st == .draining) then helarDiscard m p
  else
    let m := helarAckIn (helarSeen m p) p h
    match h.type with
    | 5 => pathFails m p 2
    | 0x11 => helarSegment m p h
    | _ => m

/-! ## Receiving and sending frames (R590 to R606) -/

/-- A frame settles (R594). -/
def settleFrame (m : Mach) (l : Nat) (f : Bytes) : Mach :=
  let x := frameInfo f
  let own := linkMac m l
  let mc := (link m l).mcast.toNat
  let solicit := x.etype == 0x86DD && x.dst / 2 ^ 32 == 0x3333
  if x.dst ≠ own ∧ x.dst ≠ 0xFFFFFFFFFFFF ∧ !(bit mc 63 && x.dst == mc % 2 ^ 48) ∧ !(solicit && x.proto == 58 && (ndReply m l x).isSome) then linkDrop m l 1
  else if isPtp x ∧ (ptpMasterOf m l).isSome then m
  else
    match arpReply m l x, ndReply m l x with
    | some r, _ => emit m (.frame l r)
    | none, some r => emit m (.frame l r)
    | none, none =>
      if isResolution x then
        let who := beVal (if x.etype = 0x0806 then mapV4 (bslice x.l3 14 4) else bslice x.l4 8 16)
        let mac := beVal (if x.etype = 0x0806 then bslice x.l3 8 6 else bslice x.l4 26 6)
        modLink m l (fun y => { y with arp := tset y.arp who mac })
      else
        let helar := if x.proto = 17 ∧ x.dst6 = linkAddr m l then x.port.bind (helarPathAt m l) else none
        match helar with
        | some p => helarReceive m p (x.l4.drop 8) (x.l4Checked && x.l4Good)
        | none =>
          match classify m l x with
          | none => linkDrop m l 2
          | some (ls, q, rule) => placeFrame m l ls q rule f x

/-- A MAC control frame, which the MAC takes itself (R589: IEEE 802.3 Annex 31B, or IEEE 802.1Q priority-based flow control). -/
def isMacControl (f : Bytes) : Bool := beVal (bslice f 12 2) == 0x8808

/-- The partner's PAUSE, or its PFC on the priorities it names, holds transmission for its quanta of 512 bit times (R589, R641); the record
says which of the two the link takes. Any other MAC control frame does nothing. -/
def takePause (m : Mach) (l : Nat) (f : Bytes) : Mach :=
  let pfc := bit (imgFld m 0x000C l 1 1) 2
  let rate := if imgFld m 0x000C l 0 1 ≤ 2 then 100 else 50
  let held (quanta : Nat) : Nat := m.now + ceilDiv (512 * quanta) rate
  let op := beVal (bslice f 14 2)
  if op = 0x0001 ∧ !pfc then modLink m l (fun x => { x with pausedTill := List.replicate 8 (held (beVal (bslice f 16 2))) })
  else if op = 0x0101 ∧ pfc then
    modLink m l (fun x => { x with pausedTill := (List.range 8).map (fun i =>
      if (beVal (bslice f 16 2)).testBit i then held (beVal (bslice f (18 + 2 * i) 2)) else x.pausedTill.getD i 0) })
  else m

/-- The priority of a frame: of its tag, 0 without one. -/
def framePrio (f : Bytes) : Nat := if beVal (bslice f 12 2) = 0x8100 then beVal (bslice f 14 2) / 8192 else 0

/-- The partner's flow control holds a frame. -/
def txHeld (m : Mach) (l : Nat) (f : Bytes) : Bool := decide (m.now < (link m l).pausedTill.getD (framePrio f) 0)

/-- A frame's last byte has arrived (R590, R593, R607). -/
def receiveFrame (m : Mach) (l : Nat) (f : Bytes) (fcsGood : Bool) : Mach :=
  if (link m l).st ≠ .up then m
  else if !fcsGood then linkDrop m l 0
  else
    let m := modLink m l (fun x => { x with rx := sat 0xFFFFFFFF (x.rx + 1) })
    if m.mode.st = .hold then linkDrop m l 5
    else if isMacControl f then takePause m l f
    else settleFrame m l f

/-- A transmit queue of a lease with a descriptor that may be taken now: enabled, posted, and not one posted after a QUIESCE (R749). -/
def txReady (m : Mach) (link l q : Nat) : Bool :=
  let x := fq m l q
  fqOn m l q link && decide (x.done < x.posted) && (match x.stopAt with | some s => decide (x.done < s) | none => true) &&
  ((lease m l).st == .active || (lease m l).st == .quiescing || (lease m l).st == .quiesced)

/-- A descriptor is as R604 asks. -/
def txDescOk (m : Mach) (link : Nat) (d : Bytes) : Bool :=
  fld d 0 8 % 8 == 0 && decide (60 ≤ fld d 8 2) && decide (fld d 8 2 ≤ linkMaxFrame m link - 4) && fld d 10 1 % 128 < 8 &&
  fld d 12 4 == 0 && fld d 24 8 == 0

/-- Checksums that the descriptor asks the link to insert (R589, R604). -/
def insertSums (f : Bytes) (flags : Nat) : Bytes :=
  let x := frameInfo f
  let off := if x.vlan.isSome then 18 else 14
  let f := if bit flags 0 && x.v4 then
      let ihl := 4 * (fld x.l3 0 1 % 16)
      let h := patch (x.l3.take ihl) 10 (be 2 0)
      patch f (off + 10) (be 2 (0xFFFF - onesSum h 0))
    else f
  if bit flags 1 && x.ip && !x.frag && (x.proto == 6 || x.proto == 17) then
    let at_ := if x.proto = 17 then 6 else 16
    let l4 := patch x.l4 at_ (be 2 0)
    let pseudo := (if x.v4 then onesSum (bslice x.l3 12 8) 0 else onesSum (bslice x.l3 8 32) 0) + x.proto + l4.length
    let s := 0xFFFF - onesSum l4 pseudo
    let s := if x.proto = 17 ∧ s = 0 then 0xFFFF else s
    let l4off := off + (if x.v4 then 4 * (fld x.l3 0 1 % 16) else 40)
    patch f (l4off + at_) (be 2 s)
  else f

/-- A transmit descriptor completes with a status and a stamp (R604, R605). -/
def txComplete (m : Mach) (link l q : Nat) (d : Bytes) (status : Nat) (stamp : Nat) : Mach :=
  let fl := fld d 10 1 % 128 + 128 * fqPhase m l q
  fqComplete m link l q (patch (patch (patch d 10 (le 1 fl)) 11 (le 1 status)) 16 (le 8 stamp))

/-- The transmit queue of a lease that is next in the round (R606). -/
def txNextQueue (m : Mach) (link l : Nat) : Option Nat :=
  let start := tget (link |> fun k => (Sys2Proof.Machine.link m k).nextQ) l 16
  ((List.range 16).map (fun i => 16 + (start - 16 + i) % 16)).find? (fun q => txReady m link l q)

/-- POSTED of the link's transmit queues that are on is read (R548, R605); a lease that is not listed is as after reset, its queues off. -/
def txPoll (m : Mach) (l : Nat) : Mach :=
  ((List.range 256).filter (fun ls => (tfind m.leases ls).isSome)).foldl (fun m ls => (List.range 16).foldl (fun m i =>
    if fqOn m ls (16 + i) l then fqPosted m (0x0800 + l) ls (16 + i) else m) m) m

/-- The link serves one descriptor: of the lease that R736 chooses among those with a frame, in turn over its queues (R605, R606). A frame that
the partner's flow control holds stays posted. -/
def transmitFrame (m : Mach) (l : Nat) : Mach :=
  if m.mode.st = .hold then m else
  let src := 0x0800 + l
  let m := txPoll m l
  let elig := (List.range 256).filter (fun ls => (txNextQueue m l ls).isSome)
  let share (ls : Nat) : Nat := bits (lease m ls).shares.toNat 31 24
  let (pick, fair) := fairPick (link m l).fair elig share
  let m := modLink m l (fun x => { x with fair := fair })
  match pick with
  | none => m
  | some ls =>
    let q := (txNextQueue m l ls).getD 16
    let m := modLink m l (fun x => { x with nextQ := tset x.nextQ ls (16 + (q - 15) % 16) })
    let x := fq m ls q
    match rdLease m (linkHub l) src ls (fqBase m ls q + 64 + 32 * (x.done % fqSize m ls q)) 32 with
    | (.error _, m) => m
    | (.ok d, m) =>
      let len := fld d 8 2
      if (link m l).st ≠ .up then txComplete m l ls q d 1 0
      else if !txDescOk m l d then txComplete m l ls q d 2 0
      else match rdLease m (linkHub l) src ls (fld d 0 8) len with
        | (.error _, m) => txComplete m l ls q d 2 0
        | (.ok f, m) =>
          if txHeld m l f then m else
          let m := emit m (.frame l (insertSums f (fld d 10 1)))
          let m := modLink m l (fun y => { y with tx := sat 0xFFFFFFFF (y.tx + 1), fair := fairCharge y.fair ls (len + 4) (share ls) })
          if bit (fld d 10 1) 2 then
            let (t, m) := takeStamp m src
            txComplete m l ls q d 0 t.toNat
          else txComplete m l ls q d 0 0

/-- Every posted transmit descriptor of a queue completes as QUEUE_DISABLED (R644, R749). -/
def txFlush (fuel : Nat) (m : Mach) (link l q : Nat) : Mach :=
  match fuel with
  | 0 => m
  | f + 1 =>
    let x := fq m l q
    if x.posted ≤ x.done then m else
    match rdLease m (linkHub link) (0x0800 + link) l (fqBase m l q + 64 + 32 * (x.done % fqSize m l q)) 32 with
    | (.error _, m) => m
    | (.ok d, m) => txFlush f (txComplete m link l q d 3 0) link l q

/-! ## Link states (R592) -/

def setLinkState (m : Mach) (l : Nat) (st : LinkState) : Mach := modLink m l (fun x => { x with st := st, since := m.now, pausedTill := if st = .up then x.pausedTill else [] })

/-- A failed training attempt: the sixteenth in a row fails the link (R592). -/
def linkAttemptFailed (m : Mach) (l : Nat) : Mach :=
  let n := (link m l).attempts + 1
  let m := modLink m l (fun x => { x with attempts := n, since := m.now })
  if 16 ≤ n then
    raiseErr (setUState (setLinkState m l .failed) 0x06 l .failed) 0x0070 (0x0800 + l) (le 2 n)
  else m

/-- ONLINE and OFFLINE of `LINK_CTL` (R592, R640). -/
def linkCmd (m : Mach) (l cmd : Nat) : Mach :=
  let m := modLink m l (fun x => { x with cmd := cmd })
  match cmd, (link m l).st with
  | 1, .offline | 1, .failed =>
    if imgFld m 0x000C l 0 1 = 0 then m
    else setUState (setLinkState (modLink m l (fun x => { x with attempts := 0 })) l .training) 0x06 l .active
  | 2, _ =>
    let wasUp := (link m l).st == .up
    let m := setUState (setLinkState m l .offline) 0x06 l .offline
    if wasUp then linkPathsFail m l 1 else m
  | _, _ => m

/-! ## PCIe (R609 to R613) -/

/-- The lease to which a function is assigned: the kind-0x0008 record whose function entries name it (R753, R609). -/
def functionLease (m : Mach) (p rid : Nat) : Option Nat :=
  (List.range 256).find? (fun l =>
    (List.range (min 4 (imgFld m 0x0008 l 6 1))).any (fun i =>
      imgFld m 0x0008 l (24 + 4 * i) 1 == p && imgFld m 0x0008 l (26 + 4 * i) 2 == rid))

/-- The NVMe path whose controller a function is (R577). -/
def functionPath (m : Mach) (p rid : Nat) : Option Nat :=
  (List.range 64).find? (fun k => pathKind m k == 2 && pathLink m k == p && imgFld m 0x000B k 4 2 == rid)

/-- A DMA request that is not performed (R610): completer abort, record, event. -/
def dmaFault (m : Mach) (p rid : Nat) (ls : Option Nat) (addr : Nat) : Mach :=
  let m := modPcie m p (fun x => { x with dmaFaults := sat 0xFFFF (x.dmaFaults + 1) })
  let m := emit m (.dmaAnswer p rid false [])
  let m := raiseErrD m 0x0073 (0x0880 + p) (0x0880 + p) (le 2 rid ++ le 6 0 ++ le 8 addr) ls none 0
  match ls with
  | some l => raiseEvent m 0x07 (0x0880 + p) l 3 (le 2 rid ++ le 6 0 ++ le 8 addr)
  | none => m

/-- The 4 KiB pages that the PRP entries of a step's command name. -/
def prpPages (m : Mach) (l : Nat) (s : Step) : List Nat :=
  (List.range (if s.count = 0 then 0 else (s.buf % 4096 + s.count + 4095) / 4096)).filterMap (fun i =>
    let va := s.buf / 4096 * 4096 + 4096 * i
    match walk m l va with
    | .ok e => some (e.pa + va % 2 ^ e.bits)
    | .error _ => none)

/-- A range of addresses of an NVMe controller's outstanding commands, or of the channel queue region (R610). -/
def nvmeMayReach (m : Mach) (k addr len : Nat) : Bool :=
  let q := m.chn.queue.toNat
  let inQueue := bit q 0 && decide (bits q 51 26 * 2 ^ 26 ≤ addr) && decide (addr + len ≤ bits q 51 26 * 2 ^ 26 + 2 ^ 26)
  inQueue || (m.chn.txns.any (fun t => t.2.path == k && t.2.outSteps.any (fun i =>
    let st := (programOf m (t.2.cp / 8) t.2).1
    match st[i]? with
    | some s => prpPages m t.2.id.lease s |>.any (fun pg => decide (pg ≤ addr) && decide (addr + len ≤ pg + 4096))
    | none => false)))

/-- A memory request of a function (R610, R749). -/
def pcieDma (m : Mach) (p rid : Nat) (write : Bool) (addr len : Nat) (data : Bytes) : Mach :=
  let src := 0x0880 + p
  match functionLease m p rid with
  | some l =>
    let st := (lease m l).st
    if st == .stopped || st == .resetting || st == .removing then
      let m := modLease m l (fun x => { x with dDma := sat 0xFFFF (x.dDma + 1) })
      emit m (.dmaAnswer p rid false [])
    else if write then
      match canWrite m p l addr data.length with
      | (false, m) => dmaFault m p rid (some l) addr
      | (true, m) => emit (wrLease m p src l addr data).2 (.dmaAnswer p rid true [])
    else
      match rdLease m p src l addr len with
      | (.ok b, m) => emit m (.dmaAnswer p rid true b)
      | (.error .poison, m) => emit m (.dmaAnswer p rid false [])
      | (.error (.xlate _), m) => dmaFault m p rid (some l) addr
  | none =>
    match functionPath m p rid with
    | none => dmaFault m p rid none addr
    | some k =>
      if !nvmeMayReach m k addr (if write then data.length else len) then dmaFault m p rid none addr
      else if write then emit (wrPhys m src addr data) (.dmaAnswer p rid true [])
      else match rdPhys m src addr len with
        | (some b, m) => emit m (.dmaAnswer p rid true b)
        | (none, m) => emit m (.dmaAnswer p rid false [])

end Sys2Proof.Machine
end

