-- ==== Sys2Proof/Machine/ChanCmds.lean ====
section
/-! DEFINITION. The commands of the channel subsystem (R540 to R588): path, processor and journal commands, transactions, paths
and NVMe controllers. -/

namespace Sys2Proof.Machine

/-- PATH_ONLINE: `CHN_PATH_CMD` 1 (R542, R585). -/
def execPathOnline (a : Actor) (p : PathId) (s : State) : Host.Outcome State Fault Refusal :=
  runM s (ctlWrite a 0x00 0 (0x1008 + 16 * p.val) (fun m => if unitsRun m then pathCmd m p.val 1 else m))
/-- PATH_OFFLINE: `CHN_PATH_CMD` 2 (R542, R585). -/
def execPathOffline (a : Actor) (p : PathId) (s : State) : Host.Outcome State Fault Refusal :=
  runM s (ctlWrite a 0x00 0 (0x1008 + 16 * p.val) (fun m => if unitsRun m then pathCmd m p.val 2 else m))

/-- `CP_CMD` 1: an orderly take-out; the group adopts the work, and no record is written (R569, R586). -/
def cpOfflineNow (m : Mach) (c : Nat) : Mach :=
  if ustate m 0x08 c ≠ .active then m else
  let m := setUState m 0x08 c .draining
  setUState (cpAdopt m c false).2 0x08 c .offline

def execCpOffline (a : Actor) (c : CpId) (s : State) : Host.Outcome State Fault Refusal :=
  runM s (ctlWrite a 0x08 c.val 0x0108 (fun m => cpOfflineNow m c.val))

/-- `CP_CMD` 2: an Offline processor returns to its group (R586, R826). -/
def cpOnlineNow (m : Mach) (c : Nat) : Mach := if ustate m 0x08 c = .offline then setUState m 0x08 c .active else m

def execCpOnline (a : Actor) (c : CpId) (s : State) : Host.Outcome State Fault Refusal :=
  runM s (ctlWrite a 0x08 c.val 0x0108 (fun m => cpOnlineNow m c.val))

/-- CP_FAILURE: the processors of the group adopt the transactions of one that fails (R566, R569). -/
def cpFails (m : Mach) (c : Nat) : Mach :=
  if ustate m 0x08 c = .failed ∨ ustate m 0x08 c = .reset then m else
  let (n, m) := cpAdopt (setUState m 0x08 c .failed) c true
  raiseErr m 0x0063 (0x0900 + c) (le 2 n)

def execCpFailure (c : CpId) (s : State) : Host.Outcome State Fault Refusal := runUnits s (fun m => cpFails m c.val)

/-- CHN_JRN_MOVE: the journal is Moving to a new base (R582). -/
def jrnMove (v : Word) (m : Mach) : Mach :=
  modChn m (fun c => { c with journal := 3, jrnMove := some (bits v.toNat 51 22 * 2 ^ 22) })

def execChnJrnMove (a : Actor) (v : Word) (s : State) : Host.Outcome State Fault Refusal := runM s (ctlWrite a 0x00 0 0x0608 (jrnMove v))

/-- The entry of an open transaction as the move copies it (R582): what the old region holds, byte for byte, where it can be read and is the
latest write; else the entry as the channel processor keeps it (R571; DESIGN CHOICE, log entry 111). -/
def movedEntry (m : Mach) (t : Nat) (x : Txn) : Bytes × Mach :=
  let pa := bits m.chn.jrn.toNat 51 22 * 2 ^ 22 + 128 * t
  let old := cohLine m (pa / 256)
  let b := lineSlice old.1 (pa % 256) 128
  if lineWritable m (pa / 256) && !old.2 && fld b 124 4 == crc32c (b.take 124) && fld b 0 8 == x.id.num.toNat && fld b 76 4 == x.writes then (b, m)
  else
    let (stamp, m) := takeStamp m (0x0900 + x.cp)
    (entryBytes x stamp, m)

/-- JOURNAL_MOVE_COMPLETE: every open transaction's entry stands in the new region, which becomes the journal (R582). -/
def jrnMoved (m : Mach) : Mach :=
  match m.chn.jrnMove with
  | none => m
  | some nb =>
    let m := (openTxns m).foldl (fun m p =>
      let (b, m) := movedEntry m p.1 p.2
      wrPhys m (0x0900 + p.2.cp) (nb + 128 * p.1) b) m
    modChn m (fun c => { c with jrn := BitVec.ofNat 64 (nb + 1), jrnMove := none, journal := 1 })

def execJournalMoveComplete (s : State) : Host.Outcome State Fault Refusal := runUnits s jrnMoved

/-- The completed transactions whose records wait for the sump, in the order in which they completed (R574). -/
def sumpWaiters (m : Mach) : List Nat :=
  let w := m.chn.txns.filter (fun p => p.2.sumpWaiting)
  (w.mergeSort (fun a b => decide (a.2.order ≤ b.2.order))).map (fun p => p.1)

/-- Waiting records are written as far as the sump takes them, channel records first (R573, R574). -/
def sumpDrain (m : Mach) : Mach :=
  let m := (sumpWaiters m).foldl (fun m t =>
    match txn m t with
    | some x => if m.chn.txns.any (fun p => p.2.sumpWaiting && decide (p.2.order < x.order)) then m
                else txnToSump m t { x with sumpWaiting := false } x.sumpReason
    | none => m) m
  if (sumpWaiters m).isEmpty then jobsDrain m else m

/-- A write to `CHN_SUMP` (R573, R574, R581, R776): refused while a transaction is open but for a write that only raises SIZE, and
one that changes BASE or SIZE while SUMP_LOST; a system vector is refused. -/
def sumpWrite (v : Word) (m : Mach) : Option Mach :=
  let n := v.toNat
  let old := m.chn.sump.toNat
  let moved := bits n 47 6 ≠ bits old 47 6 ∨ bits n 63 60 ≠ bits old 63 60
  let raises := bits n 59 0 = bits old 59 0 ∧ bits old 63 60 < bits n 63 60
  let size := if 11 < bits n 63 60 then bits old 63 60 else bits n 63 60
  let new := pack [(60, 4, size), (48, 12, bits n 59 48), (6, 42, bits n 47 6), (0, 1, n % 2)]
  if bits n 59 48 < 16 then none
  else if m.chn.sumpLost ∧ moved then
    let m := modChn m (fun c => { c with sump := new, sumpLost := false, sumpTail := 0, sumpHead := 0 })
    some (sumpDrain m)
  else if openTxns m ≠ [] ∧ !raises then none
  else
    let keep := bits n 47 6 == bits old 47 6
    let tail := bif keep then m.chn.sumpTail else 0
    let head := bif keep then m.chn.sumpHead else 0
    some (modChn m (fun c => { c with sump := new, sumpTail := tail, sumpHead := head }))

def execChnSumpReplace (a : Actor) (v : Word) (s : State) : Host.Outcome State Fault Refusal :=
  runM s (ctlWriteRule a 0x00 0 0x0628 (sumpWrite v))

/-- SUMP_SPACE_AVAILABLE: the sump's HEAD has advanced; waiting records are written (R573). -/
def execSumpSpaceAvailable (s : State) : Host.Outcome State Fault Refusal := runUnits s sumpDrain

/-- JOURNAL_ENTRY_WRITTEN (R554, R561). -/
def execJournalEntryWritten (t : SlotId) (s : State) : Host.Outcome State Fault Refusal := runUnits s (fun m => journalSubmitted m t.val)
/-- TXN_ISSUE (R561, R567). -/
def execTxnIssue (t : SlotId) (s : State) : Host.Outcome State Fault Refusal := runUnits s (fun m => txnIssueOn m t.val)
/-- TXN_SENT (R561). -/
def execTxnSent (t : SlotId) (s : State) : Host.Outcome State Fault Refusal := runUnits s (fun m => txnSentAll m t.val)
/-- NVME_COMPLETION (R561, R563). -/
def execNvmeCompletion (p : PathId) (t : SlotId) (step : Fin 64) (status gen : BitVec 16) (data : Bytes) (s : State) :
    Host.Outcome State Fault Refusal :=
  runUnits s (fun m => nvmeDone m p.val t.val step.val status.toNat gen.toNat data)

/-- ISSUE_DEADLINE_EXPIRY: a Journalled transaction's deadline passes (R561). -/
def deadlineExpires (m : Mach) (t : Nat) : Mach :=
  match txn m t with
  | none => m
  | some x =>
    if x.st = .journalled ∧ x.id.deadline ≠ 0 ∧ x.id.deadline.toNat ≤ (timeNow m).toNat then txnComplete m t x 5 (lostOutcome m x) else m

def execIssueDeadlineExpiry (t : SlotId) (s : State) : Host.Outcome State Fault Refusal := runUnits s (fun m => deadlineExpires m t.val)

/-- PARTNER_WAIT_EXPIRY: no path has been Operational for the endpoint's partner wait (R561, R566). -/
def partnerWaitExpires (m : Mach) (t : Nat) : Mach :=
  match txn m t with
  | none => m
  | some x =>
    let ps := epPaths m x.id.lease x.id.ep
    let since := ps.foldl (fun a p => max a (path m p).lastOp) x.waitSince
    if x.st = .journalled ∧ !ps.any (operational m) ∧ since + partnerWait m x.id.lease x.id.ep ≤ m.now then
      let m := txnComplete m t x 3 (lostOutcome m x)
      raiseErr m 0x0061 (0x0900 + x.cp) (le 1 (ps.headD 0xFF) ++ le 1 0 ++ le 2 1)
    else m

def execPartnerWaitExpiry (t : SlotId) (s : State) : Host.Outcome State Fault Refusal := runUnits s (fun m => partnerWaitExpires m t.val)

/-- A controller reset (R568): the generation rises, the commands that were out are void. -/
def nvmeReset (m : Mach) (p : Nat) : Mach :=
  if pathKind m p ≠ 2 ∨ (path m p).st ≠ .operational ∨ (path m p).resetting then m else
  let m := modPath m p (fun x => { x with resetting := true, ready := false, resetAt := m.now, gen := (x.gen + 1) % 65536 })
  let m := modChn m (fun c => { c with nvmeResets := sat 0xFFFF (c.nvmeResets + 1) })
  let m := emit m (.nvmeAdmin p "reset controller")
  (pathTxns m p).foldl (fun m q => setTxnSt m q.1 { q.2 with outSteps := [] }) m

/-- COMPLETION_WAIT_EXPIRY: for this transaction the path counts as lost (R561); an NVMe controller is reset (R568). -/
def completionWaitExpires (m : Mach) (t : Nat) : Mach :=
  match txn m t with
  | none => m
  | some x =>
    if x.st ≠ .awaiting ∨ m.now < x.awaitSince + completionWait m x.id.lease x.id.ep then m
    else if pathKind m x.path = 2 then nvmeReset (setTxnSt m t { x with awaitSince := m.now }) x.path
    else (txnLosesPath m t x).2

def execCompletionWaitExpiry (t : SlotId) (s : State) : Host.Outcome State Fault Refusal :=
  runUnits s (fun m => completionWaitExpires m t.val)

/-- PATH_FAILURE: an Operational path fails for a reason of R585 (R542). -/
def pathFailure (m : Mach) (p reason : Nat) : Mach := if operational m p then pathFails m p reason else m

def execPathFailure (p : PathId) (reason : Byte) (s : State) : Host.Outcome State Fault Refusal :=
  runUnits s (fun m => pathFailure m p.val reason.toNat)

/-- TXN_COMPLETION_RECORD (R561, R572, R573). With ANSWER_RELEASE a Helar path is sent the number in a RELEASE message (R634). -/
def txnRecordOut (m : Mach) (t : Nat) : Mach :=
  match txn m t with
  | none => m
  | some x =>
    let m := txnRecord m t
    let out := match txn m t with | some y => y.st == .reported | none => false
    if out && x.st == .completed && x.everIssued && pathKind m x.path == 1 && operational m x.path && bit (path m x.path).helar.mask 4 then
      helarQueue m x.path 0x12 32768 (le 8 x.id.num.toNat)
    else m

def execTxnCompletionRecord (t : SlotId) (s : State) : Host.Outcome State Fault Refusal := runUnits s (fun m => txnRecordOut m t.val)

/-- ESTABLISH_TIMEOUT: 2 s have passed (R542). -/
def establishTimeout (m : Mach) (p : Nat) : Mach :=
  if (path m p).st = .establishing ∧ (path m p).estAt + 2000000000 ≤ m.now then pathFails m p 7 else m

def execEstablishTimeout (p : PathId) (s : State) : Host.Outcome State Fault Refusal := runUnits s (fun m => establishTimeout m p.val)

/-- PATH_DRAINED: no transaction of the path is Issued or Awaiting (R542); a Helar path is closed (R627). -/
def pathDrained (m : Mach) (p : Nat) : Mach :=
  if (path m p).st ≠ .draining ∨ pathTxns m p ≠ [] then m else
  let m := if pathKind m p = 1 then helarSend m p 5 0 0 [] else emit m (.nvmeAdmin p "delete queues")
  modPath m p (fun x => { x with st := .offline, helar := HelarSt.reset })

def execPathDrained (p : PathId) (s : State) : Host.Outcome State Fault Refusal := runUnits s (fun m => pathDrained m p.val)

/-- NVME_CONTROLLER_RESET: fatal status (R568). -/
def execNvmeControllerReset (p : PathId) (s : State) : Host.Outcome State Fault Refusal := runUnits s (fun m => nvmeReset m p.val)

/-- NVME_READY: the controller answers (R541 to R543, R568): establishment succeeds where the namespace is as R541 and R543 ask; after
a reset the steps not done are issued again, each transaction's entry with the new generation before them (R558, R559). -/
def nvmeReady (m : Mach) (p : Nat) (i : NvmeIdent) : Mach :=
  let x := path m p
  if pathKind m p ≠ 2 then m
  else if x.st = .establishing then
    if i.metadata ∨ i.protection ∨ (i.lbaShift ≠ 9 ∧ i.lbaShift ≠ 12) then pathFails m p 7
    else if le 16 i.nguid.toNat ≠ pathIdent m p then pathFails m p 3
    else pathUp (modPath m p (fun y => { y with ready := true, lbaShift := i.lbaShift.toNat, gen := (y.gen + 1) % 65536 })) p
  else if x.resetting then
    let m := modPath m p (fun y => { y with ready := true, resetting := false })
    let (n, m) := (pathTxns m p).foldl (fun (a : Nat × Mach) q =>
      let m := journal a.2 q.1 { q.2 with gen := (path m p).gen, awaitSince := m.now }
      let x := (txn m q.1).getD q.2
      let (steps, m) := programOf m (x.cp / 8) x
      let m := nvmeIssue m q.1 p x steps
      (a.1 + (match txn m q.1 with | some y => y.outSteps.length | none => 0), m)) (0, m)
    raiseErr m 0x0062 (0x0900 + 8 * pathHub m p) (le 1 p ++ le 1 0 ++ le 2 (path m p).gen ++ le 2 n)
  else m

def execNvmeReady (p : PathId) (i : NvmeIdent) (s : State) : Host.Outcome State Fault Refusal := runUnits s (fun m => nvmeReady m p.val i)

/-- NVME_READY_TIMEOUT: the controller is not ready within CAP.TO (R568). -/
def nvmeReadyTimeout (m : Mach) (p : Nat) : Mach :=
  if pathKind m p = 2 ∧ ((path m p).resetting ∨ (path m p).st = .establishing) then pathFails m p 5 else m

def execNvmeReadyTimeout (p : PathId) (s : State) : Host.Outcome State Fault Refusal := runUnits s (fun m => nvmeReadyTimeout m p.val)

end Sys2Proof.Machine
end

