-- ==== Sys2Proof/Machine/Crypto.lean ====
section
/-! DEFINITION. The algorithms of R692, from the standards that it names: AES with GCM, CTR, XTS and key wrap; ChaCha20-Poly1305;
SHA-2 and HMAC; ECDSA over P-256 and P-384 with RFC 6979 nonces; X25519. Byte strings are lists of numbers below 256 here. -/

namespace Sys2Proof.Machine

/-! ## Bytes and words -/

/-- Byte strings as the algorithms take them, and back. -/
def nb (b : Bytes) : List Nat := b.map BitVec.toNat
def bn (l : List Nat) : Bytes := l.map (BitVec.ofNat 8)

/-- The number that bytes spell, the first byte highest or lowest; and n bytes of a number. -/
def nbe (l : List Nat) : Nat := l.foldl (fun a x => 256 * a + x) 0
def nle (l : List Nat) : Nat := nbe l.reverse
def toLe (n v : Nat) : List Nat := (List.range n).map (fun i => v >>> (8 * i) % 256)
def toBe (n v : Nat) : List Nat := (toLe n v).reverse

/-- The exclusive or of two byte strings, as long as the shorter. -/
def xorB (a b : List Nat) : List Nat := List.zipWith Nat.xor a b

/-- The pieces of k bytes of a string, the last one shorter where it does not divide. -/
def chunks (fuel k : Nat) (l : List Nat) : List (List Nat) :=
  match fuel with
  | 0 => []
  | f + 1 => if l.isEmpty then [] else l.take k :: chunks f k (l.drop k)

def chunksOf (k : Nat) (l : List Nat) : List (List Nat) := chunks (l.length + 1) k l

/-! ## AES (FIPS 197) -/

/-- The S-box and its inverse, entry x at bits [8x+7:8x]. -/
def aesSbox : Nat :=
  0x16BB54B00F2D99416842E6BF0D89A18CDF2855CEE9871E9B948ED9691198F8E19E1DC186B95735610EF6034866B53E708A8BBD4B1F74DDE8C6B4A61C2E2578BA08AE7A65EAF4566CA94ED58D6D37C8E779E4959162ACD3C25C2406490A3A32E0DB0B5EDE14B8EE4688902A22DC4F816073195D643D7EA7C41744975FEC130CCDD2F3FF1021DAB6BCF5389D928F40A351A89F3C507F02F94585334D43FBAAEFD0CF584C4A39BECB6A5BB1FC20ED00D153842FE329B3D63B52A05A6E1B1A2C830975B227EBE28012079A059618C323C7041531D871F1E5A534CCF73F362693FDB7C072A49CAFA2D4ADF04759FA7DC982CA76ABD7FE2B670130C56F6BF27B777C63
def aesInvSbox : Nat :=
  0x7D0C2155631469E126D677BA7E042B17619953833CBBEBC8B0F52AAE4D3BE0A0EF9CC9939F7AE52D0D4AB519A97F51605FEC8027591012B131C7078833A8DD1FF45ACD78FEC0DB9A2079D2C64B3E56FC1BBE18AA0E62B76F89C5291D711AF1476EDF751CE837F9E28535ADE72274AC9673E6B4F0CECFF297EADC674F4111913A6B8A130103BDAFC1020F3FCA8F1E2CD00645B3B80558E4F70AD3BC8C00ABD890849D8DA75746155EDAB9EDFD5048706C92B6655DCC5CA4D41698688664F6F87225D18B6D49A25B76B224D92866A12E084EC3FA420B954CEE3D23C2A632947B54CBE9DEC444438E3487FF2F9B8239E37CFBD7F3819EA340BF38A53630D56A0952

def subByte (x : Nat) : Nat := aesSbox >>> (8 * x) % 256
def invSubByte (x : Nat) : Nat := aesInvSbox >>> (8 * x) % 256

/-- Multiplication by x in the field of AES. -/
def xtime (a : Nat) : Nat := if a < 128 then 2 * a else Nat.xor (2 * a) 0x11B

/-- Multiplication in the field of AES by a constant below 16. -/
def gmul (c a : Nat) : Nat :=
  let a2 := xtime a
  let a4 := xtime a2
  let a8 := xtime a4
  let p (i v : Nat) : Nat := if bit c i then v else 0
  Nat.xor (Nat.xor (p 0 a) (p 1 a2)) (Nat.xor (p 2 a4) (p 3 a8))

/-- The rows shifted left by their number (column-major state), and back. -/
def shiftRows (s : List Nat) : List Nat := (List.range 16).map (fun i => s.getD ((i + 4 * (i % 4)) % 16) 0)
def invShiftRows (s : List Nat) : List Nat := (List.range 16).map (fun i => s.getD ((i + 16 - 4 * (i % 4)) % 16) 0)

/-- Each column multiplied by the matrix whose first row is given. -/
def mixWith (c0 c1 c2 c3 : Nat) (s : List Nat) : List Nat :=
  (chunksOf 4 s).flatMap (fun c => (List.range 4).map (fun r =>
    let at_ (k : Nat) : Nat := c.getD ((r + k) % 4) 0
    Nat.xor (Nat.xor (gmul c0 (at_ 0)) (gmul c1 (at_ 1))) (Nat.xor (gmul c2 (at_ 2)) (gmul c3 (at_ 3)))))

/-- The words of the key schedule of nk key words, newest first, n more of them. -/
def aesExpand (n nk i rcon : Nat) (w : List (List Nat)) : List (List Nat) :=
  match n with
  | 0 => w
  | k + 1 =>
    let t := w.headD []
    let u := if i % nk = 0 then xorB ((t.drop 1 ++ t.take 1).map subByte) [rcon, 0, 0, 0]
             else if nk = 8 ∧ i % nk = 4 then t.map subByte else t
    aesExpand k nk (i + 1) (if i % nk = 0 then xtime rcon else rcon) (xorB (w.getD (nk - 1) []) u :: w)

/-- The round keys of a key of 16 or 32 bytes. -/
def aesKeys (key : List Nat) : List (List Nat) :=
  let nk := key.length / 4
  let w := (aesExpand (4 * (nk + 7) - nk) nk nk 1 (chunksOf 4 key).reverse).reverse
  (chunksOf 16 w.flatten)

/-- One block enciphered or deciphered under round keys. -/
def aesEnc (ks : List (List Nat)) (b : List Nat) : List Nat :=
  let mid := (ks.drop 1).dropLast
  let s := mid.foldl (fun s k => xorB (mixWith 2 3 1 1 (shiftRows (s.map subByte))) k) (xorB b (ks.headD []))
  xorB (shiftRows (s.map subByte)) (ks.getLastD [])

def aesDec (ks : List (List Nat)) (b : List Nat) : List Nat :=
  let mid := ((ks.drop 1).dropLast).reverse
  let s := mid.foldl (fun s k => mixWith 14 11 13 9 (xorB ((invShiftRows s).map invSubByte) k)) (xorB b (ks.getLastD []))
  xorB ((invShiftRows s).map invSubByte) (ks.headD [])

/-- CTR with a 128-bit big-endian counter block (SP 800-38A). -/
def aesCtr (ks : List (List Nat)) (ctr : Nat) (data : List Nat) : List Nat :=
  ((chunksOf 16 data).zipIdx).flatMap (fun p => xorB p.1 (aesEnc ks (toBe 16 ((ctr + p.2) % 2 ^ 128))))

/-- The counter of GCM, whose low 32 bits alone count (SP 800-38D). -/
def gcmCtr (ks : List (List Nat)) (j0 : Nat) (data : List Nat) : List Nat :=
  ((chunksOf 16 data).zipIdx).flatMap (fun p =>
    xorB p.1 (aesEnc ks (toBe 16 (j0 / 2 ^ 32 * 2 ^ 32 + (j0 + 1 + p.2) % 2 ^ 32))))

/-- Multiplication in the field of GHASH; bit 127 of a number is its first bit. -/
def ghashMul (x y : Nat) : Nat :=
  ((List.range 128).foldl (fun (p : Nat × Nat) i =>
    (if bit x (127 - i) then Nat.xor p.1 p.2 else p.1,
     if p.2 % 2 = 0 then p.2 / 2 else Nat.xor (p.2 / 2) (0xE1 <<< 120))) (0, y)).1

def ghash (h : Nat) (data : List Nat) : Nat :=
  (chunksOf 16 data).foldl (fun a c => ghashMul (Nat.xor a (nbe (c ++ List.replicate (16 - c.length) 0))) h) 0

/-- A string filled with zeros to a multiple of 16. -/
def pad16 (l : List Nat) : List Nat := l ++ List.replicate ((16 - l.length % 16) % 16) 0

/-- The tag of GCM over additional data and ciphertext, for a 96-bit IV. -/
def gcmTag (key iv aad ct : List Nat) : List Nat :=
  let ks := aesKeys key
  let h := nbe (aesEnc ks (List.replicate 16 0))
  let s := ghash h (pad16 aad ++ pad16 ct ++ toBe 8 (8 * aad.length) ++ toBe 8 (8 * ct.length))
  xorB (toBe 16 s) (aesEnc ks (iv ++ [0, 0, 0, 1]))

/-- The data of GCM enciphered or deciphered. -/
def gcmCrypt (key iv data : List Nat) : List Nat := gcmCtr (aesKeys key) (nbe (iv ++ [0, 0, 0, 1])) data

/-- A tweak of XTS multiplied by the primitive element (IEEE 1619). -/
def xtsNext (t : Nat) : Nat := if bit t 127 then Nat.xor (2 * t % 2 ^ 128) 0x87 else 2 * t

/-- The blocks of one data unit, from a tweak on. -/
def xtsBlocks (dec : Bool) (ks : List (List Nat)) (t : Nat) (blocks : List (List Nat)) : List Nat :=
  match blocks with
  | [] => []
  | b :: r =>
    let tb := toLe 16 t
    xorB (if dec then aesDec ks (xorB b tb) else aesEnc ks (xorB b tb)) tb ++ xtsBlocks dec ks (xtsNext t) r

/-- XTS over whole data units of `du` bytes, the tweak raised by one per unit as a little-endian integer (R701). -/
def aesXts (dec : Bool) (key : List Nat) (du tweak : Nat) (data : List Nat) : List Nat :=
  let k1 := aesKeys (key.take (key.length / 2))
  let k2 := aesKeys (key.drop (key.length / 2))
  ((chunksOf du data).zipIdx).flatMap (fun p =>
    xtsBlocks dec k1 (nle (aesEnc k2 (toLe 16 ((tweak + p.2) % 2 ^ 128)))) (chunksOf 16 p.1))

/-- AES key wrap with the default IV (RFC 3394). -/
def keyWrap (kek data : List Nat) : List Nat :=
  let ks := aesKeys kek
  let n := data.length / 8
  let step (s : List Nat × List (List Nat)) (j : Nat) : List Nat × List (List Nat) :=
    let i := j % n
    let b := aesEnc ks (s.1 ++ s.2.getD i [])
    (toBe 8 (Nat.xor (nbe (b.take 8)) (j + 1)), lset s.2 i (b.drop 8))
  let r := (List.range (6 * n)).foldl step (List.replicate 8 0xA6, chunksOf 8 data)
  r.1 ++ r.2.flatten

/-- Its inverse; none where the integrity check fails. -/
def keyUnwrap (kek data : List Nat) : Option (List Nat) :=
  let ks := aesKeys kek
  let n := data.length / 8 - 1
  let step (s : List Nat × List (List Nat)) (j : Nat) : List Nat × List (List Nat) :=
    let i := j % n
    let b := aesDec ks (toBe 8 (Nat.xor (nbe s.1) (j + 1)) ++ s.2.getD i [])
    (b.take 8, lset s.2 i (b.drop 8))
  let r := (List.range (6 * n)).reverse.foldl step (data.take 8, chunksOf 8 (data.drop 8))
  if r.1 == List.replicate 8 0xA6 then some r.2.flatten else none

/-! ## ChaCha20-Poly1305 (RFC 8439) -/

def rotl32 (x n : Nat) : Nat := (x <<< n % 2 ^ 32) ||| (x >>> (32 - n))

/-- A quarter round on words a, b, c, d of the state. -/
def quarter (s : List Nat) (q : Nat × Nat × Nat × Nat) : List Nat :=
  let (a, b, c, d) := q
  let g (s : List Nat) (i : Nat) : Nat := s.getD i 0
  let half (s : List Nat) (x y z n : Nat) : List Nat :=
    let s := lset s x ((g s x + g s y) % 2 ^ 32)
    lset s z (rotl32 (Nat.xor (g s z) (g s x)) n)
  half (half (half (half s a b d 16) c d b 12) a b d 8) c d b 7

/-- A block of the key stream. -/
def chachaBlock (key nonce : List Nat) (counter : Nat) : List Nat :=
  let s := [0x61707865, 0x3320646E, 0x79622D32, 0x6B206574] ++ (chunksOf 4 key).map nle ++ [counter % 2 ^ 32] ++ (chunksOf 4 nonce).map nle
  let qs := [(0, 4, 8, 12), (1, 5, 9, 13), (2, 6, 10, 14), (3, 7, 11, 15), (0, 5, 10, 15), (1, 6, 11, 12), (2, 7, 8, 13), (3, 4, 9, 14)]
  let r := (List.range 10).foldl (fun s _ => qs.foldl quarter s) s
  (List.zipWith (fun a b => (a + b) % 2 ^ 32) s r).flatMap (toLe 4)

def chacha (key nonce : List Nat) (counter : Nat) (data : List Nat) : List Nat :=
  ((chunksOf 64 data).zipIdx).flatMap (fun p => xorB p.1 (chachaBlock key nonce (counter + p.2)))

def poly1305 (key msg : List Nat) : List Nat :=
  let r := nle (key.take 16) &&& 0x0FFFFFFC0FFFFFFC0FFFFFFC0FFFFFFF
  let a := (chunksOf 16 msg).foldl (fun a c => (a + nle c + 2 ^ (8 * c.length)) * r % (2 ^ 130 - 5)) 0
  toLe 16 ((a + nle ((key.drop 16).take 16)) % 2 ^ 128)

def chachaTag (key nonce aad ct : List Nat) : List Nat :=
  poly1305 ((chachaBlock key nonce 0).take 32) (pad16 aad ++ pad16 ct ++ toLe 8 aad.length ++ toLe 8 ct.length)

/-! ## AEAD by the algorithm of a context: 1 AES-128-GCM, 2 AES-256-GCM, 3 ChaCha20-Poly1305 (R693) -/

/-- The length of the cipher key of an algorithm of R693. -/
def keyLen (alg : Nat) : Nat := if alg = 1 ∨ alg = 4 then 16 else if alg = 7 then 64 else 32

def aeadTag (alg : Nat) (key nonce aad ct : List Nat) : List Nat :=
  if alg = 3 then chachaTag key nonce aad ct else gcmTag key nonce aad ct
def aeadCrypt (alg : Nat) (key nonce data : List Nat) : List Nat :=
  if alg = 3 then chacha key nonce 1 data else gcmCrypt key nonce data

/-- Ciphertext then tag; and plaintext where the tag verifies. -/
def aeadSeal (alg : Nat) (key nonce aad pt : List Nat) : List Nat :=
  let ct := aeadCrypt alg key nonce pt
  ct ++ aeadTag alg key nonce aad ct
def aeadOpen (alg : Nat) (key nonce aad data : List Nat) : Option (List Nat) :=
  let ct := data.take (data.length - 16)
  if data.length < 16 then none
  else if aeadTag alg key nonce aad ct == data.drop (data.length - 16) then some (aeadCrypt alg key nonce ct) else none

/-! ## SHA-2 (FIPS 180-4) and HMAC (RFC 2104); hash 1 SHA-256, 2 SHA-384, 3 SHA-512 (R700) -/

/-- The round constants of SHA-512 (FIPS 180-4); the high halves of the first 64 are those of SHA-256. -/
def shaK : List Nat :=
  [0x428A2F98D728AE22, 0x7137449123EF65CD, 0xB5C0FBCFEC4D3B2F, 0xE9B5DBA58189DBBC,
   0x3956C25BF348B538, 0x59F111F1B605D019, 0x923F82A4AF194F9B, 0xAB1C5ED5DA6D8118,
   0xD807AA98A3030242, 0x12835B0145706FBE, 0x243185BE4EE4B28C, 0x550C7DC3D5FFB4E2,
   0x72BE5D74F27B896F, 0x80DEB1FE3B1696B1, 0x9BDC06A725C71235, 0xC19BF174CF692694] ++
  [0xE49B69C19EF14AD2, 0xEFBE4786384F25E3, 0x0FC19DC68B8CD5B5, 0x240CA1CC77AC9C65,
   0x2DE92C6F592B0275, 0x4A7484AA6EA6E483, 0x5CB0A9DCBD41FBD4, 0x76F988DA831153B5,
   0x983E5152EE66DFAB, 0xA831C66D2DB43210, 0xB00327C898FB213F, 0xBF597FC7BEEF0EE4,
   0xC6E00BF33DA88FC2, 0xD5A79147930AA725, 0x06CA6351E003826F, 0x142929670A0E6E70] ++
  [0x27B70A8546D22FFC, 0x2E1B21385C26C926, 0x4D2C6DFC5AC42AED, 0x53380D139D95B3DF,
   0x650A73548BAF63DE, 0x766A0ABB3C77B2A8, 0x81C2C92E47EDAEE6, 0x92722C851482353B,
   0xA2BFE8A14CF10364, 0xA81A664BBC423001, 0xC24B8B70D0F89791, 0xC76C51A30654BE30,
   0xD192E819D6EF5218, 0xD69906245565A910, 0xF40E35855771202A, 0x106AA07032BBD1B8] ++
  [0x19A4C116B8D2D0C8, 0x1E376C085141AB53, 0x2748774CDF8EEB99, 0x34B0BCB5E19B48A8,
   0x391C0CB3C5C95A63, 0x4ED8AA4AE3418ACB, 0x5B9CCA4F7763E373, 0x682E6FF3D6B2B8A3,
   0x748F82EE5DEFB2FC, 0x78A5636F43172F60, 0x84C87814A1F0AB72, 0x8CC702081A6439EC,
   0x90BEFFFA23631E28, 0xA4506CEBDE82BDE9, 0xBEF9A3F7B2C67915, 0xC67178F2E372532B] ++
  [0xCA273ECEEA26619C, 0xD186B8C721C0C207, 0xEADA7DD6CDE0EB1E, 0xF57D4F7FEE6ED178,
   0x06F067AA72176FBA, 0x0A637DC5A2C898A6, 0x113F9804BEF90DAE, 0x1B710B35131C471B,
   0x28DB77F523047D84, 0x32CAAB7B40C72493, 0x3C9EBE0A15C9BEBC, 0x431D67C49C100D4C,
   0x4CC5D4BECB3E42B6, 0x597F299CFC657E2A, 0x5FCB6FAB3AD6FAEC, 0x6C44198C4A475817]

/-- The first 64 fraction bits of the square roots of the first 16 primes (FIPS 180-4). -/
def shaH : List Nat :=
  [0x6A09E667F3BCC908, 0xBB67AE8584CAA73B, 0x3C6EF372FE94F82B, 0xA54FF53A5F1D36F1,
   0x510E527FADE682D1, 0x9B05688C2B3E6C1F, 0x1F83D9ABFB41BD6B, 0x5BE0CD19137E2179,
   0xCBBB9D5DC1059ED8, 0x629A292A367CD507, 0x9159015A3070DD17, 0x152FECD8F70E5939,
   0x67332667FFC00B31, 0x8EB44A8768581511, 0xDB0C2E0D64F98FA7, 0x47B5481DBEFA4FA4]

/-- The parameters of a hash: word width, rounds, block and digest length in bytes. -/
def hashWidth (h : Nat) : Nat := if h = 1 then 32 else 64
def hashRounds (h : Nat) : Nat := if h = 1 then 64 else 80
def hashBlock (h : Nat) : Nat := if h = 1 then 64 else 128
def hashLen (h : Nat) : Nat := if h = 1 then 32 else if h = 2 then 48 else 64

def rotr (w x n : Nat) : Nat := (x >>> n) ||| (x <<< (w - n) % 2 ^ w)
def xor3 (a b c : Nat) : Nat := Nat.xor a (Nat.xor b c)

/-- The functions of FIPS 180-4 for a width. -/
def bigS0 (w x : Nat) : Nat := if w = 32 then xor3 (rotr w x 2) (rotr w x 13) (rotr w x 22) else xor3 (rotr w x 28) (rotr w x 34) (rotr w x 39)
def bigS1 (w x : Nat) : Nat := if w = 32 then xor3 (rotr w x 6) (rotr w x 11) (rotr w x 25) else xor3 (rotr w x 14) (rotr w x 18) (rotr w x 41)
def smallS0 (w x : Nat) : Nat := if w = 32 then xor3 (rotr w x 7) (rotr w x 18) (x >>> 3) else xor3 (rotr w x 1) (rotr w x 8) (x >>> 7)
def smallS1 (w x : Nat) : Nat := if w = 32 then xor3 (rotr w x 17) (rotr w x 19) (x >>> 10) else xor3 (rotr w x 19) (rotr w x 61) (x >>> 6)

/-- The message schedule, newest word first, n more words. -/
def shaSchedule (n w : Nat) (l : List Nat) : List Nat :=
  match n with
  | 0 => l
  | k + 1 => shaSchedule k w ((smallS1 w (l.getD 1 0) + l.getD 6 0 + smallS0 w (l.getD 14 0) + l.getD 15 0) % 2 ^ w :: l)

/-- One round on the eight working words. -/
def shaRound (w : Nat) (s : List Nat) (kw : Nat × Nat) : List Nat :=
  match s with
  | [a, b, c, d, e, f, g, h] =>
    let ch := Nat.xor (e &&& f) ((2 ^ w - 1 - e) &&& g)
    let maj := xor3 (a &&& b) (a &&& c) (b &&& c)
    let t1 := h + bigS1 w e + ch + kw.1 + kw.2
    let t2 := bigS0 w a + maj
    [(t1 + t2) % 2 ^ w, a, b, c, (d + t1) % 2 ^ w, e, f, g]
  | _ => s

/-- One block. -/
def shaBlock (h : Nat) (st block : List Nat) : List Nat :=
  let w := hashWidth h
  let ws := (shaSchedule (hashRounds h - 16) w ((chunksOf (w / 8) block).map nbe).reverse).reverse
  let ks := if h = 1 then (shaK.take 64).map (fun k => k >>> 32) else shaK
  List.zipWith (fun a b => (a + b) % 2 ^ w) st ((ks.zip ws).foldl (shaRound w) st)

/-- The digest. -/
def shaHash (h : Nat) (msg : List Nat) : List Nat :=
  let w := hashWidth h
  let blk := hashBlock h
  let st := if h = 1 then (shaH.take 8).map (fun k => k >>> 32) else if h = 2 then shaH.drop 8 else shaH.take 8
  let tail := msg ++ [0x80]
  let fill := (2 * blk - blk / 8 - tail.length % blk) % blk
  let m := tail ++ List.replicate fill 0 ++ toBe (blk / 8) (8 * msg.length)
  (((chunksOf blk m).foldl (shaBlock h) st).flatMap (toBe (w / 8))).take (hashLen h)

def hmac (h : Nat) (key msg : List Nat) : List Nat :=
  let blk := hashBlock h
  let k := if blk < key.length then shaHash h key else key
  let k := k ++ List.replicate (blk - k.length) 0
  shaHash h (k.map (fun x => Nat.xor x 0x5C) ++ shaHash h (k.map (fun x => Nat.xor x 0x36) ++ msg))

/-! ## Arithmetic modulo a prime -/

/-- b to the power e modulo p. -/
def powMod (fuel b e p : Nat) : Nat :=
  match fuel with
  | 0 => 1
  | f + 1 =>
    if e = 0 then 1 else
    let h := powMod f b (e / 2) p
    if e % 2 = 1 then h * h % p * b % p else h * h % p

def invMod (a p : Nat) : Nat := powMod 600 (a % p) (p - 2) p
def subMod (a b p : Nat) : Nat := (a + p - b % p) % p

/-! ## ECDSA (FIPS 186-5, RFC 6979); a curve is 1 P-256 or 2 P-384 -/

structure Curve where
  p : Nat
  b : Nat
  n : Nat
  gx : Nat
  gy : Nat
  len : Nat

def p256 : Curve :=
  { p := 2 ^ 256 - 2 ^ 224 + 2 ^ 192 + 2 ^ 96 - 1,
    b := 0x5AC635D8AA3A93E7B3EBBD55769886BC651D06B0CC53B0F63BCE3C3E27D2604B,
    n := 0xFFFFFFFF00000000FFFFFFFFFFFFFFFFBCE6FAADA7179E84F3B9CAC2FC632551,
    gx := 0x6B17D1F2E12C4247F8BCE6E563A440F277037D812DEB33A0F4A13945D898C296,
    gy := 0x4FE342E2FE1A7F9B8EE7EB4A7C0F9E162BCE33576B315ECECBB6406837BF51F5, len := 32 }

def p384 : Curve :=
  { p := 2 ^ 384 - 2 ^ 128 - 2 ^ 96 + 2 ^ 32 - 1,
    b := 0xB3312FA7E23EE7E4988E056BE3F82D19181D9C6EFE8141120314088F5013875AC656398D8A2ED19D2A85C8EDD3EC2AEF,
    n := 0xFFFFFFFFFFFFFFFFFFFFFFFFFFFFFFFFFFFFFFFFFFFFFFFFC7634D81F4372DDF581A0DB248B0A77AECEC196ACCC52973,
    gx := 0xAA87CA22BE8B05378EB1C71EF320AD746E1D3B628BA79B9859F741E082542A385502F25DBF55296C3A545E3872760AB7,
    gy := 0x3617DE4A96262C6F5D9E98BF9292DC29F8F41DBD289A147CE9DA3113B5F0B8C00A60B1CE1D7E819D7A431D7C90EA0E5F, len := 48 }

def curveOf (c : Nat) : Curve := if c = 2 then p384 else p256

/-- The sum of two points; none is the point at infinity. -/
def ecAdd (c : Curve) (a b : Option (Nat × Nat)) : Option (Nat × Nat) :=
  match a, b with
  | none, q => q
  | q, none => q
  | some (x1, y1), some (x2, y2) =>
    let fin (l : Nat) : Option (Nat × Nat) :=
      let x := subMod (subMod (l * l) x1 c.p) x2 c.p
      some (x, subMod (l * subMod x1 x c.p) y1 c.p)
    if x1 = x2 then
      if (y1 + y2) % c.p = 0 then none
      else fin (subMod (3 * x1 * x1) 3 c.p * invMod (2 * y1) c.p % c.p)
    else fin (subMod y2 y1 c.p * invMod (subMod x2 x1 c.p) c.p % c.p)

/-- k times a point, from k's bits. -/
def ecMul (fuel : Nat) (c : Curve) (k : Nat) (q : Option (Nat × Nat)) : Option (Nat × Nat) :=
  match fuel with
  | 0 => none
  | f + 1 =>
    if k = 0 then none else
    let h := ecMul f c (k / 2) q
    let d := ecAdd c h h
    if k % 2 = 1 then ecAdd c d q else d

def ecBase (c : Curve) (k : Nat) : Option (Nat × Nat) := ecMul 400 c k (some (c.gx, c.gy))

/-- The leftmost bits of a digest, as many as n has (FIPS 186-5). -/
def digestNum (c : Curve) (digest : List Nat) : Nat := nbe digest >>> (8 * (digest.length - c.len))

/-- The candidates of RFC 6979 section 3.2, until one gives a signature. -/
def ecdsaTry (fuel h : Nat) (c : Curve) (d z : Nat) (k v : List Nat) : List Nat :=
  match fuel with
  | 0 => List.replicate (2 * c.len) 0
  | f + 1 =>
    let v := hmac h k v
    let t := if v.length < c.len then v ++ hmac h k v else v
    let v := if v.length < c.len then hmac h k v else v
    let kk := nbe (t.take c.len)
    let r := match ecBase c kk with | some (x, _) => x % c.n | none => 0
    let s := invMod kk c.n * (z + r * d) % c.n
    if kk ≠ 0 ∧ kk < c.n ∧ r ≠ 0 ∧ s ≠ 0 then toBe c.len r ++ toBe c.len s
    else
      let k := hmac h k (v ++ [0])
      ecdsaTry f h c d z k (hmac h k v)

/-- r then s, with the hash that has the digest's length (RFC 6979). -/
def ecdsaSign (c : Curve) (d : Nat) (digest : List Nat) : List Nat :=
  let h := if digest.length = 48 then 2 else 1
  let z := digestNum c digest
  let x := toBe c.len d ++ toBe c.len (z % c.n)
  let k := List.replicate (hashLen h) 0
  let v := List.replicate (hashLen h) 1
  let k := hmac h k (v ++ [0] ++ x)
  let v := hmac h k v
  let k := hmac h k (v ++ [1] ++ x)
  ecdsaTry 64 h c d z k (hmac h k v)

/-- The point of a public key in SEC 1 uncompressed form; none where it is not on the curve. -/
def ecPoint (c : Curve) (pub : List Nat) : Option (Nat × Nat) :=
  let x := nbe ((pub.drop 1).take c.len)
  let y := nbe ((pub.drop (1 + c.len)).take c.len)
  if pub.headD 0 = 4 ∧ x < c.p ∧ y < c.p ∧ y * y % c.p = (subMod (x * x * x) (3 * x) c.p + c.b) % c.p then some (x, y) else none

def ecdsaVerify (c : Curve) (digest pub sig : List Nat) : Bool :=
  let r := nbe (sig.take c.len)
  let s := nbe (sig.drop c.len)
  match ecPoint c pub with
  | none => false
  | some q =>
    if r = 0 ∨ s = 0 ∨ c.n ≤ r ∨ c.n ≤ s then false else
    let w := invMod s c.n
    match ecAdd c (ecBase c (digestNum c digest * w % c.n)) (ecMul 400 c (r * w % c.n) (some q)) with
    | none => false
    | some (x, _) => x % c.n == r

/-- The public key of a private scalar, in SEC 1 uncompressed form. -/
def ecPublic (c : Curve) (d : Nat) : List Nat :=
  match ecBase c d with
  | some (x, y) => 4 :: toBe c.len x ++ toBe c.len y
  | none => 4 :: List.replicate (2 * c.len) 0

/-! ## X25519 (RFC 7748) -/

def p25519 : Nat := 2 ^ 255 - 19

/-- The Montgomery ladder over bits 254 to 0 of a scalar; the state is x2, z2, x3, z3 and the last bit. -/
def x25519 (scalar u : List Nat) : List Nat :=
  let k := nle scalar
  let k := k % 2 ^ 254 / 8 * 8 + 2 ^ 254
  let x1 := nle u % 2 ^ 255 % p25519
  let p := p25519
  let step (s : Nat × Nat × Nat × Nat × Bool) (i : Nat) : Nat × Nat × Nat × Nat × Bool :=
    let (x2, z2, x3, z3, swap) := s
    let kt := bit k (254 - i)
    let sw := swap != kt
    let (x2, x3) := if sw then (x3, x2) else (x2, x3)
    let (z2, z3) := if sw then (z3, z2) else (z2, z3)
    let a := (x2 + z2) % p
    let b := subMod x2 z2 p
    let aa := a * a % p
    let bb := b * b % p
    let e := subMod aa bb p
    let da := subMod x3 z3 p * a % p
    let cb := (x3 + z3) % p * b % p
    let t := subMod da cb p
    (aa * bb % p, e * ((aa + 121665 * e) % p) % p, (da + cb) * (da + cb) % p, x1 * (t * t % p) % p, kt)
  let (x2, z2, x3, z3, swap) := (List.range 255).foldl step (1, 0, x1, 1, false)
  let (x2, z2) := if swap then (x3, z3) else (x2, z2)
  toLe 32 (x2 * invMod z2 p % p)

end Sys2Proof.Machine
end

