-- ==== Sys2Proof/Machine/Inflate.lean ====
section
/-! DEFINITION. Raw DEFLATE (RFC 1951) as a decompressor accepts it (R652), and the compressor's form of a slab (R650 to R654). -/

namespace Sys2Proof.Machine

/-- The bits of a byte string in DEFLATE's order, the lowest of each byte first. -/
def bitsOf (b : Bytes) : List Bool := b.flatMap (fun x => (List.range 8).map x.getLsbD)

/-- n bits as a number, the first lowest, with the rest; none where they are not there. -/
def takeBits (n : Nat) (s : List Bool) : Option (Nat × List Bool) :=
  if s.length < n then none else some ((s.take n).foldr (fun b a => 2 * a + b2n b) 0, s.drop n)

/-- A prefix code: for each symbol its length, its code and itself. -/
abbrev Code := List (Nat × Nat × Nat)

/-- The first code of each length (RFC 1951, 3.2.2), for lengths from len on. -/
def firstCodes (n len code : Nat) (lens : List Nat) : List Nat :=
  match n with
  | 0 => []
  | k + 1 =>
    let c := (code + if len = 1 then 0 else lens.countP (fun x => x == len - 1)) * 2
    c :: firstCodes k (len + 1) c lens

/-- The code of a list of lengths. -/
def mkCode (lens : List Nat) : Code :=
  let first := firstCodes 15 1 0 lens
  (lens.zipIdx).filterMap (fun p =>
    if p.1 = 0 then none
    else some (p.1, first.getD (p.1 - 1) 0 + (lens.take p.2).countP (fun x => x == p.1), p.2))

/-- The sum of 2^(15 - length): a complete code has 2^15. -/
def kraft (lens : List Nat) : Nat := lens.foldl (fun a x => if x = 0 then a else a + 2 ^ (15 - x)) 0

/-- The next symbol of a code, with the rest; none where no code matches. -/
def readSym (fuel len acc : Nat) (c : Code) (s : List Bool) : Option (Nat × List Bool) :=
  match fuel, s with
  | 0, _ => none
  | _, [] => none
  | f + 1, b :: r =>
    let acc := 2 * acc + b2n b
    match c.find? (fun x => x.1 == len + 1 && x.2.1 == acc) with
    | some x => some (x.2.2, r)
    | none => readSym f (len + 1) acc c r

def sym (c : Code) (s : List Bool) : Option (Nat × List Bool) := readSym 15 0 0 c s

/-- The base and extra bits of a length symbol (257 to 285) and a distance symbol (0 to 29). -/
def lenBase (x : Nat) : Nat × Nat :=
  if x = 285 then (258, 0) else if x < 265 then (x - 254, 0)
  else let e := (x - 261) / 4; ((4 + (x - 261) % 4) * 2 ^ e + 3, e)
def distBase (x : Nat) : Nat × Nat :=
  if x < 4 then (x + 1, 0) else let e := x / 2 - 1; ((2 + x % 2) * 2 ^ e + 1, e)

/-- The output (newest byte first) with a back-reference copied. -/
def copyBack (n dist : Nat) (out : Bytes) : Bytes :=
  match n with
  | 0 => out
  | k + 1 => copyBack k dist (out.getD (dist - 1) 0 :: out)

/-- How decoding went on: the rest of the bits, or bad data; with the output so far, newest byte first. -/
abbrev InfRes := Option (List Bool) × Bytes

/-- The symbols of a block up to its end (R652). -/
def infCodes (fuel : Nat) (lc dc : Code) (s : List Bool) (out : Bytes) : InfRes :=
  match fuel with
  | 0 => (none, out)
  | f + 1 =>
    match sym lc s with
    | none => (none, out)
    | some (x, s) =>
      if x < 256 then infCodes f lc dc s (BitVec.ofNat 8 x :: out)
      else if x = 256 then (some s, out)
      else if 285 < x then (none, out)
      else match takeBits (lenBase x).2 s with
        | none => (none, out)
        | some (e, s) =>
          match sym dc s with
          | none => (none, out)
          | some (d, s) =>
            if 29 < d then (none, out) else
            match takeBits (distBase d).2 s with
            | none => (none, out)
            | some (de, s) =>
              let dist := (distBase d).1 + de
              if out.length < dist then (none, out)
              else infCodes f lc dc s (copyBack ((lenBase x).1 + e) dist out)

/-- n code lengths of a dynamic block, newest first. -/
def infLens (fuel n : Nat) (cc : Code) (s : List Bool) (acc : List Nat) : Option (List Nat × List Bool) :=
  match fuel with
  | 0 => none
  | f + 1 =>
    if acc.length = n then some (acc.reverse, s) else
    if n < acc.length then none else
    match sym cc s with
    | none => none
    | some (x, s) =>
      if x < 16 then infLens f n cc s (x :: acc)
      else
        let (v, ex, base) := if x = 16 then (acc.head?, 2, 3) else if x = 17 then (some 0, 3, 3) else (some 0, 7, 11)
        match v, takeBits ex s with
        | some v, some (e, s) => infLens f n cc s (List.replicate (base + e) v ++ acc)
        | _, _ => none

/-- The order in which the lengths of the code-length code stand. -/
def clOrder : List Nat := [16, 17, 18, 0, 8, 7, 9, 6, 10, 5, 11, 4, 12, 3, 13, 2, 14, 1, 15]

/-- n three-bit numbers. -/
def threeBits (n : Nat) (s : List Bool) : Option (List Nat × List Bool) :=
  match n with
  | 0 => some ([], s)
  | k + 1 => match takeBits 3 s with
    | none => none
    | some (x, s) => (threeBits k s).map (fun p => (x :: p.1, p.2))

/-- The codes of a dynamic block: literal and code-length codes complete, the distance code complete, or one code alone, or none. -/
def dynCodes (s : List Bool) : Option (Code × Code × List Bool) :=
  match takeBits 14 s with
  | none => none
  | some (h, s) =>
    let hlit := 257 + h % 32
    let hdist := 1 + h / 32 % 32
    let hclen := 4 + h / 1024
    if 286 < hlit then none else
    match threeBits hclen s with
    | none => none
    | some (cl, s) =>
      let cls := (List.range 19).map (fun i => ((clOrder.zip cl).find? (fun p => p.1 == i)).elim 0 (fun p => p.2))
      if kraft cls ≠ 2 ^ 15 then none else
      match infLens 400 (hlit + hdist) (mkCode cls) s [] with
      | none => none
      | some (lens, s) =>
        let ll := lens.take hlit
        let dl := lens.drop hlit
        let dOk := kraft dl == 2 ^ 15 || dl.all (fun x => x == 0) || (dl.countP (fun x => x != 0) == 1 && dl.contains 1)
        if kraft ll ≠ 2 ^ 15 ∨ ll.getD 256 0 = 0 ∨ !dOk then none else some (mkCode ll, mkCode dl, s)

/-- The fixed codes (RFC 1951, 3.2.6). -/
def fixedLit : Code :=
  mkCode (List.replicate 144 8 ++ List.replicate 112 9 ++ List.replicate 24 7 ++ List.replicate 8 8)
def fixedDist : Code := mkCode (List.replicate 32 5)

/-- The blocks of a stream whose length in bits is `total`, to the one with BFINAL 1. -/
def infBlocks (fuel total : Nat) (s : List Bool) (out : Bytes) : InfRes :=
  match fuel with
  | 0 => (none, out)
  | f + 1 =>
    match takeBits 3 s with
    | none => (none, out)
    | some (h, s) =>
      let r : InfRes :=
        match h / 2 with
        | 0 =>
          let s := s.drop (s.length % 8)
          match takeBits 32 s with
          | none => (none, out)
          | some (v, s) =>
            let n := v % 65536
            if v / 65536 ≠ 65535 - n ∨ s.length < 8 * n then (none, out)
            else (some (s.drop (8 * n)), (List.range n).foldl (fun o i =>
              BitVec.ofNat 8 (((s.drop (8 * i)).take 8).foldr (fun b a => 2 * a + b2n b) 0) :: o) out)
        | 1 => infCodes (s.length + 1) fixedLit fixedDist s out
        | 2 => match dynCodes s with
          | none => (none, out)
          | some (lc, dc, s) => infCodes (s.length + 1) lc dc s out
        | _ => (none, out)
      match r with
      | (none, out) => (none, out)
      | (some s, out) => if h % 2 = 1 then (some s, out) else infBlocks f total s out

/-- A payload decompressed (R652): whether it is valid, and the bytes produced. No byte may remain after the last block. -/
def inflate (payload : Bytes) : Bool × Bytes :=
  let s := bitsOf payload
  match infBlocks (s.length + 1) s.length s [] with
  | (some r, out) => (decide (r.length < 8), out.reverse)
  | (none, out) => (false, out.reverse)

/-! ## The compressor (R650 to R655) -/

/-- A code word of n bits, its first bit highest. -/
def codeBits (n c : Nat) : List Bool := (List.range n).map (fun i => bit c (n - 1 - i))

/-- A literal in the fixed code. -/
def fixedLitBits (x : Nat) : List Bool := if x < 144 then codeBits 8 (0x30 + x) else codeBits 9 (0x190 + x - 144)

/-- Bits to bytes, the last byte filled with zero bits. -/
def packBits (fuel : Nat) (s : List Bool) : Bytes :=
  match fuel with
  | 0 => []
  | f + 1 => if s.isEmpty then [] else
    BitVec.ofNat 8 ((s.take 8).foldr (fun b a => 2 * a + b2n b) 0) :: packBits f (s.drop 8)

/-- A valid stream of fixed blocks of literals, a block for every 16 KiB (R650). -/
def literalStream (fuel : Nat) (b : Bytes) : List Bool :=
  match fuel with
  | 0 => []
  | f + 1 =>
    let rest := b.drop 16384
    [rest.isEmpty, true, false] ++ (b.take 16384).flatMap (fun x => fixedLitBits x.toNat) ++ codeBits 7 0 ++
      (if rest.isEmpty then [] else literalStream f rest)

/-- The blocks of a stream are of the two types that the compressor emits (R650). -/
def noStored (fuel : Nat) (s : List Bool) : Bool :=
  match fuel with
  | 0 => false
  | f + 1 =>
    match takeBits 3 s with
    | none => false
    | some (h, s) =>
      let r : InfRes :=
        match h / 2 with
        | 1 => infCodes (s.length + 1) fixedLit fixedDist s (List.replicate 65536 0)
        | 2 => match dynCodes s with
          | none => (none, [])
          | some (lc, dc, s) => infCodes (s.length + 1) lc dc s (List.replicate 65536 0)
        | _ => (none, [])
      match r with
      | (none, _) => false
      | (some s, _) => h % 2 == 1 || noStored f s

/-- The compressor's DEFLATE form of a slab's input at a level. What it emits is free within R650 to R655: `Config.deflate` where its
answer is a stream of fixed and dynamic blocks that decompresses to the input, else blocks of literals in the fixed code. The
choice is a function of the input and the level alone (R655). -/
def deflateForm (level : Nat) (input : Bytes) : Bytes :=
  let d := Config.deflate level input
  let r := inflate d
  let s := bitsOf d
  if r.1 && r.2 == input && noStored (s.length + 1) s then d
  else
    let s := literalStream (input.length / 16384 + 1) input
    packBits (s.length + 1) s

end Sys2Proof.Machine
end

