-- ==== Sys2Proof/Machine/CrushCmds.lean ====
section
/-! DEFINITION. Crushers: the slab (R646 to R649), the output chain (R660 to R663), COMPRESS (R653 to R657), DECOMPRESS (R664, R665),
RING_CRUSH (R658, R659, R670 to R672, R867) and the crushers' commands. -/

namespace Sys2Proof.Machine

/-! ## The output chain (R660 to R663) -/

/-- Bytes written at a job's place in its chain: the job with the place after them, or the status that ends the job
(OUTPUT_FULL, ACCESS, POISON, BAD_CHAIN). Each entry is read when it is first needed. -/
def chainPut (fuel : Nat) (m : Mach) (x : Job) (b : Bytes) : Except Nat Job × Mach :=
  match fuel with
  | 0 => (.error 0x01, m)
  | f + 1 =>
    if b.isEmpty then (.ok x, m) else
    let hub := unitHub x.unit
    let src := workSource 0 x.unit
    if x.outLeft = 0 then
      if fld x.desc 40 4 ≤ x.chainIdx then (.error 0x01, m) else
      match rdLease m hub src x.lease (fld x.desc 32 8 + 16 * x.chainIdx) 16 with
      | (.error .poison, m) => (.error 0x0B, m)
      | (.error _, m) => (.error 0x0A, m)
      | (.ok e, m) =>
        let n := fld e 8 4
        if n = 0 ∨ 16777216 < n ∨ fld e 12 4 ≠ 0 then (.error 0x0D, m)
        else chainPut f m { x with chainIdx := x.chainIdx + 1, outAddr := fld e 0 8, outLeft := n } b
    else
      let k := min b.length x.outLeft
      match wrLease m hub src x.lease x.outAddr (b.take k) with
      | (.error .poison, m) => (.error 0x0B, m)
      | (.error _, m) => (.error 0x0A, m)
      | (.ok _, m) => chainPut f m { x with outAddr := x.outAddr + k, outLeft := x.outLeft - k } (b.drop k)

/-- Enough steps for n bytes: an entry holds at least one. -/
def chainFuel (n : Nat) : Nat := 2 * n + 3

/-- The bytes of the chain after the last complete slab, as far as the abandoned one could reach: unspecified (R663, R664). -/
def chainFree (m : Mach) (x : Job) (n : Nat) : Mach :=
  let (b, m) := freeBytes m n
  (chainPut (chainFuel n) m x b).2

/-! ## The slab (R646 to R649) -/

/-- The nominal size of a code, 0 to 4. -/
def nominal (code : Nat) : Nat := 4096 * 2 ^ code

/-- The header of a slab (R646). -/
def slabHeader (raw last : Bool) (level code inLen stored crc seq : Nat) : Bytes :=
  let h := [0x4A, 0x53, 0x01] ++ le 1 (b2n raw + 2 * b2n last) ++ le 1 level ++ le 1 code ++ le 2 0 ++ le 4 inLen ++ le 4 stored ++
    le 4 crc ++ le 8 seq
  h ++ le 4 (crc32c h)

/-- Check 2 of R664. -/
def headerOk (h : Bytes) : Bool :=
  let raw := bit (fld h 3 1) 0
  let level := fld h 4 1
  fld h 0 2 == 0x534A && fld h 2 1 == 1 && decide (fld h 3 1 < 4) && fld h 6 2 == 0 && fld h 28 4 == crc32c (bslice h 0 28) &&
    decide (fld h 5 1 ≤ 4) && decide (fld h 8 4 ≤ nominal (fld h 5 1)) &&
    (if raw then fld h 12 4 == fld h 8 4 && decide (level ≤ 9)
     else decide (fld h 12 4 < fld h 8 4) && decide (1 ≤ level) && decide (level ≤ 9))

/-! ## COMPRESS (R653 to R656) -/

def jEnd (x : Job) : Bool := bit (fld x.desc 3 1) 0
def jFlush (x : Job) : Bool := bit (fld x.desc 3 1) 1

/-- The input length of the next slab of a COMPRESS job and whether it carries LAST; none where the job ends (R656). -/
def nextSlab (x : Job) : Option (Nat × Bool) :=
  let n := nominal (fld x.desc 2 1)
  let rem := fld x.desc 24 8 - x.consumed
  if n ≤ rem then some (n, jEnd x && rem == n)
  else if jEnd x then (if rem = 0 ∧ x.slabs ≠ 0 then none else some (rem, true))
  else if jFlush x ∧ 0 < rem then some (rem, false)
  else none

/-- A slab of some input (R649, R653, R654). -/
def makeSlab (level code seq : Nat) (last : Bool) (input : Bytes) : Bytes :=
  let d := if level = 0 ∨ input.isEmpty then input else deflateForm level input
  let raw := level == 0 || decide (input.length ≤ d.length)
  let payload := if raw then input else d
  slabHeader raw last level code input.length payload.length (crc32c input) seq ++ payload

/-- The next slab of a COMPRESS job: the job after it, or the status that ends it. -/
def compressSlab (m : Mach) (x : Job) (n : Nat) (last : Bool) : Except Nat Job × Mach :=
  match rdLease m (unitHub x.unit) (workSource 0 x.unit) x.lease (fld x.desc 16 8 + x.consumed) n with
  | (.error .poison, m) => (.error 0x0B, m)
  | (.error _, m) => (.error 0x0A, m)
  | (.ok b, m) =>
    let s := makeSlab (fld x.desc 1 1) (fld x.desc 2 1) ((fld x.desc 8 8 + x.slabs) % 2 ^ 64) last b
    match chainPut (chainFuel s.length) m x s with
    | (.error e, m) => (.error e, m)
    | (.ok x, m) => (.ok { x with consumed := x.consumed + n, written := x.written + s.length, slabs := x.slabs + 1 }, m)

/-! ## DECOMPRESS (R664, R665) -/

/-- The next slab of a DECOMPRESS job, checked in the order of R664. What is produced goes to the chain as it comes, so a chain that
ends first is found before checks 5 to 7. -/
def decompressSlab (m : Mach) (x : Job) : Except Nat Job × Mach :=
  let rem := fld x.desc 24 8 - x.consumed
  let hub := unitHub x.unit
  let src := workSource 0 x.unit
  let va := fld x.desc 16 8 + x.consumed
  if rem < 32 then (.error 0x02, m) else
  match rdLease m hub src x.lease va 32 with
  | (.error .poison, m) => (.error 0x0B, m)
  | (.error _, m) => (.error 0x0A, m)
  | (.ok h, m) =>
    if !headerOk h then (.error 0x05, m)
    else if bit (fld x.desc 3 1) 2 ∧ fld h 20 8 ≠ (fld x.desc 8 8 + x.slabs) % 2 ^ 64 then (.error 0x09, m)
    else if rem < 32 + fld h 12 4 then (.error 0x02, m)
    else match rdLease m hub src x.lease (va + 32) (fld h 12 4) with
      | (.error .poison, m) => (.error 0x0B, m)
      | (.error _, m) => (.error 0x0A, m)
      | (.ok p, m) =>
        let r := if bit (fld h 3 1) 0 then (true, p) else inflate p
        match chainPut (chainFuel r.2.length) m x r.2 with
        | (.error e, m) => (.error e, m)
        | (.ok y, m) =>
          if !r.1 then (.error 0x06, m)
          else if r.2.length ≠ fld h 8 4 then (.error 0x07, m)
          else if crc32c r.2 ≠ fld h 16 4 then (.error 0x08, m)
          else (.ok { y with consumed := x.consumed + 32 + fld h 12 4, written := x.written + r.2.length, slabs := x.slabs + 1,
                             lastSeen := bit (fld h 3 1) 1 }, m)

/-! ## Slab boundaries (R656, R657, R664, R665, R673 to R675) -/

def isCompress (x : Job) : Bool := fld x.desc 0 1 == 1

/-- A job has no slab left to work on. -/
def jobDone (x : Job) : Bool :=
  if isCompress x then (nextSlab x).isNone else x.lastSeen || decide (fld x.desc 24 8 ≤ x.consumed)

/-- The status that ends a job is counted (R689). -/
def countStatus (m : Mach) (k st : Nat) : Mach :=
  if st = 5 ∨ st = 6 ∨ st = 7 then countWork m 0 k 2 0xFFFF
  else if st = 8 ∨ st = 9 then countWork m 0 k 3 0xFFFF
  else if st = 0x0A ∨ st = 0x0B then countWork m 0 k 4 0xFFFF
  else if st = 3 then countWork m 0 k 5 0xFFFF
  else m

def crushEnd (m : Mach) (x : Job) (st : Nat) : Mach := endJob (countStatus m x.unit st) x st

/-- The slab at work is complete: the job goes on, or ends. -/
def slabEnds (m : Mach) (x : Job) : Mach :=
  let before := x.consumed
  let (r, m) :=
    if isCompress x then (match nextSlab x with
      | some (n, last) => compressSlab m x n last
      | none => (.ok x, m))
    else if jobDone x then (.ok x, m) else decompressSlab m x
  match r with
  | .error st =>
    let n := if isCompress x then 32 + nominal (fld x.desc 2 1) else 65536
    let m := if st = 0x02 ∨ st = 0x05 ∨ st = 0x09 then m else chainFree m x n
    crushEnd m x st
  | .ok y =>
    let m := countWork m 0 x.unit (if isCompress x then 0 else 1) 0xFFFFFFFF
    let m := chargeJob m x (y.consumed - before)
    if y.stop then endJob m y 0x04
    else if jobDone y then crushEnd m y 0x00
    else modWork (setJob m y) 0 x.unit (fun w => { w with run := none })

/-- A crusher chooses its next work (R673); Hold entry lets it take none (R675); FLUSH is judged when the job is taken (R657). -/
def crushNext (m : Mach) (k : Nat) : Mach :=
  if m.mode.holdStart.isSome then m else
  match chooseJob m 0 k with
  | (none, m) => m
  | (some x, m) =>
    if !x.begun ∧ isCompress x ∧ jFlush x ∧ !jEnd x ∧ m.mode.st = .service then crushEnd m x 0x03
    else if jobDone x then crushEnd m x 0x00
    else modWork (setJob m { x with begun := true }) 0 k (fun w => { w with run := some x.num })

/-- A crusher works on what it holds while it is Active or Draining. -/
def crushBoundary (m : Mach) (k : Nat) : Mach :=
  if !workActive m 0 k && ustate m 0x09 k != .draining then m else
  let m := match (workUnit m 0 k).run.bind (job m) with
    | some x => slabEnds m x
    | none => m
  crushNext m k

/-- SLAB_BOUNDARY (R673). -/
def execSlabBoundary (k : CrushId) (s : State) : Host.Outcome State Fault Refusal := runUnits s (fun m => crushBoundary m k.val)

/-! ## RING_CRUSH (R255, R256, R658, R659, R670 to R672, R867) -/

/-- The descriptor keeps the table of R658. -/
def crushDescOk (d : Bytes) : Bool :=
  let op := fld d 0 1
  let fl := fld d 3 1
  (op == 1 || op == 2) && fld d 4 4 == 0 && fld d 44 4 == 0 && fld d 56 8 == 0 && decide (fld d 24 8 < 2 ^ 40) &&
    fld d 32 8 % 16 == 0 && decide (1 ≤ fld d 40 4) && decide (fld d 40 4 ≤ 4096) &&
    (if op = 1 then decide (fld d 1 1 ≤ 9) && decide (fld d 2 1 ≤ 4) && decide (fl < 4)
     else fld d 1 1 == 0 && fld d 2 1 == 0 && (fl == 0 || fl == 4))

/-- The unit that takes a submission among those that the lease may use: for 0xFF the Active one with a free slot and the fewest
input bytes queued, the lower index where two are equal (R672); the slot's kind; or the answer that refuses it. -/
def pickUnit (m : Mach) (kind l sel : Nat) : Except Nat (Nat × Bool) :=
  let mask := leaseMask m kind l
  if sel = 0xFF then
    let act := mask.filter (fun u => workActive m kind u)
    if mask.isEmpty then .error 2 else if act.isEmpty then .error 4 else
    let free := act.filterMap (fun u => (freeSlot m kind u l).map (fun r => (u, r)))
    match pickBest (fun (a b : Nat × Bool) => decide (queuedBytes m kind a.1 < queuedBytes m kind b.1)) free with
    | some p => .ok p
    | none => .error 1
  else if !mask.contains sel then .error 2
  else if !workActive m kind sel then .error 4
  else match freeSlot m kind sel l with
    | some r => .ok (sel, r)
    | none => .error 1

/-- The ring of a queue has room for one more open job (R671). -/
def queueRoom (m : Mach) (kind hub l q : Nat) : Bool × Mach :=
  let r := jobRing m kind l q
  let (h, m) := ringHead m hub (workSource kind (4 * hub)) l (queueBase m kind l q) r.head r.tail
  let head := h.getD r.head
  (decide ((queueJobs m kind l q).length + (r.tail - head) < queueSize m kind l q), setJobRing m kind l q { r with head := head })

/-- A job as it is accepted. -/
def newJob (m : Mach) (kind l q u : Nat) (reserved : Bool) (desc : Bytes) (ctx : Option Nat) : Job :=
  { kind := kind, num := m.jobs.next, lease := l, queue := q, unit := u, reserved := reserved, desc := desc, begun := false,
    restarted := false, consumed := 0, written := 0, slabs := 0, lastSeen := false, chainIdx := 0, outAddr := 0, outLeft := 0,
    buf := [], ctx := ctx, seqField := 0, ctype := 0, ended := none, sump := none, stop := false, by_ := u }

/-- A job is accepted: it has its number and its slot. -/
def takeJob (m : Mach) (x : Job) : Mach :=
  let m := setJob m x
  ledgerAdd (modJobs m (fun j => { j with next := j.next + 1 })) x.kind x.lease 1 0

/-- The answer of a ring (R257), kept until RING_ANSWER brings it to the level. -/
def answerRing (m : Mach) (level code : Nat) : Mach := { m with answers := tset m.answers level (code, 0) }

/-- RING_CRUSH at its target (R659, R671, R867). -/
def ringCrush (m : Mach) (level l : Nat) (arg a : Word) : Mach :=
  let sel := bits arg.toNat 7 0
  let q := bits arg.toNat 11 8
  if !leaseAccepts m l then answerRing m level 3
  else if bits arg.toNat 63 12 ≠ 0 ∨ (8 ≤ sel ∧ sel ≠ 0xFF) ∨ a.toNat % 64 ≠ 0 then answerRing m level 5
  else if !bit (queueCtl m 0 l q) 63 then answerRing m level 2
  else
    let pick := pickUnit m 0 l sel
    let hub := if sel < 8 then sel / 4 else ((leaseMask m 0 l).headD 0) / 4
    match pick with
    | .error 2 => answerRing m level 2
    | .error 4 => answerRing m level 4
    | _ =>
      match rdLease m hub (workSource 0 (4 * hub)) l a.toNat 64 with
      | (.error _, m) => answerRing m level 5
      | (.ok d, m) =>
        if !crushDescOk d then answerRing m level 5 else
        match pick with
        | .error c => answerRing m level c
        | .ok (u, r) =>
          if m.mode.holdStart.isSome then answerRing m level 1 else
          match queueRoom m 0 (unitHub u) l q with
          | (false, m) => answerRing m level 1
          | (true, m) => answerRing (takeJob m (newJob m 0 l q u r d none)) level 0

/-! ## The other commands (R676, R677) -/

def execCrusherOnline (a : Actor) (k : CrushId) (s : State) : Host.Outcome State Fault Refusal :=
  runM s (ctlWrite a 0x09 k.val 0x0100 (fun m => workCmd m 0 k.val 1))

def execCrusherOffline (a : Actor) (k : CrushId) (s : State) : Host.Outcome State Fault Refusal :=
  runM s (ctlWrite a 0x09 k.val 0x0100 (fun m => workCmd m 0 k.val 2))

/-- CRUSHER_DRAINED (R677). -/
def execCrusherDrained (k : CrushId) (s : State) : Host.Outcome State Fault Refusal := runUnits s (fun m => workDrained m 0 k.val)

/-- CRUSHER_FAILURE (R676): a crusher at work fails. -/
def execCrusherFailure (k : CrushId) (s : State) : Host.Outcome State Fault Refusal :=
  runUnits s (fun m => if workActive m 0 k.val || ustate m 0x09 k.val == .draining then workFails m 0 k.val else m)

end Sys2Proof.Machine
end

