-- ==== Sys2Proof/Machine/CipherOps.lean ====
section
/-! DEFINITION. Session contexts and their store (R693 to R698), the records of TLS and DTLS (R703 to R705), the operations of the
cipher engines and public-key units (R701). A context and the data of a job are lists of numbers below 256 here. -/

namespace Sys2Proof.Machine

/-! ## Contexts (R693) -/

/-- A little-endian field of a context. -/
def cf (c : List Nat) (off len : Nat) : Nat := nle ((c.drop off).take len)
/-- A context with bytes written at an offset. -/
def cput (c : List Nat) (off : Nat) (b : List Nat) : List Nat := c.take off ++ b ++ c.drop (off + b.length)
def ctxKind (c : List Nat) : Nat := cf c 0 1
def ctxAlg (c : List Nat) : Nat := cf c 1 1
/-- The cipher key (R693) and the DTLS 1.3 record-number key, as long as the algorithm's. -/
def ctxCipherKey (c : List Nat) : List Nat := (c.drop 64).take (if ctxAlg c = 6 then 32 else keyLen (ctxAlg c))
def ctxSnKey (c : List Nat) : List Nat := (c.drop 128).take (keyLen (ctxAlg c))
def ctxIv (c : List Nat) : List Nat := (c.drop 40).take 12

/-- The fields of a context fit its kind (R693). -/
def ctxOk (c : List Nat) : Bool :=
  let k := ctxKind c
  let a := ctxAlg c
  decide (1 ≤ k) && decide (k ≤ 9) && decide (cf c 2 1 ≤ 1) && decide (cf c 3 1 < 4) && cf c 7 1 == 0 &&
    (if k ≤ 3 then decide (1 ≤ a) && decide (a ≤ 3) else if k = 4 then decide (1 ≤ a) && decide (a ≤ 7)
     else if k = 5 then decide (8 ≤ a) && decide (a ≤ 10) else a == 0)

/-! ## The context store (R694 to R697) -/

/-- The table index of a lease's context number (R694); none outside the range, or while the table is not enabled. -/
def ctxIndex (m : Mach) (l n : Nat) : Option Nat :=
  let r := (tget (lease m l).regs 0x2E00 0).toNat
  let i := bits r 23 0 + n
  if bits r 48 24 ≤ n ∨ 16777216 ≤ i ∨ !bit m.jobs.ctxTable.toNat 0 then none else some i

/-- The line of a table entry. -/
def ctxLine (m : Mach) (i : Nat) : Nat := bits m.jobs.ctxTable.toNat 51 32 * 2 ^ 24 + i

/-- A table entry for a context (R695). -/
def tableEntry (m : Mach) (c : List Nat) : Bytes :=
  let body := c.take 64 ++ keyWrap (nb m.jobs.ctxKey) ((c.drop 64).take 128) ++ List.replicate 48 0
  bn body ++ le 8 (Config.checkWord m.jobs.settKey (bn body)).toNat

/-- A context is written back to the table (R697). -/
def tableWrite (m : Mach) (half i : Nat) (b : Bytes) : Mach := wrPhys m (0x0C00 + half) (256 * ctxLine m i) b

/-- The half that serves: half 0 unless it is lost. -/
def ctxHalf (m : Mach) : Nat := if m.jobs.halfLost = some 0 then 1 else 0

/-- The resident contexts that a lease reserves (R712), and holds. -/
def ctxReserve (m : Mach) (l : Nat) : Nat := if imgHas m 0x000E then imgFld m 0x000E (8 + l) 8 4 else 0
def ctxHeldBy (m : Mach) (l : Nat) : Nat := m.jobs.ctx.countP (fun p => cf (nb p.2.data) 6 1 == l)

/-- Room for one more context: the least recently used one that no job holds leaves, first of a lease above its reservation (R697). -/
def ctxRoom (m : Mach) : Mach :=
  if m.jobs.ctx.length < 65536 then m else
  let free := m.jobs.ctx.filter (fun p => !(openJobs m).any (fun x => x.ctx == some p.1 && x.begun && x.ended.isNone))
  let above := free.filter (fun p =>
    let l := cf (nb p.2.data) 6 1
    decide (ctxReserve m l < ctxHeldBy m l))
  match pickBest (fun (a b : Nat × CtxEnt) => decide (a.2.lastUse < b.2.lastUse)) (if above.isEmpty then free else above) with
  | none => m
  | some v =>
    let m := tableWrite m (ctxHalf m) v.1 (tableEntry m (nb v.2.data))
    modJobs m (fun j => { j with ctx := tdel j.ctx v.1, ctxOut := (j.ctxOut + 1) % 2 ^ 32 })

/-- A context is placed in, or changed in, both halves (R696, R697). -/
def ctxPut (m : Mach) (i : Nat) (c : List Nat) : Mach :=
  let isNew := (tfind m.jobs.ctx i).isNone
  let m := touch (if isNew then ctxRoom m else m)
  modJobs m (fun j => { j with ctx := tset j.ctx i { data := bn c, lastUse := m.tick },
                               ctxIn := if isNew then (j.ctxIn + 1) % 2 ^ 32 else j.ctxIn })

/-- The context of a table index for a job (R696): resident, or read from the table, checked and unwrapped; CONTEXT_LOST where that
fails. An entry of zeros is a free context (R701, R751). -/
def ctxGet (m : Mach) (i : Nat) : Except Nat (List Nat) × Mach :=
  match tfind m.jobs.ctx i with
  | some e => (.ok (nb e.data), ctxPut m i (nb e.data))
  | none =>
    match rdPhys m (0x0C00 + ctxHalf m) (256 * ctxLine m i) 256 with
    | (none, m) => (.error 0x0B, m)
    | (some b, m) =>
      if allZero b then (.ok (List.replicate 256 0), m)
      else if fld b 248 8 ≠ (Config.checkWord m.jobs.settKey (b.take 248)).toNat then (.error 0x0B, m)
      else match keyUnwrap (nb m.jobs.ctxKey) (nb (bslice b 64 136)) with
        | none => (.error 0x0B, m)
        | some k =>
          let c := nb (b.take 64) ++ k ++ List.replicate 64 0
          (.ok c, ctxPut m i c)

/-- A context is written free: in both halves and in the table (R701, R751). -/
def ctxClear (m : Mach) (i : Nat) : Mach :=
  let was := (tfind m.jobs.ctx i).isSome
  let m := modJobs m (fun j => { j with ctx := tdel j.ctx i, ctxOut := if was then (j.ctxOut + 1) % 2 ^ 32 else j.ctxOut })
  tableWrite m (ctxHalf m) i (List.replicate 256 0)

/-! ## Descriptor fields (R700) -/

def jOp (x : Job) : Nat := fld x.desc 0 1
def jCtxNum (x : Job) : Nat := fld x.desc 4 4 % 2 ^ 24
def jIn (x : Job) : Nat := fld x.desc 16 4
def jSpace (x : Job) : Nat := fld x.desc 20 4
def jAux (x : Job) : Nat := fld x.desc 40 4
def jParam (x : Job) : Nat := fld x.desc 44 1
def jPad (x : Job) : Nat := fld x.desc 45 1
def isPk (op : Nat) : Bool := decide (0x20 ≤ op) && decide (op ≤ 0x23)
/-- The operations inside which a record boundary stands at every 16 KiB (R709). -/
def isBulk (op : Nat) : Bool := decide (3 ≤ op) && decide (op ≤ 0x0A)
/-- The operations that name no context (R701). -/
def noCtx (op : Nat) : Bool := op == 0x08 || op == 0x21

/-- The context suits the operation (R694, R701). -/
def ctxSuits (op : Nat) (c : List Nat) : Bool :=
  let k := ctxKind c
  let a := ctxAlg c
  match op with
  | 0x01 => decide (1 ≤ k) && decide (k ≤ 3) && cf c 2 1 == 0
  | 0x02 => decide (1 ≤ k) && decide (k ≤ 3) && cf c 2 1 == 1
  | 0x03 | 0x04 => k == 4 && decide (a ≤ 3)
  | 0x05 => k == 4 && (a == 4 || a == 5)
  | 0x06 | 0x07 => k == 4 && (a == 6 || a == 7)
  | 0x09 | 0x0A => k == 5
  | 0x0B | 0x0C => k == 6
  | 0x11 | 0x12 => k != 0
  | 0x20 => k == 7 || k == 8
  | 0x22 => k == 9
  | _ => true

/-- The lengths fit the operation (R701, R704); c is the context. -/
def lengthOk (x : Job) (c : List Nat) : Bool :=
  let n := jIn x
  let aux := jAux x
  let du := if jParam x = 1 then 4096 else 512
  match jOp x with
  | 0x01 => decide (n ≤ 16384)
  | 0x03 => decide (12 ≤ aux)
  | 0x04 => decide (12 ≤ aux) && decide (16 ≤ n)
  | 0x05 => aux == 16
  | 0x06 | 0x07 => aux == 16 && n % du == 0
  | 0x0A => decide (16 ≤ aux) && decide (aux ≤ hashLen (ctxAlg c - 7))
  | 0x0B => decide (16 ≤ n) && decide (n ≤ 4096) && n % 8 == 0
  | 0x0C => decide (24 ≤ n) && decide (n ≤ 4104) && n % 8 == 0
  | 0x10 => if bit (fld x.desc 1 1) 0 then aux == 4 && (n == 256 || n == 264) else n == 256
  | 0x11 => aux == 4
  | 0x20 => n == 32 || n == 48
  | 0x21 => (n == 32 || n == 48) && aux == (if jParam x = 2 then 193 else 129)
  | 0x22 => aux == 32
  | _ => true

/-! ## Records (R703 to R705) -/

/-- The nonce of the protocols that combine the IV with the sequence number. -/
def ivNonce (c : List Nat) (n : Nat) : List Nat := xorB (ctxIv c) (toBe 12 n)

/-- The mask of DTLS 1.3 record-number encryption, from the first 16 bytes of ciphertext (RFC 9147). -/
def snMask (c ct : List Nat) : List Nat :=
  if ctxAlg c = 3 then (chachaBlock (ctxSnKey c) ((ct.drop 4).take 12) (nle (ct.take 4))).take 2
  else (aesEnc (aesKeys (ctxSnKey c)) (ct.take 16)).take 2

/-- The nonce, the explicit part and the additional data of a DTLS 1.2 record (RFC 5288, RFC 7905). -/
def dtls12 (c : List Nat) (s8 : List Nat) (ctype n : Nat) : List Nat × List Nat :=
  (if ctxAlg c = 3 then xorB (ctxIv c) (List.replicate 4 0 ++ s8) else (ctxIv c).take 4 ++ s8,
   s8 ++ [ctype, 0xFE, 0xFD] ++ toBe 2 n)

/-- The record that SEAL_RECORD writes for a sequence number (R703, R704). -/
def sealRecord (c : List Nat) (seq ctype padding : Nat) (content : List Nat) : List Nat :=
  let n := content.length
  let inner := content ++ [ctype] ++ List.replicate padding 0
  match ctxKind c with
  | 1 =>
    let s8 := toBe 2 (cf c 4 2) ++ toBe 6 seq
    let (nonce, aad) := dtls12 c s8 ctype n
    let ex := if ctxAlg c = 3 then [] else s8
    let body := ex ++ aeadSeal (ctxAlg c) (ctxCipherKey c) nonce aad content
    [ctype, 0xFE, 0xFD] ++ s8 ++ toBe 2 body.length ++ body
  | 2 =>
    let h := [0x2C + cf c 4 2 % 4] ++ toBe 2 (seq % 65536) ++ toBe 2 (inner.length + 16)
    let ct := aeadSeal (ctxAlg c) (ctxCipherKey c) (ivNonce c seq) h inner
    h.take 1 ++ xorB ((h.drop 1).take 2) (snMask c ct) ++ h.drop 3 ++ ct
  | _ =>
    let h := [0x17, 0x03, 0x03] ++ toBe 2 (inner.length + 16)
    h ++ aeadSeal (ctxAlg c) (ctxCipherKey c) (ivNonce c seq) h inner

/-- How long that record is (R704). -/
def sealLength (c : List Nat) (n padding : Nat) : Nat :=
  match ctxKind c with
  | 1 => 13 + (if ctxAlg c = 3 then 0 else 8) + n + 16
  | _ => 5 + n + 1 + padding + 16

/-- The next sequence number that an open context expects: the highest opened plus one; the field itself where nothing has been
opened (bit 0 of the window clear). -/
def nextOpen (c : List Nat) : Nat := if bit (cf c 16 8) 0 then cf c 8 8 + 1 else cf c 8 8

/-- The full number nearest to the expected one with the given low 16 bits (RFC 9147). -/
def rebuildSeq (expect low : Nat) : Nat :=
  let near := expect / 65536 * 65536 + low
  let dist (v : Nat) : Nat := (v - expect) + (expect - v)
  let up := near + 65536
  let v := if dist up < dist near then up else near
  if 65536 ≤ near ∧ dist (near - 65536) < dist v then near - 65536 else v

/-- A record taken apart (R705, order 1): its sequence number, content type (none for the 1.3 kinds), nonce, additional data and
ciphertext with tag. -/
def parseRecord (c r : List Nat) : Option (Nat × Option Nat × List Nat × List Nat × List Nat) :=
  match ctxKind c with
  | 1 =>
    let rest := r.drop 13
    let ex := if ctxAlg c = 3 then 0 else 8
    let s8 := (r.drop 3).take 8
    if r.length < 13 ∨ r.getD 1 0 ≠ 0xFE ∨ r.getD 2 0 ≠ 0xFD ∨ nbe ((r.drop 3).take 2) ≠ cf c 4 2 ∨
        nbe ((r.drop 11).take 2) ≠ rest.length ∨ rest.length < ex + 16 then none
    else
      let n := rest.length - ex - 16
      let ctype := r.headD 0
      let (nonce, aad) := dtls12 c (if ex = 0 then s8 else rest.take 8) ctype n
      some (nbe ((r.drop 5).take 6), some ctype, nonce, s8 ++ aad.drop 8, rest.drop ex)
  | 2 =>
    let rest := r.drop 5
    if r.length < 21 ∨ r.headD 0 ≠ 0x2C + cf c 4 2 % 4 ∨ nbe ((r.drop 3).take 2) ≠ rest.length then none
    else
      let s := xorB ((r.drop 1).take 2) (snMask c rest)
      let seq := rebuildSeq (nextOpen c) (nbe s)
      some (seq, none, ivNonce c seq, r.take 1 ++ s ++ (r.drop 3).take 2, rest)
  | _ =>
    let rest := r.drop 5
    if r.length < 21 ∨ r.take 3 ≠ [0x17, 0x03, 0x03] ∨ nbe ((r.drop 3).take 2) ≠ rest.length then none
    else some (nextOpen c, none, ivNonce c (nextOpen c), r.take 5, rest)

/-- The replay window lets a sequence number through (R705, order 2). -/
def replayOk (c : List Nat) (seq : Nat) : Bool :=
  let high := cf c 8 8
  decide (high < seq) || (decide (high - seq < 64) && !bit (cf c 16 8) (high - seq))

/-- The context after a record was opened (R705). -/
def opened (c : List Nat) (seq : Nat) : List Nat :=
  let high := cf c 8 8
  let w := cf c 16 8
  if high < seq then cput c 8 (toLe 8 seq ++ toLe 8 ((w <<< (min 64 (seq - high)) ||| 1) % 2 ^ 64))
  else if high - seq < 64 then cput c 16 (toLe 8 (w ||| 1 <<< (high - seq)))
  else c

/-- Trailing zeros stripped. -/
def stripZeros (l : List Nat) : List Nat := (l.reverse.dropWhile (fun x => x == 0)).reverse

/-! ## The operations (R701) -/

/-- What an operation gives: its output, the changed context, and for records the field of R706 and the content type. -/
structure CipherRes where
  out : List Nat
  ctx : Option (List Nat)
  seqField : Nat
  ctype : Nat

def plainRes (out : List Nat) : CipherRes := { out := out, ctx := none, seqField := 0, ctype := 0 }

/-- SEAL_RECORD (R704); a restarted job whose number the context records uses the number recorded with it (R711). -/
def opSeal (x : Job) (c input : List Nat) : Except Nat CipherRes :=
  let again := cf c 24 8 == x.num
  let seq := if again then cf c 32 8 else cf c 8 8
  let limit := if ctxKind c = 3 then 2 ^ 64 - 1 else 2 ^ 48 - 1
  if jSpace x < sealLength c input.length (jPad x) then .error 0x04
  else if !again ∧ limit ≤ seq then .error 0x06
  else
    let c' := cput (cput c 8 (toLe 8 (seq + 1))) 24 (toLe 8 x.num ++ toLe 8 seq)
    .ok { out := sealRecord c seq (jParam x) (jPad x) input, ctx := if again then none else some c',
          seqField := cf c 4 2 * 2 ^ 48 + seq % 2 ^ 48, ctype := 0 }

/-- OPEN_RECORD (R705). -/
def opOpen (x : Job) (c input : List Nat) : Except Nat CipherRes :=
  match parseRecord c input with
  | none => .error 0x03
  | some (seq, ctype, nonce, aad, ct) =>
    let again := cf c 24 8 == x.num
    if !again ∧ bit (cf c 3 1) 1 ∧ ctxKind c ≠ 3 ∧ !replayOk c seq then .error 0x02 else
    match aeadOpen (ctxAlg c) (ctxCipherKey c) nonce aad ct with
    | none => .error 0x01
    | some p =>
      let q := if ctype.isSome then p else stripZeros p
      if ctype.isNone ∧ q.isEmpty then .error 0x03 else
      let content := if ctype.isSome then q else q.dropLast
      if jSpace x < content.length then .error 0x04
      else .ok { out := content, ctx := if again then none else some (cput (opened c seq) 24 (toLe 8 x.num ++ toLe 8 seq)),
                 seqField := cf c 4 2 * 2 ^ 48 + seq % 2 ^ 48, ctype := ctype.getD (q.getLastD 0) }

/-- The operations on data, with a key from the context; aux is the auxiliary data, hk the HMAC key. -/
def opData (x : Job) (c input aux hk : List Nat) : Except Nat CipherRes :=
  let key := ctxCipherKey c
  let out (l : List Nat) : Except Nat CipherRes := if jSpace x < l.length then .error 0x04 else .ok (plainRes l)
  let opt (l : Option (List Nat)) : Except Nat CipherRes := match l with | none => .error 0x01 | some l => out l
  match jOp x with
  | 0x03 => out (aeadSeal (ctxAlg c) key (aux.take 12) (aux.drop 12) input)
  | 0x04 => opt (aeadOpen (ctxAlg c) key (aux.take 12) (aux.drop 12) input)
  | 0x05 => out (aesCtr (aesKeys key) (nbe aux) input)
  | 0x06 => out (aesXts false key (if jParam x = 1 then 4096 else 512) (nle aux) input)
  | 0x07 => out (aesXts true key (if jParam x = 1 then 4096 else 512) (nle aux) input)
  | 0x08 => out (shaHash (jParam x) input)
  | 0x09 => out (hmac (ctxAlg c - 7) hk input)
  | 0x0A => if (hmac (ctxAlg c - 7) hk input).take aux.length == aux then .ok (plainRes []) else .error 0x01
  | 0x0B => out (keyWrap ((c.drop 64).take 32) input)
  | 0x0C => opt (keyUnwrap ((c.drop 64).take 32) input)
  | 0x20 =>
    let cv := curveOf (ctxKind c - 6)
    out (ecdsaSign cv (nbe ((c.drop 64).take cv.len)) input)
  | 0x21 =>
    let cv := curveOf (jParam x)
    if ecdsaVerify cv input (aux.take (1 + 2 * cv.len)) (aux.drop (1 + 2 * cv.len)) then .ok (plainRes []) else .error 0x01
  | _ => out (x25519 ((c.drop 64).take 32) aux)

/-- The context that CTX_LOAD makes of an image (R701): the owning lease set, bytes 8 to 39 cleared but for the sequence number. -/
def loadedCtx (l : Nat) (img : List Nat) : List Nat :=
  cput (cput img 6 [l]) 16 (List.replicate 24 0)

/-- The public key and the context of KEYGEN for a drawn number (R701). -/
def keygen (l kind r : Nat) : List Nat × List Nat :=
  let cv := curveOf (kind - 6)
  let d := r % (cv.n - 1) + 1
  let priv := if kind = 9 then toLe 32 r else toBe cv.len d
  let pub := if kind = 9 then x25519 priv (9 :: List.replicate 31 0) else ecPublic cv d
  (pub, [kind, 0, 0, 0, 0, 0, l, 0] ++ List.replicate 56 0 ++ priv ++ List.replicate (192 - priv.length) 0)

end Sys2Proof.Machine
end

