-- ==== Sys2Proof/Machine/CipherCmds.lean ====
section
/-! DEFINITION. Cipher engines and public-key units at work: record boundaries (R709), RING_CIPHER (R700, R709, R867), failure and
restart (R711), the halves of the context store (R699). -/

namespace Sys2Proof.Machine

/-! ## A job from begin to end -/

/-- A job ends with a status; OK, and AUTH_FAILED with REPLAY, are counted (R715). -/
def cipherEnd (m : Mach) (x : Job) (st : Nat) : Mach :=
  let m := if st = 0 then countWork m 1 x.unit 0 0xFFFFFFFF
           else if st = 1 ∨ st = 2 then countWork m 1 x.unit 1 0xFFFFFFFF else m
  endJob m x st

/-- The context that a job works with: an operation that replaces or clears its target needs none; zeros where it names none. -/
def jobCtx (m : Mach) (x : Job) : Except Nat (List Nat) × Mach :=
  let op := jOp x
  if noCtx op then (.ok (List.replicate 256 0), m) else
  match ctxIndex m x.lease (jCtxNum x) with
  | none => (.error 0x05, m)
  | some i =>
    if op = 0x10 ∨ op = 0x23 then
      let old := (tfind m.jobs.ctx i).map (fun e => nb e.data)
      (.ok (old.getD (List.replicate 256 0)), m)
    else match ctxGet m i with
      | (.error e, m) => (.error e, m)
      | (.ok c, m) => (if ctxSuits op c then .ok c else .error 0x05, m)

/-- What a job is held to before it takes data: its context, its lengths, NOT_EXPORTABLE. -/
def cipherCheck (m : Mach) (x : Job) : Except Nat (List Nat) × Mach :=
  match jobCtx m x with
  | (.error e, m) => (.error e, m)
  | (.ok c, m) =>
    if !lengthOk x c then (.error 0x07, m)
    else if jOp x = 0x11 ∧ !bit (cf c 3 1) 0 then (.error 0x08, m)
    else (.ok c, m)

/-- The status of a failed access (R707). -/
def accStatus : AccErr → Nat
  | .poison => 0x0A
  | .xlate _ => 0x09

/-- The auxiliary data of a job. -/
def readAux (m : Mach) (x : Job) : Except Nat (List Nat) × Mach :=
  match rdLease m (unitHub x.unit) (workSource 1 x.unit) x.lease (fld x.desc 32 8) (jAux x) with
  | (.error e, m) => (.error (accStatus e), m)
  | (.ok b, m) => (.ok (nb b), m)

/-- The key-encryption key that the auxiliary data names (R701). -/
def kekOf (m : Mach) (x : Job) (aux : List Nat) : Except Nat (List Nat) × Mach :=
  match ctxIndex m x.lease (nle (aux.take 4)) with
  | none => (.error 0x05, m)
  | some i => match ctxGet m i with
    | (.error e, m) => (.error e, m)
    | (.ok c, m) => (if ctxKind c = 6 then .ok ((c.drop 64).take 32) else .error 0x05, m)

/-- The key of an HMAC context (R693): its 128 bytes, trailing zeros changing nothing up to the block. For HMAC-SHA-256 and a key
beyond 64 bytes the length is not kept: it is free between the last byte that is not 0 and 128. -/
def hmacKey (m : Mach) (c : List Nat) : List Nat × Mach :=
  let k := (c.drop 64).take 128
  let n := (stripZeros k).length
  if ctxAlg c ≠ 8 then (k, m)
  else if n ≤ 64 then (k.take 64, m)
  else
    let (r, m) := takeChoice m (129 - n)
    (k.take (n + r), m)

/-- The operation of a job on its whole input. -/
def runOp (m : Mach) (x : Job) (c : List Nat) : Except Nat CipherRes × Mach :=
  let input := nb x.buf
  match readAux m x with
  | (.error e, m) => (.error e, m)
  | (.ok aux, m) =>
    match jOp x with
    | 0x01 => (opSeal x c input, m)
    | 0x02 => (opOpen x c input, m)
    | 0x10 =>
      let fin (img : List Nat) : Except Nat CipherRes :=
        let img := img.take 192 ++ List.replicate 64 0
        if ctxOk img then .ok { plainRes [] with ctx := some (loadedCtx x.lease img) } else .error 0x05
      if bit (fld x.desc 1 1) 0 then
        match kekOf m x aux with
        | (.error e, m) => (.error e, m)
        | (.ok kek, m) => (match keyUnwrap kek ((input.drop 64).take 136) with
          | none => .error 0x01
          | some k => fin (input.take 64 ++ k), m)
      else (fin input, m)
    | 0x11 => match kekOf m x aux with
      | (.error e, m) => (.error e, m)
      | (.ok kek, m) =>
        (if jSpace x < 264 then .error 0x04
         else .ok (plainRes (c.take 64 ++ keyWrap kek ((c.drop 64).take 128) ++ List.replicate 64 0)), m)
    | 0x12 => (.ok { plainRes [] with ctx := some (List.replicate 256 0) }, m)
    | 0x23 =>
      let kind := jParam x
      let again := cf c 24 8 == x.num
      let (r, m) := (List.range 6).foldl (fun (p : Nat × Mach) _ =>
        let (w, m) := takeFree p.2
        (p.1 * 2 ^ 64 + w.toNat, m)) (0, m)
      let (pub, nc) := keygen x.lease kind r
      let cv := curveOf (kind - 6)
      let pub := if !again then pub
                 else if kind = 9 then x25519 ((c.drop 64).take 32) (9 :: List.replicate 31 0)
                 else ecPublic cv (nbe ((c.drop 64).take cv.len))
      (if jSpace x < pub.length then .error 0x04
       else .ok { plainRes pub with ctx := if again then none else some (cput nc 24 (toLe 8 x.num)) }, m)
    | 0x09 | 0x0A =>
      let (hk, m) := hmacKey m c
      (opData x c input aux hk, m)
    | _ => (opData x c input aux [], m)

/-- The end of a job (R697, R707): its output is written, then its context changes in both halves, then it ends. -/
def cipherFinish (m : Mach) (x : Job) (c : List Nat) : Mach :=
  match runOp m x c with
  | (.error e, m) => cipherEnd m x e
  | (.ok r, m) =>
    match wrLease m (unitHub x.unit) (workSource 1 x.unit) x.lease (fld x.desc 24 8) (bn r.out) with
    | (.error e, m) => cipherEnd m x (accStatus e)
    | (.ok _, m) =>
      let m := match r.ctx, ctxIndex m x.lease (jCtxNum x) with
        | some nc, some i => if nc.all (fun b => b == 0) then ctxClear m i else ctxPut m i nc
        | _, _ => m
      cipherEnd m { x with written := r.out.length, seqField := r.seqField, ctype := r.ctype } 0

/-- A record boundary of the job at work (R709): the next 16 KiB of a bulk operation, or the whole input, is taken; a job that has
taken all of it ends; one that a reset stops ends CANCELLED and changes no context (R710). -/
def cipherStep (m : Mach) (x : Job) : Mach :=
  match cipherCheck m x with
  | (.error e, m) => cipherEnd m x e
  | (.ok c, m) =>
    let k := if isBulk (jOp x) then min 16384 (jIn x - x.consumed) else jIn x - x.consumed
    match rdLease m (unitHub x.unit) (workSource 1 x.unit) x.lease (fld x.desc 8 8 + x.consumed) k with
    | (.error e, m) => cipherEnd m x (accStatus e)
    | (.ok b, m) =>
      let y := { x with consumed := x.consumed + k, buf := x.buf ++ b }
      let m := chargeJob m x (if isPk (jOp x) then 4096 else k)
      if y.stop then endJob m y 0x0C
      else if jIn x ≤ y.consumed then cipherFinish m y c
      else modWork (setJob m y) 1 x.unit (fun w => { w with run := none })

/-- A unit chooses its next job (R709); Hold entry lets it take none (R710). -/
def cipherNext (m : Mach) (u : Nat) : Mach :=
  if m.mode.holdStart.isSome then m else
  match chooseJob m 1 u with
  | (none, m) => m
  | (some x, m) =>
    let m := setJob m { x with begun := true }
    match cipherCheck m x with
    | (.error e, m) => cipherEnd m { x with begun := true } e
    | (.ok _, m) => modWork m 1 u (fun w => { w with run := some x.num })

/-- A unit works on what it holds while it is Active or Draining, and is Offline once a draining one holds nothing (R677, R715). -/
def cipherBoundary (m : Mach) (u : Nat) : Mach :=
  if !workActive m 1 u && (decide (8 ≤ u) || ustate m 0x0A u != .draining) then m else
  let m := match (workUnit m 1 u).run.bind (job m) with
    | some x => cipherStep m x
    | none => m
  let m := cipherNext m u
  if u < 8 then workDrained m 1 u else m

/-- RECORD_BOUNDARY (R709); units 8 and 9 are the public-key units. -/
def execRecordBoundary (u : Fin 10) (s : State) : Host.Outcome State Fault Refusal := runUnits s (fun m => cipherBoundary m u.val)

/-! ## RING_CIPHER (R255, R256, R700, R709, R867) -/

/-- The descriptor keeps the table of R700. -/
def cipherDescOk (d : Bytes) : Bool :=
  let op := fld d 0 1
  let param := fld d 44 1
  let opOk := (decide (1 ≤ op) && decide (op ≤ 0x0C)) || (decide (0x10 ≤ op) && decide (op ≤ 0x12)) || isPk op
  let paramOk := match op with
    | 0x06 | 0x07 => decide (param ≤ 1)
    | 0x08 => decide (1 ≤ param) && decide (param ≤ 3)
    | 0x21 => param == 1 || param == 2
    | 0x23 => decide (7 ≤ param) && decide (param ≤ 9)
    | _ => true
  opOk && paramOk && (fld d 1 1 == 0 || (fld d 1 1 == 1 && op == 0x10)) && fld d 2 2 == 0 && decide (fld d 4 4 < 2 ^ 24) &&
    decide (fld d 16 4 ≤ 16777216) && decide (fld d 40 4 ≤ 65536) && fld d 46 2 == 0 && fld d 56 8 == 0

/-- The public-key unit for a submission (R709): that of the named engine's hub, or the allowed one with fewer jobs. -/
def pickPk (m : Mach) (l sel : Nat) : Except Nat (Nat × Bool) :=
  let hs := if sel = 0xFF then [0, 1] else [sel / 4]
  let mine := hs.filter (fun h => pkAllowed m l h)
  let act := mine.filter (fun h => workActive m 1 (8 + h))
  if mine.isEmpty then .error 2 else if act.isEmpty then .error 4 else
  match pickBest (fun a b => decide ((unitJobs m 1 (8 + a)).length < (unitJobs m 1 (8 + b)).length)) act with
  | none => .error 1
  | some h => match freeSlot m 1 (8 + h) l with
    | some r => .ok (8 + h, r)
    | none => .error 1

/-- RING_CIPHER at its target. -/
def ringCipher (m : Mach) (level l : Nat) (arg a : Word) : Mach :=
  let sel := bits arg.toNat 7 0
  let q := bits arg.toNat 11 8
  if !leaseAccepts m l then answerRing m level 3
  else if bits arg.toNat 63 12 ≠ 0 ∨ (8 ≤ sel ∧ sel ≠ 0xFF) ∨ a.toNat % 64 ≠ 0 then answerRing m level 5
  else if !bit (queueCtl m 1 l q) 63 then answerRing m level 2
  else
    let hub := if sel < 8 then sel / 4 else ((leaseMask m 1 l).headD 0) / 4
    let (d, m) := rdLease m hub (workSource 1 (4 * hub)) l a.toNat 64
    let pk := match d with | .ok b => isPk (fld b 0 1) | .error _ => false
    let pick := if pk then pickPk m l sel else pickUnit m 1 l sel
    match pick, d with
    | .error 2, _ => answerRing m level 2
    | .error 4, _ => answerRing m level 4
    | _, .error _ => answerRing m level 5
    | _, .ok d =>
      if !cipherDescOk d then answerRing m level 5 else
      match pick with
      | .error c => answerRing m level c
      | .ok (u, r) =>
        if m.mode.holdStart.isSome then answerRing m level 1 else
        match queueRoom m 1 (unitHub u) l q with
        | (false, m) => answerRing m level 1
        | (true, m) =>
          let ctx := if noCtx (fld d 0 1) then none else ctxIndex m l (fld d 4 4 % 2 ^ 24)
          answerRing (takeJob m (newJob m 1 l q u r d ctx)) level 0

/-! ## The other commands (R699, R711, R715) -/

def execCipherOnline (a : Actor) (x : CiphId) (s : State) : Host.Outcome State Fault Refusal :=
  runM s (ctlWrite a 0x0A x.val 0x0100 (fun m => workCmd m 1 x.val 1))

def execCipherOffline (a : Actor) (x : CiphId) (s : State) : Host.Outcome State Fault Refusal :=
  runM s (ctlWrite a 0x0A x.val 0x0100 (fun m => workCmd m 1 x.val 2))

/-- CIPHER_UNIT_FAILURE (R711): a cipher engine or public-key unit at work fails. -/
def execCipherUnitFailure (u : Fin 10) (s : State) : Host.Outcome State Fault Refusal :=
  runUnits s (fun m =>
    if workActive m 1 u.val || (decide (u.val < 8) && ustate m 0x0A u.val == .draining) then workFails m 1 u.val else m)

/-- A half of the context store is lost (R699): the other serves every engine; with both lost no context is resident. -/
def halfLost (m : Mach) (h : Nat) : Mach :=
  let m := setUState m 0x0B h .failed
  let m := match m.jobs.halfLost with
    | none => modJobs m (fun j => { j with halfLost := some h, mirror := 2 })
    | some o => if o = h then modJobs m (fun j => { j with mirror := 2 })
                else modJobs m (fun j => { j with ctx := [], ctxOut := (j.ctxOut + j.ctx.length) % 2 ^ 32, mirror := 2 })
  raiseErr m 0x0082 (0x0C00 + h) (le 1 h)

/-- CTX_HALF_LOSS: a half in service is lost. -/
def execCtxHalfLoss (h : HubId) (s : State) : Host.Outcome State Fault Refusal :=
  runUnits s (fun m => if ustate m 0x0B h.val == .active then halfLost m h.val else m)

/-- A lost half returns to service: the other half's contexts are copied into it (R699). -/
def halfReturns (m : Mach) (h : Nat) : Mach :=
  if m.jobs.halfLost = some h then modJobs (setUState m 0x0B h .starting) (fun j => { j with mirror := 1 }) else m

/-- CTX_HALF_COPY_COMPLETE (R699): every resident context is copied, and mirroring resumes. -/
def execCtxHalfCopyComplete (h : HubId) (s : State) : Host.Outcome State Fault Refusal :=
  runUnits s (fun m =>
    if m.jobs.mirror = 1 ∧ m.jobs.halfLost = some h.val then
      modJobs (setUState m 0x0B h.val .active) (fun j => { j with mirror := 0, halfLost := none })
    else m)

end Sys2Proof.Machine
end

