-- ==== Sys2Proof/Machine/ClockOps.lean ====
section
/-! DEFINITION. Clock domains (R831 to R842, R859): their units, ranges, frequencies and thermal limits. -/

namespace Sys2Proof.Machine

/-- The unit that owns a domain, as (kind, index) (R831); a mesh domain, a group of channel processors and always-on belong to no
single unit with a block. -/
def domUnit (d : Nat) : Option (Nat × Nat) :=
  if d < 64 then some (0x01, d)
  else if d < 80 then some (0x03, d - 64)
  else if d < 92 then some (0x04, d - 80)
  else if d < 100 then some (0x06, d - 92)
  else if d < 102 then some (0x07, d - 100)
  else if d < 110 then some (0x09, d - 102)
  else if d < 118 then some (0x0A, d - 110)
  else if d < 120 then some (0x0B, d - 118)
  else if 128 ≤ d ∧ d < 130 then some (0x0E, d - 128)
  else none

/-- A bench, crusher or cipher-engine domain chooses its own frequency (R834); every other has a fixed clock. -/
def domVar (d : Nat) : Bool := decide (d < 64) || (decide (102 ≤ d) && decide (d < 118))

/-- The nominal clock of a domain of fixed clock in MHz (R831); 1.5625 GHz is cut to whole MHz. -/
def domNominal (m : Mach) (d : Nat) : Nat :=
  if 64 ≤ d ∧ d < 80 then 2000
  else if 80 ≤ d ∧ d < 92 then 25 * chanRate m (d - 80)
  else if 92 ≤ d ∧ d < 100 then 1562
  else if 100 ≤ d ∧ d < 102 then 1000
  else if 118 ≤ d ∧ d < 120 then 1600
  else if 120 ≤ d ∧ d < 124 then 2000
  else if 124 ≤ d ∧ d < 128 then 1600
  else if 128 ≤ d ∧ d < 130 then 800
  else if d = 130 then 100
  else 0

/-- Ceiling and floor in MHz, thermal limit in °C (R840). -/
def domCeil (m : Mach) (d : Nat) : Nat := if domVar d then 100 * imgFld m 0x0002 d 0 1 else domNominal m d
def domFloor (m : Mach) (d : Nat) : Nat := if domVar d then 100 * imgFld m 0x0002 d 1 1 else domNominal m d
def domLimit (m : Mach) (d : Nat) : Nat :=
  if !domVar d then 0 else
  let v := imgFld m 0x0002 d 2 1
  if v = 0 ∧ (imgRec m 0x0002 d).isSome then 100 else v

/-- A domain's clock runs from its unit's release; a variable one starts at its ceiling (log entry 42). -/
def domStart (m : Mach) (d : Nat) : Mach := modDom m d (fun x => { x with mhz := if x.tripped then 0 else domCeil m d })

/-- A domain gated by Hold (R838); the others run at their Hold clock. -/
def holdMhz (m : Mach) (d : Nat) : Nat :=
  if 80 ≤ d ∧ d < 92 then 400
  else if 120 ≤ d ∧ d < 124 then 500
  else if 124 ≤ d ∧ d < 126 then 400
  else if (92 ≤ d ∧ d < 102) ∨ 128 ≤ d then domNominal m d
  else 0

/-- `CLK_DOMAIN` (R859): the regulator's output is measured, and its value is open. -/
def clkWord (m : Mach) (d : Nat) : Word × Mach :=
  let x := dom m d
  let hold := m.mode.st == .hold && x.mhz != 0
  let mhz := if d = 130 then 100 else if hold then holdMhz m d else x.mhz
  let st := if x.tripped then 4 else if d != 130 && x.mhz == 0 then 0 else if hold then 3 else if x.throttled then 2 else 1
  let (v, m') := takeFree m
  (pack [(56, 8, x.temp), (48, 8, domLimit m d), (40, 8, domCeil m d / 100), (32, 8, domFloor m d / 100), (16, 16, mhz), (12, 4, st), (0, 12, v.toNat)], m')

end Sys2Proof.Machine
end

