-- ==== Sys2Proof/Machine/Flags.lean ====
section
/-! DEFINITION. Integer arithmetic with its flags (R208, R217 to R226, R268 to R271): the ALUs, the guard operation, products,
quotients. -/

namespace Sys2Proof.Machine

/-- What an ALU operation gives (R218): R, the flags C V Z N, the guard that it writes with its value, and whether it overflows as
NEG and ABS do (R220). -/
structure AluRes where
  r : Word
  c : Bool
  v : Bool
  z : Bool
  n : Bool
  guard : Option (Nat × Bool)
  iov : Bool
  deriving DecidableEq, Repr

/-- The word F: [0] C, [1] V, [2] Z, [3] N (R217). -/
def AluRes.f (x : AluRes) : Nat := b2n x.c + 2 * b2n x.v + 4 * b2n x.z + 8 * b2n x.n

/-- A result with its own Z and N. -/
def aluRes (r : Word) (c v : Bool) : AluRes :=
  { r := r, c := c, v := v, z := r == 0, n := r.msb, guard := none, iov := false }

/-- A signed value lies outside 64 bits. -/
def outside (x : Int) : Bool := decide (x < -(2 ^ 63)) || decide (2 ^ 63 ≤ x)

/-- A + B + carry (R268). -/
def addWith (a b : Word) (cin : Nat) : AluRes :=
  aluRes (a + b + BitVec.ofNat 64 cin) (decide (2 ^ 64 ≤ a.toNat + b.toNat + cin)) (outside (a.toInt + b.toInt + cin))

/-- A - B - borrow (R268). -/
def subWith (a b : Word) (cin : Nat) : AluRes :=
  aluRes (a - b - BitVec.ofNat 64 cin) (decide (a.toNat < b.toNat + cin)) (outside (a.toInt - b.toInt - cin))

/-- The least signed value. -/
def minWord : Word := 0x8000000000000000#64

/-- Bit counts and byte reversal (R218, BITS). -/
def leadingZeros (n : Nat) (w : Word) : Nat :=
  match n with
  | 0 => 0
  | k + 1 => if w.getLsbD k then 0 else leadingZeros k w + 1
def trailingZeros (n i : Nat) (w : Word) : Nat :=
  match n with
  | 0 => 0
  | k + 1 => if w.getLsbD i then 0 else trailingZeros k (i + 1) w + 1
def onesIn (w : Word) : Nat := (List.range 64).countP (fun i => w.getLsbD i)
def byteReverse (w : Word) : Word := BitVec.ofNat 64 (leVal (be 8 w.toNat))
def bitsOp (a b : Word) : Word :=
  match b.toNat % 4 with
  | 0 => BitVec.ofNat 64 (leadingZeros 64 a)
  | 1 => BitVec.ofNat 64 (trailingZeros 64 0 a)
  | 2 => BitVec.ofNat 64 (onesIn a)
  | _ => byteReverse a

/-- A condition of CMP (R221); 6 and 7 are reserved. -/
def condHolds (cond : Nat) (a b : Word) : Bool :=
  match cond with
  | 0 => a == b
  | 1 => a != b
  | 2 => decide (a.toInt < b.toInt)
  | 3 => decide (b.toInt ≤ a.toInt)
  | 4 => decide (a.toNat < b.toNat)
  | _ => decide (b.toNat ≤ a.toNat)

/-- A compare (R218, R221): the outcome in R and in a guard, the flags of SUB. -/
def compareOp (cond guard : Nat) (a b : Word) : AluRes :=
  let o := condHolds cond a b
  { subWith a b 0 with r := if o then 1 else 0, guard := if guard = 0 then none else some (guard, o) }

/-- CC holds a reserved encoding (R221). -/
def ccReserved (cc : Nat) : Bool := bit cc 3 || bit cc 7 || decide (6 ≤ bits cc 6 4)

/-- The operation at an offset of an ALU, on A, B, CIN and CC (R218). -/
def aluOp (o : Nat) (a b : Word) (cin cc : Nat) : AluRes :=
  match o with
  | 0x05 => addWith a b 0
  | 0x06 => addWith a b cin
  | 0x07 => subWith a b 0
  | 0x08 => subWith a b cin
  | 0x09 => { aluRes (0 - a) (a != 0) (a == minWord) with iov := a == minWord }
  | 0x0A => { aluRes (if a.msb then 0 - a else a) false (a == minWord) with iov := a == minWord }
  | 0x0B => aluRes (a &&& b) false false
  | 0x0C => aluRes (a ||| b) false false
  | 0x0D => aluRes (a ^^^ b) false false
  | 0x0E => aluRes (a &&& ~~~b) false false
  | 0x0F => aluRes (if 64 ≤ b.toNat then 0 else a <<< b.toNat) false false
  | 0x10 => aluRes (if 64 ≤ b.toNat then 0 else a >>> b.toNat) false false
  | 0x11 => aluRes (a.sshiftRight (min 64 b.toNat)) false false
  | 0x12 => aluRes (a.rotateLeft (b.toNat % 64)) false false
  | 0x13 => aluRes (if a.toInt ≤ b.toInt then a else b) false false
  | 0x14 => aluRes (if a.toInt ≤ b.toInt then b else a) false false
  | 0x15 => aluRes (bitsOp a b) false false
  | 0x16 => compareOp (bits cc 6 4) (bits cc 2 0) a b
  | 0x17 => compareOp 0 1 a b
  | 0x18 => compareOp 0 2 a b
  | 0x19 => compareOp 0 3 a b
  | 0x1A => compareOp 2 1 a b
  | 0x1B => compareOp 2 2 a b
  | 0x1C => compareOp 2 3 a b
  | 0x1D => compareOp 4 1 a b
  | 0x1E => compareOp 4 2 a b
  | _ => compareOp 4 3 a b

/-! ## Guards (R212) -/

/-- GOP's encoding is reserved, or D is 0. -/
def gopBad (a : Nat) : Bool := bits a 15 14 != 0 || bits a 13 12 == 3 || bit a 3 || bits a 2 0 == 0

/-- The value of the guard that GOP computes from a guard word whose bit 0 is 1. -/
def gopValue (guards a : Nat) : Bool :=
  let x := bit guards (bits a 6 4) != bit a 7
  let y := bit guards (bits a 10 8) != bit a 11
  match bits a 13 12 with
  | 0 => x && y
  | 1 => x || y
  | _ => x != y

/-! ## Products and quotients (R222 to R226, R270, R271) -/

/-- The 128-bit product as its low and high halves: 5 UMUL, 6 SMUL, 7 SUMUL. -/
def mulOp (o : Nat) (a b : Word) : Word × Word :=
  let p : Int := match o with
    | 5 => a.toNat * b.toNat
    | 6 => a.toInt * b.toInt
    | _ => a.toInt * b.toNat
  let v := toTwos 128 p
  (BitVec.ofNat 64 v, BitVec.ofNat 64 (v / 2 ^ 64))

/-- A division by zero; the SDIV that overflows: 5 UDIV, 6 SDIV. -/
def divByZero (b : Word) : Bool := b == 0
def divOverflows (o : Nat) (a b : Word) : Bool := o == 6 && a == minWord && b == BitVec.allOnes 64

/-- Quotient and remainder (R224, R271). -/
def divOp (o : Nat) (a b : Word) : Word × Word :=
  if b = 0 then (0, a)
  else if o = 5 then (BitVec.ofNat 64 (a.toNat / b.toNat), BitVec.ofNat 64 (a.toNat % b.toNat))
  else (BitVec.ofInt 64 (a.toInt.tdiv b.toInt), BitVec.ofInt 64 (a.toInt.tmod b.toInt))

end Sys2Proof.Machine
end

