-- ==== Sys2Proof/Machine/Fpu.lean ====
section
/-! DEFINITION. Floating-point arithmetic (R227 to R233, R272 to R292): each result exact and rounded once, with its flags. A format
is binary32 or binary64; flags are numbers with [0] IV, [1] DZ, [2] OF, [3] UF, [4] NX, as they stand at bits [24:20] of the
flags word (R208). -/

namespace Sys2Proof.Machine

/-- A format: precision, greatest exponent, width of the exponent field (R272). -/
structure Fmt where
  p : Nat
  emax : Nat
  ebits : Nat
  deriving DecidableEq, Repr

def f32 : Fmt := { p := 24, emax := 127, ebits := 8 }
def f64 : Fmt := { p := 53, emax := 1023, ebits := 11 }

/-- The exponent of the least subnormal. -/
def Fmt.qmin (f : Fmt) : Int := 2 - (f.emax : Int) - (f.p : Int)
/-- The width of a value, its sign bit, the pattern of infinity, the quiet bit. -/
def Fmt.width (f : Fmt) : Nat := f.p + f.ebits
def Fmt.signBit (f : Fmt) : Nat := 2 ^ (f.width - 1)
def Fmt.inf (f : Fmt) : Nat := (2 ^ f.ebits - 1) * 2 ^ (f.p - 1)
def Fmt.quiet (f : Fmt) : Nat := 2 ^ (f.p - 2)
/-- The default NaN (R283) and the largest finite value. -/
def Fmt.dnan (f : Fmt) : Nat := f.inf + f.quiet
def Fmt.maxFinite (f : Fmt) : Nat := f.inf - 1

/-- A value taken apart: a NaN, an infinity, or (-1)^s × m × 2^e. -/
inductive FVal where
  | nan (bits : Nat)
  | inf (s : Bool)
  | fin (s : Bool) (m : Nat) (e : Int)
  deriving DecidableEq, Repr

def Fmt.unpack (f : Fmt) (x : Nat) : FVal :=
  let x := x % 2 ^ f.width
  let s := decide (f.signBit ≤ x)
  let mag := x % f.signBit
  let ex := mag / 2 ^ (f.p - 1)
  let m := mag % 2 ^ (f.p - 1)
  if f.inf < mag then .nan x
  else if mag = f.inf then .inf s
  else if ex = 0 then .fin s m f.qmin
  else .fin s (m + 2 ^ (f.p - 1)) (f.qmin + (ex - 1 : Nat))

/-- A signalling NaN. -/
def Fmt.isSnan (f : Fmt) (x : Nat) : Bool :=
  match f.unpack x with
  | .nan b => b / f.quiet % 2 == 0
  | _ => false
def Fmt.isNan (f : Fmt) (x : Nat) : Bool := match f.unpack x with | .nan _ => true | _ => false

/-- A magnitude with a sign. -/
def Fmt.sign (f : Fmt) (s : Bool) (mag : Nat) : Nat := if s then f.signBit + mag else mag

/-- The number of bits of a number. -/
def bitLen (fuel n : Nat) : Nat :=
  match fuel with
  | 0 => 0
  | f + 1 => if n = 0 then 0 else bitLen f (n / 2) + 1

/-- A number of units of 2^q nearest to m × 2^e plus a remainder below one unit of m (`sticky`), in direction rm for a sign (R273),
and whether it is exact. -/
def roundUnits (rm : Nat) (s : Bool) (m : Nat) (e q : Int) (sticky : Bool) : Nat × Bool :=
  if q ≤ e then (m * 2 ^ (e - q).toNat, !sticky)
  else
    let sh := (q - e).toNat
    let k := m / 2 ^ sh
    let r := m % 2 ^ sh
    let half := 2 ^ (sh - 1)
    let exact := r == 0 && !sticky
    let up := match rm with
      | 0 => decide (half < r) || (r == half && (sticky || k % 2 == 1))
      | 1 => false
      | 2 => !s && !exact
      | _ => s && !exact
    (if up then k + 1 else k, exact)

/-- An overflow's result (R276). -/
def Fmt.overflow (f : Fmt) (rm : Nat) (s : Bool) : Nat :=
  let toInf := rm == 0 || (rm == 2 && !s) || (rm == 3 && s)
  f.sign s (if toInf then f.inf else f.maxFinite)

/-- A nonzero exact value rounded once, with OF, UF and NX (R273, R276 to R278). -/
def Fmt.round (f : Fmt) (rm : Nat) (s : Bool) (m : Nat) (e : Int) (sticky : Bool) : Nat × Nat :=
  let top := e + (bitLen 6000 m : Nat) - 1
  let qu := top - (f.p : Int) + 1
  let q := max qu f.qmin
  let emin : Int := 1 - (f.emax : Int)
  let (ku, _) := roundUnits rm s m e qu sticky
  let topU := if ku = 2 ^ f.p then top + 1 else top
  if (f.emax : Int) < topU then (f.overflow rm s, 20)
  else
    let (k, exact) := roundUnits rm s m e q sticky
    let tiny := decide (topU < emin)
    let mag := if k < 2 ^ (f.p - 1) then k else (q - f.qmin).toNat * 2 ^ (f.p - 1) + k
    (f.sign s mag, if exact then 0 else if tiny then 24 else 16)

/-- The result with NaN operands (R280 to R282), in the order A, B, C; none where no operand is a NaN. -/
def Fmt.nanRes (f : Fmt) (l : List Nat) : Option (Nat × Nat) :=
  match l.find? f.isNan with
  | none => none
  | some x =>
    let x := x % 2 ^ f.width
    some (if f.isSnan x then x + f.quiet else x, b2n (l.any f.isSnan))

/-- The sum of two finite values, exact: sign, magnitude, exponent (R275). -/
def sumFin (rm : Nat) (s1 : Bool) (m1 : Nat) (e1 : Int) (s2 : Bool) (m2 : Nat) (e2 : Int) : Bool × Nat × Int :=
  let e := min e1 e2
  let v (s : Bool) (m : Nat) (x : Int) : Int := (if s then -1 else 1) * ((m * 2 ^ (x - e).toNat : Nat) : Int)
  let t := v s1 m1 e1 + v s2 m2 e2
  let zeroSign := if s1 = s2 then s1 else decide (rm = 3)
  (if t = 0 then zeroSign else decide (t < 0), t.natAbs, e)

/-- The rounding of an exact value that may be zero. -/
def Fmt.fin (f : Fmt) (rm : Nat) (x : Bool × Nat × Int) : Nat × Nat :=
  if x.2.1 = 0 then (f.sign x.1 0, 0) else f.round rm x.1 x.2.1 x.2.2 false

def Fmt.add (f : Fmt) (rm a b : Nat) : Nat × Nat :=
  match f.nanRes [a, b] with
  | some r => r
  | none =>
    match f.unpack a, f.unpack b with
    | .inf s, .inf t => if s = t then (f.sign s f.inf, 0) else (f.dnan, 1)
    | .inf s, _ => (f.sign s f.inf, 0)
    | _, .inf t => (f.sign t f.inf, 0)
    | .fin s m e, .fin t n d => f.fin rm (sumFin rm s m e t n d)
    | _, _ => (f.dnan, 0)

/-- The operand with its sign inverted, but for a NaN (R281). -/
def Fmt.negOperand (f : Fmt) (b : Nat) : Nat := if f.isNan b then b else Nat.xor (b % 2 ^ f.width) f.signBit

def Fmt.mul (f : Fmt) (rm a b : Nat) : Nat × Nat :=
  match f.nanRes [a, b] with
  | some r => r
  | none =>
    match f.unpack a, f.unpack b with
    | .inf s, .inf t => (f.sign (s != t) f.inf, 0)
    | .inf s, .fin t n _ => if n = 0 then (f.dnan, 1) else (f.sign (s != t) f.inf, 0)
    | .fin s m _, .inf t => if m = 0 then (f.dnan, 1) else (f.sign (s != t) f.inf, 0)
    | .fin s m e, .fin t n d => f.fin rm (s != t, m * n, e + d)
    | _, _ => (f.dnan, 0)

def Fmt.div (f : Fmt) (rm a b : Nat) : Nat × Nat :=
  match f.nanRes [a, b] with
  | some r => r
  | none =>
    match f.unpack a, f.unpack b with
    | .inf _, .inf _ => (f.dnan, 1)
    | .inf s, .fin t _ _ => (f.sign (s != t) f.inf, 0)
    | .fin s _ _, .inf t => (f.sign (s != t) 0, 0)
    | .fin s m e, .fin t n d =>
      if n = 0 then (if m = 0 then (f.dnan, 1) else (f.sign (s != t) f.inf, 2))
      else if m = 0 then (f.sign (s != t) 0, 0)
      else
        let num := m * 2 ^ 128
        f.round rm (s != t) (num / n) (e - d - 128) (num % n != 0)
    | _, _ => (f.dnan, 0)

/-- The greatest number whose square is at most n, from its bits. -/
def sqrtBits (k n r : Nat) : Nat :=
  match k with
  | 0 => r
  | i + 1 =>
    let t := r + 2 ^ i
    sqrtBits i n (if t * t ≤ n then t else r)

def Fmt.sqrt (f : Fmt) (rm a : Nat) : Nat × Nat :=
  match f.nanRes [a] with
  | some r => r
  | none =>
    match f.unpack a with
    | .inf s => if s then (f.dnan, 1) else (f.inf, 0)
    | .fin s m e =>
      if m = 0 then (f.sign s 0, 0)
      else if s then (f.dnan, 1)
      else
        let m2 := if e % 2 = 0 then m else 2 * m
        let e2 := if e % 2 = 0 then e else e - 1
        let n := m2 * 2 ^ 160
        let r := sqrtBits 110 n 0
        f.round rm false r (e2 / 2 - 80) (r * r != n)
    | _ => (f.dnan, 0)

/-- A × B + C rounded once; a zero times an infinity is invalid whatever C is (R279, R282). -/
def Fmt.fma (f : Fmt) (rm a b c : Nat) : Nat × Nat :=
  let zi := match f.unpack a, f.unpack b with
    | .inf _, .fin _ n _ => n == 0
    | .fin _ m _, .inf _ => m == 0
    | _, _ => false
  match f.nanRes [a, b, c] with
  | some r => (r.1, if zi then 1 else r.2)
  | none =>
    if zi then (f.dnan, 1) else
    let sgn (x : Nat) : Bool := decide (f.signBit ≤ x % 2 ^ f.width)
    let ps := sgn a != sgn b
    match f.unpack a, f.unpack b, f.unpack c with
    | .fin _ m e, .fin _ n d, .fin t k g => f.fin rm (sumFin rm ps (m * n) (e + d) t k g)
    | .fin _ _ _, .fin _ _ _, .inf t => (f.sign t f.inf, 0)
    | _, _, .inf t => if ps = t then (f.sign t f.inf, 0) else (f.dnan, 1)
    | _, _, _ => (f.sign ps f.inf, 0)

/-- The order of two values that are no NaNs: less, equal or greater. -/
def Fmt.order (f : Fmt) (a b : Nat) : Ordering :=
  let key (x : Nat) : Int := match f.unpack x with
    | .inf s => if s then -(2 ^ 3000) else 2 ^ 3000
    | .fin s m e => (if s then -1 else 1) * ((m * 2 ^ (e - f.qmin).toNat : Nat) : Int)
    | .nan _ => 0
  compare (key a) (key b)

/-- Minimum and maximum, with -0 below +0 (R285). -/
def Fmt.minMax (f : Fmt) (max : Bool) (a b : Nat) : Nat × Nat :=
  match f.nanRes [a, b] with
  | some r => r
  | none =>
    let a := a % 2 ^ f.width
    let b := b % 2 ^ f.width
    let aLess := match f.order a b with
      | .lt => true
      | .gt => false
      | .eq => decide (f.signBit ≤ a)
    (if aLess != max then a else b, 0)

/-- CMP (R228, R233). -/
def Fmt.cmp (f : Fmt) (a b : Nat) : Nat × Nat :=
  if f.isNan a || f.isNan b then (8, b2n (f.isSnan a || f.isSnan b))
  else match f.order a b with
    | .lt => (1, 0)
    | .eq => (2, 0)
    | .gt => (4, 0)

/-- CLASS (R228). -/
def Fmt.classOf (f : Fmt) (a : Nat) : Nat :=
  match f.unpack a with
  | .nan _ => if f.isSnan a then 256 else 512
  | .inf s => if s then 1 else 128
  | .fin s m _ =>
    if m = 0 then (if s then 8 else 16)
    else if m < 2 ^ (f.p - 1) then (if s then 4 else 32)
    else (if s then 2 else 64)

/-- An arithmetic operation of a format by its offset (R228). -/
def Fmt.op (f : Fmt) (o rm a b c : Nat) : Nat × Nat :=
  match o with
  | 0x0 => f.add rm a b
  | 0x1 => f.add rm a (f.negOperand b)
  | 0x2 => f.mul rm a b
  | 0x3 => f.div rm a b
  | 0x4 => f.sqrt rm a
  | 0x5 => f.fma rm a b c
  | 0x6 => f.fma rm a b (f.negOperand c)
  | 0x7 => f.minMax false a b
  | 0x8 => f.minMax true a b
  | 0x9 => f.cmp a b
  | 0xA => (Nat.xor (a % 2 ^ f.width) f.signBit, 0)
  | 0xB => (a % f.signBit, 0)
  | _ => (f.classOf a, 0)

/-! ## Conversions (R229, R233, R284, R292) -/

/-- CVT.DS, exact. -/
def cvtDS (a : Nat) : Nat × Nat :=
  match f32.unpack a with
  | .nan b => (f64.sign (decide (f32.signBit ≤ b)) (f64.inf + f64.quiet + b % 2 ^ 22 * 2 ^ 29), b2n (f32.isSnan a))
  | .inf s => (f64.sign s f64.inf, 0)
  | .fin s m e => if m = 0 then (f64.sign s 0, 0) else f64.round 0 s m e false

/-- CVT.SD. -/
def cvtSD (rm a : Nat) : Nat × Nat :=
  match f64.unpack a with
  | .nan b => (f32.sign (decide (f64.signBit ≤ b)) (f32.inf + f32.quiet + b / 2 ^ 29 % 2 ^ 22), b2n (f64.isSnan a))
  | .inf s => (f32.sign s f32.inf, 0)
  | .fin s m e => if m = 0 then (f32.sign s 0, 0) else f32.round rm s m e false

/-- An integer to a format. -/
def Fmt.ofInt (f : Fmt) (rm : Nat) (v : Int) : Nat × Nat :=
  if v = 0 then (0, 0) else f.round rm (decide (v < 0)) v.natAbs 0 false

/-- A format to an integer (R233): lo and hi are the ends of the target range. -/
def Fmt.toInt (f : Fmt) (rm : Nat) (lo hi : Int) (a : Nat) : Nat × Nat :=
  match f.unpack a with
  | .nan _ => (toTwos 64 hi, 1)
  | .inf s => (toTwos 64 (if s then lo else hi), 1)
  | .fin s m e =>
    let (k, exact) := roundUnits rm s m e 0 false
    let v : Int := if s then -(k : Int) else k
    if v < lo then (toTwos 64 lo, 1)
    else if hi < v then (toTwos 64 hi, 1)
    else (toTwos 64 v, if exact then 0 else 16)

def i64lo : Int := -(2 ^ 63)
def i64hi : Int := 2 ^ 63 - 1
def u64hi : Int := 2 ^ 64 - 1

/-- A conversion by its offset from 0x100 (R229). -/
def cvtOp (o rm : Nat) (a : Word) : Nat × Nat :=
  let x := a.toNat
  match o with
  | 0x0 => cvtDS x
  | 0x1 => cvtSD rm x
  | 0x2 => f64.ofInt rm a.toInt
  | 0x3 => f64.ofInt rm x
  | 0x4 => f32.ofInt rm a.toInt
  | 0x5 => f32.ofInt rm x
  | 0x6 => f64.toInt rm i64lo i64hi x
  | 0x7 => f64.toInt rm 0 u64hi x
  | 0x8 => f32.toInt rm i64lo i64hi x
  | 0x9 => f32.toInt rm 0 u64hi x
  | 0xA => f64.toInt 1 i64lo i64hi x
  | _ => f32.toInt 1 i64lo i64hi x

/-- An FPU operation by its offset from 0x0D0 with direction rm: the result and the flags that it raises. -/
def fpuOp (o rm : Nat) (a b c : Word) : Word × Nat :=
  let r := if o < 0x20 then f64.op (o - 0x10) rm a.toNat b.toNat c.toNat
           else if o < 0x30 then f32.op (o - 0x20) rm a.toNat b.toNat c.toNat
           else cvtOp (o - 0x30) rm a
  (BitVec.ofNat 64 r.1, r.2)

/-- DIV and SQRT of both formats share the iterative divider (R231). -/
def fpuIterative (o : Nat) : Bool := o == 0x13 || o == 0x14 || o == 0x23 || o == 0x24

end Sys2Proof.Machine
end

