-- ==== Sys2Proof/Machine/Micro.lean ====
section
/-! DEFINITION. Control stores (R353 to R360, R389, R390): microwords, ROM and patch RAM, the match registers, the sequencer with its
return address, and the errors of a store. -/

namespace Sys2Proof.Machine

def storeKey : StoreUnit → Nat
  | .engine e => e.val
  | .cp c => 2000 + c.val
def storeKind : StoreUnit → Nat × Nat
  | .engine e => (0x02, e.val)
  | .cp c => (0x08, c.val)
def store (m : Mach) (k : Nat) : StoreSt := tget m.stores k StoreSt.reset
def modStore (m : Mach) (k : Nat) (f : StoreSt → StoreSt) : Mach := { m with stores := tset m.stores k (f (store m k)) }

/-! ## Microwords (R354) -/

/-- The published fields of a microword. -/
structure Microword where
  len : Nat
  tp : Bool
  seq : Nat
  next : Nat
  cond : Nat
  deriving DecidableEq, Repr

def microword (w : Nat) : Microword :=
  { len := bits w 111 110, tp := bit w 109, seq := bits w 107 104, next := bits w 101 88, cond := bits w 87 80 }

/-- The cycles that a word lasts. -/
def Microword.cycles (w : Microword) : Nat := w.len + 1

/-- A trap can be taken before the word: it is trap-permitted, as every wait for memory is (R377). -/
def Microword.stops (w : Microword) : Bool := w.tp || w.seq == 6

/-! ## Fetch (R353, R356 to R358, R360) -/

/-- The patch-RAM word at an index, as it was loaded (R366), and the eight check bits beside it. -/
def ramWord (x : StoreSt) (k : Nat) : Nat := fld x.ram (14 * k) 14
def ramCheck (x : StoreSt) (k : Nat) : Byte := x.check.getD k 0

/-- What stands at a micro-address: a word with the address that it came from, or none where the address is reserved. Every fetch of a
ROM address is compared with the match registers, whichever way the sequencer came to it (R358). -/
def microFetch (cp : Bool) (x : StoreSt) (a : Nat) : Option (Nat × Microword) :=
  if a < 0x3000 then
    match x.matches_.find? (fun y => y.2.2 == a) with
    | some y => some (0x3000 + y.2.1, microword (ramWord x y.2.1))
    | none => some (a, microword (Config.romWord cp a).toNat)
  else if a < 0x3100 then some (a, microword (ramWord x (a - 0x3000)))
  else none

/-! ## The sequencer (R354, R355) -/

/-- The sequencer after a word that it fetched from an address; none where the word ends the routine, raises its fault, or has a reserved
SEQ, for which the spec gives no next word. -/
def microNext (q : MicroSeq) (a : Nat) (w : Microword) (holds : Bool) : Option MicroSeq :=
  let up := (a + 1) % 0x4000
  match w.seq with
  | 0 | 6 => some { q with addr := up }
  | 1 => some { q with addr := w.next }
  | 2 => some { q with addr := if holds then w.next else up }
  | 3 => some { q with addr := w.next, ret := up }
  | 4 => some { q with addr := q.ret }
  | _ => none

/-- How a walk ends: at a reserved address, at the end of the routine or its fault, or still under way. -/
inductive MicroEnd where
  | reserved (a : Nat)
  | over
  | running
  deriving DecidableEq, Repr

/-- The sequencer runs through at most `fuel` words; the bits of `free` say in turn whether the conditions hold, which no published
encoding gives (log entry 34). -/
def microWalk (fuel : Nat) (cp : Bool) (x : StoreSt) (q : MicroSeq) (free : Nat) : MicroEnd × MicroSeq :=
  match fuel with
  | 0 => (.running, q)
  | f + 1 =>
    match microFetch cp x q.addr with
    | none => (.reserved q.addr, q)
    | some (a, w) =>
      let q := if w.stops then { q with tp := q.addr } else q
      match microNext q a w (free % 2 == 1) with
      | none => (.over, q)
      | some q => microWalk f cp x q (free / 2)

/-- The sequencer goes on to the next word before which a trap can be taken, at most `fuel` words away (R377). -/
def microToTp (fuel : Nat) (cp : Bool) (x : StoreSt) (q : MicroSeq) (free : Nat) : MicroSeq :=
  match fuel with
  | 0 => q
  | f + 1 =>
    match microFetch cp x q.addr with
    | none => q
    | some (a, w) =>
      if w.stops then { q with tp := q.addr } else
      match microNext q a w (free % 2 == 1) with
      | none => q
      | some q => microToTp f cp x q (free / 2)

/-- A routine begins at its entry in ROM, which is not published. -/
def microStart (m : Mach) (e code : Nat) : Mach :=
  let a := Config.microEntry code % 0x3000
  modEng m e (fun x => { x with useq := { addr := a, tp := a, ret := 0 } })

/-- The sequencer of an engine at the TP word that it has come to after a free number of words (R377, R378). -/
def microPlace (m : Mach) (e : Nat) : MicroSeq × Mach :=
  let (w, m) := takeFree m
  let (k, m) := takeChoice m 64
  let x := store m e
  let q := microToTp 64 false x (microWalk k false x (eng m e).useq w.toNat).2 (w.toNat / 2 ^ k)
  (q, modEng m e (fun x => { x with useq := q }))

/-! ## Errors in a control store (R389, R390) -/

/-- A corrected patch-RAM error is counted and written back; the record goes out at most once a second for a unit, as R791 holds back
records of one cause and source. -/
def microCorrected (m : Mach) (u : StoreUnit) (k : Nat) : Mach :=
  let m := modStore m (storeKey u) (fun x => { x with errs := lset x.errs 0 (sat 0xFFFF (x.errs.getD 0 0 + 1)) })
  raiseErr m 0x0017 (sourceOf (storeKind u).1 (storeKind u).2) (le 2 (0x3000 + k))

/-- The interval is retried once: counted, with a MICRO_ECC record (kind 1 ROM parity, 2 patch RAM, 3 reserved address). -/
def microRetried (m : Mach) (u : StoreUnit) (a kind : Nat) : Mach :=
  let m := modStore m (storeKey u) (fun x => { x with errs := lset x.errs 1 (sat 0xFFFF (x.errs.getD 1 0 + 1)) })
  raiseErr m 0x0018 (sourceOf (storeKind u).1 (storeKind u).2) (le 2 a ++ le 1 kind)

/-- Patch RAM takes part in what the unit runs: a match register is valid. -/
def patched (x : StoreSt) : Bool := !x.matches_.isEmpty

/-- What the routine of an engine meets in its control store: an error that the interval is retried for, and whether the retry fails again.
An error of patch RAM is met only by an engine that runs patch words, one of ROM only at an address that no match register names. A
reserved address, to which only a patch word can lead (R354, R361), is met again by the retry. -/
def microMeets (m : Mach) (e : EngineId) (err : Option StoreErr) : Option (Nat × Nat × Bool) × Mach :=
  let x := store m e.val
  match err with
  | some (.corrected k) => (none, if patched x then microCorrected m (.engine e) k.val else m)
  | some (.patchRam k again) => (if patched x then some (0x3000 + k.val, 2, again) else none, m)
  | some (.romParity a again) => (if x.matches_.any (fun y => y.2.2 == a.val) then none else some (a.val, 1, again), m)
  | none =>
    if !patched x then (none, m) else
    let (w, m) := takeFree m
    match microWalk 1024 false x (eng m e.val).useq w.toNat with
    | (.reserved a, _) => (some (a, 3, true), m)
    | _ => (none, m)

end Sys2Proof.Machine
end

