-- ==== Sys2Proof/Machine/SchedOps.lean ====
section
/-! DEFINITION. The hardware scheduler (R311 to R335): dispatch and restore of a task, time slices, displacement into setts, steals. -/

namespace Sys2Proof.Machine

/-! ## Time slices (R254, R327, R735) -/

def sliceOn (m : Mach) (l : Nat) : Bool := (lease m l).shares.getLsbD 40
def sliceNs (m : Mach) (l : Nat) : Nat :=
  let s := (lease m l).shares.toNat
  let us := if bits s 63 48 = 0 then 1000 else bits s 63 48
  1000 * max 1 (us * bits s 7 0 / 16)

/-- The scheduler arms timer 1 of a bank whose timer 1 it owns. -/
def armSlice (m : Mach) (e l : Nat) : Mach :=
  let b := bank m e l
  if !b.owns1 then m else
  let (t, m) := takeStamp m e
  setBank m e l ((b.setT 22 (t.toNat + sliceNs m (bkLease b l))).setT4 51 50 1)

/-- Timers whose deadline passed while the task was in no bank expire (R253). -/
def expirePassed (b : Bank) (now : Nat) : Bank :=
  let step (b : Bank) (t : Nat) : Bank :=
    if bit (bkTmr b) (2 * t) && decide (tw b (21 + t) ≤ now) then b.setT4 (49 + 2 * t) (48 + 2 * t) 2 else b
  step (step b 0) 1

/-! ## Dispatch and restore (R321, R322, R301, R315) -/

/-- The bank of a task that starts fresh (R321). -/
def freshBank (q : QTask) : Bank :=
  let b := Bank.reset
  let c := vset (vset (vset (vset (vset (vset b.c 0 (BitVec.ofNat 64 (bits q.pc.toNat 47 4 * 16))) 1 0x100) 3 q.dsLimit) 6 q.dsBase) 7 q.dsLimit)
    8 (pack [(0, 32, q.task), (32, 8, q.lease), (40, 2, q.level), (42, 1, b2n q.wake)])
  { b with st := .ready, g := vset b.g 0 q.arg, c := c, vector := q.vector, setts := q.setts }

/-- A half of a bank from a sett: each group that the sett marks, the others 0 (R315); c8, c9 and c10 of an upper half
stay (R302). -/
def loadHalf (b : Bank) (upper : Bool) (s : Bytes) : Bank :=
  let gr := fld s 15 1
  let w (i : Nat) : Word := if bit gr (i / 8) then settWord s i else 0
  let g0 := if upper then 16 else 0
  let c0 := if upper then 8 else 0
  let b := (List.range 16).foldl (fun (b : Bank) i => { b with g := vset b.g (g0 + i) (w i) }) b
  (List.range 8).foldl (fun (b : Bank) i =>
    if upper && (i == 0 || i == 1 || i == 2) then b else { b with c := vset b.c (c0 + i) (w (16 + i)) }) b

/-- The setts of a task's chain loaded into a bank in their order (R316): the setts read, or the address and code of the one that
fails (R864). A home chain may lack any of its setts; the other save areas hold both halves. -/
def loadChain (fuel : Nat) (m : Mach) (e ls va next : Nat) (home : Bool) (b : Bank) : Except (Nat × Nat) (Bank × List Nat) × Mach :=
  match fuel with
  | 0 => (.ok (b, []), m)
  | f + 1 =>
    if va = 0 then (.ok (b, []), m) else
    match readSett m e ls va (if home then (List.range 3).filter (fun c => decide (next ≤ c)) else [next]) with
    | (.error c, m) => (.error (va, c), m)
    | (.ok s, m) =>
      let c := fld s 13 1
      let b := if c = 2 then { b with t := vof 24 (settWord s) } else loadHalf b (c == 1) s
      match loadChain f m e ls (settLink s) (c + 1) home b with
      | (.error x, m) => (.error x, m)
      | (.ok (b, l), m) => (.ok (b, va :: l), m)

/-- A SETT_REJECTED record (R864). -/
def settRejected (m : Mach) (e ls task va code kind : Nat) : Mach :=
  raiseErrD m 0x001A e e (le 8 va ++ le 1 code ++ le 1 kind ++ le 1 ls ++ le 1 0 ++ le 4 task) (some ls) none 0

/-- A bank takes its task: the lease counts as served, timer 1 is owned where the lease has the slice enabled (R254), the engine's
fetch starts afresh (R420) and the engine is not parked. -/
def seatTask (m : Mach) (e : Nat) (q : QTask) (b : Bank) : Mach :=
  let own := decide (q.level < 2) && sliceOn m q.lease
  let b := { b with owns1 := own }
  let b := if own then b.setT4 51 50 0 else b
  let m := setBank m e q.level b
  let m := modEng m e (fun x => { x with ahead := [], parkedTill := none, probe := none })
  armSlice (served m (benchOf e) q.lease) e q.level

/-- The routine that MSAVE0 records (R378), with its operand word unmasked (log entry 34). -/
def microRoutine (m : Mach) (b : Bank) : Nat × Word := (bits (cw b 12) 39 32, BitVec.ofNat 64 (cw b 14) ^^^ m.microMask)

/-- A bank with a suspended routine runs again (R383, R384): at the same patch level the routine goes on, else the trigger bundle
is issued again. -/
def microResume (m : Mach) (e l : Nat) : Mach :=
  let b := bank m e l
  if !bit (cw b 12) 63 || b.cx.isSome || b.save.isSome then m else
  let (code, w) := microRoutine m b
  if bits (cw b 12) 47 40 = (unit m 0x02 e).patchLevel then
    let at_ := bits (cw b 12) 13 0
    let m := modEng m e (fun x => { x with useq := { addr := at_, tp := at_, ret := bits (cw b 12) 27 14 } })
    if code < 0x10 then
      let op := (eng m e).nextOp
      let q : QEnt := { op := op, ready := false, lo := 0, hi := 0, poison := false, trap := false, flags := 0, iter := false }
      modEng (setBank m e l { b.setQueue 3 (queueOf b 3 ++ [q]) with cx := some (code, w), cxFrom := (BitVec.ofNat 64 (cw b 13) ^^^ m.microMask).toNat }) e (fun x => { x with nextOp := op + 1 })
    else setBank m e l { b with taken := if code < 0x12 then cw b 13 else 0, save := some (code - 0x10 + 4 + 8 * b2n (bit w.toNat 48), BitVec.ofNat 64 (w.toNat % 2 ^ 48)) }
  else
    let sett := cw b 13
    let m := setBank m e l (((((b.setC 12 0).setC 13 0).setC 14 0).setC 15 0))
    if 0x10 ≤ code ∧ sett ≠ 0 then returnSett m e (bkLease b l) sett else m

/-- A task enters an Empty bank: initialised (R321), or restored from its chain (R322); a sett that fails loses the task (R864). -/
def dispatchTo (m : Mach) (e : Nat) (q : QTask) : Mach :=
  if q.fresh then seatTask m e q (freshBank q) else
  let ls := q.lease
  match loadChain 3 m e ls q.area 0 (q.kind == 1) { Bank.reset with c := Vector.replicate 16 0 } with
  | (.error (va, code), m) =>
    let m := settRejected m e ls q.task va code 1
    taskGone (taskLost m e ls q.task q.area) ls q.vector q.setts
  | (.ok (b, used), m) =>
    let (sp, m) := settChain q.setts m e ls (cw b 4) [3]
    let m := if q.kind = 2 then used.foldl (fun m a => returnSett m e ls a) m else m
    let (t, m) := takeStamp m e
    let b := b.rawC 8 (packN [(0, 32, q.task), (32, 8, ls), (40, 2, q.level), (42, 1, b2n q.wake), (43, 3, q.mask)])
    let b := (b.rawC 9 (sp.foldl (fun a p => a + fld p.2 15 1) 0)).rawC 10 (if q.kind = 2 then 0 else q.area)
    let b := expirePassed (b.rawC 11 0) t.toNat
    let b := { b with st := .ready, vector := q.vector, setts := if q.kind = 2 then sp.length else q.setts }
    let b := if q.mask = 0 then b
             else if waitHolds q.mask (bkTmr b) q.wake then (endWait b).rawC 11 0
             else { b with st := .waiting, graceAt := some (m.now + 100 * bits (bench m (benchOf e)).ctl.toNat 31 16) }
    let m := seatTask m e q b
    if runLevel m e = some q.level then microResume m e q.level else m

/-- The engine that takes a queue entry (R324): active, with an Empty bank of the level; the lowest running level first, then the
lowest slot. -/
def engineFor (m : Mach) (b : Nat) (q : QTask) : Option Nat :=
  let run (e : Nat) : Nat := match runLevel m e with | some l => l + 1 | none => 0
  let ok (e : Nat) : Bool := engActive m e && (bank m e q.level).st == .empty && entryEligible m e q
  pickBest (fun a b => decide (run a < run b)) ((enginesOf b).filter ok)

/-- The first entry of a bench queue that an engine can take: the highest level first, in each level the oldest (R323). -/
def nextEntry (m : Mach) (b : Nat) : Option (QTask × Nat) :=
  let qs := (bench m b).queue
  [2, 1, 0].findSome? (fun l => (qs.filter (fun q => q.level == l)).findSome? (fun q => (engineFor m b q).map (fun e => (q, e))))

/-- Whether a bench's engines may take entries (R334, R335, R344). -/
def benchTakes (m : Mach) (b : Nat) : Bool := benchIn m b && !(bench m b).ctl.getLsbD 0

/-- One entry of a bench queue is dispatched. -/
def dispatchNext (m : Mach) (b : Nat) : Mach :=
  if !benchTakes m b then m else
  match nextEntry m b with
  | none => m
  | some (q, e) => dispatchTo (modBench m b (fun x => { x with queue := x.queue.erase q })) e q

/-- Entries that wait in the active event block enter a queue that has a place (R780), after those of the wait table that may. -/
def fillQueue (m : Mach) (b : Nat) : Mach :=
  let m := drainWaits m b (timeNow m).toNat
  let mine := m.evt.waiting.filter (fun w => w.bench == b)
  let go := mine.take (512 - (bench m b).queue.length)
  let m := modEvt m (fun x => { x with waiting := x.waiting.diff go })
  go.foldl (fun m w => enqueue m b (freshTask w.lease w.level w.task w.pc w.dsBase w.dsLimit w.arg (some w.vector))) m

/-! ## Data stack: write-back and return stack: spill (R201, R246, R248) -/

/-- The dirty entries of the data-stack cache written to memory; false where a page refuses one (log entry 35). -/
def stackBack (m : Mach) (e l : Nat) : Bool × Mach :=
  let b := bank m e l
  let ls := bkLease b l
  let (ok, m) := ((List.range b.dc.length).zip b.dc).foldl (fun (a : Bool × Mach) (p : Nat × (Word × Bool)) =>
    if !a.1 || !p.2.2 then a else
    match engWrite 2 a.2 e ls (cw b 3 + 8 * p.1) (le 8 p.2.1.toNat) .write (some (4 * e + l)) with
    | (.ok _, m) => (true, m)
    | (.error _, m) => (false, m)) (true, m)
  (ok, if ok then modBank m e l (fun b => { b with dc := b.dc.map (fun p => (p.1, false)) }) else m)

/-- Return addresses spilled into a sett that has been taken: the oldest first, linked before the newest spill sett (R298). -/
def spillInto (m : Mach) (e l va k : Nat) : Mach :=
  let b := bank m e l
  let ls := bkLease b l
  let out := b.rstk.take k
  let m := writeSett m e ls va .settSave (cw b 4) (bkTask b) 3 l out.length 0 (wordsBytes out)
  setBank m e l { (b.setC 4 va).setC 9 (cw b 9 + out.length) with rstk := b.rstk.drop k, setts := b.setts + 1 }

/-! ## Displacement (R201, R311 to R318, R866) -/

/-- A request to leave stands: its bench is Draining or outside its lease's mask, or the lease is quiesced (R317, R318, R334, R738, R745). -/
def mustLeave (m : Mach) (e l : Nat) : Bool :=
  let ls := bkLease (bank m e l) l
  benchDraining m (benchOf e) || !inMask m ls (benchOf e) || (lease m ls).st == .quiescing

/-- The bank stands at a scheduling point at which it leaves where its level is settled: a request stands, or an eligible entry waits and the
256 bc of a Ready bank have not passed (R318). A task that has written END never leaves; it ends (R296). -/
def displacePoint (m : Mach) (e l : Nat) : Bool :=
  let b := bank m e l
  match b.st with
  | .ready => !bkEnd b && (mustLeave m e l || (eligibleHere m e l && (match b.point with | some t => decide (m.now < t) | none => false)))
  | .waiting => !bkEnd b && (mustLeave m e l || (b.point.isSome && eligibleHere m e l && decide ((bench m (benchOf e)).waiting.length < 256)))
  | _ => false

/-- Where a displaced task goes (R318): the wait table, or the queue as a resume entry. -/
def toWaitTable (m : Mach) (e : Nat) (q : QTask) : Bool :=
  q.mask != 0 && !benchDraining m (benchOf e) && inMask m q.lease (benchOf e) && (lease m q.lease).st != .quiescing

/-- The reserve (R313): three setts below the data stack, where they lie within its region. -/
def reserveAt (b : Bank) : Option Nat :=
  let top := cw b 3 / 256 * 256
  if 768 ≤ top ∧ cw b 6 ≤ top - 768 then some (top - 768) else none

/-- The payload of a half of a bank (R299), and a group of it. -/
def halfWords (b : Bank) (upper : Bool) : List Word :=
  let g0 := if upper then 16 else 0
  let c0 := if upper then 8 else 0
  (List.range 16).map (fun i => vget b.g (g0 + i) 0) ++ (List.range 8).map (fun i => vget b.c (c0 + i) 0)

/-- A half or transport record as it goes into a save area: content, groups, payload, and whether a word of it is to be written. -/
structure SaveItem where
  content : Nat
  groups : Nat
  words : List Word
  touched : Bool
  deriving DecidableEq, Repr

/-- The transport record where one of its words is not 0 (R316). -/
def recordItem (b : Bank) : List SaveItem :=
  if b.t.toList.all (fun w => w == 0) then [] else [{ content := 2, groups := 0, words := b.t.toList, touched := true }]

/-- The halves whole and the transport record where it is not all zeros (R312, R316). -/
def fullItems (b : Bank) : List SaveItem :=
  [{ content := 0, groups := 7, words := halfWords b false, touched := true },
   { content := 1, groups := 7, words := halfWords b true, touched := true }] ++ recordItem b

/-- The home chain after a displacement (R314, R316): what each home sett holds already, with the dirty groups written over it. -/
def homeItems (b : Bank) (old : List (Nat × Bytes)) : List SaveItem :=
  let have_ (c : Nat) : Option Bytes := (old.find? (fun p => fld p.2 13 1 == c)).map (fun p => p.2)
  let half (u : Nat) : List SaveItem :=
    let lo := if u = 0 then 0 else 2
    let d := b2n (bit (cw b 11) lo) + 2 * b2n (bit (cw b 11) (lo + 1)) + 4 * b2n (bit (cw b 11) (4 + u))
    let now := halfWords b (u == 1)
    match have_ u with
    | some s =>
      [{ content := u, groups := fld s 15 1 ||| d, touched := d != 0,
         words := (List.range 24).map (fun i => if bit d (i / 8) then now.getD i 0 else settWord s i) }]
    | none => if d = 0 then [] else
      [{ content := u, groups := d, touched := true, words := (List.range 24).map (fun i => if bit d (i / 8) then now.getD i 0 else 0) }]
  half 0 ++ half 1 ++ recordItem b

/-- Items written to setts in their order, each linked to the next; a sett of `old` with no word to write and its link unchanged stays as it
is (R314). -/
def writeItems (m : Mach) (e ls task level flags : Nat) (n : Need) (old : List (Nat × Bytes)) (l : List (Nat × SaveItem)) : Mach :=
  let links := (l.map (fun p => p.1)).drop 1 ++ [0]
  (l.zip links).foldl (fun m (p : (Nat × SaveItem) × Nat) =>
    if !p.1.2.touched && old.any (fun o => o.1 == p.1.1 && settLink o.2 == p.2) then m else
    writeSett m e ls p.1.1 n p.2 task p.1.2.content level p.1.2.groups flags (wordsBytes p.1.2.words)) m

/-- In reserve mode c10 names the reserve (R312, R313). -/
def reserveNoted (m : Mach) (e l : Nat) : Mach :=
  match reserveAt (bank m e l) with
  | some a => modBank m e l (fun b => b.rawC 10 a)
  | none => m

/-- The scheduling point is over and the task goes on (R318); an owned timer 1 is armed again (R327). -/
def leavePoint (m : Mach) (e l : Nat) : Mach :=
  let b := bank m e l
  let m := setBank m e l { b with point := none }
  if b.st == .ready && b.owns1 && !bit (bkTmr b) 2 then armSlice m e l else m

/-- A displacement (R201): the stack is written back, all setts are taken or none (R307), return addresses are spilled, the halves
and the transport record are written, and the bank is Saving with its entry. Where a take fails or the queue has no place the
point is over, and nothing changes but the stack's copy in memory and c10 (R309, R312, R866). -/
def displace (m : Mach) (e l : Nat) : Mach :=
  let b := bank m e l
  let ls := bkLease b l
  let bn := benchOf e
  let q0 : QTask :=
    { fresh := false, lease := ls, level := l, task := bkTask b, pc := 0, dsBase := 0, dsLimit := 0, arg := 0, area := 0, kind := 0,
      wake := bkWake b, mask := if b.st = .waiting then bkMask b else 0, vector := b.vector, setts := 0, d0 := vget b.t 21 0, d1 := vget b.t 22 0,
      armed := if b.owns1 then bkTmr b % 4 else bkTmr b }
  if !toWaitTable m e q0 && decide (512 ≤ (bench m bn).queue.length) then leavePoint m e l else
  match stackBack m e l with
  | (false, m) => leavePoint m e l
  | (true, m) =>
    let dirty := (lease m ls).dirtyMode
    let m := if dirty then m else reserveNoted m e l
    -- a timer 1 that the scheduler owns is not the task's
    let ours (b : Bank) : Bank := if b.owns1 then (b.setT4 51 50 0).setT 22 0 else b
    let b := ours (bank m e l)
    let spills := ceilDiv b.rstk.length 16
    let (old, m) := if dirty then settChain 3 m e ls (cw b 10) [0, 1, 2] else ([], m)
    let (res, m) := if dirty then (none, m) else
      match reserveAt b with
      | none => (none, m)
      | some a =>
        let (x, m) := engAddr m e ls a .reserve
        let (y, m) := engAddr m e ls (a + 512) .reserve
        ((match x, y with | .ok _, .ok _ => some a | _, _ => none), m)
    -- the return stack's own change of c4 and c9 comes before the halves are written
    let after := if spills = 0 then b else (b.setC 4 0).setC 9 0
    let kept := old.filter (fun p => fld p.2 13 1 != 2 || b.t.toList.any (fun w => w != 0))
    let need := if dirty then (homeItems after kept).length - kept.length else if res.isSome then 0 else (fullItems b).length
    match takeSetts m e ls (need + spills) 1 with
    | (none, m) => leavePoint m e l
    | (some got, m) =>
      let m := modBank m e l ours
      let m := (List.range spills).foldl (fun m i => spillInto m e l (got.getD (need + i) 0) 16) m
      let b := bank m e l
      let items := if dirty then homeItems b kept else fullItems b
      let fresh := got.take need
      -- a home sett keeps its half; new setts go to the halves and the record that have none
      let place := items.foldl (fun (a : List (Nat × SaveItem) × List Nat) it =>
        match res, kept.find? (fun p => fld p.2 13 1 == it.content) with
        | some r, _ => (a.1 ++ [(r + 256 * a.1.length, it)], a.2)
        | none, some p => (a.1 ++ [(p.1, it)], a.2)
        | none, none => (a.1 ++ [(a.2.headD 0, it)], a.2.drop 1)) ([], fresh)
      let m := writeItems m e ls (bkTask b) l (if dirty then 2 else if res.isSome then 1 else 0) (if res.isSome then .reserve else .settSave) old place.1
      let gone := old.filter (fun p => !kept.contains p)
      let m := gone.foldl (fun m p => returnSett m e ls p.1) m
      let area := ((place.1.head?).map (fun p => p.1)).getD 0
      let q := { q0 with area := area, kind := if dirty then 1 else if res.isSome then 0 else 2,
                         setts := b.setts + need - gone.length }
      let m := { m with resv := tdel m.resv (4 * e + l) }
      setBank m e l { b with st := .saving, saved := some q, point := none, graceAt := none, rstk := [], dc := [] }

/-- A bank leaves an engine that has stopped: its task is displaced, or is over where it had written END (R296). -/
def leaveBank (m : Mach) (e l : Nat) : Mach := if bkEnd (bank m e l) then releaseTask m e l else displace m e l

/-- The last sett is written: the entry goes to the queue or the wait table, and the bank is Empty (R318). -/
def savingDone (m : Mach) (e l : Nat) : Mach :=
  let b := bank m e l
  let bn := benchOf e
  match b.st, b.saved with
  | .saving, some q =>
    if toWaitTable m e q && !taskReady q (timeNow m).toNat then
      if 256 ≤ (bench m bn).waiting.length then m
      else modBench (setBank m e l Bank.reset) bn (fun x => { x with waiting := x.waiting ++ [q] })
    else if 512 ≤ (bench m bn).queue.length then m
    else enqueue (setBank m e l Bank.reset) bn q
  | _, _ => m

/-- An engine without a spare is Failed once its banks have left it (R797, R800); until then it is Draining, and its fault is no longer
among those that wait. -/
def engineStranded (m : Mach) (e : Nat) : Bool := ustate m 0x02 e == .draining && !m.mode.found.contains (.engine e)
def engineLeft (m : Mach) (e : Nat) : Mach :=
  if engineStranded m e && (List.range 3).all (fun l => (bank m e l).st == .empty) then setUState m 0x02 e .failed else m

/-- In reserve mode a scheduling point writes the data stack back, and c10 names the reserve (R312). -/
def placeReserve (m : Mach) (e l : Nat) : Mach :=
  let b := bank m e l
  if (lease m (bkLease b l)).dirtyMode then m else
  match stackBack m e l with
  | (true, m) => reserveNoted m e l
  | (false, m) => m

/-- A scheduling point is reached (R317): where an eligible entry waits, the level has 256 bc to settle (R318). -/
def reachPoint (m : Mach) (e l : Nat) : Mach :=
  let m := placeReserve m e l
  if eligibleHere m e l then
    modBank m e l (fun b => { b with point := some (m.now + ceilDiv 256000 (max 1 (benchMhz m (benchOf e)))) })
  else m

/-! ## Work stealing (R329 to R335) -/

/-- The steal-ring record of a bench (R339), or the default one (R341): ring of local indices, distance limit, minima. -/
def stealRing (m : Mach) (b : Nat) : List Nat × Nat × Nat × Nat :=
  match imgRec m 0x0007 b with
  | some r => ((bslice r 4 (fld r 0 1)).map (fun x => x.toNat), fld r 1 1, fld r 2 1, fld r 3 1)
  | none => let i := b % 16; ([(i + 1) % 16, (i + 15) % 16, (i + 2) % 16, (i + 14) % 16], 1, 1, 4)

/-- The entries of a bench that are eligible for a thief (R318). -/
def stealable (m : Mach) (e v : Nat) : List QTask := (bench m v).queue.filter (entryEligible m e)

/-- The steal minimum that a bench's record holds for a thief (R330). -/
def stealLeast (m : Mach) (e v : Nat) : Nat :=
  let (_, _, inTile, cross) := stealRing m v
  if v / 16 = benchOf e / 16 then inTile else cross

/-- A victim with a minimum yields to a thief: it holds that many eligible entries, one of them of a level whose bank is Empty (R330). -/
def yieldsAt (m : Mach) (e v least : Nat) : Bool :=
  (benchIn m v || benchDraining m v) && !(bench m v).ctl.getLsbD 1 && decide (least ≤ (stealable m e v).length) &&
    (stealable m e v).any (fun q => (bank m e q.level).st == .empty)
def yields (m : Mach) (e v : Nat) : Bool := yieldsAt m e v (stealLeast m e v)

/-- The tiles within a distance limit, nearest first (R329). -/
def nearTiles (t limit : Nat) : List Nat :=
  let adj := (List.range 4).filter (fun k => k == (t + 1) % 4 || k == (t + 3) % 4)
  match limit with
  | 0 => []
  | 1 => adj
  | _ => adj ++ [(t + 2) % 4]

/-- The victim that an idle engine finds (R329 stages 2 and 3). -/
def findVictim (m : Mach) (e : Nat) : Option Nat :=
  let b := benchOf e
  let (ring, limit, _, _) := stealRing m b
  match (ring.map (fun i => b / 16 * 16 + i)).find? (yields m e) with
  | some v => some v
  | none => (nearTiles (b / 16) limit).findSome? (fun t =>
      (pickBest (fun x y => decide ((stealable m e y).length < (stealable m e x).length)) ((List.range 16).map (fun i => 16 * t + i))).filter (yields m e))

/-- An engine that works is idle (R329). -/
def idle (m : Mach) (e : Nat) : Bool := engActive m e && (runLevel m e).isNone && !(List.range 3).any (fun l => eligibleHere m e l)

/-- The oldest entries of the highest level first. -/
def stealOrder (l : List QTask) : List QTask := [2, 1, 0].flatMap (fun k => l.filter (fun q => q.level == k))

/-- A steal commits (R330 to R332): the oldest eligible entry of the highest level whose bank is Empty for the thief; from another tile up to
three more eligible entries for the thief's bench. -/
def stealNow (m : Mach) (e v : Nat) : Mach :=
  let b := benchOf e
  let all := stealOrder (stealable m e v)
  match all.find? (fun q => (bank m e q.level).st == .empty) with
  | none => m
  | some q =>
    let rest := all.erase q
    let more := if v / 16 = b / 16 then 0 else min 3 (ceilDiv all.length 2 - 1)
    let go := rest.take (min more (512 - (bench m b).queue.length))
    let n := 1 + go.length
    let m := modBench m v (fun x => { x with queue := x.queue.diff (q :: go), taken := sat 0xFFFFFFFF (x.taken + n) })
    let m := enqueueAll (modBench m b (fun x => { x with stolen := sat 0xFFFFFFFF (x.stolen + n) })) b go
    dispatchTo m e q

/-! ## Retries and persistent faults of an engine (R795 to R797) -/

/-- A persistent fault (R795 to R797): the engine issues no more and waits for its sparing. -/
def persistent (m : Mach) (e : Nat) : Mach := noteFault (setUState m 0x02 e .draining) (.engine e)

/-- The retries that led to a passing attempt (R796); whether they exceed the rate of FLT_POLICY. -/
def countRetry (m : Mach) (e l fails : Nat) : Bool × Mach :=
  let (c, m) := takeChoice m 4
  let pc := bkPc (bank m e l)
  let m := raiseErr m 0x0010 e (le 1 (c + 1) ++ le 1 (fails + 1) ++ le 1 l ++ le 5 0 ++ le 8 pc)
  let m := modEng m e (fun x => { x with retryN := sat 0xFFFFFFFF (x.retryN + 1),
                                         retryAt := (x.retryAt.filter (fun t => decide (m.now < t + 1000000000))) ++ [m.now] })
  let rate := bits m.errs.policy 15 0
  (rate != 0 && decide (rate < (eng m e).retryAt.length), m)

end Sys2Proof.Machine
end

