-- ==== Sys2Proof/Machine/LsuOps.lean ====
section
/-! DEFINITION. Memory operations of an engine in flight (R165, R166, R234 to R243), its caches (R400 to R407), result queues (R172 to
R176, R205), the iterative arrays (R198, R865), the micro-routines of CX and SAVE (R251, R261 to R266, R377 to R384). -/

namespace Sys2Proof.Machine

/-! ## Result queues (R172, R205) -/

/-- The entry of an operation in a queue gets its result. -/
def fillEntry (b : Bank) (q op : Nat) (f : QEnt → QEnt) : Bank :=
  b.setQueue q ((queueOf b q).map (fun x => if x.op = op && !x.ready then f x else x))

/-- The queue of a unit: LSU0 4, LSU1 5. -/
def lsuQueue (unit : Nat) : Nat := 4 + unit

/-- An FPU operation completes (R232): its flags go into the flags word, and the entry carries the trap mark where one of them has
its trap enable set. -/
def fpuDone (b : Bank) (op : Nat) : Bank :=
  match (queueOf b 2).find? (fun x => x.op == op) with
  | none => b
  | some x =>
    let fl := x.flags
    let b := if fl = 0 then b else b.setC 1 (cw b 1 ||| (fl * 2 ^ 20))
    fillEntry b 2 op (fun x => { x with ready := true, trap := (fl &&& bits (cw b 1) 29 25) != 0 })

/-- An iterative array (unit 0 MUL, 1 DIV, 2 the FPU's divider) that is free takes the waiting operation of the highest level, of one
level the oldest (R198, R865). -/
def arrayTake (m : Mach) (e u : Nat) : Mach :=
  let x := eng m e
  if (tfind x.arrays u).isSome then m else
  match [3, 2, 1, 0].findSome? (fun l => ((queueOf (bank m e l) u).find? (fun q => q.iter && !q.ready)).map (fun q => (l, q.op))) with
  | none => m
  | some p => setEng m e { x with arrays := tset x.arrays u p }

/-- An array gives up the operation that it holds. -/
def arrayFree (m : Mach) (e u l op : Nat) : Mach :=
  if tfind (eng m e).arrays u = some (l, op) then arrayTake (modEng m e (fun x => { x with arrays := tdel x.arrays u })) e u else m

/-! ## Caches of an engine (R400 to R407, R420) -/

/-- An L1 keeps only lines that the L2 of its bench holds (R400). -/
def l1Keeps (m : Mach) (e n : Nat) : Bool := (lineAt m (benchOf e) n).isSome

/-- A load brings its line into L1D (16 sets of 8 ways), or is an access of it there (R402). -/
def l1dAdd (m : Mach) (e n : Nat) : Mach :=
  if (eng m e).l1dOff || !l1Keeps m e n then m else
  let t := tget m.l1d e []
  let w := l1Pick t 16 3 n
  let m := touch m
  { m with l1d := tset m.l1d e (t.filter (fun x => x.line % 16 != n % 16 || x.way != w) ++ [{ line := n, way := w, use := m.tick }]) }

/-- The first load or store that hits a side buffer frees the entry (R407). -/
def sideUsed (m : Mach) (e n : Nat) : Mach := { m with eside := tset m.eside e ((tget m.eside e []).filter (fun k => k != n)) }

/-- A prefetch enters the side buffer of 8 lines (R405). -/
def sideAdd (m : Mach) (e n : Nat) : Mach := { m with eside := tset m.eside e (lastN 8 ((tget m.eside e []).filter (fun k => k != n) ++ [n])) }

/-- A line enters L1I (32 sets of 4 ways). -/
def l1iAdd (m : Mach) (e n : Nat) (d : Line) : Mach :=
  if (eng m e).l1iOff || !l1Keeps m e n then m else
  let t := tget m.l1i e []
  let w := l1Pick (t.map (fun x => x.1)) 32 2 n
  let m := touch m
  { m with l1i := tset m.l1i e (t.filter (fun x => x.1.line % 32 != n % 32 || x.1.way != w) ++ [({ line := n, way := w, use := m.tick }, d)]) }

/-- A fetch that finds its line in L1I is an access of it. -/
def l1iUse (m : Mach) (e n : Nat) : Mach :=
  let t := tget m.l1i e []
  if !t.any (fun x => x.1.line == n) then m else
  let m := touch m
  { m with l1i := tset m.l1i e (t.map (fun x => if x.1.line = n then ({ x.1 with use := m.tick }, x.2) else x)) }

/-- Instruction fetch is made consistent with earlier stores: what was fetched ahead goes (R234, R420). -/
def isyncNow (m : Mach) (e : Nat) : Mach := modEng m e (fun x => { x with ahead := [] })

/-! ## The stride prefetcher of a bench (R405, R441; log entry 101) -/

/-- The address streams of an engine after a load of a line, newest last, at most four; and the line that comes next in the stream that the load
continues. A load up to 16 lines from the end of a stream gives that stream its stride. -/
def strideNext (s : List (Nat × Int)) (n : Nat) : List (Nat × Int) × Option Nat :=
  match s.find? (fun p => p.1 == n) with
  | some _ => (s, none)
  | none =>
    match s.find? (fun p => p.2 != 0 && (p.1 : Int) + p.2 == (n : Int)) with
    | some p => (s.erase p ++ [(n, p.2)], some ((n : Int) + p.2).toNat)
    | none =>
      match s.find? (fun p => decide ((n : Int) - p.1 ≤ 16) && decide ((p.1 : Int) - n ≤ 16)) with
      | some p => (s.erase p ++ [(n, (n : Int) - p.1)], none)
      | none => (lastN 4 (s ++ [(n, 0)]), none)

/-- The prefetcher sees a load of a line: where a stream goes on within its page, it may ask for the next line. -/
def stride (m : Mach) (e ls n : Nat) : Mach :=
  let x := l2 m (benchOf e)
  if x.pfDisable || x.ctl != .enabled then m else
  let (s, next) := strideNext (eng m e).streams n
  let m := modEng m e (fun x => { x with streams := s })
  match next with
  | none => m
  | some k =>
    if k / 8192 ≠ n / 8192 ∨ memLines m ≤ k then m else
    let (c, m) := takeChoice m 2
    if c = 0 then m else l2Prefetch m (benchOf e) k ls

/-! ## Memory operations in flight -/

/-- Two operations touch a byte in common. -/
def overlaps (a b : MemOp) : Bool := decide (a.pa < b.pa + b.size) && decide (b.pa < a.pa + a.size)

def isWrite : MemKind → Bool
  | .store | .stx | .swap | .cas | .fadd | .fand | .forOp | .fxor => true
  | _ => false
def isAtomic : MemKind → Bool
  | .stx | .swap | .cas | .fadd | .fand | .forOp | .fxor => true
  | _ => false
/-- Loads, stores and MAC fetches count for the limit of 12 (R165, R166). -/
def counts : MemKind → Bool
  | .fence | .isync | .maint _ => false
  | _ => true

/-- An operation may complete (R236): its bytes wait for every earlier overlapping operation but, for a read, plain stores, whose
data it takes; a write waits for the earlier writes of its level too. -/
def opFree (x : Eng) (o : MemOp) : Bool :=
  x.memops.all (fun y => decide (o.id ≤ y.id) ||
    !((overlaps o y && (isWrite o.kind || isAtomic y.kind)) || (isWrite o.kind && isWrite y.kind && y.lv == o.lv)))

/-- FENCEs and ISYNCs whose level has no earlier operation left complete (R238). -/
def fencesDone (fuel : Nat) (m : Mach) (e : Nat) : Mach :=
  match fuel with
  | 0 => m
  | f + 1 =>
    let x := eng m e
    match x.memops.find? (fun o => (o.kind == .fence || o.kind == .isync) && !x.memops.any (fun y => y.lv == o.lv && decide (y.id < o.id))) with
    | none => m
    | some o =>
      let m := setEng m e { x with memops := x.memops.erase o }
      fencesDone f (if o.kind = .isync then isyncNow m e else m) e

/-- A memory operation leaves the engine's list. -/
def opDone (m : Mach) (e : Nat) (o : MemOp) : Mach :=
  let m := modEng m e (fun x => { x with memops := x.memops.filter (fun y => y.id != o.id) })
  fencesDone ((eng m e).memops.length) m e

/-- The bytes of a line with the engine's earlier stores laid over them (R236). -/
def overlay (x : Eng) (o : MemOp) (n : Nat) (d : Line) : Line :=
  (x.memops.filter (fun y => decide (y.id < o.id) && y.kind == .store && y.pa / 256 == n)).foldl
    (fun d y => mergeLine d (placeLine (y.pa % 256) (le y.size y.data.toNat)) (maskOf (y.pa % 256) y.size)) d

/-- A line of memory for a read of an engine, with the operation that reads it (0 for a fetch); none while it has not come. -/
def fetchLine (m : Mach) (e ls n op : Nat) : Option (Line × Bool) × Mach :=
  if memLines m ≤ n ∨ l2Off m (benchOf e) n then
    let (v, m) := ioRead m e ls n
    (some v, m)
  else
    match l2Load m (benchOf e) n ls (some (e, op)) with
    | (.hit d p, m) => (some (d, p), m)
    | (.wait, m) => (none, m)

/-- The value that a read of some size and sign returns. -/
def loadValue (d : Line) (pa size : Nat) (sgn : Bool) : Word :=
  let v := leVal (lineSlice d (pa % 256) size)
  if sgn then BitVec.ofNat 64 (toTwos 64 (signed (8 * size) v)) else BitVec.ofNat 64 v

/-- A read is answered with its value (R172, R175, R236). -/
def answerRead (m : Mach) (e : Nat) (o : MemOp) (v : Word) (poison : Bool) : Mach :=
  let m := modBank m e o.lv (fun b => fillEntry b (lsuQueue o.unit) o.entry (fun x => { x with ready := true, lo := v, poison := poison }))
  opDone m e o

/-- A load of main memory completes (R236, R239): where its line has not come, the bench asks for it again and the load stays. -/
def loadDone (m : Mach) (e : Nat) (o : MemOp) (sgn : Bool) : Mach :=
  if !opFree (eng m e) o then m else
  let n := o.pa / 256
  match fetchLine m e o.lease n o.id with
  | (none, m) => m
  | (some (d, p), m) =>
    let m := sideUsed (l1dAdd m e n) e n
    let m := if o.kind = .ldx then { m with resv := tset m.resv (4 * e + o.lv) o.pa } else m
    answerRead m e o (loadValue (overlay (eng m e) o n d) o.pa o.size sgn) p

/-- Bytes of a store or atomic enter the bench L2, or go to the home node where the L2 is disabled; while the L2 empties, a line
that it holds is written through and left clean (R422). -/
def putLine (m : Mach) (e : Nat) (o : MemOp) (b : Bytes) : Mach :=
  let n := o.pa / 256
  let bn := benchOf e
  let through := (l2 m bn).ctl == .disabling && (lineAt m bn n).isSome
  let m := engPut (sideUsed m e n) e o.lease o.pa b (some (4 * e + o.lv))
  if through then (maintAsk m .mntC (0x0500 + bn) o.lease n true true).getD (maintClean m n) else m

/-- The line of a store or atomic as the bench owns it; none while it must wait. -/
def ownLine (m : Mach) (e : Nat) (o : MemOp) : Option (Line × Bool) × Mach :=
  let n := o.pa / 256
  if memLines m ≤ n ∨ l2Off m (benchOf e) n then
    let (v, m) := ioRead m e o.lease n
    (some v, m)
  else
    match l2Store m (benchOf e) n o.lease (some (e, o.id)) with
    | (.hit d p, m) => (some (d, p), m)
    | (.wait, m) => (none, m)

/-- A store of main memory completes (R236, R239). -/
def storeDone (m : Mach) (e : Nat) (o : MemOp) : Mach :=
  if !opFree (eng m e) o then m else
  let put (m : Mach) : Mach := opDone (putLine m e o (le o.size o.data.toNat)) e o
  if memLines m ≤ o.pa / 256 ∨ l2Off m (benchOf e) (o.pa / 256) then put m else
  match ownLine m e o with
  | (none, m) => m
  | (some _, m) => put m

/-- The new value of an atomic; none where it stores nothing (R234). -/
def atomicNew (k : MemKind) (old d x : Word) : Option Word :=
  match k with
  | .swap => some d
  | .cas => if old = x then some d else none
  | .fadd => some (old + d)
  | .fand => some (old &&& d)
  | .forOp => some (old ||| d)
  | .fxor => some (old ^^^ d)
  | _ => none

/-- An atomic or STX completes with the line held exclusively (R234, R235, R237). -/
def atomicDone (m : Mach) (e : Nat) (o : MemOp) : Mach :=
  if !opFree (eng m e) o then m else
  match ownLine m e o with
  | (none, m) => m
  | (some (d, p), m) =>
    let old := loadValue d o.pa 8 false
    if o.kind = .stx then
      let held := tfind m.resv (4 * e + o.lv) == some o.pa
      let m := if held then putLine m e o (le 8 o.data.toNat) else m
      let m := { m with resv := tdel m.resv (4 * e + o.lv) }
      answerRead m e o (if held then 1 else 0) false
    else
      let m := match atomicNew o.kind old o.data o.exp with | some v => putLine m e o (le 8 v.toNat) | none => m
      answerRead m e o old p

/-- The operation of an engine with a number. -/
def opOf (m : Mach) (e id : Nat) : Option MemOp := (eng m e).memops.find? (fun o => o.id == id)

/-! ## MAC (R240 to R243) -/

/-- The accumulator as a number of 128 bits. -/
def macAcc (b : Bank) : Nat := tw b 17 * 2 ^ 64 + tw b 16
def setAcc (b : Bank) (v : Nat) : Bank := (b.setT 16 (v % 2 ^ 64)).setT 17 (v / 2 ^ 64 % 2 ^ 64)

/-- The element that a MAC code makes of a fetched word. -/
def macElem (code : Nat) (w : Word) : Int :=
  match code with
  | 1 => w.toNat
  | 2 => signed 32 w.toNat
  | _ => w.toInt

/-- An operation is applied to the accumulator (R240, R241, R243). -/
def macApply (b : Bank) (o : MacOp) : Bank :=
  let acc := macAcc b
  match o.code with
  | 4 => (setAcc b (toTwos 128 o.a.toInt)).setT4 52 52 0
  | 5 => (b.setT 16 o.a.toNat).setT4 52 52 0
  | 6 => (b.setT 17 o.a.toNat).setT4 52 52 0
  | c =>
    let a : Int := if c = 1 then o.a.toNat else o.a.toInt
    let v : Int := if c = 3 then acc + o.x.toInt + a else acc + macElem c o.x * macElem c o.y + a
    let b := setAcc b (toTwos 128 v)
    if o.poison then b.setT4 52 52 1 else b

/-- The operations at the head whose elements have come are applied in trigger order (R242). -/
def macDrain (fuel : Nat) (b : Bank) : Bank :=
  match fuel with
  | 0 => b
  | f + 1 =>
    match b.macq with
    | [] => b
    | o :: r => if o.waitX.isSome || o.waitY.isSome then b else macDrain f (macApply { b with macq := r } o)

/-- A MAC fetch of main memory completes. -/
def macFetchDone (m : Mach) (e : Nat) (o : MemOp) (v : Word) (poison : Bool) : Mach :=
  let take (x : MacOp) : MacOp :=
    if x.waitX = some o.id then { x with waitX := none, x := v, poison := x.poison || poison }
    else if x.waitY = some o.id then { x with waitY := none, y := v, poison := x.poison || poison } else x
  let m := modBank m e o.lv (fun b =>
    let b := { b with macq := b.macq.map take }
    macDrain (b.macq.length) b)
  opDone m e o

/-- A MAC fetch of main memory completes where its line has come; else the bench asks for it again and the fetch stays. -/
def macLineDone (m : Mach) (e : Nat) (o : MemOp) : Mach :=
  if !opFree (eng m e) o then m else
  let n := o.pa / 256
  match fetchLine m e o.lease n o.id with
  | (none, m) => m
  | (some (d, p), m) =>
    let m := sideUsed (l1dAdd m e n) e n
    macFetchDone m e o (loadValue (overlay (eng m e) o n d) o.pa o.size false) p

/-! ## Program flow of a bank (R147, R177, R179) -/

/-- The bank after its bundle or iteration: a jump ends a repeated bundle; else its hidden count, taken from RC as it was before
the first iteration, goes down by one. -/
def advance (b : Bank) (rep : Bool) (rc : Nat) (jump : Option Nat) : Bank :=
  let next (b : Bank) (pc : Nat) : Bank := b.setC 0 (pc % 2 ^ 48 / 16 * 16)
  let clear (b : Bank) : Bank := if bit (cw b 5) 32 then b.setC 5 (bits (cw b 5) 15 0) else b
  match jump with
  | some t => next (clear b) t
  | none =>
    if !rep then next b (bkPc b + 16) else
    let n := (bkCount b).getD rc
    if n ≤ 1 then next (clear b) (bkPc b + 16)
    else b.setC 5 (bits (cw b 5) 15 0 + (n - 1) * 2 ^ 16 + 2 ^ 32)

/-! ## CX (R261 to R266) -/

/-- The fields of a selector: gS, gD, gN; what is left must be 0. -/
def selS (a : Nat) : Nat := bits a 4 0
def selD (a : Nat) : Nat := bits a 12 8
def selN (a : Nat) : Nat := bits a 20 16

/-- A selector breaks R261: a bit that must be 0, or two registers of the operation alike. Codes 1 MOVE, 2 CMP, 3 CRC, 4 MADD, 5 MSUB. -/
def selBad (code a : Nat) : Bool :=
  bits a 7 5 != 0 || bits a 15 13 != 0 || bits a 63 21 != 0 || selS a == selN a ||
    (code != 3 && (selS a == selD a || selD a == selN a))

/-- The operands overlap as R263 forbids. -/
def cxOverlap (code s d n : Nat) : Bool :=
  match code with
  | 1 => decide (s < d) && decide (d < s + n)
  | 4 | 5 => s != d && decide (s < d + 8 * n) && decide (d < s + 8 * n)
  | _ => false

/-- How an interval of a routine ends: more to do, the result, or a fault (cause, detail, address). -/
inductive CxStep where
  | more
  | done (r : Word)
  | fault (cause det addr : Nat)
  deriving DecidableEq, Repr

/-- A range of bytes is read for CX. -/
def cxRead (m : Mach) (e ls va len : Nat) : Except (Nat × Nat × Nat) Bytes × Mach :=
  match canAccessEng (linesFor len) m e ls va len .read with
  | (some (d, a), m) => (.error (0x0C, d, a), m)
  | (none, m) =>
    match rdEng m e ls va len with
    | (.ok b, m) => (.ok b, m)
    | (.error _, m) => (.error (0x09, 0, va), m)
where
  /-- The first address of a range whose translation or right fails. -/
  canAccessEng (fuel : Nat) (m : Mach) (e l va len : Nat) (n : Need) : Option (Nat × Nat) × Mach :=
    match fuel with
    | 0 => (none, m)
    | f + 1 =>
      if len = 0 then (none, m) else
      match engAddr m e l va n with
      | (.error d, m) => (some (d, va), m)
      | (.ok pa, m) =>
        let k := min len (256 - pa % 256)
        canAccessEng f m e l (va + k) (len - k) n

/-- One byte of a CRC-32C register, reflected (R263). -/
def crc32cReg (r : Nat) (b : Bytes) : Nat :=
  b.foldl (fun r x => (List.range 8).foldl (fun r _ => if r % 2 = 1 then Nat.xor (r / 2) 0x82F63B78 else r / 2) (Nat.xor r x.toNat)) r

/-- The first place where two byte strings differ. -/
def firstDiff (a b : Bytes) : Option (Nat × Bool) :=
  match a, b with
  | x :: r, y :: t => if x = y then (firstDiff r t).map (fun p => (p.1 + 1, p.2)) else some (0, decide (x.toNat < y.toNat))
  | _, _ => none

/-- One interval of a routine: up to 256 bytes of source, or 32 words (R264): its lines are checked before any byte is written; the
registers then show the progress. -/
def cxInterval (m : Mach) (e l code a : Nat) : CxStep × Mach :=
  let b := bank m e l
  let ls := bkLease b l
  let s := (gw b (selS a)).toNat
  let d := (gw b (selD a)).toNat
  let n := (gw b (selN a)).toNat
  let words := code = 4 ∨ code = 5
  -- CMP reads up to the next line of either operand, so that it stops at the first difference (R263)
  let k := if words then min n 32 else if code = 2 then min n (min (256 - s % 256) (256 - d % 256)) else min n 256
  let bytes := if words then 8 * k else k
  let inv := tw b 18
  let reg (b : Bank) (i v : Nat) : Bank := b.setG i (BitVec.ofNat 64 v)
  let prog (b : Bank) : Bank := reg (reg b (selS a) (s + bytes)) (selN a) (n - k)
  let progD (b : Bank) : Bank := reg (prog b) (selD a) (d + bytes)
  if n = 0 then (.done (match code with | 3 => BitVec.ofNat 64 (inv % 2 ^ 32) | 4 | 5 => BitVec.ofNat 64 (inv % 2) | _ => 0), m) else
  match cxRead m e ls s bytes with
  | (.error (c, t, x), m) => (.fault c t x, m)
  | (.ok src, m) =>
    match code with
    | 1 =>
      match cxRead.canAccessEng (linesFor bytes) m e ls d bytes .write with
      | (some (t, x), m) => (.fault 0x0C t x, m)
      | (none, m) =>
        let m := (engWrite (linesFor bytes) m e ls d src .write (some (4 * e + l))).2
        (.more, modBank m e l progD)
    | 2 =>
      match cxRead m e ls d bytes with
      | (.error (c, t, x), m) => (.fault c t x, m)
      | (.ok dst, m) =>
        match firstDiff src dst with
        | some (i, lower) =>
          let m := modBank m e l (fun b => reg (reg (reg b (selS a) (s + i)) (selD a) (d + i)) (selN a) (n - i))
          (.done (if lower then 1 else 2), m)
        | none => (.more, modBank m e l progD)
    | 3 => (.more, modBank m e l (fun b => (prog b).setT 18 (crc32cReg (inv % 2 ^ 32) src)))
    | _ =>
      match cxRead m e ls d bytes with
      | (.error (c, t, x), m) => (.fault c t x, m)
      | (.ok dst, m) =>
        match cxRead.canAccessEng (linesFor bytes) m e ls d bytes .write with
        | (some (t, x), m) => (.fault 0x0C t x, m)
        | (none, m) =>
          let x := leVal src
          let y := leVal dst
          let w := 2 ^ (8 * bytes)
          let c := inv % 2
          let (r, c) := if code = 4 then ((y + x + c) % w, (y + x + c) / w) else ((y + w - x + w - c) % w, b2n (decide (y < x + c)))
          let m := (engWrite (linesFor bytes) m e ls d (le bytes r) .write (some (4 * e + l))).2
          (.more, modBank m e l (fun b => (progD b).setT 18 c))

/-- A routine runs through at most `fuel` intervals. -/
def cxRun (fuel : Nat) (m : Mach) (e l code a : Nat) : CxStep × Mach :=
  match fuel with
  | 0 => (.more, m)
  | f + 1 =>
    match cxInterval m e l code a with
    | (.more, m) => cxRun f m e l code a
    | r => r

/-- The lines that a MOVE has covered whole lose their poison (R427). -/
def coverLines (m : Mach) (e ls d n : Nat) : Mach :=
  ((List.range (n / 256 + 1)).map (fun i => (d + 255) / 256 * 256 + 256 * i)).foldl (fun m va =>
    if d + n < va + 256 then m else
    match engAddr m e ls va .write with
    | (.error _, m) => m
    | (.ok pa, m) =>
      let v := cohLine m (pa / 256)
      if v.2 then engPut m e ls pa (lineBytes v.1) none else m) m

/-- A MOVE has come this far: the lines that it has covered since its trigger lose their poison; the last, unless it is whole, is still to come. -/
def moveCovers (m : Mach) (e l : Nat) : Mach :=
  let b := bank m e l
  match b.cx with
  | some (1, w) =>
    let d := (gw b (selD (w.toNat % 2 ^ 24))).toNat
    let m := coverLines m e (bkLease b l) b.cxFrom (d - b.cxFrom)
    modBank m e l (fun b => { b with cxFrom := max b.cxFrom (d / 256 * 256) })
  | _ => m

/-- How many intervals a count can need. -/
def cxFuel (n : Nat) : Nat := n / 32 + 5

/-- What stands in `cx` for a routine: the code, and the operand word with the trigger's slot and its bundle's REPEAT bit. -/
def cxPack (sel slot : Nat) (rep : Bool) : Word := BitVec.ofNat 64 (sel % 2 ^ 24 + 2 ^ 24 * slot + 2 ^ 26 * b2n rep)

/-- A routine is over: its entry has the result, c12 shows no suspended routine, and the bank goes on past its trigger (R379). -/
def cxEnd (m : Mach) (e l : Nat) : Mach :=
  let b := bank m e l
  match b.cx with
  | none => m
  | some (code, w) =>
    if !(eng m e).memops.isEmpty then m else
    let a := w.toNat % 2 ^ 24
    let rep := bit w.toNat 26
    let n := (gw b (selN a)).toNat
    match cxRun (cxFuel n) m e l code a with
    | (.done r, m) =>
      modBank (moveCovers m e l) e l (fun b =>
        let op := ((queueOf b 3).find? (fun x => !x.ready)).map (fun x => x.op)
        let b := fillEntry b 3 (op.getD 0) (fun x => { x with ready := true, lo := r })
        let b := { b with cx := none }
        let b := if bit (cw b 12) 63 then b.setC 12 (bits (cw b 12) 62 0) else b
        advance b rep (bits (cw b 5) 15 0) none)
    | (.fault c t x, m) =>
      let m := modBank (moveCovers m e l) e l (fun b =>
        let b := { b.setQueue 3 ((queueOf b 3).filter (fun x => x.ready)) with cx := none }
        if bit (cw b 12) 63 then b.setC 12 (bits (cw b 12) 62 0) else b)
      deliver m e l { cause := c, slot := bits w.toNat 25 24, sock := 0x257 + code, det := t, addr := x } rep
    | (.more, m) => m

/-! ## SAVE (R250, R251, R301 to R303) -/

def setSaveSt (b : Bank) (st : Nat) : Bank := b.setT4 47 40 st
def setSaveR (b : Bank) (r : Nat) : Bank := b.setT 23 r

/-- The sett that an OUT takes next: the head of the bench's stock, else of the pool. -/
def nextSett (m : Mach) (e l : Nat) : Option Nat := (stockOf (bench m (benchOf e)) l ++ (lease m l).pool).head?

/-- A SAVE needs a micro-routine: its sett's line is not in the bench L2 (R251). -/
def saveLong (m : Mach) (e l code a : Nat) : Bool :=
  match (if code < 2 then nextSett m e l else some a) with
  | none => false
  | some va =>
    match (engAddr m e l va .read).1 with
    | .ok pa => (stAt m (benchOf e) (pa / 256)).isNone
    | .error _ => false

/-- A SAVE operation ends (R250, R251, R302): codes 0 OUT_LO, 1 OUT_HI, 2 IN_LO, 3 IN_HI. -/
def saveEnd (m : Mach) (e l : Nat) : Mach :=
  let b := bank m e l
  match b.save with
  | none => m
  | some (c, a) =>
    if !(eng m e).memops.isEmpty then m else
    let code := c % 4
    let a := a.toNat
    let ls := bkLease b l
    let upper := code % 2 == 1
    -- the routine is over: the bank goes on past its trigger, whose REPEAT bit stands in bit 3 of the code
    let fin (b : Bank) : Bank :=
      let j := b.jmp
      let b := { b with save := none, jmp := none, taken := 0 }
      let b := if bit (cw b 12) 63 then b.setC 12 (bits (cw b 12) 62 0) else b
      advance b (bit c 3) (bits (cw b 5) 15 0) j
    let fail (m : Mach) (st : Nat) : Mach :=
      modBank m e l (fun b => fin (if code < 2 then setSaveR (setSaveSt b st) 0 else setSaveSt b st))
    if code < 2 then
      let (prev, m) := if a = 0 then (.ok none, m) else
        match readSett m e ls a [0, 1] with
        | (.ok s, m) => (Except.ok (some s), m)
        | (.error x, m) => (.error x, m)
      match prev with
      -- a sett taken before the routine was suspended goes back where the SAVE fails, and is written where it does not (R378)
      | .error x => fail (if b.taken = 0 then m else returnSett m e ls b.taken) x
      | .ok prev =>
        match (if b.taken = 0 then takeSetts m e ls 1 3 else (some [b.taken], m)) with
        | (none, m) => fail m 1
        | (some got, m) =>
          let va := got.headD 0
          let b := bank m e l
          let out := if upper then b else b.rawC 0 ((bkPc b + 16) % 2 ^ 48)
          let link := match prev with | some s => settLink s | none => 0
          let m := writeSett m e ls va .settSave link (bkTask b) (b2n upper) l 7 0 (wordsBytes (halfWords out upper))
          let m := match prev with
            | some s => writeSett m e ls a .settSave va (fld s 8 4) (fld s 13 1) (fld s 14 1) (fld s 15 1) (fld s 27 1) (bslice s 64 192)
            | none => m
          modBank m e l (fun b => fin (setSaveR (setSaveSt b 0) va))
    else
      match readSett m e ls a [code - 2] with
      | (.error x, m) => fail m x
      | (.ok s, m) =>
        -- c3 is replaced: what DSTK caches goes to memory first (R246)
        let m := if upper then m else modBank (stackBack m e l).2 e l (fun b => { b with dc := [] })
        let m := modBank m e l (fun b =>
          -- the lower half brings its own program counter; every group of the half has been written (R311)
          if upper then fin ((((loadHalf (setSaveSt b 0) true s).dirty 2).dirty 3).dirty 5)
          else (((loadHalf (fin (setSaveSt b 0)) false s).dirty 0).dirty 1).dirty 4)
        let m := modEng m e (fun x => { x with ahead := [] })
        -- a sett of a reserve stays where it is (R312)
        if bit (fld s 27 1) 0 then m else returnSett m e ls a

/-! ## Micro-traps (R377, R378, R381) -/

/-- An interrupt waits for the routine of a level (R377). -/
def interrupted (m : Mach) (e l : Nat) : Bool :=
  let b := bank m e l
  (List.range 4).any (fun k => decide (l < k) && (bank m e k).st == .ready) ||
    (decide (l < 3) && (bank m e 3).st == .empty && m.evt.l3Waiting.any (fun w => w.bench == e)) || m.mode.holdStart.isSome || b.point.isSome ||
    (decide (l < 3) && mustLeave m e l) || mustEmpty m e l

/-- The micro-save words of a suspended routine (R378): where the sequencer stands, what it returns to, the sett that a SAVE has taken, and
the operand word in a temporary, for a MOVE in another where the lines that it has not yet covered begin; the rest are free (log entry 34). -/
def microSave (m : Mach) (e l code : Nat) (w : Word) : Mach :=
  let (q, m) := microPlace m e
  let (t1, m) := takeFree m
  let (t3, m) := takeFree m
  let level := (unit m 0x02 e).patchLevel
  let w0 := packN [(0, 14, q.addr), (14, 14, q.ret), (32, 8, code), (40, 8, level), (63, 1, 1)]
  modBank m e l (fun b =>
    { (((b.setC 12 w0).setC 13 (if code = 1 then (BitVec.ofNat 64 b.cxFrom ^^^ m.microMask).toNat else if code < 0x10 then t1.toNat else b.taken)).setC 14 (w ^^^ m.microMask).toNat).setC 15 t3.toNat with
      taken := 0 })

/-- The routine of a level stands suspended: its queue entry is released (R202), its micro-save words are written. A routine that the bank
does not hold, and a SAVE that is none or whose bundle also jumps, has no TP word left. -/
def suspend (m : Mach) (e l : Nat) : Mach :=
  let b := bank m e l
  match b.cx, b.save with
  | some (code, w), _ => microSave (modBank m e l (fun b => { b.setQueue 3 ((queueOf b 3).filter (fun x => x.ready)) with cx := none })) e l code w
  | none, some (c, a) =>
    if c % 8 < 4 ∨ b.jmp.isSome then m
    else microSave (modBank m e l (fun b => { b with save := none })) e l (0x10 + c % 4) (BitVec.ofNat 64 (a.toNat % 2 ^ 48 + 2 ^ 48 * b2n (bit c 3)))
  | none, none => m

/-- A free number of whole intervals of a CX routine is done, with the progress in the registers (R264, R380); an interval that meets a fault
or ends a CMP is not begun (R381). -/
def cxSome (m : Mach) (e l : Nat) : Mach :=
  let b := bank m e l
  match b.cx with
  | none => m
  | some (code, w) =>
    let a := w.toNat % 2 ^ 24
    let n := (gw b (selN a)).toNat
    let (k, m) := takeChoice m ((if code = 4 ∨ code = 5 then n / 32 else n / 256) + 1)
    let (r, m') := cxRun k m e l code a
    match r with | .more => moveCovers m' e l | _ => m

/-- An OUT may have taken its sett before the trap (R378). -/
def saveSome (m : Mach) (e l : Nat) : Mach :=
  let b := bank m e l
  match b.save with
  | some (c, _) =>
    let (k, m) := takeChoice m 2
    if k = 0 ∨ 2 ≤ c % 4 ∨ b.taken ≠ 0 then m else
    match takeSetts m e (bkLease b l) 1 3 with
    | (some got, m) => modBank m e l (fun b => { b with taken := got.headD 0 })
    | (none, _) => m
  | none => m

/-- The routine of a level is suspended at its next TP word (R377, R378). Where the interval before it fails a bundle check, it is retried
from its first word before the trap (R381): `fails` is the number of attempts that fail. -/
def microTrap (m : Mach) (e l fails : Nat) : Mach :=
  let b := bank m e l
  let long := match b.save with | some (c, _) => decide (4 ≤ c % 8) && b.jmp.isNone | none => false
  if !interrupted m e l ∨ !(b.cx.isSome || long) ∨ !(eng m e).memops.isEmpty then m else
  if 3 ≤ fails then persistent m e else
  let m := saveSome (cxSome m e l) e l
  let (bad, m) := if fails = 0 then (false, m) else countRetry m e l fails
  let m := if mustEmpty m e l then emptyBank m e l else suspend m e l
  if bad then persistent m e else l3Next m e

/-! ## The end of a CX routine (R379, R389, R390) -/

/-- CX_ROUTINE_END: an error of the control store that is not corrected stops the routine at its last TP word, and the interval is retried;
where the retry fails again the engine has a persistent fault, the routine standing at that word (R390). -/
def cxEnds (m : Mach) (e : EngineId) (l : Nat) (err : Option StoreErr) : Mach :=
  -- a routine of a lower level stands while a level-3 handler runs
  if (bank m e.val l).cx.isNone ∨ !(eng m e.val).memops.isEmpty ∨ (l ≠ 3 ∧ (bank m e.val 3).st ≠ .empty) then m else
  match microMeets m e err with
  | (none, m) => l3Next (cxEnd m e.val l) e.val
  | (some (a, kind, again), m) =>
    let m := microRetried m (.engine e) a kind
    if again then persistent (cxSome m e.val l) e.val else l3Next (cxEnd m e.val l) e.val

end Sys2Proof.Machine
end

