-- ==== Sys2Proof/Machine/IssueOps.lean ====
section
/-! DEFINITION. A bundle's attempt (R158 to R191): fetch, decode checks, values of sources, stalls (R165), issue checks (R181), writes
and triggers (R160). `Ops` in the names of the parts stands for what each of them adds to the bundle's outcome. -/

namespace Sys2Proof.Machine

/-! ## Translation of an access that may stall (R165, R728, R729) -/

/-- A translated address, its failure, or a walk that has been asked for. -/
inductive Xlate where
  | ok (pa : Nat)
  | bad (det : Nat)
  | wait
  deriving DecidableEq, Repr

/-- The translation that an attempt of a level needs, as the engine's buffer and its finished walks have it. -/
def xlateFor (x : Eng) (l ls va : Nat) (n : Need) : Xlate :=
  if 2 ^ 48 ≤ va then .bad 5 else
  match tlbFind x.tlb ls va with
  | some t => (match rightsErr t n with | some d => .bad d | none => .ok (t.pa + va % 2 ^ t.bits))
  | none =>
    match x.xfails.find? (fun f => f.1 == l && f.2.1 == ls && f.2.2.1 == va / 2 ^ 21) with
    | some f => .bad f.2.2.2
    | none => .wait

/-- A walk is asked for once. -/
def askWalk (m : Mach) (e l ls va : Nat) : Mach :=
  modEng m e (fun x => if x.walks.any (fun w => w.1 == l && w.2.1 == ls && w.2.2 / 2 ^ 21 == va / 2 ^ 21) then x
    else { x with walks := x.walks ++ [(l, ls, va)] })

/-- A walk that failed counts only while its page has no mapping: an access made since to a page that has one misses the buffer and walks
again (R165). -/
def freshFails (m : Mach) (e l : Nat) : Mach :=
  modEng m e (fun x => { x with xfails := x.xfails.filter (fun f => f.1 != l || (match walk m f.2.1 (f.2.2.1 * 2 ^ 21) with | .error _ => true | .ok _ => false)) })

/-- The oldest walk ends (R729). -/
def walkDone (m : Mach) (e : Nat) : Mach :=
  match (eng m e).walks with
  | [] => m
  | (l, ls, va) :: r =>
    let m := modEng m e (fun x => { x with walks := r })
    match walk m ls va with
    | .ok t => modEng m e (fun x => { x with tlb := lastN 64 (x.tlb ++ [t]) })
    | .error d => modEng m e (fun x => { x with xfails := x.xfails ++ [(l, ls, va / 2 ^ 21, d)] })

/-! ## Fetch (R147, R170, R181, R420, R421) -/

/-- A bundle, a fetch exception, or nothing yet. -/
inductive Fetched where
  | word (w : Nat)
  | bad (cause : Nat)
  | wait
  deriving DecidableEq, Repr

/-- The line as the engine has it at hand: from what it fetched ahead or from L1I; where they differ, either (R170, R420). -/
def fetchHand (m : Mach) (e n : Nat) : Option Line × Mach :=
  let x := eng m e
  let a := (x.ahead.find? (fun p => p.1 == n)).map (fun p => p.2)
  let c := ((tget m.l1i e []).find? (fun p => p.1.line == n)).map (fun p => p.2)
  match a, c with
  | some d, some d' =>
    if d = d' then (some d, m) else
    let (k, m) := takeChoice m 2
    (some (if k = 0 then d' else d), m)
  | some d, none => (some d, m)
  | none, c => (c, m)

/-- The bundle at the program counter of a level. -/
def fetchBundle (m : Mach) (e l : Nat) : Fetched × Mach :=
  let b := bank m e l
  let ls := bkLease b l
  let pc := bkPc b
  match xlateFor (eng m e) l ls pc .exec with
  | .bad _ => (.bad 1, m)
  | .wait => (.wait, askWalk m e l ls pc)
  | .ok pa =>
    let n := pa / 256
    if isControl pa then (.word (2 ^ 128 - 1), refuseAccess m (.lease (Fin.ofNat 256 ls)) pa 5)
    else if (eng m e).badFetch = some n then (.bad 2, modEng m e (fun x => { x with badFetch := none }))
    else
      match fetchHand m e n with
      | (none, m) => (.wait, modEng m e (fun x => { x with fetch := some n }))
      | (some d, m) =>
        let next := ((tget m.l1i e []).find? (fun p => p.1.line == n + 1)).toList.map (fun p => (n + 1, p.2))
        (.word (leVal (lineSlice d (pa % 256) 16)), modEng (l1iUse m e n) e (fun x => { x with ahead := (n, d) :: next, fetch := none }))

/-- The line that a stalled fetch needs arrives (R165): into L1I, or, where L1I is disabled or the L2 does not hold the line, into the
fetch's own line (R400, R421). -/
def fetchArrives (m : Mach) (e : Nat) : Mach :=
  match (eng m e).fetch with
  | none => m
  | some n =>
    match fetchLine m e 0 n 0 with
    | (none, m) => m
    | (some (d, p), m) =>
      let m := modEng m e (fun x => { x with fetch := none })
      if p then modEng m e (fun x => { x with badFetch := some n })
      else if (eng m e).l1iOff || !l1Keeps m e n then modEng m e (fun x => { x with ahead := [(n, d)] })
      else l1iAdd m e n d

/-! ## Sockets by what they do -/

/-- The result queue that a socket reads, whether it pops, and whether it shows the upper half (R222 to R260). -/
def queuePort (n : Nat) : Option (Nat × Bool × Bool) :=
  match n with
  | 0x091 => some (0, true, false) | 0x092 => some (0, false, true)
  | 0x0B1 => some (1, true, false) | 0x0B2 => some (1, false, true)
  | 0x0D2 => some (2, true, false) | 0x0D3 => some (2, false, false)
  | 0x251 => some (3, true, false) | 0x252 => some (3, false, false)
  | 0x112 => some (4, true, false) | 0x113 => some (4, false, false)
  | 0x152 => some (5, true, false) | 0x153 => some (5, false, false)
  | _ => none

/-- The queue whose entries QCOUNT counts, or that REPLACE acts on (R205). -/
def qcountPort (n : Nat) : Option Nat :=
  match n with
  | 0x094 => some 0 | 0x0B4 => some 1 | 0x0D5 => some 2 | 0x254 => some 3 | 0x115 => some 4 | 0x155 => some 5 | _ => none
def replacePort (n : Nat) : Option Nat :=
  match n with
  | 0x093 => some 0 | 0x0B3 => some 1 | 0x0D4 => some 2 | 0x253 => some 3 | 0x114 => some 4 | 0x154 => some 5 | _ => none

def isTrigger (n : Nat) : Bool := match sockOf n with | some s => s.cls == .trigger | none => false
def unitOfSock (n : Nat) : EUnit := match sockOf n with | some s => s.u | none => .zero

/-- An LSU trigger: its unit and offset. -/
def lsuTrig (n : Nat) : Option (Nat × Nat) :=
  if !isTrigger n then none
  else if 0x110 ≤ n ∧ n < 0x150 then some (0, n - 0x110)
  else if 0x150 ≤ n ∧ n < 0x190 then some (1, n - 0x150)
  else none
def macTrig (n : Nat) : Option Nat := if 0x195 ≤ n ∧ n ≤ 0x199 then some (n - 0x195) else none
def cxTrig (n : Nat) : Option Nat := if 0x258 ≤ n ∧ n ≤ 0x25C then some (n - 0x257) else none
def saveTrig (n : Nat) : Option Nat := if 0x1F0 ≤ n ∧ n ≤ 0x1F3 then some (n - 0x1F0) else none
def aluTrig (n : Nat) : Option (Nat × Nat) :=
  if 0x055 ≤ n ∧ n < 0x070 then some (0, n - 0x050) else if 0x075 ≤ n ∧ n < 0x090 then some (1, n - 0x070) else none

/-- What an LSU trigger does: its operation and size (R234). -/
def lsuKind (o : Nat) : MemKind × Nat :=
  match o with
  | 0x08 => (.load false, 1) | 0x09 => (.load true, 1) | 0x0A => (.load false, 2) | 0x0B => (.load true, 2)
  | 0x0C => (.load false, 4) | 0x0D => (.load true, 4) | 0x0E => (.load false, 8) | 0x0F => (.ldx, 8)
  | 0x18 => (.store, 1) | 0x19 => (.store, 2) | 0x1A => (.store, 4) | 0x1B => (.store, 8) | 0x1C => (.stx, 8)
  | 0x20 => (.swap, 8) | 0x21 => (.cas, 8) | 0x22 => (.fadd, 8) | 0x23 => (.fand, 8) | 0x24 => (.forOp, 8) | 0x25 => (.fxor, 8)
  | 0x28 => (.fence, 0) | 0x29 => (.maint 0, 1) | 0x2A => (.maint 1, 1) | 0x2B => (.maint 2, 1)
  | _ => (.isync, 0)

/-- The right that an LSU trigger needs (R414, R727). -/
def lsuNeed (o : Nat) : Need :=
  match (lsuKind o).1 with
  | .load _ | .ldx | .maint 0 | .maint 2 => .read
  | _ => .write

/-- The queue that a trigger takes an entry of (R171, R172). -/
def takesEntry (n : Nat) : Option Nat :=
  match unitOfSock n, isTrigger n with
  | .mul, true => some 0
  | .div, true => some 1
  | .fpu, true => some 2
  | .cx, true => some 3
  | .lsu0, true | .lsu1, true =>
    match lsuTrig n with
    | some (u, o) => if (0x08 ≤ o ∧ o ≤ 0x0F) ∨ o = 0x1C ∨ (0x20 ≤ o ∧ o ≤ 0x25) then some (4 + u) else none
    | none => none
  | _, _ => none

/-- The guard that a trigger writes besides its move (R212, R217, R221). -/
def trigGuard (b : Bank) (n : Nat) (a : Word) : Option Nat :=
  match aluTrig n with
  | some (u, o) =>
    let cc := if u = 0 then bits (tw b 4) 15 8 else bits (tw b 4) 31 24
    if o = 0x16 then (if bits cc 2 0 = 0 then none else some (bits cc 2 0))
    else if 0x17 ≤ o then some ((o - 0x17) % 3 + 1) else none
  | none => if n = 0x03C then (if bits a.toNat 2 0 = 0 then none else some (bits a.toNat 2 0)) else none

/-- The triggers of which a bundle may execute one (R211). -/
def isJump (n : Nat) : Bool := [0x03A, 0x03B, 0x1D0, 0x1D1, 0x1D2, 0x1F2].contains n

/-! ## The data-stack region (R246, R310) -/

def stackBase (x : Eng) (b : Bank) (l : Nat) : Nat := if l = 3 then x.l3Base.toNat else cw b 6
def stackLimit (x : Eng) (b : Bank) (l : Nat) : Nat := if l = 3 then x.l3Limit.toNat else cw b 7

/-- The entries of the data stack that a source needs. -/
def stackNeeds (n : Nat) : Nat := if n = 0x1B1 then 1 else if 0x1B2 ≤ n ∧ n ≤ 0x1B5 then n - 0x1B1 else 0

/-! ## Values of sources (R150, R154, R160) -/

/-- The value of a source socket before the bundle (R160); `time` and `cycles` are the engine's readings. -/
def readSock (x : Eng) (e l : Nat) (b : Bank) (time cycles : Word) (n : Nat) : Word :=
  let t4 := tw b 4
  let w (v : Nat) : Word := BitVec.ofNat 64 v
  if n < 0x20 then gw b n
  else if n < 0x30 then (if n = 0x22 then w (bkGuards b) else vget b.c (n - 0x20) 0)
  else if 0x31 ≤ n ∧ n ≤ 0x37 then w (b2n (bit (cw b 2) (n - 0x30)))
  else match queuePort n with
  | some (q, _, hi) => match (queueOf b q).head? with
    | some r => if hi then r.hi else r.lo
    | none => 0
  | none => match qcountPort n with
    | some q => w (queueOf b q).length
    | none =>
      if 0x1B1 ≤ n ∧ n ≤ 0x1B5 then ((b.dc[(stackNeeds n - 1)]?).map (fun p => p.1)).getD 0 else
      match n with
      | 0x030 => w (bkGuards b) | 0x038 => w (bits (cw b 5) 15 0) | 0x039 => w (bits (cw b 1) 31 0)
      | 0x040 => w (bkPc b) | 0x041 => w l | 0x042 => w (bkLease b l) | 0x043 => w (if l = 3 then 0 else bkTask b)
      | 0x044 => time | 0x045 => cycles | 0x046 => w e | 0x048 => x.cause | 0x049 => x.excPc | 0x04A => x.excAddr
      | 0x053 => vget b.t 1 0 | 0x054 => w (bits t4 7 4) | 0x073 => vget b.t 3 0 | 0x074 => w (bits t4 23 20)
      | 0x193 => vget b.t 16 0 | 0x194 => vget b.t 17 0
      | 0x1B7 => vget b.c 3 0 | 0x1D3 => b.rstk.getLastD 0 | 0x1D4 => w b.rstk.length | 0x1D5 => vget b.c 4 0
      | 0x1F4 => vget b.t 23 0 | 0x1F5 => w (bits t4 47 40)
      | 0x200 => vget b.t 21 0 | 0x201 => vget b.t 22 0 | 0x204 => w (if b.owns1 then bkTmr b % 4 else bkTmr b)
      | 0x211 => w (bits t4 39 32) | 0x212 => vget b.t 20 0
      | _ => 0

/-! ## Writes of destinations (R160, R294) -/

/-- The word of the transport record that an operand or control port holds (R203). -/
def operandWord (n : Nat) : Option Nat :=
  match n with
  | 0x050 => some 0 | 0x070 => some 2 | 0x090 => some 5 | 0x0B0 => some 6 | 0x0D0 => some 7 | 0x0D1 => some 8
  | 0x110 => some 9 | 0x111 => some 10 | 0x150 => some 11 | 0x151 => some 12 | 0x190 => some 13 | 0x191 => some 14 | 0x192 => some 15
  | 0x250 => some 18 | 0x210 => some 19 | 0x200 => some 21 | 0x201 => some 22
  | _ => none

/-- A move's effect on the bank that holds its destination, triggers and the stack apart; the value is already cut. -/
def writeSock (b : Bank) (n : Nat) (v : Word) : Bank :=
  let x := v.toNat
  if n < 0x20 then b.setG n v
  else if 0x31 ≤ n ∧ n ≤ 0x37 then b.setC 2 (setBits (cw b 2) (n - 0x30) (n - 0x30) (x % 2))
  else match operandWord n with
  | some i => b.setT i x
  | none =>
    match n with
    | 0x021 | 0x039 => b.setC 1 (bits x 31 0 &&& 0x3FF30303)
    | 0x022 | 0x030 => b.setC 2 (bits x 7 1 * 2)
    | 0x023 | 0x1B7 => { b.setC 3 x with dc := [] }
    | 0x025 | 0x038 => b.setC 5 (setBits (cw b 5) 15 0 x)
    | 0x026 => b.setC 6 x
    | 0x027 => b.setC 7 x
    | 0x028 => if bit x 63 then b.setC 8 (setBits (cw b 8) 63 63 1) else b
    | 0x051 => b.setT4 0 0 x | 0x052 => b.setT4 15 8 x | 0x071 => b.setT4 16 16 x | 0x072 => b.setT4 31 24 x
    | 0x193 => { b with macq := b.macq ++ [{ code := 5, a := v, waitX := none, waitY := none, x := 0, y := 0, poison := false }] }
    | 0x194 => { b with macq := b.macq ++ [{ code := 6, a := v, waitX := none, waitY := none, x := 0, y := 0, poison := false }] }
    | 0x204 => b.setT4 51 48 (bkTmr b &&& (15 - (x &&& 10)))
    | _ => b

/-- The bank after all the writes of a bundle. -/
def afterWrites (b : Bank) (ms : List (Move × Word)) : Bank := ms.foldl (fun b p => writeSock b p.1.dest p.2) b

/-! ## Stalls (R165) -/

/-- What an executing move needs translated: address, size, right. -/
def memNeeds (b' : Bank) (p : Move × Word) : List (Nat × Nat × Need) :=
  match lsuTrig p.1.dest with
  | some (_, o) =>
    let k := lsuKind o
    if o = 0x10 then [(p.2.toNat, 1, .read)]
    else if o = 0x28 ∨ o = 0x2C then [] else [(p.2.toNat, k.2, lsuNeed o)]
  | none =>
    match macTrig p.1.dest with
    | some c =>
      let s := if c = 2 then 4 else 8
      if c = 4 then [] else if c = 3 then [(tw b' 13, s, .read)] else [(tw b' 13, s, .read), (tw b' 14, s, .read)]
    | none => []

/-- A stall of a bundle, with what the engine sets going meanwhile; none where it may issue. -/
def stallOf (m : Mach) (e l : Nat) (b b' : Bank) (ms : List (Move × Word)) : Option Mach :=
  let x := eng m e
  let ls := bkLease b l
  let srcs := ms.filterMap (fun p => match p.1.src with | .sock n => some n | .lit _ => none)
  let dests := ms.map (fun p => p.1.dest)
  let flight := srcs.any (fun n => match queuePort n with
    | some (q, _, _) => (match (queueOf b q).head? with | some r => !r.ready | none => false)
    | none => false)
  let latched := srcs.any (fun n => ((n == 0x211 || n == 0x212) && b.ring.isSome) || ((n == 0x193 || n == 0x194) && !b.macq.isEmpty))
  let memTrig := ms.any (fun p => (lsuTrig p.1.dest).isSome || !(memNeeds b' p).isEmpty)
  let fenced := memTrig && x.memops.any (fun o => o.lv == l && o.kind == .fence)
  let lsuBusy := dests.any (fun n => match lsuTrig n with
    | some (u, _) => x.memops.any (fun o => o.unit == u && (match o.kind with | .fence | .isync | .maint _ => true | _ => false))
    | none => false)
  let evtBusy := dests.any (fun n => unitOfSock n == .evt && isTrigger n) && b.ring.isSome
  let counted := ms.any (fun p => match lsuTrig p.1.dest with
    | some (_, o) => o != 0x10 && counts (lsuKind o).1
    | none => !(memNeeds b' p).isEmpty)
  let full := counted && decide (12 ≤ (x.memops.filter (fun o => counts o.kind)).length)
  if flight || latched || fenced || lsuBusy || evtBusy || full then some m else
  match (ms.flatMap (memNeeds b')).find? (fun a => xlateFor x l ls a.1 a.2.2 == .wait) with
  | some a => some (askWalk m e l ls a.1)
  | none =>
    -- the data stack: entries that are not cached, and the bottom entry of a push
    let need := srcs.foldl (fun a n => max a (stackNeeds n)) 0
    let inRegion := decide (cw b 3 + 8 * need ≤ stackLimit x b l)
    if b.dc.length < need ∧ inRegion ∧ b.fault.isNone then some (setBank m e l { b with dfill := need }) else
    let bottom := cw b 3 + 8 * 3
    let pushBusy := dests.contains 0x1B0 && b.dc.length == 4 &&
      (match (engAddr m e ls bottom .write).1 with | .ok pa => memBusy m e pa 8 | .error _ => false)
    if pushBusy then some m else
    -- the return stack
    let spills := dests.any (fun n => n == 0x1D0 || n == 0x1D1) && b.rstk.length == 32 && l != 3
    let fills := (dests.contains 0x1D2 || srcs.contains 0x1D3) && b.rstk.isEmpty && cw b 4 != 0 && l != 3 && b.fault.isNone
    if spills then some (setBank m e l { b with spill := true })
    else if fills then some (setBank m e l { b with fill := true })
    else none

/-! ## Decode and issue checks (R181, R182) -/

def mkExc (cause : Nat) (p : Move) (sock det addr : Nat) : Exc := { cause := cause, slot := p.slot, sock := sock, det := det, addr := addr }

/-- The exception of the lowest slot. -/
def lowest (l : List Exc) : Option Exc := pickBest (fun a b => decide (a.slot < b.slot)) l

/-- The value of a move's source has come: no queue entry or operation in flight that it reads. -/
def srcReady (b : Bank) (p : Move) : Bool :=
  match p.src with
  | .lit _ => true
  | .sock n => match queuePort n with
    | some (q, _, _) => (match (queueOf b q).head? with | some r => r.ready | none => true)
    | none => !(((n == 0x211 || n == 0x212) && b.ring.isSome) || ((n == 0x193 || n == 0x194) && !b.macq.isEmpty))

/-- A move takes a resource that its bank does not own (R157, R214, R254), by the socket or by the value that it carries; a value still in
flight takes none yet. -/
def ownedMove (b : Bank) (p : Move × Word) : Option Nat :=
  let n := p.1.dest
  match ((moveSocks p.1).find? (fun s => s.1 == 0x201 || (s.1 == 0x203 && s.2))).map (fun s => s.1) with
  | some s => some s
  | none =>
    if srcReady b p.1 && ((n == 0x204 && bit p.2.toNat 3) || (n == 0x205 && bit p.2.toNat 1) || (n == 0x03E && bit p.2.toNat 1)) then some n
    else none

/-- Decode checks over every non-empty slot, executing or not (R181 priorities 4 to 6, R182). -/
def decodeExc (b : Bank) (l : Nat) (moves : List (Move × Word)) : Option Exc :=
  let of_ (cause : Nat) (bad : Nat × Bool → Bool) : Option Exc :=
    lowest (moves.filterMap (fun p => ((moveSocks p.1).find? bad).map (fun s => mkExc cause p.1 s.1 0 0)))
  match of_ 4 sockIllegal with
  | some x => some x
  | none => match of_ 5 (sockPrivileged l) with
    | some x => some x
    | none =>
      if l < 2 ∧ b.owns1 then lowest (moves.filterMap (fun p => (ownedMove b p).map (fun n => mkExc 6 p.1 n 0 0))) else none

/-- Two executing moves conflict (R162, R206, R211, R212, R245). -/
def conflict (b' : Bank) (p q : Move × Word) : Bool :=
  let a := p.1.dest
  let c := q.1.dest
  let same := match destWord a, destWord c with | some x, some y => x == y | _, _ => false
  let guardPort (n : Nat) : Option Nat := if 0x31 ≤ n ∧ n ≤ 0x37 then some (n - 0x30) else none
  let word (n : Nat) : Bool := destWord n == some 0x22
  let guards := (word a && (guardPort c).isSome) || (word c && (guardPort a).isSome)
  let trig := isTrigger a && isTrigger c && unitOfSock a == unitOfSock c
  let ga := trigGuard b' a p.2
  let gc := trigGuard b' c q.2
  let wr (g : Option Nat) (n : Nat) : Bool := g.isSome && (word n || guardPort n == g)
  let pop (m : Move) : Bool := m.src == .sock 0x1B1
  let stack (m : Move) : Bool := m.dest == 0x1B0 || m.dest == 0x1B6 || pop m
  let sp (n : Nat) : Bool := destWord n == some 0x23
  same || guards || trig || wr ga c || wr gc a || (ga.isSome && ga == gc) || (isJump a && isJump c) ||
    (sp a && stack q.1) || (sp c && stack p.1)

/-- TRANSPORT_CONFLICT, at the lowest slot that takes part. -/
def conflictExc (b' : Bank) (ms : List (Move × Word)) : Option Exc :=
  let alone (p : Move × Word) : Bool := destWord p.1.dest == some 0x23 && p.1.src == .sock 0x1B1
  lowest ((ms.filter (fun p => alone p || ms.any (fun q => q.1.slot != p.1.slot && conflict b' p q))).map (fun p => mkExc 7 p.1 p.1.dest 0 0))

/-- The head entry that a move reads; none where the move reads no queue. -/
def headOf (b : Bank) (p : Move) : Option (Nat × Option QEnt) :=
  match p.src with
  | .sock n => (queuePort n).map (fun q => (n, (queueOf b q.1).head?))
  | .lit _ => none

/-- A stack fill that failed is raised against the move that needs it (R246, R248, R864). -/
def fillExc (b : Bank) (ms : List (Move × Word)) (cause : Nat) : Option Exc :=
  match b.fault with
  | some (c, d, a) =>
    if c ≠ cause then none else
    lowest (ms.filterMap (fun p =>
      match p.1.src with
      | .sock n => if stackNeeds n != 0 || n == 0x1D3 then some (mkExc cause p.1 n d a) else
          if p.1.dest = 0x1D2 ∨ p.1.dest = 0x1B0 then some (mkExc cause p.1 p.1.dest d a) else none
      | .lit _ => if p.1.dest = 0x1D2 ∨ p.1.dest = 0x1B0 then some (mkExc cause p.1 p.1.dest d a) else none))
  | none => none

/-- EMPTY_RESULT, RESULT_POISON, FP_TRAP, QUEUE_OVERFLOW (R173 to R175, R243). -/
def queueExc (b : Bank) (ms : List (Move × Word)) : Option Exc :=
  let of_ (cause : Nat) (f : Move → Option Nat) : Option Exc := lowest (ms.filterMap (fun p => (f p.1).map (fun s => mkExc cause p.1 s 0 0)))
  let empty (p : Move) : Option Nat := match headOf b p with | some (n, none) => some n | _ => none
  let poison (p : Move) : Option Nat := match headOf b p with
    | some (n, some q) => if q.poison then some n else none
    | some (_, none) => none
    | none => (match p.src with
      | .sock n => if (n = 0x193 ∨ n = 0x194) ∧ bit (tw b 4) 52 then some n else none
      | .lit _ => none)
  let trap (p : Move) : Option Nat := match headOf b p with | some (n, some q) => if q.trap then some n else none | _ => none
  let popped (q : Nat) : Bool := ms.any (fun p => match p.1.src with | .sock n => (match queuePort n with | some (k, true, _) => k == q | _ => false) | .lit _ => false)
  let over_ (p : Move) : Option Nat := match takesEntry p.dest with
    | some q => if 4 ≤ (queueOf b q).length ∧ !popped q then some p.dest else none
    | none => none
  [of_ 8 empty, lowest ((of_ 9 poison).toList ++ (fillExc b ms 9).toList), of_ 10 trap, of_ 11 over_].findSome? id

/-- The stack pointer as the removals of a bundle leave it (R245). -/
def spAfter (b : Bank) (ms : List (Move × Word)) : Nat :=
  let pops := ms.any (fun p => p.1.src == .sock 0x1B1)
  let drop := ((ms.find? (fun p => p.1.dest == 0x1B6)).map (fun p => p.2.toNat)).getD 0
  cw b 3 + 8 * b2n pops + 8 * drop

/-- ACCESS (R181, R728): a trigger's address, or the entry that a push writes back. -/
def accessExc (m : Mach) (e l : Nat) (b b' : Bank) (ms : List (Move × Word)) : Option Exc :=
  let x := eng m e
  let ls := bkLease b l
  let push (p : Move × Word) : Option Exc :=
    if p.1.dest == 0x1B0 && b.dc.length == 4 && spAfter b ms == cw b 3 then
      match (engAddr m e ls (cw b 3 + 24) .write).1 with
      | .error d => some (mkExc 12 p.1 0x1B0 d (cw b 3 + 24))
      | .ok _ => none
    else none
  let trig (p : Move × Word) : Option Exc :=
    if (lsuTrig p.1.dest).map (fun q => q.2) = some 0x10 then none else
    (memNeeds b' p).findSome? (fun a => match xlateFor x l ls a.1 a.2.2 with
      | .bad d => some (mkExc 12 p.1 p.1.dest d a.1)
      | _ => none)
  lowest ((fillExc b ms 12).toList ++ ms.filterMap trig ++ ms.filterMap push)

/-- The target of a jump or call breaks R210. -/
def targetBad (a : Word) : Bool := bits a.toNat 63 48 != 0 || bits a.toNat 3 0 != 0

/-- ALIGN (R210, R235, R241, R263). -/
def alignExc (b b' : Bank) (ms : List (Move × Word)) : Option Exc :=
  lowest (ms.filterMap (fun p =>
    let n := p.1.dest
    if (n = 0x03A ∨ n = 0x1D0) ∧ targetBad p.2 then some (mkExc 13 p.1 n 0 p.2.toNat)
    else if n = 0x25B ∨ n = 0x25C then
      ([gw b (selS p.2.toNat), gw b (selD p.2.toNat)].find? (fun a => a.toNat % 8 != 0)).map (fun a => mkExc 13 p.1 n 0 a.toNat)
    else ((memNeeds b' p).find? (fun a => a.1 % a.2.1 != 0)).map (fun a => mkExc 13 p.1 n 0 a.1)))

/-- DIVIDE and OVERFLOW (R220, R226), from the operands and the flags word as the writes leave them. -/
def arithExc (b' : Bank) (ms : List (Move × Word)) : Option Exc :=
  let dzt := bit (cw b' 1) 8
  let ovt := bit (cw b' 1) 9
  let dv (p : Move × Word) : Option Exc :=
    if (p.1.dest = 0x0B5 ∨ p.1.dest = 0x0B6) ∧ dzt ∧ tw b' 6 = 0 then some (mkExc 14 p.1 p.1.dest 0 0) else none
  let ov (p : Move × Word) : Option Exc :=
    let iov := (match aluTrig p.1.dest with | some (_, o) => (o == 0x09 || o == 0x0A) && p.2 == minWord | none => false) ||
      (p.1.dest == 0x0B6 && divOverflows 6 p.2 (vget b'.t 6 0))
    if ovt ∧ iov then some (mkExc 15 p.1 p.1.dest 0 0) else none
  match lowest (ms.filterMap dv) with
  | some x => some x
  | none => lowest (ms.filterMap ov)

/-- STACK (R246, R248, R310, R864). -/
def stackExc (x : Eng) (l : Nat) (b : Bank) (ms : List (Move × Word)) : Option Exc :=
  let base := stackBase x b l
  let limit := stackLimit x b l
  let sp := cw b 3
  let sp' := spAfter b ms
  let one (p : Move × Word) : Option Exc :=
    let n := p.1.dest
    let k := match p.1.src with | .sock s => stackNeeds s | .lit _ => 0
    let s := match p.1.src with | .sock s => s | .lit _ => 0x3FF
    if k ≠ 0 ∧ (limit < sp + 8 * k ∨ sp + 8 * (k - 1) < base) then some (mkExc 16 p.1 s 0 (sp + 8 * (k - 1)))
    else if n = 0x1B6 ∧ limit < sp' then some (mkExc 16 p.1 n 0 sp')
    else if n = 0x1B0 ∧ (sp' < base + 8 ∨ limit < sp') then some (mkExc 16 p.1 n 0 (toTwos 64 ((sp' : Int) - 8)))
    else if n = 0x1D2 ∧ b.rstk.isEmpty ∧ (cw b 4 = 0 ∨ l = 3) then some (mkExc 16 p.1 n 0 0)
    else if (n = 0x1D0 ∨ n = 0x1D1) ∧ b.rstk.length = 32 ∧ l = 3 then some (mkExc 16 p.1 n 0 0)
    else none
  lowest ((fillExc b ms 16).toList ++ ms.filterMap one)

/-- UNIT (R212, R214, R221, R245, R261 to R263, R267). -/
def unitExc (b b' : Bank) (ms : List (Move × Word)) : Option Exc :=
  lowest (ms.filterMap (fun p =>
    let n := p.1.dest
    let a := p.2.toNat
    let bad (d : Nat) : Option Exc := some (mkExc 17 p.1 n d 0)
    match cxTrig n with
    | some c =>
      if ms.length ≠ 1 then bad 2 else if selBad c a then bad 3
      else if cxOverlap c (gw b (selS a)).toNat (gw b (selD a)).toNat (gw b (selN a)).toNat then bad 1 else none
    | none =>
      if n = 0x03C ∧ gopBad a then bad 3
      else if n = 0x03E ∧ (a % 8 = 0 ∨ 8 ≤ a) then bad 3
      else if n = 0x066 ∧ ccReserved (bits (tw b' 4) 15 8) then bad 3
      else if n = 0x086 ∧ ccReserved (bits (tw b' 4) 31 24) then bad 3
      else if n = 0x1B6 ∧ 4095 < a then bad 3
      else none))

def trapExc (ms : List (Move × Word)) : Option Exc :=
  lowest (ms.filterMap (fun p => if p.1.dest = 0x03F then some (mkExc 18 p.1 0x03F p.2.toNat 0) else none))

/-- The issue checks in the order of R181. -/
def issueExc (m : Mach) (e l : Nat) (b b' : Bank) (ms : List (Move × Word)) : Option Exc :=
  [conflictExc b' ms, queueExc b ms, accessExc m e l b b' ms, alignExc b b' ms, arithExc b' ms,
    stackExc (eng m e) l b ms, unitExc b b' ms, trapExc ms].findSome? id

end Sys2Proof.Machine
end

