-- ==== Sys2Proof/Machine/IssueApply.lean ====
section
/-! DEFINITION. The effect of a bundle that issues (R160): stack, operations started by its triggers, program flow, YIELD and WAIT, the
end of a handler (R188, R189, R213, R214). -/

namespace Sys2Proof.Machine

/-! ## Starting operations -/

def takeOp (m : Mach) (e : Nat) : Nat × Mach := ((eng m e).nextOp, modEng m e (fun x => { x with nextOp := x.nextOp + 1 }))
def newEnt (op : Nat) : QEnt := { op := op, ready := false, lo := 0, hi := 0, poison := false, trap := false, flags := 0, iter := false }
def pushEnt (b : Bank) (q : Nat) (x : QEnt) : Bank := b.setQueue q (queueOf b q ++ [x])

/-- An ALU operation (R218 to R221). -/
def startAlu (b : Bank) (u o : Nat) (a : Word) : Bank :=
  let t4 := tw b 4
  let r := if u = 0 then aluOp o a (vget b.t 0 0) (bits t4 0 0) (bits t4 15 8) else aluOp o a (vget b.t 2 0) (bits t4 16 16) (bits t4 31 24)
  let b := b.setT (2 * u + 1) r.r.toNat
  let b := if u = 0 then b.setT4 7 4 r.f else b.setT4 23 20 r.f
  let b := match r.guard with | some (g, v) => b.setC 2 (setBits (cw b 2) g g (b2n v)) | none => b
  if r.iov then b.setC 1 (cw b 1 ||| 2) else b

/-- A multiplication or division waits for its array (R223, R225, R226). -/
def startMul (m : Mach) (e l o : Nat) (a : Word) : Mach :=
  let (op, m) := takeOp m e
  let r := mulOp o a (vget (bank m e l).t 5 0)
  arrayTake (modBank m e l (fun b => pushEnt b 0 { newEnt op with lo := r.1, hi := r.2, iter := true })) e 0
def startDiv (m : Mach) (e l o : Nat) (a : Word) : Mach :=
  let (op, m) := takeOp m e
  let d := vget (bank m e l).t 6 0
  let r := divOp o a d
  let m := modBank m e l (fun b =>
    let b := pushEnt b 1 { newEnt op with lo := r.1, hi := r.2, iter := true }
    if divByZero d then b.setC 1 (cw b 1 ||| 1) else if divOverflows o a d then b.setC 1 (cw b 1 ||| 2) else b)
  arrayTake m e 1

/-- An FPU operation starts with the rounding direction of the flags word (R228 to R232). -/
def startFpu (m : Mach) (e l o : Nat) (a : Word) : Mach :=
  let (op, m) := takeOp m e
  let b := bank m e l
  let r := fpuOp o (bits (cw b 1) 17 16) a (vget b.t 7 0) (vget b.t 8 0)
  let m := setBank m e l (pushEnt b 2 { newEnt op with lo := r.1, flags := r.2, iter := fpuIterative o })
  if fpuIterative o then arrayTake m e 2 else m

/-- A translated address of an issuing bundle. -/
def issuePa (m : Mach) (e l ls va : Nat) (n : Need) : Option Nat :=
  match xlateFor (eng m e) l ls va n with | .ok pa => some pa | _ => none

/-- A read or write of a line asks the bench L2 for it at once (R402, R405, R449); the prefetcher sees the loads. A prefetch names no operation. -/
def askLine (m : Mach) (e ls pa : Nat) (own : Bool) (op : Option Nat) : Mach :=
  let n := pa / 256
  let cause := op.map (fun k => (e, k))
  if isControl pa ∨ memLines m ≤ n ∨ l2Off m (benchOf e) n then m
  else if own then (l2Store m (benchOf e) n ls cause).2
  else
    let m := (l2Load m (benchOf e) n ls cause).2
    if op.isSome then stride m e ls n else m

/-- An LSU operation starts (R234 to R238). -/
def startLsu (m : Mach) (e l u o : Nat) (a : Word) : Mach :=
  let ls := bkLease (bank m e l) l
  let va := a.toNat
  if o = 0x10 then
    -- PF is dropped where the address is not mapped, and where there is no line to bring in
    match issuePa m e l ls va .read with
    | none => m
    | some pa => if isControl pa ∨ memLines m ≤ pa / 256 ∨ l2Off m (benchOf e) (pa / 256) then m else sideAdd (askLine m e ls pa false none) e (pa / 256)
  else
    let (k, size) := lsuKind o
    let pa := if size = 0 then some 0 else issuePa m e l ls va (lsuNeed o)
    match pa with
    | none => m
    | some pa =>
      let b := bank m e l
      let (op, m) := takeOp m e
      let entry := (takesEntry (if u = 0 then 0x110 + o else 0x150 + o)).isSome
      let x : MemOp := { id := op, lv := l, unit := u, kind := k, lease := ls, pa := pa, size := size, data := vget b.t (9 + 2 * u) 0,
                         exp := vget b.t (10 + 2 * u) 0, entry := if entry then op else 0 }
      let m := if entry then modBank m e l (fun b => pushEnt b (4 + u) (newEnt op)) else m
      let addOp (m : Mach) : Mach := modEng m e (fun y => { y with memops := y.memops ++ [x] })
      match k with
      | .fence | .isync => let m := addOp m; fencesDone ((eng m e).memops.length) m e
      | .maint c =>
        -- the control space holds no lines to maintain
        if isControl pa then m else
        let r : ReqOp := if c = 0 then .mntC else if c = 1 then .mntI else .mntCI
        send (addOp m) (.req (homeOf m (pa / 256)) { op := r, n := pa / 256, src := e, lease := ls, self := false, incl := false, mask := 0,
                                                     data := 0, poison := false })
      | _ => askLine (addOp m) e ls pa (isWrite k) (some op)

/-- A MAC fetch starts; none where nothing is fetched. -/
def startFetch (m : Mach) (e l va size : Nat) (y : Bool) : Option Nat × Mach :=
  let ls := bkLease (bank m e l) l
  match issuePa m e l ls va .read with
  | none => (none, m)
  | some pa =>
    let (op, m) := takeOp m e
    let x : MemOp := { id := op, lv := l, unit := 2, kind := .mac y, lease := ls, pa := pa, size := size, data := 0, exp := 0, entry := 0 }
    (some op, askLine (modEng m e (fun z => { z with memops := z.memops ++ [x] })) e ls pa false (some op))

/-- A MAC trigger (R240, R241): its fetches start, then PA and PB advance by their strides, at every trigger. -/
def startMac (m : Mach) (e l c : Nat) (a : Word) : Mach :=
  let b := bank m e l
  let size := if c = 2 then 4 else 8
  let (wx, m) := if c = 4 then (none, m) else startFetch m e l (tw b 13) size false
  let (wy, m) := if 3 ≤ c then (none, m) else startFetch m e l (tw b 14) size true
  let stride (v s : Nat) : Nat := toTwos 64 ((v : Int) + signed 32 s)
  modBank m e l (fun b =>
    let b := (b.setT 13 (stride (tw b 13) (tw b 15 % 2 ^ 32))).setT 14 (stride (tw b 14) (tw b 15 / 2 ^ 32))
    let b := { b with macq := b.macq ++ [{ code := c, a := a, waitX := wx, waitY := wy, x := 0, y := 0, poison := false }] }
    macDrain b.macq.length b)

/-! ## REPLACE (R205, R240) -/

/-- The head entry of the exception-pending level is completed with a value; its operation, whose result and flags no longer find the entry,
is abandoned. -/
def replaceHead (m : Mach) (e q : Nat) (v : Word) : Mach :=
  match (eng m e).excLevel with
  | none => m
  | some l =>
    match queueOf (bank m e l) q with
    | [] => m
    | x :: r =>
      let m := modBank m e l (fun b => b.setQueue q ({ newEnt 0 with ready := true, lo := v } :: r))
      modEng m e (fun y => { y with memops := y.memops.map (fun o => if o.entry = x.op then { o with entry := 0 } else o) })

def replaceMac (m : Mach) (e : Nat) (v : Word) : Mach :=
  match (eng m e).excLevel with
  | none => m
  | some l => modBank m e l (fun b => (setAcc b (toTwos 128 v.toInt)).setT4 52 52 0)

/-! ## The end of a handler (R188, R189, R213) -/

def disposeExc (m : Mach) (e v : Nat) : Mach :=
  match (eng m e).excLevel with
  | none => m
  | some l =>
    if v = 3 then m else
    let x := eng m e
    let m := modEng m e (fun y => { y with excLevel := none })
    let b := bank m e l
    let m := match v with
      | 0 => setBank m e l { b with st := .ready }
      | 1 => setBank m e l (advance { b with st := .ready } false 0 none |> fun b => if bit (cw b 5) 32 then b.setC 5 (bits (cw b 5) 15 0) else b)
      | _ =>
        let pay := le 4 (bkTask b) ++ le 4 0 ++ le 8 x.cause.toNat ++ le 8 x.excPc.toNat
        releaseTask (raiseEvent m 0x08 e (bkLease b l) 1 pay) e l
    l3End m e

/-- YIELD at the boundary after its bundle (R213, R318). -/
def yieldNow (m : Mach) (e l : Nat) : Mach :=
  if l = 3 then (if (eng m e).excLevel.isSome then m else l3End m e) else reachPoint m e l

/-- WAIT at the boundary after its bundle (R214, R318). -/
def waitNow (m : Mach) (e l mask : Nat) : Mach :=
  let b := bank m e l
  if waitHolds mask (bkTmr b) (bkWake b) then
    (if bit mask 2 then setBank m e l (b.setC 8 (setBits (cw b 8) 42 42 0)) else m)
  else
    let m := placeReserve m e l
    modBank m e l (fun b => { (b.setC 8 (setBits (cw b 8) 45 43 mask)) with
      st := .waiting, graceAt := some (m.now + 100 * bits (bench m (benchOf e)).ctl.toNat 31 16) })

/-! ## The data stack (R245, R246) -/

/-- Removals, then the push: with four entries cached the bottom one goes to memory. -/
def stackMoves (m : Mach) (e l : Nat) (ms : List (Move × Word)) : Mach :=
  let b := bank m e l
  let sp := spAfter b ms
  let k := (sp - cw b 3) / 8
  let m := if sp = cw b 3 then m else setBank m e l { (b.setC 3 sp) with dc := b.dc.drop k }
  match ms.find? (fun p => p.1.dest == 0x1B0) with
  | none => m
  | some p =>
    let b := bank m e l
    let m := if b.dc.length < 4 then m else
      match b.dc.getLast? with
      | some (v, _) => (engWrite 2 m e (bkLease b l) (sp + 24) (le 8 v.toNat) .write (some (4 * e + l))).2
      | none => m
    modBank m e l (fun b => { (b.setC 3 (sp - 8)) with dc := (p.2, true) :: b.dc.take 3 })

/-! ## Triggers in their order (R236: LSU0 before LSU1) -/

/-- What a bundle asks of its bank's program flow: a target, a YIELD, a WAIT with its mask, an EXC_DISPOSE value. -/
structure Flow where
  jump : Option Nat
  yld : Bool
  wait : Option Nat
  dispose : Option Nat
  deriving DecidableEq, Repr

/-- The flow of a bundle (R210, R211, R247); `top` is the newest return address. -/
def flowOf (pc top : Nat) (ms : List (Move × Word)) : Flow :=
  let at_ (n : Nat) : Option Word := (ms.find? (fun p => p.1.dest == n)).map (fun p => p.2)
  let rel (a : Word) : Nat := (pc + 16 * a.toNat) % 2 ^ 48
  { jump := [(at_ 0x03A).map (fun a => a.toNat), (at_ 0x03B).map rel, (at_ 0x1D0).map (fun a => a.toNat), (at_ 0x1D1).map rel,
             (at_ 0x1D2).map (fun _ => top)].findSome? id,
    yld := (at_ 0x03D).isSome, wait := (at_ 0x03E).map (fun a => a.toNat), dispose := (at_ 0x04B).map (fun a => a.toNat) }

/-- One executing move's trigger or control effect, on the unit state as the writes leave it; `guards` is the guard word from
before the bundle, `time` the engine's clock at issue. -/
def applyTrig (e l : Nat) (rep : Bool) (guards : Nat) (time : Word) (m : Mach) (p : Move × Word) : Mach :=
  let n := p.1.dest
  let a := p.2
  let onB (f : Bank → Bank) : Mach := modBank m e l f
  match aluTrig n with
  | some (u, o) => onB (fun b => startAlu b u o a)
  | none => match lsuTrig n with
    | some (u, o) => startLsu m e l u o a
    | none => match macTrig n with
      | some c => startMac m e l c a
      | none => match cxTrig n with
        | some c =>
          let (op, m) := takeOp m e
          microStart (modBank m e l (fun b => { pushEnt b 3 (newEnt op) with
            cx := some (c, cxPack a.toNat p.1.slot rep), cxFrom := (gw b (selD a.toNat)).toNat })) e c
        | none => match saveTrig n with
          | some c =>
            let long := saveLong m e (bkLease (bank m e l) l) c a.toNat
            let m := onB (fun b => { b with save := some (c + 4 * b2n long + 8 * b2n rep, a), taken := 0 })
            if long then microStart m e (0x10 + c) else m
          | none => match replacePort n with
            | some q => replaceHead m e q a
            | none =>
              if 0x095 ≤ n ∧ n ≤ 0x097 then startMul m e l (n - 0x090) a
              else if n = 0x0B5 ∨ n = 0x0B6 then startDiv m e l (n - 0x0B0) a
              else if 0x0E0 ≤ n ∧ n < 0x110 then startFpu m e l (n - 0x0D0) a
              else if 0x218 ≤ n ∧ n ≤ 0x21D then onB (fun b => { b with ring := some (n - 0x218 + 8 * (eng m e).nextOp, vget b.t 19 0, a) })
              else match n with
                | 0x19A => replaceMac m e a
                | 0x03C => onB (fun b => b.setC 2 (setBits (cw b 2) (bits a.toNat 2 0) (bits a.toNat 2 0) (b2n (gopValue guards a.toNat))))
                | 0x202 => onB (fun b => (b.setT 21 (time + a).toNat).setT4 49 48 1)
                | 0x203 => onB (fun b => (b.setT 22 (time + a).toNat).setT4 51 50 1)
                | 0x205 => onB (fun b => b.setT4 51 48 (bkTmr b &&& (15 - (b2n (bit a.toNat 0) + 4 * b2n (bit a.toNat 1)))))
                | 0x1D0 | 0x1D1 => onB (fun b => { b with rstk := b.rstk ++ [BitVec.ofNat 64 ((bkPc b + 16) % 2 ^ 48)] })
                | 0x1D2 => onB (fun b => { b with rstk := b.rstk.dropLast })
                | _ => m

/-- The moves in the order in which their triggers act on memory. -/
def trigOrder (ms : List (Move × Word)) : List (Move × Word) :=
  let key (p : Move × Word) : Nat := match lsuTrig p.1.dest with | some (0, _) => 0 | some _ => 1 | none => 2
  ms.filter (fun p => key p == 0) ++ ms.filter (fun p => key p == 1) ++ ms.filter (fun p => key p == 2)

/-- The bundle or iteration issues (R160): pops leave the queues, the writes, the stack, the triggers, the flow. -/
def applyBundle (m : Mach) (e l : Nat) (rep : Bool) (ms : List (Move × Word)) (time : Word) : Mach :=
  let b0 := bank m e l
  let rc := bits (cw b0 5) 15 0
  let guards := bkGuards b0
  let fl := flowOf (bkPc b0) (b0.rstk.getLastD 0).toNat ms
  -- a write of the stack pointer leaves the cache: its entries go to memory first
  let m := if ms.any (fun p => destWord p.1.dest == some 0x23) then (stackBack m e l).2 else m
  let popped := (List.range 6).filter (fun q => ms.any (fun p => match p.1.src with
    | .sock n => (match queuePort n with | some (k, true, _) => k == q | _ => false)
    | .lit _ => false))
  let m := modBank m e l (fun b =>
    let b := popped.foldl (fun b q => b.setQueue q ((queueOf b q).drop 1)) b
    let b := afterWrites { b with fault := none, dfill := 0, spill := false, fill := false } ms
    macDrain b.macq.length b)
  -- the failed walks that the bundle waited for are used up
  let m := modEng m e (fun x => { x with xfails := x.xfails.filter (fun f => f.1 != l) })
  let m := stackMoves m e l ms
  let m := (trigOrder ms).foldl (applyTrig e l rep guards time) m
  let busy := (bank m e l).cx.isSome || (bank m e l).save.isSome
  -- a SAVE's bundle ends with its operation: the count that it first issued with stands meanwhile (R177); a CX trigger is alone in its bundle
  let held (b : Bank) : Bank :=
    if rep && (bkCount b0).isNone && b.save.isSome then b.setC 5 (bits (cw b 5) 15 0 + rc * 2 ^ 16 + 2 ^ 32) else b
  let m := modBank m e l (fun b => if busy then { held b with jmp := fl.jump } else advance b rep rc fl.jump)
  let m := modEng m e (fun x => if fl.jump.isSome then { x with ahead := [] } else x)
  let m := if fl.yld then yieldNow m e l else m
  let m := match fl.wait with | some k => waitNow m e l k | none => m
  match fl.dispose with | some v => disposeExc m e v | none => m

/-! ## An attempt (R158 to R185, R795, R796) -/

/-- The exception of an attempt is taken; FP_TRAP clears the mark of the entry that it names (R176). -/
def takeExc (m : Mach) (e l : Nat) (x : Exc) (rep : Bool) : Mach :=
  let m := if x.cause = 10 then
      match queuePort x.sock with
      | some (q, _, _) => modBank m e l (fun b => b.setQueue q (match queueOf b q with | h :: r => { h with trap := false } :: r | [] => []))
      | none => m
    else m
  deliver m e l x rep

/-- The values that moves carry (R154, R160). -/
def carried (x : Eng) (e l : Nat) (b : Bank) (time cycles : Word) (ms : List Move) : List (Move × Word) :=
  ms.map (fun p =>
    let v := match p.src with | .lit w => w | .sock n => readSock x e l b time cycles n
    (p, match sockOf p.dest with | some s => cutTo s.width v | none => v))

/-- An attempt of the bundle at the program counter of a level; `fails` is the number of attempts whose results fail a check. -/
def attempt (m : Mach) (e l fails : Nat) : Mach :=
  let m := freshFails m e l
  let b := bank m e l
  match fetchBundle m e l with
  | (.wait, m) => m
  -- a bundle whose hidden count is valid has REPEAT (R177, R186)
  | (.bad c, m) => deliver m e l { cause := c, slot := 7, sock := 0x3FF, det := 0, addr := bkPc b } (bkCount b).isSome
  | (.word w, m) =>
    let rep := bit w 127
    match decodeBundle w with
    | .error s => deliver m e l { cause := 3, slot := s, sock := 0x3FF, det := 0, addr := 0 } rep
    | .ok bu =>
      let timed := bu.moves.any (fun p => p.src == .sock 0x044 || p.dest == 0x202 || p.dest == 0x203)
      let (time, m) := if timed then takeStamp m e else (0, m)
      let (more, m) := if bu.moves.any (fun p => p.src == .sock 0x045) then takeFree m else (0, m)
      let cycles := (eng m e).cycles + more
      let m := modEng m e (fun x => { x with cycles := cycles })
      let all := carried (eng m e) e l b time cycles bu.moves
      match decodeExc b l all with
      | some x => deliver m e l x rep
      | none =>
        if rep && (bkCount b).isNone && bits (cw b 5) 15 0 == 0 then modBank m e l (fun b => advance b true 0 none) else
        let ms := all.filter (fun p => guardHolds (bkGuards b) p.1.guard)
        let b' := afterWrites b ms
        match stallOf m e l b b' ms with
        | some m => m
        | none =>
          match issueExc m e l b b' ms with
          | some x => takeExc m e l x rep
          | none =>
            if 3 ≤ fails then persistent m e
            else if fails = 0 then applyBundle m e l rep ms time
            else
              let (bad, m) := countRetry m e l fails
              let m := applyBundle m e l rep ms time
              if bad then persistent m e else m

/-- A bundle boundary and an attempt of the level that issues (R168, R319): a level that waits for its displacement, for its end, or
for a micro-routine issues nothing. -/
def bundleIssue (m : Mach) (e : EngineId) (fails : Nat) (fix : Option (Fin 256)) : Mach :=
  if !engActive m e.val then m else
  let m := match fix with | some k => (microMeets m e (some (.corrected k))).2 | none => m
  let e := e.val
  if inRoutine m e then m else
  let m := l3Next m e
  match runLevel m e with
  | none => m
  | some l =>
    if mustEmpty m e l then emptyBank m e l else
    let b := bank m e l
    let idle := settled m e l
    if b.save.isSome || (bkEnd b && idle) || (decide (l < 3) && mustLeave m e l && idle) then m else
    let wait := match b.point with
      | some t => eligibleHere m e l && decide (m.now < t)
      | none => false
    if wait then m else
    let m := if b.point.isSome then leavePoint m e l else m
    if bit (cw b 12) 63 then microResume m e l else attempt m e l fails

end Sys2Proof.Machine
end

