-- ==== Sys2Proof/Machine/EngineCmds.lean ====
section
/-! DEFINITION. The commands of the engines and benches but for those that complete memory operations: bundles, fetch and translation,
operations, stacks, SAVE and CX, rings, timers, the scheduler, steals, setts, control stores (R142 to R399). -/

namespace Sys2Proof.Machine

/-- A command of one engine that works: none where the engine has failed or is parked. -/
def onEngine (s : State) (e : Nat) (f : Mach → Mach) : Host.Outcome State Fault Refusal :=
  runUnits s (fun m => if engActive m e then f m else m)

/-- FETCH_LINE_ARRIVAL (R165, R402). -/
def execFetchLineArrival (e : EngineId) (s : State) : Host.Outcome State Fault Refusal := runMesh s (fun m => fetchArrives m e.val)

/-- TRANSLATION_COMPLETE (R729). -/
def execTranslationComplete (e : EngineId) (s : State) : Host.Outcome State Fault Refusal := runMesh s (fun m => walkDone m e.val)

/-! ## Operations (R198, R199, R232) -/

/-- The operation in an array of a level ends. -/
def arrayDone (m : Mach) (e u l op : Nat) : Mach :=
  let m := modBank m e l (fun b => if u = 2 then fpuDone b op else fillEntry b u op (fun x => { x with ready := true }))
  arrayFree m e u l op

/-- An operation of a level completes: the one in the unit's array, or for the FPU any of those in its pipeline. -/
def operationDone (m : Mach) (e l u : Nat) : Mach :=
  let inArray : List Nat := match tfind (eng m e).arrays u with | some (k, op) => if k = l then [op] else [] | none => []
  let piped := if u = 2 then ((queueOf (bank m e l) 2).filter (fun x => !x.iter && !x.ready)).map (fun x => x.op) else []
  let all := inArray ++ piped
  if all.isEmpty then m else
  let (k, m) := takeChoice m all.length
  let op := all.getD k 0
  if inArray.contains op then arrayDone m e u l op else modBank m e l (fun b => fpuDone b op)

def qunitNo : QUnit → Nat
  | .mul => 0
  | .div => 1
  | .fpu => 2

/-- OPERATION_COMPLETE (R199, R865). -/
def execOperationComplete (e : EngineId) (l : LevelId) (u : QUnit) (s : State) : Host.Outcome State Fault Refusal :=
  onEngine s e.val (fun m => operationDone m e.val l.val (qunitNo u))

/-! ## Stacks (R246, R248, R864) -/

/-- DSTK_FILL_COMPLETE: the entries that a stalled bundle needs come from memory, or the fault that its next attempt raises. -/
def dstkFill (fuel : Nat) (m : Mach) (e l : Nat) : Mach :=
  match fuel with
  | 0 => m
  | f + 1 =>
    let b := bank m e l
    if b.dfill ≤ b.dc.length then setBank m e l { b with dfill := 0 } else
    let va := cw b 3 + 8 * b.dc.length
    let ls := bkLease b l
    match engAddr m e ls va .read with
    | (.error d, m) => modBank m e l (fun b => { b with dfill := 0, fault := some (12, d, va) })
    | (.ok pa, m) =>
      if memBusy m e pa 8 then m else
      match rdEng m e ls va 8 with
      | (.error (.xlate d), m) => modBank m e l (fun b => { b with dfill := 0, fault := some (12, d, va) })
      | (.error .poison, m) => modBank m e l (fun b => { b with dfill := 0, fault := some (9, 0, va) })
      | (.ok x, m) => dstkFill f (modBank m e l (fun b => { b with dc := b.dc ++ [(BitVec.ofNat 64 (leVal x), false)] })) e l

def execDstkFillComplete (e : EngineId) (l : LevelId) (s : State) : Host.Outcome State Fault Refusal :=
  onEngine s e.val (fun m => if (bank m e.val l.val).dfill = 0 then m else dstkFill 5 m e.val l.val)

/-- RSTK_SPILL_COMPLETE: the oldest 16 addresses go into a sett (R248, R309); a take that fails is tried again. -/
def rstkSpill (m : Mach) (e l : Nat) : Mach :=
  let b := bank m e l
  if !b.spill || runLevel m e != some l then m else
  match takeSetts m e (bkLease b l) 1 2 with
  | (none, m) => m
  | (some got, m) => modBank (spillInto m e l (got.headD 0) 16) e l (fun b => { b with spill := false })

def execRstkSpillComplete (e : EngineId) (l : LevelId) (s : State) : Host.Outcome State Fault Refusal :=
  onEngine s e.val (fun m => rstkSpill m e.val l.val)

/-- RSTK_FILL_COMPLETE: the newest spill sett's addresses come back, or its failed check is raised (R248, R864). -/
def rstkFill (m : Mach) (e l : Nat) : Mach :=
  let b := bank m e l
  if !b.fill then m else
  let ls := bkLease b l
  let va := cw b 4
  match readSett m e ls va [3] with
  | (.error c, m) =>
    let m := settRejected m e ls (bkTask b) va c 2
    modBank m e l (fun b => { b with fill := false, fault := some (16, c, va) })
  | (.ok x, m) =>
    let n := fld x 15 1
    let m := modBank m e l (fun b =>
      { ((b.setC 4 (settLink x)).setC 9 (cw b 9 - n)) with rstk := (List.range n).map (settWord x), fill := false, setts := b.setts - 1 })
    returnSett m e ls va

def execRstkFillComplete (e : EngineId) (l : LevelId) (s : State) : Host.Outcome State Fault Refusal :=
  onEngine s e.val (fun m => rstkFill m e.val l.val)

/-- SAVE_COMPLETE (R250, R251). -/
def execSaveComplete (e : EngineId) (l : LevelId) (s : State) : Host.Outcome State Fault Refusal :=
  onEngine s e.val (fun m => l3Next (saveEnd m e.val l.val) e.val)
/-- MICRO_TRAP (R377, R378, R381). -/
def execMicroTrap (e : EngineId) (l : LevelId) (check : Option (Fin 4)) (s : State) : Host.Outcome State Fault Refusal :=
  onEngine s e.val (fun m => microTrap m e.val l.val ((check.map (fun c => c.val)).getD 0))

/-! ## Rings (R255 to R259, R867, R326) -/

/-- A task descriptor keeps its rules (R321). -/
def descOk (b : Bytes) : Bool :=
  fld b 0 8 % 16 == 0 && decide (fld b 0 8 < 2 ^ 48) && fld b 16 8 % 8 == 0 && fld b 24 8 % 8 == 0 && decide (fld b 16 8 < fld b 24 8) &&
    allZero (bslice b 36 28)

/-- The fresh entry of a descriptor. -/
def descTask (ls level : Nat) (b : Bytes) : QTask :=
  freshTask ls level (fld b 32 4) (BitVec.ofNat 64 (fld b 0 8)) (BitVec.ofNat 64 (fld b 16 8)) (BitVec.ofNat 64 (fld b 24 8))
    (BitVec.ofNat 64 (fld b 8 8)) none

/-- SPAWN (R256, R734, R867). -/
def spawnAnswer (m : Mach) (e ls arg a : Nat) : Nat × Mach :=
  let bn := if bits arg 7 0 = 0xFF then benchOf e else bits arg 7 0
  if (lease m ls).st ≠ .active then (3, m)
  else if arg / 512 ≠ 0 ∨ 64 ≤ bn ∨ a % 64 ≠ 0 then (5, m)
  else if !inMask m ls bn then (2, m)
  else if !benchIn m bn then (4, m)
  else match rdEng m e ls a 64 with
    | (.error _, m) => (5, m)
    | (.ok b, m) =>
      if !descOk b then (5, m)
      else if 512 ≤ (bench m bn).queue.length ∨ m.mode.holdStart.isSome then (1, m)
      else (0, enqueue m bn (descTask ls (bits arg 8 8) b))

/-- POST (R256, R259, R776). -/
def postAnswer (m : Mach) (ls arg : Nat) (a : Word) : Nat × Mach :=
  if (lease m ls).st ≠ .active then (3, m)
  else if arg / 4096 ≠ 0 ∨ arg < 16 then (5, m)
  else (0, raiseEvent m 0x01 (0x1000 + ls) ls arg (le 8 a.toNat))

/-- WAKE (R326). -/
def wakeAnswer (m : Mach) (ls a : Nat) : Nat × Mach :=
  if (lease m ls).st ≠ .active then (3, m) else
  let (held, m) := wakeTask m ls a
  (if held then 0 else 5, m)

/-- The ring in flight of a level is answered: ST and TXN are set. -/
def ringDone (m : Mach) (e l code : Nat) (txn : Word) : Mach :=
  modBank m e l (fun b => { ((b.setT4 39 32 code).setT 20 txn.toNat) with ring := none })

/-- RING_ANSWER (R258, R259): the target answers once every store of the level before the ring is visible; a channel ring once its
journal entry is written. -/
def ringAnswer (m : Mach) (e l : Nat) : Mach :=
  let b := bank m e l
  let key := 4 * e + l
  match b.ring with
  | none => m
  | some (c, arg, a) =>
    let ls := bkLease b l
    if (eng m e).memops.any (fun o => o.lv == l && isWrite o.kind && decide (o.id < c / 8)) then m else
    let plain (r : Nat × Mach) : Mach := ringDone r.2 e l r.1 0
    let kept (m : Mach) : Mach :=
      match tfind m.answers key with
      | some (code, txn) => ringDone { m with answers := tdel m.answers key } e l code txn
      | none => m
    match c % 8 with
    | 0 => kept (ringCrush m key ls arg a)
    | 1 => kept (ringCipher m key ls arg a)
    | 2 =>
      if (tfind m.answers key).isSome ∨ m.chn.txns.any (fun t => t.2.st == .submitted && t.2.id.submitter == key) then kept m
      else kept (ringChan m key ls arg a)
    | 3 => plain (spawnAnswer m e ls arg.toNat a.toNat)
    | 4 => plain (postAnswer m ls arg.toNat a)
    | _ => plain (wakeAnswer m ls a.toNat)

def execRingAnswer (e : EngineId) (l : LevelId) (s : State) : Host.Outcome State Fault Refusal :=
  runMesh s (fun m => ringAnswer m e.val l.val)

/-! ## Timers and waits (R253, R254, R318, R327) -/

/-- TIMER_EXPIRY: an armed timer whose deadline the engine's clock has reached; an owned timer 1 is a scheduling point. -/
def timerExpiry (m : Mach) (e l t : Nat) : Mach :=
  let b := bank m e l
  let (now, m) := takeStamp m e
  if b.st == .empty || b.st == .saving || !bit (bkTmr b) (2 * t) || decide (now.toNat < tw b (21 + t)) then m
  else if t = 1 ∧ b.owns1 then
    let m := setBank m e l (b.setT4 51 50 0)
    if b.st = .ready then
      let m := reachPoint m e l
      if (bank m e l).point.isSome then m else leavePoint m e l
    else if b.st = .waiting then m else armSlice m e l
  else checkWait (setBank m e l (b.setT4 (49 + 2 * t) (48 + 2 * t) 2)) e l

def execTimerExpiry (e : EngineId) (l : LevelId) (t : Fin 2) (s : State) : Host.Outcome State Fault Refusal :=
  onEngine s e.val (fun m => timerExpiry m e.val l.val t.val)

/-- WAIT_GRACE_EXPIRY (R318, R344): a scheduling point of the bank (R317). -/
def execWaitGraceExpiry (e : EngineId) (l : LevelId) (s : State) : Host.Outcome State Fault Refusal :=
  onEngine s e.val (fun m =>
    let b := bank m e.val l.val
    match b.st, b.graceAt with
    | .waiting, some t =>
      if m.now < t then m else
      let m := setBank m e.val l.val { b with graceAt := none }
      setEng m e.val { pointsFor m (benchOf e.val) e.val (eng m e.val) with parkedTill := (eng m e.val).parkedTill }
    | _, _ => m)

/-! ## The scheduler (R296, R318, R323 to R335) -/

/-- A displacement begins: at a scheduling point of an engine that works, or again for a bank that a failed engine without a spare still
holds (R309, R800). -/
def displaceNow (m : Mach) (e l : Nat) : Mach :=
  let b := bank m e l
  if 3 ≤ l then m
  else if engActive m e then (if displacePoint m e l ∧ settled m e l then displace m e l else m)
  else if engineStranded m e ∧ (b.st = .ready ∨ b.st = .waiting) then leaveBank m e l else m

/-- DISPLACEMENT (R201, R307, R318). -/
def execDisplacement (e : EngineId) (l : LevelId) (s : State) : Host.Outcome State Fault Refusal :=
  runUnits s (fun m => displaceNow m e.val l.val)

/-- SAVING_COMPLETE (R318). -/
def execSavingComplete (e : EngineId) (l : LevelId) (s : State) : Host.Outcome State Fault Refusal :=
  runUnits s (fun m => engineLeft (savingDone m e.val l.val) e.val)

/-- TASK_END (R296, R318). -/
def execTaskEnd (e : EngineId) (l : LevelId) (s : State) : Host.Outcome State Fault Refusal :=
  onEngine s e.val (fun m =>
    let b := bank m e.val l.val
    if l.val < 3 ∧ (b.st = .ready ∨ b.st = .waiting) ∧ bkEnd b ∧ settled m e.val l.val then releaseTask m e.val l.val else m)

/-- QUEUE_ENTRY_DISPATCH (R323, R324). -/
def execQueueEntryDispatch (b : BenchId) (s : State) : Host.Outcome State Fault Refusal := runUnits s (fun m => dispatchNext m b.val)

/-- STEAL_PROBE (R329, R333): an idle engine of a bench that may take work finds a victim, or parks until its reprobe. -/
def stealProbe (m : Mach) (e : Nat) : Mach :=
  let b := benchOf e
  let x := eng m e
  if !benchTakes m b || !idle m e || x.parkedTill.isSome then m else
  match findVictim m e with
  | some v => setEng m e { x with probe := some (v, stealLeast m e v) }
  | none => setEng m e { x with probe := none, parkedTill := some (m.now + 1000 * bits (bench m b).ctl.toNat 15 8) }

def execStealProbe (e : EngineId) (s : State) : Host.Outcome State Fault Refusal := onEngine s e.val (fun m => stealProbe m e.val)

/-- STEAL_COMMIT (R330 to R332, R335), by the minimum that the probe read (R342). -/
def stealCommit (m : Mach) (e : Nat) : Mach :=
  match (eng m e).probe with
  | none => m
  | some (v, least) =>
    let m := modEng m e (fun x => { x with probe := none })
    if benchTakes m (benchOf e) ∧ idle m e ∧ yieldsAt m e v least then stealNow m e v else m

def execStealCommit (e : EngineId) (s : State) : Host.Outcome State Fault Refusal := onEngine s e.val (fun m => stealCommit m e.val)

/-- IDLE_REPROBE (R333). -/
def execIdleReprobe (e : EngineId) (s : State) : Host.Outcome State Fault Refusal :=
  onEngine s e.val (fun m => match (eng m e.val).parkedTill with
    | some t => if m.now < t then m else modEng m e.val (fun x => { x with parkedTill := none })
    | none => m)

/-- WAIT_TABLE_TIMER (R325). -/
def execWaitTableTimer (b : BenchId) (s : State) : Host.Outcome State Fault Refusal :=
  runUnits s (fun m =>
    let (now, m) := takeStamp m (0x0500 + b.val)
    drainWaits m b.val now.toNat)

/-- QUEUE_PLACE_FREED (R780, R866). -/
def execQueuePlaceFreed (b : BenchId) (s : State) : Host.Outcome State Fault Refusal := runUnits s (fun m => fillQueue m b.val)

/-- STOCK_REFILL (R306): up to four setts for each of the leases that the bench serves. -/
def stockRefill (m : Mach) (b l : Nat) : Mach :=
  let x := bench m b
  if (tfind x.stock l).isNone then m else
  let s := stockOf x l
  let go := (lease m l).pool.take (4 - s.length)
  let m := modLease m l (fun y => { y with pool := y.pool.drop go.length })
  modBench m b (fun x => setStock x l (s ++ go))

def execStockRefill (b : BenchId) (l : LeaseId) (s : State) : Host.Outcome State Fault Refusal :=
  runUnits s (fun m => stockRefill m b.val l.val)

/-- LEASE_SETT_ADD (R305, R351): the sett's header is written free, and the sett joins the pool. -/
def settAdd (m : Mach) (l : Nat) (v : Word) : Option Mach :=
  let va := v.toNat
  if 2 ^ 48 ≤ va ∨ va % 256 ≠ 0 then none else
  match walk m l va with
  | .error _ => none
  | .ok t =>
    if !t.sett then none else
    let (link, m) := takeFree m
    let (stamp, m) := takeStamp m 0x0F00
    let m := wrPhys m 0x0F00 (t.pa + va % 2 ^ t.bits) (settBytes m link.toNat 0 l 0xFF 0 0 stamp 0x0F00 0 [])
    some (modLease m l (fun x => { x with pool := x.pool ++ [va], settIssued := (x.settIssued + 1) % 2 ^ 32 }))

def execLeaseSettAdd (a : Actor) (l : LeaseId) (v : Word) (s : State) : Host.Outcome State Fault Refusal :=
  runM s (ctlWriteRule a 0x0C l.val 0x0400 (fun m => settAdd m l.val v))

/-! ## Control stores (R353 to R376, R391) -/

/-- MICRO_TIMING_OVERRUN (R391): the record names the last TP word of the engine's sequencer; a channel processor's is its own
(log entry 34). -/
def microOverrun (m : Mach) (u : StoreUnit) (cycles : Nat) : Mach :=
  let runs : Bool := match u with
    | .engine e => (eng m e.val).lv.toList.any routineOf
    | .cp c => ustate m 0x08 c.val == .active
  if cycles < 65 ∨ !runs then m else
  let (w, m) := match u with
    | .engine e => let (q, m) := microPlace m e.val; (q.tp, m)
    | .cp _ => let (w, m) := takeFree m; (w.toNat % 0x3100, m)
  let k := storeKind u
  let m := modStore m (storeKey u) (fun x => { x with errs := lset x.errs 2 (sat 0xFFFF (x.errs.getD 2 0 + 1)) })
  raiseErr m 0x0019 (sourceOf k.1 k.2) (le 2 w ++ le 2 cycles)

def execMicroTimingOverrun (u : StoreUnit) (cycles : BitVec 16) (s : State) : Host.Outcome State Fault Refusal :=
  runUnits s (fun m => microOverrun m u cycles.toNat)

/-- The binding section that a load goes by (R371): in Loading, before the commit, that of the candidate (R57 step 7). -/
def bindings (m : Mach) : Tbl Bytes := if m.mode.st = .loading then imageRecords (m.load.candidate.getD []) else m.image

/-- The set that a unit loads (R371 to R374): the bundle's sequence number, the set, the entries to load; none for ROM only.
A unit that no record names is one whose full image omitted the kind (R102, R374), also where a partial image has bound others since. -/
def boundSet (m : Mach) (k : Nat × Nat) : Option (Nat × Bytes × Nat) :=
  let held := m.load.held.filterMap id
  let target := if k.1 = 0x02 then 1 else 2
  match tfind (bindings m) (ukey 0x0010 (if k.1 = 0x02 then benchOf k.2 else 64 + k.2)) with
  | some r =>
    if !bit (fld r 2 1) 0 ∨ fld r 0 1 = 0 then none else
    (held.find? (fun b => b.seq == fld r 0 1)).bind (fun b =>
      (b.sets.find? (fun s => fld s 0 1 == fld r 1 1 && fld s 1 1 == target)).map (fun s => (b.seq, s, fld r 4 3)))
  | none =>
    (pickBest (fun a b => decide (b.seq < a.seq)) held).bind (fun b =>
      (b.sets.find? (fun s => fld s 1 1 == target && bit (fld s 2 1) 0)).map (fun s => (b.seq, s, 2 ^ 24 - 1)))

/-- The match entries of a set that a mask loads, as (register, patch index, ROM address). -/
def setMatches (s : Bytes) (mask : Nat) : List (Nat × Nat × Nat) :=
  (List.range 24).filterMap (fun r =>
    let e := fld s (8 + 4 * r) 4
    if bit mask r && bit e 31 then some (r, bits e 21 14, bits e 13 0) else none)

/-- The state of a unit with microcode once it has started (R41, R191, R386): while the module loads, it stays Starting until the
commit. -/
def storeStarted (m : Mach) (k : Nat × Nat) : Mach :=
  if m.mode.st = .loading then m
  else if k.1 = 0x08 then setUState m 0x08 k.2 .offline
  else if bit (imgFld m 0x0001 (benchOf k.2) 0 4) (slotOf k.2) then modEng (setUState m 0x02 k.2 .spare) k.2 (fun x => { x with doubleFault := false })
  else if (eng m k.2).doubleFault ∨ benchDraining m (benchOf k.2) then
    modEng (setUState m 0x02 k.2 .active) k.2 (fun x => { x with doubleFault := false })
  else setUState m 0x02 k.2 .offline

/-- MICROCODE_LOAD (R375, R376): the load of a unit that passes through Starting; `readBack` names the
first word that does not compare. -/
def microLoad (m : Mach) (u : StoreUnit) (readBack : Option (Fin 256)) : Mach :=
  let k := storeKind u
  let key := storeKey u
  if ustate m k.1 k.2 ≠ .starting ∨ (store m key).loaded then m else
  let b := boundSet m k
  let ram := match b with | some (_, s, _) => bslice s 104 3584 | none => []
  let check := (List.range (ram.length / 14)).map (fun k => Config.ramCheck (fld ram (14 * k) 14))
  let m := modStore m key (fun x => { x with matches_ := [], ram := ram, check := check, tries := x.tries + 1 })
  match readBack with
  | some w =>
    if (store m key).tries < 2 then m
    else raiseErr (setUState m k.1 k.2 .failed) 0x0016 (sourceOf k.1 k.2) (le 2 w.val)
  | none =>
    let mt := match b with | some (_, s, mask) => setMatches s mask | none => []
    let seq := match b with | some (q, _, _) => q | none => 0
    let set := match b with | some (_, s, _) => fld s 0 1 | none => 0
    let m := modStore m key (fun x => { x with matches_ := mt, set := set, bundle := seq, loaded := true, tries := 0 })
    let m := setUnit m k.1 k.2 { unit m k.1 k.2 with patchLevel := seq }
    storeStarted m k

end Sys2Proof.Machine
end

