-- ==== Sys2Proof/Machine/EvtOps.lean ====
section
/-! DEFINITION. Events and time (R761 to R787): release of events into rings, spill region and log, the actions of vectors; the
time-stamp masters, their discipline by PTP and 1 PPS, the tick of the module's own time. -/

namespace Sys2Proof.Machine

/-! ## Event rings (R778, R782) -/

def evtRing (m : Mach) (l : Nat) : Nat := (tget (lease m l).regs 0x0180 0).toNat
def evtRingSize (m : Mach) (l : Nat) : Nat := 16 * 2 ^ bits (evtRing m l) 59 56
def evtRingBase (m : Mach) (l : Nat) : Nat := bits (evtRing m l) 47 6 * 64

/-- The source number of the active event block. -/
def evtSrc (m : Mach) : Nat := 0x0E00 + evtHub m

/-- The event's record written to the lease's ring, then TAIL; false where the ring is full or cannot be written (R782). -/
def evtPut (m : Mach) (l : Nat) (ev : Event) (released : Bool) : Bool × Mach :=
  if !bit (evtRing m l) 0 then (false, m) else
  let x := lease m l
  let base := evtRingBase m l
  match ringHead m (evtHub m) (evtSrc m) l base x.evtHead x.evtTail with
  | (none, m) => (false, m)
  | (some h, m) =>
    let m := modLease m l (fun x => { x with evtHead := h })
    if evtRingSize m l ≤ x.evtTail - h then (false, m) else
    let rec_ := evtBytes ev (b2n x.evtOverflow + 2 * b2n released)
    match ringPut m (evtHub m) (evtSrc m) l base (evtRingSize m l) 64 x.evtTail rec_ with
    | (.error _, m) => (false, m)
    | (.ok _, m) => (true, modLease m l (fun y => { y with evtTail := x.evtTail + 1, evtOverflow := false,
                                                           evtReturned := (y.evtReturned + 1) % 2 ^ 32 }))

/-- The action of an event's vector, after its record (R778 to R781); `num` is the record number. -/
def vectorAct (m : Mach) (l : Nat) (ev : Event) (num : Nat) (entry : Option Bytes) : Mach :=
  match entry with
  | none => countBadVector m
  | some b =>
    if badVector m l b then countBadVector m else
    match fld b 24 1 with
    | 1 =>
      if fld b 25 1 = 3 then
        let bn := if fld b 26 1 = 0xFF then fewestBench m 0 3 else some (fld b 26 1)
        let e := if ev.cls = 0x10 then some ev.engine else bn.bind (fun b => l3Engine m b)
        match e with
        | none => m
        | some e =>
          let w : WaitEntry := { lease := 0, level := 3, bench := e, pc := BitVec.ofNat 64 (fld b 0 8), dsBase := 0, dsLimit := 0, task := 0,
                                 arg := BitVec.ofNat 64 num, vector := ev.vector }
          l3Next (modEvt m (fun x => { x with l3Waiting := x.l3Waiting ++ [w] })) e
      else
        match tfind (lease m l).vecTasks ev.vector with
        | some t => modLease m l (fun x => { x with vecTasks := tset x.vecTasks ev.vector { t with rerun := some (t.rerun.getD num) } })
        | none => placeVector m l ev.vector num b
    | 2 => (wakeTask m l (fld b 28 4)).2
    | _ => m

/-- An event delivered to a lease: record, TAIL, action; false where it finds the ring full (R778, R782). The record's level is that of
the vector's entry, 0 where the entry cannot be read. -/
def evtDeliver (m : Mach) (l : Nat) (ev : Event) (released : Bool) : Bool × Mach :=
  let num := (lease m l).evtTail
  let (entry, m) := vectorEntry m l ev.vector
  let level := (entry.map (fun b => fld b 25 1)).getD 0
  match evtPut m l { ev with level := level } released with
  | (false, m) => (false, m)
  | (true, m) => (true, vectorAct m l ev num entry)

/-- An event kept in the lease's part of the spill region, or dropped (R782); where in the part its record stands is the model's
choice (log entry 36). -/
def evtKeep (m : Mach) (l : Nat) (ev : Event) (held : Bool) : Mach :=
  let x := lease m l
  let r := m.evt.spillReg.toNat
  if !bit r 0 ∨ 1024 ≤ x.spill.length + x.held.length then
    modLease m l (fun x => { x with evtLost := sat 0xFFFFFFFF (x.evtLost + 1), evtOverflow := true, evtReturned := (x.evtReturned + 1) % 2 ^ 32 })
  else
    let m := wrPhys m (evtSrc m) (bits r 51 24 * 2 ^ 24 + 65536 * l + 64 * (x.evtIssued % 1024)) (evtBytes ev 0)
    if held then modLease m l (fun x => { x with held := x.held ++ [ev] }) else modLease m l (fun x => { x with spill := x.spill ++ [ev] })

/-- The spilled records of a lease written in their order while the ring takes them; those of a class whose routing record is being
replaced wait (R783). -/
def spillDrain (fuel : Nat) (m : Mach) (l : Nat) : Mach :=
  match fuel with
  | 0 => m
  | f + 1 =>
    match (lease m l).spill with
    | [] => m
    | ev :: r =>
      if loadHolds m 0x000A ev.cls then m else
      match evtDeliver m l { ev with flags := ev.flags % 256 } (bit ev.flags 8) with
      | (false, m) => m
      | (true, m) => spillDrain f (modLease m l (fun x => { x with spill := r })) l

/-- RESUME: held events are released in their order, with RELEASED set (R743, R782). -/
def heldRelease (m : Mach) (l : Nat) : Mach :=
  let m := modLease m l (fun x => { x with spill := x.spill ++ x.held.map (fun e => { e with flags := e.flags ||| 256 }), held := [] })
  spillDrain ((lease m l).spill.length + 1) m l

/-- The events kept for a lease are discarded, when its reset ends (R743). -/
def heldDiscard (m : Mach) (l : Nat) : Mach :=
  modLease m l (fun x =>
    let n := x.held.length + x.spill.length
    { x with held := [], spill := [], dEvents := sat 0xFFFF (x.dEvents + n), evtReturned := (x.evtReturned + n) % 2 ^ 32 })

/-! ## The event log (R784) -/

/-- An event written to the event log; where it is full, the oldest record is overwritten and HEAD raised. -/
def evtLog (m : Mach) (ev : Event) : Mach :=
  let r := m.evt.logReg.toNat
  if !bit r 0 then m else
  let size := 16 * 2 ^ bits r 59 56
  let base := bits r 51 6 * 64
  let src := evtSrc m
  let tail := m.evt.logTail
  let (hb, m) := rdPhys m src base 8
  let head := match hb with | some b => (acceptHead (leVal b) m.evt.logHead tail).1 | none => m.evt.logHead
  let full := decide (size ≤ tail - head)
  let m := wrPhys m src (base + 64 + 64 * (tail % size)) (evtBytes ev 0)
  let head := if full then head + 1 else head
  let m := if full then wrPhys m src base (le 8 head) else m
  modEvt (wrPhys m src (base + 8) (le 8 (tail + 1))) (fun x => { x with logHead := head, logTail := tail + 1 })

/-! ## Release (R743, R773, R783) -/

/-- An event leaves the window: log, notification, and the lease's ring as its state allows. -/
def evtRelease (m : Mach) (ev : Event) : Mach :=
  let m := modEvt m (fun x => { x with released := lastN 256 (x.released ++ [ev]), releasedN := x.releasedN + 1,
                                       lastReleased := BitVec.ofNat 64 (max x.lastReleased.toNat ev.stamp.toNat) })
  let m := if routeFlag m ev.cls 0 then evtLog m ev else m
  let m := if routeFlag m ev.cls 1 && ev.cls != 0x13 then notify m 5 (evtBytes ev 0) else m
  let l := ev.lease
  let gone (m : Mach) (n : Nat) : Mach := modLease m l (fun x => { x with dEvents := sat 0xFFFF (x.dEvents + n), evtReturned := (x.evtReturned + 1) % 2 ^ 32 })
  if bit ev.flags 9 then m else
  match (lease m l).st with
  | .free => gone m 0
  | .stopped | .resetting | .removing => gone m 1
  | .quiescing | .quiesced => evtKeep m l ev true
  | .active =>
    if !(lease m l).spill.isEmpty || loadHolds m 0x000A ev.cls then evtKeep m l ev false else
    match evtDeliver m l ev false with
    | (true, m) => m
    | (false, m) => evtKeep m l ev false

/-- EVENT_RELEASE: the first event of the window, once the block's copy stands 1.5 µs past its stamp, or at once where it is late. -/
def releaseNext (m : Mach) : Mach :=
  match m.evt.window with
  | [] => m
  | ev :: r =>
    let (now, m) := takeStamp m (evtSrc m)
    if bit ev.flags 2 || decide (ev.stamp.toNat + 1500 ≤ now.toNat) then evtRelease (modEvt m (fun x => { x with window := r })) ev else m

/-- SPILL_RECHECK: 10 µs after the last look, the ring's header is read again. -/
def spillRecheck (m : Mach) (l : Nat) : Mach :=
  let x := lease m l
  if x.spill.isEmpty || x.st != .active || decide (m.now < x.rerecheck + 10000) then m else
  spillDrain (x.spill.length + 1) (modLease m l (fun x => { x with rerecheck := m.now })) l

/-! ## The hubs' masters and event blocks (R763, R773, R774) -/

/-- A hub's time-stamp master and event block are lost with their service domain or with the hub. -/
def timeLost (m : Mach) (h : Nat) : Bool := !hubIn m h || (master m h).failed

/-- EVT_BLOCK_TAKEOVER: the other block takes over and releases what no ring has received. -/
def evtTakeover (m : Mach) : Mach :=
  let b := m.evt.activeBlock
  if !timeLost m b || timeLost m (1 - b) then m else
  let m := modEvt m (fun x => { x with activeBlock := 1 - b })
  raiseErr m 0x0091 (0x0E00 + (1 - b)) (le 4 m.evt.window.length)

/-- TS_MASTER_TAKEOVER: the standby master becomes active. -/
def tsTakeover (m : Mach) : Mach :=
  let a := m.evt.activeMaster
  if !timeLost m a || timeLost m (1 - a) then m else
  let m := modEvt m (fun x => { x with activeMaster := 1 - a, takeoverUntil := m.now + 50000 })
  raiseErr m 0x0090 (0x0E00 + (1 - a)) (le 1 (1 - a))

/-! ## The counters (R761 to R765) -/

/-- One nanosecond of a slew at 1,000 ppm: the counter gains or loses one ns in every thousand until the offset is used up. -/
def slewStep (x : TsMaster) : Int × TsMaster :=
  if x.slew = 0 then (0, { x with slewAcc := 0 }) else
  if x.slewAcc + 1 < 1000 then (0, { x with slewAcc := x.slewAcc + 1 })
  else if 0 < x.slew then (1, { x with slew := x.slew - 1, slewAcc := 0 }) else (-1, { x with slew := x.slew + 1, slewAcc := 0 })

/-- One nanosecond of a rate correction in ppb. -/
def freqStep (x : TsMaster) : Int × TsMaster :=
  let a := x.freqAcc + x.freq
  if 1000000000 ≤ a then (1, { x with freqAcc := a - 1000000000 })
  else if a ≤ -1000000000 then (-1, { x with freqAcc := a + 1000000000 })
  else (0, { x with freqAcc := a })

/-- The module's time goes on by one ns (log entry 1): the active master counts with its corrections, never back, and the standby
master follows it, what is left of a slew included (R761, R764, R765). -/
def timeTick (m : Mach) : Mach :=
  let m := { m with now := m.now + 1 }
  let a := m.evt.activeMaster
  let x := master m a
  let (s, x) := slewStep x
  let (f, x) := freqStep x
  let d : Nat := (max 0 (1 + s + f)).toNat
  let m := setMaster m a x
  let counts (y : TsMaster) : TsMaster :=
    if y.running && !y.failed then { y with count := y.count + BitVec.ofNat 64 d, slew := x.slew, slewAcc := x.slewAcc } else y
  modEvt m (fun e => { e with masters := vmap counts e.masters })

/-- Before START is over: where a step or `TS_SET` may lower the counter (R764). -/
def startUp (m : Mach) : Bool := m.mode.st == .bare || m.mode.st == .training || m.mode.st == .loading

/-- TS_DISTRIBUTION_PULSE: a written value takes effect in both masters and every copy (R762, R765). What remains of a slew ended at the write of
`TS_SET`; an offset written since slews on from the new value. -/
def distribute (m : Mach) : Mach :=
  match (master m m.evt.activeMaster).setPending with
  | none => m
  | some v =>
    modEvt m (fun e => { e with
      masters := vmap (fun y => { y with count := v, setPending := none }) e.masters, lastStamp := [] })

/-- A value written to `TS_SET`, and an offset written to `TS_ADJ` (R765, R787). -/
def tsSetNow (m : Mach) (v : Word) : Mach := modEvt m (fun e => { e with masters := vmap (fun y => { y with setPending := some v, slew := 0, slewAcc := 0 }) e.masters })
def tsAdjNow (m : Mach) (v : Word) : Mach :=
  modEvt m (fun e => { e with masters := vmap (fun y => { y with slew := signed 32 v.toNat, slewAcc := 0 }) e.masters })

/-! ## Discipline (R766 to R770) -/

/-- Bytes of a master's time-discipline record. -/
def tsRec (m : Mach) (i off len : Nat) : Nat := imgFld m 0x0011 i off len

/-- A TIME event: 1 locked, 2 lock lost, 3 input absent (R770, R776). -/
def timeEvent (m : Mach) (i code : Nat) (offset : Int) : Mach :=
  raiseManager m 0x15 (0x0E00 + i) (le 1 i ++ le 1 code ++ le 6 0 ++ le 8 (toTwos 64 offset))

/-- The rate is corrected: the correction that a sample gives is open within ±1,000 ppm (R764, log entry 37). -/
def correctRate (m : Mach) (i : Nat) : Mach :=
  let (w, m) := takeFree m
  setMaster m i { master m i with freq := ((w.toNat % 2000001 : Nat) : Int) - 1000000 }

/-- A sample of a master's input (R770). -/
def sample (m : Mach) (i : Nat) (raw : Int) : Mach :=
  let offset := raw - signed 32 (tsRec m i 4 4)
  let mag : Nat := offset.natAbs
  let m := setMaster m i { master m i with offset := offset, lastSample := m.now }
  match (master m i).lock with
  | 1 =>
    if 1000000 < mag ∧ startUp m ∧ bit (tsRec m i 3 1) 0 then
      let v := (master m i).count - BitVec.ofInt 64 offset
      let m := if i = m.evt.activeMaster then
          modEvt m (fun e => { e with masters := vmap (fun y => { y with count := v }) e.masters, lastStamp := [] }) else m
      setMaster m i { master m i with good := 0 }
    else
      let m := correctRate m i
      let good := if mag < 100 then (master m i).good + 1 else 0
      if 16 ≤ good then timeEvent (setMaster m i { master m i with lock := 2, good := 0 }) i 1 offset
      else setMaster m i { master m i with good := good }
  | 2 =>
    if mag < 1000 then correctRate m i
    else timeEvent (setMaster m i { master m i with lock := 1, good := 0 }) i 2 offset
  | 3 => let m := correctRate m i
         setMaster m i { master m i with lock := 1, good := 0 }
  | _ => m

/-- DISCIPLINE_INPUT_ABSENT: four expected samples have not arrived. -/
def inputAbsent (m : Mach) (i : Nat) : Mach :=
  let x := master m i
  if (x.lock = 1 ∨ x.lock = 2) ∧ x.lastSample + 4 * x.interval ≤ m.now then timeEvent (setMaster m i { x with lock := 3, good := 0 }) i 3 x.offset
  else m

/-- A discipline record is committed (R770): Free-run, then Acquiring where it names an input. -/
def disciplineStart (m : Mach) (i : Nat) : Mach :=
  let inp := tsRec m i 0 1
  setMaster m i { master m i with input := inp, lock := if inp = 1 ∨ inp = 2 then 1 else 0, good := 0, lastSample := m.now, interval := 1000000000,
                                  parent := none, sync := none, delaySent := none,
                                  freq := if inp = 0 then 0 else (master m i).freq }

/-- The master that a PTP message reaches: its record names the message's link and domain (R766, R768). -/
def ptpTakes (m : Mach) (p : PtpMsg) : Option Nat :=
  (List.range 2).find? (fun i => tsRec m i 0 1 == 1 && tsRec m i 1 1 == p.link.val && tsRec m i 2 1 == p.domain.toNat && !timeLost m i)

/-- PTP time in ns: 48 bits of seconds and 32 of nanoseconds; a correction field in units of 2^-16 ns (IEEE 1588-2019). -/
def ptpNs (t : BitVec 80) : Int := ((t.toNat / 2 ^ 32 * 1000000000 + t.toNat % 2 ^ 32 : Nat) : Int)
def ptpCorr (c : Word) : Int := Int.fdiv (signed 64 c.toNat) 65536

/-- The interval that logMessageInterval names, in ns. -/
def ptpInterval (b : Byte) : Nat :=
  let k := signed 8 b.toNat
  if 0 ≤ k then 1000000000 * 2 ^ k.toNat else 1000000000 / 2 ^ (-k).toNat

/-- Dataset a is better than b (IEEE 1588-2019 dataset comparison): the grandmaster's qualities, then steps removed, then the port. -/
def datasetKey (d : PtpData) (port : BitVec 80) : List Nat :=
  [d.priority1.toNat, d.clockClass.toNat, d.clockAccuracy.toNat, d.variance.toNat, d.priority2.toNat, d.identity.toNat, d.stepsRemoved.toNat,
    port.toNat]
def listLt (a b : List Nat) : Bool :=
  match a, b with
  | x :: r, y :: s => decide (x < y) || (x == y && listLt r s)
  | _, _ => false

/-- PTP_ANNOUNCE: the foreign master becomes the parent where it is better, or is the parent already (R768). -/
def ptpAnnounce (m : Mach) (p : PtpMsg) (d : PtpData) : Mach :=
  match ptpTakes m p with
  | none => m
  | some i =>
    let x := master m i
    let better := match x.parent with
      | none => true
      | some (d', q) => q == p.srcPort || listLt (datasetKey d p.srcPort) (datasetKey d' q)
    if better && decide (d.stepsRemoved.toNat < 255) then setMaster m i { x with parent := some (d, p.srcPort) } else m

/-- Delay_Req is sent after a Sync whose origin time is known; the master-to-slave time difference waits for its answer. -/
def ptpTimed (m : Mach) (i : Nat) (s : PtpMsg) (t1 corr : Int) : Mach :=
  let (t3, m) := takeStamp m (0x0800 + s.link.val)
  let x := master m i
  let m := setMaster m i { x with msDelay := (s.rxStamp.toNat : Int) - t1 - corr, delaySeq := (x.delaySeq + 1) % 65536, delaySent := some t3.toNat,
                                  sync := none, interval := ptpInterval s.logInterval }
  emit m (.ptpDelayReq s.link.val x.delaySeq t3)

/-- PTP_SYNC and PTP_FOLLOW_UP of the parent. -/
def ptpSync (m : Mach) (p : PtpMsg) : Mach :=
  match ptpTakes m p with
  | none => m
  | some i =>
    let x := master m i
    if (x.parent.map (fun q => q.2)) ≠ some p.srcPort then m
    else if p.twoStep then setMaster m i { x with sync := some p }
    else ptpTimed m i p (ptpNs p.origin) (ptpCorr p.correction)

def ptpFollowUp (m : Mach) (p : PtpMsg) : Mach :=
  match ptpTakes m p with
  | none => m
  | some i =>
    match (master m i).sync with
    | none => m
    | some s =>
      if s.srcPort = p.srcPort ∧ s.seq = p.seq then ptpTimed m i s (ptpNs p.origin) (ptpCorr s.correction + ptpCorr p.correction) else m

/-- PTP_DELAY_RESP: the answer to the last Delay_Req gives the offset: half the difference of the two delays. -/
def ptpDelayResp (m : Mach) (p : PtpMsg) : Mach :=
  match ptpTakes m p with
  | none => m
  | some i =>
    let x := master m i
    match x.delaySent with
    | none => m
    | some t3 =>
      if (x.parent.map (fun q => q.2)) ≠ some p.srcPort ∨ (p.seq.toNat + 1) % 65536 ≠ x.delaySeq then m else
      let back := ptpNs p.origin - ptpCorr p.correction - (t3 : Int)
      sample (setMaster m i { x with delaySent := none }) i (Int.fdiv (x.msDelay - back) 2)

/-- PPS_EDGE: a rising edge of the hub's TS_PPS is the start of a whole second (R769). -/
def ppsEdge (m : Mach) (h : Nat) (stamp : Word) : Mach :=
  if tsRec m h 0 1 ≠ 2 ∨ !imgHas m 0x0011 ∨ timeLost m h then m else
  let f := stamp.toNat % 1000000000
  sample m h (if f < 500000000 then (f : Int) else (f : Int) - 1000000000)

end Sys2Proof.Machine
end

