-- ==== Sys2Proof/Machine/LeaseOps.lean ====
section
/-! DEFINITION. Leases (R717 to R760, R869): commands, pending classes, reset and removal, task placement, invalidation of
translations, the comparison of ledgers (R824, R825). -/

namespace Sys2Proof.Machine

/-! ## Records and registers of a lease -/

/-- `LEASE_SHARES` as the lease's record gives it (R753, R759). -/
def recShares (m : Mach) (l : Nat) : Word :=
  let f (off len : Nat) : Nat := imgFld m 0x0008 l off len
  pack [(0, 8, f 1 1), (8, 8, f 3 1), (16, 8, f 4 1), (24, 8, f 5 1), (32, 3, f 2 1), (40, 1, f 0 1 / 8), (48, 16, f 16 2)]

/-- A flag of the lease's record: 0 ALLOWED, 1 CREATE_AT_COMMIT, 2 DIRTY_MODE, 3 SLICE_EN (R753). -/
def recFlag (m : Mach) (l i : Nat) : Bool := bit (imgFld m 0x0008 l 0 1) i

/-- The lease block at its reset values but for `LEASE_CTX_RANGE` and the tag area (R718), with its ledgers at 0 (R825). -/
def leaseCleared (m : Mach) (l : Nat) : Mach :=
  let keep := (lease m l).regs.filter (fun (p : Nat × Word) => p.1 == 0x2E00)
  let m := setLease m l { Lease.reset with regs := keep }
  let m := modJobs m (fun j => { j with ledgers := tdel (tdel j.ledgers l) (256 + l), rings := j.rings.filter (fun (p : Nat × RingSt) => p.1 / 16 % 256 != l) })
  let m := modChn m (fun c => { c with rings := c.rings.filter (fun (p : Nat × RingSt) => p.1 / 64 != l) })
  let m := { m with fqs := m.fqs.filter (fun (p : Nat × FqSt) => p.1 / 32 != l) }
  setUnit m 0x0C l { unit m 0x0C l with errCount := 0, errCause := 0 }

/-- A lease comes to exist with its record's shares (R718, R719); events taken for it while it was Free stay discarded (R743). -/
def leaseLoaded (m : Mach) (l : Nat) (st : LeaseState) : Mach :=
  let m := leaseCleared m l
  let m := modEvt m (fun x => { x with window := x.window.map (fun e => if e.lease = l then { e with flags := e.flags ||| 512 } else e) })
  modLease m l (fun x => { x with st := st, shares := recShares m l, affinity := BitVec.ofNat 64 (imgFld m 0x0008 l 8 8), dirtyMode := recFlag m l 2 })

/-! ## Pending classes (R744) -/

/-- The banks at levels 0 to 2 that hold a task of the lease. -/
def leaseBanks (m : Mach) (l : Nat) : List (Nat × Nat) :=
  m.engs.flatMap (fun (p : Nat × Eng) => ((List.range 3).filter (fun k => (bank m p.1 k).st != .empty && bkLease (bank m p.1 k) k == l)).map (fun k => (p.1, k)))

/-- The classes with work outstanding, as `LEASE_STATE.PENDING` shows them but for CTX. -/
def workLeft (m : Mach) (l : Nat) : Bool × Bool × Bool × Bool :=
  (!(leaseBanks m l).isEmpty, !jobsSettled m 0 l, !jobsSettled m 1 l, !chanSettled m l)

/-- The flags cleared whose condition holds. -/
def pendRefresh (m : Mach) (l : Nat) : Mach :=
  let w := workLeft m l
  modLease m l (fun x => { x with pendBanks := x.pendBanks && w.1, pendCrush := x.pendCrush && w.2.1, pendCipher := x.pendCipher && w.2.2.1,
                                  pendChan := x.pendChan && w.2.2.2 })

def pendStart (m : Mach) (l : Nat) : Mach :=
  let w := workLeft m l
  modLease m l (fun x => { x with pendBanks := w.1, pendCrush := w.2.1, pendCipher := w.2.2.1, pendChan := w.2.2.2 })

/-! ## Quiesce, resume, reset (R744 to R752) -/

/-- The frame queues of a lease that are enabled, as (queue, link). -/
def leaseQueues (m : Mach) (l lo hi : Nat) : List (Nat × Nat) :=
  (((List.range 32).filter (fun q => decide (lo ≤ q) && decide (q < hi) && bit (fqCtl m l q) 63)).map (fun q => (q, bits (fqCtl m l q) 58 56)))

/-- QUIESCE: descriptors posted so far are sent, later ones wait; transactions are held (R572, R749). -/
def quiesceBegin (m : Mach) (l : Nat) : Mach :=
  let m := (leaseQueues m l 16 32).foldl (fun m q =>
    let m := fqPosted m (0x0800 + q.2) l q.1
    setFq m l q.1 { fq m l q.1 with stopAt := some (fq m l q.1).posted }) m
  let m := chanQuiesce m l
  pendStart (modLease m l (fun x => { x with st := .quiescing })) l

/-- RESUME (R718). -/
def resumeNow (m : Mach) (l : Nat) : Mach :=
  let m := modLease m l (fun x => { x with st := .active, pendBanks := false, pendCrush := false, pendCipher := false, pendChan := false })
  let m := (leaseQueues m l 16 32).foldl (fun m q => setFq m l q.1 { fq m l q.1 with stopAt := none }) m
  entriesChanged (heldRelease (chanResume m l) l)

/-- FORCED_RESET, with the reason that its sump records carry (R747 to R749): banks at a bundle boundary are emptied at
once, one with a routine at its next trap-permitted microword (R748). -/
def resetBegin (m : Mach) (l reason : Nat) (st : LeaseState) : Mach :=
  let m := modLease m l (fun x => { x with st := st })
  let m := (leaseBanks m l).foldl (fun m p => if routineOf (bank m p.1 p.2) then m else emptyBank m p.1 p.2) m
  let m := (leaseQueues m l 16 32).foldl (fun m q => txFlush (fqSize m l q.1 + 1) (fqPosted m (0x0800 + q.2) l q.1) q.2 l q.1) m
  let m := (leaseQueues m l 0 32).foldl (fun m q =>
    modLease m l (fun x => { x with regs := tset x.regs (0x2000 + 32 * q.1) (BitVec.ofNat 64 (fqCtl m l q.1 % 2 ^ 63)) })) m
  let m := chanReset (jobsReset m l reason) l reason
  pendStart ((List.range 64).foldl (fun m e => endpointOff m l e) m) l

/-- The end of a reset (R718, R749): entries and held events are discarded and counted, pool and stocks emptied, setts withdrawn (R824). -/
def resetEnds (m : Mach) (l : Nat) : Mach :=
  let mine (q : QTask) : Bool := q.lease == l
  let n := m.benches.foldl (fun (a : Nat) (p : Nat × Bench) => a + (p.2.queue.filter mine).length + (p.2.waiting.filter mine).length) 0 +
    (m.evt.waiting.filter (fun w => w.lease == l)).length
  let m := { m with benches := m.benches.map (fun (p : Nat × Bench) => (p.1, { p.2 with
    queue := p.2.queue.filter (fun q => !mine q), waiting := p.2.waiting.filter (fun q => !mine q),
    stock := p.2.stock.filter (fun s => s.1 != l) })) }
  let m := modEvt m (fun x => { x with waiting := x.waiting.filter (fun w => w.lease != l) })
  let m := heldDiscard m l
  modLease m l (fun x => { x with dEntries := sat 0xFFFF (x.dEntries + n), pool := [], vecTasks := [], settInUse := 0, settReturned := x.settIssued })

/-- The LOCK bits of ways assigned to a lease are cleared (R411, R749). -/
def unlockLease (m : Mach) (l : Nat) : Mach :=
  { m with l2 := m.l2.map (fun (p : Nat × L2St) => (p.1,
      let keep := (List.range 8).foldl (fun (a : Nat) w => if p.2.lockable.getLsbD w && bits p.2.lockLease.toNat (8 * w + 7) (8 * w) == l then a else a ||| 2 ^ w) 0
      { p.2 with lock := p.2.lock &&& BitVec.ofNat 8 keep })) }

/-- Removal writes every context of the lease's range free, in the store and in the memory table (R751). -/
def ctxRangeFree (m : Mach) (l : Nat) : Mach :=
  let r := (tget (lease m l).regs 0x2E00 0).toNat
  let lo := bits r 23 0
  let hi := min 16777216 (lo + bits r 48 24)
  let was := (m.jobs.ctx.filter (fun (p : Nat × CtxEnt) => decide (lo ≤ p.1) && decide (p.1 < hi))).length
  let m := modJobs m (fun j => { j with ctx := j.ctx.filter (fun (p : Nat × CtxEnt) => decide (p.1 < lo) || decide (hi ≤ p.1)), ctxOut := (j.ctxOut + was) % 2 ^ 32 })
  if !bit m.jobs.ctxTable.toNat 0 then m else
  (List.range (hi - lo)).foldl (fun m i => maintNow m (ctxLine m (lo + i)) 3 true) m

/-! ## Ledgers (R824, R825) -/

/-- A ledger compared with its holding; a difference is recorded and marked. -/
def ledgerCheck (m : Mach) (addr src issued returned holding : Nat) : Mach :=
  let d := (issued + 2 ^ 32 - returned % 2 ^ 32) % 2 ^ 32
  if d = holding % 2 ^ 32 then m
  else raiseErr { m with errs := { m.errs with ledgerBad := true } } 0x0005 src (le 8 addr ++ le 4 d ++ le 4 holding)

/-- Events in the window, spilled and held for a lease. -/
def evtHolding (m : Mach) (l : Nat) : Nat :=
  (m.evt.window.filter (fun e => e.lease == l && !bit e.flags 9)).length + (lease m l).spill.length + (lease m l).held.length
def stockTotal (m : Mach) (l : Nat) : Nat := m.benches.foldl (fun (a : Nat) (p : Nat × Bench) => a + (stockOf p.2 l).length) 0
def settHolding (m : Mach) (l : Nat) : Nat := (lease m l).pool.length + stockTotal m l + (lease m l).settInUse

/-- The ledgers of a lease. -/
def leaseLedgers (m : Mach) (l : Nat) : Mach :=
  let x := lease m l
  let c := tget m.jobs.ledgers l (0, 0)
  let k := tget m.jobs.ledgers (256 + l) (0, 0)
  let held (kind : Nat) : Nat := (leaseJobs m kind l).length
  let m := ledgerCheck m (regAddr 0x0C l 0x0198) (0x1000 + l) x.evtIssued x.evtReturned (evtHolding m l)
  let m := ledgerCheck m (regAddr 0x0C l 0x0418) (0x1000 + l) x.settIssued x.settReturned (settHolding m l)
  let m := ledgerCheck m (regAddr 0x0C l 0x0428) (0x1000 + l) c.1 c.2 (held 0)
  ledgerCheck m (regAddr 0x0C l 0x0430) (0x1000 + l) k.1 k.2 (held 1)

/-! ## Commands (R718, R720, R757, R869) -/

def lstCode : LeaseState → Nat
  | .free => 0 | .stopped => 1 | .active => 2 | .quiescing => 3 | .quiesced => 4 | .resetting => 5 | .removing => 6

/-- A lease-state event to the manager (R718, R776). -/
def leaseEvent (m : Mach) (l prior : Nat) : Mach :=
  raiseManager m 0x11 0x0F00 (le 1 l ++ le 1 (lstCode (lease m l).st) ++ le 1 prior ++ le 1 (lease m l).cmdResult)

/-- The first test that a command fails, in the order of R869. -/
def cmdRefused (m : Mach) (l key code : Nat) : Option Nat :=
  let st := (lease m l).st
  let fits : Bool := match code with
    | 1 => st == .free
    | 2 => st == .stopped
    | 3 => st == .active
    | 4 => st == .quiescing || st == .quiesced
    | 5 => st == .quiesced
    | 6 => st == .active || st == .quiescing || st == .quiesced
    | _ => st == .quiesced || st == .stopped
  if code = 0 ∨ 7 < code then some 10
  else if !unitsRun m then some 2
  else if l = 0 ∧ 3 ≤ code then some 5
  else if 5 ≤ code ∧ key ≠ 0xA5C3 then some 4
  else if !fits then some 1
  else if code = 1 ∧ !recFlag m l 0 then some 3
  else if code = 1 ∧ loadHolds m 0x0008 l then some 11
  else if code = 2 ∧ !(lease m l).ptRoot.getLsbD 0 then some 6
  else none

/-- The effect of a command that is accepted. -/
def cmdTaken (m : Mach) (l code : Nat) : Mach :=
  match code with
  | 1 => leaseLoaded m l .stopped
  | 2 => entriesChanged (modLease m l (fun x => { x with st := .active }))
  | 3 => quiesceBegin m l
  | 4 => resumeNow m l
  | 5 | 6 => resetBegin m l 1 .resetting
  | _ =>
    let m := if (lease m l).st = .quiesced then resetBegin m l 2 .removing else modLease m l (fun x => { x with st := .removing })
    modLease m l (fun x => { x with pendCtx := true })

/-- A write of `LEASE_CMD`. -/
def leaseCmd (m : Mach) (l key code : Nat) : Mach :=
  match cmdRefused m l key code with
  | some r => modLease m l (fun x => { x with lastCmd := code, cmdResult := r })
  | none => modLease (cmdTaken m l code) l (fun x => { x with lastCmd := code, cmdResult := 0 })

/-- LEASE_PENDING_CLEARED: the last pending class clears (R718, R721); in Hold nothing of this goes on (R752). -/
def pendCleared (m : Mach) (l : Nat) : Mach :=
  let m := (leaseBanks m l).foldl (fun m p => if mustEmpty m p.1 p.2 && !routineOf (bank m p.1 p.2) then emptyBank m p.1 p.2 else m) m
  let m := pendRefresh m l
  let x := lease m l
  if x.pendBanks || x.pendCrush || x.pendCipher || x.pendChan then m else
  match x.st with
  | .quiescing => leaseLedgers (leaseEvent (modLease m l (fun x => { x with st := .quiesced })) l 3) l
  | .resetting => leaseLedgers (leaseEvent (modLease (resetEnds m l) l (fun x => { x with st := .stopped })) l 5) l
  | .removing =>
    let m := resetEnds (unlockLease (ctxRangeFree m l) l) l
    leaseEvent (leaseCleared m l) l 6
  | _ => m

/-! ## `LEASE_SPAWN` (R760, R869) -/

/-- The bench that a write names, where there is one in service (log entry 38). -/
def spawnBench (m : Mach) (l b level : Nat) : Option Nat :=
  match (if b = 0xFF then fewestBench m l level else if b < 64 then some b else none) with
  | none => none
  | some n => if benchIn m n then some n else none

/-- The result of a write of `LEASE_SPAWN`: its code, or the task's entry with its bench. -/
def spawnTry (m : Mach) (l v : Nat) : Except Nat (Nat × QTask) × Mach :=
  if !unitsRun m then (.error 2, m)
  else if (lease m l).st ≠ .stopped ∧ (lease m l).st ≠ .active then (.error 1, m)
  else match spawnBench m l (bits v 55 48) (bits v 56 56) with
    | none => (.error 9, m)
    | some b =>
      match rdLease m (evtHub m) 0x0F00 l (bits v 47 6 * 64) 64 with
      | (.error _, m) => (.error 7, m)
      | (.ok d, m) =>
        if !descOk d then (.error 7, m)
        else if 512 ≤ (bench m b).queue.length then (.error 8, m)
        else (.ok (b, descTask l (bits v 56 56) d), m)

def leaseSpawn (m : Mach) (l : Nat) (v : Word) : Mach :=
  match spawnTry m l v.toNat with
  | (.error c, m) => modLease m l (fun x => { x with lastCmd := 0x10, cmdResult := c })
  | (.ok (b, q), m) => modLease (enqueue m b q) l (fun x => { x with lastCmd := 0x10, cmdResult := 0 })

/-! ## `LEASE_TLB_INVAL` (R730, R760) -/

def tlbInval (m : Mach) (l : Nat) (v : Word) : Mach :=
  if (lease m l).tlbBusy then modLease m l (fun x => { x with tlbOverrun := true })
  else modLease m l (fun x => { x with tlbBusy := true, tlbTarget := v })

/-- The translations that an invalidation names leave every buffer, and BUSY clears. -/
def tlbInvalDone (m : Mach) (l : Nat) : Mach :=
  if !(lease m l).tlbBusy then m else
  let v := (lease m l).tlbTarget.toNat
  let va := bits v 47 21 * 2 ^ 21
  let keep (e : TlbEntry) : Bool := e.lease != l || !(bit v 63 || va / 2 ^ e.bits * 2 ^ e.bits == e.va || e.va / 2 ^ 21 * 2 ^ 21 == va)
  let m := { m with hubTlb := m.hubTlb.map (fun t => t.filter keep),
                    engs := m.engs.map (fun (p : Nat × Eng) => (p.1, { p.2 with tlb := p.2.tlb.filter keep })) }
  modLease m l (fun x => { x with tlbBusy := false })

end Sys2Proof.Machine
end

