-- ==== Sys2Proof/Machine/RegRead.lean ====
section
/-! DEFINITION. What a read of each register returns, and what it clears (R10, R12, R42 to R44 and the register tables of every
chapter). A register that is not implemented answers none. -/

namespace Sys2Proof.Machine

/-- A read: none where no register lies at the offset, else the value and the machine after it. -/
abbrev RegAns := Option (Word × Mach)

def roW (m : Mach) (w : Word) : RegAns := some (w, m)
def roN (m : Mach) (l : List (Nat × Nat × Nat)) : RegAns := some (pack l, m)

/-- The register index of an array of registers with a stride, where the offset lies on one. -/
def regIdx (off base stride n : Nat) : Option Nat :=
  if base ≤ off ∧ (off - base) % stride = 0 ∧ (off - base) / stride < n then some ((off - base) / stride) else none

/-! ## Every unit (R42 to R44, R830) -/

def ustCode : UState → Nat
  | .reset => 0 | .starting => 1 | .active => 2 | .draining => 3 | .offline => 4 | .failed => 5 | .spare => 6

/-- The state that a unit's status shows: the engines of a bench that is emptied read Draining with it (R105). -/
def shownState (m : Mach) (k i : Nat) : UState :=
  let st := ustate m k i
  if k = 0x02 ∧ benchDraining m (benchOf i) ∧ (st = .active ∨ st = .spare) then .draining else st

def readCommon (m : Mach) (k i off : Nat) : RegAns :=
  let u := unit m k i
  match off with
  | 0x00 => roN m [(48, 16, sourceOf k i), (40, 8, k), (16, 12, i), (8, 8, 1), (0, 8, 1)]
  | 0x08 => roN m [(8, 8, u.patchLevel), (3, 1, b2n (unitHasRole m k i)), (0, 3, ustCode (shownState m k i))]
  | 0x10 => roW m 0
  | 0x20 => roW m (u.tags.getD 0 0)
  | 0x28 => roW m (u.tags.getD 1 0)
  | 0x30 => roW m (u.tags.getD 2 0)
  | 0x38 => roW m (u.tags.getD 3 0)
  | 0xF00 => some (pack [(32, 16, u.errCause), (0, 32, u.errCount)], setUnit m k i { u with errCount := 0, errCause := 0 })
  | _ => none

/-! ## The module block -/

def lstateCode : LState → Nat
  | .idle => 0 | .staging => 1 | .verifying => 2 | .verified => 3 | .checking => 4 | .preparing => 5 | .applying => 6

/-- `IMAGE_ACTIVE` and `IMAGE_CANDIDATE` of an image (R135). -/
def imageWord (b : Bytes) : Word := pack [(32, 32, imgVersion b), (24, 8, fld b 4 1), (16, 8, fld b 5 1), (8, 8, imgSlot b), (0, 1, 1)]

/-- The committed image names a bundle (R370, R394): a binding record does. -/
def bundleBound (m : Mach) (seq : Nat) : Bool :=
  (List.range 80).any (fun i => match imgRec m 0x0010 i with | some r => bit (fld r 2 1) 0 && fld r 0 1 == seq && seq != 0 | none => false)

/-- `PATCH_HELDn` (R394). -/
def heldWord (m : Mach) (n : Nat) : Word :=
  match m.load.held.getD n none with
  | none => 0
  | some b => pack [(25, 1, b2n (bundleBound m b.seq)), (24, 1, 1), (16, 1, b.key), (8, 8, b.sets.length), (0, 8, b.seq)]

/-- A maintenance status register; a read clears OVERRUN and BAD (R439). -/
def maintWord (x : MaintSt) : Word :=
  pack [(32, 32, x.skipped), (16, 16, x.written), (2, 1, b2n x.bad), (1, 1, b2n x.overrun), (0, 1, b2n x.busy)]
def maintRead (x : MaintSt) : MaintSt := { x with overrun := false, bad := false }

/-- `CHN_STATUS` (R583). -/
def chnStatus (m : Mach) : Word :=
  pack [(50, 1, b2n m.chn.sumpLost), (48, 2, m.chn.journal),
    (32, 16, (m.chn.txns.filter (fun (p : Nat × Txn) => p.2.sumpWaiting)).length),
    (16, 16, ((openTxns m).filter (fun p => p.2.st == .held)).length), (0, 16, (openTxns m).length)]

/-- `FLT_STATUS` (R828). -/
def fltStatus (m : Mach) : Word :=
  pack [(32, 1, b2n m.errs.ledgerBad), (24, 4, m.errs.tilesLost.foldl (fun a t => a ||| 2 ^ t) 0),
    (16, 8, (m.mode.recoveries.filter (fun (p : FaultEv × Bool) => !p.2)).length),
    (0, 7, ((List.range 1088).filter (fun e => ustate m 0x02 e == .spare)).length)]

/-- `PWR_SUPPLY` (R860): power and supplies are measured, and their values are open. -/
def supplyWord (m : Mach) : Word × Mach :=
  let (v, m) := takeFree m
  (pack [(48, 16, v.toNat), (32, 16, v.toNat / 2 ^ 16), (16, 16, v.toNat / 2 ^ 32), (15, 1, b2n m.pins.main), (14, 1, b2n m.pins.ao),
    (13, 1, b2n m.pins.thermtrip)], m)

/-- `CHN_PATH_STATUS` (R585). -/
def pathWord (m : Mach) (p : Nat) : Word :=
  let x := path m p
  let st := match x.st with | .offline => 0 | .establishing => 1 | .operational => 2 | .failed => 3 | .draining => 4
  pack [(32, 8, x.reason), (16, 16, (pathTxns m p).length), (12, 4, x.helar.version / 16), (8, 4, x.helar.version % 16), (0, 3, st)]

def readModule (m : Mach) (off : Nat) : RegAns :=
  match off with
  | 0x040 => roW m (modeWord m)
  | 0x100 => roN m [(40, 8, m.load.done), (16, 16, m.load.rejectN), (8, 8, m.load.rejectCause), (0, 4, lstateCode m.load.st)]
  | 0x108 => roW m m.load.active
  | 0x110 => roW m (match m.load.candidate with | some b => imageWord b | none => 0)
  | 0x118 => roN m [(24, 8, m.load.target), (0, 23, m.load.stage.length)]
  | 0x300 => roW m m.load.patchSt
  | 0x308 => roW m (heldWord m 0)
  | 0x310 => roW m (heldWord m 1)
  | 0x318 => roW m m.load.progress
  | 0x400 => roN m [(8, 44, m.crangeBase)]
  | 0x408 => roN m [(0, 40, m.crangeLen)]
  | 0x410 => roW m 0
  | 0x418 => some (maintWord m.crange, { m with crange := maintRead m.crange })
  | 0x500 => roN m [(0, 52, 256 * memLines m)]
  | 0x600 => roW m m.chn.jrn
  | 0x608 => roW m 0
  | 0x610 => roN m [(0, 16, m.chn.epoch)]
  | 0x618 => roW m (BitVec.ofNat 64 (m.chn.epoch * 2 ^ 48 + m.chn.serial))
  | 0x620 => roW m (chnStatus m)
  | 0x628 => roW m m.chn.sump
  | 0x630 => roW m m.chn.queue
  | 0x638 => some (pack [(48, 16, m.chn.adoptions), (32, 16, m.chn.nvmeResets), (16, 16, m.chn.stray), (0, 16, m.chn.redriveN)],
      modChn m (fun c => { c with adoptions := 0, nvmeResets := 0, stray := 0, redriveN := 0 }))
  | 0x640 => roN m [(32, 32, m.chn.ledgerIn), (0, 32, m.chn.ledgerOut)]
  | 0x700 => roW m m.evt.logReg
  | 0x708 => roW m m.evt.spillReg
  | 0x800 => roW m (fltStatus m)
  | 0x808 => roN m [(0, 16, m.errs.policy)]
  | 0x810 => roN m [(0, 64, m.errs.index)]
  | 0x818 => roN m [(0, 64, m.errs.select)]
  | 0x900 => some (supplyWord m)
  | 0x908 => some (pack [(0, 32, m.pins.throttles)], { m with pins := { m.pins with throttles := 0 } })
  | 0x910 => roN m [(16, 12, m.pins.gpioOut), (0, 12, m.pins.gpioIn)]
  | _ =>
    match regIdx off 0x140 8 8, regIdx off 0x200 8 19, regIdx off 0x880 8 16, regIdx off 0x1000 16 64, regIdx off 0x1008 16 64 with
    | some n, _, _, _, _ => roN m [(0, 64, fld m.load.reject (8 * n) 8)]
    | _, some k, _, _, _ => if k = 0 then none else roN m [(0, 32, tget m.load.sectVer k 0)]
    | _, _, some n, _, _ => roN m [(0, 64, fld m.errs.loaded (8 * n) 8)]
    | _, _, _, some p, _ => roW m (pathWord m p)
    | _, _, _, _, some _ => roW m 0
    | none, none, none, none, none =>
      match regIdx off 0x2000 8 130, regIdx off 0x3000 8 131 with
      | some n, _ =>
        let x := tget m.subs (n / 10) SubLink.reset
        roN m [(32, 32, tget x.issued (n % 10) 0), (0, 32, tget x.returned (n % 10) 0)]
      | _, some d => some (clkWord m d)
      | none, none => none

/-! ## Benches, engines, home nodes -/

def cacheCode : CacheSt → Nat
  | .enabled => 0 | .disabling => 1 | .disabled => 2

/-- Queued entries of a level (R345). -/
def queuedAt (x : Bench) (k : Nat) : Nat := (x.queue.filter (fun q => q.level == k)).length

def readBench (m : Mach) (b off : Nat) : RegAns :=
  let x := bench m b
  let c := l2 m b
  match off with
  | 0x100 => roW m x.ctl
  | 0x108 => roN m [(32, 9, x.waiting.length), (20, 10, queuedAt x 2), (10, 10, queuedAt x 1), (0, 10, queuedAt x 0)]
  | 0x110 => some (pack [(32, 32, x.taken), (0, 32, x.stolen)], modBench m b (fun x => { x with taken := 0, stolen := 0 }))
  | 0x300 => roN m [(32, 16, (c.lines.filter (fun (p : Nat × L2Line) => dirtySt p.2.st)).length), (24, 8, c.lockable.toNat), (16, 8, c.lock.toNat),
      (8, 2, cacheCode c.ctl), (1, 1, b2n c.pfDisable), (0, 1, b2n c.disableReq)]
  | 0x308 => roW m 0
  | 0x310 => some (maintWord c.op, modL2 m b (fun x => { x with op := maintRead x.op }))
  | 0x318 => roW m c.lockLease
  | 0x320 => some (pack [(32, 16, c.errUnc), (16, 16, c.errTag), (0, 16, c.errData)], modL2 m b (fun x => { x with errUnc := 0, errTag := 0, errData := 0 }))
  | 0x328 => roN m [(0, 16, c.age)]
  | 0x400 => roN m [(8, 7, (c.lines.filter (fun (p : Nat × L2Line) => inTenure m p.2)).length), (0, 7, missTrackers m b)]
  | 0x408 => some (pack [(32, 16, c.stale), (16, 16, c.deferredN), (0, 16, c.snoops)], modL2 m b (fun x => { x with stale := 0, deferredN := 0, snoops := 0 }))
  | _ => none

def bankCode : BankSt → Nat
  | .empty => 0 | .ready => 1 | .waiting => 2 | .exception => 3 | .saving => 4

/-- The engines are parked for Hold (R34, R348). -/
def parkedForHold (m : Mach) (e : Nat) : Bool := (m.mode.st == .hold || m.mode.holdStart.isSome) && engActive m e

/-- `ENG_SCHED` (R348). -/
def schedWord (m : Mach) (e : Nat) : Word :=
  pack [(19, 1, b2n (parkedForHold m e)), (18, 1, b2n (idle m e)), (16, 2, (runLevel m e).getD 0), (12, 4, b2n ((bank m e 3).st != .empty)),
    (8, 4, bankCode (bank m e 2).st), (4, 4, bankCode (bank m e 1).st), (0, 4, bankCode (bank m e 0).st)]

/-- The registers of a control store (R396 to R399). -/
def readStore (m : Mach) (key off : Nat) : RegAns :=
  let x := store m key
  match off with
  | 0x300 => roN m [(40, 8, x.set), (32, 8, x.bundle), (24, 8, x.matches_.length), (0, 1, b2n x.loaded)]
  | 0x308 => some (pack [(32, 16, x.errs.getD 2 0), (16, 16, x.errs.getD 1 0), (0, 16, x.errs.getD 0 0)], modStore m key (fun x => { x with errs := [0, 0, 0] }))
  | _ => match regIdx off 0x400 8 24 with
    | none => none
    | some r => match x.matches_.find? (fun y => y.1 == r) with
      | none => roW m 0
      | some y => roN m [(31, 1, 1), (14, 8, y.2.1), (0, 14, y.2.2)]

def readEngine (m : Mach) (e off : Nat) : RegAns :=
  let x := eng m e
  match off with
  | 0x100 => roW m x.vec
  | 0x108 => roW m x.last
  | 0x110 => roW m x.lastPc
  | 0x118 => some (pack [(0, 32, x.excCount)], modEng m e (fun x => { x with excCount := 0 }))
  | 0x200 => roW m (schedWord m e)
  | 0x208 => roW m x.l3Base
  | 0x210 => roW m x.l3Limit
  | 0x500 => roN m [(12, 2, 2 * b2n x.l1iOff), (8, 2, 2 * b2n x.l1dOff), (1, 1, b2n x.l1iOff), (0, 1, b2n x.l1dOff)]
  | 0x508 => some (pack [(32, 16, x.l1Errs.getD 2 0), (16, 16, x.l1Errs.getD 1 0), (0, 16, x.l1Errs.getD 0 0)],
      modEng m e (fun x => { x with l1Errs := [0, 0, 0] }))
  | 0x600 => some (pack [(0, 32, x.retryN)], modEng m e (fun x => { x with retryN := 0 }))
  | _ => readStore m e off

def homeCode : HomeState → Nat
  | .serving => 0 | .takingOver => 1 | .covering => 2

def readHome (m : Mach) (h off : Nat) : RegAns :=
  let x := home m h
  match off with
  | 0x300 => roN m [(32, 16, (x.l3.filter (fun (p : Nat × L3Line) => p.2.dirty)).length), (16, 2, x.pairWays), (8, 2, cacheCode x.ctl), (0, 1, b2n x.disableReq)]
  | 0x308 => roW m 0
  | 0x310 => some (maintWord x.op, modHome m h (fun x => { x with op := maintRead x.op }))
  | 0x318 => some (pack [(32, 16, x.errUnc), (16, 16, x.errTag), (0, 16, x.errData)], modHome m h (fun x => { x with errUnc := 0, errTag := 0, errData := 0 }))
  | 0x400 => roN m [(16, 16, x.covered.toNat), (12, 4, x.buddy), (8, 2, x.mirrorMode), (0, 3, homeCode x.st)]
  | 0x408 => roN m [(32, 18, x.dir.length), (16, 10, (x.queues.map (fun (p : Nat × List HReq) => p.2.length)).sum), (0, 10, homeLoad x)]
  | 0x410 => some (pack [(48, 16, x.protoN), (32, 16, x.timeoutN), (16, 16, x.evictN), (0, 16, x.staleN)],
      modHome m h (fun x => { x with protoN := 0, timeoutN := 0, evictN := 0, staleN := 0 }))
  | 0x418 => roN m [(16, 8, x.takeoverOf), (0, 16, x.takeoverUs)]
  | _ => none

/-! ## Memory channels, seams, links, ports -/

def phaseCode : Phase → Nat
  | .reset => 0 | .training => 1 | .running => 2 | .selfRefresh => 3 | .retraining => 4 | .catchUp => 5 | .poweredOff => 6 | .failed => 7

def dimmWord (d : Option Spd) : Word :=
  match d with
  | none => 0
  | some s => pack [(32, 16, s.gb.toNat), (24, 8, s.ranks.toNat), (20, 4, s.dies.toNat), (16, 4, s.width.toNat), (8, 8, s.rate.toNat), (0, 1, 1)]

def readChan (m : Mach) (c off : Nat) : RegAns :=
  let x := chan m c
  match off with
  | 0x100 => roW m 0
  | 0x108 => roN m [(56, 8, x.temp), (40, 8, x.lastCmd), (36, 4, x.cmdResult), (32, 1, b2n x.present), (31, 1, b2n x.powered), (24, 4, seamServed m c 1),
      (20, 4, seamServed m c 0), (12, 4, x.role), (8, 4, phaseCode x.phase)]
  | 0x110 => roW m (dimmWord x.dimm0)
  | 0x118 => roW m (dimmWord x.dimm1)
  | 0x120 => some (pack [(48, 16, x.retrainings), (32, 16, x.caErrors), (16, 16, x.uncorrectable), (0, 16, x.corrected)],
      modChan m c (fun x => { x with retrainings := 0, caErrors := 0, uncorrectable := 0, corrected := 0 }))
  | 0xF08 => roN m [(32, 32, x.sub0.ledgerIn), (0, 32, x.sub0.ledgerOut)]
  | 0xF10 => roN m [(32, 32, x.sub1.ledgerIn), (0, 32, x.sub1.ledgerOut)]
  | _ => match regIdx off 0x800 8 20 with
    | none => none
    | some i => match x.lanes[i]? with
      | none => roW m 0
      | some l => roN m [(40, 3, l.vref.toNat), (32, 8, l.writeEye.toNat), (24, 8, l.readEye.toNat), (8, 8, l.writeDelay.toNat), (0, 8, l.readDelay.toNat)]

def seamCode : SeamState → Nat
  | .complete => 0 | .degraded => 1 | .rebuilding => 2 | .catchUp => 3 | .failed => 4

def readSeam (m : Mach) (s off : Nat) : RegAns :=
  let x := seam m s
  match off with
  | 0x100 => roN m [(16, 17, x.map.length), (8, 4, x.target.getD 0xF), (4, 4, x.missing.getD 0xF), (0, 4, seamCode x.st)]
  | 0x108 => roW m (pack ((List.range 5).map (fun p => let cs := x.members.getD p 0; (8 * p, 5, cs / 2 + 16 * (cs % 2)))))
  | 0x110 => roN m [(48, 16, x.rate), (0, 40, x.w)]
  | 0x118 => some (pack [(32, 32, x.lost), (0, 32, x.rebuilds)], modSeam m s (fun x => { x with lost := 0, rebuilds := 0 }))
  | _ => none

def linkCode : LinkState → Nat
  | .offline => 0 | .training => 1 | .up => 2 | .down => 3 | .failed => 4

def readLink (m : Mach) (l off : Nat) : RegAns :=
  let x := link m l
  match off with
  | 0x100 => roN m [(0, 2, x.cmd)]
  | 0x108 => roN m [(32, 16, x.attempts),
      (24, 8, ((List.range 64).filter (fun p => pathKind m p == 1 && pathLink m p == l && operational m p)).length),
      (8, 8, imgFld m 0x000C l 0 1), (7, 1, b2n (x.pausedTill.any (fun t => decide (m.now < t)))), (0, 3, linkCode x.st)]
  | 0x110 => roW m x.rxbuf
  | 0x118 => some (pack [(32, 32, x.tx), (0, 32, x.rx)], modLink m l (fun x => { x with tx := 0, rx := 0 }))
  | 0x120 => some (pack ((List.range 7).map (fun i => (8 * i, 8, x.drops.getD i 0))), modLink m l (fun x => { x with drops := List.replicate 7 0 }))
  | 0x128 => roW m x.mcast
  | _ => match regIdx off 0x4000 8 1024 with
    | some i => roW m (tget x.rules i 0)
    | none => none

/-- A configuration read without a given answer: whether it succeeds and what it returns are open (R612). -/
def cfgReadFree (m : Mach) (p : Nat) : Word × Mach :=
  let (ok, m) := takeChoice m 2
  let (v, m) := takeFree m
  let ans := v &&& 0xFFFFFFFF#64
  let m := emit m (.cfgRead p (bits (pcie m p).cfgAddr.toNat 31 0))
  let m := modPcie m p (fun x => { x with cfgFailed := ok == 0, cfgData := if ok = 0 then 0xFFFFFFFF#64 else ans })
  (if ok = 0 then BitVec.allOnes 64 else ans, m)

def readPcie (m : Mach) (p off : Nat) : RegAns :=
  let x := pcie m p
  let d (j : Nat) : DownLink := vget x.links j { st := 0, speed := 0, width := 0 }
  match off with
  | 0x100 => roN m ((List.range 4).flatMap (fun j => [(4 * j, 4, (d j).st), (16 + 4 * j, 4, (d j).speed), (32 + 8 * j, 8, (d j).width)]))
  | 0x108 => roW m (BitVec.ofNat 64 (regAddr 0x07 p 0x80000))
  | 0x110 => roN m [(63, 1, b2n x.cfgFailed), (0, 32, x.cfgAddr.toNat)]
  | 0x118 => some (cfgReadFree m p)
  | 0x120 => some (pack [(48, 16, x.msixDrops), (32, 16, x.dmaFaults), (16, 16, x.uncorr), (0, 16, x.corr)],
      modPcie m p (fun x => { x with msixDrops := 0, dmaFaults := 0, uncorr := 0, corr := 0 }))
  | _ => none

/-! ## Channel processors, crushers, cipher engines, context store -/

/-- The NVMe queue pairs of a processor: one for each NVMe path of its hub whose controller is ready (R541). -/
def queuePairs (m : Mach) (c : Nat) : Nat := ((List.range 64).filter (fun p => pathKind m p == 2 && pathHub m p == c / 8 && (path m p).ready)).length

def readCp (m : Mach) (c off : Nat) : RegAns :=
  match off with
  | 0x100 => roN m [(16, 8, queuePairs m c), (0, 13, cpOpen m c)]
  | 0x108 => roW m 0
  | _ => readStore m (2000 + c) off

/-- The job at work of a unit. -/
def runJob (m : Mach) (kind u : Nat) : Option Job := (workUnit m kind u).run.bind (fun n => job m n)

def readCrush (m : Mach) (k off : Nat) : RegAns :=
  let w := workUnit m 0 k
  match off with
  | 0x100 => roN m [(0, 2, w.cmd)]
  | 0x108 =>
    let j := runJob m 0 k
    let level := match j with | none => 0 | some x => if fld x.desc 0 1 = 1 then fld x.desc 1 1 else 0xF
    roN m [(48, 8, (dedicated m 0 k).getD 0xFF), (26, 11, commonFree m 0 (k / 4)), (16, 8, (j.map (fun x => x.lease)).getD 0), (12, 4, level),
      (0, 9, (unitJobs m 0 k).length)]
  | 0x110 => some (pack [(32, 32, w.counts.getD 1 0), (0, 32, w.counts.getD 0 0)], modWork m 0 k (fun w => { w with counts := lset (lset w.counts 0 0) 1 0 }))
  | 0x118 => some (pack [(48, 16, w.counts.getD 5 0), (32, 16, w.counts.getD 4 0), (16, 16, w.counts.getD 3 0), (0, 16, w.counts.getD 2 0)],
      modWork m 0 k (fun w => { w with counts := w.counts.take 2 ++ [0, 0, 0, 0] }))
  | _ => none

def readCipher (m : Mach) (x off : Nat) : RegAns :=
  let w := workUnit m 1 x
  match off with
  | 0x100 => roN m [(0, 2, w.cmd)]
  | 0x108 => roN m [(48, 8, (dedicated m 1 x).getD 0xFF), (28, 12, (unitJobs m 1 (8 + x / 4)).length),
      (16, 8, ((runJob m 1 x).map (fun j => j.lease)).getD 0), (0, 10, (unitJobs m 1 x).length)]
  | 0x110 => some (pack [(32, 32, w.counts.getD 1 0), (0, 32, w.counts.getD 0 0)], modWork m 1 x (fun w => { w with counts := lset (lset w.counts 0 0) 1 0 }))
  | _ => none

def readCtx (m : Mach) (off : Nat) : RegAns :=
  match off with
  | 0x100 => roW m m.jobs.ctxTable
  | 0x108 => roN m [(32, 2, m.jobs.mirror), (0, 17, m.jobs.ctx.length)]
  | 0xF08 => roN m [(32, 32, m.jobs.ctxIn), (0, 32, m.jobs.ctxOut)]
  | _ => none

/-! ## Leases, events and time -/

/-- `LEASE_CQ_STATUS` and `LEASE_XQ_STATUS` (R691, R715). -/
def jobQueueWord (m : Mach) (kind l q : Nat) : Word :=
  let js := queueJobs m kind l q
  pack [(32, 11, (js.filter (fun x => unitHub x.unit == 1)).length), (16, 11, (js.filter (fun x => unitHub x.unit == 0)).length), (0, 16, js.length)]

/-- `LEASE_EP_STATUS` (R588). -/
def epWord (m : Mach) (l e : Nat) : Word :=
  let t := epOpen m l e
  pack [(32, 16, (t.filter (fun p => p.2.st == .held)).length), (16, 16, (t.filter (fun p => p.2.reserved)).length), (0, 16, t.length)]

def readLease (m : Mach) (l off : Nat) : RegAns :=
  let x := lease m l
  match off with
  | 0x100 | 0x128 | 0x138 | 0x400 => roW m 0
  | 0x108 => roN m [(48, 8, x.lastCmd), (44, 4, x.cmdResult), (36, 1, b2n x.pendCtx), (35, 1, b2n x.pendChan), (34, 1, b2n x.pendCipher), (33, 1, b2n x.pendCrush),
      (32, 1, b2n x.pendBanks), (0, 3, lstCode x.st)]
  | 0x110 => roW m x.shares
  | 0x118 => roW m x.affinity
  | 0x120 => roW m x.ptRoot
  | 0x130 => some (pack [(1, 1, b2n x.tlbOverrun), (0, 1, b2n x.tlbBusy)], modLease m l (fun x => { x with tlbOverrun := false }))
  | 0x140 => some (pack [(48, 16, x.dRing), (32, 16, x.dDma), (16, 16, x.dEvents), (0, 16, x.dEntries)],
      modLease m l (fun x => { x with dRing := 0, dDma := 0, dEvents := 0, dEntries := 0 }))
  | 0x148 => roN m [(0, 32, x.held.length)]
  | 0x180 | 0x188 | 0x2E00 => roW m (tget x.regs off 0)
  | 0x190 => some (pack [(0, 32, x.evtLost)], modLease m l (fun x => { x with evtLost := 0 }))
  | 0x198 => roN m [(32, 32, x.evtIssued), (0, 32, x.evtReturned)]
  | 0x408 => roN m [(32, 32, stockTotal m l), (0, 32, x.pool.length)]
  | 0x410 => some (tget x.regs 0x410 0, modLease m l (fun x => { x with regs := tdel x.regs 0x410 }))
  | 0x418 => roN m [(32, 32, x.settIssued), (0, 32, x.settReturned)]
  | 0x420 => roN m [(0, 32, x.settInUse)]
  | 0x428 => let c := tget m.jobs.ledgers l (0, 0); roN m [(32, 32, c.1), (0, 32, c.2)]
  | 0x430 => let c := tget m.jobs.ledgers (256 + l) (0, 0); roN m [(32, 32, c.1), (0, 32, c.2)]
  | _ =>
    match regIdx off 0x1000 8 256, regIdx off 0x2000 8 128, regIdx off 0x2800 8 64, regIdx off 0x2C00 8 64 with
    | some i, _, _, _ =>
      if i % 4 = 3 then roW m (epWord m l (i / 4)) else roW m (tget x.regs off (if i % 4 = 0 then 0xFFFFFFFF else 0))
    | _, some i, _, _ =>
      if i % 4 = 2 then roN m [(32, 32, (fq m l (i / 4)).dropped), (0, 32, (fq m l (i / 4)).completed)]
      else if i % 4 = 3 then none else roW m (tget x.regs off 0)
    | _, _, some i, _ => if i % 4 = 2 then roW m (jobQueueWord m 0 l (i / 4)) else if i % 4 = 3 then none else roW m (tget x.regs off 0)
    | _, _, _, some i => if i % 4 = 2 then roW m (jobQueueWord m 1 l (i / 4)) else if i % 4 = 3 then none else roW m (tget x.regs off 0)
    | none, none, none, none => none

def readTime (m : Mach) (h off : Nat) : RegAns :=
  let x := master m h
  match off with
  | 0x100 => roW m x.count
  | 0x108 | 0x110 => roW m 0
  | 0x118 => roN m [(32, 32, toTwos 32 x.offset), (8, 24, toTwos 24 x.freq), (4, 2, if timeLost m h then 2 else if m.evt.activeMaster = h then 0 else 1), (2, 2, x.input), (0, 2, x.lock)]
  | 0x120 => roN m [(16, 16, m.evt.window.length), (0, 1, b2n (m.evt.activeBlock == h))]
  | 0x128 => some (pack [(32, 16, m.evt.queueWaits), (16, 16, m.evt.badVector), (0, 16, m.evt.late)],
      modEvt m (fun e => { e with queueWaits := 0, badVector := 0, late := 0 }))
  | _ => none

/-! ## All of them -/

/-- The register at an offset of a unit's block read. -/
def readReg (m : Mach) (k i off : Nat) : RegAns :=
  match readCommon m k i off with
  | some r => some r
  | none => match k with
    | 0x00 => readModule m off
    | 0x01 => readBench m i off
    | 0x02 => readEngine m i off
    | 0x03 => readHome m i off
    | 0x04 => readChan m i off
    | 0x05 => readSeam m i off
    | 0x06 => readLink m i off
    | 0x07 => readPcie m i off
    | 0x08 => readCp m i off
    | 0x09 => readCrush m i off
    | 0x0A => readCipher m i off
    | 0x0B => readCtx m off
    | 0x0C => readLease m i off
    | 0x0D => readTime m i off
    | _ => none

/-- Where an address of control space lies: unit kind, index and offset; none where no unit has a block there (R5). -/
def ctlPlace (a : Nat) : Option (Nat × Nat × Nat) :=
  let d := a - 0xFFF0000000000
  let k := d / 0x100000000
  let i := d / 0x100000 % 4096
  if 0xFFF0000000000 ≤ a ∧ i < kindCount k then some (k, i, d % 0x100000) else none

/-- What a unit without a role answers (R25): reads of its identity, status and tags. -/
def roleless (off : Nat) : Bool := off == 0x00 || off == 0x08 || (decide (0x20 ≤ off) && decide (off < 0x40))

/-- A read of control space (R8, R9, R25): the reason of its refusal, or the value; only the manager and the service controller issue
configuration requests (R612). -/
def readCheck (m : Mach) (a : Actor) (addr size : Nat) : Except Nat (Word × Mach) :=
  if size ≠ 8 then .error 1
  else if addr % 8 ≠ 0 then .error 2
  else match ctlPlace addr with
    | none => .error 3
    | some (k, i, off) =>
      match readReg m k i off with
      | none => .error 3
      | some r =>
        if !unitHasRole m k i && !roleless off then .error 5
        else if k = 0x07 ∧ off = 0x118 ∧ !privileged a then .error 4
        else .ok r

/-- What a read of control space returns: all ones where it is refused. -/
def readCtl (m : Mach) (a : Actor) (addr size : Nat) : Word × Mach :=
  match readCheck m a addr size with
  | .error r => (BitVec.allOnes 64, refuseAccess m a addr r)
  | .ok r => r

end Sys2Proof.Machine
end

