-- ==== Sys2Proof/Machine/CheckStop.lean ====
section
/-! DEFINITION. The minimum set of units for service (R817, R818) and Check-stop with its dump (R37, R819 to R822). -/

namespace Sys2Proof.Machine

/-! ## The minimum set (R817) -/

/-- A hub in service with its service core and a link or PCIe downstream link that is Up. -/
def hubServes (m : Mach) (h : Nat) : Bool :=
  hubIn m h && !m.svc.coresLost.contains h &&
    ((List.range 4).any (fun i => (link m (4 * h + i)).st == .up) || (pcie m h).links.toList.any (fun d => d.st == 2))

/-- An engine that works, or will when what holds its bench ends. -/
def engServes (m : Mach) (e : Nat) : Bool :=
  ustate m 0x02 e == .active || ustate m 0x02 e == .draining || ustate m 0x02 e == .starting

/-- The first item of R817 that is not met, of items 1 to 6; 0 where they all are. Without PWRGD_MAIN every domain on VCCIN is lost, the
hub meshes among them (R847). -/
def minUnmet (m : Mach) : Nat :=
  if !m.pins.main || !([0, 1].any (hubServes m)) then 1
  else if (List.range 4).all (fun t => m.errs.tilesLost.contains t) then 2
  else if !((List.range 1088).any (engServes m)) then 3
  else if !((List.range 16).any (fun h => unitHasRole m 0x03 h && !(home m h).lost)) then 4
  else if !((List.range 4).any (fun s => !(seam m s).members.isEmpty && (seam m s).st != .failed)) then 5
  else if !([0, 1].any (fun i => (master m i).running && !(master m i).failed)) then 6
  else 0

/-! ## The dump (R821) -/

/-- How far a block's registers reach. -/
def blockSpan (k : Nat) : Nat := match k with | 0x00 => 0x3800 | 0x06 => 0x6000 | 0x0C => 0x3000 | _ => 0x1000

/-- The register block of a unit as offset and value pairs; of a unit without a role, what R25 lets it answer. Reading for the dump
clears nothing. -/
def dumpBlock (m : Mach) (k i : Nat) : Bytes :=
  ((List.range (blockSpan k / 8)).filter (fun j => unitHasRole m k i || roleless (8 * j))).flatMap (fun j =>
    match readReg m k i (8 * j) with
    | some (v, _) => le 4 (8 * j) ++ le 4 0 ++ le 8 v.toNat
    | none => [])

/-- The contents of the dump: kind, index, content type, bytes. -/
def dumpParts (m : Mach) : List (Nat × Nat × Nat × Bytes) :=
  (List.range 16).flatMap (fun k => (List.range (kindCount k)).map (fun i => (k, i, 1, dumpBlock m k i))) ++
    [0, 1].map (fun h => (0x0E, h, 2, (m.errs.hubLogs.getD h []).flatMap errBytes)) ++
    [(0x0D, m.evt.activeBlock, 3, (lastN 256 m.evt.released).flatMap (fun e => evtBytes e 0))]

/-- The dump, with the code and the time stamp of the condition. -/
def dumpBytes (m : Mach) (code : Nat) (t : Word) : Bytes :=
  let parts := dumpParts m
  let start := 64 + 16 * parts.length
  let dir := parts.foldl (fun (a : Nat × Bytes) p =>
    (a.1 + p.2.2.2.length,
     a.2 ++ le 1 p.1 ++ le 1 0 ++ le 2 p.2.1 ++ le 4 a.1 ++ le 4 p.2.2.2.length ++ le 1 p.2.2.1 ++ le 3 0)) (start, [])
  le 4 0x4443584A ++ le 1 1 ++ le 1 0 ++ le 2 code ++ le 8 t.toNat ++ le 8 (modeWord m).toNat ++ le 4 parts.length ++ le 4 dir.1 ++
    le 32 0 ++ dir.2 ++ parts.flatMap (fun p => p.2.2.2)

/-! ## Check-stop (R819, R820) -/

/-- The module enters Check-stop from Training, Loading, Service, Rework or Hold (R28); an error in Test goes to the test log only. No
code of R794 names the conditions of R819: the record's and the dump's code of the condition is free (log entry 45). -/
def checkStop (m : Mach) (item : Nat) : Mach :=
  if m.mode.st == .bare || m.mode.st == .checkStop then m else
  let (c, m) := takeFree m
  let code := c.toNat % 65536
  let m := raiseErr m 0x0006 0x0F00 (le 2 code ++ le 1 item)
  if m.mode.st == .test then m else
  let (t, m) := takeStamp m 0x0F00
  let m := (List.range 12).foldl (fun m c =>
    let x := chan m c
    if x.phase == .running || x.phase == .retraining || x.phase == .catchUp || x.phase == .training
    then setChan m c { x with phase := .selfRefresh } else m) m
  let m := [0, 1].foldl (fun m p => modPcie m p (fun x => { x with links := vmap (fun d => if d.st = 0 then d else { d with st := 3 }) x.links })) m
  let m := enterMode m .checkStop 0x0D
  modMode m (fun x => { x with stopCause := code, dump := dumpBytes m code t })

/-- A unit has been lost: items 1 to 6 are checked in Service, Rework and Hold (R818). -/
def lossCheck (m : Mach) : Mach :=
  if meshRuns m && minUnmet m != 0 then checkStop m (minUnmet m) else m

/-- Commands whose effect may lose a unit. -/
def runUnitsLoss (s : State) (f : Mach → Mach) : Host.Outcome State Fault Refusal := runUnits s (fun m => lossCheck (f m))
def runMeshLoss (s : State) (f : Mach → Mach) : Host.Outcome State Fault Refusal := runMesh s (fun m => lossCheck (f m))
def runAliveLoss (s : State) (f : Mach → Mach) : Host.Outcome State Fault Refusal := runAlive s (fun m => lossCheck (f m))

end Sys2Proof.Machine
end

