-- ==== Sys2Proof/Machine/ImageCheck.lean ====
section
/-! DEFINITION. The checks of the fields of each structure-image record, as the owning chapters state them (R118, R868). Each takes the
record's index, its bytes, and `all kind i`, the records as they would stand after the load. -/

namespace Sys2Proof.Machine

/-- Where a record of another kind or index stands after the load; no bytes where there is none. -/
abbrev Recs := Nat → Nat → Bytes

def zeros (r : Bytes) (off len : Nat) : Bool := allZero (bslice r off len)
def within (lo hi v : Nat) : Bool := decide (lo ≤ v) && decide (v ≤ hi)
def distinct (l : List Nat) : Bool := decide l.Nodup

/-- Engine roles (R336, R337). -/
def okRoles (i : Nat) (r : Bytes) : Bool :=
  let mask := fld r 0 4
  let cover := fld r 4 1
  decide (fld r 5 1 < 2) && zeros r 6 10 && decide (mask < 2 ^ 17) &&
    (fld r 5 1 == 0 || (mask != 2 ^ 17 - 1 && cover != i % 16 && (decide (cover < 16) || cover == 0xFF)))

/-- Clock ceilings (R840, R841). -/
def okClock (i : Nat) (r : Bytes) : Bool :=
  let lo := if i < 64 then 8 else 4
  let hi := if i < 64 then 28 else 16
  let l := fld r 2 1
  if i < 64 ∨ 102 ≤ i ∧ i < 118 then
    within lo hi (fld r 0 1) && within lo (fld r 0 1) (fld r 1 1) && (l == 0 || within 70 105 l) && fld r 3 1 == 0
  else zeros r 0 4

/-! ### Mesh routing (R807 to R810) -/

/-- The tiles that a substrate link joins: 0 to 3 compute tiles, 4 HW, 5 HE. -/
def linkEnds (l : Nat) : Nat × Nat :=
  if l < 4 then (l, (l + 1) % 4) else if l < 8 then (l - 4, 4) else if l < 12 then (l - 8, 5) else (4, 5)
def linkAt (l t : Nat) : Bool := decide (l < 13) && ((linkEnds l).1 == t || (linkEnds l).2 == t)
def farEnd (l t : Nat) : Nat := if (linkEnds l).1 = t then (linkEnds l).2 else (linkEnds l).1

/-- The link that tile t uses toward tile d while some links are lost; 0xF for none. -/
def routeLink (rec : Nat → Bytes) (lost : List Nat) (t d : Nat) : Nat :=
  let b := fld (rec t) d 1
  if lost.contains (b % 16) then (if lost.contains (b / 16) then 0xF else b / 16) else b % 16

/-- A route reaches its destination within `fuel` links and visits no tile twice. -/
def routeReaches (fuel : Nat) (rec : Nat → Bytes) (lost : List Nat) (t d : Nat) (seen : List Nat) : Bool :=
  match fuel with
  | 0 => t == d
  | f + 1 =>
    if t = d then true else
    let l := routeLink rec lost t d
    if !linkAt l t then false
    else
      let n := farEnd l t
      if (t :: seen).contains n then false else routeReaches f rec lost n d (t :: seen)

def okRouting (all : Recs) (i : Nat) (r : Bytes) : Bool :=
  let rec_ : Nat → Bytes := all 0x0003
  zeros r 6 10 &&
    (List.range 6).all (fun d =>
      let p := fld r d 1 % 16
      let a := fld r d 1 / 16
      if d = i then p == 0xF && a == 0xF
      else linkAt p i && (a == 0xF || linkAt a i) && routeReaches 3 rec_ [] i d [] &&
        (List.range 13).all (fun l => routeReaches 3 rec_ [l] i d []))

/-! ### Home nodes and buddies (R481 to R484) -/

def okInterleave (r : Bytes) : Bool := (List.range 64).all (fun s => decide (fld r s 1 < 16)) && zeros r 64 16

/-- A home node that some slot names. -/
def homeNamed (all : Recs) (h : Nat) : Bool := ((all 0x0004 0).take 64).any (fun b => b.toNat == h)

def okBuddy (all : Recs) (i : Nat) (r : Bytes) : Bool :=
  let b := fld r 0 1
  zeros r 2 6 &&
    (!homeNamed all i || (decide (fld r 1 1 < 2) && decide (b < 16) && b != i && tileOfHome b != tileOfHome i && homeNamed all b &&
      (fld r 1 1 == 0 || (List.range 16).all (fun j =>
        j == i || !homeNamed all j || !bit (fld (all 0x0012 j) 1 1) 0 || fld (all 0x0012 j) 0 1 != b))))

/-! ### Memory channels and seams (R531 to R534) -/

/-- The subchannel at a position of a seam record, as channel × 2 + subchannel. -/
def seamPos (r : Bytes) (p : Nat) : Nat := 2 * (fld r (2 * p) 2 % 16) + bits (fld r (2 * p) 2) 4 4

def okChannel (all : Recs) (i : Nat) (r : Bytes) : Bool :=
  let role := fld r 0 1
  let prio := (List.range 5).map (fun p => fld r (18 + p) 1)
  zeros r 7 1 && zeros r 26 6 && decide (role < 3) &&
    (role == 0 || ([48, 56, 64, 80].contains (fld r 1 1) && within 1 2 (fld r 2 1) && !(fld r 1 1 == 80 && fld r 2 1 == 2) &&
      decide (fld r 3 1 < 8) && decide (fld r 23 1 < 32) &&
      (prio.all (fun x => x == 0) || (prio.all (fun x => decide (x < 5)) && distinct prio)) &&
      (role != 1 || (List.range 4).any (fun s => (List.range 5).any (fun p => seamPos (all 0x0005 (12 + s)) p / 2 == i &&
        !(all 0x0005 (12 + s)).isEmpty)))))

/-- `live` holds the seam's live members where the record is of a partial image. -/
def okSeam (all : Recs) (live : Option (List Nat)) (r : Bytes) : Bool :=
  let ps := (List.range 5).map (seamPos r)
  (List.range 5).all (fun p => decide (fld r (2 * p) 2 < 32) && decide (fld r (2 * p) 2 % 16 < 12)) &&
    distinct (ps.map (fun x => x / 2)) && ps.all (fun x => fld (all 0x0005 (x / 2)) 0 1 == 1) && decide (fld r 10 2 ≤ 256) &&
    zeros r 12 4 && (match live with | none => true | some l => l == ps)

/-- A subchannel that two seam positions name (R533), as the seam record and the offset in it. -/
def seamTwice (all : Recs) : Option Nat :=
  (List.range 4).find? (fun s => (List.range 4).any (fun t => t != s && !(all 0x0005 (12 + t)).isEmpty && !(all 0x0005 (12 + s)).isEmpty &&
    decide (t < s) && (List.range 5).any (fun p => (List.range 5).any (fun q => seamPos (all 0x0005 (12 + s)) p == seamPos (all 0x0005 (12 + t)) q))))

/-! ### Caches, rings, leases, classes, events -/

def okPolicy (i : Nat) (r : Bytes) : Bool :=
  if i < 64 then decide (fld r 0 1 < 4) && (fld r 2 2 == 0 || within 10 1000 (fld r 2 2)) && zeros r 12 20
  else decide (fld r 0 1 < 2) && decide (fld r 1 1 ≤ 2) && zeros r 2 30

def okRing (i : Nat) (r : Bytes) : Bool :=
  let n := fld r 0 1
  let ring := (List.range n).map (fun j => fld r (4 + j) 1)
  decide (n ≤ 15) && decide (fld r 1 1 ≤ 2) && fld r 2 1 != 0 && fld r 3 1 != 0 && ring.all (fun x => decide (x < 16) && x != i % 16) &&
    distinct ring && (List.range 15).all (fun j => decide (j < n) || fld r (4 + j) 1 == 0xFF) && zeros r 19 13

def okLease (i : Nat) (r : Bytes) : Bool :=
  let f := fld r 0 1
  decide (f < 16) && zeros r 7 1 && zeros r 18 6 && zeros r 40 24 && (!bit f 0 || fld r 1 1 != 0) && (!bit f 1 || bit f 0) &&
    (i != 0 || (bit f 0 && bit f 1)) && decide (fld r 2 1 ≤ 7) && decide (fld r 6 1 ≤ 4) &&
    (List.range 4).all (fun j => fld r (25 + 4 * j) 1 == 0 && (decide (fld r 6 1 ≤ j) || decide (fld r (24 + 4 * j) 1 ≤ 1)))

def okRoute (i : Nat) (r : Bytes) : Bool :=
  decide (fld r 2 1 < 8) && zeros r 3 5 && (!(i == 0x09 || i == 0x0A || within 0x10 0x15 i) || within 16 4095 (fld r 0 2))

/-! ### Paths, links, ports -/

def okPath (r : Bytes) : Bool :=
  zeros r 48 16 &&
    match fld r 0 1 with
    | 0 => true
    | 1 => decide (fld r 1 1 < 8) && decide (fld r 2 1 < 2) && [0x10, 0x11, 0x20].contains (fld r 3 1) && within 1 64 (fld r 10 2) && zeros r 12 4 &&
        !zeros r 16 16
    | 2 => decide (fld r 1 1 < 2) && decide (fld r 2 1 < 2) && zeros r 3 1 && (fld r 6 2 == 0 || within 2 1024 (fld r 6 2)) && zeros r 8 4 &&
        fld r 12 4 != 0 && !zeros r 16 16 && zeros r 32 16
    | _ => false

/-- Downstream links that a bifurcation uses. -/
def portLinks (r : Bytes) : Nat := match fld r 0 1 with | 1 => 1 | 2 => 2 | 3 => 4 | _ => 0

def portBuses (r : Bytes) : List Nat := (List.range (portLinks r)).map (fun j => fld r (4 + j) 1)

/-- A link record; one of mode 0 gives no role, and only its mode and its reserved fields and bits are tested (R636, R638, R868). -/
def okLink (r : Bytes) : Bool :=
  zeros r 35 1 && zeros r 38 10 && decide (fld r 0 1 ≤ 4) && decide (fld r 1 1 < 8) && decide (fld r 36 2 < 4096) &&
    (fld r 0 1 == 0 || ((fld r 2 2 == 0 || within 1518 9216 (fld r 2 2)) && !bit (fld r 4 1) 0 && !bit (fld r 10 1) 0 &&
      decide (fld r 32 1 ≤ 128) && (decide (fld r 34 1 < 16) || fld r 34 1 == 0xFF)))

def okPort (all : Recs) (i : Nat) (r : Bytes) : Bool :=
  let other := portBuses (all 0x000C (if i = 8 then 9 else 8))
  zeros r 3 1 && zeros r 10 38 && decide (fld r 0 1 ≤ 3) &&
    (fld r 0 1 == 0 || (within 1 5 (fld r 1 1) && decide (fld r 2 1 < 2) && (portBuses r).all (fun b => b != 0 && !other.contains b) &&
      distinct (portBuses r)))

/-! ### Crushers, cipher engines -/

def okUnit (r : Bytes) : Bool :=
  decide (fld r 0 1 < 4) && zeros r 2 6 && (!bit (fld r 0 1) 1 || bit (fld r 0 1) 0) && (!(fld r 0 1 == 1) || fld r 1 1 == 0)

/-- A lease's mask and reservations of a kind (R681, R713): `most` is the largest reservation. -/
def okShare (all : Recs) (kind most n : Nat) (r : Bytes) : Bool :=
  let mask := fld r 0 1
  decide (fld r 2 2 ≤ most) && decide (fld r 4 2 ≤ most) && zeros r 6 2 && (fld r 2 2 == 0 || mask % 16 != 0) && (fld r 4 2 == 0 || mask / 16 != 0) &&
    (List.range 8).all (fun k => !bit mask k || !bit (fld (all kind k) 0 1) 1 || fld (all kind k) 1 1 == n)

def okCrusher (all : Recs) (i : Nat) (r : Bytes) : Bool :=
  if i < 8 then okUnit r else okShare all 0x000D 1024 (i - 8) r && zeros r 1 1
def okCipher (all : Recs) (i : Nat) (r : Bytes) : Bool :=
  if i < 8 then okUnit r
  else okShare all 0x000E 2048 (i - 8) r && decide (fld r 1 1 < 4) && decide (fld r 8 4 ≤ 65536) && zeros r 12 4

/-! ### Pins, patches, time -/

def okPin (i : Nat) (r : Bytes) : Bool := decide (fld r 0 1 ≤ if i < 12 then 4 else 1) && decide (fld r 1 1 < 3) && zeros r 2 6

/-- A binding against the bundles held (R371 to R373); whatever ENABLED is, the set identifier is 0 where the sequence number is, and the
mask's bits [31:24] are 0 (R371, R868). -/
def okBinding (held : List Bundle_) (i : Nat) (r : Bytes) : Bool :=
  decide (fld r 2 1 < 2) && zeros r 3 1 && fld r 7 1 == 0 && (fld r 0 1 != 0 || fld r 1 1 == 0) &&
    (fld r 2 1 == 0 ||
      match held.find? (fun b => b.seq == fld r 0 1) with
      | none => false
      | some b => match b.sets.find? (fun s => fld s 0 1 == fld r 1 1) with
        | none => false
        | some s => fld s 1 1 == (if i < 64 then 1 else 2) &&
            (List.range 24).all (fun k => !bit (fld r 4 3) k || bit (fld s (8 + 4 * k) 4) 31))

def okTime (i : Nat) (r : Bytes) : Bool :=
  let inp := fld r 0 1
  decide (inp ≤ 2) && decide (fld r 3 1 < 4) && zeros r 8 8 &&
    (if inp = 1 then fld r 1 1 / 4 == i else zeros r 1 2) && !(inp == 2 && bit (fld r 3 1) 1)

/-- The fields of a record, as its owning chapter states (R868). -/
def recordOk (m : Mach) (part : Bool) (all : Recs) (kind i : Nat) (r : Bytes) : Bool :=
  match kind with
  | 0x01 => okRoles i r
  | 0x02 => okClock i r
  | 0x03 => okRouting all i r
  | 0x04 => okInterleave r
  | 0x05 => if i < 12 then okChannel all i r else okSeam all (if part then some (seam m (i - 12)).members else none) r
  | 0x06 => okPolicy i r
  | 0x07 => okRing i r
  | 0x08 => okLease i r
  | 0x09 => zeros r 5 11
  | 0x0A => okRoute i r
  | 0x0B => okPath r
  | 0x0C => if i < 8 then okLink r else okPort all i r
  | 0x0D => okCrusher all i r
  | 0x0E => okCipher all i r
  | 0x0F => okPin i r
  | 0x10 => okBinding (m.load.held.filterMap id) i r
  | 0x11 => okTime i r
  | 0x12 => okBuddy all i r
  | _ => true

end Sys2Proof.Machine
end

