-- ==== Sys2Proof/Machine/Flash.lean ====
section
/-! DEFINITION. The fuse block's fields (R17, R96, R361, R823), signatures (R94, R95), the boot flash and its directory (R50 to R56), boot
firmware (R363). -/

namespace Sys2Proof.Machine

/-! ## Fuses -/

/-- The two copies of the fuse block. -/
abbrev Fuses := FuseCopy × FuseCopy

/-- A bit that is blown in either copy counts as blown (R88, R823). -/
def testBlown (f : Fuses) : Bool := f.1.test || f.2.test
def imageRevoked (f : Fuses) (n : Nat) : Bool := f.1.image.getD n false || f.2.image.getD n false
def vendorRevoked (f : Fuses) (n : Nat) : Bool := f.1.vendor.getD n false || f.2.vendor.getD n false

/-- The effective value of a field (R823): of the copy whose check passes, hub index 0's where both do; none where neither does. -/
def fuseEff (a b : FuseField) : Option Bytes := if a.ok then some a.bytes else if b.ok then some b.bytes else none

/-- A key slot of a copy; one that it lacks passes no check. -/
def fuseSlot (l : List FuseField) (n : Nat) : FuseField := l.getD n { bytes := [], ok := false }

/-- The effective values; no bytes where neither copy's check passes (log entry 46). -/
def fuseIdent (f : Fuses) : Bytes := (fuseEff f.1.ident f.2.ident).getD []
def fuseMac (f : Fuses) : Nat := leVal ((fuseEff f.1.mac f.2.mac).getD [])
def imageDigest (f : Fuses) (n : Nat) : Bytes := (fuseEff (fuseSlot f.1.imageKeys n) (fuseSlot f.2.imageKeys n)).getD []
def vendorDigest (f : Fuses) (n : Nat) : Bytes := (fuseEff (fuseSlot f.1.vendorKeys n) (fuseSlot f.2.vendorKeys n)).getD []
def patchKey (f : Fuses) : Bytes := (fuseEff f.1.patchKey f.2.patchKey).getD []

/-- Some field has no copy whose check passes: the service cores stay in their ROM loader (R823). -/
def fusesBad (f : Fuses) : Bool :=
  (fuseEff f.1.ident f.2.ident).isNone || (fuseEff f.1.mac f.2.mac).isNone || (fuseEff f.1.patchKey f.2.patchKey).isNone ||
    (List.range 4).any (fun n => (fuseEff (fuseSlot f.1.imageKeys n) (fuseSlot f.2.imageKeys n)).isNone) ||
    (List.range 2).any (fun n => (fuseEff (fuseSlot f.1.vendorKeys n) (fuseSlot f.2.vendorKeys n)).isNone)

/-- The silicon stepping (R43, R861). -/
def stepping : Nat := 1

/-! ## Signatures (R94, R95) -/

/-- The trailer of a signed byte string. -/
def trailer (b : Bytes) : Bytes := b.drop (b.length - 256)
/-- The trailer's key has the digest. -/
def keyMatches (digest b : Bytes) : Bool := shaHash 2 (nb (bslice (trailer b) 0 97)) == nb digest
/-- The signature over every byte before the trailer verifies. -/
def sigGood (b : Bytes) : Bool :=
  ecdsaVerify (curveOf 2) (shaHash 2 (nb (b.take (b.length - 256)))) (nb (bslice (trailer b) 0 97)) (nb (bslice (trailer b) 104 96))

/-! ## Flash (R50 to R55) -/

def flash (m : Mach) (h : Nat) : FlashSt := tget m.flash h FlashSt.reset
def modFlash (m : Mach) (h : Nat) (f : FlashSt → FlashSt) : Mach := { m with flash := tset m.flash h (f (flash m h)) }

/-- Bytes of the array; an erased byte is 0xFF. The cells list each byte inverted. -/
def flashRead (x : FlashSt) (off len : Nat) : Bytes := (List.range len).map (fun i => ~~~ cellGet x.cells (off + i))

/-- A flash with a readable SFDP table and a density that the module supports (R50, R51). -/
def flashIn (x : FlashSt) : Bool := x.present && decide (0x2000000 ≤ x.size) && decide (x.size ≤ 0x10000000)

/-- Programming turns ones to zeros: the bytes go into the array page by page, and what is already 0 stays 0. -/
def flashProgram (x : FlashSt) (off : Nat) (b : Bytes) : FlashSt :=
  { x with cells := cellsSet x.cells off (List.zipWith (fun old new => ~~~ (old &&& new)) (flashRead x off b.length) b) }

/-- Erased bytes. -/
def flashErase (x : FlashSt) (off len : Nat) : FlashSt :=
  { x with cells := x.cells.filter (fun c => decide (c.1 < off) || decide (off + len ≤ c.1)) }

/-- A directory copy that is in order (R52, R54). -/
def dirGood (d : Bytes) : Bool := fld d 0 4 == 0x4442584A && fld d 4092 4 == crc32c (d.take 4092)

/-- The directory in force: the valid copy with the higher sequence number (R54); of two valid copies with equal sequence numbers, for which
the spec gives no rule, the one at 0x0000 (DESIGN CHOICE, log entry 47). -/
def flashDir (x : FlashSt) : Option Bytes :=
  let a := flashRead x 0 4096
  let b := flashRead x 4096 4096
  if !flashIn x then none
  else if dirGood a ∧ (!dirGood b ∨ fld b 8 4 ≤ fld a 8 4) then some a
  else if dirGood b then some b else none

/-- The contents of a type that a flash offers, in the order in which the module tries them (R53, R54): the slot with the higher content
sequence number first; of two slots with equal numbers, for which the spec gives no rule, slot A (DESIGN CHOICE, log entry 47). -/
def flashItems (x : FlashSt) (type : Nat) : List Bytes :=
  match flashDir x with
  | none => []
  | some d =>
    let es := ((List.range (min 32 (fld d 6 2))).map (fun i => bslice d (16 + 32 * i) 32)).filter (fun e => fld e 0 1 == type && !bit (fld e 2 2) 0)
    let slot (k : Nat) : List Bytes := (es.filter (fun e => fld e 1 1 == k)).take 1
    let pair := slot 0 ++ slot 1
    let pair := match pair with
      | [a, b] => if fld a 12 4 < fld b 12 4 then [b, a] else [a, b]
      | l => l
    pair.map (fun e => flashRead x (fld e 4 4) (min (fld e 8 4) x.size))

/-- What both hubs' flashes offer of a type: hub 0's first (log entry 47). -/
def bothItems (m : Mach) (type : Nat) : List Bytes := [0, 1].flatMap (fun h => flashItems (flash m h) type)

/-! ## Boot firmware (R363) -/

/-- The ROM loader accepts boot firmware; its total length may be below that of its directory entry. -/
def firmwareGood (f : Fuses) (b : Bytes) : Bool :=
  let n := fld b 8 4
  let b := b.take n
  let slot := fld b 16 1
  fld b 0 4 == 0x4642584A && fld b 4 1 == 1 && fld b 5 1 == 0 && decide (fld b 6 1 ≤ stepping) && decide (stepping ≤ fld b 7 1) &&
    decide (320 ≤ n) && decide (n ≤ 0x800000) && b.length == n && decide (slot < 2) && !vendorRevoked f slot && keyMatches (vendorDigest f slot) b &&
    sigGood b

end Sys2Proof.Machine
end

