-- ==== Sys2Proof/Machine/Patch.lean ====
section
/-! DEFINITION. Microcode patch bundles: their checks (R364 to R367), how they are held (R368 to R370). -/

namespace Sys2Proof.Machine

/-- A patch set's own fields (R366, check 8 of R367). -/
def setOk (s : Bytes) : Bool :=
  let used := fld s 3 1
  let valid := (List.range 24).filter (fun i => bit (fld s (8 + 4 * i) 4) 31)
  fld s 0 1 != 0 && (fld s 1 1 == 1 || fld s 1 1 == 2) && decide (fld s 2 1 < 2) && decide (used ≤ 24) && fld s 4 4 == 0 &&
    allZero (bslice s 3688 24) &&
    (List.range 24).all (fun i => bits (fld s (8 + 4 * i) 4) 30 22 == 0) &&
    valid.all (fun i => decide (i < used) && decide (bits (fld s (8 + 4 * i) 4) 13 0 ≤ 0x2FFF)) &&
    decide ((valid.map (fun i => bits (fld s (8 + 4 * i) 4) 13 0)).Nodup)

/-- Every set of a bundle, with identifiers unique and at most one DEFAULT set for each target. -/
def setsOk (l : List Bytes) : Bool :=
  l.all setOk && decide ((l.map (fun s => fld s 0 1)).Nodup) &&
    [1, 2].all (fun t => decide ((l.filter (fun s => fld s 1 1 == t && bit (fld s 2 1) 0)).length ≤ 1))

/-- The sets of a bundle, where its tag verifies under the fused key (R365). -/
def bundleSets (f : Fuses) (b : Bytes) : Option (List Bytes) :=
  let n := fld b 28 4
  (aeadOpen 2 (nb (patchKey f)) (nb (bslice b 16 12)) (nb (bslice b 0 64)) (nb (bslice b 64 (n + 16)))).map (fun p =>
    (List.range (fld b 7 1)).map (fun i => bslice (bn p) (3712 * i) 3712))

/-- Checks 1 to 8 of R367: the cause of the first failure, or the sets. -/
def bundleCheck (f : Fuses) (b : Bytes) : Except Nat (List Bytes) :=
  let slot := fld b 14 1
  if fld b 0 4 ≠ 0x4250584A then .error 0x0101
  else if fld b 4 1 ≠ 1 ∨ fld b 5 1 ≠ 0 then .error 0x0102
  else if fld b 8 4 ≠ b.length ∨ fld b 28 4 ≠ 3712 * fld b 7 1 ∨ b.length ≠ 64 + fld b 28 4 + 16 + 256 then .error 0x0103
  else if 2 ≤ slot ∨ vendorRevoked f slot ∨ !keyMatches (vendorDigest f slot) b then .error 0x0104
  else if !sigGood b then .error 0x0105
  else if stepping < fld b 12 1 ∨ fld b 13 1 < stepping then .error 0x0106
  else match bundleSets f b with
    | none => .error 0x0107
    | some l => if setsOk l ∧ fld b 6 1 ≠ 0 then .ok l else .error 0x0108

/-- The slot of R368 that a new bundle takes: a free one, else that of an unbound bundle. In Bare a staged bundle takes the place of the
flash bundle of its own sequence number (R370). -/
def bundleSlot (m : Mach) (seq : Nat) : Option Nat :=
  let same := (List.range 2).find? (fun i => match m.load.held.getD i none with | some b => b.seq == seq && b.fromFlash | none => false)
  match same with
  | some i => some i
  | none => match (List.range 2).find? (fun i => (m.load.held.getD i none).isNone) with
    | some i => some i
    | none => (List.range 2).find? (fun i => match m.load.held.getD i none with | some b => !bundleBound m b.seq | none => true)

/-- Another bundle that is held has the sequence number (check 9). -/
def seqHeld (m : Mach) (seq : Nat) : Bool :=
  m.load.held.any (fun x => match x with | some b => b.seq == seq && !(b.fromFlash && m.mode.st == .bare) | none => false)

def setHeld (m : Mach) (i : Nat) (b : Bundle_) : Mach := { m with load := { m.load with held := lset m.load.held i (some b) } }

/-- A bundle checked and held, or the cause of its rejection. -/
def bundleHold (f : Fuses) (m : Mach) (b : Bytes) (flash : Bool) : Except Nat Mach :=
  match bundleCheck f b with
  | .error c => .error c
  | .ok l =>
    if seqHeld m (fld b 6 1) then .error 0x0109
    else match bundleSlot m (fld b 6 1) with
      | none => .error 0x010A
      | some i => .ok (setHeld m i { seq := fld b 6 1, key := fld b 14 1, sets := l, fromFlash := flash })

/-- The outcome of a staged bundle's checks, in `PATCH_STATUS` and by EVENT_NOTIFY with content 4 (R367, R393). -/
def patchChecked (f : Fuses) (m : Mach) (b : Bytes) : Mach :=
  let done (m : Mach) (outcome cause : Nat) : Mach :=
    let w := pack [(16, 16, cause), (8, 8, fld b 6 1), (0, 2, outcome)]
    notify { m with load := { m.load with patchSt := w, st := if m.load.candidate.isSome then .verified else .idle } } 4 (le 8 w.toNat)
  match bundleHold f m b false with
  | .ok m => done m 1 (bits m.load.patchSt.toNat 31 16)
  | .error c => done m 2 c

end Sys2Proof.Machine
end

