-- ==== Sys2Proof/Machine/ImageLoad.lean ====
section
/-! DEFINITION. The verify step and the check step of a structure image (R91 to R100, R106 to R109, R115 to R124), and rejection
records (R139 to R141). -/

namespace Sys2Proof.Machine

/-! ## The verify step (R118) -/

/-- The directory entry at fault: count, order, offset, length or overlap. -/
def dirFault (b : Bytes) : Option Nat :=
  let es := dirEntries b
  let dirEnd := 64 + 32 * imgEntries b
  (List.range es.length).find? (fun i =>
    match es[i]? with
    | none => true
    | some e =>
      let prev : Option DirEntry := if i = 0 then none else es[i - 1]?
      let known := recCount e.kind != 0
      let whole := bit e.flags 0
      (whole && (e.first != 0 || e.count != 0)) || (!whole && e.count == 0) ||
        (known && !whole && decide (recCount e.kind < e.first + e.count)) ||
        (match prev with | some p => decide (e.kind < p.kind) || (e.kind == p.kind && decide (e.first < p.first)) | none => false) ||
        e.off % 64 != 0 || decide (e.off < dirEnd) || decide (b.length < e.off + e.len + 256) ||
        (known && e.len != bodySize e.kind (entryCovers e)) ||
        (es.take i).any (fun p => decide (p.off < e.off + e.len) && decide (e.off < p.off + p.len)))

/-- A section of format 1.0, which is what every chapter lists as supported (R100). -/
def formatOk (e : DirEntry) : Bool := e.major == 1 && e.minor == 0

/-- The records that would stand after the load (R119). -/
def resulting (m : Mach) (b : Bytes) : Tbl Bytes :=
  if imgKind b = 1 then
    let own := imageRecords b
    m.image.filter (fun p => (tfind own p.1).isNone) ++ own
  else imageRecords b

/-- Records of a table by kind and index. -/
def recsOf (t : Tbl Bytes) : Recs := fun kind i => tget t (ukey kind i) []

/-- The first record whose fields fail: its kind, index and offset. -/
def fieldFault (m : Mach) (b : Bytes) (all : Recs) : Option (Nat × Nat × Nat) :=
  let part := imgKind b == 1
  (dirEntries b).findSome? (fun e =>
    ((entryRecords b e).find? (fun r => !recordOk m part all e.kind r.1 r.2.2)).map (fun r => (e.kind, r.1, r.2.1)))

/-- The first record covered twice, or a subchannel named twice (R107, R533). -/
def twiceFault (b : Bytes) (all : Recs) : Option (Nat × Nat × Nat) :=
  let recs := (dirEntries b).flatMap (fun e => (entryRecords b e).map (fun r => (e.kind, r.1, r.2.1)))
  match (List.range recs.length).findSome? (fun i =>
      match recs[i]? with
      | some r => if (recs.take i).any (fun q => q.1 == r.1 && q.2.1 == r.2.1) then some r else none
      | none => none) with
  | some r => some r
  | none =>
    if !(dirEntries b).any (fun e => e.kind == 5) then none
    else (seamTwice all).map (fun s => (5, 12 + s, ((recs.find? (fun r => r.1 == 5 && r.2.1 == 12 + s)).map (fun r => r.2.2)).getD 0xFFFFFFFF))

/-- The first required record that a full image lacks (R102). -/
def missingRec (b : Bytes) : Option (Nat × Nat) :=
  let t := imageRecords b
  (List.range 19).findSome? (fun k =>
    if !kindRequired k then none
    else ((List.range (recCount k)).find? (fun i => (tfind t (ukey k i)).isNone)).map (fun i => (k, i)))

/-- An image kind that the mode and the expected kind allow (R115). -/
def kindFits (m : Mach) (b : Bytes) (expect : Nat) : Bool :=
  imgKind b == expect && (if imgKind b = 0 then m.mode.st == .bare else imgKind b == 1 && unitsRun m)

/-- The image version keeps R93: a full image's is at least 1, a partial image's is above its base version. -/
def versionOk (b : Bytes) : Bool := if imgKind b = 1 then decide (imgBase b < imgVersion b) else decide (1 ≤ imgVersion b)

/-- The verify step: the first failure, in the order of R118. An image of fewer than 320 bytes, whose header and trailer overlap, is rejected
with LENGTH, for which the spec gives no cause (DESIGN CHOICE, log entry 48). One that breaks R93 is rejected with FIELD at the header's
version, where the fields are checked; R118 and R141 give R93 neither place nor cause (DESIGN CHOICE, log entry 48). -/
def verifyImage (f : Fuses) (m : Mach) (b : Bytes) (expect : Nat) : Option Rej :=
  let n := b.length
  let slot := imgSlot b
  let all := recsOf (resulting m b)
  let es := dirEntries b
  let entryAt (p : DirEntry → Bool) : Option Nat := es.findIdx? p
  if fld b 0 4 ≠ 0x4953584A then some (rejBox 0x0001 0)
  else if fld b 4 1 ≠ 1 ∨ fld b 5 1 ≠ 0 then some (rejBox 0x0002 4)
  else if !kindFits m b expect then some (rejBox 0x000E 6)
  else if imgTotal b ≠ n ∨ 0x400000 < n ∨ n < 320 then some (rejBox 0x0003 16)
  else if 4 ≤ slot ∨ imageRevoked f slot ∨ !keyMatches (imageDigest f slot) b then some (rejBox 0x0004 (n - 256))
  else if !sigGood b then some (rejBox 0x0005 (n - 152))
  else if stepping < fld b 24 1 ∨ fld b 25 1 < stepping then some (rejBox 0x0006 24)
  else if imgEntries b = 0 ∨ 64 < imgEntries b ∨ n < 64 + 32 * imgEntries b + 256 then some (rejBox 0x0007 20)
  else match dirFault b with
    | some i => some (rejBox 0x0007 (64 + 32 * i))
    | none =>
    match entryAt (fun e => recCount e.kind == 0) with
    | some i => some (rejAt 1 0x0008 (dirEntry b i).kind 0xFFFF (64 + 32 * i))
    | none =>
    match entryAt (fun e => !formatOk e) with
    | some i => some (rejAt 1 0x0009 (dirEntry b i).kind 0xFFFF (64 + 32 * i))
    | none =>
    match entryAt (fun e => crc32c (bslice b e.off e.len) != e.crc) with
    | some i => some (rejAt 1 0x000A (dirEntry b i).kind 0xFFFF (dirEntry b i).off)
    | none =>
    if !versionOk b then some (rejBox 0x000B 8) else
    match fieldFault m b all with
    | some (k, i, off) => some (rejAt 1 0x000B k i off)
    | none =>
    match twiceFault b all with
    | some (k, i, off) => some (rejAt 1 0x000C k i off)
    | none =>
    if imgKind b ≠ 0 then none else (missingRec b).map (fun p => rejAt 1 0x000D p.1 p.2 0xFFFFFFFF)

/-! ## Claims and reservations (R108, R109) -/

/-- A claim: class, resource index, section kind, record index, source. -/
structure Claim where
  cls : Nat
  res : Nat
  kind : Nat
  idx : Nat
  src : Nat
  deriving DecidableEq, Repr

/-- The land of a pin-function record (R850, R852). -/
def pinLand (i : Nat) : Nat := if i < 6 then 5404 + i else if i < 12 then 5468 + (i - 6) else if i = 12 then 5410 else 5474

/-- The claims of one record. -/
def claimsOf (kind i : Nat) (r : Bytes) : List Claim :=
  let c (cls res src : Nat) : Claim := { cls := cls, res := res, kind := kind, idx := i, src := src }
  match kind with
  | 0x06 => if 64 ≤ i then [] else ((List.range 8).filter (fun w => bit (fld r 1 1) w)).map (fun w => c 2 (i * 16 + w) (0x0500 + i))
  | 0x08 => (List.range (min 4 (fld r 6 1))).map (fun j => c 5 (fld r (24 + 4 * j) 1 * 65536 + fld r (26 + 4 * j) 2) (0x1000 + i))
  | 0x0B => match fld r 0 1 with
    | 1 => (List.range (fld r 10 2)).map (fun j => c 3 (fld r 1 1 * 4096 + fld r 8 2 + j) (0x0800 + fld r 1 1)) ++
        [c 4 (fld r 1 1 * 65536 + fld r 4 2) (0x0800 + fld r 1 1)]
    | 2 => [c 5 (fld r 1 1 * 65536 + fld r 4 2) (0x0880 + fld r 1 1)]
    | _ => []
  | 0x0D => if i < 8 ∧ bit (fld r 0 1) 1 then [c 6 i (0x0A00 + i)] else []
  | 0x0E => if i < 8 ∧ bit (fld r 0 1) 1 then [c 7 i (0x0B00 + i)] else []
  | 0x0F => if fld r 0 1 = 0 then [] else [c 1 (pinLand i) 0x0F00]
  | 0x10 =>
    if !bit (fld r 2 1) 0 then [] else
    let units := if i < 64 then (List.range 17).map (fun s => engineOf i s) else [0x0900 + (i - 64)]
    units.flatMap (fun u => ((List.range 24).filter (fun k => bit (fld r 4 3) k)).map (fun k => c 8 (u * 32 + k) (if i < 64 then 0x0500 + i else 0x0900 + (i - 64))))
  | 0x11 => (if fld r 0 1 = 2 ∨ bit (fld r 3 1) 1 then [c 1 (pinLand (12 + i)) (0x0E00 + i)] else []) ++
      (if fld r 0 1 = 0 then [] else [c 9 i (0x0E00 + i)])
  | _ => []

/-- Claims in the order of class, resource, section kind and record index (R120, R140). -/
def claimBefore (a b : Claim) : Bool :=
  decide (((a.cls * 2 ^ 32 + a.res) * 2 ^ 16 + a.kind) * 2 ^ 16 + a.idx ≤ ((b.cls * 2 ^ 32 + b.res) * 2 ^ 16 + b.kind) * 2 ^ 16 + b.idx)

/-- The conflicts among claims that stand in order: for each resource its first claim and the next one of another record. A resource that three
or more records claim counts as one failure, of the first two (R140 names two claimants; DESIGN CHOICE, log entry 49). -/
def conflicts (fuel : Nat) (l : List Claim) : List (Claim × Claim) :=
  match fuel with
  | 0 => []
  | f + 1 =>
    match l with
    | [] => []
    | a :: r =>
      let same := r.filter (fun b => b.cls == a.cls && b.res == a.res)
      let rest := r.filter (fun b => !(b.cls == a.cls && b.res == a.res))
      match same.find? (fun b => !(b.kind == a.kind && b.idx == a.idx)) with
      | some b => (a, b) :: conflicts f rest
      | none => conflicts f rest

/-- Claims that share their resource with a claim of another record; only they can conflict. -/
def sharedClaims (l : List Claim) : List Claim :=
  let s := l.mergeSort claimBefore
  let next (a b : Option Claim) : Bool := match a, b with | some x, some y => x.cls == y.cls && x.res == y.res | _, _ => false
  ((s.zip (List.range s.length)).filter (fun p => next (some p.1) s[p.2 + 1]? || (p.2 != 0 && next (some p.1) s[p.2 - 1]?))).map (fun p => p.1)

def conflictFails (b : Bytes) (recs : Tbl Bytes) : List Rej :=
  let l := sharedClaims (recs.flatMap (fun p => claimsOf (p.1 / 65536) (p.1 % 65536) p.2))
  (conflicts (l.length + 1) l).map (fun p =>
    { rejAt 2 0x0011 p.1.kind p.1.idx (recOff b p.1.kind p.1.idx) with cls := p.1.cls, res := p.1.res, a := (p.1.kind, p.1.idx, p.1.src), b := (p.2.kind, p.2.idx, p.2.src) })

/-- The record with which a sum of reservations first passes its capacity, in record order. -/
def overAt (cap acc : Nat) (l : List (Nat × Nat)) : Option Nat :=
  match l with
  | [] => none
  | (i, v) :: r => if cap < acc + v then some i else overAt cap (acc + v) r

/-- The reservations that pass a capacity (R109). R109 names no resource: the resource index of the rejection record is 0 in every class, also
where the capacity is one hub's (DESIGN CHOICE, log entry 49). -/
def overcommits (b : Bytes) (all : Recs) : List Rej :=
  let lease (kind off len : Nat) : List (Nat × Nat) := (List.range 256).map (fun n => (8 + n, fld (all kind (8 + n)) off len))
  let cap (kind hub each : Nat) : Nat := each * ((List.range 4).filter (fun k => bit (fld (all kind (4 * hub + k)) 0 1) 0)).length
  let has (kind : Nat) : Bool := (List.range 264).any (fun i => !(all kind i).isEmpty)
  let one (cls kind cap : Nat) (l : List (Nat × Nat)) : List Rej :=
    if !has kind then [] else
    match overAt cap 0 l with
    | some i => [{ rejAt 2 0x0012 kind i (recOff b kind i) with cls := cls, a := (kind, i, 0x1000 + i - 8) }]
    | none => []
  one 0x0A 0x0E 65536 (lease 0x0E 8 4) ++
    [0, 1].flatMap (fun h => one 0x0B 0x0D (cap 0x0D h 256) (lease 0x0D (2 + 2 * h) 2)) ++
    [0, 1].flatMap (fun h => one 0x0C 0x0E (cap 0x0E h 512) (lease 0x0E (2 + 2 * h) 2))

/-! ## Presence and health (R119, R121, R124, R491) -/

/-- The units that a record gives a role, the spare role included. -/
def namedUnits (all : Recs) (kind i : Nat) (r : Bytes) : List (Nat × Nat) :=
  match kind with
  | 0x01 => if bit (fld r 5 1) 0 then (1, i) :: (List.range 17).map (fun s => (2, engineOf i s)) else []
  | 0x04 => ((List.range 16).filter (homeNamed all)).map (fun h => (3, h))
  | 0x05 => if i < 12 ∧ fld r 0 1 ≠ 0 then [(4, i)] else []
  | 0x0C => if fld r 0 1 = 0 then [] else if i < 8 then [(6, i)] else [(7, i - 8)]
  | 0x0D => if i < 8 ∧ bit (fld r 0 1) 0 then [(9, i)] else []
  | 0x0E => if i < 8 ∧ bit (fld r 0 1) 0 then [(10, i)] else []
  | 0x12 => if homeNamed all i then [(3, i)] else []
  | _ => []

/-- A unit is healthy, as the check step finds it; `part` for a partial image, whose links and ports stand Offline. -/
def unitHealthy (m : Mach) (all : Recs) (part : Bool) (k i : Nat) : Bool :=
  ustate m k i != .failed &&
    match k with
    | 3 => !(home m i).lost || ustate m 3 i == .offline
    | 4 => (chan m i).trained && (chan m i).phase != .failed
    | 6 => part || (link m i).st == .up
    | 7 => part || (List.range (portLinks (all 0x0C (8 + i)))).all (fun j => (vget (pcie m i).links j { st := 0, speed := 0, width := 0 }).st == 2)
    | _ => true

/-- A DIMM that a channel record names is not there; a channel that did not end its training has not shown its DIMMs. -/
def dimmAbsent (m : Mach) (i : Nat) (r : Bytes) : Bool :=
  fld r 0 1 != 0 && (chan m i).phase != .reset && decide ((dimmsOf (chan m i)).length < fld r 2 1)

/-- The first item of R817 that is not met at start-up under a full image (items 1 to 7); 0 where all are. -/
def startUnmet (m : Mach) (all : Recs) : Nat :=
  if !m.pins.main || !([0, 1].any (hubServes m)) then 1
  else if (List.range 4).all (fun t => m.errs.tilesLost.contains t) then 2
  else if !((List.range 64).any (fun b => bit (fld (all 1 b) 5 1) 0 && (List.range 17).any (fun s =>
      ustate m 2 (engineOf b s) != .failed))) then 3
  else if !((List.range 16).any (fun h => homeNamed all h && unitHealthy m all false 3 h)) then 4
  else if !((List.range 4).any (fun s => decide (4 ≤ ((List.range 5).filter (fun p => unitHealthy m all false 4 (seamPos (all 5 (12 + s)) p / 2))).length))) then 5
  else if !([0, 1].any (fun i => (master m i).running && !(master m i).failed)) then 6
  else if m.svc.rom then 7
  else 0

/-- The units with a role that an image names and that are not healthy, in directory order, with the record that names each. -/
def sickUnits (m : Mach) (b : Bytes) (all : Recs) : List (Nat × Nat × Nat × Nat) :=
  let part := imgKind b == 1
  (((dirEntries b).flatMap (fun e => (entryRecords b e).flatMap (fun r =>
    (namedUnits all e.kind r.1 r.2.2).map (fun u => (u.1, u.2, e.kind, r.1))))).filter (fun u => !unitHealthy m all part u.1 u.2.1)).foldl
      (fun l u => if l.any (fun (v : Nat × Nat × Nat × Nat) => v.1 == u.1 && v.2.1 == u.2.1) then l else l ++ [u]) []

/-! ## The check step (R119, R120) -/

/-- A record names a unit, a DIMM or a partner port that is not there (R119): the module's own look at its DIMMs, and `gone`, the records
of which the boundary finds the unit or the partner port absent (log entry 50). -/
def recAbsent (m : Mach) (all : Recs) (gone : List (Nat × Nat)) (kind i : Nat) (r : Bytes) : Bool :=
  (kind == 5 && decide (i < 12) && dimmAbsent m i r) ||
    (gone.contains (kind, i) && (!(namedUnits all kind i r).isEmpty || (kind == 0x0B && fld r 0 1 != 0)))

/-- Every failure that the check step finds, in the order of R119. -/
def checkFails (m : Mach) (b : Bytes) (gone : List (Nat × Nat)) : List Rej :=
  let part := imgKind b == 1
  let recs := resulting m b
  let all := recsOf recs
  let es := dirEntries b
  let base := if part && imgBase b != (m.load.active >>> 32).toNat then [rejAt 2 0x000F 0 0xFFFF 12] else []
  let live := if !part then [] else
    ((es.zip (List.range es.length)).filter (fun p => !kindLive p.1.kind)).map (fun p => rejAt 2 0x0010 p.1.kind 0xFFFF (64 + 32 * p.2))
  let absent := es.flatMap (fun e =>
    ((entryRecords b e).filter (fun r => recAbsent m all gone e.kind r.1 r.2.2)).map (fun r => rejAt 2 0x0013 e.kind r.1 r.2.1))
  let sick := if !part && imgDegraded b then [] else (sickUnits m b all).map (fun u => rejAt 2 0x0014 u.2.2.1 u.2.2.2 (recOff b u.2.2.1 u.2.2.2))
  let unmet := if part then minUnmet m else startUnmet m all
  base ++ live ++ conflictFails b recs ++ overcommits b all ++ absent ++ sick ++ (if unmet = 0 then [] else [rejAt 2 0x0015 0 0xFFFF 0xFFFFFFFF])

end Sys2Proof.Machine
end

