-- ==== Sys2Proof/Machine/CohCmds.lean ====
section
/-! DEFINITION. The messages of the coherence protocol (R445 to R489) as they reach their destination, the returns of memory, the end of
a tenure, the time-out of a home node and the steps of a takeover. A message leaves the mesh when it arrives; one that was never sent
is served, or found to be an error (R468), like any other (log entry 41). -/

namespace Sys2Proof.Machine

/-! ## Virtual channels (R20, R450) -/

/-- The virtual channel of a message: 0 request, 1 snoop, 2 response, 3 data; the fifth, I/O, carries none of the protocol's. -/
def msgVc : Msg → Nat
  | .req _ r => (match r.op with | .wbM | .evE | .ioWr => 3 | _ => 0)
  | .snp _ _ _ _ _ => 1
  | .homeLost _ => 1
  | .shareOpen _ => 1
  | .done _ _ _ => 2
  | .ack _ _ _ => 2
  | .mirAck _ _ => 2
  | .rsp _ kind _ _ _ => if kind < 2 then 2 else 3
  | .data _ _ _ _ _ => 3
  | .ioData _ _ _ _ => 3
  | .mir _ _ _ _ _ => 3
  | .mirRel _ _ => 3

/-- Where a message comes from and goes to, as source numbers. -/
def msgPath (m : Mach) : Msg → Nat × Nat
  | .req h r => (r.src, 0x0600 + h)
  | .done h _ b => (0x0500 + b, 0x0600 + h)
  | .snp b _ n _ _ => (0x0600 + homeOf m n, 0x0500 + b)
  | .rsp h _ _ b _ => (0x0500 + b, 0x0600 + h)
  | .data b _ n _ _ => (0x0600 + homeOf m n, 0x0500 + b)
  | .ack dst _ n => (0x0600 + homeOf m n, dst)
  | .ioData dst n _ _ => (0x0600 + homeOf m n, dst)
  | .mir h _ o _ _ => (0x0600 + o, 0x0600 + h)
  | .mirRel h n => (0x0600 + homeOf m n, 0x0600 + h)
  | .mirAck h _ => (0x0600 + buddyOf m h, 0x0600 + h)
  | .homeLost _ => (0x0F00, 0x0F00)
  | .shareOpen _ => (0x0F00, 0x0F00)

/-- A message stands behind an older one of its virtual channel between the same two stops, which its receiver could take: it is not there yet
(log entry 41). -/
def behind (m : Mach) (p : Msg → Bool) : Bool :=
  match m.mesh.find? p with
  | none => false
  | some x => (m.mesh.takeWhile (fun y => !p y)).any (fun y => msgVc y == msgVc x && msgPath m y == msgPath m x && takable m y)

/-! ## Taking a message out of the mesh -/

/-- The first message that satisfies a test is taken out of the mesh. -/
def takeMsg (m : Mach) (p : Msg → Bool) : Mach := { m with mesh := m.mesh.eraseP p }

/-- A message reaches its receiver, in the order of its virtual channel. -/
def arrive (m : Mach) (p : Msg → Bool) (k : Mach → Mach) : Mach := if behind m p then m else k (takeMsg m p)

/-- A message is the request. -/
def isReq (r : HReq) (x : Msg) : Bool := match x with | .req _ y => y == r | _ => false

/-- A message is an eviction notice of a bench, whatever lease it carries. -/
def isEvict (op : ReqOp) (n b : Nat) (d : Line) (poison : Bool) (x : Msg) : Bool :=
  match x with
  | .req _ y => y.op == op && y.n == n && y.src == 0x0500 + b && y.data == d && y.poison == poison
  | _ => false

/-- A message is the snoop. -/
def isSnoop (b : Nat) (op : SnpOp) (n : Nat) (maint incl : Bool) (x : Msg) : Bool :=
  match x with
  | .snp b' op' n' f g => b' == b && op' == op && n' == n && (op == .snpS || op == .snpCln || (f == maint && g == incl))
  | _ => false

/-- A message is the snoop response. -/
def isRsp (n b kind : Nat) (d : Option (Line × Bool)) (x : Msg) : Bool :=
  match x with | .rsp _ k n' b' d' => k == kind && n' == n && b' == b && d' == d | _ => false

/-- A message is a bench's Done for a line. -/
def isDone (n b : Nat) (x : Msg) : Bool := match x with | .done _ n' b' => n' == n && b' == b | _ => false

/-- A message is a mirror on its way to a home node. -/
def isMir (h n : Nat) (d : Line) (poison : Bool) (x : Msg) : Bool :=
  match x with | .mir h' n' _ d' p' => h' == h && n' == n && d' == d && p' == poison | _ => false

/-- A message is a mirror's acknowledgement. -/
def isMirAck (n : Nat) (x : Msg) : Bool := match x with | .mirAck _ n' => n' == n | _ => false

/-- A request reaches the home node of its line, once that has a tracker for it (R449); its flags and data are those of the message where the mesh
holds it. -/
def arriveReq (m : Mach) (r : HReq) : Mach :=
  if homeFull m (homeOf m r.n) && m.mesh.any (isReq r) then m else arrive m (isReq r) (fun m => homeReq m (homeOf m r.n) r)

/-- An eviction notice reaches the home; it carries the lease of the line's access as the sender put it there. -/
def arriveEvict (m : Mach) (op : ReqOp) (n b : Nat) (d : Line) (poison : Bool) : Mach :=
  let is := isEvict op n b d poison
  let ls := match m.mesh.find? is with | some (.req _ y) => y.lease | _ => 0
  if homeFull m (homeOf m n) && m.mesh.any is then m else
  arrive m is (fun m => homeReq m (homeOf m n)
    { op := op, n := n, src := 0x0500 + b, lease := ls, self := false, incl := false, mask := 0, data := d, poison := poison })

/-- A bench's request without data. -/
def benchReqOf (op : ReqOp) (n b l : Nat) : HReq :=
  { op := op, n := n, src := 0x0500 + b, lease := l, self := false, incl := false, mask := 0, data := 0, poison := false }

/-- A snoop reaches a bench. -/
def arriveSnoop (m : Mach) (b : Nat) (op : SnpOp) (n : Nat) (maint incl : Bool) : Mach :=
  arrive m (isSnoop b op n maint incl) (fun m => benchSnoop m b n op maint incl)

/-- A snoop response reaches the home. -/
def arriveRsp (m : Mach) (n b kind : Nat) (d : Option (Line × Bool)) : Mach :=
  arrive m (isRsp n b kind d) (fun m => homeRsp m n b kind d)

/-- The access of an engine that asked for a line is performed at the fill (R456). -/
def accessAt (cause : Option (Nat × Nat)) (n : Nat) (m : Mach) : Mach :=
  match cause with
  | none => m
  | some (e, 0) => if (eng m e).fetch = some n then fetchArrives m e else m
  | some (e, op) =>
    match opOf m e op with
    | none => m
    | some o =>
      match o.kind with
      | .load sgn => loadDone m e o sgn
      | .ldx => loadDone m e o false
      | .store => storeDone m e o
      | .mac _ => macLineDone m e o
      | k => if isAtomic k then atomicDone m e o else m

/-- What asked for a line that a bench waits for. -/
def causeOf (m : Mach) (b n : Nat) : Option (Nat × Nat) := (lineAt m b n).bind (fun x => x.cause)

/-- A grant with data reaches the bench; where the fill waits, the message stays. -/
def arriveData (m : Mach) (b n kind : Nat) (d : Line) (poison : Bool) : Mach :=
  if fillWaits m b n kind then m else
  arrive m (fun x => x == .data b kind n d poison) (fun m => fillLine m b n kind d poison (accessAt (causeOf m b n) n))

/-- An acknowledgement reaches its receiver. Kinds: 0 WbAck, 1 WbStale, 2 IoAck, 3 MntAck, 4 GrantM. -/
def arriveAck (m : Mach) (dst kind n : Nat) (k : Mach → Mach) : Mach := arrive m (fun x => x == .ack dst kind n) k

/-- MntAck at an engine: the oldest maintenance trigger on the line completes (R463); at a bench: its own operation goes on. -/
def arriveMntAck (m : Mach) (src n : Nat) : Mach :=
  arriveAck m src 3 n (fun m =>
    let mine (o : MemOp) : Bool := o.pa / 256 == n && (match o.kind with | .maint _ => true | _ => false)
    match (if src < 0x0440 then (eng m src).memops.find? mine else none) with
    | some o => opDone m src o
    | none => m)

/-! ## Requests -/

/-- RDS (R450, R465). -/
def execRds (n : LineNo) (b : BenchId) (l : LeaseId) (s : State) : Host.Outcome State Fault Refusal :=
  runMesh s (fun m => arriveReq m (benchReqOf .rdS n.toNat b.val l.val))
/-- RDX (R450, R465). -/
def execRdx (n : LineNo) (b : BenchId) (l : LeaseId) (s : State) : Host.Outcome State Fault Refusal :=
  runMesh s (fun m => arriveReq m (benchReqOf .rdX n.toNat b.val l.val))
/-- UPG (R450, R465). -/
def execUpg (n : LineNo) (b : BenchId) (l : LeaseId) (s : State) : Host.Outcome State Fault Refusal :=
  runMesh s (fun m => arriveReq m (benchReqOf .upg n.toNat b.val l.val))

/-- A maintenance request (R451, R463, R465). -/
def mntReq (op : ReqOp) (n : LineNo) (src : Source) (l : LeaseId) (self incl : Bool) : HReq :=
  { op := op, n := n.toNat, src := src.toNat, lease := l.val, self := self, incl := incl, mask := 0, data := 0, poison := false }

/-- MNTC: clean by address (R412, R465). -/
def execMntc (n : LineNo) (src : Source) (l : LeaseId) (self incl : Bool) (s : State) : Host.Outcome State Fault Refusal :=
  runMesh s (fun m => arriveReq m (mntReq .mntC n src l self incl))
/-- MNTI: invalidate by address (R412, R465). -/
def execMnti (n : LineNo) (src : Source) (l : LeaseId) (self incl : Bool) (s : State) : Host.Outcome State Fault Refusal :=
  runMesh s (fun m => arriveReq m (mntReq .mntI n src l self incl))
/-- MNTCI: clean and invalidate by address (R412, R465). -/
def execMntci (n : LineNo) (src : Source) (l : LeaseId) (self incl : Bool) (s : State) : Host.Outcome State Fault Refusal :=
  runMesh s (fun m => arriveReq m (mntReq .mntCI n src l self incl))
/-- IORD: a unit that holds no line reads one (R22, R465). -/
def execIord (n : LineNo) (src : Source) (l : LeaseId) (s : State) : Host.Outcome State Fault Refusal :=
  runMesh s (fun m => arriveReq m (mntReq .ioRd n src l false false))
/-- IOWR: a unit that holds no line writes bytes of one (R22, R465). -/
def execIowr (n : LineNo) (src : Source) (l : LeaseId) (mask : BitVec 256) (d : Line) (poison : Bool) (s : State) : Host.Outcome State Fault Refusal :=
  runMesh s (fun m => arriveReq m { mntReq .ioWr n src l false false with mask := mask, data := d, poison := poison })
/-- WBM: a dirty line is written back (R465, R469). -/
def execWbm (n : LineNo) (b : BenchId) (d : Line) (poison : Bool) (s : State) : Host.Outcome State Fault Refusal :=
  runMesh s (fun m => arriveEvict m .wbM n.toNat b.val d poison)
/-- EVE: a clean line is evicted from E (R465, R469). -/
def execEve (n : LineNo) (b : BenchId) (d : Line) (poison : Bool) (s : State) : Host.Outcome State Fault Refusal :=
  runMesh s (fun m => arriveEvict m .evE n.toNat b.val d poison)
/-- DONE: a grant has been applied (R455, R467). -/
def execDone (n : LineNo) (b : BenchId) (s : State) : Host.Outcome State Fault Refusal :=
  runMesh s (fun m => arrive m (isDone n.toNat b.val) (fun m => homeDone m n.toNat b.val))

/-! ## Snoops and their responses -/

/-- SNPS (R460). -/
def execSnps (b : BenchId) (n : LineNo) (s : State) : Host.Outcome State Fault Refusal :=
  runMesh s (fun m => arriveSnoop m b.val .snpS n.toNat false false)
/-- SNPX (R456, R460, R462). -/
def execSnpx (b : BenchId) (n : LineNo) (maint incl : Bool) (s : State) : Host.Outcome State Fault Refusal :=
  runMesh s (fun m => arriveSnoop m b.val .snpX n.toNat maint incl)
/-- SNPCLN (R460, R461). -/
def execSnpcln (b : BenchId) (n : LineNo) (s : State) : Host.Outcome State Fault Refusal :=
  runMesh s (fun m => arriveSnoop m b.val .snpCln n.toNat false false)
/-- SNPDROP (R456, R460, R462). -/
def execSnpdrop (b : BenchId) (n : LineNo) (maint incl : Bool) (s : State) : Host.Outcome State Fault Refusal :=
  runMesh s (fun m => arriveSnoop m b.val .snpDrop n.toNat maint incl)

/-- RSPI: no data; the bench now holds I (R466). -/
def execRspi (n : LineNo) (b : BenchId) (s : State) : Host.Outcome State Fault Refusal := runMesh s (fun m => arriveRsp m n.toNat b.val 0 none)
/-- RSPK: no data; the bench keeps its state (R466). -/
def execRspk (n : LineNo) (b : BenchId) (s : State) : Host.Outcome State Fault Refusal := runMesh s (fun m => arriveRsp m n.toNat b.val 1 none)
/-- RSPD: dirty data; the bench now holds I (R466). -/
def execRspd (n : LineNo) (b : BenchId) (d : Line) (poison : Bool) (s : State) : Host.Outcome State Fault Refusal :=
  runMesh s (fun m => arriveRsp m n.toNat b.val 2 (some (d, poison)))
/-- RSPC: clean data; the bench now holds I (R466). -/
def execRspc (n : LineNo) (b : BenchId) (d : Line) (poison : Bool) (s : State) : Host.Outcome State Fault Refusal :=
  runMesh s (fun m => arriveRsp m n.toNat b.val 3 (some (d, poison)))
/-- RSPDO: dirty data; the bench holds O (R466). -/
def execRspdo (n : LineNo) (b : BenchId) (d : Line) (poison : Bool) (s : State) : Host.Outcome State Fault Refusal :=
  runMesh s (fun m => arriveRsp m n.toNat b.val 4 (some (d, poison)))
/-- RSPCS: clean data; the bench holds S (R466). -/
def execRspcs (n : LineNo) (b : BenchId) (d : Line) (poison : Bool) (s : State) : Host.Outcome State Fault Refusal :=
  runMesh s (fun m => arriveRsp m n.toNat b.val 5 (some (d, poison)))
/-- RSPDS: dirty data; the bench now holds S (R466). -/
def execRspds (n : LineNo) (b : BenchId) (d : Line) (poison : Bool) (s : State) : Host.Outcome State Fault Refusal :=
  runMesh s (fun m => arriveRsp m n.toNat b.val 6 (some (d, poison)))
/-- RSPDE: dirty data; the bench now holds E (R466). -/
def execRspde (n : LineNo) (b : BenchId) (d : Line) (poison : Bool) (s : State) : Host.Outcome State Fault Refusal :=
  runMesh s (fun m => arriveRsp m n.toNat b.val 7 (some (d, poison)))

/-! ## Grants and acknowledgements -/

/-- DATAS: a grant in S (R456, R459). -/
def execDatas (b : BenchId) (n : LineNo) (d : Line) (poison : Bool) (s : State) : Host.Outcome State Fault Refusal :=
  runMesh s (fun m => arriveData m b.val n.toNat 0 d poison)
/-- DATAE: a grant in E (R456, R459). -/
def execDatae (b : BenchId) (n : LineNo) (d : Line) (poison : Bool) (s : State) : Host.Outcome State Fault Refusal :=
  runMesh s (fun m => arriveData m b.val n.toNat 1 d poison)
/-- DATAM: a grant in M (R456, R459). -/
def execDatam (b : BenchId) (n : LineNo) (d : Line) (poison : Bool) (s : State) : Host.Outcome State Fault Refusal :=
  runMesh s (fun m => arriveData m b.val n.toNat 2 d poison)
/-- GRANTM: an upgrade is granted (R456, R459). -/
def execGrantm (b : BenchId) (n : LineNo) (s : State) : Host.Outcome State Fault Refusal :=
  runMesh s (fun m => arriveAck m (0x0500 + b.val) 4 n.toNat (fun m => grantLine m b.val n.toNat (accessAt (causeOf m b.val n.toNat) n.toNat)))
/-- WBACK: an eviction is accepted (R459). -/
def execWback (b : BenchId) (n : LineNo) (s : State) : Host.Outcome State Fault Refusal :=
  runMesh s (fun m => arriveAck m (0x0500 + b.val) 0 n.toNat (fun m => benchWbAck m b.val n.toNat))
/-- WBSTALE: an eviction was stale (R459, R469). -/
def execWbstale (b : BenchId) (n : LineNo) (s : State) : Host.Outcome State Fault Refusal :=
  runMesh s (fun m => arriveAck m (0x0500 + b.val) 1 n.toNat (fun m => benchWbStale m b.val n.toNat))
/-- IODATA: data reaches the unit that asked (R450). -/
def execIodata (src : Source) (n : LineNo) (d : Line) (poison : Bool) (s : State) : Host.Outcome State Fault Refusal :=
  runMesh s (fun m => arrive m (fun x => x == .ioData src.toNat n.toNat d poison) id)
/-- IOACK: a unit's write is complete (R450). -/
def execIoack (src : Source) (n : LineNo) (s : State) : Host.Outcome State Fault Refusal := runMesh s (fun m => arriveAck m src.toNat 2 n.toNat id)
/-- MNTACK: maintenance is complete (R463). -/
def execMntack (src : Source) (n : LineNo) (s : State) : Host.Outcome State Fault Refusal := runMesh s (fun m => arriveMntAck m src.toNat n.toNat)

/-! ## Mirrors (R471 to R474) -/

/-- MIR at the buddy (R471). -/
def execMir (h : HomeId) (n : LineNo) (d : Line) (poison : Bool) (s : State) : Host.Outcome State Fault Refusal :=
  runMesh s (fun m => arrive m (isMir h.val n.toNat d poison) (fun m => buddyMir m h.val n.toNat d poison))
/-- MIRREL at the buddy (R474). -/
def execMirrel (h : HomeId) (n : LineNo) (s : State) : Host.Outcome State Fault Refusal :=
  runMesh s (fun m => arrive m (fun x => x == .mirRel h.val n.toNat) (fun m => buddyMirRel m h.val n.toNat))
/-- MIRACK at the home (R471). -/
def execMirack (n : LineNo) (s : State) : Host.Outcome State Fault Refusal :=
  runMesh s (fun m => arrive m (isMirAck n.toNat) (fun m => homeMirAck m n.toNat))

/-! ## What the home waits for -/

/-- HR_READ_RETURN: a home's read comes back (R467). -/
def execHrReadReturn (n : LineNo) (s : State) : Host.Outcome State Fault Refusal := runMesh s (fun m => homeReadBack m n.toNat)
/-- HW_WRITE_COMPLETE: a home's write is complete (R467, R471, R473). -/
def execHwWriteComplete (n : LineNo) (s : State) : Host.Outcome State Fault Refusal := runMesh s (fun m => homeWriteDone m n.toNat)
/-- TENURE_END: a tenure is over; a deferred snoop is answered (R456). -/
def execTenureEnd (b : BenchId) (n : LineNo) (s : State) : Host.Outcome State Fault Refusal := runMesh s (fun m => tenureOver m b.val n.toNat)
/-- SNOOP_TIMEOUT: 50 µs without a response or Done (R468). -/
def execSnoopTimeout (n : LineNo) (s : State) : Host.Outcome State Fault Refusal := runMesh s (fun m => homeTimeout m n.toNat)

/-! ## Takeover (R475 to R477) -/

/-- The report that a bench sends for a line (R476). -/
def reportOf (x : L2Line) : Option Report :=
  match x.st with
  | .s | .smA => some .shared
  | .e | .eiA => some (.exclusive x.data)
  | .o | .omA | .oiA => some (.owned x.data x.poison)
  | .m | .miA => some (.modified x.data x.poison)
  | .iiA => some (.handed x.data x.poison)
  | .isD | .imD => none

/-- HOME_LOST at a bench: it reports its lines of the lost share (R475 step 3, R476). -/
def benchReports (m : Mach) (b h : Nat) : Mach :=
  if !(home m h).lost then m else
  (l2 m b).lines.foldl (fun m p =>
    if ownHome m p.1 = h then (match reportOf p.2 with | some r => takeoverReportAt m h b p.1 r | none => m) else m) m

/-- SHARE_OPEN: the takeover is complete (R475 step 5); its record says how many lines the buddy has adopted. -/
def shareOpens (m : Mach) (h : Nat) : Mach :=
  let b := buddyOf m h
  if !((home m h).lost && (home m b).st == .takingOver && (home m b).takeoverOf == h) then m else
  let (m, n) := homeTakeoverEnd m h
  let m := takeMsg (takeMsg m (fun x => x == .shareOpen h)) (fun x => x == .homeLost h)
  endRecovery (raiseErrD m 0x0032 (0x0600 + h) (0x0600 + b) (le 1 h ++ le 1 b ++ le 2 0 ++ le 4 n) none none 0) (.home h)

/-- HOME_LOST (R475). -/
def execHomeLost (b : BenchId) (h : HomeId) (s : State) : Host.Outcome State Fault Refusal := runMesh s (fun m => benchReports m b.val h.val)
/-- TAKEOVER_REPORT (R476). -/
def execTakeoverReport (h : HomeId) (b : BenchId) (n : LineNo) (r : Report) (s : State) : Host.Outcome State Fault Refusal :=
  runMesh s (fun m => if (home m h.val).lost then takeoverReportAt m h.val b.val n.toNat r else m)
/-- SHARE_OPEN (R475, R477). -/
def execShareOpen (h : HomeId) (s : State) : Host.Outcome State Fault Refusal := runMesh s (fun m => shareOpens m h.val)

end Sys2Proof.Machine
end

