-- ==== Sys2Proof/Machine/EvtCmds.lean ====
section
/-! DEFINITION. The commands of events and time (R761 to R787). -/

namespace Sys2Proof.Machine

/-- EVENT_RELEASE: the active block releases the first event of the window (R773, R778, R783). No step of Hold stops the event
blocks (log entry 39). -/
def execEventRelease (s : State) : Host.Outcome State Fault Refusal := runAlive s releaseNext
/-- EVT_BLOCK_TAKEOVER: the other block takes over (R774). -/
def execEvtBlockTakeover (s : State) : Host.Outcome State Fault Refusal := runAlive s evtTakeover
/-- SPILL_RECHECK: a lease's ring is read again for its spilled events (R782). -/
def execSpillRecheck (l : LeaseId) (s : State) : Host.Outcome State Fault Refusal := runAlive s (fun m => spillRecheck m l.val)
/-- PTP_SYNC (R768). -/
def execPtpSync (p : PtpMsg) (s : State) : Host.Outcome State Fault Refusal := runAlive s (fun m => ptpSync m p)
/-- PTP_FOLLOW_UP (R768). -/
def execPtpFollowUp (p : PtpMsg) (s : State) : Host.Outcome State Fault Refusal := runAlive s (fun m => ptpFollowUp m p)
/-- PTP_ANNOUNCE (R768). -/
def execPtpAnnounce (p : PtpMsg) (d : PtpData) (s : State) : Host.Outcome State Fault Refusal := runAlive s (fun m => ptpAnnounce m p d)
/-- PTP_DELAY_RESP (R768, R770). -/
def execPtpDelayResp (p : PtpMsg) (s : State) : Host.Outcome State Fault Refusal := runAlive s (fun m => ptpDelayResp m p)
/-- PPS_EDGE: a rising edge at a hub's TS_PPS (R769). -/
def execPpsEdge (h : HubId) (stamp : Word) (s : State) : Host.Outcome State Fault Refusal := runAlive s (fun m => ppsEdge m h.val stamp)
/-- DISCIPLINE_INPUT_ABSENT: four samples in a row are missing (R770). -/
def execDisciplineInputAbsent (h : HubId) (s : State) : Host.Outcome State Fault Refusal := runAlive s (fun m => inputAbsent m h.val)
/-- TS_DISTRIBUTION_PULSE: a value written to `TS_SET` takes effect (R762, R765). -/
def execTsDistributionPulse (s : State) : Host.Outcome State Fault Refusal := runAlive s distribute

/-- TS_SET (R765): only the service controller writes it, and only before START is over. -/
def tsSetWrite (a : Actor) (hub : Nat) (v : Word) (m : Mach) : Mach :=
  if !alive m then m
  else if !unitHasRole m 0x0D hub then refuseAccess m a (regAddr 0x0D hub 0x0108) 5
  else match a with
    | .lease _ => refuseAccess m a (regAddr 0x0D hub 0x0108) 4
    | .service => if startUp m then tsSetNow m v else refuseAccess m a (regAddr 0x0D hub 0x0108) 5

def execTsSet (a : Actor) (hub : HubId) (v : Word) (s : State) : Host.Outcome State Fault Refusal := runM s (tsSetWrite a hub.val v)

/-- TS_ADJ (R765): a signed offset that the counters slew to; a new write replaces what remains. -/
def execTsAdj (a : Actor) (hub : HubId) (v : Word) (s : State) : Host.Outcome State Fault Refusal :=
  runM s (ctlWrite a 0x0D hub.val 0x0110 (fun m => tsAdjNow m v))

end Sys2Proof.Machine
end

