-- ==== Sys2Proof/Machine/LeaseCmds.lean ====
section
/-! DEFINITION. The commands of leases (R717 to R760, R869): writes of `LEASE_CMD`, `LEASE_SPAWN` and `LEASE_TLB_INVAL`, and the
events that end what they begin. -/

namespace Sys2Proof.Machine

/-- LEASE_CREATE: code 1 of `LEASE_CMD` (R718, R757). -/
def execLeaseCreate (a : Actor) (l : LeaseId) (s : State) : Host.Outcome State Fault Refusal :=
  runM s (ctlWrite a 0x0C l.val 0x0100 (fun m => leaseCmd m l.val 0 1))
/-- LEASE_START: code 2 (R718). -/
def execLeaseStart (a : Actor) (l : LeaseId) (s : State) : Host.Outcome State Fault Refusal :=
  runM s (ctlWrite a 0x0C l.val 0x0100 (fun m => leaseCmd m l.val 0 2))
/-- LEASE_QUIESCE: code 3 (R718, R744). -/
def execLeaseQuiesce (a : Actor) (l : LeaseId) (s : State) : Host.Outcome State Fault Refusal :=
  runM s (ctlWrite a 0x0C l.val 0x0100 (fun m => leaseCmd m l.val 0 3))
/-- LEASE_RESUME: code 4 (R718). -/
def execLeaseResume (a : Actor) (l : LeaseId) (s : State) : Host.Outcome State Fault Refusal :=
  runM s (ctlWrite a 0x0C l.val 0x0100 (fun m => leaseCmd m l.val 0 4))
/-- LEASE_RESET: code 5, with a key (R718, R720). -/
def execLeaseReset (a : Actor) (l : LeaseId) (key : BitVec 16) (s : State) : Host.Outcome State Fault Refusal :=
  runM s (ctlWrite a 0x0C l.val 0x0100 (fun m => leaseCmd m l.val key.toNat 5))
/-- LEASE_FORCED_RESET: code 6, with a key (R718, R748). -/
def execLeaseForcedReset (a : Actor) (l : LeaseId) (key : BitVec 16) (s : State) : Host.Outcome State Fault Refusal :=
  runM s (ctlWrite a 0x0C l.val 0x0100 (fun m => leaseCmd m l.val key.toNat 6))
/-- LEASE_REMOVE: code 7, with a key (R718, R751). -/
def execLeaseRemove (a : Actor) (l : LeaseId) (key : BitVec 16) (s : State) : Host.Outcome State Fault Refusal :=
  runM s (ctlWrite a 0x0C l.val 0x0100 (fun m => leaseCmd m l.val key.toNat 7))
/-- LEASE_CMD_RESERVED: 0 and 8 to 15 change no lease state and set CMD_RESULT to 10 (R757); a code of another row is that row's
command. -/
def execLeaseCmdReserved (a : Actor) (l : LeaseId) (key : BitVec 16) (code : BitVec 4) (s : State) : Host.Outcome State Fault Refusal :=
  runM s (ctlWrite a 0x0C l.val 0x0100 (fun m => leaseCmd m l.val key.toNat code.toNat))
/-- LEASE_PENDING_CLEARED: the last pending class clears (R718, R721, R744 to R751). -/
def execLeasePendingCleared (l : LeaseId) (s : State) : Host.Outcome State Fault Refusal := runUnits s (fun m => pendCleared m l.val)
/-- LEASE_SPAWN: a write of `LEASE_SPAWN` (R760, R869). -/
def execLeaseSpawn (a : Actor) (l : LeaseId) (v : Word) (s : State) : Host.Outcome State Fault Refusal :=
  runM s (ctlWrite a 0x0C l.val 0x0138 (fun m => leaseSpawn m l.val v))
/-- LEASE_TLB_INVAL: a write of `LEASE_TLB_INVAL` (R730, R760). -/
def execLeaseTlbInval (a : Actor) (l : LeaseId) (v : Word) (s : State) : Host.Outcome State Fault Refusal :=
  runM s (ctlWrite a 0x0C l.val 0x0128 (fun m => tlbInval m l.val v))
/-- TLB_INVAL_COMPLETE: BUSY clears once no unit holds a translation named (R730). -/
def execTlbInvalComplete (l : LeaseId) (s : State) : Host.Outcome State Fault Refusal := runAlive s (fun m => tlbInvalDone m l.val)

end Sys2Proof.Machine
end

