-- ==== Sys2Proof/Machine/LinkCmds.lean ====
section
/-! DEFINITION. The commands of the links, frame queues, PCIe ports and of Helar (R589 to R644). -/

namespace Sys2Proof.Machine

/-- LINK_ONLINE, LINK_OFFLINE: `LINK_CTL` 1 and 2 (R592, R640). -/
def execLinkOnline (a : Actor) (l : LinkId) (s : State) : Host.Outcome State Fault Refusal :=
  runM s (ctlWrite a 0x06 l.val 0x0100 (fun m => linkCmd m l.val 1))

/-- FRAME_RECEIVE (R590, R594, R601). -/
def execFrameReceive (l : LinkId) (f : Bytes) (fcs : Bool) (s : State) : Host.Outcome State Fault Refusal :=
  runMesh s (fun m => receiveFrame m l.val f fcs)
/-- FRAME_TRANSMIT (R605, R606). -/
def execFrameTransmit (l : LinkId) (s : State) : Host.Outcome State Fault Refusal := runUnits s (fun m => transmitFrame m l.val)

/-- COALESCE_TIMEOUT: COALESCE_US have passed since the first descriptor not yet signalled was completed (R603). -/
def coalesceTimeout (m : Mach) (l q : Nat) : Mach :=
  let x := fq m l q
  if x.unsignalled = 0 ∨ m.now < x.firstAt + 1000 * bits (fqCtl m l q) 7 0 then m
  else fqSignal m (bits (fqCtl m l q) 58 56) l q

def execCoalesceTimeout (l : LeaseId) (q : Fin 16) (s : State) : Host.Outcome State Fault Refusal :=
  runUnits s (fun m => coalesceTimeout m l.val q.val)

/-- LINK_UP: lock has been held for 1 ms (R592). -/
def linkComesUp (m : Mach) (l : Nat) : Mach :=
  if (link m l).st = .training then setLinkState (modLink m l (fun x => { x with attempts := 0 })) l .up else m

def execLinkUp (l : LinkId) (s : State) : Host.Outcome State Fault Refusal :=
  runM s (fun m => if alive m && m.mode.st != .bare && m.mode.st != .test then linkComesUp m l.val else m)

/-- TRAINING_ATTEMPT_TIMEOUT: 500 ms in Training (R592). -/
def trainingAttemptTimeout (m : Mach) (l : Nat) : Mach :=
  if (link m l).st = .training ∧ (link m l).since + 500000000 ≤ m.now then linkAttemptFailed m l else m

def execTrainingAttemptTimeout (l : LinkId) (s : State) : Host.Outcome State Fault Refusal :=
  runAlive s (fun m => trainingAttemptTimeout m l.val)

/-- LINK_DOWN: lock is lost; the link's Helar paths fail, and training restarts at once (R592). -/
def linkGoesDown (m : Mach) (l : Nat) : Mach :=
  if (link m l).st ≠ .up then m else
  let m := setLinkState m l .down
  setLinkState (linkPathsFail m l 1) l .training

/-- PAUSE_REPEAT: in Hold an Up link repeats PAUSE, or PFC on every priority, with quanta 0xFFFF every 200 µs (R607). -/
def pauseAgain (m : Mach) (l : Nat) : Mach :=
  if m.mode.st = .hold ∧ (link m l).st = .up ∧ (link m l).pauseAt + 200000 ≤ m.now then
    emit (modLink m l (fun x => { x with pauseAt := m.now })) (.pause l (bit (imgFld m 0x000C l 1 1) 2) 0xFFFF)
  else m

def execPauseRepeat (l : LinkId) (s : State) : Host.Outcome State Fault Refusal := runM s (fun m => pauseAgain m l.val)

/-- PCIE_DMA_REQUEST (R610). -/
def execPcieDmaRequest (p : PcieId) (rid : BitVec 16) (write : Bool) (addr : Word) (len : Nat) (data : Bytes) (s : State) :
    Host.Outcome State Fault Refusal :=
  runUnits s (fun m => pcieDma m p.val rid.toNat write addr.toNat len data)

/-- MSIX_MESSAGE (R611): to `PCIE_MSI_ADDR`, an event of the function's lease; a write elsewhere is a DMA request. -/
def msixIn (m : Mach) (p rid addr data : Nat) : Mach :=
  if addr ≠ regAddr 0x07 p 0 + 0x80000 then pcieDma m p rid true addr 4 (le 4 data)
  else if data / 4096 ≠ 0 then modPcie m p (fun x => { x with msixDrops := sat 0xFFFF (x.msixDrops + 1) })
  else match functionLease m p rid with
    | some l => raiseEvent m 0x06 (0x0880 + p) l data (le 2 rid)
    | none => if (functionPath m p rid).isSome then m else dmaFault m p rid none addr

def execMsixMessage (p : PcieId) (rid : BitVec 16) (addr : Word) (data : BitVec 32) (s : State) : Host.Outcome State Fault Refusal :=
  runUnits s (fun m => msixIn m p.val rid.toNat addr.toNat data.toNat)

/-- PCIE_LINK_DOWN (R613): the link's NVMe paths fail, and it retrains at once. -/
def pcieLinkDownNow (m : Mach) (p j : Nat) (aer : Option (BitVec 32)) : Mach :=
  let d := vget (pcie m p).links j { st := 0, speed := 0, width := 0 }
  if d.st ≠ 2 then m else
  let m := modPcie m p (fun x => { x with links := vset x.links j { d with st := 1 },
                                          uncorr := if aer.isSome then sat 0xFFFF (x.uncorr + 1) else x.uncorr })
  let m := portPathsFail m p (some (imgFld m 0x000C (8 + p) (4 + j) 1)) 1
  match aer with
  | some v => raiseErr m 0x0072 (0x0880 + p) (le 1 j ++ le 3 0 ++ le 4 v.toNat)
  | none => raiseErr m 0x0071 (0x0880 + p) (le 1 j)

/-- The downstream links that a bifurcation uses (R608, R637). -/
def downLinks (split : Nat) : Nat := match split with | 1 => 1 | 2 => 2 | 3 => 4 | _ => 0

/-- PCIE_LINK_UP: a downstream link in use that trains reaches L0 with a speed within the record's limit and a width that its share of the
lanes allows (R608, R643). -/
def pcieLinkUpNow (m : Mach) (p j speed width : Nat) : Mach :=
  let limit := imgFld m 0x000C (8 + p) 1 1
  let n := downLinks (imgFld m 0x000C (8 + p) 0 1)
  let trains := (vget (pcie m p).links j { st := 0, speed := 0, width := 0 }).st == 1
  if n ≤ j ∨ !trains ∨ limit < speed ∨ speed = 0 ∨ (width ≠ 1 ∧ width ≠ 4 ∧ width ≠ 8 ∧ width ≠ 16) ∨ 16 < n * width then m
  else modPcie m p (fun x => { x with links := vset x.links j { st := 2, speed := speed, width := width } })

def execPcieLinkUp (p : PcieId) (j : Fin 4) (speed : BitVec 4) (width : Byte) (s : State) : Host.Outcome State Fault Refusal :=
  runM s (fun m => if alive m && m.mode.st != .bare && m.mode.st != .test then pcieLinkUpNow m p.val j.val speed.toNat width.toNat else m)

/-- The requester ID that `PCIE_CFG_ADDR` names (R643). -/
def cfgRid (m : Mach) (p : Nat) : Nat := bits (pcie m p).cfgAddr.toNat 31 16

/-- PCIE_CFG_READ (R612): a configuration read of the register that `PCIE_CFG_ADDR` names; one that ends in error returns all ones
and sets FAILED. -/
def cfgReadNow (m : Mach) (p : Nat) (answer : Option (BitVec 32)) : Mach :=
  let m := emit m (.cfgRead p (bits (pcie m p).cfgAddr.toNat 31 0))
  modPcie m p (fun x => { x with cfgFailed := answer.isNone, cfgData := (answer.getD 0xFFFFFFFF#32).setWidth 64 })

def execPcieCfgRead (a : Actor) (p : PcieId) (answer : Option (BitVec 32)) (s : State) : Host.Outcome State Fault Refusal :=
  runM s (ctlWrite a 0x07 p.val 0x0118 (fun m => cfgReadNow m p.val answer))

/-- PCIE_CFG_WRITE (R612): refused for a function that a channel path holds. -/
def cfgWriteNow (p : Nat) (v : Word) (done : Bool) (m : Mach) : Option Mach :=
  if (functionPath m p (cfgRid m p)).isSome then none
  else
    let m := emit m (.cfgWrite p (bits (pcie m p).cfgAddr.toNat 31 0) (bits v.toNat 31 0))
    some (modPcie m p (fun x => { x with cfgFailed := !done, cfgData := if done then v &&& 0xFFFFFFFF#64 else 0xFFFFFFFF#64 }))

def execPcieCfgWrite (a : Actor) (p : PcieId) (v : Word) (done : Bool) (s : State) : Host.Outcome State Fault Refusal :=
  runM s (ctlWriteRule a 0x07 p.val 0x0118 (cfgWriteNow p.val v done))

/-- CAP_REQ, CAP_RSP, HELAR_ACK, HELAR_KEEPALIVE, HELAR_CLOSE, ANSWER_SEGMENT: a datagram of that type reaches a path (R614 to R630). -/
def execCapReq (p : PathId) (d : Bytes) (good : Bool) (s : State) : Host.Outcome State Fault Refusal :=
  runUnits s (fun m => helarReceive m p.val d good)
def execCapRsp (p : PathId) (d : Bytes) (good : Bool) (s : State) : Host.Outcome State Fault Refusal :=
  runUnits s (fun m => helarReceive m p.val d good)
def execHelarAck (p : PathId) (d : Bytes) (good : Bool) (s : State) : Host.Outcome State Fault Refusal :=
  runUnits s (fun m => helarReceive m p.val d good)
def execHelarKeepalive (p : PathId) (d : Bytes) (good : Bool) (s : State) : Host.Outcome State Fault Refusal :=
  runUnits s (fun m => helarReceive m p.val d good)
def execHelarClose (p : PathId) (d : Bytes) (good : Bool) (s : State) : Host.Outcome State Fault Refusal :=
  runUnits s (fun m => helarReceive m p.val d good)
def execAnswerSegment (p : PathId) (d : Bytes) (good : Bool) (s : State) : Host.Outcome State Fault Refusal :=
  runUnits s (fun m => helarReceive m p.val d good)

/-- CAP_REQ_RESEND: CAP_REQ is sent every 100 ms while a Helar path establishes (R618). -/
def capReqAgain (m : Mach) (p : Nat) : Mach :=
  let x := path m p
  if x.st = .establishing ∧ pathKind m p = 1 ∧ x.helar.capAt + 100000000 ≤ m.now ∧ m.now < x.estAt + 2000000000 then sendCapReq m p else m

def execCapReqResend (p : PathId) (s : State) : Host.Outcome State Fault Refusal := runUnits s (fun m => capReqAgain m p.val)

/-- A Helar association is alive: its path is Operational or Draining. -/
def helarUp (m : Mach) (p : Nat) : Bool :=
  pathKind m p == 1 && ((path m p).st == .operational || (path m p).st == .draining)

/-- ACK_DUE: a segment must be acknowledged within 50 µs (R623). -/
def ackNow (m : Mach) (p : Nat) : Mach :=
  match (path m p).helar.ackDue with
  | some t => if helarUp m p ∧ t ≤ m.now then helarSend m p 3 0 0 [] else m
  | none => m

def execAckDue (p : PathId) (s : State) : Host.Outcome State Fault Refusal := runUnits s (fun m => ackNow m p.val)

/-- RETRANSMIT_TIMEOUT (R624): the segment is sent again with its timeout doubled, up to 8 times the agreed value; after 8
retransmissions the partner is silent. -/
def retransmit (m : Mach) (p seq : Nat) : Mach :=
  let h := (path m p).helar
  match h.unacked.find? (fun s => s.seq == seq) with
  | none => m
  | some s =>
    if !helarUp m p ∨ m.now < s.sentAt + s.timeout then m
    else if 8 ≤ s.count then pathFails m p 2
    else
      let s' := { s with sentAt := m.now, count := s.count + 1, timeout := min (8 * (1000 * h.rtoUs)) (2 * s.timeout) }
      let m := modHelar m p (fun y => { y with unacked := y.unacked.map (fun z => if z.seq = seq then s' else z) })
      helarSend m p s.type s.flags s.seq s.body

def execRetransmitTimeout (p : PathId) (seq : BitVec 32) (s : State) : Host.Outcome State Fault Refusal :=
  runUnits s (fun m => retransmit m p.val seq.toNat)

/-- KEEPALIVE_DUE: no datagram has been sent for the keepalive interval (R625). -/
def keepaliveNow (m : Mach) (p : Nat) : Mach :=
  let h := (path m p).helar
  if helarUp m p ∧ h.lastTx + 1000000 * h.keepaliveMs ≤ m.now then helarSend m p 4 0 0 [] else m

def execKeepaliveDue (p : PathId) (s : State) : Host.Outcome State Fault Refusal := runUnits s (fun m => keepaliveNow m p.val)

/-- SILENCE_TIMEOUT: no valid datagram for three keepalive intervals (R625). -/
def silenceNow (m : Mach) (p : Nat) : Mach :=
  let h := (path m p).helar
  if helarUp m p ∧ h.lastRx + 3000000 * h.keepaliveMs ≤ m.now then pathFails m p 2 else m

def execSilenceTimeout (p : PathId) (s : State) : Host.Outcome State Fault Refusal := runUnits s (fun m => silenceNow m p.val)

end Sys2Proof.Machine
end

