-- ==== Sys2Proof/Machine/UnitOps.lean ====
section
/-! DEFINITION. Cache policy records (R432 to R435) and unit resets (R40, R41, R45, R813, R863). -/

namespace Sys2Proof.Machine

/-! ## Cache policy (R432 to R435) -/

/-- Fields of a cache's record; the defaults of R434 where the image omits the section. -/
def polFlags (m : Mach) (r : Nat) : Nat := imgFld m 0x0006 r 0 1
def polMask (m : Mach) (b : Nat) : Byte := BitVec.ofNat 8 (imgFld m 0x0006 b 1 1)
def polAge (m : Mach) (b : Nat) : Nat := if imgFld m 0x0006 b 2 2 = 0 then 50 else imgFld m 0x0006 b 2 2
def polLeases (m : Mach) (b : Nat) : Word :=
  pack ((List.range 8).map (fun w => (8 * w, 8, if (polMask m b).getLsbD w then imgFld m 0x0006 b (4 + w) 1 else 0)))
def polPairs (m : Mach) (h : Nat) : Nat := if imgHas m 0x0006 then imgFld m 0x0006 (64 + h) 1 1 else 2

/-- The ways of an L2 that stay assigned to the lease they had, as a mask. -/
def sameWays (x : L2St) (mask : Byte) (leases : Word) : Byte :=
  BitVec.ofNat 8 ((List.range 8).foldl (fun (a : Nat) w =>
    if x.lockable.getLsbD w && mask.getLsbD w && bits x.lockLease.toNat (8 * w + 7) (8 * w) == bits leases.toNat (8 * w + 7) (8 * w)
    then a ||| 2 ^ w else a) 0)

/-- A bench's record takes effect: its flags act as writes of DISABLE and PF_DISABLE, and a way whose assignment changes is unlocked. -/
def policyL2 (m : Mach) (b : Nat) : Mach :=
  let m := modL2 m b (fun x => { x with
    lock := x.lock &&& sameWays x (polMask m b) (polLeases m b), lockable := polMask m b, lockLease := polLeases m b, age := polAge m b,
    pfDisable := bit (polFlags m b) 1 })
  let off := bit (polFlags m b) 0
  if off == (l2 m b).disableReq then m else if off then l2Disable m b else l2Enable m b

/-- A home node's record takes effect: with fewer pair ways, the mirrored lines that no longer fit are cleaned first (R435, R472). -/
def policyL3 (m : Mach) (h : Nat) : Mach :=
  let p := polPairs m h
  let owners := (List.range 16).filter (fun o => (home m o).buddy == h)
  let m := if (home m h).pairWays ≤ p then m else
    owners.foldl (fun m o =>
      (home m o).l3.foldl (fun m q =>
        let dirty := (home m o).l3.filter (fun (r : Nat × L3Line) => r.2.dirty && l3Set r.1 == l3Set q.1)
        let older := dirty.filter (fun r => decide (r.2.dirtySeq < q.2.dirtySeq))
        if q.2.dirty && decide (older.length + p < dirty.length) then cleanL3 m o q.1 else m) m) m
  -- further pair ways take the place of the slice's own lines there (R403)
  let m := ((home m h).l3.filter (fun (q : Nat × L3Line) => decide (12 ≤ q.2.way + p))).foldl (fun m q => dropL3 (cleanL3 m h q.1) h q.1) m
  let m := modHome m h (fun x => { x with pairWays := p })
  let off := bit (polFlags m (64 + h)) 0
  if off == (home m h).disableReq then m else if off then l3Disable m h else l3Enable m h

/-! ## Unit resets (R40, R41) -/

/-- A unit's common registers after a reset of it: the tag area is kept (R46). -/
def unitCleared (m : Mach) (k i : Nat) (st : UState) : Mach :=
  setUnit m k i { UnitSt.reset with st := st, tags := (unit m k i).tags }

/-- A unit without microcode goes through Starting on its way to the state that it returns to (R41): the spec gives its start no time, and the
next idle nanosecond ends it (DESIGN CHOICE, log entry 43). -/
def unitStarts (m : Mach) (k i : Nat) (back : UState) : Mach :=
  let m := unitCleared m k i .starting
  { m with resets := tset m.resets (ukey k i) back }

/-- The unit resets that were under way end. -/
def resetsEnd (m : Mach) : Mach :=
  m.resets.foldl (fun (m : Mach) (p : Nat × UState) =>
    if ustate m (p.1 / 65536) (p.1 % 65536) == .starting then setUState m (p.1 / 65536) (p.1 % 65536) p.2 else m) { m with resets := [] }

/-- The receivers of the substrate links have emptied their buffers: every credit that is out has come back (R20; when is open, log entry 69). -/
def creditsBack (m : Mach) : Mach := { m with subs := m.subs.map (fun (p : Nat × SubLink) => (p.1, { p.2 with returned := p.2.issued })) }

/-- An engine reset (R41, R863): banks, timers, stack caches and L1 caches are cleared, and its microcode is loaded again. -/
def engineReset (m : Mach) (e : Nat) : Mach :=
  let x := eng m e
  let m := setEng m e
    { Eng.reset with vec := x.vec, last := x.last, lastPc := x.lastPc, excCount := x.excCount, l3Base := x.l3Base, l3Limit := x.l3Limit,
                     retryN := x.retryN, l1dOff := x.l1dOff, l1iOff := x.l1iOff, l1Errs := x.l1Errs, doubleFault := x.doubleFault }
  let m := { m with l1d := tdel m.l1d e, l1i := tdel m.l1i e, eside := tdel m.eside e, stores := tdel m.stores e,
                    resv := m.resv.filter (fun (p : Nat × Nat) => p.1 / 4 != e),
                    answers := m.answers.filter (fun (p : Nat × Nat × Word) => p.1 / 4 != e) }
  unitCleared m 0x02 e .starting

/-- A bench reset: its L2, its task queue and its 17 engines. -/
def benchReset (m : Mach) (b : Nat) : Mach :=
  let m := { m with l2 := tset m.l2 b L2St.reset, benches := tset m.benches b Bench.reset }
  let m := (enginesOf b).foldl engineReset m
  policyL2 (unitStarts m 0x01 b .offline) b

/-- A home node's reset: it stays lost until its record returns it (R480). -/
def homeReset (m : Mach) (h : Nat) : Mach :=
  let x := home m h
  let m := setHome m h { Home.reset with lost := x.lost, buddy := x.buddy, mirrorFlag := x.mirrorFlag }
  policyL3 (unitStarts m 0x03 h .offline) h

/-- A memory channel's reset: its lands and its place in the seams stay; it is Offline, or Spare by its
role, and its training is gone (R41, log entry 43). A rebuild onto it ends as where the target fails (log entry 15). -/
def chanResetNow (m : Mach) (c : Nat) : Mach :=
  let m := drainChan (if (chan m c).role = 3 then modChan (channelGone m c none) c (fun x => { x with role := 2 }) else m) c
  let x := chan m c
  let m := setChan m c { Chan.reset with
    powered := x.powered, present := x.present, presentSince := x.presentSince, temp := x.temp, role := x.role, offline := true,
    sub0 := { SubSt.reset with ledgerIn := x.sub0.ledgerIn, ledgerOut := x.sub0.ledgerOut },
    sub1 := { SubSt.reset with ledgerIn := x.sub1.ledgerIn, ledgerOut := x.sub1.ledgerOut } }
  unitStarts m 0x04 c (if x.role = 2 then .spare else .offline)

/-- A unit reset that has been accepted, by the unit's kind; a context-store half, an event-and-time block and a service block return
with what R699 and R813 state. -/
def resetNow (m : Mach) (k i : Nat) : Mach :=
  match k with
  | 0x01 => benchReset m i
  | 0x02 => engineReset m i
  | 0x03 => homeReset m i
  | 0x04 => chanResetNow m i
  | 0x06 => unitStarts (setLink m i LinkSt.reset) k i .offline
  | 0x07 => unitStarts (setPcie m i PcieSt.reset) k i .offline
  | 0x08 => unitCleared { m with stores := tdel m.stores (2000 + i) } k i .starting
  | 0x09 => unitStarts (modWork m 0 i (fun _ => WorkUnit.reset)) k i .offline
  | 0x0A => unitStarts (modWork m 1 i (fun _ => WorkUnit.reset)) k i .offline
  | 0x0B => halfReturns (unitCleared m k i .offline) i
  | 0x0D => unitStarts m k i .offline
  | 0x0E => { unitCleared m k i .starting with svc := { m.svc with returning := insNat m.svc.returning i } }
  | _ => m

/-- A domain that has tripped or was lost runs again with the reset of its unit (R836). -/
def domReset (m : Mach) (k i : Nat) : Mach :=
  (List.range 130).foldl (fun m d =>
    if domUnit d == some (k, i) && ((dom m d).tripped || (dom m d).lost) then
      domStart (modDom m d (fun x => { x with tripped := false, lost := false })) d else m) m

/-- A state in which a unit reset is accepted (R40). -/
def resettable (m : Mach) (k i : Nat) : Bool := shownState m k i == .offline || shownState m k i == .spare || shownState m k i == .failed

/-- A value that starts a unit reset (R45). -/
def resetKey (v : Nat) : Bool := bits v 63 48 == 0xA5C3 && bit v 0

end Sys2Proof.Machine
end

