-- ==== Sys2Proof/Machine/RegWrite.lean ====
section
/-! DEFINITION. What a write of each register does (R9, R10, R14, R45 to R49, R723 and the register tables of every chapter). -/

namespace Sys2Proof.Machine

/-- A write: the machine after it, or none where the register's own rule refuses it (reason 5 of R794). A register that only reads
ignores the write (R10). -/
abbrev WriteAns := Option Mach

/-! ## The module block -/

/-- The registers that no write may change while a transaction is open (R581). -/
def chnLocked (m : Mach) : Bool := !(openTxns m).isEmpty

/-- A write of `CHN_JRN`: the journal is Normal where it is enabled (R581, R583). -/
def jrnWrite (m : Mach) (n : Nat) : Mach :=
  modChn m (fun c => { c with jrn := pack [(22, 30, bits n 51 22), (0, 1, n % 2)], journal := if c.jrnMove.isSome then 3 else n % 2 })

/-- A write of `EVT_LOG` (R784, R787): a ring at a new base begins with no record. -/
def evtLogWrite (m : Mach) (n : Nat) : Mach :=
  modEvt m (fun x =>
    let same := bits n 51 6 == bits x.logReg.toNat 51 6
    { x with logReg := pack [(56, 4, bits n 59 56), (6, 46, bits n 51 6), (0, 1, n % 2)],
             logTail := if same then x.logTail else 0, logHead := if same then x.logHead else 0 })

/-- The error record of an index in the log of the session's hub, or of a hub in service, or in the retained log (R830). -/
def errFind (m : Mach) (i : Nat) : Option ErrRec :=
  let h := match m.svc.owner with
    | some .sp0 | some .i3c0 => 0
    | some .sp1 | some .i3c1 => 1
    | none => if hubIn m 0 then 0 else 1
  match (m.errs.hubLogs.getD h []).find? (fun r => r.index == i) with
  | some r => some r
  | none => m.errs.retained.find? (fun r => r.index == i)

/-- A write of `ERR_SELECT` (R830). -/
def errSelectNow (m : Mach) (v : Word) : Mach :=
  { m with errs := { m.errs with select := v.toNat, loaded := match errFind m v.toNat with | some r => errBytes r | none => List.replicate 128 0 } }

def writeModule (m : Mach) (off : Nat) (v : Word) : WriteAns :=
  let n := v.toNat
  match off with
  | 0x400 => some { m with crangeBase := bits n 51 8 }
  | 0x408 => some { m with crangeLen := bits n 39 0 }
  | 0x410 => some (crangeStart m (bits n 1 0) (bit n 2))
  | 0x600 => if chnLocked m then none else some (jrnWrite m n)
  | 0x608 => some (jrnMove v m)
  | 0x610 => if chnLocked m then none else some (modChn m (fun c => { c with epoch := bits n 15 0 }))
  | 0x628 => sumpWrite v m
  | 0x630 => if chnLocked m then none else some (modChn m (fun c => { c with queue := pack [(26, 26, bits n 51 26), (0, 1, n % 2)] }))
  | 0x700 => some (evtLogWrite m n)
  | 0x708 => some (modEvt m (fun x => { x with spillReg := pack [(24, 28, bits n 51 24), (0, 1, n % 2)] }))
  | 0x800 => some (if bit n 32 then { m with errs := { m.errs with ledgerBad := false } } else m)
  | 0x808 => some { m with errs := { m.errs with policy := bits n 15 0 } }
  | 0x818 => some (errSelectNow m v)
  | 0x910 => some { m with pins := { m.pins with gpioOut := bits n 27 16 } }
  | _ => match regIdx off 0x1008 16 64 with
    | some p => some (if unitsRun m then pathCmd m p (bits n 1 0) else m)
    | none => some m

/-! ## Benches, engines, home nodes -/

/-- The fields of a set-and-way register (R440). -/
def setwayOf (n : Nat) : SetWay :=
  { all := bit n 61, inclLocked := bit n 60, slot := BitVec.ofNat 5 (bits n 52 48), cache := BitVec.ofNat 2 (bits n 47 46),
    set := BitVec.ofNat 12 (bits n 15 4), way := BitVec.ofNat 4 (bits n 3 0) }

/-- A write of `BENCH_CTL` (R344): REPROBE 0 is reserved and leaves the field. -/
def benchCtlWrite (m : Mach) (b n : Nat) : Mach :=
  modBench m b (fun x =>
    let r := if bits n 15 8 = 0 then bits x.ctl.toNat 15 8 else bits n 15 8
    { x with ctl := pack [(16, 16, bits n 31 16), (8, 8, r), (0, 2, bits n 1 0)] })

/-- A write of `L2_CTL` (R411, R421, R441). -/
def l2CtlWrite (m : Mach) (b n : Nat) : Mach :=
  let m := modL2 (setLock m b (BitVec.ofNat 8 (bits n 23 16))) b (fun x => { x with pfDisable := bit n 1 })
  if bit n 0 then l2Disable m b else l2Enable m b

def writeBench (m : Mach) (b off : Nat) (v : Word) : WriteAns :=
  let n := v.toNat
  match off with
  | 0x100 => some (benchCtlWrite m b n)
  | 0x300 => some (l2CtlWrite m b n)
  | 0x308 => some (if bits n 63 62 = 3 then modL2 m b (fun z => { z with op := maintStart z.op true 3 false 0 0 }) else l2SetwayStart m b (bits n 63 62) (setwayOf n))
  | _ => some m

def writeEngine (m : Mach) (e off : Nat) (v : Word) : WriteAns :=
  let n := v.toNat
  match off with
  | 0x100 => some (modEng m e (fun x => { x with vec := pack [(4, 44, bits n 47 4), (0, 1, n % 2)] }))
  | 0x208 => some (modEng m e (fun x => { x with l3Base := pack [(3, 45, bits n 47 3)] }))
  | 0x210 => some (modEng m e (fun x => { x with l3Limit := pack [(3, 45, bits n 47 3)] }))
  | 0x500 => some (l1Ctl m e (bit n 0) (bit n 1))
  | _ => some m

def writeHome (m : Mach) (h off : Nat) (v : Word) : WriteAns :=
  let n := v.toNat
  match off with
  | 0x300 => some (if bit n 0 then l3Disable m h else l3Enable m h)
  | 0x308 => some (if bits n 63 62 = 3 then modHome m h (fun z => { z with op := maintStart z.op true 3 false 0 0 }) else l3SetwayStart m h (bits n 63 62) (setwayOf n))
  | _ => some m

/-! ## Links and ports -/

/-- A first word of a rule that sets VALID keeps the rules of R597. -/
def ruleOk (m : Mach) (l r : Nat) (w0 : Nat) : Bool :=
  let w3 := (tget (link m l).rules (4 * r + 3) 0).toNat
  let ls := bits w0 63 56
  decide (bits w0 55 48 ≤ 128) && decide (bits w3 15 0 ≤ bits w3 31 16) && (lease m ls).st != .free && decide (bits w3 39 32 < 16) &&
    fqOn m ls (bits w3 39 32) l

/-- The bits of a rule's word that are not reserved (R596). -/
def ruleMask (i : Nat) : Word := if i % 4 = 0 then 0xFFFF0FFFFFFFFF3F else if i % 4 = 3 then 0xFFFFFFFFFF else 0xFFFFFFFFFFFFFFFF

def writeLink (m : Mach) (l off : Nat) (v : Word) : WriteAns :=
  let n := v.toNat
  match off with
  | 0x100 => some (if bits n 1 0 = 3 then m else linkCmd m l (bits n 1 0))
  | 0x110 => some (modLink m l (fun x => { x with rxbuf := pack [(24, 28, bits n 51 24), (0, 1, n % 2)] }))
  | 0x128 => some (modLink m l (fun x => { x with mcast := pack [(63, 1, bits n 63 63), (0, 48, bits n 47 0)] }))
  | _ => match regIdx off 0x4000 8 1024 with
    | some i =>
      if i % 4 = 0 ∧ bit n 0 ∧ !ruleOk m l (i / 4) n then none
      else some (modLink m l (fun x => { x with rules := tset x.rules i (v &&& ruleMask i) }))
    | none => some m

/-- A configuration write without a given outcome: whether it completes is open (R612). -/
def writePcie (m : Mach) (p off : Nat) (v : Word) : WriteAns :=
  let n := v.toNat
  match off with
  | 0x110 => some (modPcie m p (fun x =>
      let o := if bits n 1 0 = 0 then bits n 11 0 else bits x.cfgAddr.toNat 11 0
      { x with cfgAddr := pack [(16, 16, bits n 31 16), (0, 12, o)] }))
  | 0x118 =>
    let (ok, m) := takeChoice m 2
    cfgWriteNow p v (ok == 1) m
  | _ => some m

/-! ## Processors, crushers, cipher engines, context store -/

def writeCp (m : Mach) (c off : Nat) (v : Word) : WriteAns :=
  if off = 0x108 then some (match bits v.toNat 1 0 with | 1 => cpOfflineNow m c | 2 => cpOnlineNow m c | _ => m) else some m

/-- `CRUSH_CTL` and `CIPH_CTL` (R687, R715): 3 is reserved. -/
def writeWork (m : Mach) (kind u off : Nat) (v : Word) : WriteAns :=
  some (if off = 0x100 ∧ bits v.toNat 1 0 ≠ 3 then workCmd m kind u (bits v.toNat 1 0) else m)

def writeCtx (m : Mach) (off : Nat) (v : Word) : WriteAns :=
  if off ≠ 0x100 then some m
  else if m.jobs.ctx.isEmpty then some (modJobs m (fun j => { j with ctxTable := pack [(32, 20, bits v.toNat 51 32), (0, 1, v.toNat % 2)] }))
  else none

/-! ## Leases -/

/-- A stored register of a lease's block set. -/
def setLeaseReg (m : Mach) (l off : Nat) (w : Word) : Mach := modLease m l (fun x => { x with regs := tset x.regs off w })

/-- The partner identity of a path: of its record (R541, R544). -/
def pathPartner (m : Mach) (p : Nat) : Bytes := pathIdent m p

/-- `LEASE_EP_CTL` written (R544, R587, R776). A path number from 64 to 0xFE names no path with a role. -/
def epCtlWrite (m : Mach) (l e n : Nat) : WriteAns :=
  let old := epCtl m l e
  let new := packN [(63, 1, bits n 63 63), (44, 12, bits n 55 44), (0, 32, bits n 31 0)]
  let ps := ((List.range 4).map (fun i => bits new (8 * i + 7) (8 * i))).filter (fun p => p != 0xFF)
  let put : Mach := setLeaseReg m l (0x1000 + 32 * e) (BitVec.ofNat 64 new)
  if bit old 63 ∧ new = old % 2 ^ 63 then some put
  else if bits n 55 44 < 16 then none
  else if ps.any (fun p => decide (64 ≤ p) || pathKind m p == 0) then none
  else if ps.any (fun p => pathPartner m p != pathPartner m (ps.headD 0)) then none
  else if bits new 31 0 ≠ bits old 31 0 ∧ !(epOpen m l e).isEmpty then none
  else some put

/-- A ring register of SIZE, where a value above 11 leaves the field (R14), and base. -/
def ringReg (old n : Nat) : Nat :=
  let sz := if 11 < bits n 59 56 then bits old 59 56 else bits n 59 56
  packN [(56, 4, sz), (6, 42, bits n 47 6)]

/-- `LEASE_EP_RING` written: a ring at a new base begins with no record. -/
def epRingWrite (m : Mach) (l e n : Nat) : WriteAns :=
  let old := epRing m l e
  let new := ringReg old n
  if new ≠ old ∧ !(epOpen m l e).isEmpty then none
  else
    let m := setLeaseReg m l (0x1008 + 32 * e) (BitVec.ofNat 64 new)
    some (if bits new 47 6 = bits old 47 6 then m else setRing m l e { tail := 0, head := 0 })

def epTimersWrite (m : Mach) (l e n : Nat) : WriteAns := some (setLeaseReg m l (0x1010 + 32 * e) (BitVec.ofNat 64 (bits n 35 0)))

/-- `LEASE_FQ_CTL` written (R644, R776). -/
def fqCtlWrite (m : Mach) (l q n : Nat) : WriteAns :=
  let old := fqCtl m l q
  let new := packN [(63, 1, bits n 63 63), (56, 3, bits n 58 56), (44, 12, bits n 55 44), (0, 16, bits n 15 0)]
  let link := bits old 58 56
  let put (m : Mach) : Mach := setLeaseReg m l (0x2000 + 32 * q) (BitVec.ofNat 64 new)
  if bit old 63 ∧ new = old % 2 ^ 63 then
    some (put (if q < 16 then m else txFlush (fqSize m l q + 1) (fqPosted m (0x0800 + link) l q) link l q))
  else if bits n 55 44 < 16 then none
  else if bit old 63 ∧ bits new 58 56 ≠ link then none
  else if bit old 63 ∧ !bit new 63 then
    some (put (if q < 16 then m else txFlush (fqSize m l q + 1) (fqPosted m (0x0800 + link) l q) link l q))
  else some (put m)

def fqRingWrite (m : Mach) (l q n : Nat) : WriteAns :=
  let old := fqRing m l q
  let new := ringReg old n
  if bit (fqCtl m l q) 63 ∧ new ≠ old then none
  else
    let m := setLeaseReg m l (0x2008 + 32 * q) (BitVec.ofNat 64 new)
    some (if bits new 47 6 = bits old 47 6 then m else setFq m l q { FqSt.reset with completed := (fq m l q).completed, dropped := (fq m l q).dropped })

/-- `LEASE_CQ_CTL` and `LEASE_XQ_CTL` written (R690, R691, R776). -/
def jqCtlWrite (m : Mach) (kind l q n : Nat) : WriteAns :=
  let new := packN [(63, 1, bits n 63 63), (44, 12, bits n 55 44)]
  if bits n 55 44 < 16 then none
  else if bit new 63 ∧ queueBase m kind l q = 0 then none
  else some (setLeaseReg m l (queueOff kind q) (BitVec.ofNat 64 new))

def jqRingWrite (m : Mach) (kind l q n : Nat) : WriteAns :=
  let old := queueRing m kind l q
  let new := ringReg old n
  if !(queueJobs m kind l q).isEmpty then none
  else
    let m := setLeaseReg m l (queueOff kind q + 8) (BitVec.ofNat 64 new)
    some (if bits new 47 6 = bits old 47 6 then m else setJobRing m kind l q { tail := 0, head := 0 })

/-- `LEASE_SHARES` written (R14, R759): a weight of 0 leaves the field. -/
def sharesWrite (m : Mach) (l n : Nat) : Mach :=
  modLease m l (fun x =>
    let w := if bits n 7 0 = 0 then bits x.shares.toNat 7 0 else bits n 7 0
    { x with shares := pack [(48, 16, bits n 63 48), (40, 1, bits n 40 40), (32, 3, bits n 34 32), (8, 24, bits n 31 8), (0, 8, w)] })

/-- `LEASE_EVT_RING` written (R787): a ring at a new base begins with no record. -/
def evtRingWrite (m : Mach) (l n : Nat) : Mach :=
  let old := evtRing m l
  let new := packN [(0, 64, ringReg old n), (0, 1, n % 2)]
  let m := setLeaseReg m l 0x0180 (BitVec.ofNat 64 new)
  if bits new 47 6 = bits old 47 6 then m else modLease m l (fun x => { x with evtTail := 0, evtHead := 0 })

def writeLease (m : Mach) (l off : Nat) (v : Word) : WriteAns :=
  let n := v.toNat
  match off with
  | 0x100 => some (leaseCmd m l (bits n 63 48) (bits n 3 0))
  | 0x110 => some (sharesWrite m l n)
  | 0x118 => some (entriesChanged (modLease m l (fun x => { x with affinity := v })))
  | 0x120 => some (modLease m l (fun x => { x with ptRoot := pack [(12, 40, bits n 51 12), (0, 1, n % 2)] }))
  | 0x128 => some (tlbInval m l v)
  | 0x138 => some (leaseSpawn m l v)
  | 0x180 => some (evtRingWrite m l n)
  | 0x188 => some (setLeaseReg m l 0x0188 (pack [(17, 31, bits n 47 17), (0, 1, n % 2)]))
  | 0x400 => settAdd m l v
  | 0x2E00 => if (lease m l).st = .free then some (setLeaseReg m l 0x2E00 (pack [(24, 25, bits n 48 24), (0, 24, bits n 23 0)])) else none
  | _ =>
    match regIdx off 0x1000 8 256, regIdx off 0x2000 8 128, regIdx off 0x2800 8 64, regIdx off 0x2C00 8 64 with
    | some i, _, _, _ => match i % 4 with
      | 0 => epCtlWrite m l (i / 4) n
      | 1 => epRingWrite m l (i / 4) n
      | 2 => epTimersWrite m l (i / 4) n
      | _ => some m
    | _, some i, _, _ => match i % 4 with
      | 0 => fqCtlWrite m l (i / 4) n
      | 1 => fqRingWrite m l (i / 4) n
      | _ => some m
    | _, _, some i, _ => match i % 4 with
      | 0 => jqCtlWrite m 0 l (i / 4) n
      | 1 => jqRingWrite m 0 l (i / 4) n
      | _ => some m
    | _, _, _, some i => match i % 4 with
      | 0 => jqCtlWrite m 1 l (i / 4) n
      | 1 => jqRingWrite m 1 l (i / 4) n
      | _ => some m
    | none, none, none, none => some m

def writeTime (m : Mach) (off : Nat) (v : Word) : WriteAns :=
  match off with
  | 0x108 => if startUp m then some (tsSetNow m v) else none
  | 0x110 => some (tsAdjNow m v)
  | _ => some m

/-! ## All of them -/

/-- A write of the register at an offset of a unit's block by the manager or the service controller. -/
def writeReg (m : Mach) (k i off : Nat) (v : Word) : WriteAns :=
  if off = 0x10 then
    if !resetKey v.toNat then some m else if resettable m k i then some (domReset (resetNow m k i) k i) else none
  else if off < 0x40 then some m
  else match k with
    | 0x00 => writeModule m off v
    | 0x01 => writeBench m i off v
    | 0x02 => writeEngine m i off v
    | 0x03 => writeHome m i off v
    | 0x04 => some (if off = 0x100 then mchCmd m i (bits v.toNat 7 0) else m)
    | 0x06 => writeLink m i off v
    | 0x07 => writePcie m i off v
    | 0x08 => writeCp m i off v
    | 0x09 => writeWork m 0 i off v
    | 0x0A => writeWork m 1 i off v
    | 0x0B => writeCtx m off v
    | 0x0C => writeLease m i off v
    | 0x0D => writeTime m off v
    | _ => some m

/-- Who may write a tag area (R47, R723). -/
def mayTag (m : Mach) (a : Actor) (k i : Nat) : Bool :=
  match a with
  | .service => true
  | .lease n => n.val == 0 && unitHasRole m k i && decide (0x01 ≤ k) && decide (k ≤ 0x0C)

/-- A tag register written (R46, R49). -/
def tagWrite (m : Mach) (k i j : Nat) (v : Word) : Mach :=
  setUnit m k i { unit m k i with tags := lset (unit m k i).tags j v }

/-- The service block of a hub that is lost has no role (R862) and takes the reset of R813 all the same. -/
def serviceReturn (k off : Nat) : Bool := k == 0x0E && off == 0x10

/-- A write of control space (R8, R9, R25, R47, R785, R813): the reason of its refusal, or the machine after it. -/
def writeCheck (m : Mach) (a : Actor) (addr size : Nat) (v : Word) : Except Nat Mach :=
  if size ≠ 8 then .error 1
  else if addr % 8 ≠ 0 then .error 2
  else match ctlPlace addr with
    | none => .error 3
    | some (k, i, off) =>
      if (readReg m k i off).isNone then .error 3
      else if 0x20 ≤ off ∧ off < 0x40 then
        if mayTag m a k i then .ok (tagWrite m k i ((off - 0x20) / 8) v) else .error 4
      else if !unitHasRole m k i && !serviceReturn k off then .error 5
      else if !privileged a then .error 4
      else if k = 0x0D ∧ off = 0x108 ∧ a ≠ .service then .error 4
      else if serviceReturn k off && a != .service then .error 4
      else match writeReg m k i off v with
        | none => .error 5
        | some m => .ok m

/-- A write of control space as it takes effect or is refused. -/
def writeCtl (m : Mach) (a : Actor) (addr size : Nat) (v : Word) : Mach :=
  match writeCheck m a addr size v with
  | .error r => refuseAccess m a addr r
  | .ok m => m

end Sys2Proof.Machine
end

