-- ==== Sys2Proof/Machine/MemExec.lean ====
section
/-! DEFINITION. The memory operations of an engine that complete (R234 to R242), in memory and in control space (R8, R9, R723). -/

namespace Sys2Proof.Machine

/-- The lease of an operation as the maker of a control-space access (R723). -/
def opActor (o : MemOp) : Actor := .lease (Fin.ofNat 256 o.lease)

/-- A control-space value in the width and sign of the operation; a refused narrow read is all ones of its width (R9). -/
def ctlValue (o : MemOp) (sgn : Bool) (v : Word) : Word :=
  if o.size = 8 then v
  else
    let n := v.toNat % 2 ^ (8 * o.size)
    if sgn then BitVec.ofNat 64 (toTwos 64 (signed (8 * o.size) n)) else BitVec.ofNat 64 n

/-- A load of a register: an LDX reserves it too. -/
def ctlLoadDone (m : Mach) (e : Nat) (o : MemOp) (sgn : Bool) : Mach :=
  if !opFree (eng m e) o then m else
  let r := readCtl m (opActor o) o.pa o.size
  let m := if o.kind = .ldx then { r.2 with resv := tset r.2.resv (4 * e + o.lv) o.pa } else r.2
  answerRead m e o (ctlValue o sgn r.1) false

def ctlStoreDone (m : Mach) (e : Nat) (o : MemOp) : Mach :=
  if !opFree (eng m e) o then m else opDone (writeCtl m (opActor o) o.pa o.size o.data) e o

/-- An STX writes a register while its level holds the reservation; an atomic acts on a line that a bench holds (R235), which a
register is not: it is refused, and its old value is all ones (DEDUCED, log entry 44). -/
def ctlAtomicDone (m : Mach) (e : Nat) (o : MemOp) : Mach :=
  if !opFree (eng m e) o then m else
  if o.kind = .stx then
    let held := tfind m.resv (4 * e + o.lv) == some o.pa
    let m := if held then writeCtl m (opActor o) o.pa o.size o.data else m
    answerRead { m with resv := tdel m.resv (4 * e + o.lv) } e o (if held then 1 else 0) false
  else answerRead (refuseAccess m (opActor o) o.pa 5) e o (BitVec.allOnes 64) false

def isLoad : MemKind → Bool
  | .load _ | .ldx => true
  | _ => false

def loadSigned : MemKind → Bool
  | .load sgn => sgn
  | _ => false

/-- LOAD_COMPLETE: a load returns its data into its queue entry (R239). -/
def loadComplete (m : Mach) (e op : Nat) : Mach :=
  match opOf m e op with
  | none => m
  | some o =>
    if !isLoad o.kind then m
    else if isControl o.pa then ctlLoadDone m e o (loadSigned o.kind)
    else loadDone m e o (loadSigned o.kind)

/-- STORE_COMPLETE: the bench L2, or the register, accepts a store (R239). -/
def storeComplete (m : Mach) (e op : Nat) : Mach :=
  match opOf m e op with
  | none => m
  | some o => if o.kind ≠ .store then m else if isControl o.pa then ctlStoreDone m e o else storeDone m e o

/-- ATOMIC_COMPLETE (R235). -/
def atomicComplete (m : Mach) (e op : Nat) : Mach :=
  match opOf m e op with
  | none => m
  | some o => if !isAtomic o.kind then m else if isControl o.pa then ctlAtomicDone m e o else atomicDone m e o

def isMacFetch : MemKind → Bool
  | .mac _ => true
  | _ => false

/-- MAC_FETCH_COMPLETE (R242). -/
def macFetchComplete (m : Mach) (e op : Nat) : Mach :=
  match opOf m e op with
  | none => m
  | some o =>
    if !isMacFetch o.kind then m
    else if !isControl o.pa then macLineDone m e o
    else if !opFree (eng m e) o then m
    else
      let r := readCtl m (opActor o) o.pa o.size
      macFetchDone r.2 e o (ctlValue o false r.1) false

/-- A memory operation completes while messages move and memory works: in Service and Rework, and while Hold drains (R34). -/
def execLoadComplete (e : EngineId) (op : Nat) (s : State) : Host.Outcome State Fault Refusal := runMesh s (fun m => loadComplete m e.val op)
def execStoreComplete (e : EngineId) (op : Nat) (s : State) : Host.Outcome State Fault Refusal := runMeshLoss s (fun m => storeComplete m e.val op)
def execAtomicComplete (e : EngineId) (op : Nat) (s : State) : Host.Outcome State Fault Refusal := runMeshLoss s (fun m => atomicComplete m e.val op)
def execMacFetchComplete (e : EngineId) (op : Nat) (s : State) : Host.Outcome State Fault Refusal :=
  runMesh s (fun m => macFetchComplete m e.val op)

end Sys2Proof.Machine
end

