-- ==== Sys2Proof/Machine/Recovery.lean ====
section
/-! DEFINITION. Faults and recoveries (R789, R795 to R816): engine sparing, the loss of benches, home nodes, tiles, substrate links,
service cores and hubs, lost clock domains. -/

namespace Sys2Proof.Machine

/-! ## Recoveries (R32, R814 to R816) -/

/-- The time from a fault's detection to now, as its error record reports it (R790). -/
def sinceFound (m : Mach) (f : FaultEv) : Nat := m.now - ((m.mode.foundAt.find? (fun p => p.1 == f)).map (fun p => p.2)).getD m.now

/-- A fault is taken: it is no longer among those found. -/
def faultTaken (m : Mach) (f : FaultEv) : Mach :=
  modMode m (fun x => { x with found := x.found.filter (fun g => g != f), foundAt := x.foundAt.filter (fun p => p.1 != f) })

/-- A recovery whose steps take no time of their own here (log entry 1): it begins, acts, and is done. -/
def recoverNow (m : Mach) (f : FaultEv) (act : Mach → Mach) : Mach :=
  let m := if unitsRun m || holding m then beginRecovery m f else m
  endRecovery (faultTaken (act m) f) f

/-- A fault is handled. Around Hold a recoverable one is recorded, and its recovery begins at HOLD_EXIT (R32); one that leaves the minimum
set unmet enters Check-stop at once (R28, R818). -/
def recover (m : Mach) (f : FaultEv) (act : Mach → Mach) : Mach :=
  let m := noteFault m f
  if !holding m then lossCheck (recoverNow m f act) else
  let t := lossCheck (act m)
  if t.mode.st == .checkStop then t
  else modMode m (fun x => { x with deferred := x.deferred ++ [f], recPending := true, found := x.found.filter (fun g => g != f) })

/-! ## Level-3 work that moves (R781, R800, R803) -/

/-- A level-3 delivery goes to an engine, which takes it once its level-3 bank is Empty. -/
def l3Give (m : Mach) (t : Nat) (w : WaitEntry) : Mach :=
  l3Next (modEvt m (fun x => { x with l3Waiting := x.l3Waiting ++ [{ w with bench := t }] })) t

/-- The level-3 work of an engine goes to the lowest active slot of a bench: the event that it handled, and what waits for it. Where no
engine is left it waits. -/
def l3Moves (m : Mach) (e b : Nat) : Mach :=
  let now := (eng m e).l3Event.toList ++ m.evt.l3Waiting.filter (fun w => w.bench == e)
  let m := modBank (modEng m e (fun x => { x with l3Event := none })) e 3 (fun _ => Bank.reset)
  match l3Engine m b with
  | none => m
  | some t =>
    let m := modEvt m (fun x => { x with l3Waiting := x.l3Waiting.filter (fun w => w.bench != e) })
    now.foldl (fun m w => l3Give m t w) m

/-! ## Engine sparing (R338, R797 to R802) -/

/-- A task is lost with its bank: its lease is told, its setts are withdrawn. -/
def bankLost (m : Mach) (e l : Nat) : Mach :=
  let b := bank m e l
  let m := taskLost m e (bkLease b l) (bkTask b) (areaOf b)
  let m := taskGone m (bkLease b l) b.vector b.setts
  emptyBank m e l

/-- A routine of a failing engine stands at its last TP word (R390): it is suspended there; a SAVE without one is over. -/
def routineStops (m : Mach) (e l : Nat) : Mach :=
  let b := bank m e l
  match b.cx, b.save with
  | none, some (c, _) => if c % 8 < 4 ∨ b.jmp.isSome then saveEnd m e l else suspend m e l
  | _, _ => suspend m e l

/-- The healthy spare that replaces an engine: the lowest slot of its own bench, else of its cover bench; none on a bench that a partial
image at work names (R129). -/
def spareFor (m : Mach) (e : Nat) : Option Nat :=
  let b := benchOf e
  let cover := imgFld m 0x0001 b 4 1
  let slot (k : Nat) : Option Nat :=
    if applyingNames m 0x0001 k || applyingNames m 0x0010 k || !(benchIn m k || benchDraining m k) then none
    else (enginesOf k).find? (fun s => ustate m 0x02 s == .spare)
  match slot b with
  | some s => some s
  | none => if cover < 16 then slot (16 * tileOfBench b + cover) else none

/-- Operations that a bank records with their operands, to be started again. -/
def restarts (b : Bank) : Nat := (b.queues.map (fun (q : Nat × List QEnt) => q.2.countP (fun x => !x.ready))).sum

/-- Levels as a mask. -/
def levelMask (l : List Nat) : Nat := l.foldl (fun (a : Nat) k => a ||| 2 ^ k) 0

/-- A STATE_LOST record: the levels and the task identifiers. -/
def stateLost (m : Mach) (e : Nat) (lost : List (Nat × Nat)) : Mach :=
  if lost.isEmpty then m else
  raiseErr m 0x0014 e (le 1 (levelMask (lost.map (fun p => p.1))) ++ le 3 0 ++
    [0, 1, 2].flatMap (fun k => le 4 (((lost.find? (fun p => p.1 == k)).map (fun p => p.2)).getD 0)))

/-- The levels of an engine move to a spare (R797 steps 4 and 5, R798, R799); `bad` has a bit for each level of which a word fails its
check on the way. -/
def engineMoves (m : Mach) (e s bad t0 : Nat) : Mach :=
  let m := (List.range 4).foldl (fun m l => routineStops m e l) m
  let lost := (List.range 3).filter (fun l => bit bad l && (bank m e l).st != .empty)
  let ids := lost.map (fun l => (l, bkTask (bank m e l)))
  let bad3 := bit bad 3 && (bank m e 3).st != .empty
  let m := lost.foldl (fun m l => bankLost m e l) m
  let x := eng m e
  let moved := (List.range 4).filter (fun l => (bank m e l).st != .empty && !(l == 3 && bad3))
  let again := (moved.map (fun l => restarts (bank m e l))).sum
  let m := modEng m s (fun y => { y with
    lv := x.lv, vec := x.vec, l3Base := x.l3Base, l3Limit := x.l3Limit, cause := x.cause, excPc := x.excPc, excAddr := x.excAddr,
    excLevel := x.excLevel, l3Event := x.l3Event, arrays := x.arrays, nextOp := max x.nextOp y.nextOp, walks := [], xfails := [], ahead := [],
    fetch := none, badFetch := none, parkedTill := none, probe := none })
  let m := { m with answers := m.answers.map (fun (p : Nat × Nat × Word) => if p.1 / 4 = e then (4 * s + p.1 % 4, p.2) else p),
                    resv := m.resv.filter (fun (p : Nat × Nat) => p.1 / 4 != e) }
  let m := modEng m e (fun y => { y with lv := Vector.replicate 4 Bank.reset, arrays := [], walks := [], xfails := [], fetch := none, ahead := [],
                                         excLevel := none, l3Event := none })
  let m := modEvt m (fun z => { z with l3Waiting := z.l3Waiting.map (fun w => if w.bench = e then { w with bench := s } else w) })
  let m := setUState (setUState m 0x02 e .failed) 0x02 s .active
  let m := (List.range 4).foldl (fun m l => if (bank m s l).st = .ready then microResume m s l else m) m
  let m := if bad3 then
      let pc := match x.l3Event with | some w => w.pc.toNat | none => bits x.vec.toNat 47 4 * 16
      l3Start (modBank m s 3 (fun _ => Bank.reset)) s pc x.l3Event
    else l3Next m s
  let m := raiseErrD m 0x0011 e e (le 2 s ++ le 1 (levelMask moved) ++ le 1 again) none none t0
  stateLost m e (if bad3 then ids ++ [(3, 0)] else ids)

/-- No spare is left (R800): banks are displaced into setts of their leases, an exception-pending bank's task is lost, level-3 work goes to
the lowest active slot of the bench. What a result queue of a displaced level holds has no place in the setts and is gone (log entry 51). -/
def engineStrands (m : Mach) (e t0 : Nat) : Mach :=
  let m := (List.range 3).foldl (fun m l => routineStops m e l) m
  let pend := (List.range 3).filter (fun l => (bank m e l).st == .exception)
  let ids := pend.map (fun l => (l, bkTask (bank m e l)))
  let m := pend.foldl (fun m l => bankLost m e l) m
  let m := modEng m e (fun x => { x with excLevel := none, arrays := [] })
  let live := (List.range 3).filter (fun l => (bank m e l).st == .ready || (bank m e l).st == .waiting)
  let m := live.foldl (fun m l => leaveBank (modBank m e l (fun b => { b with queues := [], macq := [], ring := none })) e l) m
  let out := live.filter (fun l => (bank m e l).st == .saving)
  let m := l3Moves m e (benchOf e)
  let m := raiseErrD m 0x0012 e e (le 2 out.length) none none t0
  engineLeft (faultTaken (stateLost m e ids) (.engine e)) e

/-- ENGINE_SPARING: an engine with a persistent fault stops; once its memory operations have completed (R797 step 2) its levels move to a
spare, or are displaced where there is none. -/
def engineSparing (m : Mach) (e bad : Nat) : Mach :=
  if !unitsRun m && m.mode.st != .hold then m else
  let f := FaultEv.engine e
  if !(engActive m e || m.mode.found.contains f) then m else
  let m := if m.mode.found.contains f then m else persistent m e
  if !holding m && !(eng m e).memops.isEmpty then m else
  let t0 := sinceFound m f
  recover m f (fun m =>
    let m := preempt m [(1, benchOf e)]
    match spareFor m e with
    | some s => engineMoves (preempt m [(1, benchOf s)]) e s bad t0
    | none => engineStrands m e t0)

/-! ## The loss of a bench (R803, R804) -/

/-- A bench that can take work. -/
def benchReady (m : Mach) (b : Nat) : Bool := benchIn m b && !m.errs.tilesLost.contains (tileOfBench b)

/-- Where the work of a lost bench goes: the benches of its ring, else of its tile, else of the other tiles, but for benches that a partial
image at work names (R129). -/
def benchHeirs (m : Mach) (b : Nat) : List Nat :=
  let t := tileOfBench b
  let ready (l : List Nat) : List Nat := l.filter (fun k => k != b && benchReady m k && !applyingNames m 0x01 k && !applyingNames m 0x10 k)
  let ring := ready ((stealRing m b).1.map (fun i => 16 * t + i))
  let tile (t : Nat) : List Nat := ready ((List.range 16).map (fun i => 16 * t + i))
  if !ring.isEmpty then ring else if !(tile t).isEmpty then tile t else (nearTiles t 2).flatMap tile

/-- An entry goes to the heir that holds the fewest, the first among equals; none where no heir has a place. -/
def giveEntry (m : Mach) (heirs : List Nat) (q : QTask) : Option Mach :=
  let n (b : Nat) : Nat := (bench m b).queue.length
  match pickBest (fun a b => decide (n a < n b)) heirs with
  | some b => if n b < 512 then some (enqueue m b q) else none
  | none => none

/-- An entry that is lost with a bench. -/
def entryLost (m : Mach) (b : Nat) (q : QTask) : Mach := taskGone (taskLost m (engineOf b 0) q.lease q.task q.area) q.lease q.vector q.setts

/-- Queue entries given away one by one; those moved and those lost. `dead` for a lost domain, where each may be unreadable (log entry 52). -/
def giveAll (m : Mach) (b : Nat) (heirs : List Nat) (dead : Bool) (l : List QTask) : Nat × Nat × Mach :=
  l.foldl (fun (a : Nat × Nat × Mach) q =>
    let (c, m) := if dead then takeChoice a.2.2 2 else (0, a.2.2)
    match (if c = 0 then giveEntry m heirs q else none) with
    | some m => (a.1 + 1, a.2.1, m)
    | none => (a.1, a.2.1 + 1, entryLost m b q)) (0, 0, m)

/-- Stores and atomics that have left an engine act on memory past the lost L2; its loads are discarded. -/
def flushOp (m : Mach) (o : MemOp) : Mach :=
  let n := o.pa / 256
  let put (v : Word) : Mach := ioWrite m (0x0600 + homeOf m n) o.lease n (maskOf (o.pa % 256) o.size) (placeLine (o.pa % 256) (le o.size v.toNat))
  if isControl o.pa then (if o.kind = .store then writeCtl m (opActor o) o.pa o.size o.data else m)
  else if o.kind = .store then put o.data
  else match atomicNew o.kind (loadValue (cohLine m n).1 o.pa 8 false) o.data o.exp with
    | some v => put v
    | none => m

def flushOps (m : Mach) (e : Nat) : Mach := modEng ((eng m e).memops.foldl flushOp m) e (fun x => { x with memops := [] })

/-- An occupied bank of a lost bench whose domain lives: displaced into setts, its entry given to an heir. A bank for which no sett or no
place is found is lost. The faulting bundle of an exception-pending bank raises its exception again where the task resumes. -/
def bankSaved (m : Mach) (heirs : List Nat) (e l : Nat) : Bool × Mach :=
  let m := modBank m e l (fun b => { b with st := if b.st = .exception then .ready else b.st, queues := [], macq := [], ring := none })
  let m := if (bank m e l).st = .saving then m else leaveBank m e l
  if (bank m e l).st = .empty then (true, m) else
  match (bank m e l).saved with
  | some q => (match giveEntry m heirs q with
    | some m => (true, setBank m e l Bank.reset)
    | none => (false, bankLost m e l))
  | none => (false, bankLost m e l)

/-- The bench is lost; `alive` says whether its clock domain still runs. -/
def benchLost (m : Mach) (b : Nat) (alive : Bool) : Mach :=
  let t0 := max (sinceFound m (.bench b true)) (sinceFound m (.bench b false))
  let m := preempt m [(1, b)]
  let heirs := benchHeirs m b
  let first := heirs.headD b
  let m := setUState m 0x01 b .failed
  let m := benchLinesLost m b
  let m := (enginesOf b).foldl (fun m e =>
    if alive then (List.range 3).foldl (fun m l => routineStops m e l) (flushOps m e) else modEng m e (fun x => { x with memops := [] })) m
  let banks := (enginesOf b).flatMap (fun e => ((List.range 3).filter (fun l => (bank m e l).st != .empty)).map (fun l => (e, l)))
  let (saved, lost, m) := banks.foldl (fun (a : Nat × Nat × Mach) p =>
    let r := if alive then bankSaved a.2.2 heirs p.1 p.2 else (false, bankLost a.2.2 p.1 p.2)
    if r.1 then (a.1 + 1, a.2.1, r.2) else (a.1, a.2.1 + 1, r.2)) (0, 0, m)
  let x := bench m b
  let m := modBench m b (fun y => { y with queue := [], waiting := [], stock := [] })
  let m := x.stock.foldl (fun m p =>
    if alive then modLease m p.1 (fun y => { y with pool := y.pool ++ p.2 }) else settUse m p.1 0 0 p.2.length) m
  let (moved, gone, m) := giveAll m b heirs (!alive) (x.queue ++ x.waiting)
  let m := modEvt m (fun z => { z with waiting := z.waiting.map (fun w => if w.bench = b then { w with bench := first } else w) })
  let m := (enginesOf b).foldl (fun m e =>
    let m := if ustate m 0x02 e = .failed then m else setUState m 0x02 e .offline
    modEng m e (fun x => { x with excLevel := none, arrays := [], walks := [], xfails := [], fetch := none, ahead := [] })) m
  let m := (enginesOf b).foldl (fun m e => l3Moves m e first) m
  raiseErrD m 0x0015 (0x0500 + b) (0x0500 + b) (le 2 saved ++ le 2 lost ++ le 2 moved ++ le 2 gone) none none t0

/-- BENCH_LOSS: a bench with a role is lost on a fault found in it, on an uncorrectable error in its queue or wait table, or with its
domain. -/
def benchGoes (m : Mach) (b : Nat) (alive : Bool) : Mach :=
  if !(benchIn m b || benchDraining m b) then m else
  recover m (.bench b alive) (fun m => faultTaken (benchLost m b alive) (.bench b (!alive)))

/-! ## The loss of a home node (R475, R479, R805) -/

/-- A home node is lost and its buddy takes over, pre-empting a load that holds either (R126); where the buddy is lost already, or a partial
image at work names it (R129), the module enters Check-stop. -/
def homeLostNow (m : Mach) (h : Nat) : Mach :=
  let b := buddyOf m h
  let m := preempt m [(3, h), (3, b)]
  if (home m b).lost ∨ b = h ∨ applyingNames m 0x12 b then checkStop m 0 else
  let m := if (home m b).st = .takingOver then shareOpens m (home m b).takeoverOf else m
  homeTakeoverBegin m h

/-- HOME_NODE_LOSS; its recovery ends with SHARE_OPEN. -/
def homeGoes (m : Mach) (h : Nat) : Mach :=
  if !unitHasRole m 0x03 h || (home m h).lost then m else
  let f := FaultEv.home h
  let m := noteFault m f
  if holding m then recover m f (fun m => homeLostNow m h)
  else
    let m := if unitsRun m then beginRecovery m f else m
    lossCheck (faultTaken (homeLostNow m h) f)

/-! ## Service cores and hubs (R811, R812) -/

/-- The session lapses: nothing changes but the ownership (R63). -/
def sessionLapses (m : Mach) : Mach := { m with svc := { m.svc with owner := none } }

/-- A service core is lost: its hub's session lapses, and what was agreed on its ports is gone. -/
def coreLost (m : Mach) (h : Nat) : Mach :=
  if m.svc.coresLost.contains h then m else
  let m := { m with svc := { m.svc with coresLost := insNat m.svc.coresLost h, agreed := m.svc.agreed.filter (fun p => p.1 / 2 != h),
                                        kept := m.svc.kept.filter (fun k => portHub k.port != h),
                                        running := m.svc.running.filter (fun k => portHub k.port != h) } }
  let m := match m.svc.owner with | some p => if portHub p = h then sessionLapses m else m | none => m
  setUState (raiseErr m 0x0054 (0x0D00 + h) (le 1 h)) 0x0E h .failed

/-- Every downstream link of a port is down. -/
def portDown (m : Mach) (p : Nat) : Mach :=
  portPathsFail (modPcie m p (fun x => { x with links := vmap (fun d => if d.st = 0 then d else { d with st := 3 }) x.links })) p none 6

/-- The channel processors of a hub are lost, and the other group adopts their transactions (R570). -/
def groupLost (m : Mach) (h : Nat) : Mach :=
  let m := (List.range 8).foldl (fun m i => if ustate m 0x08 (8 * h + i) = .reset then m else setUState m 0x08 (8 * h + i) .failed) m
  let (n, m) := groupAdopt m h
  raiseErr m 0x0064 (0x0900 + 8 * (1 - h)) (le 2 n.1 ++ le 2 n.2)

/-- Crushers or cipher engines that fail together hand their jobs to units that still work. -/
def worksLost (m : Mach) (kind : Nat) (us : List Nat) : Mach :=
  let us := us.filter (fun u => workActive m kind u || (decide (u < 8) && ustate m (workBlock kind) u == .draining))
  let m := us.foldl (fun m u => if u < 8 then setUState m (workBlock kind) u .failed else modWork m 1 u (fun w => { w with failed := true })) m
  us.foldl (fun m u => workFails m kind u) m

/-- A time-stamp master and an event block are lost with their service domain. -/
def timeGone (m : Mach) (h : Nat) : Mach :=
  let m := if (master m h).running then setMaster m h { master m h with failed := true } else m
  setUState m 0x0D h .failed

/-- A hub is lost with all its units. -/
def hubLostNow (m : Mach) (h : Nat) : Mach :=
  let m := raiseErr m 0x0053 (0x0D00 + h) (le 1 h)
  let m := worksLost (worksLost m 0 ((List.range 4).map (fun i => 4 * h + i))) 1 (((List.range 4).map (fun i => 4 * h + i)) ++ [8 + h])
  let m := { m with hubsLost := insNat m.hubsLost h, hubTlb := lset m.hubTlb h [] }
  let m := if committed m then groupLost m h else m
  let m := (List.range 64).foldl (fun m p => if pathKind m p != 0 && pathHub m p == h then pathFails m p 6 else m) m
  let m := if ustate m 0x0B h == .active || ustate m 0x0B h == .starting then halfLost m h else m
  let m := coreLost (timeGone m h) h
  let m := (List.range 4).foldl (fun m i =>
    let l := 4 * h + i
    if (link m l).st = .offline ∧ ustate m 0x06 l = .reset then m
    else setUState (setLinkState m l .down) 0x06 l .failed) m
  if ustate m 0x07 h = .reset then m else setUState (portDown m h) 0x07 h .failed

/-- HUB_LOSS. -/
def hubGoes (m : Mach) (h : Nat) : Mach :=
  if !hubIn m h then m else recover m (.hub h) (fun m => hubLostNow m h)

/-! ## Tiles and substrate links (R806 to R808) -/

/-- A compute tile is lost with its benches, home nodes and channels. -/
def tileLostNow (m : Mach) (t : Nat) : Mach :=
  let m := { m with errs := { m.errs with tilesLost := insNat m.errs.tilesLost t } }
  let m := raiseErr m 0x0052 0x0F00 (le 1 t)
  let benches := ((List.range 16).map (fun i => 16 * t + i)).filter (fun b => benchIn m b || benchDraining m b)
  let m := benches.foldl (fun m b => setUState m 0x01 b .draining) m
  let m := benches.foldl (fun m b => benchLost m b false) m
  let homes := ((List.range 4).map (fun i => 4 * t + i)).filter (fun h => unitHasRole m 0x03 h && !(home m h).lost)
  let m := homes.foldl (fun m h => homeLostNow m h) m
  let chans := ((List.range 3).map (fun i => 3 * t + i)).filter (fun c => (chan m c).role != 0 && (chan m c).phase != .failed)
  -- a spare of the tile takes no member's place
  let m := chans.foldl (fun m c => if (chan m c).role = 2 then setUState (modChan m c (fun x => { x with phase := .failed })) 0x04 c .failed else m) m
  chans.foldl (fun m c => channelFails m c 1) m

def tileGoes (m : Mach) (t : Nat) : Mach :=
  if m.errs.tilesLost.contains t then m else recover m (.tile t) (fun m => tileLostNow m t)

def subLink (m : Mach) (l : Nat) : SubLink := tget m.subs l SubLink.reset
def modSubLink (m : Mach) (l : Nat) (f : SubLink → SubLink) : Mach := { m with subs := tset m.subs l (f (subLink m l)) }

/-- The links of a tile, coded as R808 numbers them. -/
def tileLinks (t : Nat) : List Nat := (List.range 13).filter (fun l => (linkEnds l).1 == t || (linkEnds l).2 == t)

/-- The tile is still in service. -/
def tileIn (m : Mach) (t : Nat) : Bool := if t < 4 then !m.errs.tilesLost.contains t else hubIn m (t - 4)

/-- A source tile has a link toward a destination: the primary, or the alternate, that is not lost. -/
def reachesTile (m : Mach) (s d : Nat) : Bool :=
  let v := imgFld m 0x0003 s d 1
  [v % 16, v / 16].any (fun l => decide (l < 13) && !(subLink m l).lost)

/-- A tile or hub is lost. -/
def endLost (m : Mach) (t : Nat) : Mach := if t < 4 then tileGoes m t else hubGoes m (t - 4)

/-- A substrate link is lost: traffic takes the alternates, and a destination without a route counts as lost. -/
def linkLostNow (m : Mach) (l : Nat) : Mach :=
  let m := modSubLink m l (fun x => { x with lost := true, fails := [] })
  let m := raiseErr m 0x0051 0x0F00 (le 1 l)
  let cut := [(linkEnds l).1, (linkEnds l).2].filter (fun t => tileIn m t && (tileLinks t).all (fun k => (subLink m k).lost))
  let m := cut.foldl endLost m
  (List.range 6).foldl (fun m s => (List.range 6).foldl (fun m d =>
    if s ≠ d ∧ tileIn m s ∧ tileIn m d ∧ !reachesTile m s d then endLost m d else m) m) m

def meshLinkGoes (m : Mach) (l : Nat) : Mach :=
  if (subLink m l).lost ∨ m.mode.st = .checkStop then m else recover m (.meshLink l) (fun m => linkLostNow m l)

/-- Credits of a virtual channel's pool that are out (R20, R824). -/
def creditsOut (x : SubLink) (k : Nat) : Nat := (tget x.issued k 0 + 2 ^ 32 - tget x.returned k 0) % 2 ^ 32

/-- MESH_TRANSFER: a transfer reaches the other end of a link, or is resent; a ninth failure loses the link. It takes a credit of its own virtual
channel's pool, and while none is there it has not been sent (R20). -/
def meshTransfer (m : Mach) (l k : Nat) (good : Bool) (vc : Nat) : Mach :=
  let x := subLink m l
  let out := creditsOut x k
  if x.lost || !(out == 0 || decide (out < (Config.creditPool l k).toNat + 1)) then m
  else
    let n := tget x.fails k 0
    if good then
      let m := modSubLink m l (fun x => { x with fails := tdel x.fails k, issued := tset x.issued k ((tget x.issued k 0 + 1) % 2 ^ 32) })
      if n = 0 then m else raiseErr m 0x0050 0x0F00 (le 1 l ++ le 1 vc ++ le 1 n)
    else if 9 ≤ n + 1 then meshLinkGoes m l
    else modSubLink m l (fun x => { x with fails := tset x.fails k (n + 1) })

/-! ## Lost clock domains (R789, R838) -/

/-- A domain that Hold gates: its heartbeat is ignored there. -/
def holdGates (m : Mach) (d : Nat) : Bool := m.mode.st == .hold && holdMhz m d == 0

/-- The unit of a lost domain is lost: a channel answers no command (trigger 1), a link or port goes down for good, every other unit as its
own chapter states. -/
def domainLost (m : Mach) (d : Nat) : Mach :=
  let m := modDom m d (fun x => { x with mhz := 0, lost := true })
  if d < 64 then benchGoes m d false
  else if d < 80 then homeGoes m (d - 64)
  else if d < 92 then
    let c := d - 80
    if (chan m c).role = 0 then m else lossCheck (channelFails m c 1)
  else if d < 100 then
    let l := d - 92
    if (link m l).st = .offline then m
    else lossCheck (linkPathsFail (setUState (setLinkState m l .failed) 0x06 l .failed) l 1)
  else if d < 102 then
    if ustate m 0x07 (d - 100) = .reset then m else lossCheck (setUState (portDown m (d - 100)) 0x07 (d - 100) .failed)
  else if d < 110 then worksLost m 0 [d - 102]
  else if d < 118 then worksLost m 1 [d - 110]
  else if d < 120 then (if ustate m 0x0B (d - 118) == .active then halfLost m (d - 118) else m)
  -- R807: the links of a lost tile or hub mesh are lost with it
  else if d < 124 then (tileLinks (d - 120)).foldl meshLinkGoes (tileGoes m (d - 120))
  else if d < 126 then (tileLinks (d - 120)).foldl meshLinkGoes (hubGoes m (d - 124))
  else if d < 128 then (if hubIn m (d - 126) && committed m then groupLost m (d - 126) else m)
  else if d < 130 then lossCheck (coreLost (timeGone m (d - 128)) (d - 128))
  else m

/-- HEARTBEAT_LOSS: a running domain's heartbeat has been absent for 5 µs. -/
def heartbeatLost (m : Mach) (d : Nat) : Mach :=
  if (dom m d).mhz = 0 ∨ holdGates m d then m else domainLost m d

/-! ## The faults that Hold kept (R28, R32) -/

/-- The recovery of a fault that waited for the end of Hold begins. -/
def deferredNow (m : Mach) (f : FaultEv) : Mach :=
  match f with
  | .engine e => if (eng m e).memops.isEmpty then engineSparing (noteFault m f) e 0 else noteFault m f
  | .bench b alive => benchGoes m b alive
  | .home h => homeGoes m h
  | .tile t => tileGoes m t
  | .hub h => hubGoes m h
  | .meshLink l => meshLinkGoes m l
  | .chan c t => lossCheck (chanRecovers m c t)

end Sys2Proof.Machine
end

