-- ==== Sys2Proof/Machine/ClockCmds.lean ====
section
/-! DEFINITION. The commands of the clock domains, references, supplies and lands (R90, R769, R831 to R839, R846, R847, R853). -/

namespace Sys2Proof.Machine

/-! ## Operating points (R834, R835, R839) -/

/-- A reading makes a domain lower its frequency: one at or above L, and, while the readings stay at or above L − 2 °C, one at each 50 µs. -/
def thermalDue (m : Mach) (d temp : Nat) : Bool :=
  let x := dom m d
  let limit := domLimit m d
  let hot := decide (limit ≤ x.temp + 2)
  let waited := match x.loweredAt with | none => true | some t => decide (t + 50000 ≤ m.now)
  if x.throttled && hot then waited && decide (limit ≤ temp + 2) else decide (limit ≤ temp)

/-- A step down of 100 MHz, which never passes below the floor. -/
def thermalStep (m : Mach) (d temp : Nat) : Mach :=
  let x := dom m d
  if !thermalDue m d temp then modDom m d (fun x => { x with temp := temp })
  else if x.mhz < domFloor m d + 100 then modDom m d (fun x => { x with temp := temp, throttled := true, loweredAt := some m.now })
  else
    let m := modDom m d (fun x => { x with temp := temp, throttled := true, loweredAt := some m.now, mhz := min (x.mhz - 100) (domCeil m d) })
    { m with pins := { m.pins with throttles := sat 0xFFFFFFFF (m.pins.throttles + 1) } }

/-- A domain raises by one step where a millisecond has passed since it last did, and after a lowering for heat only at or below L − 5 °C.
It counts as throttled until it is at its ceiling again (log entry 53). -/
def freqRaise (m : Mach) (d temp : Nat) : Mach :=
  let x := dom m d
  let waited := match x.raisedAt with | none => true | some t => decide (t + 1000000 ≤ m.now)
  if !waited || (x.throttled && decide (domLimit m d < temp + 5)) then m
  else modDom m d (fun x => { x with mhz := x.mhz + 100, raisedAt := some m.now, throttled := x.throttled && decide (x.mhz + 100 < domCeil m d) })

/-- The choice of every 10 µs: `target` is the frequency that the domain's utilisation asks for, in units of 100 MHz. It lies between floor
and ceiling; a lowering for heat and a new ceiling take the lower result. -/
def freqDecide (m : Mach) (d target temp : Nat) : Mach :=
  let want := min (domCeil m d) (max (domFloor m d) (100 * target))
  let hot := thermalDue m d temp
  let m := thermalStep m d temp
  let x := dom m d
  if want < x.mhz then modDom m d (fun x => { x with mhz := want })
  else if x.mhz < want && !hot then freqRaise m d temp else m

/-- A domain of variable clock that runs. -/
def domRuns (m : Mach) (d : Nat) : Bool := domVar d && (dom m d).mhz != 0

/-- FREQUENCY_DECISION (R834). -/
def execFrequencyDecision (d : DomainId) (target : Byte) (temp : Byte) (s : State) : Host.Outcome State Fault Refusal :=
  runUnits s (fun m => if domRuns m d.val then freqDecide m d.val target.toNat temp.toNat else m)

/-- THERMAL_LIMIT_STEP (R835). -/
def execThermalLimitStep (d : DomainId) (temp : Byte) (s : State) : Host.Outcome State Fault Refusal :=
  runUnits s (fun m => if domRuns m d.val then thermalStep m d.val temp.toNat else m)

/-! ## Trips and lost references (R833, R836) -/

/-- A sensor reads 115 °C or above: the domain gates its clock, THERMTRIP_N goes low, and the unit is lost, where its clock ran. -/
def thermalTrip (m : Mach) (d temp : Nat) : Mach :=
  if temp < 115 ∨ d = 130 ∨ (dom m d).tripped then m else
  let ran := (dom m d).mhz != 0
  let m := modDom m d (fun x => { x with temp := temp, tripped := true })
  let m := if m.pins.thermtrip then m else emit { m with pins := { m.pins with thermtrip := true } } (.land 5103 false)
  if ran then domainLost m d else m

/-- THERMAL_TRIP (R836). -/
def execThermalTrip (d : DomainId) (temp : Byte) (s : State) : Host.Outcome State Fault Refusal :=
  runAlive s (fun m => thermalTrip m d.val temp.toNat)

/-- REFCLK_FAILURE (R833): the domains that follow the reference switch to the other one and keep their clocks; where both have failed they
run on from holdover. -/
def execRefclkFailure (h : HubId) (s : State) : Host.Outcome State Fault Refusal :=
  runM s (fun m =>
    let bad := insNat m.pins.refBad h.val
    { m with pins := { m.pins with refBad := bad, refBadAt := if bad.length < 2 then none else some (m.pins.refBadAt.getD m.now) } })

/-- REFCLK_RECOVERY (R833). -/
def execRefclkRecovery (h : HubId) (s : State) : Host.Outcome State Fault Refusal :=
  runM s (fun m => { m with pins := { m.pins with refBad := m.pins.refBad.filter (fun k => k != h.val), refBadAt := none } })

/-- Domains that go together, and with them the module: the minimum set is no longer met, so everything freezes where it stands. -/
def domsGone (m : Mach) (n : Nat) : Mach :=
  (List.range n).foldl (fun m d => if (dom m d).mhz = 0 then m else modDom m d (fun x => { x with mhz := 0, lost := true })) m

/-- REFCLK_HOLDOVER_EXPIRY (R833): every domain but always-on is lost, the service cores with theirs. -/
def execRefclkHoldoverExpiry (s : State) : Host.Outcome State Fault Refusal :=
  runAlive s (fun m =>
    match m.pins.refBadAt with
    | none => m
    | some t => if m.now < t + 1000000 then m else checkStop (coreLost (coreLost (domsGone m 130) 0) 1) 1)

/-! ## Supplies (R846, R847) -/

/-- PWRGD_MAIN_RISE (R846). -/
def execPwrgdMainRise (s : State) : Host.Outcome State Fault Refusal :=
  runM s (fun m => if m.pins.ao then { m with pins := { m.pins with main := true } } else m)

/-- PWRGD_MAIN_FALL (R847): outside Bare and Test every domain on VCCIN is lost, and the module enters Check-stop. -/
def execPwrgdMainFall (s : State) : Host.Outcome State Fault Refusal :=
  runM s (fun m =>
    let m := { m with pins := { m.pins with main := false } }
    if m.mode.st == .bare || m.mode.st == .test || !alive m then m else checkStop (domsGone m 128) 1)

/-! ## Lands (R90, R769, R853) -/

/-- The 1 PPS output that a land has, as the master whose counter it follows: by its pin function the active one, by the time-discipline
record its hub's. -/
def ppsMaster (m : Mach) (i : Nat) : Option Nat :=
  let f := imgFld m 0x000F i 0 1
  if i < 12 then (if f = 4 then some m.evt.activeMaster else none)
  else if f = 1 then some m.evt.activeMaster
  else if f = 0 ∧ bit (imgFld m 0x0011 (i - 12) 3 1) 1 then some (i - 12)
  else none

/-- A land that drives a 1 PPS output rises within 2 ns of a whole second and falls 100 ms later. -/
def ppsOut (m : Mach) (i : Nat) : Mach :=
  match ppsMaster m i with
  | none => m
  | some k =>
    let c := (master m k).count.toNat % 1000000000
    if m.pins.pps.contains i then
      if m.now < m.pins.ppsUntil then m
      else emit { m with pins := { m.pins with pps := m.pins.pps.filter (fun j => j != i) } } (.land (pinLand i) false)
    else if (master m k).running && (decide (c ≤ 2) || decide (999999998 ≤ c)) then
      emit { m with pins := { m.pins with pps := insNat m.pins.pps i, ppsUntil := m.now + 100000000 } } (.land (pinLand i) true)
    else m

/-- PPS_OUTPUT_EDGE (R769, R853). -/
def execPpsOutputEdge (land : Fin 14) (s : State) : Host.Outcome State Fault Refusal := runAlive s (fun m => ppsOut m land.val)

/-- TAP_INSTRUCTION (R90): 0 to 5 are BYPASS, IDCODE, SAMPLE/PRELOAD, EXTEST, CLAMP and HIGHZ, 6 an instruction of internal scan and debug,
which only Test offers; a TAP answers an instruction that it does not offer as BYPASS (log entry 54). -/
def execTapInstruction (code : Fin 7) (s : State) : Host.Outcome State Fault Refusal :=
  runM s (fun m => { m with pins := { m.pins with tap := if code.val = 6 ∧ m.mode.st ≠ .test then 0 else code.val } })

/-- MODE_MACHINE_UNCORRECTABLE_ERROR (R819). -/
def execModeMachineUncorrectableError (s : State) : Host.Outcome State Fault Refusal := runAlive s (fun m => checkStop m 0)

end Sys2Proof.Machine
end

