-- ==== Sys2Proof/Machine/FaultCmds.lean ====
section
/-! DEFINITION. The commands of faults and recoveries (R789, R797, R803 to R813). -/

namespace Sys2Proof.Machine

/-- HEARTBEAT_LOSS (R789). -/
def execHeartbeatLoss (d : DomainId) (s : State) : Host.Outcome State Fault Refusal := runAlive s (fun m => heartbeatLost m d.val)

/-- ENGINE_SPARING (R797 to R802). -/
def execEngineSparing (e : EngineId) (bad : BitVec 4) (s : State) : Host.Outcome State Fault Refusal :=
  runMesh s (fun m => engineSparing m e.val bad.toNat)

/-- BENCH_LOSS (R803). -/
def execBenchLoss (b : BenchId) (s : State) : Host.Outcome State Fault Refusal :=
  runMesh s (fun m => benchGoes m b.val (!m.mode.found.contains (.bench b.val false)))

/-- HOME_NODE_LOSS (R805). -/
def execHomeNodeLoss (h : HomeId) (s : State) : Host.Outcome State Fault Refusal := runMesh s (fun m => homeGoes m h.val)

/-- TILE_LOSS (R806). -/
def execTileLoss (t : Fin 4) (s : State) : Host.Outcome State Fault Refusal := runMesh s (fun m => tileGoes m t.val)

/-- MESH_TRANSFER (R807). -/
def execMeshTransfer (link : Fin 13) (dir : Fin 2) (vc : Fin 5) (crcGood : Bool) (s : State) : Host.Outcome State Fault Refusal :=
  runMesh s (fun m => meshTransfer m link.val (5 * dir.val + vc.val) crcGood vc.val)

/-- SERVICE_CORE_LOSS (R811). -/
def execServiceCoreLoss (h : HubId) (s : State) : Host.Outcome State Fault Refusal :=
  runM s (fun m => if m.svc.released then lossCheck (coreLost m h.val) else m)

/-- HUB_LOSS (R812). -/
def execHubLoss (h : HubId) (s : State) : Host.Outcome State Fault Refusal := runMesh s (fun m => hubGoes m h.val)

/-- A service core works again, with the hub's time-stamp master and event block where they were lost: the master takes the active one's
count; master 0 and the west block are active whenever their hub is in service (R761, R774, R826). -/
def coreReturns (m : Mach) (h : Nat) : Mach :=
  let m := { m with svc := { m.svc with coresLost := m.svc.coresLost.filter (fun k => k != h), returning := m.svc.returning.filter (fun k => k != h) } }
  let m := domStart (modDom (setUState m 0x0E h .active) (128 + h) (fun _ => Dom.reset)) (128 + h)
  if !(master m h).failed then m else
  let m := setMaster (setUState m 0x0D h .active) h { TsMaster.reset with running := true, count := timeNow m }
  disciplineStart (modEvt m (fun x => { x with activeMaster := if h = 0 then 0 else x.activeMaster, activeBlock := if h = 0 then 0 else x.activeBlock })) h

/-- A lost hub returns (R813). Its other units return by their own commands; its links and port stand Offline. -/
def hubReturns (m : Mach) (h : Nat) : Mach :=
  if !m.hubsLost.contains h then coreReturns m h else
  let m := coreReturns { m with hubsLost := m.hubsLost.filter (fun k => k != h) } h
  let m := domStart (modDom m (124 + h) (fun _ => Dom.reset)) (124 + h)
  let m := (List.range 4).foldl (fun m i =>
    let l := 4 * h + i
    if imgFld m 0x000C l 0 1 = 0 then m else setUState (setLinkState m l .offline) 0x06 l .offline) m
  if imgFld m 0x000C (8 + h) 0 1 = 0 then m
  else setUState (modPcie m h (fun x => { x with links := vmap (fun d => { d with st := 0 }) x.links })) 0x07 h .offline

/-- HUB_RETURN (R813): the service core has its boot firmware from the other hub's flash, or from its own (R56). -/
def execHubReturn (h : HubId) (s : State) : Host.Outcome State Fault Refusal :=
  runAlive s (fun m =>
    if m.svc.returning.contains h.val && m.svc.coresLost.contains h.val && !fusesBad s.fuse && (bothItems m 1).any (firmwareGood s.fuse) then hubReturns m h.val
    else m)

end Sys2Proof.Machine
end

