-- ==== Sys2Proof/Machine/MemoryCmds.lean ====
section
/-! DEFINITION. The commands of the memory channels and seams (R490 to R539). -/

namespace Sys2Proof.Machine

/-- A write to `MCH_CMD` of channel c (R535, R536). -/
def mchWrite (a : Actor) (c : ChanId) (code : Nat) (s : State) : Host.Outcome State Fault Refusal :=
  runM s (ctlWrite a 0x04 c.val 0x0100 (fun m => mchCmd m c.val code))

/-- MCH_RETRAIN (R510, R512). -/
def execMchRetrain (a : Actor) (c : ChanId) (s : State) : Host.Outcome State Fault Refusal := mchWrite a c 1 s
/-- MCH_OFFLINE_FORCE (R510). -/
def execMchOfflineForce (a : Actor) (c : ChanId) (s : State) : Host.Outcome State Fault Refusal := mchWrite a c 3 s
/-- MCH_POWER_OFF (R510, R511). -/
def execMchPowerOff (a : Actor) (c : ChanId) (s : State) : Host.Outcome State Fault Refusal := mchWrite a c 4 s
/-- MCH_POWER_ON (R510, R511). -/
def execMchPowerOn (a : Actor) (c : ChanId) (s : State) : Host.Outcome State Fault Refusal := mchWrite a c 5 s
/-- MCH_ONLINE (R510). -/
def execMchOnline (a : Actor) (c : ChanId) (s : State) : Host.Outcome State Fault Refusal := mchWrite a c 6 s

/-- COMMAND_TIMEOUT: a command goes unanswered for 10 µs; the fourth in a row fails the channel (R502, R503). -/
def commandTimeout (m : Mach) (c : Nat) : Mach :=
  if !chanServes m c then m else
  let m := modChan m c (fun x => { x with timeouts := x.timeouts + 1 })
  if 4 ≤ (chan m c).timeouts then channelFails m c 1 else m

/-- The rebuild engine has read the four present pieces of seam line k and goes on; where one of them, at position `bad`, proves
uncorrectable, the line is lost (R500, R507, R515). -/
def rebuilds (m : Mach) (s k : Nat) (bad : Option (Fin 5)) (goOn : Mach → Mach) : Mach :=
  match bad with
  | none => goOn m
  | some p =>
    if posMissing m s k p.val then m else
    let c := posSub m s p.val / 2
    uncFails (goOn (lineLost (countUnc m c (lineOfSeam s k)) (lineOfSeam s k))) c

/-- REBUILD_REQUEST: the seam's rebuild engine writes the missing piece of the line at the watermark, or sweeps the next line of
the catch-up map (R507, R513); a line that its home is serving makes the request wait (R453). None in Hold (R509). -/
def rebuildRequest (m : Mach) (s : Nat) (bad : Option (Fin 5)) : Mach :=
  let x := seam m s
  let busy (k : Nat) : Bool :=
    let n := lineOfSeam s k
    (tfind (home m (homeOf m n)).txns n).isSome
  match x.st with
  | .rebuilding =>
    if m.mem.lines ≤ x.w ∨ busy x.w then m else
    -- R529: the target has left self-refresh
    let m := match x.target with
      | some t => modChan m t (fun y => if y.phase = .selfRefresh then { y with phase := .running, srStep := 0 } else y)
      | none => m
    rebuilds m s x.w bad (fun m => modSeam m s (fun y => { y with w := x.w + 1 }))
  | .catchUp =>
    match x.sweep with
    | none => m
    | some k =>
      match (List.range (m.mem.lines - k)).find? (fun i => x.map.contains (regionOf m (k + i))) with
      | none => modSeam m s (fun y => { y with map := [], sweep := some m.mem.lines })
      | some i =>
        if busy (k + i) then m else
        let r := regionOf m (k + i)
        let next := k + i + 1
        rebuilds m s (k + i) bad (fun m => modSeam m s (fun y => { y with sweep := some next, map := if next < m.mem.lines ∧ regionOf m next = r then y.map else y.map.filter (fun q => q != r) }))
  | _ => m

/-- SEAM_REBUILD_COMPLETE: the last seam line is rebuilt; the spare's subchannel takes the position (R504), the channel replaced
becomes Offline once both its seams are done (R510). -/
def seamRebuilt (m : Mach) (s : Nat) : Mach :=
  let x := seam m s
  if x.st ≠ .rebuilding ∨ x.w < m.mem.lines then m else
  let p := x.missing.getD 0
  let old := x.members.getD p 0
  let t := x.target.getD 0
  let m := setSeam m s { x with st := .complete, members := lset x.members p (2 * t + old % 2), missing := none, target := none }
  let m := modChan m t (fun y => { y with role := 1 })
  let m := setUState m 0x04 t .active
  let m := endRecovery (endRecovery m (.chan (old / 2) 0)) (.chan (old / 2) 1)
  let m := [2, 3, 4].foldl (fun m i => endRecovery m (.chan (old / 2) i)) m
  let m := modChan m (old / 2) (fun y => if (chanSeams m (old / 2)).isEmpty then { y with role := 0 } else y)
  if (chan m (old / 2)).draining ∧ chanSeams m (old / 2) = [] then
    setUState (modChan m (old / 2) (fun y => { y with draining := false, offline := true })) 0x04 (old / 2) .offline
  else m

def execSeamRebuildComplete (k : SeamId) (s : State) : Host.Outcome State Fault Refusal := runUnits s (fun m => seamRebuilt m k.val)

/-- The retraining interval in ns and the drift in °C of a channel's record (R531). -/
def retrainInterval (m : Mach) (c : Nat) : Nat :=
  let v := imgFld m 0x0005 c 4 2
  (if v = 0 then 1440 else v) * 60000000000
def retrainDrift (m : Mach) (c : Nat) : Nat :=
  let v := imgFld m 0x0005 c 6 1
  if v = 0 then 10 else v

/-- Since when a channel's retraining is due: its interval passed, or its temperature was seen beyond the drift limit (R521). -/
def dueFrom (m : Mach) (c : Nat) : Option Nat :=
  let x := chan m c
  let t := x.lastTrain + retrainInterval m c
  if chanFlag m c 1 ∧ t ≤ m.now then some (min t (x.dueSince.getD t)) else x.dueSince

/-- A retraining of the channel would be accepted now (R510, R521). -/
def mayRetrain (m : Mach) (c : Nat) : Bool := retrainOk m c && retrainSeamsOk m c && noneRetrains m c

/-- RETRAIN_DUE: the interval has passed, or the temperature has moved beyond the drift limit (R521). The retraining starts where RETRAIN
would be accepted and no other channel that may retrain has been due longer; else it is deferred. -/
def retrainDue (m : Mach) (c temp : Nat) : Mach :=
  let x := chan m c
  let moved := retrainDrift m c < max temp x.tempAtTrain - min temp x.tempAtTrain
  let m := modChan m c (fun x => { x with temp := temp, dueSince := if moved then some (x.dueSince.getD m.now) else none })
  match dueFrom m c with
  | none => m
  | some t =>
    let longest := (List.range 12).all (fun d => d == c || !mayRetrain m d ||
      (match dueFrom m d with | none => true | some u => decide (t < u) || (t == u && decide (c < d))))
    if mayRetrain m c && longest then startRetrain m c else m

def execRetrainDue (c : ChanId) (temp : Byte) (s : State) : Host.Outcome State Fault Refusal :=
  runUnits s (fun m => retrainDue m c.val temp.toNat)

/-- RETRAIN_COMPLETE: a lane with an eye below 0.25 UI fails the channel (R502); else the catch-up sweep begins (R513). -/
def retrainComplete (m : Mach) (c : Nat) (lanes : List Lane) : Mach :=
  if (chan m c).phase ≠ .retraining then m
  else if !lanesOk lanes then channelFails (modChan m c (fun x => { x with lanes := lanes })) c 3
  else
    let ss := chanSeams m c
    let spare := (chan m c).role == 2
    let m := modChan m c (fun x => { x with
      lanes := lanes, oldLanes := [], retrainings := sat 0xFFFF (x.retrainings + 1), lastTrain := m.now, tempAtTrain := x.temp,
      phase := if ss.isEmpty then (if spare && chanFlag m c 2 then .selfRefresh else .running) else .catchUp })
    ss.foldl (fun m s => modSeam m s (fun y => if y.st = .catchUp then { y with sweep := some 0 } else y)) m

/-- CATCH_UP_COMPLETE: retraining and catch-up have ended; the map is cleared and the seam Complete (R504). -/
def catchUpComplete (m : Mach) (s : Nat) : Mach :=
  let x := seam m s
  if x.st ≠ .catchUp ∨ x.sweep = none ∨ x.map ≠ [] then m else
  let c := x.members.getD (x.missing.getD 0) 0 / 2
  let m := setSeam m s { x with st := .complete, missing := none, map := [], sweep := none }
  if (chanSeams m c).all (fun q => (seam m q).st != .catchUp) then
    modChan m c (fun y => if y.phase = .catchUp then { y with phase := .running } else y)
  else m

def execCatchUpComplete (k : SeamId) (s : State) : Host.Outcome State Fault Refusal := runUnits s (fun m => catchUpComplete m k.val)

/-- REFRESH_DUE: at most 4 refreshes are postponed behind queued reads; a refresh serves all that are due. An all-bank refresh closes the
subchannel's rows, each same-bank refresh those of the next bank of every bank group (R527, R531). -/
def refreshDue (m : Mach) (c i : Nat) : Mach :=
  if !chanServes m c then m else
  modSub m (2 * c + i) (fun x =>
    if x.reads ≠ [] ∧ x.postponed < 4 then { x with postponed := x.postponed + 1 }
    else if chanFlag m c 0 then { x with
      postponed := 0, refBank := (x.refBank + x.postponed + 1) % 4,
      openRows := x.openRows.filter (fun e => decide (x.postponed + 1 ≤ (e.1 / 8 + 4 - x.refBank) % 4)) }
    else { x with postponed := 0, openRows := [] })

def execRefreshDue (c : ChanId) (i : Fin 2) (s : State) : Host.Outcome State Fault Refusal := runMesh s (fun m => refreshDue m c.val i.val)

/-- SELF_REFRESH_EXIT: the exit has been made and tXS has passed (R528, R529); a spare that its record keeps in self-refresh stays,
and so does every channel in Hold. -/
def selfRefreshExit (m : Mach) (c : Nat) : Mach :=
  let x := chan m c
  let kept := x.role == 2 && chanFlag m c 2
  if x.phase = .selfRefresh ∧ !kept then modChan m c (fun y => { y with phase := .running, srStep := 0 }) else m

def execSelfRefreshExit (c : ChanId) (s : State) : Host.Outcome State Fault Refusal := runUnits s (fun m => selfRefreshExit m c.val)

/-- 256 clock periods of the channel's data rate in ns (R526); the record gives the rate in units of 100 MT/s. -/
def rowIdleNs (m : Mach) (c : Nat) : Nat := ceilDiv 5120 (max 1 (chanRate m c))

/-- ROW_IDLE_CLOSE: a row that no request has touched for 256 nCK is closed (R526). -/
def rowIdleClose (m : Mach) (c i bank : Nat) : Mach :=
  match tfind (subOf (chan m c) i).openRows bank with
  | none => m
  | some e => if e.2 + rowIdleNs m c ≤ m.now then modSub m (2 * c + i) (fun x => { x with openRows := tdel x.openRows bank }) else m

def execRowIdleClose (c : ChanId) (i : Fin 2) (bank : Nat) (s : State) : Host.Outcome State Fault Refusal :=
  runMesh s (fun m => rowIdleClose m c.val i.val bank)

/-- MEMORY_SCRUB: the background read of a line of the channel's share (R530) treats what it finds as R500 states. -/
def memoryScrub (m : Mach) (c n : Nat) (ecc : PieceEcc) : Mach :=
  if !chanServes m c ∨ memLines m ≤ n ∨ lineGone m n then m else
  match (lineSubs m n).find? (fun e => e.2 / 2 == c) with
  | none => m
  | some (p, cs) =>
    match ecc with
    | .good => m
    | .corrected => pieceCorrected m c (cs % 2) n
    | .caParity => caParityError m c
    | .uncorrectable =>
      let others := (List.range 5).filter (fun q => q != p && posMissing m (seamOf n) (seamLine n) q)
      let m := countUnc m c n
      uncFails (if others ≠ [] then lineLost m n else pieceRebuilt m c n p) c

/-- MCH_PRSNT_N_CHANGE: the land changes; the time for which it has been low runs from here (R511). -/
def execMchPrsntNChange (c : ChanId) (low : Bool) (s : State) : Host.Outcome State Fault Refusal :=
  runM s (fun m => if (chan m c.val).present = low then m else modChan m c.val (fun x => { x with present := low, presentSince := m.now }))

/-- CHANNEL_TRAINED: a channel powered on by POWER_ON, 50 ms ago at least, has trained, and stays Offline (R511). -/
def channelTrained (m : Mach) (c : Nat) (r : ChanTrain) : Mach :=
  if (chan m c).phase ≠ .training ∨ m.mode.st = .training ∨ m.now < (chan m c).pwrOnAt + 50000000 then m else
  let m := applyTraining m c r
  let m := modChan m c (fun x => { x with phase := if x.trained then .running else .failed, offline := true })
  setUState m 0x04 c (if (chan m c).trained then .offline else .failed)

def execChannelTrained (c : ChanId) (r : ChanTrain) (s : State) : Host.Outcome State Fault Refusal :=
  runUnits s (fun m => channelTrained m c.val r)

end Sys2Proof.Machine
end

