-- ==== Sys2Proof/Machine/LossCmds.lean ====
section
/-! DEFINITION. The commands of the channels, links, ports, engines and time-stamp masters that may lose a unit, after which the minimum
set of units for service is checked (R818). -/

namespace Sys2Proof.Machine

/-- MEM_READ: a subchannel serves a piece read (R499, R500, R523). -/
def execMemRead (c : ChanId) (sub : Fin 2) (ecc : PieceEcc) (s : State) : Host.Outcome State Fault Refusal :=
  runMeshLoss s (fun m => servePiece m c.val sub.val ecc)

/-- MEM_WRITE: a subchannel writes a piece of an accepted line (R498, R508, R513, R523); `parity` says that the RCD reports a
command/address parity error (R502). -/
def execMemWrite (c : ChanId) (sub : Fin 2) (parity : Bool) (s : State) : Host.Outcome State Fault Refusal :=
  runMesh s (fun m => if parity then lossCheck (serveWrite m c.val sub.val true) else serveWrite m c.val sub.val false)

/-- REBUILD_REQUEST: `bad` is the position of a present piece that proves uncorrectable (R507, R515). -/
def execRebuildRequest (k : SeamId) (bad : Option (Fin 5)) (s : State) : Host.Outcome State Fault Refusal :=
  runUnits s (fun m => if bad.isSome then lossCheck (rebuildRequest m k.val bad) else rebuildRequest m k.val bad)

/-- MCH_OFFLINE (R510): a member's seam that already lacks a member fails. -/
def execMchOffline (a : Actor) (c : ChanId) (s : State) : Host.Outcome State Fault Refusal :=
  runM s (ctlWrite a 0x04 c.val 0x0100 (fun m =>
    let m := mchCmd m c.val 2
    if (chan m c.val).draining then lossCheck m else m))

/-- COMMAND_TIMEOUT (R502, R503). -/
def execCommandTimeout (c : ChanId) (s : State) : Host.Outcome State Fault Refusal := runMeshLoss s (fun m => commandTimeout m c.val)

/-- RETRAIN_COMPLETE (R502, R513). -/
def execRetrainComplete (c : ChanId) (lanes : List Lane) (s : State) : Host.Outcome State Fault Refusal :=
  runUnitsLoss s (fun m => retrainComplete m c.val lanes)

/-- MEMORY_SCRUB (R500, R502). -/
def execMemoryScrub (c : ChanId) (n : LineNo) (ecc : PieceEcc) (s : State) : Host.Outcome State Fault Refusal :=
  runUnitsLoss s (fun m => memoryScrub m c.val n.toNat ecc)

/-- LINK_OFFLINE (R593, R641). -/
def execLinkOffline (a : Actor) (l : LinkId) (s : State) : Host.Outcome State Fault Refusal :=
  runAliveLoss s (ctlWrite a 0x06 l.val 0x0100 (fun m => linkCmd m l.val 2))

/-- LINK_DOWN (R592). -/
def execLinkDown (l : LinkId) (s : State) : Host.Outcome State Fault Refusal := runAliveLoss s (fun m => linkGoesDown m l.val)

/-- PCIE_LINK_DOWN (R609). -/
def execPcieLinkDown (p : PcieId) (j : Fin 4) (aer : Option (BitVec 32)) (s : State) : Host.Outcome State Fault Refusal :=
  runAliveLoss s (fun m => pcieLinkDownNow m p.val j.val aer)

/-- BUNDLE_ISSUE (R160, R165, R168, R181, R190, R795). -/
def execBundleIssue (e : EngineId) (check : Option (Fin 4)) (fix : Option (Fin 256)) (s : State) : Host.Outcome State Fault Refusal :=
  runUnitsLoss s (fun m => bundleIssue m e ((check.map (fun c => c.val)).getD 0) fix)

/-- CX_ROUTINE_END (R263 to R265, R379, R389, R390). -/
def execCxRoutineEnd (e : EngineId) (l : LevelId) (err : Option StoreErr) (s : State) : Host.Outcome State Fault Refusal :=
  runUnitsLoss s (fun m => if engActive m e.val then cxEnds m e l.val err else m)

/-- MICROCODE_LOAD (R375, R376). -/
def execMicrocodeLoad (u : StoreUnit) (readBack : Option (Fin 256)) (s : State) : Host.Outcome State Fault Refusal :=
  runAliveLoss s (fun m => microLoad m u readBack)

/-- TS_MASTER_TAKEOVER: the standby master becomes active (R763). -/
def execTsMasterTakeover (s : State) : Host.Outcome State Fault Refusal := runAliveLoss s tsTakeover

end Sys2Proof.Machine
end

