-- ==== Sys2Proof/Machine/ModeOps.lean ====
section
/-! DEFINITION. Resets (R38, R39, R46, R57), START and Training (R28, R57, R104, R851), Hold (R32, R34, R35, R838). -/

namespace Sys2Proof.Machine

/-! ## Resets (R38, R39) -/

/-- The lands as a reset leaves them: every MCH_PWREN low (R851), THERMTRIP_N released (R836), no 1 PPS pulse. -/
def landsReset (m : Mach) : Mach :=
  let m := m.chans.foldl (fun (m : Mach) (p : Nat × Chan) => if p.2.powered then emit m (.land (6800 + 2 * p.1) false) else m) m
  let m := m.pins.pps.foldl (fun (m : Mach) i => emit m (.land (pinLand i) false)) m
  if m.pins.thermtrip then emit m (.land 5103 true) else m

/-- What every reset leaves: the levels that the system drives on the lands, the flashes, and the model's own record and counts. -/
def afterReset (m : Mach) : Mach :=
  let m := landsReset m
  { Mach.reset with
    now := m.now, freeIdx := m.freeIdx, tick := m.tick, out := m.out, flash := m.flash,
    chans := m.chans.map (fun (p : Nat × Chan) => (p.1, { Chan.reset with present := p.2.present, presentSince := p.2.presentSince })),
    svc := { SvcSt.reset with releaseAt := m.now + 2000000 },
    pins := { PinSt.reset with ao := m.pins.ao, main := m.pins.main, gpioIn := m.pins.gpioIn, refBad := m.pins.refBad, refBadAt := m.pins.refBadAt,
                               tap := if m.pins.tap = 6 then 0 else m.pins.tap } }

/-- A power-on reset clears everything; `ao` is the level of PWRGD_AO. -/
def powerOn (f : Fuses) (m : Mach) (ao : Bool) : Mach :=
  let m := afterReset m
  { m with mode := { ModeSt.reset with testAllowed := !testBlown f, entered := m.now }, pins := { m.pins with ao := ao, tap := 0 } }

/-- A module reset keeps the tag areas, the last 64 error records with their index, and the fuses; the session owner of the next session
hears of it. -/
def moduleResetNow (f : Fuses) (m : Mach) (cause : Nat) : Mach :=
  let x := afterReset m
  let x := { x with
    mode := { ModeSt.reset with testAllowed := !testBlown f, entered := m.now, cause := cause },
    units := m.units.map (fun (p : Nat × UnitSt) => (p.1, { UnitSt.reset with tags := p.2.tags })),
    errs := { ErrSt.reset with index := m.errs.index, retained := m.errs.retained } }
  notify x 1 (le 8 (modeWord x).toNat)

/-- The always-on logic releases the service, event-and-time and service-port domains, and the ROM loader compares the fuses and starts boot
firmware (R56, R57, R761, R823). -/
def serviceRelease (f : Fuses) (m : Mach) : Mach :=
  let (k, m) := takeFree m
  let (c0, m) := takeFree m
  let (c1, m) := takeFree m
  let (c2, m) := takeFree m
  let (c3, m) := takeFree m
  let (u, m) := takeFree m
  let m := { m with
    ident := fuseIdent f, macBase := fuseMac f, microMask := u,
    jobs := { m.jobs with settKey := k, ctxKey := [c0, c1, c2, c3].flatMap (fun w => le 8 w.toNat) },
    svc := { m.svc with released := true, rom := fusesBad f || !(bothItems m 1).any (firmwareGood f) } }
  let m := modEvt m (fun x => { x with masters := vmap (fun (_ : TsMaster) => { TsMaster.reset with running := true }) x.masters })
  let m := [(0x00, 0), (0x0F, 0), (0x0D, 0), (0x0D, 1), (0x0E, 0), (0x0E, 1)].foldl (fun (m : Mach) (p : Nat × Nat) => setUState m p.1 p.2 .active) m
  let m := domStart (domStart (domStart m 128) 129) 130
  if f.1 = f.2 then m else
  let (w, m) := takeFree m
  raiseErr m 0x0002 0x0F00 (le 8 w.toNat)

/-! ## START (R28, R104, R851) -/

/-- The rebuild rate of a seam's record. -/
def seamRate (m : Mach) (s : Nat) : Nat :=
  let v := imgFld m 0x0005 (12 + s) 10 2
  if v = 0 then 32 else v

/-- A seam's members as its record gives them. -/
def seamRecMembers (m : Mach) (s : Nat) : List Nat := (List.range 5).map (seamPos ((imgRec m 0x0005 (12 + s)).getD []))

/-- A channel with a role is powered and begins to train. -/
def chanStart (m : Mach) (c : Nat) : Mach :=
  let role := imgFld m 0x0005 c 0 1
  if role = 0 then m else
  let m := if (chan m c).powered then m else emit m (.land (6800 + 2 * c) true)
  let m := modChan m c (fun x => { x with role := role, powered := true, phase := .training, pwrOnAt := m.now, trained := false, lanes := [] })
  domStart (setUState m 0x04 c .starting) (80 + c)

/-- A link with a role, and a PCIe port's downstream links, begin to train. -/
def linkStart (m : Mach) (l : Nat) : Mach :=
  if imgFld m 0x000C l 0 1 = 0 then m else domStart (setUState (setLinkState m l .training) 0x06 l .starting) (92 + l)
def portStart (m : Mach) (p : Nat) : Mach :=
  if imgFld m 0x000C (8 + p) 0 1 = 0 then m else
  let n := portLinks ((imgRec m 0x000C (8 + p)).getD [])
  let m := modPcie m p (fun x => { x with links := vof 4 (fun j => { st := if j < n then 1 else 0, speed := 0, width := 0 }) })
  domStart (setUState m 0x07 p .starting) (100 + p)

/-- The physical stage is committed, and its units leave reset: the module trains. START acts on the candidate: the loader is Verified, and
bytes that it was staging or verifying are dropped (R126 gives START in Verified alone; DESIGN CHOICE, log entry 55). -/
def startNow (m : Mach) : Mach :=
  match m.load.candidate with
  | none => m
  | some b =>
    let recs := (imageRecords b).filter (fun p => kindPhysical (p.1 / 65536))
    let m := { m with image := recs, load := { m.load with
      st := .verified, done := ((dirEntries b).filter (fun e => kindPhysical e.kind)).length,
      sectVer := (List.range 19).filterMap (fun k => if recs.any (fun p => p.1 / 65536 == k) then some (k, imgVersion b) else none) } }
    let m := (List.range 12).foldl chanStart m
    let m := (List.range 4).foldl (fun m s => if (imgRec m 0x0005 (12 + s)).isSome then
      setSeam m s { Seam.reset with members := seamRecMembers m s, rate := seamRate m s } else m) m
    let m := (List.range 8).foldl linkStart m
    let m := (List.range 2).foldl portStart m
    let m := [120, 121, 122, 123, 124, 125].foldl domStart m
    enterMode m .training 0x04

/-- The units of the physical stage return to reset (R28); what the module held of the stage is gone (log entry 55). -/
def physicalReset (m : Mach) : Mach :=
  let m := (List.range 12).foldl (fun m c => setUState (modChan m c (fun x =>
    { Chan.reset with present := x.present, presentSince := x.presentSince, powered := x.powered })) 0x04 c .reset) m
  let m := (List.range 8).foldl (fun m l => setUState (setLink m l LinkSt.reset) 0x06 l .reset) m
  let m := (List.range 2).foldl (fun m p => setUState (setPcie m p PcieSt.reset) 0x07 p .reset) m
  let m := (List.range 1088).foldl (fun m e => if ustate m 0x02 e == .reset then m else setUState m 0x02 e .reset) m
  let m := (List.range 16).foldl (fun m c => if ustate m 0x08 c == .reset then m else setUState m 0x08 c .reset) m
  let m := (List.range 128).foldl (fun m d => if (dom m d).mhz == 0 && !(dom m d).tripped then m else modDom m d (fun x => { x with mhz := 0 })) m
  let m := { m with units := m.units.map (fun (p : Nat × UnitSt) => if p.1 / 65536 = 2 ∨ p.1 / 65536 = 8 then (p.1, { p.2 with patchLevel := 0 }) else p) }
  { m with image := [], seams := [], stores := [], load := { m.load with sectVer := [] } }

/-! ## Training's end (R28, R121, R519, R520) -/

/-- A channel's training: passed, or not healthy; one that did not end by then is stopped and returned to reset. -/
def chanTrainEnd (m : Mach) (r : List (ChanId × ChanTrain)) (c : Nat) : Mach :=
  if (chan m c).phase ≠ .training then m else
  match r.find? (fun p => p.1.val == c) with
  | none => setUState (modChan m c (fun x => { x with phase := .reset, trained := false })) 0x04 c .reset
  | some p =>
    let m := applyTraining m c p.2
    if (chan m c).trained then modChan m c (fun x => { x with phase := .running })
    else setUState (modChan m c (fun x => { x with phase := .failed })) 0x04 c .failed

/-- A link that is not Up, and a downstream link not in L0, are stopped. -/
def linkTrainEnd (m : Mach) (up : List LinkId) (l : Nat) : Mach :=
  if (link m l).st = .training ∧ up.any (fun k => k.val == l) then setLinkState (modLink m l (fun x => { x with attempts := 0 })) l .up
  else if (link m l).st = .up then m
  else if imgFld m 0x000C l 0 1 = 0 then m
  else setUState (setLinkState m l .offline) 0x06 l .reset

/-- Downstream links that reached L0 are up, the others down; a port of which none did is returned to reset (R28). -/
def portTrainEnd (m : Mach) (r : List (Fin 8 × BitVec 4 × BitVec 8)) (p : Nat) : Mach :=
  let m := (List.range 4).foldl (fun m j =>
    match r.find? (fun x => x.1.val == 4 * p + j) with
    | some x => if (vget (pcie m p).links j { st := 0, speed := 0, width := 0 }).st = 1 then
        modPcie m p (fun y => { y with links := vset y.links j { st := 2, speed := x.2.1.toNat, width := x.2.2.toNat } }) else m
    | none => m) m
  let up := (pcie m p).links.toList.any (fun d => d.st == 2)
  let slow := (pcie m p).links.toList.any (fun d => d.st == 1)
  let m := modPcie m p (fun y => { y with links := vmap (fun d => if d.st = 1 then { d with st := if up then 3 else 0 } else d) y.links })
  if slow && !up then setUState m 0x07 p .reset else m

/-- Every named unit has trained. -/
def allTrained (m : Mach) (r : TrainResult) : Bool :=
  (List.range 12).all (fun c => (chan m c).phase != .training || r.chans.any (fun p => p.1.val == c)) &&
    (List.range 8).all (fun l => (link m l).st != .training || r.links.any (fun k => k.val == l)) &&
    (List.range 8).all (fun k => (vget (pcie m (k / 4)).links (k % 4) { st := 0, speed := 0, width := 0 }).st != 1 || r.pcie.any (fun x => x.1.val == k))

/-- The engines of the benches that the candidate gives a role, and the channel processors of the hubs in service, start: boot firmware
loads their patches (R57 step 7, R375). -/
def storesStart (m : Mach) (all : Recs) : Mach :=
  let m := (List.range 64).foldl (fun m b =>
    if bit (fld (all 1 b) 5 1) 0 then (List.range 17).foldl (fun m s => setUState m 0x02 (engineOf b s) .starting) m else m) m
  (List.range 16).foldl (fun m c => if hubIn m (c / 8) then setUState m 0x08 c .starting else m) m

/-- The units of the physical stage as their training leaves them; without main power none has trained. -/
def trainedUnits (m : Mach) (r : TrainResult) : Mach :=
  let r : TrainResult := if m.pins.main then r else { chans := [], links := [], pcie := [] }
  let m := (List.range 12).foldl (fun m c => chanTrainEnd m r.chans c) m
  let m := (List.range 8).foldl (fun m l => linkTrainEnd m r.links l) m
  (List.range 2).foldl (fun m p => portTrainEnd m r.pcie p) m

/-- Training ends: Loading, where the minimum set is trained and healthy, else a start failure. The loader, Verified since START (log entry
55), begins the check step (R126). -/
def trainingEnds (m : Mach) (r : TrainResult) : Mach :=
  if m.mode.st ≠ .training ∨ (!allTrained m r ∧ m.now < m.mode.entered + 10000000000) then m else
  let b := m.load.candidate.getD []
  let all := recsOf (imageRecords b)
  let m := trainedUnits m r
  let unmet := startUnmet m all
  if unmet = 0 then
    storesStart (enterMode { m with load := { m.load with st := .checking, image := b } } .loading 0x05) all
  else
    let m := raiseErr m 0x0003 0x0F00 (le 1 unmet ++ le 1 0 ++ le 2 (sickUnits m b all).length)
    enterMode (physicalReset m) .bare 0x0E

/-! ## Hold (R34, R35, R607, R825) -/

/-- HOLD_ENTER is taken: submissions are held back, engines park, links pause their partners, the channels begin to enter self-refresh; a
request that still reaches one aborts its entry, which begins again when its queues are drained (R34, R527, R528). -/
def holdBegins (m : Mach) : Mach :=
  let m := modMode m (fun x => { x with transit := true, holdStart := some m.now })
  let m := (List.range 12).foldl (fun m c => if (chan m c).phase = .running then modChan m c (fun x => { x with srStep := 1 }) else m) m
  (List.range 8).foldl (fun m l =>
    if (link m l).st = .up then emit (modLink m l (fun x => { x with pauseAt := m.now })) (.pause l (bit (imgFld m 0x000C l 1 1) 2) 0xFFFF) else m) m

/-- A step of a rework is under way: a binding target between its first step and its last (R385, R395). -/
def targetOpen (m : Mach) : Bool :=
  let p := m.load.progress.toNat
  m.load.st == .applying && (m.load.record % 2 == 1 || (bit p 24 && bits p 23 16 != 0xFF))

/-- The channels' queues are drained. -/
def chansDrained (m : Mach) : Bool :=
  m.mem.writes.isEmpty && m.chans.all (fun (p : Nat × Chan) => p.2.sub0.reads.isEmpty && p.2.sub1.reads.isEmpty)

/-- Every ledger of the module against its holding (R824, R825). -/
def ledgersCheck (m : Mach) : Mach :=
  let m := m.leases.foldl (fun (m : Mach) (p : Nat × Lease) => leaseLedgers m p.1) m
  let m := ledgerCheck m (regAddr 0x00 0 0x0640) 0x0F00 m.chn.ledgerIn m.chn.ledgerOut (openTxns m).length
  let m := (List.range 12).foldl (fun m c =>
    let held (i : Nat) : Nat := (subOf (chan m c) i).reads.length + (writesOn m (2 * c + i)).length
    let m := ledgerCheck m (regAddr 0x04 c 0x0F08) (0x0700 + c) (chan m c).sub0.ledgerIn (chan m c).sub0.ledgerOut (held 0)
    ledgerCheck m (regAddr 0x04 c 0x0F10) (0x0700 + c) (chan m c).sub1.ledgerIn (chan m c).sub1.ledgerOut (held 1)) m
  let m := [0, 1].foldl (fun m h => ledgerCheck m (regAddr 0x0B h 0x0F08) (0x0C00 + h) m.jobs.ctxIn m.jobs.ctxOut m.jobs.ctx.length) m
  m.subs.foldl (fun (m : Mach) (p : Nat × SubLink) => (List.range 10).foldl (fun m k =>
    ledgerCheck m (regAddr 0x00 0 (0x2000 + 8 * (10 * p.1 + k))) 0x0F00 (tget p.2.issued k 0) (tget p.2.returned k 0)
      ((tget p.2.issued k 0 + 2 ^ 32 - tget p.2.returned k 0) % 2 ^ 32)) m) m

/-- The last step of Hold entry: crushers and cipher engines stand at a boundary, the channels in self-refresh, the ledgers are compared. -/
def holdEntered (m : Mach) : Mach :=
  if !unitsRun m || m.mode.holdStart.isNone || !chansDrained m || targetOpen m then m else
  let m := (List.range 8).foldl (fun m k => if (workUnit m 0 k).run.isSome then crushBoundary m k else m) m
  let m := (List.range 10).foldl (fun m u => if (workUnit m 1 u).run.isSome then cipherBoundary m u else m) m
  let on := ((List.range 12).filter (fun c => (chan m c).phase == .running || (chan m c).phase == .retraining || (chan m c).phase == .catchUp)).map
    (fun c => (c, (chan m c).phase))
  let m := on.foldl (fun m c => modChan m c.1 (fun x => { x with phase := .selfRefresh, srStep := 3 })) m
  let m := modMode (ledgersCheck m) (fun x => { x with srChans := on })
  enterMode m .hold 0x0A

/-- The clocks of the transactions stood still in Hold (R575): the partner waits, completion waits and issue deadlines move on by its length;
the retransmit and silence timers of Helar paths begin again (R626). -/
def txnClocksShift (m : Mach) (ns : Nat) : Mach :=
  modChn m (fun c => { c with
    txns := c.txns.map (fun (p : Nat × Txn) => (p.1, { p.2 with
      waitSince := p.2.waitSince + ns, awaitSince := p.2.awaitSince + ns,
      id := { p.2.id with deadline := if p.2.id.deadline = 0 then 0 else p.2.id.deadline + BitVec.ofNat 64 ns } })),
    paths := c.paths.map (fun (p : Nat × Path) => (p.1, { p.2 with
      lastOp := p.2.lastOp + ns,
      helar := { p.2.helar with lastRx := m.now, unacked := p.2.helar.unacked.map (fun s => { s with sentAt := m.now }) } })) })

/-- Hold ends: the channels leave self-refresh and are as they were, timers that Hold stopped run on, and the recoveries that waited begin
(R32, R35, R131). The quiesce timeout stands still from HOLD_ENTER to the end of the exit: R131 says only that it does not run in Hold
(DESIGN CHOICE, log entry 55). -/
def holdExited (m : Mach) : Mach :=
  if m.mode.st ≠ .hold ∨ !m.mode.transit then m else
  let m := m.mode.srChans.foldl (fun m c => modChan m c.1 (fun x => { x with phase := if x.phase = .selfRefresh then c.2 else x.phase, srStep := 0 })) m
  let m := txnClocksShift m (m.now - m.mode.entered)
  let gone := m.now - m.mode.holdStart.getD m.now
  let m := { m with load := { m.load with deadline := m.load.deadline.map (fun t => t + gone) } }
  let next : Mode := if m.mode.prior = .rework ∨ m.mode.recPending then .rework else .service
  let waits := m.mode.deferred
  let m := enterMode (modMode m (fun x => { x with holdStart := none, recPending := false, srChans := [], deferred := [] })) next 0x0B
  waits.foldl deferredNow m

end Sys2Proof.Machine
end

