-- ==== Sys2Proof/Machine/Commit.lean ====
section
/-! DEFINITION. The commit of a full image (R119, R122, R123, R125, R518, R719) and the application of a partial image (R101, R105, R126 to
R130, R385 to R388, R480, R485, R534, R839). -/

namespace Sys2Proof.Machine

/-! ## Substitutions (R122, R123) -/

/-- A substitution is recorded; 0xFFFF stands for no substitute. -/
def substituted (m : Mach) (src sub : Nat) : Mach := raiseErr m 0x0004 src (le 2 src ++ le 2 sub)

/-- A unit of the kind that the committed records give a role, where an omitted section gives one to every unit. -/
def workRole (m : Mach) (kind u : Nat) : Bool := !imgHas m (0x0D + kind) || bit (imgFld m (0x0D + kind) u 0 1) 0

/-! ## Benches -/

/-- The engines of a bench take their roles: a failed one stays Failed; a slot of the mask is Spare, but for one of `acting`, the spares that
stand in a failed slot's role (R386, R797). -/
def engineRoles (m : Mach) (b : Nat) (acting : List Nat) : Mach :=
  (enginesOf b).foldl (fun m e =>
    if ustate m 0x02 e == .failed then m
    else setUState m 0x02 e (if bit (imgFld m 0x0001 b 0 4) (slotOf e) && !acting.contains e then .spare else .active)) m

/-- The bench's spare takes the slot's work of an active engine that is not healthy. -/
def engineSubst (m : Mach) (b : Nat) : Mach :=
  ((enginesOf b).filter (fun e => ustate m 0x02 e == .failed && !bit (imgFld m 0x0001 b 0 4) (slotOf e))).foldl (fun m e =>
    match (enginesOf b).find? (fun s => ustate m 0x02 s == .spare) with
    | some s => substituted (setUState m 0x02 s .active) e s
    | none => substituted m e 0xFFFF) m

/-- The engines still Starting are loaded (R375). -/
def loadRest (m : Mach) (b : Nat) : Mach :=
  (List.range 17).foldl (fun m s =>
    if h : engineOf b s < 1088 then (if ustate m 0x02 (engineOf b s) == .starting then microLoad m (.engine ⟨engineOf b s, h⟩) none else m) else m) m

def benchCommit (m : Mach) (b : Nat) : Mach :=
  if !unitHasRole m 0x01 b then m else
  domStart (policyL2 (setUState (engineSubst (engineRoles m b []) b) 0x01 b .active) b) b

/-! ## Home nodes -/

/-- A home node with a role serves its share. -/
def homeCommit (m : Mach) (h : Nat) : Mach :=
  if !unitHasRole m 0x03 h then m else
  let mirror := bit (imgFld m 0x0012 h 1 1) 0
  let m := setHome m h { Home.reset with covered := BitVec.ofNat 16 (2 ^ h), buddy := imgFld m 0x0012 h 0 1, mirrorFlag := mirror,
                                         mirrorMode := if mirror then 0 else 2 }
  let m := if ustate m 0x03 h == .failed then m else setUState m 0x03 h .active
  domStart (policyL3 m h) (64 + h)

/-- The buddy takes over the share of a home node that is not healthy. -/
def homeSubst (m : Mach) (h : Nat) : Mach :=
  if !unitHasRole m 0x03 h || ustate m 0x03 h != .failed then m
  else homeTakeoverBegin (substituted m (0x0600 + h) (0x0600 + buddyOf m h)) h

/-! ## Memory -/

/-- A channel that came out of training healthy. -/
def chanHealthy (m : Mach) (c : Nat) : Bool := (chan m c).trained && (chan m c).phase == .running

def chanCommit (m : Mach) (c : Nat) : Mach :=
  if !chanHealthy m c then m
  else if (chan m c).role = 2 then
    let sr := chanFlag m c 2
    setUState (modChan m c (fun x => { x with phase := if sr then .selfRefresh else .running, srStep := if sr then 3 else 0 })) 0x04 c .spare
  else if (chan m c).role = 1 then setUState m 0x04 c .active
  else m

/-- Lines of each seam: a member's subchannel holds half of its channel's bytes, 64 of each line (R491, R493). -/
def linesPerSeam (m : Mach) : Nat :=
  let sizes := ((List.range 12).filter (fun c => (chan m c).role == 1 && chanHealthy m c)).map (fun c =>
    ((dimmsOf (chan m c)).map (fun d => d.gb.toNat)).sum * 2 ^ 23)
  sizes.foldl min (sizes.headD 0)

/-- A seam starts Complete, Degraded with one position missing, or Failed (R518). -/
def seamCommit (m : Mach) (s : Nat) : Mach :=
  if (imgRec m 0x0005 (12 + s)).isNone then m else
  let gone := (List.range 5).filter (fun p => !chanHealthy m ((seam m s).members.getD p 0 / 2))
  let m := setUState m 0x05 s .active
  match gone with
  | [] => m
  | [p] => modSeam m s (fun x => { x with st := .degraded, missing := some p })
  | _ => modSeam m s (fun x => { x with st := .failed })

/-- The member channels that are not healthy, each with the spare that takes its place where there is one. -/
def chanSubst (m : Mach) : List Nat × Mach :=
  ((List.range 12).filter (fun c => (chan m c).role == 1 && !chanHealthy m c)).foldl (fun (a : List Nat × Mach) c =>
    let m := modChan (setUState a.2 0x04 c .failed) c (fun x => { x with phase := .failed })
    let ss := (List.range 4).filter (fun s => (seam m s).st == .degraded && (seam m s).members.getD ((seam m s).missing.getD 0) 0 / 2 == c)
    match spareChan m with
    | some t =>
      let m := ss.foldl (fun m s => startRebuild m s ((seam m s).missing.getD 0) t) m
      (a.1 ++ [c], substituted m (0x0700 + c) (0x0700 + t))
    | none => (a.1, substituted m (0x0700 + c) 0xFFFF)) ([], m)

/-! ## Links, ports, crushers, cipher engines, paths -/

/-- A path over a carrier that is not healthy starts Failed. -/
def pathsDead (m : Mach) (hit : Nat → Bool) : Mach :=
  (List.range 64).foldl (fun m p => if hit p then modPath m p (fun x => { x with st := .failed, reason := 1 }) else m) m

def linkCommit (m : Mach) (l : Nat) : Mach :=
  if imgFld m 0x000C l 0 1 = 0 then m
  else if (link m l).st = .up then setUState m 0x06 l .active
  else substituted (pathsDead (setUState (setLinkState m l .failed) 0x06 l .failed) (fun p => pathKind m p == 1 && pathLink m p == l)) (0x0800 + l) 0xFFFF

def portCommit (m : Mach) (p : Nat) : Mach :=
  if imgFld m 0x000C (8 + p) 0 1 = 0 then m else
  let dn (j : Nat) : Nat := (vget (pcie m p).links j { st := 0, speed := 0, width := 0 }).st
  let bad := (List.range (portLinks ((imgRec m 0x000C (8 + p)).getD []))).filter (fun j => dn j != 2)
  if bad.isEmpty then setUState m 0x07 p .active else
  let m := setUState m 0x07 p (if (List.range 4).any (fun j => dn j == 2) then .active else .failed)
  let m := pathsDead m (fun q => pathKind m q == 2 && pathLink m q == p && bad.any (fun j => imgFld m 0x000C (8 + p) (4 + j) 1 == imgFld m 0x000B q 4 2 / 256))
  substituted m (0x0880 + p) 0xFFFF

/-- A crusher (kind 0) or cipher engine (kind 1). -/
def workCommit (m : Mach) (kind u : Nat) : Mach :=
  if !workRole m kind u then m
  else if ustate m (workBlock kind) u == .failed then substituted m (workSource kind u) 0xFFFF
  else domStart (setUState m (workBlock kind) u .active) (102 + 8 * kind + u)

/-- Paths that come online at commit (R542). -/
def pathAtCommit (m : Mach) (p : Nat) : Mach :=
  if pathKind m p != 0 && bit (imgFld m 0x000B p 2 1) 0 && (path m p).st == .offline then pathCmd m p 1 else m

/-! ## The commit of a full image (R125) -/

/-- The kinds that an image carries, each with its version (R137). -/
def sectVersions (old : Tbl Nat) (b : Bytes) : Tbl Nat := (dirEntries b).foldl (fun (t : Tbl Nat) e => tset t e.kind (imgVersion b)) old

def leasesCommit (m : Mach) : Mach :=
  (List.range 256).foldl (fun m l =>
    let m := setUState m 0x0C l .active
    if l = 0 then leaseLoaded m 0 .active else if recFlag m l 1 then leaseLoaded m l .stopped else m) m

def commitFull (m : Mach) (b : Bytes) : Mach :=
  let m := (List.range 64).foldl loadRest m
  let m := (List.range 16).foldl (fun m c => if h : c < 16 then (if ustate m 0x08 c == .starting then microLoad m (.cp ⟨c, h⟩) none else m) else m) m
  let m := { m with image := imageRecords b }
  let m := (List.range 64).foldl benchCommit m
  let m := (List.range 16).foldl homeCommit m
  let m := (List.range 12).foldl chanCommit m
  let m := { m with mem := { m.mem with lines := linesPerSeam m } }
  let m := (List.range 4).foldl seamCommit m
  let (rebuilt, m) := chanSubst m
  let m := (List.range 8).foldl linkCommit m
  let m := (List.range 2).foldl portCommit m
  let m := (List.range 8).foldl (fun m k => workCommit m 0 k) m
  let m := (List.range 8).foldl (fun m x => workCommit m 1 x) m
  let m := (List.range 16).foldl (fun m c => if ustate m 0x08 c == .starting then setUState m 0x08 c .active else m) m
  let m := (List.range 2).foldl (fun m h => if hubIn m h then domStart (domStart (setUState m 0x0B h .active) (118 + h)) (126 + h) else m) m
  let m := leasesCommit m
  let m := disciplineStart (disciplineStart m 0) 1
  let m := { m with load := { m.load with
    active := imageWord b, candidate := none, image := [], st := .idle, done := imgEntries b, sectVer := sectVersions [] b } }
  let m := (List.range 16).foldl homeSubst m
  let m := enterMode m .service 0x06
  let m := (List.range 64).foldl pathAtCommit m
  rebuilt.foldl (fun m c => beginRecovery m (.chan c 0)) m

/-! ## A partial image in Preparing (R101, R105, R126) -/

/-- The unit that a record holds. -/
def heldUnit (kind i : Nat) : Option (Nat × Nat) :=
  match kind with
  | 0x01 => some (0x01, i)
  | 0x05 => if i < 12 then some (0x04, i) else none
  | 0x0C => if i < 8 then some (0x06, i) else some (0x07, i - 8)
  | 0x0D => if i < 8 then some (0x09, i) else none
  | 0x0E => if i < 8 then some (0x0A, i) else none
  | 0x12 => some (0x03, i)
  | _ => none

/-- The records that an image names, in directory order. -/
def namedRecs (b : Bytes) : List (Nat × Nat) := (dirEntries b).flatMap (fun e => (entryCovers e).map (fun i => (e.kind, i)))

/-- A named unit is held: it reads Draining, and what it was is remembered. -/
def holdUnit (m : Mach) (u : Nat × Nat) : Mach :=
  let st := ustate m u.1 u.2
  if st == .reset || st == .failed || st == .draining then m
  else setUState { m with load := { m.load with prior := tset m.load.prior (ukey u.1 u.2) st } } u.1 u.2 .draining

/-- The check of a partial image has passed: every named unit is held, and each drain begins. -/
def prepareBegin (m : Mach) (b : Bytes) : Mach :=
  let m := if m.mode.st == .service then enterMode m .rework 0x07 else m
  let m := (namedRecs b).foldl (fun m r => match heldUnit r.1 r.2 with | some u => holdUnit m u | none => m) m
  let m := (namedRecs b).foldl (fun m r => if r.1 = 0x11 then setMaster m r.2 { master m r.2 with lock := 0, good := 0 } else m) m
  { m with load := { m.load with st := .preparing, deadline := some (m.now + m.load.timeoutNs), done := 0, record := 0 } }

/-- A bench that is empty: no task in a bank, its queue or its wait table, no level-3 work. -/
def benchEmptied (m : Mach) (b : Nat) : Bool :=
  (bench m b).queue.isEmpty && (bench m b).waiting.isEmpty && (enginesOf b).all (fun e => (List.range 4).all (fun l => (bank m e l).st == .empty))

/-- The precondition of R101 for a record. -/
def recReady (m : Mach) (kind i : Nat) : Bool :=
  match kind with
  | 0x01 => !benchDraining m i || benchEmptied m i
  | 0x05 => decide (12 ≤ i) || (chan m i).offline || (chan m i).role == 2 || (chan m i).phase == .reset
  | 0x08 => (lease m i).st == .free
  | 0x0B => (path m i).st == .offline
  | 0x0C => if i < 8 then (link m i).st == .offline else tget m.load.prior (ukey 0x07 (i - 8)) (ustate m 0x07 (i - 8)) != .active
  | 0x0D => decide (8 ≤ i) || (unitJobs m 0 i).isEmpty
  | 0x0E => decide (8 ≤ i) || (unitJobs m 1 i).isEmpty
  | _ => true

/-- `PATCH_PROGRESS` (R395). -/
def progressWord (active : Bool) (record done named : Nat) : Word := pack [(24, 1, b2n active), (16, 8, record), (8, 8, done), (0, 8, named)]
def patchDone (m : Mach) : Nat := bits m.load.progress.toNat 15 8
def patchNamed (m : Mach) : Nat := bits m.load.progress.toNat 7 0
def setProgress (m : Mach) (w : Word) : Mach := { m with load := { m.load with progress := w } }

/-- Preparing ends: the sections are applied next. -/
def applyBegin (m : Mach) : Mach :=
  let named := ((namedRecs m.load.image).filter (fun r => r.1 == 0x10)).length
  let m := { m with load := { m.load with st := .applying, deadline := none, done := 0, record := 0 } }
  if named = 0 then m else setProgress m (progressWord true 0xFF 0 named)

/-! ## Applying a section (R128, R130) -/

def putRec (m : Mach) (kind i : Nat) (r : Bytes) : Mach := { m with image := tset m.image (ukey kind i) r }

/-- A bench without a role any more: its lines are cleaned and dropped, and it is in reset. -/
def benchOut (m : Mach) (b : Nat) : Mach :=
  let m := (l2 m b).lines.foldl (fun (m : Mach) (p : Nat × L2Line) => maintNow m p.1 2 true) m
  let m := { m with l2 := tdel m.l2 b, benches := tdel m.benches b }
  let m := (enginesOf b).foldl (fun m e => if ustate m 0x02 e == .failed then m else setUState (setEng m e Eng.reset) 0x02 e .reset) m
  modDom (setUState m 0x01 b .reset) b (fun x => { x with mhz := 0 })

/-- The engine roles of a bench after its engines have been reset and loaded. -/
def benchRoles (m : Mach) (b : Nat) : Mach :=
  if ustate m 0x01 b == .failed then m
  else if !unitHasRole m 0x01 b then benchOut m b
  else
    let m := if (dom m b).mhz = 0 then domStart (policyL2 m b) b else m
    setUState (engineRoles m b []) 0x01 b .active

/-- The spares of a bench that stand in a failed slot's role. -/
def actingSpares (m : Mach) (b : Nat) : List Nat :=
  (enginesOf b).filter (fun e => bit (imgFld m 0x0001 b 0 4) (slotOf e) && ustate m 0x02 e == .active)

/-- What a patch remembers of them while the bench's engines are reset. -/
def keepActing (m : Mach) (b : Nat) : Mach :=
  (actingSpares m b).foldl (fun m e => { m with load := { m.load with prior := tset m.load.prior (ukey 0x02 e) .active } }) m
def keptActing (m : Mach) (b : Nat) : List Nat := (enginesOf b).filter (fun e => (tfind m.load.prior (ukey 0x02 e)).isSome)

/-- An engine reset of each engine of a bench that is not Failed. -/
def benchEnginesReset (m : Mach) (b : Nat) : Mach := (enginesOf b).foldl (fun m e => if ustate m 0x02 e == .failed then m else engineReset m e) m

/-- The engine-roles section: the engines of its benches are reset, their patches are loaded, and the roles stand. -/
def rolesApply (m : Mach) (rs : List (Nat × Bytes)) : Mach :=
  let m := rs.foldl (fun m r => if ustate m 0x01 r.1 == .failed ∨ (!unitHasRole m 0x01 r.1 && !bit (fld r.2 5 1) 0) then m else benchEnginesReset m r.1) m
  let m := rs.foldl (fun m r => putRec (loadRest m r.1) 0x01 r.1 r.2) m
  rs.foldl (fun m r => benchRoles m r.1) m

/-- A target of the binding section is done. -/
def patchNext (m : Mach) (n : Nat) : Bool × Mach :=
  let t := m.load.record / 2 + 1
  let m := setProgress m (progressWord true 0xFF (patchDone m + 1) (patchNamed m))
  (decide (n ≤ t), { m with load := { m.load with record := if n ≤ t then 0 else 2 * t } })

/-- A bench being patched: it is emptied, its engines are reset, loaded and returned to their roles. -/
def patchBench (m : Mach) (n b : Nat) (r : Bytes) : Bool × Mach :=
  let at_ (m : Mach) : Mach := setProgress m (progressWord true b (patchDone m) (patchNamed m))
  if m.load.record % 2 = 0 then
    if benchIn m b then (false, at_ (setUState m 0x01 b .draining))
    else if !benchDraining m b then patchNext (putRec m 0x10 b r) n
    else if !benchEmptied m b then (false, m)
    else
      let m := benchEnginesReset (keepActing (putRec m 0x10 b r) b) b
      (false, { m with load := { m.load with record := m.load.record + 1 } })
  else
    let m := loadRest m b
    patchNext (if benchDraining m b then setUState (engineRoles m b (keptActing m b)) 0x01 b .active else m) n

/-- A channel processor being patched: its group takes its work, it is reset, loaded and returned. -/
def patchCp (m : Mach) (n c : Nat) (r : Bytes) : Bool × Mach :=
  if m.load.record % 2 = 0 then
    if ustate m 0x08 c != .active && ustate m 0x08 c != .offline then patchNext (putRec m 0x10 (64 + c) r) n
    else
      let m := { m with load := { m.load with prior := tset m.load.prior (ukey 0x08 c) (ustate m 0x08 c) } }
      let m := putRec (cpOfflineNow m c) 0x10 (64 + c) r
      let m := resetNow m 0x08 c
      let m := setProgress m (progressWord true (64 + c) (patchDone m) (patchNamed m))
      (false, { m with load := { m.load with record := m.load.record + 1 } })
  else
    let m := if h : c < 16 then (if ustate m 0x08 c == .starting then microLoad m (.cp ⟨c, h⟩) none else m) else m
    patchNext (if ustate m 0x08 c == .failed then m else setUState m 0x08 c (tget m.load.prior (ukey 0x08 c) .offline)) n

/-- The binding section, one target at a time; a record equal to the committed one leaves its target alone. -/
def patchApply (m : Mach) (rs : List (Nat × Bytes)) : Bool × Mach :=
  match rs[m.load.record / 2]? with
  | none => (true, { m with load := { m.load with record := 0 } })
  | some (i, r) =>
    if m.load.record % 2 = 0 ∧ imgRec m 0x10 i = some r then patchNext m rs.length
    else if i < 64 then patchBench m rs.length i r
    else patchCp m rs.length (i - 64) r

/-- A channel record (R534): its role and settings; an Offline channel made a spare comes ONLINE; one without a role is in reset, its power
off and its clock gated (R25; log entry 55). -/
def chanApply (m : Mach) (c : Nat) : Mach :=
  let role := imgFld m 0x0005 c 0 1
  let x := chan m c
  if x.phase = .failed then m
  else if role = 0 then
    let m := if x.powered then emit m (.land (6800 + 2 * c) false) else m
    modDom (setUState (setChan m c { Chan.reset with present := x.present, presentSince := x.presentSince, temp := x.temp }) 0x04 c .reset) (80 + c)
      (fun d => { d with mhz := 0 })
  else if role = 2 ∧ x.powered ∧ x.trained ∧ x.phase ≠ .training then becomeSpare m c
  else setUState (modChan m c (fun x => { x with role := role, offline := true })) 0x04 c .offline

/-- A link record: an Offline link keeps its state until ONLINE, one without a role is in reset with its clock gated
(R25); a port comes up with its record (R826). -/
def carrierApply (m : Mach) (i : Nat) : Mach :=
  let k := if i < 8 then 0x06 else 0x07
  let u := if i < 8 then i else i - 8
  if ustate m k u == .failed then m
  else if imgFld m 0x000C i 0 1 = 0 then
    modDom (setUState (if i < 8 then setLink m i LinkSt.reset else setPcie m u PcieSt.reset) k u .reset) (92 + i) (fun d => { d with mhz := 0 })
  else if i < 8 then domStart (setUState m 0x06 i .offline) (92 + i)
  else setUState (portStart m u) 0x07 u .active

/-- A crusher or cipher engine takes its role. -/
def workApply (m : Mach) (kind u : Nat) : Mach :=
  let d := 102 + 8 * kind + u
  if ustate m (workBlock kind) u == .failed then m
  else if workRole m kind u then (if (dom m d).mhz = 0 then domStart (setUState m (workBlock kind) u .active) d else setUState m (workBlock kind) u .active)
  else modDom (setUState m (workBlock kind) u .reset) d (fun x => { x with mhz := 0 })

/-- The covering node hands the share of a home node back: its directory entries, and the mirrored lines that memory does not hold yet (R480). -/
def homeBack (m : Mach) (h g : Nat) : Mach :=
  let mine (n : Nat) : Bool := ownHome m n == h
  let m := (home m g).pair.foldl (fun (m : Mach) (p : Nat × Mirror) => if p.2.owner = h then memWriteNow m p.1 p.2.data p.2.poison else m) m
  let x := home m g
  let m := modHome m g (fun x =>
    let left := x.covered &&& ~~~ BitVec.ofNat 16 (2 ^ h)
    { x with dir := x.dir.filter (fun (p : Nat × DirEnt) => !mine p.1), txns := x.txns.filter (fun (p : Nat × HTxn) => !mine p.1),
             queues := x.queues.filter (fun (p : Nat × List HReq) => !mine p.1), waitDir := x.waitDir.filter (fun r => !mine r.n),
             pair := x.pair.filter (fun (p : Nat × Mirror) => p.2.owner != h), covered := left,
             st := if left = BitVec.ofNat 16 (2 ^ g) then .serving else x.st })
  -- what the covering node still serves for the share goes on at the home (R457)
  modHome m h (fun y => { y with
    lost := false, dir := x.dir.filter (fun (p : Nat × DirEnt) => mine p.1), txns := x.txns.filter (fun (p : Nat × HTxn) => mine p.1),
    queues := x.queues.filter (fun (p : Nat × List HReq) => mine p.1), waitDir := x.waitDir.filter (fun r => mine r.n),
    covered := BitVec.ofNat 16 (2 ^ h), st := .serving })

/-- A home node re-mirrors to a new buddy (R485). -/
def remirror (m : Mach) (h : Nat) : Mach :=
  let m := (home m h).l3.foldl (fun (m : Mach) (p : Nat × L3Line) => if p.2.dirty then cleanL3 m h p.1 else m) m
  let mirror := bit (imgFld m 0x0012 h 1 1) 0
  modHome m h (fun x => { x with buddy := imgFld m 0x0012 h 0 1, mirrorFlag := mirror, mirrorMode := if mirror then 0 else 2 })

/-- A home node that the load held is Active again (R105). -/
def homeHeldEnds (m : Mach) (h : Nat) : Mach := if ustate m 0x03 h == .draining then setUState m 0x03 h .active else m

/-- A buddy record: a lost home node that has been reset returns; any other re-mirrors. -/
def buddyApply (m : Mach) (h : Nat) : Mach :=
  if !unitHasRole m 0x03 h then m
  else if (home m h).lost then
    if ustate m 0x03 h != .offline then m else
    match (List.range 16).find? (fun g => g != h && !(home m g).lost && (home m g).covered.getLsbD h) with
    | none => m
    | some g => policyL3 (remirror (setUState (homeBack m h g) 0x03 h .active) h) h
  else homeHeldEnds (remirror m h) h

/-- A record other than those of engine roles and bindings takes effect; of a unit that is Failed it is only recorded, and the unit takes it
when it is next brought back (R130). -/
def recApply (m : Mach) (kind i : Nat) (r : Bytes) : Mach :=
  let m := putRec m kind i r
  match kind with
  | 0x05 => if i < 12 then chanApply m i else modSeam m (i - 12) (fun x => { x with rate := seamRate m (i - 12) })
  | 0x06 => if i < 64 then (if benchIn m i then policyL2 m i else m) else if unitHasRole m 0x03 (i - 64) && !(home m (i - 64)).lost then policyL3 m (i - 64) else m
  | 0x0B => pathAtCommit m i
  | 0x0C => carrierApply m i
  | 0x0D => if i < 8 then workApply m 0 i else m
  | 0x0E => if i < 8 then workApply m 1 i else m
  | 0x11 => if ustate m 0x0D i == .failed then m else disciplineStart m i
  | 0x12 => buddyApply m i
  | _ => m

/-- A section of the image, or for bindings its next step (R385); whether it has been applied. -/
def sectionStep (m : Mach) (b : Bytes) (e : DirEntry) : Bool × Mach :=
  let rs := (entryRecords b e).map (fun r => (r.1, r.2.2))
  match e.kind with
  | 0x01 => (true, rolesApply m rs)
  | 0x10 => patchApply m rs
  | k => (true, rs.foldl (fun m r => recApply m k r.1 r.2) m)

/-- The last section is applied: the registers show the image, and the session owner hears of it. -/
def loadEnds (m : Mach) : Mach :=
  let b := m.load.image
  let p := m.load.progress.toNat
  let m := { m with load := { m.load with
    st := .idle, active := imageWord b, sectVer := sectVersions m.load.sectVer b, image := [], prior := [],
    progress := if bit p 24 then progressWord false 0xFF (bits p 15 8) (bits p 7 0) else m.load.progress } }
  notify m 1 (le 8 (modeWord m).toNat)

/-- SECTION_APPLIED: in directory order, one section at a time; while Hold is being entered, only to the next step boundary (R28, R128). -/
def sectionApplied (m : Mach) : Mach :=
  if m.load.st ≠ .applying ∨ (holding m ∧ !targetOpen m) ∨ !unitsRun m then m else
  let b := m.load.image
  match (dirEntries b)[m.load.done]? with
  | none => loadEnds m
  | some e =>
    match sectionStep m b e with
    | (false, m) => m
    | (true, m) =>
      let m := { m with load := { m.load with done := m.load.done + 1, record := 0 } }
      if imgEntries b ≤ m.load.done then loadEnds m else m

/-! ## The check step's end (R119, R126) -/

/-- CHECK_COMPLETE; `gone` are the records of which the boundary finds the unit or partner port absent. -/
def checkEnds (gone : List (Nat × Nat)) (m : Mach) : Mach :=
  if m.load.st ≠ .checking ∨ holding m ∨ !(m.mode.st == .loading || unitsRun m) then m else
  let b := m.load.image
  match checkFails m b gone, imgKind b with
  | [], 0 => commitFull m b
  | [], _ => prepareBegin m b
  | r :: rest, 0 =>
    let m := reject (modMode { m with load := { m.load with candidate := none } } (fun x => { x with verified := false })) b r rest.length .idle
    enterMode (physicalReset m) .bare 0x0F
  | r :: rest, _ => reject m b r rest.length .idle

/-- PREPARE_COMPLETE. -/
def prepareEnds (m : Mach) : Mach :=
  if m.load.st ≠ .preparing ∨ holding m ∨ !(namedRecs m.load.image).all (fun r => recReady m r.1 r.2) then m else applyBegin m

/-- QUIESCE_TIMEOUT: the first precondition unmet is reported. -/
def quiesceEnds (m : Mach) : Mach :=
  match m.load.deadline, (namedRecs m.load.image).find? (fun r => !recReady m r.1 r.2) with
  | some t, some r =>
    if m.load.st ≠ .preparing ∨ holding m ∨ m.now < t then m else loadAbandoned m (rejAt 3 0x0016 r.1 r.2 (recOff m.load.image r.1 r.2))
  | _, _ => m

/-- REWORK_COMPLETE (R28, R132): the loader is Idle, and every recovery is done. -/
def reworkEnds (m : Mach) : Mach :=
  if m.mode.st ≠ .rework ∨ holding m ∨ m.load.st ≠ .idle ∨ !m.mode.found.isEmpty ∨
      m.mode.recoveries.any (fun (p : FaultEv × Bool) => !p.2) then m
  else enterMode (modMode m (fun x => { x with recoveries := [] })) .service 0x09

end Sys2Proof.Machine
end

