-- ==== Sys2Proof/Machine/ModeCmds.lean ====
section
/-! DEFINITION. The commands of resets, boot, Training, Hold and the loader's steps (R28, R34, R35, R38, R39, R57, R58, R118, R119, R126 to
R132, R367, R370, R847). -/

namespace Sys2Proof.Machine

/-! ## Resets and boot -/

/-- POWER_ON_RESET: the always-on supply rises (R28, R38). -/
def execPowerOnReset (s : State) : Host.Outcome State Fault Refusal := runM s (fun m => powerOn s.fuse m true)

/-- MRST_N_RESET, in any mode of a supplied module (R28, R39). -/
def execMrstNReset (s : State) : Host.Outcome State Fault Refusal :=
  runM s (fun m => if m.pins.ao then moduleResetNow s.fuse m 0x02 else m)

/-- PWRGD_AO_FALL: the state of a power-on reset holds until the next rise (R847). -/
def execPwrgdAoFall (s : State) : Host.Outcome State Fault Refusal := runM s (fun m => powerOn s.fuse m false)

/-- SERVICE_DOMAIN_RELEASE, 2 ms after the supply's rise or the reset (R57). -/
def execServiceDomainRelease (s : State) : Host.Outcome State Fault Refusal :=
  runM s (fun m => if !m.svc.released && m.pins.ao && decide (m.svc.releaseAt ≤ m.now) then serviceRelease s.fuse m else m)

/-- The first patch bundle of the flashes that passes its checks is held (R370). -/
def flashBundle (f : Fuses) (m : Mach) (l : List Bytes) : Mach :=
  match l with
  | [] => m
  | b :: r => match bundleHold f m b true with
    | .ok m => m
    | .error _ => flashBundle f m r

/-- The image that boot firmware reads: the first that passes, else the first that the directories name (R54). -/
def flashImage (f : Fuses) (m : Mach) (l : List Bytes) : Option Bytes :=
  match l.find? (fun b => (verifyImage f m b 0).isNone) with
  | some b => some b
  | none => l.head?

/-- BOOT_IMAGE_READ (R54, R57, R126, R370): boot firmware in Bare, the loader Idle, no candidate held. -/
def bootRead (f : Fuses) (m : Mach) : Mach :=
  if m.mode.st ≠ .bare ∨ !m.svc.released ∨ m.svc.rom ∨ m.load.st ≠ .idle ∨ m.load.candidate.isSome then m else
  let m := flashBundle f m (bothItems m 3)
  match flashImage f m (bothItems m 2) with
  | none => m
  | some b => { m with load := { m.load with stage := b, target := 1, image := b, flash := true, expect := 0, st := .verifying, done := 0 } }

def execBootImageRead (s : State) : Host.Outcome State Fault Refusal := runAlive s (bootRead s.fuse)

/-! ## Training and Hold -/

/-- TRAINING_END (R28, R121). -/
def execTrainingEnd (r : TrainResult) (s : State) : Host.Outcome State Fault Refusal := runAlive s (fun m => trainingEnds m r)

/-- HOLD_ENTRY_COMPLETE (R34). -/
def execHoldEntryComplete (s : State) : Host.Outcome State Fault Refusal := runAliveLoss s holdEntered

/-- HOLD_EXIT_COMPLETE (R35). -/
def execHoldExitComplete (s : State) : Host.Outcome State Fault Refusal := runAliveLoss s holdExited

/-! ## The loader's steps -/

/-- The verify step ends (R117, R118, R126). -/
def verifyEnds (f : Fuses) (m : Mach) : Mach :=
  if m.load.st ≠ .verifying ∨ m.load.target ≠ 1 ∨ holding m then m else
  let b := m.load.image
  let back : LState := if m.load.candidate.isSome then .verified else .idle
  match verifyImage f m b m.load.expect with
  | some r => reject m b r 0 back
  | none =>
    if imgKind b = 0 then modMode { m with load := { m.load with candidate := some b, st := .verified } } (fun x => { x with verified := true })
    else { m with load := { m.load with st := .checking } }

def execVerifyComplete (s : State) : Host.Outcome State Fault Refusal := runAlive s (verifyEnds s.fuse)

/-- PATCH_CHECK_COMPLETE (R367). -/
def execPatchCheckComplete (s : State) : Host.Outcome State Fault Refusal :=
  runAlive s (fun m => if m.load.st ≠ .verifying ∨ m.load.target ≠ 2 ∨ holding m then m else patchChecked s.fuse m m.load.image)

/-- CHECK_COMPLETE (R119). -/
def execCheckComplete (absent : List (Fin 19 × BitVec 16)) (s : State) : Host.Outcome State Fault Refusal :=
  runAliveLoss s (checkEnds (absent.map (fun r => (r.1.val, r.2.toNat))))

/-- PREPARE_COMPLETE (R126). -/
def execPrepareComplete (s : State) : Host.Outcome State Fault Refusal := runUnits s prepareEnds

/-- QUIESCE_TIMEOUT (R126). -/
def execQuiesceTimeout (s : State) : Host.Outcome State Fault Refusal := runUnits s quiesceEnds

/-- SECTION_APPLIED (R128). -/
def execSectionApplied (s : State) : Host.Outcome State Fault Refusal := runUnitsLoss s sectionApplied

/-- REWORK_COMPLETE (R132). -/
def execReworkComplete (s : State) : Host.Outcome State Fault Refusal := runUnits s reworkEnds

end Sys2Proof.Machine
end

