-- ==== Sys2Proof/Machine/RegCmds.lean ====
section
/-! DEFINITION. The commands that reach registers without a row of their own (R8 to R10, R41, R45, R830). -/

namespace Sys2Proof.Machine

/-- REGISTER_WRITE (R10): checked and refused, or applied by the register's access code. -/
def execRegisterWrite (a : Actor) (addr : BitVec 52) (size : Nat) (v : Word) (s : State) : Host.Outcome State Fault Refusal :=
  runAliveLoss s (fun m => writeCtl m a addr.toNat size v)

/-- A read with what it changes, and whether it was refused. In Check-stop a read clears nothing, since every unit is frozen (R37, R820);
a refusal is still recorded. -/
def readNow (m : Mach) (a : Actor) (addr size : Nat) : Bool × Word × Mach :=
  match readCheck m a addr size with
  | .error r => (true, BitVec.allOnes 64, refuseAccess m a addr r)
  | .ok r => (false, r.1, if alive m then r.2 else m)

/-- READ_AND_CLEAR (R10): the value is returned, and the fields that clear are cleared. -/
def readAndClear (m : Mach) (a : Actor) (addr size : Nat) : Mach :=
  let r := readNow m a addr size
  emit r.2.2 (.ctlRead addr r.2.1)

def execReadAndClear (a : Actor) (addr : BitVec 52) (size : Nat) (s : State) : Host.Outcome State Fault Refusal :=
  runM s (fun m => readAndClear m a addr.toNat size)

/-- UNIT_RESET (R40, R41, R45). -/
def execUnitReset (a : Actor) (kind : Fin 16) (index : BitVec 12) (v : Word) (s : State) : Host.Outcome State Fault Refusal :=
  runAliveLoss s (fun m => writeCtl m a (regAddr kind.val index.toNat 0x10) 8 v)

/-- ERR_SELECT (R830). -/
def execErrSelect (a : Actor) (v : Word) (s : State) : Host.Outcome State Fault Refusal :=
  runAliveLoss s (fun m => writeCtl m a (regAddr 0 0 0x818) 8 v)

end Sys2Proof.Machine
end

