-- ==== Sys2Proof/Machine/SvcOps.lean ====
section
/-! DEFINITION. Service messages: what is discarded, what is answered again, the checks before a message is executed, responses (R37, R56,
R62, R63, R65 to R67, R73, R74). -/

namespace Sys2Proof.Machine

/-- What the module knows of a row's message type: its code (R71), whether it belongs to version 1.1 only (R70, R71), whether the ROM loader takes
it (R56), whether it is taken in Check-stop (R37), whether only the session owner may send it (R62), whether its payload's length is right. -/
structure MsgType where
  code : Nat
  new : Bool
  rom : Bool
  stop : Bool
  owned : Bool
  lenOk : Bool
  deriving DecidableEq, Repr

/-- What becomes of a message: it is discarded, answered with a kept response, answered with BUSY since it is still being executed,
answered with a status and not executed, or executed. -/
inductive Gate where
  | drop
  | again (k : Kept)
  | busy
  | no (status : Nat)
  | go

/-- A message's CRC and length are right; a payload has at most 1,024 bytes (R65, R66). -/
def svcIntact (h : SvcHdr) (p : Bytes) : Bool :=
  h.len.toNat == p.length && decide (p.length ≤ 1024) &&
    h.crc.toNat == crc32c (svcBytes h.major h.minor h.type.toNat h.seq.toNat h.len.toNat h.status.toNat p)

/-- The service core behind a port runs. -/
def portServes (m : Mach) (p : Port) : Bool := m.svc.released && m.pins.ao && !m.svc.coresLost.contains (portHub p) && hubIn m (portHub p)

/-- The checks of a message that is not discarded, in the model's order (log entry 56). A type that differs from the row's is one that R71
reserves: UNKNOWN_TYPE (R73). -/
def gateStatus (m : Mach) (t : MsgType) (h : SvcHdr) : Option Nat :=
  let v := (h.major.toNat, h.minor.toNat)
  match (if h.type.toNat = 0x0001 then some (0, 0, 0) else portAgreed m h.port) with
  | none => some 0x0003
  | some (a, b, _) =>
    if v ≠ (a, b) then some 0x0001
    else if h.type.toNat ≠ t.code then some 0x0001
    else if t.new && b == 0 then some 0x0001
    else if !t.lenOk then some 0x0002
    else if m.svc.rom && !t.rom then some 0x0007
    else if t.owned && m.svc.owner != some h.port then some 0x0005
    else if !alive m && !t.stop then some 0x0007
    else none

/-- A request of the port with the sequence number is still being executed (R81). -/
def stillRuns (m : Mach) (p : Port) (seq : Nat) : Bool := m.svc.running.any (fun x => x.port == p && x.seq == seq)

/-- A fuse blow is under way (R73, R87). -/
def blowing (m : Mach) : Bool := m.svc.running.any (fun x => x.blow)

/-- What becomes of a message. -/
def svcGate (m : Mach) (t : MsgType) (h : SvcHdr) (p : Bytes) : Gate :=
  if !portServes m h.port || !svcIntact h p then .drop
  else match m.svc.kept.find? (fun k => k.port == h.port && k.seq == h.seq.toNat) with
    | some k => .again k
    | none =>
      if stillRuns m h.port h.seq.toNat then .busy
      else match gateStatus m t h with
        | some c => .no c
        | none => .go

/-- A response leaves and is kept: the last 16 are (R67, R74). -/
def answerAs (m : Mach) (p : Port) (seq type status : Nat) (body : Bytes) : Mach :=
  let l := m.svc.kept ++ [{ port := p, seq := seq, type := type, status := status, body := body }]
  svcSend { m with svc := { m.svc with kept := l.drop (l.length - 16) } } p type seq status body

/-- A message's response, which carries its type and sequence number. -/
def answer (m : Mach) (h : SvcHdr) (status : Nat) (body : Bytes) : Mach := answerAs m h.port h.seq.toNat h.type.toNat status body

/-- The owner has sent a message (R63). -/
def ownerHeard (m : Mach) (p : Port) : Mach :=
  if m.svc.owner = some p then { m with svc := { m.svc with lastMsg := m.now } } else m

/-- What an executed message answers: at once a status and a payload; or later, when it has been executed for a time of at most `max` ns that
the spec bounds and does not give, a status and a payload (R81, R87). -/
inductive Reply where
  | now (status : Nat) (body : Bytes)
  | later (max : Nat) (blow : Bool) (status : Nat) (body : Bytes)

/-- The response of an executed message leaves, or the message counts as still being executed. -/
def reply (m : Mach) (h : SvcHdr) (r : Reply) : Mach :=
  match r with
  | .now status body => answer m h status body
  | .later max blow status body =>
    let (n, m) := takeChoice m (max + 1)
    { m with svc := { m.svc with running := m.svc.running ++
        [{ port := h.port, seq := h.seq.toNat, type := h.type.toNat, status := status, body := body, till := m.now + n, blow := blow }] } }

/-- The requests whose execution has ended are answered. -/
def runningEnd (m : Mach) : Mach :=
  let due := m.svc.running.filter (fun x => decide (x.till ≤ m.now))
  due.foldl (fun (m : Mach) x => answerAs m x.port x.seq x.type x.status x.body)
    { m with svc := { m.svc with running := m.svc.running.filter (fun x => !decide (x.till ≤ m.now)) } }

/-- A message: what it does where it is executed is `act`, which gives its response and the machine. -/
def serveAs (m : Mach) (t : MsgType) (h : SvcHdr) (p : Bytes) (act : Mach → Reply × Mach) : Mach :=
  match svcGate m t h p with
  | .drop => m
  | .again k => svcSend (ownerHeard m h.port) k.port k.type k.seq k.status k.body
  | .busy => svcSend (ownerHeard m h.port) h.port h.type.toNat h.seq.toNat 0x0008 []
  | .no c => answer (ownerHeard m h.port) h c []
  | .go =>
    let r := act (ownerHeard m h.port)
    reply r.2 h r.1

/-- A message that is answered at once: `act` gives its status, its response's payload and the machine. -/
def serve (m : Mach) (t : MsgType) (h : SvcHdr) (p : Bytes) (act : Mach → Nat × Bytes × Mach) : Mach :=
  serveAs m t h p (fun m => let r := act m; (.now r.1 r.2.1, r.2.2))

/-- A message of the session owner that is not executed in Check-stop. -/
def ownMsg (code : Nat) (lenOk : Bool) : MsgType := { code := code, new := false, rom := false, stop := false, owned := true, lenOk := lenOk }

/-- Answers without an effect. -/
def refusedWith (c : Nat) (m : Mach) : Nat × Bytes × Mach := (c, [], m)

end Sys2Proof.Machine
end

