-- ==== Sys2Proof/Machine/SvcCmds.lean ====
section
/-! DEFINITION. The service messages of the session, registers, tags, modes, the dump and notifications (R59 to R79, R82, R83, R822). -/

namespace Sys2Proof.Machine

/-! ## HELLO and the session -/

/-- The highest version of the module that a HELLO lists (R69, R70, R75). -/
def helloVersion (p : Bytes) : Option (Nat × Nat) :=
  let l := (List.range (min 8 (fld p 0 1))).map (fun i => (fld p (2 + 2 * i) 1, fld p (3 + 2 * i) 1))
  [(1, 1), (1, 0)].find? (fun v => l.contains v)

/-- HELLO's response (R75). -/
def helloBody (m : Mach) (p : Port) (major minor mask : Nat) : Bytes :=
  le 1 major ++ le 1 minor ++ le 1 (portHub p) ++ le 1 stepping ++ le 4 0 ++ le 8 mask ++ padTo 16 m.ident ++ le 8 (modeWord m).toNat ++
    le 1 (match m.svc.owner with | none => 0 | some o => if o = p then 2 else 1) ++ le 7 0

def helloAct (port : Port) (p : Bytes) (m : Mach) : Nat × Bytes × Mach :=
  match helloVersion p with
  | none => (0x0003, helloBody m port 0 0 0, m)
  | some (a, b) =>
    let mask := if b = 1 then fld p 24 8 % 16 else fld p 24 8 % 4
    (0, helloBody m port a b mask, { m with svc := { m.svc with agreed := tset m.svc.agreed (portKey port) (a, b, mask) } })

/-- HELLO (R69, R70, R75). -/
def execHello (h : SvcHdr) (p : Bytes) (s : State) : Host.Outcome State Fault Refusal :=
  runM s (fun m => serve m { code := 0x0001, new := false, rom := true, stop := true, owned := false, lenOk := p.length == 32 } h p (helloAct h.port p))

/-- The notifications kept without a session are sent in order (R83). -/
def notesSend (m : Mach) : Mach :=
  m.notes.foldl (fun (m : Mach) n => let r := noteSend m n; { r.2 with notes := r.2.notes ++ [r.1] }) { m with notes := [] }

/-- The session is a controller's. A handover token is used up, and a fuse that was armed in another hand is not (R64, R85). -/
def sessionTo (m : Mach) (p : Port) (ms : Nat) : Mach :=
  { m with svc := { m.svc with owner := some p, keepalive := ms, lastMsg := m.now, token := none, armed := none } }

/-- The token that a SESSION_OPEN presents is valid (R64). -/
def tokenGood (m : Mach) (t : Nat) : Bool := match m.svc.token with | some (w, till) => w.toNat == t && decide (m.now ≤ till) | none => false

/-- The place of a port where two SESSION_OPEN have equal time stamps (R61): hub 0 before hub 1, a service port before an I3C sideband. -/
def portRank (p : Port) : Nat := portKey p

/-- A SESSION_OPEN's message type and its keepalive time. -/
def openMsg (p : Bytes) : MsgType := { code := 0x0002, new := false, rom := true, stop := true, owned := false, lenOk := p.length == 16 }
def openMs (p : Bytes) : Nat := if fld p 0 4 = 0 then 3000 else fld p 0 4
def openMsOk (p : Bytes) : Bool := decide (1000 ≤ openMs p) && decide (openMs p ≤ 60000)

/-- A command that waits is a SESSION_OPEN that would be granted and stands before the port's (R61): no time passes while commands wait, so
that it has the same time stamp. -/
def rival (m : Mach) (port : Port) (c : Instr) : Bool :=
  match c with
  | .sessionOpen h p => decide (portRank h.port < portRank port) && (match svcGate m (openMsg p) h p with | .go => openMsOk p | _ => false)
  | _ => false

/-- A new session: its notifications are numbered from 1, and those that were kept are sent (R83). -/
def sessionNew (m : Mach) (p : Port) (ms : Nat) : Mach :=
  let m := sessionTo m p ms
  notesSend { m with noteSeq := 0, notes := m.notes.map (fun n => { n with seq := 0, sends := 0 }) }

/-- SESSION_OPEN where it is executed; `waiting` are the commands that wait. A SESSION_OPEN with TOKEN set while no session is open is
granted whatever the token is: R60 grants it, R64 refuses a wrong token with BAD_TOKEN, and the spec gives no order (DESIGN CHOICE, log
entry 62). -/
def sessionAct (waiting : List Instr) (port : Port) (p : Bytes) (m : Mach) : Nat × Bytes × Mach :=
  let ms := openMs p
  if !openMsOk p then refusedWith 0x0009 m
  else if m.svc.owner = none then
    if waiting.any (rival m port) then refusedWith 0x0004 m else (0, le 4 ms ++ le 4 0, sessionNew m port ms)
  else if !bit (fld p 4 4) 0 then refusedWith 0x0004 m
  else if tokenGood m (fld p 8 8) then (0, le 4 ms ++ le 4 0, sessionTo m port ms)
  else refusedWith 0x0006 m

/-- SESSION_OPEN (R60, R61, R64, R76). -/
def execSessionOpen (h : SvcHdr) (p : Bytes) (s : State) : Host.Outcome State Fault Refusal :=
  runM s (fun m => serve m (openMsg p) h p (sessionAct s.pending h.port p))

/-- The session is released with its token and the fuse armed in it (log entry 62). -/
def sessionCloses (m : Mach) : Mach := { m with svc := { m.svc with owner := none, token := none, armed := none } }

/-- A message of the session owner without a payload, which Check-stop does not refuse. -/
def bareMsg (code : Nat) (p : Bytes) : MsgType := { ownMsg code (p.length == 0) with stop := true }

/-- SESSION_CLOSE (R76). -/
def execSessionClose (h : SvcHdr) (p : Bytes) (s : State) : Host.Outcome State Fault Refusal :=
  runM s (fun m => serve m (bareMsg 0x0003 p) h p (fun m => (0, [], sessionCloses m)))

/-- KEEPALIVE: the message itself keeps the session (R63). -/
def execKeepalive (h : SvcHdr) (p : Bytes) (s : State) : Host.Outcome State Fault Refusal :=
  runM s (fun m => serve m (bareMsg 0x0004 p) h p (fun m => (0, [], m)))

/-- A token from the random source, for one use within 10 s (R64). -/
def handoverAct (m : Mach) : Nat × Bytes × Mach :=
  let (w, m) := takeFree m
  (0, le 8 w.toNat ++ le 4 10000 ++ le 4 0, { m with svc := { m.svc with token := some (w, m.now + 10000000000) } })

/-- HANDOVER_PREPARE (R64, R76). -/
def execHandoverPrepare (h : SvcHdr) (p : Bytes) (s : State) : Host.Outcome State Fault Refusal :=
  runM s (fun m => serve m { ownMsg 0x0005 (p.length == 0) with new := true } h p handoverAct)

/-- SESSION_LAPSE (R63): the owner has been silent for the keepalive time; nothing changes but the ownership. -/
def execSessionLapse (s : State) : Host.Outcome State Fault Refusal :=
  runM s (fun m => if m.svc.owner.isSome ∧ m.svc.lastMsg + m.svc.keepalive * 1000000 ≤ m.now then sessionLapses m else m)

/-- HANDOVER_TOKEN_EXPIRY (R64). -/
def execHandoverTokenExpiry (s : State) : Host.Outcome State Fault Refusal :=
  runM s (fun m => match m.svc.token with
    | some (_, till) => if till < m.now then { m with svc := { m.svc with token := none } } else m
    | none => m)

/-! ## Registers and tags -/

/-- An address of control space (R5). -/
def inControl (a : Nat) : Bool := decide (0xFFF0000000000 ≤ a) && decide (a < 0x10000000000000)

def regReadAct (p : Bytes) (m : Mach) : Nat × Bytes × Mach :=
  let a := fld p 0 8
  if !inControl a then (0x0009, le 8 a ++ List.replicate 8 0xFF, m)
  else
    let r := readNow m .service a 8
    (if r.1 then 0x0009 else 0, le 8 a ++ le 8 r.2.1.toNat, r.2.2)

/-- REG_READ (R72, R77). -/
def execRegRead (h : SvcHdr) (p : Bytes) (s : State) : Host.Outcome State Fault Refusal :=
  runM s (fun m => serve m { ownMsg 0x0010 (p.length == 8) with stop := true } h p (regReadAct p))

def regWriteAct (p : Bytes) (m : Mach) : Nat × Bytes × Mach :=
  let a := fld p 0 8
  if !inControl a then refusedWith 0x0009 m
  else match writeCheck m .service a 8 (BitVec.ofNat 64 (fld p 8 8)) with
    | .error r => refusedWith 0x0009 (refuseAccess m .service a r)
    | .ok m => (0, le 8 a, m)

/-- REG_WRITE (R72, R77). -/
def execRegWrite (h : SvcHdr) (p : Bytes) (s : State) : Host.Outcome State Fault Refusal :=
  runM s (fun m =>
    let m' := serve m (ownMsg 0x0011 (p.length == 16)) h p (regWriteAct p)
    if alive m' then lossCheck m' else m')

/-- The unit that a TAG_BULK entry names, where there is one. -/
def tagUnit (e : Bytes) : Option (Nat × Nat) := if fld e 2 2 < kindCount (fld e 0 1) then some (fld e 0 1, fld e 2 2) else none

/-- The entries of a TAG_BULK in order, up to the first that names no implemented unit: how many are done, what is read, the machine. -/
def tagEntries (write : Bool) (size : Nat) (es : List Nat) (p : Bytes) (m : Mach) : Nat × Bytes × Mach :=
  match es with
  | [] => (0, [], m)
  | i :: r =>
    let e := bslice p (8 + size * i) size
    match tagUnit e with
    | none => (0, [], m)
    | some (k, n) =>
      if write then
        let x := tagEntries write size r p (setUnit m k n { unit m k n with tags := (List.range 4).map (fun j => BitVec.ofNat 64 (fld e (4 + 8 * j) 8)) })
        (x.1 + 1, x.2)
      else
        let x := tagEntries write size r p m
        (x.1 + 1, e ++ (unit m k n).tags.flatMap (fun w => le 8 w.toNat) ++ x.2.1, x.2.2)

/-- TAG_BULK where it is executed. An operation byte other than 0 and 1, for which the spec gives no status, is answered REFUSED without a
payload, whatever length its entries have (DESIGN CHOICE, log entry 59). -/
def tagBulkAct (p : Bytes) (m : Mach) : Nat × Bytes × Mach :=
  let op := fld p 0 1
  if 2 ≤ op then refusedWith 0x0009 m else
  let r := tagEntries (op == 1) (if op = 1 then 36 else 4) (List.range (fld p 1 1)) p m
  (if r.1 = fld p 1 1 then 0 else 0x0009, le 1 op ++ le 1 r.1 ++ le 6 0 ++ r.2.1, r.2.2)

/-- A TAG_BULK's length fits its count of 1 to 28 entries (R78). -/
def tagLenOk (p : Bytes) : Bool :=
  decide (8 ≤ p.length) && decide (1 ≤ fld p 1 1) && decide (fld p 1 1 ≤ 28) && (decide (2 ≤ fld p 0 1) || p.length == 8 + fld p 1 1 * (if fld p 0 1 = 1 then 36 else 4))

/-- TAG_BULK (R78). -/
def execTagBulk (h : SvcHdr) (p : Bytes) (s : State) : Host.Outcome State Fault Refusal :=
  runM s (fun m => serve m { ownMsg 0x0012 (tagLenOk p) with new := true } h p (tagBulkAct p))

/-! ## Mode commands (R28, R30, R79) -/

/-- A mode command where it is executed: one whose value R79 does not list is refused; one during a transition or a fuse blow is answered
BUSY (R30, R73; log entry 108); one that is taken answers MODE as it stood. -/
def modeAct (p : Bytes) (allowed : Mach → Nat) (act : Mach → Mach) (m : Mach) : Nat × Bytes × Mach :=
  if fld p 0 1 = 0 ∨ 6 < fld p 0 1 then refusedWith 0x0009 m
  else if m.mode.transit || blowing m then refusedWith 0x0008 m
  else if allowed m = 0 then (0, le 8 (modeWord m).toNat, act m) else refusedWith (allowed m) m

def modeMsg (p : Bytes) : MsgType := ownMsg 0x0020 (p.length == 8)

/-- START (R28, R104). -/
def execStart (h : SvcHdr) (p : Bytes) (s : State) : Host.Outcome State Fault Refusal :=
  runM s (fun m => serve m (modeMsg p) h p (modeAct p (fun m => if m.mode.st = .bare ∧ m.mode.verified then 0 else 7) startNow))

/-- The message is one that the module executes. -/
def goes (g : Gate) : Bool := match g with | .go => true | _ => false

/-- MODULE_RESET is taken in every mode, in a transition as well, but not while a fuse is blown (R28, R30, R73). -/
def resetMsg (p : Bytes) : MsgType := { modeMsg p with stop := true }
def resetTaken (m : Mach) (h : SvcHdr) (p : Bytes) : Bool := goes (svcGate m (resetMsg p) h p) && fld p 0 1 == 2 && !blowing m

/-- MODULE_RESET (R28, R30, R79): its response leaves before the reset. -/
def execModuleReset (h : SvcHdr) (p : Bytes) (s : State) : Host.Outcome State Fault Refusal :=
  runM s (fun m =>
    let r := serve m (resetMsg p) h p (fun m =>
      if fld p 0 1 ≠ 2 then refusedWith 0x0009 m else if blowing m then refusedWith 0x0008 m else (0, le 8 (modeWord m).toNat, m))
    if resetTaken m h p then moduleResetNow s.fuse r 0x03 else r)

/-- HOLD_ENTER (R28, R34). -/
def execHoldEnter (h : SvcHdr) (p : Bytes) (s : State) : Host.Outcome State Fault Refusal :=
  runM s (fun m => serve m (modeMsg p) h p (modeAct p (fun m => if unitsRun m then 0 else 7) holdBegins))

/-- HOLD_EXIT (R28, R35). -/
def execHoldExit (h : SvcHdr) (p : Bytes) (s : State) : Host.Outcome State Fault Refusal :=
  runM s (fun m => serve m (modeMsg p) h p
    (modeAct p (fun m => if m.mode.st = .hold then 0 else 7) (fun m => modMode m (fun x => { x with transit := true }))))

/-- TEST_ENTER (R28). -/
def execTestEnter (h : SvcHdr) (p : Bytes) (s : State) : Host.Outcome State Fault Refusal :=
  runM s (fun m => serve m (modeMsg p) h p
    (modeAct p (fun m => if m.mode.st ≠ .bare then 7 else if m.mode.testAllowed then 0 else 0x000A) (fun m => enterMode m .test 0x0C)))

/-- TEST_EXIT (R28): its response leaves before the module reset. -/
def execTestExit (h : SvcHdr) (p : Bytes) (s : State) : Host.Outcome State Fault Refusal :=
  runM s (fun m =>
    let r := serve m (modeMsg p) h p (modeAct p (fun m => if m.mode.st = .test then 0 else 7) (fun m => m))
    if goes (svcGate m (modeMsg p) h p) && m.mode.st == .test && fld p 0 1 == 6 && !m.mode.transit && !blowing m then moduleResetNow s.fuse r 0x03 else r)

/-! ## The dump and notifications -/

def dumpAct (p : Bytes) (m : Mach) : Nat × Bytes × Mach :=
  let off := fld p 0 4
  let n := fld p 4 2
  if n = 0 ∨ 1008 < n ∨ m.mode.dump.length ≤ off then refusedWith 0x0009 m
  else (0, le 4 off ++ le 4 m.mode.dump.length ++ bslice m.mode.dump off n, m)

/-- DUMP_READ (R822). -/
def execDumpRead (h : SvcHdr) (p : Bytes) (s : State) : Host.Outcome State Fault Refusal :=
  runM s (fun m => serve m { ownMsg 0x0050 (p.length == 6) with stop := true } h p (dumpAct p))

/-- An answer with status OK and no payload, in the agreed version, of the session owner (R83). -/
def answerFits (m : Mach) (h : SvcHdr) (p : Bytes) : Bool :=
  portServes m h.port && svcIntact h p && h.type == 0x0060 && p.length == 0 && m.svc.owner == some h.port && h.status == 0 &&
    (match portAgreed m h.port with | some (a, b, _) => h.major.toNat == a && h.minor.toNat == b | none => false)

/-- NOTIFY_ANSWER (R83), which is accepted in every mode. -/
def execNotifyAnswer (h : SvcHdr) (p : Bytes) (s : State) : Host.Outcome State Fault Refusal :=
  runM s (fun m => if answerFits m h p then
    let m := ownerHeard m h.port
    { m with notes := m.notes.filter (fun n => n.seq == 0 || n.seq != h.seq.toNat) } else m)

/-- A notification is due to be sent again: at most 30 times, 100 ms apart (R83). -/
def resendDue (m : Mach) (n : Notify) : Bool := m.svc.owner.isSome && decide (1 ≤ n.sends) && decide (n.sends ≤ 30) && decide (n.sentAt + 100000000 ≤ m.now)

/-- NOTIFY_RESEND (R83). -/
def execNotifyResend (s : State) : Host.Outcome State Fault Refusal :=
  runM s (fun m => m.notes.foldl (fun (m : Mach) n =>
    if resendDue m n then let r := noteSend m n; { r.2 with notes := r.2.notes ++ [r.1] } else { m with notes := m.notes ++ [n] }) { m with notes := [] })

end Sys2Proof.Machine
end

