-- ==== Sys2Proof/Machine/SvcLoad.lean ====
section
/-! DEFINITION. The service messages of the staging buffer, the loader, the flashes and the fuses (R80, R84 to R89, R97, R111 to R116, R362,
R369). -/

namespace Sys2Proof.Machine

/-! ## Staging and loading -/

/-- The loader is at work (R116). -/
def loaderBusy (m : Mach) : Bool := m.load.st == .verifying || m.load.st == .checking || m.load.st == .preparing || m.load.st == .applying

/-- A bundle or image may be staged from its start in this mode (R116). -/
def stageMode (m : Mach) : Bool := m.mode.st == .bare || unitsRun m

def imagePutAct (p : Bytes) (m : Mach) : Nat × Bytes × Mach :=
  let target := fld p 0 1
  let off := fld p 4 4
  let data := p.drop 8
  let x := m.load
  if loaderBusy m then refusedWith 0x0008 m
  else if target ≠ 1 ∧ target ≠ 2 then refusedWith 0x0009 m
  else if off = 0 then
    if !stageMode m then refusedWith 0x0007 m
    else if x.st = .verified ∧ m.mode.st ≠ .bare then refusedWith 0x0009 m
    else (0, [], { m with load := { x with st := .staging, stage := data, target := target } })
  else if x.st ≠ .staging ∨ off ≠ x.stage.length ∨ target ≠ x.target ∨ 0x400000 < off + data.length then refusedWith 0x0009 m
  else (0, [], { m with load := { x with stage := x.stage ++ data } })

/-- IMAGE_PUT (R111, R112, R116). -/
def execImagePut (h : SvcHdr) (p : Bytes) (s : State) : Host.Outcome State Fault Refusal :=
  runM s (fun m => serve m { ownMsg 0x0030 (decide (9 ≤ p.length)) with rom := true } h p (imagePutAct p))

/-- IMAGE_LOAD where it is executed. A partial load in Hold, Training or Loading is answered MODE before anything else (R33), and so is one
while Hold is being entered, when the mode still reads Service or Rework (DESIGN CHOICE, log entry 55). -/
def imageLoadAct (p : Bytes) (m : Mach) : Nat × Bytes × Mach :=
  let kind := fld p 0 1
  let ms := fld p 2 2
  let x := m.load
  if x.target ≠ 2 ∧ kind = 1 ∧ (holding m ∨ m.mode.st = .training ∨ m.mode.st = .loading) then refusedWith 0x0007 m
  else if loaderBusy m then refusedWith 0x0008 m
  else if x.st ≠ .staging ∨ 1 < kind ∨ (x.target = 1 ∧ 10000 < ms) ∨ (x.target = 2 ∧ kind ≠ 0) then refusedWith 0x0009 m
  else if x.target = 2 ∧ !stageMode m then refusedWith 0x0007 m
  else (0, [], { m with load := { x with
    st := .verifying, image := x.stage, flash := false, expect := kind, done := if x.target = 2 then x.done else 0,
    timeoutNs := if x.target = 2 then x.timeoutNs else if ms = 0 then 100000000 else ms * 1000000 } })

/-- IMAGE_LOAD (R33, R113, R114, R116, R369). -/
def execImageLoad (h : SvcHdr) (p : Bytes) (s : State) : Host.Outcome State Fault Refusal :=
  runM s (fun m => serve m (ownMsg 0x0031 (p.length == 4)) h p (imageLoadAct p))

/-! ## Flash (R80) -/

/-- The flash that a message names is there and reached from the port's hub. -/
def flashReached (m : Mach) (port : Port) (hub : Nat) : Bool :=
  decide (hub < 2) && flashIn (flash m hub) && (hub == portHub port || (hubIn m hub && !(subLink m 12).lost))

/-- A range of bytes that a flash has. -/
def flashRange (m : Mach) (port : Port) (hub off len : Nat) : Bool := flashReached m port hub && decide (off + len ≤ (flash m hub).size)

def flashMsg (code : Nat) (lenOk : Bool) : MsgType := { ownMsg code lenOk with rom := true }

def flashReadAct (port : Port) (p : Bytes) (m : Mach) : Nat × Bytes × Mach :=
  let off := fld p 4 4
  let n := fld p 8 2
  if n = 0 ∨ 1008 < n ∨ !flashRange m port (fld p 0 1) off n then refusedWith 0x0009 m
  else (0, le 4 off ++ le 2 n ++ le 2 0 ++ flashRead (flash m (fld p 0 1)) off n, m)

/-- FLASH_READ. -/
def execFlashRead (h : SvcHdr) (p : Bytes) (s : State) : Host.Outcome State Fault Refusal :=
  runM s (fun m => serve m (flashMsg 0x0040 (p.length == 16)) h p (flashReadAct h.port p))

def flashWriteAct (port : Port) (p : Bytes) (m : Mach) : Nat × Bytes × Mach :=
  let hub := fld p 0 1
  let off := fld p 4 4
  let n := fld p 8 2
  let data := p.drop 16
  if n = 0 ∨ 1008 < n ∨ !flashRange m port hub off n then refusedWith 0x0009 m
  else
    let m := modFlash m hub (fun x => flashProgram x off data)
    if flashRead (flash m hub) off n = data then (0, le 4 off ++ le 2 n ++ le 2 0, m) else refusedWith 0x0009 m

/-- FLASH_WRITE: the bytes are programmed and read back. -/
def execFlashWrite (h : SvcHdr) (p : Bytes) (s : State) : Host.Outcome State Fault Refusal :=
  runM s (fun m => serve m (flashMsg 0x0041 (decide (16 ≤ p.length) && p.length == 16 + fld p 8 2)) h p (flashWriteAct h.port p))

/-- Sectors erased; an erase that fails leaves its sector with bytes that the spec does not give. -/
def eraseSectors (m : Mach) (hub off count : Nat) (failAt : Option Nat) : Nat × Mach :=
  match failAt with
  | some k =>
    if count ≤ k then (count, modFlash m hub (fun x => flashErase x off (0x10000 * count))) else
    let m := modFlash m hub (fun x => flashErase x off (0x10000 * k))
    let (b, m) := freeBytes m 0x10000
    let bad := off + 0x10000 * k
    (k, modFlash m hub (fun x => flashProgram (flashErase x bad 0x10000) bad b))
  | none => (count, modFlash m hub (fun x => flashErase x off (0x10000 * count)))

/-- FLASH_ERASE where it is executed: at most 2 s for each sector (R81). -/
def flashEraseAct (port : Port) (p : Bytes) (failAt : Option Nat) (m : Mach) : Reply × Mach :=
  let hub := fld p 0 1
  let off := fld p 4 4
  let n := fld p 8 2
  if n = 0 ∨ 64 < n ∨ off % 0x10000 ≠ 0 ∨ !flashRange m port hub off (0x10000 * n) then (.now 0x0009 [], m)
  else
    let r := eraseSectors m hub off n failAt
    (.later (2000000000 * n) false (if r.1 = n then 0 else 0x0009) (le 4 off ++ le 2 r.1 ++ le 2 0), r.2)

/-- FLASH_ERASE; `failAt` says how many sectors the flash erases before an erase fails. -/
def execFlashErase (h : SvcHdr) (p : Bytes) (failAt : Option Nat) (s : State) : Host.Outcome State Fault Refusal :=
  runM s (fun m => serveAs m (flashMsg 0x0042 (p.length == 16)) h p (flashEraseAct h.port p failAt))

/-! ## Fuses (R84 to R88, R97, R362) -/

/-- A fuse code that the module blows: not reserved, and not the revocation of the last unrevoked slot. -/
def fuseCodeGood (f : Fuses) (c : Nat) : Bool :=
  c == 0x01 ||
  (decide (0x10 ≤ c) && decide (c < 0x14) && (List.range 4).any (fun n => n != c - 0x10 && !imageRevoked f n)) ||
  (decide (0x20 ≤ c) && decide (c < 0x22) && (List.range 2).any (fun n => n != c - 0x20 && !vendorRevoked f n))

def disarm (m : Mach) : Mach := { m with svc := { m.svc with armed := none } }

def fuseArmAct (f : Fuses) (p : Bytes) (m : Mach) : Nat × Bytes × Mach :=
  let c := fld p 0 1
  if m.mode.st ≠ .bare then refusedWith 0x0007 m
  else if blowing m then refusedWith 0x0008 m
  else if !fuseCodeGood f c then refusedWith 0x0009 (disarm m)
  else
    let (w, m) := takeFree m
    let v := w.toNat % 0x100000000
    (0, le 4 v ++ le 4 0, { m with svc := { m.svc with armed := some (c, v, m.now) } })

/-- FUSE_ARM. -/
def execFuseArm (h : SvcHdr) (p : Bytes) (s : State) : Host.Outcome State Fault Refusal :=
  runM s (fun m => serve m (ownMsg 0x0070 (p.length == 8)) h p (fuseArmAct s.fuse p))

/-- The status that a FUSE_CONFIRM is answered with. One that is both late and wrong, for which R86 gives no order, is answered EXPIRED
(DESIGN CHOICE, log entry 61); one during a fuse blow BUSY (R73, log entry 108). -/
def confirmStatus (m : Mach) (p : Bytes) : Nat :=
  if m.mode.st ≠ .bare then 0x0007 else
  if blowing m then 0x0008 else
  match m.svc.armed with
  | none => 0x0009
  | some (c, v, t) =>
    if t + 5000000000 < m.now then 0x000B
    else if fld p 0 1 ≠ c ∨ fld p 4 4 ≠ 0xFFFFFFFF - v then 0x0009
    else 0

/-- A fuse blown in one copy. -/
def blowCopy (c : Nat) (x : FuseCopy) : FuseCopy :=
  if c = 0x01 then { x with test := true }
  else if c < 0x20 then { x with image := lset x.image (c - 0x10) true }
  else { x with vendor := lset x.vendor (c - 0x20) true }

def confirmMsg (p : Bytes) : MsgType := ownMsg 0x0071 (p.length == 8)

/-- FUSE_CONFIRM where it is executed: a blow is reported within 200 ms (R87). -/
def confirmAct (p : Bytes) (m : Mach) : Reply × Mach :=
  let c := confirmStatus m p
  if c = 0x0007 ∨ c = 0x0008 then (.now c [], m)
  else if c ≠ 0 then (.now c [], disarm m)
  else (.later 200000000 true 0 [], modMode (disarm m) (fun x => { x with testAllowed := x.testAllowed && fld p 0 1 != 0x01 }))

/-- FUSE_CONFIRM: the fuse is blown in both copies (R87). -/
def execFuseConfirm (h : SvcHdr) (p : Bytes) (s : State) : Host.Outcome State Fault Refusal :=
  let m := serveAs s.m (confirmMsg p) h p (confirmAct p)
  match svcGate s.m (confirmMsg p) h p with
  | .go => if confirmStatus s.m p = 0 then .next { s with fuse := (blowCopy (fld p 0 1) s.fuse.1, blowCopy (fld p 0 1) s.fuse.2), m := m } else .next { s with m := m }
  | _ => .next { s with m := m }

/-- FUSE_ARM_EXPIRY (R85, R86): the challenge is forgotten; that a window has passed stays known, since a later FUSE_CONFIRM is answered
EXPIRED. -/
def execFuseArmExpiry (s : State) : Host.Outcome State Fault Refusal :=
  runM s (fun m => match m.svc.armed with
    | some (_, _, t) => if t + 5000000000 < m.now then { m with svc := { m.svc with armed := some (0, 0, t) } } else m
    | none => m)

end Sys2Proof.Machine
end

