-- ==== Sys2Proof/Machine/Dispatch.lean ====
section
/-! DEFINITION. `exec`: one arm for each command, a direct call of its meaning. -/

namespace Sys2Proof.Machine

def exec (i : Instr) (s : State) : Host.Outcome State Fault Refusal :=
  match i with
  | .powerOnReset => Sys2Proof.Machine.execPowerOnReset s
  | .mrstNReset => Sys2Proof.Machine.execMrstNReset s
  | .pwrgdAoFall => Sys2Proof.Machine.execPwrgdAoFall s
  | .pwrgdMainFall => Sys2Proof.Machine.execPwrgdMainFall s
  | .serviceDomainRelease => Sys2Proof.Machine.execServiceDomainRelease s
  | .bootImageRead => Sys2Proof.Machine.execBootImageRead s
  | .hello h p => Sys2Proof.Machine.execHello h p s
  | .sessionOpen h p => Sys2Proof.Machine.execSessionOpen h p s
  | .sessionClose h p => Sys2Proof.Machine.execSessionClose h p s
  | .keepalive h p => Sys2Proof.Machine.execKeepalive h p s
  | .handoverPrepare h p => Sys2Proof.Machine.execHandoverPrepare h p s
  | .sessionLapse => Sys2Proof.Machine.execSessionLapse s
  | .handoverTokenExpiry => Sys2Proof.Machine.execHandoverTokenExpiry s
  | .regRead h p => Sys2Proof.Machine.execRegRead h p s
  | .regWrite h p => Sys2Proof.Machine.execRegWrite h p s
  | .tagBulk h p => Sys2Proof.Machine.execTagBulk h p s
  | .start h p => Sys2Proof.Machine.execStart h p s
  | .moduleReset h p => Sys2Proof.Machine.execModuleReset h p s
  | .holdEnter h p => Sys2Proof.Machine.execHoldEnter h p s
  | .holdEntryComplete => Sys2Proof.Machine.execHoldEntryComplete s
  | .holdExit h p => Sys2Proof.Machine.execHoldExit h p s
  | .holdExitComplete => Sys2Proof.Machine.execHoldExitComplete s
  | .testEnter h p => Sys2Proof.Machine.execTestEnter h p s
  | .testExit h p => Sys2Proof.Machine.execTestExit h p s
  | .imagePut h p => Sys2Proof.Machine.execImagePut h p s
  | .imageLoad h p => Sys2Proof.Machine.execImageLoad h p s
  | .flashRead h p => Sys2Proof.Machine.execFlashRead h p s
  | .flashWrite h p => Sys2Proof.Machine.execFlashWrite h p s
  | .flashErase h p failAt => Sys2Proof.Machine.execFlashErase h p failAt s
  | .dumpRead h p => Sys2Proof.Machine.execDumpRead h p s
  | .notifyAnswer h p => Sys2Proof.Machine.execNotifyAnswer h p s
  | .notifyResend => Sys2Proof.Machine.execNotifyResend s
  | .fuseArm h p => Sys2Proof.Machine.execFuseArm h p s
  | .fuseConfirm h p => Sys2Proof.Machine.execFuseConfirm h p s
  | .fuseArmExpiry => Sys2Proof.Machine.execFuseArmExpiry s
  | .trainingEnd r => Sys2Proof.Machine.execTrainingEnd r s
  | .verifyComplete => Sys2Proof.Machine.execVerifyComplete s
  | .patchCheckComplete => Sys2Proof.Machine.execPatchCheckComplete s
  | .checkComplete absent => Sys2Proof.Machine.execCheckComplete absent s
  | .prepareComplete => Sys2Proof.Machine.execPrepareComplete s
  | .quiesceTimeout => Sys2Proof.Machine.execQuiesceTimeout s
  | .sectionApplied => Sys2Proof.Machine.execSectionApplied s
  | .reworkComplete => Sys2Proof.Machine.execReworkComplete s
  | .registerWrite a addr size v => Sys2Proof.Machine.execRegisterWrite a addr size v s
  | .readAndClear a addr size => Sys2Proof.Machine.execReadAndClear a addr size s
  | .unitReset a kind index v => Sys2Proof.Machine.execUnitReset a kind index v s
  | .microcodeLoad u readBack => Sys2Proof.Machine.execMicrocodeLoad u readBack s
  | .leaseSettAdd a l v => Sys2Proof.Machine.execLeaseSettAdd a l v s
  | .crangeClean a inclLocked => Sys2Proof.Machine.execCrangeClean a inclLocked s
  | .crangeInvalidate a inclLocked => Sys2Proof.Machine.execCrangeInvalidate a inclLocked s
  | .crangeCleanInvalidate a inclLocked => Sys2Proof.Machine.execCrangeCleanInvalidate a inclLocked s
  | .crangeZero a inclLocked => Sys2Proof.Machine.execCrangeZero a inclLocked s
  | .setwayClean a u v => Sys2Proof.Machine.execSetwayClean a u v s
  | .setwayInvalidate a u v => Sys2Proof.Machine.execSetwayInvalidate a u v s
  | .setwayCleanInvalidate a u v => Sys2Proof.Machine.execSetwayCleanInvalidate a u v s
  | .maintenanceComplete u => Sys2Proof.Machine.execMaintenanceComplete u s
  | .cacheDisable a c => Sys2Proof.Machine.execCacheDisable a c s
  | .cacheEnable a c => Sys2Proof.Machine.execCacheEnable a c s
  | .disablingComplete c => Sys2Proof.Machine.execDisablingComplete c s
  | .wayLock a b mask => Sys2Proof.Machine.execWayLock a b mask s
  | .mchRetrain a m => Sys2Proof.Machine.execMchRetrain a m s
  | .mchOffline a m => Sys2Proof.Machine.execMchOffline a m s
  | .mchOfflineForce a m => Sys2Proof.Machine.execMchOfflineForce a m s
  | .mchPowerOff a m => Sys2Proof.Machine.execMchPowerOff a m s
  | .mchPowerOn a m => Sys2Proof.Machine.execMchPowerOn a m s
  | .mchOnline a m => Sys2Proof.Machine.execMchOnline a m s
  | .pathOnline a p => Sys2Proof.Machine.execPathOnline a p s
  | .pathOffline a p => Sys2Proof.Machine.execPathOffline a p s
  | .cpOffline a c => Sys2Proof.Machine.execCpOffline a c s
  | .cpOnline a c => Sys2Proof.Machine.execCpOnline a c s
  | .linkOnline a l => Sys2Proof.Machine.execLinkOnline a l s
  | .linkOffline a l => Sys2Proof.Machine.execLinkOffline a l s
  | .crusherOnline a k => Sys2Proof.Machine.execCrusherOnline a k s
  | .crusherOffline a k => Sys2Proof.Machine.execCrusherOffline a k s
  | .crusherDrained k => Sys2Proof.Machine.execCrusherDrained k s
  | .cipherOnline a x => Sys2Proof.Machine.execCipherOnline a x s
  | .cipherOffline a x => Sys2Proof.Machine.execCipherOffline a x s
  | .leaseCreate a l => Sys2Proof.Machine.execLeaseCreate a l s
  | .leaseStart a l => Sys2Proof.Machine.execLeaseStart a l s
  | .leaseQuiesce a l => Sys2Proof.Machine.execLeaseQuiesce a l s
  | .leaseResume a l => Sys2Proof.Machine.execLeaseResume a l s
  | .leaseReset a l key => Sys2Proof.Machine.execLeaseReset a l key s
  | .leaseForcedReset a l key => Sys2Proof.Machine.execLeaseForcedReset a l key s
  | .leaseRemove a l key => Sys2Proof.Machine.execLeaseRemove a l key s
  | .leaseCmdReserved a l key code => Sys2Proof.Machine.execLeaseCmdReserved a l key code s
  | .leasePendingCleared l => Sys2Proof.Machine.execLeasePendingCleared l s
  | .leaseSpawn a l v => Sys2Proof.Machine.execLeaseSpawn a l v s
  | .leaseTlbInval a l v => Sys2Proof.Machine.execLeaseTlbInval a l v s
  | .tlbInvalComplete l => Sys2Proof.Machine.execTlbInvalComplete l s
  | .chnJrnMove a v => Sys2Proof.Machine.execChnJrnMove a v s
  | .journalMoveComplete => Sys2Proof.Machine.execJournalMoveComplete s
  | .chnSumpReplace a v => Sys2Proof.Machine.execChnSumpReplace a v s
  | .pcieCfgRead a p answer => Sys2Proof.Machine.execPcieCfgRead a p answer s
  | .pcieCfgWrite a p v done => Sys2Proof.Machine.execPcieCfgWrite a p v done s
  | .tsSet a hub v => Sys2Proof.Machine.execTsSet a hub v s
  | .tsAdj a hub v => Sys2Proof.Machine.execTsAdj a hub v s
  | .errSelect a v => Sys2Proof.Machine.execErrSelect a v s
  | .bundleIssue e check fix => Sys2Proof.Machine.execBundleIssue e check fix s
  | .fetchLineArrival e => Sys2Proof.Machine.execFetchLineArrival e s
  | .translationComplete e => Sys2Proof.Machine.execTranslationComplete e s
  | .operationComplete e l u => Sys2Proof.Machine.execOperationComplete e l u s
  | .loadComplete e op => Sys2Proof.Machine.execLoadComplete e op s
  | .storeComplete e op => Sys2Proof.Machine.execStoreComplete e op s
  | .atomicComplete e op => Sys2Proof.Machine.execAtomicComplete e op s
  | .macFetchComplete e op => Sys2Proof.Machine.execMacFetchComplete e op s
  | .dstkFillComplete e l => Sys2Proof.Machine.execDstkFillComplete e l s
  | .rstkSpillComplete e l => Sys2Proof.Machine.execRstkSpillComplete e l s
  | .rstkFillComplete e l => Sys2Proof.Machine.execRstkFillComplete e l s
  | .saveComplete e l => Sys2Proof.Machine.execSaveComplete e l s
  | .cxRoutineEnd e l err => Sys2Proof.Machine.execCxRoutineEnd e l err s
  | .microTrap e l check => Sys2Proof.Machine.execMicroTrap e l check s
  | .microTimingOverrun u cycles => Sys2Proof.Machine.execMicroTimingOverrun u cycles s
  | .ringAnswer e l => Sys2Proof.Machine.execRingAnswer e l s
  | .timerExpiry e l t => Sys2Proof.Machine.execTimerExpiry e l t s
  | .waitGraceExpiry e l => Sys2Proof.Machine.execWaitGraceExpiry e l s
  | .displacement e l => Sys2Proof.Machine.execDisplacement e l s
  | .savingComplete e l => Sys2Proof.Machine.execSavingComplete e l s
  | .taskEnd e l => Sys2Proof.Machine.execTaskEnd e l s
  | .queueEntryDispatch b => Sys2Proof.Machine.execQueueEntryDispatch b s
  | .stealProbe e => Sys2Proof.Machine.execStealProbe e s
  | .stealCommit e => Sys2Proof.Machine.execStealCommit e s
  | .idleReprobe e => Sys2Proof.Machine.execIdleReprobe e s
  | .waitTableTimer b => Sys2Proof.Machine.execWaitTableTimer b s
  | .queuePlaceFreed b => Sys2Proof.Machine.execQueuePlaceFreed b s
  | .stockRefill b l => Sys2Proof.Machine.execStockRefill b l s
  | .dirtyAgeClean b n => Sys2Proof.Machine.execDirtyAgeClean b n s
  | .cacheScrub c n err => Sys2Proof.Machine.execCacheScrub c n err s
  | .rds n b lease => Sys2Proof.Machine.execRds n b lease s
  | .rdx n b lease => Sys2Proof.Machine.execRdx n b lease s
  | .upg n b lease => Sys2Proof.Machine.execUpg n b lease s
  | .mntc n src lease self incl => Sys2Proof.Machine.execMntc n src lease self incl s
  | .mnti n src lease self incl => Sys2Proof.Machine.execMnti n src lease self incl s
  | .mntci n src lease self incl => Sys2Proof.Machine.execMntci n src lease self incl s
  | .iord n src lease => Sys2Proof.Machine.execIord n src lease s
  | .iowr n src lease mask d poison => Sys2Proof.Machine.execIowr n src lease mask d poison s
  | .wbm n b d poison => Sys2Proof.Machine.execWbm n b d poison s
  | .eve n b d poison => Sys2Proof.Machine.execEve n b d poison s
  | .done n b => Sys2Proof.Machine.execDone n b s
  | .snps b n => Sys2Proof.Machine.execSnps b n s
  | .snpx b n maint incl => Sys2Proof.Machine.execSnpx b n maint incl s
  | .snpcln b n => Sys2Proof.Machine.execSnpcln b n s
  | .snpdrop b n maint incl => Sys2Proof.Machine.execSnpdrop b n maint incl s
  | .rspi n b => Sys2Proof.Machine.execRspi n b s
  | .rspk n b => Sys2Proof.Machine.execRspk n b s
  | .rspd n b d poison => Sys2Proof.Machine.execRspd n b d poison s
  | .rspc n b d poison => Sys2Proof.Machine.execRspc n b d poison s
  | .rspdo n b d poison => Sys2Proof.Machine.execRspdo n b d poison s
  | .rspcs n b d poison => Sys2Proof.Machine.execRspcs n b d poison s
  | .rspds n b d poison => Sys2Proof.Machine.execRspds n b d poison s
  | .rspde n b d poison => Sys2Proof.Machine.execRspde n b d poison s
  | .datas b n d poison => Sys2Proof.Machine.execDatas b n d poison s
  | .datae b n d poison => Sys2Proof.Machine.execDatae b n d poison s
  | .datam b n d poison => Sys2Proof.Machine.execDatam b n d poison s
  | .grantm b n => Sys2Proof.Machine.execGrantm b n s
  | .wback b n => Sys2Proof.Machine.execWback b n s
  | .wbstale b n => Sys2Proof.Machine.execWbstale b n s
  | .iodata src n d poison => Sys2Proof.Machine.execIodata src n d poison s
  | .ioack src n => Sys2Proof.Machine.execIoack src n s
  | .mntack src n => Sys2Proof.Machine.execMntack src n s
  | .mir h n d poison => Sys2Proof.Machine.execMir h n d poison s
  | .mirrel h n => Sys2Proof.Machine.execMirrel h n s
  | .mirack n => Sys2Proof.Machine.execMirack n s
  | .hrReadReturn n => Sys2Proof.Machine.execHrReadReturn n s
  | .hwWriteComplete n => Sys2Proof.Machine.execHwWriteComplete n s
  | .tenureEnd b n => Sys2Proof.Machine.execTenureEnd b n s
  | .snoopTimeout n => Sys2Proof.Machine.execSnoopTimeout n s
  | .homeLost b h => Sys2Proof.Machine.execHomeLost b h s
  | .takeoverReport h b n r => Sys2Proof.Machine.execTakeoverReport h b n r s
  | .shareOpen h => Sys2Proof.Machine.execShareOpen h s
  | .memRead m sub ecc => Sys2Proof.Machine.execMemRead m sub ecc s
  | .memWrite m sub parity => Sys2Proof.Machine.execMemWrite m sub parity s
  | .commandTimeout m => Sys2Proof.Machine.execCommandTimeout m s
  | .rebuildRequest sm bad => Sys2Proof.Machine.execRebuildRequest sm bad s
  | .seamRebuildComplete sm => Sys2Proof.Machine.execSeamRebuildComplete sm s
  | .retrainDue m temp => Sys2Proof.Machine.execRetrainDue m temp s
  | .retrainComplete m lanes => Sys2Proof.Machine.execRetrainComplete m lanes s
  | .catchUpComplete sm => Sys2Proof.Machine.execCatchUpComplete sm s
  | .refreshDue m sub => Sys2Proof.Machine.execRefreshDue m sub s
  | .selfRefreshExit m => Sys2Proof.Machine.execSelfRefreshExit m s
  | .rowIdleClose m sub bank => Sys2Proof.Machine.execRowIdleClose m sub bank s
  | .memoryScrub m n ecc => Sys2Proof.Machine.execMemoryScrub m n ecc s
  | .journalEntryWritten t => Sys2Proof.Machine.execJournalEntryWritten t s
  | .txnIssue t => Sys2Proof.Machine.execTxnIssue t s
  | .txnSent t => Sys2Proof.Machine.execTxnSent t s
  | .nvmeCompletion p t step status gen data => Sys2Proof.Machine.execNvmeCompletion p t step status gen data s
  | .issueDeadlineExpiry t => Sys2Proof.Machine.execIssueDeadlineExpiry t s
  | .partnerWaitExpiry t => Sys2Proof.Machine.execPartnerWaitExpiry t s
  | .completionWaitExpiry t => Sys2Proof.Machine.execCompletionWaitExpiry t s
  | .pathFailure p reason => Sys2Proof.Machine.execPathFailure p reason s
  | .txnCompletionRecord t => Sys2Proof.Machine.execTxnCompletionRecord t s
  | .sumpSpaceAvailable => Sys2Proof.Machine.execSumpSpaceAvailable s
  | .establishTimeout p => Sys2Proof.Machine.execEstablishTimeout p s
  | .pathDrained p => Sys2Proof.Machine.execPathDrained p s
  | .nvmeControllerReset p => Sys2Proof.Machine.execNvmeControllerReset p s
  | .nvmeReady p ident => Sys2Proof.Machine.execNvmeReady p ident s
  | .nvmeReadyTimeout p => Sys2Proof.Machine.execNvmeReadyTimeout p s
  | .cpFailure c => Sys2Proof.Machine.execCpFailure c s
  | .frameReceive l frame fcsGood => Sys2Proof.Machine.execFrameReceive l frame fcsGood s
  | .frameTransmit l => Sys2Proof.Machine.execFrameTransmit l s
  | .coalesceTimeout l q => Sys2Proof.Machine.execCoalesceTimeout l q s
  | .linkUp l => Sys2Proof.Machine.execLinkUp l s
  | .trainingAttemptTimeout l => Sys2Proof.Machine.execTrainingAttemptTimeout l s
  | .linkDown l => Sys2Proof.Machine.execLinkDown l s
  | .pauseRepeat l => Sys2Proof.Machine.execPauseRepeat l s
  | .pcieDmaRequest p rid write addr len data => Sys2Proof.Machine.execPcieDmaRequest p rid write addr len data s
  | .msixMessage p rid addr data => Sys2Proof.Machine.execMsixMessage p rid addr data s
  | .pcieLinkDown p j aer => Sys2Proof.Machine.execPcieLinkDown p j aer s
  | .capReq p datagram checksumGood => Sys2Proof.Machine.execCapReq p datagram checksumGood s
  | .capReqResend p => Sys2Proof.Machine.execCapReqResend p s
  | .capRsp p datagram checksumGood => Sys2Proof.Machine.execCapRsp p datagram checksumGood s
  | .helarAck p datagram checksumGood => Sys2Proof.Machine.execHelarAck p datagram checksumGood s
  | .helarKeepalive p datagram checksumGood => Sys2Proof.Machine.execHelarKeepalive p datagram checksumGood s
  | .helarClose p datagram checksumGood => Sys2Proof.Machine.execHelarClose p datagram checksumGood s
  | .answerSegment p datagram checksumGood => Sys2Proof.Machine.execAnswerSegment p datagram checksumGood s
  | .ackDue p => Sys2Proof.Machine.execAckDue p s
  | .retransmitTimeout p seq => Sys2Proof.Machine.execRetransmitTimeout p seq s
  | .keepaliveDue p => Sys2Proof.Machine.execKeepaliveDue p s
  | .silenceTimeout p => Sys2Proof.Machine.execSilenceTimeout p s
  | .slabBoundary k => Sys2Proof.Machine.execSlabBoundary k s
  | .crusherFailure k => Sys2Proof.Machine.execCrusherFailure k s
  | .recordBoundary u => Sys2Proof.Machine.execRecordBoundary u s
  | .cipherUnitFailure u => Sys2Proof.Machine.execCipherUnitFailure u s
  | .ctxHalfLoss h => Sys2Proof.Machine.execCtxHalfLoss h s
  | .ctxHalfCopyComplete h => Sys2Proof.Machine.execCtxHalfCopyComplete h s
  | .eventRelease => Sys2Proof.Machine.execEventRelease s
  | .evtBlockTakeover => Sys2Proof.Machine.execEvtBlockTakeover s
  | .spillRecheck l => Sys2Proof.Machine.execSpillRecheck l s
  | .ptpSync m => Sys2Proof.Machine.execPtpSync m s
  | .ptpFollowUp m => Sys2Proof.Machine.execPtpFollowUp m s
  | .ptpAnnounce m d => Sys2Proof.Machine.execPtpAnnounce m d s
  | .ptpDelayResp m => Sys2Proof.Machine.execPtpDelayResp m s
  | .ppsEdge h stamp => Sys2Proof.Machine.execPpsEdge h stamp s
  | .disciplineInputAbsent h => Sys2Proof.Machine.execDisciplineInputAbsent h s
  | .tsDistributionPulse => Sys2Proof.Machine.execTsDistributionPulse s
  | .tsMasterTakeover => Sys2Proof.Machine.execTsMasterTakeover s
  | .heartbeatLoss d => Sys2Proof.Machine.execHeartbeatLoss d s
  | .engineSparing e bad => Sys2Proof.Machine.execEngineSparing e bad s
  | .benchLoss b => Sys2Proof.Machine.execBenchLoss b s
  | .homeNodeLoss h => Sys2Proof.Machine.execHomeNodeLoss h s
  | .tileLoss t => Sys2Proof.Machine.execTileLoss t s
  | .meshTransfer link dir vc crcGood => Sys2Proof.Machine.execMeshTransfer link dir vc crcGood s
  | .serviceCoreLoss h => Sys2Proof.Machine.execServiceCoreLoss h s
  | .hubLoss h => Sys2Proof.Machine.execHubLoss h s
  | .frequencyDecision d target temp => Sys2Proof.Machine.execFrequencyDecision d target temp s
  | .thermalLimitStep d temp => Sys2Proof.Machine.execThermalLimitStep d temp s
  | .thermalTrip d temp => Sys2Proof.Machine.execThermalTrip d temp s
  | .refclkFailure h => Sys2Proof.Machine.execRefclkFailure h s
  | .refclkHoldoverExpiry => Sys2Proof.Machine.execRefclkHoldoverExpiry s
  | .pwrgdMainRise => Sys2Proof.Machine.execPwrgdMainRise s
  | .mchPrsntNChange m low => Sys2Proof.Machine.execMchPrsntNChange m low s
  | .channelTrained m r => Sys2Proof.Machine.execChannelTrained m r s
  | .refclkRecovery h => Sys2Proof.Machine.execRefclkRecovery h s
  | .ppsOutputEdge land => Sys2Proof.Machine.execPpsOutputEdge land s
  | .pcieLinkUp p j speed width => Sys2Proof.Machine.execPcieLinkUp p j speed width s
  | .modeMachineUncorrectableError => Sys2Proof.Machine.execModeMachineUncorrectableError s
  | .hubReturn h => Sys2Proof.Machine.execHubReturn h s
  | .tapInstruction code => Sys2Proof.Machine.execTapInstruction code s

end Sys2Proof.Machine
end

