-- ==== Sys2Proof/Machine/Step.lean ====
section
/-! DEFINITION. The step: the command at the front of the queue is run; on an empty queue a nanosecond passes (log entry 1). -/

namespace Sys2Proof.Machine

/-- Time passes by 1 ns: the time-stamp masters count (R756, R761), the units resets under way end (R41) and the mesh's credits come back (R20),
outside Check-stop, and a request whose execution has ended is answered (R81, R87). -/
def idleTick (s : State) : State :=
  let m := timeTick s.m
  { s with m := runningEnd (if alive m then resetsEnd (creditsBack m) else m) }

/-- One step. -/
def step (s : State) : Host.Outcome State Fault Refusal :=
  match s.pending with
  | [] => .next (idleTick s)
  | c :: rest => exec c { s with pending := rest }

/-- The state with the command that a word spells at the front of its queue; no word of the table spells one. -/
def State.withFetchWord (s : State) (nbits w : Nat) : State :=
  match decodeTableWord nbits w with
  | some c => { s with pending := c :: s.pending }
  | none => s

end Sys2Proof.Machine
end

