-- ==== Sys2Proof/WellFormed.lean ====
section
/-! DEFINITION. Well-formed commands: what the operands of a command meet when they come from a unit, a partner or the system as the spec
describes them. A command that is not well-formed cannot arise at the block's boundary; the machine itself refuses nothing on this ground. -/

namespace Sys2Proof

/-- An access of 1, 2, 4 or 8 bytes (R8, R241). -/
def sizeOk (n : Nat) : Bool := n == 1 || n == 2 || n == 4 || n == 8

/-- Ten lanes for each DIMM that a channel found (R519). -/
def trainLanesOk (r : ChanTrain) : Bool := r.lanes.length == 10 * ((if r.dimm0.isSome then 1 else 0) + (if r.dimm1.isSome then 1 else 0))

/-- A training result names each unit once. -/
def trainOk (r : TrainResult) : Bool :=
  decide ((r.chans.map (fun p => p.1)).Nodup) && decide (r.links.Nodup) && decide ((r.pcie.map (fun p => p.1)).Nodup) && r.chans.all (fun p => trainLanesOk p.2)

/-- A PCIe memory request: 1 to 4,096 bytes that do not cross a 4 KiB boundary; a write carries its bytes, a read none (PCI Express, R610). -/
def dmaOk (write : Bool) (addr len n : Nat) : Bool :=
  decide (1 ≤ len) && decide (addr % 4096 + len ≤ 4096) && n == (if write then len else 0)

/-- The message types of R71. -/
def msgTypes : List Nat :=
  [0x0001, 0x0002, 0x0003, 0x0004, 0x0005, 0x0010, 0x0011, 0x0012, 0x0020, 0x0030, 0x0031, 0x0040, 0x0041, 0x0042, 0x0050, 0x0060, 0x0070, 0x0071]

/-- A message carries its row's type, or a reserved one, which the module answers with UNKNOWN_TYPE (R71, R73). -/
def typeOk (code : Nat) (h : SvcHdr) : Bool := h.type.toNat == code || !msgTypes.contains h.type.toNat

/-- A mode command carries its row's value, or one that R79 does not list. -/
def modeOk (c : Nat) (h : SvcHdr) (p : Bytes) : Bool :=
  typeOk 0x0020 h && (match p with | [] => true | x :: _ => x.toNat == c || x.toNat == 0 || decide (6 < x.toNat))

/-- The operands of a command are in order. -/
def Instr.wf (i : Instr) : Bool :=
  match i with
  | .powerOnReset => true
  | .mrstNReset => true
  | .pwrgdAoFall => true
  | .pwrgdMainFall => true
  | .serviceDomainRelease => true
  | .bootImageRead => true
  | .hello h _ => typeOk 0x0001 h
  | .sessionOpen h _ => typeOk 0x0002 h
  | .sessionClose h _ => typeOk 0x0003 h
  | .keepalive h _ => typeOk 0x0004 h
  | .handoverPrepare h _ => typeOk 0x0005 h
  | .sessionLapse => true
  | .handoverTokenExpiry => true
  | .regRead h _ => typeOk 0x0010 h
  | .regWrite h _ => typeOk 0x0011 h
  | .tagBulk h _ => typeOk 0x0012 h
  | .start h p => modeOk 1 h p
  | .moduleReset h p => modeOk 2 h p
  | .holdEnter h p => modeOk 3 h p
  | .holdEntryComplete => true
  | .holdExit h p => modeOk 4 h p
  | .holdExitComplete => true
  | .testEnter h p => modeOk 5 h p
  | .testExit h p => modeOk 6 h p
  | .imagePut h _ => typeOk 0x0030 h
  | .imageLoad h _ => typeOk 0x0031 h
  | .flashRead h _ => typeOk 0x0040 h
  | .flashWrite h _ => typeOk 0x0041 h
  | .flashErase h _ _ => typeOk 0x0042 h
  | .dumpRead h _ => typeOk 0x0050 h
  | .notifyAnswer h _ => typeOk 0x0060 h
  | .notifyResend => true
  | .fuseArm h _ => typeOk 0x0070 h
  | .fuseConfirm h _ => typeOk 0x0071 h
  | .fuseArmExpiry => true
  | .trainingEnd r => trainOk r
  | .verifyComplete => true
  | .patchCheckComplete => true
  | .checkComplete absent => absent.all (fun r => [0x01, 0x04, 0x05, 0x0B, 0x0C, 0x0D, 0x0E, 0x12].contains r.1.val)
  | .prepareComplete => true
  | .quiesceTimeout => true
  | .sectionApplied => true
  | .reworkComplete => true
  | .registerWrite _ _ size _ => sizeOk size
  | .readAndClear _ _ size => sizeOk size
  | .unitReset _ _ _ _ => true
  | .microcodeLoad _ _ => true
  | .leaseSettAdd _ _ _ => true
  | .crangeClean _ _ => true
  | .crangeInvalidate _ _ => true
  | .crangeCleanInvalidate _ _ => true
  | .crangeZero _ _ => true
  | .setwayClean _ _ _ => true
  | .setwayInvalidate _ _ _ => true
  | .setwayCleanInvalidate _ _ _ => true
  | .maintenanceComplete _ => true
  | .cacheDisable _ _ => true
  | .cacheEnable _ _ => true
  | .disablingComplete _ => true
  | .wayLock _ _ _ => true
  | .mchRetrain _ _ => true
  | .mchOffline _ _ => true
  | .mchOfflineForce _ _ => true
  | .mchPowerOff _ _ => true
  | .mchPowerOn _ _ => true
  | .mchOnline _ _ => true
  | .pathOnline _ _ => true
  | .pathOffline _ _ => true
  | .cpOffline _ _ => true
  | .cpOnline _ _ => true
  | .linkOnline _ _ => true
  | .linkOffline _ _ => true
  | .crusherOnline _ _ => true
  | .crusherOffline _ _ => true
  | .crusherDrained _ => true
  | .cipherOnline _ _ => true
  | .cipherOffline _ _ => true
  | .leaseCreate _ _ => true
  | .leaseStart _ _ => true
  | .leaseQuiesce _ _ => true
  | .leaseResume _ _ => true
  | .leaseReset _ _ _ => true
  | .leaseForcedReset _ _ _ => true
  | .leaseRemove _ _ _ => true
  | .leaseCmdReserved _ _ _ _ => true
  | .leasePendingCleared _ => true
  | .leaseSpawn _ _ _ => true
  | .leaseTlbInval _ _ _ => true
  | .tlbInvalComplete _ => true
  | .chnJrnMove _ _ => true
  | .journalMoveComplete => true
  | .chnSumpReplace _ _ => true
  | .pcieCfgRead _ _ _ => true
  | .pcieCfgWrite _ _ _ _ => true
  | .tsSet _ _ _ => true
  | .tsAdj _ _ _ => true
  | .errSelect _ _ => true
  | .bundleIssue _ _ _ => true
  | .fetchLineArrival _ => true
  | .translationComplete _ => true
  | .operationComplete _ _ _ => true
  | .loadComplete _ _ => true
  | .storeComplete _ _ => true
  | .atomicComplete _ _ => true
  | .macFetchComplete _ _ => true
  | .dstkFillComplete _ _ => true
  | .rstkSpillComplete _ _ => true
  | .rstkFillComplete _ _ => true
  | .saveComplete _ _ => true
  | .cxRoutineEnd _ _ _ => true
  | .microTrap _ _ _ => true
  | .microTimingOverrun _ _ => true
  | .ringAnswer _ _ => true
  | .timerExpiry _ _ _ => true
  | .waitGraceExpiry _ _ => true
  | .displacement _ _ => true
  | .savingComplete _ _ => true
  | .taskEnd _ _ => true
  | .queueEntryDispatch _ => true
  | .stealProbe _ => true
  | .stealCommit _ => true
  | .idleReprobe _ => true
  | .waitTableTimer _ => true
  | .queuePlaceFreed _ => true
  | .stockRefill _ _ => true
  | .dirtyAgeClean _ _ => true
  | .cacheScrub _ _ _ => true
  | .rds _ _ _ => true
  | .rdx _ _ _ => true
  | .upg _ _ _ => true
  | .mntc _ _ _ _ _ => true
  | .mnti _ _ _ _ _ => true
  | .mntci _ _ _ _ _ => true
  | .iord _ _ _ => true
  | .iowr _ _ _ _ _ _ => true
  | .wbm _ _ _ _ => true
  | .eve _ _ _ _ => true
  | .done _ _ => true
  | .snps _ _ => true
  | .snpx _ _ _ _ => true
  | .snpcln _ _ => true
  | .snpdrop _ _ _ _ => true
  | .rspi _ _ => true
  | .rspk _ _ => true
  | .rspd _ _ _ _ => true
  | .rspc _ _ _ _ => true
  | .rspdo _ _ _ _ => true
  | .rspcs _ _ _ _ => true
  | .rspds _ _ _ _ => true
  | .rspde _ _ _ _ => true
  | .datas _ _ _ _ => true
  | .datae _ _ _ _ => true
  | .datam _ _ _ _ => true
  | .grantm _ _ => true
  | .wback _ _ => true
  | .wbstale _ _ => true
  | .iodata _ _ _ _ => true
  | .ioack _ _ => true
  | .mntack _ _ => true
  | .mir _ _ _ _ => true
  | .mirrel _ _ => true
  | .mirack _ => true
  | .hrReadReturn _ => true
  | .hwWriteComplete _ => true
  | .tenureEnd _ _ => true
  | .snoopTimeout _ => true
  | .homeLost _ _ => true
  | .takeoverReport _ _ _ _ => true
  | .shareOpen _ => true
  | .memRead _ _ _ => true
  | .memWrite _ _ _ => true
  | .commandTimeout _ => true
  | .rebuildRequest _ _ => true
  | .seamRebuildComplete _ => true
  | .retrainDue _ _ => true
  | .retrainComplete _ lanes => lanes.length == 10 || lanes.length == 20
  | .catchUpComplete _ => true
  | .refreshDue _ _ => true
  | .selfRefreshExit _ => true
  | .rowIdleClose _ _ bank => decide (bank < 512)
  | .memoryScrub _ _ _ => true
  | .journalEntryWritten _ => true
  | .txnIssue _ => true
  | .txnSent _ => true
  | .nvmeCompletion _ _ _ _ _ _ => true
  | .issueDeadlineExpiry _ => true
  | .partnerWaitExpiry _ => true
  | .completionWaitExpiry _ => true
  | .pathFailure _ _ => true
  | .txnCompletionRecord _ => true
  | .sumpSpaceAvailable => true
  | .establishTimeout _ => true
  | .pathDrained _ => true
  | .nvmeControllerReset _ => true
  | .nvmeReady _ _ => true
  | .nvmeReadyTimeout _ => true
  | .cpFailure _ => true
  | .frameReceive _ frame _ => 14 ≤ frame.length && frame.length ≤ 65535
  | .frameTransmit _ => true
  | .coalesceTimeout _ _ => true
  | .linkUp _ => true
  | .trainingAttemptTimeout _ => true
  | .linkDown _ => true
  | .pauseRepeat _ => true
  | .pcieDmaRequest _ _ write addr len data => dmaOk write addr.toNat len data.length
  | .msixMessage _ _ addr _ => addr.toNat % 4 == 0
  | .pcieLinkDown _ _ _ => true
  | .capReq _ _ _ => true
  | .capReqResend _ => true
  | .capRsp _ _ _ => true
  | .helarAck _ _ _ => true
  | .helarKeepalive _ _ _ => true
  | .helarClose _ _ _ => true
  | .answerSegment _ _ _ => true
  | .ackDue _ => true
  | .retransmitTimeout _ _ => true
  | .keepaliveDue _ => true
  | .silenceTimeout _ => true
  | .slabBoundary _ => true
  | .crusherFailure _ => true
  | .recordBoundary _ => true
  | .cipherUnitFailure _ => true
  | .ctxHalfLoss _ => true
  | .ctxHalfCopyComplete _ => true
  | .eventRelease => true
  | .evtBlockTakeover => true
  | .spillRecheck _ => true
  | .ptpSync _ => true
  | .ptpFollowUp m => !m.twoStep
  | .ptpAnnounce _ _ => true
  | .ptpDelayResp _ => true
  | .ppsEdge _ _ => true
  | .disciplineInputAbsent _ => true
  | .tsDistributionPulse => true
  | .tsMasterTakeover => true
  | .heartbeatLoss _ => true
  | .engineSparing _ _ => true
  | .benchLoss _ => true
  | .homeNodeLoss _ => true
  | .tileLoss _ => true
  | .meshTransfer _ _ _ _ => true
  | .serviceCoreLoss _ => true
  | .hubLoss _ => true
  | .frequencyDecision _ _ _ => true
  | .thermalLimitStep _ _ => true
  | .thermalTrip _ _ => true
  | .refclkFailure _ => true
  | .refclkHoldoverExpiry => true
  | .pwrgdMainRise => true
  | .mchPrsntNChange _ _ => true
  | .channelTrained _ r => trainLanesOk r
  | .refclkRecovery _ => true
  | .ppsOutputEdge _ => true
  | .pcieLinkUp _ _ _ _ => true
  | .modeMachineUncorrectableError => true
  | .hubReturn _ => true
  | .tapInstruction _ => true

end Sys2Proof
end

