-- ==== Sys2Proof/Safety.lean ====
section
/-! DEFINITION. What counts as a safe run of the block: every waiting command is well-formed, memory keeps its form, and a blown fuse stays
blown; the terms in which the statements are made. -/

namespace Sys2Proof.Machine

/-- The commands that wait are well-formed. -/
def State.queueOk (s : State) : Bool := s.pending.all Instr.wf

/-- A fuse that reads blown in one copy of `a` reads blown in the same copy of `b`. -/
def copyKept (a b : FuseCopy) : Prop :=
  (a.test = true → b.test = true) ∧ (∀ n, a.image.getD n false = true → b.image.getD n false = true) ∧
    (∀ n, a.vendor.getD n false = true → b.vendor.getD n false = true)

/-- No fuse of a state is intact again in another. -/
def fusesKept (s t : State) : Prop := copyKept s.fuse.1 t.fuse.1 ∧ copyKept s.fuse.2 t.fuse.2

/-- The two copies of the fuse block show the same fuses as blown. -/
def State.copiesAgree (s : State) : Prop :=
  s.fuse.1.test = s.fuse.2.test ∧ s.fuse.1.image = s.fuse.2.image ∧ s.fuse.1.vendor = s.fuse.2.vendor

/-- A command answers a next state: the queue and the fuse block are as they were, and the machine after it is as `P` says. -/
def Completes (i : Instr) (s : State) (P : Mach → Prop) : Prop :=
  ∃ t, exec i s = Host.Outcome.next t ∧ t.pending = s.pending ∧ t.fuse = s.fuse ∧ P t.m

/-- A write of a unit's register takes effect: outside Check-stop, of a unit with a role, by the manager or the service controller (R25,
R723, R820). -/
def Writable (m : Mach) (a : Actor) (kind index : Nat) : Prop := alive m = true ∧ unitHasRole m kind index = true ∧ privileged a = true

/-- A service message is executed: it is intact, not a repeat, in the agreed version and allowed to its sender (R62, R65 to R73). -/
def Taken (m : Mach) (t : MsgType) (h : SvcHdr) (p : Bytes) : Prop := goes (svcGate m t h p) = true

/-- The newest response that a message left is kept for its port and sequence number: its status and its payload (R67, R74). -/
def Answered (m : Mach) (h : SvcHdr) (status : Nat) (body : Bytes) : Prop :=
  ∃ k, m.svc.kept.getLast? = some k ∧ k.port = h.port ∧ k.seq = h.seq.toNat ∧ k.status = status ∧ k.body = body

/-- The home of a line serves a request for it at once: the home is in service, has a tracker free, the line is stable, no request waits for room
in the directory, and the line has an entry or its set has room for one (R448, R449, R453, R454). -/
def HomeServes (m : Mach) (n : Nat) : Prop :=
  (home m (homeOf m n)).lost = false ∧ homeLoad (home m (homeOf m n)) < 512 ∧ tfind (home m (homeOf m n)).txns n = none ∧
    (home m (homeOf m n)).waitDir = [] ∧ ((tfind (home m (homeOf m n)).dir n).isSome = true ∨ dirUsed (home m (homeOf m n)) n < 16)

/-- A channel has nothing to finish: no read waits in a subchannel and no piece of an accepted write is on its way to it (R515, R523). -/
def Quiet (m : Mach) (c : Nat) : Prop :=
  (chan m c).sub0.reads = [] ∧ (chan m c).sub1.reads = [] ∧ ∀ w ∈ m.mem.writes, ∀ e ∈ w.left, e.1 / 2 ≠ c

/-- A command's message is next in its virtual channel, where the mesh holds it (R20, R450). -/
def InTurn (m : Mach) (p : Msg → Bool) : Prop := behind m p = false

/-- The home of a line serves the request `r` in the state `st`, with the benches `wait` to answer, and no byte of memory has changed. -/
def HomeBusy (m m' : Mach) (n : Nat) (r : HReq) (st : HSt) (wait : List Nat) : Prop :=
  (∃ t, tfind (home m' (homeOf m n)).txns n = some t ∧ t.req = r ∧ t.st = st ∧ t.awaited = wait) ∧ m'.mem = m.mem ∧ m'.l2 = m.l2

/-- Nothing of a lease is at work: no bank holds its tasks, no frame queue is enabled, no job and no transaction of it stands. -/
def LeaseIdle (m : Mach) (l : Nat) : Prop :=
  leaseBanks m l = [] ∧ leaseQueues m l 0 32 = [] ∧ (openJobs m).filter (fun x => x.lease == l) = [] ∧
    m.chn.txns.filter (fun q => q.2.id.lease == l) = []

/-- Level `l` of an engine issues (R168, R319): it is the highest that runs, and no micro-routine, save, end, displacement, reset or
suspended routine keeps its bundle back, and no delivery waits for the engine. -/
def Issues (m : Mach) (e l : Nat) : Prop :=
  engActive m e = true ∧ runLevel m e = some l ∧ (∀ k, k < 4 → (bank m e k).cx = none ∧ (bank m e k).save = none) ∧
    (∀ w, w ∈ m.evt.l3Waiting → w.bench ≠ e) ∧ mustEmpty m e l = false ∧ bkEnd (bank m e l) = false ∧ (l < 3 → mustLeave m e l = false) ∧
    (bank m e l).point = none ∧ bit (cw (bank m e l) 12) 63 = false

/-- A move of a bundle between general registers, or of a literal into one. -/
def regMove (p : Move) : Bool := decide (p.dest < 0x20) && (match p.src with | .sock n => decide (n < 0x20) | .lit _ => true)

/-- The value that a register move carries, from the bank before its bundle. -/
def moveValue (b : Bank) (p : Move) : Word := match p.src with | .sock n => gw b n | .lit v => v

end Sys2Proof.Machine
end

