-- ==== Sys2Proof/Certificates/Slice0/Obligations.lean ====
section
/-! DEFINITION. The statements about the model: what a step and each command do, what they leave as it was, the invariants that every step
keeps. Each command's statement concludes that exec answers a next state. -/

open Sys2Proof Sys2Proof.Machine

/-! ## The queue, the reset, the fuses -/

/-- A step runs the command at the front of the queue on the machine with the queue's rest. -/
def Obligations.StepRunsFrontCommand : Prop :=
  ∀ (s : State) (c : Instr) (rest : List Instr), s.pending = c :: rest → step s = exec c { s with pending := rest }

/-- On an empty queue a nanosecond passes: the clock counts it, and the active time-stamp master, where it runs without a slew or a rate
correction, counts it too; a request that was still being executed and whose time is over is answered (the model's choice, log entries 1
and 108; R761). -/
def Obligations.EmptyQueueCountsANanosecond : Prop :=
  ∀ s : State, s.pending = [] →
    step s = .next (idleTick s) ∧ (idleTick s).m.now = s.m.now + 1 ∧ (idleTick s).pending = [] ∧ (idleTick s).fuse = s.fuse ∧
    (let a := master s.m s.m.evt.activeMaster
     s.m.evt.activeMaster < 2 → a.running = true → a.failed = false → a.slew = 0 → a.freq = 0 → a.freqAcc = 0 →
       timeNow (idleTick s).m = timeNow s.m + 1) ∧
    (∀ x, s.m.svc.running = [x] → x.till ≤ s.m.now + 1 → (idleTick s).m.svc.running = [] ∧
       ∃ k, (idleTick s).m.svc.kept.getLast? = some k ∧ k.port = x.port ∧ k.seq = x.seq ∧ k.status = x.status ∧ k.body = x.body)

/-- The machine before its supply has risen: Bare with cause 0x01, no image, no session, no error record, every lease Free, every unit in
reset, memory in its canonical form with nothing listed, no fuse blown and no command waiting (R28, R38; that no fuse is blown is the
model's choice, log entry 23). -/
def Obligations.ResetState : Prop :=
  State.reset.m.mode.st = .bare ∧ State.reset.m.mode.cause = 0x01 ∧ State.reset.m.mode.transit = false ∧ State.reset.m.mode.verified = false ∧
  State.reset.m.image = [] ∧ State.reset.m.svc.owner = none ∧ State.reset.m.errs.retained = [] ∧ State.reset.m.mem.cells = [] ∧
  State.reset.m.mem.wf = true ∧ (∀ l, (lease State.reset.m l).st = .free) ∧ (∀ k i, ustate State.reset.m k i = .reset) ∧
  State.reset.fuse.1.test = false ∧ State.reset.fuse.2.test = false ∧ State.reset.pending = [] ∧ State.reset.copiesAgree

/-- No command changes the queue: only the step takes a command from it (the block's frame). -/
def Obligations.ExecLeavesTheQueue : Prop :=
  ∀ (c : Instr) (s t : State), exec c s = .next t → t.pending = s.pending

/-- Every command answers a next state: none stops the block. -/
def Obligations.EveryCommandAnswers : Prop :=
  ∀ (c : Instr) (s : State), ∃ t, exec c s = .next t

/-- No command but FUSE_CONFIRM changes the fuse block (R85, R87: it alone blows fuses). -/
def Obligations.OnlyFuseConfirmChangesFuses : Prop :=
  ∀ (c : Instr) (s t : State), (∀ h p, c ≠ .fuseConfirm h p) → exec c s = .next t → t.fuse = s.fuse

/-- A blown fuse stays blown: from every state, whatever step is taken, no fuse that reads blown in a copy reads intact afterwards. -/
def Obligations.BlownFusesStayBlown : Prop :=
  ∀ (s t : State), step s = .next t → fusesKept s t

/-- From every state whose two fuse-block copies show the same fuses as blown, every step gives one of which this holds: a fuse is
blown in both copies (R87). -/
def Obligations.StepKeepsFuseCopiesAgreeing : Prop :=
  ∀ (s t : State), s.copiesAgree → step s = .next t → t.copiesAgree

/-! ## Check-stop, roles and who may write -/

/-- From every state whose memory has its canonical form (addresses strictly rising, no listed byte equal to what an unlisted one reads
as), every step gives one whose memory has it: equal memories stay equal data. -/
def Obligations.StepKeepsTheMemoryForm : Prop :=
  ∀ (s t : State), s.m.mem.wf = true → step s = .next t → t.m.mem.wf = true

/-! ## The queue, the reset, the fuses -/

/-- FUSE_CONFIRM of an armed fuse with the inverted challenge, in Bare, within 5 s, blows that fuse in both copies; the arming is over, and
the request counts as being executed until it is answered OK, within 200 ms (R81, R85, R87).

A FUSE_CONFIRM that comes after 5 s is refused with EXPIRED, one with a wrong value with REFUSED, one that is both with one of the two;
either refusal blows nothing and ends the arming (R86). -/
def Obligations.FuseConfirms : Prop :=
  (∀ (s : State) (h : SvcHdr) (p : Bytes) (c v t : Nat), Taken s.m (confirmMsg p) h p → s.m.mode.st = .bare → blowing s.m = false →
    s.m.svc.armed = some (c, v, t) → s.m.now ≤ t + 5000000000 → fld p 0 1 = c → fld p 4 4 = 0xFFFFFFFF - v →
    ∃ u, exec (.fuseConfirm h p) s = .next u ∧ u.pending = s.pending ∧ u.fuse = (blowCopy c s.fuse.1, blowCopy c s.fuse.2) ∧
      u.m.svc.armed = none ∧ (c = 0x01 → u.m.mode.testAllowed = false ∧ u.fuse.1.test = true ∧ u.fuse.2.test = true) ∧ u.m.mem = s.m.mem ∧
      u.m.load = s.m.load ∧ u.m.flash = s.m.flash ∧ (∃ x, u.m.svc.running = s.m.svc.running ++ [x] ∧ x.port = h.port ∧ x.seq = h.seq.toNat ∧
        x.status = 0 ∧ x.body = [] ∧ x.till ≤ s.m.now + 200000000)) ∧
  (∀ (s : State) (h : SvcHdr) (p : Bytes) (c v t : Nat), Taken s.m (confirmMsg p) h p → s.m.mode.st = .bare → blowing s.m = false →
    s.m.svc.armed = some (c, v, t) →
    (t + 5000000000 < s.m.now ∨ fld p 0 1 ≠ c ∨ fld p 4 4 ≠ 0xFFFFFFFF - v) →
    ∃ u, exec (.fuseConfirm h p) s = .next u ∧ u.pending = s.pending ∧ u.fuse = s.fuse ∧ u.m.svc.armed = none ∧
      (fld p 0 1 = c ∧ fld p 4 4 = 0xFFFFFFFF - v → Answered u.m h 0x000B []) ∧ (s.m.now ≤ t + 5000000000 → Answered u.m h 0x0009 []) ∧
      (Answered u.m h 0x000B [] ∨ Answered u.m h 0x0009 []) ∧ u.m.mode = s.m.mode ∧ u.m.mem = s.m.mem)

/-! ## Check-stop, roles and who may write -/

/-- The commands of units, of time and of lands that Check-stop freezes, and the register writes (R820). -/
def Obligations.CheckStopFreezesUnits : Prop :=
  ∀ (s : State) (c : Instr), alive s.m = false →
    (match c with
      | .powerOnReset | .mrstNReset | .pwrgdAoFall | .pwrgdMainFall | .pwrgdMainRise | .serviceDomainRelease | .hello _ _ | .sessionOpen _ _
      | .sessionClose _ _ | .keepalive _ _ | .handoverPrepare _ _ | .sessionLapse | .handoverTokenExpiry | .regRead _ _ | .regWrite _ _ | .tagBulk _ _
      | .start _ _ | .moduleReset _ _ | .holdEnter _ _ | .holdExit _ _ | .testEnter _ _ | .testExit _ _ | .imagePut _ _ | .imageLoad _ _ | .flashRead _ _
      | .flashWrite _ _ | .flashErase _ _ _ | .dumpRead _ _ | .notifyAnswer _ _ | .notifyResend | .fuseArm _ _ | .fuseConfirm _ _ | .fuseArmExpiry
      | .readAndClear _ _ _ | .mchPrsntNChange _ _ | .refclkFailure _ | .refclkRecovery _ | .tapInstruction _ | .serviceCoreLoss _ => True
      | _ => exec c s = .next s)

/-- A lease other than the manager writes no command register: the access is refused with reason 4, recorded, and nothing else happens
(R723, R794). Stated for the rows that are writes of a command register of a unit with a role.

A write to a unit without a role is refused with reason 5, by whomever it is made (R25, R794).

A refused access is recorded once, with the error log's next index, as CORRECTED, with the accessor's lease, the address and the reason
in its detail, and reaches the retained log, outside Test and where its unit has no such record within the last second (R790 to R794). -/
def Obligations.RefusedAccesses : Prop :=
  (∀ (s : State) (n : LeaseId), n.val ≠ 0 → alive s.m = true →
    (∀ i, exec (.crangeClean (.lease n) i) s = .next { s with m := refuseAccess s.m (.lease n) (regAddr 0 0 0x0410) 4 }) ∧
    (∀ i, exec (.crangeZero (.lease n) i) s = .next { s with m := refuseAccess s.m (.lease n) (regAddr 0 0 0x0410) 4 }) ∧
    (∀ v, exec (.chnJrnMove (.lease n) v) s = .next { s with m := refuseAccess s.m (.lease n) (regAddr 0 0 0x0608) 4 }) ∧
    (∀ v, exec (.chnSumpReplace (.lease n) v) s = .next { s with m := refuseAccess s.m (.lease n) (regAddr 0 0 0x0628) 4 }) ∧
    (∀ l, unitHasRole s.m 0x0C l.val = true → exec (.leaseCreate (.lease n) l) s = .next { s with m := refuseAccess s.m (.lease n) (regAddr 0x0C l.val 0x0100) 4 }) ∧
    (∀ l k, unitHasRole s.m 0x0C l.val = true → exec (.leaseRemove (.lease n) l k) s = .next { s with m := refuseAccess s.m (.lease n) (regAddr 0x0C l.val 0x0100) 4 }) ∧
    (∀ l v, unitHasRole s.m 0x0C l.val = true → exec (.leaseSpawn (.lease n) l v) s = .next { s with m := refuseAccess s.m (.lease n) (regAddr 0x0C l.val 0x0138) 4 }) ∧
    (∀ c, unitHasRole s.m 0x04 c.val = true → exec (.mchOffline (.lease n) c) s = .next { s with m := refuseAccess s.m (.lease n) (regAddr 0x04 c.val 0x0100) 4 }) ∧
    (∀ c, unitHasRole s.m 0x08 c.val = true → exec (.cpOffline (.lease n) c) s = .next { s with m := refuseAccess s.m (.lease n) (regAddr 0x08 c.val 0x0108) 4 }) ∧
    (∀ l, unitHasRole s.m 0x06 l.val = true → exec (.linkOnline (.lease n) l) s = .next { s with m := refuseAccess s.m (.lease n) (regAddr 0x06 l.val 0x0100) 4 }) ∧
    (∀ h v, unitHasRole s.m 0x0D h.val = true → exec (.tsSet (.lease n) h v) s = .next { s with m := refuseAccess s.m (.lease n) (regAddr 0x0D h.val 0x0108) 4 })) ∧
  (∀ (s : State) (a : Actor), alive s.m = true →
    (∀ l, unitHasRole s.m 0x0C l.val = false → exec (.leaseStart a l) s = .next { s with m := refuseAccess s.m a (regAddr 0x0C l.val 0x0100) 5 }) ∧
    (∀ c, unitHasRole s.m 0x04 c.val = false → exec (.mchOnline a c) s = .next { s with m := refuseAccess s.m a (regAddr 0x04 c.val 0x0100) 5 }) ∧
    (∀ c, unitHasRole s.m 0x08 c.val = false → exec (.cpOnline a c) s = .next { s with m := refuseAccess s.m a (regAddr 0x08 c.val 0x0108) 5 }) ∧
    (∀ l, unitHasRole s.m 0x06 l.val = false → exec (.linkOnline a l) s = .next { s with m := refuseAccess s.m a (regAddr 0x06 l.val 0x0100) 5 }) ∧
    (∀ k, unitHasRole s.m 0x09 k.val = false → exec (.crusherOffline a k) s = .next { s with m := refuseAccess s.m a (regAddr 0x09 k.val 0x0100) 5 }) ∧
    (∀ b w, unitHasRole s.m 0x01 b.val = false → exec (.wayLock a b w) s = .next { s with m := refuseAccess s.m a (regAddr 0x01 b.val 0x0300) 5 })) ∧
  (∀ (m : Mach) (n : LeaseId) (addr r : Nat), m.mode.st ≠ .test → m.errs.suppress = [] →
    ∃ x, (refuseAccess m (.lease n) addr r).errs.retained.getLast? = some x ∧ x.cause = 0x0001 ∧ x.sev = 0 ∧ x.index = m.errs.index + 1 ∧
      x.lease = some n.val ∧ x.addr = some addr ∧ x.detail = le 8 addr ++ le 2 n.val ++ le 1 r ∧
      (refuseAccess m (.lease n) addr r).errs.index = m.errs.index + 1)

/-! ## Caches (R400 to R444) -/

/-- `CRANGE_CMD` begins its operation on the lines that `CRANGE_BASE` and `CRANGE_LEN` name, with BUSY set and the counts cleared; while BUSY
it changes nothing but OVERRUN, which it sets (R416, R419, R438, R439). Nothing else changes. -/
def Obligations.CrangeCommands : Prop :=
  ∀ (s : State) (a : Actor) (i : Bool), Writable s.m a 0 0 →
    let begins (op : Nat) : MaintSt := if s.m.crange.busy then { s.m.crange with overrun := true } else
      { busy := true, overrun := s.m.crange.overrun, bad := s.m.crange.bad, written := 0, skipped := 0, op := op, incl := i,
        first := s.m.crangeBase, count := s.m.crangeLen }
    exec (.crangeClean a i) s = .next { s with m := { s.m with crange := begins 0 } } ∧
    exec (.crangeInvalidate a i) s = .next { s with m := { s.m with crange := begins 1 } } ∧
    exec (.crangeCleanInvalidate a i) s = .next { s with m := { s.m with crange := begins 2 } } ∧
    exec (.crangeZero a i) s = .next { s with m := { s.m with crange := begins 3 } }

/-- A set-and-way operation of a bench's L2 begins: BUSY is set with its OP, and OVERRUN and BAD stay; a set-and-way invalidation of an
engine's L1D or L1I takes exactly the lines that it names; a clean does nothing in an L1, and neither in an L2 without lines (R418, R419,
R440).

A set-and-way write with a reserved encoding sets BAD and begins nothing; one while BUSY sets OVERRUN (R439, R440).

MAINTENANCE_COMPLETE acts on the lines of the module's range operation in order and clears BUSY once every line is done; where a line cannot be
done now, as in a takeover of its home, the operation keeps BUSY and goes on from that line later. It clears BUSY of an L3 slice's operation, and of a
bench L2's once the home has answered each of its requests (R416, R417, R419, R439). -/
def Obligations.SetwayAndMaintenance : Prop :=
  (∀ (s : State) (a : Actor) (b : BenchId) (v : SetWay), Writable s.m a 0x01 b.val → (l2 s.m b.val).op.busy = false → l2SetwayBad v = false →
    let e := engineOf b.val v.slot.toNat
    let begun (op : Nat) (m : Mach) : Prop := 
      (l2 m b.val).op = { (l2 s.m b.val).op with busy := true, written := 0, skipped := 0, op := op, incl := v.inclLocked, first := 0, count := 0 } ∧
      m.mem = s.m.mem ∧ m.homes = s.m.homes ∧ m.mesh = s.m.mesh
    (v.cache = 1 →
      let left := (tget s.m.l1d e []).filter (fun x => !l1Target 16 v x)
      Completes (.setwayInvalidate a (.l2 b) v) s (fun m => begun 1 m ∧ tget m.l1d e [] = left ∧ m.l1i = s.m.l1i) ∧
      Completes (.setwayCleanInvalidate a (.l2 b) v) s (fun m => begun 2 m ∧ tget m.l1d e [] = left ∧ m.l1i = s.m.l1i) ∧
      Completes (.setwayClean a (.l2 b) v) s (fun m => begun 0 m ∧ m.l1d = s.m.l1d ∧ m.l1i = s.m.l1i)) ∧
    (v.cache = 2 →
      let left := (tget s.m.l1i e []).filter (fun x => !l1Target 32 v x.1)
      Completes (.setwayInvalidate a (.l2 b) v) s (fun m => begun 1 m ∧ tget m.l1i e [] = left ∧ m.l1d = s.m.l1d) ∧
      Completes (.setwayCleanInvalidate a (.l2 b) v) s (fun m => begun 2 m ∧ tget m.l1i e [] = left ∧ m.l1d = s.m.l1d) ∧
      Completes (.setwayClean a (.l2 b) v) s (fun m => begun 0 m ∧ m.l1d = s.m.l1d ∧ m.l1i = s.m.l1i)) ∧
    (v.cache = 0 → (l2 s.m b.val).lines = [] →
      Completes (.setwayClean a (.l2 b) v) s (fun m => begun 0 m ∧ m.l1d = s.m.l1d ∧ m.l1i = s.m.l1i) ∧
      Completes (.setwayInvalidate a (.l2 b) v) s (fun m => begun 1 m ∧ m.l1d = s.m.l1d ∧ m.l1i = s.m.l1i) ∧
      Completes (.setwayCleanInvalidate a (.l2 b) v) s (fun m => begun 2 m ∧ m.l1d = s.m.l1d ∧ m.l1i = s.m.l1i))) ∧
  (∀ (s : State) (a : Actor) (b : BenchId) (v : SetWay), Writable s.m a 0x01 b.val →
    ((l2 s.m b.val).op.busy = true →
      exec (.setwayInvalidate a (.l2 b) v) s = .next { s with m := modL2 s.m b.val (fun x => { x with op := { x.op with overrun := true } }) }) ∧
    ((l2 s.m b.val).op.busy = false → l2SetwayBad v = true →
      exec (.setwayInvalidate a (.l2 b) v) s = .next { s with m := modL2 s.m b.val (fun x => { x with op := { x.op with bad := true } }) })) ∧
  (∀ s : State, meshRuns s.m = true →
    (∀ m1 k left, s.m.crange.busy = true → crangeLines s.m.crange.count s.m s.m.crange.first s.m.crange.op s.m.crange.incl 0 = (m1, k, left) →
      Completes (.maintenanceComplete .crange) s (fun m => (m.crange.busy = true ↔ left ≠ 0) ∧ m.crange.count = left ∧ m.crange.op = s.m.crange.op ∧
        m.crange.skipped = sat 0xFFFFFFFF (s.m.crange.skipped + k) ∧ m.mem = m1.mem ∧ m.l2 = m1.l2 ∧ m.homes = m1.homes)) ∧
    (s.m.crange.busy = true → s.m.crange.count = 0 →
      Completes (.maintenanceComplete .crange) s (fun m => m.crange.busy = false ∧ m.mem = s.m.mem ∧ m.l2 = s.m.l2 ∧ m.homes = s.m.homes)) ∧
    (∀ h, Completes (.maintenanceComplete (.l3 h)) s (fun m => (home m h.val).op.busy = false ∧ (home m h.val).l3 = (home s.m h.val).l3 ∧ m.mem = s.m.mem)) ∧
    (∀ b, (l2 s.m b.val).op.busy = true → selfWaits s.m b.val none = false →
      Completes (.maintenanceComplete (.l2 b)) s (fun m => (l2 m b.val).op.busy = false ∧ (l2 m b.val).lines = (l2 s.m b.val).lines ∧ m.mem = s.m.mem)))

/-- A cache is disabled and enabled (R421 to R423): an L1 is empty and disabled at once; an L2 or L3 slice without a dirty line is Disabled;
one with a dirty line is Disabling; enabling clears DISABLE and makes it Enabled. WAY_LOCK leaves a way that no lease is assigned to
unlocked (R408, R411). -/
def Obligations.CacheControl : Prop :=
  ∀ (s : State) (a : Actor),
    (∀ e : EngineId, Writable s.m a 0x02 e.val →
      Completes (.cacheDisable a (.l1d e)) s (fun m => (eng m e.val).l1dOff = true ∧ tget m.l1d e.val [] = [] ∧ m.mem = s.m.mem) ∧
      Completes (.cacheDisable a (.l1i e)) s (fun m => (eng m e.val).l1iOff = true ∧ tget m.l1i e.val [] = [] ∧ m.mem = s.m.mem) ∧
      Completes (.cacheEnable a (.l1d e)) s (fun m => (eng m e.val).l1dOff = false ∧ m.mem = s.m.mem) ∧
      Completes (.cacheEnable a (.l1i e)) s (fun m => (eng m e.val).l1iOff = false ∧ m.mem = s.m.mem)) ∧
    (∀ b : BenchId, Writable s.m a 0x01 b.val →
      ((l2 s.m b.val).lines = [] → (l2 s.m b.val).ctl = .enabled →
        Completes (.cacheDisable a (.l2 b)) s (fun m => (l2 m b.val).ctl = .disabled ∧ (l2 m b.val).disableReq = true ∧ (l2 m b.val).lines = [] ∧
          m.mem = s.m.mem)) ∧
      (l2HasDirty (l2 s.m b.val) = true → (l2 s.m b.val).ctl = .enabled → (l2 s.m b.val).lines.all (fun p => selfWaits s.m b.val (some p.1)) = true →
        Completes (.cacheDisable a (.l2 b)) s (fun m => (l2 m b.val).ctl = .disabling ∧ (l2 m b.val).disableReq = true ∧ m.mem = s.m.mem)) ∧
      Completes (.cacheEnable a (.l2 b)) s (fun m => (l2 m b.val).ctl = .enabled ∧ (l2 m b.val).disableReq = false ∧ m.mem = s.m.mem) ∧
      (∀ w : Byte, exec (.wayLock a b w) s = .next { s with m := modL2 s.m b.val (fun x => { x with lock := w &&& x.lockable }) })) ∧
    (∀ h : HomeId, Writable s.m a 0x03 h.val →
      ((home s.m h.val).l3 = [] → (home s.m h.val).ctl = .enabled →
        Completes (.cacheDisable a (.l3 h)) s (fun m => (home m h.val).ctl = .disabled ∧ (home m h.val).disableReq = true ∧ m.mem = s.m.mem)) ∧
      Completes (.cacheEnable a (.l3 h)) s (fun m => (home m h.val).ctl = .enabled ∧ (home m h.val).disableReq = false ∧ m.mem = s.m.mem))

/-- Events of the caches: a Disabling cache that holds no dirty line becomes Disabled (R422); a line dirty for three quarters of the limit is
cleaned by a request MntC to its home (R428); a scrub that finds a multi-bit error in an L1D drops the line and counts it (R425), and a
single-bit error in an L2 line is corrected, counted and leaves the line (R424). -/
def Obligations.CacheEvents : Prop :=
  ∀ s : State, unitsRun s.m = true →
    (∀ b : BenchId, (l2 s.m b.val).ctl = .disabling → (l2 s.m b.val).lines = [] →
      Completes (.disablingComplete (.l2 b)) s (fun m => (l2 m b.val).ctl = .disabled ∧ (l2 m b.val).side = [] ∧ m.mem = s.m.mem)) ∧
    (∀ h : HomeId, (home s.m h.val).ctl = .disabling → (home s.m h.val).l3 = [] →
      Completes (.disablingComplete (.l3 h)) s (fun m => (home m h.val).ctl = .disabled ∧ m.mem = s.m.mem)) ∧
    (∀ (b : BenchId) (n : LineNo) (x : L2Line) (t : Nat), lineAt s.m b.val n.toNat = some x → x.dirtyAt = some t → x.st = .m →
      t + 750 * (l2 s.m b.val).age ≤ s.m.now → selfWaits s.m b.val (some n.toNat) = false →
      exec (.dirtyAgeClean b n) s = .next { s with m := (send s.m (.req (homeOf s.m n.toNat)
        { op := .mntC, n := n.toNat, src := 0x0500 + b.val, lease := x.lease, self := true, incl := true, mask := 0, data := 0, poison := false })) }) ∧
    (∀ (e : EngineId) (n : LineNo), (tget s.m.l1d e.val []).any (fun x => x.line == n.toNat) = true →
      Completes (.cacheScrub (.l1d e) n .multi) s (fun m => (tget m.l1d e.val []).any (fun x => x.line == n.toNat) = false ∧
        (eng m e.val).l1Errs = lset (eng s.m e.val).l1Errs 0 (sat 0xFFFF ((eng s.m e.val).l1Errs.getD 0 0 + 1)) ∧ m.mem = s.m.mem)) ∧
    (∀ (b : BenchId) (n : LineNo) (x : L2Line), lineAt s.m b.val n.toNat = some x →
      Completes (.cacheScrub (.l2 b) n .single) s (fun m => lineAt m b.val n.toNat = some x ∧
        (l2 m b.val).errData = sat 0xFFFF ((l2 s.m b.val).errData + 1) ∧ m.mem = s.m.mem))

/-! ## Memory channels and seams (R490 to R539) -/

/-- What an accepted command of `MCH_CMD` does, with CMD_RESULT 0, and its conditions (R510, R511, R536): a healthy spare goes Offline; an
Offline channel is powered off with its MCH_PWREN low; one whose slots have been filled for 100 ms is powered and trains; a trained Offline
channel becomes Spare where no seam waits for one.

MCH_OFFLINE_FORCE takes a member channel out although no spare is ready: the channel is Offline and every seam it served is Degraded
with its position missing (R510). -/
def Obligations.ChannelCommandsAccepted : Prop :=
  (∀ (s : State) (a : Actor) (c : ChanId), Writable s.m a 0x04 c.val →
    let x := chan s.m c.val
    (retrainOk s.m c.val = true → retrainSeamsOk s.m c.val = true → noneRetrains s.m c.val = true → Quiet s.m c.val →
      Completes (.mchRetrain a c) s (fun m => (chan m c.val).phase = .retraining ∧ (chan m c.val).lastCmd = 1 ∧ (chan m c.val).cmdResult = 0 ∧
        (chan m c.val).oldLanes = x.lanes ∧ m.mem.cells = s.m.mem.cells)) ∧
    (x.role = 2 → x.offline = false → (x.phase = .running ∨ x.phase = .selfRefresh) →
      Completes (.mchOffline a c) s (fun m => (chan m c.val).offline = true ∧ (chan m c.val).cmdResult = 0 ∧ (chan m c.val).lastCmd = 2 ∧
        ustate m 0x04 c.val = .offline ∧ m.seams = s.m.seams ∧ m.mem = s.m.mem)) ∧
    (x.powered = true → (x.offline = true ∨ x.phase = .failed) →
      Completes (.mchPowerOff a c) s (fun m => (chan m c.val).phase = .poweredOff ∧ (chan m c.val).powered = false ∧ (chan m c.val).offline = true ∧
        (chan m c.val).cmdResult = 0 ∧ m.out = s.m.out ++ [.land (6800 + 2 * c.val) false] ∧ m.mem = s.m.mem)) ∧
    (x.powered = false → x.phase = .poweredOff → x.present = true → x.presentSince + 100000000 ≤ s.m.now →
      Completes (.mchPowerOn a c) s (fun m => (chan m c.val).phase = .training ∧ (chan m c.val).powered = true ∧ (chan m c.val).cmdResult = 0 ∧
        m.out = s.m.out ++ [.land (6800 + 2 * c.val) true] ∧ m.mem = s.m.mem)) ∧
    (x.offline = true → x.powered = true → x.trained = true → x.phase = .selfRefresh → (∀ q, q < 4 → (seam s.m q).st ≠ .degraded) →
      Completes (.mchOnline a c) s (fun m => (chan m c.val).role = 2 ∧ (chan m c.val).offline = false ∧ (chan m c.val).cmdResult = 0 ∧
        ustate m 0x04 c.val = .spare ∧ m.seams = s.m.seams ∧ m.mem = s.m.mem))) ∧
  (∀ (s : State) (a : Actor) (c : ChanId) (q : SeamId), Writable s.m a 0x04 c.val → (chan s.m c.val).role = 1 → (chan s.m c.val).offline = false →
    (chan s.m c.val).draining = false → (chan s.m c.val).phase = .running → Quiet s.m c.val →
    seamServed s.m c.val 0 = q.val → seamServed s.m c.val 1 = 0xF → (seam s.m q.val).st = .complete → (∀ k, k < 4 → (seam s.m k).target ≠ some c.val) →
    Completes (.mchOfflineForce a c) s (fun m => (chan m c.val).offline = true ∧ (chan m c.val).cmdResult = 0 ∧ (chan m c.val).lastCmd = 3 ∧
      ustate m 0x04 c.val = .offline ∧ (seam m q.val).st = .degraded ∧ (seam m q.val).missing = some (memberPos s.m q.val (2 * c.val)) ∧
      m.mem.cells = s.m.mem.cells))

/-- A command of `MCH_CMD` whose condition fails changes nothing but LAST_CMD and CMD_RESULT, which says why (R536). -/
def Obligations.ChannelCommandsRefused : Prop :=
  ∀ (s : State) (a : Actor) (c : ChanId), Writable s.m a 0x04 c.val →
    let x := chan s.m c.val
    let refused (code r : Nat) : Host.Outcome State Fault Refusal :=
      .next { s with m := modChan s.m c.val (fun x => { x with lastCmd := code, cmdResult := r }) }
    (retrainOk s.m c.val = false → exec (.mchRetrain a c) s = refused 1 1) ∧
    (retrainOk s.m c.val = true → retrainSeamsOk s.m c.val = false → exec (.mchRetrain a c) s = refused 1 2) ∧
    (retrainSeamsOk s.m c.val = true → noneRetrains s.m c.val = false → exec (.mchRetrain a c) s = refused 1 1) ∧
    (x.powered = false → exec (.mchPowerOff a c) s = refused 4 1) ∧
    (x.powered = false → x.phase = .poweredOff → x.present = false → exec (.mchPowerOn a c) s = refused 5 4) ∧
    (x.powered = true → exec (.mchPowerOn a c) s = refused 5 1) ∧
    (x.trained = false → exec (.mchOnline a c) s = refused 6 1)

/-- A subchannel serves the write that it chooses, of those that no older request of the same line precedes: the piece leaves the queue. With
the last piece of a line the line stands in memory whole, with its poison mark, and the write is done; every byte outside the line reads as
before. Until then no byte changes. A command with a parity error is counted, and the piece stays (R498, R502, R523, R525). -/
def Obligations.MemWriteStoresItsLine : Prop :=
  ∀ (s : State) (c : ChanId) (i : Fin 2) (r : PReq) (w : WReq), meshRuns s.m = true → s.m.mem.wf = true → chanServes s.m c.val = true →
    servesWrites s.m c.val i.val = true → chooseWrite s.m c.val i.val = some r →
    s.m.mem.writes.find? (fun q => q.left.any (fun e => e.1 == 2 * c.val + i.val && e.2 == r)) = some w →
    let rest := w.left.filter (fun e => e.1 != 2 * c.val + i.val || e.2 != r)
    (rest = [] → Completes (.memWrite c i false) s (fun m =>
      (∀ j, j < 256 → cellGet m.mem.cells (256 * w.n + j) = (lineBytes w.data).getD j 0) ∧
      (∀ k, k / 256 ≠ w.n → cellGet m.mem.cells k = cellGet s.m.mem.cells k) ∧
      m.mem.poisoned.contains w.n = w.poison ∧ m.mem.writes = s.m.mem.writes.erase w ∧ m.mem.wf = true ∧ m.l2 = s.m.l2 ∧ m.homes = s.m.homes)) ∧
    (rest ≠ [] → Completes (.memWrite c i false) s (fun m =>
      m.mem = { s.m.mem with writes := s.m.mem.writes.map (fun q => if q = w then { w with left := rest } else q) } ∧ m.l2 = s.m.l2 ∧
      m.homes = s.m.homes)) ∧
    ((chan s.m c.val).caParity < 15 → Completes (.memWrite c i true) s (fun m => (chan m c.val).caParity = (chan s.m c.val).caParity + 1 ∧
      m.mem = s.m.mem))

/-- Events of channels and seams complete (R502, R504, R507, R511, R513, R519, R521, R526 to R529): the rebuild's watermark and the catch-up
map move, a rebuilt seam is Complete with the spare in the position, a retraining begins and ends, refreshes are postponed at most four
times, rows close, self-refresh ends.

The memory commands that write no line leave every byte as it was. -/
def Obligations.SeamAndChannelEvents : Prop :=
  (∀ (s : State), unitsRun s.m = true →
    (∀ k : SeamId, (seam s.m k.val).st = .rebuilding → (seam s.m k.val).target = none → (seam s.m k.val).w < s.m.mem.lines →
      (tfind (home s.m (homeOf s.m (lineOfSeam k.val (seam s.m k.val).w))).txns (lineOfSeam k.val (seam s.m k.val).w)) = none →
      exec (.rebuildRequest k none) s = .next { s with m := modSeam s.m k.val (fun y => { y with w := (seam s.m k.val).w + 1 }) }) ∧
    (∀ (k : SeamId) (p t : Nat), (seam s.m k.val).st = .rebuilding → s.m.mem.lines ≤ (seam s.m k.val).w → (seam s.m k.val).missing = some p →
      (seam s.m k.val).target = some t → p < (seam s.m k.val).members.length →
      Completes (.seamRebuildComplete k) s (fun m => (seam m k.val).st = .complete ∧ (seam m k.val).missing = none ∧ (seam m k.val).target = none ∧
        (seam m k.val).members.getD p 0 = 2 * t + (seam s.m k.val).members.getD p 0 % 2 ∧ m.mem = s.m.mem)) ∧
    (∀ (k : SeamId), (seam s.m k.val).st = .catchUp → (seam s.m k.val).sweep.isSome = true → (seam s.m k.val).map = [] →
      Completes (.catchUpComplete k) s (fun m => (seam m k.val).st = .complete ∧ (seam m k.val).missing = none ∧ m.mem = s.m.mem)) ∧
    (∀ (c : ChanId) (temp : Byte), chanFlag s.m c.val 1 = false → temp.toNat ≤ (chan s.m c.val).tempAtTrain + retrainDrift s.m c.val →
      (chan s.m c.val).tempAtTrain ≤ temp.toNat + retrainDrift s.m c.val →
      exec (.retrainDue c temp) s = .next { s with m := modChan s.m c.val (fun x => { x with temp := temp.toNat, dueSince := none }) }) ∧
    (∀ (c : ChanId) (temp : Byte),
      mayRetrain s.m c.val = true → retrainDrift s.m c.val + (chan s.m c.val).tempAtTrain < temp.toNat → Quiet s.m c.val →
      (∀ d, d < 12 → d ≠ c.val → dueFrom s.m d = none) →
      Completes (.retrainDue c temp) s (fun m => (chan m c.val).phase = .retraining ∧ (chan m c.val).temp = temp.toNat ∧
        (chan m c.val).oldLanes = (chan s.m c.val).lanes ∧ m.mem = s.m.mem ∧ m.l2 = s.m.l2 ∧ m.homes = s.m.homes)) ∧
    (∀ (c : ChanId) (ln : List Lane), (chan s.m c.val).phase = .retraining → lanesOk ln = true → chanSeams s.m c.val = [] → (chan s.m c.val).role = 1 →
      Completes (.retrainComplete c ln) s (fun m => (chan m c.val).lanes = ln ∧ (chan m c.val).oldLanes = [] ∧ (chan m c.val).lastTrain = s.m.now ∧
        (chan m c.val).retrainings = sat 0xFFFF ((chan s.m c.val).retrainings + 1) ∧ m.mem = s.m.mem)) ∧
    (∀ (c : ChanId) (i : Fin 2), chanServes s.m c.val = true →
      exec (.refreshDue c i) s = .next { s with m := (modSub s.m (2 * c.val + i.val) (fun x =>
        if x.reads ≠ [] ∧ x.postponed < 4 then { x with postponed := x.postponed + 1 }
        else if chanFlag s.m c.val 0 then
          { x with postponed := 0, refBank := (x.refBank + x.postponed + 1) % 4,
                   openRows := x.openRows.filter (fun e => decide (x.postponed + 1 ≤ (e.1 / 8 + 4 - x.refBank) % 4)) }
        else { x with postponed := 0, openRows := [] })) }) ∧
    (∀ c : ChanId, (chan s.m c.val).phase = .selfRefresh → (chan s.m c.val).role = 1 →
      exec (.selfRefreshExit c) s = .next { s with m := modChan s.m c.val (fun y => { y with phase := .running, srStep := 0 }) }) ∧
    (∀ (c : ChanId) (i : Fin 2) (bank : Nat) (e : Nat × Nat), tfind (subOf (chan s.m c.val) i.val).openRows bank = some e →
      e.2 + rowIdleNs s.m c.val ≤ s.m.now →
      Completes (.rowIdleClose c i bank) s (fun m => tfind (subOf (chan m c.val) i.val).openRows bank = none)) ∧
    (∀ (c : ChanId) (n : LineNo) (cs : Nat × Nat), chanServes s.m c.val = true → n.toNat < memLines s.m → lineGone s.m n.toNat = false →
      (lineSubs s.m n.toNat).find? (fun q => q.2 / 2 == c.val) = some cs →
      Completes (.memoryScrub c n .corrected) s (fun m => (chan m c.val).corrected = sat 0xFFFF ((chan s.m c.val).corrected + 1) ∧ m.mem = s.m.mem)) ∧
    (∀ (c : ChanId) (low : Bool), (chan s.m c.val).present ≠ low →
      exec (.mchPrsntNChange c low) s = .next { s with m := modChan s.m c.val (fun x => { x with present := low, presentSince := s.m.now }) }) ∧
    (∀ (c : ChanId) (r : ChanTrain), (chan s.m c.val).phase = .training → (chan s.m c.val).pwrOnAt + 50000000 ≤ s.m.now →
      Completes (.channelTrained c r) s (fun m => (chan m c.val).offline = true ∧ (chan m c.val).lanes = r.lanes ∧ (chan m c.val).dimm0 = r.dimm0 ∧
        (chan m c.val).phase = (if (chan m c.val).trained then .running else .failed)))) ∧
  (∀ (s t : State) (c : ChanId) (k : SeamId) (i : Fin 2) (bank : Nat) (low : Bool) (r : ChanTrain),
    (exec (.rebuildRequest k none) s = .next t ∨ exec (.catchUpComplete k) s = .next t ∨ exec (.refreshDue c i) s = .next t ∨
      exec (.selfRefreshExit c) s = .next t ∨ exec (.rowIdleClose c i bank) s = .next t ∨ exec (.mchPrsntNChange c low) s = .next t ∨
      exec (.channelTrained c r) s = .next t) →
    t.m.mem = s.m.mem ∧ t.m.l2 = s.m.l2 ∧ t.m.homes = s.m.homes ∧ t.m.leases = s.m.leases ∧ t.m.engs = s.m.engs ∧ t.m.mode = s.m.mode)

/-- What a channel's commands count: a command that goes unanswered, a piece read with a command/address parity error (R502), and a
served piece leaves the read's need and the subchannel's queue (R499, R523). -/
def Obligations.ChannelReads : Prop :=
  ∀ (s : State) (c : ChanId), meshRuns s.m = true → chanServes s.m c.val = true →
    ((chan s.m c.val).timeouts < 3 →
      Completes (.commandTimeout c) s (fun m => (chan m c.val).timeouts = (chan s.m c.val).timeouts + 1 ∧ m.mem = s.m.mem)) ∧
    (∀ (i : Fin 2) (r : PReq), servesWrites s.m c.val i.val = false → chooseRead s.m c.val i.val = some r →
      (∀ q, tfind s.m.mem.reads r.n = some q → q.unc = none →
        Completes (.memRead c i .good) s (fun m => tfind m.mem.reads r.n = some { q with need := q.need.filter (fun e => e.2 != r.pos) } ∧
          m.mem.cells = s.m.mem.cells)) ∧
      ((chan s.m c.val).caParity < 15 → (writesOn s.m (2 * c.val + i.val)).any (fun w => w.n == r.n) = false →
        Completes (.memRead c i .caParity) s (fun m => (chan m c.val).caParity = (chan s.m c.val).caParity + 1 ∧ m.mem = s.m.mem)))

/-! ## Coherence (R445 to R489) -/

/-- A request for a line that no bench holds and whose copy the home's L3 has (state U): RDS, RDX, UPG, IORD and a partial IOWR begin a read
of the home's own side (HR); a clean line needs no writing, so that MNTC, MNTI and MNTCI are acknowledged, the last two without the L3 copy;
a whole IOWR is written to memory where the home keeps no dirty lines (R464, R465, R473). Memory holds what it held. -/
def Obligations.RequestsOfUnheldLines : Prop :=
  ∀ (s : State) (n : LineNo) (b : BenchId) (l : LeaseId) (src : Source) (x : L3Line), meshRuns s.m = true → HomeServes s.m n.toNat →
    let h := homeOf s.m n.toNat
    tfind (home s.m h).l3 n.toNat = some x → tfind (home s.m h).dir n.toNat = none →
    let serves (c : Instr) (r : HReq) (P : Mach → Prop) : Prop := InTurn s.m (isReq r) → Completes c s P
    let reads (c : Instr) (r : HReq) : Prop := serves c r (fun m => HomeBusy s.m m n.toNat r .hr [])
    reads (.rds n b l) (benchReqOf .rdS n.toNat b.val l.val) ∧
    reads (.rdx n b l) (benchReqOf .rdX n.toNat b.val l.val) ∧
    reads (.upg n b l) (benchReqOf .upg n.toNat b.val l.val) ∧
    reads (.iord n src l) (mntReq .ioRd n src l false false) ∧
    (∀ mask d p, mask ≠ BitVec.allOnes 256 →
      reads (.iowr n src l mask d p) { mntReq .ioWr n src l false false with mask := mask, data := d, poison := p }) ∧
    (∀ d p, writesToMem s.m h n.toNat = true →
      let r : HReq := { mntReq .ioWr n src l false false with mask := BitVec.allOnes 256, data := d, poison := p }
      serves (.iowr n src l (BitVec.allOnes 256) d p) r (fun m => HomeBusy s.m m n.toNat r .hw [] ∧
        ∃ t, tfind (home m h).txns n.toNat = some t ∧ t.newest = some (d, p) ∧ t.toMem = true)) ∧
    (∀ self incl, x.dirty = false →
      let acked (m : Mach) : Prop := .ack src.toNat 3 n.toNat ∈ m.mesh ∧ tfind (home m h).txns n.toNat = none ∧ m.mem.cells = s.m.mem.cells ∧
        m.l2 = s.m.l2
      serves (.mntc n src l self incl) (mntReq .mntC n src l self incl) (fun m => acked m ∧ m.homes = s.m.homes) ∧
      serves (.mnti n src l self incl) (mntReq .mntI n src l self incl) (fun m => acked m ∧ tfind (home m h).l3 n.toNat = none) ∧
      serves (.mntci n src l self incl) (mntReq .mntCI n src l self incl) (fun m => acked m ∧ tfind (home m h).l3 n.toNat = none))

/-- A request for a line that another bench `o` owns in X: the home snoops the owner with the snoop that the request's column names, and
waits for its answer (HS); no byte of memory and no bench's line has changed yet (R464, R465). -/
def Obligations.RequestsOfOwnedLines : Prop :=
  ∀ (s : State) (n : LineNo) (b : BenchId) (l : LeaseId) (src : Source) (e : DirEnt) (o : Nat), meshRuns s.m = true → HomeServes s.m n.toNat →
    tfind (home s.m (homeOf s.m n.toNat)).dir n.toNat = some e → e.owner = some o → e.ownerO = false → e.sharers = [] → b.val ≠ o →
    src.toNat ≠ 0x0500 + o →
    let snoops (c : Instr) (r : HReq) (op : SnpOp) (maint incl : Bool) : Prop :=
      InTurn s.m (isReq r) → Completes c s (fun m => HomeBusy s.m m n.toNat r .hs [o] ∧ .snp o op n.toNat maint incl ∈ m.mesh)
    snoops (.rds n b l) (benchReqOf .rdS n.toNat b.val l.val) .snpS false false ∧
    snoops (.rdx n b l) (benchReqOf .rdX n.toNat b.val l.val) .snpX false false ∧
    snoops (.upg n b l) (benchReqOf .upg n.toNat b.val l.val) .snpX false false ∧
    snoops (.iord n src l) (mntReq .ioRd n src l false false) .snpS false false ∧
    (∀ mask d p, snoops (.iowr n src l mask d p) { mntReq .ioWr n src l false false with mask := mask, data := d, poison := p }
      (if mask = BitVec.allOnes 256 then .snpDrop else .snpX) false false) ∧
    (∀ incl, snoops (.mntc n src l false incl) (mntReq .mntC n src l false incl) .snpCln true incl ∧
      snoops (.mnti n src l false incl) (mntReq .mntI n src l false incl) .snpDrop true incl ∧
      snoops (.mntci n src l false incl) (mntReq .mntCI n src l false incl) .snpX true incl)

/-- A sharer that alone holds a line is granted its upgrade at once and recorded as the owner; an owner's write-back begins a write of its
data (HW), and its eviction of a clean line is acknowledged, and taken into the L3 where that is enabled; an eviction by a bench that owns
nothing is stale and counted (R465, R467, R469, R489). -/
def Obligations.UpgradesAndEvictions : Prop :=
  ∀ (s : State) (n : LineNo) (b : BenchId) (l : LeaseId), meshRuns s.m = true → HomeServes s.m n.toNat →
    let h := homeOf s.m n.toNat
    let ack (k : Nat) (m : Mach) : Prop := .ack (0x0500 + b.val) k n.toNat ∈ m.mesh
    (∀ e, tfind (home s.m h).dir n.toNat = some e → e.owner = none → e.sharers = [b.val] → InTurn s.m (isReq (benchReqOf .upg n.toNat b.val l.val)) →
      Completes (.upg n b l) s (fun m => HomeBusy s.m m n.toNat (benchReqOf .upg n.toNat b.val l.val) .hd [] ∧
        ack 4 m ∧ (dirOf m h n.toNat).owner = some b.val ∧ (dirOf m h n.toNat).sharers = [])) ∧
    (∀ d p, InTurn s.m (isEvict .wbM n.toNat b.val d p) →
      (∀ e, tfind (home s.m h).dir n.toNat = some e → e.owner = some b.val → writesToMem s.m h n.toNat = true →
        Completes (.wbm n b d p) s (fun m => (dirOf m h n.toNat).owner = none ∧ m.mem = s.m.mem ∧ m.l2 = s.m.l2 ∧
          ∃ t, tfind (home m h).txns n.toNat = some t ∧ t.st = .hw ∧ t.newest = some (d, p) ∧ t.toMem = true ∧ t.after = .wbAck)) ∧
      ((dirOf s.m h n.toNat).owner ≠ some b.val → Completes (.wbm n b d p) s (fun m => ack 1 m ∧
        (home m h).staleN = sat 0xFFFF ((home s.m h).staleN + 1) ∧ m.mem = s.m.mem ∧ m.l2 = s.m.l2))) ∧
    (∀ d p, InTurn s.m (isEvict .evE n.toNat b.val d p) →
      (∀ e, tfind (home s.m h).dir n.toNat = some e → e.owner = some b.val → e.ownerO = false → e.sharers = [] →
        ((home s.m h).ctl ≠ .enabled → Completes (.eve n b d p) s (fun m => ack 0 m ∧ tfind (home m h).dir n.toNat = none ∧ m.mem = s.m.mem ∧
          m.l2 = s.m.l2)) ∧
        (∀ x, l3Takes s.m h n.toNat = true → tfind (home s.m h).l3 n.toNat = some x → Completes (.eve n b d p) s (fun m => ack 0 m ∧
          tfind (home m h).dir n.toNat = none ∧ m.mem = s.m.mem ∧ m.l2 = s.m.l2 ∧
          ∃ y, tfind (home m h).l3 n.toNat = some y ∧ y.data = d ∧ y.poison = p ∧ y.dirty = false))) ∧
      ((dirOf s.m h n.toNat).owner ≠ some b.val → Completes (.eve n b d p) s (fun m => ack 1 m ∧
        (home m h).staleN = sat 0xFFFF ((home s.m h).staleN + 1) ∧ m.mem = s.m.mem ∧ m.l2 = s.m.l2)))

/-- A request for a line that is busy waits in the line's queue, and nothing else changes but that its message has left the mesh (R454). -/
def Obligations.RequestsOfBusyLinesWait : Prop :=
  ∀ (s : State) (n : LineNo) (b : BenchId) (l : LeaseId) (t : HTxn), meshRuns s.m = true →
    let h := homeOf s.m n.toNat
    (home s.m h).lost = false → homeLoad (home s.m h) < 512 → tfind (home s.m h).txns n.toNat = some t →
    let waits (c : Instr) (r : HReq) : Prop := InTurn s.m (isReq r) →
      exec c s = .next { s with m := modHome (takeMsg s.m (isReq r)) h (fun y => { y with queues := tset y.queues n.toNat (tget y.queues n.toNat [] ++ [r]) }) }
    waits (.rds n b l) (benchReqOf .rdS n.toNat b.val l.val) ∧ waits (.rdx n b l) (benchReqOf .rdX n.toNat b.val l.val) ∧
    waits (.upg n b l) (benchReqOf .upg n.toNat b.val l.val) ∧
    (∀ src, waits (.iord n src l) (mntReq .ioRd n src l false false)) ∧
    (∀ src mask d p, waits (.iowr n src l mask d p) { mntReq .ioWr n src l false false with mask := mask, data := d, poison := p }) ∧
    (∀ src self incl, waits (.mntc n src l self incl) (mntReq .mntC n src l self incl) ∧
      waits (.mnti n src l self incl) (mntReq .mntI n src l self incl) ∧ waits (.mntci n src l self incl) (mntReq .mntCI n src l self incl))

/-- The bench's answer to each snoop, by the state that it holds the line in, SnpX and SnpDrop outside a tenure, and outside a locked way (R460): the line's state
afterwards and the kind of the response (0 RspI, 1 RspK, 2 RspD, 3 RspC, 4 RspDO, 5 RspCS, 6 RspDS, 7 RspDE).
The rows SNPS, SNPX, SNPCLN and SNPDROP complete here.

In a tenure a bench that holds a line in E or M answers no SnpX and no SnpDrop: it keeps the snoop and counts it (R456). -/
def Obligations.Snoops : Prop :=
  (∀ (s : State) (n : LineNo) (b : BenchId) (x : L2Line), meshRuns s.m = true → lineAt s.m b.val n.toNat = some x →
    wayLocked (l2 s.m b.val) x.way = false →
    let answers (c : Instr) (op : SnpOp) (f g : Bool) (st : Option CohSt) (kind : Nat) (data : Bool) : Prop :=
      InTurn s.m (isSnoop b.val op n.toNat f g) → Completes c s (fun m => stAt m b.val n.toNat = st ∧ m.mem = s.m.mem ∧ m.homes = s.m.homes ∧
        .rsp (homeOf s.m n.toNat) kind n.toNat b.val (if data then some (x.data, x.poison) else none) ∈ m.mesh)
    let quick (st : Option CohSt) (kind : Nat) (data : Bool) : Prop := answers (.snps b n) .snpS false false st kind data
    let clean (st : Option CohSt) (kind : Nat) (data : Bool) : Prop := answers (.snpcln b n) .snpCln false false st kind data
    let taken (kind : Nat) (data : Bool) : Prop := ∀ f g, inTenure s.m x = false → answers (.snpx b n f g) .snpX f g none kind data
    let dropped : Prop := ∀ f g, inTenure s.m x = false → answers (.snpdrop b n f g) .snpDrop f g none 0 false
    (x.st = .s → quick (some .s) 1 false ∧ clean (some .s) 1 false ∧ taken 0 false ∧ dropped) ∧
    (x.st = .e → quick (some .s) 5 true ∧ clean (some .e) 1 false ∧ taken 3 true ∧ dropped) ∧
    (x.st = .o → quick (some .o) 4 true ∧ clean (some .s) 6 true ∧ taken 2 true ∧ dropped) ∧
    (x.st = .m → quick (some .o) 4 true ∧ clean (some .e) 7 true ∧ taken 2 true ∧ dropped)) ∧
  (∀ (s : State) (n : LineNo) (b : BenchId) (x : L2Line) (f g : Bool), meshRuns s.m = true → lineAt s.m b.val n.toNat = some x →
    inTenure s.m x = true → (x.st = .e ∨ x.st = .m) →
    let keeps (c : Instr) (op : SnpOp) : Prop := InTurn s.m (isSnoop b.val op n.toNat f g) →
      Completes c s (fun m => m.mesh = s.m.mesh.eraseP (isSnoop b.val op n.toNat f g) ∧ m.mem = s.m.mem ∧ m.homes = s.m.homes ∧
        (l2 m b.val).deferredN = sat 0xFFFF ((l2 s.m b.val).deferredN + 1) ∧ lineAt m b.val n.toNat = some { x with deferred := some (op, f, g) })
    keeps (.snpx b n f g) .snpX ∧ keeps (.snpdrop b n f g) .snpDrop)

/-- A snoop response while others are outstanding: the home strikes the bench from those it awaits, keeps the newest data, and records what
the bench holds now: nothing (RspI, RspD, RspC), as before (RspK), O (RspDO), S (RspCS, RspDS) or E (RspDE) (R466, R467). -/
def Obligations.SnoopResponses : Prop :=
  ∀ (s : State) (n : LineNo) (b : BenchId) (t : HTxn) (d : Line) (p : Bool), meshRuns s.m = true →
    let h := homeOf s.m n.toNat
    tfind (home s.m h).txns n.toNat = some t → t.st = .hs → t.awaited.contains b.val = true → t.awaited.erase b.val ≠ [] →
    let after (c : Instr) (kind : Nat) (v : Option (Line × Bool)) (holds : DirEnt → Prop) : Prop :=
      let sent : Option (Line × Bool) := if kind < 2 then none else some (d, p)
      InTurn s.m (isRsp n.toNat b.val kind sent) → Completes c s (fun m => (∃ u, tfind (home m h).txns n.toNat = some u ∧ u.st = .hs ∧
        u.req = t.req ∧ u.awaited = t.awaited.erase b.val ∧ u.newest = v) ∧ holds (dirOf m h n.toNat) ∧ m.mem = s.m.mem ∧ m.l2 = s.m.l2)
    let e := dirOf s.m h n.toNat
    after (.rspi n b) 0 t.newest (fun k => k.owner ≠ some b.val ∧ b.val ∉ k.sharers) ∧
    after (.rspd n b d p) 2 (some (d, p)) (fun k => k.owner ≠ some b.val ∧ b.val ∉ k.sharers) ∧
    after (.rspc n b d p) 3 (some (d, p)) (fun k => k.owner ≠ some b.val ∧ b.val ∉ k.sharers) ∧
    after (.rspcs n b d p) 5 (some (d, p)) (fun k => k.owner ≠ some b.val ∧ b.val ∈ k.sharers) ∧
    after (.rspds n b d p) 6 (some (d, p)) (fun k => k.owner ≠ some b.val ∧ b.val ∈ k.sharers) ∧
    after (.rspk n b) 1 t.newest (fun k => k.owner = e.owner ∧ k.sharers = e.sharers) ∧
    (e.owner = some b.val → after (.rspdo n b d p) 4 (some (d, p)) (fun k => k.owner = some b.val ∧ k.ownerO = true) ∧
      after (.rspde n b d p) 7 (some (d, p)) (fun k => k.owner = some b.val ∧ k.ownerO = false))

/-- A snoop response, a Done or a mirror acknowledgement that the home does not await is a protocol error: it is recorded with cause 0x0030
and counted, and the home is found lost (R468). -/
def Obligations.UnexpectedMessagesAtTheHome : Prop :=
  ∀ (s : State) (n : LineNo) (b : BenchId), meshRuns s.m = true →
    let h := homeOf s.m n.toNat
    tfind (home s.m h).txns n.toNat = none → s.m.mode.found.contains (.home h) = false →
    let error (c : Instr) (q : Msg → Bool) : Prop := InTurn s.m q → Completes c s (fun m => .home h ∈ m.mode.found ∧
      (home m h).protoN = sat 0xFFFF ((home s.m h).protoN + 1) ∧ m.mem = s.m.mem ∧ m.l2 = s.m.l2)
    error (.rspi n b) (isRsp n.toNat b.val 0 none) ∧ error (.rspk n b) (isRsp n.toNat b.val 1 none) ∧ error (.done n b) (isDone n.toNat b.val) ∧
    error (.mirack n) (isMirAck n.toNat) ∧ (∀ d p, error (.rspd n b d p) (isRsp n.toNat b.val 2 (some (d, p))) ∧
      error (.rspc n b d p) (isRsp n.toNat b.val 3 (some (d, p))))

/-- A grant fills the line, with its data and its state, and Done goes to the home; a bench that holds E or M begins its tenure; a prefetched
line goes to the bench's side buffer unless it comes dirty; an upgrade makes SmA or OmA M; an accepted eviction ends it; a stale one is
counted; the acknowledgements of units without lines leave the mesh (R405, R450, R455, R456, R459, R489). For lines that no access waits for:
one that waits is performed at the fill.
The rows DATAS, DATAE, DATAM, GRANTM, WBACK, WBSTALE, IODATA, IOACK and MNTACK complete here. -/
def Obligations.GrantsAndAcknowledgements : Prop :=
  ∀ (s : State) (n : LineNo) (b : BenchId), meshRuns s.m = true →
    (∀ x d p, lineAt s.m b.val n.toNat = some x → x.cause = none → (l2 s.m b.val).ctl = .enabled →
      let fills (c : Instr) (kind : Nat) (st : CohSt) (way : Option Nat) (tenure : Bool) : Prop :=
        InTurn s.m (fun y => y == .data b.val kind n.toNat d p) → Completes c s (fun m => m.mem = s.m.mem ∧ m.homes = s.m.homes ∧
          .done (homeOf s.m n.toNat) n.toNat b.val ∈ m.mesh ∧ ∃ y, lineAt m b.val n.toNat = some y ∧ y.st = st ∧ y.data = d ∧ y.poison = p ∧
            y.way = way ∧ y.tenureEnd = if tenure then some (s.m.now + tenureNs (benchMhz s.m b.val)) else none)
      (∀ w v, chooseWay s.m b.val n.toNat x.lease = some (w, v) →
        (x.st = .isD → x.pf = false → fills (.datas b n d p) 0 .s (some w) false ∧ fills (.datae b n d p) 1 .e (some w) true) ∧
        (x.st = .isD ∨ x.st = .imD → fills (.datam b n d p) 2 .m (some w) true)) ∧
      (x.st = .isD → x.pf = true → fills (.datas b n d p) 0 .s none false ∧ fills (.datae b n d p) 1 .e none true)) ∧
    (∀ x, lineAt s.m b.val n.toNat = some x → (x.st = .smA ∨ x.st = .omA) → x.cause = none → (l2 s.m b.val).ctl = .enabled →
      InTurn s.m (fun y => y == .ack (0x0500 + b.val) 4 n.toNat) →
      Completes (.grantm b n) s (fun m => stAt m b.val n.toNat = some .m ∧ .done (homeOf s.m n.toNat) n.toNat b.val ∈ m.mesh ∧ m.mem = s.m.mem)) ∧
    ((stAt s.m b.val n.toNat = some .eiA ∨ stAt s.m b.val n.toNat = some .miA ∨ stAt s.m b.val n.toNat = some .oiA) →
      InTurn s.m (fun y => y == .ack (0x0500 + b.val) 0 n.toNat) →
      Completes (.wback b n) s (fun m => lineAt m b.val n.toNat = none ∧ m.mem = s.m.mem ∧ m.homes = s.m.homes)) ∧
    (stAt s.m b.val n.toNat = some .iiA → InTurn s.m (fun y => y == .ack (0x0500 + b.val) 1 n.toNat) →
      Completes (.wbstale b n) s (fun m => lineAt m b.val n.toNat = none ∧ (l2 m b.val).stale = sat 0xFFFF ((l2 s.m b.val).stale + 1) ∧
        m.mem = s.m.mem ∧ m.homes = s.m.homes)) ∧
    (∀ (src : Source) (d : Line) (p : Bool) (rest : List Msg),
      (s.m.mesh = .ioData src.toNat n.toNat d p :: rest → exec (.iodata src n d p) s = .next { s with m := { s.m with mesh := rest } }) ∧
      (s.m.mesh = .ack src.toNat 2 n.toNat :: rest → exec (.ioack src n) s = .next { s with m := { s.m with mesh := rest } }) ∧
      (s.m.mesh = .ack src.toNat 3 n.toNat :: rest → 0x0440 ≤ src.toNat → exec (.mntack src n) s = .next { s with m := { s.m with mesh := rest } }))

/-- Done ends a request; a mirror is kept at the buddy, acknowledged and released; a home's read that is back grants the line, its write that
is complete is acknowledged; a tenure ends; a bench that never sends Done is found lost, and the line's request ends (R455, R456, R467,
R468, R471, R474). No byte of memory changes.

While the buddy of a lost home takes its share over, each bench's report of a line of the share reaches it, the last one of a bench
counting; HOME_LOST at a bench sends the reports of the lines that it holds; SHARE_OPEN ends the takeover: the buddy covers the share
(R475, R476, R477). -/
def Obligations.HomeEvents : Prop :=
  (∀ (s : State) (n : LineNo) (b : BenchId), meshRuns s.m = true →
    let h := homeOf s.m n.toNat
    (∀ t, tfind (home s.m h).txns n.toNat = some t → tget (home s.m h).queues n.toNat [] = [] → (home s.m h).waitDir = [] →
      (t.st = .hd → t.req.src = 0x0500 + b.val → InTurn s.m (isDone n.toNat b.val) →
        Completes (.done n b) s (fun m => tfind (home m h).txns n.toNat = none ∧ m.mem.cells = s.m.mem.cells ∧ m.l2 = s.m.l2)) ∧
      (t.st = .hw → t.mirPend = true → InTurn s.m (isMirAck n.toNat) →
        Completes (.mirack n) s (fun m => tfind (home m h).txns n.toNat = some { t with mirPend := false } ∧ m.mem = s.m.mem ∧ m.l2 = s.m.l2)) ∧
      (t.st = .hw → t.mirPend = false → t.toMem = false → t.after = .wbAck → t.req.op = .wbM → t.req.n = n.toNat →
        Completes (.hwWriteComplete n) s (fun m => tfind (home m h).txns n.toNat = none ∧ .ack t.req.src 0 n.toNat ∈ m.mesh ∧
          m.mem.cells = s.m.mem.cells ∧ m.l2 = s.m.l2)) ∧
      (∀ x, t.st = .hr → t.req.op = .rdS → t.req.n = n.toNat → t.awaited = [] → t.readPend = true → readReady s.m n.toNat = true →
        tfind (home s.m h).dir n.toNat = none → tfind (home s.m h).l3 n.toNat = some x → x.dirty = false →
        Completes (.hrReadReturn n) s (fun m => .data (t.req.src - 0x0500) 1 n.toNat x.data x.poison ∈ m.mesh ∧
          (dirOf m h n.toNat).owner = some (t.req.src - 0x0500) ∧ m.mem.cells = s.m.mem.cells ∧ m.l2 = s.m.l2 ∧
          ∃ u, tfind (home m h).txns n.toNat = some u ∧ u.st = .hd)) ∧
      (t.st = .hd → t.deadline ≤ s.m.now →
        Completes (.snoopTimeout n) s (fun m => tfind (home m h).txns n.toNat = none ∧ (home m h).timeoutN = sat 0xFFFF ((home s.m h).timeoutN + 1) ∧
          .bench (t.req.src - 0x0500) true ∈ m.mode.found ∧
          (dirOf m h n.toNat).owner ≠ some (t.req.src - 0x0500) ∧ m.mem.cells = s.m.mem.cells ∧ m.l2 = s.m.l2))) ∧
    (∀ (g : HomeId) d p, InTurn s.m (isMir g.val n.toNat d p) → Completes (.mir g n d p) s (fun m =>
      tfind (home m g.val).pair n.toNat = some { owner := h, data := d, poison := p } ∧
      .mirAck h n.toNat ∈ m.mesh ∧ m.mem = s.m.mem ∧ m.l2 = s.m.l2)) ∧
    (∀ (g : HomeId), InTurn s.m (fun y => y == .mirRel g.val n.toNat) →
      Completes (.mirrel g n) s (fun m => tfind (home m g.val).pair n.toNat = none ∧ m.mem = s.m.mem ∧ m.l2 = s.m.l2)) ∧
    (∀ x t, lineAt s.m b.val n.toNat = some x → x.tenureEnd = some t → t ≤ s.m.now → x.deferred = none →
      Completes (.tenureEnd b n) s (fun m => lineAt m b.val n.toNat = some { x with tenureEnd := none } ∧ m.mesh = s.m.mesh ∧ m.mem = s.m.mem ∧
        m.homes = s.m.homes))) ∧
  (∀ (s : State) (h : HomeId) (b : BenchId), meshRuns s.m = true → (home s.m h.val).lost = true →
    let d := buddyOf s.m h.val
    (home s.m d).st = .takingOver →
    (∀ n r, Completes (.takeoverReport h b n r) s (fun m => tget (home m d).reports n.toNat [] =
      (tget (home s.m d).reports n.toNat []).filter (fun p => p.1 != b.val) ++ [(b.val, r)] ∧ m.mem = s.m.mem ∧ m.l2 = s.m.l2)) ∧
    (∀ k x, (l2 s.m b.val).lines = [(k, x)] → ownHome s.m k = h.val → x.st = .m →
      Completes (.homeLost b h) s (fun m => (b.val, .modified x.data x.poison) ∈ tget (home m d).reports k [] ∧ m.mem = s.m.mem ∧ m.l2 = s.m.l2)) ∧
    ((home s.m d).takeoverOf = h.val → (home s.m d).reports = [] → (home s.m d).pair = [] → s.m.l2 = [] → (∀ i, (home s.m i).heldReqs = []) →
      d ≠ h.val →
      Completes (.shareOpen h) s (fun m => (home m d).st = .covering ∧ (home m d).covered.getLsbD h.val = true ∧ (home m h.val).covered = 0 ∧
        m.mem = s.m.mem)))

/-! ## Channel paths, processors, journal and transactions (R540 to R588) -/

/-- A path is brought online and taken out, a channel processor leaves and returns to its group: an Offline or Failed path whose link or
port is Active begins to establish, or fails with reason 7 where its partner lies off the link's prefix and the link has no next hop; an
Operational one drains; an Active processor becomes Offline, an Offline one Active (R542, R569,
R585, R586, R638).

The journal is Moving once CHN_JRN_MOVE has been written, with the new region's base, and is Operational in that region once the move
is complete; a sump that no open transaction uses is replaced, a write of a system vector
is refused with reason 5; a record that waits is written once the sump has room (R573, R581, R582). -/
def Obligations.ChannelProcessorCommands : Prop :=
  (∀ (s : State) (a : Actor), unitsRun s.m = true →
    (∀ p : PathId, Writable s.m a 0 0 → ((path s.m p.val).st = .offline ∨ (path s.m p.val).st = .failed) → pathCarrierActive s.m p.val = true →
      (pathKind s.m p.val = 2 ∨ onPrefix s.m (pathLink s.m p.val) p.val = true ∨ nextHop s.m (pathLink s.m p.val) ≠ 0) →
      Completes (.pathOnline a p) s (fun m => (path m p.val).st = .establishing ∧ (path m p.val).estAt = s.m.now ∧ m.chn.txns = s.m.chn.txns ∧
        m.mem = s.m.mem ∧ m.leases = s.m.leases)) ∧
    (∀ p : PathId, Writable s.m a 0 0 → ((path s.m p.val).st = .offline ∨ (path s.m p.val).st = .failed) → pathCarrierActive s.m p.val = true →
      pathKind s.m p.val = 1 → onPrefix s.m (pathLink s.m p.val) p.val = false → nextHop s.m (pathLink s.m p.val) = 0 → pathTxns s.m p.val = [] →
      Completes (.pathOnline a p) s (fun m => (path m p.val).st = .failed ∧ (path m p.val).reason = 7 ∧ m.out = s.m.out ∧ m.mem = s.m.mem)) ∧
    (∀ p : PathId, Writable s.m a 0 0 → (path s.m p.val).st = .operational → pathTxns s.m p.val = [] →
      Completes (.pathOffline a p) s (fun m => path m p.val = { path s.m p.val with st := .draining, lastOp := s.m.now } ∧
        m.chn.txns = s.m.chn.txns ∧ m.mem = s.m.mem)) ∧
    (∀ p : PathId, Writable s.m a 0 0 → (path s.m p.val).st = .failed →
      Completes (.pathOffline a p) s (fun m => path m p.val = { path s.m p.val with st := .offline } ∧ m.chn.txns = s.m.chn.txns ∧ m.mem = s.m.mem)) ∧
    (∀ c : CpId, Writable s.m a 0x08 c.val → ustate s.m 0x08 c.val = .active →
      Completes (.cpOffline a c) s (fun m => ustate m 0x08 c.val = .offline ∧ m.mem = s.m.mem ∧ m.errs = s.m.errs)) ∧
    (∀ c : CpId, Writable s.m a 0x08 c.val → ustate s.m 0x08 c.val = .offline →
      exec (.cpOnline a c) s = .next { s with m := setUState s.m 0x08 c.val .active }) ∧
    (∀ c : CpId, ustate s.m 0x08 c.val = .active →
      Completes (.cpFailure c) s (fun m => ustate m 0x08 c.val = .failed ∧ m.mem = s.m.mem ∧ m.chn.paths = s.m.chn.paths))) ∧
  (∀ (s : State) (a : Actor) (v : Word), Writable s.m a 0 0 →
    exec (.chnJrnMove a v) s = .next { s with m := { s.m with chn := { s.m.chn with
      journal := 3, jrnMove := some (bits v.toNat 51 22 * 2 ^ 22) } } } ∧
    (∀ nb, unitsRun s.m = true → s.m.chn.jrnMove = some nb → openTxns s.m = [] →
      exec .journalMoveComplete s = .next { s with m := { s.m with chn := { s.m.chn with
        jrn := BitVec.ofNat 64 (nb + 1), jrnMove := none, journal := 1 } } }) ∧
    (bits v.toNat 59 48 < 16 → exec (.chnSumpReplace a v) s = .next { s with m := refuseAccess s.m a (regAddr 0 0 0x0628) 5 }) ∧
    (16 ≤ bits v.toNat 59 48 → s.m.chn.sumpLost = false → openTxns s.m = [] → bits v.toNat 47 6 ≠ bits s.m.chn.sump.toNat 47 6 →
      bits v.toNat 63 60 ≤ 11 →
      Completes (.chnSumpReplace a v) s (fun m => m.chn.sump = pack [(60, 4, bits v.toNat 63 60), (48, 12, bits v.toNat 59 48),
          (6, 42, bits v.toNat 47 6), (0, 1, v.toNat % 2)] ∧ m.chn.sumpTail = 0 ∧ m.chn.sumpHead = 0 ∧ m.mem = s.m.mem)) ∧
    (∀ t x m1, unitsRun s.m = true → s.m.chn.txns = [(t, x)] → x.sumpWaiting = true →
      sumpPut s.m (0x0900 + x.cp) (sumpRecord { x with sumpWaiting := false } x.sumpReason s.m) = (.written, m1) → m1.chn.txns = s.m.chn.txns →
      Completes .sumpSpaceAvailable s (fun m => ∃ y, txn m t = some y ∧ y.st = .reported ∧ y.id = x.id ∧ y.sumpWaiting = false)))

/-- A submitted transaction whose entry is in the journal is accepted: Journalled, answered 0 with its number, counted in the
ledger, and CANCELLED at once where its lease has been reset; where
the journal cannot be written its slot is free again and the answer is UNIT_DOWN (R554, R561, R571, R572).

What happens to a transaction: it is issued on the first path of its endpoint's order that carries it and is recorded as ever issued; it
awaits its answer once it has been sent; a step of it that completes is recorded as done; it ends with DEADLINE, PARTNER_WAIT or a path
failure when their times pass; a stray completion is only counted (R561, R563, R565, R566).

A completed transaction's record is written to its endpoint's ring: the transaction is Reported, its slot no longer reserved, and the
ledger counts it (R559, R561, R572). -/
def Obligations.ChannelTransactions : Prop :=
  (∀ (s : State) (t : SlotId) (x : Txn), unitsRun s.m = true → txn s.m t.val = some x → x.st = .submitted →
    ((journalWrite s.m t.val { x with st := .journalled, waitSince := s.m.now }).1 = true → leaseQuiet s.m x.id.lease = false → x.toSump = false →
      Completes (.journalEntryWritten t) s (fun m => (∃ y, txn m t.val = some y ∧ y.st = .journalled ∧ y.id = x.id) ∧
        tfind m.answers x.id.submitter = some (0, x.id.num) ∧ m.chn.ledgerIn = (s.m.chn.ledgerIn + 1) % 2 ^ 32)) ∧
    ((journalWrite s.m t.val { x with st := .journalled, waitSince := s.m.now }).1 = true → x.toSump = true →
      Completes (.journalEntryWritten t) s (fun m => (∃ y, txn m t.val = some y ∧ y.st = .completed ∧ y.status = 2 ∧ y.outcome = 1 ∧ y.id = x.id) ∧
        tfind m.answers x.id.submitter = some (0, x.id.num))) ∧
    ((journalWrite s.m t.val { x with st := .journalled, waitSince := s.m.now }).1 = false →
      Completes (.journalEntryWritten t) s (fun m => txn m t.val = none ∧ tfind m.answers x.id.submitter = some (4, 0)))) ∧
  (∀ (s : State) (t : SlotId), unitsRun s.m = true →
    (∀ x p steps m1, txn s.m t.val = some x → x.st = .journalled → leaseQuiet s.m x.id.lease = false →
      (x.id.deadline = 0 ∨ (timeNow s.m).toNat < x.id.deadline.toNat) → programOf s.m (x.cp / 8) x = (steps, m1) → (driveOrder (epPaths s.m x.id.lease x.id.ep) x.path).find? (fun k => pathCarries m1 k steps) = some p →
      Completes (.txnIssue t) s (fun m => ∃ y, txn m t.val = some y ∧ y.st = .issued ∧ y.everIssued = true ∧ y.path = p ∧ y.id = x.id)) ∧
    (∀ x, txn s.m t.val = some x → x.st = .issued → (path s.m x.path).helar.queue = [] →
      Completes (.txnSent t) s (fun m => ∃ y, txn m t.val = some y ∧ y.st = .awaiting ∧ y.awaitSince = s.m.now ∧ y.id = x.id)) ∧
    (∀ (p : PathId) step status gen data, txn s.m t.val = none →
      exec (.nvmeCompletion p t step status gen data) s = .next { s with m := modChn s.m (fun c => { c with stray := sat 0xFFFF (c.stray + 1) }) }) ∧
    (∀ (p : PathId) x (step : Fin 64) gen data, txn s.m t.val = some x → x.path = p.val → x.st = .awaiting → x.outSteps = [step.val] →
      (∀ g, (programOf s.m (x.cp / 8) x).1[step.val]? = some g → g.code ≠ 2) → x.done ||| 2 ^ step.val = 2 ^ x.id.steps - 1 →
      gen.toNat = (path s.m p.val).gen →
      Completes (.nvmeCompletion p t step 0 gen data) s (fun m => ∃ y, txn m t.val = some y ∧ y.st = .completed ∧ y.status = 0 ∧ y.outcome = 0 ∧
          y.done = 2 ^ x.id.steps - 1 ∧ y.id = x.id)) ∧
    (∀ x, txn s.m t.val = some x → x.st = .journalled → x.id.deadline ≠ 0 → x.id.deadline.toNat ≤ (timeNow s.m).toNat →
      Completes (.issueDeadlineExpiry t) s (fun m => ∃ y, txn m t.val = some y ∧ y.st = .completed ∧ y.status = 5 ∧
        y.outcome = lostOutcome s.m x ∧ y.id = x.id)) ∧
    (∀ x, txn s.m t.val = some x → x.st = .journalled → (epPaths s.m x.id.lease x.id.ep).any (operational s.m) = false →
      ((epPaths s.m x.id.lease x.id.ep).foldl (fun a p => max a (path s.m p).lastOp) x.waitSince) + partnerWait s.m x.id.lease x.id.ep ≤ s.m.now →
      Completes (.partnerWaitExpiry t) s (fun m => ∃ y, txn m t.val = some y ∧ y.st = .completed ∧ y.status = 3 ∧
        y.outcome = lostOutcome s.m x ∧ y.id = x.id)) ∧
    (∀ x, txn s.m t.val = some x → x.st = .awaiting → x.awaitSince + completionWait s.m x.id.lease x.id.ep ≤ s.m.now → pathKind s.m x.path = 1 →
      x.heldInPartner = false → leaseQuiet s.m x.id.lease = false → x.redrives < redriveLimit s.m x.id.lease x.id.ep →
      Completes (.completionWaitExpiry t) s (fun m => ∃ y, txn m t.val = some y ∧ y.st = .journalled ∧ y.redrives = x.redrives + 1 ∧ y.id = x.id)) ∧
    (∀ x, txn s.m t.val = some x → x.st = .completed → x.sumpWaiting = true →
      exec (.txnCompletionRecord t) s = .next s)) ∧
  (∀ (s : State) (t : SlotId) (x : Txn) (pa : Nat) (m1 m2 : Mach), unitsRun s.m = true → txn s.m t.val = some x → x.st = .completed → x.sumpWaiting = false →
    x.toSump = false → x.everIssued = false →
    let l := x.id.lease
    let e := x.id.ep
    let r := ring s.m l e
    hubAddr s.m (x.cp / 8) l (epBase s.m l e + 64 + 32 * (r.tail % epSize s.m l e)) .write = (.ok pa, m1) → lineWritable m1 (pa / 256) = true →
    ringPut m1 (x.cp / 8) (0x0900 + x.cp) l (epBase s.m l e) (epSize s.m l e) 32 r.tail (recordBytes x r.tail (epSize s.m l e)) = (.ok (), m2) →
    Completes (.txnCompletionRecord t) s (fun m => ∃ y, txn m t.val = some y ∧ y.st = .reported ∧ y.reserved = false ∧ y.id = x.id))

/-- Paths fail and recover: an Operational path fails for the reason given; one that establishes fails with reason 7 after 2 s; a Draining
path without transactions is Offline; a controller reset raises the generation once; a controller whose namespace is as R541 and R543 ask
makes its path Operational; one that is not ready in time fails with reason 5 (R542, R566, R568, R585). -/
def Obligations.PathEvents : Prop :=
  ∀ (s : State) (p : PathId), unitsRun s.m = true → pathTxns s.m p.val = [] →
    (∀ r : Byte, (path s.m p.val).st = .operational →
      Completes (.pathFailure p r) s (fun m => (path m p.val).st = .failed ∧ (path m p.val).reason = r.toNat ∧ m.mem = s.m.mem ∧
        m.chn.txns = s.m.chn.txns)) ∧
    ((path s.m p.val).st = .establishing → (path s.m p.val).estAt + 2000000000 ≤ s.m.now →
      Completes (.establishTimeout p) s (fun m => (path m p.val).st = .failed ∧ (path m p.val).reason = 7 ∧ m.mem = s.m.mem)) ∧
    ((path s.m p.val).st = .draining →
      Completes (.pathDrained p) s (fun m => (path m p.val).st = .offline ∧ (path m p.val).helar = HelarSt.reset ∧ m.mem = s.m.mem)) ∧
    (pathKind s.m p.val = 2 → (path s.m p.val).st = .operational → (path s.m p.val).resetting = false →
      Completes (.nvmeControllerReset p) s (fun m => (path m p.val).resetting = true ∧ (path m p.val).gen = ((path s.m p.val).gen + 1) % 65536 ∧
        m.chn.nvmeResets = sat 0xFFFF (s.m.chn.nvmeResets + 1) ∧ m.mem = s.m.mem)) ∧
    (∀ i : NvmeIdent, pathKind s.m p.val = 2 → (path s.m p.val).st = .establishing → i.metadata = false → i.protection = false →
      (i.lbaShift = 9 ∨ i.lbaShift = 12) → le 16 i.nguid.toNat = pathIdent s.m p.val →
      Completes (.nvmeReady p i) s (fun m => (path m p.val).st = .operational ∧ (path m p.val).ready = true ∧
        (path m p.val).lbaShift = i.lbaShift.toNat ∧ m.mem = s.m.mem)) ∧
    (pathKind s.m p.val = 2 → (path s.m p.val).st = .establishing →
      Completes (.nvmeReadyTimeout p) s (fun m => (path m p.val).st = .failed ∧ (path m p.val).reason = 5 ∧ m.mem = s.m.mem))

/-! ## Links, frames, PCIe ports and Helar (R589 to R644) -/

/-- A link is brought into training and taken Offline; training that lasts makes it Up; a lost lock trains it again at once; a failed attempt
short of the sixteenth is counted (R592, R640). -/
def Obligations.LinkStates : Prop :=
  ∀ (s : State) (a : Actor) (l : LinkId), Writable s.m a 0x06 l.val →
    (((link s.m l.val).st = .offline ∨ (link s.m l.val).st = .failed) →
      Completes (.linkOnline a l) s (fun m => (link m l.val).st = .training ∧ (link m l.val).attempts = 0 ∧ (link m l.val).since = s.m.now ∧
        ustate m 0x06 l.val = .active ∧ m.mem = s.m.mem ∧ m.chn = s.m.chn)) ∧
    Completes (.linkOffline a l) s (fun m => (link m l.val).st = .offline ∧ ustate m 0x06 l.val = .offline) ∧
    ((link s.m l.val).st = .training → s.m.mode.st ≠ .bare → s.m.mode.st ≠ .test →
      exec (.linkUp l) s = .next { s with m := modLink s.m l.val (fun x => { x with attempts := 0, st := .up, since := s.m.now }) }) ∧
    ((link s.m l.val).st = .training → (link s.m l.val).since + 500000000 ≤ s.m.now → (link s.m l.val).attempts < 15 →
      exec (.trainingAttemptTimeout l) s = .next { s with m := modLink s.m l.val (fun x => { x with attempts := x.attempts + 1, since := s.m.now }) }) ∧
    ((link s.m l.val).st = .training → (link s.m l.val).since + 500000000 ≤ s.m.now → 15 ≤ (link s.m l.val).attempts →
      Completes (.trainingAttemptTimeout l) s (fun m => (link m l.val).st = .failed ∧ ustate m 0x06 l.val = .failed ∧ m.mem = s.m.mem)) ∧
    ((link s.m l.val).st = .up → Completes (.linkDown l) s (fun m => (link m l.val).st = .training)) ∧
    (s.m.mode.st = .hold → (link s.m l.val).st = .up → (link s.m l.val).pauseAt + 200000 ≤ s.m.now →
      exec (.pauseRepeat l) s = .next { s with m := emit (modLink s.m l.val (fun x => { x with pauseAt := s.m.now })) (.pause l.val (bit (imgFld s.m 0x000C l.val 1 1) 2) 0xFFFF) })

/-- What a link does with a frame that has arrived (R589, R590, R594, R595, R601): one with a bad check sequence is dropped and counted, one for
another station too; a MAC control frame stops with the MAC, and a PAUSE or PFC frame holds or frees the transmitter; an ARP request for the link's own address is answered; one that a rule or the default assigns goes to that lease's
queue; one that nothing assigns is dropped with NO_MATCH.

A frame is placed in a queue that is on, has a posted buffer and a buffer large enough that the lease may write: the descriptor is
completed (DONE rises by one) and the count with it (R600, R601, R644). -/
def Obligations.FramesReceived : Prop :=
  (∀ (s : State) (l : LinkId) (f : Bytes), unitsRun s.m = true → (link s.m l.val).st = .up →
    let x := frameInfo f
    let counted := modLink s.m l.val (fun y => { y with rx := sat 0xFFFFFFFF (y.rx + 1) })
    exec (.frameReceive l f false) s = .next { s with m := linkDrop s.m l.val 0 } ∧
    (isMacControl f = true → exec (.frameReceive l f true) s = .next { s with m := takePause counted l.val f }) ∧
    (isMacControl f = false → x.dst ≠ linkMac s.m l.val → x.dst ≠ 0xFFFFFFFFFFFF → bit (link s.m l.val).mcast.toNat 63 = false → x.etype ≠ 0x86DD →
      exec (.frameReceive l f true) s = .next { s with m := linkDrop counted l.val 1 }) ∧
    (∀ r, isMacControl f = false → x.dst = linkMac s.m l.val → isPtp x = false → arpReply s.m l.val x = some r →
      exec (.frameReceive l f true) s = .next { s with m := emit counted (.frame l.val r) }) ∧
    (isMacControl f = false → x.dst = linkMac s.m l.val → isPtp x = false → arpReply s.m l.val x = none → ndReply s.m l.val x = none → isResolution x = false → x.proto ≠ 17 →
      (classify s.m l.val x = none → exec (.frameReceive l f true) s = .next { s with m := linkDrop counted l.val 2 }) ∧
      (∀ n q r, classify s.m l.val x = some (n, q, r) → exec (.frameReceive l f true) s = .next { s with m := placeFrame counted l.val n q r f x }))) ∧
  (∀ (m m1 m2 m3 m4 : Mach) (l n q rule : Nat) (f d : Bytes) (x : FrameInfo) (t : Word), fqOn m n q l = true → fqPosted m (0x0800 + l) n q = m1 →
    (fq m1 n q).done < (fq m1 n q).posted →
    rdLease m1 (linkHub l) (0x0800 + l) n (fqBase m1 n q + 64 + 32 * ((fq m1 n q).done % fqSize m1 n q)) 32 = (.ok d, m2) → f.length ≤ fld d 8 4 →
    canWrite m2 (linkHub l) n (fld d 0 8) f.length = (true, m3) → takeStamp (wrLease m3 (linkHub l) (0x0800 + l) n (fld d 0 8) f).2 (0x0800 + l) = (t, m4) →
    ∃ b, placeFrame m l n q rule f x = fqComplete m4 l n q b ∧ b.take 8 = le 8 (fld d 0 8) ∧ bslice b 8 2 = le 2 f.length ∧
      (fq (fqComplete m4 l n q b) n q).done = (fq m4 n q).done + 1)

/-- A transmit queue's descriptor is served (R605, R606): the posted values are read, a lease is chosen among those with a frame, its
descriptor and the frame are read, the frame goes out and is counted, the descriptor completes; on a link that is not Up the descriptor
completes with status 1.

A queue with descriptors not yet signalled signals them once its coalescing time has passed (R603). -/
def Obligations.FramesTransmitted : Prop :=
  (∀ (s : State) (l : LinkId) (n q : Nat) (fair : Fair) (d : Bytes) (m1 m2 : Mach), unitsRun s.m = true →
    txPoll s.m l.val = m1 →
    fairPick (link m1 l.val).fair ((List.range 256).filter (fun k => (txNextQueue m1 l.val k).isSome))
      (fun k => bits (lease m1 k).shares.toNat 31 24) = (some n, fair) →
    txNextQueue (modLink m1 l.val (fun x => { x with fair := fair })) l.val n = some q →
    rdLease (modLink (modLink m1 l.val (fun x => { x with fair := fair })) l.val (fun x => { x with nextQ := tset x.nextQ n (16 + (q - 15) % 16) }))
      (linkHub l.val) (0x0800 + l.val) n (fqBase m1 n q + 64 + 32 * ((fq m1 n q).done % fqSize m1 n q)) 32 = (.ok d, m2) →
    ((link m2 l.val).st ≠ .up → exec (.frameTransmit l) s = .next { s with m := txComplete m2 l.val n q d 1 0 }) ∧
    (∀ f m3, (link m2 l.val).st = .up → txDescOk m2 l.val d = true →
      rdLease m2 (linkHub l.val) (0x0800 + l.val) n (fld d 0 8) (fld d 8 2) = (.ok f, m3) → txHeld m3 l.val f = false → bit (fld d 10 1) 2 = false →
      exec (.frameTransmit l) s = .next { s with m := (txComplete (modLink (emit m3 (.frame l.val (insertSums f (fld d 10 1)))) l.val
        (fun y => { y with tx := sat 0xFFFFFFFF (y.tx + 1),
                           fair := fairCharge y.fair n (fld d 8 2 + 4) (bits (lease m1 n).shares.toNat 31 24) })) l.val n q d 0 0) })) ∧
  (∀ (s : State) (n : LeaseId) (q : Fin 16), unitsRun s.m = true → (fq s.m n.val q.val).unsignalled ≠ 0 →
    (fq s.m n.val q.val).firstAt + 1000 * bits (fqCtl s.m n.val q.val) 7 0 ≤ s.m.now →
    Completes (.coalesceTimeout n q) s (fun m => fq m n.val q.val = { fq s.m n.val q.val with unsignalled := 0 } ∧ m.mem = s.m.mem ∧
      m.evt.window.length = s.m.evt.window.length + 1))

/-- PCIe: a configuration read returns what the function answers, or all ones with FAILED; a write of a function that no path holds is sent,
one of a function that a path holds is refused with reason 5; an MSI-X write to the port's address raises the vector of the function's
lease; a DMA request of a function without a lease or a path is answered with an abort and counted, one of a stopped lease is discarded; a
downstream link that goes down retrains (R609 to R613, R643). -/
def Obligations.PciePorts : Prop :=
  ∀ (s : State) (p : PcieId), 
    (∀ a answer, Writable s.m a 0x07 p.val → Completes (.pcieCfgRead a p answer) s (fun m =>
      (pcie m p.val).cfgFailed = answer.isNone ∧ (pcie m p.val).cfgData = (answer.getD 0xFFFFFFFF#32).setWidth 64 ∧
      m.out = s.m.out ++ [.cfgRead p.val (bits (pcie s.m p.val).cfgAddr.toNat 31 0)] ∧ m.mem = s.m.mem)) ∧
    (∀ a v done, Writable s.m a 0x07 p.val → functionPath s.m p.val (cfgRid s.m p.val) = none →
      Completes (.pcieCfgWrite a p v done) s (fun m => (pcie m p.val).cfgFailed = !done ∧ m.mem = s.m.mem ∧
        m.out = s.m.out ++ [.cfgWrite p.val (bits (pcie s.m p.val).cfgAddr.toNat 31 0) (bits v.toNat 31 0)])) ∧
    (∀ a v done k, Writable s.m a 0x07 p.val → functionPath s.m p.val (cfgRid s.m p.val) = some k →
      exec (.pcieCfgWrite a p v done) s = .next { s with m := refuseAccess s.m a (regAddr 0x07 p.val 0x0118) 5 }) ∧
    (∀ (rid : BitVec 16) (addr : Word) (data : BitVec 32) n, unitsRun s.m = true → addr.toNat = regAddr 0x07 p.val 0 + 0x80000 → data.toNat < 4096 →
      functionLease s.m p.val rid.toNat = some n →
      exec (.msixMessage p rid addr data) s = .next { s with m := raiseEvent s.m 0x06 (0x0880 + p.val) n data.toNat (le 2 rid.toNat) }) ∧
    (∀ (rid : BitVec 16) (w : Bool) (addr : Word) (len : Nat) (data : Bytes), unitsRun s.m = true →
      (functionLease s.m p.val rid.toNat = none → functionPath s.m p.val rid.toNat = none →
        Completes (.pcieDmaRequest p rid w addr len data) s (fun m => (pcie m p.val).dmaFaults = sat 0xFFFF ((pcie s.m p.val).dmaFaults + 1) ∧
          .dmaAnswer p.val rid.toNat false [] ∈ m.out ∧ m.mem = s.m.mem ∧ m.l2 = s.m.l2)) ∧
      (∀ n, functionLease s.m p.val rid.toNat = some n → ((lease s.m n).st = .stopped ∨ (lease s.m n).st = .resetting ∨ (lease s.m n).st = .removing) →
        exec (.pcieDmaRequest p rid w addr len data) s = .next { s with m := (emit (modLease s.m n (fun x => { x with
          dDma := sat 0xFFFF (x.dDma + 1) })) (.dmaAnswer p.val rid.toNat false [])) }) ∧
      (∀ n b m1, functionLease s.m p.val rid.toNat = some n → (lease s.m n).st = .active → w = false →
        rdLease s.m p.val (0x0880 + p.val) n addr.toNat len = (.ok b, m1) →
        exec (.pcieDmaRequest p rid w addr len data) s = .next { s with m := emit m1 (.dmaAnswer p.val rid.toNat true b) }) ∧
      (∀ n m1, functionLease s.m p.val rid.toNat = some n → (lease s.m n).st = .active → w = true →
        canWrite s.m p.val n addr.toNat data.length = (true, m1) →
        exec (.pcieDmaRequest p rid w addr len data) s =
          .next { s with m := emit (wrLease m1 p.val (0x0880 + p.val) n addr.toNat data).2 (.dmaAnswer p.val rid.toNat true []) })) ∧
    (∀ (j : Fin 4) aer, alive s.m = true → (vget (pcie s.m p.val).links j.val { st := 0, speed := 0, width := 0 }).st = 2 →
      Completes (.pcieLinkDown p j aer) s (fun m => m.mode.st = .checkStop ∨
        (vget (pcie m p.val).links j.val { st := 0, speed := 0, width := 0 }).st = 1))

/-- Helar datagrams that a path takes (R614 to R625): CAP_REQ of a partner that has restarted fails the path with reason 2 and is answered;
CAP_RSP with settled values makes the path Operational with them; an acknowledgement drops the segments acknowledged; a keepalive shows the
partner alive; CLOSE fails the path; an ANSWER segment that is not the last is added to the message and an acknowledgement is due. One that
the header shows to be no datagram of the path is discarded and counted.

A Helar path's timers (R618, R623 to R625): CAP_REQ is sent again every 100 ms, an acknowledgement that is due is sent, a segment without
an acknowledgement is sent again with its count raised, a keepalive is sent after its interval, and a silent partner fails the path with
reason 2. A datagram goes to the partner or to the link's next hop (R638); on the link's prefix, where the partner's MAC is not resolved yet, the frame that
resolves it leaves in its place (the model's choice, log entry 112). -/
def Obligations.Helar : Prop :=
  (∀ (s : State) (p : PathId) (d : Bytes) (good : Bool), unitsRun s.m = true → pathKind s.m p.val = 1 →
    let h := helarHdr d
    (helarValid s.m p.val h good = false → ∀ c ∈ [Instr.capReq p d good, .capRsp p d good, .helarAck p d good, .helarKeepalive p d good,
        .helarClose p d good, .answerSegment p d good], exec c s = .next { s with m := linkDrop s.m (pathLink s.m p.val) 6 }) ∧
    (helarValid s.m p.val h good = true → pathTxns s.m p.val = [] →
      (h.type = 1 → (path s.m p.val).st = .operational →
        Completes (.capReq p d good) s (fun m => (path m p.val).st = .failed ∧ (path m p.val).reason = 2 ∧ m.mem = s.m.mem)) ∧
      (h.type = 5 → (path s.m p.val).st = .operational →
        Completes (.helarClose p d good) s (fun m => (path m p.val).st = .failed ∧ (path m p.val).reason = 2 ∧ m.mem = s.m.mem))) ∧
    (helarValid s.m p.val h good = true → (path s.m p.val).st = .operational →
      (h.type = 4 → bit h.flags 2 = false →
        exec (.helarKeepalive p d good) s = .next { s with m := modHelar s.m p.val (fun y => { y with lastRx := s.m.now }) }) ∧
      (h.type = 3 → bit h.flags 2 = true → (path s.m p.val).helar.queue = [] → bit (path s.m p.val).helar.mask 3 = false →
        exec (.helarAck p d good) s = .next { s with m := (modHelar s.m p.val (fun y => { y with
          lastRx := s.m.now, unacked := y.unacked.filter (fun g => !seqBefore g.seq h.ack) })) }) ∧
      (h.type = 0x11 → bit h.flags 2 = false → bit h.flags 1 = false → bit h.flags 0 = false → h.seq = (path s.m p.val).helar.rxNext →
        (path s.m p.val).helar.kept = [] → (path s.m p.val).helar.ackDue = none →
        exec (.answerSegment p d good) s = .next { s with m := (modHelar s.m p.val (fun y => { y with
          lastRx := s.m.now, ackDue := some (s.m.now + 50000), rxNext := (y.rxNext + 1) % 2 ^ 32, partial_ := y.partial_ ++ h.body, inMsg := true })) })) ∧
    (helarValid s.m p.val h good = true → h.type = 2 → (path s.m p.val).st = .establishing → h.body.length = 64 → fld h.body 16 2 = 0 →
      (helarVersions s.m p.val).contains (fld h.body 18 1) = true → fld h.body 24 8 = 0 → fld h.body 36 2 = 1024 → 1 ≤ fld h.body 38 2 →
      fld h.body 38 2 ≤ min 32 (helarOffer s.m p.val).2 → fld h.body 40 4 = 100 → fld h.body 44 4 = 1000 → fld h.body 32 4 ≠ 0 →
      h.body.take 16 = pathIdent s.m p.val → 3600 ≤ fld h.body 20 4 →
      Completes (.capRsp p d good) s (fun m => (path m p.val).st = .operational ∧ (path m p.val).helar.peerToken = fld h.body 32 4 ∧
        (path m p.val).helar.version = fld h.body 18 1 ∧ (path m p.val).helar.payload = 1024 ∧ (path m p.val).helar.window = fld h.body 38 2 ∧
        m.mem = s.m.mem))) ∧
  (∀ (s : State) (p : PathId), unitsRun s.m = true →
    ((path s.m p.val).st = .establishing → pathKind s.m p.val = 1 → (path s.m p.val).helar.capAt + 100000000 ≤ s.m.now →
      s.m.now < (path s.m p.val).estAt + 2000000000 →
      exec (.capReqResend p) s = .next { s with m := sendCapReq s.m p.val }) ∧
    (∀ t, helarUp s.m p.val = true → ((hopMac s.m (pathLink s.m p.val) p.val).isSome = true ∨ onPrefix s.m (pathLink s.m p.val) p.val = true) →
      (path s.m p.val).helar.ackDue = some t → t ≤ s.m.now →
      Completes (.ackDue p) s (fun m => (path m p.val).helar.ackDue = none ∧ (path m p.val).helar.lastTx = s.m.now ∧ m.mem = s.m.mem ∧
        m.out.length = s.m.out.length + 1)) ∧
    (∀ (q : BitVec 32) g, helarUp s.m p.val = true → ((hopMac s.m (pathLink s.m p.val) p.val).isSome = true ∨ onPrefix s.m (pathLink s.m p.val) p.val = true) →
      (path s.m p.val).helar.unacked = [g] → g.seq = q.toNat → g.sentAt + g.timeout ≤ s.m.now → g.count < 8 →
      Completes (.retransmitTimeout p q) s (fun m => (path m p.val).helar.unacked = [{ g with
          sentAt := s.m.now, count := g.count + 1, timeout := min (8 * (1000 * (path s.m p.val).helar.rtoUs)) (2 * g.timeout) }] ∧
        m.mem = s.m.mem ∧ m.out.length = s.m.out.length + 1)) ∧
    (helarUp s.m p.val = true → ((hopMac s.m (pathLink s.m p.val) p.val).isSome = true ∨ onPrefix s.m (pathLink s.m p.val) p.val = true) →
      (path s.m p.val).helar.lastTx + 1000000 * (path s.m p.val).helar.keepaliveMs ≤ s.m.now →
      Completes (.keepaliveDue p) s (fun m => (path m p.val).helar.lastTx = s.m.now ∧ m.mem = s.m.mem ∧ m.out.length = s.m.out.length + 1)) ∧
    (helarUp s.m p.val = true → (path s.m p.val).helar.lastRx + 3000000 * (path s.m p.val).helar.keepaliveMs ≤ s.m.now → pathTxns s.m p.val = [] →
      Completes (.silenceTimeout p) s (fun m => (path m p.val).st = .failed ∧ (path m p.val).reason = 2 ∧ m.mem = s.m.mem)))

/-! ## Crushers, cipher engines and contexts (R645 to R716) -/

/-- ONLINE returns a Draining, Offline or Failed unit to Active; OFFLINE takes an Active one out, at once where it holds no job and else as
Draining; a Draining unit without a job becomes Offline; a failed one is Failed and a job that another unit may take begins again there
(R676, R677, R711, R715).

A half of the context store that is lost is Failed while the other serves every engine with all contexts; once every context has been
copied into a returned half it is Active and mirroring goes on; with both halves lost no context is resident (R699). -/
def Obligations.WorkUnits : Prop :=
  (∀ (s : State) (a : Actor) (k : CrushId) (x : CiphId),
    (Writable s.m a 0x09 k.val →
      ((ustate s.m 0x09 k.val = .draining ∨ ustate s.m 0x09 k.val = .offline ∨ ustate s.m 0x09 k.val = .failed) →
        Completes (.crusherOnline a k) s (fun m => ustate m 0x09 k.val = .active ∧ (workUnit m 0 k.val).cmd = 1 ∧ m.mem = s.m.mem ∧
          m.jobs.jobs = s.m.jobs.jobs)) ∧
      (ustate s.m 0x09 k.val = .active →
        Completes (.crusherOffline a k) s (fun m => ustate m 0x09 k.val = (if (unitJobs s.m 0 k.val).isEmpty then .offline else .draining) ∧
          (workUnit m 0 k.val).cmd = 2 ∧ m.mem = s.m.mem ∧ m.jobs.jobs = s.m.jobs.jobs))) ∧
    (Writable s.m a 0x0A x.val →
      ((ustate s.m 0x0A x.val = .draining ∨ ustate s.m 0x0A x.val = .offline ∨ ustate s.m 0x0A x.val = .failed) →
        Completes (.cipherOnline a x) s (fun m => ustate m 0x0A x.val = .active ∧ (workUnit m 1 x.val).cmd = 1 ∧ m.mem = s.m.mem ∧
          m.jobs.jobs = s.m.jobs.jobs)) ∧
      (ustate s.m 0x0A x.val = .active →
        Completes (.cipherOffline a x) s (fun m => ustate m 0x0A x.val = (if (unitJobs s.m 1 x.val).isEmpty then .offline else .draining) ∧
          (workUnit m 1 x.val).cmd = 2 ∧ m.mem = s.m.mem ∧ m.jobs.jobs = s.m.jobs.jobs))) ∧
    (unitsRun s.m = true →
      (ustate s.m 0x09 k.val = .draining → unitJobs s.m 0 k.val = [] → tfind s.m.load.prior (ukey 0x09 k.val) = none →
        exec (.crusherDrained k) s = .next { s with m := setUState s.m 0x09 k.val .offline }) ∧
      (workActive s.m 0 k.val = true → unitJobs s.m 0 k.val = [] →
        Completes (.crusherFailure k) s (fun m => ustate m 0x09 k.val = .failed ∧ (workUnit m 0 k.val).run = none ∧ m.mem = s.m.mem ∧
          m.jobs.jobs = s.m.jobs.jobs)) ∧
      (workActive s.m 1 x.val = true → unitJobs s.m 1 x.val = [] →
        Completes (.cipherUnitFailure (x.castLE (by decide))) s (fun m => ustate m 0x0A x.val = .failed ∧ (workUnit m 1 x.val).run = none ∧
          m.mem = s.m.mem ∧ m.jobs.jobs = s.m.jobs.jobs)) ∧
      (∀ j v r, workActive s.m 0 k.val = true → s.m.jobs.jobs = [(j.num, j)] → j.kind = 0 → j.unit = k.val → j.ended = none → j.stop = false →
        handTo (modWork (setUState s.m 0x09 k.val .failed) 0 k.val (fun w => { w with run := none })) j = some (v, r) →
        Completes (.crusherFailure k) s (fun m => ustate m 0x09 k.val = .failed ∧ m.mem = s.m.mem ∧ ∃ y, job m j.num = some y ∧ y.unit = v ∧
          y.reserved = r ∧ y.consumed = 0 ∧ y.written = 0 ∧ y.restarted = (j.restarted || j.begun))))) ∧
  (∀ (s : State) (h : HubId), unitsRun s.m = true →
    (ustate s.m 0x0B h.val = .active → s.m.jobs.halfLost = none →
      Completes (.ctxHalfLoss h) s (fun m => ustate m 0x0B h.val = .failed ∧ m.jobs.halfLost = some h.val ∧ m.jobs.mirror = 2 ∧
        m.jobs.ctx = s.m.jobs.ctx ∧ m.mem = s.m.mem)) ∧
    (∀ o, ustate s.m 0x0B h.val = .active → s.m.jobs.halfLost = some o → o ≠ h.val →
      Completes (.ctxHalfLoss h) s (fun m => ustate m 0x0B h.val = .failed ∧ m.jobs.mirror = 2 ∧ m.jobs.ctx = [] ∧
        m.jobs.ctxOut = (s.m.jobs.ctxOut + s.m.jobs.ctx.length) % 2 ^ 32 ∧ m.mem = s.m.mem)) ∧
    (s.m.jobs.mirror = 1 → s.m.jobs.halfLost = some h.val →
      exec (.ctxHalfCopyComplete h) s = .next { s with m := modJobs (setUState s.m 0x0B h.val .active) (fun j => { j with mirror := 0, halfLost := none }) }))

/-- At a boundary a crusher that has no job takes one and works on it; a slab that is complete moves its job's counts on, and a job with all
its slabs done ends OK. A cipher engine takes a job after its checks, and the next part of its input (R673, R709).

A compress slab reads its input, and counts its input, its output and itself; the slab's header carries the input's length and check
word (R646, R649, R653). -/
def Obligations.JobBoundaries : Prop :=
  (∀ (s : State), unitsRun s.m = true → s.m.mode.holdStart = none →
    (∀ (k : CrushId) x m1, workActive s.m 0 k.val = true → (workUnit s.m 0 k.val).run.bind (job s.m) = none → chooseJob s.m 0 k.val = (some x, m1) →
      isCompress x = true → jFlush x = false → jobDone x = false →
      exec (.slabBoundary k) s = .next { s with m := modWork (setJob m1 { x with begun := true }) 0 k.val (fun w => { w with run := some x.num }) }) ∧
    (∀ (k : CrushId) x y n last m1, workActive s.m 0 k.val = true → (workUnit s.m 0 k.val).run.bind (job s.m) = some x → isCompress x = true →
      x.unit = k.val → nextSlab x = some (n, last) → compressSlab s.m x n last = (.ok y, m1) → y.stop = false → jobDone y = false →
      exec (.slabBoundary k) s = .next { s with m := (crushNext (modWork (setJob (chargeJob (countWork m1 0 k.val 0 0xFFFFFFFF) x
        (y.consumed - x.consumed)) y) 0 k.val (fun w => { w with run := none })) k.val) }) ∧
    (∀ (k : CrushId) x y n last m1, workActive s.m 0 k.val = true → (workUnit s.m 0 k.val).run.bind (job s.m) = some x → isCompress x = true →
      x.unit = k.val → nextSlab x = some (n, last) → compressSlab s.m x n last = (.ok y, m1) → y.stop = false → jobDone y = true →
      exec (.slabBoundary k) s = .next { s with m := (crushNext (endJob (chargeJob (countWork m1 0 k.val 0 0xFFFFFFFF) x
        (y.consumed - x.consumed)) y 0) k.val) }) ∧
    (∀ (u : Fin 10) x m1 m2 c, workActive s.m 1 u.val = true → (workUnit s.m 1 u.val).run.bind (job s.m) = none → chooseJob s.m 1 u.val = (some x, m1) →
      cipherCheck (setJob m1 { x with begun := true }) x = (.ok c, m2) →
      Completes (.recordBoundary u) s (fun m => (workUnit m 1 u.val).run = some x.num ∧ m.mem = m2.mem ∧ m.jobs.jobs = m2.jobs.jobs)) ∧
    (∀ (u : Fin 10) x c b m1 m2, 8 ≤ u.val → workActive s.m 1 u.val = true → (workUnit s.m 1 u.val).run.bind (job s.m) = some x → x.unit = u.val →
      cipherCheck s.m x = (.ok c, m1) → isBulk (jOp x) = false → isPk (jOp x) = true → x.stop = false →
      rdLease m1 (unitHub x.unit) (workSource 1 x.unit) x.lease (fld x.desc 8 8 + x.consumed) (jIn x - x.consumed) = (.ok b, m2) →
      exec (.recordBoundary u) s = .next { s with m := (cipherNext (cipherFinish (chargeJob m2 x 4096)
        { x with consumed := x.consumed + (jIn x - x.consumed), buf := x.buf ++ b } c) u.val) })) ∧
  (∀ (m m1 m2 : Mach) (x y : Job) (n : Nat) (last : Bool) (b : Bytes),
    rdLease m (unitHub x.unit) (workSource 0 x.unit) x.lease (fld x.desc 16 8 + x.consumed) n = (.ok b, m1) →
    let g := makeSlab (fld x.desc 1 1) (fld x.desc 2 1) ((fld x.desc 8 8 + x.slabs) % 2 ^ 64) last b
    chainPut (chainFuel g.length) m1 x g = (.ok y, m2) →
    compressSlab m x n last = (.ok { y with consumed := y.consumed + n, written := y.written + g.length, slabs := y.slabs + 1 }, m2) ∧
      y.consumed = x.consumed ∧ y.written = x.written ∧ y.slabs = x.slabs ∧ bslice g 0 3 = [0x4A, 0x53, 0x01] ∧ bslice g 8 4 = le 4 b.length ∧
      bslice g 16 4 = le 4 (crc32c b))

/-! ## Leases (R717 to R760, R869) -/

/-- The commands of `LEASE_CMD` that are accepted (R718, R744, R757): CREATE of a Free lease makes it Stopped with its record's shares;
START of a Stopped one with a valid root makes it Active; QUIESCE of an Active one, RESUME of a Quiesced one, RESET with the key of a
Quiesced one, FORCED_RESET with the key of an Active one and REMOVE with the key of a Stopped one take it to the next state. Where
nothing of the lease is at work.

A command of `LEASE_CMD` that is refused changes nothing but LAST_CMD and CMD_RESULT, which names the first test of R869 that failed: a
reserved code 10, a mode without Service 2, lease 0 from code 3 on 5, a wrong key 4, a state that does not fit 1 (R757, R869). -/
def Obligations.LeaseCommands : Prop :=
  (∀ (s : State) (a : Actor) (l : LeaseId), Writable s.m a 0x0C l.val → unitsRun s.m = true →
    let x := lease s.m l.val
    (x.st = .free → recFlag s.m l.val 0 = true → loadHolds s.m 0x0008 l.val = false →
      Completes (.leaseCreate a l) s (fun m => (lease m l.val).st = .stopped ∧ (lease m l.val).shares = recShares s.m l.val ∧
        (lease m l.val).lastCmd = 1 ∧ (lease m l.val).cmdResult = 0 ∧ (lease m l.val).pool = [] ∧ m.mem = s.m.mem)) ∧
    (x.st = .stopped → x.ptRoot.getLsbD 0 = true →
      Completes (.leaseStart a l) s (fun m => lease m l.val = { x with st := .active, lastCmd := 2, cmdResult := 0 } ∧ m.mem = s.m.mem ∧
        m.engs = s.m.engs)) ∧
    (l.val ≠ 0 → LeaseIdle s.m l.val →
      (x.st = .active → Completes (.leaseQuiesce a l) s (fun m => lease m l.val = { x with
        st := .quiescing, pendBanks := false, pendCrush := false, pendCipher := false, pendChan := false, lastCmd := 3, cmdResult := 0 } ∧
        m.mem = s.m.mem ∧ m.engs = s.m.engs)) ∧
      (x.st = .quiesced → x.held = [] → x.spill = [] →
        Completes (.leaseResume a l) s (fun m => (lease m l.val).st = .active ∧ (lease m l.val).lastCmd = 4 ∧ (lease m l.val).cmdResult = 0 ∧
          m.mem = s.m.mem ∧ m.engs = s.m.engs)) ∧
      (x.st = .quiesced → Completes (.leaseReset a l 0xA5C3) s (fun m => (lease m l.val).st = .resetting ∧ (lease m l.val).lastCmd = 5 ∧
        (lease m l.val).cmdResult = 0 ∧ m.mem = s.m.mem ∧ m.engs = s.m.engs)) ∧
      (x.st = .active → Completes (.leaseForcedReset a l 0xA5C3) s (fun m => (lease m l.val).st = .resetting ∧ (lease m l.val).lastCmd = 6 ∧
        (lease m l.val).cmdResult = 0 ∧ m.mem = s.m.mem ∧ m.engs = s.m.engs)) ∧
      (x.st = .stopped → Completes (.leaseRemove a l 0xA5C3) s (fun m => lease m l.val = { x with
        st := .removing, pendCtx := true, lastCmd := 7, cmdResult := 0 } ∧ m.mem = s.m.mem)))) ∧
  (∀ (s : State) (a : Actor) (l : LeaseId), Writable s.m a 0x0C l.val →
    let refused (code r : Nat) : Host.Outcome State Fault Refusal :=
      .next { s with m := modLease s.m l.val (fun x => { x with lastCmd := code, cmdResult := r }) }
    (∀ key (code : BitVec 4), (code = 0 ∨ 7 < code.toNat) → exec (.leaseCmdReserved a l key code) s = refused code.toNat 10) ∧
    (unitsRun s.m = false → exec (.leaseStart a l) s = refused 2 2) ∧
    (unitsRun s.m = true → l.val = 0 → exec (.leaseQuiesce a l) s = refused 3 5) ∧
    (unitsRun s.m = true → l.val ≠ 0 → (∀ key, key ≠ 0xA5C3 → exec (.leaseReset a l key) s = refused 5 4 ∧
      exec (.leaseForcedReset a l key) s = refused 6 4 ∧ exec (.leaseRemove a l key) s = refused 7 4)) ∧
    (unitsRun s.m = true → (lease s.m l.val).st ≠ .stopped → exec (.leaseStart a l) s = refused 2 1) ∧
    (unitsRun s.m = true → (lease s.m l.val).st ≠ .free → exec (.leaseCreate a l) s = refused 1 1))

/-- The other commands of a lease (R718, R730, R744, R760): a Quiescing lease with nothing pending is Quiesced; an invalidation of
translations sets BUSY with its target and OVERRUN while BUSY, and when it is complete no translation of the lease that it names is held;
a spawn that is accepted places its task and one that is not sets its code. -/
def Obligations.LeaseServices : Prop :=
  ∀ (s : State) (a : Actor) (l : LeaseId),
    (unitsRun s.m = true → LeaseIdle s.m l.val → (lease s.m l.val).st = .quiescing →
      Completes (.leasePendingCleared l) s (fun m => (lease m l.val).st = .quiesced ∧ m.mem = s.m.mem ∧ m.engs = s.m.engs)) ∧
    (∀ v, Writable s.m a 0x0C l.val →
      ((lease s.m l.val).tlbBusy = false → exec (.leaseTlbInval a l v) s = .next { s with m := (modLease s.m l.val (fun x => { x with
        tlbBusy := true, tlbTarget := v })) }) ∧
      ((lease s.m l.val).tlbBusy = true → exec (.leaseTlbInval a l v) s = .next { s with m := (modLease s.m l.val (fun x => { x with
        tlbOverrun := true })) })) ∧
    (alive s.m = true → (lease s.m l.val).tlbBusy = true →
      Completes (.tlbInvalComplete l) s (fun m => (lease m l.val).tlbBusy = false ∧ m.mem = s.m.mem ∧
        ((lease s.m l.val).tlbTarget.getLsbD 63 = true → (∀ t ∈ m.hubTlb, ∀ e ∈ t, e.lease ≠ l.val) ∧
          (∀ p ∈ m.engs, ∀ e ∈ p.2.tlb, e.lease ≠ l.val)))) ∧
    (∀ v m1, Writable s.m a 0x0C l.val →
      (∀ c, spawnTry s.m l.val v.toNat = (.error c, m1) →
        exec (.leaseSpawn a l v) s = .next { s with m := modLease m1 l.val (fun x => { x with lastCmd := 0x10, cmdResult := c }) }) ∧
      (∀ b q, spawnTry s.m l.val v.toNat = (.ok (b, q), m1) →
        exec (.leaseSpawn a l v) s = .next { s with m := modLease (enqueue m1 b q) l.val (fun x => { x with lastCmd := 0x10, cmdResult := 0 }) }) ∧
      (unitsRun s.m = false → exec (.leaseSpawn a l v) s = .next { s with m := modLease s.m l.val (fun x => { x with lastCmd := 0x10, cmdResult := 2 }) }))

/-! ## Events and time (R761 to R787) -/

/-- The first event of the window is released once it stands 1.5 µs in the past: a lease that is not running receives nothing and the event
is counted; an Active one gets its record. The other event block takes over from a lost one (R743, R773, R774, R778).

The hubs' blocks and masters take over from lost ones, and a spilled event is offered again after 10 µs (R763, R774, R782). -/
def Obligations.EventRelease : Prop :=
  (∀ (s : State) (ev : Event) (rest : List Event), alive s.m = true → s.m.evt.window = ev :: rest → bit ev.flags 9 = false →
    routeFlag s.m ev.cls 0 = false → (routeFlag s.m ev.cls 1 = false ∨ ev.cls = 0x13) →
    (bit ev.flags 2 = true ∨ ev.stamp.toNat + 1500 ≤ (takeStamp s.m (evtSrc s.m)).1.toNat) →
    let left := modEvt (modEvt (takeStamp s.m (evtSrc s.m)).2 (fun x => { x with window := rest })) (fun x => { x with
      released := lastN 256 (x.released ++ [ev]), releasedN := x.releasedN + 1,
      lastReleased := BitVec.ofNat 64 (max x.lastReleased.toNat ev.stamp.toNat) })
    ((lease s.m ev.lease).st = .stopped →
      exec .eventRelease s = .next { s with m := (modLease left ev.lease (fun x => { x with
        dEvents := sat 0xFFFF (x.dEvents + 1), evtReturned := (x.evtReturned + 1) % 2 ^ 32 })) }) ∧
    (∀ m1, (lease s.m ev.lease).st = .active → (lease s.m ev.lease).spill = [] → loadHolds s.m 0x000A ev.cls = false →
      evtDeliver left ev.lease ev false = (true, m1) → exec .eventRelease s = .next { s with m := m1 }) ∧
    ((lease s.m ev.lease).st = .quiesced → exec .eventRelease s = .next { s with m := evtKeep left ev.lease ev true })) ∧
  (∀ s : State, alive s.m = true →
    (timeLost s.m s.m.evt.activeBlock = true → timeLost s.m (1 - s.m.evt.activeBlock) = false →
      Completes .evtBlockTakeover s (fun m => m.evt.activeBlock = 1 - s.m.evt.activeBlock ∧ m.mem = s.m.mem)) ∧
    (timeLost s.m s.m.evt.activeMaster = true → timeLost s.m (1 - s.m.evt.activeMaster) = false →
      Completes .tsMasterTakeover s (fun m => m.evt.activeMaster = 1 - s.m.evt.activeMaster ∧ m.evt.takeoverUntil = s.m.now + 50000 ∧
        m.mem = s.m.mem)) ∧
    (∀ l : LeaseId, (lease s.m l.val).spill ≠ [] → (lease s.m l.val).st = .active → (lease s.m l.val).rerecheck + 10000 ≤ s.m.now →
      exec (.spillRecheck l) s = .next { s with m := (spillDrain ((lease s.m l.val).spill.length + 1)
        (modLease s.m l.val (fun x => { x with rerecheck := s.m.now })) l.val) }))

/-- Time (R762, R765, R766 to R770): a value written to `TS_SET` before START is over waits and takes effect at the next distribution
pulse in both masters; a lease may not write it, and after START no one; an offset written to `TS_ADJ` is slewed; a parent's one-step Sync
is answered by a Delay_Req, a two-step one waits for its Follow_Up; the first Announce names the parent; a Delay_Resp and a PPS edge give
a sample; four absent samples make Holdover.

A sample of a locked master: within 1 µs the rate is corrected and the lock stays, beyond it the lock is lost and a TIME event is raised
(R770). -/
def Obligations.TimeKeeping : Prop :=
  (∀ s : State, alive s.m = true →
    (∀ (h : HubId) v, unitHasRole s.m 0x0D h.val = true →
      (startUp s.m = true → exec (.tsSet .service h v) s = .next { s with m := tsSetNow s.m v }) ∧
      (startUp s.m = false → exec (.tsSet .service h v) s = .next { s with m := refuseAccess s.m .service (regAddr 0x0D h.val 0x0108) 5 }) ∧
      (∀ a, privileged a = true → Completes (.tsAdj a h v) s (fun m => m.evt.masters = vmap (fun y => { y with
        slew := signed 32 v.toNat, slewAcc := 0 }) s.m.evt.masters ∧ m.mem = s.m.mem))) ∧
    (∀ v, (master s.m s.m.evt.activeMaster).setPending = some v →
      Completes .tsDistributionPulse s (fun m => (∀ i, i < 2 → (master m i).count = v ∧ (master m i).setPending = none ∧ (master m i).slew = (master s.m i).slew) ∧ m.mem = s.m.mem)) ∧
    (∀ (p : PtpMsg) i, ptpTakes s.m p = some i →
      ((master s.m i).parent.map (fun q => q.2) = some p.srcPort →
        (p.twoStep = true → exec (.ptpSync p) s = .next { s with m := setMaster s.m i { master s.m i with sync := some p } }) ∧
        (p.twoStep = false → exec (.ptpSync p) s = .next { s with m := ptpTimed s.m i p (ptpNs p.origin) (ptpCorr p.correction) }) ∧
        (∀ t, (master s.m i).delaySent = some t → (p.seq.toNat + 1) % 65536 = (master s.m i).delaySeq →
          exec (.ptpDelayResp p) s = .next { s with m := (sample (setMaster s.m i { master s.m i with delaySent := none }) i
            (Int.fdiv ((master s.m i).msDelay - (ptpNs p.origin - ptpCorr p.correction - (t : Int))) 2)) })) ∧
      (∀ g, (master s.m i).sync = some g → g.srcPort = p.srcPort → g.seq = p.seq →
        exec (.ptpFollowUp p) s = .next { s with m := ptpTimed s.m i g (ptpNs p.origin) (ptpCorr g.correction + ptpCorr p.correction) }) ∧
      (∀ d, (master s.m i).parent = none → d.stepsRemoved.toNat < 255 →
        exec (.ptpAnnounce p d) s = .next { s with m := setMaster s.m i { master s.m i with parent := some (d, p.srcPort) } })) ∧
    (∀ (h : HubId) (stamp : Word), tsRec s.m h.val 0 1 = 2 → imgHas s.m 0x0011 = true → timeLost s.m h.val = false → stamp.toNat % 1000000000 < 500000000 →
      exec (.ppsEdge h stamp) s = .next { s with m := sample s.m h.val ((stamp.toNat % 1000000000 : Nat) : Int) }) ∧
    (∀ h : HubId, ((master s.m h.val).lock = 1 ∨ (master s.m h.val).lock = 2) → (master s.m h.val).lastSample + 4 * (master s.m h.val).interval ≤ s.m.now →
      Completes (.disciplineInputAbsent h) s (fun m => (master m h.val).lock = 3 ∧ (master m h.val).good = 0 ∧ m.mem = s.m.mem))) ∧
  (∀ (m : Mach) (i : Nat) (raw : Int), i < 2 → (master m i).lock = 2 →
    let off := raw - signed 32 (tsRec m i 4 4)
    (master (sample m i raw) i).offset = off ∧ (master (sample m i raw) i).lastSample = m.now ∧
    (off.natAbs < 1000 → (master (sample m i raw) i).lock = 2 ∧ -1000000 ≤ (master (sample m i raw) i).freq ∧
      (master (sample m i raw) i).freq ≤ 1000000) ∧
    (1000 ≤ off.natAbs → (master (sample m i raw) i).lock = 1 ∧ (sample m i raw).evt.window.length = m.evt.window.length + 1))

/-! ## Engines: bundles and their operations (R142 to R289) -/

/-- BUNDLE_ISSUE at a level that issues (R160, R163, R165, R168, R177, R181, R185, R186, R795, R797). A fetch that waits changes nothing of
the bank. A bundle of register moves, fetched, well-formed and without a conflict, writes each executing move's value, as it stood before
the bundle, to its destination, leaves every other register, and the program counter goes on by 16. A bundle whose format is wrong takes
the exception ILLEGAL_BUNDLE: level 3 runs at EXC_VECTOR, EXC_PC and EXC_CAUSE are written, the level is exception-pending. A bundle whose
every attempt fails a check is not issued: the engine is Draining and found at fault. -/
def Obligations.BundleIssue : Prop :=
  ∀ (s : State) (e : EngineId) (l : LevelId) (m1 : Mach), unitsRun s.m = true → Issues s.m e.val l.val →
    let b := bank s.m e.val l.val
    let m0 := freshFails s.m e.val l.val
    (fetchBundle m0 e.val l.val = (.wait, m1) → Completes (.bundleIssue e none none) s (fun m => bank m e.val l.val = b ∧ m.mem = s.m.mem)) ∧
    (∀ w bu, fetchBundle m0 e.val l.val = (.word w, m1) → decodeBundle w = .ok bu → bit w 127 = false → bu.moves.all regMove = true → b.fault = none →
      decodeExc b l.val (carried (eng m1 e.val) e.val l.val b 0 0 bu.moves) = none →
      let run := bu.moves.filter (fun p => guardHolds (bkGuards b) p.guard)
      (run.map (fun p => p.dest)).Nodup → (run.map (fun p => p.slot)).Nodup →
      Completes (.bundleIssue e none none) s (fun m =>
        bkPc (bank m e.val l.val) = (bkPc b + 16) % 2 ^ 48 ∧ m.mem = s.m.mem ∧ m.l2 = s.m.l2 ∧
        (∀ r, r < 32 → gw (bank m e.val l.val) r = match run.find? (fun p => p.dest == r) with | some p => moveValue b p | none => gw b r) ∧
        (∀ k, k < 4 → k ≠ l.val → bank m e.val k = bank s.m e.val k) ∧ (∀ f, f ≠ e.val → eng m f = eng s.m f)) ∧
      Completes (.bundleIssue e (some 3) none) s (fun m => ustate m 0x02 e.val = .draining ∧ .engine e.val ∈ m.mode.found ∧
        bank m e.val l.val = b ∧ m.mem = s.m.mem)) ∧
    (∀ w n, fetchBundle m0 e.val l.val = (.word w, m1) → decodeBundle w = .error n → l.val ≠ 3 → (eng s.m e.val).vec.getLsbD 0 = true →
      Completes (.bundleIssue e none none) s (fun m => (bank m e.val l.val).st = .exception ∧ (bank m e.val 3).st = .ready ∧
        bkPc (bank m e.val 3) = bits (eng s.m e.val).vec.toNat 47 4 * 16 ∧ (eng m e.val).excLevel = some l.val ∧
        (eng m e.val).excPc = BitVec.ofNat 64 (bkPc b) ∧ bits (eng m e.val).cause.toNat 7 0 = 3 ∧ m.mem = s.m.mem))

/-- What an engine waits for comes (R165, R400, R402, R420, R421, R729): a line that a fetch awaits enters its L1I, or, where that is disabled or the
bench's L2 does not hold the line, the fetch's own line; a poisoned one is kept for the next attempt; the oldest walk's translation enters
the engine's buffer, or its failure is kept for the bundle that asked.

An operation that an iterative array holds completes: its queue entry is ready, and one of the FPU's pipeline too (R198, R232, R865). -/
def Obligations.FetchesAndOperations : Prop :=
  (∀ (s : State) (e : EngineId), meshRuns s.m = true →
    (∀ n d p m1, (eng s.m e.val).fetch = some n → fetchLine s.m e.val 0 n 0 = (some (d, p), m1) →
      (p = true → Completes (.fetchLineArrival e) s (fun m => (eng m e.val).badFetch = some n ∧ (eng m e.val).fetch = none ∧ m.mem = m1.mem)) ∧
      (p = false → (eng m1 e.val).l1iOff = false → l1Keeps m1 e.val n = true → Completes (.fetchLineArrival e) s (fun m =>
        (∃ x, x ∈ tget m.l1i e.val [] ∧ x.1.line = n ∧ x.2 = d) ∧ (eng m e.val).fetch = none ∧ m.mem = m1.mem)) ∧
      (p = false → ((eng m1 e.val).l1iOff = true ∨ l1Keeps m1 e.val n = false) → Completes (.fetchLineArrival e) s (fun m =>
        (eng m e.val).ahead = [(n, d)] ∧ (eng m e.val).fetch = none ∧ m.mem = m1.mem))) ∧
    (∀ l ls va r, (eng s.m e.val).walks = (l, ls, va) :: r →
      let m0 := modEng s.m e.val (fun x => { x with walks := r })
      (∀ t, walk m0 ls va = .ok t → Completes (.translationComplete e) s (fun m =>
        eng m e.val = { eng s.m e.val with walks := r, tlb := lastN 64 ((eng s.m e.val).tlb ++ [t]) } ∧ m.mem = s.m.mem)) ∧
      (∀ d, walk m0 ls va = .error d → Completes (.translationComplete e) s (fun m =>
        eng m e.val = { eng s.m e.val with walks := r, xfails := (eng s.m e.val).xfails ++ [(l, ls, va / 2 ^ 21, d)] } ∧ m.mem = s.m.mem)))) ∧
  (∀ (s : State) (e : EngineId) (l : LevelId) (x : QEnt), unitsRun s.m = true → engActive s.m e.val = true → x.ready = false →
    let done (c : Instr) (q : Nat) : Prop := Completes c s (fun m => queueOf (bank m e.val l.val) q = [{ x with ready := true }] ∧
      m.mem = s.m.mem ∧ m.leases = s.m.leases)
    (tfind (eng s.m e.val).arrays 0 = some (l.val, x.op) → queueOf (bank s.m e.val l.val) 0 = [x] → done (.operationComplete e l .mul) 0) ∧
    (tfind (eng s.m e.val).arrays 1 = some (l.val, x.op) → queueOf (bank s.m e.val l.val) 1 = [x] → done (.operationComplete e l .div) 1) ∧
    (tfind (eng s.m e.val).arrays 2 = none → queueOf (bank s.m e.val l.val) 2 = [x] → x.iter = false → x.flags = 0 → x.trap = false →
      done (.operationComplete e l .fpu) 2))

/-- A memory operation that may complete (R234 to R242): a load gives its queue entry the bytes of its line, with the engine's earlier
stores over them; a store's bytes enter the line that the bench owns; an atomic gives the old value; an STX stores and answers 1 where its
level's reservation stands, else it stores nothing and answers 0, and ends the reservation; a MAC fetch's element goes to the operations
that wait for it. -/
def Obligations.MemoryOperations : Prop :=
  ∀ (s : State) (e : EngineId) (op : Nat) (o : MemOp) (d : Line) (p : Bool) (m1 : Mach), meshRuns s.m = true → opOf s.m e.val op = some o →
    isControl o.pa = false → opFree (eng s.m e.val) o = true → o.lv < 4 → o.id = op →
    let n := o.pa / 256
    let entry (m : Mach) (v : Word) (poison : Bool) : Prop := queueOf (bank m e.val o.lv) (lsuQueue o.unit) =
      (queueOf (bank m1 e.val o.lv) (lsuQueue o.unit)).map (fun x =>
        if x.op = o.entry && !x.ready then { x with ready := true, lo := v, poison := poison } else x)
    (isLoad o.kind = true → fetchLine s.m e.val o.lease n op = (some (d, p), m1) →
      Completes (.loadComplete e op) s (fun m => opOf m e.val op = none ∧ m.mem = m1.mem ∧ m.l2 = m1.l2 ∧
        entry m (loadValue (overlay (eng m1 e.val) o n d) o.pa o.size (loadSigned o.kind)) p)) ∧
    (o.kind = .store → ownLine s.m e.val o = (some (d, p), m1) →
      let m0 := if memLines s.m ≤ n ∨ l2Off s.m (benchOf e.val) n = true then s.m else m1
      exec (.storeComplete e op) s = .next { s with m := lossCheck (opDone (putLine m0 e.val o (le o.size o.data.toNat)) e.val o) }) ∧
    (o.kind = .stx → ownLine s.m e.val o = (some (d, p), m1) →
      (tfind m1.resv (4 * e.val + o.lv) ≠ some o.pa → Completes (.atomicComplete e op) s (fun m => opOf m e.val op = none ∧ m.mem = m1.mem ∧
        m.l2 = m1.l2 ∧ tfind m.resv (4 * e.val + o.lv) = none ∧ entry m 0 false)) ∧
      (tfind m1.resv (4 * e.val + o.lv) = some o.pa →
        let m2 := putLine m1 e.val o (le 8 o.data.toNat)
        exec (.atomicComplete e op) s = .next { s with m := (lossCheck
          (answerRead { m2 with resv := tdel m2.resv (4 * e.val + o.lv) } e.val o 1 false)) })) ∧
    (∀ v, isAtomic o.kind = true → o.kind ≠ .stx → ownLine s.m e.val o = (some (d, p), m1) →
      atomicNew o.kind (loadValue d o.pa 8 false) o.data o.exp = some v →
      exec (.atomicComplete e op) s = .next { s with m := (lossCheck
        (answerRead (putLine m1 e.val o (le 8 v.toNat)) e.val o (loadValue d o.pa 8 false) p)) }) ∧
    (isMacFetch o.kind = true → fetchLine s.m e.val o.lease n op = (some (d, p), m1) →
      exec (.macFetchComplete e op) s = .next { s with m := (macFetchDone (sideUsed (l1dAdd m1 e.val n) e.val n) e.val o
        (loadValue (overlay (eng m1 e.val) o n d) o.pa o.size false) p) })

/-- What the stacks wait for (R246, R248, R309): an entry that DSTK needs is read from memory below those it caches; the oldest sixteen
return addresses go into a sett that is linked before the newest, a stack of a spill sett's entries comes back and the sett returns to
the pool.

The micro-routines (R250, R251, R262 to R266, R377 to R379, R391): SAVE.OUT without a previous sett takes one and shows it with status
0; a CX routine that has its result ends; a micro-trap suspends a SAVE routine, its code in MSAVE0, where the routine reads a sett with
nothing of memory and of the leases changed; a TP interval of more than 64 cycles is counted by its unit and recorded. -/
def Obligations.StacksAndMicroRoutines : Prop :=
  (∀ (s : State) (e : EngineId) (l : LevelId) (m1 m2 : Mach), unitsRun s.m = true → engActive s.m e.val = true →
    let b := bank s.m e.val l.val
    let ls := bkLease b l.val
    (∀ pa x, b.dfill = b.dc.length + 1 → engAddr s.m e.val ls (cw b 3 + 8 * b.dc.length) .read = (.ok pa, m1) → memBusy m1 e.val pa 8 = false →
      rdEng m1 e.val ls (cw b 3 + 8 * b.dc.length) 8 = (.ok x, m2) → bank m2 e.val l.val = b →
      Completes (.dstkFillComplete e l) s (fun m => bank m e.val l.val = { b with dfill := 0, dc := b.dc ++ [(BitVec.ofNat 64 (leVal x), false)] } ∧
        m.mem = m2.mem)) ∧
    (∀ va, b.spill = true → runLevel s.m e.val = some l.val → takeSetts s.m e.val ls 1 2 = (some [va], m1) →
      Completes (.rstkSpillComplete e l) s (fun m =>
        let c := bank m1 e.val l.val
        let d := bank m e.val l.val
        d.rstk = c.rstk.drop 16 ∧ d.spill = false ∧ d.setts = c.setts + 1 ∧ vget d.c 4 0 = BitVec.ofNat 64 va ∧
          vget d.c 9 0 = BitVec.ofNat 64 (cw c 9 + min 16 c.rstk.length))) ∧
    (∀ x, b.fill = true → readSett s.m e.val ls (cw b 4) [3] = (.ok x, m1) →
      exec (.rstkFillComplete e l) s = .next { s with m := (returnSett (modBank m1 e.val l.val (fun b =>
        { ((b.setC 4 (settLink x)).setC 9 (cw b 9 - fld x 15 1)) with
          rstk := (List.range (fld x 15 1)).map (settWord x), fill := false, setts := b.setts - 1 })) e.val ls (cw b 4)) })) ∧
  (∀ (s : State) (e : EngineId) (l : LevelId) (m1 : Mach), unitsRun s.m = true →
    let b := bank s.m e.val l.val
    let ls := bkLease b l.val
    (engActive s.m e.val = true → (eng s.m e.val).memops = [] → b.st ≠ .empty →
      (∀ c va, b.save = some (c, 0) → c % 4 = 0 → b.taken = 0 → takeSetts s.m e.val ls 1 3 = (some [va], m1) →
        Completes (.saveComplete e l) s (fun m => (bank m e.val l.val).save = none ∧ vget (bank m e.val l.val).t 23 0 = BitVec.ofNat 64 va ∧
          bits (tw (bank m e.val l.val) 4) 47 40 = 0)) ∧
      (∀ code w r m0, b.cx = some (code, w) → code ≠ 1 → (l.val = 3 ∨ (bank s.m e.val 3).st = .empty) → microMeets s.m e none = (none, m0) →
        cxRun (cxFuel (gw b (selN (w.toNat % 2 ^ 24))).toNat) m0 e.val l.val code (w.toNat % 2 ^ 24) = (.done r, m1) →
        Completes (.cxRoutineEnd e l none) s (fun m => (bank m e.val l.val).cx = none ∧ m.mem = m1.mem ∧
          ∀ x, (queueOf (bank m1 e.val l.val) 3) = [x] → x.ready = false →
            queueOf (bank m e.val l.val) 3 = [{ x with ready := true, lo := r }])) ∧
      (∀ c a, interrupted s.m e.val l.val = true → mustEmpty s.m e.val l.val = false → b.cx = none → b.save = some (c, a) → 4 ≤ c % 8 → b.jmp = none →
        Completes (.microTrap e l none) s (fun m => (bank m e.val l.val).save = none ∧ bit (cw (bank m e.val l.val) 12) 63 = true ∧
          bits (cw (bank m e.val l.val) 12) 39 32 = 0x10 + c % 4 ∧ (2 ≤ c % 4 → m.mem = s.m.mem ∧ m.leases = s.m.leases)))) ∧
    (∀ (c : CpId) (k : BitVec 16), 65 ≤ k.toNat → ustate s.m 0x08 c.val = .active →
      Completes (.microTimingOverrun (.cp c) k) s (fun m =>
        (store m (2000 + c.val)).errs = lset (store s.m (2000 + c.val)).errs 2 (sat 0xFFFF ((store s.m (2000 + c.val)).errs.getD 2 0 + 1)) ∧
        m.mem = s.m.mem ∧ m.engs = s.m.engs)))

/-- A ring is answered (R256, R257, R258, R259, R326): SPAWN, POST and WAKE of a lease that is not Active with 3, SPAWN and POST with 5 where a
bit of the argument that must be 0 is set or the event number is below 16; else POST raises its event.

Timers and waits of a bank (R253, R254, R317, R318): an armed timer whose deadline has passed shows expired; the grace of a wait ends,
which is a scheduling point of the bank where an eligible entry of its level waits. -/
def Obligations.RingsAndTimers : Prop :=
  (∀ (s : State) (e : EngineId) (l : LevelId) (c : Nat) (arg a : Word), meshRuns s.m = true → (bank s.m e.val l.val).ring = some (c, arg, a) →
    (eng s.m e.val).memops = [] →
    let ls := bkLease (bank s.m e.val l.val) l.val
    let answers (code : Nat) : Prop := Completes (.ringAnswer e l) s (fun m => (bank m e.val l.val).ring = none ∧
      bits (tw (bank m e.val l.val) 4) 39 32 = code ∧ vget (bank m e.val l.val).t 20 0 = 0 ∧ m.mem = s.m.mem ∧ m.benches = s.m.benches)
    ((lease s.m ls).st ≠ .active → 3 ≤ c % 8 → answers 3) ∧
    ((lease s.m ls).st = .active → c % 8 = 3 → 512 ≤ arg.toNat → answers 5) ∧
    ((lease s.m ls).st = .active → c % 8 = 4 → (arg.toNat < 16 ∨ 4096 ≤ arg.toNat) → answers 5) ∧
    ((lease s.m ls).st = .active → c % 8 = 4 → 16 ≤ arg.toNat → arg.toNat < 4096 →
      exec (.ringAnswer e l) s = .next { s with m := ringDone (raiseEvent s.m 0x01 (0x1000 + ls) ls arg.toNat (le 8 a.toNat)) e.val l.val 0 0 })) ∧
  (∀ (s : State) (e : EngineId) (l : LevelId), unitsRun s.m = true → engActive s.m e.val = true →
    let b := bank s.m e.val l.val
    (∀ (t : Fin 2) now m1, takeStamp s.m e.val = (now, m1) → (b.st = .ready ∨ b.st = .exception) → bit (bkTmr b) (2 * t.val) = true →
      tw b (21 + t.val) ≤ now.toNat → b.owns1 = false →
      Completes (.timerExpiry e l t) s (fun m => bits (bkTmr (bank m e.val l.val)) (2 * t.val + 1) (2 * t.val) = 2 ∧
        bits (bkTmr (bank m e.val l.val)) (3 - 2 * t.val) (2 - 2 * t.val) = bits (bkTmr b) (3 - 2 * t.val) (2 - 2 * t.val) ∧
        (bank m e.val l.val).st = b.st ∧ m.mem = s.m.mem)) ∧
    (∀ t, b.st = .waiting → b.graceAt = some t → t ≤ s.m.now →
      (eligibleHere s.m e.val l.val = false →
        Completes (.waitGraceExpiry e l) s (fun m => bank m e.val l.val = { b with graceAt := none } ∧ m.mem = s.m.mem)) ∧
      (l.val < 3 → eligibleHere s.m e.val l.val = true → b.point = none → bkEnd b = false → settled s.m e.val l.val = true →
        (bench s.m (benchOf e.val)).waiting.length < 256 →
        Completes (.waitGraceExpiry e l) s (fun m => bank m e.val l.val = { b with graceAt := none, point := some s.m.now } ∧ m.mem = s.m.mem))))

/-! ## The scheduler, steals and setts (R290 to R352) -/

/-- A task leaves its bank and takes one (R296, R307, R312, R316, R318, R321, R323, R324): a displacement whose stacks are empty takes two
setts for its halves and its bank is Saving; a saved bank is Empty and its entry is the newest of its bench's queue, or of the wait table;
a task at its end leaves an Empty bank and its reservation; the first entry that an engine can take leaves the queue, and a fresh one
stands in its bank with its argument in g0.

Steals (R329 to R333): an idle engine of a bench that takes work finds its victim and the steal minimum that the victim's record holds,
or parks; a steal of one fresh entry, where the victim still yields by that minimum, moves it from the victim's queue into the engine's bank
and both benches count it; the parking ends. -/
def Obligations.TasksMove : Prop :=
  (∀ (s : State), unitsRun s.m = true →
    (∀ (e : EngineId) (l : LevelId) (m1 m2 : Mach) a c, l.val < 3 → engActive s.m e.val = true → displacePoint s.m e.val l.val = true →
      settled s.m e.val l.val = true → (bench s.m (benchOf e.val)).queue.length < 512 →
      let b := bank s.m e.val l.val
      b.owns1 = false → stackBack s.m e.val l.val = (true, m1) → bank m1 e.val l.val = b → b.rstk = [] → (b.t.toList.all (fun w => w == 0)) = true →
      (lease m1 (bkLease b l.val)).dirtyMode = false → reserveAt b = none → takeSetts m1 e.val (bkLease b l.val) 2 1 = (some [a, c], m2) →
      Completes (.displacement e l) s (fun m => (bank m e.val l.val).st = .saving ∧ (bank m e.val l.val).point = none ∧
        (bank m e.val l.val).rstk = [] ∧ ∃ q, (bank m e.val l.val).saved = some q ∧ q.area = a ∧ q.kind = 2 ∧ q.task = bkTask b ∧
          q.lease = bkLease b l.val ∧ q.fresh = false)) ∧
    (∀ (e : EngineId) (l : LevelId) q, (bank s.m e.val l.val).st = .saving → (bank s.m e.val l.val).saved = some q →
      ((toWaitTable s.m e.val q && !taskReady q (timeNow s.m).toNat) = false → (bench s.m (benchOf e.val)).queue.length < 512 →
        Completes (.savingComplete e l) s (fun m => bank m e.val l.val = Bank.reset ∧
          (bench m (benchOf e.val)).queue = (bench s.m (benchOf e.val)).queue ++ [q] ∧ m.mem = s.m.mem ∧ m.leases = s.m.leases)) ∧
      ((toWaitTable s.m e.val q && !taskReady q (timeNow s.m).toNat) = true → (bench s.m (benchOf e.val)).waiting.length < 256 →
        Completes (.savingComplete e l) s (fun m => bank m e.val l.val = Bank.reset ∧
          (bench m (benchOf e.val)).waiting = (bench s.m (benchOf e.val)).waiting ++ [q] ∧ m.mem = s.m.mem ∧ m.leases = s.m.leases))) ∧
    (∀ (e : EngineId) (l : LevelId), engActive s.m e.val = true → l.val < 3 →
      let b := bank s.m e.val l.val
      (b.st = .ready ∨ b.st = .waiting) → bkEnd b = true → settled s.m e.val l.val = true → cw b 4 = 0 → b.vector = none → (lease s.m (bkLease b l.val)).dirtyMode = false →
      Completes (.taskEnd e l) s (fun m => bank m e.val l.val = Bank.reset ∧ tfind m.resv (4 * e.val + l.val) = none ∧ m.mem = s.m.mem ∧
        m.leases = s.m.leases)) ∧
    (∀ (b : BenchId) q e, benchTakes s.m b.val = true → nextEntry s.m b.val = some (q, e) → q.fresh = true →
      Completes (.queueEntryDispatch b) s (fun m => (bench m b.val).queue = (bench s.m b.val).queue.erase q ∧ (bank m e q.level).st = .ready ∧
        gw (bank m e q.level) 0 = q.arg ∧ bkPc (bank m e q.level) = bits q.pc.toNat 47 4 * 16 ∧ bkTask (bank m e q.level) = q.task % 2 ^ 32 ∧
        m.mem = s.m.mem))) ∧
  (∀ (s : State) (e : EngineId), unitsRun s.m = true → engActive s.m e.val = true →
    let b := benchOf e.val
    let x := eng s.m e.val
    (benchTakes s.m b = true → idle s.m e.val = true → x.parkedTill = none →
      (∀ v, findVictim s.m e.val = some v → Completes (.stealProbe e) s (fun m => eng m e.val = { x with probe := some (v, stealLeast s.m e.val v) } ∧ m.benches = s.m.benches)) ∧
      (findVictim s.m e.val = none → Completes (.stealProbe e) s (fun m => eng m e.val = { x with probe := none, parkedTill := some (s.m.now +
        1000 * bits (bench s.m b).ctl.toNat 15 8) } ∧ m.benches = s.m.benches))) ∧
    (∀ v least q, x.probe = some (v, least) → v ≠ b →
      let m0 := modEng s.m e.val (fun x => { x with probe := none })
      benchTakes m0 b = true → idle m0 e.val = true → yieldsAt m0 e.val v least = true → stealOrder (stealable m0 e.val v) = [q] → q.fresh = true → q.level < 3 →
      Completes (.stealCommit e) s (fun m => (bench m v).queue = (bench s.m v).queue.diff [q] ∧
        (bench m v).taken = sat 0xFFFFFFFF ((bench s.m v).taken + 1) ∧ (bench m b).stolen = sat 0xFFFFFFFF ((bench s.m b).stolen + 1) ∧
        (bank m e.val q.level).st = .ready ∧ gw (bank m e.val q.level) 0 = q.arg ∧ m.mem = s.m.mem)) ∧
    (∀ t, x.parkedTill = some t → t ≤ s.m.now → Completes (.idleReprobe e) s (fun m => eng m e.val = { x with parkedTill := none } ∧
      m.benches = s.m.benches)))

/-- Queues, stocks and pools (R305, R306, R325, R351, R780, R866): an entry of the wait table whose wait is over goes to the queue; an entry
that waits in the event block takes a free place; a stock is filled to four from the pool; a sett that the manager adds joins the pool,
an address that is none is refused with reason 5.

A unit that starts loads its control stores (R375, R376): with no set bound to it, it is loaded from ROM, its tries over; a word that
does not compare leaves it to be tried again once, and then makes it Failed. -/
def Obligations.QueuesAndStores : Prop :=
  (∀ (s : State),
    (unitsRun s.m = true →
      (∀ (b : BenchId) q now m1, (bench s.m b.val).waiting = [q] → takeStamp s.m (0x0500 + b.val) = (now, m1) → taskReady q now.toNat = true →
        (bench s.m b.val).queue.length < 512 → Completes (.waitTableTimer b) s (fun m => (bench m b.val).waiting = [] ∧
          (bench m b.val).queue = (bench s.m b.val).queue ++ [q] ∧ m.mem = s.m.mem)) ∧
      (∀ (b : BenchId) w, (bench s.m b.val).waiting = [] → s.m.evt.waiting = [w] → w.bench = b.val → (bench s.m b.val).queue.length < 512 →
        Completes (.queuePlaceFreed b) s (fun m => m.evt.waiting = [] ∧ (bench m b.val).queue = (bench s.m b.val).queue ++
          [freshTask w.lease w.level w.task w.pc w.dsBase w.dsLimit w.arg (some w.vector)] ∧ m.mem = s.m.mem)) ∧
      (∀ (b : BenchId) (l : LeaseId) st, tfind (bench s.m b.val).stock l.val = some st → st.length ≤ 4 →
        Completes (.stockRefill b l) s (fun m => stockOf (bench m b.val) l.val = st ++ (lease s.m l.val).pool.take (4 - st.length) ∧
          (lease m l.val).pool = (lease s.m l.val).pool.drop (min (4 - st.length) (lease s.m l.val).pool.length) ∧ m.mem = s.m.mem))) ∧
    (∀ (a : Actor) (l : LeaseId) v, Writable s.m a 0x0C l.val →
      (settAdd s.m l.val v = none → exec (.leaseSettAdd a l v) s = .next { s with m := refuseAccess s.m a (regAddr 0x0C l.val 0x0400) 5 }) ∧
      (∀ m1, settAdd s.m l.val v = some m1 → exec (.leaseSettAdd a l v) s = .next { s with m := m1 } ∧
        ∃ m0, m1 = modLease m0 l.val (fun x => { x with pool := x.pool ++ [v.toNat], settIssued := (x.settIssued + 1) % 2 ^ 32 })))) ∧
  (∀ (s : State) (u : StoreUnit), alive s.m = true →
    let k := storeKind u
    ustate s.m k.1 k.2 = .starting → (store s.m (storeKey u)).loaded = false →
    (boundSet s.m k = none → Completes (.microcodeLoad u none) s (fun m => (store m (storeKey u)).loaded = true ∧ (store m (storeKey u)).tries = 0 ∧
      (store m (storeKey u)).ram = [] ∧ (store m (storeKey u)).check = [] ∧ (store m (storeKey u)).matches_ = [] ∧ m.mem = s.m.mem)) ∧
    (∀ w, (store s.m (storeKey u)).tries = 0 → Completes (.microcodeLoad u (some w)) s (fun m => (store m (storeKey u)).tries = 1 ∧
      (store m (storeKey u)).loaded = false ∧ ustate m k.1 k.2 = .starting ∧ m.mem = s.m.mem)) ∧
    (∀ w, 1 ≤ (store s.m (storeKey u)).tries → Completes (.microcodeLoad u (some w)) s (fun m => ustate m k.1 k.2 = .failed ∧ m.mem = s.m.mem)))

/-! ## Faults and recoveries (R789 to R816) -/

/-- ENGINE_SPARING outside Hold, with the engine's memory operations complete (R797 to R800): where a spare is found, the engine is Failed,
the spare is Active and holds its waiting and empty banks as they were, and the engine's are empty; where none is, an engine whose banks
are empty is Failed.

The loss of units, outside Hold, each where nothing of the unit is at work (R789, R803, R805, R806, R811, R812, R838): the unit's state
is Failed; a lost domain's clock is gone; a lost home node's share goes to its buddy; a tile without units at work is lost, a hub's
service core and time-stamp master fail with it; a session at a lost service core ends.

A substrate link's transfers (R20, R807, R824): one whose own virtual channel has a credit and that comes over well clears the failures of its
direction and channel and takes a credit, which no other virtual channel's pool feels; a failed one short of the ninth is counted, to be
sent again; without a credit nothing is sent. The credits that are out have come back when a nanosecond has passed (the model's choice, log
entry 69). A service core that is lost, whose block has been reset, works again once firmware of a flash passes its checks (R813). -/
def Obligations.UnitsLost : Prop :=
  (∀ (s : State) (e : EngineId) (bad : BitVec 4), unitsRun s.m = true → s.m.mode.holdStart = none → engActive s.m e.val = true →
    .engine e.val ∉ s.m.mode.found → (eng s.m e.val).memops = [] → s.m.load.st = .idle →
    (∀ x, spareFor s.m e.val = some x → x ≠ e.val → (∀ l, l < 4 → (bank s.m e.val l).cx = none ∧ (bank s.m e.val l).save = none) →
      (∀ l, l < 3 → (bank s.m e.val l).st = .waiting ∨ (bank s.m e.val l).st = .empty) → (bank s.m e.val 3).st = .empty → bad = 0 →
      Completes (.engineSparing e bad) s (fun m => ustate m 0x02 e.val = .failed ∧ ustate m 0x02 x = .active ∧ m.mem = s.m.mem ∧
        ∀ l, l < 3 → bank m x l = bank s.m e.val l ∧ bank m e.val l = Bank.reset)) ∧
    (spareFor s.m e.val = none → (∀ l, l < 4 → (bank s.m e.val l).st = .empty ∧ (bank s.m e.val l).cx = none ∧ (bank s.m e.val l).save = none) →
      (eng s.m e.val).l3Event = none → s.m.evt.l3Waiting = [] →
      Completes (.engineSparing e bad) s (fun m => ustate m 0x02 e.val = .failed ∧ m.mem = s.m.mem))) ∧
  (∀ s : State, unitsRun s.m = true → s.m.mode.holdStart = none →
    (∀ (b : BenchId), ustate s.m 0x01 b.val = .active → s.m.l2 = [] → s.m.homes = [] → bench s.m b.val = Bench.reset →
      (∀ e, e ∈ enginesOf b.val → eng s.m e = Eng.reset) → s.m.evt.l3Waiting = [] → s.m.load.st = .idle →
      Completes (.benchLoss b) s (fun m => ustate m 0x01 b.val = .failed ∧ m.mem = s.m.mem)) ∧
    (∀ (h : HomeId), unitHasRole s.m 0x03 h.val = true → (home s.m h.val).lost = false → buddyOf s.m h.val ≠ h.val →
      (home s.m (buddyOf s.m h.val)).lost = false → (home s.m (buddyOf s.m h.val)).st = .serving → s.m.load.st = .idle →
      Completes (.homeNodeLoss h) s (fun m => (home m h.val).lost = true ∧ ustate m 0x03 h.val = .failed ∧
        (home m (buddyOf s.m h.val)).st = .takingOver ∧ (home m (buddyOf s.m h.val)).takeoverOf = h.val)) ∧
    (∀ (t : Fin 4), t.val ∉ s.m.errs.tilesLost → (∀ b, b < 64 → b / 16 = t.val → ustate s.m 0x01 b ≠ .active ∧ ustate s.m 0x01 b ≠ .draining) →
      (∀ h, h < 16 → h / 4 = t.val → unitHasRole s.m 0x03 h = false) → (∀ c, c < 12 → c / 3 = t.val → (chan s.m c).role = 0) →
      Completes (.tileLoss t) s (fun m => t.val ∈ m.errs.tilesLost ∧ m.mem = s.m.mem)) ∧
    (∀ (h : HubId), h.val ∉ s.m.hubsLost → h.val ∉ s.m.svc.coresLost → s.m.chn.txns = [] → s.m.jobs.jobs = [] →
      Completes (.hubLoss h) s (fun m => h.val ∈ m.hubsLost ∧ h.val ∈ m.svc.coresLost ∧ ustate m 0x0E h.val = .failed ∧ ustate m 0x0D h.val = .failed ∧
        m.mem = s.m.mem)) ∧
    (∀ (h : HubId), s.m.svc.released = true → h.val ∉ s.m.svc.coresLost →
      Completes (.serviceCoreLoss h) s (fun m => h.val ∈ m.svc.coresLost ∧ ustate m 0x0E h.val = .failed ∧ m.mem = s.m.mem ∧
        ∀ p, s.m.svc.owner = some p → m.svc.owner = if portHub p = h.val then none else some p)) ∧
    (∀ (d : DomainId), 92 ≤ d.val → d.val < 100 → (dom s.m d.val).mhz ≠ 0 → (link s.m (d.val - 92)).st = .offline →
      Completes (.heartbeatLoss d) s (fun m => (dom m d.val).lost = true ∧ (dom m d.val).mhz = 0 ∧ m.mem = s.m.mem ∧ m.links = s.m.links)) ∧
    (∀ (d : DomainId) (temp : Byte), 92 ≤ d.val → d.val < 100 → 115 ≤ temp.toNat → (dom s.m d.val).tripped = false → (dom s.m d.val).mhz ≠ 0 →
      (link s.m (d.val - 92)).st = .offline →
      Completes (.thermalTrip d temp) s (fun m => (dom m d.val).tripped = true ∧ (dom m d.val).mhz = 0 ∧ m.pins.thermtrip = true ∧
        m.mem = s.m.mem))) ∧
  (∀ s : State,
    (∀ (k : Fin 13) (dir : Fin 2) (vc : Fin 5), meshRuns s.m = true → (subLink s.m k.val).lost = false →
      let i := 5 * dir.val + vc.val
      let x := subLink s.m k.val
      let credit := creditsOut x i = 0 ∨ creditsOut x i < (Config.creditPool k.val i).toNat + 1
      (credit → Completes (.meshTransfer k dir vc true) s (fun m => tfind (subLink m k.val).fails i = none ∧
        tget (subLink m k.val).issued i 0 = (tget x.issued i 0 + 1) % 2 ^ 32 ∧
        (∀ j, j ≠ i → tget (subLink m k.val).issued j 0 = tget x.issued j 0 ∧ tfind (subLink m k.val).fails j = tfind x.fails j) ∧
        (subLink m k.val).returned = x.returned ∧ (subLink m k.val).lost = false ∧ m.mem = s.m.mem)) ∧
      (credit → tget x.fails i 0 < 8 → exec (.meshTransfer k dir vc false) s = .next { s with m := modSubLink s.m k.val (fun x => { x with
        fails := tset x.fails i (tget x.fails i 0 + 1) }) }) ∧
      (¬ credit → ∀ good, exec (.meshTransfer k dir vc good) s = .next s)) ∧
    (∀ k, s.pending = [] → alive s.m = true → step s = .next (idleTick s) ∧
      (subLink (idleTick s).m k).returned = (subLink (idleTick s).m k).issued ∧ (subLink (idleTick s).m k).issued = (subLink s.m k).issued) ∧
    (∀ h : HubId, alive s.m = true → h.val ∈ s.m.svc.returning → h.val ∈ s.m.svc.coresLost → fusesBad s.fuse = false →
      (bothItems s.m 1).any (firmwareGood s.fuse) = true →
      Completes (.hubReturn h) s (fun m => h.val ∉ m.svc.coresLost ∧ h.val ∉ m.svc.returning ∧ h.val ∉ m.hubsLost ∧
        ustate m 0x0E h.val = .active ∧ m.mem = s.m.mem)))

/-! ## Clocks, supplies and lands (R90, R769, R831 to R860) -/

/-- The operating points (R834, R835): below its limit a domain that is asked for less goes there at once, between its floor and ceiling; a
reading at or above its limit takes 100 MHz off it, once in 50 µs, counts the throttling, and never passes below its floor.

References and supplies (R833, R846, R847, R819, R820): a failed reference is noted, both failed begin holdover, 1 ms of it makes the module
enter Check-stop, a recovered one ends it; main power noted as it rises, and its fall outside Bare, Test and Check-stop makes the module
enter Check-stop, as an uncorrectable error of the mode machine does. Check-stop remembers the mode it came from.

Lands (R90, R769, R853): a land that drives 1 PPS rises at a whole second of its master and falls when its pulse is over; a TAP
instruction of the standard set is taken in every mode, an internal one in Test only (else BYPASS: the model's choice, log entry 54). A
downstream link within its port's split and speed reaches L0 (R608, R643). -/
def Obligations.ClocksAndLands : Prop :=
  (∀ (s : State) (d : DomainId) (temp : Byte), unitsRun s.m = true → domVar d.val = true → (dom s.m d.val).mhz ≠ 0 →
    let x := dom s.m d.val
    (∀ target : Byte, thermalDue s.m d.val temp.toNat = false → min (domCeil s.m d.val) (max (domFloor s.m d.val) (100 * target.toNat)) < x.mhz →
      Completes (.frequencyDecision d target temp) s (fun m => dom m d.val = { x with
        temp := temp.toNat, mhz := min (domCeil s.m d.val) (max (domFloor s.m d.val) (100 * target.toNat)) } ∧ m.mem = s.m.mem)) ∧
    (x.throttled = false → domLimit s.m d.val ≤ temp.toNat → domFloor s.m d.val + 100 ≤ x.mhz → x.mhz ≤ domCeil s.m d.val →
      Completes (.thermalLimitStep d temp) s (fun m => dom m d.val = { x with
        temp := temp.toNat, throttled := true, loweredAt := some s.m.now, mhz := x.mhz - 100 } ∧
        m.pins.throttles = sat 0xFFFFFFFF (s.m.pins.throttles + 1) ∧ m.mem = s.m.mem)) ∧
    (x.throttled = false → temp.toNat < domLimit s.m d.val →
      Completes (.thermalLimitStep d temp) s (fun m => dom m d.val = { x with temp := temp.toNat } ∧ m.pins = s.m.pins ∧ m.mem = s.m.mem))) ∧
  (∀ s : State,
    let stops (c : Instr) : Prop := Completes c s (fun m => m.mode.st = .checkStop ∧ m.mode.prior = s.m.mode.st ∧ m.mode.cause = 0x0D ∧
      m.mem = s.m.mem ∧ m.svc.owner = s.m.svc.owner)
    (∀ h : HubId, Completes (.refclkFailure h) s (fun m => h.val ∈ m.pins.refBad ∧ m.doms = s.m.doms ∧ m.mode = s.m.mode ∧ m.mem = s.m.mem) ∧
      Completes (.refclkRecovery h) s (fun m => h.val ∉ m.pins.refBad ∧ m.pins.refBadAt = none ∧ m.doms = s.m.doms ∧ m.mem = s.m.mem)) ∧
    (∀ t, s.m.pins.refBadAt = some t → t + 1000000 ≤ s.m.now → unitsRun s.m = true →
      Completes .refclkHoldoverExpiry s (fun m => m.mode.st = .checkStop ∧ (∀ h, h < 2 → h ∈ m.svc.coresLost) ∧ (∀ d, d < 130 → (dom m d).mhz = 0) ∧
        m.mem = s.m.mem)) ∧
    (s.m.pins.ao = true → exec .pwrgdMainRise s = .next { s with m := { s.m with pins := { s.m.pins with main := true } } }) ∧
    (unitsRun s.m = true → Completes .pwrgdMainFall s (fun m => m.mode.st = .checkStop ∧ m.pins.main = false ∧ (∀ d, d < 128 → (dom m d).mhz = 0) ∧
      m.mem = s.m.mem)) ∧
    (s.m.mode.st = .bare → exec .pwrgdMainFall s = .next { s with m := { s.m with pins := { s.m.pins with main := false } } }) ∧
    (unitsRun s.m = true → stops .modeMachineUncorrectableError)) ∧
  (∀ s : State,
    (∀ (i : Fin 14) k, alive s.m = true → ppsMaster s.m i.val = some k →
      (i.val ∉ s.m.pins.pps → (master s.m k).running = true → (master s.m k).count.toNat % 1000000000 ≤ 2 →
        Completes (.ppsOutputEdge i) s (fun m => i.val ∈ m.pins.pps ∧ m.pins.ppsUntil = s.m.now + 100000000 ∧
          m.out = s.m.out ++ [.land (pinLand i.val) true])) ∧
      (i.val ∈ s.m.pins.pps → s.m.pins.ppsUntil ≤ s.m.now →
        Completes (.ppsOutputEdge i) s (fun m => i.val ∉ m.pins.pps ∧ m.out = s.m.out ++ [.land (pinLand i.val) false]))) ∧
    (∀ c : Fin 7, exec (.tapInstruction c) s = .next { s with m := { s.m with pins := { s.m.pins with
      tap := if c.val < 6 ∨ s.m.mode.st = .test then c.val else 0 } } }) ∧
    (∀ (p : PcieId) (j : Fin 4) (speed : BitVec 4) (width : Byte), unitsRun s.m = true → j.val < downLinks (imgFld s.m 0x000C (8 + p.val) 0 1) →
      0 < speed.toNat → speed.toNat ≤ imgFld s.m 0x000C (8 + p.val) 1 1 →
      (vget (pcie s.m p.val).links j.val { st := 0, speed := 0, width := 0 }).st = 1 →
      (width = 1 ∨ width = 4 ∨ width = 8 ∨ width = 16) → downLinks (imgFld s.m 0x000C (8 + p.val) 0 1) * width.toNat ≤ 16 →
      Completes (.pcieLinkUp p j speed width) s (fun m => vget (pcie m p.val).links j.val { st := 0, speed := 0, width := 0 } =
        { st := 2, speed := speed.toNat, width := width.toNat } ∧ m.mem = s.m.mem ∧ m.mode = s.m.mode)))

/-! ## Resets, boot and modes (R26 to R58) -/

/-- Resets (R28, R38, R39, R46, R57, R85, R847): after a power-on reset the module is Bare with nothing of what it held, no session and
no error record; after MRST_N it is Bare with cause 0x02 and keeps its error records, their index and its tags; main memory is as after
reset in both. The fuse that forbids Test is what decides whether Test may be entered. Two milliseconds after it the service domain is
released. -/
def Obligations.Resets : Prop :=
  ∀ s : State,
    let cleared (m : Mach) : Prop := m.mode.st = .bare ∧ m.mode.transit = false ∧ m.mode.testAllowed = !testBlown s.fuse ∧ m.image = [] ∧
      m.svc.owner = none ∧ m.svc.released = false ∧ m.mem = Mach.reset.mem ∧ m.leases = [] ∧ m.engs = [] ∧ m.flash = s.m.flash ∧ m.now = s.m.now
    Completes .powerOnReset s (fun m => cleared m ∧ m.pins.ao = true ∧ m.units = [] ∧ m.errs.retained = []) ∧
    Completes .pwrgdAoFall s (fun m => cleared m ∧ m.pins.ao = false ∧ m.units = [] ∧ m.errs.retained = []) ∧
    (s.m.pins.ao = true → Completes .mrstNReset s (fun m => cleared m ∧ m.mode.cause = 0x02 ∧ m.errs.retained = s.m.errs.retained ∧
      m.errs.index = s.m.errs.index ∧ (∀ k i, (unit m k i).tags = (unit s.m k i).tags ∧ ustate m k i = .reset))) ∧
    (s.m.svc.released = false → s.m.pins.ao = true → s.m.svc.releaseAt ≤ s.m.now →
      Completes .serviceDomainRelease s (fun m => m.svc.released = true ∧ m.ident = fuseIdent s.fuse ∧ m.macBase = fuseMac s.fuse ∧
        m.svc.rom = (fusesBad s.fuse || !(bothItems s.m 1).any (firmwareGood s.fuse)) ∧ ustate m 0x00 0 = .active ∧
        (∀ i, i < 2 → (master m i).running = true ∧ ustate m 0x0D i = .active ∧ ustate m 0x0E i = .active) ∧ m.mem = s.m.mem))

/-- Mode commands (R28, R30, R34, R35, R73, R79). One whose value R79 does not list is answered REFUSED; while a transition is under way, and
while a fuse is blown, every mode command but MODULE_RESET is answered BUSY, and nothing of the mode changes. Else START of a verified image enters
Training with its physical stage; HOLD_ENTER and HOLD_EXIT begin their transitions; TEST_ENTER enters Test where it is allowed, and is refused
with FUSE_BLOWN where it is not; TEST_EXIT resets the module with cause 0x03. MODULE_RESET does so in every mode and in a transition, but not
while a fuse is blown. Each that is taken answers MODE as it stood; each in a mode that does not take it is answered MODE. The rows
START, HOLD_ENTER, HOLD_EXIT, TEST_ENTER, TEST_EXIT and MODULE_RESET complete here.

Transitions that complete (R28, R34, R35, R121, R131, R132): Hold is entered once the channels' queues are drained and no step of a rework is
under way, with the running channels in self-refresh, and left for Rework where it was entered from there or a recovery waits, else for
Service; either enters Check-stop where the minimum set is unmet then (R818). Training ends, when every unit has trained or its 10 s are over,
in Loading where the minimum set is trained and healthy, else in Bare with its units back in reset. Rework ends in Service once the loader is
idle and every recovery done. -/
def Obligations.Modes : Prop :=
  (∀ (s : State) (h : SvcHdr) (p : Bytes),
    let rows : List (Nat × Instr) := [(1, .start h p), (3, .holdEnter h p), (4, .holdExit h p), (5, .testEnter h p), (6, .testExit h p)]
    let refused (c : Instr) (status : Nat) : Prop := Completes c s (fun m => m.mode = s.m.mode ∧ m.mem = s.m.mem ∧ m.image = s.m.image ∧
      m.engs = s.m.engs ∧ Answered m h status [])
    (Taken s.m (modeMsg p) h p →
      (∀ n c, (n, c) ∈ rows → (fld p 0 1 = 0 ∨ 6 < fld p 0 1) → refused c 0x0009) ∧
      (∀ n c, (n, c) ∈ rows → fld p 0 1 = n → (s.m.mode.transit = true ∨ blowing s.m = true) → refused c 0x0008) ∧
      (s.m.mode.transit = false → blowing s.m = false →
        let was := le 8 (modeWord s.m).toNat
        (fld p 0 1 = 1 → s.m.mode.st = .bare → s.m.mode.verified = true →
          (∀ b, s.m.load.candidate = some b → Completes (.start h p) s (fun m =>
            m.mode.st = .training ∧ m.mode.cause = 0x04 ∧ m.mode.prior = .bare ∧ m.mode.transit = false ∧
              m.image = (imageRecords b).filter (fun r => kindPhysical (r.1 / 65536)) ∧ m.mem = s.m.mem ∧ Answered m h 0 was))) ∧
        (fld p 0 1 = 1 → (s.m.mode.st ≠ .bare ∨ s.m.mode.verified = false) → refused (.start h p) 0x0007) ∧
        (fld p 0 1 = 3 → unitsRun s.m = true → Completes (.holdEnter h p) s (fun m => m.mode.st = s.m.mode.st ∧ m.mode.transit = true ∧
          m.mode.holdStart = some s.m.now ∧ m.mem = s.m.mem ∧ m.engs = s.m.engs ∧ Answered m h 0 was)) ∧
        (fld p 0 1 = 3 → unitsRun s.m = false → refused (.holdEnter h p) 0x0007) ∧
        (fld p 0 1 = 4 → s.m.mode.st = .hold → Completes (.holdExit h p) s (fun m => m.mode = { s.m.mode with transit := true } ∧ m.mem = s.m.mem ∧
          m.chans = s.m.chans ∧ Answered m h 0 was)) ∧
        (fld p 0 1 = 4 → s.m.mode.st ≠ .hold → refused (.holdExit h p) 0x0007) ∧
        (fld p 0 1 = 5 → s.m.mode.st = .bare → s.m.mode.testAllowed = true → Completes (.testEnter h p) s (fun m => m.mode.st = .test ∧
          m.mode.cause = 0x0C ∧ m.mem = s.m.mem ∧ Answered m h 0 was)) ∧
        (fld p 0 1 = 5 → s.m.mode.st = .bare → s.m.mode.testAllowed = false → refused (.testEnter h p) 0x000A) ∧
        (fld p 0 1 = 5 → s.m.mode.st ≠ .bare → refused (.testEnter h p) 0x0007) ∧
        (fld p 0 1 = 6 → s.m.mode.st = .test → Completes (.testExit h p) s (fun m => m.mode.st = .bare ∧ m.mode.cause = 0x03 ∧
          m.svc.owner = none ∧ m.errs.retained = s.m.errs.retained)) ∧
        (fld p 0 1 = 6 → s.m.mode.st ≠ .test → refused (.testExit h p) 0x0007))) ∧
    (Taken s.m (resetMsg p) h p → fld p 0 1 = 2 → blowing s.m = false → Completes (.moduleReset h p) s (fun m => m.mode.st = .bare ∧
      m.mode.cause = 0x03 ∧ m.mode.transit = false ∧ m.svc.owner = none ∧ m.image = [] ∧ m.errs.retained = s.m.errs.retained ∧
      m.mem = Mach.reset.mem)) ∧
    (Taken s.m (resetMsg p) h p → fld p 0 1 = 2 → blowing s.m = true → refused (.moduleReset h p) 0x0008)) ∧
  (∀ s : State,
    (unitsRun s.m = true → s.m.mode.holdStart.isSome = true → chansDrained s.m = true → targetOpen s.m = false →
      (∀ k, k < 10 → (workUnit s.m 0 k).run = none ∧ (workUnit s.m 1 k).run = none) →
      (minUnmet (holdEntered s.m) = 0 → Completes .holdEntryComplete s (fun m => m.mode.st = .hold ∧ m.mode.cause = 0x0A ∧ m.mem = s.m.mem ∧
        ∀ c, c < 12 → (chan s.m c).phase = .running → (chan m c).phase = .selfRefresh)) ∧
      (minUnmet (holdEntered s.m) ≠ 0 → Completes .holdEntryComplete s (fun m => m.mode.st = .checkStop ∧ m.mem = s.m.mem))) ∧
    (s.m.mode.st = .hold → s.m.mode.transit = true → s.m.mode.deferred = [] →
      let next : Mode := if s.m.mode.prior = .rework ∨ s.m.mode.recPending = true then .rework else .service
      (minUnmet (holdExited s.m) = 0 → Completes .holdExitComplete s (fun m => m.mode.st = next ∧ m.mode.cause = 0x0B ∧ m.mode.holdStart = none ∧
        m.mem = s.m.mem)) ∧
      (minUnmet (holdExited s.m) ≠ 0 → Completes .holdExitComplete s (fun m => m.mode.st = .checkStop ∧ m.mem = s.m.mem))) ∧
    (∀ r, s.m.mode.st = .training → (allTrained s.m r = true ∨ s.m.mode.entered + 10000000000 ≤ s.m.now) →
      let unmet := startUnmet (trainedUnits s.m r) (recsOf (imageRecords (s.m.load.candidate.getD [])))
      (unmet = 0 → Completes (.trainingEnd r) s (fun m => m.mode.st = .loading ∧ m.mode.cause = 0x05 ∧ m.load.st = .checking)) ∧
      (unmet ≠ 0 → Completes (.trainingEnd r) s (fun m => m.mode.st = .bare ∧ m.mode.cause = 0x0E ∧ m.image = [] ∧ m.seams = []))) ∧
    (s.m.mode.st = .rework → s.m.mode.holdStart = none → s.m.load.st = .idle → s.m.mode.found = [] → (∀ p ∈ s.m.mode.recoveries, p.2 = true) →
      Completes .reworkComplete s (fun m => m.mode.st = .service ∧ m.mode.cause = 0x09 ∧ m.mode.recoveries = [] ∧ m.mem = s.m.mem ∧ m.engs = s.m.engs)))

/-! ## The session, registers, tags and the dump (R59 to R83, R822) -/

/-- The session (R59 to R64, R69, R70, R75, R76): HELLO agrees the highest version that both know; SESSION_OPEN without a session makes its
port the owner, also where it presents a token (the model's choice, log entry 62), unless a port that goes before it has one with the same
time stamp waiting (R61); where a session is open, one without a token is refused with OWNED, one with the valid token takes the session over, and
one with another token is refused with BAD_TOKEN; a keepalive time outside 1 s to 60 s is refused; the owner closes it, keeps it alive, and may
prepare a handover, for which a token stands for 10 s; a silent owner's session lapses, which changes nothing but the ownership. The rows
HELLO, SESSION_OPEN, SESSION_CLOSE, KEEPALIVE, HANDOVER_PREPARE, SESSION_LAPSE and HANDOVER_TOKEN_EXPIRY complete here.

Messages that only the owner may send are refused with NOT_OWNER to any other port, and change nothing of the machine but the kept
responses (R62): of every row that carries such a message. -/
def Obligations.Session : Prop :=
  (∀ (s : State) (h : SvcHdr) (p : Bytes),
    (Taken s.m { code := 0x0001, new := false, rom := true, stop := true, owned := false, lenOk := p.length == 32 } h p →
      (∀ v, helloVersion p = some v → Completes (.hello h p) s (fun m => m.mode = s.m.mode ∧ m.mem = s.m.mem ∧
        portAgreed m h.port = some (v.1, v.2, if v.2 = 1 then fld p 24 8 % 16 else fld p 24 8 % 4) ∧ ∃ b, Answered m h 0 b ∧ b.take 2 = le 1 v.1 ++ le 1 v.2)) ∧
      (helloVersion p = none → Completes (.hello h p) s (fun m => m.svc.agreed = s.m.svc.agreed ∧ ∃ b, Answered m h 0x0003 b))) ∧
    (Taken s.m (openMsg p) h p →
      let ms := openMs p
      let refused (status : Nat) : Prop := Completes (.sessionOpen h p) s (fun m => m.svc.owner = s.m.svc.owner ∧ m.svc.token = s.m.svc.token ∧
        m.mode = s.m.mode ∧ m.mem = s.m.mem ∧ Answered m h status [])
      (openMsOk p = false → refused 0x0009) ∧
      (openMsOk p = true →
        (s.m.svc.owner = none →
          (s.pending.any (rival s.m h.port) = false → Completes (.sessionOpen h p) s (fun m => m.svc.owner = some h.port ∧ m.svc.keepalive = ms ∧
            m.svc.lastMsg = s.m.now ∧ m.mode = s.m.mode ∧ m.mem = s.m.mem ∧ Answered m h 0 (le 4 ms ++ le 4 0))) ∧
          (s.pending.any (rival s.m h.port) = true → refused 0x0004)) ∧
        (s.m.svc.owner ≠ none →
          (bit (fld p 4 4) 0 = false → refused 0x0004) ∧
          (bit (fld p 4 4) 0 = true → tokenGood s.m (fld p 8 8) = true →
            Completes (.sessionOpen h p) s (fun m => m.svc.owner = some h.port ∧ m.svc.token = none ∧ m.svc.keepalive = ms ∧
              m.svc.lastMsg = s.m.now ∧ m.mode = s.m.mode ∧ m.mem = s.m.mem ∧ Answered m h 0 (le 4 ms ++ le 4 0))) ∧
          (bit (fld p 4 4) 0 = true → tokenGood s.m (fld p 8 8) = false → refused 0x0006)))) ∧
    (Taken s.m (bareMsg 0x0003 p) h p → Completes (.sessionClose h p) s (fun m => m.svc.owner = none ∧
      m.mode = s.m.mode ∧ m.mem = s.m.mem ∧ Answered m h 0 [])) ∧
    (Taken s.m (bareMsg 0x0004 p) h p → Completes (.keepalive h p) s (fun m => m.svc.owner = some h.port ∧
      m.svc.lastMsg = s.m.now ∧ m.mode = s.m.mode ∧ m.mem = s.m.mem ∧ Answered m h 0 [])) ∧
    (Taken s.m { ownMsg 0x0005 (p.length == 0) with new := true } h p → Completes (.handoverPrepare h p) s (fun m => m.svc.owner = some h.port ∧
      m.mode = s.m.mode ∧ m.mem = s.m.mem ∧
      ∃ w, m.svc.token = some (w, s.m.now + 10000000000) ∧ Answered m h 0 (le 8 w.toNat ++ le 4 10000 ++ le 4 0))) ∧
    (∀ q, s.m.svc.owner = some q → s.m.svc.lastMsg + s.m.svc.keepalive * 1000000 ≤ s.m.now →
      exec .sessionLapse s = .next { s with m := { s.m with svc := { s.m.svc with owner := none } } }) ∧
    (∀ w t, s.m.svc.token = some (w, t) → t < s.m.now →
      exec .handoverTokenExpiry s = .next { s with m := { s.m with svc := { s.m.svc with token := none } } })) ∧
  (∀ (s : State) (h : SvcHdr) (p : Bytes) (v : Nat × Nat × Nat), portServes s.m h.port = true → svcIntact h p = true →
    s.m.svc.kept = [] → s.m.svc.running = [] → portAgreed s.m h.port = some v → h.major.toNat = v.1 → h.minor.toNat = v.2.1 → s.m.svc.rom = false →
    s.m.svc.owner ≠ some h.port → minUnmet s.m = 0 →
    let rows : List (MsgType × Instr) := [(bareMsg 0x0003 p, .sessionClose h p), (bareMsg 0x0004 p, .keepalive h p),
      ({ ownMsg 0x0005 (p.length == 0) with new := true }, .handoverPrepare h p), ({ ownMsg 0x0010 (p.length == 8) with stop := true }, .regRead h p),
      (ownMsg 0x0011 (p.length == 16), .regWrite h p), ({ ownMsg 0x0012 (tagLenOk p) with new := true }, .tagBulk h p),
      (modeMsg p, .start h p), (modeMsg p, .holdEnter h p), (modeMsg p, .holdExit h p), (modeMsg p, .testEnter h p), (modeMsg p, .testExit h p),
      (resetMsg p, .moduleReset h p), ({ ownMsg 0x0030 (decide (9 ≤ p.length)) with rom := true }, .imagePut h p),
      (ownMsg 0x0031 (p.length == 4), .imageLoad h p), (flashMsg 0x0040 (p.length == 16), .flashRead h p),
      (flashMsg 0x0041 (decide (16 ≤ p.length) && p.length == 16 + fld p 8 2), .flashWrite h p), (flashMsg 0x0042 (p.length == 16), .flashErase h p none),
      ({ ownMsg 0x0050 (p.length == 6) with stop := true }, .dumpRead h p), (ownMsg 0x0070 (p.length == 8), .fuseArm h p),
      (confirmMsg p, .fuseConfirm h p)]
    ∀ t c, (t, c) ∈ rows → h.type.toNat = t.code → (t.new = true → v.2.1 ≠ 0) → t.lenOk = true →
      Completes c s (fun m => Answered m h 0x0005 [] ∧ m.svc.owner = s.m.svc.owner ∧ m.svc.armed = s.m.svc.armed ∧ m.svc.token = s.m.svc.token ∧
        m.mode = s.m.mode ∧ m.mem = s.m.mem ∧ m.image = s.m.image ∧ m.load = s.m.load ∧ m.flash = s.m.flash ∧ m.units = s.m.units))

/-- Registers and tags by message (R46, R72, R77, R78): a read that is accepted answers the register's value, a write that is accepted takes its
effect and one that is refused is recorded, both answered; TAG_BULK reads and writes the tag area of a unit.

Notifications (R83): the owner's answer ends the notification that it answers; one unanswered for 100 ms is sent again. -/
def Obligations.RegisterMessages : Prop :=
  (∀ (s : State) (h : SvcHdr) (p : Bytes),
    (∀ v m1, Taken s.m { ownMsg 0x0010 (p.length == 8) with stop := true } h p → alive s.m = true → inControl (fld p 0 8) = true →
      readCheck (ownerHeard s.m h.port) .service (fld p 0 8) 8 = .ok (v, m1) →
      Completes (.regRead h p) s (fun m => Answered m h 0 (le 8 (fld p 0 8) ++ le 8 v.toNat) ∧ m.mem = m1.mem ∧ m.leases = m1.leases ∧ m.errs = m1.errs)) ∧
    (Taken s.m (ownMsg 0x0011 (p.length == 16)) h p → inControl (fld p 0 8) = true →
      (∀ m1, writeCheck (ownerHeard s.m h.port) .service (fld p 0 8) 8 (BitVec.ofNat 64 (fld p 8 8)) = .ok m1 → m1.svc = (ownerHeard s.m h.port).svc →
        Completes (.regWrite h p) s (fun m => Answered m h 0 (le 8 (fld p 0 8)) ∧ m.mem = m1.mem ∧ m.image = m1.image ∧
          ((meshRuns m1 = false ∨ minUnmet m1 = 0) → m.units = m1.units ∧ m.mode = m1.mode))) ∧
      (∀ r, writeCheck (ownerHeard s.m h.port) .service (fld p 0 8) 8 (BitVec.ofNat 64 (fld p 8 8)) = .error r →
        Completes (.regWrite h p) s (fun m => Answered m h 0x0009 [] ∧ m.mem = s.m.mem ∧ m.image = s.m.image))) ∧
    (Taken s.m { ownMsg 0x0012 (tagLenOk p) with new := true } h p → fld p 1 1 = 1 →
      (∀ k i, fld p 0 1 = 1 → tagUnit (bslice p 8 36) = some (k, i) →
        Completes (.tagBulk h p) s (fun m => (unit m k i).tags = (List.range 4).map (fun j => BitVec.ofNat 64 (fld (bslice p 8 36) (4 + 8 * j) 8)) ∧
          ustate m k i = ustate s.m k i ∧ m.mem = s.m.mem ∧ Answered m h 0 (le 1 1 ++ le 1 1 ++ le 6 0))) ∧
      (∀ k i, fld p 0 1 = 0 → tagUnit (bslice p 8 4) = some (k, i) →
        Completes (.tagBulk h p) s (fun m => m.units = s.m.units ∧ m.mem = s.m.mem ∧
          Answered m h 0 (le 1 0 ++ le 1 1 ++ le 6 0 ++ (bslice p 8 4 ++ (unit s.m k i).tags.flatMap (fun w => le 8 w.toNat)))))) ∧
    (∀ off n, Taken s.m { ownMsg 0x0050 (p.length == 6) with stop := true } h p → fld p 0 4 = off → fld p 4 2 = n → 1 ≤ n → n ≤ 1008 →
      off < s.m.mode.dump.length →
      Completes (.dumpRead h p) s (fun m => m.mode = s.m.mode ∧ m.mem = s.m.mem ∧
        Answered m h 0 (le 4 off ++ le 4 s.m.mode.dump.length ++ bslice s.m.mode.dump off n)))) ∧
  (∀ (s : State) (h : SvcHdr) (p : Bytes),
    (answerFits s.m h p = true → Completes (.notifyAnswer h p) s (fun m => m.notes = s.m.notes.filter (fun n => n.seq == 0 || n.seq != h.seq.toNat) ∧
      m.svc.lastMsg = s.m.now ∧ m.mode = s.m.mode ∧ m.mem = s.m.mem)) ∧
    (∀ n, s.m.notes = [n] → resendDue s.m n = true → n.seq ≠ 0 →
      Completes .notifyResend s (fun m => m.notes = [{ n with sentAt := s.m.now, sends := n.sends + 1 }] ∧ m.out.length = s.m.out.length + 1 ∧
        m.mode = s.m.mode ∧ m.mem = s.m.mem)))

/-- Register commands (R9, R10, R40, R41, R45, R830): a write that the checks accept takes its effect, one that they refuse is refused for their
reason; a policy write sets the retry rate; an error record that is selected is shown; a read returns the register's value; a
UNIT_RESET with its key resets a unit that is Offline, Spare or Failed, which passes through Starting and is Offline a nanosecond later (its
time is the model's choice, log entry 43), and is refused in any other state, and one with any other value changes nothing; of a
service block the session owner resets it (R813). -/
def Obligations.RegisterCommands : Prop :=
  ∀ (s : State) (a : Actor), alive s.m = true →
    (∀ addr size v, (∀ m1, writeCheck s.m a addr.toNat size v = .ok m1 → exec (.registerWrite a addr size v) s = .next { s with m := lossCheck m1 }) ∧
      (∀ r, writeCheck s.m a addr.toNat size v = .error r →
        exec (.registerWrite a addr size v) s = .next { s with m := lossCheck (refuseAccess s.m a addr.toNat r) })) ∧
    (∀ v addr, privileged a = true → addr.toNat = regAddr 0 0 0x808 →
      Completes (.registerWrite a addr 8 v) s (fun m => m.errs.policy = bits v.toNat 15 0 ∧ m.mem = s.m.mem ∧ m.engs = s.m.engs)) ∧
    (∀ v r, privileged a = true → errFind s.m v.toNat = some r →
      Completes (.errSelect a v) s (fun m => m.errs.select = v.toNat ∧ m.errs.loaded = errBytes r ∧ m.mem = s.m.mem ∧ m.engs = s.m.engs)) ∧
    (∀ addr v m1, readCheck s.m a addr.toNat 8 = .ok (v, m1) → exec (.readAndClear a addr 8) s = .next { s with m := emit m1 (.ctlRead addr.toNat v) }) ∧
    (∀ (k : CrushId) v, privileged a = true → unitHasRole s.m 0x09 k.val = true →
      (resetKey v.toNat = true → resettable s.m 0x09 k.val = true →
        Completes (.unitReset a 9 (BitVec.ofNat 12 k.val) v) s (fun m => ustate m 0x09 k.val = .starting ∧
          tfind m.resets (ukey 0x09 k.val) = some .offline ∧ workUnit m 0 k.val = WorkUnit.reset ∧ m.mem = s.m.mem ∧ m.engs = s.m.engs))) ∧
    (∀ k i back, s.pending = [] → i < 65536 → tfind s.m.resets (ukey k i) = some back → back ≠ .starting → ustate s.m k i = .starting →
      step s = .next (idleTick s) ∧ ustate (idleTick s).m k i = back) ∧
    (∀ (k : Fin 16) (i : BitVec 12) v, privileged a = true → i.toNat < kindCount k.val → unitHasRole s.m k.val i.toNat = true → (k.val = 0x0E → a = .service) →
      (resetKey v.toNat = false → (meshRuns s.m = false ∨ minUnmet s.m = 0) → exec (.unitReset a k i v) s = .next s) ∧
      (resetKey v.toNat = true → resettable s.m k.val i.toNat = false →
        exec (.unitReset a k i v) s = .next { s with m := lossCheck (refuseAccess s.m a (regAddr k.val i.toNat 0x10) 5) }) ∧
      (resetKey v.toNat = true → resettable s.m k.val i.toNat = true →
        exec (.unitReset a k i v) s = .next { s with m := lossCheck (domReset (resetNow s.m k.val i.toNat) k.val i.toNat) }))

/-! ## Images, patches, flash and fuses (R84 to R141, R353 to R376) -/

/-- Staging and the loader's steps (R54, R111 to R118, R126, R128, R137, R367, R369): IMAGE_PUT stages bytes from offset 0 on; IMAGE_LOAD begins
Verifying; boot firmware reads the image of the flash; a full image that passes is the candidate and START is allowed, one that fails is
rejected with its cause; a bundle's outcome shows in PATCH_STATUS; a partial image that passes its check prepares, applies its sections in
order, and is active once the last stands, or is given up with cause 0x16 when its time is over. -/
def Obligations.Loading : Prop :=
  ∀ (s : State) (h : SvcHdr) (p : Bytes),
    (Taken s.m { ownMsg 0x0030 (decide (9 ≤ p.length)) with rom := true } h p → (fld p 0 1 = 1 ∨ fld p 0 1 = 2) →
      (fld p 4 4 = 0 → stageMode s.m = true → s.m.load.st = .idle → Completes (.imagePut h p) s (fun m => m.load = { s.m.load with
        st := .staging, stage := p.drop 8, target := fld p 0 1 } ∧ Answered m h 0 [] ∧ m.mode = s.m.mode ∧ m.mem = s.m.mem)) ∧
      (fld p 4 4 ≠ 0 → s.m.load.st = .staging → fld p 4 4 = s.m.load.stage.length → fld p 0 1 = s.m.load.target → fld p 4 4 + (p.length - 8) ≤ 0x400000 →
        Completes (.imagePut h p) s (fun m => m.load = { s.m.load with stage := s.m.load.stage ++ p.drop 8 } ∧ Answered m h 0 [] ∧ m.mem = s.m.mem))) ∧
    (Taken s.m (ownMsg 0x0031 (p.length == 4)) h p → s.m.load.st = .staging → s.m.load.target = 1 → fld p 0 1 = 0 → fld p 2 2 ≤ 10000 →
      Completes (.imageLoad h p) s (fun m => m.load.st = .verifying ∧ m.load.image = s.m.load.stage ∧ m.load.expect = 0 ∧ Answered m h 0 [] ∧
        m.mode = s.m.mode ∧ m.mem = s.m.mem)) ∧
    (s.m.mode.st = .bare → s.m.svc.released = true → s.m.svc.rom = false → s.m.load.st = .idle → s.m.load.candidate = none →
      let m1 := flashBundle s.fuse s.m (bothItems s.m 3)
      (∀ b, flashImage s.fuse m1 (bothItems m1 2) = some b → Completes .bootImageRead s (fun m => m.load.st = .verifying ∧ m.load.target = 1 ∧
        m.load.image = b ∧ m.load.stage = b ∧ m.mode = m1.mode ∧ m.mem = m1.mem))) ∧
    (alive s.m = true → s.m.load.st = .verifying → holding s.m = false →
      (s.m.load.target = 1 → verifyImage s.fuse s.m s.m.load.image s.m.load.expect = none → imgKind s.m.load.image = 0 →
        Completes .verifyComplete s (fun m => m.load.st = .verified ∧ m.load.candidate = some s.m.load.image ∧ m.mode.verified = true ∧ m.mem = s.m.mem)) ∧
      (∀ r, s.m.load.target = 1 → verifyImage s.fuse s.m s.m.load.image s.m.load.expect = some r →
        Completes .verifyComplete s (fun m => m.load.rejectN = sat 0xFFFF (s.m.load.rejectN + 1) ∧ m.load.rejectCause = r.cause ∧
          m.load.candidate = s.m.load.candidate ∧ m.mode = s.m.mode ∧ m.mem = s.m.mem)) ∧
      (∀ m1, s.m.load.target = 2 → bundleHold s.fuse s.m s.m.load.image false = .ok m1 →
        Completes .patchCheckComplete s (fun m => m.load.held = m1.load.held ∧ bits m.load.patchSt.toNat 1 0 = 1 ∧ m.mem = m1.mem)) ∧
      (∀ c, s.m.load.target = 2 → bundleHold s.fuse s.m s.m.load.image false = .error c →
        Completes .patchCheckComplete s (fun m => m.load.held = s.m.load.held ∧ bits m.load.patchSt.toNat 1 0 = 2 ∧
          bits m.load.patchSt.toNat 31 16 = c % 2 ^ 16 ∧ m.mem = s.m.mem))) ∧
    (∀ gone, s.m.load.st = .checking → s.m.mode.holdStart = none →
      checkFails s.m s.m.load.image (gone.map (fun r => (r.1.val, r.2.toNat))) = [] →
      (s.m.mode.st = .loading → imgKind s.m.load.image = 0 →
        exec (.checkComplete gone) s = .next { s with m := lossCheck (commitFull s.m s.m.load.image) }) ∧
      (unitsRun s.m = true → imgKind s.m.load.image ≠ 0 → Completes (.checkComplete gone) s (fun m => m.load.st = .preparing ∧ m.load.done = 0 ∧
        m.load.deadline = some (s.m.now + s.m.load.timeoutNs) ∧ m.image = s.m.image ∧ m.mem = s.m.mem))) ∧
    (unitsRun s.m = true → s.m.mode.holdStart = none →
      (s.m.load.st = .preparing → (namedRecs s.m.load.image).all (fun r => recReady s.m r.1 r.2) = true →
        Completes .prepareComplete s (fun m => m.load.st = .applying ∧ m.load.deadline = none ∧ m.image = s.m.image ∧ m.mem = s.m.mem)) ∧
      (∀ t, s.m.load.st = .preparing → s.m.load.deadline = some t → t ≤ s.m.now → (namedRecs s.m.load.image).any (fun r => !recReady s.m r.1 r.2) = true →
        Completes .quiesceTimeout s (fun m => m.load.st = .idle ∧ m.load.rejectCause = 0x0016 ∧ m.load.prior = [] ∧ m.image = s.m.image ∧
          m.mem = s.m.mem)) ∧
      (∀ e i off r, s.m.load.st = .applying → (dirEntries s.m.load.image)[s.m.load.done]? = some e → e.kind = 0x09 →
        entryRecords s.m.load.image e = [(i, off, r)] → s.m.load.done + 1 < imgEntries s.m.load.image →
        Completes .sectionApplied s (fun m => m.image = tset s.m.image (ukey 0x09 i) r ∧ m.load.done = s.m.load.done + 1 ∧ m.load.st = .applying ∧
          m.mem = s.m.mem)) ∧
      (s.m.load.st = .applying → imgEntries s.m.load.image ≤ s.m.load.done →
        Completes .sectionApplied s (fun m => m.load.st = .idle ∧ m.load.active = imageWord s.m.load.image ∧ m.image = s.m.image ∧ m.mem = s.m.mem)))

/-- Flash (R80, R81): a read answers the bytes; bytes written where the sectors are erased read back, and every other byte of the flash is as it
was; an erase makes its sectors 0xFF and is answered within 2 s for each sector (that the bytes change as it begins is the model's choice,
log entry 108). A flash that is not reached or a range beyond its size is refused.

FUSE_ARM (R73, R85, R86): in Bare, while no fuse is blown, a fuse that the module may blow is armed with a random challenge and no fuse changes; a code that it does not
blow, the revocation of the last slot of a kind among them, is refused; in another mode it is answered MODE, during a blow BUSY. The challenge is forgotten after 5 s. -/
def Obligations.FlashAndFuses : Prop :=
  (∀ (s : State) (h : SvcHdr) (p : Bytes),
    let hub := fld p 0 1
    let off := fld p 4 4
    let n := fld p 8 2
    (Taken s.m (flashMsg 0x0040 (p.length == 16)) h p → 1 ≤ n → n ≤ 1008 → flashRange s.m h.port hub off n = true →
      Completes (.flashRead h p) s (fun m => m.flash = s.m.flash ∧ m.mem = s.m.mem ∧
        Answered m h 0 (le 4 off ++ le 2 n ++ le 2 0 ++ flashRead (flash s.m hub) off n))) ∧
    (Taken s.m (flashMsg 0x0041 (decide (16 ≤ p.length) && p.length == 16 + fld p 8 2)) h p → 1 ≤ n → n ≤ 1008 →
      flashRange s.m h.port hub off n = true → cellsWf (flash s.m hub).cells = true → flashRead (flash s.m hub) off n = List.replicate n 0xFF →
      Completes (.flashWrite h p) s (fun m => flashRead (flash m hub) off n = p.drop 16 ∧ Answered m h 0 (le 4 off ++ le 2 n ++ le 2 0) ∧
        (∀ k, (k < off ∨ off + n ≤ k) → flashRead (flash m hub) k 1 = flashRead (flash s.m hub) k 1) ∧ m.mem = s.m.mem)) ∧
    (Taken s.m (flashMsg 0x0042 (p.length == 16)) h p → 1 ≤ n → n ≤ 64 → off % 0x10000 = 0 → flashRange s.m h.port hub off (0x10000 * n) = true →
      Completes (.flashErase h p none) s (fun m => m.mem = s.m.mem ∧
        (∃ x, m.svc.running = s.m.svc.running ++ [x] ∧ x.port = h.port ∧ x.seq = h.seq.toNat ∧ x.type = h.type.toNat ∧ x.status = 0 ∧
          x.body = le 4 off ++ le 2 n ++ le 2 0 ∧ x.blow = false ∧ s.m.now ≤ x.till ∧ x.till ≤ s.m.now + 2000000000 * n) ∧
        (∀ k, off ≤ k → k < off + 0x10000 * n → flashRead (flash m hub) k 1 = [0xFF]) ∧
        (cellsWf (flash s.m hub).cells = true → ∀ k, (k < off ∨ off + 0x10000 * n ≤ k) → flashRead (flash m hub) k 1 = flashRead (flash s.m hub) k 1))) ∧
    (Taken s.m (flashMsg 0x0040 (p.length == 16)) h p → flashRange s.m h.port hub off n = false →
      Completes (.flashRead h p) s (fun m => m.flash = s.m.flash ∧ Answered m h 0x0009 []))) ∧
  (∀ (s : State) (h : SvcHdr) (p : Bytes),
    (Taken s.m (ownMsg 0x0070 (p.length == 8)) h p →
      (s.m.mode.st ≠ .bare → Completes (.fuseArm h p) s (fun m => m.svc.armed = s.m.svc.armed ∧ Answered m h 0x0007 [])) ∧
      (s.m.mode.st = .bare → blowing s.m = true → Completes (.fuseArm h p) s (fun m => m.svc.armed = s.m.svc.armed ∧ Answered m h 0x0008 [])) ∧
      (s.m.mode.st = .bare → blowing s.m = false → fuseCodeGood s.fuse (fld p 0 1) = true →
        Completes (.fuseArm h p) s (fun m => ∃ v, m.svc.armed = some (fld p 0 1, v, s.m.now) ∧ v < 2 ^ 32 ∧
          Answered m h 0 (le 4 v ++ le 4 0) ∧ m.mode = s.m.mode ∧ m.mem = s.m.mem)) ∧
      (s.m.mode.st = .bare → blowing s.m = false → fuseCodeGood s.fuse (fld p 0 1) = false →
        Completes (.fuseArm h p) s (fun m => m.svc.armed = none ∧ Answered m h 0x0009 []))) ∧
    (∀ c v t, s.m.svc.armed = some (c, v, t) → t + 5000000000 < s.m.now →
      exec .fuseArmExpiry s = .next { s with m := { s.m with svc := { s.m.svc with armed := some (0, 0, t) } } }))
end

