-- ==== Sys2Proof/Laws/Dispatch.lean ====
section
/-! SUPPORT. What exec answers to each command, as the meaning of that command. -/

namespace Sys2Proof.Machine

variable (s : State)

@[simp] theorem exec_powerOnReset : exec .powerOnReset s = execPowerOnReset s := rfl
@[simp] theorem exec_mrstNReset : exec .mrstNReset s = execMrstNReset s := rfl
@[simp] theorem exec_pwrgdAoFall : exec .pwrgdAoFall s = execPwrgdAoFall s := rfl
@[simp] theorem exec_pwrgdMainFall : exec .pwrgdMainFall s = execPwrgdMainFall s := rfl
@[simp] theorem exec_serviceDomainRelease : exec .serviceDomainRelease s = execServiceDomainRelease s := rfl
@[simp] theorem exec_bootImageRead : exec .bootImageRead s = execBootImageRead s := rfl
@[simp] theorem exec_hello (h : SvcHdr) (p : Bytes) : exec (.hello h p) s = execHello h p s := rfl
@[simp] theorem exec_sessionOpen (h : SvcHdr) (p : Bytes) : exec (.sessionOpen h p) s = execSessionOpen h p s := rfl
@[simp] theorem exec_sessionClose (h : SvcHdr) (p : Bytes) : exec (.sessionClose h p) s = execSessionClose h p s := rfl
@[simp] theorem exec_keepalive (h : SvcHdr) (p : Bytes) : exec (.keepalive h p) s = execKeepalive h p s := rfl
@[simp] theorem exec_handoverPrepare (h : SvcHdr) (p : Bytes) : exec (.handoverPrepare h p) s = execHandoverPrepare h p s := rfl
@[simp] theorem exec_sessionLapse : exec .sessionLapse s = execSessionLapse s := rfl
@[simp] theorem exec_handoverTokenExpiry : exec .handoverTokenExpiry s = execHandoverTokenExpiry s := rfl
@[simp] theorem exec_regRead (h : SvcHdr) (p : Bytes) : exec (.regRead h p) s = execRegRead h p s := rfl
@[simp] theorem exec_regWrite (h : SvcHdr) (p : Bytes) : exec (.regWrite h p) s = execRegWrite h p s := rfl
@[simp] theorem exec_tagBulk (h : SvcHdr) (p : Bytes) : exec (.tagBulk h p) s = execTagBulk h p s := rfl
@[simp] theorem exec_start (h : SvcHdr) (p : Bytes) : exec (.start h p) s = execStart h p s := rfl
@[simp] theorem exec_moduleReset (h : SvcHdr) (p : Bytes) : exec (.moduleReset h p) s = execModuleReset h p s := rfl
@[simp] theorem exec_holdEnter (h : SvcHdr) (p : Bytes) : exec (.holdEnter h p) s = execHoldEnter h p s := rfl
@[simp] theorem exec_holdEntryComplete : exec .holdEntryComplete s = execHoldEntryComplete s := rfl
@[simp] theorem exec_holdExit (h : SvcHdr) (p : Bytes) : exec (.holdExit h p) s = execHoldExit h p s := rfl
@[simp] theorem exec_holdExitComplete : exec .holdExitComplete s = execHoldExitComplete s := rfl
@[simp] theorem exec_testEnter (h : SvcHdr) (p : Bytes) : exec (.testEnter h p) s = execTestEnter h p s := rfl
@[simp] theorem exec_testExit (h : SvcHdr) (p : Bytes) : exec (.testExit h p) s = execTestExit h p s := rfl
@[simp] theorem exec_imagePut (h : SvcHdr) (p : Bytes) : exec (.imagePut h p) s = execImagePut h p s := rfl
@[simp] theorem exec_imageLoad (h : SvcHdr) (p : Bytes) : exec (.imageLoad h p) s = execImageLoad h p s := rfl
@[simp] theorem exec_flashRead (h : SvcHdr) (p : Bytes) : exec (.flashRead h p) s = execFlashRead h p s := rfl
@[simp] theorem exec_flashWrite (h : SvcHdr) (p : Bytes) : exec (.flashWrite h p) s = execFlashWrite h p s := rfl
@[simp] theorem exec_flashErase (h : SvcHdr) (p : Bytes) (failAt : Option Nat) : exec (.flashErase h p failAt) s = execFlashErase h p failAt s := rfl
@[simp] theorem exec_dumpRead (h : SvcHdr) (p : Bytes) : exec (.dumpRead h p) s = execDumpRead h p s := rfl
@[simp] theorem exec_notifyAnswer (h : SvcHdr) (p : Bytes) : exec (.notifyAnswer h p) s = execNotifyAnswer h p s := rfl
@[simp] theorem exec_notifyResend : exec .notifyResend s = execNotifyResend s := rfl
@[simp] theorem exec_fuseArm (h : SvcHdr) (p : Bytes) : exec (.fuseArm h p) s = execFuseArm h p s := rfl
@[simp] theorem exec_fuseConfirm (h : SvcHdr) (p : Bytes) : exec (.fuseConfirm h p) s = execFuseConfirm h p s := rfl
@[simp] theorem exec_fuseArmExpiry : exec .fuseArmExpiry s = execFuseArmExpiry s := rfl
@[simp] theorem exec_trainingEnd (r : TrainResult) : exec (.trainingEnd r) s = execTrainingEnd r s := rfl
@[simp] theorem exec_verifyComplete : exec .verifyComplete s = execVerifyComplete s := rfl
@[simp] theorem exec_patchCheckComplete : exec .patchCheckComplete s = execPatchCheckComplete s := rfl
@[simp] theorem exec_checkComplete (absent : List (Fin 19 × BitVec 16)) : exec (.checkComplete absent) s = execCheckComplete absent s := rfl
@[simp] theorem exec_prepareComplete : exec .prepareComplete s = execPrepareComplete s := rfl
@[simp] theorem exec_quiesceTimeout : exec .quiesceTimeout s = execQuiesceTimeout s := rfl
@[simp] theorem exec_sectionApplied : exec .sectionApplied s = execSectionApplied s := rfl
@[simp] theorem exec_reworkComplete : exec .reworkComplete s = execReworkComplete s := rfl
@[simp] theorem exec_registerWrite (a : Actor) (addr : BitVec 52) (size : Nat) (v : Word) : exec (.registerWrite a addr size v) s = execRegisterWrite a addr size v s := rfl
@[simp] theorem exec_readAndClear (a : Actor) (addr : BitVec 52) (size : Nat) : exec (.readAndClear a addr size) s = execReadAndClear a addr size s := rfl
@[simp] theorem exec_unitReset (a : Actor) (kind : Fin 16) (index : BitVec 12) (v : Word) : exec (.unitReset a kind index v) s = execUnitReset a kind index v s := rfl
@[simp] theorem exec_microcodeLoad (u : StoreUnit) (readBack : Option (Fin 256)) : exec (.microcodeLoad u readBack) s = execMicrocodeLoad u readBack s := rfl
@[simp] theorem exec_leaseSettAdd (a : Actor) (l : LeaseId) (v : Word) : exec (.leaseSettAdd a l v) s = execLeaseSettAdd a l v s := rfl
@[simp] theorem exec_crangeClean (a : Actor) (inclLocked : Bool) : exec (.crangeClean a inclLocked) s = execCrangeClean a inclLocked s := rfl
@[simp] theorem exec_crangeInvalidate (a : Actor) (inclLocked : Bool) : exec (.crangeInvalidate a inclLocked) s = execCrangeInvalidate a inclLocked s := rfl
@[simp] theorem exec_crangeCleanInvalidate (a : Actor) (inclLocked : Bool) : exec (.crangeCleanInvalidate a inclLocked) s = execCrangeCleanInvalidate a inclLocked s := rfl
@[simp] theorem exec_crangeZero (a : Actor) (inclLocked : Bool) : exec (.crangeZero a inclLocked) s = execCrangeZero a inclLocked s := rfl
@[simp] theorem exec_setwayClean (a : Actor) (u : MaintUnit) (v : SetWay) : exec (.setwayClean a u v) s = execSetwayClean a u v s := rfl
@[simp] theorem exec_setwayInvalidate (a : Actor) (u : MaintUnit) (v : SetWay) : exec (.setwayInvalidate a u v) s = execSetwayInvalidate a u v s := rfl
@[simp] theorem exec_setwayCleanInvalidate (a : Actor) (u : MaintUnit) (v : SetWay) : exec (.setwayCleanInvalidate a u v) s = execSetwayCleanInvalidate a u v s := rfl
@[simp] theorem exec_maintenanceComplete (u : MaintUnit) : exec (.maintenanceComplete u) s = execMaintenanceComplete u s := rfl
@[simp] theorem exec_cacheDisable (a : Actor) (c : CacheId) : exec (.cacheDisable a c) s = execCacheDisable a c s := rfl
@[simp] theorem exec_cacheEnable (a : Actor) (c : CacheId) : exec (.cacheEnable a c) s = execCacheEnable a c s := rfl
@[simp] theorem exec_disablingComplete (c : CacheId) : exec (.disablingComplete c) s = execDisablingComplete c s := rfl
@[simp] theorem exec_wayLock (a : Actor) (b : BenchId) (mask : Byte) : exec (.wayLock a b mask) s = execWayLock a b mask s := rfl
@[simp] theorem exec_mchRetrain (a : Actor) (m : ChanId) : exec (.mchRetrain a m) s = execMchRetrain a m s := rfl
@[simp] theorem exec_mchOffline (a : Actor) (m : ChanId) : exec (.mchOffline a m) s = execMchOffline a m s := rfl
@[simp] theorem exec_mchOfflineForce (a : Actor) (m : ChanId) : exec (.mchOfflineForce a m) s = execMchOfflineForce a m s := rfl
@[simp] theorem exec_mchPowerOff (a : Actor) (m : ChanId) : exec (.mchPowerOff a m) s = execMchPowerOff a m s := rfl
@[simp] theorem exec_mchPowerOn (a : Actor) (m : ChanId) : exec (.mchPowerOn a m) s = execMchPowerOn a m s := rfl
@[simp] theorem exec_mchOnline (a : Actor) (m : ChanId) : exec (.mchOnline a m) s = execMchOnline a m s := rfl
@[simp] theorem exec_pathOnline (a : Actor) (p : PathId) : exec (.pathOnline a p) s = execPathOnline a p s := rfl
@[simp] theorem exec_pathOffline (a : Actor) (p : PathId) : exec (.pathOffline a p) s = execPathOffline a p s := rfl
@[simp] theorem exec_cpOffline (a : Actor) (c : CpId) : exec (.cpOffline a c) s = execCpOffline a c s := rfl
@[simp] theorem exec_cpOnline (a : Actor) (c : CpId) : exec (.cpOnline a c) s = execCpOnline a c s := rfl
@[simp] theorem exec_linkOnline (a : Actor) (l : LinkId) : exec (.linkOnline a l) s = execLinkOnline a l s := rfl
@[simp] theorem exec_linkOffline (a : Actor) (l : LinkId) : exec (.linkOffline a l) s = execLinkOffline a l s := rfl
@[simp] theorem exec_crusherOnline (a : Actor) (k : CrushId) : exec (.crusherOnline a k) s = execCrusherOnline a k s := rfl
@[simp] theorem exec_crusherOffline (a : Actor) (k : CrushId) : exec (.crusherOffline a k) s = execCrusherOffline a k s := rfl
@[simp] theorem exec_crusherDrained (k : CrushId) : exec (.crusherDrained k) s = execCrusherDrained k s := rfl
@[simp] theorem exec_cipherOnline (a : Actor) (x : CiphId) : exec (.cipherOnline a x) s = execCipherOnline a x s := rfl
@[simp] theorem exec_cipherOffline (a : Actor) (x : CiphId) : exec (.cipherOffline a x) s = execCipherOffline a x s := rfl
@[simp] theorem exec_leaseCreate (a : Actor) (l : LeaseId) : exec (.leaseCreate a l) s = execLeaseCreate a l s := rfl
@[simp] theorem exec_leaseStart (a : Actor) (l : LeaseId) : exec (.leaseStart a l) s = execLeaseStart a l s := rfl
@[simp] theorem exec_leaseQuiesce (a : Actor) (l : LeaseId) : exec (.leaseQuiesce a l) s = execLeaseQuiesce a l s := rfl
@[simp] theorem exec_leaseResume (a : Actor) (l : LeaseId) : exec (.leaseResume a l) s = execLeaseResume a l s := rfl
@[simp] theorem exec_leaseReset (a : Actor) (l : LeaseId) (key : BitVec 16) : exec (.leaseReset a l key) s = execLeaseReset a l key s := rfl
@[simp] theorem exec_leaseForcedReset (a : Actor) (l : LeaseId) (key : BitVec 16) : exec (.leaseForcedReset a l key) s = execLeaseForcedReset a l key s := rfl
@[simp] theorem exec_leaseRemove (a : Actor) (l : LeaseId) (key : BitVec 16) : exec (.leaseRemove a l key) s = execLeaseRemove a l key s := rfl
@[simp] theorem exec_leaseCmdReserved (a : Actor) (l : LeaseId) (key : BitVec 16) (code : BitVec 4) : exec (.leaseCmdReserved a l key code) s = execLeaseCmdReserved a l key code s := rfl
@[simp] theorem exec_leasePendingCleared (l : LeaseId) : exec (.leasePendingCleared l) s = execLeasePendingCleared l s := rfl
@[simp] theorem exec_leaseSpawn (a : Actor) (l : LeaseId) (v : Word) : exec (.leaseSpawn a l v) s = execLeaseSpawn a l v s := rfl
@[simp] theorem exec_leaseTlbInval (a : Actor) (l : LeaseId) (v : Word) : exec (.leaseTlbInval a l v) s = execLeaseTlbInval a l v s := rfl
@[simp] theorem exec_tlbInvalComplete (l : LeaseId) : exec (.tlbInvalComplete l) s = execTlbInvalComplete l s := rfl
@[simp] theorem exec_chnJrnMove (a : Actor) (v : Word) : exec (.chnJrnMove a v) s = execChnJrnMove a v s := rfl
@[simp] theorem exec_journalMoveComplete : exec .journalMoveComplete s = execJournalMoveComplete s := rfl
@[simp] theorem exec_chnSumpReplace (a : Actor) (v : Word) : exec (.chnSumpReplace a v) s = execChnSumpReplace a v s := rfl
@[simp] theorem exec_pcieCfgRead (a : Actor) (p : PcieId) (answer : Option (BitVec 32)) : exec (.pcieCfgRead a p answer) s = execPcieCfgRead a p answer s := rfl
@[simp] theorem exec_pcieCfgWrite (a : Actor) (p : PcieId) (v : Word) (done : Bool) : exec (.pcieCfgWrite a p v done) s = execPcieCfgWrite a p v done s := rfl
@[simp] theorem exec_tsSet (a : Actor) (hub : HubId) (v : Word) : exec (.tsSet a hub v) s = execTsSet a hub v s := rfl
@[simp] theorem exec_tsAdj (a : Actor) (hub : HubId) (v : Word) : exec (.tsAdj a hub v) s = execTsAdj a hub v s := rfl
@[simp] theorem exec_errSelect (a : Actor) (v : Word) : exec (.errSelect a v) s = execErrSelect a v s := rfl
@[simp] theorem exec_bundleIssue (e : EngineId) (check : Option (Fin 4)) (fix : Option (Fin 256)) : exec (.bundleIssue e check fix) s = execBundleIssue e check fix s := rfl
@[simp] theorem exec_fetchLineArrival (e : EngineId) : exec (.fetchLineArrival e) s = execFetchLineArrival e s := rfl
@[simp] theorem exec_translationComplete (e : EngineId) : exec (.translationComplete e) s = execTranslationComplete e s := rfl
@[simp] theorem exec_operationComplete (e : EngineId) (l : LevelId) (u : QUnit) : exec (.operationComplete e l u) s = execOperationComplete e l u s := rfl
@[simp] theorem exec_loadComplete (e : EngineId) (op : Nat) : exec (.loadComplete e op) s = execLoadComplete e op s := rfl
@[simp] theorem exec_storeComplete (e : EngineId) (op : Nat) : exec (.storeComplete e op) s = execStoreComplete e op s := rfl
@[simp] theorem exec_atomicComplete (e : EngineId) (op : Nat) : exec (.atomicComplete e op) s = execAtomicComplete e op s := rfl
@[simp] theorem exec_macFetchComplete (e : EngineId) (op : Nat) : exec (.macFetchComplete e op) s = execMacFetchComplete e op s := rfl
@[simp] theorem exec_dstkFillComplete (e : EngineId) (l : LevelId) : exec (.dstkFillComplete e l) s = execDstkFillComplete e l s := rfl
@[simp] theorem exec_rstkSpillComplete (e : EngineId) (l : LevelId) : exec (.rstkSpillComplete e l) s = execRstkSpillComplete e l s := rfl
@[simp] theorem exec_rstkFillComplete (e : EngineId) (l : LevelId) : exec (.rstkFillComplete e l) s = execRstkFillComplete e l s := rfl
@[simp] theorem exec_saveComplete (e : EngineId) (l : LevelId) : exec (.saveComplete e l) s = execSaveComplete e l s := rfl
@[simp] theorem exec_cxRoutineEnd (e : EngineId) (l : LevelId) (err : Option StoreErr) : exec (.cxRoutineEnd e l err) s = execCxRoutineEnd e l err s := rfl
@[simp] theorem exec_microTrap (e : EngineId) (l : LevelId) (check : Option (Fin 4)) : exec (.microTrap e l check) s = execMicroTrap e l check s := rfl
@[simp] theorem exec_microTimingOverrun (u : StoreUnit) (cycles : BitVec 16) : exec (.microTimingOverrun u cycles) s = execMicroTimingOverrun u cycles s := rfl
@[simp] theorem exec_ringAnswer (e : EngineId) (l : LevelId) : exec (.ringAnswer e l) s = execRingAnswer e l s := rfl
@[simp] theorem exec_timerExpiry (e : EngineId) (l : LevelId) (t : Fin 2) : exec (.timerExpiry e l t) s = execTimerExpiry e l t s := rfl
@[simp] theorem exec_waitGraceExpiry (e : EngineId) (l : LevelId) : exec (.waitGraceExpiry e l) s = execWaitGraceExpiry e l s := rfl
@[simp] theorem exec_displacement (e : EngineId) (l : LevelId) : exec (.displacement e l) s = execDisplacement e l s := rfl
@[simp] theorem exec_savingComplete (e : EngineId) (l : LevelId) : exec (.savingComplete e l) s = execSavingComplete e l s := rfl
@[simp] theorem exec_taskEnd (e : EngineId) (l : LevelId) : exec (.taskEnd e l) s = execTaskEnd e l s := rfl
@[simp] theorem exec_queueEntryDispatch (b : BenchId) : exec (.queueEntryDispatch b) s = execQueueEntryDispatch b s := rfl
@[simp] theorem exec_stealProbe (e : EngineId) : exec (.stealProbe e) s = execStealProbe e s := rfl
@[simp] theorem exec_stealCommit (e : EngineId) : exec (.stealCommit e) s = execStealCommit e s := rfl
@[simp] theorem exec_idleReprobe (e : EngineId) : exec (.idleReprobe e) s = execIdleReprobe e s := rfl
@[simp] theorem exec_waitTableTimer (b : BenchId) : exec (.waitTableTimer b) s = execWaitTableTimer b s := rfl
@[simp] theorem exec_queuePlaceFreed (b : BenchId) : exec (.queuePlaceFreed b) s = execQueuePlaceFreed b s := rfl
@[simp] theorem exec_stockRefill (b : BenchId) (l : LeaseId) : exec (.stockRefill b l) s = execStockRefill b l s := rfl
@[simp] theorem exec_dirtyAgeClean (b : BenchId) (n : LineNo) : exec (.dirtyAgeClean b n) s = execDirtyAgeClean b n s := rfl
@[simp] theorem exec_cacheScrub (c : CacheId) (n : LineNo) (err : ArrayErr) : exec (.cacheScrub c n err) s = execCacheScrub c n err s := rfl
@[simp] theorem exec_rds (n : LineNo) (b : BenchId) (lease : LeaseId) : exec (.rds n b lease) s = execRds n b lease s := rfl
@[simp] theorem exec_rdx (n : LineNo) (b : BenchId) (lease : LeaseId) : exec (.rdx n b lease) s = execRdx n b lease s := rfl
@[simp] theorem exec_upg (n : LineNo) (b : BenchId) (lease : LeaseId) : exec (.upg n b lease) s = execUpg n b lease s := rfl
@[simp] theorem exec_mntc (n : LineNo) (src : Source) (lease : LeaseId) (self incl : Bool) : exec (.mntc n src lease self incl) s = execMntc n src lease self incl s := rfl
@[simp] theorem exec_mnti (n : LineNo) (src : Source) (lease : LeaseId) (self incl : Bool) : exec (.mnti n src lease self incl) s = execMnti n src lease self incl s := rfl
@[simp] theorem exec_mntci (n : LineNo) (src : Source) (lease : LeaseId) (self incl : Bool) : exec (.mntci n src lease self incl) s = execMntci n src lease self incl s := rfl
@[simp] theorem exec_iord (n : LineNo) (src : Source) (lease : LeaseId) : exec (.iord n src lease) s = execIord n src lease s := rfl
@[simp] theorem exec_iowr (n : LineNo) (src : Source) (lease : LeaseId) (mask : BitVec 256) (d : Line) (poison : Bool) : exec (.iowr n src lease mask d poison) s = execIowr n src lease mask d poison s := rfl
@[simp] theorem exec_wbm (n : LineNo) (b : BenchId) (d : Line) (poison : Bool) : exec (.wbm n b d poison) s = execWbm n b d poison s := rfl
@[simp] theorem exec_eve (n : LineNo) (b : BenchId) (d : Line) (poison : Bool) : exec (.eve n b d poison) s = execEve n b d poison s := rfl
@[simp] theorem exec_done (n : LineNo) (b : BenchId) : exec (.done n b) s = execDone n b s := rfl
@[simp] theorem exec_snps (b : BenchId) (n : LineNo) : exec (.snps b n) s = execSnps b n s := rfl
@[simp] theorem exec_snpx (b : BenchId) (n : LineNo) (maint incl : Bool) : exec (.snpx b n maint incl) s = execSnpx b n maint incl s := rfl
@[simp] theorem exec_snpcln (b : BenchId) (n : LineNo) : exec (.snpcln b n) s = execSnpcln b n s := rfl
@[simp] theorem exec_snpdrop (b : BenchId) (n : LineNo) (maint incl : Bool) : exec (.snpdrop b n maint incl) s = execSnpdrop b n maint incl s := rfl
@[simp] theorem exec_rspi (n : LineNo) (b : BenchId) : exec (.rspi n b) s = execRspi n b s := rfl
@[simp] theorem exec_rspk (n : LineNo) (b : BenchId) : exec (.rspk n b) s = execRspk n b s := rfl
@[simp] theorem exec_rspd (n : LineNo) (b : BenchId) (d : Line) (poison : Bool) : exec (.rspd n b d poison) s = execRspd n b d poison s := rfl
@[simp] theorem exec_rspc (n : LineNo) (b : BenchId) (d : Line) (poison : Bool) : exec (.rspc n b d poison) s = execRspc n b d poison s := rfl
@[simp] theorem exec_rspdo (n : LineNo) (b : BenchId) (d : Line) (poison : Bool) : exec (.rspdo n b d poison) s = execRspdo n b d poison s := rfl
@[simp] theorem exec_rspcs (n : LineNo) (b : BenchId) (d : Line) (poison : Bool) : exec (.rspcs n b d poison) s = execRspcs n b d poison s := rfl
@[simp] theorem exec_rspds (n : LineNo) (b : BenchId) (d : Line) (poison : Bool) : exec (.rspds n b d poison) s = execRspds n b d poison s := rfl
@[simp] theorem exec_rspde (n : LineNo) (b : BenchId) (d : Line) (poison : Bool) : exec (.rspde n b d poison) s = execRspde n b d poison s := rfl
@[simp] theorem exec_datas (b : BenchId) (n : LineNo) (d : Line) (poison : Bool) : exec (.datas b n d poison) s = execDatas b n d poison s := rfl
@[simp] theorem exec_datae (b : BenchId) (n : LineNo) (d : Line) (poison : Bool) : exec (.datae b n d poison) s = execDatae b n d poison s := rfl
@[simp] theorem exec_datam (b : BenchId) (n : LineNo) (d : Line) (poison : Bool) : exec (.datam b n d poison) s = execDatam b n d poison s := rfl
@[simp] theorem exec_grantm (b : BenchId) (n : LineNo) : exec (.grantm b n) s = execGrantm b n s := rfl
@[simp] theorem exec_wback (b : BenchId) (n : LineNo) : exec (.wback b n) s = execWback b n s := rfl
@[simp] theorem exec_wbstale (b : BenchId) (n : LineNo) : exec (.wbstale b n) s = execWbstale b n s := rfl
@[simp] theorem exec_iodata (src : Source) (n : LineNo) (d : Line) (poison : Bool) : exec (.iodata src n d poison) s = execIodata src n d poison s := rfl
@[simp] theorem exec_ioack (src : Source) (n : LineNo) : exec (.ioack src n) s = execIoack src n s := rfl
@[simp] theorem exec_mntack (src : Source) (n : LineNo) : exec (.mntack src n) s = execMntack src n s := rfl
@[simp] theorem exec_mir (h : HomeId) (n : LineNo) (d : Line) (poison : Bool) : exec (.mir h n d poison) s = execMir h n d poison s := rfl
@[simp] theorem exec_mirrel (h : HomeId) (n : LineNo) : exec (.mirrel h n) s = execMirrel h n s := rfl
@[simp] theorem exec_mirack (n : LineNo) : exec (.mirack n) s = execMirack n s := rfl
@[simp] theorem exec_hrReadReturn (n : LineNo) : exec (.hrReadReturn n) s = execHrReadReturn n s := rfl
@[simp] theorem exec_hwWriteComplete (n : LineNo) : exec (.hwWriteComplete n) s = execHwWriteComplete n s := rfl
@[simp] theorem exec_tenureEnd (b : BenchId) (n : LineNo) : exec (.tenureEnd b n) s = execTenureEnd b n s := rfl
@[simp] theorem exec_snoopTimeout (n : LineNo) : exec (.snoopTimeout n) s = execSnoopTimeout n s := rfl
@[simp] theorem exec_homeLost (b : BenchId) (h : HomeId) : exec (.homeLost b h) s = execHomeLost b h s := rfl
@[simp] theorem exec_takeoverReport (h : HomeId) (b : BenchId) (n : LineNo) (r : Report) : exec (.takeoverReport h b n r) s = execTakeoverReport h b n r s := rfl
@[simp] theorem exec_shareOpen (h : HomeId) : exec (.shareOpen h) s = execShareOpen h s := rfl
@[simp] theorem exec_memRead (m : ChanId) (sub : Fin 2) (ecc : PieceEcc) : exec (.memRead m sub ecc) s = execMemRead m sub ecc s := rfl
@[simp] theorem exec_memWrite (m : ChanId) (sub : Fin 2) (parity : Bool) : exec (.memWrite m sub parity) s = execMemWrite m sub parity s := rfl
@[simp] theorem exec_commandTimeout (m : ChanId) : exec (.commandTimeout m) s = execCommandTimeout m s := rfl
@[simp] theorem exec_rebuildRequest (sm : SeamId) (bad : Option (Fin 5)) : exec (.rebuildRequest sm bad) s = execRebuildRequest sm bad s := rfl
@[simp] theorem exec_seamRebuildComplete (sm : SeamId) : exec (.seamRebuildComplete sm) s = execSeamRebuildComplete sm s := rfl
@[simp] theorem exec_retrainDue (m : ChanId) (temp : Byte) : exec (.retrainDue m temp) s = execRetrainDue m temp s := rfl
@[simp] theorem exec_retrainComplete (m : ChanId) (lanes : List Lane) : exec (.retrainComplete m lanes) s = execRetrainComplete m lanes s := rfl
@[simp] theorem exec_catchUpComplete (sm : SeamId) : exec (.catchUpComplete sm) s = execCatchUpComplete sm s := rfl
@[simp] theorem exec_refreshDue (m : ChanId) (sub : Fin 2) : exec (.refreshDue m sub) s = execRefreshDue m sub s := rfl
@[simp] theorem exec_selfRefreshExit (m : ChanId) : exec (.selfRefreshExit m) s = execSelfRefreshExit m s := rfl
@[simp] theorem exec_rowIdleClose (m : ChanId) (sub : Fin 2) (bank : Nat) : exec (.rowIdleClose m sub bank) s = execRowIdleClose m sub bank s := rfl
@[simp] theorem exec_memoryScrub (m : ChanId) (n : LineNo) (ecc : PieceEcc) : exec (.memoryScrub m n ecc) s = execMemoryScrub m n ecc s := rfl
@[simp] theorem exec_journalEntryWritten (t : SlotId) : exec (.journalEntryWritten t) s = execJournalEntryWritten t s := rfl
@[simp] theorem exec_txnIssue (t : SlotId) : exec (.txnIssue t) s = execTxnIssue t s := rfl
@[simp] theorem exec_txnSent (t : SlotId) : exec (.txnSent t) s = execTxnSent t s := rfl
@[simp] theorem exec_nvmeCompletion (p : PathId) (t : SlotId) (step : Fin 64) (status : BitVec 16) (gen : BitVec 16) (data : Bytes) : exec (.nvmeCompletion p t step status gen data) s = execNvmeCompletion p t step status gen data s := rfl
@[simp] theorem exec_issueDeadlineExpiry (t : SlotId) : exec (.issueDeadlineExpiry t) s = execIssueDeadlineExpiry t s := rfl
@[simp] theorem exec_partnerWaitExpiry (t : SlotId) : exec (.partnerWaitExpiry t) s = execPartnerWaitExpiry t s := rfl
@[simp] theorem exec_completionWaitExpiry (t : SlotId) : exec (.completionWaitExpiry t) s = execCompletionWaitExpiry t s := rfl
@[simp] theorem exec_pathFailure (p : PathId) (reason : Byte) : exec (.pathFailure p reason) s = execPathFailure p reason s := rfl
@[simp] theorem exec_txnCompletionRecord (t : SlotId) : exec (.txnCompletionRecord t) s = execTxnCompletionRecord t s := rfl
@[simp] theorem exec_sumpSpaceAvailable : exec .sumpSpaceAvailable s = execSumpSpaceAvailable s := rfl
@[simp] theorem exec_establishTimeout (p : PathId) : exec (.establishTimeout p) s = execEstablishTimeout p s := rfl
@[simp] theorem exec_pathDrained (p : PathId) : exec (.pathDrained p) s = execPathDrained p s := rfl
@[simp] theorem exec_nvmeControllerReset (p : PathId) : exec (.nvmeControllerReset p) s = execNvmeControllerReset p s := rfl
@[simp] theorem exec_nvmeReady (p : PathId) (ident : NvmeIdent) : exec (.nvmeReady p ident) s = execNvmeReady p ident s := rfl
@[simp] theorem exec_nvmeReadyTimeout (p : PathId) : exec (.nvmeReadyTimeout p) s = execNvmeReadyTimeout p s := rfl
@[simp] theorem exec_cpFailure (c : CpId) : exec (.cpFailure c) s = execCpFailure c s := rfl
@[simp] theorem exec_frameReceive (l : LinkId) (frame : Bytes) (fcsGood : Bool) : exec (.frameReceive l frame fcsGood) s = execFrameReceive l frame fcsGood s := rfl
@[simp] theorem exec_frameTransmit (l : LinkId) : exec (.frameTransmit l) s = execFrameTransmit l s := rfl
@[simp] theorem exec_coalesceTimeout (l : LeaseId) (q : Fin 16) : exec (.coalesceTimeout l q) s = execCoalesceTimeout l q s := rfl
@[simp] theorem exec_linkUp (l : LinkId) : exec (.linkUp l) s = execLinkUp l s := rfl
@[simp] theorem exec_trainingAttemptTimeout (l : LinkId) : exec (.trainingAttemptTimeout l) s = execTrainingAttemptTimeout l s := rfl
@[simp] theorem exec_linkDown (l : LinkId) : exec (.linkDown l) s = execLinkDown l s := rfl
@[simp] theorem exec_pauseRepeat (l : LinkId) : exec (.pauseRepeat l) s = execPauseRepeat l s := rfl
@[simp] theorem exec_pcieDmaRequest (p : PcieId) (rid : BitVec 16) (write : Bool) (addr : Word) (len : Nat) (data : Bytes) : exec (.pcieDmaRequest p rid write addr len data) s = execPcieDmaRequest p rid write addr len data s := rfl
@[simp] theorem exec_msixMessage (p : PcieId) (rid : BitVec 16) (addr : Word) (data : BitVec 32) : exec (.msixMessage p rid addr data) s = execMsixMessage p rid addr data s := rfl
@[simp] theorem exec_pcieLinkDown (p : PcieId) (j : Fin 4) (aer : Option (BitVec 32)) : exec (.pcieLinkDown p j aer) s = execPcieLinkDown p j aer s := rfl
@[simp] theorem exec_capReq (p : PathId) (datagram : Bytes) (checksumGood : Bool) : exec (.capReq p datagram checksumGood) s = execCapReq p datagram checksumGood s := rfl
@[simp] theorem exec_capReqResend (p : PathId) : exec (.capReqResend p) s = execCapReqResend p s := rfl
@[simp] theorem exec_capRsp (p : PathId) (datagram : Bytes) (checksumGood : Bool) : exec (.capRsp p datagram checksumGood) s = execCapRsp p datagram checksumGood s := rfl
@[simp] theorem exec_helarAck (p : PathId) (datagram : Bytes) (checksumGood : Bool) : exec (.helarAck p datagram checksumGood) s = execHelarAck p datagram checksumGood s := rfl
@[simp] theorem exec_helarKeepalive (p : PathId) (datagram : Bytes) (checksumGood : Bool) : exec (.helarKeepalive p datagram checksumGood) s = execHelarKeepalive p datagram checksumGood s := rfl
@[simp] theorem exec_helarClose (p : PathId) (datagram : Bytes) (checksumGood : Bool) : exec (.helarClose p datagram checksumGood) s = execHelarClose p datagram checksumGood s := rfl
@[simp] theorem exec_answerSegment (p : PathId) (datagram : Bytes) (checksumGood : Bool) : exec (.answerSegment p datagram checksumGood) s = execAnswerSegment p datagram checksumGood s := rfl
@[simp] theorem exec_ackDue (p : PathId) : exec (.ackDue p) s = execAckDue p s := rfl
@[simp] theorem exec_retransmitTimeout (p : PathId) (seq : BitVec 32) : exec (.retransmitTimeout p seq) s = execRetransmitTimeout p seq s := rfl
@[simp] theorem exec_keepaliveDue (p : PathId) : exec (.keepaliveDue p) s = execKeepaliveDue p s := rfl
@[simp] theorem exec_silenceTimeout (p : PathId) : exec (.silenceTimeout p) s = execSilenceTimeout p s := rfl
@[simp] theorem exec_slabBoundary (k : CrushId) : exec (.slabBoundary k) s = execSlabBoundary k s := rfl
@[simp] theorem exec_crusherFailure (k : CrushId) : exec (.crusherFailure k) s = execCrusherFailure k s := rfl
@[simp] theorem exec_recordBoundary (u : Fin 10) : exec (.recordBoundary u) s = execRecordBoundary u s := rfl
@[simp] theorem exec_cipherUnitFailure (u : Fin 10) : exec (.cipherUnitFailure u) s = execCipherUnitFailure u s := rfl
@[simp] theorem exec_ctxHalfLoss (h : HubId) : exec (.ctxHalfLoss h) s = execCtxHalfLoss h s := rfl
@[simp] theorem exec_ctxHalfCopyComplete (h : HubId) : exec (.ctxHalfCopyComplete h) s = execCtxHalfCopyComplete h s := rfl
@[simp] theorem exec_eventRelease : exec .eventRelease s = execEventRelease s := rfl
@[simp] theorem exec_evtBlockTakeover : exec .evtBlockTakeover s = execEvtBlockTakeover s := rfl
@[simp] theorem exec_spillRecheck (l : LeaseId) : exec (.spillRecheck l) s = execSpillRecheck l s := rfl
@[simp] theorem exec_ptpSync (m : PtpMsg) : exec (.ptpSync m) s = execPtpSync m s := rfl
@[simp] theorem exec_ptpFollowUp (m : PtpMsg) : exec (.ptpFollowUp m) s = execPtpFollowUp m s := rfl
@[simp] theorem exec_ptpAnnounce (m : PtpMsg) (d : PtpData) : exec (.ptpAnnounce m d) s = execPtpAnnounce m d s := rfl
@[simp] theorem exec_ptpDelayResp (m : PtpMsg) : exec (.ptpDelayResp m) s = execPtpDelayResp m s := rfl
@[simp] theorem exec_ppsEdge (h : HubId) (stamp : Word) : exec (.ppsEdge h stamp) s = execPpsEdge h stamp s := rfl
@[simp] theorem exec_disciplineInputAbsent (h : HubId) : exec (.disciplineInputAbsent h) s = execDisciplineInputAbsent h s := rfl
@[simp] theorem exec_tsDistributionPulse : exec .tsDistributionPulse s = execTsDistributionPulse s := rfl
@[simp] theorem exec_tsMasterTakeover : exec .tsMasterTakeover s = execTsMasterTakeover s := rfl
@[simp] theorem exec_heartbeatLoss (d : DomainId) : exec (.heartbeatLoss d) s = execHeartbeatLoss d s := rfl
@[simp] theorem exec_engineSparing (e : EngineId) (bad : BitVec 4) : exec (.engineSparing e bad) s = execEngineSparing e bad s := rfl
@[simp] theorem exec_benchLoss (b : BenchId) : exec (.benchLoss b) s = execBenchLoss b s := rfl
@[simp] theorem exec_homeNodeLoss (h : HomeId) : exec (.homeNodeLoss h) s = execHomeNodeLoss h s := rfl
@[simp] theorem exec_tileLoss (t : Fin 4) : exec (.tileLoss t) s = execTileLoss t s := rfl
@[simp] theorem exec_meshTransfer (link : Fin 13) (dir : Fin 2) (vc : Fin 5) (crcGood : Bool) : exec (.meshTransfer link dir vc crcGood) s = execMeshTransfer link dir vc crcGood s := rfl
@[simp] theorem exec_serviceCoreLoss (h : HubId) : exec (.serviceCoreLoss h) s = execServiceCoreLoss h s := rfl
@[simp] theorem exec_hubLoss (h : HubId) : exec (.hubLoss h) s = execHubLoss h s := rfl
@[simp] theorem exec_frequencyDecision (d : DomainId) (target : Byte) (temp : Byte) : exec (.frequencyDecision d target temp) s = execFrequencyDecision d target temp s := rfl
@[simp] theorem exec_thermalLimitStep (d : DomainId) (temp : Byte) : exec (.thermalLimitStep d temp) s = execThermalLimitStep d temp s := rfl
@[simp] theorem exec_thermalTrip (d : DomainId) (temp : Byte) : exec (.thermalTrip d temp) s = execThermalTrip d temp s := rfl
@[simp] theorem exec_refclkFailure (h : HubId) : exec (.refclkFailure h) s = execRefclkFailure h s := rfl
@[simp] theorem exec_refclkHoldoverExpiry : exec .refclkHoldoverExpiry s = execRefclkHoldoverExpiry s := rfl
@[simp] theorem exec_pwrgdMainRise : exec .pwrgdMainRise s = execPwrgdMainRise s := rfl
@[simp] theorem exec_mchPrsntNChange (m : ChanId) (low : Bool) : exec (.mchPrsntNChange m low) s = execMchPrsntNChange m low s := rfl
@[simp] theorem exec_channelTrained (m : ChanId) (r : ChanTrain) : exec (.channelTrained m r) s = execChannelTrained m r s := rfl
@[simp] theorem exec_refclkRecovery (h : HubId) : exec (.refclkRecovery h) s = execRefclkRecovery h s := rfl
@[simp] theorem exec_ppsOutputEdge (land : Fin 14) : exec (.ppsOutputEdge land) s = execPpsOutputEdge land s := rfl
@[simp] theorem exec_pcieLinkUp (p : PcieId) (j : Fin 4) (speed : BitVec 4) (width : BitVec 8) : exec (.pcieLinkUp p j speed width) s = execPcieLinkUp p j speed width s := rfl
@[simp] theorem exec_modeMachineUncorrectableError : exec .modeMachineUncorrectableError s = execModeMachineUncorrectableError s := rfl
@[simp] theorem exec_hubReturn (h : HubId) : exec (.hubReturn h) s = execHubReturn h s := rfl
@[simp] theorem exec_tapInstruction (code : Fin 7) : exec (.tapInstruction code) s = execTapInstruction code s := rfl

end Sys2Proof.Machine
end

