-- ==== Sys2Proof/Laws/State.lean ====
section
/-! SUPPORT. One lemma for each field and each named update of the machine: the field that the update writes, and every other field as it
was; what a unit, lease, cache, home, channel or seam reads after an update. -/

namespace Sys2Proof.Machine

variable (m : Mach)

/-! ### setUnit -/

@[simp] theorem setUnit_units (k i : Nat) (x : UnitSt) : (setUnit m k i x).units = tset m.units (ukey k i) x := rfl
@[simp] theorem setUnit_now (k i : Nat) (x : UnitSt) : (setUnit m k i x).now = m.now := rfl
@[simp] theorem setUnit_freeIdx (k i : Nat) (x : UnitSt) : (setUnit m k i x).freeIdx = m.freeIdx := rfl
@[simp] theorem setUnit_tick (k i : Nat) (x : UnitSt) : (setUnit m k i x).tick = m.tick := rfl
@[simp] theorem setUnit_out (k i : Nat) (x : UnitSt) : (setUnit m k i x).out = m.out := rfl
@[simp] theorem setUnit_mode (k i : Nat) (x : UnitSt) : (setUnit m k i x).mode = m.mode := rfl
@[simp] theorem setUnit_resets (k i : Nat) (x : UnitSt) : (setUnit m k i x).resets = m.resets := rfl
@[simp] theorem setUnit_errs (k i : Nat) (x : UnitSt) : (setUnit m k i x).errs = m.errs := rfl
@[simp] theorem setUnit_notes (k i : Nat) (x : UnitSt) : (setUnit m k i x).notes = m.notes := rfl
@[simp] theorem setUnit_noteSeq (k i : Nat) (x : UnitSt) : (setUnit m k i x).noteSeq = m.noteSeq := rfl
@[simp] theorem setUnit_noteDropped (k i : Nat) (x : UnitSt) : (setUnit m k i x).noteDropped = m.noteDropped := rfl
@[simp] theorem setUnit_evt (k i : Nat) (x : UnitSt) : (setUnit m k i x).evt = m.evt := rfl
@[simp] theorem setUnit_leases (k i : Nat) (x : UnitSt) : (setUnit m k i x).leases = m.leases := rfl
@[simp] theorem setUnit_hubTlb (k i : Nat) (x : UnitSt) : (setUnit m k i x).hubTlb = m.hubTlb := rfl
@[simp] theorem setUnit_hubsLost (k i : Nat) (x : UnitSt) : (setUnit m k i x).hubsLost = m.hubsLost := rfl
@[simp] theorem setUnit_image (k i : Nat) (x : UnitSt) : (setUnit m k i x).image = m.image := rfl
@[simp] theorem setUnit_l2 (k i : Nat) (x : UnitSt) : (setUnit m k i x).l2 = m.l2 := rfl
@[simp] theorem setUnit_homes (k i : Nat) (x : UnitSt) : (setUnit m k i x).homes = m.homes := rfl
@[simp] theorem setUnit_mesh (k i : Nat) (x : UnitSt) : (setUnit m k i x).mesh = m.mesh := rfl
@[simp] theorem setUnit_l1d (k i : Nat) (x : UnitSt) : (setUnit m k i x).l1d = m.l1d := rfl
@[simp] theorem setUnit_l1i (k i : Nat) (x : UnitSt) : (setUnit m k i x).l1i = m.l1i := rfl
@[simp] theorem setUnit_eside (k i : Nat) (x : UnitSt) : (setUnit m k i x).eside = m.eside := rfl
@[simp] theorem setUnit_resv (k i : Nat) (x : UnitSt) : (setUnit m k i x).resv = m.resv := rfl
@[simp] theorem setUnit_crange (k i : Nat) (x : UnitSt) : (setUnit m k i x).crange = m.crange := rfl
@[simp] theorem setUnit_crangeBase (k i : Nat) (x : UnitSt) : (setUnit m k i x).crangeBase = m.crangeBase := rfl
@[simp] theorem setUnit_crangeLen (k i : Nat) (x : UnitSt) : (setUnit m k i x).crangeLen = m.crangeLen := rfl
@[simp] theorem setUnit_mem (k i : Nat) (x : UnitSt) : (setUnit m k i x).mem = m.mem := rfl
@[simp] theorem setUnit_chans (k i : Nat) (x : UnitSt) : (setUnit m k i x).chans = m.chans := rfl
@[simp] theorem setUnit_seams (k i : Nat) (x : UnitSt) : (setUnit m k i x).seams = m.seams := rfl
@[simp] theorem setUnit_ident (k i : Nat) (x : UnitSt) : (setUnit m k i x).ident = m.ident := rfl
@[simp] theorem setUnit_macBase (k i : Nat) (x : UnitSt) : (setUnit m k i x).macBase = m.macBase := rfl
@[simp] theorem setUnit_answers (k i : Nat) (x : UnitSt) : (setUnit m k i x).answers = m.answers := rfl
@[simp] theorem setUnit_chn (k i : Nat) (x : UnitSt) : (setUnit m k i x).chn = m.chn := rfl
@[simp] theorem setUnit_links (k i : Nat) (x : UnitSt) : (setUnit m k i x).links = m.links := rfl
@[simp] theorem setUnit_fqs (k i : Nat) (x : UnitSt) : (setUnit m k i x).fqs = m.fqs := rfl
@[simp] theorem setUnit_pcie (k i : Nat) (x : UnitSt) : (setUnit m k i x).pcie = m.pcie := rfl
@[simp] theorem setUnit_jobs (k i : Nat) (x : UnitSt) : (setUnit m k i x).jobs = m.jobs := rfl
@[simp] theorem setUnit_engs (k i : Nat) (x : UnitSt) : (setUnit m k i x).engs = m.engs := rfl
@[simp] theorem setUnit_benches (k i : Nat) (x : UnitSt) : (setUnit m k i x).benches = m.benches := rfl
@[simp] theorem setUnit_stores (k i : Nat) (x : UnitSt) : (setUnit m k i x).stores = m.stores := rfl
@[simp] theorem setUnit_microMask (k i : Nat) (x : UnitSt) : (setUnit m k i x).microMask = m.microMask := rfl
@[simp] theorem setUnit_doms (k i : Nat) (x : UnitSt) : (setUnit m k i x).doms = m.doms := rfl
@[simp] theorem setUnit_svc (k i : Nat) (x : UnitSt) : (setUnit m k i x).svc = m.svc := rfl
@[simp] theorem setUnit_load (k i : Nat) (x : UnitSt) : (setUnit m k i x).load = m.load := rfl
@[simp] theorem setUnit_flash (k i : Nat) (x : UnitSt) : (setUnit m k i x).flash = m.flash := rfl
@[simp] theorem setUnit_subs (k i : Nat) (x : UnitSt) : (setUnit m k i x).subs = m.subs := rfl
@[simp] theorem setUnit_pins (k i : Nat) (x : UnitSt) : (setUnit m k i x).pins = m.pins := rfl

/-! ### setUState -/

@[simp] theorem setUState_units (k i : Nat) (x : UState) : (setUState m k i x).units = tset m.units (ukey k i) { unit m k i with st := x } := rfl
@[simp] theorem setUState_now (k i : Nat) (x : UState) : (setUState m k i x).now = m.now := rfl
@[simp] theorem setUState_freeIdx (k i : Nat) (x : UState) : (setUState m k i x).freeIdx = m.freeIdx := rfl
@[simp] theorem setUState_tick (k i : Nat) (x : UState) : (setUState m k i x).tick = m.tick := rfl
@[simp] theorem setUState_out (k i : Nat) (x : UState) : (setUState m k i x).out = m.out := rfl
@[simp] theorem setUState_mode (k i : Nat) (x : UState) : (setUState m k i x).mode = m.mode := rfl
@[simp] theorem setUState_resets (k i : Nat) (x : UState) : (setUState m k i x).resets = m.resets := rfl
@[simp] theorem setUState_errs (k i : Nat) (x : UState) : (setUState m k i x).errs = m.errs := rfl
@[simp] theorem setUState_notes (k i : Nat) (x : UState) : (setUState m k i x).notes = m.notes := rfl
@[simp] theorem setUState_noteSeq (k i : Nat) (x : UState) : (setUState m k i x).noteSeq = m.noteSeq := rfl
@[simp] theorem setUState_noteDropped (k i : Nat) (x : UState) : (setUState m k i x).noteDropped = m.noteDropped := rfl
@[simp] theorem setUState_evt (k i : Nat) (x : UState) : (setUState m k i x).evt = m.evt := rfl
@[simp] theorem setUState_leases (k i : Nat) (x : UState) : (setUState m k i x).leases = m.leases := rfl
@[simp] theorem setUState_hubTlb (k i : Nat) (x : UState) : (setUState m k i x).hubTlb = m.hubTlb := rfl
@[simp] theorem setUState_hubsLost (k i : Nat) (x : UState) : (setUState m k i x).hubsLost = m.hubsLost := rfl
@[simp] theorem setUState_image (k i : Nat) (x : UState) : (setUState m k i x).image = m.image := rfl
@[simp] theorem setUState_l2 (k i : Nat) (x : UState) : (setUState m k i x).l2 = m.l2 := rfl
@[simp] theorem setUState_homes (k i : Nat) (x : UState) : (setUState m k i x).homes = m.homes := rfl
@[simp] theorem setUState_mesh (k i : Nat) (x : UState) : (setUState m k i x).mesh = m.mesh := rfl
@[simp] theorem setUState_l1d (k i : Nat) (x : UState) : (setUState m k i x).l1d = m.l1d := rfl
@[simp] theorem setUState_l1i (k i : Nat) (x : UState) : (setUState m k i x).l1i = m.l1i := rfl
@[simp] theorem setUState_eside (k i : Nat) (x : UState) : (setUState m k i x).eside = m.eside := rfl
@[simp] theorem setUState_resv (k i : Nat) (x : UState) : (setUState m k i x).resv = m.resv := rfl
@[simp] theorem setUState_crange (k i : Nat) (x : UState) : (setUState m k i x).crange = m.crange := rfl
@[simp] theorem setUState_crangeBase (k i : Nat) (x : UState) : (setUState m k i x).crangeBase = m.crangeBase := rfl
@[simp] theorem setUState_crangeLen (k i : Nat) (x : UState) : (setUState m k i x).crangeLen = m.crangeLen := rfl
@[simp] theorem setUState_mem (k i : Nat) (x : UState) : (setUState m k i x).mem = m.mem := rfl
@[simp] theorem setUState_chans (k i : Nat) (x : UState) : (setUState m k i x).chans = m.chans := rfl
@[simp] theorem setUState_seams (k i : Nat) (x : UState) : (setUState m k i x).seams = m.seams := rfl
@[simp] theorem setUState_ident (k i : Nat) (x : UState) : (setUState m k i x).ident = m.ident := rfl
@[simp] theorem setUState_macBase (k i : Nat) (x : UState) : (setUState m k i x).macBase = m.macBase := rfl
@[simp] theorem setUState_answers (k i : Nat) (x : UState) : (setUState m k i x).answers = m.answers := rfl
@[simp] theorem setUState_chn (k i : Nat) (x : UState) : (setUState m k i x).chn = m.chn := rfl
@[simp] theorem setUState_links (k i : Nat) (x : UState) : (setUState m k i x).links = m.links := rfl
@[simp] theorem setUState_fqs (k i : Nat) (x : UState) : (setUState m k i x).fqs = m.fqs := rfl
@[simp] theorem setUState_pcie (k i : Nat) (x : UState) : (setUState m k i x).pcie = m.pcie := rfl
@[simp] theorem setUState_jobs (k i : Nat) (x : UState) : (setUState m k i x).jobs = m.jobs := rfl
@[simp] theorem setUState_engs (k i : Nat) (x : UState) : (setUState m k i x).engs = m.engs := rfl
@[simp] theorem setUState_benches (k i : Nat) (x : UState) : (setUState m k i x).benches = m.benches := rfl
@[simp] theorem setUState_stores (k i : Nat) (x : UState) : (setUState m k i x).stores = m.stores := rfl
@[simp] theorem setUState_microMask (k i : Nat) (x : UState) : (setUState m k i x).microMask = m.microMask := rfl
@[simp] theorem setUState_doms (k i : Nat) (x : UState) : (setUState m k i x).doms = m.doms := rfl
@[simp] theorem setUState_svc (k i : Nat) (x : UState) : (setUState m k i x).svc = m.svc := rfl
@[simp] theorem setUState_load (k i : Nat) (x : UState) : (setUState m k i x).load = m.load := rfl
@[simp] theorem setUState_flash (k i : Nat) (x : UState) : (setUState m k i x).flash = m.flash := rfl
@[simp] theorem setUState_subs (k i : Nat) (x : UState) : (setUState m k i x).subs = m.subs := rfl
@[simp] theorem setUState_pins (k i : Nat) (x : UState) : (setUState m k i x).pins = m.pins := rfl

/-! ### setLease -/

@[simp] theorem setLease_leases (l : Nat) (x : Lease) : (setLease m l x).leases = tset m.leases l x := rfl
@[simp] theorem setLease_now (l : Nat) (x : Lease) : (setLease m l x).now = m.now := rfl
@[simp] theorem setLease_freeIdx (l : Nat) (x : Lease) : (setLease m l x).freeIdx = m.freeIdx := rfl
@[simp] theorem setLease_tick (l : Nat) (x : Lease) : (setLease m l x).tick = m.tick := rfl
@[simp] theorem setLease_out (l : Nat) (x : Lease) : (setLease m l x).out = m.out := rfl
@[simp] theorem setLease_mode (l : Nat) (x : Lease) : (setLease m l x).mode = m.mode := rfl
@[simp] theorem setLease_units (l : Nat) (x : Lease) : (setLease m l x).units = m.units := rfl
@[simp] theorem setLease_resets (l : Nat) (x : Lease) : (setLease m l x).resets = m.resets := rfl
@[simp] theorem setLease_errs (l : Nat) (x : Lease) : (setLease m l x).errs = m.errs := rfl
@[simp] theorem setLease_notes (l : Nat) (x : Lease) : (setLease m l x).notes = m.notes := rfl
@[simp] theorem setLease_noteSeq (l : Nat) (x : Lease) : (setLease m l x).noteSeq = m.noteSeq := rfl
@[simp] theorem setLease_noteDropped (l : Nat) (x : Lease) : (setLease m l x).noteDropped = m.noteDropped := rfl
@[simp] theorem setLease_evt (l : Nat) (x : Lease) : (setLease m l x).evt = m.evt := rfl
@[simp] theorem setLease_hubTlb (l : Nat) (x : Lease) : (setLease m l x).hubTlb = m.hubTlb := rfl
@[simp] theorem setLease_hubsLost (l : Nat) (x : Lease) : (setLease m l x).hubsLost = m.hubsLost := rfl
@[simp] theorem setLease_image (l : Nat) (x : Lease) : (setLease m l x).image = m.image := rfl
@[simp] theorem setLease_l2 (l : Nat) (x : Lease) : (setLease m l x).l2 = m.l2 := rfl
@[simp] theorem setLease_homes (l : Nat) (x : Lease) : (setLease m l x).homes = m.homes := rfl
@[simp] theorem setLease_mesh (l : Nat) (x : Lease) : (setLease m l x).mesh = m.mesh := rfl
@[simp] theorem setLease_l1d (l : Nat) (x : Lease) : (setLease m l x).l1d = m.l1d := rfl
@[simp] theorem setLease_l1i (l : Nat) (x : Lease) : (setLease m l x).l1i = m.l1i := rfl
@[simp] theorem setLease_eside (l : Nat) (x : Lease) : (setLease m l x).eside = m.eside := rfl
@[simp] theorem setLease_resv (l : Nat) (x : Lease) : (setLease m l x).resv = m.resv := rfl
@[simp] theorem setLease_crange (l : Nat) (x : Lease) : (setLease m l x).crange = m.crange := rfl
@[simp] theorem setLease_crangeBase (l : Nat) (x : Lease) : (setLease m l x).crangeBase = m.crangeBase := rfl
@[simp] theorem setLease_crangeLen (l : Nat) (x : Lease) : (setLease m l x).crangeLen = m.crangeLen := rfl
@[simp] theorem setLease_mem (l : Nat) (x : Lease) : (setLease m l x).mem = m.mem := rfl
@[simp] theorem setLease_chans (l : Nat) (x : Lease) : (setLease m l x).chans = m.chans := rfl
@[simp] theorem setLease_seams (l : Nat) (x : Lease) : (setLease m l x).seams = m.seams := rfl
@[simp] theorem setLease_ident (l : Nat) (x : Lease) : (setLease m l x).ident = m.ident := rfl
@[simp] theorem setLease_macBase (l : Nat) (x : Lease) : (setLease m l x).macBase = m.macBase := rfl
@[simp] theorem setLease_answers (l : Nat) (x : Lease) : (setLease m l x).answers = m.answers := rfl
@[simp] theorem setLease_chn (l : Nat) (x : Lease) : (setLease m l x).chn = m.chn := rfl
@[simp] theorem setLease_links (l : Nat) (x : Lease) : (setLease m l x).links = m.links := rfl
@[simp] theorem setLease_fqs (l : Nat) (x : Lease) : (setLease m l x).fqs = m.fqs := rfl
@[simp] theorem setLease_pcie (l : Nat) (x : Lease) : (setLease m l x).pcie = m.pcie := rfl
@[simp] theorem setLease_jobs (l : Nat) (x : Lease) : (setLease m l x).jobs = m.jobs := rfl
@[simp] theorem setLease_engs (l : Nat) (x : Lease) : (setLease m l x).engs = m.engs := rfl
@[simp] theorem setLease_benches (l : Nat) (x : Lease) : (setLease m l x).benches = m.benches := rfl
@[simp] theorem setLease_stores (l : Nat) (x : Lease) : (setLease m l x).stores = m.stores := rfl
@[simp] theorem setLease_microMask (l : Nat) (x : Lease) : (setLease m l x).microMask = m.microMask := rfl
@[simp] theorem setLease_doms (l : Nat) (x : Lease) : (setLease m l x).doms = m.doms := rfl
@[simp] theorem setLease_svc (l : Nat) (x : Lease) : (setLease m l x).svc = m.svc := rfl
@[simp] theorem setLease_load (l : Nat) (x : Lease) : (setLease m l x).load = m.load := rfl
@[simp] theorem setLease_flash (l : Nat) (x : Lease) : (setLease m l x).flash = m.flash := rfl
@[simp] theorem setLease_subs (l : Nat) (x : Lease) : (setLease m l x).subs = m.subs := rfl
@[simp] theorem setLease_pins (l : Nat) (x : Lease) : (setLease m l x).pins = m.pins := rfl

/-! ### modLease -/

@[simp] theorem modLease_leases (l : Nat) (f : Lease → Lease) : (modLease m l f).leases = tset m.leases l (f (lease m l)) := rfl
@[simp] theorem modLease_now (l : Nat) (f : Lease → Lease) : (modLease m l f).now = m.now := rfl
@[simp] theorem modLease_freeIdx (l : Nat) (f : Lease → Lease) : (modLease m l f).freeIdx = m.freeIdx := rfl
@[simp] theorem modLease_tick (l : Nat) (f : Lease → Lease) : (modLease m l f).tick = m.tick := rfl
@[simp] theorem modLease_out (l : Nat) (f : Lease → Lease) : (modLease m l f).out = m.out := rfl
@[simp] theorem modLease_mode (l : Nat) (f : Lease → Lease) : (modLease m l f).mode = m.mode := rfl
@[simp] theorem modLease_units (l : Nat) (f : Lease → Lease) : (modLease m l f).units = m.units := rfl
@[simp] theorem modLease_resets (l : Nat) (f : Lease → Lease) : (modLease m l f).resets = m.resets := rfl
@[simp] theorem modLease_errs (l : Nat) (f : Lease → Lease) : (modLease m l f).errs = m.errs := rfl
@[simp] theorem modLease_notes (l : Nat) (f : Lease → Lease) : (modLease m l f).notes = m.notes := rfl
@[simp] theorem modLease_noteSeq (l : Nat) (f : Lease → Lease) : (modLease m l f).noteSeq = m.noteSeq := rfl
@[simp] theorem modLease_noteDropped (l : Nat) (f : Lease → Lease) : (modLease m l f).noteDropped = m.noteDropped := rfl
@[simp] theorem modLease_evt (l : Nat) (f : Lease → Lease) : (modLease m l f).evt = m.evt := rfl
@[simp] theorem modLease_hubTlb (l : Nat) (f : Lease → Lease) : (modLease m l f).hubTlb = m.hubTlb := rfl
@[simp] theorem modLease_hubsLost (l : Nat) (f : Lease → Lease) : (modLease m l f).hubsLost = m.hubsLost := rfl
@[simp] theorem modLease_image (l : Nat) (f : Lease → Lease) : (modLease m l f).image = m.image := rfl
@[simp] theorem modLease_l2 (l : Nat) (f : Lease → Lease) : (modLease m l f).l2 = m.l2 := rfl
@[simp] theorem modLease_homes (l : Nat) (f : Lease → Lease) : (modLease m l f).homes = m.homes := rfl
@[simp] theorem modLease_mesh (l : Nat) (f : Lease → Lease) : (modLease m l f).mesh = m.mesh := rfl
@[simp] theorem modLease_l1d (l : Nat) (f : Lease → Lease) : (modLease m l f).l1d = m.l1d := rfl
@[simp] theorem modLease_l1i (l : Nat) (f : Lease → Lease) : (modLease m l f).l1i = m.l1i := rfl
@[simp] theorem modLease_eside (l : Nat) (f : Lease → Lease) : (modLease m l f).eside = m.eside := rfl
@[simp] theorem modLease_resv (l : Nat) (f : Lease → Lease) : (modLease m l f).resv = m.resv := rfl
@[simp] theorem modLease_crange (l : Nat) (f : Lease → Lease) : (modLease m l f).crange = m.crange := rfl
@[simp] theorem modLease_crangeBase (l : Nat) (f : Lease → Lease) : (modLease m l f).crangeBase = m.crangeBase := rfl
@[simp] theorem modLease_crangeLen (l : Nat) (f : Lease → Lease) : (modLease m l f).crangeLen = m.crangeLen := rfl
@[simp] theorem modLease_mem (l : Nat) (f : Lease → Lease) : (modLease m l f).mem = m.mem := rfl
@[simp] theorem modLease_chans (l : Nat) (f : Lease → Lease) : (modLease m l f).chans = m.chans := rfl
@[simp] theorem modLease_seams (l : Nat) (f : Lease → Lease) : (modLease m l f).seams = m.seams := rfl
@[simp] theorem modLease_ident (l : Nat) (f : Lease → Lease) : (modLease m l f).ident = m.ident := rfl
@[simp] theorem modLease_macBase (l : Nat) (f : Lease → Lease) : (modLease m l f).macBase = m.macBase := rfl
@[simp] theorem modLease_answers (l : Nat) (f : Lease → Lease) : (modLease m l f).answers = m.answers := rfl
@[simp] theorem modLease_chn (l : Nat) (f : Lease → Lease) : (modLease m l f).chn = m.chn := rfl
@[simp] theorem modLease_links (l : Nat) (f : Lease → Lease) : (modLease m l f).links = m.links := rfl
@[simp] theorem modLease_fqs (l : Nat) (f : Lease → Lease) : (modLease m l f).fqs = m.fqs := rfl
@[simp] theorem modLease_pcie (l : Nat) (f : Lease → Lease) : (modLease m l f).pcie = m.pcie := rfl
@[simp] theorem modLease_jobs (l : Nat) (f : Lease → Lease) : (modLease m l f).jobs = m.jobs := rfl
@[simp] theorem modLease_engs (l : Nat) (f : Lease → Lease) : (modLease m l f).engs = m.engs := rfl
@[simp] theorem modLease_benches (l : Nat) (f : Lease → Lease) : (modLease m l f).benches = m.benches := rfl
@[simp] theorem modLease_stores (l : Nat) (f : Lease → Lease) : (modLease m l f).stores = m.stores := rfl
@[simp] theorem modLease_microMask (l : Nat) (f : Lease → Lease) : (modLease m l f).microMask = m.microMask := rfl
@[simp] theorem modLease_doms (l : Nat) (f : Lease → Lease) : (modLease m l f).doms = m.doms := rfl
@[simp] theorem modLease_svc (l : Nat) (f : Lease → Lease) : (modLease m l f).svc = m.svc := rfl
@[simp] theorem modLease_load (l : Nat) (f : Lease → Lease) : (modLease m l f).load = m.load := rfl
@[simp] theorem modLease_flash (l : Nat) (f : Lease → Lease) : (modLease m l f).flash = m.flash := rfl
@[simp] theorem modLease_subs (l : Nat) (f : Lease → Lease) : (modLease m l f).subs = m.subs := rfl
@[simp] theorem modLease_pins (l : Nat) (f : Lease → Lease) : (modLease m l f).pins = m.pins := rfl

/-! ### setL2 -/

@[simp] theorem setL2_l2 (b : Nat) (x : L2St) : (setL2 m b x).l2 = tset m.l2 b x := rfl
@[simp] theorem setL2_now (b : Nat) (x : L2St) : (setL2 m b x).now = m.now := rfl
@[simp] theorem setL2_freeIdx (b : Nat) (x : L2St) : (setL2 m b x).freeIdx = m.freeIdx := rfl
@[simp] theorem setL2_tick (b : Nat) (x : L2St) : (setL2 m b x).tick = m.tick := rfl
@[simp] theorem setL2_out (b : Nat) (x : L2St) : (setL2 m b x).out = m.out := rfl
@[simp] theorem setL2_mode (b : Nat) (x : L2St) : (setL2 m b x).mode = m.mode := rfl
@[simp] theorem setL2_units (b : Nat) (x : L2St) : (setL2 m b x).units = m.units := rfl
@[simp] theorem setL2_resets (b : Nat) (x : L2St) : (setL2 m b x).resets = m.resets := rfl
@[simp] theorem setL2_errs (b : Nat) (x : L2St) : (setL2 m b x).errs = m.errs := rfl
@[simp] theorem setL2_notes (b : Nat) (x : L2St) : (setL2 m b x).notes = m.notes := rfl
@[simp] theorem setL2_noteSeq (b : Nat) (x : L2St) : (setL2 m b x).noteSeq = m.noteSeq := rfl
@[simp] theorem setL2_noteDropped (b : Nat) (x : L2St) : (setL2 m b x).noteDropped = m.noteDropped := rfl
@[simp] theorem setL2_evt (b : Nat) (x : L2St) : (setL2 m b x).evt = m.evt := rfl
@[simp] theorem setL2_leases (b : Nat) (x : L2St) : (setL2 m b x).leases = m.leases := rfl
@[simp] theorem setL2_hubTlb (b : Nat) (x : L2St) : (setL2 m b x).hubTlb = m.hubTlb := rfl
@[simp] theorem setL2_hubsLost (b : Nat) (x : L2St) : (setL2 m b x).hubsLost = m.hubsLost := rfl
@[simp] theorem setL2_image (b : Nat) (x : L2St) : (setL2 m b x).image = m.image := rfl
@[simp] theorem setL2_homes (b : Nat) (x : L2St) : (setL2 m b x).homes = m.homes := rfl
@[simp] theorem setL2_mesh (b : Nat) (x : L2St) : (setL2 m b x).mesh = m.mesh := rfl
@[simp] theorem setL2_l1d (b : Nat) (x : L2St) : (setL2 m b x).l1d = m.l1d := rfl
@[simp] theorem setL2_l1i (b : Nat) (x : L2St) : (setL2 m b x).l1i = m.l1i := rfl
@[simp] theorem setL2_eside (b : Nat) (x : L2St) : (setL2 m b x).eside = m.eside := rfl
@[simp] theorem setL2_resv (b : Nat) (x : L2St) : (setL2 m b x).resv = m.resv := rfl
@[simp] theorem setL2_crange (b : Nat) (x : L2St) : (setL2 m b x).crange = m.crange := rfl
@[simp] theorem setL2_crangeBase (b : Nat) (x : L2St) : (setL2 m b x).crangeBase = m.crangeBase := rfl
@[simp] theorem setL2_crangeLen (b : Nat) (x : L2St) : (setL2 m b x).crangeLen = m.crangeLen := rfl
@[simp] theorem setL2_mem (b : Nat) (x : L2St) : (setL2 m b x).mem = m.mem := rfl
@[simp] theorem setL2_chans (b : Nat) (x : L2St) : (setL2 m b x).chans = m.chans := rfl
@[simp] theorem setL2_seams (b : Nat) (x : L2St) : (setL2 m b x).seams = m.seams := rfl
@[simp] theorem setL2_ident (b : Nat) (x : L2St) : (setL2 m b x).ident = m.ident := rfl
@[simp] theorem setL2_macBase (b : Nat) (x : L2St) : (setL2 m b x).macBase = m.macBase := rfl
@[simp] theorem setL2_answers (b : Nat) (x : L2St) : (setL2 m b x).answers = m.answers := rfl
@[simp] theorem setL2_chn (b : Nat) (x : L2St) : (setL2 m b x).chn = m.chn := rfl
@[simp] theorem setL2_links (b : Nat) (x : L2St) : (setL2 m b x).links = m.links := rfl
@[simp] theorem setL2_fqs (b : Nat) (x : L2St) : (setL2 m b x).fqs = m.fqs := rfl
@[simp] theorem setL2_pcie (b : Nat) (x : L2St) : (setL2 m b x).pcie = m.pcie := rfl
@[simp] theorem setL2_jobs (b : Nat) (x : L2St) : (setL2 m b x).jobs = m.jobs := rfl
@[simp] theorem setL2_engs (b : Nat) (x : L2St) : (setL2 m b x).engs = m.engs := rfl
@[simp] theorem setL2_benches (b : Nat) (x : L2St) : (setL2 m b x).benches = m.benches := rfl
@[simp] theorem setL2_stores (b : Nat) (x : L2St) : (setL2 m b x).stores = m.stores := rfl
@[simp] theorem setL2_microMask (b : Nat) (x : L2St) : (setL2 m b x).microMask = m.microMask := rfl
@[simp] theorem setL2_doms (b : Nat) (x : L2St) : (setL2 m b x).doms = m.doms := rfl
@[simp] theorem setL2_svc (b : Nat) (x : L2St) : (setL2 m b x).svc = m.svc := rfl
@[simp] theorem setL2_load (b : Nat) (x : L2St) : (setL2 m b x).load = m.load := rfl
@[simp] theorem setL2_flash (b : Nat) (x : L2St) : (setL2 m b x).flash = m.flash := rfl
@[simp] theorem setL2_subs (b : Nat) (x : L2St) : (setL2 m b x).subs = m.subs := rfl
@[simp] theorem setL2_pins (b : Nat) (x : L2St) : (setL2 m b x).pins = m.pins := rfl

/-! ### modL2 -/

@[simp] theorem modL2_l2 (b : Nat) (f : L2St → L2St) : (modL2 m b f).l2 = tset m.l2 b (f (l2 m b)) := rfl
@[simp] theorem modL2_now (b : Nat) (f : L2St → L2St) : (modL2 m b f).now = m.now := rfl
@[simp] theorem modL2_freeIdx (b : Nat) (f : L2St → L2St) : (modL2 m b f).freeIdx = m.freeIdx := rfl
@[simp] theorem modL2_tick (b : Nat) (f : L2St → L2St) : (modL2 m b f).tick = m.tick := rfl
@[simp] theorem modL2_out (b : Nat) (f : L2St → L2St) : (modL2 m b f).out = m.out := rfl
@[simp] theorem modL2_mode (b : Nat) (f : L2St → L2St) : (modL2 m b f).mode = m.mode := rfl
@[simp] theorem modL2_units (b : Nat) (f : L2St → L2St) : (modL2 m b f).units = m.units := rfl
@[simp] theorem modL2_resets (b : Nat) (f : L2St → L2St) : (modL2 m b f).resets = m.resets := rfl
@[simp] theorem modL2_errs (b : Nat) (f : L2St → L2St) : (modL2 m b f).errs = m.errs := rfl
@[simp] theorem modL2_notes (b : Nat) (f : L2St → L2St) : (modL2 m b f).notes = m.notes := rfl
@[simp] theorem modL2_noteSeq (b : Nat) (f : L2St → L2St) : (modL2 m b f).noteSeq = m.noteSeq := rfl
@[simp] theorem modL2_noteDropped (b : Nat) (f : L2St → L2St) : (modL2 m b f).noteDropped = m.noteDropped := rfl
@[simp] theorem modL2_evt (b : Nat) (f : L2St → L2St) : (modL2 m b f).evt = m.evt := rfl
@[simp] theorem modL2_leases (b : Nat) (f : L2St → L2St) : (modL2 m b f).leases = m.leases := rfl
@[simp] theorem modL2_hubTlb (b : Nat) (f : L2St → L2St) : (modL2 m b f).hubTlb = m.hubTlb := rfl
@[simp] theorem modL2_hubsLost (b : Nat) (f : L2St → L2St) : (modL2 m b f).hubsLost = m.hubsLost := rfl
@[simp] theorem modL2_image (b : Nat) (f : L2St → L2St) : (modL2 m b f).image = m.image := rfl
@[simp] theorem modL2_homes (b : Nat) (f : L2St → L2St) : (modL2 m b f).homes = m.homes := rfl
@[simp] theorem modL2_mesh (b : Nat) (f : L2St → L2St) : (modL2 m b f).mesh = m.mesh := rfl
@[simp] theorem modL2_l1d (b : Nat) (f : L2St → L2St) : (modL2 m b f).l1d = m.l1d := rfl
@[simp] theorem modL2_l1i (b : Nat) (f : L2St → L2St) : (modL2 m b f).l1i = m.l1i := rfl
@[simp] theorem modL2_eside (b : Nat) (f : L2St → L2St) : (modL2 m b f).eside = m.eside := rfl
@[simp] theorem modL2_resv (b : Nat) (f : L2St → L2St) : (modL2 m b f).resv = m.resv := rfl
@[simp] theorem modL2_crange (b : Nat) (f : L2St → L2St) : (modL2 m b f).crange = m.crange := rfl
@[simp] theorem modL2_crangeBase (b : Nat) (f : L2St → L2St) : (modL2 m b f).crangeBase = m.crangeBase := rfl
@[simp] theorem modL2_crangeLen (b : Nat) (f : L2St → L2St) : (modL2 m b f).crangeLen = m.crangeLen := rfl
@[simp] theorem modL2_mem (b : Nat) (f : L2St → L2St) : (modL2 m b f).mem = m.mem := rfl
@[simp] theorem modL2_chans (b : Nat) (f : L2St → L2St) : (modL2 m b f).chans = m.chans := rfl
@[simp] theorem modL2_seams (b : Nat) (f : L2St → L2St) : (modL2 m b f).seams = m.seams := rfl
@[simp] theorem modL2_ident (b : Nat) (f : L2St → L2St) : (modL2 m b f).ident = m.ident := rfl
@[simp] theorem modL2_macBase (b : Nat) (f : L2St → L2St) : (modL2 m b f).macBase = m.macBase := rfl
@[simp] theorem modL2_answers (b : Nat) (f : L2St → L2St) : (modL2 m b f).answers = m.answers := rfl
@[simp] theorem modL2_chn (b : Nat) (f : L2St → L2St) : (modL2 m b f).chn = m.chn := rfl
@[simp] theorem modL2_links (b : Nat) (f : L2St → L2St) : (modL2 m b f).links = m.links := rfl
@[simp] theorem modL2_fqs (b : Nat) (f : L2St → L2St) : (modL2 m b f).fqs = m.fqs := rfl
@[simp] theorem modL2_pcie (b : Nat) (f : L2St → L2St) : (modL2 m b f).pcie = m.pcie := rfl
@[simp] theorem modL2_jobs (b : Nat) (f : L2St → L2St) : (modL2 m b f).jobs = m.jobs := rfl
@[simp] theorem modL2_engs (b : Nat) (f : L2St → L2St) : (modL2 m b f).engs = m.engs := rfl
@[simp] theorem modL2_benches (b : Nat) (f : L2St → L2St) : (modL2 m b f).benches = m.benches := rfl
@[simp] theorem modL2_stores (b : Nat) (f : L2St → L2St) : (modL2 m b f).stores = m.stores := rfl
@[simp] theorem modL2_microMask (b : Nat) (f : L2St → L2St) : (modL2 m b f).microMask = m.microMask := rfl
@[simp] theorem modL2_doms (b : Nat) (f : L2St → L2St) : (modL2 m b f).doms = m.doms := rfl
@[simp] theorem modL2_svc (b : Nat) (f : L2St → L2St) : (modL2 m b f).svc = m.svc := rfl
@[simp] theorem modL2_load (b : Nat) (f : L2St → L2St) : (modL2 m b f).load = m.load := rfl
@[simp] theorem modL2_flash (b : Nat) (f : L2St → L2St) : (modL2 m b f).flash = m.flash := rfl
@[simp] theorem modL2_subs (b : Nat) (f : L2St → L2St) : (modL2 m b f).subs = m.subs := rfl
@[simp] theorem modL2_pins (b : Nat) (f : L2St → L2St) : (modL2 m b f).pins = m.pins := rfl

/-! ### setHome -/

@[simp] theorem setHome_homes (h : Nat) (x : Home) : (setHome m h x).homes = tset m.homes h x := rfl
@[simp] theorem setHome_now (h : Nat) (x : Home) : (setHome m h x).now = m.now := rfl
@[simp] theorem setHome_freeIdx (h : Nat) (x : Home) : (setHome m h x).freeIdx = m.freeIdx := rfl
@[simp] theorem setHome_tick (h : Nat) (x : Home) : (setHome m h x).tick = m.tick := rfl
@[simp] theorem setHome_out (h : Nat) (x : Home) : (setHome m h x).out = m.out := rfl
@[simp] theorem setHome_mode (h : Nat) (x : Home) : (setHome m h x).mode = m.mode := rfl
@[simp] theorem setHome_units (h : Nat) (x : Home) : (setHome m h x).units = m.units := rfl
@[simp] theorem setHome_resets (h : Nat) (x : Home) : (setHome m h x).resets = m.resets := rfl
@[simp] theorem setHome_errs (h : Nat) (x : Home) : (setHome m h x).errs = m.errs := rfl
@[simp] theorem setHome_notes (h : Nat) (x : Home) : (setHome m h x).notes = m.notes := rfl
@[simp] theorem setHome_noteSeq (h : Nat) (x : Home) : (setHome m h x).noteSeq = m.noteSeq := rfl
@[simp] theorem setHome_noteDropped (h : Nat) (x : Home) : (setHome m h x).noteDropped = m.noteDropped := rfl
@[simp] theorem setHome_evt (h : Nat) (x : Home) : (setHome m h x).evt = m.evt := rfl
@[simp] theorem setHome_leases (h : Nat) (x : Home) : (setHome m h x).leases = m.leases := rfl
@[simp] theorem setHome_hubTlb (h : Nat) (x : Home) : (setHome m h x).hubTlb = m.hubTlb := rfl
@[simp] theorem setHome_hubsLost (h : Nat) (x : Home) : (setHome m h x).hubsLost = m.hubsLost := rfl
@[simp] theorem setHome_image (h : Nat) (x : Home) : (setHome m h x).image = m.image := rfl
@[simp] theorem setHome_l2 (h : Nat) (x : Home) : (setHome m h x).l2 = m.l2 := rfl
@[simp] theorem setHome_mesh (h : Nat) (x : Home) : (setHome m h x).mesh = m.mesh := rfl
@[simp] theorem setHome_l1d (h : Nat) (x : Home) : (setHome m h x).l1d = m.l1d := rfl
@[simp] theorem setHome_l1i (h : Nat) (x : Home) : (setHome m h x).l1i = m.l1i := rfl
@[simp] theorem setHome_eside (h : Nat) (x : Home) : (setHome m h x).eside = m.eside := rfl
@[simp] theorem setHome_resv (h : Nat) (x : Home) : (setHome m h x).resv = m.resv := rfl
@[simp] theorem setHome_crange (h : Nat) (x : Home) : (setHome m h x).crange = m.crange := rfl
@[simp] theorem setHome_crangeBase (h : Nat) (x : Home) : (setHome m h x).crangeBase = m.crangeBase := rfl
@[simp] theorem setHome_crangeLen (h : Nat) (x : Home) : (setHome m h x).crangeLen = m.crangeLen := rfl
@[simp] theorem setHome_mem (h : Nat) (x : Home) : (setHome m h x).mem = m.mem := rfl
@[simp] theorem setHome_chans (h : Nat) (x : Home) : (setHome m h x).chans = m.chans := rfl
@[simp] theorem setHome_seams (h : Nat) (x : Home) : (setHome m h x).seams = m.seams := rfl
@[simp] theorem setHome_ident (h : Nat) (x : Home) : (setHome m h x).ident = m.ident := rfl
@[simp] theorem setHome_macBase (h : Nat) (x : Home) : (setHome m h x).macBase = m.macBase := rfl
@[simp] theorem setHome_answers (h : Nat) (x : Home) : (setHome m h x).answers = m.answers := rfl
@[simp] theorem setHome_chn (h : Nat) (x : Home) : (setHome m h x).chn = m.chn := rfl
@[simp] theorem setHome_links (h : Nat) (x : Home) : (setHome m h x).links = m.links := rfl
@[simp] theorem setHome_fqs (h : Nat) (x : Home) : (setHome m h x).fqs = m.fqs := rfl
@[simp] theorem setHome_pcie (h : Nat) (x : Home) : (setHome m h x).pcie = m.pcie := rfl
@[simp] theorem setHome_jobs (h : Nat) (x : Home) : (setHome m h x).jobs = m.jobs := rfl
@[simp] theorem setHome_engs (h : Nat) (x : Home) : (setHome m h x).engs = m.engs := rfl
@[simp] theorem setHome_benches (h : Nat) (x : Home) : (setHome m h x).benches = m.benches := rfl
@[simp] theorem setHome_stores (h : Nat) (x : Home) : (setHome m h x).stores = m.stores := rfl
@[simp] theorem setHome_microMask (h : Nat) (x : Home) : (setHome m h x).microMask = m.microMask := rfl
@[simp] theorem setHome_doms (h : Nat) (x : Home) : (setHome m h x).doms = m.doms := rfl
@[simp] theorem setHome_svc (h : Nat) (x : Home) : (setHome m h x).svc = m.svc := rfl
@[simp] theorem setHome_load (h : Nat) (x : Home) : (setHome m h x).load = m.load := rfl
@[simp] theorem setHome_flash (h : Nat) (x : Home) : (setHome m h x).flash = m.flash := rfl
@[simp] theorem setHome_subs (h : Nat) (x : Home) : (setHome m h x).subs = m.subs := rfl
@[simp] theorem setHome_pins (h : Nat) (x : Home) : (setHome m h x).pins = m.pins := rfl

/-! ### modHome -/

@[simp] theorem modHome_homes (h : Nat) (f : Home → Home) : (modHome m h f).homes = tset m.homes h (f (home m h)) := rfl
@[simp] theorem modHome_now (h : Nat) (f : Home → Home) : (modHome m h f).now = m.now := rfl
@[simp] theorem modHome_freeIdx (h : Nat) (f : Home → Home) : (modHome m h f).freeIdx = m.freeIdx := rfl
@[simp] theorem modHome_tick (h : Nat) (f : Home → Home) : (modHome m h f).tick = m.tick := rfl
@[simp] theorem modHome_out (h : Nat) (f : Home → Home) : (modHome m h f).out = m.out := rfl
@[simp] theorem modHome_mode (h : Nat) (f : Home → Home) : (modHome m h f).mode = m.mode := rfl
@[simp] theorem modHome_units (h : Nat) (f : Home → Home) : (modHome m h f).units = m.units := rfl
@[simp] theorem modHome_resets (h : Nat) (f : Home → Home) : (modHome m h f).resets = m.resets := rfl
@[simp] theorem modHome_errs (h : Nat) (f : Home → Home) : (modHome m h f).errs = m.errs := rfl
@[simp] theorem modHome_notes (h : Nat) (f : Home → Home) : (modHome m h f).notes = m.notes := rfl
@[simp] theorem modHome_noteSeq (h : Nat) (f : Home → Home) : (modHome m h f).noteSeq = m.noteSeq := rfl
@[simp] theorem modHome_noteDropped (h : Nat) (f : Home → Home) : (modHome m h f).noteDropped = m.noteDropped := rfl
@[simp] theorem modHome_evt (h : Nat) (f : Home → Home) : (modHome m h f).evt = m.evt := rfl
@[simp] theorem modHome_leases (h : Nat) (f : Home → Home) : (modHome m h f).leases = m.leases := rfl
@[simp] theorem modHome_hubTlb (h : Nat) (f : Home → Home) : (modHome m h f).hubTlb = m.hubTlb := rfl
@[simp] theorem modHome_hubsLost (h : Nat) (f : Home → Home) : (modHome m h f).hubsLost = m.hubsLost := rfl
@[simp] theorem modHome_image (h : Nat) (f : Home → Home) : (modHome m h f).image = m.image := rfl
@[simp] theorem modHome_l2 (h : Nat) (f : Home → Home) : (modHome m h f).l2 = m.l2 := rfl
@[simp] theorem modHome_mesh (h : Nat) (f : Home → Home) : (modHome m h f).mesh = m.mesh := rfl
@[simp] theorem modHome_l1d (h : Nat) (f : Home → Home) : (modHome m h f).l1d = m.l1d := rfl
@[simp] theorem modHome_l1i (h : Nat) (f : Home → Home) : (modHome m h f).l1i = m.l1i := rfl
@[simp] theorem modHome_eside (h : Nat) (f : Home → Home) : (modHome m h f).eside = m.eside := rfl
@[simp] theorem modHome_resv (h : Nat) (f : Home → Home) : (modHome m h f).resv = m.resv := rfl
@[simp] theorem modHome_crange (h : Nat) (f : Home → Home) : (modHome m h f).crange = m.crange := rfl
@[simp] theorem modHome_crangeBase (h : Nat) (f : Home → Home) : (modHome m h f).crangeBase = m.crangeBase := rfl
@[simp] theorem modHome_crangeLen (h : Nat) (f : Home → Home) : (modHome m h f).crangeLen = m.crangeLen := rfl
@[simp] theorem modHome_mem (h : Nat) (f : Home → Home) : (modHome m h f).mem = m.mem := rfl
@[simp] theorem modHome_chans (h : Nat) (f : Home → Home) : (modHome m h f).chans = m.chans := rfl
@[simp] theorem modHome_seams (h : Nat) (f : Home → Home) : (modHome m h f).seams = m.seams := rfl
@[simp] theorem modHome_ident (h : Nat) (f : Home → Home) : (modHome m h f).ident = m.ident := rfl
@[simp] theorem modHome_macBase (h : Nat) (f : Home → Home) : (modHome m h f).macBase = m.macBase := rfl
@[simp] theorem modHome_answers (h : Nat) (f : Home → Home) : (modHome m h f).answers = m.answers := rfl
@[simp] theorem modHome_chn (h : Nat) (f : Home → Home) : (modHome m h f).chn = m.chn := rfl
@[simp] theorem modHome_links (h : Nat) (f : Home → Home) : (modHome m h f).links = m.links := rfl
@[simp] theorem modHome_fqs (h : Nat) (f : Home → Home) : (modHome m h f).fqs = m.fqs := rfl
@[simp] theorem modHome_pcie (h : Nat) (f : Home → Home) : (modHome m h f).pcie = m.pcie := rfl
@[simp] theorem modHome_jobs (h : Nat) (f : Home → Home) : (modHome m h f).jobs = m.jobs := rfl
@[simp] theorem modHome_engs (h : Nat) (f : Home → Home) : (modHome m h f).engs = m.engs := rfl
@[simp] theorem modHome_benches (h : Nat) (f : Home → Home) : (modHome m h f).benches = m.benches := rfl
@[simp] theorem modHome_stores (h : Nat) (f : Home → Home) : (modHome m h f).stores = m.stores := rfl
@[simp] theorem modHome_microMask (h : Nat) (f : Home → Home) : (modHome m h f).microMask = m.microMask := rfl
@[simp] theorem modHome_doms (h : Nat) (f : Home → Home) : (modHome m h f).doms = m.doms := rfl
@[simp] theorem modHome_svc (h : Nat) (f : Home → Home) : (modHome m h f).svc = m.svc := rfl
@[simp] theorem modHome_load (h : Nat) (f : Home → Home) : (modHome m h f).load = m.load := rfl
@[simp] theorem modHome_flash (h : Nat) (f : Home → Home) : (modHome m h f).flash = m.flash := rfl
@[simp] theorem modHome_subs (h : Nat) (f : Home → Home) : (modHome m h f).subs = m.subs := rfl
@[simp] theorem modHome_pins (h : Nat) (f : Home → Home) : (modHome m h f).pins = m.pins := rfl

/-! ### setChan -/

@[simp] theorem setChan_chans (c : Nat) (x : Chan) : (setChan m c x).chans = tset m.chans c x := rfl
@[simp] theorem setChan_now (c : Nat) (x : Chan) : (setChan m c x).now = m.now := rfl
@[simp] theorem setChan_freeIdx (c : Nat) (x : Chan) : (setChan m c x).freeIdx = m.freeIdx := rfl
@[simp] theorem setChan_tick (c : Nat) (x : Chan) : (setChan m c x).tick = m.tick := rfl
@[simp] theorem setChan_out (c : Nat) (x : Chan) : (setChan m c x).out = m.out := rfl
@[simp] theorem setChan_mode (c : Nat) (x : Chan) : (setChan m c x).mode = m.mode := rfl
@[simp] theorem setChan_units (c : Nat) (x : Chan) : (setChan m c x).units = m.units := rfl
@[simp] theorem setChan_resets (c : Nat) (x : Chan) : (setChan m c x).resets = m.resets := rfl
@[simp] theorem setChan_errs (c : Nat) (x : Chan) : (setChan m c x).errs = m.errs := rfl
@[simp] theorem setChan_notes (c : Nat) (x : Chan) : (setChan m c x).notes = m.notes := rfl
@[simp] theorem setChan_noteSeq (c : Nat) (x : Chan) : (setChan m c x).noteSeq = m.noteSeq := rfl
@[simp] theorem setChan_noteDropped (c : Nat) (x : Chan) : (setChan m c x).noteDropped = m.noteDropped := rfl
@[simp] theorem setChan_evt (c : Nat) (x : Chan) : (setChan m c x).evt = m.evt := rfl
@[simp] theorem setChan_leases (c : Nat) (x : Chan) : (setChan m c x).leases = m.leases := rfl
@[simp] theorem setChan_hubTlb (c : Nat) (x : Chan) : (setChan m c x).hubTlb = m.hubTlb := rfl
@[simp] theorem setChan_hubsLost (c : Nat) (x : Chan) : (setChan m c x).hubsLost = m.hubsLost := rfl
@[simp] theorem setChan_image (c : Nat) (x : Chan) : (setChan m c x).image = m.image := rfl
@[simp] theorem setChan_l2 (c : Nat) (x : Chan) : (setChan m c x).l2 = m.l2 := rfl
@[simp] theorem setChan_homes (c : Nat) (x : Chan) : (setChan m c x).homes = m.homes := rfl
@[simp] theorem setChan_mesh (c : Nat) (x : Chan) : (setChan m c x).mesh = m.mesh := rfl
@[simp] theorem setChan_l1d (c : Nat) (x : Chan) : (setChan m c x).l1d = m.l1d := rfl
@[simp] theorem setChan_l1i (c : Nat) (x : Chan) : (setChan m c x).l1i = m.l1i := rfl
@[simp] theorem setChan_eside (c : Nat) (x : Chan) : (setChan m c x).eside = m.eside := rfl
@[simp] theorem setChan_resv (c : Nat) (x : Chan) : (setChan m c x).resv = m.resv := rfl
@[simp] theorem setChan_crange (c : Nat) (x : Chan) : (setChan m c x).crange = m.crange := rfl
@[simp] theorem setChan_crangeBase (c : Nat) (x : Chan) : (setChan m c x).crangeBase = m.crangeBase := rfl
@[simp] theorem setChan_crangeLen (c : Nat) (x : Chan) : (setChan m c x).crangeLen = m.crangeLen := rfl
@[simp] theorem setChan_mem (c : Nat) (x : Chan) : (setChan m c x).mem = m.mem := rfl
@[simp] theorem setChan_seams (c : Nat) (x : Chan) : (setChan m c x).seams = m.seams := rfl
@[simp] theorem setChan_ident (c : Nat) (x : Chan) : (setChan m c x).ident = m.ident := rfl
@[simp] theorem setChan_macBase (c : Nat) (x : Chan) : (setChan m c x).macBase = m.macBase := rfl
@[simp] theorem setChan_answers (c : Nat) (x : Chan) : (setChan m c x).answers = m.answers := rfl
@[simp] theorem setChan_chn (c : Nat) (x : Chan) : (setChan m c x).chn = m.chn := rfl
@[simp] theorem setChan_links (c : Nat) (x : Chan) : (setChan m c x).links = m.links := rfl
@[simp] theorem setChan_fqs (c : Nat) (x : Chan) : (setChan m c x).fqs = m.fqs := rfl
@[simp] theorem setChan_pcie (c : Nat) (x : Chan) : (setChan m c x).pcie = m.pcie := rfl
@[simp] theorem setChan_jobs (c : Nat) (x : Chan) : (setChan m c x).jobs = m.jobs := rfl
@[simp] theorem setChan_engs (c : Nat) (x : Chan) : (setChan m c x).engs = m.engs := rfl
@[simp] theorem setChan_benches (c : Nat) (x : Chan) : (setChan m c x).benches = m.benches := rfl
@[simp] theorem setChan_stores (c : Nat) (x : Chan) : (setChan m c x).stores = m.stores := rfl
@[simp] theorem setChan_microMask (c : Nat) (x : Chan) : (setChan m c x).microMask = m.microMask := rfl
@[simp] theorem setChan_doms (c : Nat) (x : Chan) : (setChan m c x).doms = m.doms := rfl
@[simp] theorem setChan_svc (c : Nat) (x : Chan) : (setChan m c x).svc = m.svc := rfl
@[simp] theorem setChan_load (c : Nat) (x : Chan) : (setChan m c x).load = m.load := rfl
@[simp] theorem setChan_flash (c : Nat) (x : Chan) : (setChan m c x).flash = m.flash := rfl
@[simp] theorem setChan_subs (c : Nat) (x : Chan) : (setChan m c x).subs = m.subs := rfl
@[simp] theorem setChan_pins (c : Nat) (x : Chan) : (setChan m c x).pins = m.pins := rfl

/-! ### modChan -/

@[simp] theorem modChan_chans (c : Nat) (f : Chan → Chan) : (modChan m c f).chans = tset m.chans c (f (chan m c)) := rfl
@[simp] theorem modChan_now (c : Nat) (f : Chan → Chan) : (modChan m c f).now = m.now := rfl
@[simp] theorem modChan_freeIdx (c : Nat) (f : Chan → Chan) : (modChan m c f).freeIdx = m.freeIdx := rfl
@[simp] theorem modChan_tick (c : Nat) (f : Chan → Chan) : (modChan m c f).tick = m.tick := rfl
@[simp] theorem modChan_out (c : Nat) (f : Chan → Chan) : (modChan m c f).out = m.out := rfl
@[simp] theorem modChan_mode (c : Nat) (f : Chan → Chan) : (modChan m c f).mode = m.mode := rfl
@[simp] theorem modChan_units (c : Nat) (f : Chan → Chan) : (modChan m c f).units = m.units := rfl
@[simp] theorem modChan_resets (c : Nat) (f : Chan → Chan) : (modChan m c f).resets = m.resets := rfl
@[simp] theorem modChan_errs (c : Nat) (f : Chan → Chan) : (modChan m c f).errs = m.errs := rfl
@[simp] theorem modChan_notes (c : Nat) (f : Chan → Chan) : (modChan m c f).notes = m.notes := rfl
@[simp] theorem modChan_noteSeq (c : Nat) (f : Chan → Chan) : (modChan m c f).noteSeq = m.noteSeq := rfl
@[simp] theorem modChan_noteDropped (c : Nat) (f : Chan → Chan) : (modChan m c f).noteDropped = m.noteDropped := rfl
@[simp] theorem modChan_evt (c : Nat) (f : Chan → Chan) : (modChan m c f).evt = m.evt := rfl
@[simp] theorem modChan_leases (c : Nat) (f : Chan → Chan) : (modChan m c f).leases = m.leases := rfl
@[simp] theorem modChan_hubTlb (c : Nat) (f : Chan → Chan) : (modChan m c f).hubTlb = m.hubTlb := rfl
@[simp] theorem modChan_hubsLost (c : Nat) (f : Chan → Chan) : (modChan m c f).hubsLost = m.hubsLost := rfl
@[simp] theorem modChan_image (c : Nat) (f : Chan → Chan) : (modChan m c f).image = m.image := rfl
@[simp] theorem modChan_l2 (c : Nat) (f : Chan → Chan) : (modChan m c f).l2 = m.l2 := rfl
@[simp] theorem modChan_homes (c : Nat) (f : Chan → Chan) : (modChan m c f).homes = m.homes := rfl
@[simp] theorem modChan_mesh (c : Nat) (f : Chan → Chan) : (modChan m c f).mesh = m.mesh := rfl
@[simp] theorem modChan_l1d (c : Nat) (f : Chan → Chan) : (modChan m c f).l1d = m.l1d := rfl
@[simp] theorem modChan_l1i (c : Nat) (f : Chan → Chan) : (modChan m c f).l1i = m.l1i := rfl
@[simp] theorem modChan_eside (c : Nat) (f : Chan → Chan) : (modChan m c f).eside = m.eside := rfl
@[simp] theorem modChan_resv (c : Nat) (f : Chan → Chan) : (modChan m c f).resv = m.resv := rfl
@[simp] theorem modChan_crange (c : Nat) (f : Chan → Chan) : (modChan m c f).crange = m.crange := rfl
@[simp] theorem modChan_crangeBase (c : Nat) (f : Chan → Chan) : (modChan m c f).crangeBase = m.crangeBase := rfl
@[simp] theorem modChan_crangeLen (c : Nat) (f : Chan → Chan) : (modChan m c f).crangeLen = m.crangeLen := rfl
@[simp] theorem modChan_mem (c : Nat) (f : Chan → Chan) : (modChan m c f).mem = m.mem := rfl
@[simp] theorem modChan_seams (c : Nat) (f : Chan → Chan) : (modChan m c f).seams = m.seams := rfl
@[simp] theorem modChan_ident (c : Nat) (f : Chan → Chan) : (modChan m c f).ident = m.ident := rfl
@[simp] theorem modChan_macBase (c : Nat) (f : Chan → Chan) : (modChan m c f).macBase = m.macBase := rfl
@[simp] theorem modChan_answers (c : Nat) (f : Chan → Chan) : (modChan m c f).answers = m.answers := rfl
@[simp] theorem modChan_chn (c : Nat) (f : Chan → Chan) : (modChan m c f).chn = m.chn := rfl
@[simp] theorem modChan_links (c : Nat) (f : Chan → Chan) : (modChan m c f).links = m.links := rfl
@[simp] theorem modChan_fqs (c : Nat) (f : Chan → Chan) : (modChan m c f).fqs = m.fqs := rfl
@[simp] theorem modChan_pcie (c : Nat) (f : Chan → Chan) : (modChan m c f).pcie = m.pcie := rfl
@[simp] theorem modChan_jobs (c : Nat) (f : Chan → Chan) : (modChan m c f).jobs = m.jobs := rfl
@[simp] theorem modChan_engs (c : Nat) (f : Chan → Chan) : (modChan m c f).engs = m.engs := rfl
@[simp] theorem modChan_benches (c : Nat) (f : Chan → Chan) : (modChan m c f).benches = m.benches := rfl
@[simp] theorem modChan_stores (c : Nat) (f : Chan → Chan) : (modChan m c f).stores = m.stores := rfl
@[simp] theorem modChan_microMask (c : Nat) (f : Chan → Chan) : (modChan m c f).microMask = m.microMask := rfl
@[simp] theorem modChan_doms (c : Nat) (f : Chan → Chan) : (modChan m c f).doms = m.doms := rfl
@[simp] theorem modChan_svc (c : Nat) (f : Chan → Chan) : (modChan m c f).svc = m.svc := rfl
@[simp] theorem modChan_load (c : Nat) (f : Chan → Chan) : (modChan m c f).load = m.load := rfl
@[simp] theorem modChan_flash (c : Nat) (f : Chan → Chan) : (modChan m c f).flash = m.flash := rfl
@[simp] theorem modChan_subs (c : Nat) (f : Chan → Chan) : (modChan m c f).subs = m.subs := rfl
@[simp] theorem modChan_pins (c : Nat) (f : Chan → Chan) : (modChan m c f).pins = m.pins := rfl

/-! ### setSeam -/

@[simp] theorem setSeam_seams (s : Nat) (x : Seam) : (setSeam m s x).seams = tset m.seams s x := rfl
@[simp] theorem setSeam_now (s : Nat) (x : Seam) : (setSeam m s x).now = m.now := rfl
@[simp] theorem setSeam_freeIdx (s : Nat) (x : Seam) : (setSeam m s x).freeIdx = m.freeIdx := rfl
@[simp] theorem setSeam_tick (s : Nat) (x : Seam) : (setSeam m s x).tick = m.tick := rfl
@[simp] theorem setSeam_out (s : Nat) (x : Seam) : (setSeam m s x).out = m.out := rfl
@[simp] theorem setSeam_mode (s : Nat) (x : Seam) : (setSeam m s x).mode = m.mode := rfl
@[simp] theorem setSeam_units (s : Nat) (x : Seam) : (setSeam m s x).units = m.units := rfl
@[simp] theorem setSeam_resets (s : Nat) (x : Seam) : (setSeam m s x).resets = m.resets := rfl
@[simp] theorem setSeam_errs (s : Nat) (x : Seam) : (setSeam m s x).errs = m.errs := rfl
@[simp] theorem setSeam_notes (s : Nat) (x : Seam) : (setSeam m s x).notes = m.notes := rfl
@[simp] theorem setSeam_noteSeq (s : Nat) (x : Seam) : (setSeam m s x).noteSeq = m.noteSeq := rfl
@[simp] theorem setSeam_noteDropped (s : Nat) (x : Seam) : (setSeam m s x).noteDropped = m.noteDropped := rfl
@[simp] theorem setSeam_evt (s : Nat) (x : Seam) : (setSeam m s x).evt = m.evt := rfl
@[simp] theorem setSeam_leases (s : Nat) (x : Seam) : (setSeam m s x).leases = m.leases := rfl
@[simp] theorem setSeam_hubTlb (s : Nat) (x : Seam) : (setSeam m s x).hubTlb = m.hubTlb := rfl
@[simp] theorem setSeam_hubsLost (s : Nat) (x : Seam) : (setSeam m s x).hubsLost = m.hubsLost := rfl
@[simp] theorem setSeam_image (s : Nat) (x : Seam) : (setSeam m s x).image = m.image := rfl
@[simp] theorem setSeam_l2 (s : Nat) (x : Seam) : (setSeam m s x).l2 = m.l2 := rfl
@[simp] theorem setSeam_homes (s : Nat) (x : Seam) : (setSeam m s x).homes = m.homes := rfl
@[simp] theorem setSeam_mesh (s : Nat) (x : Seam) : (setSeam m s x).mesh = m.mesh := rfl
@[simp] theorem setSeam_l1d (s : Nat) (x : Seam) : (setSeam m s x).l1d = m.l1d := rfl
@[simp] theorem setSeam_l1i (s : Nat) (x : Seam) : (setSeam m s x).l1i = m.l1i := rfl
@[simp] theorem setSeam_eside (s : Nat) (x : Seam) : (setSeam m s x).eside = m.eside := rfl
@[simp] theorem setSeam_resv (s : Nat) (x : Seam) : (setSeam m s x).resv = m.resv := rfl
@[simp] theorem setSeam_crange (s : Nat) (x : Seam) : (setSeam m s x).crange = m.crange := rfl
@[simp] theorem setSeam_crangeBase (s : Nat) (x : Seam) : (setSeam m s x).crangeBase = m.crangeBase := rfl
@[simp] theorem setSeam_crangeLen (s : Nat) (x : Seam) : (setSeam m s x).crangeLen = m.crangeLen := rfl
@[simp] theorem setSeam_mem (s : Nat) (x : Seam) : (setSeam m s x).mem = m.mem := rfl
@[simp] theorem setSeam_chans (s : Nat) (x : Seam) : (setSeam m s x).chans = m.chans := rfl
@[simp] theorem setSeam_ident (s : Nat) (x : Seam) : (setSeam m s x).ident = m.ident := rfl
@[simp] theorem setSeam_macBase (s : Nat) (x : Seam) : (setSeam m s x).macBase = m.macBase := rfl
@[simp] theorem setSeam_answers (s : Nat) (x : Seam) : (setSeam m s x).answers = m.answers := rfl
@[simp] theorem setSeam_chn (s : Nat) (x : Seam) : (setSeam m s x).chn = m.chn := rfl
@[simp] theorem setSeam_links (s : Nat) (x : Seam) : (setSeam m s x).links = m.links := rfl
@[simp] theorem setSeam_fqs (s : Nat) (x : Seam) : (setSeam m s x).fqs = m.fqs := rfl
@[simp] theorem setSeam_pcie (s : Nat) (x : Seam) : (setSeam m s x).pcie = m.pcie := rfl
@[simp] theorem setSeam_jobs (s : Nat) (x : Seam) : (setSeam m s x).jobs = m.jobs := rfl
@[simp] theorem setSeam_engs (s : Nat) (x : Seam) : (setSeam m s x).engs = m.engs := rfl
@[simp] theorem setSeam_benches (s : Nat) (x : Seam) : (setSeam m s x).benches = m.benches := rfl
@[simp] theorem setSeam_stores (s : Nat) (x : Seam) : (setSeam m s x).stores = m.stores := rfl
@[simp] theorem setSeam_microMask (s : Nat) (x : Seam) : (setSeam m s x).microMask = m.microMask := rfl
@[simp] theorem setSeam_doms (s : Nat) (x : Seam) : (setSeam m s x).doms = m.doms := rfl
@[simp] theorem setSeam_svc (s : Nat) (x : Seam) : (setSeam m s x).svc = m.svc := rfl
@[simp] theorem setSeam_load (s : Nat) (x : Seam) : (setSeam m s x).load = m.load := rfl
@[simp] theorem setSeam_flash (s : Nat) (x : Seam) : (setSeam m s x).flash = m.flash := rfl
@[simp] theorem setSeam_subs (s : Nat) (x : Seam) : (setSeam m s x).subs = m.subs := rfl
@[simp] theorem setSeam_pins (s : Nat) (x : Seam) : (setSeam m s x).pins = m.pins := rfl

/-! ### modSeam -/

@[simp] theorem modSeam_seams (s : Nat) (f : Seam → Seam) : (modSeam m s f).seams = tset m.seams s (f (seam m s)) := rfl
@[simp] theorem modSeam_now (s : Nat) (f : Seam → Seam) : (modSeam m s f).now = m.now := rfl
@[simp] theorem modSeam_freeIdx (s : Nat) (f : Seam → Seam) : (modSeam m s f).freeIdx = m.freeIdx := rfl
@[simp] theorem modSeam_tick (s : Nat) (f : Seam → Seam) : (modSeam m s f).tick = m.tick := rfl
@[simp] theorem modSeam_out (s : Nat) (f : Seam → Seam) : (modSeam m s f).out = m.out := rfl
@[simp] theorem modSeam_mode (s : Nat) (f : Seam → Seam) : (modSeam m s f).mode = m.mode := rfl
@[simp] theorem modSeam_units (s : Nat) (f : Seam → Seam) : (modSeam m s f).units = m.units := rfl
@[simp] theorem modSeam_resets (s : Nat) (f : Seam → Seam) : (modSeam m s f).resets = m.resets := rfl
@[simp] theorem modSeam_errs (s : Nat) (f : Seam → Seam) : (modSeam m s f).errs = m.errs := rfl
@[simp] theorem modSeam_notes (s : Nat) (f : Seam → Seam) : (modSeam m s f).notes = m.notes := rfl
@[simp] theorem modSeam_noteSeq (s : Nat) (f : Seam → Seam) : (modSeam m s f).noteSeq = m.noteSeq := rfl
@[simp] theorem modSeam_noteDropped (s : Nat) (f : Seam → Seam) : (modSeam m s f).noteDropped = m.noteDropped := rfl
@[simp] theorem modSeam_evt (s : Nat) (f : Seam → Seam) : (modSeam m s f).evt = m.evt := rfl
@[simp] theorem modSeam_leases (s : Nat) (f : Seam → Seam) : (modSeam m s f).leases = m.leases := rfl
@[simp] theorem modSeam_hubTlb (s : Nat) (f : Seam → Seam) : (modSeam m s f).hubTlb = m.hubTlb := rfl
@[simp] theorem modSeam_hubsLost (s : Nat) (f : Seam → Seam) : (modSeam m s f).hubsLost = m.hubsLost := rfl
@[simp] theorem modSeam_image (s : Nat) (f : Seam → Seam) : (modSeam m s f).image = m.image := rfl
@[simp] theorem modSeam_l2 (s : Nat) (f : Seam → Seam) : (modSeam m s f).l2 = m.l2 := rfl
@[simp] theorem modSeam_homes (s : Nat) (f : Seam → Seam) : (modSeam m s f).homes = m.homes := rfl
@[simp] theorem modSeam_mesh (s : Nat) (f : Seam → Seam) : (modSeam m s f).mesh = m.mesh := rfl
@[simp] theorem modSeam_l1d (s : Nat) (f : Seam → Seam) : (modSeam m s f).l1d = m.l1d := rfl
@[simp] theorem modSeam_l1i (s : Nat) (f : Seam → Seam) : (modSeam m s f).l1i = m.l1i := rfl
@[simp] theorem modSeam_eside (s : Nat) (f : Seam → Seam) : (modSeam m s f).eside = m.eside := rfl
@[simp] theorem modSeam_resv (s : Nat) (f : Seam → Seam) : (modSeam m s f).resv = m.resv := rfl
@[simp] theorem modSeam_crange (s : Nat) (f : Seam → Seam) : (modSeam m s f).crange = m.crange := rfl
@[simp] theorem modSeam_crangeBase (s : Nat) (f : Seam → Seam) : (modSeam m s f).crangeBase = m.crangeBase := rfl
@[simp] theorem modSeam_crangeLen (s : Nat) (f : Seam → Seam) : (modSeam m s f).crangeLen = m.crangeLen := rfl
@[simp] theorem modSeam_mem (s : Nat) (f : Seam → Seam) : (modSeam m s f).mem = m.mem := rfl
@[simp] theorem modSeam_chans (s : Nat) (f : Seam → Seam) : (modSeam m s f).chans = m.chans := rfl
@[simp] theorem modSeam_ident (s : Nat) (f : Seam → Seam) : (modSeam m s f).ident = m.ident := rfl
@[simp] theorem modSeam_macBase (s : Nat) (f : Seam → Seam) : (modSeam m s f).macBase = m.macBase := rfl
@[simp] theorem modSeam_answers (s : Nat) (f : Seam → Seam) : (modSeam m s f).answers = m.answers := rfl
@[simp] theorem modSeam_chn (s : Nat) (f : Seam → Seam) : (modSeam m s f).chn = m.chn := rfl
@[simp] theorem modSeam_links (s : Nat) (f : Seam → Seam) : (modSeam m s f).links = m.links := rfl
@[simp] theorem modSeam_fqs (s : Nat) (f : Seam → Seam) : (modSeam m s f).fqs = m.fqs := rfl
@[simp] theorem modSeam_pcie (s : Nat) (f : Seam → Seam) : (modSeam m s f).pcie = m.pcie := rfl
@[simp] theorem modSeam_jobs (s : Nat) (f : Seam → Seam) : (modSeam m s f).jobs = m.jobs := rfl
@[simp] theorem modSeam_engs (s : Nat) (f : Seam → Seam) : (modSeam m s f).engs = m.engs := rfl
@[simp] theorem modSeam_benches (s : Nat) (f : Seam → Seam) : (modSeam m s f).benches = m.benches := rfl
@[simp] theorem modSeam_stores (s : Nat) (f : Seam → Seam) : (modSeam m s f).stores = m.stores := rfl
@[simp] theorem modSeam_microMask (s : Nat) (f : Seam → Seam) : (modSeam m s f).microMask = m.microMask := rfl
@[simp] theorem modSeam_doms (s : Nat) (f : Seam → Seam) : (modSeam m s f).doms = m.doms := rfl
@[simp] theorem modSeam_svc (s : Nat) (f : Seam → Seam) : (modSeam m s f).svc = m.svc := rfl
@[simp] theorem modSeam_load (s : Nat) (f : Seam → Seam) : (modSeam m s f).load = m.load := rfl
@[simp] theorem modSeam_flash (s : Nat) (f : Seam → Seam) : (modSeam m s f).flash = m.flash := rfl
@[simp] theorem modSeam_subs (s : Nat) (f : Seam → Seam) : (modSeam m s f).subs = m.subs := rfl
@[simp] theorem modSeam_pins (s : Nat) (f : Seam → Seam) : (modSeam m s f).pins = m.pins := rfl

/-! ### modEvt -/

@[simp] theorem modEvt_evt (f : EvtSt → EvtSt) : (modEvt m f).evt = f m.evt := rfl
@[simp] theorem modEvt_now (f : EvtSt → EvtSt) : (modEvt m f).now = m.now := rfl
@[simp] theorem modEvt_freeIdx (f : EvtSt → EvtSt) : (modEvt m f).freeIdx = m.freeIdx := rfl
@[simp] theorem modEvt_tick (f : EvtSt → EvtSt) : (modEvt m f).tick = m.tick := rfl
@[simp] theorem modEvt_out (f : EvtSt → EvtSt) : (modEvt m f).out = m.out := rfl
@[simp] theorem modEvt_mode (f : EvtSt → EvtSt) : (modEvt m f).mode = m.mode := rfl
@[simp] theorem modEvt_units (f : EvtSt → EvtSt) : (modEvt m f).units = m.units := rfl
@[simp] theorem modEvt_resets (f : EvtSt → EvtSt) : (modEvt m f).resets = m.resets := rfl
@[simp] theorem modEvt_errs (f : EvtSt → EvtSt) : (modEvt m f).errs = m.errs := rfl
@[simp] theorem modEvt_notes (f : EvtSt → EvtSt) : (modEvt m f).notes = m.notes := rfl
@[simp] theorem modEvt_noteSeq (f : EvtSt → EvtSt) : (modEvt m f).noteSeq = m.noteSeq := rfl
@[simp] theorem modEvt_noteDropped (f : EvtSt → EvtSt) : (modEvt m f).noteDropped = m.noteDropped := rfl
@[simp] theorem modEvt_leases (f : EvtSt → EvtSt) : (modEvt m f).leases = m.leases := rfl
@[simp] theorem modEvt_hubTlb (f : EvtSt → EvtSt) : (modEvt m f).hubTlb = m.hubTlb := rfl
@[simp] theorem modEvt_hubsLost (f : EvtSt → EvtSt) : (modEvt m f).hubsLost = m.hubsLost := rfl
@[simp] theorem modEvt_image (f : EvtSt → EvtSt) : (modEvt m f).image = m.image := rfl
@[simp] theorem modEvt_l2 (f : EvtSt → EvtSt) : (modEvt m f).l2 = m.l2 := rfl
@[simp] theorem modEvt_homes (f : EvtSt → EvtSt) : (modEvt m f).homes = m.homes := rfl
@[simp] theorem modEvt_mesh (f : EvtSt → EvtSt) : (modEvt m f).mesh = m.mesh := rfl
@[simp] theorem modEvt_l1d (f : EvtSt → EvtSt) : (modEvt m f).l1d = m.l1d := rfl
@[simp] theorem modEvt_l1i (f : EvtSt → EvtSt) : (modEvt m f).l1i = m.l1i := rfl
@[simp] theorem modEvt_eside (f : EvtSt → EvtSt) : (modEvt m f).eside = m.eside := rfl
@[simp] theorem modEvt_resv (f : EvtSt → EvtSt) : (modEvt m f).resv = m.resv := rfl
@[simp] theorem modEvt_crange (f : EvtSt → EvtSt) : (modEvt m f).crange = m.crange := rfl
@[simp] theorem modEvt_crangeBase (f : EvtSt → EvtSt) : (modEvt m f).crangeBase = m.crangeBase := rfl
@[simp] theorem modEvt_crangeLen (f : EvtSt → EvtSt) : (modEvt m f).crangeLen = m.crangeLen := rfl
@[simp] theorem modEvt_mem (f : EvtSt → EvtSt) : (modEvt m f).mem = m.mem := rfl
@[simp] theorem modEvt_chans (f : EvtSt → EvtSt) : (modEvt m f).chans = m.chans := rfl
@[simp] theorem modEvt_seams (f : EvtSt → EvtSt) : (modEvt m f).seams = m.seams := rfl
@[simp] theorem modEvt_ident (f : EvtSt → EvtSt) : (modEvt m f).ident = m.ident := rfl
@[simp] theorem modEvt_macBase (f : EvtSt → EvtSt) : (modEvt m f).macBase = m.macBase := rfl
@[simp] theorem modEvt_answers (f : EvtSt → EvtSt) : (modEvt m f).answers = m.answers := rfl
@[simp] theorem modEvt_chn (f : EvtSt → EvtSt) : (modEvt m f).chn = m.chn := rfl
@[simp] theorem modEvt_links (f : EvtSt → EvtSt) : (modEvt m f).links = m.links := rfl
@[simp] theorem modEvt_fqs (f : EvtSt → EvtSt) : (modEvt m f).fqs = m.fqs := rfl
@[simp] theorem modEvt_pcie (f : EvtSt → EvtSt) : (modEvt m f).pcie = m.pcie := rfl
@[simp] theorem modEvt_jobs (f : EvtSt → EvtSt) : (modEvt m f).jobs = m.jobs := rfl
@[simp] theorem modEvt_engs (f : EvtSt → EvtSt) : (modEvt m f).engs = m.engs := rfl
@[simp] theorem modEvt_benches (f : EvtSt → EvtSt) : (modEvt m f).benches = m.benches := rfl
@[simp] theorem modEvt_stores (f : EvtSt → EvtSt) : (modEvt m f).stores = m.stores := rfl
@[simp] theorem modEvt_microMask (f : EvtSt → EvtSt) : (modEvt m f).microMask = m.microMask := rfl
@[simp] theorem modEvt_doms (f : EvtSt → EvtSt) : (modEvt m f).doms = m.doms := rfl
@[simp] theorem modEvt_svc (f : EvtSt → EvtSt) : (modEvt m f).svc = m.svc := rfl
@[simp] theorem modEvt_load (f : EvtSt → EvtSt) : (modEvt m f).load = m.load := rfl
@[simp] theorem modEvt_flash (f : EvtSt → EvtSt) : (modEvt m f).flash = m.flash := rfl
@[simp] theorem modEvt_subs (f : EvtSt → EvtSt) : (modEvt m f).subs = m.subs := rfl
@[simp] theorem modEvt_pins (f : EvtSt → EvtSt) : (modEvt m f).pins = m.pins := rfl

/-! ### modMode -/

@[simp] theorem modMode_mode (f : ModeSt → ModeSt) : (modMode m f).mode = f m.mode := rfl
@[simp] theorem modMode_now (f : ModeSt → ModeSt) : (modMode m f).now = m.now := rfl
@[simp] theorem modMode_freeIdx (f : ModeSt → ModeSt) : (modMode m f).freeIdx = m.freeIdx := rfl
@[simp] theorem modMode_tick (f : ModeSt → ModeSt) : (modMode m f).tick = m.tick := rfl
@[simp] theorem modMode_out (f : ModeSt → ModeSt) : (modMode m f).out = m.out := rfl
@[simp] theorem modMode_units (f : ModeSt → ModeSt) : (modMode m f).units = m.units := rfl
@[simp] theorem modMode_resets (f : ModeSt → ModeSt) : (modMode m f).resets = m.resets := rfl
@[simp] theorem modMode_errs (f : ModeSt → ModeSt) : (modMode m f).errs = m.errs := rfl
@[simp] theorem modMode_notes (f : ModeSt → ModeSt) : (modMode m f).notes = m.notes := rfl
@[simp] theorem modMode_noteSeq (f : ModeSt → ModeSt) : (modMode m f).noteSeq = m.noteSeq := rfl
@[simp] theorem modMode_noteDropped (f : ModeSt → ModeSt) : (modMode m f).noteDropped = m.noteDropped := rfl
@[simp] theorem modMode_evt (f : ModeSt → ModeSt) : (modMode m f).evt = m.evt := rfl
@[simp] theorem modMode_leases (f : ModeSt → ModeSt) : (modMode m f).leases = m.leases := rfl
@[simp] theorem modMode_hubTlb (f : ModeSt → ModeSt) : (modMode m f).hubTlb = m.hubTlb := rfl
@[simp] theorem modMode_hubsLost (f : ModeSt → ModeSt) : (modMode m f).hubsLost = m.hubsLost := rfl
@[simp] theorem modMode_image (f : ModeSt → ModeSt) : (modMode m f).image = m.image := rfl
@[simp] theorem modMode_l2 (f : ModeSt → ModeSt) : (modMode m f).l2 = m.l2 := rfl
@[simp] theorem modMode_homes (f : ModeSt → ModeSt) : (modMode m f).homes = m.homes := rfl
@[simp] theorem modMode_mesh (f : ModeSt → ModeSt) : (modMode m f).mesh = m.mesh := rfl
@[simp] theorem modMode_l1d (f : ModeSt → ModeSt) : (modMode m f).l1d = m.l1d := rfl
@[simp] theorem modMode_l1i (f : ModeSt → ModeSt) : (modMode m f).l1i = m.l1i := rfl
@[simp] theorem modMode_eside (f : ModeSt → ModeSt) : (modMode m f).eside = m.eside := rfl
@[simp] theorem modMode_resv (f : ModeSt → ModeSt) : (modMode m f).resv = m.resv := rfl
@[simp] theorem modMode_crange (f : ModeSt → ModeSt) : (modMode m f).crange = m.crange := rfl
@[simp] theorem modMode_crangeBase (f : ModeSt → ModeSt) : (modMode m f).crangeBase = m.crangeBase := rfl
@[simp] theorem modMode_crangeLen (f : ModeSt → ModeSt) : (modMode m f).crangeLen = m.crangeLen := rfl
@[simp] theorem modMode_mem (f : ModeSt → ModeSt) : (modMode m f).mem = m.mem := rfl
@[simp] theorem modMode_chans (f : ModeSt → ModeSt) : (modMode m f).chans = m.chans := rfl
@[simp] theorem modMode_seams (f : ModeSt → ModeSt) : (modMode m f).seams = m.seams := rfl
@[simp] theorem modMode_ident (f : ModeSt → ModeSt) : (modMode m f).ident = m.ident := rfl
@[simp] theorem modMode_macBase (f : ModeSt → ModeSt) : (modMode m f).macBase = m.macBase := rfl
@[simp] theorem modMode_answers (f : ModeSt → ModeSt) : (modMode m f).answers = m.answers := rfl
@[simp] theorem modMode_chn (f : ModeSt → ModeSt) : (modMode m f).chn = m.chn := rfl
@[simp] theorem modMode_links (f : ModeSt → ModeSt) : (modMode m f).links = m.links := rfl
@[simp] theorem modMode_fqs (f : ModeSt → ModeSt) : (modMode m f).fqs = m.fqs := rfl
@[simp] theorem modMode_pcie (f : ModeSt → ModeSt) : (modMode m f).pcie = m.pcie := rfl
@[simp] theorem modMode_jobs (f : ModeSt → ModeSt) : (modMode m f).jobs = m.jobs := rfl
@[simp] theorem modMode_engs (f : ModeSt → ModeSt) : (modMode m f).engs = m.engs := rfl
@[simp] theorem modMode_benches (f : ModeSt → ModeSt) : (modMode m f).benches = m.benches := rfl
@[simp] theorem modMode_stores (f : ModeSt → ModeSt) : (modMode m f).stores = m.stores := rfl
@[simp] theorem modMode_microMask (f : ModeSt → ModeSt) : (modMode m f).microMask = m.microMask := rfl
@[simp] theorem modMode_doms (f : ModeSt → ModeSt) : (modMode m f).doms = m.doms := rfl
@[simp] theorem modMode_svc (f : ModeSt → ModeSt) : (modMode m f).svc = m.svc := rfl
@[simp] theorem modMode_load (f : ModeSt → ModeSt) : (modMode m f).load = m.load := rfl
@[simp] theorem modMode_flash (f : ModeSt → ModeSt) : (modMode m f).flash = m.flash := rfl
@[simp] theorem modMode_subs (f : ModeSt → ModeSt) : (modMode m f).subs = m.subs := rfl
@[simp] theorem modMode_pins (f : ModeSt → ModeSt) : (modMode m f).pins = m.pins := rfl

/-! ### emit -/

@[simp] theorem emit_out (o : Out) : (emit m o).out = m.out ++ [o] := rfl
@[simp] theorem emit_now (o : Out) : (emit m o).now = m.now := rfl
@[simp] theorem emit_freeIdx (o : Out) : (emit m o).freeIdx = m.freeIdx := rfl
@[simp] theorem emit_tick (o : Out) : (emit m o).tick = m.tick := rfl
@[simp] theorem emit_mode (o : Out) : (emit m o).mode = m.mode := rfl
@[simp] theorem emit_units (o : Out) : (emit m o).units = m.units := rfl
@[simp] theorem emit_resets (o : Out) : (emit m o).resets = m.resets := rfl
@[simp] theorem emit_errs (o : Out) : (emit m o).errs = m.errs := rfl
@[simp] theorem emit_notes (o : Out) : (emit m o).notes = m.notes := rfl
@[simp] theorem emit_noteSeq (o : Out) : (emit m o).noteSeq = m.noteSeq := rfl
@[simp] theorem emit_noteDropped (o : Out) : (emit m o).noteDropped = m.noteDropped := rfl
@[simp] theorem emit_evt (o : Out) : (emit m o).evt = m.evt := rfl
@[simp] theorem emit_leases (o : Out) : (emit m o).leases = m.leases := rfl
@[simp] theorem emit_hubTlb (o : Out) : (emit m o).hubTlb = m.hubTlb := rfl
@[simp] theorem emit_hubsLost (o : Out) : (emit m o).hubsLost = m.hubsLost := rfl
@[simp] theorem emit_image (o : Out) : (emit m o).image = m.image := rfl
@[simp] theorem emit_l2 (o : Out) : (emit m o).l2 = m.l2 := rfl
@[simp] theorem emit_homes (o : Out) : (emit m o).homes = m.homes := rfl
@[simp] theorem emit_mesh (o : Out) : (emit m o).mesh = m.mesh := rfl
@[simp] theorem emit_l1d (o : Out) : (emit m o).l1d = m.l1d := rfl
@[simp] theorem emit_l1i (o : Out) : (emit m o).l1i = m.l1i := rfl
@[simp] theorem emit_eside (o : Out) : (emit m o).eside = m.eside := rfl
@[simp] theorem emit_resv (o : Out) : (emit m o).resv = m.resv := rfl
@[simp] theorem emit_crange (o : Out) : (emit m o).crange = m.crange := rfl
@[simp] theorem emit_crangeBase (o : Out) : (emit m o).crangeBase = m.crangeBase := rfl
@[simp] theorem emit_crangeLen (o : Out) : (emit m o).crangeLen = m.crangeLen := rfl
@[simp] theorem emit_mem (o : Out) : (emit m o).mem = m.mem := rfl
@[simp] theorem emit_chans (o : Out) : (emit m o).chans = m.chans := rfl
@[simp] theorem emit_seams (o : Out) : (emit m o).seams = m.seams := rfl
@[simp] theorem emit_ident (o : Out) : (emit m o).ident = m.ident := rfl
@[simp] theorem emit_macBase (o : Out) : (emit m o).macBase = m.macBase := rfl
@[simp] theorem emit_answers (o : Out) : (emit m o).answers = m.answers := rfl
@[simp] theorem emit_chn (o : Out) : (emit m o).chn = m.chn := rfl
@[simp] theorem emit_links (o : Out) : (emit m o).links = m.links := rfl
@[simp] theorem emit_fqs (o : Out) : (emit m o).fqs = m.fqs := rfl
@[simp] theorem emit_pcie (o : Out) : (emit m o).pcie = m.pcie := rfl
@[simp] theorem emit_jobs (o : Out) : (emit m o).jobs = m.jobs := rfl
@[simp] theorem emit_engs (o : Out) : (emit m o).engs = m.engs := rfl
@[simp] theorem emit_benches (o : Out) : (emit m o).benches = m.benches := rfl
@[simp] theorem emit_stores (o : Out) : (emit m o).stores = m.stores := rfl
@[simp] theorem emit_microMask (o : Out) : (emit m o).microMask = m.microMask := rfl
@[simp] theorem emit_doms (o : Out) : (emit m o).doms = m.doms := rfl
@[simp] theorem emit_svc (o : Out) : (emit m o).svc = m.svc := rfl
@[simp] theorem emit_load (o : Out) : (emit m o).load = m.load := rfl
@[simp] theorem emit_flash (o : Out) : (emit m o).flash = m.flash := rfl
@[simp] theorem emit_subs (o : Out) : (emit m o).subs = m.subs := rfl
@[simp] theorem emit_pins (o : Out) : (emit m o).pins = m.pins := rfl

/-! ### send -/

@[simp] theorem send_mesh (x : Msg) : (send m x).mesh = m.mesh ++ [x] := rfl
@[simp] theorem send_now (x : Msg) : (send m x).now = m.now := rfl
@[simp] theorem send_freeIdx (x : Msg) : (send m x).freeIdx = m.freeIdx := rfl
@[simp] theorem send_tick (x : Msg) : (send m x).tick = m.tick := rfl
@[simp] theorem send_out (x : Msg) : (send m x).out = m.out := rfl
@[simp] theorem send_mode (x : Msg) : (send m x).mode = m.mode := rfl
@[simp] theorem send_units (x : Msg) : (send m x).units = m.units := rfl
@[simp] theorem send_resets (x : Msg) : (send m x).resets = m.resets := rfl
@[simp] theorem send_errs (x : Msg) : (send m x).errs = m.errs := rfl
@[simp] theorem send_notes (x : Msg) : (send m x).notes = m.notes := rfl
@[simp] theorem send_noteSeq (x : Msg) : (send m x).noteSeq = m.noteSeq := rfl
@[simp] theorem send_noteDropped (x : Msg) : (send m x).noteDropped = m.noteDropped := rfl
@[simp] theorem send_evt (x : Msg) : (send m x).evt = m.evt := rfl
@[simp] theorem send_leases (x : Msg) : (send m x).leases = m.leases := rfl
@[simp] theorem send_hubTlb (x : Msg) : (send m x).hubTlb = m.hubTlb := rfl
@[simp] theorem send_hubsLost (x : Msg) : (send m x).hubsLost = m.hubsLost := rfl
@[simp] theorem send_image (x : Msg) : (send m x).image = m.image := rfl
@[simp] theorem send_l2 (x : Msg) : (send m x).l2 = m.l2 := rfl
@[simp] theorem send_homes (x : Msg) : (send m x).homes = m.homes := rfl
@[simp] theorem send_l1d (x : Msg) : (send m x).l1d = m.l1d := rfl
@[simp] theorem send_l1i (x : Msg) : (send m x).l1i = m.l1i := rfl
@[simp] theorem send_eside (x : Msg) : (send m x).eside = m.eside := rfl
@[simp] theorem send_resv (x : Msg) : (send m x).resv = m.resv := rfl
@[simp] theorem send_crange (x : Msg) : (send m x).crange = m.crange := rfl
@[simp] theorem send_crangeBase (x : Msg) : (send m x).crangeBase = m.crangeBase := rfl
@[simp] theorem send_crangeLen (x : Msg) : (send m x).crangeLen = m.crangeLen := rfl
@[simp] theorem send_mem (x : Msg) : (send m x).mem = m.mem := rfl
@[simp] theorem send_chans (x : Msg) : (send m x).chans = m.chans := rfl
@[simp] theorem send_seams (x : Msg) : (send m x).seams = m.seams := rfl
@[simp] theorem send_ident (x : Msg) : (send m x).ident = m.ident := rfl
@[simp] theorem send_macBase (x : Msg) : (send m x).macBase = m.macBase := rfl
@[simp] theorem send_answers (x : Msg) : (send m x).answers = m.answers := rfl
@[simp] theorem send_chn (x : Msg) : (send m x).chn = m.chn := rfl
@[simp] theorem send_links (x : Msg) : (send m x).links = m.links := rfl
@[simp] theorem send_fqs (x : Msg) : (send m x).fqs = m.fqs := rfl
@[simp] theorem send_pcie (x : Msg) : (send m x).pcie = m.pcie := rfl
@[simp] theorem send_jobs (x : Msg) : (send m x).jobs = m.jobs := rfl
@[simp] theorem send_engs (x : Msg) : (send m x).engs = m.engs := rfl
@[simp] theorem send_benches (x : Msg) : (send m x).benches = m.benches := rfl
@[simp] theorem send_stores (x : Msg) : (send m x).stores = m.stores := rfl
@[simp] theorem send_microMask (x : Msg) : (send m x).microMask = m.microMask := rfl
@[simp] theorem send_doms (x : Msg) : (send m x).doms = m.doms := rfl
@[simp] theorem send_svc (x : Msg) : (send m x).svc = m.svc := rfl
@[simp] theorem send_load (x : Msg) : (send m x).load = m.load := rfl
@[simp] theorem send_flash (x : Msg) : (send m x).flash = m.flash := rfl
@[simp] theorem send_subs (x : Msg) : (send m x).subs = m.subs := rfl
@[simp] theorem send_pins (x : Msg) : (send m x).pins = m.pins := rfl

/-! ### touch -/

@[simp] theorem touch_tick : (touch m).tick = m.tick + 1 := rfl
@[simp] theorem touch_now : (touch m).now = m.now := rfl
@[simp] theorem touch_freeIdx : (touch m).freeIdx = m.freeIdx := rfl
@[simp] theorem touch_out : (touch m).out = m.out := rfl
@[simp] theorem touch_mode : (touch m).mode = m.mode := rfl
@[simp] theorem touch_units : (touch m).units = m.units := rfl
@[simp] theorem touch_resets : (touch m).resets = m.resets := rfl
@[simp] theorem touch_errs : (touch m).errs = m.errs := rfl
@[simp] theorem touch_notes : (touch m).notes = m.notes := rfl
@[simp] theorem touch_noteSeq : (touch m).noteSeq = m.noteSeq := rfl
@[simp] theorem touch_noteDropped : (touch m).noteDropped = m.noteDropped := rfl
@[simp] theorem touch_evt : (touch m).evt = m.evt := rfl
@[simp] theorem touch_leases : (touch m).leases = m.leases := rfl
@[simp] theorem touch_hubTlb : (touch m).hubTlb = m.hubTlb := rfl
@[simp] theorem touch_hubsLost : (touch m).hubsLost = m.hubsLost := rfl
@[simp] theorem touch_image : (touch m).image = m.image := rfl
@[simp] theorem touch_l2 : (touch m).l2 = m.l2 := rfl
@[simp] theorem touch_homes : (touch m).homes = m.homes := rfl
@[simp] theorem touch_mesh : (touch m).mesh = m.mesh := rfl
@[simp] theorem touch_l1d : (touch m).l1d = m.l1d := rfl
@[simp] theorem touch_l1i : (touch m).l1i = m.l1i := rfl
@[simp] theorem touch_eside : (touch m).eside = m.eside := rfl
@[simp] theorem touch_resv : (touch m).resv = m.resv := rfl
@[simp] theorem touch_crange : (touch m).crange = m.crange := rfl
@[simp] theorem touch_crangeBase : (touch m).crangeBase = m.crangeBase := rfl
@[simp] theorem touch_crangeLen : (touch m).crangeLen = m.crangeLen := rfl
@[simp] theorem touch_mem : (touch m).mem = m.mem := rfl
@[simp] theorem touch_chans : (touch m).chans = m.chans := rfl
@[simp] theorem touch_seams : (touch m).seams = m.seams := rfl
@[simp] theorem touch_ident : (touch m).ident = m.ident := rfl
@[simp] theorem touch_macBase : (touch m).macBase = m.macBase := rfl
@[simp] theorem touch_answers : (touch m).answers = m.answers := rfl
@[simp] theorem touch_chn : (touch m).chn = m.chn := rfl
@[simp] theorem touch_links : (touch m).links = m.links := rfl
@[simp] theorem touch_fqs : (touch m).fqs = m.fqs := rfl
@[simp] theorem touch_pcie : (touch m).pcie = m.pcie := rfl
@[simp] theorem touch_jobs : (touch m).jobs = m.jobs := rfl
@[simp] theorem touch_engs : (touch m).engs = m.engs := rfl
@[simp] theorem touch_benches : (touch m).benches = m.benches := rfl
@[simp] theorem touch_stores : (touch m).stores = m.stores := rfl
@[simp] theorem touch_microMask : (touch m).microMask = m.microMask := rfl
@[simp] theorem touch_doms : (touch m).doms = m.doms := rfl
@[simp] theorem touch_svc : (touch m).svc = m.svc := rfl
@[simp] theorem touch_load : (touch m).load = m.load := rfl
@[simp] theorem touch_flash : (touch m).flash = m.flash := rfl
@[simp] theorem touch_subs : (touch m).subs = m.subs := rfl
@[simp] theorem touch_pins : (touch m).pins = m.pins := rfl

end Sys2Proof.Machine
end

