-- ==== Sys2Proof/Laws/Tables.lean ====
section
/-! SUPPORT. The laws of tables (a key set, a key removed, another key) and of main memory: a byte written reads back, every other byte is
as it was, and every operation keeps the canonical form. -/

namespace Sys2Proof.Machine

variable {α : Type}

/-! ## Tables -/

@[simp] theorem tfind_nil (k : Nat) : tfind ([] : Tbl α) k = none := rfl

@[simp] theorem tfind_tset_self (t : Tbl α) (k : Nat) (v : α) : tfind (tset t k v) k = some v := by
  induction t with
  | nil => simp [tset, tfind]
  | cons p r ih => simp only [tset]; split <;> simp_all [tfind]

theorem tfind_tset_ne (t : Tbl α) (k k' : Nat) (v : α) (h : k ≠ k') : tfind (tset t k v) k' = tfind t k' := by
  induction t with
  | nil => simp [tset, tfind, h]
  | cons p r ih =>
    simp only [tset]; split
    · next e => subst e; simp [tfind, h]
    · simp only [tfind, ih]

@[simp] theorem tget_nil (k : Nat) (d : α) : tget ([] : Tbl α) k d = d := rfl

@[simp] theorem tget_tset_self (t : Tbl α) (k : Nat) (v d : α) : tget (tset t k v) k d = v := by simp [tget]

theorem tget_tset_ne (t : Tbl α) (k k' : Nat) (v d : α) (h : k ≠ k') : tget (tset t k v) k' d = tget t k' d := by
  simp [tget, tfind_tset_ne t k k' v h]

/-- A table set at a key reads the new value there and the old one elsewhere. -/
theorem tget_tset (t : Tbl α) (k k' : Nat) (v d : α) : tget (tset t k v) k' d = if k = k' then v else tget t k' d := by
  split
  · next e => subst e; simp
  · next e => exact tget_tset_ne t k k' v d e

@[simp] theorem tfind_tdel_self (t : Tbl α) (k : Nat) : tfind (tdel t k) k = none := by
  induction t with
  | nil => rfl
  | cons p r ih =>
    simp only [tdel, List.filter_cons]; split
    · next e => simp only [tfind]; rw [if_neg (by simpa using e)]; exact ih
    · exact ih

theorem tfind_tdel_ne (t : Tbl α) (k k' : Nat) (h : k ≠ k') : tfind (tdel t k) k' = tfind t k' := by
  induction t with
  | nil => rfl
  | cons p r ih =>
    simp only [tdel, List.filter_cons] at ih ⊢; split
    · simp only [tfind, ih]
    · next e =>
      have : p.1 = k := by simpa using e
      simp only [tfind, this, if_neg h]; exact ih

/-! ## Vectors -/

theorem vget_vset_self {n : Nat} (v : Vector α n) (i : Nat) (x d : α) (h : i < n) : vget (vset v i x) i d = x := by
  simp [vget, vset, List.getD, h]

theorem vget_vset_ne {n : Nat} (v : Vector α n) (i j : Nat) (x d : α) (h : i ≠ j) : vget (vset v i x) j d = vget v j d := by
  simp [vget, vset, List.getD, h]

theorem vget_vmap {n : Nat} (f : α → α) (v : Vector α n) (i : Nat) (d : α) (h : i < n) : vget (vmap f v) i d = f (vget v i d) := by
  simp [vget, vmap, List.getD, h]

theorem vget_vof {n : Nat} (f : Nat → α) (i : Nat) (d : α) (h : i < n) : vget (vof n f) i d = f i := by
  simp [vget, vof, List.getD, h]

/-! ## The cells of memory -/

/-- Every listed address is above a bound. -/
def cellsAbove (b : Nat) (c : List Host.Cell) : Prop := ∀ p ∈ c, b < p.1

theorem cellsWf_cons (k : Nat) (v : Byte) (r : List Host.Cell) :
    cellsWf ((k, v) :: r) = true ↔ v ≠ 0 ∧ cellsAbove k r ∧ cellsWf r = true := by
  induction r generalizing k v with
  | nil => simp [cellsWf, cellsAbove]
  | cons p r ih =>
    obtain ⟨k', v'⟩ := p
    have ih' := ih k' v'
    simp only [cellsWf, Bool.and_eq_true, decide_eq_true_eq, bne_iff_ne, cellsAbove, List.mem_cons, forall_eq_or_imp] at ih' ⊢
    constructor
    · rintro ⟨⟨h1, h2⟩, h3⟩
      exact ⟨h2, ⟨h1, fun q hq => lt_trans h1 ((ih'.1 h3).2.1 q hq)⟩, h3⟩
    · rintro ⟨h1, ⟨h2, _⟩, h3⟩
      exact ⟨⟨h2, h1⟩, h3⟩

theorem cellSet_mem (c : List Host.Cell) (a : Nat) (x : Byte) (p : Host.Cell) (h : p ∈ cellSet c a x) : p.1 = a ∨ p ∈ c := by
  induction c with
  | nil => simp only [cellSet] at h; split at h <;> simp_all
  | cons q r ih =>
    obtain ⟨k, v⟩ := q
    simp only [cellSet] at h
    split at h
    · split at h
      · exact .inr (List.mem_cons_of_mem _ h)
      · rcases List.mem_cons.1 h with h | h
        · exact .inl (by rw [h])
        · exact .inr (List.mem_cons_of_mem _ h)
    · split at h
      · split at h
        · exact .inr h
        · rcases List.mem_cons.1 h with h | h
          · exact .inl (by rw [h])
          · exact .inr h
      · rcases List.mem_cons.1 h with h | h
        · exact .inr (by rw [h]; exact List.mem_cons_self)
        · rcases ih h with h | h
          · exact .inl h
          · exact .inr (List.mem_cons_of_mem _ h)

/-- A byte written keeps the canonical form. -/
theorem cellSet_wf (c : List Host.Cell) (a : Nat) (x : Byte) (h : cellsWf c = true) : cellsWf (cellSet c a x) = true := by
  induction c with
  | nil => simp only [cellSet]; split <;> simp_all [cellsWf]
  | cons q r ih =>
    obtain ⟨k, v⟩ := q
    have ⟨hv, ha, hr⟩ := (cellsWf_cons k v r).1 h
    simp only [cellSet]
    split
    · next e =>
      subst e; split
      · exact hr
      · next hx => exact (cellsWf_cons _ _ _).2 ⟨hx, ha, hr⟩
    · next e =>
      split
      · next lt =>
        split
        · exact h
        · next hx =>
          refine (cellsWf_cons _ _ _).2 ⟨hx, ?_, h⟩
          intro p hp
          rcases List.mem_cons.1 hp with hp | hp
          · rw [hp]; exact lt
          · exact lt_trans lt (ha p hp)
      · next lt =>
        refine (cellsWf_cons _ _ _).2 ⟨hv, ?_, ih hr⟩
        intro p hp
        rcases cellSet_mem r a x p hp with hp | hp
        · omega
        · exact ha p hp

theorem cellsSet_wf (b : Bytes) : ∀ (c : List Host.Cell) (a : Nat), cellsWf c = true → cellsWf (cellsSet c a b) = true := by
  induction b with
  | nil => intro c a h; exact h
  | cons x r ih => intro c a h; exact ih _ _ (cellSet_wf c a x h)

/-- Below every listed address a byte reads 0. -/
theorem cellGet_above (c : List Host.Cell) (a : Nat) (h : cellsAbove a c) : cellGet c a = 0 := by
  cases c with
  | nil => rfl
  | cons q r =>
    obtain ⟨k, v⟩ := q
    have : a < k := h (k, v) List.mem_cons_self
    simp only [cellGet]; rw [if_neg (by omega), if_pos this]

/-- The byte written is the byte read. -/
theorem cellGet_cellSet_self (c : List Host.Cell) (a : Nat) (x : Byte) (h : cellsWf c = true) : cellGet (cellSet c a x) a = x := by
  induction c with
  | nil => simp only [cellSet]; split <;> simp_all [cellGet]
  | cons q r ih =>
    obtain ⟨k, v⟩ := q
    have ⟨hv, ha, hr⟩ := (cellsWf_cons k v r).1 h
    simp only [cellSet]
    split
    · next e =>
      subst e; split
      · next hx => rw [hx]; exact cellGet_above r k ha
      · simp [cellGet]
    · next e =>
      split
      · next lt =>
        split
        · next hx => rw [hx]; simp [cellGet, e, lt]
        · simp [cellGet]
      · next lt => simp only [cellGet]; rw [if_neg e, if_neg lt]; exact ih hr

/-- A byte written leaves every other byte as it was. -/
theorem cellGet_cellSet_ne (c : List Host.Cell) (a a' : Nat) (x : Byte) (h : cellsWf c = true) (n : a ≠ a') :
    cellGet (cellSet c a x) a' = cellGet c a' := by
  induction c with
  | nil => simp only [cellSet]; split <;> simp [cellGet, n]
  | cons q r ih =>
    obtain ⟨k, v⟩ := q
    have ⟨hv, ha, hr⟩ := (cellsWf_cons k v r).1 h
    simp only [cellSet]
    split
    · next e =>
      subst e; split
      · simp only [cellGet]; rw [if_neg n]; split
        · next lt => exact cellGet_above r a' (fun p hp => lt_trans lt (ha p hp))
        · rfl
      · simp only [cellGet]; rw [if_neg n, if_neg n]
    · next e =>
      split
      · next lt =>
        split
        · rfl
        · simp only [cellGet]; rw [if_neg n]
          split
          · next l2 =>
            split
            · omega
            · rw [if_pos (by omega)]
          · rfl
      · simp only [cellGet, ih hr]

theorem cellsSet_get_outside (b : Bytes) : ∀ (c : List Host.Cell) (a k : Nat), cellsWf c = true → (k < a ∨ a + b.length ≤ k) →
    cellGet (cellsSet c a b) k = cellGet c k := by
  induction b with
  | nil => intro c a k _ _; rfl
  | cons x r ih =>
    intro c a k h out
    simp only [List.length_cons] at out
    rw [show cellsSet c a (x :: r) = cellsSet (cellSet c a x) (a + 1) r from rfl, ih _ _ _ (cellSet_wf c a x h) (by omega),
      cellGet_cellSet_ne c a k x h (by omega)]

theorem cellsSet_get_inside (b : Bytes) : ∀ (c : List Host.Cell) (a i : Nat), cellsWf c = true → i < b.length →
    cellGet (cellsSet c a b) (a + i) = b.getD i 0 := by
  induction b with
  | nil => intro c a i _ hi; simp at hi
  | cons x r ih =>
    intro c a i h hi
    rw [show cellsSet c a (x :: r) = cellsSet (cellSet c a x) (a + 1) r from rfl]
    cases i with
    | zero =>
      rw [cellsSet_get_outside r _ _ _ (cellSet_wf c a x h) (by omega)]; exact cellGet_cellSet_self c a x h
    | succ j =>
      have := ih (cellSet c a x) (a + 1) j (cellSet_wf c a x h) (by simpa using hi)
      rw [show a + (j + 1) = a + 1 + j by omega, this]; simp

/-! ## Main memory -/

theorem insNat_mem (l : List Nat) (n x : Nat) : x ∈ insNat l n ↔ x = n ∨ x ∈ l := by
  induction l with
  | nil => simp [insNat]
  | cons y r ih =>
    simp only [insNat]; split
    · next e => subst e; simp
    · split
      · simp
      · simp [ih]; tauto

theorem insNat_rising (l : List Nat) (n : Nat) (h : l.Pairwise (· < ·)) : (insNat l n).Pairwise (· < ·) := by
  induction l with
  | nil => simp [insNat]
  | cons y r ih =>
    have ⟨h1, h2⟩ := List.pairwise_cons.1 h
    simp only [insNat]; split
    · exact h
    · split
      · next ne lt =>
        refine List.pairwise_cons.2 ⟨?_, h⟩
        intro z hz
        rcases List.mem_cons.1 hz with hz | hz
        · omega
        · have := h1 z hz; omega
      · next ne lt =>
        refine List.pairwise_cons.2 ⟨?_, ih h2⟩
        intro z hz
        rcases (insNat_mem r n z).1 hz with hz | hz
        · omega
        · exact h1 z hz

theorem Memory.wf_iff (x : Memory) : x.wf = true ↔ cellsWf x.cells = true ∧ x.poisoned.Pairwise (· < ·) := by
  simp [Memory.wf]

/-- Memory at reset is in its canonical form. -/
theorem Memory.wf_reset : Memory.reset.wf = true := by decide

theorem memPut_cells (x : Memory) (n : Nat) (d : Line) (p : Bool) : 
    (memPut x n d p).cells = cellsSet x.cells (256 * n) (lineBytes d) := by rw [memPut]
theorem memPut_poisoned (x : Memory) (n : Nat) (d : Line) (p : Bool) :
    (memPut x n d p).poisoned = if p then insNat x.poisoned n else x.poisoned.filter (fun k => k != n) := by rw [memPut]

/-- A whole line written keeps the canonical form. -/
theorem memPut_wf (x : Memory) (n : Nat) (d : Line) (p : Bool) (h : x.wf = true) : (memPut x n d p).wf = true := by
  have ⟨hc, hp⟩ := (Memory.wf_iff x).1 h
  rw [Memory.wf_iff, memPut_cells, memPut_poisoned]
  refine ⟨cellsSet_wf _ _ _ hc, ?_⟩
  split
  · exact insNat_rising _ _ hp
  · exact hp.filter _

/-- A line marked poisoned keeps the canonical form. -/
theorem memPoison_wf (x : Memory) (n : Nat) (h : x.wf = true) : (memPoison x n).wf = true := by
  have ⟨hc, hp⟩ := (Memory.wf_iff x).1 h
  exact (Memory.wf_iff _).2 ⟨hc, insNat_rising _ _ hp⟩

@[simp] theorem lineBytes_length (d : Line) : (lineBytes d).length = 256 := (List.length_map _).trans List.length_range

/-- A line written leaves every byte outside it as it was. -/
theorem memPut_outside (x : Memory) (n a : Nat) (d : Line) (p : Bool) (h : x.wf = true) (out : a / 256 ≠ n) :
    cellGet (memPut x n d p).cells a = cellGet x.cells a := by
  rw [memPut_cells]
  refine cellsSet_get_outside _ _ _ _ ((Memory.wf_iff x).1 h).1 ?_
  rw [lineBytes_length]; omega

/-- A line written holds its bytes. -/
theorem memPut_inside (x : Memory) (n i : Nat) (d : Line) (p : Bool) (h : x.wf = true) (hi : i < 256) :
    cellGet (memPut x n d p).cells (256 * n + i) = (lineBytes d).getD i 0 := by
  rw [memPut_cells]
  exact cellsSet_get_inside _ _ _ _ ((Memory.wf_iff x).1 h).1 (by rw [lineBytes_length]; exact hi)

end Sys2Proof.Machine
end

