-- ==== Sys2Proof/Laws/Frames.lean ====
section
/-! SUPPORT. What taking a stamp, a notification, an event and an error record can do: they write the logs, the event window, the counters
of the unit and of the lease, and nothing else. Callers cite `Logged` and do not unfold these operations. -/

namespace Sys2Proof.Machine

/-- The machine after is the one before but for the logs, the event blocks, the output record, the free values used, the error counts of
units and the event counts of leases. -/
structure Logged (m m' : Mach) : Prop where
  now : m'.now = m.now
  tick : m'.tick = m.tick
  mode : m'.mode = m.mode
  hubTlb : m'.hubTlb = m.hubTlb
  hubsLost : m'.hubsLost = m.hubsLost
  image : m'.image = m.image
  l2 : m'.l2 = m.l2
  homes : m'.homes = m.homes
  mesh : m'.mesh = m.mesh
  l1d : m'.l1d = m.l1d
  l1i : m'.l1i = m.l1i
  eside : m'.eside = m.eside
  resv : m'.resv = m.resv
  crange : m'.crange = m.crange
  crangeBase : m'.crangeBase = m.crangeBase
  crangeLen : m'.crangeLen = m.crangeLen
  mem : m'.mem = m.mem
  chans : m'.chans = m.chans
  seams : m'.seams = m.seams
  ident : m'.ident = m.ident
  macBase : m'.macBase = m.macBase
  answers : m'.answers = m.answers
  chn : m'.chn = m.chn
  links : m'.links = m.links
  fqs : m'.fqs = m.fqs
  pcie : m'.pcie = m.pcie
  jobs : m'.jobs = m.jobs
  engs : m'.engs = m.engs
  benches : m'.benches = m.benches
  stores : m'.stores = m.stores
  microMask : m'.microMask = m.microMask
  doms : m'.doms = m.doms
  svc : m'.svc = m.svc
  load : m'.load = m.load
  flash : m'.flash = m.flash
  subs : m'.subs = m.subs
  pins : m'.pins = m.pins
  ustate : ∀ k i, Machine.ustate m' k i = Machine.ustate m k i
  lease : ∀ l, ∃ n, Machine.lease m' l = { Machine.lease m l with evtIssued := n }

theorem Logged.refl (m : Mach) : Logged m m := by constructor <;> first | rfl | (intros; rfl) | exact fun _ => ⟨_, rfl⟩

theorem Logged.trans {a b c : Mach} (h : Logged a b) (g : Logged b c) : Logged a c where
  now := g.now.trans h.now
  tick := g.tick.trans h.tick
  mode := g.mode.trans h.mode
  hubTlb := g.hubTlb.trans h.hubTlb
  hubsLost := g.hubsLost.trans h.hubsLost
  image := g.image.trans h.image
  l2 := g.l2.trans h.l2
  homes := g.homes.trans h.homes
  mesh := g.mesh.trans h.mesh
  l1d := g.l1d.trans h.l1d
  l1i := g.l1i.trans h.l1i
  eside := g.eside.trans h.eside
  resv := g.resv.trans h.resv
  crange := g.crange.trans h.crange
  crangeBase := g.crangeBase.trans h.crangeBase
  crangeLen := g.crangeLen.trans h.crangeLen
  mem := g.mem.trans h.mem
  chans := g.chans.trans h.chans
  seams := g.seams.trans h.seams
  ident := g.ident.trans h.ident
  macBase := g.macBase.trans h.macBase
  answers := g.answers.trans h.answers
  chn := g.chn.trans h.chn
  links := g.links.trans h.links
  fqs := g.fqs.trans h.fqs
  pcie := g.pcie.trans h.pcie
  jobs := g.jobs.trans h.jobs
  engs := g.engs.trans h.engs
  benches := g.benches.trans h.benches
  stores := g.stores.trans h.stores
  microMask := g.microMask.trans h.microMask
  doms := g.doms.trans h.doms
  svc := g.svc.trans h.svc
  load := g.load.trans h.load
  flash := g.flash.trans h.flash
  subs := g.subs.trans h.subs
  pins := g.pins.trans h.pins
  ustate := fun k i => (g.ustate k i).trans (h.ustate k i)
  lease := fun l => by
    obtain ⟨n, hn⟩ := g.lease l
    obtain ⟨k, hk⟩ := h.lease l
    exact ⟨n, by rw [hn, hk]⟩

theorem Logged.leaseSt {m m' : Mach} (h : Logged m m') (l : Nat) : (Machine.lease m' l).st = (Machine.lease m l).st := by
  obtain ⟨n, hn⟩ := h.lease l
  rw [hn]

variable (m : Mach)

theorem takeFree_logged : Logged m (takeFree m).2 := by constructor <;> first | rfl | (intros; rfl) | exact fun _ => ⟨_, rfl⟩
theorem takeChoice_logged (n : Nat) : Logged m (takeChoice m n).2 := by constructor <;> first | rfl | (intros; rfl) | exact fun _ => ⟨_, rfl⟩
theorem modEvt_logged (f : EvtSt → EvtSt) : Logged m (modEvt m f) := by constructor <;> first | rfl | (intros; rfl) | exact fun _ => ⟨_, rfl⟩
theorem emit_logged (o : Out) : Logged m (emit m o) := by constructor <;> first | rfl | (intros; rfl) | exact fun _ => ⟨_, rfl⟩
theorem setErrs_logged (e : ErrSt) : Logged m { m with errs := e } := by constructor <;> first | rfl | (intros; rfl) | exact fun _ => ⟨_, rfl⟩
theorem setNotes_logged (l : List Notify) : Logged m { m with notes := l } := by constructor <;> first | rfl | (intros; rfl) | exact fun _ => ⟨_, rfl⟩
theorem dropNote_logged (l : List Notify) (n : Nat) : Logged m { m with notes := l, noteDropped := n } := by
  constructor <;> first | rfl | (intros; rfl) | exact fun _ => ⟨_, rfl⟩
theorem setNoteSeq_logged (k n : Nat) : Logged m { m with noteSeq := k, noteDropped := n } := by
  constructor <;> first | rfl | (intros; rfl) | exact fun _ => ⟨_, rfl⟩

theorem takeStamp_logged (src : Nat) : Logged m (takeStamp m src).2 := by
  unfold takeStamp
  dsimp only
  exact (takeChoice_logged m _).trans (modEvt_logged _ _)

theorem noteSend_logged (n : Notify) : Logged m (noteSend m n).2 := by
  unfold noteSend
  split
  · exact .refl m
  · have h := takeStamp_logged m 0x0F00
    generalize takeStamp m 0x0F00 = r at h
    obtain ⟨t, x⟩ := r
    exact h.trans ((setNoteSeq_logged x _ _).trans (emit_logged _ _))

theorem notify_logged (c : Nat) (b : Bytes) : Logged m (notify m c b) := by
  unfold notify
  have cut : Logged m (if m.notes.length < 64 then m else { m with notes := m.notes.drop 1, noteDropped := m.noteDropped + 1 }) := by
    split
    · exact .refl m
    · exact dropNote_logged m _ _
  generalize (if m.notes.length < 64 then m else { m with notes := m.notes.drop 1, noteDropped := m.noteDropped + 1 }) = x at cut
  dsimp only
  exact (cut.trans (noteSend_logged x _)).trans (setNotes_logged _ _)

/-- A lease's event count moves and nothing else of it. -/
theorem evtIssued_logged (l : Nat) (g : Lease → Nat) : Logged m (modLease m l (fun x => { x with evtIssued := g x })) := by
  constructor
  case ustate => intros; rfl
  case lease =>
    intro k
    simp only [modLease, setLease, Machine.lease, tget_tset]
    split
    · next e => subst e; exact ⟨_, rfl⟩
    · exact ⟨_, rfl⟩
  all_goals rfl

theorem raiseEventAt_logged (cls src l vector : Nat) (p : Bytes) (e : Nat) : Logged m (raiseEventAt m cls src l vector p e) := by
  unfold raiseEventAt
  have h := takeStamp_logged m src
  generalize takeStamp m src = r at h
  obtain ⟨t, x⟩ := r
  exact (h.trans (modEvt_logged x _)).trans (evtIssued_logged _ l _)

theorem raiseEvent_logged (cls src l vector : Nat) (p : Bytes) : Logged m (raiseEvent m cls src l vector p) := raiseEventAt_logged m cls src l vector p 0
theorem raiseManager_logged (cls src : Nat) (p : Bytes) : Logged m (raiseManager m cls src p) := raiseEvent_logged m cls src 0 _ p
theorem raiseCopy_logged (cls src : Nat) (p : Bytes) : Logged m (raiseCopy m cls src p) := by
  unfold raiseCopy
  exact (raiseManager_logged m cls src p).trans (modEvt_logged _ _)

/-- A unit's error counts move and its state stays. -/
theorem setUnit_logged (k i : Nat) (x : UnitSt) (h : x.st = (unit m k i).st) : Logged m (setUnit m k i x) := by
  constructor
  case ustate =>
    intro k' i'
    simp only [Machine.ustate, unit, setUnit, tget_tset] at h ⊢
    split
    · next e => rw [h, e]
    · rfl
  case lease => exact fun _ => ⟨_, rfl⟩
  all_goals rfl

theorem countUnit_logged (src cause : Nat) : Logged m (countUnit m src cause) := by
  unfold countUnit
  extract_lets u
  exact setUnit_logged m u.1 u.2 _ rfl
theorem placeRecord_logged (key : Nat) (r : ErrRec) : Logged m (placeRecord m key r) := by unfold placeRecord; exact setErrs_logged m _
theorem testRecord_logged (r : ErrRec) : Logged m (testRecord m r) := by unfold testRecord; exact setErrs_logged m _
theorem countRecord_logged (key : Nat) (x : Suppress) : Logged m (countRecord m key x) := by unfold countRecord; exact setErrs_logged m _
theorem tellOwner_logged (r : ErrRec) : Logged m (tellOwner m r) := by
  unfold tellOwner
  split
  · exact notify_logged m 2 _
  · exact .refl m
theorem tellManager_logged (r : ErrRec) : Logged m (tellManager m r) := by
  unfold tellManager
  split
  · exact raiseManager_logged m 0x13 _ _
  · exact .refl m

theorem raiseErrD_logged (cause src det : Nat) (d : Bytes) (ls addr : Option Nat) (n : Nat) : Logged m (raiseErrD m cause src det d ls addr n) := by
  unfold raiseErrD
  extract_lets key u rec_
  have h := takeStamp_logged m det
  split
  · exact h.trans (testRecord_logged _ _)
  · split
    · exact countRecord_logged m _ _
    · exact (((h.trans (placeRecord_logged _ _ _)).trans (countUnit_logged _ _ _)).trans (tellOwner_logged _ _)).trans (tellManager_logged _ _)

theorem raiseErr_logged (cause src : Nat) (d : Bytes) : Logged m (raiseErr m cause src d) := raiseErrD_logged m cause src src d none none 0
theorem refuseAccess_logged (a : Actor) (addr r : Nat) : Logged m (refuseAccess m a addr r) := by
  unfold refuseAccess
  extract_lets k i src
  exact raiseErrD_logged m 1 src _ _ _ _ _

end Sys2Proof.Machine
end

