-- ==== Sys2Proof/Laws/PerInstr.lean ====
section
/-! SUPPORT. What the well-formedness of a command says of its operands, one lemma for each command. -/

namespace Sys2Proof.Laws.Wellformed

/-- What a well-formed command promises: an access size is 1, 2, 4 or 8 bytes, a PCIe request has 1 to 4,096 bytes within a 4 KiB page and
its data's length is its own, an MSI-X write is aligned to 4 bytes, a frame has a whole Ethernet header, a Follow_Up is no two-step Sync, a
bank number is one of a subchannel's, and a channel's training names ten lanes for each DIMM. -/
def Statement (i : Instr) : Prop :=
  i.wf = true →
    match i with
    | .registerWrite _ _ size _ => size ∣ 8
    | .readAndClear _ _ size => size ∣ 8
    | .pcieDmaRequest _ _ write addr len data => 1 ≤ len ∧ addr.toNat % 4096 + len ≤ 4096 ∧ data.length = if write then len else 0
    | .msixMessage _ _ addr _ => addr.toNat % 4 = 0
    | .frameReceive _ frame _ => 14 ≤ frame.length ∧ frame.length ≤ 65535
    | .ptpFollowUp p => p.twoStep = false
    | .rowIdleClose _ _ bank => bank < 512
    | .retrainComplete _ lanes => lanes.length = 10 ∨ lanes.length = 20
    | .channelTrained _ r => r.lanes.length ≤ 20
    | .trainingEnd r => r.links.Nodup
    | _ => True

/-- An access size divides 8 (R8). -/
theorem size_divides {n : Nat} (h : sizeOk n = true) : n ∣ 8 := by
  simp only [sizeOk, Bool.or_eq_true, beq_iff_eq] at h
  obtain ((rfl | rfl) | rfl) | rfl := h <;> decide

theorem powerOnReset : Statement (.powerOnReset) := fun _ => trivial

theorem mrstNReset : Statement (.mrstNReset) := fun _ => trivial

theorem pwrgdAoFall : Statement (.pwrgdAoFall) := fun _ => trivial

theorem pwrgdMainFall : Statement (.pwrgdMainFall) := fun _ => trivial

theorem serviceDomainRelease : Statement (.serviceDomainRelease) := fun _ => trivial

theorem bootImageRead : Statement (.bootImageRead) := fun _ => trivial

theorem hello (h : SvcHdr) (p : Bytes) : Statement (.hello h p) := fun _ => trivial

theorem sessionOpen (h : SvcHdr) (p : Bytes) : Statement (.sessionOpen h p) := fun _ => trivial

theorem sessionClose (h : SvcHdr) (p : Bytes) : Statement (.sessionClose h p) := fun _ => trivial

theorem keepalive (h : SvcHdr) (p : Bytes) : Statement (.keepalive h p) := fun _ => trivial

theorem handoverPrepare (h : SvcHdr) (p : Bytes) : Statement (.handoverPrepare h p) := fun _ => trivial

theorem sessionLapse : Statement (.sessionLapse) := fun _ => trivial

theorem handoverTokenExpiry : Statement (.handoverTokenExpiry) := fun _ => trivial

theorem regRead (h : SvcHdr) (p : Bytes) : Statement (.regRead h p) := fun _ => trivial

theorem regWrite (h : SvcHdr) (p : Bytes) : Statement (.regWrite h p) := fun _ => trivial

theorem tagBulk (h : SvcHdr) (p : Bytes) : Statement (.tagBulk h p) := fun _ => trivial

theorem start (h : SvcHdr) (p : Bytes) : Statement (.start h p) := fun _ => trivial

theorem moduleReset (h : SvcHdr) (p : Bytes) : Statement (.moduleReset h p) := fun _ => trivial

theorem holdEnter (h : SvcHdr) (p : Bytes) : Statement (.holdEnter h p) := fun _ => trivial

theorem holdEntryComplete : Statement (.holdEntryComplete) := fun _ => trivial

theorem holdExit (h : SvcHdr) (p : Bytes) : Statement (.holdExit h p) := fun _ => trivial

theorem holdExitComplete : Statement (.holdExitComplete) := fun _ => trivial

theorem testEnter (h : SvcHdr) (p : Bytes) : Statement (.testEnter h p) := fun _ => trivial

theorem testExit (h : SvcHdr) (p : Bytes) : Statement (.testExit h p) := fun _ => trivial

theorem imagePut (h : SvcHdr) (p : Bytes) : Statement (.imagePut h p) := fun _ => trivial

theorem imageLoad (h : SvcHdr) (p : Bytes) : Statement (.imageLoad h p) := fun _ => trivial

theorem flashRead (h : SvcHdr) (p : Bytes) : Statement (.flashRead h p) := fun _ => trivial

theorem flashWrite (h : SvcHdr) (p : Bytes) : Statement (.flashWrite h p) := fun _ => trivial

theorem flashErase (h : SvcHdr) (p : Bytes) (failAt : Option Nat) : Statement (.flashErase h p failAt) := fun _ => trivial

theorem dumpRead (h : SvcHdr) (p : Bytes) : Statement (.dumpRead h p) := fun _ => trivial

theorem notifyAnswer (h : SvcHdr) (p : Bytes) : Statement (.notifyAnswer h p) := fun _ => trivial

theorem notifyResend : Statement (.notifyResend) := fun _ => trivial

theorem fuseArm (h : SvcHdr) (p : Bytes) : Statement (.fuseArm h p) := fun _ => trivial

theorem fuseConfirm (h : SvcHdr) (p : Bytes) : Statement (.fuseConfirm h p) := fun _ => trivial

theorem fuseArmExpiry : Statement (.fuseArmExpiry) := fun _ => trivial

theorem trainingEnd (r : TrainResult) : Statement (.trainingEnd r) := by
  intro h
  simp only [Instr.wf, trainOk, Bool.and_eq_true, decide_eq_true_eq] at h
  exact h.1.1.2

theorem verifyComplete : Statement (.verifyComplete) := fun _ => trivial

theorem patchCheckComplete : Statement (.patchCheckComplete) := fun _ => trivial

theorem checkComplete (absent : List (Fin 19 × BitVec 16)) : Statement (.checkComplete absent) := fun _ => trivial

theorem prepareComplete : Statement (.prepareComplete) := fun _ => trivial

theorem quiesceTimeout : Statement (.quiesceTimeout) := fun _ => trivial

theorem sectionApplied : Statement (.sectionApplied) := fun _ => trivial

theorem reworkComplete : Statement (.reworkComplete) := fun _ => trivial

theorem registerWrite (a : Actor) (addr : BitVec 52) (size : Nat) (v : Word) : Statement (.registerWrite a addr size v) := fun h => size_divides h

theorem readAndClear (a : Actor) (addr : BitVec 52) (size : Nat) : Statement (.readAndClear a addr size) := fun h => size_divides h

theorem unitReset (a : Actor) (kind : Fin 16) (index : BitVec 12) (v : Word) : Statement (.unitReset a kind index v) := fun _ => trivial

theorem microcodeLoad (u : StoreUnit) (readBack : Option (Fin 256)) : Statement (.microcodeLoad u readBack) := fun _ => trivial

theorem leaseSettAdd (a : Actor) (l : LeaseId) (v : Word) : Statement (.leaseSettAdd a l v) := fun _ => trivial

theorem crangeClean (a : Actor) (inclLocked : Bool) : Statement (.crangeClean a inclLocked) := fun _ => trivial

theorem crangeInvalidate (a : Actor) (inclLocked : Bool) : Statement (.crangeInvalidate a inclLocked) := fun _ => trivial

theorem crangeCleanInvalidate (a : Actor) (inclLocked : Bool) : Statement (.crangeCleanInvalidate a inclLocked) := fun _ => trivial

theorem crangeZero (a : Actor) (inclLocked : Bool) : Statement (.crangeZero a inclLocked) := fun _ => trivial

theorem setwayClean (a : Actor) (u : MaintUnit) (v : SetWay) : Statement (.setwayClean a u v) := fun _ => trivial

theorem setwayInvalidate (a : Actor) (u : MaintUnit) (v : SetWay) : Statement (.setwayInvalidate a u v) := fun _ => trivial

theorem setwayCleanInvalidate (a : Actor) (u : MaintUnit) (v : SetWay) : Statement (.setwayCleanInvalidate a u v) := fun _ => trivial

theorem maintenanceComplete (u : MaintUnit) : Statement (.maintenanceComplete u) := fun _ => trivial

theorem cacheDisable (a : Actor) (c : CacheId) : Statement (.cacheDisable a c) := fun _ => trivial

theorem cacheEnable (a : Actor) (c : CacheId) : Statement (.cacheEnable a c) := fun _ => trivial

theorem disablingComplete (c : CacheId) : Statement (.disablingComplete c) := fun _ => trivial

theorem wayLock (a : Actor) (b : BenchId) (mask : Byte) : Statement (.wayLock a b mask) := fun _ => trivial

theorem mchRetrain (a : Actor) (m : ChanId) : Statement (.mchRetrain a m) := fun _ => trivial

theorem mchOffline (a : Actor) (m : ChanId) : Statement (.mchOffline a m) := fun _ => trivial

theorem mchOfflineForce (a : Actor) (m : ChanId) : Statement (.mchOfflineForce a m) := fun _ => trivial

theorem mchPowerOff (a : Actor) (m : ChanId) : Statement (.mchPowerOff a m) := fun _ => trivial

theorem mchPowerOn (a : Actor) (m : ChanId) : Statement (.mchPowerOn a m) := fun _ => trivial

theorem mchOnline (a : Actor) (m : ChanId) : Statement (.mchOnline a m) := fun _ => trivial

theorem pathOnline (a : Actor) (p : PathId) : Statement (.pathOnline a p) := fun _ => trivial

theorem pathOffline (a : Actor) (p : PathId) : Statement (.pathOffline a p) := fun _ => trivial

theorem cpOffline (a : Actor) (c : CpId) : Statement (.cpOffline a c) := fun _ => trivial

theorem cpOnline (a : Actor) (c : CpId) : Statement (.cpOnline a c) := fun _ => trivial

theorem linkOnline (a : Actor) (l : LinkId) : Statement (.linkOnline a l) := fun _ => trivial

theorem linkOffline (a : Actor) (l : LinkId) : Statement (.linkOffline a l) := fun _ => trivial

theorem crusherOnline (a : Actor) (k : CrushId) : Statement (.crusherOnline a k) := fun _ => trivial

theorem crusherOffline (a : Actor) (k : CrushId) : Statement (.crusherOffline a k) := fun _ => trivial

theorem crusherDrained (k : CrushId) : Statement (.crusherDrained k) := fun _ => trivial

theorem cipherOnline (a : Actor) (x : CiphId) : Statement (.cipherOnline a x) := fun _ => trivial

theorem cipherOffline (a : Actor) (x : CiphId) : Statement (.cipherOffline a x) := fun _ => trivial

theorem leaseCreate (a : Actor) (l : LeaseId) : Statement (.leaseCreate a l) := fun _ => trivial

theorem leaseStart (a : Actor) (l : LeaseId) : Statement (.leaseStart a l) := fun _ => trivial

theorem leaseQuiesce (a : Actor) (l : LeaseId) : Statement (.leaseQuiesce a l) := fun _ => trivial

theorem leaseResume (a : Actor) (l : LeaseId) : Statement (.leaseResume a l) := fun _ => trivial

theorem leaseReset (a : Actor) (l : LeaseId) (key : BitVec 16) : Statement (.leaseReset a l key) := fun _ => trivial

theorem leaseForcedReset (a : Actor) (l : LeaseId) (key : BitVec 16) : Statement (.leaseForcedReset a l key) := fun _ => trivial

theorem leaseRemove (a : Actor) (l : LeaseId) (key : BitVec 16) : Statement (.leaseRemove a l key) := fun _ => trivial

theorem leaseCmdReserved (a : Actor) (l : LeaseId) (key : BitVec 16) (code : BitVec 4) : Statement (.leaseCmdReserved a l key code) := fun _ => trivial

theorem leasePendingCleared (l : LeaseId) : Statement (.leasePendingCleared l) := fun _ => trivial

theorem leaseSpawn (a : Actor) (l : LeaseId) (v : Word) : Statement (.leaseSpawn a l v) := fun _ => trivial

theorem leaseTlbInval (a : Actor) (l : LeaseId) (v : Word) : Statement (.leaseTlbInval a l v) := fun _ => trivial

theorem tlbInvalComplete (l : LeaseId) : Statement (.tlbInvalComplete l) := fun _ => trivial

theorem chnJrnMove (a : Actor) (v : Word) : Statement (.chnJrnMove a v) := fun _ => trivial

theorem journalMoveComplete : Statement (.journalMoveComplete) := fun _ => trivial

theorem chnSumpReplace (a : Actor) (v : Word) : Statement (.chnSumpReplace a v) := fun _ => trivial

theorem pcieCfgRead (a : Actor) (p : PcieId) (answer : Option (BitVec 32)) : Statement (.pcieCfgRead a p answer) := fun _ => trivial

theorem pcieCfgWrite (a : Actor) (p : PcieId) (v : Word) (done : Bool) : Statement (.pcieCfgWrite a p v done) := fun _ => trivial

theorem tsSet (a : Actor) (hub : HubId) (v : Word) : Statement (.tsSet a hub v) := fun _ => trivial

theorem tsAdj (a : Actor) (hub : HubId) (v : Word) : Statement (.tsAdj a hub v) := fun _ => trivial

theorem errSelect (a : Actor) (v : Word) : Statement (.errSelect a v) := fun _ => trivial

theorem bundleIssue (e : EngineId) (check : Option (Fin 4)) (fix : Option (Fin 256)) : Statement (.bundleIssue e check fix) := fun _ => trivial

theorem fetchLineArrival (e : EngineId) : Statement (.fetchLineArrival e) := fun _ => trivial

theorem translationComplete (e : EngineId) : Statement (.translationComplete e) := fun _ => trivial

theorem operationComplete (e : EngineId) (l : LevelId) (u : QUnit) : Statement (.operationComplete e l u) := fun _ => trivial

theorem loadComplete (e : EngineId) (op : Nat) : Statement (.loadComplete e op) := fun _ => trivial

theorem storeComplete (e : EngineId) (op : Nat) : Statement (.storeComplete e op) := fun _ => trivial

theorem atomicComplete (e : EngineId) (op : Nat) : Statement (.atomicComplete e op) := fun _ => trivial

theorem macFetchComplete (e : EngineId) (op : Nat) : Statement (.macFetchComplete e op) := fun _ => trivial

theorem dstkFillComplete (e : EngineId) (l : LevelId) : Statement (.dstkFillComplete e l) := fun _ => trivial

theorem rstkSpillComplete (e : EngineId) (l : LevelId) : Statement (.rstkSpillComplete e l) := fun _ => trivial

theorem rstkFillComplete (e : EngineId) (l : LevelId) : Statement (.rstkFillComplete e l) := fun _ => trivial

theorem saveComplete (e : EngineId) (l : LevelId) : Statement (.saveComplete e l) := fun _ => trivial

theorem cxRoutineEnd (e : EngineId) (l : LevelId) (err : Option StoreErr) : Statement (.cxRoutineEnd e l err) := fun _ => trivial

theorem microTrap (e : EngineId) (l : LevelId) (check : Option (Fin 4)) : Statement (.microTrap e l check) := fun _ => trivial

theorem microTimingOverrun (u : StoreUnit) (cycles : BitVec 16) : Statement (.microTimingOverrun u cycles) := fun _ => trivial

theorem ringAnswer (e : EngineId) (l : LevelId) : Statement (.ringAnswer e l) := fun _ => trivial

theorem timerExpiry (e : EngineId) (l : LevelId) (t : Fin 2) : Statement (.timerExpiry e l t) := fun _ => trivial

theorem waitGraceExpiry (e : EngineId) (l : LevelId) : Statement (.waitGraceExpiry e l) := fun _ => trivial

theorem displacement (e : EngineId) (l : LevelId) : Statement (.displacement e l) := fun _ => trivial

theorem savingComplete (e : EngineId) (l : LevelId) : Statement (.savingComplete e l) := fun _ => trivial

theorem taskEnd (e : EngineId) (l : LevelId) : Statement (.taskEnd e l) := fun _ => trivial

theorem queueEntryDispatch (b : BenchId) : Statement (.queueEntryDispatch b) := fun _ => trivial

theorem stealProbe (e : EngineId) : Statement (.stealProbe e) := fun _ => trivial

theorem stealCommit (e : EngineId) : Statement (.stealCommit e) := fun _ => trivial

theorem idleReprobe (e : EngineId) : Statement (.idleReprobe e) := fun _ => trivial

theorem waitTableTimer (b : BenchId) : Statement (.waitTableTimer b) := fun _ => trivial

theorem queuePlaceFreed (b : BenchId) : Statement (.queuePlaceFreed b) := fun _ => trivial

theorem stockRefill (b : BenchId) (l : LeaseId) : Statement (.stockRefill b l) := fun _ => trivial

theorem dirtyAgeClean (b : BenchId) (n : LineNo) : Statement (.dirtyAgeClean b n) := fun _ => trivial

theorem cacheScrub (c : CacheId) (n : LineNo) (err : ArrayErr) : Statement (.cacheScrub c n err) := fun _ => trivial

theorem rds (n : LineNo) (b : BenchId) (lease : LeaseId) : Statement (.rds n b lease) := fun _ => trivial

theorem rdx (n : LineNo) (b : BenchId) (lease : LeaseId) : Statement (.rdx n b lease) := fun _ => trivial

theorem upg (n : LineNo) (b : BenchId) (lease : LeaseId) : Statement (.upg n b lease) := fun _ => trivial

theorem mntc (n : LineNo) (src : Source) (lease : LeaseId) (self incl : Bool) : Statement (.mntc n src lease self incl) := fun _ => trivial

theorem mnti (n : LineNo) (src : Source) (lease : LeaseId) (self incl : Bool) : Statement (.mnti n src lease self incl) := fun _ => trivial

theorem mntci (n : LineNo) (src : Source) (lease : LeaseId) (self incl : Bool) : Statement (.mntci n src lease self incl) := fun _ => trivial

theorem iord (n : LineNo) (src : Source) (lease : LeaseId) : Statement (.iord n src lease) := fun _ => trivial

theorem iowr (n : LineNo) (src : Source) (lease : LeaseId) (mask : BitVec 256) (d : Line) (poison : Bool) : Statement (.iowr n src lease mask d poison) := fun _ => trivial

theorem wbm (n : LineNo) (b : BenchId) (d : Line) (poison : Bool) : Statement (.wbm n b d poison) := fun _ => trivial

theorem eve (n : LineNo) (b : BenchId) (d : Line) (poison : Bool) : Statement (.eve n b d poison) := fun _ => trivial

theorem done (n : LineNo) (b : BenchId) : Statement (.done n b) := fun _ => trivial

theorem snps (b : BenchId) (n : LineNo) : Statement (.snps b n) := fun _ => trivial

theorem snpx (b : BenchId) (n : LineNo) (maint incl : Bool) : Statement (.snpx b n maint incl) := fun _ => trivial

theorem snpcln (b : BenchId) (n : LineNo) : Statement (.snpcln b n) := fun _ => trivial

theorem snpdrop (b : BenchId) (n : LineNo) (maint incl : Bool) : Statement (.snpdrop b n maint incl) := fun _ => trivial

theorem rspi (n : LineNo) (b : BenchId) : Statement (.rspi n b) := fun _ => trivial

theorem rspk (n : LineNo) (b : BenchId) : Statement (.rspk n b) := fun _ => trivial

theorem rspd (n : LineNo) (b : BenchId) (d : Line) (poison : Bool) : Statement (.rspd n b d poison) := fun _ => trivial

theorem rspc (n : LineNo) (b : BenchId) (d : Line) (poison : Bool) : Statement (.rspc n b d poison) := fun _ => trivial

theorem rspdo (n : LineNo) (b : BenchId) (d : Line) (poison : Bool) : Statement (.rspdo n b d poison) := fun _ => trivial

theorem rspcs (n : LineNo) (b : BenchId) (d : Line) (poison : Bool) : Statement (.rspcs n b d poison) := fun _ => trivial

theorem rspds (n : LineNo) (b : BenchId) (d : Line) (poison : Bool) : Statement (.rspds n b d poison) := fun _ => trivial

theorem rspde (n : LineNo) (b : BenchId) (d : Line) (poison : Bool) : Statement (.rspde n b d poison) := fun _ => trivial

theorem datas (b : BenchId) (n : LineNo) (d : Line) (poison : Bool) : Statement (.datas b n d poison) := fun _ => trivial

theorem datae (b : BenchId) (n : LineNo) (d : Line) (poison : Bool) : Statement (.datae b n d poison) := fun _ => trivial

theorem datam (b : BenchId) (n : LineNo) (d : Line) (poison : Bool) : Statement (.datam b n d poison) := fun _ => trivial

theorem grantm (b : BenchId) (n : LineNo) : Statement (.grantm b n) := fun _ => trivial

theorem wback (b : BenchId) (n : LineNo) : Statement (.wback b n) := fun _ => trivial

theorem wbstale (b : BenchId) (n : LineNo) : Statement (.wbstale b n) := fun _ => trivial

theorem iodata (src : Source) (n : LineNo) (d : Line) (poison : Bool) : Statement (.iodata src n d poison) := fun _ => trivial

theorem ioack (src : Source) (n : LineNo) : Statement (.ioack src n) := fun _ => trivial

theorem mntack (src : Source) (n : LineNo) : Statement (.mntack src n) := fun _ => trivial

theorem mir (h : HomeId) (n : LineNo) (d : Line) (poison : Bool) : Statement (.mir h n d poison) := fun _ => trivial

theorem mirrel (h : HomeId) (n : LineNo) : Statement (.mirrel h n) := fun _ => trivial

theorem mirack (n : LineNo) : Statement (.mirack n) := fun _ => trivial

theorem hrReadReturn (n : LineNo) : Statement (.hrReadReturn n) := fun _ => trivial

theorem hwWriteComplete (n : LineNo) : Statement (.hwWriteComplete n) := fun _ => trivial

theorem tenureEnd (b : BenchId) (n : LineNo) : Statement (.tenureEnd b n) := fun _ => trivial

theorem snoopTimeout (n : LineNo) : Statement (.snoopTimeout n) := fun _ => trivial

theorem homeLost (b : BenchId) (h : HomeId) : Statement (.homeLost b h) := fun _ => trivial

theorem takeoverReport (h : HomeId) (b : BenchId) (n : LineNo) (r : Report) : Statement (.takeoverReport h b n r) := fun _ => trivial

theorem shareOpen (h : HomeId) : Statement (.shareOpen h) := fun _ => trivial

theorem memRead (m : ChanId) (sub : Fin 2) (ecc : PieceEcc) : Statement (.memRead m sub ecc) := fun _ => trivial

theorem memWrite (m : ChanId) (sub : Fin 2) (parity : Bool) : Statement (.memWrite m sub parity) := fun _ => trivial

theorem commandTimeout (m : ChanId) : Statement (.commandTimeout m) := fun _ => trivial

theorem rebuildRequest (s : SeamId) (bad : Option (Fin 5)) : Statement (.rebuildRequest s bad) := fun _ => trivial

theorem seamRebuildComplete (s : SeamId) : Statement (.seamRebuildComplete s) := fun _ => trivial

theorem retrainDue (m : ChanId) (temp : Byte) : Statement (.retrainDue m temp) := fun _ => trivial

theorem retrainComplete (m : ChanId) (lanes : List Lane) : Statement (.retrainComplete m lanes) := by
  intro h
  simpa [Instr.wf] using h

theorem catchUpComplete (s : SeamId) : Statement (.catchUpComplete s) := fun _ => trivial

theorem refreshDue (m : ChanId) (sub : Fin 2) : Statement (.refreshDue m sub) := fun _ => trivial

theorem selfRefreshExit (m : ChanId) : Statement (.selfRefreshExit m) := fun _ => trivial

theorem rowIdleClose (m : ChanId) (sub : Fin 2) (bank : Nat) : Statement (.rowIdleClose m sub bank) := by
  intro h
  simpa [Instr.wf] using h

theorem memoryScrub (m : ChanId) (n : LineNo) (ecc : PieceEcc) : Statement (.memoryScrub m n ecc) := fun _ => trivial

theorem journalEntryWritten (t : SlotId) : Statement (.journalEntryWritten t) := fun _ => trivial

theorem txnIssue (t : SlotId) : Statement (.txnIssue t) := fun _ => trivial

theorem txnSent (t : SlotId) : Statement (.txnSent t) := fun _ => trivial

theorem nvmeCompletion (p : PathId) (t : SlotId) (step : Fin 64) (status : BitVec 16) (gen : BitVec 16) (data : Bytes) : Statement (.nvmeCompletion p t step status gen data) := fun _ => trivial

theorem issueDeadlineExpiry (t : SlotId) : Statement (.issueDeadlineExpiry t) := fun _ => trivial

theorem partnerWaitExpiry (t : SlotId) : Statement (.partnerWaitExpiry t) := fun _ => trivial

theorem completionWaitExpiry (t : SlotId) : Statement (.completionWaitExpiry t) := fun _ => trivial

theorem pathFailure (p : PathId) (reason : Byte) : Statement (.pathFailure p reason) := fun _ => trivial

theorem txnCompletionRecord (t : SlotId) : Statement (.txnCompletionRecord t) := fun _ => trivial

theorem sumpSpaceAvailable : Statement (.sumpSpaceAvailable) := fun _ => trivial

theorem establishTimeout (p : PathId) : Statement (.establishTimeout p) := fun _ => trivial

theorem pathDrained (p : PathId) : Statement (.pathDrained p) := fun _ => trivial

theorem nvmeControllerReset (p : PathId) : Statement (.nvmeControllerReset p) := fun _ => trivial

theorem nvmeReady (p : PathId) (i : NvmeIdent) : Statement (.nvmeReady p i) := fun _ => trivial

theorem nvmeReadyTimeout (p : PathId) : Statement (.nvmeReadyTimeout p) := fun _ => trivial

theorem cpFailure (c : CpId) : Statement (.cpFailure c) := fun _ => trivial

theorem frameReceive (l : LinkId) (frame : Bytes) (fcsGood : Bool) : Statement (.frameReceive l frame fcsGood) := by
  intro h
  simpa [Instr.wf] using h

theorem frameTransmit (l : LinkId) : Statement (.frameTransmit l) := fun _ => trivial

theorem coalesceTimeout (l : LeaseId) (q : Fin 16) : Statement (.coalesceTimeout l q) := fun _ => trivial

theorem linkUp (l : LinkId) : Statement (.linkUp l) := fun _ => trivial

theorem trainingAttemptTimeout (l : LinkId) : Statement (.trainingAttemptTimeout l) := fun _ => trivial

theorem linkDown (l : LinkId) : Statement (.linkDown l) := fun _ => trivial

theorem pauseRepeat (l : LinkId) : Statement (.pauseRepeat l) := fun _ => trivial

theorem pcieDmaRequest (p : PcieId) (rid : BitVec 16) (write : Bool) (addr : Word) (len : Nat) (data : Bytes) : Statement (.pcieDmaRequest p rid write addr len data) := by
  intro h
  simpa [Instr.wf, dmaOk, and_assoc] using h

theorem msixMessage (p : PcieId) (rid : BitVec 16) (addr : Word) (data : BitVec 32) : Statement (.msixMessage p rid addr data) := by
  intro h
  simpa [Instr.wf] using h

theorem pcieLinkDown (p : PcieId) (j : Fin 4) (aer : Option (BitVec 32)) : Statement (.pcieLinkDown p j aer) := fun _ => trivial

theorem capReq (p : PathId) (datagram : Bytes) (checksumGood : Bool) : Statement (.capReq p datagram checksumGood) := fun _ => trivial

theorem capReqResend (p : PathId) : Statement (.capReqResend p) := fun _ => trivial

theorem capRsp (p : PathId) (datagram : Bytes) (checksumGood : Bool) : Statement (.capRsp p datagram checksumGood) := fun _ => trivial

theorem helarAck (p : PathId) (datagram : Bytes) (checksumGood : Bool) : Statement (.helarAck p datagram checksumGood) := fun _ => trivial

theorem helarKeepalive (p : PathId) (datagram : Bytes) (checksumGood : Bool) : Statement (.helarKeepalive p datagram checksumGood) := fun _ => trivial

theorem helarClose (p : PathId) (datagram : Bytes) (checksumGood : Bool) : Statement (.helarClose p datagram checksumGood) := fun _ => trivial

theorem answerSegment (p : PathId) (datagram : Bytes) (checksumGood : Bool) : Statement (.answerSegment p datagram checksumGood) := fun _ => trivial

theorem ackDue (p : PathId) : Statement (.ackDue p) := fun _ => trivial

theorem retransmitTimeout (p : PathId) (seq : BitVec 32) : Statement (.retransmitTimeout p seq) := fun _ => trivial

theorem keepaliveDue (p : PathId) : Statement (.keepaliveDue p) := fun _ => trivial

theorem silenceTimeout (p : PathId) : Statement (.silenceTimeout p) := fun _ => trivial

theorem slabBoundary (k : CrushId) : Statement (.slabBoundary k) := fun _ => trivial

theorem crusherFailure (k : CrushId) : Statement (.crusherFailure k) := fun _ => trivial

theorem recordBoundary (u : Fin 10) : Statement (.recordBoundary u) := fun _ => trivial

theorem cipherUnitFailure (u : Fin 10) : Statement (.cipherUnitFailure u) := fun _ => trivial

theorem ctxHalfLoss (h : HubId) : Statement (.ctxHalfLoss h) := fun _ => trivial

theorem ctxHalfCopyComplete (h : HubId) : Statement (.ctxHalfCopyComplete h) := fun _ => trivial

theorem eventRelease : Statement (.eventRelease) := fun _ => trivial

theorem evtBlockTakeover : Statement (.evtBlockTakeover) := fun _ => trivial

theorem spillRecheck (l : LeaseId) : Statement (.spillRecheck l) := fun _ => trivial

theorem ptpSync (m : PtpMsg) : Statement (.ptpSync m) := fun _ => trivial

theorem ptpFollowUp (m : PtpMsg) : Statement (.ptpFollowUp m) := by
  intro h
  simpa [Instr.wf] using h

theorem ptpAnnounce (m : PtpMsg) (d : PtpData) : Statement (.ptpAnnounce m d) := fun _ => trivial

theorem ptpDelayResp (m : PtpMsg) : Statement (.ptpDelayResp m) := fun _ => trivial

theorem ppsEdge (h : HubId) (stamp : Word) : Statement (.ppsEdge h stamp) := fun _ => trivial

theorem disciplineInputAbsent (h : HubId) : Statement (.disciplineInputAbsent h) := fun _ => trivial

theorem tsDistributionPulse : Statement (.tsDistributionPulse) := fun _ => trivial

theorem tsMasterTakeover : Statement (.tsMasterTakeover) := fun _ => trivial

theorem heartbeatLoss (d : DomainId) : Statement (.heartbeatLoss d) := fun _ => trivial

theorem engineSparing (e : EngineId) (bad : BitVec 4) : Statement (.engineSparing e bad) := fun _ => trivial

theorem benchLoss (b : BenchId) : Statement (.benchLoss b) := fun _ => trivial

theorem homeNodeLoss (h : HomeId) : Statement (.homeNodeLoss h) := fun _ => trivial

theorem tileLoss (t : Fin 4) : Statement (.tileLoss t) := fun _ => trivial

theorem meshTransfer (link : Fin 13) (dir : Fin 2) (vc : Fin 5) (crcGood : Bool) : Statement (.meshTransfer link dir vc crcGood) := fun _ => trivial

theorem serviceCoreLoss (h : HubId) : Statement (.serviceCoreLoss h) := fun _ => trivial

theorem hubLoss (h : HubId) : Statement (.hubLoss h) := fun _ => trivial

theorem frequencyDecision (d : DomainId) (target : Byte) (temp : Byte) : Statement (.frequencyDecision d target temp) := fun _ => trivial

theorem thermalLimitStep (d : DomainId) (temp : Byte) : Statement (.thermalLimitStep d temp) := fun _ => trivial

theorem thermalTrip (d : DomainId) (temp : Byte) : Statement (.thermalTrip d temp) := fun _ => trivial

theorem refclkFailure (h : HubId) : Statement (.refclkFailure h) := fun _ => trivial

theorem refclkHoldoverExpiry : Statement (.refclkHoldoverExpiry) := fun _ => trivial

theorem pwrgdMainRise : Statement (.pwrgdMainRise) := fun _ => trivial

theorem mchPrsntNChange (m : ChanId) (low : Bool) : Statement (.mchPrsntNChange m low) := fun _ => trivial

theorem channelTrained (m : ChanId) (r : ChanTrain) : Statement (.channelTrained m r) := by
  intro h
  simp only [Instr.wf, trainLanesOk, beq_iff_eq] at h
  show _ ≤ 20
  rw [h]; split <;> split <;> decide

theorem refclkRecovery (h : HubId) : Statement (.refclkRecovery h) := fun _ => trivial

theorem ppsOutputEdge (land : Fin 14) : Statement (.ppsOutputEdge land) := fun _ => trivial

theorem pcieLinkUp (p : PcieId) (j : Fin 4) (speed : BitVec 4) (width : BitVec 8) : Statement (.pcieLinkUp p j speed width) := fun _ => trivial

theorem modeMachineUncorrectableError : Statement (.modeMachineUncorrectableError) := fun _ => trivial

theorem hubReturn (h : HubId) : Statement (.hubReturn h) := fun _ => trivial

theorem tapInstruction (code : Fin 7) : Statement (.tapInstruction code) := fun _ => trivial

end Sys2Proof.Laws.Wellformed
end

