-- ==== Sys2Proof/Laws/Runs.lean ====
section
/-! SUPPORT. The forms of a meaning: a command of a unit that works, of the mesh, of any mode but Check-stop, or of every mode, completes
with what its operation gives; where the mode excludes it the state stays. -/

namespace Sys2Proof.Machine

variable {c : Instr} {s : State} {f : Mach → Mach} {P : Mach → Prop}

theorem completes_runM (h : exec c s = runM s f) (p : P (f s.m)) : Completes c s P := ⟨_, h, rfl, rfl, p⟩

theorem completes_runUnits (h : exec c s = runUnits s f) (u : unitsRun s.m = true) (p : P (f s.m)) : Completes c s P :=
  completes_runM h (by rw [if_pos u]; exact p)

theorem completes_runMesh (h : exec c s = runMesh s f) (u : meshRuns s.m = true) (p : P (f s.m)) : Completes c s P :=
  completes_runM h (by rw [if_pos u]; exact p)

theorem completes_runAlive (h : exec c s = runAlive s f) (u : alive s.m = true) (p : P (f s.m)) : Completes c s P :=
  completes_runM h (by rw [if_pos u]; exact p)

theorem runUnits_next (h : exec c s = runUnits s f) (u : unitsRun s.m = true) : exec c s = .next { s with m := f s.m } := by
  rw [h, runUnits, runM, if_pos u]

theorem runMesh_next (h : exec c s = runMesh s f) (u : meshRuns s.m = true) : exec c s = .next { s with m := f s.m } := by
  rw [h, runMesh, runM, if_pos u]

theorem runAlive_next (h : exec c s = runAlive s f) (u : alive s.m = true) : exec c s = .next { s with m := f s.m } := by
  rw [h, runAlive, runM, if_pos u]

theorem runUnits_idle (h : exec c s = runUnits s f) (u : unitsRun s.m = false) : exec c s = .next s := by
  rw [h, runUnits, runM, u]; rfl

theorem runMesh_idle (h : exec c s = runMesh s f) (u : meshRuns s.m = false) : exec c s = .next s := by
  rw [h, runMesh, runM, u]; rfl

theorem runAlive_idle (h : exec c s = runAlive s f) (u : alive s.m = false) : exec c s = .next s := by
  rw [h, runAlive, runM, u]; rfl

/-- A mode in which units work is not Check-stop. -/
theorem alive_of_unitsRun {m : Mach} (u : unitsRun m = true) : alive m = true := by
  unfold unitsRun at u; unfold alive; cases h : m.mode.st <;> simp_all

theorem meshRuns_of_unitsRun {m : Mach} (u : unitsRun m = true) : meshRuns m = true := by unfold meshRuns; rw [u]; rfl

theorem unitsRun_of_checkStop {m : Mach} (u : alive m = false) : unitsRun m = false := by
  unfold alive at u; unfold unitsRun; cases h : m.mode.st <;> simp_all

theorem meshRuns_of_checkStop {m : Mach} (u : alive m = false) : meshRuns m = false := by
  unfold alive at u; unfold meshRuns unitsRun; cases h : m.mode.st <;> simp_all

end Sys2Proof.Machine
end

