-- ==== Sys2Proof/Tests/Slice0.lean ====
section
/-! SUPPORT. Tests: a well-formed and an ill-formed command for each check of WellFormed, the spec's worked examples, and for every statement
with hypotheses states and operands that meet them, clause by clause. -/

open Sys2Proof Sys2Proof.Machine

namespace Sys2Proof.Tests

set_option Elab.async false

/-! ## WellFormed refuses what it should -/

/-- A lane with its eyes open. -/
def goodLane : Lane := { readDelay := 1, writeDelay := 2, readEye := 20, writeEye := 20, vref := 0 }

/-- An access of three bytes is not well-formed (R8, R241). -/
theorem test_wf_register_write_size : Instr.wf (.registerWrite .service 0 3 0) = false ∧ Instr.wf (.registerWrite .service 0 8 0) = true := by decide

theorem test_wf_read_and_clear_size : Instr.wf (.readAndClear .service 0 0) = false ∧ Instr.wf (.readAndClear .service 0 4) = true := by decide

/-- A channel with no DIMM reports no lane (R519). -/
theorem test_wf_channel_trained_lanes : Instr.wf (.channelTrained 0 { dimm0 := none, dimm1 := none, lanes := [goodLane] }) = false ∧
    Instr.wf (.channelTrained 0 { dimm0 := none, dimm1 := none, lanes := [] }) = true := by decide

theorem test_wf_retrain_lanes : Instr.wf (.retrainComplete 0 [goodLane]) = false ∧
    Instr.wf (.retrainComplete 0 (List.replicate 10 goodLane)) = true := by decide

/-- A training result that names a link twice is not well-formed. -/
theorem test_wf_training_end : Instr.wf (.trainingEnd { chans := [], links := [1, 1], pcie := [] }) = false ∧
    Instr.wf (.trainingEnd { chans := [], links := [1, 2], pcie := [] }) = true := by decide

/-- A read that would cross a 4 KiB boundary, and one that carries data (R610). -/
theorem test_wf_pcie_dma : Instr.wf (.pcieDmaRequest 0 0 false 0x0FFF 2 []) = false ∧ Instr.wf (.pcieDmaRequest 0 0 false 0x1000 2 [0, 0]) = false ∧
    Instr.wf (.pcieDmaRequest 0 0 true 0x1000 2 [0, 0]) = true := by decide

theorem test_wf_msix_alignment : Instr.wf (.msixMessage 0 0 2 0) = false ∧ Instr.wf (.msixMessage 0 0 4 0) = true := by decide

theorem test_wf_frame_length : Instr.wf (.frameReceive 0 [1, 2, 3] true) = false ∧
    Instr.wf (.frameReceive 0 (List.replicate 14 0) true) = true := by decide

theorem test_wf_row_idle_bank : Instr.wf (.rowIdleClose 0 0 512) = false ∧ Instr.wf (.rowIdleClose 0 0 511) = true := by decide

/-- A PTP Follow_Up is no two-step message itself. -/
theorem test_wf_ptp_follow_up :
    let msg (two : Bool) : PtpMsg := { link := 0, domain := 0, seq := 0, srcPort := 0, rxStamp := 0, origin := 0, correction := 0, twoStep := two, logInterval := 0 }
    Instr.wf (.ptpFollowUp (msg true)) = false ∧ Instr.wf (.ptpFollowUp (msg false)) = true := by decide

/-- A message carries its row's type or a reserved one (R71, R73). -/
theorem test_wf_message_type :
    let h (t : BitVec 16) : SvcHdr := { port := .sp0, major := 1, minor := 0, type := t, seq := 0, len := 0, status := 0, crc := 0 }
    Instr.wf (.keepalive (h 0x0003) []) = false ∧ Instr.wf (.keepalive (h 0x0004) []) = true ∧ Instr.wf (.keepalive (h 0x7777) []) = true := by decide

/-- A mode command carries its row's value or one that R79 does not list. -/
theorem test_wf_mode_value :
    let h : SvcHdr := { port := .sp0, major := 1, minor := 0, type := 0x0020, seq := 0, len := 0, status := 0, crc := 0 }
    Instr.wf (.start h [2]) = false ∧ Instr.wf (.start h [1]) = true ∧ Instr.wf (.start h [7]) = true ∧ Instr.wf (.start h [0]) = true := by decide

/-- Only units whose presence the check step tests can be absent (R119). -/
theorem test_wf_absent_units : Instr.wf (.checkComplete [(0x02, 5)]) = false ∧ Instr.wf (.checkComplete [(0x0B, 5)]) = true := by decide

/-! ## Worked examples of the spec -/

/-- Register addresses (00_scope.md, beside R6): engine 1087 at offset 0x40, and the block of lease 255. -/
theorem test_register_addresses : regAddr 0x02 1087 0x40 = 0xFFF0243F00040 ∧ regAddr 0x0C 255 0 = 0xFFF0C0FF00000 := by decide +kernel

/-- The line at 0x12_3456_7800 (10_coherence.md, 11_memory_and_seams.md): its slot, L3 set, seam, seam line and the places of its pieces. -/
theorem test_line_places : slotOfLine 0x12345678 = 0x3B ∧ l3Set 0x12345678 = 0x159 ∧ seamOf 0x12345678 = 1 ∧ seamLine 0x12345678 = 0x48D159E ∧
    parityPos 0x48D159E = 4 ∧ (List.range 4).map (dataPos 0x48D159E) = [0, 1, 2, 3] := by decide +kernel

/-- A LONG bundle (04_moves_bundles_sockets.md): the address 0x12_3456_7890 goes into g4, slots 1 and 2 are empty. -/
theorem test_long_bundle :
    decodeBundle 0x400091A2B2000000080000000004F890 = .ok { rep := false, moves := [{ slot := 0, guard := 0, dest := 4, src := .lit 0x1234567890 }] } := by decide +kernel

/-- A borrow across words (06_arithmetic_at_the_edges.md): 0 - 1, then 1 - 0 with the borrow. -/
theorem test_subtract_with_borrow :
    let lo := aluOp 0x07 0 1 0 0
    let hi := aluOp 0x08 1 0 1 0
    lo.r = 0xFFFFFFFFFFFFFFFF ∧ lo.c = true ∧ lo.v = false ∧ lo.z = false ∧ lo.n = true ∧
    hi.r = 0 ∧ hi.c = false ∧ hi.v = false ∧ hi.z = true ∧ hi.n = false := by decide +kernel

/-! ## States that meet the statements' hypotheses -/

/-- A record of `n` zero bytes with some bytes set. -/
def rec (n : Nat) (l : List (Nat × Nat)) : Bytes := l.foldl (fun b p => b.set p.1 (BitVec.ofNat 8 p.2)) (List.replicate n 0)
def image : Tbl Bytes :=
  [(ukey 1 0, rec 16 [(5, 1)]), (ukey 1 1, rec 16 [(5, 1)]), (ukey 4 0, rec 64 []), (ukey 5 0, rec 64 [(0, 1)]), (ukey 5 10, rec 64 [(0, 2)]), (ukey 5 12, rec 64 []),
   (ukey 12 0, rec 64 [(0, 1)]), (ukey 12 8, rec 64 [(0, 1), (1, 5)])]
def un (k i : Nat) (s : UState) : Nat × UnitSt := (ukey k i, { UnitSt.reset with st := s })
def units : Tbl UnitSt :=
  [un 0 0 .active, un 1 0 .active, un 1 1 .active, un 2 0 .active, un 2 1 .active, un 2 16 .spare, un 2 17 .active, un 3 0 .active, un 3 1 .active, un 4 0 .active,
   un 4 10 .spare, un 5 0 .active, un 6 0 .active, un 7 0 .active, un 8 0 .active, un 9 0 .active, un 9 1 .active, un 10 0 .active, un 10 8 .active, un 11 0 .active, un 11 1 .active,
   un 13 0 .active, un 13 1 .active, un 14 0 .active, un 14 1 .active]
def dl : Line := BitVec.ofNat 2048 0x1234567
def lineIn (s : CohSt) : L2Line := { st := s, data := dl, poison := false, way := some 1, dirtyAt := some 0, tenureEnd := none, deferred := none, lease := 0, lastUse := 0, cause := none, pf := false }
def lane : Lane := { readDelay := 1, writeDelay := 2, readEye := 20, writeEye := 20, vref := 0 }
def chanUp (role : Nat) : Chan := { Chan.reset with phase := .running, role := role, powered := true, present := true, trained := true, lanes := List.replicate 10 lane }
def chans : Tbl Chan := [(0, chanUp 1), (1, chanUp 1), (2, chanUp 1), (3, chanUp 1), (4, chanUp 1), (10, chanUp 2)]
def seam0 : Seam := { Seam.reset with members := [0, 2, 4, 6, 8] }
def seams : Tbl Seam := [(0, seam0), (1, { Seam.reset with members := [1, 3, 5, 7, 9] }), (2, Seam.reset), (3, Seam.reset)]
def mach : Mach := { Mach.reset with
  now := 5000000000, mode := { ModeSt.reset with st := .service }, image := image, units := units, chans := chans, seams := seams,
  load := { LoadSt.reset with active := 1 }, mem := { Memory.reset with lines := 0x1000 },
  svc := { SvcSt.reset with released := true }, pins := { PinSt.reset with main := true } }
def st (m : Mach) : State := { State.reset with m := m }
def w : State := st mach
def withL2 (x : L2St) : Mach := { mach with l2 := [(0, x)] }
def withHome (x : Home) : Mach := { mach with homes := [(0, x)] }
def withChan (x : Chan) : Mach := { mach with chans := tset chans 0 x }
def withSeam (x : Seam) : Mach := { mach with seams := tset seams 0 x }
def tlbE (l : Nat) : TlbEntry := { lease := l, va := 0, pa := 0, bits := 30, r := true, w := true, x := true, sett := false }
def tlbs : List TlbEntry := [tlbE 0, tlbE 1]
/-- Path 0 is Helar on link 0, path 1 NVMe on port 0; lease 1 is Active, with endpoint 0 on path 0 and a ring at 0x10000. -/
def leaseUp : Lease := { Lease.reset with st := .active, ptRoot := 1, shares := 0x01010101, regs := [(0x1000, 0xFFFFFF00), (0x1008, 0x10000)] }
def machL : Mach := { mach with
  image := image ++ [(ukey 11 0, rec 64 [(0, 1)]), (ukey 11 1, rec 64 [(0, 2)]), (ukey 8 1, rec 64 [(6, 1), (26, 7)])],
  leases := [(1, leaseUp)], hubTlb := [tlbs, tlbs] }
def pathOp : Path := { Path.reset with st := .operational, helar := { HelarSt.reset with token := 5, peerToken := 6, version := 0x10, payload := 1024, window := 8, keepaliveMs := 100, rtoUs := 1000 } }
def withPath (x : Path) : Mach := { machL with chn := { ChnSt.reset with paths := [(0, x), (1, x)] } }
def tid : TxnId := { num := 9, lease := 1, ep := 0, tag := 7, accepted := 1, progVa := 0x20000, progPa := 0x20000, ringRec := 0, steps := 1, ordered := false, deadline := 0, submitter := 3 }
def txn0 (s : TxnSt) : Txn := { id := tid, st := s, everIssued := false, heldInPartner := false, toSump := false, sumpReason := 0, path := 0, redrives := 0, cp := 0, done := 0, status := 0, outcome := 0, partnerStatus := 0, gen := 0, writes := 0, reserved := true, waitSince := 0, awaitSince := 0, outSteps := [], order := 0, sumpWaiting := false }
def withTxn (x : Txn) : Mach := { machL with chn := { ChnSt.reset with paths := [(0, pathOp), (1, pathOp)], txns := [(4, x)], jrn := 1, journal := 1 } }
def svcM (m : Mach) : Mach := { m with pins := { m.pins with ao := true }, svc := { m.svc with released := true, owner := some .sp0, agreed := [(0, (1, 1, 15))] } }
def hdr (code : Nat) (a b : Byte) (p : Bytes) : SvcHdr :=
  { port := .sp0, major := a, minor := b, type := BitVec.ofNat 16 code, seq := 5, len := BitVec.ofNat 16 p.length, status := 0, crc := BitVec.ofNat 32 (crc32c (svcBytes a b code 5 p.length 0 p)) }
def hd (code : Nat) (p : Bytes) : SvcHdr := hdr code 1 1 p
def bareM : Mach := { svcM mach with mode := ModeSt.reset, load := LoadSt.reset, units := [], image := [] }
/-- An engine at work: lease 1's task at level 0, translations, its bundle in L1I. -/
def slot (g d s : Nat) : Nat := g * 2 ^ 26 + d * 2 ^ 16 + s
def bundleW : Nat := slot 0 1 0x8005 + slot 0 2 0 * 2 ^ 30 + 0x20000000 * 2 ^ 60 + 0x20000000 * 2 ^ 90
def badW : Nat := bundleW + 2 ^ 120
def lineOf (w : Nat) : Line := BitVec.ofNat 2048 w
def bankT : Bank := { Bank.reset with st := .ready, g := vset Bank.reset.g 0 77, c := vset Bank.reset.c 8 (BitVec.ofNat 64 (2 ^ 32 + 9)) }
def engT (b : Bank) : Eng := { Eng.reset with lv := vset Eng.reset.lv 0 b, tlb := [tlbE 1, tlbE 0], vec := 0x3001 }
def machE (x : Eng) : Mach := { machL with
  leases := [(0, { Lease.reset with st := .active, affinity := BitVec.allOnes 64 }), (1, { leaseUp with affinity := BitVec.allOnes 64, pool := [0x4000, 0x4100, 0x4200] })],
  engs := [(0, x)], l2 := [(0, { L2St.reset with ctl := .enabled, lines := [(0, { lineIn .s with data := lineOf bundleW })] })],
  l1i := [(0, [({ line := 0, way := 0, use := 0 }, lineOf bundleW)])] }


namespace A

def armedM (t : Nat) : Mach := { bareM with svc := { bareM.svc with armed := some (1, 0x12345678, t) } }
def conf : Bytes := [1, 0, 0, 0] ++ le 4 (0xFFFFFFFF - 0x12345678)
def confBad : Bytes := [1, 0, 0, 0] ++ le 4 0
def wcs := st { mach with mode := { ModeSt.reset with st := .checkStop } }

def k1 : State := st { armedM 0 with now := 5000000001 }
def k2 : State := { (st (armedM 5000000000)) with pending := [.fuseConfirm (hd 0x71 conf) conf] }

theorem witness_FuseConfirms_FuseConfirmBlowsBothCopies :
    Taken (st (armedM 5000000000)).m (confirmMsg conf) (hd 113 conf) conf ∧ (st (armedM 5000000000)).m.mode.st = Mode.bare ∧ blowing (st (armedM 5000000000)).m = false ∧ (st (armedM 5000000000)).m.svc.armed = some (1, 305419896, 5000000000) ∧ (st (armedM 5000000000)).m.now ≤ 5000000000 + 5000000000 ∧ fld conf 0 1 = 1 ∧ fld conf 4 4 = 4294967295 - 305419896 := by delta Taken; decide +kernel

theorem witness_FuseConfirms_FuseConfirmLateOrWrong :
    (Taken (st (armedM 5000000000)).m (confirmMsg confBad) (hd 113 confBad) confBad ∧ (st (armedM 5000000000)).m.mode.st = Mode.bare ∧ blowing (st (armedM 5000000000)).m = false ∧ (st (armedM 5000000000)).m.svc.armed = some (1, 305419896, 5000000000)) ∧
    (Taken k1.m (confirmMsg conf) (hd 113 conf) conf ∧ k1.m.mode.st = Mode.bare ∧ blowing k1.m = false ∧ k1.m.svc.armed = some (1, 305419896, 0)) :=
  ⟨by delta Taken; decide +kernel,
    by delta Taken; decide +kernel⟩

theorem witness_CheckStopFreezesUnits :
    alive wcs.m = false := by decide +kernel

theorem witness_RefusedAccesses_LeasesMayNotCommandUnits :
    (1 ≠ 0 ∧ alive (st machL).m = true) ∧
    (1 ≠ 0 ∧ alive (st machL).m = true ∧ unitHasRole (st machL).m 12 0 = true) ∧
    (1 ≠ 0 ∧ alive (st machL).m = true ∧ unitHasRole (st machL).m 4 0 = true) ∧
    (1 ≠ 0 ∧ alive (st machL).m = true ∧ unitHasRole (st machL).m 8 0 = true) ∧
    (1 ≠ 0 ∧ alive (st machL).m = true ∧ unitHasRole (st machL).m 6 0 = true) ∧
    (1 ≠ 0 ∧ alive (st machL).m = true ∧ unitHasRole (st machL).m 13 0 = true) :=
  ⟨by decide +kernel,
    by decide +kernel,
    by decide +kernel,
    by decide +kernel,
    by decide +kernel,
    by decide +kernel⟩

theorem witness_RefusedAccesses_UnitsWithoutARoleRefuse :
    (alive (st Mach.reset).m = true ∧ unitHasRole (st Mach.reset).m 12 1 = false) ∧
    (alive (st Mach.reset).m = true ∧ unitHasRole (st Mach.reset).m 4 1 = false) ∧
    (alive (st Mach.reset).m = true ∧ unitHasRole (st Mach.reset).m 8 1 = false) ∧
    (alive (st Mach.reset).m = true ∧ unitHasRole (st Mach.reset).m 6 1 = false) ∧
    (alive (st Mach.reset).m = true ∧ unitHasRole (st Mach.reset).m 9 1 = false) ∧
    (alive (st Mach.reset).m = true ∧ unitHasRole (st Mach.reset).m 1 1 = false) :=
  ⟨by decide +kernel,
    by decide +kernel,
    by decide +kernel,
    by decide +kernel,
    by decide +kernel,
    by decide +kernel⟩

theorem witness_RefusedAccesses_RefusedAccessIsRecorded :
    mach.mode.st ≠ Mode.test ∧ mach.errs.suppress = [] := by decide +kernel

set_option maxRecDepth 100000 in
theorem witness_StepKeepsFuseCopiesAgreeing :
    k2.copiesAgree := by and_intros <;> first | decide +kernel | exact Prod.ext (by decide +kernel) rfl | rfl

end A

namespace B

def w1 := st { mach with crange := { MaintSt.reset with busy := true } }
def v1 : SetWay := { all := true, inclLocked := false, slot := 0, cache := 1, set := 0, way := 0 }
def v0 : SetWay := { all := true, inclLocked := false, slot := 0, cache := 0, set := 0, way := 0 }
def vb : SetWay := { all := true, inclLocked := false, slot := 0, cache := 3, set := 0, way := 0 }
def wd := st { mach with l1d := [(0, [⟨3, 0, 1⟩, ⟨4, 0, 2⟩])], l2 := [(0, { L2St.reset with lines := [(3, lineIn .m), (4, lineIn .s)] })] }
def v2 : SetWay := { all := false, inclLocked := false, slot := 0, cache := 2, set := 3, way := 1 }
def wd2 := st { mach with l1d := [(0, [⟨3, 0, 1⟩, ⟨4, 0, 2⟩])], l1i := [(0, [(⟨3, 1, 1⟩, dl), (⟨35, 0, 2⟩, dl)])] }
def wb := st (withL2 { L2St.reset with op := { MaintSt.reset with busy := true } })
def w1c := st { mach with crange := { MaintSt.reset with busy := true, count := 2, first := 3 } }
def mq (n : Nat) : Msg := .req 0 { op := .mntC, n := n, src := 0x500, lease := 0, self := true, incl := true, mask := 0, data := 0, poison := false }
def wdm := st { mach with l1d := [(0, [⟨3, 0, 1⟩, ⟨4, 0, 2⟩])], l2 := [(0, { L2St.reset with lines := [(3, lineIn .m), (4, lineIn .s)] })], mesh := [mq 3, mq 4] }
def wdis := st (withL2 { L2St.reset with ctl := .disabling, disableReq := true })
def wp (p : Nat) : PReq := { n := 1, pos := p, port := 0, lease := 0, src := 0, seq := p, deadline := 0, target := 0, hint := false }
def wq : WReq := { n := 1, data := dl, poison := true, seq := 0, left := [(0, wp 0)] }
def wq2 : WReq := { wq with left := [(0, wp 0), (4, wp 1)] }
def ww (q : WReq) := st { mach with mem := { mach.mem with writes := [q], cells := [(3, 1)] } }
def reb := { seam0 with st := .rebuilding, missing := some 1, target := none }
def pr : PReq := { n := 0, pos := 0, port := 0, lease := 0, src := 0, seq := 0, deadline := 0, target := 0, hint := false }
def wr := st { (withChan { chanUp 1 with sub0 := { SubSt.reset with reads := [pr] } }) with mem := { mach.mem with reads := [(0, { need := [(0, 0), (2, 1)], bad := [], parity := false, unc := none })] } }
def wrt := st { mach with seams := [(0, seam0)] }

def k1 : State := st (withHome { Home.reset with op := { MaintSt.reset with busy := true } })
def k2 : State := st (withL2 { L2St.reset with lockable := 0x0F })
def k3 : State := st (withHome { Home.reset with ctl := .disabled })
def k4 : State := st (withHome { Home.reset with ctl := .disabling })
def k5 : State := st (withChan { chanUp 2 with offline := true })
def k6 : State := st (withChan { chanUp 2 with powered := false, phase := .poweredOff })
def k7 : State := st { withChan { chanUp 2 with offline := true, phase := .selfRefresh } with seams := seams }
def k8 : State := st { mach with seams := [(0, seam0)] }
def k9 : State := st (withChan { chanUp 1 with draining := true })
def k10 : State := st (withSeam { seam0 with st := .degraded })
def k11 : State := st { mach with chans := tset chans 1 { chanUp 1 with phase := .retraining } }
def k12 : State := st (withChan { chanUp 1 with powered := false })
def k13 : State := st (withChan { chanUp 1 with powered := false, phase := .poweredOff, present := false })
def k14 : State := st (withChan { chanUp 1 with trained := false })
def k15 : State := st (withSeam { reb with target := some 10, w := 0x1000 })
def k16 : State := st (withSeam { seam0 with st := .catchUp, missing := some 0, sweep := some 0 })
def k18 : State := st { (withChan { chanUp 1 with phase := .retraining }) with seams := [] }
def k19 : State := st (withChan { chanUp 1 with phase := .selfRefresh })
def k20 : State := st (withChan { chanUp 1 with sub1 := { SubSt.reset with openRows := [(7, (3, 0))] } })
def k21 : State := st (withChan { chanUp 1 with phase := .training })
def k22 : ChanTrain := { dimm0 := none, dimm1 := none, lanes := [lane] }
def k23 : LineRead := { need := [(0, 0), (2, 1)], bad := [], parity := false, unc := none }

theorem witness_CrangeCommands :
    (Writable w.m Actor.service 0 0) ∧
    (Writable w1.m Actor.service 0 0) :=
  ⟨by delta Writable; decide +kernel,
    by delta Writable; decide +kernel⟩

theorem witness_SetwayAndMaintenance_SetwayCommands :
    (Writable wd.m Actor.service 1 0 ∧ (l2 wd.m 0).op.busy = false ∧ l2SetwayBad v1 = false ∧ v1.cache = 1#2) ∧
    (Writable wd2.m Actor.service 1 0 ∧ (l2 wd2.m 0).op.busy = false ∧ l2SetwayBad v2 = false ∧ v2.cache = 2#2) ∧
    (Writable w.m Actor.service 1 0 ∧ (l2 w.m 0).op.busy = false ∧ l2SetwayBad v0 = false ∧ v0.cache = 0#2 ∧ (l2 w.m 0).lines = []) :=
  ⟨by delta Writable; decide +kernel,
    by delta Writable; decide +kernel,
    by delta Writable; decide +kernel⟩

theorem witness_SetwayAndMaintenance_SetwayBadAndOverrun :
    (Writable wb.m Actor.service 1 0 ∧ (l2 wb.m 0).op.busy = true) ∧
    (Writable w.m Actor.service 1 0 ∧ (l2 w.m 0).op.busy = false ∧ l2SetwayBad vb = true) :=
  ⟨by delta Writable; decide +kernel,
    by delta Writable; decide +kernel⟩

theorem witness_SetwayAndMaintenance_MaintenanceCompleteClearsBusy :
    (meshRuns w1c.m = true ∧ w1c.m.crange.busy = true ∧ crangeLines w1c.m.crange.count w1c.m w1c.m.crange.first w1c.m.crange.op w1c.m.crange.incl 0 = ((crangeLines 2 w1c.m 3 0 false 0).1, (crangeLines 2 w1c.m 3 0 false 0).2.1, (crangeLines 2 w1c.m 3 0 false 0).2.2)) ∧
    (meshRuns w1.m = true ∧ w1.m.crange.busy = true ∧ w1.m.crange.count = 0) ∧
    (meshRuns k1.m = true) ∧
    (meshRuns wb.m = true ∧ (l2 wb.m 0).op.busy = true ∧ selfWaits wb.m 0 none = false) :=
  ⟨by decide +kernel,
    by decide +kernel,
    by decide +kernel,
    by decide +kernel⟩

theorem witness_CacheControl :
    (Writable wd.m Actor.service 2 0) ∧
    (Writable wdm.m Actor.service 1 0 ∧ l2HasDirty (l2 wdm.m 0) = true ∧ (l2 wdm.m 0).ctl = CacheSt.enabled ∧ (List.all (l2 wdm.m 0).lines fun p => selfWaits wdm.m 0 (some p.1)) = true) ∧
    (Writable wdis.m Actor.service 1 0) ∧
    (Writable w.m Actor.service 1 0 ∧ (l2 w.m 0).lines = [] ∧ (l2 w.m 0).ctl = CacheSt.enabled) ∧
    (Writable k2.m Actor.service 1 0) ∧
    (Writable w.m Actor.service 3 0 ∧ (home w.m 0).l3 = [] ∧ (home w.m 0).ctl = CacheSt.enabled) ∧
    (Writable k3.m Actor.service 3 0) :=
  ⟨by delta Writable; decide +kernel,
    by delta Writable; decide +kernel,
    by delta Writable; decide +kernel,
    by delta Writable; decide +kernel,
    by delta Writable; decide +kernel,
    by delta Writable; decide +kernel,
    by delta Writable; decide +kernel⟩

theorem witness_CacheEvents :
    (unitsRun wdis.m = true ∧ (l2 wdis.m 0).ctl = CacheSt.disabling ∧ (l2 wdis.m 0).lines = []) ∧
    (unitsRun k4.m = true ∧ (home k4.m 0).ctl = CacheSt.disabling ∧ (home k4.m 0).l3 = []) ∧
    (unitsRun wd.m = true ∧ lineAt wd.m 0 (3#44).toNat = some (lineIn CohSt.m) ∧ (lineIn CohSt.m).dirtyAt = some 0 ∧ (lineIn CohSt.m).st = CohSt.m ∧ 0 + 750 * (l2 wd.m 0).age ≤ wd.m.now ∧ selfWaits wd.m 0 (some (3#44).toNat) = false) ∧
    (unitsRun wd.m = true ∧ ((tget wd.m.l1d 0 []).any fun x => x.line == (3#44).toNat) = true) ∧
    (unitsRun wd.m = true ∧ lineAt wd.m 0 (3#44).toNat = some (lineIn CohSt.m)) :=
  ⟨by decide +kernel,
    by decide +kernel,
    by decide +kernel,
    by decide +kernel,
    by decide +kernel⟩

theorem witness_ChannelCommandsAccepted :
    (Writable w.m Actor.service 4 0 ∧ retrainOk w.m 0 = true ∧ retrainSeamsOk w.m 0 = true ∧ noneRetrains w.m 0 = true ∧ Quiet w.m 0) ∧
    (Writable (st (withChan (chanUp 2))).m Actor.service 4 0 ∧ (chan (st (withChan (chanUp 2))).m 0).role = 2 ∧ (chan (st (withChan (chanUp 2))).m 0).offline = false ∧ ((chan (st (withChan (chanUp 2))).m 0).phase = Phase.running ∨ (chan (st (withChan (chanUp 2))).m 0).phase = Phase.selfRefresh)) ∧
    (Writable k5.m Actor.service 4 0 ∧ (chan k5.m 0).powered = true ∧ ((chan k5.m 0).offline = true ∨ (chan k5.m 0).phase = Phase.failed)) ∧
    (Writable k6.m Actor.service 4 0 ∧ (chan k6.m 0).powered = false ∧ (chan k6.m 0).phase = Phase.poweredOff ∧ (chan k6.m 0).present = true ∧ (chan k6.m 0).presentSince + 100000000 ≤ k6.m.now) ∧
    (Writable k7.m Actor.service 4 0 ∧ (chan k7.m 0).offline = true ∧ (chan k7.m 0).powered = true ∧ (chan k7.m 0).trained = true ∧ (chan k7.m 0).phase = Phase.selfRefresh) :=
  ⟨by delta Writable Quiet; decide +kernel,
    by delta Writable; decide +kernel,
    by delta Writable; decide +kernel,
    by delta Writable; decide +kernel,
    by delta Writable; decide +kernel⟩

theorem witness_ChannelCommandsAccepted_OfflineForceDegradesItsSeams :
    Writable k8.m Actor.service 4 0 ∧ (chan k8.m 0).role = 1 ∧ (chan k8.m 0).offline = false ∧ (chan k8.m 0).draining = false ∧ (chan k8.m 0).phase = Phase.running ∧ Quiet k8.m 0 ∧ seamServed k8.m 0 0 = 0 ∧ seamServed k8.m 0 1 = 15 ∧ (seam k8.m 0).st = SeamState.complete ∧ (∀ k < 4, (seam k8.m k).target ≠ some 0) := by delta Writable Quiet; decide +kernel

theorem witness_ChannelCommandsRefused :
    (Writable k9.m Actor.service 4 0 ∧ retrainOk k9.m 0 = false) ∧
    (Writable k10.m Actor.service 4 0 ∧ retrainOk k10.m 0 = true ∧ retrainSeamsOk k10.m 0 = false) ∧
    (Writable k11.m Actor.service 4 0 ∧ retrainSeamsOk k11.m 0 = true ∧ noneRetrains k11.m 0 = false) ∧
    (Writable k12.m Actor.service 4 0 ∧ (chan k12.m 0).powered = false) ∧
    (Writable k13.m Actor.service 4 0 ∧ (chan k13.m 0).powered = false ∧ (chan k13.m 0).phase = Phase.poweredOff ∧ (chan k13.m 0).present = false) ∧
    (Writable w.m Actor.service 4 0 ∧ (chan w.m 0).powered = true) ∧
    (Writable k14.m Actor.service 4 0 ∧ (chan k14.m 0).trained = false) :=
  ⟨by delta Writable; decide +kernel,
    by delta Writable; decide +kernel,
    by delta Writable; decide +kernel,
    by delta Writable; decide +kernel,
    by delta Writable; decide +kernel,
    by delta Writable; decide +kernel,
    by delta Writable; decide +kernel⟩

theorem witness_MemWriteStoresItsLine :
    (meshRuns (ww wq).m = true ∧ (ww wq).m.mem.wf = true ∧ chanServes (ww wq).m 0 = true ∧ servesWrites (ww wq).m 0 0 = true ∧ chooseWrite (ww wq).m 0 0 = some (wp 0) ∧ List.find? (fun q => q.left.any fun e => e.1 == 2 * 0 + 0 && e.2 == wp 0) (ww wq).m.mem.writes = some wq ∧ List.filter (fun e => e.1 != 2 * 0 + 0 || e.2 != wp 0) wq.left = []) ∧
    (meshRuns (ww wq2).m = true ∧ (ww wq2).m.mem.wf = true ∧ chanServes (ww wq2).m 0 = true ∧ servesWrites (ww wq2).m 0 0 = true ∧ chooseWrite (ww wq2).m 0 0 = some (wp 0) ∧ List.find? (fun q => q.left.any fun e => e.1 == 2 * 0 + 0 && e.2 == wp 0) (ww wq2).m.mem.writes = some wq2 ∧ List.filter (fun e => e.1 != 2 * 0 + 0 || e.2 != wp 0) wq2.left ≠ []) ∧
    (meshRuns (ww wq2).m = true ∧ (ww wq2).m.mem.wf = true ∧ chanServes (ww wq2).m 0 = true ∧ servesWrites (ww wq2).m 0 0 = true ∧ chooseWrite (ww wq2).m 0 0 = some (wp 0) ∧ List.find? (fun q => q.left.any fun e => e.1 == 2 * 0 + 0 && e.2 == wp 0) (ww wq2).m.mem.writes = some wq2 ∧ (chan (ww wq2).m 0).caParity < 15) :=
  ⟨by decide +kernel,
    by decide +kernel,
    by decide +kernel⟩

theorem witness_SeamAndChannelEvents_SeamEvents :
    (unitsRun (st (withSeam reb)).m = true ∧ (seam (st (withSeam reb)).m 0).st = SeamState.rebuilding ∧ (seam (st (withSeam reb)).m 0).target = none ∧ (seam (st (withSeam reb)).m 0).w < (st (withSeam reb)).m.mem.lines ∧ tfind (home (st (withSeam reb)).m (homeOf (st (withSeam reb)).m (lineOfSeam 0 (seam (st (withSeam reb)).m 0).w))).txns (lineOfSeam 0 (seam (st (withSeam reb)).m 0).w) = none) ∧
    (unitsRun k15.m = true ∧ (seam k15.m 0).st = SeamState.rebuilding ∧ k15.m.mem.lines ≤ (seam k15.m 0).w ∧ (seam k15.m 0).missing = some 1 ∧ (seam k15.m 0).target = some 10 ∧ 1 < (seam k15.m 0).members.length) ∧
    (unitsRun k16.m = true ∧ (seam k16.m 0).st = SeamState.catchUp ∧ (seam k16.m 0).sweep.isSome = true ∧ (seam k16.m 0).map = []) ∧
    (unitsRun k9.m = true ∧ chanFlag k9.m 0 1 = false ∧ (3#8).toNat ≤ (chan k9.m 0).tempAtTrain + retrainDrift k9.m 0 ∧ (chan k9.m 0).tempAtTrain ≤ (3#8).toNat + retrainDrift k9.m 0) ∧
    (unitsRun k18.m = true ∧ (chan k18.m 0).phase = Phase.retraining ∧ lanesOk (List.replicate 10 lane) = true ∧ chanSeams k18.m 0 = [] ∧ (chan k18.m 0).role = 1) ∧
    (unitsRun w.m = true ∧ chanServes w.m 0 = true) ∧
    (unitsRun k19.m = true ∧ (chan k19.m 0).phase = Phase.selfRefresh ∧ (chan k19.m 0).role = 1) ∧
    (unitsRun k20.m = true ∧ tfind (subOf (chan k20.m 0) 1).openRows 7 = some (3, 0) ∧ (3, 0).2 + rowIdleNs k20.m 0 ≤ k20.m.now) ∧
    (unitsRun w.m = true ∧ chanServes w.m 0 = true ∧ (0#44).toNat < memLines w.m ∧ lineGone w.m (0#44).toNat = false ∧ List.find? (fun q => q.2 / 2 == 0) (lineSubs w.m (0#44).toNat) = some (0, 0)) ∧
    (unitsRun w.m = true ∧ (chan w.m 0).present ≠ false) ∧
    (unitsRun k21.m = true ∧ (chan k21.m 0).phase = Phase.training ∧ (chan k21.m 0).pwrOnAt + 50000000 ≤ k21.m.now) ∧
    (unitsRun wrt.m = true ∧ mayRetrain wrt.m 0 = true ∧ retrainDrift wrt.m 0 + (chan wrt.m 0).tempAtTrain < (90#8).toNat ∧ Quiet wrt.m 0 ∧ (∀ d < 12, d ≠ 0 → dueFrom wrt.m d = none)) :=
  ⟨by decide +kernel,
    by decide +kernel,
    by decide +kernel,
    by decide +kernel,
    by decide +kernel,
    by decide +kernel,
    by decide +kernel,
    by decide +kernel,
    by decide +kernel,
    by decide +kernel,
    by decide +kernel,
    by delta Quiet; decide +kernel⟩

theorem witness_ChannelReads :
    (meshRuns w.m = true ∧ chanServes w.m 0 = true ∧ (chan w.m 0).timeouts < 3) ∧
    (meshRuns wr.m = true ∧ chanServes wr.m 0 = true ∧ servesWrites wr.m 0 0 = false ∧ chooseRead wr.m 0 0 = some pr ∧ tfind wr.m.mem.reads pr.n = some k23 ∧ k23.unc = none) ∧
    (meshRuns wr.m = true ∧ chanServes wr.m 0 = true ∧ servesWrites wr.m 0 0 = false ∧ chooseRead wr.m 0 0 = some pr ∧ (chan wr.m 0).caParity < 15 ∧ ((writesOn wr.m (2 * 0 + 0)).any fun w => w.n == pr.n) = false) :=
  ⟨by decide +kernel,
    by decide +kernel,
    by decide +kernel⟩

end B

namespace C

def l3c : L3Line := { data := dl, poison := false, dirty := false, way := 0, dirtySeq := 0, lastUse := 0 }
def wu := st (withHome { Home.reset with l3 := [(5, l3c)] })
def de : DirEnt := { owner := some 1, ownerO := false, sharers := [], lease := 0, lastUse := 0 }
def wo := st (withHome { Home.reset with dir := [(5, de)] })
def ds : DirEnt := { owner := none, ownerO := false, sharers := [0], lease := 0, lastUse := 0 }
def wsh := st (withHome { Home.reset with dir := [(5, ds)] })
def do0 : DirEnt := { owner := some 0, ownerO := true, sharers := [1], lease := 0, lastUse := 0 }
def wo0 := st (withHome { Home.reset with dir := [(5, do0)] })
def dx0 : DirEnt := { owner := some 0, ownerO := false, sharers := [], lease := 0, lastUse := 0 }
def wx0 := st (withHome { Home.reset with dir := [(5, dx0)], ctl := .disabled })
def wx1 := st (withHome { Home.reset with dir := [(5, dx0)], l3 := [(5, l3c)] })
def tx (st : HSt) (aw : List Nat) : HTxn := { req := benchReqOf .rdX 5 0 0, st := st, awaited := aw, sent := .snpX, readPend := false, mirPend := false, newest := none, dirtyOrphan := false, dirtySeen := false, upgHolder := false, toMem := false, after := .stable, deadline := 0 }
def wbusy := st (withHome { Home.reset with txns := [(5, tx .hs [1])], dir := [(5, de)] })
def wl (x : L2Line) := st (withL2 { L2St.reset with lines := [(5, x)] })
def wls := wl (lineIn .s)
def wle := wl (lineIn .e)
def wlo := wl (lineIn .o)
def wlm := wl (lineIn .m)
def ten : L2Line := { lineIn .e with tenureEnd := some 9000000000 }
def whs := st (withHome { Home.reset with txns := [(5, tx .hs [0, 1])], dir := [(5, { owner := some 0, ownerO := false, sharers := [1], lease := 0, lastUse := 0 })] })
def wgr (s : CohSt) := wl { lineIn s with way := none, tenureEnd := none }
def li (s : CohSt) : L2Line := { lineIn s with way := none, tenureEnd := none }
def lpf : L2Line := { li .isD with pf := true }
def wt (t : HTxn) := st (withHome { Home.reset with txns := [(5, t)] })
def t1 : HTxn := tx .hd []
def t2 : HTxn := { tx .hw [] with mirPend := true, toMem := true }
def t3 : HTxn := { tx .hw [] with req := { benchReqOf .rdX 5 0 0 with op := .wbM }, after := .wbAck }
def t4 : HTxn := { tx .hr [] with req := benchReqOf .rdS 5 0 0, readPend := true }
def w4 := st (withHome { Home.reset with txns := [(5, t4)], l3 := [(5, l3c)] })
def w6 := st { mach with homes := [(1, { Home.reset with pair := [(5, { owner := 0, data := dl, poison := false })] })] }
def ten2 : L2Line := { lineIn .e with tenureEnd := some 5 }
def hl : Home := { Home.reset with lost := true, buddy := 1 }
def hb : Home := { Home.reset with st := .takingOver, takeoverOf := 0, takeoverAt := 5 }
def w7 := st { mach with homes := [(0, hl), (1, { hb with reports := [(5, [(1, .shared)])] })] }
def w8 := st { mach with homes := [(0, hl), (1, hb)], l2 := [(0, { L2St.reset with lines := [(5, lineIn .m)] })] }
def w9 := st { mach with homes := [(0, hl), (1, hb)] }

def k1 : State := st { mach with mesh := [.ioData 0x440 5 dl false] }
def k2 : State := st { mach with mesh := [.ack 0x440 2 5] }
def k3 : State := st { mach with mesh := [.ack 0x440 3 5] }

theorem witness_RequestsOfUnheldLines :
    (meshRuns wu.m = true ∧ HomeServes wu.m (5#44).toNat ∧ tfind (home wu.m (homeOf wu.m (5#44).toNat)).l3 (5#44).toNat = some l3c ∧ tfind (home wu.m (homeOf wu.m (5#44).toNat)).dir (5#44).toNat = none ∧ InTurn wu.m (isReq (benchReqOf ReqOp.rdS (5#44).toNat 0 0))) ∧
    (meshRuns wu.m = true ∧ HomeServes wu.m (5#44).toNat ∧ tfind (home wu.m (homeOf wu.m (5#44).toNat)).l3 (5#44).toNat = some l3c ∧ tfind (home wu.m (homeOf wu.m (5#44).toNat)).dir (5#44).toNat = none ∧ InTurn wu.m (isReq (benchReqOf ReqOp.rdX (5#44).toNat 0 0))) ∧
    (meshRuns wu.m = true ∧ HomeServes wu.m (5#44).toNat ∧ tfind (home wu.m (homeOf wu.m (5#44).toNat)).l3 (5#44).toNat = some l3c ∧ tfind (home wu.m (homeOf wu.m (5#44).toNat)).dir (5#44).toNat = none ∧ InTurn wu.m (isReq (benchReqOf ReqOp.upg (5#44).toNat 0 0))) ∧
    (meshRuns wu.m = true ∧ HomeServes wu.m (5#44).toNat ∧ tfind (home wu.m (homeOf wu.m (5#44).toNat)).l3 (5#44).toNat = some l3c ∧ tfind (home wu.m (homeOf wu.m (5#44).toNat)).dir (5#44).toNat = none ∧ InTurn wu.m (isReq (mntReq ReqOp.ioRd (5#44) (1088#16) 0 false false))) ∧
    (meshRuns wu.m = true ∧ HomeServes wu.m (5#44).toNat ∧ tfind (home wu.m (homeOf wu.m (5#44).toNat)).l3 (5#44).toNat = some l3c ∧ tfind (home wu.m (homeOf wu.m (5#44).toNat)).dir (5#44).toNat = none ∧ 3#256 ≠ BitVec.allOnes 256 ∧ InTurn wu.m (isReq ({ mntReq ReqOp.ioWr (5#44) (1088#16) 0 false false with mask := 3#256, data := dl, poison := true }))) ∧
    (meshRuns wu.m = true ∧ HomeServes wu.m (5#44).toNat ∧ tfind (home wu.m (homeOf wu.m (5#44).toNat)).l3 (5#44).toNat = some l3c ∧ tfind (home wu.m (homeOf wu.m (5#44).toNat)).dir (5#44).toNat = none ∧ writesToMem wu.m (homeOf wu.m (5#44).toNat) (5#44).toNat = true ∧ InTurn wu.m (isReq ({ mntReq ReqOp.ioWr (5#44) (1088#16) 0 false false with mask := BitVec.allOnes 256, data := dl, poison := true }))) ∧
    (meshRuns wu.m = true ∧ HomeServes wu.m (5#44).toNat ∧ tfind (home wu.m (homeOf wu.m (5#44).toNat)).l3 (5#44).toNat = some l3c ∧ tfind (home wu.m (homeOf wu.m (5#44).toNat)).dir (5#44).toNat = none ∧ l3c.dirty = false ∧ InTurn wu.m (isReq (mntReq ReqOp.mntC (5#44) (1088#16) 0 false false))) ∧
    (meshRuns wu.m = true ∧ HomeServes wu.m (5#44).toNat ∧ tfind (home wu.m (homeOf wu.m (5#44).toNat)).l3 (5#44).toNat = some l3c ∧ tfind (home wu.m (homeOf wu.m (5#44).toNat)).dir (5#44).toNat = none ∧ l3c.dirty = false ∧ InTurn wu.m (isReq (mntReq ReqOp.mntI (5#44) (1088#16) 0 true true))) ∧
    (meshRuns wu.m = true ∧ HomeServes wu.m (5#44).toNat ∧ tfind (home wu.m (homeOf wu.m (5#44).toNat)).l3 (5#44).toNat = some l3c ∧ tfind (home wu.m (homeOf wu.m (5#44).toNat)).dir (5#44).toNat = none ∧ l3c.dirty = false ∧ InTurn wu.m (isReq (mntReq ReqOp.mntCI (5#44) (1088#16) 0 true true))) ∧
    (meshRuns wu.m = true ∧ HomeServes wu.m (5#44).toNat ∧ tfind (home wu.m (homeOf wu.m (5#44).toNat)).l3 (5#44).toNat = some l3c ∧ tfind (home wu.m (homeOf wu.m (5#44).toNat)).dir (5#44).toNat = none ∧ l3c.dirty = false ∧ InTurn wu.m (isReq (mntReq ReqOp.mntC (5#44) (1280#16) 0 true true))) :=
  ⟨by delta HomeServes InTurn; decide +kernel,
    by delta HomeServes InTurn; decide +kernel,
    by delta HomeServes InTurn; decide +kernel,
    by delta HomeServes InTurn; decide +kernel,
    by delta HomeServes InTurn; decide +kernel,
    by delta HomeServes InTurn; decide +kernel,
    by delta HomeServes InTurn; decide +kernel,
    by delta HomeServes InTurn; decide +kernel,
    by delta HomeServes InTurn; decide +kernel,
    by delta HomeServes InTurn; decide +kernel⟩

theorem witness_RequestsOfOwnedLines :
    (meshRuns wo.m = true ∧ HomeServes wo.m (5#44).toNat ∧ tfind (home wo.m (homeOf wo.m (5#44).toNat)).dir (5#44).toNat = some de ∧ de.owner = some 1 ∧ de.ownerO = false ∧ de.sharers = [] ∧ 0 ≠ 1 ∧ (1088#16).toNat ≠ 1280 + 1 ∧ InTurn wo.m (isReq (benchReqOf ReqOp.rdS (5#44).toNat 0 0))) ∧
    (meshRuns wo.m = true ∧ HomeServes wo.m (5#44).toNat ∧ tfind (home wo.m (homeOf wo.m (5#44).toNat)).dir (5#44).toNat = some de ∧ de.owner = some 1 ∧ de.ownerO = false ∧ de.sharers = [] ∧ 0 ≠ 1 ∧ (1088#16).toNat ≠ 1280 + 1 ∧ InTurn wo.m (isReq (benchReqOf ReqOp.rdX (5#44).toNat 0 0))) ∧
    (meshRuns wo.m = true ∧ HomeServes wo.m (5#44).toNat ∧ tfind (home wo.m (homeOf wo.m (5#44).toNat)).dir (5#44).toNat = some de ∧ de.owner = some 1 ∧ de.ownerO = false ∧ de.sharers = [] ∧ 0 ≠ 1 ∧ (1088#16).toNat ≠ 1280 + 1 ∧ InTurn wo.m (isReq (benchReqOf ReqOp.upg (5#44).toNat 0 0))) ∧
    (meshRuns wo.m = true ∧ HomeServes wo.m (5#44).toNat ∧ tfind (home wo.m (homeOf wo.m (5#44).toNat)).dir (5#44).toNat = some de ∧ de.owner = some 1 ∧ de.ownerO = false ∧ de.sharers = [] ∧ 0 ≠ 1 ∧ (1088#16).toNat ≠ 1280 + 1 ∧ InTurn wo.m (isReq (mntReq ReqOp.ioRd (5#44) (1088#16) 0 false false))) ∧
    (meshRuns wo.m = true ∧ HomeServes wo.m (5#44).toNat ∧ tfind (home wo.m (homeOf wo.m (5#44).toNat)).dir (5#44).toNat = some de ∧ de.owner = some 1 ∧ de.ownerO = false ∧ de.sharers = [] ∧ 0 ≠ 1 ∧ (1088#16).toNat ≠ 1280 + 1 ∧ InTurn wo.m (isReq ({ mntReq ReqOp.ioWr (5#44) (1088#16) 0 false false with mask := 1#256, data := dl, poison := false }))) ∧
    (meshRuns wo.m = true ∧ HomeServes wo.m (5#44).toNat ∧ tfind (home wo.m (homeOf wo.m (5#44).toNat)).dir (5#44).toNat = some de ∧ de.owner = some 1 ∧ de.ownerO = false ∧ de.sharers = [] ∧ 0 ≠ 1 ∧ (1088#16).toNat ≠ 1280 + 1 ∧ InTurn wo.m (isReq ({ mntReq ReqOp.ioWr (5#44) (1088#16) 0 false false with mask := BitVec.allOnes 256, data := dl, poison := false }))) ∧
    (meshRuns wo.m = true ∧ HomeServes wo.m (5#44).toNat ∧ tfind (home wo.m (homeOf wo.m (5#44).toNat)).dir (5#44).toNat = some de ∧ de.owner = some 1 ∧ de.ownerO = false ∧ de.sharers = [] ∧ 0 ≠ 1 ∧ (1088#16).toNat ≠ 1280 + 1 ∧ InTurn wo.m (isReq (mntReq ReqOp.mntC (5#44) (1088#16) 0 false true))) ∧
    (meshRuns wo.m = true ∧ HomeServes wo.m (5#44).toNat ∧ tfind (home wo.m (homeOf wo.m (5#44).toNat)).dir (5#44).toNat = some de ∧ de.owner = some 1 ∧ de.ownerO = false ∧ de.sharers = [] ∧ 0 ≠ 1 ∧ (1088#16).toNat ≠ 1280 + 1 ∧ InTurn wo.m (isReq (mntReq ReqOp.mntI (5#44) (1088#16) 0 false true))) ∧
    (meshRuns wo.m = true ∧ HomeServes wo.m (5#44).toNat ∧ tfind (home wo.m (homeOf wo.m (5#44).toNat)).dir (5#44).toNat = some de ∧ de.owner = some 1 ∧ de.ownerO = false ∧ de.sharers = [] ∧ 0 ≠ 1 ∧ (1088#16).toNat ≠ 1280 + 1 ∧ InTurn wo.m (isReq (mntReq ReqOp.mntCI (5#44) (1088#16) 0 false true))) :=
  ⟨by delta HomeServes InTurn; decide +kernel,
    by delta HomeServes InTurn; decide +kernel,
    by delta HomeServes InTurn; decide +kernel,
    by delta HomeServes InTurn; decide +kernel,
    by delta HomeServes InTurn; decide +kernel,
    by delta HomeServes InTurn; decide +kernel,
    by delta HomeServes InTurn; decide +kernel,
    by delta HomeServes InTurn; decide +kernel,
    by delta HomeServes InTurn; decide +kernel⟩

theorem witness_UpgradesAndEvictions :
    (meshRuns wsh.m = true ∧ HomeServes wsh.m (5#44).toNat ∧ tfind (home wsh.m (homeOf wsh.m (5#44).toNat)).dir (5#44).toNat = some ds ∧ ds.owner = none ∧ ds.sharers = [0] ∧ InTurn wsh.m (isReq (benchReqOf ReqOp.upg (5#44).toNat 0 0))) ∧
    (meshRuns wo0.m = true ∧ HomeServes wo0.m (5#44).toNat ∧ InTurn wo0.m (isEvict ReqOp.wbM (5#44).toNat 0 dl false) ∧ tfind (home wo0.m (homeOf wo0.m (5#44).toNat)).dir (5#44).toNat = some do0 ∧ do0.owner = some 0 ∧ writesToMem wo0.m (homeOf wo0.m (5#44).toNat) (5#44).toNat = true) ∧
    (meshRuns wsh.m = true ∧ HomeServes wsh.m (5#44).toNat ∧ InTurn wsh.m (isEvict ReqOp.wbM (5#44).toNat 0 dl false) ∧ (dirOf wsh.m (homeOf wsh.m (5#44).toNat) (5#44).toNat).owner ≠ some 0) ∧
    (meshRuns wx0.m = true ∧ HomeServes wx0.m (5#44).toNat ∧ InTurn wx0.m (isEvict ReqOp.evE (5#44).toNat 0 dl false) ∧ tfind (home wx0.m (homeOf wx0.m (5#44).toNat)).dir (5#44).toNat = some dx0 ∧ dx0.owner = some 0 ∧ dx0.ownerO = false ∧ dx0.sharers = [] ∧ (home wx0.m (homeOf wx0.m (5#44).toNat)).ctl ≠ CacheSt.enabled) ∧
    (meshRuns wx1.m = true ∧ HomeServes wx1.m (5#44).toNat ∧ InTurn wx1.m (isEvict ReqOp.evE (5#44).toNat 0 dl false) ∧ tfind (home wx1.m (homeOf wx1.m (5#44).toNat)).dir (5#44).toNat = some dx0 ∧ dx0.owner = some 0 ∧ dx0.ownerO = false ∧ dx0.sharers = [] ∧ l3Takes wx1.m (homeOf wx1.m (5#44).toNat) (5#44).toNat = true ∧ tfind (home wx1.m (homeOf wx1.m (5#44).toNat)).l3 (5#44).toNat = some l3c) ∧
    (meshRuns wsh.m = true ∧ HomeServes wsh.m (5#44).toNat ∧ InTurn wsh.m (isEvict ReqOp.evE (5#44).toNat 0 dl false) ∧ (dirOf wsh.m (homeOf wsh.m (5#44).toNat) (5#44).toNat).owner ≠ some 0) :=
  ⟨by delta HomeServes InTurn; decide +kernel,
    by delta HomeServes InTurn; decide +kernel,
    by delta HomeServes InTurn; decide +kernel,
    by delta HomeServes InTurn; decide +kernel,
    by delta HomeServes InTurn; decide +kernel,
    by delta HomeServes InTurn; decide +kernel⟩

theorem witness_RequestsOfBusyLinesWait :
    (meshRuns wbusy.m = true ∧ (home wbusy.m (homeOf wbusy.m (5#44).toNat)).lost = false ∧ homeLoad (home wbusy.m (homeOf wbusy.m (5#44).toNat)) < 512 ∧ tfind (home wbusy.m (homeOf wbusy.m (5#44).toNat)).txns (5#44).toNat = some (tx HSt.hs [1]) ∧ InTurn wbusy.m (isReq (benchReqOf ReqOp.rdS (5#44).toNat 0 0))) ∧
    (meshRuns wbusy.m = true ∧ (home wbusy.m (homeOf wbusy.m (5#44).toNat)).lost = false ∧ homeLoad (home wbusy.m (homeOf wbusy.m (5#44).toNat)) < 512 ∧ tfind (home wbusy.m (homeOf wbusy.m (5#44).toNat)).txns (5#44).toNat = some (tx HSt.hs [1]) ∧ InTurn wbusy.m (isReq (benchReqOf ReqOp.rdX (5#44).toNat 0 0))) ∧
    (meshRuns wbusy.m = true ∧ (home wbusy.m (homeOf wbusy.m (5#44).toNat)).lost = false ∧ homeLoad (home wbusy.m (homeOf wbusy.m (5#44).toNat)) < 512 ∧ tfind (home wbusy.m (homeOf wbusy.m (5#44).toNat)).txns (5#44).toNat = some (tx HSt.hs [1]) ∧ InTurn wbusy.m (isReq (benchReqOf ReqOp.upg (5#44).toNat 0 0))) ∧
    (meshRuns wbusy.m = true ∧ (home wbusy.m (homeOf wbusy.m (5#44).toNat)).lost = false ∧ homeLoad (home wbusy.m (homeOf wbusy.m (5#44).toNat)) < 512 ∧ tfind (home wbusy.m (homeOf wbusy.m (5#44).toNat)).txns (5#44).toNat = some (tx HSt.hs [1]) ∧ InTurn wbusy.m (isReq (mntReq ReqOp.ioRd (5#44) (1088#16) 0 false false))) ∧
    (meshRuns wbusy.m = true ∧ (home wbusy.m (homeOf wbusy.m (5#44).toNat)).lost = false ∧ homeLoad (home wbusy.m (homeOf wbusy.m (5#44).toNat)) < 512 ∧ tfind (home wbusy.m (homeOf wbusy.m (5#44).toNat)).txns (5#44).toNat = some (tx HSt.hs [1]) ∧ InTurn wbusy.m (isReq ({ mntReq ReqOp.ioWr (5#44) (1088#16) 0 false false with mask := 3#256, data := dl, poison := true }))) ∧
    (meshRuns wbusy.m = true ∧ (home wbusy.m (homeOf wbusy.m (5#44).toNat)).lost = false ∧ homeLoad (home wbusy.m (homeOf wbusy.m (5#44).toNat)) < 512 ∧ tfind (home wbusy.m (homeOf wbusy.m (5#44).toNat)).txns (5#44).toNat = some (tx HSt.hs [1]) ∧ InTurn wbusy.m (isReq (mntReq ReqOp.mntC (5#44) (1088#16) 0 true false))) ∧
    (meshRuns wbusy.m = true ∧ (home wbusy.m (homeOf wbusy.m (5#44).toNat)).lost = false ∧ homeLoad (home wbusy.m (homeOf wbusy.m (5#44).toNat)) < 512 ∧ tfind (home wbusy.m (homeOf wbusy.m (5#44).toNat)).txns (5#44).toNat = some (tx HSt.hs [1]) ∧ InTurn wbusy.m (isReq (mntReq ReqOp.mntI (5#44) (1088#16) 0 true false))) ∧
    (meshRuns wbusy.m = true ∧ (home wbusy.m (homeOf wbusy.m (5#44).toNat)).lost = false ∧ homeLoad (home wbusy.m (homeOf wbusy.m (5#44).toNat)) < 512 ∧ tfind (home wbusy.m (homeOf wbusy.m (5#44).toNat)).txns (5#44).toNat = some (tx HSt.hs [1]) ∧ InTurn wbusy.m (isReq (mntReq ReqOp.mntCI (5#44) (1088#16) 0 true false))) :=
  ⟨by delta InTurn; decide +kernel,
    by delta InTurn; decide +kernel,
    by delta InTurn; decide +kernel,
    by delta InTurn; decide +kernel,
    by delta InTurn; decide +kernel,
    by delta InTurn; decide +kernel,
    by delta InTurn; decide +kernel,
    by delta InTurn; decide +kernel⟩

theorem witness_Snoops_SnoopsOfStableLines :
    (meshRuns wls.m = true ∧ lineAt wls.m 0 (5#44).toNat = some (lineIn CohSt.s) ∧ wayLocked (l2 wls.m 0) (lineIn CohSt.s).way = false ∧ (lineIn CohSt.s).st = CohSt.s ∧ InTurn wls.m (isSnoop 0 SnpOp.snpS (5#44).toNat false false)) ∧
    (meshRuns wls.m = true ∧ lineAt wls.m 0 (5#44).toNat = some (lineIn CohSt.s) ∧ wayLocked (l2 wls.m 0) (lineIn CohSt.s).way = false ∧ (lineIn CohSt.s).st = CohSt.s ∧ InTurn wls.m (isSnoop 0 SnpOp.snpCln (5#44).toNat false false)) ∧
    (meshRuns wls.m = true ∧ lineAt wls.m 0 (5#44).toNat = some (lineIn CohSt.s) ∧ wayLocked (l2 wls.m 0) (lineIn CohSt.s).way = false ∧ (lineIn CohSt.s).st = CohSt.s ∧ inTenure wls.m (lineIn CohSt.s) = false ∧ InTurn wls.m (isSnoop 0 SnpOp.snpX (5#44).toNat true true)) ∧
    (meshRuns wls.m = true ∧ lineAt wls.m 0 (5#44).toNat = some (lineIn CohSt.s) ∧ wayLocked (l2 wls.m 0) (lineIn CohSt.s).way = false ∧ (lineIn CohSt.s).st = CohSt.s ∧ inTenure wls.m (lineIn CohSt.s) = false ∧ InTurn wls.m (isSnoop 0 SnpOp.snpDrop (5#44).toNat true true)) ∧
    (meshRuns wle.m = true ∧ lineAt wle.m 0 (5#44).toNat = some (lineIn CohSt.e) ∧ wayLocked (l2 wle.m 0) (lineIn CohSt.e).way = false ∧ (lineIn CohSt.e).st = CohSt.e ∧ InTurn wle.m (isSnoop 0 SnpOp.snpS (5#44).toNat false false)) ∧
    (meshRuns wle.m = true ∧ lineAt wle.m 0 (5#44).toNat = some (lineIn CohSt.e) ∧ wayLocked (l2 wle.m 0) (lineIn CohSt.e).way = false ∧ (lineIn CohSt.e).st = CohSt.e ∧ InTurn wle.m (isSnoop 0 SnpOp.snpCln (5#44).toNat false false)) ∧
    (meshRuns wle.m = true ∧ lineAt wle.m 0 (5#44).toNat = some (lineIn CohSt.e) ∧ wayLocked (l2 wle.m 0) (lineIn CohSt.e).way = false ∧ (lineIn CohSt.e).st = CohSt.e ∧ inTenure wle.m (lineIn CohSt.e) = false ∧ InTurn wle.m (isSnoop 0 SnpOp.snpX (5#44).toNat true false)) ∧
    (meshRuns wle.m = true ∧ lineAt wle.m 0 (5#44).toNat = some (lineIn CohSt.e) ∧ wayLocked (l2 wle.m 0) (lineIn CohSt.e).way = false ∧ (lineIn CohSt.e).st = CohSt.e ∧ inTenure wle.m (lineIn CohSt.e) = false ∧ InTurn wle.m (isSnoop 0 SnpOp.snpDrop (5#44).toNat true false)) ∧
    (meshRuns wlo.m = true ∧ lineAt wlo.m 0 (5#44).toNat = some (lineIn CohSt.o) ∧ wayLocked (l2 wlo.m 0) (lineIn CohSt.o).way = false ∧ (lineIn CohSt.o).st = CohSt.o ∧ InTurn wlo.m (isSnoop 0 SnpOp.snpS (5#44).toNat false false)) ∧
    (meshRuns wlo.m = true ∧ lineAt wlo.m 0 (5#44).toNat = some (lineIn CohSt.o) ∧ wayLocked (l2 wlo.m 0) (lineIn CohSt.o).way = false ∧ (lineIn CohSt.o).st = CohSt.o ∧ InTurn wlo.m (isSnoop 0 SnpOp.snpCln (5#44).toNat false false)) ∧
    (meshRuns wlo.m = true ∧ lineAt wlo.m 0 (5#44).toNat = some (lineIn CohSt.o) ∧ wayLocked (l2 wlo.m 0) (lineIn CohSt.o).way = false ∧ (lineIn CohSt.o).st = CohSt.o ∧ inTenure wlo.m (lineIn CohSt.o) = false ∧ InTurn wlo.m (isSnoop 0 SnpOp.snpX (5#44).toNat true true)) ∧
    (meshRuns wlo.m = true ∧ lineAt wlo.m 0 (5#44).toNat = some (lineIn CohSt.o) ∧ wayLocked (l2 wlo.m 0) (lineIn CohSt.o).way = false ∧ (lineIn CohSt.o).st = CohSt.o ∧ inTenure wlo.m (lineIn CohSt.o) = false ∧ InTurn wlo.m (isSnoop 0 SnpOp.snpDrop (5#44).toNat true true)) ∧
    (meshRuns wlm.m = true ∧ lineAt wlm.m 0 (5#44).toNat = some (lineIn CohSt.m) ∧ wayLocked (l2 wlm.m 0) (lineIn CohSt.m).way = false ∧ (lineIn CohSt.m).st = CohSt.m ∧ InTurn wlm.m (isSnoop 0 SnpOp.snpS (5#44).toNat false false)) ∧
    (meshRuns wlm.m = true ∧ lineAt wlm.m 0 (5#44).toNat = some (lineIn CohSt.m) ∧ wayLocked (l2 wlm.m 0) (lineIn CohSt.m).way = false ∧ (lineIn CohSt.m).st = CohSt.m ∧ InTurn wlm.m (isSnoop 0 SnpOp.snpCln (5#44).toNat false false)) ∧
    (meshRuns wlm.m = true ∧ lineAt wlm.m 0 (5#44).toNat = some (lineIn CohSt.m) ∧ wayLocked (l2 wlm.m 0) (lineIn CohSt.m).way = false ∧ (lineIn CohSt.m).st = CohSt.m ∧ inTenure wlm.m (lineIn CohSt.m) = false ∧ InTurn wlm.m (isSnoop 0 SnpOp.snpX (5#44).toNat true false)) ∧
    (meshRuns wlm.m = true ∧ lineAt wlm.m 0 (5#44).toNat = some (lineIn CohSt.m) ∧ wayLocked (l2 wlm.m 0) (lineIn CohSt.m).way = false ∧ (lineIn CohSt.m).st = CohSt.m ∧ inTenure wlm.m (lineIn CohSt.m) = false ∧ InTurn wlm.m (isSnoop 0 SnpOp.snpDrop (5#44).toNat true false)) :=
  ⟨by delta InTurn; decide +kernel,
    by delta InTurn; decide +kernel,
    by delta InTurn; decide +kernel,
    by delta InTurn; decide +kernel,
    by delta InTurn; decide +kernel,
    by delta InTurn; decide +kernel,
    by delta InTurn; decide +kernel,
    by delta InTurn; decide +kernel,
    by delta InTurn; decide +kernel,
    by delta InTurn; decide +kernel,
    by delta InTurn; decide +kernel,
    by delta InTurn; decide +kernel,
    by delta InTurn; decide +kernel,
    by delta InTurn; decide +kernel,
    by delta InTurn; decide +kernel,
    by delta InTurn; decide +kernel⟩

theorem witness_Snoops_TenureDefersSnoops :
    (meshRuns (wl ten).m = true ∧ lineAt (wl ten).m 0 (5#44).toNat = some ten ∧ inTenure (wl ten).m ten = true ∧ (ten.st = CohSt.e ∨ ten.st = CohSt.m) ∧ InTurn (wl ten).m (isSnoop 0 SnpOp.snpX (5#44).toNat true false)) ∧
    (meshRuns (wl ten).m = true ∧ lineAt (wl ten).m 0 (5#44).toNat = some ten ∧ inTenure (wl ten).m ten = true ∧ (ten.st = CohSt.e ∨ ten.st = CohSt.m) ∧ InTurn (wl ten).m (isSnoop 0 SnpOp.snpDrop (5#44).toNat true false)) :=
  ⟨by delta InTurn; decide +kernel,
    by delta InTurn; decide +kernel⟩

theorem witness_SnoopResponses :
    (meshRuns whs.m = true ∧ tfind (home whs.m (homeOf whs.m (5#44).toNat)).txns (5#44).toNat = some (tx HSt.hs [0, 1]) ∧ (tx HSt.hs [0, 1]).st = HSt.hs ∧ (tx HSt.hs [0, 1]).awaited.contains 0 = true ∧ (tx HSt.hs [0, 1]).awaited.erase 0 ≠ [] ∧ InTurn whs.m (isRsp (5#44).toNat 0 0 (if 0 < 2 then none else some (dl, false)))) ∧
    (meshRuns whs.m = true ∧ tfind (home whs.m (homeOf whs.m (5#44).toNat)).txns (5#44).toNat = some (tx HSt.hs [0, 1]) ∧ (tx HSt.hs [0, 1]).st = HSt.hs ∧ (tx HSt.hs [0, 1]).awaited.contains 0 = true ∧ (tx HSt.hs [0, 1]).awaited.erase 0 ≠ [] ∧ InTurn whs.m (isRsp (5#44).toNat 0 2 (if 2 < 2 then none else some (dl, false)))) ∧
    (meshRuns whs.m = true ∧ tfind (home whs.m (homeOf whs.m (5#44).toNat)).txns (5#44).toNat = some (tx HSt.hs [0, 1]) ∧ (tx HSt.hs [0, 1]).st = HSt.hs ∧ (tx HSt.hs [0, 1]).awaited.contains 0 = true ∧ (tx HSt.hs [0, 1]).awaited.erase 0 ≠ [] ∧ InTurn whs.m (isRsp (5#44).toNat 0 3 (if 3 < 2 then none else some (dl, false)))) ∧
    (meshRuns whs.m = true ∧ tfind (home whs.m (homeOf whs.m (5#44).toNat)).txns (5#44).toNat = some (tx HSt.hs [0, 1]) ∧ (tx HSt.hs [0, 1]).st = HSt.hs ∧ (tx HSt.hs [0, 1]).awaited.contains 0 = true ∧ (tx HSt.hs [0, 1]).awaited.erase 0 ≠ [] ∧ InTurn whs.m (isRsp (5#44).toNat 0 5 (if 5 < 2 then none else some (dl, false)))) ∧
    (meshRuns whs.m = true ∧ tfind (home whs.m (homeOf whs.m (5#44).toNat)).txns (5#44).toNat = some (tx HSt.hs [0, 1]) ∧ (tx HSt.hs [0, 1]).st = HSt.hs ∧ (tx HSt.hs [0, 1]).awaited.contains 0 = true ∧ (tx HSt.hs [0, 1]).awaited.erase 0 ≠ [] ∧ InTurn whs.m (isRsp (5#44).toNat 0 6 (if 6 < 2 then none else some (dl, false)))) ∧
    (meshRuns whs.m = true ∧ tfind (home whs.m (homeOf whs.m (5#44).toNat)).txns (5#44).toNat = some (tx HSt.hs [0, 1]) ∧ (tx HSt.hs [0, 1]).st = HSt.hs ∧ (tx HSt.hs [0, 1]).awaited.contains 0 = true ∧ (tx HSt.hs [0, 1]).awaited.erase 0 ≠ [] ∧ InTurn whs.m (isRsp (5#44).toNat 0 1 (if 1 < 2 then none else some (dl, false)))) ∧
    (meshRuns whs.m = true ∧ tfind (home whs.m (homeOf whs.m (5#44).toNat)).txns (5#44).toNat = some (tx HSt.hs [0, 1]) ∧ (tx HSt.hs [0, 1]).st = HSt.hs ∧ (tx HSt.hs [0, 1]).awaited.contains 0 = true ∧ (tx HSt.hs [0, 1]).awaited.erase 0 ≠ [] ∧ (dirOf whs.m (homeOf whs.m (5#44).toNat) (5#44).toNat).owner = some 0 ∧ InTurn whs.m (isRsp (5#44).toNat 0 4 (if 4 < 2 then none else some (dl, false)))) ∧
    (meshRuns whs.m = true ∧ tfind (home whs.m (homeOf whs.m (5#44).toNat)).txns (5#44).toNat = some (tx HSt.hs [0, 1]) ∧ (tx HSt.hs [0, 1]).st = HSt.hs ∧ (tx HSt.hs [0, 1]).awaited.contains 0 = true ∧ (tx HSt.hs [0, 1]).awaited.erase 0 ≠ [] ∧ (dirOf whs.m (homeOf whs.m (5#44).toNat) (5#44).toNat).owner = some 0 ∧ InTurn whs.m (isRsp (5#44).toNat 0 7 (if 7 < 2 then none else some (dl, false)))) ∧
    (meshRuns whs.m = true ∧ tfind (home whs.m (homeOf whs.m (5#44).toNat)).txns (5#44).toNat = some (tx HSt.hs [0, 1]) ∧ (tx HSt.hs [0, 1]).st = HSt.hs ∧ (tx HSt.hs [0, 1]).awaited.contains 1 = true ∧ (tx HSt.hs [0, 1]).awaited.erase 1 ≠ [] ∧ InTurn whs.m (isRsp (5#44).toNat 1 5 (if 5 < 2 then none else some (dl, false)))) :=
  ⟨by delta InTurn; decide +kernel,
    by delta InTurn; decide +kernel,
    by delta InTurn; decide +kernel,
    by delta InTurn; decide +kernel,
    by delta InTurn; decide +kernel,
    by delta InTurn; decide +kernel,
    by delta InTurn; decide +kernel,
    by delta InTurn; decide +kernel,
    by delta InTurn; decide +kernel⟩

theorem witness_UnexpectedMessagesAtTheHome :
    (meshRuns w.m = true ∧ tfind (home w.m (homeOf w.m (5#44).toNat)).txns (5#44).toNat = none ∧ w.m.mode.found.contains (FaultEv.home (homeOf w.m (5#44).toNat)) = false ∧ InTurn w.m (isRsp (5#44).toNat 0 0 none)) ∧
    (meshRuns w.m = true ∧ tfind (home w.m (homeOf w.m (5#44).toNat)).txns (5#44).toNat = none ∧ w.m.mode.found.contains (FaultEv.home (homeOf w.m (5#44).toNat)) = false ∧ InTurn w.m (isRsp (5#44).toNat 0 1 none)) ∧
    (meshRuns w.m = true ∧ tfind (home w.m (homeOf w.m (5#44).toNat)).txns (5#44).toNat = none ∧ w.m.mode.found.contains (FaultEv.home (homeOf w.m (5#44).toNat)) = false ∧ InTurn w.m (isDone (5#44).toNat 0)) ∧
    (meshRuns w.m = true ∧ tfind (home w.m (homeOf w.m (5#44).toNat)).txns (5#44).toNat = none ∧ w.m.mode.found.contains (FaultEv.home (homeOf w.m (5#44).toNat)) = false ∧ InTurn w.m (isMirAck (5#44).toNat)) ∧
    (meshRuns w.m = true ∧ tfind (home w.m (homeOf w.m (5#44).toNat)).txns (5#44).toNat = none ∧ w.m.mode.found.contains (FaultEv.home (homeOf w.m (5#44).toNat)) = false ∧ InTurn w.m (isRsp (5#44).toNat 0 2 (some (dl, true)))) ∧
    (meshRuns w.m = true ∧ tfind (home w.m (homeOf w.m (5#44).toNat)).txns (5#44).toNat = none ∧ w.m.mode.found.contains (FaultEv.home (homeOf w.m (5#44).toNat)) = false ∧ InTurn w.m (isRsp (5#44).toNat 0 3 (some (dl, true)))) :=
  ⟨by delta InTurn; decide +kernel,
    by delta InTurn; decide +kernel,
    by delta InTurn; decide +kernel,
    by delta InTurn; decide +kernel,
    by delta InTurn; decide +kernel,
    by delta InTurn; decide +kernel⟩

theorem witness_GrantsAndAcknowledgements :
    (meshRuns (wgr CohSt.isD).m = true ∧ lineAt (wgr CohSt.isD).m 0 (5#44).toNat = some (li CohSt.isD) ∧ (li CohSt.isD).cause = none ∧ (l2 (wgr CohSt.isD).m 0).ctl = CacheSt.enabled ∧ chooseWay (wgr CohSt.isD).m 0 (5#44).toNat (li CohSt.isD).lease = some (0, none) ∧ (li CohSt.isD).st = CohSt.isD ∧ (li CohSt.isD).pf = false ∧ InTurn (wgr CohSt.isD).m fun y => y == Msg.data 0 0 (5#44).toNat dl true) ∧
    (meshRuns (wgr CohSt.isD).m = true ∧ lineAt (wgr CohSt.isD).m 0 (5#44).toNat = some (li CohSt.isD) ∧ (li CohSt.isD).cause = none ∧ (l2 (wgr CohSt.isD).m 0).ctl = CacheSt.enabled ∧ chooseWay (wgr CohSt.isD).m 0 (5#44).toNat (li CohSt.isD).lease = some (0, none) ∧ (li CohSt.isD).st = CohSt.isD ∧ (li CohSt.isD).pf = false ∧ InTurn (wgr CohSt.isD).m fun y => y == Msg.data 0 1 (5#44).toNat dl true) ∧
    (meshRuns (wgr CohSt.imD).m = true ∧ lineAt (wgr CohSt.imD).m 0 (5#44).toNat = some (li CohSt.imD) ∧ (li CohSt.imD).cause = none ∧ (l2 (wgr CohSt.imD).m 0).ctl = CacheSt.enabled ∧ chooseWay (wgr CohSt.imD).m 0 (5#44).toNat (li CohSt.imD).lease = some (0, none) ∧ ((li CohSt.imD).st = CohSt.isD ∨ (li CohSt.imD).st = CohSt.imD) ∧ InTurn (wgr CohSt.imD).m fun y => y == Msg.data 0 2 (5#44).toNat dl true) ∧
    (meshRuns (wl lpf).m = true ∧ lineAt (wl lpf).m 0 (5#44).toNat = some lpf ∧ lpf.cause = none ∧ (l2 (wl lpf).m 0).ctl = CacheSt.enabled ∧ lpf.st = CohSt.isD ∧ lpf.pf = true ∧ InTurn (wl lpf).m fun y => y == Msg.data 0 0 (5#44).toNat dl true) ∧
    (meshRuns (wl lpf).m = true ∧ lineAt (wl lpf).m 0 (5#44).toNat = some lpf ∧ lpf.cause = none ∧ (l2 (wl lpf).m 0).ctl = CacheSt.enabled ∧ lpf.st = CohSt.isD ∧ lpf.pf = true ∧ InTurn (wl lpf).m fun y => y == Msg.data 0 1 (5#44).toNat dl true) ∧
    (meshRuns (wgr CohSt.smA).m = true ∧ lineAt (wgr CohSt.smA).m 0 (5#44).toNat = some (li CohSt.smA) ∧ ((li CohSt.smA).st = CohSt.smA ∨ (li CohSt.smA).st = CohSt.omA) ∧ (li CohSt.smA).cause = none ∧ (l2 (wgr CohSt.smA).m 0).ctl = CacheSt.enabled ∧ InTurn (wgr CohSt.smA).m fun y => y == Msg.ack (1280 + 0) 4 (5#44).toNat) ∧
    (meshRuns (wgr CohSt.miA).m = true ∧ (stAt (wgr CohSt.miA).m 0 (5#44).toNat = some CohSt.eiA ∨ stAt (wgr CohSt.miA).m 0 (5#44).toNat = some CohSt.miA ∨ stAt (wgr CohSt.miA).m 0 (5#44).toNat = some CohSt.oiA) ∧ InTurn (wgr CohSt.miA).m fun y => y == Msg.ack (1280 + 0) 0 (5#44).toNat) ∧
    (meshRuns (wgr CohSt.iiA).m = true ∧ stAt (wgr CohSt.iiA).m 0 (5#44).toNat = some CohSt.iiA ∧ InTurn (wgr CohSt.iiA).m fun y => y == Msg.ack (1280 + 0) 1 (5#44).toNat) ∧
    (meshRuns k1.m = true ∧ k1.m.mesh = [Msg.ioData (1088#16).toNat (5#44).toNat dl false]) ∧
    (meshRuns k2.m = true ∧ k2.m.mesh = [Msg.ack (1088#16).toNat 2 (5#44).toNat]) ∧
    (meshRuns k3.m = true ∧ k3.m.mesh = [Msg.ack (1088#16).toNat 3 (5#44).toNat] ∧ 1088 ≤ (1088#16).toNat) :=
  ⟨by delta InTurn; decide +kernel,
    by delta InTurn; decide +kernel,
    by delta InTurn; decide +kernel,
    by delta InTurn; decide +kernel,
    by delta InTurn; decide +kernel,
    by delta InTurn; decide +kernel,
    by delta InTurn; decide +kernel,
    by delta InTurn; decide +kernel,
    by decide +kernel,
    by decide +kernel,
    by decide +kernel⟩

theorem witness_HomeEvents :
    (meshRuns (wt t1).m = true ∧ tfind (home (wt t1).m (homeOf (wt t1).m (5#44).toNat)).txns (5#44).toNat = some t1 ∧ tget (home (wt t1).m (homeOf (wt t1).m (5#44).toNat)).queues (5#44).toNat [] = [] ∧ (home (wt t1).m (homeOf (wt t1).m (5#44).toNat)).waitDir = [] ∧ t1.st = HSt.hd ∧ t1.req.src = 1280 + 0 ∧ InTurn (wt t1).m (isDone (5#44).toNat 0)) ∧
    (meshRuns (wt t2).m = true ∧ tfind (home (wt t2).m (homeOf (wt t2).m (5#44).toNat)).txns (5#44).toNat = some t2 ∧ tget (home (wt t2).m (homeOf (wt t2).m (5#44).toNat)).queues (5#44).toNat [] = [] ∧ (home (wt t2).m (homeOf (wt t2).m (5#44).toNat)).waitDir = [] ∧ t2.st = HSt.hw ∧ t2.mirPend = true ∧ InTurn (wt t2).m (isMirAck (5#44).toNat)) ∧
    (meshRuns (wt t3).m = true ∧ tfind (home (wt t3).m (homeOf (wt t3).m (5#44).toNat)).txns (5#44).toNat = some t3 ∧ tget (home (wt t3).m (homeOf (wt t3).m (5#44).toNat)).queues (5#44).toNat [] = [] ∧ (home (wt t3).m (homeOf (wt t3).m (5#44).toNat)).waitDir = [] ∧ t3.st = HSt.hw ∧ t3.mirPend = false ∧ t3.toMem = false ∧ t3.after = HAfter.wbAck ∧ t3.req.op = ReqOp.wbM ∧ t3.req.n = (5#44).toNat) ∧
    (meshRuns w4.m = true ∧ tfind (home w4.m (homeOf w4.m (5#44).toNat)).txns (5#44).toNat = some t4 ∧ tget (home w4.m (homeOf w4.m (5#44).toNat)).queues (5#44).toNat [] = [] ∧ (home w4.m (homeOf w4.m (5#44).toNat)).waitDir = [] ∧ t4.st = HSt.hr ∧ t4.req.op = ReqOp.rdS ∧ t4.req.n = (5#44).toNat ∧ t4.awaited = [] ∧ t4.readPend = true ∧ readReady w4.m (5#44).toNat = true ∧ tfind (home w4.m (homeOf w4.m (5#44).toNat)).dir (5#44).toNat = none ∧ tfind (home w4.m (homeOf w4.m (5#44).toNat)).l3 (5#44).toNat = some l3c ∧ l3c.dirty = false) ∧
    (meshRuns (wt t1).m = true ∧ tfind (home (wt t1).m (homeOf (wt t1).m (5#44).toNat)).txns (5#44).toNat = some t1 ∧ tget (home (wt t1).m (homeOf (wt t1).m (5#44).toNat)).queues (5#44).toNat [] = [] ∧ (home (wt t1).m (homeOf (wt t1).m (5#44).toNat)).waitDir = [] ∧ t1.st = HSt.hd ∧ t1.deadline ≤ (wt t1).m.now) ∧
    (meshRuns w.m = true ∧ InTurn w.m (isMir 1 (5#44).toNat dl true)) ∧
    (meshRuns w6.m = true ∧ InTurn w6.m fun y => y == Msg.mirRel 1 (5#44).toNat) ∧
    (meshRuns (wl ten2).m = true ∧ lineAt (wl ten2).m 0 (5#44).toNat = some ten2 ∧ ten2.tenureEnd = some 5 ∧ 5 ≤ (wl ten2).m.now ∧ ten2.deferred = none) :=
  ⟨by delta InTurn; decide +kernel,
    by delta InTurn; decide +kernel,
    by decide +kernel,
    by decide +kernel,
    by decide +kernel,
    by delta InTurn; decide +kernel,
    by delta InTurn; decide +kernel,
    by decide +kernel⟩

set_option maxRecDepth 100000 in
theorem witness_HomeEvents_Takeover :
    (meshRuns w7.m = true ∧ (home w7.m 0).lost = true ∧ (home w7.m (buddyOf w7.m 0)).st = HomeState.takingOver) ∧
    (meshRuns w8.m = true ∧ (home w8.m 0).lost = true ∧ (home w8.m (buddyOf w8.m 0)).st = HomeState.takingOver ∧ (l2 w8.m 0).lines = [(5, lineIn CohSt.m)] ∧ ownHome w8.m 5 = 0 ∧ (lineIn CohSt.m).st = CohSt.m) ∧
    (meshRuns w9.m = true ∧ (home w9.m 0).lost = true ∧ (home w9.m (buddyOf w9.m 0)).st = HomeState.takingOver ∧ (home w9.m (buddyOf w9.m 0)).takeoverOf = 0 ∧ (home w9.m (buddyOf w9.m 0)).reports = [] ∧ (home w9.m (buddyOf w9.m 0)).pair = [] ∧ w9.m.l2 = [] ∧ (∀ (i : ℕ), (home w9.m i).heldReqs = []) ∧ buddyOf w9.m 0 ≠ 0) :=
  ⟨by decide +kernel,
    by decide +kernel,
    by and_intros <;> first | decide +kernel | (intro i; simp only [home, w9, st, tget, tfind]; repeat (first | rfl | split))⟩

end C

namespace D1

def wl := st machL
def wnh := st { machL with image := tset (tset machL.image (ukey 11 0) (rec 64 [(0, 1), (32, 9)])) (ukey 12 0) (rec 64 [(0, 1), (32, 8)]) }
def wpu := st (withPath pathOp)
def wpf := st (withPath { pathOp with st := .failed })
def xsw := { txn0 .completed with sumpWaiting := true, toSump := true, sumpReason := 2 }
def wsw := st { withTxn xsw with chn := { ChnSt.reset with txns := [(4, xsw)], sump := 0x0010000000010001 } }
def swR := sumpPut wsw.m (2304 + xsw.cp) (sumpRecord { xsw with sumpWaiting := false } xsw.sumpReason wsw.m)
def wts := st (withTxn (txn0 .submitted))
def xts := { txn0 .submitted with toSump := true }
def wtd := st { withTxn (txn0 .submitted) with chn := { (withTxn (txn0 .submitted)).chn with jrn := 0, journal := 2 } }
def wtj := st (withTxn (txn0 .journalled))
def wti := st (withTxn { txn0 .issued with gen := 0, outSteps := [0] })
def xa := { txn0 .awaiting with outSteps := [0], path := 1 }
def xd := { txn0 .journalled with id := { tid with deadline := 0 } }
def xdl := { txn0 .journalled with id := { tid with deadline := 1 } }
def wdl := { withTxn xdl with evt := { EvtSt.reset with masters := vof 2 (fun _ => { TsMaster.reset with running := true, count := 100 }) } }
def wpw := { withTxn (txn0 .journalled) with now := 20000000000, chn := { (withTxn (txn0 .journalled)).chn with paths := [] } }
def wcw := { withTxn (txn0 .awaiting) with now := 40000000000 }
def xc := txn0 .completed
def wc := st (withTxn xc)
def wcm1 := (hubAddr wc.m 0 1 (0x10000 + 64) .write).2

def k1 : State := st { machL with chn := { ChnSt.reset with jrn := 1, jrnMove := some 0x400000, journal := 3 } }
def k2 : Txn := { txn0 .issued with gen := 0, outSteps := [0] }
def k3 : State := st (withPath { pathOp with st := .establishing })
def k4 : State := st (withPath { pathOp with st := .draining })
def k6 : NvmeIdent := { nguid := 0, lbaShift := 12, metadata := false, protection := false }

theorem witness_ChannelProcessorCommands_PathAndProcessorCommands :
    (unitsRun wl.m = true ∧ Writable wl.m Actor.service 0 0 ∧ ((path wl.m 0).st = PathState.offline ∨ (path wl.m 0).st = PathState.failed) ∧ pathCarrierActive wl.m 0 = true ∧ (pathKind wl.m 0 = 2 ∨ onPrefix wl.m (pathLink wl.m 0) 0 = true ∨ nextHop wl.m (pathLink wl.m 0) ≠ 0)) ∧
    (unitsRun wl.m = true ∧ Writable wl.m Actor.service 0 0 ∧ ((path wl.m 1).st = PathState.offline ∨ (path wl.m 1).st = PathState.failed) ∧ pathCarrierActive wl.m 1 = true ∧ (pathKind wl.m 1 = 2 ∨ onPrefix wl.m (pathLink wl.m 1) 1 = true ∨ nextHop wl.m (pathLink wl.m 1) ≠ 0)) ∧
    (unitsRun wnh.m = true ∧ Writable wnh.m Actor.service 0 0 ∧ ((path wnh.m 0).st = PathState.offline ∨ (path wnh.m 0).st = PathState.failed) ∧ pathCarrierActive wnh.m 0 = true ∧ pathKind wnh.m 0 = 1 ∧ onPrefix wnh.m (pathLink wnh.m 0) 0 = false ∧ nextHop wnh.m (pathLink wnh.m 0) = 0 ∧ pathTxns wnh.m 0 = []) ∧
    (unitsRun wpu.m = true ∧ Writable wpu.m Actor.service 0 0 ∧ (path wpu.m 0).st = PathState.operational ∧ pathTxns wpu.m 0 = []) ∧
    (unitsRun wpf.m = true ∧ Writable wpf.m Actor.service 0 0 ∧ (path wpf.m 0).st = PathState.failed) ∧
    (unitsRun wl.m = true ∧ Writable wl.m Actor.service 8 0 ∧ ustate wl.m 8 0 = UState.active) ∧
    (unitsRun (st (setUState machL 8 0 UState.offline)).m = true ∧ Writable (st (setUState machL 8 0 UState.offline)).m Actor.service 8 0 ∧ ustate (st (setUState machL 8 0 UState.offline)).m 8 0 = UState.offline) ∧
    (unitsRun wl.m = true ∧ ustate wl.m 8 0 = UState.active) :=
  ⟨by delta Writable; decide +kernel,
    by delta Writable; decide +kernel,
    by delta Writable; decide +kernel,
    by delta Writable; decide +kernel,
    by delta Writable; decide +kernel,
    by delta Writable; decide +kernel,
    by delta Writable; decide +kernel,
    by decide +kernel⟩

set_option maxRecDepth 100000 in
theorem witness_ChannelProcessorCommands_JournalAndSump :
    (Writable wl.m Actor.service 0 0) ∧
    (Writable k1.m Actor.service 0 0 ∧ unitsRun k1.m = true ∧ k1.m.chn.jrnMove = some 4194304 ∧ openTxns k1.m = []) ∧
    (Writable wl.m Actor.service 0 0 ∧ bits (4222124650725377#64).toNat 59 48 < 16) ∧
    (Writable wl.m Actor.service 0 0 ∧ 16 ≤ bits (4503599627436033#64).toNat 59 48 ∧ wl.m.chn.sumpLost = false ∧ openTxns wl.m = [] ∧ bits (4503599627436033#64).toNat 47 6 ≠ bits (BitVec.toNat wl.m.chn.sump) 47 6 ∧ bits (4503599627436033#64).toNat 63 60 ≤ 11) ∧
    (Writable wsw.m Actor.service 0 0 ∧ unitsRun wsw.m = true ∧ wsw.m.chn.txns = [(4, xsw)] ∧ xsw.sumpWaiting = true ∧ sumpPut wsw.m (2304 + xsw.cp) (sumpRecord { xsw with sumpWaiting := false } xsw.sumpReason wsw.m) = (SumpRes.written, swR.2) ∧ swR.2.chn.txns = wsw.m.chn.txns) :=
  ⟨by delta Writable; decide +kernel,
    by delta Writable; decide +kernel,
    by delta Writable; decide +kernel,
    by delta Writable; decide +kernel,
    ⟨by delta Writable; decide +kernel, by decide +kernel, by decide +kernel, by decide +kernel,
      Prod.ext (by decide +kernel) (by unfold swR; rfl), by decide +kernel⟩⟩

theorem witness_ChannelTransactions_SubmittedTransactions :
    (unitsRun wts.m = true ∧ txn wts.m 4 = some (txn0 TxnSt.submitted) ∧ (txn0 TxnSt.submitted).st = TxnSt.submitted ∧ (journalWrite wts.m 4 { (txn0 TxnSt.submitted) with st := TxnSt.journalled, waitSince := wts.m.now }).1 = true ∧ leaseQuiet wts.m (txn0 TxnSt.submitted).id.lease = false ∧ (txn0 TxnSt.submitted).toSump = false) ∧
    (unitsRun (st (withTxn xts)).m = true ∧ txn (st (withTxn xts)).m 4 = some xts ∧ xts.st = TxnSt.submitted ∧ (journalWrite (st (withTxn xts)).m 4 { xts with st := TxnSt.journalled, waitSince := (st (withTxn xts)).m.now }).1 = true ∧ xts.toSump = true) ∧
    (unitsRun wtd.m = true ∧ txn wtd.m 4 = some (txn0 TxnSt.submitted) ∧ (txn0 TxnSt.submitted).st = TxnSt.submitted ∧ (journalWrite wtd.m 4 { (txn0 TxnSt.submitted) with st := TxnSt.journalled, waitSince := wtd.m.now }).1 = false) :=
  ⟨by decide +kernel,
    by decide +kernel,
    by decide +kernel⟩

theorem witness_ChannelTransactions_TransactionEvents :
    (unitsRun wtj.m = true ∧ txn wtj.m 4 = some (txn0 TxnSt.journalled) ∧ (txn0 TxnSt.journalled).st = TxnSt.journalled ∧ leaseQuiet wtj.m (txn0 TxnSt.journalled).id.lease = false ∧ ((txn0 TxnSt.journalled).id.deadline = 0#64 ∨ BitVec.toNat (timeNow wtj.m) < BitVec.toNat (txn0 TxnSt.journalled).id.deadline) ∧ programOf wtj.m ((txn0 TxnSt.journalled).cp / 8) (txn0 TxnSt.journalled) = ((programOf wtj.m 0 (txn0 TxnSt.journalled)).1, (programOf wtj.m 0 (txn0 TxnSt.journalled)).2) ∧ List.find? (fun k => pathCarries (programOf wtj.m 0 (txn0 TxnSt.journalled)).2 k (programOf wtj.m 0 (txn0 TxnSt.journalled)).1) (driveOrder (epPaths wtj.m (txn0 TxnSt.journalled).id.lease (txn0 TxnSt.journalled).id.ep) (txn0 TxnSt.journalled).path) = some 0) ∧
    (unitsRun wti.m = true ∧ txn wti.m 4 = some k2 ∧ k2.st = TxnSt.issued ∧ (path wti.m k2.path).helar.queue = []) ∧
    (unitsRun wl.m = true ∧ txn wl.m 4 = none) ∧
    (unitsRun (st (withTxn xa)).m = true ∧ txn (st (withTxn xa)).m 4 = some xa ∧ xa.path = 1 ∧ xa.st = TxnSt.awaiting ∧ xa.outSteps = [0] ∧ (∀ (g : Step), (programOf (st (withTxn xa)).m (xa.cp / 8) xa).1[0]? = some g → g.code ≠ 2) ∧ xa.done ||| 2 ^ 0 = 2 ^ xa.id.steps - 1 ∧ (0#16).toNat = (path (st (withTxn xa)).m 1).gen) ∧
    (unitsRun (st wdl).m = true ∧ txn (st wdl).m 4 = some xdl ∧ xdl.st = TxnSt.journalled ∧ xdl.id.deadline ≠ 0#64 ∧ BitVec.toNat xdl.id.deadline ≤ BitVec.toNat (timeNow (st wdl).m)) ∧
    (unitsRun (st wpw).m = true ∧ txn (st wpw).m 4 = some (txn0 TxnSt.journalled) ∧ (txn0 TxnSt.journalled).st = TxnSt.journalled ∧ (epPaths (st wpw).m (txn0 TxnSt.journalled).id.lease (txn0 TxnSt.journalled).id.ep).any (operational (st wpw).m) = false ∧ List.foldl (fun a p => max a (path (st wpw).m p).lastOp) (txn0 TxnSt.journalled).waitSince (epPaths (st wpw).m (txn0 TxnSt.journalled).id.lease (txn0 TxnSt.journalled).id.ep) + partnerWait (st wpw).m (txn0 TxnSt.journalled).id.lease (txn0 TxnSt.journalled).id.ep ≤ (st wpw).m.now) ∧
    (unitsRun (st wcw).m = true ∧ txn (st wcw).m 4 = some (txn0 TxnSt.awaiting) ∧ (txn0 TxnSt.awaiting).st = TxnSt.awaiting ∧ (txn0 TxnSt.awaiting).awaitSince + completionWait (st wcw).m (txn0 TxnSt.awaiting).id.lease (txn0 TxnSt.awaiting).id.ep ≤ (st wcw).m.now ∧ pathKind (st wcw).m (txn0 TxnSt.awaiting).path = 1 ∧ (txn0 TxnSt.awaiting).heldInPartner = false ∧ leaseQuiet (st wcw).m (txn0 TxnSt.awaiting).id.lease = false ∧ (txn0 TxnSt.awaiting).redrives < redriveLimit (st wcw).m (txn0 TxnSt.awaiting).id.lease (txn0 TxnSt.awaiting).id.ep) ∧
    (unitsRun wsw.m = true ∧ txn wsw.m 4 = some xsw ∧ xsw.st = TxnSt.completed ∧ xsw.sumpWaiting = true) :=
  ⟨by decide +kernel,
    by decide +kernel,
    by decide +kernel,
    by decide +kernel,
    by decide +kernel,
    by decide +kernel,
    by decide +kernel,
    by decide +kernel⟩

theorem witness_ChannelTransactions_CompletionRecords :
    unitsRun wc.m = true ∧ txn wc.m 4 = some xc ∧ xc.st = TxnSt.completed ∧ xc.sumpWaiting = false ∧ xc.toSump = false ∧ xc.everIssued = false ∧ hubAddr wc.m (xc.cp / 8) xc.id.lease (epBase wc.m xc.id.lease xc.id.ep + 64 + 32 * ((ring wc.m xc.id.lease xc.id.ep).tail % epSize wc.m xc.id.lease xc.id.ep)) Need.write = (Except.ok 65600, wcm1) ∧ lineWritable wcm1 (65600 / 256) = true ∧ ringPut wcm1 (xc.cp / 8) (2304 + xc.cp) xc.id.lease (epBase wc.m xc.id.lease xc.id.ep) (epSize wc.m xc.id.lease xc.id.ep) 32 (ring wc.m xc.id.lease xc.id.ep).tail (recordBytes xc (ring wc.m xc.id.lease xc.id.ep).tail (epSize wc.m xc.id.lease xc.id.ep)) = (Except.ok (), (ringPut wcm1 0 2304 1 65536 16 32 0 (recordBytes xc 0 16)).2) := by decide +kernel

theorem witness_PathEvents :
    (unitsRun wpu.m = true ∧ pathTxns wpu.m 0 = [] ∧ (path wpu.m 0).st = PathState.operational) ∧
    (unitsRun k3.m = true ∧ pathTxns k3.m 0 = [] ∧ (path k3.m 0).st = PathState.establishing ∧ (path k3.m 0).estAt + 2000000000 ≤ k3.m.now) ∧
    (unitsRun k4.m = true ∧ pathTxns k4.m 0 = [] ∧ (path k4.m 0).st = PathState.draining) ∧
    (unitsRun wpu.m = true ∧ pathTxns wpu.m 1 = [] ∧ pathKind wpu.m 1 = 2 ∧ (path wpu.m 1).st = PathState.operational ∧ (path wpu.m 1).resetting = false) ∧
    (unitsRun k3.m = true ∧ pathTxns k3.m 1 = [] ∧ pathKind k3.m 1 = 2 ∧ (path k3.m 1).st = PathState.establishing ∧ k6.metadata = false ∧ k6.protection = false ∧ (k6.lbaShift = 9#8 ∨ k6.lbaShift = 12#8) ∧ le 16 k6.nguid.toNat = pathIdent k3.m 1) ∧
    (unitsRun k3.m = true ∧ pathTxns k3.m 1 = [] ∧ pathKind k3.m 1 = 2 ∧ (path k3.m 1).st = PathState.establishing) :=
  ⟨by decide +kernel,
    by decide +kernel,
    by decide +kernel,
    by decide +kernel,
    by decide +kernel,
    by decide +kernel⟩

end D1

namespace D2

def wl := st machL
def lk (s : LinkState) : LinkSt := { LinkSt.reset with st := s }
def wlk (x : LinkSt) := st { machL with links := [(0, x)] }
def woff := wlk (lk .offline)
def wup := wlk (lk .up)
def wtr := wlk (lk .training)
def wtr15 := wlk { lk .training with attempts := 15 }
def whold := st { machL with links := [(0, lk .up)], mode := { ModeSt.reset with st := .hold } }
def f0 : Bytes := List.replicate 12 0 ++ [0x08, 0x00, 0x45, 0, 0, 40] ++ List.replicate 42 0
def f1 : Bytes := List.replicate 12 1 ++ [0x08, 0x00] ++ List.replicate 46 0
def fpz : Bytes := List.replicate 12 1 ++ [0x88, 0x08, 0, 1, 0, 9] ++ List.replicate 42 0
def wup9 := st { machL with links := [(0, lk .up)], image := tset machL.image (ukey 12 0) (rec 64 [(0, 1), (16, 9), (34, 0xFF)]) }
def farp : Bytes := List.replicate 6 0 ++ [2, 2, 2, 2, 2, 2] ++ [8, 6, 0, 1, 8, 0, 6, 4, 0, 1] ++ [2, 2, 2, 2, 2, 2, 10, 0, 0, 1] ++ List.replicate 6 0 ++ [10, 0, 0, 7] ++ List.replicate 18 0
def warp := st { machL with links := [(0, lk .up)], image := tset machL.image (ukey 12 0) ((rec 64 [(0, 1), (26, 0xFF), (27, 0xFF), (28, 10), (31, 7)])) }
def fqm : Mach := { machL with
  links := [(0, lk .up)], leases := [(1, { leaseUp with regs := [(0x2000, 0x8010000000000000), (0x2008, 0x8000), (0x2200, 0x8010000000000000), (0x2208, 0xC000)] })],
  mem := { mach.mem with cells := [(0x8000, 1), (0x8041, 0x90), (0x8049, 8), (0xC000, 1), (0xC041, 0xA0), (0xC048, 64)] } }
def fq1 := fqPosted fqm 0x800 1 0
def fd1 := rdLease fq1 0 0x800 1 (0x8000 + 64) 32
def fdb : Bytes := match fd1.1 with | .ok b => b | .error _ => []
def fq2 := fd1.2
def fq3 := (canWrite fq2 0 1 0x9000 60).2
def fq4 := (takeStamp (wrLease fq3 0 0x800 1 0x9000 f0).2 0x800)
def txLine : Line := BitVec.ofNat 2048 (1 + 0xA0 * 2 ^ (8 * 0x41) + 64 * 2 ^ (8 * 0x48))
def txm (s : LinkState) (u : Nat) : Mach := { fqm with
  links := [(0, lk s)], fqs := [(48, { FqSt.reset with posted := 1 })],
  homes := [(0, { Home.reset with l3 := [(192, { data := txLine, poison := false, dirty := false, way := 0, dirtySeq := 0, lastUse := u })] })] }
def wtx := st (txm .up 0)
def tx1 (s : LinkState) : Mach := { txm s 0 with tick := 1 }
def txFair : Fair := { v := [], elig := [1] }
def txd : Bytes := rec 32 [(1, 0xA0), (8, 64)]
def txr (s : LinkState) : Mach := { txm s 1 with links := [(0, { lk s with fair := txFair, nextQ := [(1, 17)] })], tick := 2 }
def txb := rdLease (txr .up) (linkHub 0) (2048 + 0) 1 (fld txd 0 8) (fld txd 8 2)
def txbb : Bytes := match txb.1 with | .ok b => b | .error _ => []
def wco := st { fqm with fqs := [(64, { FqSt.reset with unsignalled := 2, firstAt := 3 }), (32, { FqSt.reset with unsignalled := 2, firstAt := 3 })] }
def wcf := st { machL with pcie := [(0, { PcieSt.reset with cfgAddr := 0x00090000 })] }
def wls := st { machL with leases := [(1, { leaseUp with st := .stopped })] }
def dmr := rdLease wl.m 0 0x880 1 0x9000 4
def dmw := canWrite wl.m 0 1 0x9000 4
def wpl := st { machL with pcie := [(0, { PcieSt.reset with links := vset PcieSt.reset.links 1 { st := 2, speed := 5, width := 4 } })] }
def hd (ty fl tok ver seq ack : Nat) (body : Bytes) : Bytes :=
  [0x48, 0x4C] ++ le 1 ver ++ le 1 ty ++ le 2 fl ++ le 2 body.length ++ le 4 tok ++ le 4 seq ++ le 4 ack ++ le 4 0 ++ le 4 0 ++ le 4 0 ++ body
def wp := st (withPath pathOp)
def seg (n : Nat) : Seg := { seq := n, type := 1, flags := 0, body := [1], sentAt := 0, timeout := 1000000, count := 0, txn := 0 }
def wps := st (withPath { pathOp with helar := { pathOp.helar with unacked := [seg 3, seg 4] } })
def wpe := st { withPath { pathOp with st := .establishing, estAt := 4900000000 } with image := tset machL.image (ukey 11 0) (rec 64 [(0, 1), (2, 8), (8, 8), (10, 16)]) }
def cr : Bytes := padTo 16 [] ++ le 2 0 ++ le 1 0x10 ++ le 1 0 ++ le 4 3600 ++ le 8 0 ++ le 4 77 ++ le 2 1024 ++ le 2 8 ++ le 4 100 ++ le 4 1000 ++ padTo 16 []
def onAir (m : Mach) : Mach := { m with links := [(0, { LinkSt.reset with arp := [(0, 0x020202020202)] })] }
def wpa := st <| onAir (withPath { pathOp with helar := { pathOp.helar with ackDue := some 5 } })
def wps1 := st <| onAir (withPath { pathOp with helar := { pathOp.helar with unacked := [seg 3] } })


theorem witness_LinkStates :
    (Writable woff.m Actor.service 6 0 ∧ ((link woff.m 0).st = LinkState.offline ∨ (link woff.m 0).st = LinkState.failed)) ∧
    (Writable wup.m Actor.service 6 0) ∧
    (Writable wtr.m Actor.service 6 0 ∧ (link wtr.m 0).st = LinkState.training ∧ wtr.m.mode.st ≠ Mode.bare ∧ wtr.m.mode.st ≠ Mode.test) ∧
    (Writable wtr.m Actor.service 6 0 ∧ (link wtr.m 0).st = LinkState.training ∧ (link wtr.m 0).since + 500000000 ≤ wtr.m.now ∧ (link wtr.m 0).attempts < 15) ∧
    (Writable wtr15.m Actor.service 6 0 ∧ (link wtr15.m 0).st = LinkState.training ∧ (link wtr15.m 0).since + 500000000 ≤ wtr15.m.now ∧ 15 ≤ (link wtr15.m 0).attempts) ∧
    (Writable wup.m Actor.service 6 0 ∧ (link wup.m 0).st = LinkState.up) ∧
    (Writable whold.m Actor.service 6 0 ∧ whold.m.mode.st = Mode.hold ∧ (link whold.m 0).st = LinkState.up ∧ (link whold.m 0).pauseAt + 200000 ≤ whold.m.now) :=
  ⟨by delta Writable; decide +kernel,
    by delta Writable; decide +kernel,
    by delta Writable; decide +kernel,
    by delta Writable; decide +kernel,
    by delta Writable; decide +kernel,
    by delta Writable; decide +kernel,
    by delta Writable; decide +kernel⟩

theorem witness_FramesReceived :
    (unitsRun wup.m = true ∧ (link wup.m 0).st = LinkState.up) ∧
    (unitsRun wup.m = true ∧ (link wup.m 0).st = LinkState.up ∧ isMacControl f1 = false ∧ (frameInfo f1).dst ≠ linkMac wup.m 0 ∧ (frameInfo f1).dst ≠ 281474976710655 ∧ bit (BitVec.toNat (link wup.m 0).mcast) 63 = false ∧ (frameInfo f1).etype ≠ 34525) ∧
    (unitsRun wup.m = true ∧ (link wup.m 0).st = LinkState.up ∧ isMacControl fpz = true) ∧
    (unitsRun warp.m = true ∧ (link warp.m 0).st = LinkState.up ∧ isMacControl farp = false ∧ (frameInfo farp).dst = linkMac warp.m 0 ∧ isPtp (frameInfo farp) = false ∧ arpReply warp.m 0 (frameInfo farp) = some ((arpReply warp.m 0 (frameInfo farp)).getD [])) ∧
    (unitsRun wup9.m = true ∧ (link wup9.m 0).st = LinkState.up ∧ isMacControl f0 = false ∧ (frameInfo f0).dst = linkMac wup9.m 0 ∧ isPtp (frameInfo f0) = false ∧ arpReply wup9.m 0 (frameInfo f0) = none ∧ ndReply wup9.m 0 (frameInfo f0) = none ∧ isResolution (frameInfo f0) = false ∧ (frameInfo f0).proto ≠ 17 ∧ classify wup9.m 0 (frameInfo f0) = none) ∧
    (unitsRun wup.m = true ∧ (link wup.m 0).st = LinkState.up ∧ isMacControl f0 = false ∧ (frameInfo f0).dst = linkMac wup.m 0 ∧ isPtp (frameInfo f0) = false ∧ arpReply wup.m 0 (frameInfo f0) = none ∧ ndReply wup.m 0 (frameInfo f0) = none ∧ isResolution (frameInfo f0) = false ∧ (frameInfo f0).proto ≠ 17 ∧ classify wup.m 0 (frameInfo f0) = some (0, 0, 65535)) :=
  ⟨by decide +kernel,
    by decide +kernel,
    by decide +kernel,
    by decide +kernel,
    by decide +kernel,
    by decide +kernel⟩

set_option maxRecDepth 100000 in
theorem witness_FramesReceived_FramesPlaced :
    fqOn fqm 1 0 0 = true ∧ fqPosted fqm (2048 + 0) 1 0 = fq1 ∧ (fq fq1 1 0).done < (fq fq1 1 0).posted ∧ rdLease fq1 (linkHub 0) (2048 + 0) 1 (fqBase fq1 1 0 + 64 + 32 * ((fq fq1 1 0).done % fqSize fq1 1 0)) 32 = (Except.ok fdb, fq2) ∧ List.length f0 ≤ fld fdb 8 4 ∧ canWrite fq2 (linkHub 0) 1 (fld fdb 0 8) (List.length f0) = (true, fq3) ∧ takeStamp (wrLease fq3 (linkHub 0) (2048 + 0) 1 (fld fdb 0 8) f0).2 (2048 + 0) = (fq4.1, fq4.2) := by and_intros <;> first | decide +kernel | exact Prod.ext (by decide +kernel) rfl | rfl

set_option maxRecDepth 100000 in
theorem witness_FramesTransmitted :
    (unitsRun wtx.m = true ∧ txPoll wtx.m 0 = tx1 LinkState.up ∧ (fairPick (link (tx1 LinkState.up) 0).fair (List.filter (fun k => (txNextQueue (tx1 LinkState.up) 0 k).isSome) (List.range 256)) fun k => bits (BitVec.toNat (lease (tx1 LinkState.up) k).shares) 31 24) = (some 1, txFair) ∧ txNextQueue (modLink (tx1 LinkState.up) 0 fun x => { x with fair := txFair }) 0 1 = some 16 ∧ rdLease (modLink (modLink (tx1 LinkState.up) 0 fun x => { x with fair := txFair }) 0 fun x => { x with nextQ := tset x.nextQ 1 (16 + (16 - 15) % 16) }) (linkHub 0) (2048 + 0) 1 (fqBase (tx1 LinkState.up) 1 16 + 64 + 32 * ((fq (tx1 LinkState.up) 1 16).done % fqSize (tx1 LinkState.up) 1 16)) 32 = (Except.ok txd, txr LinkState.up) ∧ (link (txr LinkState.up) 0).st = LinkState.up ∧ txDescOk (txr LinkState.up) 0 txd = true ∧ rdLease (txr LinkState.up) (linkHub 0) (2048 + 0) 1 (fld txd 0 8) (fld txd 8 2) = (Except.ok txbb, txb.2) ∧ txHeld txb.2 0 txbb = false ∧ bit (fld txd 10 1) 2 = false) ∧
    (unitsRun (st (txm LinkState.down 0)).m = true ∧ txPoll (st (txm LinkState.down 0)).m 0 = tx1 LinkState.down ∧ (fairPick (link (tx1 LinkState.down) 0).fair (List.filter (fun k => (txNextQueue (tx1 LinkState.down) 0 k).isSome) (List.range 256)) fun k => bits (BitVec.toNat (lease (tx1 LinkState.down) k).shares) 31 24) = (some 1, txFair) ∧ txNextQueue (modLink (tx1 LinkState.down) 0 fun x => { x with fair := txFair }) 0 1 = some 16 ∧ rdLease (modLink (modLink (tx1 LinkState.down) 0 fun x => { x with fair := txFair }) 0 fun x => { x with nextQ := tset x.nextQ 1 (16 + (16 - 15) % 16) }) (linkHub 0) (2048 + 0) 1 (fqBase (tx1 LinkState.down) 1 16 + 64 + 32 * ((fq (tx1 LinkState.down) 1 16).done % fqSize (tx1 LinkState.down) 1 16)) 32 = (Except.ok txd, txr LinkState.down) ∧ (link (txr LinkState.down) 0).st ≠ LinkState.up) :=
  ⟨by decide +kernel,
    by decide +kernel⟩

theorem witness_FramesTransmitted_CoalesceTimeoutSignals :
    unitsRun wco.m = true ∧ (fq wco.m 1 0).unsignalled ≠ 0 ∧ (fq wco.m 1 0).firstAt + 1000 * bits (fqCtl wco.m 1 0) 7 0 ≤ wco.m.now := by decide +kernel

theorem witness_PciePorts :
    (Writable wl.m Actor.service 7 0) ∧
    (Writable wcf.m Actor.service 7 0 ∧ (functionPath wcf.m 0 (cfgRid wcf.m 0) = none)) ∧
    (Writable wl.m Actor.service 7 0 ∧ (functionPath wl.m 0 (cfgRid wl.m 0) = some 1)) ∧
    (unitsRun wl.m = true ∧ (BitVec.ofNat 64 (regAddr 7 0 0 + 524288)).toNat = regAddr 7 0 0 + 524288 ∧ (20#32).toNat < 4096 ∧ (functionLease wl.m 0 (7#16).toNat = some 1)) ∧
    (unitsRun wl.m = true ∧ (functionLease wl.m 0 (9#16).toNat = none) ∧ (functionPath wl.m 0 (9#16).toNat = none)) ∧
    (unitsRun wls.m = true ∧ (functionLease wls.m 0 (7#16).toNat = some 1) ∧ ((lease wls.m 1).st = LeaseState.stopped ∨ (lease wls.m 1).st = LeaseState.resetting ∨ (lease wls.m 1).st = LeaseState.removing)) ∧
    (unitsRun wl.m = true ∧ (functionLease wl.m 0 (7#16).toNat = some 1) ∧ (lease wl.m 1).st = LeaseState.active ∧ false = false ∧ rdLease wl.m 0 (2176 + 0) 1 (36864#64).toNat 4 = (Except.ok [0#8, 0#8, 0#8, 0#8], dmr.2)) ∧
    (unitsRun wl.m = true ∧ (functionLease wl.m 0 (7#16).toNat = some 1) ∧ (lease wl.m 1).st = LeaseState.active ∧ true = true ∧ canWrite wl.m 0 1 (36864#64).toNat [1#8, 2#8, 3#8, 4#8].length = (true, dmw.2)) ∧
    (alive wpl.m = true ∧ (vget (pcie wpl.m 0).links 1 { st := 0, speed := 0, width := 0 }).st = 2) :=
  ⟨by delta Writable; decide +kernel,
    by delta Writable; decide +kernel,
    by delta Writable; decide +kernel,
    by decide +kernel,
    by decide +kernel,
    by decide +kernel,
    by decide +kernel,
    by decide +kernel,
    by decide +kernel⟩

theorem witness_Helar_HelarDatagrams :
    (unitsRun wp.m = true ∧ pathKind wp.m 0 = 1 ∧ helarValid wp.m 0 (helarHdr []) false = false ∧ Instr.capReq 0 [] false ∈ [Instr.capReq 0 [] false, Instr.capRsp 0 [] false, Instr.helarAck 0 [] false, Instr.helarKeepalive 0 [] false, Instr.helarClose 0 [] false, Instr.answerSegment 0 [] false]) ∧
    (unitsRun wp.m = true ∧ pathKind wp.m 0 = 1 ∧ helarValid wp.m 0 (helarHdr []) false = false ∧ Instr.capRsp 0 [] false ∈ [Instr.capReq 0 [] false, Instr.capRsp 0 [] false, Instr.helarAck 0 [] false, Instr.helarKeepalive 0 [] false, Instr.helarClose 0 [] false, Instr.answerSegment 0 [] false]) ∧
    (unitsRun wp.m = true ∧ pathKind wp.m 0 = 1 ∧ helarValid wp.m 0 (helarHdr []) false = false ∧ Instr.answerSegment 0 [] false ∈ [Instr.capReq 0 [] false, Instr.capRsp 0 [] false, Instr.helarAck 0 [] false, Instr.helarKeepalive 0 [] false, Instr.helarClose 0 [] false, Instr.answerSegment 0 [] false]) ∧
    (unitsRun wp.m = true ∧ pathKind wp.m 0 = 1 ∧ helarValid wp.m 0 (helarHdr (hd 1 0 0 0 0 0 (List.replicate 64 0#8))) true = true ∧ pathTxns wp.m 0 = [] ∧ (helarHdr (hd 1 0 0 0 0 0 (List.replicate 64 0#8))).type = 1 ∧ (path wp.m 0).st = PathState.operational) ∧
    (unitsRun wp.m = true ∧ pathKind wp.m 0 = 1 ∧ helarValid wp.m 0 (helarHdr (hd 5 0 5 16 0 0 [])) true = true ∧ pathTxns wp.m 0 = [] ∧ (helarHdr (hd 5 0 5 16 0 0 [])).type = 5 ∧ (path wp.m 0).st = PathState.operational) ∧
    (unitsRun wp.m = true ∧ pathKind wp.m 0 = 1 ∧ helarValid wp.m 0 (helarHdr (hd 4 0 5 16 0 0 [])) true = true ∧ (path wp.m 0).st = PathState.operational ∧ (helarHdr (hd 4 0 5 16 0 0 [])).type = 4 ∧ bit (helarHdr (hd 4 0 5 16 0 0 [])).flags 2 = false) ∧
    (unitsRun wps.m = true ∧ pathKind wps.m 0 = 1 ∧ helarValid wps.m 0 (helarHdr (hd 3 4 5 16 0 4 [])) true = true ∧ (path wps.m 0).st = PathState.operational ∧ (helarHdr (hd 3 4 5 16 0 4 [])).type = 3 ∧ bit (helarHdr (hd 3 4 5 16 0 4 [])).flags 2 = true ∧ (path wps.m 0).helar.queue = [] ∧ bit (path wps.m 0).helar.mask 3 = false) ∧
    (unitsRun wp.m = true ∧ pathKind wp.m 0 = 1 ∧ helarValid wp.m 0 (helarHdr (hd 17 0 5 16 0 0 [1#8, 2#8])) true = true ∧ (path wp.m 0).st = PathState.operational ∧ (helarHdr (hd 17 0 5 16 0 0 [1#8, 2#8])).type = 17 ∧ bit (helarHdr (hd 17 0 5 16 0 0 [1#8, 2#8])).flags 2 = false ∧ bit (helarHdr (hd 17 0 5 16 0 0 [1#8, 2#8])).flags 1 = false ∧ bit (helarHdr (hd 17 0 5 16 0 0 [1#8, 2#8])).flags 0 = false ∧ (helarHdr (hd 17 0 5 16 0 0 [1#8, 2#8])).seq = (path wp.m 0).helar.rxNext ∧ (path wp.m 0).helar.kept = [] ∧ (path wp.m 0).helar.ackDue = none) ∧
    (unitsRun wpe.m = true ∧ pathKind wpe.m 0 = 1 ∧ helarValid wpe.m 0 (helarHdr (hd 2 0 5 0 0 0 cr)) true = true ∧ (helarHdr (hd 2 0 5 0 0 0 cr)).type = 2 ∧ (path wpe.m 0).st = PathState.establishing ∧ List.length (helarHdr (hd 2 0 5 0 0 0 cr)).body = 64 ∧ fld (helarHdr (hd 2 0 5 0 0 0 cr)).body 16 2 = 0 ∧ (helarVersions wpe.m 0).contains (fld (helarHdr (hd 2 0 5 0 0 0 cr)).body 18 1) = true ∧ fld (helarHdr (hd 2 0 5 0 0 0 cr)).body 24 8 = 0 ∧ fld (helarHdr (hd 2 0 5 0 0 0 cr)).body 36 2 = 1024 ∧ 1 ≤ fld (helarHdr (hd 2 0 5 0 0 0 cr)).body 38 2 ∧ fld (helarHdr (hd 2 0 5 0 0 0 cr)).body 38 2 ≤ min 32 (helarOffer wpe.m 0).2 ∧ fld (helarHdr (hd 2 0 5 0 0 0 cr)).body 40 4 = 100 ∧ fld (helarHdr (hd 2 0 5 0 0 0 cr)).body 44 4 = 1000 ∧ fld (helarHdr (hd 2 0 5 0 0 0 cr)).body 32 4 ≠ 0 ∧ List.take 16 (helarHdr (hd 2 0 5 0 0 0 cr)).body = pathIdent wpe.m 0 ∧ 3600 ≤ fld (helarHdr (hd 2 0 5 0 0 0 cr)).body 20 4) :=
  ⟨by decide +kernel,
    by decide +kernel,
    by decide +kernel,
    by decide +kernel,
    by decide +kernel,
    by decide +kernel,
    by decide +kernel,
    by decide +kernel,
    by decide +kernel⟩

theorem witness_Helar_HelarTimers :
    (unitsRun wpe.m = true ∧ (path wpe.m 0).st = PathState.establishing ∧ pathKind wpe.m 0 = 1 ∧ (path wpe.m 0).helar.capAt + 100000000 ≤ wpe.m.now ∧ wpe.m.now < (path wpe.m 0).estAt + 2000000000) ∧
    (unitsRun wpa.m = true ∧ helarUp wpa.m 0 = true ∧ ((hopMac wpa.m (pathLink wpa.m 0) 0).isSome = true ∨ onPrefix wpa.m (pathLink wpa.m 0) 0 = true) ∧ (path wpa.m 0).helar.ackDue = some 5 ∧ 5 ≤ wpa.m.now) ∧
    (unitsRun wps1.m = true ∧ helarUp wps1.m 0 = true ∧ ((hopMac wps1.m (pathLink wps1.m 0) 0).isSome = true ∨ onPrefix wps1.m (pathLink wps1.m 0) 0 = true) ∧ (path wps1.m 0).helar.unacked = [seg 3] ∧ (seg 3).seq = (3#32).toNat ∧ (seg 3).sentAt + (seg 3).timeout ≤ wps1.m.now ∧ (seg 3).count < 8) ∧
    (unitsRun (st (onAir wp.m)).m = true ∧ helarUp (st (onAir wp.m)).m 0 = true ∧ ((hopMac (st (onAir wp.m)).m (pathLink (st (onAir wp.m)).m 0) 0).isSome = true ∨ onPrefix (st (onAir wp.m)).m (pathLink (st (onAir wp.m)).m 0) 0 = true) ∧ (path (st (onAir wp.m)).m 0).helar.lastTx + 1000000 * (path (st (onAir wp.m)).m 0).helar.keepaliveMs ≤ (st (onAir wp.m)).m.now) ∧
    (unitsRun wp.m = true ∧ helarUp wp.m 0 = true ∧ (path wp.m 0).helar.lastRx + 3000000 * (path wp.m 0).helar.keepaliveMs ≤ wp.m.now ∧ pathTxns wp.m 0 = []) :=
  ⟨by decide +kernel,
    by decide +kernel,
    by decide +kernel,
    by decide +kernel,
    by decide +kernel⟩

end D2

namespace E1

def wl := st machL
def jd : Bytes := rec 64 [(0, 1), (3, 1), (18, 2), (24, 16), (34, 3), (40, 2)]
def jb : Job := { kind := 0, num := 3, lease := 1, queue := 0, unit := 0, reserved := false, desc := jd, begun := false, restarted := false, consumed := 0, written := 0, slabs := 0, lastSeen := false, chainIdx := 0, outAddr := 0, outLeft := 0, buf := [], ctx := none, seqField := 0, ctype := 0, ended := none, sump := none, stop := false, by_ := 0 }
def withJob (x : Job) (run : Option Nat) : Mach := { machL with
  jobs := { JobsSt.reset with jobs := [(x.num, x)], crush := [(0, { WorkUnit.reset with run := run })], ciph := [(x.unit, { WorkUnit.reset with run := run })] },
  mem := { mach.mem with cells := [(0x20000, 7), (0x30000, 0), (0x30001, 0), (0x30002, 4), (0x3000A, 1)].filter (fun p => p.2 != 0) } }
def wj0 := st (withJob jb none)
def wjh : Mach := modWork (setUState wj0.m 0x09 0 .failed) 0 0 (fun w => { w with run := none })
def jr : Job := { jb with begun := true, desc := jd.set 25 0x20 }
def wj1 := st (withJob jr (some 3))
def cs := compressSlab wj1.m jr 4096 false
def csy : Job := match cs.1 with | .ok y => y | .error _ => jr
def jr2 : Job := { jb with begun := true }
def wj2 := st (withJob jr2 (some 3))
def cs2 := compressSlab wj2.m jr2 16 true
def csy2 : Job := match cs2.1 with | .ok y => y | .error _ => jr
def cd : Bytes := rec 64 [(0, 0x21), (10, 2), (16, 32), (20, 64), (26, 4), (34, 5), (40, 129), (44, 1)]
def cdh : Bytes := rec 64 [(0, 8), (10, 2), (16, 16), (20, 64), (26, 4)]
def jc : Job := { jb with kind := 1, desc := cdh, unit := 0 }
def wc0 := st (withJob jc none)
def chc := chooseJob wc0.m 1 0
def ck := cipherCheck (setJob chc.2 { jc with begun := true }) jc
#check @cipherCheck
def jcp : Job := { jb with kind := 1, desc := cd, unit := 8, begun := true }
def wcp := st (withJob jcp (some 3))
def ckp := cipherCheck wcp.m jcp
def cok (r : Except Nat (List Nat) × Mach) : List Nat := match r.1 with | .ok c => c | .error _ => []
def rbp := rdLease ckp.2 0 (workSource 1 8) 1 (fld cd 8 8) 32
def rbb : Bytes := match rbp.1 with | .ok b => b | .error _ => []
def cmj : Mach := withJob jb (some 3)
def rdj := rdLease cmj 0 0xA00 1 0x20000 16
def rdb : Bytes := match rdj.1 with | .ok b => b | .error _ => []
def gj := makeSlab 0 0 0 true rdb
def cpj := chainPut (chainFuel gj.length) rdj.2 jb gj
def cpy : Job := match cpj.1 with | .ok y => y | .error _ => jr
def wch := st { machL with jobs := { JobsSt.reset with halfLost := some 1, mirror := 2, ctx := [(3, { data := [], lastUse := 0 })] } }
def wcm := st { machL with jobs := { JobsSt.reset with halfLost := some 0, mirror := 1 } }


theorem witness_WorkUnits_WorkUnitStates :
    (Writable (st (setUState machL 9 0 UState.offline)).m Actor.service 9 0 ∧ (ustate (st (setUState machL 9 0 UState.offline)).m 9 0 = UState.draining ∨ ustate (st (setUState machL 9 0 UState.offline)).m 9 0 = UState.offline ∨ ustate (st (setUState machL 9 0 UState.offline)).m 9 0 = UState.failed)) ∧
    (Writable wl.m Actor.service 9 0 ∧ ustate wl.m 9 0 = UState.active) ∧
    (Writable (st (setUState machL 10 0 UState.failed)).m Actor.service 10 0 ∧ (ustate (st (setUState machL 10 0 UState.failed)).m 10 0 = UState.draining ∨ ustate (st (setUState machL 10 0 UState.failed)).m 10 0 = UState.offline ∨ ustate (st (setUState machL 10 0 UState.failed)).m 10 0 = UState.failed)) ∧
    (Writable wl.m Actor.service 10 0 ∧ ustate wl.m 10 0 = UState.active) ∧
    (unitsRun (st (setUState machL 9 0 UState.draining)).m = true ∧ ustate (st (setUState machL 9 0 UState.draining)).m 9 0 = UState.draining ∧ unitJobs (st (setUState machL 9 0 UState.draining)).m 0 0 = [] ∧ tfind (st (setUState machL 9 0 UState.draining)).m.load.prior (ukey 9 0) = none) ∧
    (unitsRun wl.m = true ∧ workActive wl.m 0 0 = true ∧ unitJobs wl.m 0 0 = []) ∧
    (unitsRun wl.m = true ∧ workActive wl.m 1 0 = true ∧ unitJobs wl.m 1 0 = []) ∧
    (unitsRun wj0.m = true ∧ workActive wj0.m 0 0 = true ∧ wj0.m.jobs.jobs = [(jb.num, jb)] ∧ jb.kind = 0 ∧ jb.unit = 0 ∧ jb.ended = none ∧ jb.stop = false ∧ handTo (modWork (setUState wj0.m 9 0 UState.failed) 0 0 fun w => { w with run := none }) jb = some (1, false)) :=
  ⟨by delta Writable; decide +kernel,
    by delta Writable; decide +kernel,
    by delta Writable; decide +kernel,
    by delta Writable; decide +kernel,
    by decide +kernel,
    by decide +kernel,
    by decide +kernel,
    by decide +kernel⟩

set_option maxRecDepth 100000 in
theorem witness_JobBoundaries_Boundaries :
    (unitsRun wj0.m = true ∧ wj0.m.mode.holdStart = none ∧ workActive wj0.m 0 0 = true ∧ (workUnit wj0.m 0 0).run.bind (job wj0.m) = none ∧ chooseJob wj0.m 0 0 = (some jb, (chooseJob wj0.m 0 0).2) ∧ isCompress jb = true ∧ jFlush jb = false ∧ jobDone jb = false) ∧
    (unitsRun wj1.m = true ∧ wj1.m.mode.holdStart = none ∧ workActive wj1.m 0 0 = true ∧ (workUnit wj1.m 0 0).run.bind (job wj1.m) = some jr ∧ isCompress jr = true ∧ jr.unit = 0 ∧ nextSlab jr = some (4096, false) ∧ compressSlab wj1.m jr 4096 false = (Except.ok csy, cs.2) ∧ csy.stop = false ∧ jobDone csy = false) ∧
    (unitsRun wj2.m = true ∧ wj2.m.mode.holdStart = none ∧ workActive wj2.m 0 0 = true ∧ (workUnit wj2.m 0 0).run.bind (job wj2.m) = some jr2 ∧ isCompress jr2 = true ∧ jr2.unit = 0 ∧ nextSlab jr2 = some (16, true) ∧ compressSlab wj2.m jr2 16 true = (Except.ok csy2, cs2.2) ∧ csy2.stop = false ∧ jobDone csy2 = true) ∧
    (unitsRun wc0.m = true ∧ wc0.m.mode.holdStart = none ∧ workActive wc0.m 1 0 = true ∧ (workUnit wc0.m 1 0).run.bind (job wc0.m) = none ∧ chooseJob wc0.m 1 0 = (some jc, chc.2) ∧ cipherCheck (setJob chc.2 { jc with begun := true }) jc = (Except.ok (cok ck), ck.2)) ∧
    (unitsRun wcp.m = true ∧ wcp.m.mode.holdStart = none ∧ 8 ≤ 8 ∧ workActive wcp.m 1 8 = true ∧ (workUnit wcp.m 1 8).run.bind (job wcp.m) = some jcp ∧ jcp.unit = 8 ∧ cipherCheck wcp.m jcp = (Except.ok (cok ckp), ckp.2) ∧ isBulk (jOp jcp) = false ∧ isPk (jOp jcp) = true ∧ jcp.stop = false ∧ rdLease ckp.2 (unitHub jcp.unit) (workSource 1 jcp.unit) jcp.lease (fld jcp.desc 8 8 + jcp.consumed) (jIn jcp - jcp.consumed) = (Except.ok rbb, rbp.2)) :=
  ⟨by decide +kernel,
    by and_intros <;> first | decide +kernel | exact Prod.ext (by decide +kernel) rfl | rfl,
    by decide +kernel,
    by decide +kernel,
    by decide +kernel⟩

theorem witness_JobBoundaries_CompressSlab :
    rdLease cmj (unitHub jb.unit) (workSource 0 jb.unit) jb.lease (fld jb.desc 16 8 + jb.consumed) 16 = (Except.ok rdb, rdj.2) ∧ chainPut (chainFuel (List.length (makeSlab (fld jb.desc 1 1) (fld jb.desc 2 1) ((fld jb.desc 8 8 + jb.slabs) % 2 ^ 64) true rdb))) rdj.2 jb (makeSlab (fld jb.desc 1 1) (fld jb.desc 2 1) ((fld jb.desc 8 8 + jb.slabs) % 2 ^ 64) true rdb) = (Except.ok cpy, cpj.2) := by decide +kernel

theorem witness_WorkUnits_ContextHalves :
    (unitsRun wl.m = true ∧ ustate wl.m 11 0 = UState.active ∧ wl.m.jobs.halfLost = none) ∧
    (unitsRun wch.m = true ∧ ustate wch.m 11 0 = UState.active ∧ wch.m.jobs.halfLost = some 1 ∧ 1 ≠ 0) ∧
    (unitsRun wcm.m = true ∧ wcm.m.jobs.mirror = 1 ∧ wcm.m.jobs.halfLost = some 0) :=
  ⟨by decide +kernel,
    by decide +kernel,
    by decide +kernel⟩

end E1

namespace E2

def wl := st machL
def img8 : Tbl Bytes := tset machL.image (ukey 8 1) (rec 64 [(0, 1), (6, 1), (26, 7), (8, 9)])
def wfree := st { machL with image := img8, leases := [] }
def wle (x : Lease) := st { machL with leases := [(1, x)] }
def wstop := wle { leaseUp with st := .stopped }
def wstop0 := st { machL with leases := [(0, { leaseUp with st := .stopped })] }
def wqd := wle { leaseUp with st := .quiesced }
def whold := st { machL with mode := { ModeSt.reset with st := .hold } }
def wtb := st { machL with leases := [(1, { leaseUp with tlbBusy := true, tlbTarget := 0x8000000000000000 })], engs := [(0, { Eng.reset with tlb := tlbs })] }
def wsp := st { machL with leases := [(1, { leaseUp with affinity := 1 })], image := tset img8 (ukey 8 1) (rec 64 [(0, 1), (8, 0xFF), (9, 0xFF), (10, 0xFF), (11, 0xFF)]), mem := { mach.mem with cells := [(0x20019, 1)] } }
def spt := spawnTry wsp.m 1 0x00FF000000020000
def spq : Nat × QTask := match spt.1 with | .ok p => p | .error _ => (0, freshTask 0 0 0 0 0 0 0 none)
def ev : Event := { stamp := 5, src := 0x900, cls := 1, flags := 4, vector := 20, lease := 1, level := 0, payload := [1], engine := 0 }
def evm : Mach := { machL with evt := { EvtSt.reset with window := [ev], masters := vof 2 (fun _ => { TsMaster.reset with running := true, count := 100000 }) } }
def left (m : Mach) := modEvt (modEvt (takeStamp m (evtSrc m)).2 (fun x => { x with window := [] })) (fun x => { x with released := lastN 256 (x.released ++ [ev]), releasedN := x.releasedN + 1, lastReleased := BitVec.ofNat 64 (max x.lastReleased.toNat ev.stamp.toNat) })
def evm2 : Mach := { evm with leases := [(1, { leaseUp with regs := [(0x180, 0x8001)] })] }
def wtl := st { machL with hubsLost := [0] }
def wsl := st { evm with leases := [(1, { leaseUp with spill := [ev] })] }
def wbare := st { machL with mode := { ModeSt.reset with st := .loading } }
def wpd := st { machL with evt := { EvtSt.reset with masters := vof 2 (fun _ => { TsMaster.reset with setPending := some 99 }) } }
def ptp : PtpMsg := { link := 0, domain := 3, seq := 4, srcPort := 9, rxStamp := 5, origin := 5, correction := 0, twoStep := false, logInterval := 0 }
def ptpd : PtpData := { priority1 := 1, clockClass := 1, clockAccuracy := 1, variance := 1, priority2 := 1, identity := 1, stepsRemoved := 1 }
def imgP : Tbl Bytes := machL.image ++ [(ukey 17 0, rec 64 [(0, 1), (2, 3)]), (ukey 17 1, rec 64 [(0, 2)])]
def wptp (x : TsMaster) := st { machL with image := imgP, evt := { EvtSt.reset with masters := vof 2 (fun _ => x) } }
def tm : TsMaster := { TsMaster.reset with running := true, parent := some (ptpd, 9), delaySeq := 5, delaySent := some 100 }
def wlk := wptp { tm with lock := 2, good := 8 }

def k1 : State := wle { leaseUp with st := .quiescing }
def k2 : State := wle { leaseUp with tlbBusy := true }
def k3 : State := st { evm with leases := [(1, { leaseUp with st := .stopped })] }
def k4 : State := st { evm with leases := [(1, { leaseUp with st := .quiesced })] }
def k5 : PtpMsg := { ptp with twoStep := true }
def k6 : State := wptp { tm with sync := some ptp }
def k7 : State := wptp { tm with parent := none }
def k8 : State := wptp { tm with lock := 2 }

theorem witness_LeaseCommands :
    (Writable wfree.m Actor.service 12 1 ∧ unitsRun wfree.m = true ∧ (lease wfree.m 1).st = LeaseState.free ∧ recFlag wfree.m 1 0 = true ∧ loadHolds wfree.m 8 1 = false) ∧
    (Writable wstop.m Actor.service 12 1 ∧ unitsRun wstop.m = true ∧ (lease wstop.m 1).st = LeaseState.stopped ∧ BitVec.getLsbD (lease wstop.m 1).ptRoot 0 = true) ∧
    (Writable wstop0.m Actor.service 12 0 ∧ unitsRun wstop0.m = true ∧ (lease wstop0.m 0).st = LeaseState.stopped ∧ BitVec.getLsbD (lease wstop0.m 0).ptRoot 0 = true) ∧
    (Writable wl.m Actor.service 12 1 ∧ unitsRun wl.m = true ∧ 1 ≠ 0 ∧ LeaseIdle wl.m 1 ∧ (lease wl.m 1).st = LeaseState.active) ∧
    (Writable wqd.m Actor.service 12 1 ∧ unitsRun wqd.m = true ∧ 1 ≠ 0 ∧ LeaseIdle wqd.m 1 ∧ (lease wqd.m 1).st = LeaseState.quiesced ∧ (lease wqd.m 1).held = [] ∧ (lease wqd.m 1).spill = []) ∧
    (Writable wqd.m Actor.service 12 1 ∧ unitsRun wqd.m = true ∧ 1 ≠ 0 ∧ LeaseIdle wqd.m 1 ∧ (lease wqd.m 1).st = LeaseState.quiesced) ∧
    (Writable wstop.m Actor.service 12 1 ∧ unitsRun wstop.m = true ∧ 1 ≠ 0 ∧ LeaseIdle wstop.m 1 ∧ (lease wstop.m 1).st = LeaseState.stopped) :=
  ⟨by delta Writable; decide +kernel,
    by delta Writable; decide +kernel,
    by delta Writable; decide +kernel,
    by delta Writable LeaseIdle; decide +kernel,
    by delta Writable LeaseIdle; decide +kernel,
    by delta Writable LeaseIdle; decide +kernel,
    by delta Writable LeaseIdle; decide +kernel⟩

theorem witness_LeaseCommands_LeaseCommandsRefused :
    (Writable wl.m Actor.service 12 1 ∧ (8#4 = 0#4 ∨ 7 < (8#4).toNat)) ∧
    (Writable wl.m Actor.service 12 1 ∧ (0#4 = 0#4 ∨ 7 < (0#4).toNat)) ∧
    (Writable whold.m Actor.service 12 1 ∧ unitsRun whold.m = false) ∧
    (Writable wl.m Actor.service 12 0 ∧ unitsRun wl.m = true ∧ 0 = 0) ∧
    (Writable wl.m Actor.service 12 1 ∧ unitsRun wl.m = true ∧ 1 ≠ 0 ∧ 3#16 ≠ 42435#16) ∧
    (Writable wl.m Actor.service 12 1 ∧ unitsRun wl.m = true ∧ (lease wl.m 1).st ≠ LeaseState.stopped) ∧
    (Writable wl.m Actor.service 12 1 ∧ unitsRun wl.m = true ∧ (lease wl.m 1).st ≠ LeaseState.free) :=
  ⟨by delta Writable; decide +kernel,
    by delta Writable; decide +kernel,
    by delta Writable; decide +kernel,
    by delta Writable; decide +kernel,
    by delta Writable; decide +kernel,
    by delta Writable; decide +kernel,
    by delta Writable; decide +kernel⟩

theorem witness_LeaseServices :
    (unitsRun k1.m = true ∧ LeaseIdle k1.m 1 ∧ (lease k1.m 1).st = LeaseState.quiescing) ∧
    (Writable wl.m Actor.service 12 1 ∧ (lease wl.m 1).tlbBusy = false) ∧
    (Writable k2.m Actor.service 12 1 ∧ (lease k2.m 1).tlbBusy = true) ∧
    (alive wtb.m = true ∧ (lease wtb.m 1).tlbBusy = true) ∧
    (Writable wl.m Actor.service 12 1 ∧ spawnTry wl.m 1 (0#64).toNat = (Except.error 7, (spawnTry wl.m 1 0).2)) ∧
    (Writable wsp.m Actor.service 12 1 ∧ spawnTry wsp.m 1 (71776119061348352#64).toNat = (Except.ok (spq.1, spq.2), spt.2)) ∧
    (Writable whold.m Actor.service 12 1 ∧ unitsRun whold.m = false) :=
  ⟨by delta LeaseIdle; decide +kernel,
    by delta Writable; decide +kernel,
    by delta Writable; decide +kernel,
    by decide +kernel,
    by delta Writable; decide +kernel,
    by delta Writable; decide +kernel,
    by delta Writable; decide +kernel⟩

set_option maxRecDepth 100000 in
theorem witness_EventRelease :
    (alive k3.m = true ∧ k3.m.evt.window = [ev] ∧ bit ev.flags 9 = false ∧ routeFlag k3.m ev.cls 0 = false ∧ (routeFlag k3.m ev.cls 1 = false ∨ ev.cls = 19) ∧ (bit ev.flags 2 = true ∨ BitVec.toNat ev.stamp + 1500 ≤ BitVec.toNat (takeStamp k3.m (evtSrc k3.m)).1) ∧ (lease k3.m ev.lease).st = LeaseState.stopped) ∧
    (alive (st evm2).m = true ∧ (st evm2).m.evt.window = [ev] ∧ bit ev.flags 9 = false ∧ routeFlag (st evm2).m ev.cls 0 = false ∧ (routeFlag (st evm2).m ev.cls 1 = false ∨ ev.cls = 19) ∧ (bit ev.flags 2 = true ∨ BitVec.toNat ev.stamp + 1500 ≤ BitVec.toNat (takeStamp (st evm2).m (evtSrc (st evm2).m)).1) ∧ (lease (st evm2).m ev.lease).st = LeaseState.active ∧ (lease (st evm2).m ev.lease).spill = [] ∧ loadHolds (st evm2).m 10 ev.cls = false ∧ evtDeliver (modEvt (modEvt (takeStamp (st evm2).m (evtSrc (st evm2).m)).2 fun x => { x with window := [] }) fun x => { x with released := lastN 256 (x.released ++ [ev]), releasedN := x.releasedN + 1, lastReleased := BitVec.ofNat 64 (max (BitVec.toNat x.lastReleased) (BitVec.toNat ev.stamp)) }) ev.lease ev false = (true, (evtDeliver (left evm2) 1 ev false).2)) ∧
    (alive k4.m = true ∧ k4.m.evt.window = [ev] ∧ bit ev.flags 9 = false ∧ routeFlag k4.m ev.cls 0 = false ∧ (routeFlag k4.m ev.cls 1 = false ∨ ev.cls = 19) ∧ (bit ev.flags 2 = true ∨ BitVec.toNat ev.stamp + 1500 ≤ BitVec.toNat (takeStamp k4.m (evtSrc k4.m)).1) ∧ (lease k4.m ev.lease).st = LeaseState.quiesced) :=
  ⟨by and_intros <;> first | decide +kernel | exact Prod.ext (by decide +kernel) rfl | rfl,
    by and_intros <;> first | decide +kernel | exact Prod.ext (by decide +kernel) rfl | rfl,
    by and_intros <;> first | decide +kernel | exact Prod.ext (by decide +kernel) rfl | rfl⟩

theorem witness_EventRelease_Takeovers :
    (alive wtl.m = true ∧ timeLost wtl.m wtl.m.evt.activeBlock = true ∧ timeLost wtl.m (1 - wtl.m.evt.activeBlock) = false) ∧
    (alive wtl.m = true ∧ timeLost wtl.m wtl.m.evt.activeMaster = true ∧ timeLost wtl.m (1 - wtl.m.evt.activeMaster) = false) ∧
    (alive wsl.m = true ∧ (lease wsl.m 1).spill ≠ [] ∧ (lease wsl.m 1).st = LeaseState.active ∧ (lease wsl.m 1).rerecheck + 10000 ≤ wsl.m.now) :=
  ⟨by decide +kernel,
    by decide +kernel,
    by decide +kernel⟩

theorem witness_TimeKeeping :
    (alive wbare.m = true ∧ unitHasRole wbare.m 13 0 = true ∧ startUp wbare.m = true) ∧
    (alive wl.m = true ∧ unitHasRole wl.m 13 0 = true ∧ startUp wl.m = false) ∧
    (alive wl.m = true ∧ unitHasRole wl.m 13 0 = true ∧ privileged Actor.service = true) ∧
    (alive wpd.m = true ∧ (master wpd.m wpd.m.evt.activeMaster).setPending = some 99#64) ∧
    (alive (wptp tm).m = true ∧ ptpTakes (wptp tm).m k5 = some 0 ∧ Option.map (fun q => q.2) (master (wptp tm).m 0).parent = some k5.srcPort ∧ k5.twoStep = true) ∧
    (alive (wptp tm).m = true ∧ ptpTakes (wptp tm).m ptp = some 0 ∧ Option.map (fun q => q.2) (master (wptp tm).m 0).parent = some ptp.srcPort ∧ ptp.twoStep = false) ∧
    (alive (wptp tm).m = true ∧ ptpTakes (wptp tm).m ptp = some 0 ∧ Option.map (fun q => q.2) (master (wptp tm).m 0).parent = some ptp.srcPort ∧ (master (wptp tm).m 0).delaySent = some 100 ∧ (ptp.seq.toNat + 1) % 65536 = (master (wptp tm).m 0).delaySeq) ∧
    (alive k6.m = true ∧ ptpTakes k6.m ptp = some 0 ∧ (master k6.m 0).sync = some ptp ∧ ptp.srcPort = ptp.srcPort ∧ ptp.seq = ptp.seq) ∧
    (alive k7.m = true ∧ ptpTakes k7.m ptp = some 0 ∧ (master k7.m 0).parent = none ∧ ptpd.stepsRemoved.toNat < 255) ∧
    (alive (wptp tm).m = true ∧ tsRec (wptp tm).m 1 0 1 = 2 ∧ imgHas (wptp tm).m 17 = true ∧ timeLost (wptp tm).m 1 = false ∧ (7#64).toNat % 1000000000 < 500000000) ∧
    (alive k8.m = true ∧ ((master k8.m 0).lock = 1 ∨ (master k8.m 0).lock = 2) ∧ (master k8.m 0).lastSample + 4 * (master k8.m 0).interval ≤ k8.m.now) :=
  ⟨by decide +kernel,
    by decide +kernel,
    by decide +kernel,
    by decide +kernel,
    by decide +kernel,
    by decide +kernel,
    by decide +kernel,
    by decide +kernel,
    by decide +kernel,
    by decide +kernel,
    by decide +kernel⟩

theorem witness_TimeKeeping_SamplesOfALockedMaster :
    (0 < 2 ∧ (master wlk.m 0).lock = 2) ∧
    (0 < 2 ∧ (master wlk.m 0).lock = 2 ∧ (-999 - signed 32 (tsRec wlk.m 0 4 4)).natAbs < 1000) ∧
    (0 < 2 ∧ (master wlk.m 0).lock = 2 ∧ 1000 ≤ (1000 - signed 32 (tsRec wlk.m 0 4 4)).natAbs) :=
  ⟨by decide +kernel,
    by decide +kernel,
    by decide +kernel⟩

end E2

namespace F1

def we := st (machE (engT bankT))
def wew := st { we.m with l1i := [] }
def web := st { we.m with l1i := [(0, [({ line := 0, way := 0, use := 0 }, lineOf badW)])] }
def fm (s : State) : Mach := (fetchBundle (freshFails s.m 0 0) 0 0).2
def bu : Bundle := match decodeBundle bundleW with | .ok b => b | .error _ => { rep := false, moves := [] }
def settE : TlbEntry := { lease := 1, va := 2 ^ 30, pa := 0x80000, bits := 30, r := true, w := true, x := false, sett := true }
def sa : Nat := 2 ^ 30
def mE (x : Eng) : Mach :=
  let m := machE { x with tlb := x.tlb ++ [settE] }
  { m with leases := tset m.leases 1 { lease m 1 with pool := [sa, sa + 256, sa + 512, sa + 768, sa + 1024] } }
def wf := st { we.m with engs := [(0, { engT bankT with fetch := some 0 })], l2 := [(0, { L2St.reset with lines := [(0, lineIn .m)] })] }
def wfo := st { wf.m with engs := [(0, { engT bankT with fetch := some 0, l1iOff := true })] }
def fl (s : State) := fetchLine s.m 0 0 0 0
def wfp := st { wf.m with l2 := [(0, { L2St.reset with lines := [(0, { lineIn .m with poison := true })] })] }
def wroot := st { we.m with engs := [(0, { engT bankT with walks := [(0, 1, 0)] })], leases := tset we.m.leases 1 { lease we.m 1 with ptRoot := 0x1001 }, mem := { mach.mem with cells := [(0x1000, 1), (0x1001, 0x20), (0x2000, 0x1F)] } }
def wnr := st { wroot.m with leases := tset we.m.leases 1 { lease we.m 1 with ptRoot := 0 } }
def wt : Except Nat TlbEntry := walk (modEng wroot.m 0 (fun x => { x with walks := [] })) 1 0
def wtv : TlbEntry := match wt with | .ok t => t | .error _ => tlbE 0
def qe : QEnt := { op := 4, ready := false, lo := 9, hi := 0, poison := false, trap := false, flags := 0, iter := false }
def wop (q : Nat) (arr : Bool) := st (machE { engT { bankT with queues := [(q, [qe])] } with arrays := if arr then [(q, (0, 4))] else [] })
def wop0 := wop 0 true
def wop1 := wop 1 true
def wop2 := wop 2 false
def mo (k : MemKind) : MemOp := { id := 3, lv := 0, unit := 0, kind := k, lease := 1, pa := 0x300, size := 8, data := 5, exp := 6, entry := 4 }
def wm (k : MemKind) (st_ : CohSt) := st { (machE { engT { bankT with queues := [(lsuQueue 0, [{ qe with op := 4 }])] } with memops := [mo k] }) with
  l2 := [(0, { L2St.reset with lines := [(3, lineIn st_)] })] }
def wml := wm (.load false) .s
def wms := wm .store .m
def wmx := wm .stx .m
def wmx2 := st { wmx.m with resv := [(0, 0x300)] }
def wma := wm .fadd .m
def own (s : State) (k : MemKind) := (ownLine s.m 0 (mo k)).2
def av : Word := (atomicNew .fadd (loadValue dl 0x300 8 false) 5 6).getD 0
def mcm : MemOp := { mo (.mac false) with pa := 0x300 }
def wmm := st { (machE { engT { bankT with macq := [{ code := 0, a := 1, waitX := some 3, waitY := none, x := 0, y := 2, poison := false }] } with memops := [mcm] }) with
  l2 := [(0, { L2St.reset with lines := [(3, lineIn .s)] })] }


theorem witness_BundleIssue :
    (unitsRun wew.m = true ∧ Issues wew.m 0 0 ∧ fetchBundle (freshFails wew.m 0 0) 0 0 = (Fetched.wait, fm wew)) ∧
    (unitsRun we.m = true ∧ Issues we.m 0 0 ∧ fetchBundle (freshFails we.m 0 0) 0 0 = (Fetched.word bundleW, fm we) ∧ decodeBundle bundleW = Except.ok bu ∧ bit bundleW 127 = false ∧ bu.moves.all regMove = true ∧ (bank we.m 0 0).fault = none ∧ decodeExc (bank we.m 0 0) 0 (carried (eng (fm we) 0) 0 0 (bank we.m 0 0) (0#64) (0#64) bu.moves) = none ∧ (List.map (fun p => p.dest) (List.filter (fun p => guardHolds (bkGuards (bank we.m 0 0)) p.guard) bu.moves)).Nodup ∧ (List.map (fun p => p.slot) (List.filter (fun p => guardHolds (bkGuards (bank we.m 0 0)) p.guard) bu.moves)).Nodup) ∧
    (unitsRun web.m = true ∧ Issues web.m 0 0 ∧ fetchBundle (freshFails web.m 0 0) 0 0 = (Fetched.word badW, fm web) ∧ decodeBundle badW = Except.error 0 ∧ 0 ≠ 3 ∧ BitVec.getLsbD (eng web.m 0).vec 0 = true) :=
  ⟨by delta Issues; decide +kernel,
    by delta Issues; decide +kernel,
    by delta Issues; decide +kernel⟩

theorem witness_FetchesAndOperations_FetchAndTranslation :
    (meshRuns wf.m = true ∧ (eng wf.m 0).fetch = some 0 ∧ fetchLine wf.m 0 0 0 0 = (some (dl, false), (fl wf).2) ∧ false = false ∧ (eng (fl wf).2 0).l1iOff = false ∧ l1Keeps (fl wf).2 0 0 = true) ∧
    (meshRuns wfp.m = true ∧ (eng wfp.m 0).fetch = some 0 ∧ fetchLine wfp.m 0 0 0 0 = (some (dl, true), (fl wfp).2) ∧ true = true) ∧
    (meshRuns wfo.m = true ∧ (eng wfo.m 0).fetch = some 0 ∧ fetchLine wfo.m 0 0 0 0 = (some (dl, false), (fl wfo).2) ∧ false = false ∧ ((eng (fl wfo).2 0).l1iOff = true ∨ l1Keeps (fl wfo).2 0 0 = false)) ∧
    (meshRuns wroot.m = true ∧ (eng wroot.m 0).walks = [(0, 1, 0)] ∧ walk (modEng wroot.m 0 fun x => { x with walks := [] }) 1 0 = Except.ok wtv) ∧
    (meshRuns wnr.m = true ∧ (eng wnr.m 0).walks = [(0, 1, 0)] ∧ walk (modEng wnr.m 0 fun x => { x with walks := [] }) 1 0 = Except.error 0) :=
  ⟨by decide +kernel,
    by decide +kernel,
    by decide +kernel,
    by decide +kernel,
    by decide +kernel⟩

theorem witness_FetchesAndOperations_OperationsComplete :
    (unitsRun wop0.m = true ∧ engActive wop0.m 0 = true ∧ qe.ready = false ∧ tfind (eng wop0.m 0).arrays 0 = some (0, qe.op) ∧ queueOf (bank wop0.m 0 0) 0 = [qe]) ∧
    (unitsRun wop1.m = true ∧ engActive wop1.m 0 = true ∧ qe.ready = false ∧ tfind (eng wop1.m 0).arrays 1 = some (0, qe.op) ∧ queueOf (bank wop1.m 0 0) 1 = [qe]) ∧
    (unitsRun wop2.m = true ∧ engActive wop2.m 0 = true ∧ qe.ready = false ∧ tfind (eng wop2.m 0).arrays 2 = none ∧ queueOf (bank wop2.m 0 0) 2 = [qe] ∧ qe.iter = false ∧ qe.flags = 0 ∧ qe.trap = false) :=
  ⟨by decide +kernel,
    by decide +kernel,
    by decide +kernel⟩

theorem witness_MemoryOperations :
    (meshRuns wml.m = true ∧ opOf wml.m 0 3 = some (mo (MemKind.load false)) ∧ isControl (mo (MemKind.load false)).pa = false ∧ opFree (eng wml.m 0) (mo (MemKind.load false)) = true ∧ (mo (MemKind.load false)).lv < 4 ∧ (mo (MemKind.load false)).id = 3 ∧ isLoad (mo (MemKind.load false)).kind = true ∧ fetchLine wml.m 0 (mo (MemKind.load false)).lease ((mo (MemKind.load false)).pa / 256) 3 = (some (dl, false), (fetchLine wml.m 0 1 3 3).2)) ∧
    (meshRuns wms.m = true ∧ opOf wms.m 0 3 = some (mo MemKind.store) ∧ isControl (mo MemKind.store).pa = false ∧ opFree (eng wms.m 0) (mo MemKind.store) = true ∧ (mo MemKind.store).lv < 4 ∧ (mo MemKind.store).id = 3 ∧ (mo MemKind.store).kind = MemKind.store ∧ ownLine wms.m 0 (mo MemKind.store) = (some (dl, false), own wms MemKind.store)) ∧
    (meshRuns wmx.m = true ∧ opOf wmx.m 0 3 = some (mo MemKind.stx) ∧ isControl (mo MemKind.stx).pa = false ∧ opFree (eng wmx.m 0) (mo MemKind.stx) = true ∧ (mo MemKind.stx).lv < 4 ∧ (mo MemKind.stx).id = 3 ∧ (mo MemKind.stx).kind = MemKind.stx ∧ ownLine wmx.m 0 (mo MemKind.stx) = (some (dl, false), own wmx MemKind.stx) ∧ tfind (own wmx MemKind.stx).resv (4 * 0 + (mo MemKind.stx).lv) ≠ some (mo MemKind.stx).pa) ∧
    (meshRuns wmx2.m = true ∧ opOf wmx2.m 0 3 = some (mo MemKind.stx) ∧ isControl (mo MemKind.stx).pa = false ∧ opFree (eng wmx2.m 0) (mo MemKind.stx) = true ∧ (mo MemKind.stx).lv < 4 ∧ (mo MemKind.stx).id = 3 ∧ (mo MemKind.stx).kind = MemKind.stx ∧ ownLine wmx2.m 0 (mo MemKind.stx) = (some (dl, false), own wmx2 MemKind.stx) ∧ tfind (own wmx2 MemKind.stx).resv (4 * 0 + (mo MemKind.stx).lv) = some (mo MemKind.stx).pa) ∧
    (meshRuns wma.m = true ∧ opOf wma.m 0 3 = some (mo MemKind.fadd) ∧ isControl (mo MemKind.fadd).pa = false ∧ opFree (eng wma.m 0) (mo MemKind.fadd) = true ∧ (mo MemKind.fadd).lv < 4 ∧ (mo MemKind.fadd).id = 3 ∧ isAtomic (mo MemKind.fadd).kind = true ∧ (mo MemKind.fadd).kind ≠ MemKind.stx ∧ ownLine wma.m 0 (mo MemKind.fadd) = (some (dl, false), own wma MemKind.fadd) ∧ atomicNew (mo MemKind.fadd).kind (loadValue dl (mo MemKind.fadd).pa 8 false) (mo MemKind.fadd).data (mo MemKind.fadd).exp = some av) ∧
    (meshRuns wmm.m = true ∧ opOf wmm.m 0 3 = some mcm ∧ isControl mcm.pa = false ∧ opFree (eng wmm.m 0) mcm = true ∧ mcm.lv < 4 ∧ mcm.id = 3 ∧ isMacFetch mcm.kind = true ∧ fetchLine wmm.m 0 mcm.lease (mcm.pa / 256) 3 = (some (dl, false), (fetchLine wmm.m 0 1 3 3).2)) :=
  ⟨by decide +kernel,
    by decide +kernel,
    by decide +kernel,
    by decide +kernel,
    by decide +kernel,
    by decide +kernel⟩

end F1

namespace F2

def settE : TlbEntry := { lease := 1, va := 2 ^ 30, pa := 0x80000, bits := 30, r := true, w := true, x := false, sett := true }
def sa : Nat := 2 ^ 30
def mE (x : Eng) : Mach :=
  let m := machE { x with tlb := x.tlb ++ [settE] }
  { m with leases := tset m.leases 1 { lease m 1 with pool := [sa, sa + 256, sa + 512, sa + 768, sa + 1024] } }
def wds := st { (mE (engT { bankT with dfill := 1, c := vset bankT.c 3 0x300 })) with l2 := [(0, { L2St.reset with lines := [(3, lineIn .s)] })] }
def ea (s : State) := engAddr s.m 0 1 0x300 .read
def rd (s : State) := rdEng (ea s).2 0 1 0x300 8
def rdv (s : State) : Bytes := match (rd s).1 with | .ok b => b | .error _ => []
def wsp := st (mE (engT { bankT with spill := true, rstk := (List.range 32).map (fun i => BitVec.ofNat 64 i) }))
def ts (s : State) (k r : Nat) := takeSetts s.m 0 1 k r
def wsv := st (mE (engT { bankT with save := some (0, 0) }))
def wcx := st (mE (engT { bankT with cx := some (3, 0), queues := [(3, [{ op := 1, ready := false, lo := 0, hi := 0, poison := false, trap := false, flags := 0, iter := false }])] , g := Bank.reset.g }))
def cxr := cxRun (cxFuel 0) wcx.m 0 0 3 0
def cxv : Word := match cxr.1 with | .done r => r | _ => 1
def wmt := st { (mE (engT { bankT with save := some (4, 7) })) with mode := { mach.mode with holdStart := some 0 } }
def wring (c : Nat) (arg : Word) (s_ : LeaseState) : State := let m := mE (engT { bankT with ring := some (c, arg, 9) }); st { m with leases := tset m.leases 1 { lease m 1 with st := s_ } }
def wr1 := wring 3 0 .quiesced
def wr2 := wring 4 5 .active
def wr3 := wring 4 16 .active
def wrs := wring 3 512 .active
def wtm := st (mE (engT { bankT with t := vset bankT.t 4 (BitVec.ofNat 64 (2 ^ 48)) }))
def wgr := st (mE (engT { bankT with st := .waiting, graceAt := some 7 }))
def wgq := st { wgr.m with benches := [(0, { Bench.reset with queue := [freshTask 1 0 9 0x40 0 0 33 none] })] }


theorem witness_StacksAndMicroRoutines_StackTransfers :
    (unitsRun wds.m = true ∧ engActive wds.m 0 = true ∧ (bank wds.m 0 0).dfill = (bank wds.m 0 0).dc.length + 1 ∧ engAddr wds.m 0 (bkLease (bank wds.m 0 0) 0) (cw (bank wds.m 0 0) 3 + 8 * (bank wds.m 0 0).dc.length) Need.read = (Except.ok 768, (ea wds).2) ∧ memBusy (ea wds).2 0 768 8 = false ∧ rdEng (ea wds).2 0 (bkLease (bank wds.m 0 0) 0) (cw (bank wds.m 0 0) 3 + 8 * (bank wds.m 0 0).dc.length) 8 = (Except.ok (rdv wds), (rd wds).2) ∧ bank (rd wds).2 0 0 = bank wds.m 0 0) ∧
    (unitsRun wsp.m = true ∧ engActive wsp.m 0 = true ∧ (bank wsp.m 0 0).spill = true ∧ runLevel wsp.m 0 = some 0 ∧ takeSetts wsp.m 0 (bkLease (bank wsp.m 0 0) 0) 1 2 = (some [sa], (ts wsp 1 2).2)) :=
  ⟨by decide +kernel,
    by decide +kernel⟩

theorem witness_StacksAndMicroRoutines_MicroRoutines :
    (unitsRun wsv.m = true ∧ engActive wsv.m 0 = true ∧ (eng wsv.m 0).memops = [] ∧ (bank wsv.m 0 0).st ≠ BankSt.empty ∧ (bank wsv.m 0 0).save = some (0, 0#64) ∧ 0 % 4 = 0 ∧ (bank wsv.m 0 0).taken = 0 ∧ takeSetts wsv.m 0 (bkLease (bank wsv.m 0 0) 0) 1 3 = (some [sa], (ts wsv 1 3).2)) ∧
    (unitsRun wcx.m = true ∧ engActive wcx.m 0 = true ∧ (eng wcx.m 0).memops = [] ∧ (bank wcx.m 0 0).st ≠ BankSt.empty ∧ (bank wcx.m 0 0).cx = some (3, 0#64) ∧ 3 ≠ 1 ∧ (0 = 3 ∨ (bank wcx.m 0 3).st = BankSt.empty) ∧ microMeets wcx.m 0 none = (none, wcx.m) ∧ cxRun (cxFuel (BitVec.toNat (gw (bank wcx.m 0 0) (selN ((0#64).toNat % 2 ^ 24))))) wcx.m 0 0 3 ((0#64).toNat % 2 ^ 24) = (CxStep.done cxv, cxr.2)) ∧
    (unitsRun wmt.m = true ∧ engActive wmt.m 0 = true ∧ (eng wmt.m 0).memops = [] ∧ (bank wmt.m 0 0).st ≠ BankSt.empty ∧ interrupted wmt.m 0 0 = true ∧ mustEmpty wmt.m 0 0 = false ∧ (bank wmt.m 0 0).cx = none ∧ (bank wmt.m 0 0).save = some (4, 7#64) ∧ 4 ≤ 4 % 8 ∧ (bank wmt.m 0 0).jmp = none) ∧
    (unitsRun (st machL).m = true ∧ 65 ≤ (65#16).toNat ∧ ustate (st machL).m 8 0 = UState.active) :=
  ⟨by decide +kernel,
    by decide +kernel,
    by decide +kernel,
    by decide +kernel⟩

theorem witness_RingsAndTimers_RingAnswers :
    (meshRuns wr1.m = true ∧ (bank wr1.m 0 0).ring = some (3, 0#64, 9#64) ∧ (eng wr1.m 0).memops = [] ∧ (lease wr1.m (bkLease (bank wr1.m 0 0) 0)).st ≠ LeaseState.active ∧ 3 ≤ 3 % 8) ∧
    (meshRuns wrs.m = true ∧ (bank wrs.m 0 0).ring = some (3, 512#64, 9#64) ∧ (eng wrs.m 0).memops = [] ∧ (lease wrs.m (bkLease (bank wrs.m 0 0) 0)).st = LeaseState.active ∧ 3 % 8 = 3 ∧ 512 ≤ (512#64).toNat) ∧
    (meshRuns wr2.m = true ∧ (bank wr2.m 0 0).ring = some (4, 5#64, 9#64) ∧ (eng wr2.m 0).memops = [] ∧ (lease wr2.m (bkLease (bank wr2.m 0 0) 0)).st = LeaseState.active ∧ 4 % 8 = 4 ∧ ((5#64).toNat < 16 ∨ 4096 ≤ (5#64).toNat)) ∧
    (meshRuns wr3.m = true ∧ (bank wr3.m 0 0).ring = some (4, 16#64, 9#64) ∧ (eng wr3.m 0).memops = [] ∧ (lease wr3.m (bkLease (bank wr3.m 0 0) 0)).st = LeaseState.active ∧ 4 % 8 = 4 ∧ 16 ≤ (16#64).toNat ∧ (16#64).toNat < 4096) :=
  ⟨by decide +kernel,
    by decide +kernel,
    by decide +kernel,
    by decide +kernel⟩

set_option maxRecDepth 100000 in
theorem witness_RingsAndTimers_TimersAndWaits :
    (unitsRun wtm.m = true ∧ engActive wtm.m 0 = true ∧ takeStamp wtm.m 0 = ((takeStamp wtm.m 0).1, (takeStamp wtm.m 0).2) ∧ ((bank wtm.m 0 0).st = BankSt.ready ∨ (bank wtm.m 0 0).st = BankSt.exception) ∧ bit (bkTmr (bank wtm.m 0 0)) (2 * 0) = true ∧ tw (bank wtm.m 0 0) (21 + 0) ≤ BitVec.toNat (takeStamp wtm.m 0).1 ∧ (bank wtm.m 0 0).owns1 = false) ∧
    (unitsRun wgr.m = true ∧ engActive wgr.m 0 = true ∧ (bank wgr.m 0 0).st = BankSt.waiting ∧ (bank wgr.m 0 0).graceAt = some 7 ∧ 7 ≤ wgr.m.now ∧ eligibleHere wgr.m 0 0 = false) ∧
    (unitsRun wgq.m = true ∧ engActive wgq.m 0 = true ∧ (bank wgq.m 0 0).st = BankSt.waiting ∧ (bank wgq.m 0 0).graceAt = some 7 ∧ 7 ≤ wgq.m.now ∧ 0 < 3 ∧ eligibleHere wgq.m 0 0 = true ∧ (bank wgq.m 0 0).point = none ∧ bkEnd (bank wgq.m 0 0) = false ∧ settled wgq.m 0 0 = true ∧ (bench wgq.m (benchOf 0)).waiting.length < 256) :=
  ⟨by and_intros <;> first | decide +kernel | exact Prod.ext (by decide +kernel) rfl | rfl,
    by decide +kernel,
    by decide +kernel⟩

end F2

namespace F3

def settE : TlbEntry := { lease := 1, va := 2 ^ 30, pa := 0x80000, bits := 30, r := true, w := true, x := false, sett := true }
def sa : Nat := 2 ^ 30
def mE (x : Eng) : Mach :=
  let m := machE { x with tlb := x.tlb ++ [settE] }
  { m with leases := tset m.leases 1 { lease m 1 with pool := [sa, sa + 256, sa + 512, sa + 768, sa + 1024] } }
def qt : QTask := freshTask 1 0 9 0x40 0 0 33 none
def qr : QTask := { qt with fresh := false, area := sa, kind := 2 }
def ts (s : State) (k r : Nat) := takeSetts s.m 0 1 k r
def wdp := st { (mE (engT { bankT with point := some 10000000000 })) with benches := [(0, { Bench.reset with queue := [qt] })] }
def wsv := st (mE (engT { bankT with st := .saving, saved := some qr }))
def qw : QTask := { qr with mask := 4 }
def wsw := st (mE (engT { bankT with st := .saving, saved := some qw }))
def wen := st (mE (engT { bankT with c := vset bankT.c 8 (BitVec.ofNat 64 (2 ^ 63 + 2 ^ 32 + 9)) }))
def wqd := st { (mE (engT Bank.reset)) with benches := [(0, { Bench.reset with queue := [qt] })] }
def wst := st { (mE (engT Bank.reset)) with benches := [(1, { Bench.reset with queue := [qt] })] }
def wno := st (mE (engT Bank.reset))
def wsc := st { wst.m with engs := [(0, { engT Bank.reset with probe := some (1, 1) })] }
def wpk := st (mE { engT Bank.reset with parkedTill := some 5 })
def qk : QTask := { qr with mask := 4, wake := true }
def wwt := st { (mE (engT Bank.reset)) with benches := [(0, { Bench.reset with waiting := [qk] })] }
def we0 : WaitEntry := { lease := 1, level := 0, bench := 0, pc := 0x40, dsBase := 0, dsLimit := 0, task := 9, arg := 5, vector := 17 }
def wqp := st { (mE (engT Bank.reset)) with evt := { EvtSt.reset with waiting := [we0] } }
def wsr := st { (mE (engT Bank.reset)) with benches := [(0, { Bench.reset with stock := [(1, [sa + 4096])] })] }
def wld := let m := machE (engT Bank.reset); st { m with leases := tset m.leases 1 { lease m 1 with ptRoot := 0x1001 }, mem := { mach.mem with cells := [(0x1000, 1), (0x1001, 0x20), (0x2000, 0x27)] } }
def sad : Mach := (settAdd wld.m 1 0x4000).getD mach
def wms := st { machL with units := tset units (ukey 2 0) { UnitSt.reset with st := .starting } }
def wms1 := st { wms.m with stores := [(0, { StoreSt.reset with tries := 1 })] }


theorem witness_TasksMove :
    (unitsRun wdp.m = true ∧ 0 < 3 ∧ engActive wdp.m 0 = true ∧ displacePoint wdp.m 0 0 = true ∧ settled wdp.m 0 0 = true ∧ (bench wdp.m (benchOf 0)).queue.length < 512 ∧ (bank wdp.m 0 0).owns1 = false ∧ stackBack wdp.m 0 0 = (true, (stackBack wdp.m 0 0).2) ∧ bank (stackBack wdp.m 0 0).2 0 0 = bank wdp.m 0 0 ∧ (bank wdp.m 0 0).rstk = [] ∧ ((bank wdp.m 0 0).t.toList.all fun w => w == 0#64) = true ∧ (lease (stackBack wdp.m 0 0).2 (bkLease (bank wdp.m 0 0) 0)).dirtyMode = false ∧ reserveAt (bank wdp.m 0 0) = none ∧ takeSetts (stackBack wdp.m 0 0).2 0 (bkLease (bank wdp.m 0 0) 0) 2 1 = (some [sa, sa + 256], (takeSetts (stackBack wdp.m 0 0).2 0 1 2 1).2)) ∧
    (unitsRun wsv.m = true ∧ (bank wsv.m 0 0).st = BankSt.saving ∧ (bank wsv.m 0 0).saved = some qr ∧ (toWaitTable wsv.m 0 qr && !taskReady qr (BitVec.toNat (timeNow wsv.m))) = false ∧ (bench wsv.m (benchOf 0)).queue.length < 512) ∧
    (unitsRun wsw.m = true ∧ (bank wsw.m 0 0).st = BankSt.saving ∧ (bank wsw.m 0 0).saved = some qw ∧ (toWaitTable wsw.m 0 qw && !taskReady qw (BitVec.toNat (timeNow wsw.m))) = true ∧ (bench wsw.m (benchOf 0)).waiting.length < 256) ∧
    (unitsRun wen.m = true ∧ engActive wen.m 0 = true ∧ 0 < 3 ∧ ((bank wen.m 0 0).st = BankSt.ready ∨ (bank wen.m 0 0).st = BankSt.waiting) ∧ bkEnd (bank wen.m 0 0) = true ∧ settled wen.m 0 0 = true ∧ cw (bank wen.m 0 0) 4 = 0 ∧ (bank wen.m 0 0).vector = none ∧ (lease wen.m (bkLease (bank wen.m 0 0) 0)).dirtyMode = false) ∧
    (unitsRun wqd.m = true ∧ benchTakes wqd.m 0 = true ∧ nextEntry wqd.m 0 = some (qt, 0) ∧ qt.fresh = true) :=
  ⟨by decide +kernel,
    by decide +kernel,
    by decide +kernel,
    by decide +kernel,
    by decide +kernel⟩

theorem witness_TasksMove_Steals :
    (unitsRun wst.m = true ∧ engActive wst.m 0 = true ∧ benchTakes wst.m (benchOf 0) = true ∧ idle wst.m 0 = true ∧ (eng wst.m 0).parkedTill = none ∧ findVictim wst.m 0 = some 1) ∧
    (unitsRun wno.m = true ∧ engActive wno.m 0 = true ∧ benchTakes wno.m (benchOf 0) = true ∧ idle wno.m 0 = true ∧ (eng wno.m 0).parkedTill = none ∧ findVictim wno.m 0 = none) ∧
    (unitsRun wsc.m = true ∧ engActive wsc.m 0 = true ∧ (eng wsc.m 0).probe = some (1, 1) ∧ 1 ≠ benchOf 0 ∧ benchTakes (modEng wsc.m 0 fun x => { x with probe := none }) (benchOf 0) = true ∧ idle (modEng wsc.m 0 fun x => { x with probe := none }) 0 = true ∧ yieldsAt (modEng wsc.m 0 fun x => { x with probe := none }) 0 1 1 = true ∧ stealOrder (stealable (modEng wsc.m 0 fun x => { x with probe := none }) 0 1) = [qt] ∧ qt.fresh = true ∧ qt.level < 3) ∧
    (unitsRun wpk.m = true ∧ engActive wpk.m 0 = true ∧ (eng wpk.m 0).parkedTill = some 5 ∧ 5 ≤ wpk.m.now) :=
  ⟨by decide +kernel,
    by decide +kernel,
    by decide +kernel,
    by decide +kernel⟩

set_option maxRecDepth 100000 in
theorem witness_QueuesAndStores_QueuesAndSetts :
    (unitsRun wwt.m = true ∧ (bench wwt.m 0).waiting = [qk] ∧ takeStamp wwt.m (1280 + 0) = ((takeStamp wwt.m 1280).1, (takeStamp wwt.m 1280).2) ∧ taskReady qk (BitVec.toNat (takeStamp wwt.m 1280).1) = true ∧ (bench wwt.m 0).queue.length < 512) ∧
    (unitsRun wqp.m = true ∧ (bench wqp.m 0).waiting = [] ∧ wqp.m.evt.waiting = [we0] ∧ we0.bench = 0 ∧ (bench wqp.m 0).queue.length < 512) ∧
    (unitsRun wsr.m = true ∧ tfind (bench wsr.m 0).stock 1 = some [sa + 4096] ∧ [sa + 4096].length ≤ 4) ∧
    (Writable (st machL).m Actor.service 12 1 ∧ settAdd (st machL).m 1 5#64 = none) ∧
    (Writable wld.m Actor.service 12 1 ∧ settAdd wld.m 1 16384#64 = some sad) :=
  ⟨by and_intros <;> first | decide +kernel | exact Prod.ext (by decide +kernel) rfl | rfl,
    by decide +kernel,
    by decide +kernel,
    by delta Writable; decide +kernel,
    by delta Writable; and_intros <;> first | decide +kernel | exact Prod.ext (by decide +kernel) rfl | rfl⟩

theorem witness_QueuesAndStores_MicrocodeLoads :
    (alive wms.m = true ∧ ustate wms.m (storeKind (StoreUnit.engine 0)).1 (storeKind (StoreUnit.engine 0)).2 = UState.starting ∧ (store wms.m (storeKey (StoreUnit.engine 0))).loaded = false ∧ boundSet wms.m (storeKind (StoreUnit.engine 0)) = none) ∧
    (alive wms.m = true ∧ ustate wms.m (storeKind (StoreUnit.engine 0)).1 (storeKind (StoreUnit.engine 0)).2 = UState.starting ∧ (store wms.m (storeKey (StoreUnit.engine 0))).loaded = false ∧ (store wms.m (storeKey (StoreUnit.engine 0))).tries = 0) ∧
    (alive wms1.m = true ∧ ustate wms1.m (storeKind (StoreUnit.engine 0)).1 (storeKind (StoreUnit.engine 0)).2 = UState.starting ∧ (store wms1.m (storeKey (StoreUnit.engine 0))).loaded = false ∧ 1 ≤ (store wms1.m (storeKey (StoreUnit.engine 0))).tries) :=
  ⟨by decide +kernel,
    by decide +kernel,
    by decide +kernel⟩

end F3

namespace G

def bw : Bank := { Bank.reset with st := .waiting }
def engW : Eng := { Eng.reset with lv := vset Eng.reset.lv 0 bw }
def wsp := st { mach with engs := [(0, engW)] }
def wns := st { mach with units := tset units (ukey 2 16) { UnitSt.reset with st := .failed } }
def wh := st { mach with homes := [(0, { Home.reset with buddy := 1 }), (1, { Home.reset with buddy := 0 })] }
def whl := st { mach with image := [], units := [un 14 0 .active, un 14 1 .active, un 13 0 .active, un 13 1 .active, un 11 1 .offline] }
def wdo := st { mach with doms := [(92, { mhz := 1562, temp := 40, throttled := false, loweredAt := none, raisedAt := none, tripped := false, lost := false })] }
def wcr := st { mach with subs := [(3, { SubLink.reset with issued := [(7, 3), (2, 1)], returned := [(7, 3)] })] }
def domv : Dom := { mhz := 2000, temp := 40, throttled := false, loweredAt := none, raisedAt := none, tripped := false, lost := false }
def wop := st { mach with image := image ++ [(ukey 2 0, rec 16 [(0, 20), (1, 10), (2, 100)])], doms := [(0, domv)] }
def wrf := st { mach with pins := { mach.pins with refBad := [0, 1], refBadAt := some 0 }, doms := [(0, domv)] }
def mst : TsMaster := { TsMaster.reset with running := true, count := 2 }
def wpp := st { mach with image := image ++ [(ukey 15 12, rec 16 [(0, 1)])], evt := { EvtSt.reset with masters := vof 2 (fun _ => mst) } }
def wpp2 := st { wpp.m with pins := { mach.pins with pps := [12], ppsUntil := 5000000000 } }
def wplt := st { machL with pcie := [(0, { PcieSt.reset with links := vset PcieSt.reset.links 0 { st := 1, speed := 0, width := 0 } })] }
def mp (n : Nat) : Bytes := rec 8 [(0, n)]
def hm (n : Nat) : SvcHdr := hd 0x20 (mp n)
def wstart := st { bareM with mode := { ModeSt.reset with verified := true }, load := { LoadSt.reset with candidate := some (rec 256 []) } }
def svm := st (svcM mach)
def wtr := st { svcM mach with mode := { ModeSt.reset with st := .hold, transit := true } }
def wte := st { bareM with mode := { ModeSt.reset with testAllowed := true } }
def wbl := st { svcM mach with svc := { (svcM mach).svc with running := [{ port := .sp1, seq := 6, type := 0x71, status := 0, body := [], till := 10 ^ 13, blow := true }] } }
def whe := st { mach with mode := { mach.mode with holdStart := some 0, transit := true } }
def live (m : Mach) : Mach := { m with links := [(0, { LinkSt.reset with st := .up })], evt := { m.evt with masters := vmap (fun x => { x with running := true }) m.evt.masters } }
def whx := st { mach with mode := { mach.mode with st := .hold, transit := true } }

def k1 : State := st { mach with svc := { mach.svc with owner := some .sp0 } }
def k2 : State := st { mach with pins := { mach.pins with ao := true } }
def k3 : State := st { machL with pins := { mach.pins with ao := true } }
def k4 : State := st { bareM with svc := { SvcSt.reset with released := false } }
def k5 : State := st { svcM mach with mode := { ModeSt.reset with st := .hold } }
def k6 : State := st { bareM with mode := { ModeSt.reset with testAllowed := false } }
def k7 : State := st { bareM with mode := { ModeSt.reset with st := .test } }
def k8 : State := st { mach with mode := { mach.mode with st := .training } }
def k9 : TrainResult := { chans := [], links := [], pcie := [] }
def k10 : State := st { mach with mode := { mach.mode with st := .rework } }

theorem witness_UnitsLost_EngineSparing :
    (unitsRun wsp.m = true ∧ wsp.m.mode.holdStart = none ∧ engActive wsp.m 0 = true ∧ FaultEv.engine 0 ∉ wsp.m.mode.found ∧ (eng wsp.m 0).memops = [] ∧ wsp.m.load.st = LState.idle ∧ spareFor wsp.m 0 = some 16 ∧ 16 ≠ 0 ∧ (∀ l < 4, (bank wsp.m 0 l).cx = none ∧ (bank wsp.m 0 l).save = none) ∧ (∀ l < 3, (bank wsp.m 0 l).st = BankSt.waiting ∨ (bank wsp.m 0 l).st = BankSt.empty) ∧ (bank wsp.m 0 3).st = BankSt.empty ∧ 0#4 = 0#4) ∧
    (unitsRun wns.m = true ∧ wns.m.mode.holdStart = none ∧ engActive wns.m 0 = true ∧ FaultEv.engine 0 ∉ wns.m.mode.found ∧ (eng wns.m 0).memops = [] ∧ wns.m.load.st = LState.idle ∧ spareFor wns.m 0 = none ∧ (∀ l < 4, (bank wns.m 0 l).st = BankSt.empty ∧ (bank wns.m 0 l).cx = none ∧ (bank wns.m 0 l).save = none) ∧ (eng wns.m 0).l3Event = none ∧ wns.m.evt.l3Waiting = []) :=
  ⟨by decide +kernel,
    by decide +kernel⟩

theorem witness_UnitsLost :
    (unitsRun w.m = true ∧ w.m.mode.holdStart = none ∧ ustate w.m 1 0 = UState.active ∧ w.m.l2 = [] ∧ w.m.homes = [] ∧ bench w.m 0 = Bench.reset ∧ (∀ e ∈ enginesOf 0, eng w.m e = Eng.reset) ∧ w.m.evt.l3Waiting = [] ∧ w.m.load.st = LState.idle) ∧
    (unitsRun wh.m = true ∧ wh.m.mode.holdStart = none ∧ unitHasRole wh.m 3 0 = true ∧ (home wh.m 0).lost = false ∧ buddyOf wh.m 0 ≠ 0 ∧ (home wh.m (buddyOf wh.m 0)).lost = false ∧ (home wh.m (buddyOf wh.m 0)).st = HomeState.serving ∧ wh.m.load.st = LState.idle) ∧
    (unitsRun w.m = true ∧ w.m.mode.holdStart = none ∧ 2 ∉ w.m.errs.tilesLost ∧ (∀ b < 64, b / 16 = 2 → ustate w.m 1 b ≠ UState.active ∧ ustate w.m 1 b ≠ UState.draining) ∧ (∀ h < 16, h / 4 = 2 → unitHasRole w.m 3 h = false) ∧ (∀ c < 12, c / 3 = 2 → (chan w.m c).role = 0)) ∧
    (unitsRun whl.m = true ∧ whl.m.mode.holdStart = none ∧ 1 ∉ whl.m.hubsLost ∧ 1 ∉ whl.m.svc.coresLost ∧ whl.m.chn.txns = [] ∧ whl.m.jobs.jobs = []) ∧
    (unitsRun w.m = true ∧ w.m.mode.holdStart = none ∧ 0 ∉ w.m.hubsLost ∧ 0 ∉ w.m.svc.coresLost ∧ w.m.chn.txns = [] ∧ w.m.jobs.jobs = []) ∧
    (unitsRun (st (withPath pathOp)).m = true ∧ (st (withPath pathOp)).m.mode.holdStart = none ∧ 0 ∉ (st (withPath pathOp)).m.hubsLost ∧ 0 ∉ (st (withPath pathOp)).m.svc.coresLost ∧ (st (withPath pathOp)).m.chn.txns = [] ∧ (st (withPath pathOp)).m.jobs.jobs = []) ∧
    (unitsRun k1.m = true ∧ k1.m.mode.holdStart = none ∧ k1.m.svc.released = true ∧ 0 ∉ k1.m.svc.coresLost) ∧
    (unitsRun wdo.m = true ∧ wdo.m.mode.holdStart = none ∧ 92 ≤ 92 ∧ 92 < 100 ∧ (dom wdo.m 92).mhz ≠ 0 ∧ (link wdo.m (92 - 92)).st = LinkState.offline) ∧
    (unitsRun wdo.m = true ∧ wdo.m.mode.holdStart = none ∧ 92 ≤ 92 ∧ 92 < 100 ∧ 115 ≤ (115#8).toNat ∧ (dom wdo.m 92).tripped = false ∧ (dom wdo.m 92).mhz ≠ 0 ∧ (link wdo.m (92 - 92)).st = LinkState.offline) :=
  ⟨by decide +kernel,
    by decide +kernel,
    by decide +kernel,
    by decide +kernel,
    by decide +kernel,
    by decide +kernel,
    by decide +kernel,
    by decide +kernel,
    by decide +kernel⟩

theorem witness_UnitsLost_MeshTransfersAndReturns :
    (meshRuns wcr.m = true ∧ (subLink wcr.m 3).lost = false ∧ (creditsOut (subLink wcr.m 3) (5 * 1 + 2) = 0 ∨ creditsOut (subLink wcr.m 3) (5 * 1 + 2) < (Config.creditPool 3 (5 * 1 + 2)).toNat + 1)) ∧
    (meshRuns wcr.m = true ∧ (subLink wcr.m 3).lost = false ∧ (creditsOut (subLink wcr.m 3) (5 * 1 + 2) = 0 ∨ creditsOut (subLink wcr.m 3) (5 * 1 + 2) < (Config.creditPool 3 (5 * 1 + 2)).toNat + 1) ∧ tget (subLink wcr.m 3).fails (5 * 1 + 2) 0 < 8) ∧
    (wcr.pending = [] ∧ alive wcr.m = true) :=
  ⟨by decide +kernel,
    by decide +kernel,
    by decide +kernel⟩

theorem witness_ClocksAndLands_OperatingPoints :
    (unitsRun wop.m = true ∧ domVar 0 = true ∧ (dom wop.m 0).mhz ≠ 0 ∧ thermalDue wop.m 0 (40#8).toNat = false ∧ min (domCeil wop.m 0) (max (domFloor wop.m 0) (100 * (12#8).toNat)) < (dom wop.m 0).mhz) ∧
    (unitsRun wop.m = true ∧ domVar 0 = true ∧ (dom wop.m 0).mhz ≠ 0 ∧ (dom wop.m 0).throttled = false ∧ domLimit wop.m 0 ≤ (100#8).toNat ∧ domFloor wop.m 0 + 100 ≤ (dom wop.m 0).mhz ∧ (dom wop.m 0).mhz ≤ domCeil wop.m 0) ∧
    (unitsRun wop.m = true ∧ domVar 0 = true ∧ (dom wop.m 0).mhz ≠ 0 ∧ (dom wop.m 0).throttled = false ∧ (99#8).toNat < domLimit wop.m 0) :=
  ⟨by decide +kernel,
    by decide +kernel,
    by decide +kernel⟩

theorem witness_ClocksAndLands_ReferencesAndSupplies :
    (wrf.m.pins.refBadAt = some 0 ∧ 0 + 1000000 ≤ wrf.m.now ∧ unitsRun wrf.m = true) ∧
    (k2.m.pins.ao = true) ∧
    (unitsRun wop.m = true) ∧
    ((st bareM).m.mode.st = Mode.bare) ∧
    (unitsRun w.m = true) :=
  ⟨by decide +kernel,
    by decide +kernel,
    by decide +kernel,
    by decide +kernel,
    by decide +kernel⟩

theorem witness_ClocksAndLands_LandsAndPorts :
    (alive wpp.m = true ∧ ppsMaster wpp.m 12 = some 0 ∧ 12 ∉ wpp.m.pins.pps ∧ (master wpp.m 0).running = true ∧ BitVec.toNat (master wpp.m 0).count % 1000000000 ≤ 2) ∧
    (alive wpp2.m = true ∧ ppsMaster wpp2.m 12 = some 0 ∧ 12 ∈ wpp2.m.pins.pps ∧ wpp2.m.pins.ppsUntil ≤ wpp2.m.now) ∧
    (unitsRun wplt.m = true ∧ 0 < downLinks (imgFld wplt.m 12 (8 + 0) 0 1) ∧ 0 < (5#4).toNat ∧ (5#4).toNat ≤ imgFld wplt.m 12 (8 + 0) 1 1 ∧ (vget (pcie wplt.m 0).links 0 { st := 0, speed := 0, width := 0 }).st = 1 ∧ (4#8 = 1#8 ∨ 4#8 = 4#8 ∨ 4#8 = 8#8 ∨ 4#8 = 16#8) ∧ downLinks (imgFld wplt.m 12 (8 + 0) 0 1) * (4#8).toNat ≤ 16) :=
  ⟨by decide +kernel,
    by decide +kernel,
    by decide +kernel⟩

theorem witness_Resets :
    (k3.m.pins.ao = true) ∧
    (k4.m.svc.released = false ∧ k4.m.pins.ao = true ∧ k4.m.svc.releaseAt ≤ k4.m.now) :=
  ⟨by decide +kernel,
    by decide +kernel⟩

theorem witness_Modes_ModeCommands :
    (Taken svm.m (modeMsg (mp 9)) (hm 9) (mp 9) ∧ (3, Instr.holdEnter (hm 9) (mp 9)) ∈ [(1, Instr.start (hm 9) (mp 9)), (3, Instr.holdEnter (hm 9) (mp 9)), (4, Instr.holdExit (hm 9) (mp 9)), (5, Instr.testEnter (hm 9) (mp 9)), (6, Instr.testExit (hm 9) (mp 9))] ∧ (fld (mp 9) 0 1 = 0 ∨ 6 < fld (mp 9) 0 1)) ∧
    (Taken svm.m (modeMsg (mp 0)) (hm 0) (mp 0) ∧ (6, Instr.testExit (hm 0) (mp 0)) ∈ [(1, Instr.start (hm 0) (mp 0)), (3, Instr.holdEnter (hm 0) (mp 0)), (4, Instr.holdExit (hm 0) (mp 0)), (5, Instr.testEnter (hm 0) (mp 0)), (6, Instr.testExit (hm 0) (mp 0))] ∧ (fld (mp 0) 0 1 = 0 ∨ 6 < fld (mp 0) 0 1)) ∧
    (Taken wtr.m (modeMsg (mp 3)) (hm 3) (mp 3) ∧ (3, Instr.holdEnter (hm 3) (mp 3)) ∈ [(1, Instr.start (hm 3) (mp 3)), (3, Instr.holdEnter (hm 3) (mp 3)), (4, Instr.holdExit (hm 3) (mp 3)), (5, Instr.testEnter (hm 3) (mp 3)), (6, Instr.testExit (hm 3) (mp 3))] ∧ fld (mp 3) 0 1 = 3 ∧ (wtr.m.mode.transit = true ∨ blowing wtr.m = true)) ∧
    (Taken wtr.m (modeMsg (mp 1)) (hm 1) (mp 1) ∧ (1, Instr.start (hm 1) (mp 1)) ∈ [(1, Instr.start (hm 1) (mp 1)), (3, Instr.holdEnter (hm 1) (mp 1)), (4, Instr.holdExit (hm 1) (mp 1)), (5, Instr.testEnter (hm 1) (mp 1)), (6, Instr.testExit (hm 1) (mp 1))] ∧ fld (mp 1) 0 1 = 1 ∧ (wtr.m.mode.transit = true ∨ blowing wtr.m = true)) ∧
    (Taken wtr.m (modeMsg (mp 4)) (hm 4) (mp 4) ∧ (4, Instr.holdExit (hm 4) (mp 4)) ∈ [(1, Instr.start (hm 4) (mp 4)), (3, Instr.holdEnter (hm 4) (mp 4)), (4, Instr.holdExit (hm 4) (mp 4)), (5, Instr.testEnter (hm 4) (mp 4)), (6, Instr.testExit (hm 4) (mp 4))] ∧ fld (mp 4) 0 1 = 4 ∧ (wtr.m.mode.transit = true ∨ blowing wtr.m = true)) ∧
    (Taken wtr.m (modeMsg (mp 5)) (hm 5) (mp 5) ∧ (5, Instr.testEnter (hm 5) (mp 5)) ∈ [(1, Instr.start (hm 5) (mp 5)), (3, Instr.holdEnter (hm 5) (mp 5)), (4, Instr.holdExit (hm 5) (mp 5)), (5, Instr.testEnter (hm 5) (mp 5)), (6, Instr.testExit (hm 5) (mp 5))] ∧ fld (mp 5) 0 1 = 5 ∧ (wtr.m.mode.transit = true ∨ blowing wtr.m = true)) ∧
    (Taken wtr.m (modeMsg (mp 6)) (hm 6) (mp 6) ∧ (6, Instr.testExit (hm 6) (mp 6)) ∈ [(1, Instr.start (hm 6) (mp 6)), (3, Instr.holdEnter (hm 6) (mp 6)), (4, Instr.holdExit (hm 6) (mp 6)), (5, Instr.testEnter (hm 6) (mp 6)), (6, Instr.testExit (hm 6) (mp 6))] ∧ fld (mp 6) 0 1 = 6 ∧ (wtr.m.mode.transit = true ∨ blowing wtr.m = true)) ∧
    (Taken wstart.m (modeMsg (mp 1)) (hm 1) (mp 1) ∧ wstart.m.mode.transit = false ∧ blowing wstart.m = false ∧ fld (mp 1) 0 1 = 1 ∧ wstart.m.mode.st = Mode.bare ∧ wstart.m.mode.verified = true ∧ wstart.m.load.candidate = some (rec 256 [])) ∧
    (Taken svm.m (modeMsg (mp 1)) (hm 1) (mp 1) ∧ svm.m.mode.transit = false ∧ blowing svm.m = false ∧ fld (mp 1) 0 1 = 1 ∧ (svm.m.mode.st ≠ Mode.bare ∨ svm.m.mode.verified = false)) ∧
    (Taken svm.m (modeMsg (mp 3)) (hm 3) (mp 3) ∧ svm.m.mode.transit = false ∧ blowing svm.m = false ∧ fld (mp 3) 0 1 = 3 ∧ unitsRun svm.m = true) ∧
    (Taken (st bareM).m (modeMsg (mp 3)) (hm 3) (mp 3) ∧ (st bareM).m.mode.transit = false ∧ blowing (st bareM).m = false ∧ fld (mp 3) 0 1 = 3 ∧ unitsRun (st bareM).m = false) ∧
    (Taken k5.m (modeMsg (mp 4)) (hm 4) (mp 4) ∧ k5.m.mode.transit = false ∧ blowing k5.m = false ∧ fld (mp 4) 0 1 = 4 ∧ k5.m.mode.st = Mode.hold) ∧
    (Taken svm.m (modeMsg (mp 4)) (hm 4) (mp 4) ∧ svm.m.mode.transit = false ∧ blowing svm.m = false ∧ fld (mp 4) 0 1 = 4 ∧ svm.m.mode.st ≠ Mode.hold) ∧
    (Taken wte.m (modeMsg (mp 5)) (hm 5) (mp 5) ∧ wte.m.mode.transit = false ∧ blowing wte.m = false ∧ fld (mp 5) 0 1 = 5 ∧ wte.m.mode.st = Mode.bare ∧ wte.m.mode.testAllowed = true) ∧
    (Taken k6.m (modeMsg (mp 5)) (hm 5) (mp 5) ∧ k6.m.mode.transit = false ∧ blowing k6.m = false ∧ fld (mp 5) 0 1 = 5 ∧ k6.m.mode.st = Mode.bare ∧ k6.m.mode.testAllowed = false) ∧
    (Taken svm.m (modeMsg (mp 5)) (hm 5) (mp 5) ∧ svm.m.mode.transit = false ∧ blowing svm.m = false ∧ fld (mp 5) 0 1 = 5 ∧ svm.m.mode.st ≠ Mode.bare) ∧
    (Taken k7.m (modeMsg (mp 6)) (hm 6) (mp 6) ∧ k7.m.mode.transit = false ∧ blowing k7.m = false ∧ fld (mp 6) 0 1 = 6 ∧ k7.m.mode.st = Mode.test) ∧
    (Taken svm.m (modeMsg (mp 6)) (hm 6) (mp 6) ∧ svm.m.mode.transit = false ∧ blowing svm.m = false ∧ fld (mp 6) 0 1 = 6 ∧ svm.m.mode.st ≠ Mode.test) ∧
    (Taken wtr.m (resetMsg (mp 2)) (hm 2) (mp 2) ∧ fld (mp 2) 0 1 = 2 ∧ blowing wtr.m = false) ∧
    (Taken wbl.m (resetMsg (mp 2)) (hm 2) (mp 2) ∧ fld (mp 2) 0 1 = 2 ∧ blowing wbl.m = true) :=
  ⟨by delta Taken; decide +kernel,
    by delta Taken; decide +kernel,
    by delta Taken; decide +kernel,
    by delta Taken; decide +kernel,
    by delta Taken; decide +kernel,
    by delta Taken; decide +kernel,
    by delta Taken; decide +kernel,
    by delta Taken; decide +kernel,
    by delta Taken; decide +kernel,
    by delta Taken; decide +kernel,
    by delta Taken; decide +kernel,
    by delta Taken; decide +kernel,
    by delta Taken; decide +kernel,
    by delta Taken; decide +kernel,
    by delta Taken; decide +kernel,
    by delta Taken; decide +kernel,
    by delta Taken; decide +kernel,
    by delta Taken; decide +kernel,
    by delta Taken; decide +kernel,
    by delta Taken; decide +kernel⟩

theorem witness_Modes_Transitions :
    (unitsRun whe.m = true ∧ whe.m.mode.holdStart.isSome = true ∧ chansDrained whe.m = true ∧ targetOpen whe.m = false ∧ (∀ k < 10, (workUnit whe.m 0 k).run = none ∧ (workUnit whe.m 1 k).run = none) ∧ minUnmet (holdEntered whe.m) ≠ 0) ∧
    (unitsRun (st (live whe.m)).m = true ∧ (st (live whe.m)).m.mode.holdStart.isSome = true ∧ chansDrained (st (live whe.m)).m = true ∧ targetOpen (st (live whe.m)).m = false ∧ (∀ k < 10, (workUnit (st (live whe.m)).m 0 k).run = none ∧ (workUnit (st (live whe.m)).m 1 k).run = none) ∧ minUnmet (holdEntered (st (live whe.m)).m) = 0) ∧
    (whx.m.mode.st = Mode.hold ∧ whx.m.mode.transit = true ∧ whx.m.mode.deferred = [] ∧ minUnmet (holdExited whx.m) ≠ 0) ∧
    ((st (live whx.m)).m.mode.st = Mode.hold ∧ (st (live whx.m)).m.mode.transit = true ∧ (st (live whx.m)).m.mode.deferred = [] ∧ minUnmet (holdExited (st (live whx.m)).m) = 0) ∧
    (k8.m.mode.st = Mode.training ∧ (allTrained k8.m k9 = true ∨ k8.m.mode.entered + 10000000000 ≤ k8.m.now) ∧ startUnmet (trainedUnits k8.m k9) (recsOf (imageRecords (k8.m.load.candidate.getD []))) ≠ 0) ∧
    (k10.m.mode.st = Mode.rework ∧ k10.m.mode.holdStart = none ∧ k10.m.load.st = LState.idle ∧ k10.m.mode.found = [] ∧ (∀ p ∈ k10.m.mode.recoveries, p.2 = true)) :=
  ⟨by decide +kernel,
    by decide +kernel,
    by decide +kernel,
    by decide +kernel,
    by decide +kernel,
    by decide +kernel⟩

end G

namespace H

def sm := svcM mach
def helloP (a : Nat) : Bytes := rec 32 [(0, 1), (2, a), (3, 1), (24, 0xFF)]
def sopen := { sm with svc := { sm.svc with owner := none } }
def so (f : List (Nat × Nat)) : Bytes := rec 16 f
def rivalW : State := { st { sopen with svc := { sopen.svc with agreed := [(0, (1, 1, 15)), (2, (1, 1, 15))] } } with pending := [.sessionOpen (hd 2 (so [])) (so [])] }
def hr : SvcHdr := { hd 2 (so []) with port := .sp1 }
def so1 : Bytes := so [(4, 1), (8, 77)]
def smt := { sm with svc := { sm.svc with owner := some .i3c0, token := some (77, 9000000000) } }
def opl := { sopen with links := [(0, { LinkSt.reset with st := .up })], evt := { sopen.evt with masters := vmap (fun x => { x with running := true }) sopen.evt.masters } }
def reg (a : Nat) (v : Nat) : Bytes := le 8 a ++ le 8 v
def rd0 : Bytes := le 8 (regAddr 0 0 0x808)
def rwOk : Bytes := reg (regAddr 0 0 0x808) 7
def rwBad : Bytes := reg (regAddr 0 0 0xFFFF8) 7
def m1r := (match readCheck (ownerHeard sm .sp0) .service (fld rd0 0 8) 8 with | .ok (_, m) => m | .error _ => mach)
def v1r := (match readCheck (ownerHeard sm .sp0) .service (fld rd0 0 8) 8 with | .ok (v, _) => v | .error _ => 0)
def m1w := (match writeCheck (ownerHeard sm .sp0) .service (fld rwOk 0 8) 8 7 with | .ok m => m | .error _ => mach)
def rBad := (match writeCheck (ownerHeard sm .sp0) .service (fld rwBad 0 8) 8 7 with | .ok _ => 0 | .error r => r)
def tw : Bytes := rec 44 [(0, 1), (1, 1), (8, 1), (12, 5)]
def tr : Bytes := rec 12 [(0, 0), (1, 1), (8, 1)]
def dp : Bytes := le 4 1 ++ le 2 2
def note : Notify := { seq := 5, content := 1, body := [1], sentAt := 0, sends := 1 }
def sn := { sm with notes := [note] }
def ap : BitVec 52 := BitVec.ofNat 52 (regAddr 0 0 0x808)
def ab : BitVec 52 := BitVec.ofNat 52 (regAddr 0 0 0xFFFF8)
def mw2 := (match writeCheck mach .service ap.toNat 8 7 with | .ok m => m | .error _ => mach)
def rw2 := (match writeCheck mach .service ab.toNat 8 7 with | .ok _ => 0 | .error r => r)
def er : ErrRec := { sev := 0, cause := 1, src := 2, det := 3, stamp := 4, index := 5, mode := 3, lease := none, addr := none, suppressed := 0, detail := [], tag := [], interruption := 0 }
def mr2 := (match readCheck mach .service ap.toNat 8 with | .ok (_, m) => m | .error _ => mach)
def vr2 := (match readCheck mach .service ap.toNat 8 with | .ok (v, _) => v | .error _ => 0)
def wcu := st { mach with units := tset units (ukey 9 0) { UnitSt.reset with st := .offline } }
def ip (off : Nat) : Bytes := [1, 0, 0, 0] ++ le 4 off ++ [9, 8, 7]
def sst := { sm with load := { sm.load with st := .staging, stage := [1, 2], target := 1 } }
def sver := { sm with load := { sm.load with st := .verifying, target := 1, image := rec 4 [] } }
def rj : Option Rej := verifyImage (st sver).fuse sver sver.load.image sver.load.expect
def sver2 := { sm with load := { sm.load with st := .verifying, target := 2, image := rec 4 [] } }
def cj := (match bundleHold (st sver2).fuse sver2 sver2.load.image false with | .ok _ => 0 | .error c => c)
def wrs := st { mach with resets := [(ukey 9 0, .offline)], units := tset units (ukey 9 0) { UnitSt.reset with st := .starting } }
def fuM (st_ : Mode) := { bareM with mode := { ModeSt.reset with st := st_ } }
def fp : Bytes := rec 8 [(0, 1)]
def fpb : Bytes := rec 8 [(0, 2)]
def fuB := { fuM .bare with svc := { (fuM .bare).svc with running := [{ port := .sp1, seq := 6, type := 0x71, status := 0, body := [], till := 10 ^ 13, blow := true }] } }
def flE := { sm with flash := [(0, { FlashSt.reset with present := true, size := 0x2000000 })] }
def frp : Bytes := rec 16 [(8, 4)]
def fwp : Bytes := rec 16 [(8, 4)] ++ [1, 2, 3, 4]
def fep : Bytes := rec 16 [(8, 1)]
def frp2 : Bytes := rec 16 [(8, 4), (7, 255)]

def k1 : State := st { sm with svc := { sm.svc with token := some (5, 100) } }
def k2 : State := st { sm with mode := { sm.mode with dump := [1, 2, 3] } }
def k3 : State := st { mach with errs := { mach.errs with retained := [er] } }
def k4 : State := st { mach with mode := { mach.mode with st := .loading } }
def k5 : State := st { bareM with svc := { bareM.svc with armed := some (1, 2, 0) }, now := 5000000001 }

theorem witness_Session :
    (Taken (st sm).m { code := 1, new := false, rom := true, stop := true, owned := false, lenOk := List.length (helloP 1) == 32 } (hdr 1 (0#8) (0#8) (helloP 1)) (helloP 1) ∧ helloVersion (helloP 1) = some (1, 1)) ∧
    (Taken (st sm).m { code := 1, new := false, rom := true, stop := true, owned := false, lenOk := List.length (helloP 7) == 32 } (hdr 1 (0#8) (0#8) (helloP 7)) (helloP 7) ∧ helloVersion (helloP 7) = none) ∧
    (Taken (st sopen).m (openMsg (so [(1, 1)])) (hd 2 (so [(1, 1)])) (so [(1, 1)]) ∧ openMsOk (so [(1, 1)]) = false) ∧
    (Taken (st sopen).m (openMsg (so [(1, 8)])) (hd 2 (so [(1, 8)])) (so [(1, 8)]) ∧ openMsOk (so [(1, 8)]) = true ∧ (st sopen).m.svc.owner = none ∧ (st sopen).pending.any (rival (st sopen).m (hd 2 (so [(1, 8)])).port) = false) ∧
    (Taken rivalW.m (openMsg (so [])) hr (so []) ∧ openMsOk (so []) = true ∧ rivalW.m.svc.owner = none ∧ rivalW.pending.any (rival rivalW.m hr.port) = true) ∧
    (Taken (st smt).m (openMsg (so [])) (hd 2 (so [])) (so []) ∧ openMsOk (so []) = true ∧ (st smt).m.svc.owner ≠ none ∧ bit (fld (so []) 4 4) 0 = false) ∧
    (Taken (st smt).m (openMsg so1) (hd 2 so1) so1 ∧ openMsOk so1 = true ∧ (st smt).m.svc.owner ≠ none ∧ bit (fld so1 4 4) 0 = true ∧ tokenGood (st smt).m (fld so1 8 8) = true) ∧
    (Taken (st smt).m (openMsg (so [(4, 1)])) (hd 2 (so [(4, 1)])) (so [(4, 1)]) ∧ openMsOk (so [(4, 1)]) = true ∧ (st smt).m.svc.owner ≠ none ∧ bit (fld (so [(4, 1)]) 4 4) 0 = true ∧ tokenGood (st smt).m (fld (so [(4, 1)]) 8 8) = false) ∧
    (Taken (st sm).m (bareMsg 3 []) (hd 3 []) []) ∧
    (Taken (st sm).m (bareMsg 4 []) (hd 4 []) []) ∧
    (Taken (st sm).m ({ ownMsg 5 ((List.nil : Bytes).length == 0) with new := true }) (hd 5 []) []) ∧
    ((st sm).m.svc.owner = some Port.sp0 ∧ (st sm).m.svc.lastMsg + (st sm).m.svc.keepalive * 1000000 ≤ (st sm).m.now) ∧
    (k1.m.svc.token = some (5#64, 100) ∧ 100 < k1.m.now) :=
  ⟨by delta Taken; decide +kernel,
    by delta Taken; decide +kernel,
    by delta Taken; decide +kernel,
    by delta Taken; decide +kernel,
    by delta Taken; decide +kernel,
    by delta Taken; decide +kernel,
    by delta Taken; decide +kernel,
    by delta Taken; decide +kernel,
    by delta Taken; decide +kernel,
    by delta Taken; decide +kernel,
    by delta Taken; decide +kernel,
    by decide +kernel,
    by decide +kernel⟩

theorem witness_Session_OnlyTheOwner :
    (portServes (st opl).m (hd 112 (rec 8 [])).port = true ∧ svcIntact (hd 112 (rec 8 [])) (rec 8 []) = true ∧ (st opl).m.svc.kept = [] ∧ (st opl).m.svc.running = [] ∧ portAgreed (st opl).m (hd 112 (rec 8 [])).port = some (1, 1, 15) ∧ BitVec.toNat (hd 112 (rec 8 [])).major = (1, 1, 15).1 ∧ BitVec.toNat (hd 112 (rec 8 [])).minor = (1, 1, 15).2.1 ∧ (st opl).m.svc.rom = false ∧ (st opl).m.svc.owner ≠ some (hd 112 (rec 8 [])).port ∧ minUnmet (st opl).m = 0 ∧ (ownMsg 112 true, Instr.fuseArm (hd 112 (rec 8 [])) (rec 8 [])) ∈ [(bareMsg 3 (rec 8 []), Instr.sessionClose (hd 112 (rec 8 [])) (rec 8 [])), (bareMsg 4 (rec 8 []), Instr.keepalive (hd 112 (rec 8 [])) (rec 8 [])), ({ ownMsg 5 (List.length (rec 8 []) == 0) with new := true }, Instr.handoverPrepare (hd 112 (rec 8 [])) (rec 8 [])), ({ ownMsg 16 (List.length (rec 8 []) == 8) with stop := true }, Instr.regRead (hd 112 (rec 8 [])) (rec 8 [])), (ownMsg 17 (List.length (rec 8 []) == 16), Instr.regWrite (hd 112 (rec 8 [])) (rec 8 [])), ({ ownMsg 18 (tagLenOk (rec 8 [])) with new := true }, Instr.tagBulk (hd 112 (rec 8 [])) (rec 8 [])), (modeMsg (rec 8 []), Instr.start (hd 112 (rec 8 [])) (rec 8 [])), (modeMsg (rec 8 []), Instr.holdEnter (hd 112 (rec 8 [])) (rec 8 [])), (modeMsg (rec 8 []), Instr.holdExit (hd 112 (rec 8 [])) (rec 8 [])), (modeMsg (rec 8 []), Instr.testEnter (hd 112 (rec 8 [])) (rec 8 [])), (modeMsg (rec 8 []), Instr.testExit (hd 112 (rec 8 [])) (rec 8 [])), (resetMsg (rec 8 []), Instr.moduleReset (hd 112 (rec 8 [])) (rec 8 [])), ({ ownMsg 48 (decide (9 ≤ List.length (rec 8 []))) with rom := true }, Instr.imagePut (hd 112 (rec 8 [])) (rec 8 [])), (ownMsg 49 (List.length (rec 8 []) == 4), Instr.imageLoad (hd 112 (rec 8 [])) (rec 8 [])), (flashMsg 64 (List.length (rec 8 []) == 16), Instr.flashRead (hd 112 (rec 8 [])) (rec 8 [])), (flashMsg 65 (decide (16 ≤ List.length (rec 8 [])) && List.length (rec 8 []) == 16 + fld (rec 8 []) 8 2), Instr.flashWrite (hd 112 (rec 8 [])) (rec 8 [])), (flashMsg 66 (List.length (rec 8 []) == 16), Instr.flashErase (hd 112 (rec 8 [])) (rec 8 []) none), ({ ownMsg 80 (List.length (rec 8 []) == 6) with stop := true }, Instr.dumpRead (hd 112 (rec 8 [])) (rec 8 [])), (ownMsg 112 (List.length (rec 8 []) == 8), Instr.fuseArm (hd 112 (rec 8 [])) (rec 8 [])), (confirmMsg (rec 8 []), Instr.fuseConfirm (hd 112 (rec 8 [])) (rec 8 []))] ∧ (hd 112 (rec 8 [])).type.toNat = (ownMsg 112 true).code ∧ ((ownMsg 112 true).new = true → (1, 1, 15).2.1 ≠ 0) ∧ (ownMsg 112 true).lenOk = true) ∧
    (portServes (st opl).m (hd 17 (rec 16 [])).port = true ∧ svcIntact (hd 17 (rec 16 [])) (rec 16 []) = true ∧ (st opl).m.svc.kept = [] ∧ (st opl).m.svc.running = [] ∧ portAgreed (st opl).m (hd 17 (rec 16 [])).port = some (1, 1, 15) ∧ BitVec.toNat (hd 17 (rec 16 [])).major = (1, 1, 15).1 ∧ BitVec.toNat (hd 17 (rec 16 [])).minor = (1, 1, 15).2.1 ∧ (st opl).m.svc.rom = false ∧ (st opl).m.svc.owner ≠ some (hd 17 (rec 16 [])).port ∧ minUnmet (st opl).m = 0 ∧ (ownMsg 17 true, Instr.regWrite (hd 17 (rec 16 [])) (rec 16 [])) ∈ [(bareMsg 3 (rec 16 []), Instr.sessionClose (hd 17 (rec 16 [])) (rec 16 [])), (bareMsg 4 (rec 16 []), Instr.keepalive (hd 17 (rec 16 [])) (rec 16 [])), ({ ownMsg 5 (List.length (rec 16 []) == 0) with new := true }, Instr.handoverPrepare (hd 17 (rec 16 [])) (rec 16 [])), ({ ownMsg 16 (List.length (rec 16 []) == 8) with stop := true }, Instr.regRead (hd 17 (rec 16 [])) (rec 16 [])), (ownMsg 17 (List.length (rec 16 []) == 16), Instr.regWrite (hd 17 (rec 16 [])) (rec 16 [])), ({ ownMsg 18 (tagLenOk (rec 16 [])) with new := true }, Instr.tagBulk (hd 17 (rec 16 [])) (rec 16 [])), (modeMsg (rec 16 []), Instr.start (hd 17 (rec 16 [])) (rec 16 [])), (modeMsg (rec 16 []), Instr.holdEnter (hd 17 (rec 16 [])) (rec 16 [])), (modeMsg (rec 16 []), Instr.holdExit (hd 17 (rec 16 [])) (rec 16 [])), (modeMsg (rec 16 []), Instr.testEnter (hd 17 (rec 16 [])) (rec 16 [])), (modeMsg (rec 16 []), Instr.testExit (hd 17 (rec 16 [])) (rec 16 [])), (resetMsg (rec 16 []), Instr.moduleReset (hd 17 (rec 16 [])) (rec 16 [])), ({ ownMsg 48 (decide (9 ≤ List.length (rec 16 []))) with rom := true }, Instr.imagePut (hd 17 (rec 16 [])) (rec 16 [])), (ownMsg 49 (List.length (rec 16 []) == 4), Instr.imageLoad (hd 17 (rec 16 [])) (rec 16 [])), (flashMsg 64 (List.length (rec 16 []) == 16), Instr.flashRead (hd 17 (rec 16 [])) (rec 16 [])), (flashMsg 65 (decide (16 ≤ List.length (rec 16 [])) && List.length (rec 16 []) == 16 + fld (rec 16 []) 8 2), Instr.flashWrite (hd 17 (rec 16 [])) (rec 16 [])), (flashMsg 66 (List.length (rec 16 []) == 16), Instr.flashErase (hd 17 (rec 16 [])) (rec 16 []) none), ({ ownMsg 80 (List.length (rec 16 []) == 6) with stop := true }, Instr.dumpRead (hd 17 (rec 16 [])) (rec 16 [])), (ownMsg 112 (List.length (rec 16 []) == 8), Instr.fuseArm (hd 17 (rec 16 [])) (rec 16 [])), (confirmMsg (rec 16 []), Instr.fuseConfirm (hd 17 (rec 16 [])) (rec 16 []))] ∧ (hd 17 (rec 16 [])).type.toNat = (ownMsg 17 true).code ∧ ((ownMsg 17 true).new = true → (1, 1, 15).2.1 ≠ 0) ∧ (ownMsg 17 true).lenOk = true) ∧
    (portServes (st opl).m (hd 113 (rec 8 [])).port = true ∧ svcIntact (hd 113 (rec 8 [])) (rec 8 []) = true ∧ (st opl).m.svc.kept = [] ∧ (st opl).m.svc.running = [] ∧ portAgreed (st opl).m (hd 113 (rec 8 [])).port = some (1, 1, 15) ∧ BitVec.toNat (hd 113 (rec 8 [])).major = (1, 1, 15).1 ∧ BitVec.toNat (hd 113 (rec 8 [])).minor = (1, 1, 15).2.1 ∧ (st opl).m.svc.rom = false ∧ (st opl).m.svc.owner ≠ some (hd 113 (rec 8 [])).port ∧ minUnmet (st opl).m = 0 ∧ (confirmMsg (rec 8 []), Instr.fuseConfirm (hd 113 (rec 8 [])) (rec 8 [])) ∈ [(bareMsg 3 (rec 8 []), Instr.sessionClose (hd 113 (rec 8 [])) (rec 8 [])), (bareMsg 4 (rec 8 []), Instr.keepalive (hd 113 (rec 8 [])) (rec 8 [])), ({ ownMsg 5 (List.length (rec 8 []) == 0) with new := true }, Instr.handoverPrepare (hd 113 (rec 8 [])) (rec 8 [])), ({ ownMsg 16 (List.length (rec 8 []) == 8) with stop := true }, Instr.regRead (hd 113 (rec 8 [])) (rec 8 [])), (ownMsg 17 (List.length (rec 8 []) == 16), Instr.regWrite (hd 113 (rec 8 [])) (rec 8 [])), ({ ownMsg 18 (tagLenOk (rec 8 [])) with new := true }, Instr.tagBulk (hd 113 (rec 8 [])) (rec 8 [])), (modeMsg (rec 8 []), Instr.start (hd 113 (rec 8 [])) (rec 8 [])), (modeMsg (rec 8 []), Instr.holdEnter (hd 113 (rec 8 [])) (rec 8 [])), (modeMsg (rec 8 []), Instr.holdExit (hd 113 (rec 8 [])) (rec 8 [])), (modeMsg (rec 8 []), Instr.testEnter (hd 113 (rec 8 [])) (rec 8 [])), (modeMsg (rec 8 []), Instr.testExit (hd 113 (rec 8 [])) (rec 8 [])), (resetMsg (rec 8 []), Instr.moduleReset (hd 113 (rec 8 [])) (rec 8 [])), ({ ownMsg 48 (decide (9 ≤ List.length (rec 8 []))) with rom := true }, Instr.imagePut (hd 113 (rec 8 [])) (rec 8 [])), (ownMsg 49 (List.length (rec 8 []) == 4), Instr.imageLoad (hd 113 (rec 8 [])) (rec 8 [])), (flashMsg 64 (List.length (rec 8 []) == 16), Instr.flashRead (hd 113 (rec 8 [])) (rec 8 [])), (flashMsg 65 (decide (16 ≤ List.length (rec 8 [])) && List.length (rec 8 []) == 16 + fld (rec 8 []) 8 2), Instr.flashWrite (hd 113 (rec 8 [])) (rec 8 [])), (flashMsg 66 (List.length (rec 8 []) == 16), Instr.flashErase (hd 113 (rec 8 [])) (rec 8 []) none), ({ ownMsg 80 (List.length (rec 8 []) == 6) with stop := true }, Instr.dumpRead (hd 113 (rec 8 [])) (rec 8 [])), (ownMsg 112 (List.length (rec 8 []) == 8), Instr.fuseArm (hd 113 (rec 8 [])) (rec 8 [])), (confirmMsg (rec 8 []), Instr.fuseConfirm (hd 113 (rec 8 [])) (rec 8 []))] ∧ (hd 113 (rec 8 [])).type.toNat = (confirmMsg (rec 8 [])).code ∧ ((confirmMsg (rec 8 [])).new = true → (1, 1, 15).2.1 ≠ 0) ∧ (confirmMsg (rec 8 [])).lenOk = true) ∧
    (portServes (st opl).m (hd 32 (rec 8 [(0, 2)])).port = true ∧ svcIntact (hd 32 (rec 8 [(0, 2)])) (rec 8 [(0, 2)]) = true ∧ (st opl).m.svc.kept = [] ∧ (st opl).m.svc.running = [] ∧ portAgreed (st opl).m (hd 32 (rec 8 [(0, 2)])).port = some (1, 1, 15) ∧ BitVec.toNat (hd 32 (rec 8 [(0, 2)])).major = (1, 1, 15).1 ∧ BitVec.toNat (hd 32 (rec 8 [(0, 2)])).minor = (1, 1, 15).2.1 ∧ (st opl).m.svc.rom = false ∧ (st opl).m.svc.owner ≠ some (hd 32 (rec 8 [(0, 2)])).port ∧ minUnmet (st opl).m = 0 ∧ (resetMsg (rec 8 [(0, 2)]), Instr.moduleReset (hd 32 (rec 8 [(0, 2)])) (rec 8 [(0, 2)])) ∈ [(bareMsg 3 (rec 8 [(0, 2)]), Instr.sessionClose (hd 32 (rec 8 [(0, 2)])) (rec 8 [(0, 2)])), (bareMsg 4 (rec 8 [(0, 2)]), Instr.keepalive (hd 32 (rec 8 [(0, 2)])) (rec 8 [(0, 2)])), ({ ownMsg 5 (List.length (rec 8 [(0, 2)]) == 0) with new := true }, Instr.handoverPrepare (hd 32 (rec 8 [(0, 2)])) (rec 8 [(0, 2)])), ({ ownMsg 16 (List.length (rec 8 [(0, 2)]) == 8) with stop := true }, Instr.regRead (hd 32 (rec 8 [(0, 2)])) (rec 8 [(0, 2)])), (ownMsg 17 (List.length (rec 8 [(0, 2)]) == 16), Instr.regWrite (hd 32 (rec 8 [(0, 2)])) (rec 8 [(0, 2)])), ({ ownMsg 18 (tagLenOk (rec 8 [(0, 2)])) with new := true }, Instr.tagBulk (hd 32 (rec 8 [(0, 2)])) (rec 8 [(0, 2)])), (modeMsg (rec 8 [(0, 2)]), Instr.start (hd 32 (rec 8 [(0, 2)])) (rec 8 [(0, 2)])), (modeMsg (rec 8 [(0, 2)]), Instr.holdEnter (hd 32 (rec 8 [(0, 2)])) (rec 8 [(0, 2)])), (modeMsg (rec 8 [(0, 2)]), Instr.holdExit (hd 32 (rec 8 [(0, 2)])) (rec 8 [(0, 2)])), (modeMsg (rec 8 [(0, 2)]), Instr.testEnter (hd 32 (rec 8 [(0, 2)])) (rec 8 [(0, 2)])), (modeMsg (rec 8 [(0, 2)]), Instr.testExit (hd 32 (rec 8 [(0, 2)])) (rec 8 [(0, 2)])), (resetMsg (rec 8 [(0, 2)]), Instr.moduleReset (hd 32 (rec 8 [(0, 2)])) (rec 8 [(0, 2)])), ({ ownMsg 48 (decide (9 ≤ List.length (rec 8 [(0, 2)]))) with rom := true }, Instr.imagePut (hd 32 (rec 8 [(0, 2)])) (rec 8 [(0, 2)])), (ownMsg 49 (List.length (rec 8 [(0, 2)]) == 4), Instr.imageLoad (hd 32 (rec 8 [(0, 2)])) (rec 8 [(0, 2)])), (flashMsg 64 (List.length (rec 8 [(0, 2)]) == 16), Instr.flashRead (hd 32 (rec 8 [(0, 2)])) (rec 8 [(0, 2)])), (flashMsg 65 (decide (16 ≤ List.length (rec 8 [(0, 2)])) && List.length (rec 8 [(0, 2)]) == 16 + fld (rec 8 [(0, 2)]) 8 2), Instr.flashWrite (hd 32 (rec 8 [(0, 2)])) (rec 8 [(0, 2)])), (flashMsg 66 (List.length (rec 8 [(0, 2)]) == 16), Instr.flashErase (hd 32 (rec 8 [(0, 2)])) (rec 8 [(0, 2)]) none), ({ ownMsg 80 (List.length (rec 8 [(0, 2)]) == 6) with stop := true }, Instr.dumpRead (hd 32 (rec 8 [(0, 2)])) (rec 8 [(0, 2)])), (ownMsg 112 (List.length (rec 8 [(0, 2)]) == 8), Instr.fuseArm (hd 32 (rec 8 [(0, 2)])) (rec 8 [(0, 2)])), (confirmMsg (rec 8 [(0, 2)]), Instr.fuseConfirm (hd 32 (rec 8 [(0, 2)])) (rec 8 [(0, 2)]))] ∧ (hd 32 (rec 8 [(0, 2)])).type.toNat = (resetMsg (rec 8 [(0, 2)])).code ∧ ((resetMsg (rec 8 [(0, 2)])).new = true → (1, 1, 15).2.1 ≠ 0) ∧ (resetMsg (rec 8 [(0, 2)])).lenOk = true) ∧
    (portServes (st opl).m (hd 66 (rec 16 [])).port = true ∧ svcIntact (hd 66 (rec 16 [])) (rec 16 []) = true ∧ (st opl).m.svc.kept = [] ∧ (st opl).m.svc.running = [] ∧ portAgreed (st opl).m (hd 66 (rec 16 [])).port = some (1, 1, 15) ∧ BitVec.toNat (hd 66 (rec 16 [])).major = (1, 1, 15).1 ∧ BitVec.toNat (hd 66 (rec 16 [])).minor = (1, 1, 15).2.1 ∧ (st opl).m.svc.rom = false ∧ (st opl).m.svc.owner ≠ some (hd 66 (rec 16 [])).port ∧ minUnmet (st opl).m = 0 ∧ (flashMsg 66 true, Instr.flashErase (hd 66 (rec 16 [])) (rec 16 []) none) ∈ [(bareMsg 3 (rec 16 []), Instr.sessionClose (hd 66 (rec 16 [])) (rec 16 [])), (bareMsg 4 (rec 16 []), Instr.keepalive (hd 66 (rec 16 [])) (rec 16 [])), ({ ownMsg 5 (List.length (rec 16 []) == 0) with new := true }, Instr.handoverPrepare (hd 66 (rec 16 [])) (rec 16 [])), ({ ownMsg 16 (List.length (rec 16 []) == 8) with stop := true }, Instr.regRead (hd 66 (rec 16 [])) (rec 16 [])), (ownMsg 17 (List.length (rec 16 []) == 16), Instr.regWrite (hd 66 (rec 16 [])) (rec 16 [])), ({ ownMsg 18 (tagLenOk (rec 16 [])) with new := true }, Instr.tagBulk (hd 66 (rec 16 [])) (rec 16 [])), (modeMsg (rec 16 []), Instr.start (hd 66 (rec 16 [])) (rec 16 [])), (modeMsg (rec 16 []), Instr.holdEnter (hd 66 (rec 16 [])) (rec 16 [])), (modeMsg (rec 16 []), Instr.holdExit (hd 66 (rec 16 [])) (rec 16 [])), (modeMsg (rec 16 []), Instr.testEnter (hd 66 (rec 16 [])) (rec 16 [])), (modeMsg (rec 16 []), Instr.testExit (hd 66 (rec 16 [])) (rec 16 [])), (resetMsg (rec 16 []), Instr.moduleReset (hd 66 (rec 16 [])) (rec 16 [])), ({ ownMsg 48 (decide (9 ≤ List.length (rec 16 []))) with rom := true }, Instr.imagePut (hd 66 (rec 16 [])) (rec 16 [])), (ownMsg 49 (List.length (rec 16 []) == 4), Instr.imageLoad (hd 66 (rec 16 [])) (rec 16 [])), (flashMsg 64 (List.length (rec 16 []) == 16), Instr.flashRead (hd 66 (rec 16 [])) (rec 16 [])), (flashMsg 65 (decide (16 ≤ List.length (rec 16 [])) && List.length (rec 16 []) == 16 + fld (rec 16 []) 8 2), Instr.flashWrite (hd 66 (rec 16 [])) (rec 16 [])), (flashMsg 66 (List.length (rec 16 []) == 16), Instr.flashErase (hd 66 (rec 16 [])) (rec 16 []) none), ({ ownMsg 80 (List.length (rec 16 []) == 6) with stop := true }, Instr.dumpRead (hd 66 (rec 16 [])) (rec 16 [])), (ownMsg 112 (List.length (rec 16 []) == 8), Instr.fuseArm (hd 66 (rec 16 [])) (rec 16 [])), (confirmMsg (rec 16 []), Instr.fuseConfirm (hd 66 (rec 16 [])) (rec 16 []))] ∧ (hd 66 (rec 16 [])).type.toNat = (flashMsg 66 true).code ∧ ((flashMsg 66 true).new = true → (1, 1, 15).2.1 ≠ 0) ∧ (flashMsg 66 true).lenOk = true) :=
  ⟨by decide +kernel,
    by decide +kernel,
    by decide +kernel,
    by decide +kernel,
    by decide +kernel⟩

theorem witness_RegisterMessages :
    (Taken (st sm).m ({ ownMsg 16 (List.length rd0 == 8) with stop := true }) (hd 16 rd0) rd0 ∧ alive (st sm).m = true ∧ inControl (fld rd0 0 8) = true ∧ readCheck (ownerHeard (st sm).m (hd 16 rd0).port) Actor.service (fld rd0 0 8) 8 = Except.ok (v1r, m1r)) ∧
    (Taken (st sm).m (ownMsg 17 (List.length rwOk == 16)) (hd 17 rwOk) rwOk ∧ inControl (fld rwOk 0 8) = true ∧ writeCheck (ownerHeard (st sm).m (hd 17 rwOk).port) Actor.service (fld rwOk 0 8) 8 (BitVec.ofNat 64 (fld rwOk 8 8)) = Except.ok m1w ∧ m1w.svc = (ownerHeard (st sm).m (hd 17 rwOk).port).svc) ∧
    (Taken (st sm).m (ownMsg 17 (List.length rwBad == 16)) (hd 17 rwBad) rwBad ∧ inControl (fld rwBad 0 8) = true ∧ writeCheck (ownerHeard (st sm).m (hd 17 rwBad).port) Actor.service (fld rwBad 0 8) 8 (BitVec.ofNat 64 (fld rwBad 8 8)) = Except.error rBad) ∧
    (Taken (st sm).m ({ ownMsg 18 (tagLenOk tw) with new := true }) (hd 18 tw) tw ∧ fld tw 1 1 = 1 ∧ fld tw 0 1 = 1 ∧ tagUnit (bslice tw 8 36) = some (1, 0)) ∧
    (Taken (st sm).m ({ ownMsg 18 (tagLenOk tr) with new := true }) (hd 18 tr) tr ∧ fld tr 1 1 = 1 ∧ fld tr 0 1 = 0 ∧ tagUnit (bslice tr 8 4) = some (1, 0)) ∧
    (Taken k2.m ({ ownMsg 80 (List.length dp == 6) with stop := true }) (hd 80 dp) dp ∧ fld dp 0 4 = 1 ∧ fld dp 4 2 = 2 ∧ 1 ≤ 2 ∧ 2 ≤ 1008 ∧ 1 < List.length k2.m.mode.dump) :=
  ⟨by delta Taken; decide +kernel,
    by delta Taken; decide +kernel,
    by delta Taken; decide +kernel,
    by delta Taken; decide +kernel,
    by delta Taken; decide +kernel,
    by delta Taken; decide +kernel⟩

theorem witness_RegisterMessages_Notifications :
    (answerFits (st sn).m (hd 96 []) [] = true) ∧
    ((st sn).m.notes = [note] ∧ resendDue (st sn).m note = true ∧ note.seq ≠ 0) :=
  ⟨by decide +kernel,
    by decide +kernel⟩

theorem witness_RegisterCommands :
    (alive w.m = true ∧ writeCheck w.m Actor.service ap.toNat 8 7#64 = Except.ok mw2) ∧
    (alive w.m = true ∧ writeCheck w.m Actor.service ab.toNat 8 7#64 = Except.error rw2) ∧
    (alive w.m = true ∧ privileged Actor.service = true ∧ ap.toNat = regAddr 0 0 2056) ∧
    (alive k3.m = true ∧ privileged Actor.service = true ∧ errFind k3.m (5#64).toNat = some er) ∧
    (alive w.m = true ∧ readCheck w.m Actor.service ap.toNat 8 = Except.ok (vr2, mr2)) ∧
    (alive k4.m = true ∧ privileged Actor.service = true ∧ (0#12).toNat < kindCount 9 ∧ unitHasRole k4.m 9 (0#12).toNat = true ∧ (9 = 14 → Actor.service = Actor.service) ∧ resetKey (0#64).toNat = false ∧ (meshRuns k4.m = false ∨ minUnmet k4.m = 0)) ∧
    (alive w.m = true ∧ privileged Actor.service = true ∧ (0#12).toNat < kindCount 9 ∧ unitHasRole w.m 9 (0#12).toNat = true ∧ (9 = 14 → Actor.service = Actor.service) ∧ resetKey (11944390636716687361#64).toNat = true ∧ resettable w.m 9 (0#12).toNat = false) ∧
    (alive wcu.m = true ∧ privileged Actor.service = true ∧ (0#12).toNat < kindCount 9 ∧ unitHasRole wcu.m 9 (0#12).toNat = true ∧ (9 = 14 → Actor.service = Actor.service) ∧ resetKey (11944390636716687361#64).toNat = true ∧ resettable wcu.m 9 (0#12).toNat = true) ∧
    (alive wcu.m = true ∧ privileged Actor.service = true ∧ unitHasRole wcu.m 9 0 = true ∧ resetKey (11944390636716687361#64).toNat = true ∧ resettable wcu.m 9 0 = true) ∧
    (alive wrs.m = true ∧ wrs.pending = [] ∧ 0 < 65536 ∧ tfind wrs.m.resets (ukey 9 0) = some UState.offline ∧ UState.offline ≠ UState.starting ∧ ustate wrs.m 9 0 = UState.starting) :=
  ⟨by decide +kernel,
    by decide +kernel,
    by decide +kernel,
    by decide +kernel,
    by decide +kernel,
    by decide +kernel,
    by decide +kernel,
    by decide +kernel,
    by decide +kernel,
    by decide +kernel⟩

theorem witness_Loading :
    (Taken (st sm).m ({ ownMsg 48 (decide (9 ≤ List.length (ip 0))) with rom := true }) (hd 48 (ip 0)) (ip 0) ∧ (fld (ip 0) 0 1 = 1 ∨ fld (ip 0) 0 1 = 2) ∧ fld (ip 0) 4 4 = 0 ∧ stageMode (st sm).m = true ∧ (st sm).m.load.st = LState.idle) ∧
    (Taken (st sst).m ({ ownMsg 48 (decide (9 ≤ List.length (ip 2))) with rom := true }) (hd 48 (ip 2)) (ip 2) ∧ (fld (ip 2) 0 1 = 1 ∨ fld (ip 2) 0 1 = 2) ∧ fld (ip 2) 4 4 ≠ 0 ∧ (st sst).m.load.st = LState.staging ∧ fld (ip 2) 4 4 = List.length (st sst).m.load.stage ∧ fld (ip 2) 0 1 = (st sst).m.load.target ∧ fld (ip 2) 4 4 + (List.length (ip 2) - 8) ≤ 4194304) ∧
    (Taken (st sst).m (ownMsg 49 (List.length (rec 4 []) == 4)) (hd 49 (rec 4 [])) (rec 4 []) ∧ (st sst).m.load.st = LState.staging ∧ (st sst).m.load.target = 1 ∧ fld (rec 4 []) 0 1 = 0 ∧ fld (rec 4 []) 2 2 ≤ 10000) ∧
    (alive (st sver).m = true ∧ (st sver).m.load.st = LState.verifying ∧ holding (st sver).m = false ∧ (st sver).m.load.target = 1 ∧ verifyImage (st sver).fuse (st sver).m (st sver).m.load.image (st sver).m.load.expect = some (rj.getD (rejBox 1 2))) ∧
    (alive (st sver2).m = true ∧ (st sver2).m.load.st = LState.verifying ∧ holding (st sver2).m = false ∧ (st sver2).m.load.target = 2 ∧ bundleHold (st sver2).fuse (st sver2).m (st sver2).m.load.image false = Except.error cj) :=
  ⟨by delta Taken; decide +kernel,
    by delta Taken; decide +kernel,
    by delta Taken; decide +kernel,
    by decide +kernel,
    by decide +kernel⟩

theorem witness_FlashAndFuses_FuseArming :
    (Taken (st sm).m (ownMsg 112 (List.length fp == 8)) (hd 112 fp) fp ∧ (st sm).m.mode.st ≠ Mode.bare) ∧
    (Taken (st (fuM Mode.bare)).m (ownMsg 112 (List.length fp == 8)) (hd 112 fp) fp ∧ (st (fuM Mode.bare)).m.mode.st = Mode.bare ∧ blowing (st (fuM Mode.bare)).m = false ∧ fuseCodeGood (st (fuM Mode.bare)).fuse (fld fp 0 1) = true) ∧
    (Taken (st (fuM Mode.bare)).m (ownMsg 112 (List.length fpb == 8)) (hd 112 fpb) fpb ∧ (st (fuM Mode.bare)).m.mode.st = Mode.bare ∧ blowing (st (fuM Mode.bare)).m = false ∧ fuseCodeGood (st (fuM Mode.bare)).fuse (fld fpb 0 1) = false) ∧
    (Taken (st fuB).m (ownMsg 112 (List.length fp == 8)) (hd 112 fp) fp ∧ (st fuB).m.mode.st = Mode.bare ∧ blowing (st fuB).m = true) ∧
    (k5.m.svc.armed = some (1, 2, 0) ∧ 0 + 5000000000 < k5.m.now) :=
  ⟨by delta Taken; decide +kernel,
    by delta Taken; decide +kernel,
    by delta Taken; decide +kernel,
    by delta Taken; decide +kernel,
    by decide +kernel⟩

theorem witness_FlashAndFuses_Flash :
    (Taken (st flE).m (flashMsg 64 (List.length frp == 16)) (hd 64 frp) frp ∧ 1 ≤ fld frp 8 2 ∧ fld frp 8 2 ≤ 1008 ∧ flashRange (st flE).m (hd 64 frp).port (fld frp 0 1) (fld frp 4 4) (fld frp 8 2) = true) ∧
    (Taken (st flE).m (flashMsg 65 (decide (16 ≤ List.length fwp) && List.length fwp == 16 + fld fwp 8 2)) (hd 65 fwp) fwp ∧ 1 ≤ fld fwp 8 2 ∧ fld fwp 8 2 ≤ 1008 ∧ flashRange (st flE).m (hd 65 fwp).port (fld fwp 0 1) (fld fwp 4 4) (fld fwp 8 2) = true ∧ cellsWf (flash (st flE).m (fld fwp 0 1)).cells = true ∧ flashRead (flash (st flE).m (fld fwp 0 1)) (fld fwp 4 4) (fld fwp 8 2) = List.replicate (fld fwp 8 2) 255#8) ∧
    (Taken (st flE).m (flashMsg 66 (List.length fep == 16)) (hd 66 fep) fep ∧ 1 ≤ fld fep 8 2 ∧ fld fep 8 2 ≤ 64 ∧ fld fep 4 4 % 65536 = 0 ∧ flashRange (st flE).m (hd 66 fep).port (fld fep 0 1) (fld fep 4 4) (65536 * fld fep 8 2) = true) ∧
    (Taken (st sm).m (flashMsg 64 (List.length frp2 == 16)) (hd 64 frp2) frp2 ∧ flashRange (st sm).m (hd 64 frp2).port (fld frp2 0 1) (fld frp2 4 4) (fld frp2 8 2) = false) :=
  ⟨by delta Taken; decide +kernel,
    by delta Taken; decide +kernel,
    by delta Taken; decide +kernel,
    by delta Taken; decide +kernel⟩

end H

/-! ## The remaining statements with hypotheses -/

/-- A step of the front command, and the clauses of the empty queue. -/
theorem witness_StepRunsFrontCommand : ({ w with pending := [.sessionLapse] } : State).pending = [.sessionLapse] := rfl

def wIdle : State := st { mach with
  evt := { mach.evt with masters := vmap (fun x => { x with running := true }) mach.evt.masters },
  svc := { mach.svc with running := [{ port := .sp0, seq := 6, type := 0x42, status := 0, body := [], till := 7, blow := false }] } }

theorem witness_EmptyQueueCountsANanosecond : wIdle.pending = [] ∧ wIdle.m.evt.activeMaster < 2 ∧
    (let a := master wIdle.m wIdle.m.evt.activeMaster
     a.running = true ∧ a.failed = false ∧ a.slew = 0 ∧ a.freq = 0 ∧ a.freqAcc = 0) ∧
    (∃ x, wIdle.m.svc.running = [x] ∧ x.till ≤ wIdle.m.now + 1) :=
  ⟨rfl, by decide +kernel, by decide +kernel, _, rfl, by decide +kernel⟩

theorem witness_ExecLeavesTheQueue : ∃ t, exec .sessionLapse w = .next t := ⟨_, rfl⟩

theorem witness_OnlyFuseConfirmChangesFuses : (∀ h p, Instr.sessionLapse ≠ .fuseConfirm h p) ∧ ∃ t, exec .sessionLapse w = .next t :=
  ⟨fun _ _ h => Instr.noConfusion h, _, rfl⟩

theorem witness_BlownFusesStayBlown : ∃ t, step State.reset = .next t := ⟨_, rfl⟩

theorem witness_StepKeepsTheMemoryForm : State.reset.m.mem.wf = true ∧ ∃ t, step State.reset = .next t := ⟨by decide, _, rfl⟩

theorem witness_SeamAndChannelEvents_ChannelEventsLeaveMemoryBytes : ∃ t, exec (.selfRefreshExit 0) w = .next t := ⟨_, rfl⟩

/-- A direction and virtual channel of a substrate link whose pool, at most 2 ^ 31 credits, is out. -/
def wNoCredit : State := st { mach with subs := [(3, { SubLink.reset with issued := [(7, 2 ^ 31)] })] }

theorem witness_UnitsLost_NoCredit : meshRuns wNoCredit.m = true ∧ (subLink wNoCredit.m 3).lost = false ∧
    ¬ (creditsOut (subLink wNoCredit.m 3) 7 = 0 ∨ creditsOut (subLink wNoCredit.m 3) 7 < (Config.creditPool 3 7).toNat + 1) := by
  refine ⟨by decide +kernel, by decide +kernel, ?_⟩
  have h : creditsOut (subLink wNoCredit.m 3) 7 = 2 ^ 31 := by decide +kernel
  have := (Config.creditPool 3 7).isLt
  omega
/-! ## A sett with a check word that passes

The check word is a free value, so the sett is shown for whatever word `c` it turns out to be. -/

def settHead : Line := 1 <<< 96 ||| 3 <<< 104
def settLine (c : Word) : Line := settHead ||| c.setWidth 2048 <<< 448

theorem settLine_byte (c : Word) (i : Nat) (h : i < 56 ∨ 64 ≤ i) :
    (settLine c >>> (8 * i)).setWidth 8 = (settHead >>> (8 * i)).setWidth 8 := by
  apply BitVec.eq_of_getLsbD_eq
  intro j hj
  simp only [settLine, BitVec.getLsbD_setWidth, BitVec.getLsbD_ushiftRight, BitVec.getLsbD_or, BitVec.getLsbD_shiftLeft]
  rcases h with h | h
  · have : 8 * i + j < 448 := by omega
    simp [this]
  · have : c.getLsbD (8 * i + j - 448) = false := BitVec.getLsbD_of_ge _ _ (by omega)
    simp [this]

theorem settLine_check_byte (c : Word) (k : Nat) (h : k < 8) :
    (settLine c >>> (8 * (56 + k))).setWidth 8 = (c >>> (8 * k)).setWidth 8 := by
  apply BitVec.eq_of_getLsbD_eq
  intro j hj
  have e : settHead.getLsbD (8 * (56 + k) + j) = false := by
    have : ∀ k < 8, ∀ j < 8, settHead.getLsbD (8 * (56 + k) + j) = false := by decide +kernel
    exact this k h j hj
  have a : ¬ 8 * (56 + k) + j < 448 := by omega
  have b : 8 * (56 + k) + j - 448 = 8 * k + j := by omega
  have d : 8 * (56 + k) + j < 2048 := by omega
  simp only [settLine, BitVec.getLsbD_setWidth, BitVec.getLsbD_ushiftRight, BitVec.getLsbD_or, BitVec.getLsbD_shiftLeft, e, a, b, d]
  simp [show 8 * k + j < 2048 by omega]

theorem settLine_head (c : Word) : bslice (lineBytes (settLine c)) 0 56 = (List.range 56).map (fun i => (settHead >>> (8 * i)).setWidth 8) := by
  have : bslice (lineBytes (settLine c)) 0 56 = (List.range 56).map (fun i => (settLine c >>> (8 * i)).setWidth 8) := by
    simp [bslice, lineBytes, ← List.map_take, List.take_range]
  rw [this]
  exact List.map_congr_left fun i hi => settLine_byte c i (.inl (List.mem_range.mp hi))

theorem settLine_rest (c : Word) : bslice (lineBytes (settLine c)) 64 192 = (List.range 192).map (fun i => (settHead >>> (8 * (64 + i))).setWidth 8) := by
  have : bslice (lineBytes (settLine c)) 64 192 = (List.range 192).map (fun i => (settLine c >>> (8 * (64 + i))).setWidth 8) := by
    apply List.ext_getElem <;> simp [bslice, lineBytes]
  rw [this]
  exact List.map_congr_left fun i _ => settLine_byte c (64 + i) (.inr (by omega))

theorem settLine_check (c : Word) : fld (lineBytes (settLine c)) 56 8 = c.toNat := by
  have : bslice (lineBytes (settLine c)) 56 8 = (List.range 8).map (fun k => (c >>> (8 * k)).setWidth 8) := by
    have : bslice (lineBytes (settLine c)) 56 8 = (List.range 8).map (fun k => (settLine c >>> (8 * (56 + k))).setWidth 8) := by
      apply List.ext_getElem <;> simp [bslice, lineBytes]
    rw [this]
    exact List.map_congr_left fun k hk => settLine_check_byte c k (List.mem_range.mp hk)
  have h := c.isLt
  simp [fld, this, List.range, List.range.loop, leVal, BitVec.toNat_setWidth, BitVec.toNat_ushiftRight, Nat.shiftRight_eq_div_pow]
  omega

def wFill (c : Word) : State :=
  let m := F2.mE (engT { bankT with fill := true, c := vset bankT.c 4 (BitVec.ofNat 64 F2.sa) })
  st { m with l2 := [(0, { L2St.reset with ctl := .enabled, lines := [(0x800, { lineIn .s with data := settLine c })] })] }

set_option maxRecDepth 100000 in
theorem wFill_read (c : Word) : (rdEng (wFill c).m 0 1 F2.sa 256).1 = .ok (lineBytes (settLine c)) := by
  rfl

/-- The check word of that sett under the machine's key. -/
def wCheck : Word := Config.checkWord mach.jobs.settKey
  ((List.range 56).map (fun i => (settHead >>> (8 * i)).setWidth 8) ++ (List.range 192).map (fun i => (settHead >>> (8 * (64 + i))).setWidth 8))

theorem witness_StacksAndMicroRoutines_StackFill :
    let m := (wFill wCheck).m
    let m1 := (rdEng m 0 1 F2.sa 256).2
    unitsRun m = true ∧ engActive m 0 = true ∧ (bank m 0 0).fill = true ∧
    readSett m 0 (bkLease (bank m 0 0) 0) (cw (bank m 0 0) 4) [3] = (.ok (lineBytes (settLine wCheck)), m1) := by
  intro m m1
  have e : rdEng m 0 1 F2.sa 256 = (.ok (lineBytes (settLine wCheck)), m1) := Prod.ext (wFill_read wCheck) rfl
  have k : m1.jobs.settKey = mach.jobs.settKey := rfl
  have l : fld (lineBytes (settLine wCheck)) 12 1 = 1 := by
    have : fld (lineBytes (settLine wCheck)) 12 1 = fld (bslice (lineBytes (settLine wCheck)) 0 56) 12 1 := by simp [fld, bslice, List.drop_take, List.take_take]
    rw [this, settLine_head]; decide +kernel
  have n : fld (lineBytes (settLine wCheck)) 13 1 = 3 := by
    have : fld (lineBytes (settLine wCheck)) 13 1 = fld (bslice (lineBytes (settLine wCheck)) 0 56) 13 1 := by simp [fld, bslice, List.drop_take, List.take_take]
    rw [this, settLine_head]; decide +kernel
  have c : Config.checkWord m1.jobs.settKey (bslice (lineBytes (settLine wCheck)) 0 56 ++ bslice (lineBytes (settLine wCheck)) 64 192) =
      BitVec.ofNat 64 (fld (lineBytes (settLine wCheck)) 56 8) := by
    rw [settLine_head, settLine_rest, settLine_check, k, BitVec.ofNat_toNat, BitVec.setWidth_eq]; rfl
  refine ⟨rfl, rfl, rfl, ?_⟩
  have r : readSett m 0 1 F2.sa [3] = (.ok (lineBytes (settLine wCheck)), m1) := by
    unfold readSett
    rw [if_neg (by decide), e]
    simp [c, l, n]
  have bl : bkLease (bank m 0 0) 0 = 1 := by decide +kernel
  have bc : cw (bank m 0 0) 4 = F2.sa := by decide +kernel
  rw [bl, bc]; exact r

end Sys2Proof.Tests
end

section
/-! The fuse block over a step (R17, R85, R87): only FUSE_CONFIRM touches it, and all that FUSE_CONFIRM can do to it is to blow one fuse in
both copies. A blow sets bits and clears none, so a fuse that is blown stays blown. -/

namespace Sys2Proof.Machine

/-! ## What a blow does to one copy -/

theorem getD_lset_true {l : List Bool} {n : Nat} (i : Nat) (h : l.getD n false = true) : (lset l i true).getD n false = true := by
  rw [lset, List.getD_eq_getElem?_getD, List.getElem?_set]
  split
  · next e =>
    subst e
    split
    · rfl
    · next out => simp [List.getElem?_eq_none (Nat.le_of_not_lt out)] at h
  · rwa [← List.getD_eq_getElem?_getD]

theorem copyKept_refl (x : FuseCopy) : copyKept x x := ⟨id, fun _ => id, fun _ => id⟩

/-- A blow writes the test fuse, an image-key bit or a vendor-key bit, by its code, and what it writes is a 1. -/
theorem copyKept_blowCopy (k : Nat) (x : FuseCopy) : copyKept x (blowCopy k x) := by
  unfold blowCopy
  split
  · exact ⟨fun _ => rfl, fun _ => id, fun _ => id⟩
  · split
    · exact ⟨id, fun _ => getD_lset_true _, fun _ => id⟩
    · exact ⟨id, fun _ => id, fun _ => getD_lset_true _⟩

/-! ## What a command and a step can do to the fuse block -/

/-- Every command but FUSE_CONFIRM is an operation on the machine alone: its meaning is `runM` or one of the forms made from it, which keep
the queue and the fuse block whatever the operation is. -/
theorem exec_machineOnly {c : Instr} (s : State) (hc : ∀ h p, c ≠ .fuseConfirm h p) : ∃ m, exec c s = .next { s with m := m } := by
  cases c
  case fuseConfirm h p => exact absurd rfl (hc h p)
  all_goals exact ⟨_, rfl⟩

/-- The fuse block after is the one before, or the one before with the same fuse blown in both copies. -/
def fusesKeptOrBlown (s t : State) : Prop :=
  t.fuse = s.fuse ∨ ∃ k, t.fuse = (blowCopy k s.fuse.1, blowCopy k s.fuse.2)

theorem execFuseConfirm_fuse {h : SvcHdr} {p : Bytes} {s t : State} (e : execFuseConfirm h p s = .next t) : fusesKeptOrBlown s t := by
  unfold execFuseConfirm at e
  split at e
  · split at e <;> cases e
    · exact .inr ⟨fld p 0 1, rfl⟩
    · exact .inl rfl
  · cases e
    exact .inl rfl

theorem exec_fuse {c : Instr} {s t : State} (e : exec c s = .next t) : fusesKeptOrBlown s t := by
  by_cases hc : ∀ h p, c ≠ .fuseConfirm h p
  · obtain ⟨m, hm⟩ := exec_machineOnly s hc
    cases hm.symm.trans e
    exact .inl rfl
  · push Not at hc
    obtain ⟨h, p, rfl⟩ := hc
    exact execFuseConfirm_fuse e

/-- A step is the idle nanosecond, which is one of the machine alone, or the command at the front of the queue. -/
theorem step_fuse {s t : State} (e : step s = .next t) : fusesKeptOrBlown s t := by
  unfold step at e
  split at e
  · cases e
    exact .inl rfl
  · next c rest _ =>
    have fuse : fusesKeptOrBlown { s with pending := rest } t := exec_fuse e
    exact fuse

theorem fusesKept_of_keptOrBlown {s t : State} (h : fusesKeptOrBlown s t) : fusesKept s t := by
  unfold fusesKept
  obtain e | ⟨k, e⟩ := h <;> rw [e]
  · exact ⟨copyKept_refl _, copyKept_refl _⟩
  · exact ⟨copyKept_blowCopy k _, copyKept_blowCopy k _⟩

/-- Settles O7: a step leaves the fuse block alone or blows one fuse in both copies, and a blow clears no bit. -/
theorem blownFusesStayBlown : Obligations.BlownFusesStayBlown := fun _ _ e => fusesKept_of_keptOrBlown (step_fuse e)

end Sys2Proof.Machine
end
section
/-! The fuse block under a step: only FUSE_CONFIRM changes it, and since it blows one fuse in both copies at once they go on agreeing. -/

namespace Sys2Proof.Machine

/-- Settles O6: every other command is an operation on the machine alone. -/
theorem onlyFuseConfirmChangesFuses : Obligations.OnlyFuseConfirmChangesFuses := by
  intro c s t hc e
  obtain ⟨m, hm⟩ := exec_machineOnly s hc
  cases hm.symm.trans e
  rfl

/-- Two copies of the fuse block show the same fuses as blown. -/
def sameBlown (x y : FuseCopy) : Prop := x.test = y.test ∧ x.image = y.image ∧ x.vendor = y.vendor

theorem copiesAgree_iff (s : State) : s.copiesAgree ↔ sameBlown s.fuse.1 s.fuse.2 := Iff.rfl

/-- The same fuse blown in two copies that agree. -/
theorem sameBlown_blowCopy {x y : FuseCopy} (k : Nat) (h : sameBlown x y) : sameBlown (blowCopy k x) (blowCopy k y) := by
  obtain ⟨test, image, vendor⟩ := h
  unfold blowCopy
  split
  · exact ⟨rfl, image, vendor⟩
  · split
    · exact ⟨test, congrArg (lset · _ true) image, vendor⟩
    · exact ⟨test, image, congrArg (lset · _ true) vendor⟩

/-- Settles O8: a step leaves the fuse block alone or blows one fuse in both copies. -/
theorem stepKeepsFuseCopiesAgreeing : Obligations.StepKeepsFuseCopiesAgreeing := by
  intro s t agree e
  rw [copiesAgree_iff] at agree ⊢
  obtain same | ⟨k, blown⟩ := step_fuse e
  · rwa [same]
  · rw [blown]
    exact sameBlown_blowCopy k agree

/-- Settles O3: each field is the one that the reset state is written with, and what its empty tables answer is the default. -/
theorem resetState : Obligations.ResetState := by
  unfold Obligations.ResetState
  refine ⟨rfl, rfl, rfl, rfl, rfl, rfl, rfl, rfl, Memory.wf_reset, ?leases, ?units, rfl, rfl, rfl, rfl, rfl, rfl⟩
  case leases => exact fun l => congrArg Lease.st (tget_nil l _)
  case units => exact fun k i => congrArg UnitSt.st (tget_nil (ukey k i) _)

end Sys2Proof.Machine
end
section
/-! Service messages: what the owner's timer, a response and a message that is taken leave (R62, R63, R65 to R67, R81). -/

namespace Sys2Proof.Machine

/-! ## The owner is heard: only the time of its last message changes -/

section
variable (m : Mach) (p : Port)

theorem ownerHeard_eq : ownerHeard m p = { m with svc := { m.svc with lastMsg := if m.svc.owner = some p then m.now else m.svc.lastMsg } } := by
  unfold ownerHeard
  split <;> rfl

theorem ownerHeard_of_not_owner (h : m.svc.owner ≠ some p) : ownerHeard m p = m := if_neg h

@[simp] theorem ownerHeard_now : (ownerHeard m p).now = m.now := by rw [ownerHeard_eq]
@[simp] theorem ownerHeard_freeIdx : (ownerHeard m p).freeIdx = m.freeIdx := by rw [ownerHeard_eq]
@[simp] theorem ownerHeard_mode : (ownerHeard m p).mode = m.mode := by rw [ownerHeard_eq]
@[simp] theorem ownerHeard_units : (ownerHeard m p).units = m.units := by rw [ownerHeard_eq]
@[simp] theorem ownerHeard_errs : (ownerHeard m p).errs = m.errs := by rw [ownerHeard_eq]
@[simp] theorem ownerHeard_image : (ownerHeard m p).image = m.image := by rw [ownerHeard_eq]
@[simp] theorem ownerHeard_mem : (ownerHeard m p).mem = m.mem := by rw [ownerHeard_eq]
@[simp] theorem ownerHeard_chans : (ownerHeard m p).chans = m.chans := by rw [ownerHeard_eq]
@[simp] theorem ownerHeard_engs : (ownerHeard m p).engs = m.engs := by rw [ownerHeard_eq]
@[simp] theorem ownerHeard_load : (ownerHeard m p).load = m.load := by rw [ownerHeard_eq]
@[simp] theorem ownerHeard_flash : (ownerHeard m p).flash = m.flash := by rw [ownerHeard_eq]
@[simp] theorem ownerHeard_owner : (ownerHeard m p).svc.owner = m.svc.owner := by rw [ownerHeard_eq]
@[simp] theorem ownerHeard_token : (ownerHeard m p).svc.token = m.svc.token := by rw [ownerHeard_eq]
@[simp] theorem ownerHeard_armed : (ownerHeard m p).svc.armed = m.svc.armed := by rw [ownerHeard_eq]
@[simp] theorem ownerHeard_agreed : (ownerHeard m p).svc.agreed = m.svc.agreed := by rw [ownerHeard_eq]
@[simp] theorem ownerHeard_running : (ownerHeard m p).svc.running = m.svc.running := by rw [ownerHeard_eq]
@[simp] theorem unitsRun_ownerHeard : unitsRun (ownerHeard m p) = unitsRun m := by rw [ownerHeard_eq]; rfl
@[simp] theorem blowing_ownerHeard : blowing (ownerHeard m p) = blowing m := by rw [ownerHeard_eq]; rfl
@[simp] theorem modeWord_ownerHeard : modeWord (ownerHeard m p) = modeWord m := by rw [ownerHeard_eq]; rfl
@[simp] theorem tokenGood_ownerHeard (t : Nat) : tokenGood (ownerHeard m p) t = tokenGood m t := by rw [ownerHeard_eq]; rfl
@[simp] theorem stageMode_ownerHeard : stageMode (ownerHeard m p) = stageMode m := by rw [ownerHeard_eq]; rfl
@[simp] theorem loaderBusy_ownerHeard : loaderBusy (ownerHeard m p) = loaderBusy m := by rw [ownerHeard_eq]; rfl
@[simp] theorem holding_ownerHeard : holding (ownerHeard m p) = holding m := by rw [ownerHeard_eq]; rfl
@[simp] theorem flash_ownerHeard (k : Nat) : Machine.flash (ownerHeard m p) k = Machine.flash m k := by rw [ownerHeard_eq]; rfl
@[simp] theorem flashRange_ownerHeard (q : Port) (k off len : Nat) : flashRange (ownerHeard m p) q k off len = flashRange m q k off len := by
  rw [ownerHeard_eq]; rfl
@[simp] theorem confirmStatus_ownerHeard (b : Bytes) : confirmStatus (ownerHeard m p) b = confirmStatus m b := by rw [ownerHeard_eq]; rfl

end

/-! ## A response: it leaves on the port and is kept, and nothing else changes -/

section
variable (m : Mach) (h : SvcHdr) (c : Nat) (b : Bytes)

@[simp] theorem answer_mode : (answer m h c b).mode = m.mode := rfl
@[simp] theorem answer_units : (answer m h c b).units = m.units := rfl
@[simp] theorem answer_errs : (answer m h c b).errs = m.errs := rfl
@[simp] theorem answer_image : (answer m h c b).image = m.image := rfl
@[simp] theorem answer_mem : (answer m h c b).mem = m.mem := rfl
@[simp] theorem answer_chans : (answer m h c b).chans = m.chans := rfl
@[simp] theorem answer_engs : (answer m h c b).engs = m.engs := rfl
@[simp] theorem answer_load : (answer m h c b).load = m.load := rfl
@[simp] theorem answer_flash : (answer m h c b).flash = m.flash := rfl

theorem answer_eq : ∃ l o, answer m h c b = { m with out := o, svc := { m.svc with kept := l } } := ⟨_, _, rfl⟩

@[simp] theorem answer_owner : (answer m h c b).svc.owner = m.svc.owner := by obtain ⟨_, _, e⟩ := answer_eq m h c b; rw [e]
@[simp] theorem answer_keepalive : (answer m h c b).svc.keepalive = m.svc.keepalive := by obtain ⟨_, _, e⟩ := answer_eq m h c b; rw [e]
@[simp] theorem answer_lastMsg : (answer m h c b).svc.lastMsg = m.svc.lastMsg := by obtain ⟨_, _, e⟩ := answer_eq m h c b; rw [e]
@[simp] theorem answer_token : (answer m h c b).svc.token = m.svc.token := by obtain ⟨_, _, e⟩ := answer_eq m h c b; rw [e]
@[simp] theorem answer_armed : (answer m h c b).svc.armed = m.svc.armed := by obtain ⟨_, _, e⟩ := answer_eq m h c b; rw [e]
@[simp] theorem answer_agreed : (answer m h c b).svc.agreed = m.svc.agreed := by obtain ⟨_, _, e⟩ := answer_eq m h c b; rw [e]

/-- The minimum set does not read what leaves, and of the service controller only which cores are lost (R817). -/
theorem minUnmet_setSvc (o : List Out) (x : SvcSt) (same : x.coresLost = m.svc.coresLost) : minUnmet { m with out := o, svc := x } = minUnmet m := by
  have hubs : hubServes { m with out := o, svc := x } = hubServes m := by
    funext k
    unfold hubServes
    rw [same]
    rfl
  unfold minUnmet
  rw [hubs]
  rfl

@[simp] theorem minUnmet_answer : minUnmet (answer m h c b) = minUnmet m := by
  obtain ⟨_, _, e⟩ := answer_eq m h c b
  rw [e]
  exact minUnmet_setSvc m _ _ rfl

/-- The newest 16 responses are kept, the new one among them. -/
@[simp] theorem answered_answer : Answered (answer m h c b) h c b := by
  refine ⟨{ port := h.port, seq := h.seq.toNat, type := h.type.toNat, status := c, body := b }, ?_, rfl, rfl, rfl, rfl⟩
  change (List.drop _ (m.svc.kept ++ _)).getLast? = _
  rw [List.getLast?_drop, if_neg (by simp), List.getLast?_append, List.getLast?_singleton, Option.some_or]

end

/-! ## A response that comes later: the request counts as being executed, and nothing else changes -/

section
variable (m : Mach) (h : SvcHdr) (n : Nat) (blow : Bool) (c : Nat) (b : Bytes)

@[simp] theorem reply_later_mode : (reply m h (.later n blow c b)).mode = m.mode := rfl
@[simp] theorem reply_later_mem : (reply m h (.later n blow c b)).mem = m.mem := rfl
@[simp] theorem reply_later_load : (reply m h (.later n blow c b)).load = m.load := rfl
@[simp] theorem reply_later_flash : (reply m h (.later n blow c b)).flash = m.flash := rfl
@[simp] theorem reply_later_armed : (reply m h (.later n blow c b)).svc.armed = m.svc.armed := rfl

theorem reply_later_running : ∃ x, (reply m h (.later n blow c b)).svc.running = m.svc.running ++ [x] ∧ x.port = h.port ∧ x.seq = h.seq.toNat ∧
    x.type = h.type.toNat ∧ x.status = c ∧ x.body = b ∧ x.blow = blow ∧ m.now ≤ x.till ∧ x.till ≤ m.now + n := by
  have bound := Nat.mod_lt (Config.freeNat m.freeIdx) (Nat.succ_pos n)
  exact ⟨_, rfl, rfl, rfl, rfl, rfl, rfl, rfl, Nat.le_add_right _ _, Nat.add_le_add_left (Nat.le_of_lt_succ bound) _⟩

end

/-! ## A message that is taken, and one that is not -/

variable {m : Mach} {t : MsgType} {h : SvcHdr} {p : Bytes}

theorem svcGate_of_taken (taken : Taken m t h p) : svcGate m t h p = .go := by
  unfold Taken goes at taken
  split at taken
  · assumption
  · cases taken

theorem serveAs_of_taken (taken : Taken m t h p) (act : Mach → Reply × Mach) :
    serveAs m t h p act = reply (act (ownerHeard m h.port)).2 h (act (ownerHeard m h.port)).1 := by
  simp only [serveAs, svcGate_of_taken taken]

theorem serve_of_taken (taken : Taken m t h p) (act : Mach → Nat × Bytes × Mach) {c : Nat} {b : Bytes} {m' : Mach}
    (r : act (ownerHeard m h.port) = (c, b, m')) : serve m t h p act = answer m' h c b := by
  rw [serve, serveAs_of_taken taken, r]; rfl

theorem serveAs_of_gate_no {c : Nat} (g : svcGate m t h p = .no c) (act : Mach → Reply × Mach) :
    serveAs m t h p act = answer (ownerHeard m h.port) h c [] := by
  simp only [serveAs, g]

theorem gateStatus_of_taken (taken : Taken m t h p) : gateStatus m t h = none := by
  have go := svcGate_of_taken taken
  unfold svcGate at go
  split at go
  · cases go
  · split at go
    · cases go
    · split at go
      · cases go
      · split at go
        · cases go
        · assumption

/-- A message that is taken has passed the check of its payload's length and that of its sender (R62, R66). -/
theorem checks_of_taken (taken : Taken m t h p) : t.lenOk = true ∧ (t.owned = true → m.svc.owner = some h.port) := by
  have none := gateStatus_of_taken taken
  unfold gateStatus at none
  split at none
  · cases none
  · dsimp only at none
    split_ifs at none with _ _ _ short _ stranger
    exact ⟨by simpa using short, fun own => by simpa [own] using stranger⟩

theorem lenOk_of_taken (taken : Taken m t h p) : t.lenOk = true := (checks_of_taken taken).1
theorem owner_of_taken (taken : Taken m t h p) (own : t.owned = true) : m.svc.owner = some h.port := (checks_of_taken taken).2 own

theorem Completes.mono {i : Instr} {s : State} {P Q : Mach → Prop} (done : Completes i s P) (weaker : ∀ m, P m → Q m) : Completes i s Q := by
  obtain ⟨t, e, queue, fuse, q⟩ := done
  exact ⟨t, e, queue, fuse, weaker t.m q⟩

/-- A message that is answered at once and is taken: what it answers, and the machine that its meaning leaves. -/
theorem completes_serve {i : Instr} {s : State} {act : Mach → Nat × Bytes × Mach} {P : Mach → Prop} {c : Nat} {b : Bytes} {m' : Mach}
    (e : exec i s = runM s (fun m => serve m t h p act)) (taken : Taken s.m t h p) (r : act (ownerHeard s.m h.port) = (c, b, m'))
    (q : P (answer m' h c b)) : Completes i s P :=
  completes_runM e (by rwa [serve_of_taken taken act r])

end Sys2Proof.Machine
end
section
/-! FUSE_CONFIRM of an armed fuse (R85 to R87). -/

namespace Sys2Proof.Machine

variable {s : State} {h : SvcHdr} {p : Bytes}

section
variable (m : Mach)

@[simp] theorem disarm_mode : (disarm m).mode = m.mode := rfl
@[simp] theorem disarm_mem : (disarm m).mem = m.mem := rfl
@[simp] theorem disarm_armed : (disarm m).svc.armed = none := rfl

end

/-- The machine as a FUSE_CONFIRM that blows fuse `c` leaves it: nothing is armed, and Test is forbidden where that is the fuse that does so. -/
def confirmed (c : Nat) (m : Mach) : Mach := modMode (disarm m) (fun x => { x with testAllowed := x.testAllowed && c != 0x01 })

section
variable (c : Nat) (m : Mach)

@[simp] theorem confirmed_now : (confirmed c m).now = m.now := rfl
@[simp] theorem confirmed_mem : (confirmed c m).mem = m.mem := rfl
@[simp] theorem confirmed_load : (confirmed c m).load = m.load := rfl
@[simp] theorem confirmed_flash : (confirmed c m).flash = m.flash := rfl
@[simp] theorem confirmed_running : (confirmed c m).svc.running = m.svc.running := rfl
@[simp] theorem confirmed_armed : (confirmed c m).svc.armed = none := rfl
@[simp] theorem confirmed_testAllowed : (confirmed c m).mode.testAllowed = (m.mode.testAllowed && c != 0x01) := rfl

end

/-- The status in Bare, with a fuse armed and none being blown: by the time and by the value alone. -/
theorem confirmStatus_of_armed {m : Mach} {c v t : Nat} (bare : m.mode.st = .bare) (rest : blowing m = false) (armed : m.svc.armed = some (c, v, t)) :
    confirmStatus m p =
      if t + 5000000000 < m.now then 0x000B else if fld p 0 1 ≠ c ∨ fld p 4 4 ≠ 0xFFFFFFFF - v then 0x0009 else 0 := by
  simp [confirmStatus, bare, rest, armed]

/-- A FUSE_CONFIRM that is taken blows its fuse where its status is OK. -/
theorem exec_fuseConfirm_of_taken (taken : Taken s.m (confirmMsg p) h p) :
    exec (.fuseConfirm h p) s = .next { s with
      fuse := if confirmStatus s.m p = 0 then (blowCopy (fld p 0 1) s.fuse.1, blowCopy (fld p 0 1) s.fuse.2) else s.fuse
      m := reply (confirmAct p (ownerHeard s.m h.port)).2 h (confirmAct p (ownerHeard s.m h.port)).1 } := by
  rw [exec_fuseConfirm, execFuseConfirm, svcGate_of_taken taken, serveAs_of_taken taken]
  dsimp only
  split <;> rfl

/-- A blow is under way until it is answered. -/
theorem confirmAct_of_ok {m : Mach} (ok : confirmStatus m p = 0) :
    confirmAct p m = (.later 200000000 true 0 [], confirmed (fld p 0 1) m) := by
  simp [confirmAct, ok, confirmed]

/-- A refusal ends the arming. -/
theorem confirmAct_of_refused {m : Mach} {c : Nat} (status : confirmStatus m p = c) (refused : c = 0x000B ∨ c = 0x0009) :
    confirmAct p m = (.now c [], disarm m) := by
  rcases refused with rfl | rfl <;> simp [confirmAct, status]

theorem blowCopy_test (x : FuseCopy) : (blowCopy 1 x).test = true := rfl

/-- FUSE_CONFIRM of the armed fuse, in time and with the inverted challenge. -/
theorem fuseConfirm_blows {c v t : Nat} (taken : Taken s.m (confirmMsg p) h p) (bare : s.m.mode.st = .bare) (rest : blowing s.m = false)
    (armed : s.m.svc.armed = some (c, v, t)) (inTime : s.m.now ≤ t + 5000000000) (code : fld p 0 1 = c) (value : fld p 4 4 = 0xFFFFFFFF - v) :
    ∃ u, exec (.fuseConfirm h p) s = .next u ∧ u.pending = s.pending ∧ u.fuse = (blowCopy c s.fuse.1, blowCopy c s.fuse.2) ∧
      u.m.svc.armed = none ∧ (c = 0x01 → u.m.mode.testAllowed = false ∧ u.fuse.1.test = true ∧ u.fuse.2.test = true) ∧ u.m.mem = s.m.mem ∧
      u.m.load = s.m.load ∧ u.m.flash = s.m.flash ∧ (∃ x, u.m.svc.running = s.m.svc.running ++ [x] ∧ x.port = h.port ∧ x.seq = h.seq.toNat ∧
        x.status = 0 ∧ x.body = [] ∧ x.till ≤ s.m.now + 200000000) := by
  have ok : confirmStatus s.m p = 0 := by
    rw [confirmStatus_of_armed bare rest armed, if_neg (by omega), if_neg (by simp [code, value])]
  have act := confirmAct_of_ok (m := ownerHeard s.m h.port) (p := p) (by rw [confirmStatus_ownerHeard, ok])
  rw [exec_fuseConfirm_of_taken taken, if_pos ok, act, code]
  obtain ⟨x, running, port, seq, _, status, body, _, _, till⟩ := reply_later_running (confirmed c (ownerHeard s.m h.port)) h 200000000 true 0 []
  refine ⟨_, rfl, rfl, rfl, by simp, ?_, by simp, by simp, by simp, x, ?_, port, seq, status, body, ?_⟩
  · rintro rfl
    exact ⟨by simp, blowCopy_test _, blowCopy_test _⟩
  · simpa using running
  · simpa using till

/-- FUSE_CONFIRM of an armed fuse that comes too late or with another value. -/
theorem fuseConfirm_refused {c v t : Nat} (taken : Taken s.m (confirmMsg p) h p) (bare : s.m.mode.st = .bare) (rest : blowing s.m = false)
    (armed : s.m.svc.armed = some (c, v, t)) (bad : t + 5000000000 < s.m.now ∨ fld p 0 1 ≠ c ∨ fld p 4 4 ≠ 0xFFFFFFFF - v) :
    ∃ u, exec (.fuseConfirm h p) s = .next u ∧ u.pending = s.pending ∧ u.fuse = s.fuse ∧ u.m.svc.armed = none ∧
      (fld p 0 1 = c ∧ fld p 4 4 = 0xFFFFFFFF - v → Answered u.m h 0x000B []) ∧ (s.m.now ≤ t + 5000000000 → Answered u.m h 0x0009 []) ∧
      (Answered u.m h 0x000B [] ∨ Answered u.m h 0x0009 []) ∧ u.m.mode = s.m.mode ∧ u.m.mem = s.m.mem := by
  have leaves {k : Nat} (status : confirmStatus s.m p = k) (refused : k = 0x000B ∨ k = 0x0009) :
      exec (.fuseConfirm h p) s = .next { s with m := answer (disarm (ownerHeard s.m h.port)) h k [] } := by
    have act := confirmAct_of_refused (m := ownerHeard s.m h.port) (p := p) (by rw [confirmStatus_ownerHeard, status]) refused
    rw [exec_fuseConfirm_of_taken taken, if_neg (by omega), act, reply]
  have status := confirmStatus_of_armed (p := p) bare rest armed
  by_cases late : t + 5000000000 < s.m.now
  · rw [if_pos late] at status
    exact ⟨_, leaves status (.inl rfl), rfl, rfl, by simp, fun _ => answered_answer .., fun inTime => absurd late (by omega),
      .inl (answered_answer ..), by simp, by simp⟩
  · have wrong := bad.resolve_left late
    rw [if_neg late, if_pos wrong] at status
    exact ⟨_, leaves status (.inr rfl), rfl, rfl, by simp, fun right => absurd wrong (by simp [right]), fun _ => answered_answer ..,
      .inr (answered_answer ..), by simp, by simp⟩

/-- Settles O10: the status of a FUSE_CONFIRM of an armed fuse is OK, EXPIRED or REFUSED by its time and value; OK alone blows. -/
theorem fuseConfirms : Obligations.FuseConfirms :=
  ⟨fun _ _ _ _ _ _ => fuseConfirm_blows, fun _ _ _ _ _ _ => fuseConfirm_refused⟩

end Sys2Proof.Machine
end
section
/-! The service session (R59 to R64, R69, R70, R75, R76). -/

namespace Sys2Proof.Machine

variable {s : State} {h : SvcHdr} {p : Bytes}

/-! ## What the meanings leave -/

/-- Sending the kept notifications takes stamps, numbers and output, and no more. -/
theorem notesSend_logged (m : Mach) : Logged m (notesSend m) := by
  unfold notesSend
  have each (l : List Notify) (m' : Mach) (done : Logged m m') :
      Logged m (l.foldl (fun (m : Mach) n => let r := noteSend m n; { r.2 with notes := r.2.notes ++ [r.1] }) m') := by
    induction l generalizing m' with
    | nil => exact done
    | cons n l ih => exact ih _ ((done.trans (noteSend_logged m' n)).trans (setNotes_logged _ _))
  exact each m.notes _ (setNotes_logged m _)

theorem sessionNew_logged (m : Mach) (q : Port) (ms : Nat) : Logged (sessionTo m q ms) (sessionNew m q ms) := by
  unfold sessionNew
  have renumbered : Logged (sessionTo m q ms) { sessionTo m q ms with noteSeq := 0, notes := (sessionTo m q ms).notes.map (fun n => { n with seq := 0, sends := 0 }) } := by
    constructor
    case lease => exact fun _ => ⟨_, rfl⟩
    all_goals intros; rfl
  exact renumbered.trans (notesSend_logged _)

section
variable (m : Mach) (q : Port) (ms : Nat)

@[simp] theorem sessionTo_owner : (sessionTo m q ms).svc.owner = some q := rfl
@[simp] theorem sessionTo_keepalive : (sessionTo m q ms).svc.keepalive = ms := rfl
@[simp] theorem sessionTo_lastMsg : (sessionTo m q ms).svc.lastMsg = m.now := rfl
@[simp] theorem sessionTo_token : (sessionTo m q ms).svc.token = none := rfl
@[simp] theorem sessionTo_mode : (sessionTo m q ms).mode = m.mode := rfl
@[simp] theorem sessionTo_mem : (sessionTo m q ms).mem = m.mem := rfl
@[simp] theorem sessionNew_svc : (sessionNew m q ms).svc = (sessionTo m q ms).svc := (sessionNew_logged m q ms).svc
@[simp] theorem sessionNew_mode : (sessionNew m q ms).mode = m.mode := (sessionNew_logged m q ms).mode
@[simp] theorem sessionNew_mem : (sessionNew m q ms).mem = m.mem := (sessionNew_logged m q ms).mem
@[simp] theorem sessionCloses_owner : (sessionCloses m).svc.owner = none := rfl
@[simp] theorem sessionCloses_mode : (sessionCloses m).mode = m.mode := rfl
@[simp] theorem sessionCloses_mem : (sessionCloses m).mem = m.mem := rfl

end

/-- A SESSION_OPEN that is refused changes nothing and is answered with a status alone. -/
theorem sessionOpen_refused {c : Nat} (taken : Taken s.m (openMsg p) h p)
    (r : sessionAct s.pending h.port p (ownerHeard s.m h.port) = refusedWith c (ownerHeard s.m h.port)) :
    Completes (.sessionOpen h p) s (fun m => m.svc.owner = s.m.svc.owner ∧ m.svc.token = s.m.svc.token ∧
      m.mode = s.m.mode ∧ m.mem = s.m.mem ∧ Answered m h c []) :=
  completes_serve rfl taken r (by simp)

/-- A port that is granted the session, as a new one or with the token: its keepalive time stands and it is heard now. -/
theorem sessionOpen_granted {m' : Mach} (taken : Taken s.m (openMsg p) h p)
    (r : sessionAct s.pending h.port p (ownerHeard s.m h.port) = (0, le 4 (openMs p) ++ le 4 0, m'))
    (svc : m'.svc = (sessionTo (ownerHeard s.m h.port) h.port (openMs p)).svc) (mode : m'.mode = s.m.mode) (mem : m'.mem = s.m.mem) :
    Completes (.sessionOpen h p) s (fun m => m.svc.owner = some h.port ∧ m.svc.token = none ∧ m.svc.keepalive = openMs p ∧
      m.svc.lastMsg = s.m.now ∧ m.mode = s.m.mode ∧ m.mem = s.m.mem ∧ Answered m h 0 (le 4 (openMs p) ++ le 4 0)) :=
  completes_serve rfl taken r (by simp [svc, mode, mem])

/-! ## HELLO -/

theorem hello_agrees (v : Nat × Nat)
    (taken : Taken s.m { code := 0x0001, new := false, rom := true, stop := true, owned := false, lenOk := p.length == 32 } h p)
    (version : helloVersion p = some v) :
    Completes (.hello h p) s (fun m => m.mode = s.m.mode ∧ m.mem = s.m.mem ∧
      portAgreed m h.port = some (v.1, v.2, if v.2 = 1 then fld p 24 8 % 16 else fld p 24 8 % 4) ∧
      ∃ b, Answered m h 0 b ∧ b.take 2 = le 1 v.1 ++ le 1 v.2) := by
  refine completes_serve rfl taken (by simp only [helloAct, version]; rfl) ⟨by simp, by simp, ?_, _, answered_answer .., ?_⟩
  · simp [portAgreed]
  · simp [helloBody, le]

theorem hello_without_version
    (taken : Taken s.m { code := 0x0001, new := false, rom := true, stop := true, owned := false, lenOk := p.length == 32 } h p)
    (version : helloVersion p = none) :
    Completes (.hello h p) s (fun m => m.svc.agreed = s.m.svc.agreed ∧ ∃ b, Answered m h 0x0003 b) :=
  completes_serve rfl taken (by simp only [helloAct, version]; rfl) ⟨by simp, _, answered_answer ..⟩

end Sys2Proof.Machine
end
section
/-! Messages of a port that does not own the session (R62), and the session's statement. -/

namespace Sys2Proof.Machine

variable {s : State} {h : SvcHdr} {p : Bytes}

/-! ## Messages that only the owner may send -/

/-- The rows that carry a message of the session owner, each with what the module knows of its message type. -/
def ownerRows (h : SvcHdr) (p : Bytes) : List (MsgType × Instr) :=
  [(bareMsg 0x0003 p, .sessionClose h p), (bareMsg 0x0004 p, .keepalive h p),
    ({ ownMsg 0x0005 (p.length == 0) with new := true }, .handoverPrepare h p), ({ ownMsg 0x0010 (p.length == 8) with stop := true }, .regRead h p),
    (ownMsg 0x0011 (p.length == 16), .regWrite h p), ({ ownMsg 0x0012 (tagLenOk p) with new := true }, .tagBulk h p),
    (modeMsg p, .start h p), (modeMsg p, .holdEnter h p), (modeMsg p, .holdExit h p), (modeMsg p, .testEnter h p), (modeMsg p, .testExit h p),
    (resetMsg p, .moduleReset h p), ({ ownMsg 0x0030 (decide (9 ≤ p.length)) with rom := true }, .imagePut h p),
    (ownMsg 0x0031 (p.length == 4), .imageLoad h p), (flashMsg 0x0040 (p.length == 16), .flashRead h p),
    (flashMsg 0x0041 (decide (16 ≤ p.length) && p.length == 16 + fld p 8 2), .flashWrite h p), (flashMsg 0x0042 (p.length == 16), .flashErase h p none),
    ({ ownMsg 0x0050 (p.length == 6) with stop := true }, .dumpRead h p), (ownMsg 0x0070 (p.length == 8), .fuseArm h p),
    (confirmMsg p, .fuseConfirm h p)]

/-- What a message that is refused with NOT_OWNER leaves. -/
def NotOwnerLeaves (s : State) (h : SvcHdr) (m : Mach) : Prop :=
  Answered m h 0x0005 [] ∧ m.svc.owner = s.m.svc.owner ∧ m.svc.armed = s.m.svc.armed ∧ m.svc.token = s.m.svc.token ∧
    m.mode = s.m.mode ∧ m.mem = s.m.mem ∧ m.image = s.m.image ∧ m.load = s.m.load ∧ m.flash = s.m.flash ∧ m.units = s.m.units

theorem notOwnerLeaves_answer : NotOwnerLeaves s h (answer (ownerHeard s.m h.port) h 0x0005 []) := by simp [NotOwnerLeaves]

theorem gateStatus_notOwner {m : Mach} {t : MsgType} {v : Nat × Nat × Nat} (agreed : portAgreed m h.port = some v) (major : h.major.toNat = v.1)
    (minor : h.minor.toNat = v.2.1) (loaded : m.svc.rom = false) (other : m.svc.owner ≠ some h.port) (code : h.type.toNat = t.code)
    (hello : t.code ≠ 0x0001) (new : t.new = true → v.2.1 ≠ 0) (len : t.lenOk = true) (owned : t.owned = true) :
    gateStatus m t h = some 0x0005 := by
  have old : (t.new && v.2.1 == 0) = false := by cases e : t.new <;> simp_all
  simp [gateStatus, code, hello, agreed, major, minor, old, len, loaded, owned, other]

/-- An intact message that is neither a repeat nor still being executed goes to the checks. -/
theorem svcGate_of_status {m : Mach} {t : MsgType} {c : Nat} (serves : portServes m h.port = true) (intact : svcIntact h p = true)
    (kept : m.svc.kept = []) (running : m.svc.running = []) (status : gateStatus m t h = some c) : svcGate m t h p = .no c := by
  simp [svcGate, serves, intact, kept, stillRuns, running, status]

section
variable {t : MsgType} (gate : svcGate s.m t h p = .no 0x0005)
include gate

theorem notOwner_serve {i : Instr} {act : Mach → Nat × Bytes × Mach} (e : exec i s = runM s (fun m => serve m t h p act)) :
    Completes i s (NotOwnerLeaves s h) :=
  completes_runM e (by rw [serve, serveAs_of_gate_no gate]; exact notOwnerLeaves_answer)

end

theorem notOwner_flashErase (gate : svcGate s.m (flashMsg 0x0042 (p.length == 16)) h p = .no 0x0005) :
    Completes (.flashErase h p none) s (NotOwnerLeaves s h) :=
  completes_runM (exec_flashErase ..) (by rw [serveAs_of_gate_no gate]; exact notOwnerLeaves_answer)

/-- REG_WRITE checks for losses where the module is not in Check-stop; nothing is lost here. -/
theorem notOwner_regWrite (met : minUnmet s.m = 0) (other : s.m.svc.owner ≠ some h.port)
    (gate : svcGate s.m (ownMsg 0x0011 (p.length == 16)) h p = .no 0x0005) : Completes (.regWrite h p) s (NotOwnerLeaves s h) := by
  refine completes_runM (exec_regWrite ..) ?_
  dsimp only
  rw [serve, serveAs_of_gate_no gate, lossCheck, minUnmet_answer, ownerHeard_of_not_owner _ _ other, met]
  simp only [bne_self_eq_false, Bool.and_false, Bool.false_eq_true, if_false, ite_self]
  rw [← ownerHeard_of_not_owner _ _ other]
  exact notOwnerLeaves_answer

theorem notOwner_moduleReset (gate : svcGate s.m (resetMsg p) h p = .no 0x0005) : Completes (.moduleReset h p) s (NotOwnerLeaves s h) := by
  refine completes_runM (exec_moduleReset ..) ?_
  dsimp only
  rw [serve, serveAs_of_gate_no gate, resetTaken, gate]
  exact notOwnerLeaves_answer

theorem notOwner_testExit (gate : svcGate s.m (modeMsg p) h p = .no 0x0005) : Completes (.testExit h p) s (NotOwnerLeaves s h) := by
  refine completes_runM (exec_testExit ..) ?_
  dsimp only
  rw [serve, serveAs_of_gate_no gate, gate]
  exact notOwnerLeaves_answer

theorem notOwner_fuseConfirm (gate : svcGate s.m (confirmMsg p) h p = .no 0x0005) : Completes (.fuseConfirm h p) s (NotOwnerLeaves s h) := by
  refine ⟨{ s with m := answer (ownerHeard s.m h.port) h 0x0005 [] }, ?_, rfl, rfl, notOwnerLeaves_answer⟩
  rw [exec_fuseConfirm, execFuseConfirm, gate, serveAs_of_gate_no gate]

/-- Every row of the owner, refused at the gate, completes with nothing but its answer. -/
theorem notOwner_rows (met : minUnmet s.m = 0) (other : s.m.svc.owner ≠ some h.port) :
    ∀ r ∈ ownerRows h p, svcGate s.m r.1 h p = .no 0x0005 → Completes r.2 s (NotOwnerLeaves s h) := by
  simp only [ownerRows, List.forall_mem_cons, List.not_mem_nil, false_imp_iff, implies_true, and_true]
  exact ⟨(notOwner_serve · rfl), (notOwner_serve · rfl), (notOwner_serve · rfl), (notOwner_serve · rfl), notOwner_regWrite met other,
    (notOwner_serve · rfl), (notOwner_serve · rfl), (notOwner_serve · rfl), (notOwner_serve · rfl), (notOwner_serve · rfl), notOwner_testExit,
    notOwner_moduleReset, (notOwner_serve · rfl), (notOwner_serve · rfl), (notOwner_serve · rfl), (notOwner_serve · rfl), notOwner_flashErase,
    (notOwner_serve · rfl), (notOwner_serve · rfl), notOwner_fuseConfirm⟩

/-- A row of the owner carries a message of the owner, which is no HELLO. -/
theorem ownerRows_owned : ∀ r ∈ ownerRows h p, r.1.owned = true ∧ r.1.code ≠ 0x0001 := by
  simp [ownerRows, bareMsg, ownMsg, modeMsg, resetMsg, flashMsg, confirmMsg]

/-! ## The statement -/

theorem sessionOpen_cases (taken : Taken s.m (openMsg p) h p) :
    let ms := openMs p
    let refused (status : Nat) : Prop := Completes (.sessionOpen h p) s (fun m => m.svc.owner = s.m.svc.owner ∧ m.svc.token = s.m.svc.token ∧
      m.mode = s.m.mode ∧ m.mem = s.m.mem ∧ Answered m h status [])
    let granted : Prop := Completes (.sessionOpen h p) s (fun m => m.svc.owner = some h.port ∧ m.svc.token = none ∧ m.svc.keepalive = ms ∧
      m.svc.lastMsg = s.m.now ∧ m.mode = s.m.mode ∧ m.mem = s.m.mem ∧ Answered m h 0 (le 4 ms ++ le 4 0))
    (openMsOk p = false → refused 0x0009) ∧
    (openMsOk p = true →
      (s.m.svc.owner = none →
        (s.pending.any (rival s.m h.port) = false → Completes (.sessionOpen h p) s (fun m => m.svc.owner = some h.port ∧ m.svc.keepalive = ms ∧
          m.svc.lastMsg = s.m.now ∧ m.mode = s.m.mode ∧ m.mem = s.m.mem ∧ Answered m h 0 (le 4 ms ++ le 4 0))) ∧
        (s.pending.any (rival s.m h.port) = true → refused 0x0004)) ∧
      (s.m.svc.owner ≠ none →
        (bit (fld p 4 4) 0 = false → refused 0x0004) ∧
        (bit (fld p 4 4) 0 = true → tokenGood s.m (fld p 8 8) = true → granted) ∧
        (bit (fld p 4 4) 0 = true → tokenGood s.m (fld p 8 8) = false → refused 0x0006))) := by
  refine ⟨fun bad => sessionOpen_refused taken (by simp [sessionAct, bad]), fun ok => ⟨fun free => ?_, fun busy => ?_⟩⟩
  · have same : ownerHeard s.m h.port = s.m := ownerHeard_of_not_owner _ _ (by simp [free])
    refine ⟨fun first => ?_, fun later => sessionOpen_refused taken (by simp [sessionAct, ok, free, same, later])⟩
    have granted := sessionOpen_granted (m' := sessionNew s.m h.port (openMs p)) taken (by simp [sessionAct, ok, free, same, first])
      (by simp [same]) (by simp) (by simp)
    exact granted.mono fun _ ⟨owner, _, rest⟩ => ⟨owner, rest⟩
  · refine ⟨fun bare => sessionOpen_refused taken (by simp [sessionAct, ok, busy, bare]), fun token good => ?_, fun token wrong => ?_⟩
    · exact sessionOpen_granted (m' := sessionTo (ownerHeard s.m h.port) h.port (openMs p)) taken (by simp [sessionAct, ok, busy, token, good]) rfl
        (by simp) (by simp)
    · exact sessionOpen_refused taken (by simp [sessionAct, ok, busy, token, wrong])

/-- A message that the owner may send and that is taken is heard now (R63). -/
theorem lastMsg_of_owner {m : Mach} {q : Port} (owner : m.svc.owner = some q) : (ownerHeard m q).svc.lastMsg = m.now := by
  rw [ownerHeard_eq]
  exact if_pos owner

theorem sessionClose_releases (taken : Taken s.m (bareMsg 0x0003 p) h p) :
    Completes (.sessionClose h p) s (fun m => m.svc.owner = none ∧ m.mode = s.m.mode ∧ m.mem = s.m.mem ∧ Answered m h 0 []) :=
  completes_serve rfl taken rfl (by simp)

theorem keepalive_heard (taken : Taken s.m (bareMsg 0x0004 p) h p) :
    Completes (.keepalive h p) s (fun m => m.svc.owner = some h.port ∧ m.svc.lastMsg = s.m.now ∧ m.mode = s.m.mode ∧ m.mem = s.m.mem ∧
      Answered m h 0 []) := by
  have owner := owner_of_taken taken rfl
  exact completes_serve rfl taken rfl (by simp [owner, lastMsg_of_owner])

theorem handoverPrepare_token (taken : Taken s.m { ownMsg 0x0005 (p.length == 0) with new := true } h p) :
    Completes (.handoverPrepare h p) s (fun m => m.svc.owner = some h.port ∧ m.mode = s.m.mode ∧ m.mem = s.m.mem ∧
      ∃ w, m.svc.token = some (w, s.m.now + 10000000000) ∧ Answered m h 0 (le 8 w.toNat ++ le 4 10000 ++ le 4 0)) := by
  have owner := owner_of_taken taken rfl
  exact completes_serve rfl taken rfl ⟨by simp [owner], by simp, by simp, _, by simp, answered_answer ..⟩

theorem sessionLapse_ends {q : Port} (owner : s.m.svc.owner = some q) (silent : s.m.svc.lastMsg + s.m.svc.keepalive * 1000000 ≤ s.m.now) :
    exec .sessionLapse s = .next { s with m := { s.m with svc := { s.m.svc with owner := none } } } := by
  rw [exec_sessionLapse, execSessionLapse, runM, if_pos ⟨by simp [owner], silent⟩]
  rfl

theorem handoverToken_expires {w : Word} {t : Nat} (token : s.m.svc.token = some (w, t)) (late : t < s.m.now) :
    exec .handoverTokenExpiry s = .next { s with m := { s.m with svc := { s.m.svc with token := none } } } := by
  simp [execHandoverTokenExpiry, runM, token, late]

/-- Settles O56: each message of the session by its own lemma, and the owner's rows by what a refusal at the gate leaves. -/
theorem session : Obligations.Session := by
  refine ⟨fun s h p => ⟨fun taken => ⟨fun v => hello_agrees v taken, hello_without_version taken⟩, sessionOpen_cases, sessionClose_releases,
    keepalive_heard, handoverPrepare_token, fun _ => sessionLapse_ends, fun _ _ => handoverToken_expires⟩, ?_⟩
  intro s h p v serves intact kept running agreed major minor loaded other met rows t c row code new len
  have ⟨owned, hello⟩ := ownerRows_owned (t, c) row
  have status := gateStatus_notOwner agreed major minor loaded other code hello new len owned
  exact notOwner_rows met other (t, c) row (svcGate_of_status serves intact kept running status)

end Sys2Proof.Machine
end
section
/-! The boot flashes: what reading, programming and erasing do to the bytes (R50, R80, R81), and the arming of a fuse (R85, R86). -/

namespace Sys2Proof.Machine

/-! ## The bytes of a flash -/

/-- An address that is not listed reads 0, whatever the order of the list. -/
theorem cellGet_of_unlisted (c : List Host.Cell) (a : Nat) (h : ∀ q ∈ c, q.1 ≠ a) : cellGet c a = 0 := by
  induction c with
  | nil => rfl
  | cons q r ih =>
    obtain ⟨k, v⟩ := q
    simp only [List.forall_mem_cons] at h
    rw [cellGet, if_neg h.1]
    split
    · rfl
    · exact ih h.2

/-- Cells dropped by their address leave every byte at another address. -/
theorem cellGet_filter (c : List Host.Cell) (keep : Host.Cell → Bool) (a : Nat) (wf : cellsWf c = true) (kept : ∀ v, keep (a, v) = true) :
    cellGet (c.filter keep) a = cellGet c a := by
  induction c with
  | nil => rfl
  | cons q r ih =>
    obtain ⟨k, v⟩ := q
    obtain ⟨_, above, rest⟩ := (cellsWf_cons k v r).1 wf
    have below (lt : a < k) : cellGet (r.filter keep) a = 0 :=
      cellGet_above _ _ fun q hq => lt_trans lt (above q (List.mem_filter.1 hq).1)
    rw [List.filter_cons]
    split
    · rw [cellGet, cellGet, ih rest]
    · next out =>
      have ne : k ≠ a := fun e => out (e ▸ kept v)
      rw [cellGet, if_neg ne]
      split
      · next lt => exact below lt
      · exact ih rest

@[simp] theorem flashRead_length (x : FlashSt) (off n : Nat) : (flashRead x off n).length = n := by simp [flashRead]

theorem flashRead_one (x : FlashSt) (k : Nat) : flashRead x k 1 = [~~~ cellGet x.cells k] := by simp [flashRead]

theorem flashProgram_outside (x : FlashSt) (off k : Nat) (b : Bytes) (wf : cellsWf x.cells = true) (out : k < off ∨ off + b.length ≤ k) :
    flashRead (flashProgram x off b) k 1 = flashRead x k 1 := by
  rw [flashRead_one, flashRead_one]
  exact congrArg (fun v => [~~~ v]) (cellsSet_get_outside _ _ _ _ wf (by simpa using out))

/-- Bytes programmed where the flash is erased read back. -/
theorem flashProgram_erased (x : FlashSt) (off : Nat) (b : Bytes) (wf : cellsWf x.cells = true)
    (erased : flashRead x off b.length = List.replicate b.length 0xFF) : flashRead (flashProgram x off b) off b.length = b := by
  refine List.ext_getElem (by simp) fun i hi _ => ?_
  have lt : i < b.length := by simpa using hi
  have cell := cellsSet_get_inside (List.zipWith (fun old new => ~~~ (old &&& new)) (flashRead x off b.length) b) x.cells off i wf (by simpa using lt)
  have set (v : Byte) : 255#8 &&& v = v := BitVec.allOnes_and
  have read : (flashRead (flashProgram x off b) off b.length)[i] = ~~~ cellGet (flashProgram x off b).cells (off + i) := by simp [flashRead]
  rw [read, flashProgram, cell, erased]
  simp [lt, set]

theorem flashErase_inside (x : FlashSt) (off len k : Nat) (lo : off ≤ k) (hi : k < off + len) : flashRead (flashErase x off len) k 1 = [0xFF] := by
  rw [flashRead_one, flashErase, cellGet_of_unlisted]
  · rfl
  · intro q hq
    have out := (List.mem_filter.1 hq).2
    simp only [Bool.or_eq_true, decide_eq_true_eq] at out
    omega

theorem flashErase_outside (x : FlashSt) (off len k : Nat) (wf : cellsWf x.cells = true) (out : k < off ∨ off + len ≤ k) :
    flashRead (flashErase x off len) k 1 = flashRead x k 1 := by
  rw [flashRead_one, flashRead_one]
  exact congrArg (fun v => [~~~ v]) (cellGet_filter _ _ k wf fun _ => by simpa using out)

@[simp] theorem flash_modFlash (m : Mach) (k : Nat) (f : FlashSt → FlashSt) : flash (modFlash m k f) k = f (flash m k) := by simp [flash, modFlash]
@[simp] theorem modFlash_mem (m : Mach) (k : Nat) (f : FlashSt → FlashSt) : (modFlash m k f).mem = m.mem := rfl
@[simp] theorem modFlash_now (m : Mach) (k : Nat) (f : FlashSt → FlashSt) : (modFlash m k f).now = m.now := rfl
@[simp] theorem modFlash_running (m : Mach) (k : Nat) (f : FlashSt → FlashSt) : (modFlash m k f).svc.running = m.svc.running := rfl
@[simp] theorem flash_answer (m : Mach) (h : SvcHdr) (c : Nat) (b : Bytes) (k : Nat) : flash (answer m h c b) k = flash m k := rfl
theorem flash_reply_later (m : Mach) (h : SvcHdr) (n : Nat) (blow : Bool) (c : Nat) (b : Bytes) (k : Nat) :
    flash (reply m h (.later n blow c b)) k = flash m k := rfl

/-! ## The messages of the flash -/

variable {s : State} {h : SvcHdr} {p : Bytes}

theorem flashRead_answers (taken : Taken s.m (flashMsg 0x0040 (p.length == 16)) h p) (some_ : 1 ≤ fld p 8 2) (most : fld p 8 2 ≤ 1008)
    (range : flashRange s.m h.port (fld p 0 1) (fld p 4 4) (fld p 8 2) = true) :
    Completes (.flashRead h p) s (fun m => m.flash = s.m.flash ∧ m.mem = s.m.mem ∧
      Answered m h 0 (le 4 (fld p 4 4) ++ le 2 (fld p 8 2) ++ le 2 0 ++ flashRead (flash s.m (fld p 0 1)) (fld p 4 4) (fld p 8 2))) := by
  have good : ¬ (fld p 8 2 = 0 ∨ 1008 < fld p 8 2 ∨ (!flashRange s.m h.port (fld p 0 1) (fld p 4 4) (fld p 8 2)) = true) := by
    simp [range]; omega
  exact completes_serve rfl taken (by simp only [flashReadAct, flashRange_ownerHeard, flash_ownerHeard, if_neg good]; rfl) (by simp)

theorem flashRead_refused (taken : Taken s.m (flashMsg 0x0040 (p.length == 16)) h p)
    (range : flashRange s.m h.port (fld p 0 1) (fld p 4 4) (fld p 8 2) = false) :
    Completes (.flashRead h p) s (fun m => m.flash = s.m.flash ∧ Answered m h 0x0009 []) :=
  completes_serve rfl taken (by simp [flashReadAct, range]; rfl) (by simp)

theorem flashWrite_programs (taken : Taken s.m (flashMsg 0x0041 (decide (16 ≤ p.length) && p.length == 16 + fld p 8 2)) h p)
    (some_ : 1 ≤ fld p 8 2) (most : fld p 8 2 ≤ 1008) (range : flashRange s.m h.port (fld p 0 1) (fld p 4 4) (fld p 8 2) = true)
    (wf : cellsWf (flash s.m (fld p 0 1)).cells = true)
    (erased : flashRead (flash s.m (fld p 0 1)) (fld p 4 4) (fld p 8 2) = List.replicate (fld p 8 2) 0xFF) :
    Completes (.flashWrite h p) s (fun m => flashRead (flash m (fld p 0 1)) (fld p 4 4) (fld p 8 2) = p.drop 16 ∧
      Answered m h 0 (le 4 (fld p 4 4) ++ le 2 (fld p 8 2) ++ le 2 0) ∧
      (∀ k, (k < fld p 4 4 ∨ fld p 4 4 + fld p 8 2 ≤ k) → flashRead (flash m (fld p 0 1)) k 1 = flashRead (flash s.m (fld p 0 1)) k 1) ∧
      m.mem = s.m.mem) := by
  have len : (p.drop 16).length = fld p 8 2 := by
    have ok := lenOk_of_taken taken
    simp only [flashMsg, ownMsg, Bool.and_eq_true, decide_eq_true_eq, beq_iff_eq] at ok
    rw [List.length_drop]
    omega
  have good : ¬ (fld p 8 2 = 0 ∨ 1008 < fld p 8 2 ∨ (!flashRange s.m h.port (fld p 0 1) (fld p 4 4) (fld p 8 2)) = true) := by
    simp [range]; omega
  have back := flashProgram_erased _ _ (p.drop 16) wf (by rwa [len])
  rw [len] at back
  refine completes_serve rfl taken (b := le 4 (fld p 4 4) ++ le 2 (fld p 8 2) ++ le 2 0) (c := 0)
    (m' := modFlash (ownerHeard s.m h.port) (fld p 0 1) (fun x => flashProgram x (fld p 4 4) (p.drop 16))) ?_ ⟨?_, answered_answer .., ?_, by simp⟩
  · simp only [flashWriteAct, flashRange_ownerHeard, if_neg good, flash_modFlash, flash_ownerHeard, back, if_true]
  · simpa using back
  · intro k out
    simpa using flashProgram_outside _ _ k _ wf (by rwa [len])

theorem flashErase_erases (taken : Taken s.m (flashMsg 0x0042 (p.length == 16)) h p) (some_ : 1 ≤ fld p 8 2) (most : fld p 8 2 ≤ 64)
    (aligned : fld p 4 4 % 0x10000 = 0) (range : flashRange s.m h.port (fld p 0 1) (fld p 4 4) (0x10000 * fld p 8 2) = true) :
    Completes (.flashErase h p none) s (fun m => m.mem = s.m.mem ∧
      (∃ x, m.svc.running = s.m.svc.running ++ [x] ∧ x.port = h.port ∧ x.seq = h.seq.toNat ∧ x.type = h.type.toNat ∧ x.status = 0 ∧
        x.body = le 4 (fld p 4 4) ++ le 2 (fld p 8 2) ++ le 2 0 ∧ x.blow = false ∧ s.m.now ≤ x.till ∧ x.till ≤ s.m.now + 2000000000 * fld p 8 2) ∧
      (∀ k, fld p 4 4 ≤ k → k < fld p 4 4 + 0x10000 * fld p 8 2 → flashRead (flash m (fld p 0 1)) k 1 = [0xFF]) ∧
      (cellsWf (flash s.m (fld p 0 1)).cells = true → ∀ k, (k < fld p 4 4 ∨ fld p 4 4 + 0x10000 * fld p 8 2 ≤ k) →
        flashRead (flash m (fld p 0 1)) k 1 = flashRead (flash s.m (fld p 0 1)) k 1)) := by
  have good : ¬ (fld p 8 2 = 0 ∨ 64 < fld p 8 2 ∨ fld p 4 4 % 0x10000 ≠ 0 ∨
      (!flashRange s.m h.port (fld p 0 1) (fld p 4 4) (0x10000 * fld p 8 2)) = true) := by
    simp [range, aligned]; omega
  have act : flashEraseAct h.port p none (ownerHeard s.m h.port) =
      (.later (2000000000 * fld p 8 2) false 0 (le 4 (fld p 4 4) ++ le 2 (fld p 8 2) ++ le 2 0),
        modFlash (ownerHeard s.m h.port) (fld p 0 1) (fun x => flashErase x (fld p 4 4) (0x10000 * fld p 8 2))) := by
    simp only [flashEraseAct, flashRange_ownerHeard, if_neg good, eraseSectors, if_true]
  refine completes_runM (exec_flashErase ..) ?_
  rw [serveAs_of_taken taken, act]
  refine ⟨by simp, ?_, ?_, ?_⟩
  · obtain ⟨x, running, rest⟩ := reply_later_running
      (modFlash (ownerHeard s.m h.port) (fld p 0 1) (fun x => flashErase x (fld p 4 4) (0x10000 * fld p 8 2))) h
      (2000000000 * fld p 8 2) false 0 (le 4 (fld p 4 4) ++ le 2 (fld p 8 2) ++ le 2 0)
    simp only [modFlash_now, ownerHeard_now, modFlash_running, ownerHeard_running] at running rest
    exact ⟨x, running, rest⟩
  · intro k lo hi
    simpa [flash_reply_later] using flashErase_inside _ _ _ k lo hi
  · intro wf k out
    simpa [flash_reply_later] using flashErase_outside _ _ _ k wf out

/-! ## Arming a fuse -/

theorem fuseArm_completes {P : Mach → Prop} {c : Nat} {b : Bytes} {m' : Mach} (taken : Taken s.m (ownMsg 0x0070 (p.length == 8)) h p)
    (act : fuseArmAct s.fuse p (ownerHeard s.m h.port) = (c, b, m')) (q : P (answer m' h c b)) : Completes (.fuseArm h p) s P :=
  completes_serve rfl taken act q

theorem fuseArm_cases (taken : Taken s.m (ownMsg 0x0070 (p.length == 8)) h p) :
    (s.m.mode.st ≠ .bare → Completes (.fuseArm h p) s (fun m => m.svc.armed = s.m.svc.armed ∧ Answered m h 0x0007 [])) ∧
    (s.m.mode.st = .bare → blowing s.m = true → Completes (.fuseArm h p) s (fun m => m.svc.armed = s.m.svc.armed ∧ Answered m h 0x0008 [])) ∧
    (s.m.mode.st = .bare → blowing s.m = false → fuseCodeGood s.fuse (fld p 0 1) = true →
      Completes (.fuseArm h p) s (fun m => ∃ v, m.svc.armed = some (fld p 0 1, v, s.m.now) ∧ v < 2 ^ 32 ∧
        Answered m h 0 (le 4 v ++ le 4 0) ∧ m.mode = s.m.mode ∧ m.mem = s.m.mem)) ∧
    (s.m.mode.st = .bare → blowing s.m = false → fuseCodeGood s.fuse (fld p 0 1) = false →
      Completes (.fuseArm h p) s (fun m => m.svc.armed = none ∧ Answered m h 0x0009 [])) := by
  refine ⟨fun other => ?mode, fun bare blow => ?busy, fun bare rest good => ?armed, fun bare rest bad => ?code⟩
  case mode => exact fuseArm_completes taken (by simp [fuseArmAct, other]; rfl) (by simp)
  case busy => exact fuseArm_completes taken (by simp [fuseArmAct, bare, blow]; rfl) (by simp)
  case code => exact fuseArm_completes taken (by simp [fuseArmAct, bare, rest, bad]; rfl) (by simp)
  case armed =>
    refine fuseArm_completes taken (by simp only [fuseArmAct, ownerHeard_mode, bare, blowing_ownerHeard, rest, good]; rfl) ⟨_, ?_, ?_, answered_answer .., ?_⟩
    · simp [takeFree]
    · exact Nat.mod_lt _ (by decide)
    · simp [takeFree]

theorem fuseArm_expires {c v t : Nat} (armed : s.m.svc.armed = some (c, v, t)) (late : t + 5000000000 < s.m.now) :
    exec .fuseArmExpiry s = .next { s with m := { s.m with svc := { s.m.svc with armed := some (0, 0, t) } } } := by
  simp [execFuseArmExpiry, runM, armed, late]

/-- Settles O60: what programming and erasing do to the bytes, and the four outcomes of FUSE_ARM. -/
theorem flashAndFuses : Obligations.FlashAndFuses :=
  ⟨fun _ _ _ => ⟨flashRead_answers, flashWrite_programs, flashErase_erases, flashRead_refused⟩,
    fun _ _ _ => ⟨fuseArm_cases, fun _ _ _ => fuseArm_expires⟩⟩

end Sys2Proof.Machine
end
section
/-! What folds, the entry into a mode, and the check for a lost minimum set leave (R26 to R28, R817 to R820). -/

namespace Sys2Proof.Machine

/-! ## Folds -/

/-- What every step of a fold keeps, the fold keeps. -/
theorem foldl_keeps {α β γ : Type} {f : β → α → β} (view : β → γ) (step : ∀ b a, view (f b a) = view b) (l : List α) (b : β) :
    view (l.foldl f b) = view b := by
  induction l generalizing b with
  | nil => rfl
  | cons a l ih => exact (ih (f b a)).trans (step b a)

theorem foldl_logged {α : Type} {f : Mach → α → Mach} (step : ∀ m a, Logged m (f m a)) (l : List α) (m : Mach) : Logged m (l.foldl f m) := by
  induction l generalizing m with
  | nil => exact .refl m
  | cons a l ih => exact (step m a).trans (ih (f m a))

/-- A fold whose every step leaves the machine alone. -/
theorem foldl_idle {α β : Type} {f : β → α → β} {l : List α} {b : β} (idle : ∀ a ∈ l, f b a = b) : l.foldl f b = b := by
  induction l with
  | nil => rfl
  | cons a l ih =>
    rw [List.foldl_cons, idle a List.mem_cons_self]
    exact ih fun a' ha => idle a' (List.mem_cons_of_mem a ha)

/-! ## The entry into a mode -/

section
variable (m : Mach) (st : Mode) (c : Nat)

/-- The machine in a mode, before anyone has been told. -/
def inMode : Mach := modMode m (fun x => { x with prior := x.st, st := st, cause := c, transit := false, entered := m.now })

/-- The entry into a mode tells the session owner, and the manager where an image is committed. -/
theorem enterMode_cases : ∃ w,
    enterMode m st c = notify (inMode m st c) 1 w ∨ enterMode m st c = raiseManager (notify (inMode m st c) 1 w) 0x14 0x0F00 w := by
  refine ⟨le 8 (modeWord (inMode m st c)).toNat, ?_⟩
  unfold enterMode
  dsimp only
  split
  · exact .inr rfl
  · exact .inl rfl

theorem enterMode_logged : Logged (inMode m st c) (enterMode m st c) := by
  obtain ⟨w, e | e⟩ := enterMode_cases m st c <;> rw [e]
  · exact notify_logged _ _ _
  · exact (notify_logged _ _ _).trans (raiseManager_logged _ _ _ _)

@[simp] theorem enterMode_mode : (enterMode m st c).mode = { m.mode with prior := m.mode.st, st := st, cause := c, transit := false, entered := m.now } :=
  (enterMode_logged m st c).mode
@[simp] theorem enterMode_mem : (enterMode m st c).mem = m.mem := (enterMode_logged m st c).mem
@[simp] theorem enterMode_image : (enterMode m st c).image = m.image := (enterMode_logged m st c).image
@[simp] theorem enterMode_seams : (enterMode m st c).seams = m.seams := (enterMode_logged m st c).seams
@[simp] theorem enterMode_chans : (enterMode m st c).chans = m.chans := (enterMode_logged m st c).chans
@[simp] theorem enterMode_engs : (enterMode m st c).engs = m.engs := (enterMode_logged m st c).engs
@[simp] theorem enterMode_jobs : (enterMode m st c).jobs = m.jobs := (enterMode_logged m st c).jobs
@[simp] theorem enterMode_load : (enterMode m st c).load = m.load := (enterMode_logged m st c).load
@[simp] theorem enterMode_svc : (enterMode m st c).svc = m.svc := (enterMode_logged m st c).svc
@[simp] theorem ustate_enterMode (k i : Nat) : ustate (enterMode m st c) k i = ustate m k i := (enterMode_logged m st c).ustate k i

end

/-! ## Error records leave the unit resets under way and the registers of the error log (R41, R830) -/

/-- The unit resets under way, `ERR_POLICY`, `ERR_SELECT` and the record that it shows are as they were. -/
structure ErrRegsKept (m m' : Mach) : Prop where
  resets : m'.resets = m.resets
  policy : m'.errs.policy = m.errs.policy
  select : m'.errs.select = m.errs.select
  loaded : m'.errs.loaded = m.errs.loaded

theorem ErrRegsKept.refl (m : Mach) : ErrRegsKept m m := ⟨rfl, rfl, rfl, rfl⟩

theorem ErrRegsKept.trans {a b c : Mach} (h : ErrRegsKept a b) (g : ErrRegsKept b c) : ErrRegsKept a c :=
  ⟨g.resets.trans h.resets, g.policy.trans h.policy, g.select.trans h.select, g.loaded.trans h.loaded⟩

section
variable (m : Mach)

/-- A notification touches neither the error log nor the unit resets. -/
theorem noteSend_errs (n : Notify) : (noteSend m n).2.errs = m.errs ∧ (noteSend m n).2.resets = m.resets := by
  unfold noteSend
  split <;> exact ⟨rfl, rfl⟩

theorem notify_errs (c : Nat) (b : Bytes) : (notify m c b).errs = m.errs ∧ (notify m c b).resets = m.resets := by
  unfold notify
  have cut : (if m.notes.length < 64 then m else { m with notes := m.notes.drop 1, noteDropped := m.noteDropped + 1 }).errs = m.errs ∧
      (if m.notes.length < 64 then m else { m with notes := m.notes.drop 1, noteDropped := m.noteDropped + 1 }).resets = m.resets := by
    split <;> exact ⟨rfl, rfl⟩
  generalize (if m.notes.length < 64 then m else { m with notes := m.notes.drop 1, noteDropped := m.noteDropped + 1 }) = x at cut
  obtain ⟨errs, resets⟩ := noteSend_errs x { seq := 0, content := c, body := b, sentAt := 0, sends := 0 }
  exact ⟨errs.trans cut.1, resets.trans cut.2⟩

theorem notify_errRegs (c : Nat) (b : Bytes) : ErrRegsKept m (notify m c b) := by
  obtain ⟨errs, resets⟩ := notify_errs m c b
  exact ⟨resets, congrArg _ errs, congrArg _ errs, congrArg _ errs⟩

theorem raiseManager_errRegs (cls src : Nat) (p : Bytes) : ErrRegsKept m (raiseManager m cls src p) := ⟨rfl, rfl, rfl, rfl⟩

theorem takeFree_errRegs : ErrRegsKept m (takeFree m).2 := ⟨rfl, rfl, rfl, rfl⟩
theorem takeStamp_errRegs (src : Nat) : ErrRegsKept m (takeStamp m src).2 := ⟨rfl, rfl, rfl, rfl⟩
theorem testRecord_errRegs (r : ErrRec) : ErrRegsKept m (testRecord m r) := ⟨rfl, rfl, rfl, rfl⟩
theorem countRecord_errRegs (key : Nat) (x : Suppress) : ErrRegsKept m (countRecord m key x) := ⟨rfl, rfl, rfl, rfl⟩
theorem placeRecord_errRegs (key : Nat) (r : ErrRec) : ErrRegsKept m (placeRecord m key r) := ⟨rfl, rfl, rfl, rfl⟩
theorem countUnit_errRegs (src cause : Nat) : ErrRegsKept m (countUnit m src cause) := ⟨rfl, rfl, rfl, rfl⟩

theorem tellOwner_errRegs (r : ErrRec) : ErrRegsKept m (tellOwner m r) := by
  unfold tellOwner
  split
  · exact notify_errRegs m _ _
  · exact .refl m

theorem tellManager_errRegs (r : ErrRec) : ErrRegsKept m (tellManager m r) := by
  unfold tellManager
  split
  · exact raiseManager_errRegs m _ _ _
  · exact .refl m

theorem raiseErr_errRegs (cause src : Nat) (d : Bytes) : ErrRegsKept m (raiseErr m cause src d) := by
  unfold raiseErr raiseErrD
  extract_lets key u rec_
  have stamped := takeStamp_errRegs m src
  split
  · exact stamped.trans (testRecord_errRegs _ _)
  · split
    · exact countRecord_errRegs m _ _
    · exact (((stamped.trans (placeRecord_errRegs _ _ _)).trans (countUnit_errRegs _ _ _)).trans (tellOwner_errRegs _ _)).trans
        (tellManager_errRegs _ _)

theorem inMode_errRegs (st : Mode) (c : Nat) : ErrRegsKept m (inMode m st c) := ⟨rfl, rfl, rfl, rfl⟩

theorem enterMode_errRegs (st : Mode) (c : Nat) : ErrRegsKept m (enterMode m st c) := by
  have told (w : Bytes) := (inMode_errRegs m st c).trans (notify_errRegs _ 1 w)
  obtain ⟨w, e | e⟩ := enterMode_cases m st c <;> rw [e]
  · exact told w
  · exact (told w).trans (raiseManager_errRegs _ _ _ _)

end

/-! ## Check-stop -/

/-- What Check-stop leaves of a module in which units work: memory, the image, the loader, engines, jobs, every unit's state, the unit resets and the
registers of the error log (R820). -/
structure StopKeeps (m m' : Mach) : Prop where
  mem : m'.mem = m.mem
  image : m'.image = m.image
  load : m'.load = m.load
  engs : m'.engs = m.engs
  jobs : m'.jobs = m.jobs
  ustate : ∀ k i, Machine.ustate m' k i = Machine.ustate m k i
  regs : ErrRegsKept m m'

theorem StopKeeps.refl (m : Mach) : StopKeeps m m := ⟨rfl, rfl, rfl, rfl, rfl, fun _ _ => rfl, .refl m⟩

theorem StopKeeps.trans {a b c : Mach} (h : StopKeeps a b) (g : StopKeeps b c) : StopKeeps a c :=
  ⟨g.mem.trans h.mem, g.image.trans h.image, g.load.trans h.load, g.engs.trans h.engs, g.jobs.trans h.jobs, fun k i => (g.ustate k i).trans (h.ustate k i), h.regs.trans g.regs⟩

theorem StopKeeps.of_logged {m m' : Mach} (h : Logged m m') (g : ErrRegsKept m m') : StopKeeps m m' := ⟨h.mem, h.image, h.load, h.engs, h.jobs, h.ustate, g⟩

theorem foldl_stopKeeps {α : Type} {f : Mach → α → Mach} (step : ∀ m a, StopKeeps m (f m a)) (l : List α) (m : Mach) : StopKeeps m (l.foldl f m) := by
  induction l generalizing m with
  | nil => exact .refl m
  | cons a l ih => exact (step m a).trans (ih (f m a))

theorem enterMode_stopKeeps (m : Mach) (st : Mode) (c : Nat) : StopKeeps m (enterMode m st c) :=
  ⟨enterMode_mem m st c, enterMode_image m st c, enterMode_load m st c, enterMode_engs m st c, enterMode_jobs m st c, ustate_enterMode m st c, enterMode_errRegs m st c⟩

theorem modMode_stopKeeps (m : Mach) (f : ModeSt → ModeSt) : StopKeeps m (modMode m f) := ⟨rfl, rfl, rfl, rfl, rfl, fun _ _ => rfl, ⟨rfl, rfl, rfl, rfl⟩⟩

theorem modPcie_stopKeeps (m : Mach) (p : Nat) (f : PcieSt → PcieSt) : StopKeeps m (modPcie m p f) :=
  ⟨rfl, rfl, rfl, rfl, rfl, fun _ _ => rfl, ⟨rfl, rfl, rfl, rfl⟩⟩

theorem setChan_stopKeeps (m : Mach) (c : Nat) (x : Chan) : StopKeeps m (setChan m c x) := ⟨rfl, rfl, rfl, rfl, rfl, fun _ _ => rfl, ⟨rfl, rfl, rfl, rfl⟩⟩

theorem raiseErr_stopKeeps (m : Mach) (cause src : Nat) (d : Bytes) : StopKeeps m (raiseErr m cause src d) :=
  .of_logged (raiseErr_logged m cause src d) (raiseErr_errRegs m cause src d)

/-- Check-stop records the condition, puts the channels in self-refresh, takes the PCIe links down and dumps. -/
theorem checkStop_stopKeeps (m : Mach) (item : Nat) : StopKeeps m (checkStop m item) := by
  unfold checkStop
  split
  · exact .refl m
  · dsimp only
    have recorded (d : Bytes) := (StopKeeps.of_logged (takeFree_logged m) (takeFree_errRegs m)).trans (raiseErr_stopKeeps _ 0x0006 0x0F00 d)
    split
    · exact recorded _
    · refine StopKeeps.trans ?_ (modMode_stopKeeps _ _)
      refine StopKeeps.trans ?_ (enterMode_stopKeeps _ _ _)
      refine StopKeeps.trans ?_ (foldl_stopKeeps (fun x p => modPcie_stopKeeps x p _) _ _)
      refine StopKeeps.trans ?_ (foldl_stopKeeps (fun x c => ?_) _ _)
      · exact (recorded _).trans (.of_logged (takeStamp_logged _ 0x0F00) (takeStamp_errRegs _ 0x0F00))
      · split
        · exact setChan_stopKeeps x c _
        · exact .refl x

/-- From a mode in which the mesh runs Check-stop is entered. -/
theorem checkStop_st {m : Mach} (runs : meshRuns m = true) (item : Nat) : (checkStop m item).mode.st = .checkStop := by
  have mode : m.mode.st = .service ∨ m.mode.st = .rework ∨ m.mode.st = .hold := by
    simpa [meshRuns, unitsRun, or_assoc] using runs
  have start : (m.mode.st == .bare || m.mode.st == .checkStop) = false := by rcases mode with e | e | e <;> rw [e] <;> rfl
  have test : ((raiseErr (takeFree m).2 0x0006 0x0F00 (le 2 ((takeFree m).1.toNat % 65536) ++ le 1 item)).mode.st == .test) = false := by
    rw [((takeFree_logged m).trans (raiseErr_logged _ _ _ _)).mode]
    rcases mode with e | e | e <;> rw [e] <;> rfl
  unfold checkStop
  rw [start]
  dsimp only
  simp only [Bool.false_eq_true, if_false]
  rw [if_neg (by simpa using test)]
  simp

/-! ## The check for losses -/

theorem lossCheck_stopKeeps (m : Mach) : StopKeeps m (lossCheck m) := by
  unfold lossCheck
  split
  · exact checkStop_stopKeeps m _
  · exact .refl m

theorem lossCheck_of_met {m : Mach} (met : minUnmet m = 0) : lossCheck m = m := by simp [lossCheck, met]

theorem lossCheck_of_idle {m : Mach} (idle : meshRuns m = false) : lossCheck m = m := by simp [lossCheck, idle]

theorem lossCheck_of_unmet {m : Mach} (runs : meshRuns m = true) (unmet : minUnmet m ≠ 0) : lossCheck m = checkStop m (minUnmet m) := by
  simp [lossCheck, runs, unmet]

theorem lossCheck_st_of_unmet {m : Mach} (runs : meshRuns m = true) (unmet : minUnmet m ≠ 0) : (lossCheck m).mode.st = .checkStop := by
  rw [lossCheck_of_unmet runs unmet]
  exact checkStop_st runs _

theorem completes_runAliveLoss {i : Instr} {s : State} {f : Mach → Mach} {P : Mach → Prop} (e : exec i s = runAliveLoss s f)
    (u : alive s.m = true) (q : P (lossCheck (f s.m))) : Completes i s P :=
  completes_runAlive e u q

theorem runAliveLoss_next {i : Instr} {s : State} {f : Mach → Mach} (e : exec i s = runAliveLoss s f) (u : alive s.m = true) :
    exec i s = .next { s with m := lossCheck (f s.m) } :=
  runAlive_next e u

end Sys2Proof.Machine
end
section
/-! Mode commands (R28, R30, R34, R35, R73, R79). -/

namespace Sys2Proof.Machine

variable {s : State} {h : SvcHdr} {p : Bytes}

/-! ## The checks that the mode commands share -/

/-- The rows of a mode command other than MODULE_RESET, each with its value (R79). -/
def modeRows (h : SvcHdr) (p : Bytes) : List (Nat × Instr) := [(1, .start h p), (3, .holdEnter h p), (4, .holdExit h p), (5, .testEnter h p), (6, .testExit h p)]

/-- What a mode command that is refused leaves: nothing but its answer. -/
def ModeRefused (s : State) (h : SvcHdr) (status : Nat) (m : Mach) : Prop :=
  m.mode = s.m.mode ∧ m.mem = s.m.mem ∧ m.image = s.m.image ∧ m.engs = s.m.engs ∧ Answered m h status []

theorem modeRefused_answer (c : Nat) : ModeRefused s h c (answer (ownerHeard s.m h.port) h c []) := by simp [ModeRefused]

section
variable {allowed : Mach → Nat} {act : Mach → Mach} {m : Mach}

theorem modeAct_unlisted (value : fld p 0 1 = 0 ∨ 6 < fld p 0 1) : modeAct p allowed act m = refusedWith 0x0009 m := if_pos value

theorem modeAct_busy (listed : 1 ≤ fld p 0 1 ∧ fld p 0 1 ≤ 6) (busy : m.mode.transit = true ∨ blowing m = true) :
    modeAct p allowed act m = refusedWith 0x0008 m := by
  rw [modeAct, if_neg (by omega), if_pos (by simpa using busy)]

/-- Outside a transition and a blow the mode decides. -/
theorem modeAct_free (listed : 1 ≤ fld p 0 1 ∧ fld p 0 1 ≤ 6) (still : m.mode.transit = false) (rest : blowing m = false) :
    modeAct p allowed act m = if allowed m = 0 then (0, le 8 (modeWord m).toNat, act m) else refusedWith (allowed m) m := by
  rw [modeAct, if_neg (by omega), if_neg (by simp [still, rest])]

end

/-- A mode command that is refused. -/
theorem mode_refused {i : Instr} {act : Mach → Nat × Bytes × Mach} {c : Nat} (e : exec i s = runM s (fun m => serve m (modeMsg p) h p act))
    (taken : Taken s.m (modeMsg p) h p) (r : act (ownerHeard s.m h.port) = refusedWith c (ownerHeard s.m h.port)) : Completes i s (ModeRefused s h c) :=
  completes_serve e taken r (modeRefused_answer c)

/-- TEST_EXIT where it does not reset the module. -/
theorem testExit_refused {c : Nat} (taken : Taken s.m (modeMsg p) h p)
    (stays : (s.m.mode.st == .test && fld p 0 1 == 6 && !s.m.mode.transit && !blowing s.m) = false)
    (r : modeAct p (fun m => if m.mode.st = .test then 0 else 7) (fun m => m) (ownerHeard s.m h.port) = refusedWith c (ownerHeard s.m h.port)) :
    Completes (.testExit h p) s (ModeRefused s h c) := by
  refine completes_runM (exec_testExit ..) ?_
  dsimp only
  rw [svcGate_of_taken taken, if_neg (by simpa [goes] using stays), serve_of_taken taken _ r]
  exact modeRefused_answer c

/-- A row whose value the table does not list is answered REFUSED. -/
theorem modeRows_unlisted (taken : Taken s.m (modeMsg p) h p) (value : fld p 0 1 = 0 ∨ 6 < fld p 0 1) :
    ∀ r ∈ modeRows h p, Completes r.2 s (ModeRefused s h 0x0009) := by
  simp only [modeRows, List.forall_mem_cons, List.not_mem_nil, false_imp_iff, implies_true, and_true]
  have other : (fld p 0 1 == 6) = false := by simp; omega
  exact ⟨mode_refused rfl taken (modeAct_unlisted value), mode_refused rfl taken (modeAct_unlisted value), mode_refused rfl taken (modeAct_unlisted value),
    mode_refused rfl taken (modeAct_unlisted value), testExit_refused taken (by simp [other]) (modeAct_unlisted value)⟩

/-- In a transition and during a blow every row is answered BUSY. -/
theorem modeRows_busy (taken : Taken s.m (modeMsg p) h p) (busy : s.m.mode.transit = true ∨ blowing s.m = true) :
    ∀ r ∈ modeRows h p, fld p 0 1 = r.1 → Completes r.2 s (ModeRefused s h 0x0008) := by
  have busy' : (ownerHeard s.m h.port).mode.transit = true ∨ blowing (ownerHeard s.m h.port) = true := by simpa using busy
  simp only [modeRows, List.forall_mem_cons, List.not_mem_nil, false_imp_iff, implies_true, and_true]
  refine ⟨fun v => mode_refused rfl taken (modeAct_busy (by omega) busy'), fun v => mode_refused rfl taken (modeAct_busy (by omega) busy'),
    fun v => mode_refused rfl taken (modeAct_busy (by omega) busy'), fun v => mode_refused rfl taken (modeAct_busy (by omega) busy'),
    fun v => testExit_refused taken ?_ (modeAct_busy (by omega) busy')⟩
  rcases busy with e | e <;> simp [e]

/-! ## Each command in a mode that takes it, and in one that does not -/

section
variable {i : Instr} {allowed : Mach → Nat} {act : Mach → Mach} {P : Mach → Prop}
variable (e : exec i s = runM s (fun m => serve m (modeMsg p) h p (modeAct p allowed act))) (taken : Taken s.m (modeMsg p) h p)
  (still : s.m.mode.transit = false) (rest : blowing s.m = false) (listed : 1 ≤ fld p 0 1 ∧ fld p 0 1 ≤ 6)
include e taken still rest listed

/-- A command that the mode takes answers MODE as it stood. -/
theorem mode_taken (ok : allowed (ownerHeard s.m h.port) = 0)
    (q : P (answer (act (ownerHeard s.m h.port)) h 0 (le 8 (modeWord s.m).toNat))) : Completes i s P := by
  refine completes_serve e taken ?_ q
  rw [modeAct_free listed (by simpa using still) (by simpa using rest), if_pos ok, modeWord_ownerHeard]

theorem mode_not_allowed {c : Nat} (status : allowed (ownerHeard s.m h.port) = c) (bad : c ≠ 0) : Completes i s (ModeRefused s h c) := by
  refine mode_refused e taken ?_
  rw [modeAct_free listed (by simpa using still) (by simpa using rest), status, if_neg bad]

end

/-! ### START: the physical stage (R104, R851) -/

/-- Releasing units from reset leaves the image, the memory and the mode. -/
structure StageKeeps (m m' : Mach) : Prop where
  mode : m'.mode = m.mode
  image : m'.image = m.image
  mem : m'.mem = m.mem

theorem StageKeeps.refl (m : Mach) : StageKeeps m m := ⟨rfl, rfl, rfl⟩
theorem StageKeeps.trans {a b c : Mach} (h : StageKeeps a b) (g : StageKeeps b c) : StageKeeps a c :=
  ⟨g.mode.trans h.mode, g.image.trans h.image, g.mem.trans h.mem⟩

theorem foldl_stageKeeps {α : Type} {f : Mach → α → Mach} (step : ∀ m a, StageKeeps m (f m a)) (l : List α) (m : Mach) : StageKeeps m (l.foldl f m) := by
  induction l generalizing m with
  | nil => exact .refl m
  | cons a l ih => exact (step m a).trans (ih (f m a))

section
variable (m : Mach)

theorem domStart_stageKeeps (d : Nat) : StageKeeps m (domStart m d) := ⟨rfl, rfl, rfl⟩

theorem chanStart_stageKeeps (c : Nat) : StageKeeps m (chanStart m c) := by
  unfold chanStart
  dsimp only
  split
  · exact .refl m
  · split <;> exact ⟨rfl, rfl, rfl⟩

theorem linkStart_stageKeeps (l : Nat) : StageKeeps m (linkStart m l) := by
  unfold linkStart
  split
  · exact .refl m
  · exact ⟨rfl, rfl, rfl⟩

theorem portStart_stageKeeps (k : Nat) : StageKeeps m (portStart m k) := by
  unfold portStart
  split
  · exact .refl m
  · exact ⟨rfl, rfl, rfl⟩

/-- START enters Training with the physical stage of the candidate. -/
theorem startNow_enters {b : Bytes} (candidate : m.load.candidate = some b) :
    ∃ m', StageKeeps { m with image := (imageRecords b).filter (fun q => kindPhysical (q.1 / 65536)) } m' ∧ startNow m = enterMode m' .training 0x04 := by
  unfold startNow
  rw [candidate]
  refine ⟨_, ?_, rfl⟩
  dsimp only
  refine StageKeeps.trans ?_ (foldl_stageKeeps domStart_stageKeeps _ _)
  refine StageKeeps.trans ?_ (foldl_stageKeeps portStart_stageKeeps _ _)
  refine StageKeeps.trans ?_ (foldl_stageKeeps linkStart_stageKeeps _ _)
  refine StageKeeps.trans ?_ (foldl_stageKeeps (fun x k => ?_) _ _)
  · refine StageKeeps.trans ?_ (foldl_stageKeeps chanStart_stageKeeps _ _)
    exact ⟨rfl, rfl, rfl⟩
  · split
    · exact ⟨rfl, rfl, rfl⟩
    · exact .refl x

end

theorem start_enters_training (taken : Taken s.m (modeMsg p) h p) (still : s.m.mode.transit = false) (rest : blowing s.m = false) (value : fld p 0 1 = 1)
    (bare : s.m.mode.st = .bare) (verified : s.m.mode.verified = true) {b : Bytes} (candidate : s.m.load.candidate = some b) :
    Completes (.start h p) s (fun m => m.mode.st = .training ∧ m.mode.cause = 0x04 ∧ m.mode.prior = .bare ∧ m.mode.transit = false ∧
      m.image = (imageRecords b).filter (fun r => kindPhysical (r.1 / 65536)) ∧ m.mem = s.m.mem ∧ Answered m h 0 (le 8 (modeWord s.m).toNat)) := by
  obtain ⟨m', ⟨mode, image, mem⟩, eq⟩ := startNow_enters (ownerHeard s.m h.port) (b := b) (by simpa using candidate)
  refine mode_taken rfl taken still rest (by omega) (by simp [bare, verified]) ?_
  rw [eq]
  simp [mode, image, mem, bare]

/-! ### HOLD_ENTER and HOLD_EXIT -/

/-- HOLD_ENTER begins the transition; engines and memory are as they were. -/
theorem holdBegins_keeps (m : Mach) :
    (holdBegins m).mode = { m.mode with transit := true, holdStart := some m.now } ∧ (holdBegins m).mem = m.mem ∧ (holdBegins m).engs = m.engs := by
  have chans (l : List Nat) (x : Mach) := foldl_keeps (fun m => (m.mode, m.mem, m.engs)) (f := fun (m : Mach) c =>
    if (chan m c).phase = .running then modChan m c (fun x => { x with srStep := 1 }) else m) (fun x c => by split <;> rfl) l x
  have links (l : List Nat) (x : Mach) := foldl_keeps (fun m => (m.mode, m.mem, m.engs)) (f := fun (m : Mach) l =>
    if (link m l).st = .up then emit (modLink m l (fun x => { x with pauseAt := m.now })) (.pause l (bit (imgFld m 0x000C l 1 1) 2) 0xFFFF) else m)
    (fun x c => by split <;> rfl) l x
  have both := (links (List.range 8) _).trans (chans (List.range 12) (modMode m (fun x => { x with transit := true, holdStart := some m.now })))
  simp only [Prod.mk.injEq] at both
  exact both

theorem holdEnter_begins (taken : Taken s.m (modeMsg p) h p) (still : s.m.mode.transit = false) (rest : blowing s.m = false) (value : fld p 0 1 = 3)
    (runs : unitsRun s.m = true) :
    Completes (.holdEnter h p) s (fun m => m.mode.st = s.m.mode.st ∧ m.mode.transit = true ∧ m.mode.holdStart = some s.m.now ∧
      m.mem = s.m.mem ∧ m.engs = s.m.engs ∧ Answered m h 0 (le 8 (modeWord s.m).toNat)) := by
  obtain ⟨mode, mem, engs⟩ := holdBegins_keeps (ownerHeard s.m h.port)
  refine mode_taken rfl taken still rest (by omega) (by simp [runs]) ?_
  simp [mode, mem, engs]

theorem holdExit_begins (taken : Taken s.m (modeMsg p) h p) (still : s.m.mode.transit = false) (rest : blowing s.m = false) (value : fld p 0 1 = 4)
    (hold : s.m.mode.st = .hold) :
    Completes (.holdExit h p) s (fun m => m.mode = { s.m.mode with transit := true } ∧ m.mem = s.m.mem ∧ m.chans = s.m.chans ∧
      Answered m h 0 (le 8 (modeWord s.m).toNat)) :=
  mode_taken rfl taken still rest (by omega) (by simp [hold]) (by simp)

/-! ### TEST_ENTER, TEST_EXIT and MODULE_RESET -/

theorem testEnter_enters (taken : Taken s.m (modeMsg p) h p) (still : s.m.mode.transit = false) (rest : blowing s.m = false) (value : fld p 0 1 = 5)
    (bare : s.m.mode.st = .bare) (allowed : s.m.mode.testAllowed = true) :
    Completes (.testEnter h p) s (fun m => m.mode.st = .test ∧ m.mode.cause = 0x0C ∧ m.mem = s.m.mem ∧
      Answered m h 0 (le 8 (modeWord s.m).toNat)) :=
  mode_taken rfl taken still rest (by omega) (by simp [bare, allowed]) (by simp)

/-- A module reset: Bare with its cause, nothing of what the module held, and the error records kept (R39). -/
theorem moduleResetNow_clears (f : Fuses) (m : Mach) (cause : Nat) :
    (moduleResetNow f m cause).mode.st = .bare ∧ (moduleResetNow f m cause).mode.cause = cause ∧ (moduleResetNow f m cause).mode.transit = false ∧
      (moduleResetNow f m cause).svc.owner = none ∧ (moduleResetNow f m cause).image = [] ∧
      (moduleResetNow f m cause).errs.retained = m.errs.retained ∧ (moduleResetNow f m cause).mem = Mach.reset.mem := by
  unfold moduleResetNow
  dsimp only
  have told := notify_logged { afterReset m with
    mode := { ModeSt.reset with testAllowed := !testBlown f, entered := m.now, cause := cause },
    units := m.units.map (fun (p : Nat × UnitSt) => (p.1, { UnitSt.reset with tags := p.2.tags })),
    errs := { ErrSt.reset with index := m.errs.index, retained := m.errs.retained } } 1
  rw [(told _).mode, (told _).svc, (told _).image, (told _).mem, (notify_errs _ _ _).1]
  exact ⟨rfl, rfl, rfl, rfl, rfl, rfl, rfl⟩

theorem testExit_resets (taken : Taken s.m (modeMsg p) h p) (still : s.m.mode.transit = false) (rest : blowing s.m = false) (value : fld p 0 1 = 6)
    (test : s.m.mode.st = .test) :
    Completes (.testExit h p) s (fun m => m.mode.st = .bare ∧ m.mode.cause = 0x03 ∧ m.svc.owner = none ∧
      m.errs.retained = s.m.errs.retained) := by
  refine completes_runM (exec_testExit ..) ?_
  dsimp only
  have r := modeAct_free (p := p) (m := ownerHeard s.m h.port) (allowed := fun m => if m.mode.st = .test then 0 else 7) (act := fun m => m)
    (by omega) (by simpa using still) (by simpa using rest)
  rw [svcGate_of_taken taken, if_pos (by simp [goes, test, value, still, rest]), serve_of_taken taken _ (r.trans (if_pos (by simp [test])))]
  obtain ⟨st, cause, _, owner, _, retained, _⟩ := moduleResetNow_clears s.fuse (answer (ownerHeard s.m h.port) h 0 (le 8 (modeWord (ownerHeard s.m h.port)).toNat)) 0x03
  exact ⟨st, cause, owner, by simpa using retained⟩

theorem moduleReset_resets (taken : Taken s.m (resetMsg p) h p) (value : fld p 0 1 = 2) (rest : blowing s.m = false) :
    Completes (.moduleReset h p) s (fun m => m.mode.st = .bare ∧ m.mode.cause = 0x03 ∧ m.mode.transit = false ∧ m.svc.owner = none ∧ m.image = [] ∧
      m.errs.retained = s.m.errs.retained ∧ m.mem = Mach.reset.mem) := by
  refine completes_runM (exec_moduleReset ..) ?_
  dsimp only
  rw [resetTaken, svcGate_of_taken taken, if_pos (by simp [goes, value, rest]),
    serve_of_taken taken (c := 0) (b := le 8 (modeWord s.m).toNat) (m' := ownerHeard s.m h.port) _ (by simp [value, rest])]
  obtain ⟨st, cause, transit, owner, image, retained, mem⟩ := moduleResetNow_clears s.fuse (answer (ownerHeard s.m h.port) h 0 (le 8 (modeWord s.m).toNat)) 0x03
  exact ⟨st, cause, transit, owner, image, by simpa using retained, mem⟩

theorem moduleReset_busy (taken : Taken s.m (resetMsg p) h p) (value : fld p 0 1 = 2) (blow : blowing s.m = true) :
    Completes (.moduleReset h p) s (ModeRefused s h 0x0008) := by
  refine completes_runM (exec_moduleReset ..) ?_
  dsimp only
  rw [resetTaken, if_neg (by simp [blow]),
    serve_of_taken taken (c := 0x0008) (b := []) (m' := ownerHeard s.m h.port) _ (by simp [value, blow, refusedWith])]
  exact modeRefused_answer _

end Sys2Proof.Machine
end
section
/-! Transitions that complete: Hold entered and left, Training's end, the end of Rework (R28, R32, R34, R35, R121, R131, R132). -/

namespace Sys2Proof.Machine

/-! ## Hold entry -/

section
variable (m : Mach)

theorem ledgerCheck_logged (addr src issued returned holding : Nat) : Logged m (ledgerCheck m addr src issued returned holding) := by
  unfold ledgerCheck
  dsimp only
  split
  · exact .refl m
  · exact (setErrs_logged m _).trans (raiseErr_logged _ _ _ _)

theorem leaseLedgers_logged (l : Nat) : Logged m (leaseLedgers m l) := by
  unfold leaseLedgers
  dsimp only
  exact (((ledgerCheck_logged m _ _ _ _ _).trans (ledgerCheck_logged _ _ _ _ _ _)).trans (ledgerCheck_logged _ _ _ _ _ _)).trans
    (ledgerCheck_logged _ _ _ _ _ _)

/-- Comparing every ledger with its holding writes error records and no more. -/
theorem ledgersCheck_logged : Logged m (ledgersCheck m) := by
  unfold ledgersCheck
  dsimp only
  refine Logged.trans ?_ (foldl_logged (fun x _ => foldl_logged (fun y _ => ledgerCheck_logged y _ _ _ _ _) _ x) _ _)
  refine Logged.trans ?_ (foldl_logged (fun x _ => ledgerCheck_logged x _ _ _ _ _) _ _)
  refine Logged.trans ?_ (foldl_logged (fun x _ => (ledgerCheck_logged x _ _ _ _ _).trans (ledgerCheck_logged _ _ _ _ _ _)) _ _)
  exact (foldl_logged (fun x _ => leaseLedgers_logged x _) _ m).trans (ledgerCheck_logged _ _ _ _ _ _)

end

theorem chan_modChan (m : Mach) (c k : Nat) (f : Chan → Chan) : chan (modChan m c f) k = if c = k then f (chan m c) else chan m k := by
  simp [chan, tget_tset]

/-- The channels of a list put in self-refresh. -/
def selfRefreshAll (l : Tbl Phase) (m : Mach) : Mach := l.foldl (fun m c => modChan m c.1 (fun x => { x with phase := .selfRefresh, srStep := 3 })) m

theorem selfRefreshAll_keeps (l : Tbl Phase) (m : Mach) : (selfRefreshAll l m).mem = m.mem ∧ (selfRefreshAll l m).mode = m.mode := by
  have keeps := foldl_keeps (fun m => (m.mem, m.mode)) (f := fun (m : Mach) (c : Nat × Phase) =>
    modChan m c.1 (fun x => { x with phase := .selfRefresh, srStep := 3 })) (fun _ _ => rfl) l m
  simpa [selfRefreshAll] using keeps

/-- A channel of the list is in self-refresh, and one that was stays so. -/
theorem selfRefreshAll_phase (l : Tbl Phase) (c : Nat) : ∀ m : Mach, ((∃ q ∈ l, q.1 = c) ∨ (chan m c).phase = .selfRefresh) →
    (chan (selfRefreshAll l m) c).phase = .selfRefresh := by
  induction l with
  | nil =>
    intro m listed
    exact listed.resolve_left fun ⟨_, hq, _⟩ => nomatch hq
  | cons q l ih =>
    intro m listed
    refine ih _ ?_
    rw [chan_modChan]
    split
    · exact .inr rfl
    · next other =>
      rcases listed with ⟨r, hr, e⟩ | already
      · rcases List.mem_cons.1 hr with rfl | hr
        · exact absurd e other
        · exact .inl ⟨r, hr, e⟩
      · exact .inr already

/-- The channels that Hold puts in self-refresh, with their phases. -/
def holdChans (m : Mach) : Tbl Phase :=
  ((List.range 12).filter (fun c => (chan m c).phase == .running || (chan m c).phase == .retraining || (chan m c).phase == .catchUp)).map
    (fun c => (c, (chan m c).phase))

theorem holdChans_listed {m : Mach} {c : Nat} (lt : c < 12) (running : (chan m c).phase = .running) : ∃ q ∈ holdChans m, q.1 = c :=
  ⟨(c, .running), List.mem_map.2 ⟨c, List.mem_filter.2 ⟨List.mem_range.2 lt, by simp [running]⟩, by rw [running]⟩, rfl⟩

section
variable {m : Mach} (runs : unitsRun m = true) (begun : m.mode.holdStart.isSome = true) (drained : chansDrained m = true) (closed : targetOpen m = false)
include runs begun drained closed

theorem holdEntered_of_drained : holdEntered m =
    (let m := (List.range 8).foldl (fun m k => if (workUnit m 0 k).run.isSome then crushBoundary m k else m) m
     let m := (List.range 10).foldl (fun m u => if (workUnit m 1 u).run.isSome then cipherBoundary m u else m) m
     enterMode (modMode (ledgersCheck (selfRefreshAll (holdChans m) m)) (fun x => { x with srChans := holdChans m })) .hold 0x0A) := by
  have some_ : m.mode.holdStart.isNone = false := by rw [← Option.not_isSome, begun]; rfl
  unfold holdEntered
  exact if_neg (by simp [runs, some_, drained, closed])

variable (idle : ∀ k, k < 10 → (workUnit m 0 k).run = none ∧ (workUnit m 1 k).run = none)
include idle

/-- With no crusher and no cipher engine at work, Hold entry ends with the self-refresh of the channels and the comparison of the ledgers. -/
theorem holdEntered_eq :
    holdEntered m = enterMode (modMode (ledgersCheck (selfRefreshAll (holdChans m) m)) (fun x => { x with srChans := holdChans m })) .hold 0x0A := by
  have crush : (List.range 8).foldl (fun m k => if (workUnit m 0 k).run.isSome then crushBoundary m k else m) m = m :=
    foldl_idle fun k hk => if_neg (by rw [(idle k (by have := List.mem_range.1 hk; omega)).1]; simp)
  have ciph : (List.range 10).foldl (fun m u => if (workUnit m 1 u).run.isSome then cipherBoundary m u else m) m = m :=
    foldl_idle fun k hk => if_neg (by rw [(idle k (List.mem_range.1 hk)).2]; simp)
  rw [holdEntered_of_drained runs begun drained closed, crush]
  dsimp only
  rw [ciph]

theorem holdEntered_holds :
    (holdEntered m).mode.st = .hold ∧ (holdEntered m).mode.cause = 0x0A ∧ (holdEntered m).mem = m.mem ∧
      ∀ c, c < 12 → (chan m c).phase = .running → (chan (holdEntered m) c).phase = .selfRefresh := by
  rw [holdEntered_eq runs begun drained closed idle]
  have logged := ledgersCheck_logged (selfRefreshAll (holdChans m) m)
  refine ⟨by rw [enterMode_mode], by rw [enterMode_mode], ?_, fun c lt running => ?_⟩
  · rw [enterMode_mem, modMode_mem, logged.mem, (selfRefreshAll_keeps _ _).1]
  · have phase := selfRefreshAll_phase (holdChans m) c m (.inl (holdChans_listed lt running))
    rwa [chan, enterMode_chans, modMode_chans, logged.chans]

end

/-- A transition into a mode in which the mesh runs, and the check for losses at its end. -/
theorem completes_transition {i : Instr} {s : State} {f : Mach → Mach} {P : Mach → Prop} (e : exec i s = runAliveLoss s f) (u : alive s.m = true)
    (runs : meshRuns (f s.m) = true) (mem : (f s.m).mem = s.m.mem) (q : P (f s.m)) :
    (minUnmet (f s.m) = 0 → Completes i s P) ∧ (minUnmet (f s.m) ≠ 0 → Completes i s (fun m => m.mode.st = .checkStop ∧ m.mem = s.m.mem)) :=
  ⟨fun met => completes_runAliveLoss e u (by rwa [lossCheck_of_met met]),
    fun unmet => completes_runAliveLoss e u ⟨lossCheck_st_of_unmet runs unmet, (lossCheck_stopKeeps _).mem.trans mem⟩⟩

theorem holdEntry_completes {s : State} (runs : unitsRun s.m = true) (begun : s.m.mode.holdStart.isSome = true) (drained : chansDrained s.m = true)
    (closed : targetOpen s.m = false) (idle : ∀ k, k < 10 → (workUnit s.m 0 k).run = none ∧ (workUnit s.m 1 k).run = none) :
    (minUnmet (holdEntered s.m) = 0 → Completes .holdEntryComplete s (fun m => m.mode.st = .hold ∧ m.mode.cause = 0x0A ∧ m.mem = s.m.mem ∧
      ∀ c, c < 12 → (chan s.m c).phase = .running → (chan m c).phase = .selfRefresh)) ∧
    (minUnmet (holdEntered s.m) ≠ 0 → Completes .holdEntryComplete s (fun m => m.mode.st = .checkStop ∧ m.mem = s.m.mem)) := by
  have holds := holdEntered_holds runs begun drained closed idle
  exact completes_transition (exec_holdEntryComplete ..) (alive_of_unitsRun runs) (by simp [meshRuns, holds.1]) holds.2.2.1 holds

/-! ## Hold exit -/

/-- The mode that Hold is left for: Rework where it was entered from there or a recovery waits, else Service (R35). -/
def afterHold (m : Mach) : Mode := if m.mode.prior = .rework ∨ m.mode.recPending = true then .rework else .service

theorem holdExited_leaves {m : Mach} (hold : m.mode.st = .hold) (transit : m.mode.transit = true) (none_ : m.mode.deferred = []) :
    (holdExited m).mode.st = afterHold m ∧ (holdExited m).mode.cause = 0x0B ∧ (holdExited m).mode.holdStart = none ∧ (holdExited m).mem = m.mem := by
  have keeps := foldl_keeps (fun m => (m.mode, m.mem)) (f := fun (m : Mach) (c : Nat × Phase) =>
    modChan m c.1 (fun x => { x with phase := if x.phase = .selfRefresh then c.2 else x.phase, srStep := 0 })) (fun _ _ => rfl) m.mode.srChans m
  unfold holdExited
  rw [if_neg (by simp [hold, transit])]
  dsimp only
  generalize List.foldl _ m m.mode.srChans = x at keeps ⊢
  simp only [Prod.mk.injEq] at keeps
  obtain ⟨mode, mem⟩ := keeps
  simp [txnClocksShift, modChn, mode, mem, none_, afterHold]

theorem holdExit_completes {s : State} (hold : s.m.mode.st = .hold) (transit : s.m.mode.transit = true) (none_ : s.m.mode.deferred = []) :
    (minUnmet (holdExited s.m) = 0 → Completes .holdExitComplete s (fun m => m.mode.st = afterHold s.m ∧ m.mode.cause = 0x0B ∧
      m.mode.holdStart = none ∧ m.mem = s.m.mem)) ∧
    (minUnmet (holdExited s.m) ≠ 0 → Completes .holdExitComplete s (fun m => m.mode.st = .checkStop ∧ m.mem = s.m.mem)) := by
  have leaves := holdExited_leaves hold transit none_
  refine completes_transition (exec_holdExitComplete ..) (by simp [alive, hold]) ?_ leaves.2.2.2 leaves
  rw [meshRuns, unitsRun, leaves.1, afterHold]
  split <;> rfl

/-! ## Training's end -/

/-- The units that start with Loading change their states and nothing else. -/
theorem storesStart_keeps (m : Mach) (all : Recs) : (storesStart m all).mode = m.mode ∧ (storesStart m all).load = m.load := by
  have set (kind : Nat) (l : List Nat) (x : Mach) (g : Nat → Nat) := foldl_keeps (fun m => (m.mode, m.load))
    (f := fun (m : Mach) i => setUState m kind (g i) .starting) (fun _ _ => rfl) l x
  unfold storesStart
  have both := (foldl_keeps (fun m => (m.mode, m.load)) (f := fun (m : Mach) c => if hubIn m (c / 8) then setUState m 0x08 c .starting else m)
    (fun x c => by split <;> rfl) (List.range 16) _).trans
    (foldl_keeps (fun m => (m.mode, m.load)) (f := fun (m : Mach) b =>
      if bit (fld (all 1 b) 5 1) 0 then (List.range 17).foldl (fun m s => setUState m 0x02 (engineOf b s) .starting) m else m)
      (fun x b => by split; exacts [set 0x02 _ x (engineOf b), rfl]) (List.range 64) m)
  simpa using both

/-- The units of the physical stage returned to reset: the mode stays, and no image and no seam is left. -/
theorem physicalReset_clears (m : Mach) : (physicalReset m).image = [] ∧ (physicalReset m).seams = [] := ⟨rfl, rfl⟩

theorem training_ends {s : State} (r : TrainResult) (training : s.m.mode.st = .training)
    (ended : allTrained s.m r = true ∨ s.m.mode.entered + 10000000000 ≤ s.m.now) :
    let unmet := startUnmet (trainedUnits s.m r) (recsOf (imageRecords (s.m.load.candidate.getD [])))
    (unmet = 0 → Completes (.trainingEnd r) s (fun m => m.mode.st = .loading ∧ m.mode.cause = 0x05 ∧ m.load.st = .checking)) ∧
    (unmet ≠ 0 → Completes (.trainingEnd r) s (fun m => m.mode.st = .bare ∧ m.mode.cause = 0x0E ∧ m.image = [] ∧ m.seams = [])) := by
  have goes_ : ¬ (s.m.mode.st ≠ .training ∨ (¬ allTrained s.m r = true ∧ s.m.now < s.m.mode.entered + 10000000000)) := by
    rintro (other | ⟨open_, early⟩)
    · exact other training
    · exact ended.elim open_ (by omega)
  have alive_ : alive s.m = true := by simp [alive, training]
  refine ⟨fun met => completes_runAlive (exec_trainingEnd ..) alive_ ?_, fun unmet => completes_runAlive (exec_trainingEnd ..) alive_ ?_⟩
  · rw [trainingEnds, if_neg (by simpa using goes_)]
    dsimp only
    rw [if_pos met, (storesStart_keeps _ _).1, (storesStart_keeps _ _).2]
    simp
  · rw [trainingEnds, if_neg (by simpa using goes_)]
    dsimp only
    rw [if_neg unmet]
    simp [physicalReset_clears]

/-! ## The end of Rework -/

theorem rework_completes {s : State} (rework : s.m.mode.st = .rework) (noHold : s.m.mode.holdStart = none) (idle : s.m.load.st = .idle)
    (found : s.m.mode.found = []) (done : ∀ p ∈ s.m.mode.recoveries, p.2 = true) :
    Completes .reworkComplete s (fun m => m.mode.st = .service ∧ m.mode.cause = 0x09 ∧ m.mode.recoveries = [] ∧ m.mem = s.m.mem ∧ m.engs = s.m.engs) := by
  have ends : ¬ (s.m.mode.st ≠ .rework ∨ holding s.m = true ∨ s.m.load.st ≠ .idle ∨ (!s.m.mode.found.isEmpty) = true ∨
      s.m.mode.recoveries.any (fun (p : FaultEv × Bool) => !p.2) = true) := by
    simp only [rework, holding, noHold, idle, found, List.any_eq_true, not_or]
    simpa using done
  refine completes_runUnits (exec_reworkComplete ..) (by simp [unitsRun, rework]) ?_
  rw [reworkEnds, if_neg ends]
  simp

/-! ## The statement -/

/-- Settles O55: the mode commands by what the checks they share answer and by what each does, and each transition by what it leaves. -/
theorem modes : Obligations.Modes := by
  refine ⟨fun s h p => ⟨fun taken => ⟨?unlisted, ?busy, fun still rest => ?free⟩, moduleReset_resets, moduleReset_busy⟩,
    fun s => ⟨holdEntry_completes, holdExit_completes, training_ends, rework_completes⟩⟩
  case unlisted => exact fun n c row value => modeRows_unlisted taken value (n, c) row
  case busy => exact fun n c row value busy => modeRows_busy taken busy (n, c) row value
  case free =>
    refine ⟨fun value bare verified b => start_enters_training taken still rest value bare verified, fun value other => ?_,
      holdEnter_begins taken still rest, fun value other => ?_, holdExit_begins taken still rest, fun value other => ?_,
      testEnter_enters taken still rest, fun value bare forbidden => ?_, fun value other => ?_, testExit_resets taken still rest, fun value other => ?_⟩
    · exact mode_not_allowed rfl taken still rest (by omega) (if_neg (by simpa [← Bool.not_eq_true, imp_iff_not_or] using other)) (by decide)
    · exact mode_not_allowed rfl taken still rest (by omega) (if_neg (by simp [other])) (by decide)
    · exact mode_not_allowed rfl taken still rest (by omega) (if_neg (by simpa using other)) (by decide)
    · exact mode_not_allowed rfl taken still rest (by omega) (by simp [bare, forbidden]) (by decide)
    · exact mode_not_allowed rfl taken still rest (by omega) (if_pos (by simpa using other)) (by decide)
    · refine testExit_refused taken (by simp [other]) ?_
      rw [modeAct_free (by omega) (by simpa using still) (by simpa using rest), ownerHeard_mode, if_neg other]
      rfl

end Sys2Proof.Machine
end
section
/-! Register writes and reads, unit resets and their end (R5, R8 to R10, R40, R41, R45, R813, R830). -/

namespace Sys2Proof.Machine

/-! ## Where a register lies (R5) -/

theorem kindCount_le (k : Nat) : kindCount k ≤ 1088 := by
  unfold kindCount
  split <;> decide

theorem ctlPlace_regAddr {k i off : Nat} (unit : i < kindCount k) (inside : off < 0x100000) : ctlPlace (regAddr k i off) = some (k, i, off) := by
  have few := kindCount_le k
  have kind : (regAddr k i off - 0xFFF0000000000) / 0x100000000 = k := by unfold regAddr; omega
  have index : (regAddr k i off - 0xFFF0000000000) / 0x100000 % 4096 = i := by unfold regAddr; omega
  have offset : (regAddr k i off - 0xFFF0000000000) % 0x100000 = off := by unfold regAddr; omega
  have control : 0xFFF0000000000 ≤ regAddr k i off := by unfold regAddr; omega
  simp only [ctlPlace, kind, index, offset]
  exact if_pos ⟨control, unit⟩

/-- A write by the manager or the service controller, of a register outside the tag area of a unit with a role, goes to the register's own rule. -/
theorem writeCheck_regAddr {m : Mach} {a : Actor} {k i off : Nat} {v : Word} (unit : i < kindCount k) (inside : off < 0x100000) (aligned : off % 8 = 0)
    (here : (readReg m k i off).isNone = false) (noTag : off < 0x20 ∨ 0x40 ≤ off) (role : unitHasRole m k i = true) (may : privileged a = true)
    (noTime : k = 0x0D → off ≠ 0x108) (service : serviceReturn k off = true → a = .service) :
    writeCheck m a (regAddr k i off) 8 v = (writeReg m k i off v).elim (.error 5) .ok := by
  have multiple : regAddr k i off % 8 = 0 := by unfold regAddr; omega
  have sender : (serviceReturn k off && a != .service) = false := by
    cases e : serviceReturn k off
    · rfl
    · simp [service e]
  unfold writeCheck
  rw [if_neg (by decide), if_neg (by simp [multiple]), ctlPlace_regAddr unit inside]
  dsimp only
  rw [if_neg (by simp [here]), if_neg (by omega), if_neg (by simp [role]), if_neg (by simp [may]), if_neg (fun ⟨kind, time, _⟩ => noTime kind time),
    if_neg (by simp [sender])]
  cases writeReg m k i off v <;> rfl

/-- The reset register of a unit with a role (R40, R45). -/
theorem writeCheck_reset {m : Mach} {a : Actor} {k i : Nat} {v : Word} (unit : i < kindCount k) (role : unitHasRole m k i = true)
    (may : privileged a = true) (service : k = 0x0E → a = .service) :
    writeCheck m a (regAddr k i 0x10) 8 v =
      if resetKey v.toNat = false then .ok m else if resettable m k i = true then .ok (domReset (resetNow m k i) k i) else .error 5 := by
  rw [writeCheck_regAddr unit (by decide) (by decide) rfl (by decide) role may (fun _ => by decide)
    (fun e => service (by simpa [serviceReturn] using e))]
  have rule : writeReg m k i 0x10 v =
      if !resetKey v.toNat then some m else if resettable m k i then some (domReset (resetNow m k i) k i) else none := if_pos rfl
  rw [rule]
  cases resetKey v.toNat
  · rfl
  · cases resettable m k i <;> rfl

/-! ## Commands that write -/

variable {s : State} {a : Actor}

theorem writeCtl_of_ok {m m1 : Mach} {addr size : Nat} {v : Word} (ok : writeCheck m a addr size v = .ok m1) : writeCtl m a addr size v = m1 := by
  simp only [writeCtl, ok]

theorem writeCtl_of_error {m : Mach} {addr size r : Nat} {v : Word} (bad : writeCheck m a addr size v = .error r) :
    writeCtl m a addr size v = refuseAccess m a addr r := by
  simp only [writeCtl, bad]

theorem registerWrite_next (alive_ : alive s.m = true) (addr : BitVec 52) (size : Nat) (v : Word) :
    (∀ m1, writeCheck s.m a addr.toNat size v = .ok m1 → exec (.registerWrite a addr size v) s = .next { s with m := lossCheck m1 }) ∧
    (∀ r, writeCheck s.m a addr.toNat size v = .error r →
      exec (.registerWrite a addr size v) s = .next { s with m := lossCheck (refuseAccess s.m a addr.toNat r) }) := by
  have next := runAliveLoss_next (exec_registerWrite s a addr size v) alive_
  exact ⟨fun m1 ok => by rw [next, writeCtl_of_ok ok], fun r bad => by rw [next, writeCtl_of_error bad]⟩

theorem policy_written (alive_ : alive s.m = true) (v : Word) (addr : BitVec 52) (may : privileged a = true) (here : addr.toNat = regAddr 0 0 0x808) :
    Completes (.registerWrite a addr 8 v) s (fun m => m.errs.policy = bits v.toNat 15 0 ∧ m.mem = s.m.mem ∧ m.engs = s.m.engs) := by
  have ok : writeCheck s.m a addr.toNat 8 v = .ok { s.m with errs := { s.m.errs with policy := bits v.toNat 15 0 } } := by
    rw [here, writeCheck_regAddr (by decide) (by decide) (by decide) rfl (by decide) rfl may (fun _ => by decide) (fun e => absurd e (by decide))]
    rfl
  refine completes_runAliveLoss (exec_registerWrite ..) alive_ ?_
  rw [writeCtl_of_ok ok]
  have keeps := lossCheck_stopKeeps { s.m with errs := { s.m.errs with policy := bits v.toNat 15 0 } }
  exact ⟨keeps.regs.policy, keeps.mem, keeps.engs⟩

theorem record_selected (alive_ : alive s.m = true) (v : Word) (r : ErrRec) (may : privileged a = true) (found : errFind s.m v.toNat = some r) :
    Completes (.errSelect a v) s (fun m => m.errs.select = v.toNat ∧ m.errs.loaded = errBytes r ∧ m.mem = s.m.mem ∧ m.engs = s.m.engs) := by
  have ok : writeCheck s.m a (regAddr 0 0 0x818) 8 v = .ok (errSelectNow s.m v) := by
    rw [writeCheck_regAddr (by decide) (by decide) (by decide) rfl (by decide) rfl may (fun _ => by decide) (fun e => absurd e (by decide))]
    rfl
  refine completes_runAliveLoss (exec_errSelect ..) alive_ ?_
  rw [writeCtl_of_ok ok]
  have keeps := lossCheck_stopKeeps (errSelectNow s.m v)
  exact ⟨keeps.regs.select, keeps.regs.loaded.trans (by simp only [errSelectNow, found]), keeps.mem, keeps.engs⟩

theorem register_read (alive_ : alive s.m = true) (addr : BitVec 52) (v : Word) (m1 : Mach) (ok : readCheck s.m a addr.toNat 8 = .ok (v, m1)) :
    exec (.readAndClear a addr 8) s = .next { s with m := emit m1 (.ctlRead addr.toNat v) } := by
  rw [exec_readAndClear, execReadAndClear, runM]
  simp only [readAndClear, readNow, ok, alive_, if_true]

/-! ## Unit resets -/

/-- The restart of a domain changes clocks alone. -/
theorem domReset_keeps (m : Mach) (k i : Nat) :
    (domReset m k i).units = m.units ∧ (domReset m k i).resets = m.resets ∧ (domReset m k i).jobs = m.jobs ∧ (domReset m k i).mem = m.mem ∧
      (domReset m k i).engs = m.engs := by
  have keeps := foldl_keeps (fun m => (m.units, m.resets, m.jobs, m.mem, m.engs)) (f := fun (m : Mach) d =>
    if domUnit d == some (k, i) && ((dom m d).tripped || (dom m d).lost) then
      domStart (modDom m d (fun x => { x with tripped := false, lost := false })) d else m) (fun x d => by split <;> rfl) (List.range 130) m
  simp only [Prod.mk.injEq] at keeps
  exact keeps

/-- A unit without microcode goes through Starting, and the state that it returns to is kept. -/
theorem unitStarts_starting (m : Mach) (k i : Nat) (back : UState) :
    ustate (unitStarts m k i back) k i = .starting ∧ tfind (unitStarts m k i back).resets (ukey k i) = some back := by
  have table : (unitStarts m k i back).units = tset m.units (ukey k i) { UnitSt.reset with st := .starting, tags := (unit m k i).tags } := rfl
  have under : (unitStarts m k i back).resets = tset m.resets (ukey k i) back := rfl
  rw [ustate, unit, table, under, tget_tset_self, tfind_tset_self]
  exact ⟨rfl, rfl⟩

theorem crusher_resetNow (m : Mach) (i : Nat) :
    ustate (resetNow m 0x09 i) 0x09 i = .starting ∧ tfind (resetNow m 0x09 i).resets (ukey 0x09 i) = some .offline ∧
      workUnit (resetNow m 0x09 i) 0 i = WorkUnit.reset ∧ (resetNow m 0x09 i).mem = m.mem ∧ (resetNow m 0x09 i).engs = m.engs := by
  have rule : resetNow m 0x09 i = unitStarts (modWork m 0 i (fun _ => WorkUnit.reset)) 0x09 i .offline := rfl
  obtain ⟨starting, under⟩ := unitStarts_starting (modWork m 0 i (fun _ => WorkUnit.reset)) 0x09 i .offline
  have table : (resetNow m 0x09 i).jobs.crush = tset m.jobs.crush i WorkUnit.reset := rfl
  refine ⟨rule ▸ starting, rule ▸ under, ?_, rfl, rfl⟩
  rw [workUnit, if_pos rfl, table, tget_tset_self]

/-- What a crusher's reset leaves after the check for losses. -/
theorem lossCheck_crusherReset (m : Mach) (i : Nat) :
    ustate (lossCheck (domReset (resetNow m 0x09 i) 0x09 i)) 0x09 i = .starting ∧
      tfind (lossCheck (domReset (resetNow m 0x09 i) 0x09 i)).resets (ukey 0x09 i) = some .offline ∧
      workUnit (lossCheck (domReset (resetNow m 0x09 i) 0x09 i)) 0 i = WorkUnit.reset ∧
      (lossCheck (domReset (resetNow m 0x09 i) 0x09 i)).mem = m.mem ∧ (lossCheck (domReset (resetNow m 0x09 i) 0x09 i)).engs = m.engs := by
  obtain ⟨starting, under, work, memNow, engsNow⟩ := crusher_resetNow m i
  generalize resetNow m 0x09 i = x at starting under work memNow engsNow ⊢
  obtain ⟨units, resets, jobs, mem, engs⟩ := domReset_keeps x 0x09 i
  generalize domReset x 0x09 i = y at units resets jobs mem engs ⊢
  have keeps := lossCheck_stopKeeps y
  refine ⟨?_, ?_, ?_, (keeps.mem.trans mem).trans memNow, (keeps.engs.trans engs).trans engsNow⟩
  · rw [keeps.ustate, ustate, unit, units]
    exact starting
  · rw [keeps.regs.resets, resets, under]
  · rw [workUnit, keeps.jobs, jobs]
    exact work

theorem crusher_reset (alive_ : alive s.m = true) (k : CrushId) (v : Word) (may : privileged a = true) (role : unitHasRole s.m 0x09 k.val = true)
    (key : resetKey v.toNat = true) (state : resettable s.m 0x09 k.val = true) :
    Completes (.unitReset a 9 (BitVec.ofNat 12 k.val) v) s (fun m => ustate m 0x09 k.val = .starting ∧
      tfind m.resets (ukey 0x09 k.val) = some .offline ∧ workUnit m 0 k.val = WorkUnit.reset ∧ m.mem = s.m.mem ∧ m.engs = s.m.engs) := by
  have index : (BitVec.ofNat 12 k.val).toNat = k.val := by rw [BitVec.toNat_ofNat, Nat.mod_eq_of_lt (by omega)]
  have ok : writeCheck s.m a (regAddr (9 : Fin 16).val (BitVec.ofNat 12 k.val).toNat 0x10) 8 v =
      .ok (domReset (resetNow s.m 0x09 k.val) 0x09 k.val) := by
    rw [index]
    refine (writeCheck_reset (show k.val < kindCount 9 from k.isLt) role may (fun e => absurd e (by decide))).trans ?_
    rw [if_neg (by simp [key]), if_pos state]
  refine completes_runAliveLoss (exec_unitReset ..) alive_ ?_
  rw [writeCtl_of_ok ok]
  exact lossCheck_crusherReset s.m k.val

theorem unitReset_next (alive_ : alive s.m = true) (k : Fin 16) (i : BitVec 12) (v : Word) (may : privileged a = true) (unit : i.toNat < kindCount k.val)
    (role : unitHasRole s.m k.val i.toNat = true) (service : k.val = 0x0E → a = .service) :
    (resetKey v.toNat = false → (meshRuns s.m = false ∨ minUnmet s.m = 0) → exec (.unitReset a k i v) s = .next s) ∧
    (resetKey v.toNat = true → resettable s.m k.val i.toNat = false →
      exec (.unitReset a k i v) s = .next { s with m := lossCheck (refuseAccess s.m a (regAddr k.val i.toNat 0x10) 5) }) ∧
    (resetKey v.toNat = true → resettable s.m k.val i.toNat = true →
      exec (.unitReset a k i v) s = .next { s with m := lossCheck (domReset (resetNow s.m k.val i.toNat) k.val i.toNat) }) := by
  have next := runAliveLoss_next (exec_unitReset s a k i v) alive_
  have check := writeCheck_reset (v := v) unit role may service
  refine ⟨fun key calm => ?_, fun key state => ?_, fun key state => ?_⟩
  · rw [if_pos key] at check
    rw [next, writeCtl_of_ok check, calm.elim lossCheck_of_idle lossCheck_of_met]
  · rw [if_neg (by simp [key]), if_neg (by simp [state])] at check
    rw [next, writeCtl_of_error check]
  · rw [if_neg (by simp [key]), if_pos state] at check
    rw [next, writeCtl_of_ok check]

/-! ## The end of a unit reset: the next idle nanosecond -/

theorem ustate_setUState (m : Mach) (k i k' i' : Nat) (st : UState) :
    ustate (setUState m k i st) k' i' = if ukey k i = ukey k' i' then st else ustate m k' i' := by
  rw [ustate, unit, setUState, setUnit, tget_tset]
  split <;> rfl

/-- One unit reset under way ends. -/
def unitResetEnds (m : Mach) (q : Nat × UState) : Mach :=
  if ustate m (q.1 / 65536) (q.1 % 65536) == .starting then setUState m (q.1 / 65536) (q.1 % 65536) q.2 else m

theorem ukey_parts (n : Nat) : ukey (n / 65536) (n % 65536) = n := Nat.div_add_mod' n 65536

section
variable {k i : Nat} (small : i < 65536)
include small

theorem ukey_div : ukey k i / 65536 = k := by unfold ukey; omega
theorem ukey_mod : ukey k i % 65536 = i := by unfold ukey; omega

/-- The end of a reset changes the state of its own unit, where that is Starting, and of no other. -/
theorem ustate_unitResetEnds (m : Mach) (q : Nat × UState) :
    ustate (unitResetEnds m q) k i = if q.1 = ukey k i ∧ ustate m k i = .starting then q.2 else ustate m k i := by
  unfold unitResetEnds
  by_cases own : q.1 = ukey k i
  · rw [own, ukey_div small, ukey_mod small]
    by_cases starting : ustate m k i = .starting
    · rw [if_pos (by simp [starting]), if_pos ⟨rfl, starting⟩, ustate_setUState, if_pos rfl]
    · rw [if_neg (by simpa using starting), if_neg (fun both => starting both.2)]
  · rw [if_neg (show ¬ (q.1 = ukey k i ∧ ustate m k i = .starting) from fun both => own both.1)]
    split
    · rw [ustate_setUState, ukey_parts, if_neg own]
    · rfl

/-- A unit that is no longer Starting keeps its state. -/
theorem ustate_resetsEnd_of_done {st : UState} (done : st ≠ .starting) (l : Tbl UState) : ∀ m : Mach, ustate m k i = st →
    ustate (l.foldl unitResetEnds m) k i = st := by
  induction l with
  | nil => exact fun _ => id
  | cons q l ih =>
    intro m here
    refine ih _ ?_
    rw [ustate_unitResetEnds small, if_neg (fun both => done (here.symm.trans both.2)), here]

theorem ustate_resetsEnd_of_starting {back : UState} (ready : back ≠ .starting) (l : Tbl UState) : ∀ m : Mach, tfind l (ukey k i) = some back →
    ustate m k i = .starting → ustate (l.foldl unitResetEnds m) k i = back := by
  induction l with
  | nil => exact fun _ none => nomatch none
  | cons q l ih =>
    intro m listed starting
    rw [List.foldl_cons]
    have here := ustate_unitResetEnds (k := k) small m q
    simp only [tfind] at listed
    split at listed
    · next own =>
      rw [if_pos ⟨own, starting⟩, Option.some.inj listed] at here
      exact ustate_resetsEnd_of_done small ready l _ here
    · next other =>
      rw [if_neg (fun both => other both.1), starting] at here
      exact ih _ listed here

end

/-- The answers of requests whose execution has ended leave every unit. -/
theorem runningEnd_units (m : Mach) : (runningEnd m).units = m.units :=
  foldl_keeps (fun m => m.units) (f := fun (m : Mach) (x : Running) => answerAs m x.port x.seq x.type x.status x.body) (fun _ _ => rfl) _ _

theorem resets_end (alive_ : alive s.m = true) (k i : Nat) (back : UState) (empty : s.pending = []) (small : i < 65536)
    (listed : tfind s.m.resets (ukey k i) = some back) (ready : back ≠ .starting) (starting : ustate s.m k i = .starting) :
    step s = .next (idleTick s) ∧ ustate (idleTick s).m k i = back := by
  refine ⟨by simp only [step, empty], ?_⟩
  have tick : (idleTick s).m.units = (resetsEnd (creditsBack (timeTick s.m))).units := by
    have running : alive (timeTick s.m) = true := alive_
    simp only [idleTick, running, if_true, runningEnd_units]
  rw [ustate, unit, tick]
  exact ustate_resetsEnd_of_starting small ready s.m.resets { creditsBack (timeTick s.m) with resets := [] } listed starting

/-- Settles O58: the checks of a write reach the register's own rule, and what each rule writes stands after the check for losses. -/
theorem registerCommands : Obligations.RegisterCommands := fun _ _ alive_ =>
  ⟨registerWrite_next alive_, policy_written alive_, record_selected alive_, register_read alive_,
    fun k v may role key state => crusher_reset alive_ k v may role key state, resets_end alive_, unitReset_next alive_⟩

end Sys2Proof.Machine
end
section
/-! Staging, the reading of the boot flashes, and the loader's verify step (R54, R111 to R117, R126, R139, R367). -/

namespace Sys2Proof.Machine

variable {s : State} {h : SvcHdr} {p : Bytes}

/-! ## Staging (R111 to R116) -/

theorem loaderBusy_of_idle {m : Mach} (idle : m.load.st = .idle) : loaderBusy m = false := by simp [loaderBusy, idle]
theorem loaderBusy_of_staging {m : Mach} (staging : m.load.st = .staging) : loaderBusy m = false := by simp [loaderBusy, staging]

/-- The first bytes of an image or a bundle begin the staging. -/
theorem imagePutAct_begins {m : Mach} (target : fld p 0 1 = 1 ∨ fld p 0 1 = 2) (off : fld p 4 4 = 0) (may : stageMode m = true) (idle : m.load.st = .idle) :
    imagePutAct p m = (0, [], { m with load := { m.load with st := .staging, stage := p.drop 8, target := fld p 0 1 } }) := by
  have known : ¬ (fld p 0 1 ≠ 1 ∧ fld p 0 1 ≠ 2) := by omega
  unfold imagePutAct
  dsimp only
  rw [if_neg (by simp [loaderBusy_of_idle idle]), if_neg known, if_pos off, if_neg (by simp [may]), if_neg (by simp [idle])]

/-- Bytes that follow those that are staged go behind them. -/
theorem imagePutAct_goesOn {m : Mach} (target : fld p 0 1 = 1 ∨ fld p 0 1 = 2) (off : fld p 4 4 ≠ 0) (staging : m.load.st = .staging)
    (next : fld p 4 4 = m.load.stage.length) (same : fld p 0 1 = m.load.target) (room : fld p 4 4 + (p.length - 8) ≤ 0x400000) :
    imagePutAct p m = (0, [], { m with load := { m.load with stage := m.load.stage ++ p.drop 8 } }) := by
  have known : ¬ (fld p 0 1 ≠ 1 ∧ fld p 0 1 ≠ 2) := by omega
  have fits : ¬ (m.load.st ≠ .staging ∨ fld p 4 4 ≠ m.load.stage.length ∨ fld p 0 1 ≠ m.load.target ∨ 0x400000 < fld p 4 4 + (p.drop 8).length) := by
    rw [List.length_drop]
    rintro (no | no | no | no)
    · exact no staging
    · exact no next
    · exact no same
    · omega
  unfold imagePutAct
  dsimp only
  rw [if_neg (by simp [loaderBusy_of_staging staging]), if_neg known, if_neg off, if_neg fits]

theorem imagePut_begins (taken : Taken s.m { ownMsg 0x0030 (decide (9 ≤ p.length)) with rom := true } h p)
    (target : fld p 0 1 = 1 ∨ fld p 0 1 = 2) (off : fld p 4 4 = 0) (may : stageMode s.m = true) (idle : s.m.load.st = .idle) :
    Completes (.imagePut h p) s (fun m => m.load = { s.m.load with st := .staging, stage := p.drop 8, target := fld p 0 1 } ∧
      Answered m h 0 [] ∧ m.mode = s.m.mode ∧ m.mem = s.m.mem) := by
  refine completes_serve rfl taken (imagePutAct_begins target off (by simpa using may) (by simpa using idle)) ?_
  simp

theorem imagePut_goesOn (taken : Taken s.m { ownMsg 0x0030 (decide (9 ≤ p.length)) with rom := true } h p)
    (target : fld p 0 1 = 1 ∨ fld p 0 1 = 2) (off : fld p 4 4 ≠ 0) (staging : s.m.load.st = .staging) (next : fld p 4 4 = s.m.load.stage.length)
    (same : fld p 0 1 = s.m.load.target) (room : fld p 4 4 + (p.length - 8) ≤ 0x400000) :
    Completes (.imagePut h p) s (fun m => m.load = { s.m.load with stage := s.m.load.stage ++ p.drop 8 } ∧ Answered m h 0 [] ∧ m.mem = s.m.mem) := by
  refine completes_serve rfl taken
    (imagePutAct_goesOn target off (by simpa using staging) (by simpa using next) (by simpa using same) room) ?_
  simp

/-- What a full load makes of a staged image. -/
def loadVerifies (p : Bytes) (x : LoadSt) : LoadSt :=
  { x with st := .verifying, image := x.stage, flash := false, expect := 0, done := 0,
           timeoutNs := if fld p 2 2 = 0 then 100000000 else fld p 2 2 * 1000000 }

theorem imageLoadAct_full {m : Mach} (staging : m.load.st = .staging) (target : m.load.target = 1) (full : fld p 0 1 = 0) (ms : fld p 2 2 ≤ 10000) :
    imageLoadAct p m = (0, [], { m with load := loadVerifies p m.load }) := by
  have taken : ¬ (m.load.st ≠ .staging ∨ 1 < fld p 0 1 ∨ (m.load.target = 1 ∧ 10000 < fld p 2 2) ∨ (m.load.target = 2 ∧ fld p 0 1 ≠ 0)) := by
    rintro (no | no | ⟨-, no⟩ | ⟨-, no⟩)
    · exact no staging
    · omega
    · omega
    · exact no full
  have image : m.load.target ≠ 2 := by omega
  unfold imageLoadAct
  dsimp only
  rw [if_neg (by simp [full]), if_neg (by simp [loaderBusy_of_staging staging]), if_neg taken, if_neg (fun both => image both.1),
    if_neg image, if_neg image, full]
  rfl

theorem imageLoad_verifies (taken : Taken s.m (ownMsg 0x0031 (p.length == 4)) h p) (staging : s.m.load.st = .staging) (target : s.m.load.target = 1)
    (full : fld p 0 1 = 0) (ms : fld p 2 2 ≤ 10000) :
    Completes (.imageLoad h p) s (fun m => m.load.st = .verifying ∧ m.load.image = s.m.load.stage ∧ m.load.expect = 0 ∧ Answered m h 0 [] ∧
      m.mode = s.m.mode ∧ m.mem = s.m.mem) := by
  refine completes_serve rfl taken (imageLoadAct_full (by simpa using staging) (by simpa using target) full ms) ?_
  simp [loadVerifies]

/-! ## The image of the boot flashes (R54) -/

theorem bootImageRead_verifies (bare : s.m.mode.st = .bare) (released : s.m.svc.released = true) (rom : s.m.svc.rom = false) (idle : s.m.load.st = .idle)
    (none : s.m.load.candidate = none) {b : Bytes} (found : flashImage s.fuse (flashBundle s.fuse s.m (bothItems s.m 3))
      (bothItems (flashBundle s.fuse s.m (bothItems s.m 3)) 2) = some b) :
    Completes .bootImageRead s (fun m => m.load.st = .verifying ∧ m.load.target = 1 ∧ m.load.image = b ∧ m.load.stage = b ∧
      m.mode = (flashBundle s.fuse s.m (bothItems s.m 3)).mode ∧ m.mem = (flashBundle s.fuse s.m (bothItems s.m 3)).mem) := by
  refine completes_runAlive (exec_bootImageRead s) (by simp [alive, bare]) ?_
  have may : ¬ (s.m.mode.st ≠ .bare ∨ !s.m.svc.released ∨ s.m.svc.rom ∨ s.m.load.st ≠ .idle ∨ s.m.load.candidate.isSome) := by
    simp [bare, released, rom, idle, none]
  unfold bootRead
  rw [if_neg may]
  generalize flashBundle s.fuse s.m (bothItems s.m 3) = m1 at found
  simp only [found, and_self]

/-! ## The verify step (R117, R126, R139) -/

/-- The loader of a machine that rejects an image: the record is written and counted. -/
def rejected (m : Mach) (img : Bytes) (r : Rej) (further : Nat) (st : LState) : LoadSt :=
  { m.load with st := st, reject := rejBytes img r further (takeStamp m 0x0F00).1, rejectN := sat 0xFFFF (m.load.rejectN + 1), rejectCause := r.cause }

/-- A rejection changes the loader; beyond that it only tells. -/
theorem reject_logged (m : Mach) (img : Bytes) (r : Rej) (further : Nat) (st : LState) :
    Logged { (takeStamp m 0x0F00).2 with load := rejected m img r further st } (reject m img r further st) := by
  have rule : rejected m img r further st = { (takeStamp m 0x0F00).2.load with
      st := st, reject := rejBytes img r further (takeStamp m 0x0F00).1, rejectN := sat 0xFFFF ((takeStamp m 0x0F00).2.load.rejectN + 1),
      rejectCause := r.cause } := by
    rw [(takeStamp_logged m 0x0F00).load]
    rfl
  rw [rule]
  exact notify_logged _ 3 _

section
variable (m : Mach) (img : Bytes) (r : Rej) (further : Nat) (st : LState)

theorem reject_load : (reject m img r further st).load = rejected m img r further st := (reject_logged m img r further st).load
theorem reject_mode : (reject m img r further st).mode = m.mode := (reject_logged m img r further st).mode.trans (takeStamp_logged m 0x0F00).mode
theorem reject_mem : (reject m img r further st).mem = m.mem := (reject_logged m img r further st).mem.trans (takeStamp_logged m 0x0F00).mem
theorem reject_image : (reject m img r further st).image = m.image := (reject_logged m img r further st).image.trans (takeStamp_logged m 0x0F00).image

end

/-- An image is verified: the loader is there, at the step, and Hold does not stop it. -/
structure Verifying (m : Mach) (target : Nat) : Prop where
  alive : Machine.alive m = true
  st : m.load.st = .verifying
  free : holding m = false
  target : m.load.target = target

section
variable {m : Mach} {f : Fuses}

theorem verifyEnds_of_pass (at_ : Verifying m 1) (pass : verifyImage f m m.load.image m.load.expect = none) (full : imgKind m.load.image = 0) :
    verifyEnds f m =
      modMode { m with load := { m.load with candidate := some m.load.image, st := .verified } } (fun x => { x with verified := true }) := by
  unfold verifyEnds
  rw [if_neg (by simp [at_.st, at_.target, at_.free])]
  simp only [pass, if_pos full]

theorem verifyEnds_of_fail (at_ : Verifying m 1) {r : Rej} (fail : verifyImage f m m.load.image m.load.expect = some r) :
    verifyEnds f m = reject m m.load.image r 0 (if m.load.candidate.isSome then .verified else .idle) := by
  unfold verifyEnds
  rw [if_neg (by simp [at_.st, at_.target, at_.free])]
  simp only [fail]

end

theorem verifyComplete_passes (at_ : Verifying s.m 1) (pass : verifyImage s.fuse s.m s.m.load.image s.m.load.expect = none)
    (full : imgKind s.m.load.image = 0) :
    Completes .verifyComplete s (fun m => m.load.st = .verified ∧ m.load.candidate = some s.m.load.image ∧ m.mode.verified = true ∧ m.mem = s.m.mem) := by
  refine completes_runAlive (exec_verifyComplete s) at_.alive ?_
  rw [verifyEnds_of_pass at_ pass full]
  exact ⟨rfl, rfl, rfl, rfl⟩

theorem verifyComplete_rejects (at_ : Verifying s.m 1) {r : Rej} (fail : verifyImage s.fuse s.m s.m.load.image s.m.load.expect = some r) :
    Completes .verifyComplete s (fun m => m.load.rejectN = sat 0xFFFF (s.m.load.rejectN + 1) ∧ m.load.rejectCause = r.cause ∧
      m.load.candidate = s.m.load.candidate ∧ m.mode = s.m.mode ∧ m.mem = s.m.mem) := by
  refine completes_runAlive (exec_verifyComplete s) at_.alive ?_
  rw [verifyEnds_of_fail at_ fail, reject_load, reject_mode, reject_mem]
  exact ⟨rfl, rfl, rfl, rfl, rfl⟩

/-! ## The outcome of a bundle's checks (R367, R393) -/

/-- `PATCH_STATUS` of a checked bundle. -/
def patchWord (outcome cause seq : Nat) : Word := pack [(16, 16, cause), (8, 8, seq), (0, 2, outcome)]

theorem bits_eq_shiftRight_mod (v hi lo : Nat) : bits v hi lo = (v >>> lo) % 2 ^ (hi + 1 - lo) := by rw [bits, Nat.shiftRight_eq_div_pow]

theorem patchWord_testBit (outcome cause seq i : Nat) : (patchWord outcome cause seq).toNat.testBit i = (decide (i < 64) &&
    (decide (16 ≤ i) && (decide (i - 16 < 16) && cause.testBit (i - 16)) || decide (8 ≤ i) && (decide (i - 8 < 8) && seq.testBit (i - 8)) ||
      decide (i < 2) && outcome.testBit i)) := by
  rw [patchWord, pack, BitVec.toNat_ofNat]
  simp only [packN, List.foldl_cons, List.foldl_nil, Nat.zero_or, Nat.testBit_mod_two_pow, Nat.testBit_or, Nat.testBit_shiftLeft, Nat.shiftLeft_zero,
    ge_iff_le, -Nat.reducePow]

theorem patchWord_outcome (outcome cause seq : Nat) : bits (patchWord outcome cause seq).toNat 1 0 = outcome % 2 ^ 2 := by
  refine Nat.eq_of_testBit_eq fun i => ?_
  rw [bits_eq_shiftRight_mod, Nat.testBit_mod_two_pow, Nat.testBit_mod_two_pow, Nat.shiftRight_zero, patchWord_testBit]
  by_cases low : i < 2
  · have below : ¬ 16 ≤ i ∧ ¬ 8 ≤ i ∧ i < 64 := by omega
    simp [low, below]
  · simp [low]

theorem patchWord_cause (outcome cause seq : Nat) : bits (patchWord outcome cause seq).toNat 31 16 = cause % 2 ^ 16 := by
  refine Nat.eq_of_testBit_eq fun i => ?_
  rw [bits_eq_shiftRight_mod, Nat.testBit_mod_two_pow, Nat.testBit_mod_two_pow, Nat.testBit_shiftRight, patchWord_testBit]
  by_cases low : i < 16
  · have above : 16 + i < 64 ∧ ¬ 16 + i < 2 ∧ ¬ 16 + i - 8 < 8 := by omega
    simp [low, above]
  · simp [low]

/-- The loader of a machine in which a bundle's checks have ended. -/
def bundleChecked (m : Mach) (w : Word) : LoadSt := { m.load with patchSt := w, st := if m.load.candidate.isSome then .verified else .idle }

/-- A bundle that passes is held, one that fails is not; the owner is told the outcome. -/
theorem patchChecked_logged (f : Fuses) (m : Mach) (b : Bytes) :
    (∀ m1, bundleHold f m b false = .ok m1 →
      Logged { m1 with load := bundleChecked m1 (patchWord 1 (bits m1.load.patchSt.toNat 31 16) (fld b 6 1)) } (patchChecked f m b)) ∧
    (∀ c, bundleHold f m b false = .error c → Logged { m with load := bundleChecked m (patchWord 2 c (fld b 6 1)) } (patchChecked f m b)) := by
  unfold patchChecked
  refine ⟨fun m1 held => ?_, fun c fail => ?_⟩
  · simp only [held]
    exact notify_logged _ 4 _
  · simp only [fail]
    exact notify_logged _ 4 _

theorem patchCheckComplete_checks (at_ : Verifying s.m 2) {P : Mach → Prop} (q : P (patchChecked s.fuse s.m s.m.load.image)) :
    Completes .patchCheckComplete s P := by
  refine completes_runAlive (exec_patchCheckComplete s) at_.alive ?_
  rw [if_neg (by simp [at_.st, at_.target, at_.free])]
  exact q

theorem patchCheckComplete_holds (at_ : Verifying s.m 2) {m1 : Mach} (held : bundleHold s.fuse s.m s.m.load.image false = .ok m1) :
    Completes .patchCheckComplete s (fun m => m.load.held = m1.load.held ∧ bits m.load.patchSt.toNat 1 0 = 1 ∧ m.mem = m1.mem) := by
  have told := (patchChecked_logged s.fuse s.m s.m.load.image).1 m1 held
  refine patchCheckComplete_checks at_ ⟨?_, ?_, told.mem⟩
  · rw [told.load]
    rfl
  · rw [told.load]
    exact patchWord_outcome ..

theorem patchCheckComplete_rejects (at_ : Verifying s.m 2) {c : Nat} (fail : bundleHold s.fuse s.m s.m.load.image false = .error c) :
    Completes .patchCheckComplete s (fun m => m.load.held = s.m.load.held ∧ bits m.load.patchSt.toNat 1 0 = 2 ∧
      bits m.load.patchSt.toNat 31 16 = c % 2 ^ 16 ∧ m.mem = s.m.mem) := by
  have told := (patchChecked_logged s.fuse s.m s.m.load.image).2 c fail
  refine patchCheckComplete_checks at_ ⟨?_, ?_, ?_, told.mem⟩ <;> rw [told.load]
  · rfl
  · exact patchWord_outcome ..
  · exact patchWord_cause ..

end Sys2Proof.Machine
end
section
/-! The loader's check step, a partial image in Preparing, and its sections (R101, R105, R119, R126, R128, R137). -/

namespace Sys2Proof.Machine

variable {s : State}

theorem not_holding_of_unitsRun {m : Mach} (run : unitsRun m = true) (stays : m.mode.holdStart = none) : holding m = false := by
  have mode : m.mode.st = .service ∨ m.mode.st = .rework := by simpa [unitsRun] using run
  rcases mode with e | e <;> simp [holding, e, stays]

/-! ## The check step (R119, R126) -/

/-- What the holding of units leaves: the time, the image, memory and the time that a partial load has to prepare. -/
def prepareView (m : Mach) : Nat × Tbl Bytes × Memory × Nat := (m.now, m.image, m.mem, m.load.timeoutNs)

theorem prepareView_enterMode (m : Mach) (st : Mode) (c : Nat) : prepareView (enterMode m st c) = prepareView m := by
  have told := enterMode_logged m st c
  rw [prepareView, told.now, told.image, told.mem, told.load]
  rfl

theorem prepareView_holdUnit (m : Mach) (u : Nat × Nat) : prepareView (holdUnit m u) = prepareView m := by
  unfold holdUnit
  dsimp only
  split <;> rfl

/-- Every named unit is held, and a named time master is out of lock. -/
def holdNamed (m : Mach) (b : Bytes) : Mach :=
  (namedRecs b).foldl (fun m r => if r.1 = 0x11 then setMaster m r.2 { master m r.2 with lock := 0, good := 0 } else m)
    ((namedRecs b).foldl (fun m r => match heldUnit r.1 r.2 with | some u => holdUnit m u | none => m)
      (if m.mode.st == .service then enterMode m .rework 0x07 else m))

theorem prepareView_holdNamed (m : Mach) (b : Bytes) : prepareView (holdNamed m b) = prepareView m := by
  unfold holdNamed
  refine (foldl_keeps prepareView (fun x r => ?_) _ _).trans ((foldl_keeps prepareView (fun x r => ?_) _ _).trans ?_)
  · split <;> rfl
  · split
    · exact prepareView_holdUnit x _
    · rfl
  · split
    · exact prepareView_enterMode m _ _
    · rfl

theorem prepareBegin_eq (m : Mach) (b : Bytes) : prepareBegin m b = { holdNamed m b with load := { (holdNamed m b).load with
    st := .preparing, deadline := some ((holdNamed m b).now + (holdNamed m b).load.timeoutNs), done := 0, record := 0 } } := rfl

theorem prepareBegin_leaves (m : Mach) (b : Bytes) : (prepareBegin m b).load.st = .preparing ∧ (prepareBegin m b).load.done = 0 ∧
    (prepareBegin m b).load.deadline = some (m.now + m.load.timeoutNs) ∧ (prepareBegin m b).image = m.image ∧ (prepareBegin m b).mem = m.mem := by
  have view := prepareView_holdNamed m b
  rw [prepareBegin_eq]
  generalize holdNamed m b = x at view
  simp only [prepareView, Prod.mk.injEq] at view
  obtain ⟨now, image, mem, time⟩ := view
  exact ⟨rfl, rfl, by rw [now, time], image, mem⟩

section
variable {gone : List (Nat × Nat)} {m : Mach} (checking : m.load.st = .checking) (free : holding m = false)
  (pass : checkFails m m.load.image gone = [])
include checking free pass

theorem checkEnds_full (loading : m.mode.st = .loading) (full : imgKind m.load.image = 0) : checkEnds gone m = commitFull m m.load.image := by
  unfold checkEnds
  rw [if_neg (by simp [checking, free, loading])]
  simp only [pass, full]

theorem checkEnds_partial (run : unitsRun m = true) (part : imgKind m.load.image ≠ 0) : checkEnds gone m = prepareBegin m m.load.image := by
  unfold checkEnds
  rw [if_neg (by simp [checking, free, run])]
  obtain ⟨n, kind⟩ := Nat.exists_eq_succ_of_ne_zero part
  simp only [pass, kind]

end

section
variable (gone : List (Fin 19 × BitVec 16)) (checking : s.m.load.st = .checking) (stays : s.m.mode.holdStart = none)
  (pass : checkFails s.m s.m.load.image (gone.map (fun r => (r.1.val, r.2.toNat))) = [])
include checking stays pass

theorem checkComplete_full (loading : s.m.mode.st = .loading) (full : imgKind s.m.load.image = 0) :
    exec (.checkComplete gone) s = .next { s with m := lossCheck (commitFull s.m s.m.load.image) } := by
  rw [runAliveLoss_next (exec_checkComplete s gone) (by simp [alive, loading]),
    checkEnds_full checking (by simp [holding, loading, stays]) pass loading full]

theorem checkComplete_prepares (run : unitsRun s.m = true) (part : imgKind s.m.load.image ≠ 0) :
    Completes (.checkComplete gone) s (fun m => m.load.st = .preparing ∧ m.load.done = 0 ∧
      m.load.deadline = some (s.m.now + s.m.load.timeoutNs) ∧ m.image = s.m.image ∧ m.mem = s.m.mem) := by
  refine completes_runAliveLoss (exec_checkComplete s gone) (alive_of_unitsRun run) ?_
  rw [checkEnds_partial checking (not_holding_of_unitsRun run stays) pass run part]
  have keeps := lossCheck_stopKeeps (prepareBegin s.m s.m.load.image)
  rw [keeps.load, keeps.image, keeps.mem]
  exact prepareBegin_leaves s.m s.m.load.image

end

/-! ## Preparing ends, or its time is over (R126) -/

theorem applyBegin_leaves (m : Mach) : (applyBegin m).load.st = .applying ∧ (applyBegin m).load.deadline = none ∧ (applyBegin m).image = m.image ∧
    (applyBegin m).mem = m.mem := by
  unfold applyBegin
  dsimp only
  split <;> exact ⟨rfl, rfl, rfl, rfl⟩

theorem releaseHeld_leaves (m : Mach) : (releaseHeld m).load.prior = [] ∧ (releaseHeld m).image = m.image ∧ (releaseHeld m).mem = m.mem := by
  have keeps := foldl_keeps (fun m => (m.image, m.mem)) (f := fun (m : Mach) (p : Nat × UState) =>
    if ustate m (p.1 / 65536) (p.1 % 65536) == .draining then setUState m (p.1 / 65536) (p.1 % 65536) p.2 else m)
    (fun x p => by split <;> rfl) m.load.prior m
  simp only [Prod.mk.injEq] at keeps
  exact ⟨rfl, keeps.1, keeps.2⟩

theorem loadAbandoned_leaves (m : Mach) (r : Rej) : (loadAbandoned m r).load.st = .idle ∧ (loadAbandoned m r).load.rejectCause = r.cause ∧
    (loadAbandoned m r).load.prior = [] ∧ (loadAbandoned m r).image = m.image ∧ (loadAbandoned m r).mem = m.mem := by
  obtain ⟨prior, image, mem⟩ := releaseHeld_leaves m
  rw [loadAbandoned, reject_load, reject_image, reject_mem]
  exact ⟨rfl, rfl, prior, image, mem⟩

/-- The record whose precondition is unmet first is reported with cause 0x16. -/
theorem quiesceEnds_abandons {m : Mach} {t : Nat} (preparing : m.load.st = .preparing) (free : holding m = false) (deadline : m.load.deadline = some t)
    (late : t ≤ m.now) (unmet : (namedRecs m.load.image).any (fun r => !recReady m r.1 r.2) = true) :
    ∃ r : Rej, r.cause = 0x0016 ∧ quiesceEnds m = loadAbandoned m r := by
  obtain ⟨r, found⟩ := Option.isSome_iff_exists.1 (List.find?_isSome.2 (List.any_eq_true.1 unmet))
  refine ⟨rejAt 3 0x0016 r.1 r.2 (recOff m.load.image r.1 r.2), rfl, ?_⟩
  have over_ : ¬ (m.load.st ≠ .preparing ∨ holding m ∨ m.now < t) := by simp [preparing, free, late]
  unfold quiesceEnds
  simp only [deadline, found, if_neg over_]

section
variable (run : unitsRun s.m = true) (stays : s.m.mode.holdStart = none)
include run stays

theorem prepareComplete_applies (preparing : s.m.load.st = .preparing)
    (ready : (namedRecs s.m.load.image).all (fun r => recReady s.m r.1 r.2) = true) :
    Completes .prepareComplete s (fun m => m.load.st = .applying ∧ m.load.deadline = none ∧ m.image = s.m.image ∧ m.mem = s.m.mem) := by
  refine completes_runUnits (exec_prepareComplete s) run ?_
  rw [prepareEnds, if_neg (by simp [preparing, ready, not_holding_of_unitsRun run stays])]
  exact applyBegin_leaves s.m

theorem quiesceTimeout_abandons {t : Nat} (preparing : s.m.load.st = .preparing) (deadline : s.m.load.deadline = some t) (late : t ≤ s.m.now)
    (unmet : (namedRecs s.m.load.image).any (fun r => !recReady s.m r.1 r.2) = true) :
    Completes .quiesceTimeout s (fun m => m.load.st = .idle ∧ m.load.rejectCause = 0x0016 ∧ m.load.prior = [] ∧ m.image = s.m.image ∧
      m.mem = s.m.mem) := by
  refine completes_runUnits (exec_quiesceTimeout s) run ?_
  obtain ⟨r, cause, rule⟩ := quiesceEnds_abandons preparing (not_holding_of_unitsRun run stays) deadline late unmet
  rw [rule, ← cause]
  exact loadAbandoned_leaves s.m r

end

/-! ## The sections (R128, R137) -/

theorem completes_runUnitsLoss {i : Instr} {f : Mach → Mach} {P : Mach → Prop} (e : exec i s = runUnitsLoss s f) (run : unitsRun s.m = true)
    (q : P (lossCheck (f s.m))) : Completes i s P :=
  completes_runUnits e run q

/-- A section of one record of kind 0x09, which no unit takes at once: the record is committed. -/
theorem sectionStep_shapes {m : Mach} {b : Bytes} {e : DirEntry} {i off : Nat} {r : Bytes} (kind : e.kind = 0x09)
    (one : entryRecords b e = [(i, off, r)]) : sectionStep m b e = (true, putRec m 0x09 i r) := by
  unfold sectionStep
  simp only [kind, one]
  rfl

theorem loadEnds_leaves (m : Mach) : (loadEnds m).load.st = .idle ∧ (loadEnds m).load.active = imageWord m.load.image ∧
    (loadEnds m).image = m.image ∧ (loadEnds m).mem = m.mem := by
  unfold loadEnds
  dsimp only
  have told (x : Mach) (w : Bytes) := notify_logged x 1 w
  rw [(told _ _).load, (told _ _).image, (told _ _).mem]
  exact ⟨rfl, rfl, rfl, rfl⟩

section
variable (run : unitsRun s.m = true) (stays : s.m.mode.holdStart = none) (applying : s.m.load.st = .applying)
include run stays applying

theorem sectionApplied_goesOn {e : DirEntry} {i off : Nat} {r : Bytes} (entry : (dirEntries s.m.load.image)[s.m.load.done]? = some e)
    (kind : e.kind = 0x09) (one : entryRecords s.m.load.image e = [(i, off, r)]) (more : s.m.load.done + 1 < imgEntries s.m.load.image) :
    Completes .sectionApplied s (fun m => m.image = tset s.m.image (ukey 0x09 i) r ∧ m.load.done = s.m.load.done + 1 ∧ m.load.st = .applying ∧
      m.mem = s.m.mem) := by
  refine completes_runUnitsLoss (exec_sectionApplied s) run ?_
  have rule : sectionApplied s.m = { putRec s.m 0x09 i r with load := { s.m.load with done := s.m.load.done + 1, record := 0 } } := by
    unfold sectionApplied
    rw [if_neg (by simp [applying, run, not_holding_of_unitsRun run stays])]
    simp only [entry, sectionStep_shapes kind one]
    exact if_neg (Nat.not_le.2 more)
  have keeps := lossCheck_stopKeeps (sectionApplied s.m)
  rw [keeps.image, keeps.load, keeps.mem, rule]
  exact ⟨rfl, rfl, applying, rfl⟩

theorem sectionApplied_ends (last : imgEntries s.m.load.image ≤ s.m.load.done) :
    Completes .sectionApplied s (fun m => m.load.st = .idle ∧ m.load.active = imageWord s.m.load.image ∧ m.image = s.m.image ∧ m.mem = s.m.mem) := by
  refine completes_runUnitsLoss (exec_sectionApplied s) run ?_
  have none_ : (dirEntries s.m.load.image)[s.m.load.done]? = none := by
    rw [List.getElem?_eq_none_iff, dirEntries, List.length_map, List.length_range]
    exact last
  have rule : sectionApplied s.m = loadEnds s.m := by
    unfold sectionApplied
    rw [if_neg (by simp [applying, run, not_holding_of_unitsRun run stays])]
    simp only [none_]
  have keeps := lossCheck_stopKeeps (sectionApplied s.m)
  rw [keeps.load, keeps.image, keeps.mem, rule]
  exact loadEnds_leaves s.m

end

/-- Settles O59: each step of the loader changes the loader, and what it tells, the units it holds and the check for losses leave image and memory. -/
theorem loading : Obligations.Loading := fun _ _ _ =>
  ⟨fun taken target => ⟨imagePut_begins taken target, imagePut_goesOn taken target⟩, imageLoad_verifies,
    fun bare released rom idle none _ found => bootImageRead_verifies bare released rom idle none found,
    fun alive_ st free => ⟨fun target => verifyComplete_passes ⟨alive_, st, free, target⟩, fun _ target => verifyComplete_rejects ⟨alive_, st, free, target⟩,
      fun _ target => patchCheckComplete_holds ⟨alive_, st, free, target⟩, fun _ target => patchCheckComplete_rejects ⟨alive_, st, free, target⟩⟩,
    fun gone checking stays pass => ⟨checkComplete_full gone checking stays pass, checkComplete_prepares gone checking stays pass⟩,
    fun run stays => ⟨prepareComplete_applies run stays, fun _ => quiesceTimeout_abandons run stays,
      fun _ _ _ _ applying => sectionApplied_goesOn run stays applying, sectionApplied_ends run stays⟩⟩

end Sys2Proof.Machine
end
section
/-! Engines and banks: what a read gives after a write to the same and to another engine and level, and what the writes leave of the rest of
the machine. -/

namespace Sys2Proof.Machine

section
variable (m : Mach) (e l : Nat) (f : Eng → Eng) (b : Bank)

@[simp] theorem eng_modEng : eng (modEng m e f) e = f (eng m e) := tget_tset_self ..
theorem eng_modEng_other {k : Nat} (other : k ≠ e) : eng (modEng m e f) k = eng m k := tget_tset_ne _ _ _ _ _ other.symm

@[simp] theorem modEng_mem : (modEng m e f).mem = m.mem := rfl
@[simp] theorem modEng_l2 : (modEng m e f).l2 = m.l2 := rfl

@[simp] theorem setBank_mem : (setBank m e l b).mem = m.mem := rfl
@[simp] theorem setBank_l2 : (setBank m e l b).l2 = m.l2 := rfl

theorem eng_setBank : eng (setBank m e l b) e = { eng m e with lv := vset (eng m e).lv l b } := eng_modEng ..
theorem eng_setBank_other {k : Nat} (other : k ≠ e) : eng (setBank m e l b) k = eng m k := eng_modEng_other _ _ _ other

/-- A change of an engine that is not one of its banks leaves them. -/
theorem bank_modEng (k : Nat) (lv : (f (eng m e)).lv = (eng m e).lv) : bank (modEng m e f) e k = bank m e k := by
  rw [bank, eng_modEng, lv]
  rfl

theorem bank_setBank {l : Nat} (lt : l < 4) : bank (setBank m e l b) e l = b := by
  rw [bank, eng_setBank]
  exact vget_vset_self _ _ _ _ lt

theorem bank_setBank_other {k : Nat} (other : k ≠ l) : bank (setBank m e l b) e k = bank m e k := by
  rw [bank, eng_setBank]
  exact vget_vset_ne _ _ _ _ _ other.symm

end

section
variable (b : Bank) (q : Nat) (x : List QEnt)

@[simp] theorem queueOf_setQueue : queueOf (b.setQueue q x) q = x := tget_tset_self ..

end

end Sys2Proof.Machine
end
section
/-! What an engine waits for comes: the line of a fetch, a walk's translation, an operation's result (R165, R198, R232, R402, R420, R421, R729,
R865). -/

namespace Sys2Proof.Machine

/-! ## The line of a fetch -/

section
variable {m m1 : Mach} {e n : Nat} {d : Line} {p : Bool}

/-- The line that a stalled fetch awaits has come: poisoned, it is kept for the next attempt; else it enters the L1I or the fetch's own line. -/
theorem fetchArrives_line (awaits : (eng m e).fetch = some n) (came : fetchLine m e 0 n 0 = (some (d, p), m1)) :
    let m2 := modEng m1 e (fun x => { x with fetch := none })
    fetchArrives m e = if p then modEng m2 e (fun x => { x with badFetch := some n })
      else if (eng m2 e).l1iOff || !l1Keeps m2 e n then modEng m2 e (fun x => { x with ahead := [(n, d)] })
      else l1iAdd m2 e n d := by
  unfold fetchArrives
  simp only [awaits, came]

/-- A line that an L1I keeps is in it, and neither the engine nor memory has changed. -/
theorem l1iAdd_keeps (on : (eng m e).l1iOff = false) (keeps : l1Keeps m e n = true) :
    (∃ x, x ∈ tget (l1iAdd m e n d).l1i e [] ∧ x.1.line = n ∧ x.2 = d) ∧ eng (l1iAdd m e n d) e = eng m e ∧ (l1iAdd m e n d).mem = m.mem := by
  have kept : ((eng m e).l1iOff || !l1Keeps m e n) = false := by rw [on, keeps]; rfl
  unfold l1iAdd
  rw [if_neg (by simp [kept])]
  refine ⟨?_, rfl, rfl⟩
  dsimp only
  rw [tget_tset_self]
  exact ⟨_, List.mem_append_right _ List.mem_cons_self, rfl, rfl⟩

end

section
variable {s : State} {e : EngineId} {n : Nat} {d : Line} {p : Bool} {m1 : Mach}
variable (runs : meshRuns s.m = true) (awaits : (eng s.m e.val).fetch = some n) (came : fetchLine s.m e.val 0 n 0 = (some (d, p), m1))
include runs awaits came

theorem fetchLineArrival_poisoned (poisoned : p = true) : Completes (.fetchLineArrival e) s (fun m =>
    (eng m e.val).badFetch = some n ∧ (eng m e.val).fetch = none ∧ m.mem = m1.mem) := by
  refine completes_runMesh (exec_fetchLineArrival s e) runs ?_
  rw [fetchArrives_line awaits came, if_pos poisoned]
  simp

theorem fetchLineArrival_enters (good : p = false) (on : (eng m1 e.val).l1iOff = false) (keeps : l1Keeps m1 e.val n = true) :
    Completes (.fetchLineArrival e) s (fun m =>
      (∃ x, x ∈ tget m.l1i e.val [] ∧ x.1.line = n ∧ x.2 = d) ∧ (eng m e.val).fetch = none ∧ m.mem = m1.mem) := by
  refine completes_runMesh (exec_fetchLineArrival s e) runs ?_
  have on2 : (eng (modEng m1 e.val (fun x => { x with fetch := none })) e.val).l1iOff = false := by rw [eng_modEng]; exact on
  have keeps2 : l1Keeps (modEng m1 e.val (fun x => { x with fetch := none })) e.val n = true := keeps
  obtain ⟨entered, engine, mem⟩ := l1iAdd_keeps (d := d) on2 keeps2
  simp only [fetchArrives_line awaits came, good, on2, keeps2]
  exact ⟨entered, by rw [if_neg (by decide), if_neg (by decide), engine, eng_modEng], mem⟩

theorem fetchLineArrival_ahead (good : p = false) (out : (eng m1 e.val).l1iOff = true ∨ l1Keeps m1 e.val n = false) :
    Completes (.fetchLineArrival e) s (fun m => (eng m e.val).ahead = [(n, d)] ∧ (eng m e.val).fetch = none ∧ m.mem = m1.mem) := by
  refine completes_runMesh (exec_fetchLineArrival s e) runs ?_
  have away : ((eng (modEng m1 e.val (fun x => { x with fetch := none })) e.val).l1iOff ||
      !l1Keeps (modEng m1 e.val (fun x => { x with fetch := none })) e.val n) = true := by
    rw [eng_modEng, Bool.or_eq_true, Bool.not_eq_true']
    exact out
  simp only [fetchArrives_line awaits came, good, away]
  simp

end

/-! ## A walk -/

section
variable {s : State} {e : EngineId} {l ls va : Nat} {r : List (Nat × Nat × Nat)}
variable (runs : meshRuns s.m = true) (oldest : (eng s.m e.val).walks = (l, ls, va) :: r)
include runs oldest

theorem translationComplete_enters {t : TlbEntry} (found : walk (modEng s.m e.val (fun x => { x with walks := r })) ls va = .ok t) :
    Completes (.translationComplete e) s (fun m =>
      eng m e.val = { eng s.m e.val with walks := r, tlb := lastN 64 ((eng s.m e.val).tlb ++ [t]) } ∧ m.mem = s.m.mem) := by
  refine completes_runMesh (exec_translationComplete s e) runs ?_
  simp only [walkDone, oldest, found]
  exact ⟨by simp, rfl⟩

theorem translationComplete_fails {d : Nat} (failed : walk (modEng s.m e.val (fun x => { x with walks := r })) ls va = .error d) :
    Completes (.translationComplete e) s (fun m =>
      eng m e.val = { eng s.m e.val with walks := r, xfails := (eng s.m e.val).xfails ++ [(l, ls, va / 2 ^ 21, d)] } ∧ m.mem = s.m.mem) := by
  refine completes_runMesh (exec_translationComplete s e) runs ?_
  simp only [walkDone, oldest, failed]
  exact ⟨by simp, rfl⟩

end

/-! ## A result -/

/-- An array that takes an operation, or gives one up, changes the engine's arrays and nothing else. -/
def ArraysOnly (e : Nat) (m m' : Mach) : Prop := m' = m ∨ ∃ a, m' = setEng m e { eng m e with arrays := a }

theorem arrayTake_arraysOnly (m : Mach) (e u : Nat) : ArraysOnly e m (arrayTake m e u) := by
  unfold arrayTake
  dsimp only
  split
  · exact .inl rfl
  · split
    · exact .inl rfl
    · exact .inr ⟨_, rfl⟩

section
variable {m m' : Mach} {e : Nat} (only : ArraysOnly e m m')
include only

theorem ArraysOnly.bank (k : Nat) : Machine.bank m' e k = Machine.bank m e k := by
  obtain rfl | ⟨a, rfl⟩ := only
  · rfl
  · exact bank_modEng m e (fun x => { x with arrays := a }) k rfl

theorem ArraysOnly.mem : m'.mem = m.mem := by obtain rfl | ⟨_, rfl⟩ := only <;> rfl
theorem ArraysOnly.leases : m'.leases = m.leases := by obtain rfl | ⟨_, rfl⟩ := only <;> rfl

end

theorem arrayFree_keeps (m : Mach) (e u l op k : Nat) :
    bank (arrayFree m e u l op) e k = bank m e k ∧ (arrayFree m e u l op).mem = m.mem ∧ (arrayFree m e u l op).leases = m.leases := by
  unfold arrayFree
  split
  · have only := arrayTake_arraysOnly (modEng m e (fun x => { x with arrays := tdel x.arrays u })) e u
    exact ⟨(only.bank k).trans (bank_modEng _ _ _ k rfl), only.mem, only.leases⟩
  · exact ⟨rfl, rfl, rfl⟩

section
variable {b : Bank} {x : QEnt}

/-- The operation of a queue's only entry ends. -/
theorem fillEntry_only {q : Nat} (only : queueOf b q = [x]) (waits : x.ready = false) (f : QEnt → QEnt) :
    queueOf (fillEntry b q x.op f) q = [f x] := by
  simp [fillEntry, only, waits]

/-- An operation of the FPU without flags and without a trap leaves the flags word and its entry ready. -/
theorem fpuDone_only (only : queueOf b 2 = [x]) (waits : x.ready = false) (flags : x.flags = 0) (trap : x.trap = false) :
    queueOf (fpuDone b x.op) 2 = [{ x with ready := true }] := by
  have found : (queueOf b 2).find? (fun y => y.op == x.op) = some x := by simp [only]
  unfold fpuDone
  simp only [found, if_pos flags]
  rw [fillEntry_only only waits]
  simp [flags, trap]

end

section
variable {m : Mach} {e l u op : Nat}

/-- A choice among one. -/
theorem takeChoice_one (m : Mach) : (takeChoice m 1).1 = 0 := Nat.mod_one _

/-- The operation in an array completes, where the unit has no other that may. -/
theorem operationDone_array (held : tfind (eng m e).arrays u = some (l, op)) (iterative : u ≠ 2) :
    operationDone m e l u = arrayDone (takeChoice m 1).2 e u l op := by
  unfold operationDone
  simp only [held, if_neg iterative, if_true]
  simp [takeChoice_one]

/-- The operation in the FPU's pipeline completes, where its divider holds none. -/
theorem operationDone_piped {x : QEnt} (free : tfind (eng m e).arrays 2 = none) (only : queueOf (bank m e l) 2 = [x]) (waits : x.ready = false)
    (piped : x.iter = false) : operationDone m e l 2 = modBank (takeChoice m 1).2 e l (fun b => fpuDone b x.op) := by
  unfold operationDone
  simp [free, only, waits, piped, takeChoice_one]

end

section
variable {s : State} {e : EngineId} {l : LevelId} {x : QEnt}

/-- The entry of an operation is ready, with nothing of memory and of the leases changed. -/
def EntryReady (s : State) (e : EngineId) (l : LevelId) (x : QEnt) (q : Nat) (m : Mach) : Prop :=
  queueOf (bank m e.val l.val) q = [{ x with ready := true }] ∧ m.mem = s.m.mem ∧ m.leases = s.m.leases

variable (run : unitsRun s.m = true) (active : engActive s.m e.val = true) (waits : x.ready = false)
include run active waits

theorem operationComplete_array {u : QUnit} (held : tfind (eng s.m e.val).arrays (qunitNo u) = some (l.val, x.op))
    (only : queueOf (bank s.m e.val l.val) (qunitNo u) = [x]) (iterative : qunitNo u ≠ 2) :
    Completes (.operationComplete e l u) s (EntryReady s e l x (qunitNo u)) := by
  refine completes_runUnits (exec_operationComplete s e l u) run ?_
  dsimp only
  rw [if_pos active, operationDone_array held iterative, arrayDone]
  obtain ⟨bank_, mem, leases⟩ := arrayFree_keeps (modBank (takeChoice s.m 1).2 e.val l.val (fun b =>
    if qunitNo u = 2 then fpuDone b x.op else fillEntry b (qunitNo u) x.op (fun y => { y with ready := true }))) e.val (qunitNo u) l.val x.op l.val
  refine ⟨?_, mem, leases⟩
  rw [bank_, modBank, bank_setBank _ _ _ l.isLt, if_neg iterative]
  exact fillEntry_only only waits _

theorem operationComplete_piped (free : tfind (eng s.m e.val).arrays 2 = none) (only : queueOf (bank s.m e.val l.val) 2 = [x])
    (piped : x.iter = false) (flags : x.flags = 0) (trap : x.trap = false) : Completes (.operationComplete e l .fpu) s (EntryReady s e l x 2) := by
  refine completes_runUnits (exec_operationComplete s e l .fpu) run ?_
  dsimp only
  rw [if_pos active, qunitNo, operationDone_piped free only waits piped]
  refine ⟨?_, rfl, rfl⟩
  rw [modBank, bank_setBank _ _ _ l.isLt]
  exact fpuDone_only only waits flags trap

end

/-- Settles O46: a line that came enters by what the caches can keep, a walk's end goes to the buffer or to the failures, an operation's end to its entry. -/
theorem fetchesAndOperations : Obligations.FetchesAndOperations :=
  ⟨fun _ _ runs => ⟨fun _ _ _ _ awaits came => ⟨fetchLineArrival_poisoned runs awaits came, fetchLineArrival_enters runs awaits came,
      fetchLineArrival_ahead runs awaits came⟩,
    fun _ _ _ _ oldest => ⟨fun _ => translationComplete_enters runs oldest, fun _ => translationComplete_fails runs oldest⟩⟩,
  fun _ _ _ _ run active waits => ⟨fun held only => operationComplete_array run active waits (u := .mul) held only (by decide),
    fun held only => operationComplete_array run active waits (u := .div) held only (by decide),
    operationComplete_piped run active waits⟩⟩

end Sys2Proof.Machine
end
section
/-! An attempt of a bundle: what its fetch leaves, and which level attempts it (R147, R158, R165, R168, R319). -/

namespace Sys2Proof.Machine

/-! ## What a fetch leaves -/

/-- What an attempt does before its bundle is decoded leaves the engine's banks and its exception vector, the other engines, memory and the L2s. -/
structure FetchKeeps (e : Nat) (m m' : Mach) : Prop where
  mem : m'.mem = m.mem
  l2 : m'.l2 = m.l2
  lv : (eng m' e).lv = (eng m e).lv
  vec : (eng m' e).vec = (eng m e).vec
  others : ∀ k, k ≠ e → eng m' k = eng m k

section
variable {m m' m'' : Mach} {e : Nat}

theorem FetchKeeps.refl (m : Mach) : FetchKeeps e m m := ⟨rfl, rfl, rfl, rfl, fun _ _ => rfl⟩

theorem FetchKeeps.trans (h : FetchKeeps e m m') (g : FetchKeeps e m' m'') : FetchKeeps e m m'' :=
  ⟨g.mem.trans h.mem, g.l2.trans h.l2, g.lv.trans h.lv, g.vec.trans h.vec, fun k ne => (g.others k ne).trans (h.others k ne)⟩

theorem FetchKeeps.bank (h : FetchKeeps e m m') (k : Nat) : Machine.bank m' e k = Machine.bank m e k := by
  rw [Machine.bank, h.lv]; rfl

/-- What leaves engines, memory and the L2s alone. -/
theorem FetchKeeps.of_engs (mem : m'.mem = m.mem) (l2 : m'.l2 = m.l2) (engs : m'.engs = m.engs) : FetchKeeps e m m' := by
  have same (k : Nat) : eng m' k = eng m k := by rw [eng, engs]; rfl
  exact ⟨mem, l2, by rw [same], by rw [same], fun k _ => same k⟩

theorem FetchKeeps.of_logged (h : Logged m m') : FetchKeeps e m m' := .of_engs h.mem h.l2 h.engs

theorem modEng_fetchKeeps (m : Mach) {f : Eng → Eng} (lv : (f (eng m e)).lv = (eng m e).lv) (vec : (f (eng m e)).vec = (eng m e).vec) :
    FetchKeeps e m (modEng m e f) :=
  ⟨rfl, rfl, by rw [eng_modEng, lv], by rw [eng_modEng, vec], fun _ ne => eng_modEng_other _ _ _ ne⟩

end

section
variable (m : Mach) (e l : Nat)

theorem freshFails_keeps : FetchKeeps e m (freshFails m e l) := modEng_fetchKeeps m rfl rfl

theorem askWalk_keeps (ls va : Nat) : FetchKeeps e m (askWalk m e l ls va) := modEng_fetchKeeps m (by split <;> rfl) (by split <;> rfl)

theorem l1iUse_keeps (n : Nat) : FetchKeeps e m (l1iUse m e n) := by
  unfold l1iUse
  dsimp only
  split
  · exact .refl m
  · exact .of_engs rfl rfl rfl

/-- The choice between two copies of a line that differ is all that finding the line can change. -/
theorem fetchHand_logged (n : Nat) : Logged m (fetchHand m e n).2 := by
  unfold fetchHand
  dsimp only
  split
  · split
    · exact .refl m
    · exact takeChoice_logged m 2
  · exact .refl m
  · exact .refl m

theorem fetchBundle_keeps : FetchKeeps e m (fetchBundle m e l).2 := by
  unfold fetchBundle
  dsimp only
  split
  · exact .refl m
  · exact askWalk_keeps ..
  · next pa _ =>
    split
    · exact .of_logged (refuseAccess_logged m (.lease (Fin.ofNat 256 (bkLease (bank m e l) l))) pa 5)
    · split
      · dsimp only
        exact modEng_fetchKeeps m rfl rfl
      · have hand := FetchKeeps.of_logged (e := e) (fetchHand_logged m e (pa / 256))
        split
        · next m' found =>
          rw [found] at hand
          dsimp only at hand ⊢
          exact hand.trans (modEng_fetchKeeps m' rfl rfl)
        · next m' found =>
          rw [found] at hand
          dsimp only at hand ⊢
          exact (hand.trans (l1iUse_keeps m' e _)).trans (modEng_fetchKeeps _ rfl rfl)

end

/-- The machine that a fetch of a level leaves, in one step from the attempt's start. -/
theorem fetched_keeps {m m1 : Mach} {e l : Nat} {r : Fetched} (fetched : fetchBundle (freshFails m e l) e l = (r, m1)) : FetchKeeps e m m1 := by
  have keeps := (freshFails_keeps m e l).trans (fetchBundle_keeps (freshFails m e l) e l)
  rwa [fetched] at keeps

/-! ## The level that issues attempts its bundle -/

section
variable {m : Mach} {e : EngineId} {l : Nat}

theorem inRoutine_of_idle {e : Nat} (idle : ∀ k, k < 4 → (bank m e k).cx = none ∧ (bank m e k).save = none) : inRoutine m e = false := by
  rw [inRoutine, List.any_eq_false]
  intro k at_
  obtain ⟨cx, save⟩ := idle k (List.mem_range.1 at_)
  simp [routineOf, cx, save]

theorem l3Next_of_none {e : Nat} (none_ : ∀ w, w ∈ m.evt.l3Waiting → w.bench ≠ e) : l3Next m e = m := by
  have absent : m.evt.l3Waiting.find? (fun w => w.bench == e) = none := by simpa using none_
  unfold l3Next
  simp [absent]

/-- The level that runs is one of the four. -/
theorem runLevel_lt {e : Nat} (runs : runLevel m e = some l) : l < 4 := by
  have listed := List.mem_of_find?_eq_some runs
  simp only [List.mem_cons, List.not_mem_nil, or_false] at listed
  omega

theorem bundleIssue_attempt (issues : Issues m e.val l) (fails : Nat) : bundleIssue m e fails none = attempt m e.val l fails := by
  obtain ⟨active, runs, idle, none_, stays, going, here, point, whole⟩ := issues
  have save := (idle l (runLevel_lt runs)).2
  have left : (decide (l < 3) && mustLeave m e.val l) = false := by
    rw [Bool.and_eq_false_iff, decide_eq_false_iff_not]
    exact Classical.or_iff_not_imp_left.2 fun lt => here (Decidable.not_not.1 lt)
  unfold bundleIssue
  simp [active, inRoutine_of_idle idle, l3Next_of_none none_, runs, stays, save, going, left, point, whole]

/-- BUNDLE_ISSUE at the level that issues is an attempt of its bundle, and a check for losses. -/
theorem bundleIssue_completes {s : State} {l : LevelId} {check : Option (Fin 4)} {P : Mach → Prop} (run : unitsRun s.m = true)
    (issues : Issues s.m e.val l.val) (q : P (lossCheck (attempt s.m e.val l.val ((check.map (fun c => c.val)).getD 0)))) :
    Completes (.bundleIssue e check none) s P :=
  completes_runUnitsLoss (exec_bundleIssue s e check none) run (by rwa [bundleIssue_attempt issues])

end

/-! ## What the check for losses leaves besides (R818 to R820) -/

/-- Check-stop and its records leave the L2s and the faults found as they were. -/
def l2AndFound (m : Mach) : Tbl L2St × List FaultEv := (m.l2, m.mode.found)

theorem Logged.l2AndFound {m m' : Mach} (h : Logged m m') : Machine.l2AndFound m' = Machine.l2AndFound m := by
  rw [Machine.l2AndFound, h.l2, h.mode]; rfl

theorem enterMode_l2AndFound (m : Mach) (st : Mode) (c : Nat) : l2AndFound (enterMode m st c) = l2AndFound m :=
  (enterMode_logged m st c).l2AndFound
theorem modPcie_l2AndFound (m : Mach) (p : Nat) (f : PcieSt → PcieSt) : l2AndFound (modPcie m p f) = l2AndFound m := rfl

theorem checkStop_l2AndFound (m : Mach) (item : Nat) : l2AndFound (checkStop m item) = l2AndFound m := by
  unfold checkStop
  split
  · rfl
  · dsimp only
    have recorded (d : Bytes) := ((takeFree_logged m).trans (raiseErr_logged _ 0x0006 0x0F00 d)).l2AndFound
    split
    · exact recorded _
    · refine (enterMode_l2AndFound _ _ _).trans ?_
      refine (foldl_keeps l2AndFound (fun x p => modPcie_l2AndFound x p _) _ _).trans ?_
      refine (foldl_keeps l2AndFound (fun x c => ?_) _ _).trans ?_
      · split <;> rfl
      · exact (takeStamp_logged _ 0x0F00).l2AndFound.trans (recorded _)

theorem lossCheck_l2AndFound (m : Mach) : l2AndFound (lossCheck m) = l2AndFound m := by
  unfold lossCheck
  split
  · exact checkStop_l2AndFound m _
  · rfl

theorem lossCheck_l2 (m : Mach) : (lossCheck m).l2 = m.l2 := congrArg Prod.fst (lossCheck_l2AndFound m)
theorem lossCheck_found (m : Mach) : (lossCheck m).mode.found = m.mode.found := congrArg Prod.snd (lossCheck_l2AndFound m)
theorem eng_lossCheck (m : Mach) (e : Nat) : eng (lossCheck m) e = eng m e := by rw [eng, (lossCheck_stopKeeps m).engs]; rfl
theorem bank_lossCheck (m : Mach) (e l : Nat) : bank (lossCheck m) e l = bank m e l := by rw [bank, eng_lossCheck]; rfl
theorem lossCheck_mem (m : Mach) : (lossCheck m).mem = m.mem := (lossCheck_stopKeeps m).mem

end Sys2Proof.Machine
end
section
/-! The exception of a bundle whose format is wrong (R149, R181, R185, R186). -/

namespace Sys2Proof.Machine

theorem attempt_of_wait {m m1 : Mach} {e l : Nat} (fails : Nat) (waits : fetchBundle (freshFails m e l) e l = (.wait, m1)) :
    attempt m e l fails = m1 := by
  unfold attempt
  simp only [waits]

theorem attempt_of_error {m m1 : Mach} {e l w n : Nat} (fails : Nat) (fetched : fetchBundle (freshFails m e l) e l = (.word w, m1))
    (wrong : decodeBundle w = .error n) :
    attempt m e l fails = deliver m1 e l { cause := 3, slot := n, sock := 0x3FF, det := 0, addr := 0 } (bit w 127) := by
  unfold attempt
  simp only [fetched, wrong]

/-! ## The word of EXC_CAUSE -/

theorem shiftLeft_mod_eq_zero {k n : Nat} (a : Nat) (le : k ≤ n) : a <<< n % 2 ^ k = 0 := by
  rw [Nat.shiftLeft_eq]
  exact Nat.mod_eq_zero_of_dvd ((pow_dvd_pow 2 le).mul_left a)

/-- The cause is the low byte of EXC_CAUSE, which no other field reaches. -/
theorem excWord_cause (l ls : Nat) (x : Exc) (rep : Bool) (rem : Nat) : bits (excWord l ls x rep rem).toNat 7 0 = x.cause % 2 ^ 8 := by
  have low (n : Nat) : n % 2 ^ 64 % 2 ^ 8 = n % 2 ^ 8 := Nat.mod_mod_of_dvd n (pow_dvd_pow 2 (by decide))
  rw [bits, Nat.pow_zero, Nat.div_one, excWord, pack, BitVec.toNat_ofNat, low]
  simp (disch := decide) only [packN, List.foldl_cons, List.foldl_nil, Nat.or_mod_two_pow, shiftLeft_mod_eq_zero]
  simp

/-! ## Level 3 starts -/

theorem bits_lt (v hi lo : Nat) : bits v hi lo < 2 ^ (hi + 1 - lo) := Nat.mod_lt _ (Nat.two_pow_pos _)

/-- The address of a bundle in bits 47 to 4 of a word. -/
theorem bits_address (a : Nat) (lt : a < 2 ^ 44) : bits (a * 16) 47 4 = a := by
  unfold bits
  omega

section
variable (m : Mach) (e pc : Nat) (ev : Option WaitEntry)

theorem l3Start_bank_other {k : Nat} (other : k ≠ 3) : bank (l3Start m e pc ev) e k = bank m e k := by
  unfold l3Start
  dsimp only
  rw [bank_modEng _ _ _ k rfl, bank_setBank_other _ _ _ _ other]

/-- Level 3 is Ready at its handler. -/
theorem l3Start_bank : (bank (l3Start m e pc ev) e 3).st = .ready ∧ bkPc (bank (l3Start m e pc ev) e 3) = bits pc 47 4 * 16 := by
  have lt := bits_lt pc 47 4
  unfold l3Start
  dsimp only
  rw [bank_modEng _ _ _ 3 rfl, bank_setBank _ _ _ (by decide)]
  refine ⟨rfl, ?_⟩
  rw [bkPc, cw]
  dsimp only
  simp (disch := decide) only [vget_vset_ne, vget_vset_self]
  rw [BitVec.toNat_ofNat, Nat.mod_eq_of_lt (by omega), bits_address _ (by omega)]

theorem l3Start_exc : (eng (l3Start m e pc ev) e).excLevel = (eng m e).excLevel ∧ (eng (l3Start m e pc ev) e).excPc = (eng m e).excPc ∧
    (eng (l3Start m e pc ev) e).cause = (eng m e).cause ∧ (l3Start m e pc ev).mem = m.mem := by
  unfold l3Start
  dsimp only
  rw [eng_modEng, eng_setBank]
  exact ⟨rfl, rfl, rfl, rfl⟩

end

/-! ## An exception is delivered -/

/-- An exception that level 3 can take: the level is exception-pending, the registers are written, level 3 is Ready at the vector. -/
theorem deliver_taken {m : Mach} {e l : Nat} (x : Exc) (rep : Bool) (lt : l < 4) (low : l ≠ 3) (vector : (eng m e).vec.getLsbD 0 = true) :
    let m' := deliver m e l x rep
    (bank m' e l).st = .exception ∧ (bank m' e 3).st = .ready ∧ bkPc (bank m' e 3) = bits (eng m e).vec.toNat 47 4 * 16 ∧
      (eng m' e).excLevel = some l ∧ (eng m' e).excPc = BitVec.ofNat 64 (bkPc (bank m e l)) ∧ bits (eng m' e).cause.toNat 7 0 = x.cause % 2 ^ 8 ∧
      m'.mem = m.mem := by
  unfold deliver
  rw [if_neg low, if_neg (by simp [vector])]
  dsimp only
  generalize hm : modEng (setBank (excRegs m e l x rep) e l _) e _ = m2
  obtain ⟨ready, pc⟩ := l3Start_bank m2 e (bits (eng m e).vec.toNat 47 4 * 16) none
  obtain ⟨level, excPc, cause, mem⟩ := l3Start_exc m2 e (bits (eng m e).vec.toNat 47 4 * 16) none
  rw [bits_address _ (bits_lt _ 47 4)] at pc
  rw [level, excPc, cause, mem, l3Start_bank_other _ _ _ _ low]
  subst hm
  rw [bank_modEng _ _ _ l rfl, bank_setBank _ _ _ lt, eng_modEng, eng_setBank, excRegs, eng_modEng]
  exact ⟨rfl, ready, pc, rfl, rfl, excWord_cause .., rfl⟩

end Sys2Proof.Machine
end
section
/-! A bundle of moves between general registers: no check, no stall and no trigger concerns it, and what it writes (R160, R162, R165, R181). -/

namespace Sys2Proof.Machine

/-! ## The sockets of the general registers -/

section
variable {n : Nat}

theorem sockOf_reg (reg : n < 0x20) : sockOf n = mkSock .reg .reg 64 := if_pos reg
theorem isTrigger_reg (reg : n < 0x20) : isTrigger n = false := by rw [isTrigger, sockOf_reg reg]; rfl
theorem lsuTrig_reg (reg : n < 0x20) : lsuTrig n = none := by rw [lsuTrig, isTrigger_reg reg]; rfl
theorem aluTrig_reg (reg : n < 0x20) : aluTrig n = none := by unfold aluTrig; rw [if_neg (by omega), if_neg (by omega)]
theorem macTrig_reg (reg : n < 0x20) : macTrig n = none := if_neg (by omega)
theorem cxTrig_reg (reg : n < 0x20) : cxTrig n = none := if_neg (by omega)
theorem saveTrig_reg (reg : n < 0x20) : saveTrig n = none := if_neg (by omega)
theorem queuePort_reg : ∀ {n}, n < 0x20 → queuePort n = none := by decide
theorem replacePort_reg : ∀ {n}, n < 0x20 → replacePort n = none := by decide
theorem takesEntry_reg : ∀ {n}, n < 0x20 → takesEntry n = none := by decide
theorem destWord_reg : ∀ {n}, n < 0x20 → destWord n = some n := by decide
theorem stackNeeds_reg : ∀ {n}, n < 0x20 → stackNeeds n = 0 := by decide
theorem isJump_reg : ∀ {n}, n < 0x20 → isJump n = false := by decide

theorem trigGuard_reg (reg : n < 0x20) (b : Bank) (a : Word) : trigGuard b n a = none := by
  rw [trigGuard, aluTrig_reg reg]
  exact if_neg (by omega)

/-- A register takes its value whole (R154). -/
theorem cutTo_64 (v : Word) : cutTo 64 v = v := by
  rw [cutTo, Nat.mod_eq_of_lt v.isLt, BitVec.ofNat_toNat, BitVec.setWidth_eq]

end

/-! ## Moves with their values -/

/-- A move with the value that it carries from the bank before its bundle. -/
def withValue (b : Bank) (p : Move) : Move × Word := (p, moveValue b p)

/-- Moves between general registers, or of literals into them, with their values. -/
def RegMoves (ms : List (Move × Word)) : Prop := ∀ p ∈ ms, regMove p.1 = true

theorem regMove_dest {p : Move} (reg : regMove p = true) : p.dest < 0x20 := of_decide_eq_true (Bool.and_eq_true_iff.1 reg).1

theorem regMove_src {p : Move} (reg : regMove p = true) {n : Nat} (src : p.src = .sock n) : n < 0x20 := by
  rw [regMove, src, Bool.and_eq_true] at reg
  exact of_decide_eq_true reg.2

section
variable {p : Move} (reg : regMove p = true)
include reg

theorem readSock_reg (x : Eng) (e l : Nat) (b : Bank) (time cycles : Word) {n : Nat} (src : p.src = .sock n) :
    readSock x e l b time cycles n = gw b n := if_pos (regMove_src reg src)

/-- No move of a register comes from one of the ports with numbers above the registers'. -/
theorem src_ne {n : Nat} (port : 0x20 ≤ n) : p.src ≠ .sock n := fun src => absurd (regMove_src reg src) (by omega)

theorem dest_ne {n : Nat} (port : 0x20 ≤ n) : p.dest ≠ n := by
  have := regMove_dest reg
  omega

theorem headOf_regMove (b : Bank) : headOf b p = none := by
  unfold headOf
  split
  · next n src => rw [queuePort_reg (regMove_src reg src)]; rfl
  · rfl

end

/-- Register moves carry what their sources hold, whatever the engine's clock and counter read. -/
theorem carried_regMoves (x : Eng) (e l : Nat) (b : Bank) (time cycles : Word) {ms : List Move} (reg : ∀ p ∈ ms, regMove p = true) :
    carried x e l b time cycles ms = ms.map (withValue b) := by
  refine List.map_congr_left fun p hp => ?_
  have dest := sockOf_reg (regMove_dest (reg p hp))
  cases src : p.src with
  | lit w => simp only [dest, mkSock, cutTo_64, withValue, moveValue, src]
  | sock n => simp only [dest, mkSock, cutTo_64, withValue, moveValue, src, readSock_reg (reg p hp) x e l b time cycles src]

/-! ## No stall -/

theorem lowest_of_none {α : Type} {l : List α} {f : α → Option Exc} (none_ : ∀ a ∈ l, f a = none) : lowest (l.filterMap f) = none := by
  rw [List.filterMap_eq_nil_iff.2 none_]
  rfl

theorem fillExc_of_none {b : Bank} (none_ : b.fault = none) (ms : List (Move × Word)) (cause : Nat) : fillExc b ms cause = none := by
  unfold fillExc
  rw [none_]

section
variable {ms : List (Move × Word)} (regs : RegMoves ms)
include regs

theorem memNeeds_regMove (b : Bank) {p : Move × Word} (at_ : p ∈ ms) : memNeeds b p = [] := by
  have reg := regMove_dest (regs p at_)
  unfold memNeeds
  simp only [lsuTrig_reg reg, macTrig_reg reg]

theorem any_dest_false {f : Nat → Bool} (none_ : ∀ n, n < 0x20 → f n = false) : (ms.map (fun p => p.1.dest)).any f = false := by
  rw [List.any_map, List.any_eq_false]
  intro p hp
  simpa using none_ _ (regMove_dest (regs p hp))

/-- The registers that the moves read. -/
theorem srcs_regs {n : Nat} (at_ : n ∈ ms.filterMap (fun p => match p.1.src with | .sock n => some n | .lit _ => none)) : n < 0x20 := by
  obtain ⟨p, hp, src⟩ := List.mem_filterMap.1 at_
  split at src
  · next k socket =>
    cases src
    exact regMove_src (regs p hp) socket
  · cases src

/-- Register moves wait for nothing: no queue, no unit, no translation and no stack (R165). -/
theorem stallOf_regMoves (m : Mach) (e l : Nat) (b b' : Bank) : stallOf m e l b b' ms = none := by
  unfold stallOf
  extract_lets x ls srcs dests flight latched memTrig fenced lsuBusy evtBusy counted full need inRegion bottom pushBusy spills fills
  have ofSrc {f : Nat → Bool} (none_ : ∀ n, n < 0x20 → f n = false) : srcs.any f = false :=
    List.any_eq_false.2 fun n hn => by simpa using none_ n (srcs_regs regs hn)
  have ofDest {f : Nat → Bool} (none_ : ∀ n, n < 0x20 → f n = false) : dests.any f = false := any_dest_false regs none_
  have ofMove {f : Move × Word → Bool} (none_ : ∀ p ∈ ms, lsuTrig p.1.dest = none → memNeeds b' p = [] → f p = false) : ms.any f = false :=
    List.any_eq_false.2 fun p hp => by simpa using none_ p hp (lsuTrig_reg (regMove_dest (regs p hp))) (memNeeds_regMove regs b' hp)
  have flight_ : flight = false := ofSrc fun n reg => by rw [queuePort_reg reg]
  have latched_ : latched = false := ofSrc fun n reg => by
    simp [show n ≠ 0x211 by omega, show n ≠ 0x212 by omega, show n ≠ 0x193 by omega, show n ≠ 0x194 by omega]
  have fenced_ : fenced = false := by
    simp only [fenced, memTrig, ofMove fun _ _ trig needs => show ((lsuTrig _).isSome || !(memNeeds b' _).isEmpty) = false by rw [trig, needs]; rfl,
      Bool.false_and]
  have lsuBusy_ : lsuBusy = false := ofDest fun n reg => by rw [lsuTrig_reg reg]
  have evtBusy_ : evtBusy = false := by
    simp only [evtBusy, ofDest fun n reg => show (unitOfSock n == .evt && isTrigger n) = false by rw [isTrigger_reg reg, Bool.and_false],
      Bool.false_and]
  have counted_ : counted = false := ofMove fun p _ trig needs => by rw [trig, needs]; rfl
  have full_ : full = false := by simp only [full, counted_, Bool.false_and]
  have needs : ms.flatMap (memNeeds b') = [] := List.flatMap_eq_nil_iff.2 fun p hp => memNeeds_regMove regs b' hp
  have need_ : need = 0 := foldl_idle fun n hn => by rw [stackNeeds_reg (srcs_regs regs hn)]; rfl
  have noDest {k : Nat} (port : 0x20 ≤ k) : dests.contains k = false := by
    rw [List.contains_eq_any_beq]
    exact ofDest fun n reg => by simp; omega
  have noSrc {k : Nat} (port : 0x20 ≤ k) : srcs.contains k = false := by
    rw [List.contains_eq_any_beq]
    exact ofSrc fun n reg => by simp; omega
  have pushBusy_ : pushBusy = false := by simp only [pushBusy, noDest (show 0x20 ≤ 0x1B0 by decide), Bool.false_and]
  have spills_ : spills = false := by
    simp only [spills, ofDest fun n reg => show (n == 0x1D0 || n == 0x1D1) = false by simp; omega, Bool.false_and]
  have fills_ : fills = false := by
    simp only [fills, noDest (show 0x20 ≤ 0x1D2 by decide), noSrc (show 0x20 ≤ 0x1D3 by decide), Bool.or_self, Bool.false_and]
  simp [flight_, latched_, fenced_, lsuBusy_, evtBusy_, full_, needs, need_, pushBusy_, spills_, fills_]

/-! ## No exception -/

theorem pops_none : ms.any (fun p => p.1.src == .sock 0x1B1) = false :=
  List.any_eq_false.2 fun p hp => by simpa using src_ne (regs p hp) (by decide)

theorem find_port_none {k : Nat} (port : 0x20 ≤ k) : ms.find? (fun p => p.1.dest == k) = none :=
  List.find?_eq_none.2 fun p hp => by simpa using dest_ne (regs p hp) port

theorem spAfter_regMoves (b : Bank) : spAfter b ms = cw b 3 := by
  unfold spAfter
  simp [pops_none regs, find_port_none regs (show 0x20 ≤ 0x1B6 by decide), b2n]

/-- Two moves into different registers do not conflict. -/
theorem conflict_regMoves (b : Bank) {p q : Move × Word} (hp : p ∈ ms) (hq : q ∈ ms) (differ : p.1.dest ≠ q.1.dest) : conflict b p q = false := by
  have a := regMove_dest (regs p hp)
  have c := regMove_dest (regs q hq)
  have pop (x : Move × Word) (hx : x ∈ ms) : (x.1.src == .sock 0x1B1) = false := by simpa using src_ne (regs x hx) (by decide)
  have notGuards (x : Move × Word) (hx : x ∈ ms) : x.1.dest ≠ 0x22 := dest_ne (regs x hx) (by decide)
  have notSp (x : Move × Word) (hx : x ∈ ms) : x.1.dest ≠ 0x23 := dest_ne (regs x hx) (by decide)
  simp [conflict, destWord_reg a, destWord_reg c, differ, isTrigger_reg a, trigGuard_reg a, trigGuard_reg c, isJump_reg a, pop p hp, pop q hq,
    notGuards p hp, notGuards q hq, notSp p hp, notSp q hq]

theorem conflictExc_regMoves (b : Bank) (once : (ms.map (fun p => p.1.dest)).Nodup) : conflictExc b ms = none := by
  have none_ : ms.filter (fun p => (destWord p.1.dest == some 0x23 && p.1.src == .sock 0x1B1) ||
      ms.any (fun q => q.1.slot != p.1.slot && conflict b p q)) = [] := by
    refine List.filter_eq_nil_iff.2 fun p hp => ?_
    have src : (p.1.src == .sock 0x1B1) = false := by simpa using src_ne (regs p hp) (by decide)
    have apart : ms.any (fun q => q.1.slot != p.1.slot && conflict b p q) = false := List.any_eq_false.2 fun q hq => by
      by_cases same : p.1.dest = q.1.dest
      · have eq : p = q := List.inj_on_of_nodup_map once hp hq same
        simp [eq]
      · simp [conflict_regMoves regs b hp hq same]
    simp [src, apart]
  unfold conflictExc
  dsimp only
  rw [none_]
  rfl

theorem queueExc_regMoves {b : Bank} (none_ : b.fault = none) : queueExc b ms = none := by
  have head (p : Move × Word) (hp : p ∈ ms) : headOf b p.1 = none := headOf_regMove (regs p hp) b
  have entry (p : Move × Word) (hp : p ∈ ms) : takesEntry p.1.dest = none := takesEntry_reg (regMove_dest (regs p hp))
  unfold queueExc
  extract_lets of_ empty poison trap popped over_
  have empty_ : of_ 8 empty = none := lowest_of_none fun p hp => by simp only [empty, head p hp]; rfl
  have poison_ : of_ 9 poison = none := lowest_of_none fun p hp => by
    simp only [poison, head p hp]
    split
    · next n src =>
      have := regMove_src (regs p hp) src
      rw [if_neg (by omega)]; rfl
    · rfl
  have trap_ : of_ 10 trap = none := lowest_of_none fun p hp => by simp only [trap, head p hp]; rfl
  have full_ : of_ 11 over_ = none := lowest_of_none fun p hp => by simp only [over_, entry p hp]; rfl
  rw [empty_, poison_, trap_, full_, fillExc_of_none none_]
  rfl

theorem accessExc_regMoves (m : Mach) (e l : Nat) {b : Bank} (b' : Bank) (none_ : b.fault = none) : accessExc m e l b b' ms = none := by
  unfold accessExc
  extract_lets x ls push trig
  have push_ : ms.filterMap push = [] := List.filterMap_eq_nil_iff.2 fun p hp => by
    simp only [push]
    rw [if_neg (by simp [dest_ne (regs p hp) (show 0x20 ≤ 0x1B0 by decide)])]
  have trig_ : ms.filterMap trig = [] := List.filterMap_eq_nil_iff.2 fun p hp => by
    simp [trig, lsuTrig_reg (regMove_dest (regs p hp)), memNeeds_regMove regs b' hp]
  rw [push_, trig_, fillExc_of_none none_]
  rfl

theorem alignExc_regMoves (b b' : Bank) : alignExc b b' ms = none := by
  refine lowest_of_none fun p hp => ?_
  have reg := regMove_dest (regs p hp)
  dsimp only
  rw [if_neg (by omega), if_neg (by omega), memNeeds_regMove regs b' hp]
  rfl

theorem arithExc_regMoves (b' : Bank) : arithExc b' ms = none := by
  unfold arithExc
  extract_lets dzt ovt dv ov
  have dv_ : lowest (ms.filterMap dv) = none := lowest_of_none fun p hp => by
    have reg := regMove_dest (regs p hp)
    simp only [dv]
    rw [if_neg (by omega)]
  have ov_ : lowest (ms.filterMap ov) = none := lowest_of_none fun p hp => by
    have reg := regMove_dest (regs p hp)
    simp [ov, aluTrig_reg reg, show p.1.dest ≠ 0x0B6 by omega]
  rw [dv_, ov_]

theorem stackExc_regMoves (x : Eng) (l : Nat) {b : Bank} (none_ : b.fault = none) : stackExc x l b ms = none := by
  unfold stackExc
  extract_lets base limit sp sp' one
  have one_ : ms.filterMap one = [] := List.filterMap_eq_nil_iff.2 fun p hp => by
    have reg := regMove_dest (regs p hp)
    simp only [one]
    rw [if_neg ?_, if_neg (by omega), if_neg (by omega), if_neg (by omega), if_neg (by omega)]
    cases src : p.1.src with
    | lit w => simp
    | sock n => simp [stackNeeds_reg (regMove_src (regs p hp) src)]
  rw [one_, fillExc_of_none none_]
  rfl

theorem unitExc_regMoves (b b' : Bank) : unitExc b b' ms = none := by
  refine lowest_of_none fun p hp => ?_
  have reg := regMove_dest (regs p hp)
  simp only [cxTrig_reg reg]
  rw [if_neg (by omega), if_neg (by omega), if_neg (by omega), if_neg (by omega), if_neg (by omega)]

theorem trapExc_regMoves : trapExc ms = none :=
  lowest_of_none fun p hp => if_neg (dest_ne (regs p hp) (by decide))

/-- Moves into different registers pass every issue check (R181). -/
theorem issueExc_regMoves (m : Mach) (e l : Nat) {b : Bank} (b' : Bank) (none_ : b.fault = none)
    (once : (ms.map (fun p => p.1.dest)).Nodup) : issueExc m e l b b' ms = none := by
  unfold issueExc
  rw [conflictExc_regMoves regs b' once, queueExc_regMoves regs none_, accessExc_regMoves regs m e l b' none_, alignExc_regMoves regs,
    arithExc_regMoves regs, stackExc_regMoves regs _ _ none_, unitExc_regMoves regs, trapExc_regMoves regs]
  rfl

end

end Sys2Proof.Machine
end
section
/-! BUNDLE_ISSUE (R160, R163, R168, R795, R797): what a bundle of register moves writes, and an engine whose attempts all fail a check. -/

namespace Sys2Proof.Machine

/-! ## The writes of a bundle of register moves -/

/-- What the writes of registers and the accumulator leave of a bank: the control words but the dirty bits, and the operations at work. -/
structure RegsOnly (b b' : Bank) : Prop where
  words : ∀ i, i ≠ 11 → cw b' i = cw b i
  cx : b'.cx = b.cx
  save : b'.save = b.save

theorem RegsOnly.refl (b : Bank) : RegsOnly b b := ⟨fun _ _ => rfl, rfl, rfl⟩

theorem RegsOnly.trans {b b' b'' : Bank} (h : RegsOnly b b') (g : RegsOnly b' b'') : RegsOnly b b'' :=
  ⟨fun i ne => (g.words i ne).trans (h.words i ne), g.cx.trans h.cx, g.save.trans h.save⟩

theorem cw_dirty_other (b : Bank) (k : Nat) {i : Nat} (other : i ≠ 11) : cw (b.dirty k) i = cw b i :=
  congrArg BitVec.toNat (vget_vset_ne _ _ _ _ _ other.symm)

theorem setG_regsOnly (b : Bank) (i : Nat) (v : Word) : RegsOnly b (b.setG i v) := ⟨fun _ ne => cw_dirty_other _ _ ne, rfl, rfl⟩

theorem gw_setG (b : Bank) {i : Nat} (lt : i < 32) (v : Word) (r : Nat) : gw (b.setG i v) r = if i = r then v else gw b r := by
  split
  · next same => subst same; exact vget_vset_self _ _ _ _ lt
  · next other => exact vget_vset_ne _ _ _ _ _ other

section
variable {ms : List (Move × Word)}

theorem afterWrites_cons {p : Move × Word} (reg : regMove p.1 = true) (b : Bank) :
    afterWrites b (p :: ms) = afterWrites (b.setG p.1.dest p.2) ms :=
  congrArg (fun b => afterWrites b ms) (if_pos (regMove_dest reg))

theorem afterWrites_regsOnly (regs : RegMoves ms) (b : Bank) : RegsOnly b (afterWrites b ms) := by
  induction ms generalizing b with
  | nil => exact .refl b
  | cons p ms ih =>
    rw [afterWrites_cons (regs p List.mem_cons_self)]
    exact (setG_regsOnly b _ _).trans (ih (fun q hq => regs q (List.mem_cons_of_mem p hq)) _)

/-- A register reads what the one move into it carried, or what it held. -/
theorem gw_afterWrites (regs : RegMoves ms) (once : (ms.map (fun p => p.1.dest)).Nodup) (b : Bank) (r : Nat) :
    gw (afterWrites b ms) r = ((ms.find? (fun p => p.1.dest == r)).map (fun p => p.2)).getD (gw b r) := by
  induction ms generalizing b with
  | nil => rfl
  | cons p ms ih =>
    obtain ⟨fresh, once'⟩ := List.nodup_cons.1 once
    have reg := regs p List.mem_cons_self
    rw [afterWrites_cons reg, ih (fun q hq => regs q (List.mem_cons_of_mem p hq)) once', gw_setG b (regMove_dest reg)]
    by_cases here : p.1.dest = r
    · have rest : ms.find? (fun q => q.1.dest == r) = none := List.find?_eq_none.2 fun q hq same =>
        fresh (List.mem_map.2 ⟨q, hq, (beq_iff_eq.1 same).trans here.symm⟩)
      simp [here, rest]
    · simp [here]

end

/-! ## MAC operations that wait are applied to the accumulator -/

theorem macApply_eq (b : Bank) (o : MacOp) : ∃ t, macApply b o = { b with t := t } := by
  unfold macApply setAcc
  dsimp only
  split
  · exact ⟨_, rfl⟩
  · exact ⟨_, rfl⟩
  · exact ⟨_, rfl⟩
  · split <;> exact ⟨_, rfl⟩

theorem macDrain_eq (n : Nat) (b : Bank) : ∃ t q, macDrain n b = { b with t := t, macq := q } := by
  induction n generalizing b with
  | zero => exact ⟨_, _, rfl⟩
  | succ n ih =>
    unfold macDrain
    split
    · exact ⟨_, _, rfl⟩
    · next o r _ =>
      split
      · exact ⟨_, _, rfl⟩
      · obtain ⟨t, applied⟩ := macApply_eq { b with macq := r } o
        obtain ⟨t', q, drained⟩ := ih { b with macq := r, t := t }
        rw [applied]
        exact ⟨t', q, drained⟩

/-- What a bundle's stalls waited for is over. -/
def unstalled (b : Bank) : Bank := { b with fault := none, dfill := 0, spill := false, fill := false }

/-- The bank as the writes of a bundle leave it. -/
def written (b : Bank) (ms : List (Move × Word)) : Bank :=
  let b' := afterWrites (unstalled b) ms
  macDrain b'.macq.length b'

theorem written_eq (b : Bank) (ms : List (Move × Word)) : ∃ t q, written b ms = { afterWrites (unstalled b) ms with t := t, macq := q } :=
  macDrain_eq _ _

section
variable {ms : List (Move × Word)} (regs : RegMoves ms)
include regs

theorem written_regsOnly (b : Bank) : RegsOnly b (written b ms) := by
  have start : RegsOnly b (unstalled b) := ⟨fun _ _ => rfl, rfl, rfl⟩
  refine (start.trans (afterWrites_regsOnly regs _)).trans ?_
  obtain ⟨t, q, drained⟩ := written_eq b ms
  rw [drained]
  exact ⟨fun _ _ => rfl, rfl, rfl⟩

theorem gw_written (once : (ms.map (fun p => p.1.dest)).Nodup) (b : Bank) (r : Nat) :
    gw (written b ms) r = ((ms.find? (fun p => p.1.dest == r)).map (fun p => p.2)).getD (gw b r) := by
  obtain ⟨t, q, drained⟩ := written_eq b ms
  rw [drained]
  exact gw_afterWrites regs once (unstalled b) r

end

/-- The machine once the writes of a bundle are made; the failed walks that it waited for are used up. -/
def bundleWritten (m : Mach) (e l : Nat) (ms : List (Move × Word)) : Mach :=
  modEng (setBank m e l (written (bank m e l) ms)) e (fun x => { x with xfails := x.xfails.filter (fun f => f.1 != l) })

theorem bank_bundleWritten (m : Mach) (e : Nat) {l : Nat} (lt : l < 4) (ms : List (Move × Word)) :
    bank (bundleWritten m e l ms) e l = written (bank m e l) ms :=
  (bank_modEng _ _ _ l rfl).trans (bank_setBank _ _ _ lt)

/-! ## The program counter goes on -/

theorem advance_once (b : Bank) (rc : Nat) : advance b false rc none = b.setC 0 ((bkPc b + 16) % 2 ^ 48 / 16 * 16) := rfl

theorem gw_advance (b : Bank) (rc r : Nat) : gw (advance b false rc none) r = gw b r := rfl

theorem bkPc_advance (b : Bank) (rc : Nat) : bkPc (advance b false rc none) = (bkPc b + 16) % 2 ^ 48 := by
  have aligned : bkPc b = bits (cw b 0) 47 4 * 16 := rfl
  have word : cw (b.setC 0 ((bkPc b + 16) % 2 ^ 48 / 16 * 16)) 0 = (bkPc b + 16) % 2 ^ 48 / 16 * 16 := by
    refine (cw_dirty_other _ _ (by decide)).trans ?_
    rw [cw, Bank.rawC, vget_vset_self _ _ _ _ (by decide), BitVec.toNat_ofNat, Nat.mod_eq_of_lt (by omega)]
  rw [advance_once, bkPc, word, bits_address _ (by omega)]
  omega

/-! ## The bundle issues -/

section
variable {ms : List (Move × Word)} (regs : RegMoves ms)
include regs

theorem flowOf_regMoves (pc top : Nat) : flowOf pc top ms = { jump := none, yld := false, wait := none, dispose := none } := by
  simp (disch := decide) [flowOf, find_port_none regs]

theorem stackMoves_regMoves (m : Mach) (e l : Nat) : stackMoves m e l ms = m := by
  unfold stackMoves
  simp [spAfter_regMoves regs, find_port_none regs (show 0x20 ≤ 0x1B0 by decide)]

theorem applyTrig_regMove (e l : Nat) (rep : Bool) (guards : Nat) (time : Word) (m : Mach) {p : Move × Word} (at_ : p ∈ ms) :
    applyTrig e l rep guards time m p = m := by
  have reg := regMove_dest (regs p at_)
  unfold applyTrig
  simp only [aluTrig_reg reg, lsuTrig_reg reg, macTrig_reg reg, cxTrig_reg reg, saveTrig_reg reg, replacePort_reg reg]
  rw [if_neg (by omega), if_neg (by omega), if_neg (by omega), if_neg (by omega)]
  split
  case h_9 => rfl
  all_goals omega

theorem triggers_regMoves (e l : Nat) (rep : Bool) (guards : Nat) (time : Word) (m : Mach) :
    (trigOrder ms).foldl (applyTrig e l rep guards time) m = m := by
  refine foldl_idle fun p hp => applyTrig_regMove regs e l rep guards time m ?_
  simp only [trigOrder, List.mem_append, List.mem_filter] at hp
  obtain (hp | hp) | hp := hp <;> exact hp.1

theorem writesSp_regMoves : ms.any (fun p => destWord p.1.dest == some 0x23) = false :=
  List.any_eq_false.2 fun p hp => by
    have := regMove_dest (regs p hp)
    rw [destWord_reg this]
    simp
    omega

theorem pops_regMoves : (List.range 6).filter (fun q => ms.any (fun p => match p.1.src with
    | .sock n => (match queuePort n with | some (k, true, _) => k == q | _ => false)
    | .lit _ => false)) = [] := by
  refine List.filter_eq_nil_iff.2 fun q _ => ?_
  rw [Bool.not_eq_true, List.any_eq_false]
  intro p hp
  split
  · next n src => simp [queuePort_reg (regMove_src (regs p hp) src)]
  · simp

/-- Register moves that issue: the bank is written and its program counter goes on. -/
theorem applyBundle_regMoves {m : Mach} {e l : Nat} (lt : l < 4) (cx : (bank m e l).cx = none) (save : (bank m e l).save = none) (time : Word) :
    applyBundle m e l false ms time = modEng (modBank (bundleWritten m e l ms) e l (fun b =>
      advance b false (bits (cw (bank m e l) 5) 15 0) none)) e (fun x => x) := by
  unfold applyBundle
  extract_lets b0 rc guards fl m2 popped m3 m4 m5 m6 busy held m7 m8 m9 m10
  have flow : fl = { jump := none, yld := false, wait := none, dispose := none } := flowOf_regMoves regs _ _
  have pops : popped = [] := pops_regMoves regs
  have stackKept : m2 = m := if_neg (by rw [writesSp_regMoves regs]; decide)
  have writes : m3 = setBank m e l (written (bank m e l) ms) := by
    simp only [m3, stackKept, pops]
    rfl
  have used : m4 = bundleWritten m e l ms := by simp only [m4, writes, bundleWritten]
  have triggers : m6 = bundleWritten m e l ms := by
    simp only [m6, m5, used, stackMoves_regMoves regs, triggers_regMoves regs]
  have idle : busy = false := by
    have kept := written_regsOnly regs (bank m e l)
    simp only [busy, triggers, bank_bundleWritten m e lt ms, kept.cx, kept.save, cx, save]
    rfl
  have goesOn : m8 = modEng (modBank (bundleWritten m e l ms) e l (fun b => advance b false rc none)) e (fun x => x) := by
    simp only [m8, m7, idle, triggers, flow]
    rfl
  simp only [flow, m10, m9, goesOn]
  rfl

/-- What register moves that issue leave: the level's bank is the one written, one bundle on; other banks, engines, memory and the L2s stay. -/
theorem applyBundle_leaves {m : Mach} {e l : Nat} (lt : l < 4) (cx : (bank m e l).cx = none) (save : (bank m e l).save = none) (time : Word) :
    (∃ rc, bank (applyBundle m e l false ms time) e l = advance (written (bank m e l) ms) false rc none) ∧
      (∀ k, k ≠ l → bank (applyBundle m e l false ms time) e k = bank m e k) ∧ (∀ f, f ≠ e → eng (applyBundle m e l false ms time) f = eng m f) ∧
      (applyBundle m e l false ms time).mem = m.mem ∧ (applyBundle m e l false ms time).l2 = m.l2 := by
  rw [applyBundle_regMoves regs lt cx save]
  refine ⟨⟨bits (cw (bank m e l) 5) 15 0, ?_⟩, fun k ne => ?_, fun f ne => ?_, ?_, ?_⟩
  · rw [bank_modEng _ _ _ l rfl, modBank, bank_setBank _ _ _ lt, bank_bundleWritten m e lt ms]
  · rw [bank_modEng _ _ _ k rfl, modBank, bank_setBank_other _ _ _ _ ne, bundleWritten, bank_modEng _ _ _ k rfl, bank_setBank_other _ _ _ _ ne]
  · rw [eng_modEng_other _ _ _ ne, modBank, eng_setBank_other _ _ _ _ ne, bundleWritten, eng_modEng_other _ _ _ ne, eng_setBank_other _ _ _ _ ne]
  · simp only [modEng_mem, modBank, setBank_mem, bundleWritten]
  · simp only [modEng_l2, modBank, setBank_l2, bundleWritten]

end

/-! ## The attempt of a bundle of register moves -/

section
variable {m m1 : Mach} {e l w : Nat} {bu : Bundle}

/-- The moves of a bundle that execute under a bank's guards. -/
def executing (b : Bank) (bu : Bundle) : List Move := bu.moves.filter (fun p => guardHolds (bkGuards b) p.guard)

theorem executing_regMoves (reg : ∀ p ∈ bu.moves, regMove p = true) (b : Bank) : RegMoves ((executing b bu).map (withValue b)) := fun p hp => by
  obtain ⟨q, hq, rfl⟩ := List.mem_map.1 hp
  exact reg q (List.mem_of_mem_filter hq)

/-- The attempts of a bundle of register moves: one that passes issues, and where all fail a check the engine is at fault. -/
theorem attempt_regMoves (fetched : fetchBundle (freshFails m e l) e l = (.word w, m1)) (decoded : decodeBundle w = .ok bu) (once : bit w 127 = false)
    (reg : ∀ p ∈ bu.moves, regMove p = true) (sound : (bank m e l).fault = none)
    (legal : decodeExc (bank m e l) l (bu.moves.map (withValue (bank m e l))) = none) (apart : ((executing (bank m e l) bu).map (fun p => p.dest)).Nodup) :
    ∃ m2, FetchKeeps e m m2 ∧ attempt m e l 0 = applyBundle m2 e l false ((executing (bank m e l) bu).map (withValue (bank m e l))) 0 ∧
      attempt m e l 3 = persistent m2 e := by
  have untimed : bu.moves.any (fun p => p.src == .sock 0x044 || p.dest == 0x202 || p.dest == 0x203) = false :=
    List.any_eq_false.2 fun p hp => by
      simp [src_ne (reg p hp) (show 0x20 ≤ 0x44 by decide), dest_ne (reg p hp) (show 0x20 ≤ 0x202 by decide),
        dest_ne (reg p hp) (show 0x20 ≤ 0x203 by decide)]
  have uncounted : bu.moves.any (fun p => p.src == .sock 0x045) = false :=
    List.any_eq_false.2 fun p hp => by simp [src_ne (reg p hp) (show 0x20 ≤ 0x45 by decide)]
  have bank_ : bank (freshFails m e l) e l = bank m e l := (freshFails_keeps m e l).bank l
  have run : (bu.moves.map (withValue (bank m e l))).filter (fun p => guardHolds (bkGuards (bank m e l)) p.1.guard) =
      (executing (bank m e l) bu).map (withValue (bank m e l)) := List.filter_map
  have regs := executing_regMoves reg (bank m e l)
  have apart' : (((executing (bank m e l) bu).map (withValue (bank m e l))).map (fun p => p.1.dest)).Nodup := by rwa [List.map_map]
  refine ⟨modEng m1 e (fun x => { x with cycles := (eng m1 e).cycles + 0 }), (fetched_keeps fetched).trans (modEng_fetchKeeps m1 rfl rfl), ?_, ?_⟩
  all_goals
    unfold attempt
    simp [fetched, decoded, bank_, once, untimed, uncounted, carried_regMoves _ _ _ _ _ _ reg, legal, run, stallOf_regMoves regs,
      issueExc_regMoves regs _ _ _ _ sound apart']

end

/-! ## An engine at fault -/

/-- An engine that issues no more: its state and the fault found, with its banks and memory as they were. -/
theorem persistent_leaves (m : Mach) (e : Nat) : ustate (persistent m e) 0x02 e = .draining ∧ .engine e ∈ (persistent m e).mode.found ∧
    (∀ k, bank (persistent m e) e k = bank m e k) ∧ (persistent m e).mem = m.mem := by
  have noted (x : Mach) (f : FaultEv) : f ∈ (noteFault x f).mode.found := by
    unfold noteFault modMode
    dsimp only
    split
    · next listed => exact List.contains_iff_mem.1 listed
    · exact List.mem_append_right _ List.mem_cons_self
  refine ⟨?_, noted _ _, fun _ => rfl, rfl⟩
  have draining : ustate (setUState m 0x02 e .draining) 0x02 e = .draining := by rw [ustate_setUState]; simp
  exact draining

/-! ## BUNDLE_ISSUE -/

section
variable {s : State} {e : EngineId} {l : LevelId} {m1 : Mach} (run : unitsRun s.m = true) (issues : Issues s.m e.val l.val)
include run issues

theorem bundleIssue_waits (waits : fetchBundle (freshFails s.m e.val l.val) e.val l.val = (.wait, m1)) :
    Completes (.bundleIssue e none none) s (fun m => bank m e.val l.val = bank s.m e.val l.val ∧ m.mem = s.m.mem) := by
  refine bundleIssue_completes run issues ?_
  have keeps := fetched_keeps waits
  rw [attempt_of_wait _ waits, bank_lossCheck, lossCheck_mem]
  exact ⟨keeps.bank l.val, keeps.mem⟩

theorem bundleIssue_illegal {w n : Nat} (fetched : fetchBundle (freshFails s.m e.val l.val) e.val l.val = (.word w, m1))
    (wrong : decodeBundle w = .error n) (low : l.val ≠ 3) (vector : (eng s.m e.val).vec.getLsbD 0 = true) :
    Completes (.bundleIssue e none none) s (fun m => (bank m e.val l.val).st = .exception ∧ (bank m e.val 3).st = .ready ∧
      bkPc (bank m e.val 3) = bits (eng s.m e.val).vec.toNat 47 4 * 16 ∧ (eng m e.val).excLevel = some l.val ∧
      (eng m e.val).excPc = BitVec.ofNat 64 (bkPc (bank s.m e.val l.val)) ∧ bits (eng m e.val).cause.toNat 7 0 = 3 ∧ m.mem = s.m.mem) := by
  refine bundleIssue_completes run issues ?_
  have keeps := fetched_keeps fetched
  have taken := deliver_taken (m := m1) (e := e.val) { cause := 3, slot := n, sock := 0x3FF, det := 0, addr := 0 } (bit w 127) l.isLt low
    (by rwa [keeps.vec])
  rw [attempt_of_error _ fetched wrong]
  simp only [bank_lossCheck, eng_lossCheck, lossCheck_mem]
  rwa [keeps.vec, keeps.bank, keeps.mem] at taken

variable {w : Nat} {bu : Bundle} (fetched : fetchBundle (freshFails s.m e.val l.val) e.val l.val = (.word w, m1)) (decoded : decodeBundle w = .ok bu)
  (once : bit w 127 = false) (reg : ∀ p ∈ bu.moves, regMove p = true) (sound : (bank s.m e.val l.val).fault = none)
  (legal : decodeExc (bank s.m e.val l.val) l.val (bu.moves.map (withValue (bank s.m e.val l.val))) = none)
  (apart : ((executing (bank s.m e.val l.val) bu).map (fun p => p.dest)).Nodup)
include fetched decoded once reg sound legal apart

theorem bundleIssue_moves : Completes (.bundleIssue e none none) s (fun m =>
    bkPc (bank m e.val l.val) = (bkPc (bank s.m e.val l.val) + 16) % 2 ^ 48 ∧ m.mem = s.m.mem ∧ m.l2 = s.m.l2 ∧
    (∀ r, r < 32 → gw (bank m e.val l.val) r = match (executing (bank s.m e.val l.val) bu).find? (fun p => p.dest == r) with
      | some p => moveValue (bank s.m e.val l.val) p
      | none => gw (bank s.m e.val l.val) r) ∧
    (∀ k, k < 4 → k ≠ l.val → bank m e.val k = bank s.m e.val k) ∧ (∀ f, f ≠ e.val → eng m f = eng s.m f)) := by
  obtain ⟨m2, keeps, issued, _⟩ := attempt_regMoves fetched decoded once reg sound legal apart
  obtain ⟨_, _, idle, _⟩ := id issues
  obtain ⟨cx, save⟩ := idle l.val l.isLt
  have regs := executing_regMoves reg (bank s.m e.val l.val)
  obtain ⟨⟨rc, here⟩, banks, engs, mem, l2⟩ := applyBundle_leaves regs (m := m2) (e := e.val) l.isLt (by rwa [keeps.bank]) (by rwa [keeps.bank]) 0
  rw [keeps.bank] at here
  refine bundleIssue_completes run issues ?_
  simp only [Option.map_none, Option.getD_none, issued, bank_lossCheck, eng_lossCheck, lossCheck_mem, lossCheck_l2, here]
  refine ⟨?_, mem.trans keeps.mem, l2.trans keeps.l2, fun r _ => ?_, fun k _ ne => (banks k ne).trans (keeps.bank k),
    fun f ne => (engs f ne).trans (keeps.others f ne)⟩
  · rw [bkPc_advance, bkPc, (written_regsOnly regs _).words 0 (by decide)]
    rfl
  · rw [gw_advance, gw_written regs (by rwa [List.map_map]), List.find?_map]
    change (Option.map _ (Option.map _ ((executing (bank s.m e.val l.val) bu).find? (fun p => p.dest == r)))).getD _ = _
    cases (executing (bank s.m e.val l.val) bu).find? (fun p => p.dest == r) <;> rfl

theorem bundleIssue_atFault : Completes (.bundleIssue e (some 3) none) s (fun m => ustate m 0x02 e.val = .draining ∧
    .engine e.val ∈ m.mode.found ∧ bank m e.val l.val = bank s.m e.val l.val ∧ m.mem = s.m.mem) := by
  obtain ⟨m2, keeps, _, fault⟩ := attempt_regMoves fetched decoded once reg sound legal apart
  obtain ⟨state, found, banks, mem⟩ := persistent_leaves m2 e.val
  refine bundleIssue_completes run issues ?_
  simp only [show ((some (3 : Fin 4)).map (fun c => c.val)).getD 0 = 3 from rfl, fault, (lossCheck_stopKeeps _).ustate, lossCheck_found, bank_lossCheck,
    lossCheck_mem]
  exact ⟨state, found, (banks l.val).trans (keeps.bank l.val), mem.trans keeps.mem⟩

end

end Sys2Proof.Machine

namespace Sys2Proof
open Machine

/-- Settles O45: the level that issues attempts its bundle, whose format and whose moves decide between a wait, an exception, the writes and a fault. -/
theorem bundleIssue : Obligations.BundleIssue := by
  intro s e l m1 run issues
  refine ⟨bundleIssue_waits run issues, fun w bu fetched decoded once all sound legal apart _ => ?_,
    fun w n fetched wrong low vector => bundleIssue_illegal run issues fetched wrong low vector⟩
  have reg : ∀ p ∈ bu.moves, regMove p = true := List.all_eq_true.1 all
  rw [carried_regMoves _ _ _ _ _ _ reg] at legal
  exact ⟨bundleIssue_moves run issues fetched decoded once reg sound legal apart,
    bundleIssue_atFault run issues fetched decoded once reg sound legal apart⟩

end Sys2Proof
end
section
/-! Memory operations of an engine that complete (R234 to R242). -/

namespace Sys2Proof.Machine

/-! ## An operation leaves the engine's list, and the fences that waited for it complete (R238) -/

/-- Operations of an engine end and none is added: its banks, the other engines, memory, the L2s and the reservations stay. -/
structure OpsEnd (e : Nat) (m m' : Mach) : Prop where
  keeps : FetchKeeps e m m'
  resv : m'.resv = m.resv
  ops : (eng m' e).memops ⊆ (eng m e).memops

section
variable {m m' m'' : Mach} {e : Nat}

theorem OpsEnd.refl (m : Mach) : OpsEnd e m m := ⟨.refl m, rfl, fun _ => id⟩

theorem OpsEnd.trans (h : OpsEnd e m m') (g : OpsEnd e m' m'') : OpsEnd e m m'' :=
  ⟨h.keeps.trans g.keeps, g.resv.trans h.resv, List.Subset.trans g.ops h.ops⟩

theorem modEng_opsEnd (m : Mach) {f : Eng → Eng} (lv : (f (eng m e)).lv = (eng m e).lv) (vec : (f (eng m e)).vec = (eng m e).vec)
    (ops : (f (eng m e)).memops ⊆ (eng m e).memops) : OpsEnd e m (modEng m e f) :=
  ⟨modEng_fetchKeeps m lv vec, rfl, by rwa [eng_modEng]⟩

end

section
variable (m : Mach) (e : Nat) (o : MemOp)

theorem fencesDone_opsEnd (fuel : Nat) : ∀ m, OpsEnd e m (fencesDone fuel m e) := by
  induction fuel with
  | zero => exact .refl
  | succ fuel ih =>
    intro m
    unfold fencesDone
    dsimp only
    split
    · exact .refl m
    · next fence _ =>
      have left : OpsEnd e m (setEng m e { eng m e with memops := (eng m e).memops.erase fence }) :=
        modEng_opsEnd (f := fun x => { x with memops := x.memops.erase fence }) m rfl rfl List.erase_subset
      refine (left.trans ?_).trans (ih _)
      split
      · exact modEng_opsEnd _ rfl rfl (List.Subset.refl _)
      · exact .refl _

/-- The machine without an operation, before the fences that waited for it complete. -/
def withoutOp : Mach := modEng m e (fun x => { x with memops := x.memops.filter (fun y => y.id != o.id) })

theorem withoutOp_opsEnd : OpsEnd e m (withoutOp m e o) := modEng_opsEnd m rfl rfl ((List.filter_subset_self _))

theorem opDone_eq : opDone m e o = fencesDone (eng (withoutOp m e o) e).memops.length (withoutOp m e o) e := rfl

theorem opDone_opsEnd : OpsEnd e m (opDone m e o) := (withoutOp_opsEnd m e o).trans (fencesDone_opsEnd e _ _)

theorem opOf_opDone : opOf (opDone m e o) e o.id = none := by
  have ended := (fencesDone_opsEnd e (eng (withoutOp m e o) e).memops.length (withoutOp m e o)).ops
  rw [opOf, List.find?_eq_none, opDone_eq]
  intro y listed
  have kept := ended listed
  rw [withoutOp, eng_modEng] at kept
  simpa using (List.mem_filter.1 kept).2

end

/-! ## A read is answered (R172, R175, R236) -/

section
variable (m : Mach) (e : Nat) (o : MemOp) (v : Word) (poison : Bool)

/-- The entry that an answered read fills, in the queue of its unit. -/
def filled (o : MemOp) (v : Word) (poison : Bool) (x : QEnt) : QEnt :=
  if x.op = o.entry && !x.ready then { x with ready := true, lo := v, poison := poison } else x

@[simp] theorem opOf_answerRead : opOf (answerRead m e o v poison) e o.id = none := opOf_opDone _ e o
@[simp] theorem answerRead_mem : (answerRead m e o v poison).mem = m.mem := (opDone_opsEnd _ e o).keeps.mem
@[simp] theorem answerRead_l2 : (answerRead m e o v poison).l2 = m.l2 := (opDone_opsEnd _ e o).keeps.l2
@[simp] theorem answerRead_resv : (answerRead m e o v poison).resv = m.resv := (opDone_opsEnd _ e o).resv

theorem queueOf_answerRead (level : o.lv < 4) : queueOf (bank (answerRead m e o v poison) e o.lv) (lsuQueue o.unit) =
    (queueOf (bank m e o.lv) (lsuQueue o.unit)).map (filled o v poison) := by
  rw [answerRead, (opDone_opsEnd _ e o).keeps.bank, modBank, bank_setBank _ _ _ level, fillEntry, queueOf_setQueue]
  rfl

end

/-! ## The line that a read has, in the L1D and out of the side buffer (R402, R407) -/

section
variable (m : Mach) (e n : Nat)

/-- A read's line enters the L1D and leaves the engine's side buffer; of the rest only the count of accesses moves. -/
theorem lineTaken_eq : ∃ a b t, sideUsed (l1dAdd m e n) e n = { m with l1d := a, eside := b, tick := t } := by
  unfold l1dAdd
  split <;> exact ⟨_, _, _, rfl⟩

theorem eng_lineTaken : eng (sideUsed (l1dAdd m e n) e n) e = eng m e := by
  obtain ⟨_, _, _, rule⟩ := lineTaken_eq m e n
  rw [rule]
  rfl

end

/-- The machine in which a load has its line; an LDX reserves it for its level (R237). -/
def loaded (m : Mach) (e : Nat) (o : MemOp) : Mach :=
  let m := sideUsed (l1dAdd m e (o.pa / 256)) e (o.pa / 256)
  if o.kind = .ldx then { m with resv := tset m.resv (4 * e + o.lv) o.pa } else m

/-- A load that has its line leaves engines, memory and the L2s. -/
theorem loaded_eq (m : Mach) (e : Nat) (o : MemOp) : ∃ a b t r, loaded m e o = { m with l1d := a, eside := b, tick := t, resv := r } := by
  obtain ⟨_, _, _, rule⟩ := lineTaken_eq m e (o.pa / 256)
  unfold loaded
  rw [rule]
  dsimp only
  split <;> exact ⟨_, _, _, _, rfl⟩

/-! ## The check for losses leaves the reservations -/

theorem enterMode_resv (m : Mach) (st : Mode) (c : Nat) : (enterMode m st c).resv = m.resv := (enterMode_logged m st c).resv
theorem modPcie_resv (m : Mach) (p : Nat) (f : PcieSt → PcieSt) : (modPcie m p f).resv = m.resv := rfl

theorem checkStop_resv (m : Mach) (item : Nat) : (checkStop m item).resv = m.resv := by
  unfold checkStop
  split
  · rfl
  · dsimp only
    have recorded (d : Bytes) := ((takeFree_logged m).trans (raiseErr_logged _ 0x0006 0x0F00 d)).resv
    split
    · exact recorded _
    · rw [modMode_resv, enterMode_resv]
      refine (foldl_keeps Mach.resv (fun x p => modPcie_resv x p _) _ _).trans ?_
      refine (foldl_keeps Mach.resv (fun x c => ?_) _ _).trans ?_
      · split <;> rfl
      · exact (takeStamp_logged _ 0x0F00).resv.trans (recorded _)

theorem lossCheck_resv (m : Mach) : (lossCheck m).resv = m.resv := by
  unfold lossCheck
  split
  · exact checkStop_resv m _
  · rfl

theorem opOf_lossCheck (m : Mach) (e id : Nat) : opOf (lossCheck m) e id = opOf m e id := by rw [opOf, eng_lossCheck]; rfl

theorem runMeshLoss_next {i : Instr} {s : State} {f : Mach → Mach} (h : exec i s = runMeshLoss s f) (runs : meshRuns s.m = true) :
    exec i s = .next { s with m := lossCheck (f s.m) } :=
  runMesh_next h runs

theorem completes_runMeshLoss {i : Instr} {s : State} {f : Mach → Mach} {P : Mach → Prop} (h : exec i s = runMeshLoss s f)
    (runs : meshRuns s.m = true) (q : P (lossCheck (f s.m))) : Completes i s P :=
  completes_runMesh h runs q

/-! ## The operations -/

/-- An operation of main memory stands in an engine's list and may complete (R236). -/
structure MayComplete (m : Mach) (e op : Nat) (o : MemOp) : Prop where
  listed : opOf m e op = some o
  memory : isControl o.pa = false
  free : opFree (eng m e) o = true
  level : o.lv < 4
  number : o.id = op

section
variable {m m1 : Mach} {e op : Nat} {o : MemOp} {d : Line} {p : Bool} (may : MayComplete m e op o)
include may

theorem loadComplete_line (load : isLoad o.kind = true) (line : fetchLine m e o.lease (o.pa / 256) op = (some (d, p), m1)) :
    loadComplete m e op = answerRead (loaded m1 e o) e o
      (loadValue (overlay (eng m1 e) o (o.pa / 256) d) o.pa o.size (loadSigned o.kind)) p := by
  obtain ⟨_, _, _, _, rule⟩ := loaded_eq m1 e o
  have engine : eng (loaded m1 e o) e = eng m1 e := by rw [rule]; rfl
  rw [← engine]
  simp [loadComplete, may.listed, load, may.memory, loadDone, may.free, may.number, line, loaded]

theorem storeComplete_put (store : o.kind = .store) (line : ownLine m e o = (some (d, p), m1)) :
    storeComplete m e op =
      opDone (putLine (if memLines m ≤ o.pa / 256 ∨ l2Off m (benchOf e) (o.pa / 256) = true then m else m1) e o (le o.size o.data.toNat)) e o := by
  by_cases away : memLines m ≤ o.pa / 256 ∨ l2Off m (benchOf e) (o.pa / 256) = true <;>
    simp [storeComplete, may.listed, store, may.memory, storeDone, may.free, line, away]

theorem atomicComplete_atomicDone (atomic : isAtomic o.kind = true) : atomicComplete m e op = atomicDone m e o := by
  simp [atomicComplete, may.listed, atomic, may.memory]

theorem atomicDone_failed (stx : o.kind = .stx) (line : ownLine m e o = (some (d, p), m1))
    (lost : tfind m1.resv (4 * e + o.lv) ≠ some o.pa) :
    atomicDone m e o = answerRead { m1 with resv := tdel m1.resv (4 * e + o.lv) } e o 0 false := by
  simp [atomicDone, may.free, line, stx, lost]

theorem atomicDone_stored (stx : o.kind = .stx) (line : ownLine m e o = (some (d, p), m1))
    (held : tfind m1.resv (4 * e + o.lv) = some o.pa) :
    atomicDone m e o = answerRead { putLine m1 e o (le 8 o.data.toNat) with
      resv := tdel (putLine m1 e o (le 8 o.data.toNat)).resv (4 * e + o.lv) } e o 1 false := by
  simp [atomicDone, may.free, line, stx, held]

theorem atomicDone_swapped {v : Word} (other : o.kind ≠ .stx) (line : ownLine m e o = (some (d, p), m1))
    (new : atomicNew o.kind (loadValue d o.pa 8 false) o.data o.exp = some v) :
    atomicDone m e o = answerRead (putLine m1 e o (le 8 v.toNat)) e o (loadValue d o.pa 8 false) p := by
  simp [atomicDone, may.free, line, other, new]

theorem macFetchComplete_line (fetch : isMacFetch o.kind = true) (line : fetchLine m e o.lease (o.pa / 256) op = (some (d, p), m1)) :
    macFetchComplete m e op = macFetchDone (sideUsed (l1dAdd m1 e (o.pa / 256)) e (o.pa / 256)) e o
      (loadValue (overlay (eng m1 e) o (o.pa / 256) d) o.pa o.size false) p := by
  rw [← eng_lineTaken m1 e (o.pa / 256)]
  simp [macFetchComplete, may.listed, fetch, may.memory, macLineDone, may.free, may.number, line]

end

/-! ## The commands -/

section
variable {s : State} {e : EngineId} {op : Nat} {o : MemOp} {d : Line} {p : Bool} {m1 : Mach}
variable (runs : meshRuns s.m = true) (may : MayComplete s.m e.val op o)
include runs may

theorem loadComplete_answers (load : isLoad o.kind = true) (line : fetchLine s.m e.val o.lease (o.pa / 256) op = (some (d, p), m1)) :
    Completes (.loadComplete e op) s (fun m => opOf m e.val op = none ∧ m.mem = m1.mem ∧ m.l2 = m1.l2 ∧
      queueOf (bank m e.val o.lv) (lsuQueue o.unit) = (queueOf (bank m1 e.val o.lv) (lsuQueue o.unit)).map
        (filled o (loadValue (overlay (eng m1 e.val) o (o.pa / 256) d) o.pa o.size (loadSigned o.kind)) p)) := by
  refine completes_runMesh (exec_loadComplete s e op) runs ?_
  obtain ⟨_, _, _, _, rule⟩ := loaded_eq m1 e.val o
  rw [loadComplete_line may load line, answerRead_mem, answerRead_l2, queueOf_answerRead _ _ _ _ _ may.level, rule]
  exact ⟨may.number ▸ opOf_answerRead .., rfl, rfl, rfl⟩

theorem atomicComplete_next (atomic : isAtomic o.kind = true) :
    exec (.atomicComplete e op) s = .next { s with m := lossCheck (atomicDone s.m e.val o) } := by
  rw [runMeshLoss_next (exec_atomicComplete s e op) runs, atomicComplete_atomicDone may atomic]

theorem atomicComplete_failed (stx : o.kind = .stx) (line : ownLine s.m e.val o = (some (d, p), m1))
    (lost : tfind m1.resv (4 * e.val + o.lv) ≠ some o.pa) :
    Completes (.atomicComplete e op) s (fun m => opOf m e.val op = none ∧ m.mem = m1.mem ∧ m.l2 = m1.l2 ∧
      tfind m.resv (4 * e.val + o.lv) = none ∧
      queueOf (bank m e.val o.lv) (lsuQueue o.unit) = (queueOf (bank m1 e.val o.lv) (lsuQueue o.unit)).map (filled o 0 false)) := by
  refine completes_runMeshLoss (exec_atomicComplete s e op) runs ?_
  rw [atomicComplete_atomicDone may (by rw [stx]; rfl), atomicDone_failed may stx line lost, opOf_lossCheck, lossCheck_mem, lossCheck_l2,
    lossCheck_resv, bank_lossCheck, queueOf_answerRead _ _ _ _ _ may.level, answerRead_mem, answerRead_l2, answerRead_resv]
  exact ⟨may.number ▸ opOf_answerRead .., rfl, rfl, tfind_tdel_self _ _, rfl⟩

end

/-- Settles O47: each operation by what it does with the line that it has, and what is left of it after its answer. -/
theorem memoryOperations : Obligations.MemoryOperations := by
  intro s e op o d p m1 runs listed memory free level number
  have may : MayComplete s.m e.val op o := ⟨listed, memory, free, level, number⟩
  refine ⟨loadComplete_answers runs may, fun store line => ?store, fun stx line => ⟨atomicComplete_failed runs may stx line, fun held => ?stored⟩,
    fun v atomic other line new => ?swapped, fun fetch line => ?fetched⟩
  case store => rw [runMeshLoss_next (exec_storeComplete s e op) runs, storeComplete_put may store line]
  case stored => rw [atomicComplete_next runs may (by rw [stx]; rfl), atomicDone_stored may stx line held]
  case swapped => rw [atomicComplete_next runs may atomic, atomicDone_swapped may other line new]
  case fetched => rw [runMesh_next (exec_macFetchComplete s e op) runs, macFetchComplete_line may fetch line]

end Sys2Proof.Machine
end
section
/-! Fields of a word that is cut and of one that is replaced, and the words of a bank's transport record. -/

namespace Sys2Proof.Machine

/-! ## Fields of a word -/

section
variable (v hi lo x : Nat)

theorem bits_testBit (i : Nat) : (bits v hi lo).testBit i = (decide (i < hi + 1 - lo) && v.testBit (lo + i)) := by
  rw [bits, Nat.testBit_mod_two_pow, Nat.testBit_div_two_pow, Nat.add_comm lo]

/-- A field of a field. -/
theorem bits_bits {h l : Nat} (inside : lo + h ≤ hi) : bits (bits v hi lo) h l = bits v (lo + h) (lo + l) := by
  refine Nat.eq_of_testBit_eq fun i => ?_
  rw [bits_testBit, bits_testBit, bits_testBit, Nat.add_assoc, Nat.add_assoc, Nat.add_sub_add_left, ← Bool.and_assoc]
  congr 1
  rw [← Bool.decide_and]
  exact decide_eq_decide.2 (by omega)

variable {hi lo} (order : lo ≤ hi)
include order

/-- A field that is replaced shows its new bits, and the bits outside it are as they were. -/
theorem setBits_testBit (i : Nat) : (setBits v hi lo x).testBit i = if lo ≤ i ∧ i ≤ hi then x.testBit (i - lo) else v.testBit i := by
  have split_ : setBits v hi lo x = 2 ^ lo * (2 ^ (hi + 1 - lo) * (v / 2 ^ (hi + 1)) + x % 2 ^ (hi + 1 - lo)) + v % 2 ^ lo := by
    rw [setBits, Nat.mul_add, ← Nat.mul_assoc, ← Nat.pow_add, Nat.add_sub_cancel' (by omega), Nat.mul_comm (2 ^ (hi + 1)), Nat.mul_comm (2 ^ lo)]
  rw [split_, Nat.testBit_two_pow_mul_add _ (Nat.mod_lt _ (Nat.two_pow_pos _)),
    Nat.testBit_two_pow_mul_add _ (Nat.mod_lt _ (Nat.two_pow_pos _)), Nat.testBit_mod_two_pow, Nat.testBit_mod_two_pow, Nat.testBit_div_two_pow]
  by_cases below : i < lo
  · simp [below, show ¬ lo ≤ i by omega]
  · by_cases above : hi < i
    · rw [if_neg below, if_neg (by omega), if_neg (by omega)]
      congr 1
      omega
    · rw [if_neg below, if_pos (by omega), if_pos (by omega), decide_eq_true (by omega), Bool.true_and]

theorem bits_setBits_self : bits (setBits v hi lo x) hi lo = x % 2 ^ (hi + 1 - lo) := by
  refine Nat.eq_of_testBit_eq fun i => ?_
  rw [bits_testBit, setBits_testBit v x order, Nat.testBit_mod_two_pow]
  by_cases inside : i < hi + 1 - lo
  · rw [if_pos (by omega), Nat.add_sub_cancel_left]
  · simp [inside]

theorem bits_setBits_other {h l : Nat} (apart : h < lo ∨ hi < l) : bits (setBits v hi lo x) h l = bits v h l := by
  refine Nat.eq_of_testBit_eq fun i => ?_
  rw [bits_testBit, bits_testBit, setBits_testBit v x order]
  by_cases inside : i < h + 1 - l
  · rw [if_neg (by omega)]
  · simp [inside]

theorem setBits_lt {w : Nat} (fits : v < 2 ^ w) (top : hi < w) : setBits v hi lo x < 2 ^ w := by
  refine Nat.lt_pow_two_of_testBit _ fun i out => ?_
  rw [setBits_testBit v x order, if_neg (by omega)]
  exact Nat.testBit_lt_two_pow (fits.trans_le (Nat.pow_le_pow_right (by decide) out))

end

/-! ## Words of a bank's transport record -/

section
variable (b : Bank)

theorem tw_setT_other (v : Nat) {i k : Nat} (other : i ≠ k) : tw (b.setT i v) k = tw b k := by
  rw [tw, Bank.setT, vget_vset_ne _ _ _ _ _ other]
  rfl

theorem vget_setT (v : Nat) {i : Nat} (lt : i < 24) : vget (b.setT i v).t i 0 = BitVec.ofNat 64 v := vget_vset_self _ _ _ _ lt

theorem tw_setT4 (v : Nat) {hi lo : Nat} (order : lo ≤ hi) (top : hi < 64) : tw (b.setT4 hi lo v) 4 = setBits (tw b 4) hi lo v := by
  rw [tw, Bank.setT4, vget_setT _ _ (by decide), BitVec.toNat_ofNat,
    Nat.mod_eq_of_lt (setBits_lt (tw b 4) v order (vget b.t 4 0).isLt top)]

/-- The timers' states in word 4 (R252). -/
theorem bits_bkTmr {hi : Nat} (lo : Nat) (le : hi ≤ 3) : bits (bkTmr b) hi lo = bits (tw b 4) (48 + hi) (48 + lo) :=
  bits_bits _ _ _ (by omega)

end

end Sys2Proof.Machine
end
section
/-! Answers to rings, timers and waits (R253, R254, R256 to R259, R317, R318, R326). -/

namespace Sys2Proof.Machine

/-! ## A ring is answered (R256 to R259, R326) -/

section
variable (m : Mach) (e l code : Nat) (txn : Word)

theorem bank_ringDone (lt : l < 4) :
    bank (ringDone m e l code txn) e l = { (((bank m e l).setT4 39 32 code).setT 20 txn.toNat) with ring := none } := by
  rw [ringDone, modBank, bank_setBank _ _ _ lt]

/-- The ring of a level is answered with a code and without a transaction, and memory and the benches are as they were. -/
def RingAnswered (m : Mach) (e l code : Nat) (m' : Mach) : Prop :=
  (bank m' e l).ring = none ∧ bits (tw (bank m' e l) 4) 39 32 = code ∧ vget (bank m' e l).t 20 0 = 0 ∧ m'.mem = m.mem ∧ m'.benches = m.benches

variable {l code} in
theorem ringAnswered_ringDone (lt : l < 4) (short : code < 256) : RingAnswered m e l code (ringDone m e l code 0) := by
  rw [RingAnswered, bank_ringDone _ _ _ _ _ lt]
  refine ⟨rfl, ?_, vget_setT _ _ (by decide), rfl, rfl⟩
  change bits (tw (((bank m e l).setT4 39 32 code).setT 20 (0 : Word).toNat) 4) 39 32 = code
  rw [tw_setT_other _ _ (by decide), tw_setT4 _ _ (by decide) (by decide), bits_setBits_self _ _ (by decide)]
  exact Nat.mod_eq_of_lt short

end

section
variable {m : Mach} {e l c : Nat} {arg a : Word} (rings : (bank m e l).ring = some (c, arg, a)) (idle : (eng m e).memops = [])
include rings idle

/-- A ring that no earlier store holds back: SPAWN, POST and WAKE are answered at once. -/
theorem ringAnswer_spawn (spawn : c % 8 = 3) :
    ringAnswer m e l = ringDone (spawnAnswer m e (bkLease (bank m e l) l) arg.toNat a.toNat).2 e l
      (spawnAnswer m e (bkLease (bank m e l) l) arg.toNat a.toNat).1 0 := by
  unfold ringAnswer
  simp [rings, idle, spawn]

theorem ringAnswer_post (post : c % 8 = 4) :
    ringAnswer m e l = ringDone (postAnswer m (bkLease (bank m e l) l) arg.toNat a).2 e l
      (postAnswer m (bkLease (bank m e l) l) arg.toNat a).1 0 := by
  unfold ringAnswer
  simp [rings, idle, post]

theorem ringAnswer_wake (wake : 5 ≤ c % 8) :
    ringAnswer m e l = ringDone (wakeAnswer m (bkLease (bank m e l) l) a.toNat).2 e l
      (wakeAnswer m (bkLease (bank m e l) l) a.toNat).1 0 := by
  obtain ⟨n, number⟩ : ∃ n, c % 8 = n + 5 := ⟨_, (Nat.sub_add_cancel wake).symm⟩
  unfold ringAnswer
  simp [rings, idle, number]

/-- The ring of a lease that is not Active (R256, R326). -/
theorem ringAnswer_inactive (stopped : (lease m (bkLease (bank m e l) l)).st ≠ .active) (unit : 3 ≤ c % 8) :
    ringAnswer m e l = ringDone m e l 3 0 := by
  obtain spawn | post | wake : c % 8 = 3 ∨ c % 8 = 4 ∨ 5 ≤ c % 8 := by omega
  · rw [ringAnswer_spawn rings idle spawn, spawnAnswer, if_pos stopped]
  · rw [ringAnswer_post rings idle post, postAnswer, if_pos stopped]
  · rw [ringAnswer_wake rings idle wake, wakeAnswer, if_pos stopped]

variable (active : (lease m (bkLease (bank m e l) l)).st = .active)
include active

/-- A SPAWN with a bit of its argument set that must be 0. -/
theorem ringAnswer_spawn_wide (spawn : c % 8 = 3) (wide : 512 ≤ arg.toNat) : ringAnswer m e l = ringDone m e l 5 0 := by
  have reserved : arg.toNat / 512 ≠ 0 := by omega
  rw [ringAnswer_spawn rings idle spawn, spawnAnswer, if_neg (not_not.2 active), if_pos (.inl reserved)]

/-- A POST with such a bit, or with an event number below 16. -/
theorem ringAnswer_post_bad (post : c % 8 = 4) (bad : arg.toNat < 16 ∨ 4096 ≤ arg.toNat) : ringAnswer m e l = ringDone m e l 5 0 := by
  rw [ringAnswer_post rings idle post, postAnswer, if_neg (not_not.2 active), if_pos (by omega)]

theorem ringAnswer_post_raises (post : c % 8 = 4) (least : 16 ≤ arg.toNat) (most : arg.toNat < 4096) :
    ringAnswer m e l = ringDone (raiseEvent m 0x01 (0x1000 + bkLease (bank m e l) l) (bkLease (bank m e l) l) arg.toNat (le 8 a.toNat)) e l 0 0 := by
  rw [ringAnswer_post rings idle post, postAnswer, if_neg (not_not.2 active), if_neg (by omega)]

end

theorem ringAnswer_completes {s : State} {e : EngineId} {l : LevelId} {code : Nat} (runs : meshRuns s.m = true) (short : code < 256)
    (answer : ringAnswer s.m e.val l.val = ringDone s.m e.val l.val code 0) :
    Completes (.ringAnswer e l) s (RingAnswered s.m e.val l.val code) :=
  completes_runMesh (exec_ringAnswer s e l) runs (by rw [answer]; exact ringAnswered_ringDone _ _ l.isLt short)

/-! ## Commands of one engine -/

theorem completes_onEngine {i : Instr} {s : State} {e : Nat} {f : Mach → Mach} {P : Mach → Prop} (h : exec i s = onEngine s e f)
    (run : unitsRun s.m = true) (active : engActive s.m e = true) (q : P (f s.m)) : Completes i s P :=
  completes_runUnits h run (by rwa [if_pos active])

/-! ## A timer's deadline (R253, R254) -/

theorem checkWait_of_not_waiting {m : Mach} {e l : Nat} (other : (bank m e l).st ≠ .waiting) : checkWait m e l = m := if_neg fun both => other both.1

section
variable {m m1 : Mach} {e l t : Nat} {now : Word} (stamp : takeStamp m e = (now, m1)) (lt : l < 4)
  (works : (bank m e l).st = .ready ∨ (bank m e l).st = .exception) (armed : bit (bkTmr (bank m e l)) (2 * t) = true)
  (past : tw (bank m e l) (21 + t) ≤ now.toNat) (ours : (bank m e l).owns1 = false)
include stamp lt works armed past ours

/-- An armed timer of a task at work whose deadline has passed shows expired, and nothing else of the bank changes. -/
theorem timerExpiry_expires : timerExpiry m e l t = setBank m1 e l ((bank m e l).setT4 (49 + 2 * t) (48 + 2 * t) 2) := by
  have here : ((bank m e l).st == .empty) = false ∧ ((bank m e l).st == .saving) = false ∧ (bank m e l).st ≠ .waiting := by
    obtain st | st := works <;> rw [st] <;> decide
  obtain ⟨full, free, still⟩ := here
  have calm : (bank (setBank m1 e l ((bank m e l).setT4 (49 + 2 * t) (48 + 2 * t) 2)) e l).st ≠ .waiting := by
    rw [bank_setBank _ _ _ lt]
    exact still
  unfold timerExpiry
  simp only [stamp]
  rw [if_neg (by simp [full, free, armed, past]), if_neg (by simp [ours]), checkWait_of_not_waiting calm]

end

theorem timerExpiry_completes {s : State} {e : EngineId} {l : LevelId} (run : unitsRun s.m = true) (active : engActive s.m e.val = true) (t : Fin 2)
    {now : Word} {m1 : Mach} (stamp : takeStamp s.m e.val = (now, m1))
    (works : (bank s.m e.val l.val).st = .ready ∨ (bank s.m e.val l.val).st = .exception)
    (armed : bit (bkTmr (bank s.m e.val l.val)) (2 * t.val) = true) (past : tw (bank s.m e.val l.val) (21 + t.val) ≤ now.toNat)
    (ours : (bank s.m e.val l.val).owns1 = false) :
    Completes (.timerExpiry e l t) s (fun m => bits (bkTmr (bank m e.val l.val)) (2 * t.val + 1) (2 * t.val) = 2 ∧
      bits (bkTmr (bank m e.val l.val)) (3 - 2 * t.val) (2 - 2 * t.val) =
        bits (bkTmr (bank s.m e.val l.val)) (3 - 2 * t.val) (2 - 2 * t.val) ∧
      (bank m e.val l.val).st = (bank s.m e.val l.val).st ∧ m.mem = s.m.mem) := by
  have two := t.isLt
  have word (b : Bank) := tw_setT4 b 2 (hi := 49 + 2 * t.val) (lo := 48 + 2 * t.val) (by omega) (by omega)
  refine completes_onEngine (exec_timerExpiry s e l t) run active ?_
  rw [timerExpiry_expires stamp l.isLt works armed past ours, bank_setBank _ _ _ l.isLt]
  refine ⟨?_, ?_, rfl, ?_⟩
  · rw [bits_bkTmr _ _ (by omega), word, show 48 + (2 * t.val + 1) = 49 + 2 * t.val by omega, bits_setBits_self _ _ (by omega),
      show 49 + 2 * t.val + 1 - (48 + 2 * t.val) = 2 by omega]
    rfl
  · rw [bits_bkTmr _ _ (by omega), bits_bkTmr _ _ (by omega), word, bits_setBits_other _ _ (by omega) (by omega)]
  · have logged := takeStamp_logged s.m e.val
    rw [stamp] at logged
    exact logged.mem

/-! ## The grace of a wait ends (R317, R318) -/

/-- A Waiting bank stands at a scheduling point of its bench for its engine (R317). -/
def standsAt (m : Mach) (b e : Nat) (k : Bank) (l : Nat) : Bool :=
  k.st == .waiting && k.graceAt.isNone && k.point.isNone && !bkEnd k && settled m e l && eligibleHere m e l &&
    decide ((bench m b).waiting.length < 256)

/-- Changes of a vector's places below `k`, each of its own place. -/
theorem vget_foldl_vset {α : Type} {n : Nat} (p : Nat → α → Bool) (f : α → α) (d : α) (v0 : Vector α n) {i : Nat} (lt : i < n) (k : Nat) :
    vget ((List.range k).foldl (fun v j => if p j (vget v0 j d) then vset v j (f (vget v j d)) else v) v0) i d =
      if i < k ∧ p i (vget v0 i d) = true then f (vget v0 i d) else vget v0 i d := by
  induction k with
  | zero => simp
  | succ k ih =>
    rw [List.range_succ, List.foldl_append, List.foldl_cons, List.foldl_nil]
    generalize List.foldl _ v0 (List.range k) = v at ih ⊢
    by_cases here : k = i
    · subst here
      rw [if_neg (by omega)] at ih
      by_cases holds : p k (vget v0 k d) = true
      · rw [if_pos holds, vget_vset_self _ _ _ _ lt, ih, if_pos ⟨by omega, holds⟩]
      · rw [if_neg holds, ih, if_neg (fun both => holds both.2)]
    · have same : vget (if p k (vget v0 k d) = true then vset v k (f (vget v k d)) else v) i d = vget v i d := by
        split
        · exact vget_vset_ne _ _ _ _ _ here
        · rfl
      rw [same, ih]
      exact if_congr (and_congr_left fun _ => by omega) rfl rfl

/-- A bank of levels 0 to 2 that stands at a scheduling point is marked with the time, and every other one is as it was. -/
theorem vget_pointsFor (m : Mach) (b e : Nat) (x : Eng) {l : Nat} (lt : l < 4) :
    vget (pointsFor m b e x).lv l Bank.reset =
      if l < 3 ∧ standsAt m b e (vget x.lv l Bank.reset) l = true then { vget x.lv l Bank.reset with point := some m.now }
      else vget x.lv l Bank.reset :=
  vget_foldl_vset (fun j k => standsAt m b e k j) (fun k => { k with point := some m.now }) Bank.reset x.lv lt 3

/-- A bank whose grace is over. -/
def graceOver (m : Mach) (e l : Nat) : Mach := setBank m e l { bank m e l with graceAt := none }

/-- WAIT_GRACE_EXPIRY of a bank whose grace is over: a scheduling point, at which a parked engine stays parked. -/
def graceEnds (m : Mach) (e l : Nat) : Mach :=
  setEng (graceOver m e l) e { pointsFor (graceOver m e l) (benchOf e) e (eng (graceOver m e l) e) with parkedTill := (eng (graceOver m e l) e).parkedTill }

section
variable (m : Mach) {e l : Nat}

theorem bank_graceOver (lt : l < 4) : bank (graceOver m e l) e l = { bank m e l with graceAt := none } := bank_setBank _ _ _ lt

/-- Whether a level is settled does not hang on its grace. -/
theorem settled_graceOver (lt : l < 4) : settled (graceOver m e l) e l = settled m e l := by
  unfold settled
  rw [bank_graceOver m lt, graceOver, eng_setBank]

theorem bank_graceEnds (lt : l < 4) :
    bank (graceEnds m e l) e l =
      if l < 3 ∧ standsAt (graceOver m e l) (benchOf e) e { bank m e l with graceAt := none } l = true then
        { bank m e l with graceAt := none, point := some m.now }
      else { bank m e l with graceAt := none } := by
  have engine : eng (graceEnds m e l) e = { pointsFor (graceOver m e l) (benchOf e) e (eng (graceOver m e l) e) with
      parkedTill := (eng (graceOver m e l) e).parkedTill } := tget_tset_self ..
  have over_ : vget (eng (graceOver m e l) e).lv l Bank.reset = { bank m e l with graceAt := none } := bank_graceOver m lt
  rw [bank, engine]
  refine (vget_pointsFor (graceOver m e l) (benchOf e) e _ lt).trans ?_
  rw [over_]
  rfl

theorem standsAt_graceOver (lt : l < 4) :
    standsAt (graceOver m e l) (benchOf e) e { bank m e l with graceAt := none } l =
      ((bank m e l).st == .waiting && (bank m e l).point.isNone && !bkEnd (bank m e l) && settled m e l && eligibleHere m e l &&
        decide ((bench m (benchOf e)).waiting.length < 256)) := by
  have eligible : eligibleHere (graceOver m e l) e l = eligibleHere m e l := rfl
  have places : bench (graceOver m e l) (benchOf e) = bench m (benchOf e) := rfl
  have ended : bkEnd { bank m e l with graceAt := none } = bkEnd (bank m e l) := rfl
  rw [standsAt, settled_graceOver m lt, eligible, places, ended]
  simp

end

section
variable {s : State} {e : EngineId} {l : LevelId} (run : unitsRun s.m = true) (active : engActive s.m e.val = true) {t : Nat}
  (waits : (bank s.m e.val l.val).st = .waiting) (grace : (bank s.m e.val l.val).graceAt = some t) (late : t ≤ s.m.now)
include run active waits grace late

theorem waitGraceExpiry_completes {P : Mach → Prop} (q : P (graceEnds s.m e.val l.val)) : Completes (.waitGraceExpiry e l) s P := by
  refine completes_onEngine (exec_waitGraceExpiry s e l) run active ?_
  dsimp only
  split
  · next _ since =>
    rw [grace, Option.some.injEq] at since
    subst since
    rw [if_neg (by omega)]
    exact q
  · next no => exact (no t waits grace).elim

theorem waitGraceExpiry_alone (none_ : eligibleHere s.m e.val l.val = false) : Completes (.waitGraceExpiry e l) s (fun m =>
    bank m e.val l.val = { bank s.m e.val l.val with graceAt := none } ∧ m.mem = s.m.mem) := by
  refine waitGraceExpiry_completes run active waits grace late ⟨?_, rfl⟩
  rw [bank_graceEnds _ l.isLt, standsAt_graceOver _ l.isLt, if_neg (by simp [none_])]

theorem waitGraceExpiry_point (low : l.val < 3) (waiting : eligibleHere s.m e.val l.val = true) (point : (bank s.m e.val l.val).point = none)
    (open_ : bkEnd (bank s.m e.val l.val) = false) (settled_ : settled s.m e.val l.val = true)
    (place : (bench s.m (benchOf e.val)).waiting.length < 256) : Completes (.waitGraceExpiry e l) s (fun m =>
    bank m e.val l.val = { bank s.m e.val l.val with graceAt := none, point := some s.m.now } ∧ m.mem = s.m.mem) := by
  refine waitGraceExpiry_completes run active waits grace late ⟨?_, rfl⟩
  rw [bank_graceEnds _ l.isLt, standsAt_graceOver _ l.isLt, if_pos ⟨low, by simp [waits, waiting, point, open_, settled_, place]⟩]

end

/-- Settles O49: a ring by its code and its argument, a timer by its field of word 4, the end of a grace by whether the bank stands at a point. -/
theorem ringsAndTimers : Obligations.RingsAndTimers := by
  refine ⟨fun s e l c arg a runs rings idle => ⟨fun stopped unit => ?inactive, fun active spawn wide => ?spawn, fun active post bad => ?post,
    fun active post least most => ?raises⟩,
    fun s e l run active => ⟨fun t _ _ stamp => timerExpiry_completes run active t stamp, fun t waits grace late =>
      ⟨waitGraceExpiry_alone run active waits grace late, waitGraceExpiry_point run active waits grace late⟩⟩⟩
  case inactive => exact ringAnswer_completes runs (by decide) (ringAnswer_inactive rings idle stopped unit)
  case spawn => exact ringAnswer_completes runs (by decide) (ringAnswer_spawn_wide rings idle active spawn wide)
  case post => exact ringAnswer_completes runs (by decide) (ringAnswer_post_bad rings idle active post bad)
  case raises => rw [runMesh_next (exec_ringAnswer s e l) runs, ringAnswer_post_raises rings idle active post least most]

end Sys2Proof.Machine
end
section
/-! The queues and wait tables of benches, their stocks and the leases' pools (R305, R306, R325, R351, R780, R866). -/

namespace Sys2Proof.Machine

/-! ## Benches: what a change of one leaves, and how a queue grows (R323) -/

section
variable (m : Mach) (b : Nat)

@[simp] theorem bench_modBench (f : Bench → Bench) : bench (modBench m b f) b = f (bench m b) := tget_tset_self ..
@[simp] theorem modBench_mem (f : Bench → Bench) : (modBench m b f).mem = m.mem := rfl
@[simp] theorem modBench_evt (f : Bench → Bench) : (modBench m b f).evt = m.evt := rfl

theorem bench_queueGrew (k : Nat) : bench (queueGrew m k) b = bench m b := rfl
@[simp] theorem bench_modEvt (f : EvtSt → EvtSt) : bench (modEvt m f) b = bench m b := rfl

variable (l : List QTask)

/-- Entries that enter a queue change benches and engines alone. -/
theorem enqueueAll_eq : ∃ x y, enqueueAll m b l = { m with benches := x, engs := y } := by
  unfold enqueueAll
  split <;> exact ⟨_, _, rfl⟩

@[simp] theorem enqueueAll_mem : (enqueueAll m b l).mem = m.mem := by
  obtain ⟨_, _, rule⟩ := enqueueAll_eq m b l
  rw [rule]

@[simp] theorem enqueueAll_evt : (enqueueAll m b l).evt = m.evt := by
  obtain ⟨_, _, rule⟩ := enqueueAll_eq m b l
  rw [rule]

/-- Entries enter their queue in order, as its newest. -/
@[simp] theorem bench_enqueueAll : bench (enqueueAll m b l) b = { bench m b with queue := (bench m b).queue ++ l } := by
  unfold enqueueAll
  split
  · next none_ => simp [List.isEmpty_iff.1 none_]
  · rw [bench_queueGrew, bench_modBench]

end

/-! ## The wait table (R325, R866) -/

/-- The entries of a bench's wait table that go to its queue: those whose wait is over or that a request bars, while it has places. -/
def waitsOver (m : Mach) (b now : Nat) : List QTask :=
  ((bench m b).waiting.filter (fun q => taskReady q now || benchDraining m b || !inMask m q.lease b)).take (512 - (bench m b).queue.length)

section
variable (m : Mach) (b now : Nat)

theorem drainWaits_eq : drainWaits m b now =
    enqueueAll (modBench m b (fun x => { x with waiting := x.waiting.diff (waitsOver m b now) })) b (waitsOver m b now) := rfl

@[simp] theorem drainWaits_mem : (drainWaits m b now).mem = m.mem := by rw [drainWaits_eq, enqueueAll_mem, modBench_mem]
@[simp] theorem drainWaits_evt : (drainWaits m b now).evt = m.evt := by rw [drainWaits_eq, enqueueAll_evt, modBench_evt]

theorem bench_drainWaits : bench (drainWaits m b now) b = { bench m b with
    waiting := (bench m b).waiting.diff (waitsOver m b now), queue := (bench m b).queue ++ waitsOver m b now } := by
  rw [drainWaits_eq, bench_enqueueAll, bench_modBench]

variable {m b}

theorem bench_drainWaits_of_none (none_ : (bench m b).waiting = []) : bench (drainWaits m b now) b = bench m b := by
  have over_ : waitsOver m b now = [] := by simp [waitsOver, none_]
  rw [bench_drainWaits, over_, List.append_nil, List.diff_nil]

end

theorem waitsOver_one {m : Mach} {b now : Nat} {q : QTask} (only : (bench m b).waiting = [q]) (ready : taskReady q now = true)
    (place : (bench m b).queue.length < 512) : waitsOver m b now = [q] := by
  obtain ⟨k, places⟩ : ∃ k, 512 - (bench m b).queue.length = k + 1 := ⟨_, (Nat.sub_add_cancel (by omega)).symm⟩
  simp [waitsOver, only, ready, places]

theorem waitTableTimer_moves {s : State} {b : BenchId} {q : QTask} {now : Word} {m1 : Mach} (run : unitsRun s.m = true)
    (only : (bench s.m b.val).waiting = [q]) (stamp : takeStamp s.m (0x0500 + b.val) = (now, m1)) (ready : taskReady q now.toNat = true)
    (place : (bench s.m b.val).queue.length < 512) : Completes (.waitTableTimer b) s (fun m =>
    (bench m b.val).waiting = [] ∧ (bench m b.val).queue = (bench s.m b.val).queue ++ [q] ∧ m.mem = s.m.mem) := by
  have logged := takeStamp_logged s.m (0x0500 + b.val)
  rw [stamp] at logged
  have same : bench m1 b.val = bench s.m b.val := by rw [bench, logged.benches]; rfl
  refine completes_runUnits (exec_waitTableTimer s b) run ?_
  simp only [stamp]
  rw [bench_drainWaits, waitsOver_one (by rw [same, only]) ready (by rwa [same]), same, only, drainWaits_mem]
  exact ⟨by simp, rfl, logged.mem⟩

/-! ## Entries that wait in the event block (R780) -/

/-- The fresh entry of a vector's task that has waited for a place. -/
def placedEntry (w : WaitEntry) : QTask := freshTask w.lease w.level w.task w.pc w.dsBase w.dsLimit w.arg (some w.vector)

/-- The one entry that waits in the event block takes a place in its bench's queue. -/
theorem fillQueue_one {m : Mach} {b : Nat} {w : WaitEntry} (none_ : (bench m b).waiting = []) (only : m.evt.waiting = [w]) (here : w.bench = b)
    (place : (bench m b).queue.length < 512) : fillQueue m b =
      enqueue (modEvt (drainWaits m b (timeNow m).toNat) (fun x => { x with waiting := x.waiting.diff [w] })) b (placedEntry w) := by
  obtain ⟨k, places⟩ : ∃ k, 512 - (bench m b).queue.length = k + 1 := ⟨_, (Nat.sub_add_cancel (by omega)).symm⟩
  simp [fillQueue, bench_drainWaits_of_none _ none_, only, here, places, placedEntry]

theorem queuePlaceFreed_places {s : State} {b : BenchId} {w : WaitEntry} (run : unitsRun s.m = true) (none_ : (bench s.m b.val).waiting = [])
    (only : s.m.evt.waiting = [w]) (here : w.bench = b.val) (place : (bench s.m b.val).queue.length < 512) :
    Completes (.queuePlaceFreed b) s (fun m => m.evt.waiting = [] ∧ (bench m b.val).queue = (bench s.m b.val).queue ++ [placedEntry w] ∧
      m.mem = s.m.mem) := by
  refine completes_runUnits (exec_queuePlaceFreed s b) run ?_
  rw [fillQueue_one none_ only here place, enqueue, enqueueAll_evt, enqueueAll_mem, bench_enqueueAll, bench_modEvt, bench_drainWaits_of_none _ none_]
  refine ⟨?_, rfl, drainWaits_mem ..⟩
  change (drainWaits s.m b.val _).evt.waiting.diff [w] = []
  rw [drainWaits_evt, only]
  simp

/-! ## Stocks and pools (R305, R306, R351) -/

/-- The stock that a bench holds for a lease that it serves is replaced. -/
theorem stockOf_setStock {x : Bench} {l : Nat} {old : List Nat} (held : tfind x.stock l = some old) (s : List Nat) :
    stockOf (setStock x l s) l = s := by
  have listed : ∀ t : Tbl (List Nat), tfind t l = some old → tfind (t.map (fun p => if p.1 = l then (l, s) else p)) l = some s := by
    intro t
    induction t with
    | nil => intro none_; cases none_
    | cons p r ih =>
      intro found
      by_cases first : p.1 = l
      · simp [tfind, first]
      · simp only [tfind, first, if_false] at found
        simp [tfind, first, ih found]
  rw [stockOf, tget, setStock, listed _ held]
  rfl

theorem stockRefill_eq {m : Mach} {b l : Nat} {st : List Nat} (held : tfind (bench m b).stock l = some st) :
    stockRefill m b l = modBench (modLease m l (fun y => { y with pool := y.pool.drop (min (4 - st.length) y.pool.length) })) b
      (fun x => setStock x l (st ++ (lease m l).pool.take (4 - st.length))) := by
  have stock : stockOf (bench m b) l = st := by rw [stockOf, tget, held]; rfl
  simp [stockRefill, held, stock, modLease]

theorem stockRefill_fills {s : State} {b : BenchId} {l : LeaseId} {st : List Nat} (run : unitsRun s.m = true)
    (held : tfind (bench s.m b.val).stock l.val = some st) : Completes (.stockRefill b l) s (fun m =>
    stockOf (bench m b.val) l.val = st ++ (lease s.m l.val).pool.take (4 - st.length) ∧
    (lease m l.val).pool = (lease s.m l.val).pool.drop (min (4 - st.length) (lease s.m l.val).pool.length) ∧ m.mem = s.m.mem) := by
  refine completes_runUnits (exec_stockRefill s b l) run ?_
  rw [stockRefill_eq held, bench_modBench]
  exact ⟨stockOf_setStock held _, congrArg Lease.pool (tget_tset_self ..), rfl⟩

/-- A register whose own rule may refuse the write: the write of one who may make it. -/
theorem ctlWriteRule_of_writable {m : Mach} {a : Actor} {kind index : Nat} (may : Writable m a kind index) (off : Nat) (f : Mach → Option Mach) :
    ctlWriteRule a kind index off f m = (f m).getD (refuseAccess m a (regAddr kind index off) 5) := by
  obtain ⟨alive_, role, writer⟩ := may
  simp [ctlWriteRule, ctlWrite, alive_, role, writer]

/-- What a lease holds of a sett that the manager has added. -/
def settAdded (v : Word) (x : Lease) : Lease := { x with pool := x.pool ++ [v.toNat], settIssued := (x.settIssued + 1) % 2 ^ 32 }

theorem settAdd_joins {m m1 : Mach} {l : Nat} {v : Word} (added : settAdd m l v = some m1) : ∃ m0, m1 = modLease m0 l (settAdded v) := by
  unfold settAdd at added
  dsimp only at added
  split at added
  · cases added
  · split at added
    · cases added
    · split at added
      · cases added
      · exact ⟨_, (Option.some.inj added).symm⟩

theorem leaseSettAdd_next {s : State} {a : Actor} {l : LeaseId} (may : Writable s.m a 0x0C l.val) (v : Word) :
    exec (.leaseSettAdd a l v) s =
      .next { s with m := (settAdd s.m l.val v).getD (refuseAccess s.m a (regAddr 0x0C l.val 0x0400) 5) } := by
  rw [exec_leaseSettAdd, execLeaseSettAdd, runM, ctlWriteRule_of_writable may]

end Sys2Proof.Machine
end
section
/-! MICROCODE_LOAD of a unit that starts (R375, R376), and what the check for losses leaves of the control stores. -/

namespace Sys2Proof.Machine

/-! ## What Check-stop cannot change -/

/-- A view of the machine that logs, the mode, the PCIe ports and the memory channels do not show in. -/
structure StopBlind {α : Type} (view : Mach → α) : Prop where
  logged : ∀ {m m'}, Logged m m' → view m' = view m
  mode : ∀ m f, view (modMode m f) = view m
  port : ∀ m p f, view (modPcie m p f) = view m
  channel : ∀ m c x, view (setChan m c x) = view m

section
variable {α : Type} {view : Mach → α} (blind : StopBlind view) (m : Mach)
include blind

theorem checkStop_blind (item : Nat) : view (checkStop m item) = view m := by
  unfold checkStop
  split
  · rfl
  · dsimp only
    have recorded (d : Bytes) := blind.logged ((takeFree_logged m).trans (raiseErr_logged _ 0x0006 0x0F00 d))
    split
    · exact recorded _
    · refine (blind.mode _ _).trans ?_
      refine (blind.logged (enterMode_logged _ _ _)).trans ((blind.mode _ _).trans ?_)
      refine (foldl_keeps view (fun x p => blind.port x p _) _ _).trans ?_
      refine (foldl_keeps view (fun x c => ?_) _ _).trans ((blind.logged (takeStamp_logged _ 0x0F00)).trans (recorded _))
      split
      · exact blind.channel x c _
      · rfl

theorem lossCheck_blind : view (lossCheck m) = view m := by
  unfold lossCheck
  split
  · exact checkStop_blind blind m _
  · rfl

end

theorem store_lossCheck (m : Mach) (k : Nat) : store (lossCheck m) k = store m k := by
  have stores : (lossCheck m).stores = m.stores :=
    lossCheck_blind ⟨fun logged => logged.stores, fun _ _ => rfl, fun _ _ _ => rfl, fun _ _ _ => rfl⟩ m
  rw [store, stores]
  rfl

/-! ## The load -/

section
variable (m : Mach)

@[simp] theorem store_modStore (k : Nat) (f : StoreSt → StoreSt) : store (modStore m k f) k = f (store m k) := tget_tset_self ..
@[simp] theorem modStore_mem (k : Nat) (f : StoreSt → StoreSt) : (modStore m k f).mem = m.mem := rfl
@[simp] theorem ustate_modStore (k : Nat) (f : StoreSt → StoreSt) (kind i : Nat) : ustate (modStore m k f) kind i = ustate m kind i := rfl

@[simp] theorem store_setUnit (kind i : Nat) (x : UnitSt) (k : Nat) : store (setUnit m kind i x) k = store m k := rfl

/-- A unit that has started keeps its control stores, and memory its bytes. -/
theorem storeStarted_keeps (k : Nat × Nat) : (storeStarted m k).stores = m.stores ∧ (storeStarted m k).mem = m.mem := by
  unfold storeStarted
  split
  · exact ⟨rfl, rfl⟩
  · split
    · exact ⟨rfl, rfl⟩
    · split
      · exact ⟨rfl, rfl⟩
      · split <;> exact ⟨rfl, rfl⟩

theorem store_storeStarted (k : Nat × Nat) (i : Nat) : store (storeStarted m k) i = store m i := by
  rw [store, (storeStarted_keeps m k).1]
  rfl

/-- A control store whose patch RAM is written, with a set or with zeros; it counts as one try. -/
def storeTried (ram : Bytes) (x : StoreSt) : StoreSt :=
  { x with matches_ := [], ram := ram, check := (List.range (ram.length / 14)).map (fun k => Config.ramCheck (fld ram (14 * k) 14)),
           tries := x.tries + 1 }

/-- A control store without a set, once its load is over. -/
def romBound (x : StoreSt) : StoreSt := { x with matches_ := [], set := 0, bundle := 0, loaded := true, tries := 0 }

variable {m} {u : StoreUnit} (starting : ustate m (storeKind u).1 (storeKind u).2 = .starting) (open_ : (store m (storeKey u)).loaded = false)
include starting open_

theorem microLoad_rom (rom : boundSet m (storeKind u) = none) : ∃ x, microLoad m u none =
    storeStarted (setUnit (modStore (modStore m (storeKey u) (storeTried [])) (storeKey u) romBound) (storeKind u).1 (storeKind u).2 x)
      (storeKind u) := by
  unfold microLoad
  rw [if_neg (by simp [starting, open_]), rom]
  exact ⟨_, rfl⟩

/-- A word that does not compare: the store's next try, or after the second one the unit's failure with its record. -/
theorem microLoad_misread (w : Fin 256) : ∃ ram, microLoad m u (some w) =
    if (store m (storeKey u)).tries + 1 < 2 then modStore m (storeKey u) (storeTried ram)
    else raiseErr (setUState (modStore m (storeKey u) (storeTried ram)) (storeKind u).1 (storeKind u).2 .failed) 0x0016
      (sourceOf (storeKind u).1 (storeKind u).2) (le 2 w.val) := by
  refine ⟨match boundSet m (storeKind u) with | some (_, s, _) => bslice s 104 3584 | none => [], ?_⟩
  unfold microLoad
  rw [if_neg (by simp [starting, open_])]
  dsimp only
  rw [store_modStore]
  rfl

end

/-! ## MICROCODE_LOAD -/

section
variable {s : State} {u : StoreUnit} (live : alive s.m = true) (starting : ustate s.m (storeKind u).1 (storeKind u).2 = .starting)
  (open_ : (store s.m (storeKey u)).loaded = false)
include live starting open_

theorem microcodeLoad_rom (rom : boundSet s.m (storeKind u) = none) : Completes (.microcodeLoad u none) s (fun m =>
    (store m (storeKey u)).loaded = true ∧ (store m (storeKey u)).tries = 0 ∧ (store m (storeKey u)).ram = [] ∧
    (store m (storeKey u)).check = [] ∧ (store m (storeKey u)).matches_ = [] ∧ m.mem = s.m.mem) := by
  obtain ⟨x, load⟩ := microLoad_rom starting open_ rom
  refine completes_runAliveLoss (exec_microcodeLoad s u none) live ?_
  rw [store_lossCheck, lossCheck_mem, load, store_storeStarted, store_setUnit, store_modStore, store_modStore, (storeStarted_keeps _ _).2]
  exact ⟨rfl, rfl, rfl, rfl, rfl, rfl⟩

theorem microcodeLoad_again (w : Fin 256) (first : (store s.m (storeKey u)).tries = 0) : Completes (.microcodeLoad u (some w)) s (fun m =>
    (store m (storeKey u)).tries = 1 ∧ (store m (storeKey u)).loaded = false ∧
    ustate m (storeKind u).1 (storeKind u).2 = .starting ∧ m.mem = s.m.mem) := by
  obtain ⟨ram, load⟩ := microLoad_misread starting open_ w
  refine completes_runAliveLoss (exec_microcodeLoad s u (some w)) live ?_
  rw [store_lossCheck, lossCheck_mem, (lossCheck_stopKeeps _).ustate, load, first, if_pos (by decide), store_modStore, ustate_modStore]
  exact ⟨congrArg (· + 1) first, open_, starting, rfl⟩

theorem microcodeLoad_fails (w : Fin 256) (again : 1 ≤ (store s.m (storeKey u)).tries) : Completes (.microcodeLoad u (some w)) s (fun m =>
    ustate m (storeKind u).1 (storeKind u).2 = .failed ∧ m.mem = s.m.mem) := by
  obtain ⟨ram, load⟩ := microLoad_misread starting open_ w
  refine completes_runAliveLoss (exec_microcodeLoad s u (some w)) live ?_
  rw [lossCheck_mem, (lossCheck_stopKeeps _).ustate, load, if_neg (by omega), (raiseErr_logged ..).ustate, (raiseErr_logged ..).mem,
    ustate_setUState, if_pos rfl]
  exact ⟨rfl, rfl⟩

end

/-- Settles O51: an entry that leaves the wait table or the event block is the newest of its queue, a stock takes the pool's first setts, and a
control store's load ends, is tried again or fails by what is read back. -/
theorem queuesAndStores : Obligations.QueuesAndStores := by
  refine ⟨fun s => ⟨fun run => ⟨fun b q now m1 only stamp ready place => waitTableTimer_moves run only stamp ready place,
      fun b w none_ only here place => queuePlaceFreed_places run none_ only here place,
      fun b l st held _ => stockRefill_fills run held⟩,
      fun a l v may => ⟨fun refused => ?refused, fun m1 added => ⟨?added, settAdd_joins added⟩⟩⟩,
    fun s u live starting open_ => ⟨microcodeLoad_rom live starting open_, microcodeLoad_again live starting open_,
      microcodeLoad_fails live starting open_⟩⟩
  case refused => rw [leaseSettAdd_next may, refused, Option.getD_none]
  case added => rw [leaseSettAdd_next may, added, Option.getD_some]

end Sys2Proof.Machine
end
section
/-! A steal whose victim yields by an entry that no steal takes (R323, R330). -/

namespace Sys2Proof.Machine

/-- A steal finds no entry where no bank of the thief is Empty for the entries of levels 0 to 2 that it may take. -/
theorem stealNow_of_full {m : Mach} {e v : Nat} (full : ∀ q ∈ stealOrder (stealable m e v), (bank m e q.level).st ≠ .empty) : stealNow m e v = m := by
  have none_ : (stealOrder (stealable m e v)).find? (fun q => (bank m e q.level).st == .empty) = none :=
    List.find?_eq_none.2 fun q at_ => by simpa using full q at_
  unfold stealNow
  simp only [none_]

/-- The machine once a thief's probe is used. -/
def probeUsed (m : Mach) (e : Nat) : Mach := modEng m e (fun x => { x with probe := none })

theorem stealCommit_of_full {m : Mach} {e v least : Nat} (probe : (eng m e).probe = some (v, least))
    (full : ∀ q ∈ stealOrder (stealable (probeUsed m e) e v), (bank (probeUsed m e) e q.level).st ≠ .empty) : stealCommit m e = probeUsed m e := by
  unfold stealCommit
  simp only [probe]
  split
  · exact stealNow_of_full full
  · rfl

theorem onEngine_next {i : Instr} {s : State} {e : Nat} {f : Mach → Mach} (h : exec i s = onEngine s e f) (run : unitsRun s.m = true)
    (active : engActive s.m e = true) : exec i s = .next { s with m := f s.m } := by
  rw [runUnits_next h run, if_pos active]

/-- A fresh entry of lease 0. -/
def queuedTask (level : Nat) : QTask := freshTask 0 level 9 0x40 0 0 33 none

/-- Engine 0 is idle, has an exception pending at level 0 and has found bench 1, whose queue holds an entry of level 0 and one of level 3. -/
def blockedThief : State := { State.reset with m := { Mach.reset with
  mode := { ModeSt.reset with st := .service }
  units := [(ukey 0x02 0, { UnitSt.reset with st := .active }), (ukey 0x01 0, { UnitSt.reset with st := .active }),
    (ukey 0x01 1, { UnitSt.reset with st := .active })]
  leases := [(0, { Lease.reset with st := .active, affinity := BitVec.allOnes 64 })]
  engs := [(0, { Eng.reset with probe := some (1, 1), lv := vset Eng.reset.lv 0 { Bank.reset with st := .exception } })]
  benches := [(1, { Bench.reset with queue := [queuedTask 0, queuedTask 3] })] } }

/-- Bench 1 yields to engine 0, by the entry of level 3, whose bank is Empty, and the entry of level 0 is the only one that a steal could take. -/
theorem blockedThief_yields : benchTakes (probeUsed blockedThief.m 0) (benchOf 0) = true ∧ idle (probeUsed blockedThief.m 0) 0 = true ∧
    yieldsAt (probeUsed blockedThief.m 0) 0 1 1 = true ∧ stealOrder (stealable (probeUsed blockedThief.m 0) 0 1) = [queuedTask 0] := by
  decide +kernel

theorem blockedThief_full : (bank (probeUsed blockedThief.m 0) 0 (queuedTask 0).level).st = .exception := rfl

/-- STEAL_COMMIT there uses the probe up and steals nothing. -/
theorem blockedThief_stealCommit : exec (.stealCommit 0) blockedThief = .next { blockedThief with m := probeUsed blockedThief.m 0 } := by
  have nothing : stealCommit blockedThief.m 0 = probeUsed blockedThief.m 0 := by
    refine stealCommit_of_full (v := 1) (least := 1) rfl fun q at_ => ?_
    obtain ⟨-, -, -, only⟩ := blockedThief_yields
    rw [only, List.mem_singleton] at at_
    simp [at_, blockedThief_full]
  exact (onEngine_next (exec_stealCommit _ _) rfl rfl).trans (congrArg (fun m => Host.Outcome.next { blockedThief with m := m }) nothing)

/-- Refutes O50: where the victim's queue holds an entry of level 3, which the statement does not exclude (R323 does), the victim yields by it,
since the level-3 bank is Empty, and the steal then finds no Empty bank for the one entry of levels 0 to 2: that entry stays in the queue. -/
theorem not_tasksMove : ¬ Obligations.TasksMove := by
  intro h
  obtain ⟨-, steals⟩ := h
  obtain ⟨-, commits, -⟩ := steals blockedThief 0 rfl rfl
  obtain ⟨takes, idles, yields_, only⟩ := blockedThief_yields
  obtain ⟨t, run, -, -, queue, -⟩ := commits 1 1 (queuedTask 0) rfl (by decide) takes idles yields_ only rfl (by decide)
  cases blockedThief_stealCommit.symm.trans run
  exact absurd queue (by decide)

end Sys2Proof.Machine
end
section
/-! Writes of command registers that take effect (R723), and what a read of a bench's L2, of a line in it and of a home node gives after an
update of one of them. -/

namespace Sys2Proof.Machine

/-! ## Writes of command registers -/

section
variable {i : Instr} {s : State} {a : Actor} {kind index off : Nat} {f : Mach → Mach} {P : Mach → Prop}

theorem ctlWrite_of_writable {m : Mach} (may : Writable m a kind index) (off : Nat) (f : Mach → Mach) : ctlWrite a kind index off f m = f m := by
  obtain ⟨live, role, writer⟩ := may
  simp [ctlWrite, live, role, writer]

theorem ctlWrite_next (e : exec i s = runM s (ctlWrite a kind index off f)) (may : Writable s.m a kind index) :
    exec i s = .next { s with m := f s.m } := by
  rw [e, runM, ctlWrite_of_writable may]

theorem completes_ctlWrite (e : exec i s = runM s (ctlWrite a kind index off f)) (may : Writable s.m a kind index) (q : P (f s.m)) :
    Completes i s P :=
  completes_runM e (by rwa [ctlWrite_of_writable may])

end

/-! ## The L2 of a bench, its lines, and the homes -/

section
variable (m : Mach) (b n h : Nat)

@[simp] theorem l2_modL2 (f : L2St → L2St) : l2 (modL2 m b f) b = f (l2 m b) := tget_tset_self ..
@[simp] theorem home_modHome (f : Home → Home) : home (modHome m h f) h = f (home m h) := tget_tset_self ..
@[simp] theorem l2_send (x : Msg) : l2 (send m x) b = l2 m b := rfl

@[simp] theorem lineAt_setLine (x : L2Line) : lineAt (setLine m b n x) b n = some x := by
  rw [lineAt, setLine, l2_modL2]
  exact tfind_tset_self ..

@[simp] theorem lineAt_delLine : lineAt (delLine m b n) b n = none := by
  rw [lineAt, delLine, l2_modL2]
  exact tfind_tdel_self ..

end

section
variable {m : Mach} {b n k : Nat}

theorem lineAt_setLine_other (x : L2Line) (other : k ≠ n) : lineAt (setLine m b k x) b n = lineAt m b n := by
  rw [lineAt, setLine, l2_modL2]
  exact tfind_tset_ne _ _ _ _ other

theorem lineAt_delLine_other (other : k ≠ n) : lineAt (delLine m b k) b n = lineAt m b n := by
  rw [lineAt, delLine, l2_modL2]
  exact tfind_tdel_ne _ _ _ other

/-- What an L2 changes beside its lines leaves each line as it was. -/
theorem lineAt_modL2 {f : L2St → L2St} (same : (f (l2 m b)).lines = (l2 m b).lines) : lineAt (modL2 m b f) b n = lineAt m b n := by
  rw [lineAt, l2_modL2, same]
  rfl

theorem stAt_of_line {x : L2Line} (held : lineAt m b n = some x) : stAt m b n = some x.st := by rw [stAt, held]; rfl

/-- The home of a line is read off the image and the homes. -/
theorem homeOf_congr {m' : Mach} (image : m'.image = m.image) (homes : m'.homes = m.homes) (n : Nat) : homeOf m' n = homeOf m n := by
  have reads (x : Mach) : homeOf x n = homeOf { m with image := x.image, homes := x.homes } n := rfl
  rw [reads m', image, homes]

end

end Sys2Proof.Machine
end
section
/-! Cache maintenance by range and by set and way (R412 to R420, R436 to R440). -/

namespace Sys2Proof.Machine

/-! ## The status of an operation slot (R419, R439) -/

/-- A slot whose operation has just begun: BUSY, the counts cleared, OVERRUN and BAD as they were. -/
def opBegun (x : MaintSt) (op : Nat) (incl : Bool) (first count : Nat) : MaintSt :=
  { x with busy := true, written := 0, skipped := 0, op := op, incl := incl, first := first, count := count }

section
variable {x : MaintSt} {op first count : Nat} {incl bad : Bool}

theorem maintStart_of_busy (busy : x.busy = true) : maintStart x bad op incl first count = { x with overrun := true } := if_pos busy

theorem maintStart_of_bad (idle : x.busy = false) : maintStart x true op incl first count = { x with bad := true } := by
  simp [maintStart, idle]

theorem maintStart_of_idle (idle : x.busy = false) : maintStart x false op incl first count = opBegun x op incl first count := by
  simp [maintStart, opBegun, idle]

end

/-! ## Ranges (R416, R417) -/

/-- What `CRANGE_CMD` leaves in its status register. -/
def crangeStarted (m : Mach) (op : Nat) (incl : Bool) : MaintSt :=
  if m.crange.busy then { m.crange with overrun := true } else opBegun m.crange op incl m.crangeBase m.crangeLen

theorem crangeStart_eq (m : Mach) (op : Nat) (incl : Bool) : crangeStart m op incl = { m with crange := crangeStarted m op incl } := by
  rw [crangeStart, crangeStarted]
  cases busy : m.crange.busy
  case true => rw [maintStart_of_busy busy, if_pos rfl]
  case false => rw [maintStart_of_idle busy, if_neg Bool.false_ne_true]

theorem crangeCmd_next {i : Instr} {s : State} {a : Actor} {op : Nat} {incl : Bool}
    (e : exec i s = runM s (ctlWrite a 0x00 0 0x0410 (fun m => crangeStart m op incl))) (may : Writable s.m a 0 0) :
    exec i s = .next { s with m := { s.m with crange := crangeStarted s.m op incl } } := by
  rw [ctlWrite_next e may, crangeStart_eq]

/-- Settles O13: the four rows write one register, and what the write leaves in its status is told by BUSY alone. -/
theorem crangeCommands : Obligations.CrangeCommands := fun s a i may =>
  ⟨crangeCmd_next (exec_crangeClean s a i) may, crangeCmd_next (exec_crangeInvalidate s a i) may,
    crangeCmd_next (exec_crangeCleanInvalidate s a i) may, crangeCmd_next (exec_crangeZero s a i) may⟩

/-- A range operation that runs: what its lines leave of the machine, and the register after them. -/
theorem crangeRun_of_busy {m m1 : Mach} {k left : Nat} (busy : m.crange.busy = true)
    (acts : crangeLines m.crange.count m m.crange.first m.crange.op m.crange.incl 0 = (m1, k, left)) :
    crangeRun m = { m1 with crange := { m.crange with busy := decide (0 < left), first := m.crange.first + (m.crange.count - left), count := left,
                                                      skipped := sat 0xFFFFFFFF (m.crange.skipped + k) } } := by
  simp [crangeRun, busy, acts]

/-! ## Set and way: an operation of an L2 begins, or not (R418, R440) -/

section
variable {m : Mach} {b op : Nat} {v : SetWay}

/-- The machine with the operation begun in the L2's slot. -/
def l2OpBegun (m : Mach) (b op : Nat) (v : SetWay) : Mach := modL2 m b (fun z => { z with op := opBegun (l2 m b).op op v.inclLocked 0 0 })

/-- What an operation that has begun in an L2's slot leaves, beside the lines that it takes. -/
def SetwayBegun (m : Mach) (b op : Nat) (v : SetWay) (m' : Mach) : Prop :=
  (l2 m' b).op = opBegun (l2 m b).op op v.inclLocked 0 0 ∧ m'.mem = m.mem ∧ m'.homes = m.homes ∧ m'.mesh = m.mesh

theorem setwayBegun_l2OpBegun (m : Mach) (b op : Nat) (v : SetWay) : SetwayBegun m b op v (l2OpBegun m b op v) :=
  ⟨congrArg L2St.op (l2_modL2 ..), rfl, rfl, rfl⟩

/-- While BUSY, or with a reserved encoding, the write reaches the slot alone. -/
theorem l2SetwayStart_of_refused (no : ((l2 m b).op.busy || l2SetwayBad v) = true) :
    l2SetwayStart m b op v = modL2 m b (fun z => { z with op := maintStart (l2 m b).op (l2SetwayBad v) op v.inclLocked 0 0 }) := if_pos no

theorem l2SetwayStart_of_busy (busy : (l2 m b).op.busy = true) :
    l2SetwayStart m b op v = modL2 m b (fun x => { x with op := { x.op with overrun := true } }) := by
  rw [l2SetwayStart_of_refused (by rw [busy]; rfl), maintStart_of_busy busy]
  rfl

theorem l2SetwayStart_of_bad (idle : (l2 m b).op.busy = false) (bad : l2SetwayBad v = true) :
    l2SetwayStart m b op v = modL2 m b (fun x => { x with op := { x.op with bad := true } }) := by
  rw [l2SetwayStart_of_refused (by rw [bad, Bool.or_true]), bad, maintStart_of_bad idle]
  rfl

variable (idle : (l2 m b).op.busy = false) (good : l2SetwayBad v = false)
include idle good

theorem l2SetwayStart_l1d (cache : v.cache = 1) : l2SetwayStart m b op v = if op = 0 then l2OpBegun m b op v else
    { l2OpBegun m b op v with l1d := tset m.l1d (engineOf b v.slot.toNat) ((tget m.l1d (engineOf b v.slot.toNat) []).filter (fun x => !l1Target 16 v x)) } := by
  simp [l2SetwayStart, l2OpBegun, good, maintStart_of_idle idle, idle, cache]

theorem l2SetwayStart_l1i (cache : v.cache = 2) : l2SetwayStart m b op v = if op = 0 then l2OpBegun m b op v else
    { l2OpBegun m b op v with l1i := tset m.l1i (engineOf b v.slot.toNat) ((tget m.l1i (engineOf b v.slot.toNat) []).filter (fun x => !l1Target 32 v x.1)) } := by
  simp [l2SetwayStart, l2OpBegun, good, maintStart_of_idle idle, idle, cache]

/-- An L2 without lines has none for the operation to act on: the two counts stay 0. -/
theorem l2SetwayStart_empty (cache : v.cache = 0) (empty : (l2 m b).lines = []) :
    l2SetwayStart m b op v = modL2 (l2OpBegun m b op v) b (fun z => { z with op := { z.op with skipped := 0, written := 0 } }) := by
  simp [l2SetwayStart, l2OpBegun, l2Targets, good, maintStart_of_idle idle, idle, cache, empty, sat]

end

/-! ## The commands by set and way -/

section
variable {i : Instr} {s : State} {a : Actor} {b : BenchId} {v : SetWay} {op : Nat} {P : Mach → Prop}

theorem completes_setwayL2 (e : exec i s = runM s (setwayWrite a (.l2 b) op v)) (may : Writable s.m a 0x01 b.val)
    (q : P (l2SetwayStart s.m b.val op v)) : Completes i s P :=
  completes_ctlWrite (off := 0x0308) e may q

variable (e : exec i s = runM s (setwayWrite a (.l2 b) op v)) (may : Writable s.m a 0x01 b.val) (idle : (l2 s.m b.val).op.busy = false)
  (good : l2SetwayBad v = false)
include e may idle good

/-- A clean of an L1 does nothing beside its slot. -/
theorem setway_cleanL1 (clean : op = 0) (cache : v.cache = 1 ∨ v.cache = 2) :
    Completes i s (fun m => SetwayBegun s.m b.val 0 v m ∧ m.l1d = s.m.l1d ∧ m.l1i = s.m.l1i) := by
  subst clean
  refine completes_setwayL2 e may ?_
  obtain cache | cache := cache
  · rw [l2SetwayStart_l1d idle good cache, if_pos rfl]
    exact ⟨setwayBegun_l2OpBegun .., rfl, rfl⟩
  · rw [l2SetwayStart_l1i idle good cache, if_pos rfl]
    exact ⟨setwayBegun_l2OpBegun .., rfl, rfl⟩

/-- An invalidation of an L1D takes exactly the lines that it names. -/
theorem setway_invalidateL1d (takes : op ≠ 0) (cache : v.cache = 1) : Completes i s (fun m => SetwayBegun s.m b.val op v m ∧
    tget m.l1d (engineOf b.val v.slot.toNat) [] = (tget s.m.l1d (engineOf b.val v.slot.toNat) []).filter (fun x => !l1Target 16 v x) ∧
    m.l1i = s.m.l1i) := by
  refine completes_setwayL2 e may ?_
  rw [l2SetwayStart_l1d idle good cache, if_neg takes]
  exact ⟨setwayBegun_l2OpBegun .., tget_tset_self .., rfl⟩

theorem setway_invalidateL1i (takes : op ≠ 0) (cache : v.cache = 2) : Completes i s (fun m => SetwayBegun s.m b.val op v m ∧
    tget m.l1i (engineOf b.val v.slot.toNat) [] = (tget s.m.l1i (engineOf b.val v.slot.toNat) []).filter (fun x => !l1Target 32 v x.1) ∧
    m.l1d = s.m.l1d) := by
  refine completes_setwayL2 e may ?_
  rw [l2SetwayStart_l1i idle good cache, if_neg takes]
  exact ⟨setwayBegun_l2OpBegun .., tget_tset_self .., rfl⟩

theorem setway_emptyL2 (cache : v.cache = 0) (empty : (l2 s.m b.val).lines = []) :
    Completes i s (fun m => SetwayBegun s.m b.val op v m ∧ m.l1d = s.m.l1d ∧ m.l1i = s.m.l1i) := by
  refine completes_setwayL2 e may ?_
  rw [l2SetwayStart_empty idle good cache empty]
  exact ⟨⟨by simp [l2OpBegun, opBegun], rfl, rfl, rfl⟩, rfl, rfl⟩

end

/-! ## Operations end (R416, R417, R419) -/

section
variable {s : State} (runs : meshRuns s.m = true)
include runs

theorem maintenanceComplete_range {m1 : Mach} {k left : Nat} (busy : s.m.crange.busy = true)
    (acts : crangeLines s.m.crange.count s.m s.m.crange.first s.m.crange.op s.m.crange.incl 0 = (m1, k, left)) :
    Completes (.maintenanceComplete .crange) s (fun m => (m.crange.busy = true ↔ left ≠ 0) ∧ m.crange.count = left ∧ m.crange.op = s.m.crange.op ∧
      m.crange.skipped = sat 0xFFFFFFFF (s.m.crange.skipped + k) ∧ m.mem = m1.mem ∧ m.l2 = m1.l2 ∧ m.homes = m1.homes) := by
  refine completes_runMesh (exec_maintenanceComplete s .crange) runs ?_
  rw [maintDone, crangeRun_of_busy busy acts]
  exact ⟨by rw [decide_eq_true_iff, Nat.pos_iff_ne_zero], rfl, rfl, rfl, rfl, rfl, rfl⟩

theorem maintenanceComplete_l3 (h : HomeId) : Completes (.maintenanceComplete (.l3 h)) s (fun m =>
    (home m h.val).op.busy = false ∧ (home m h.val).l3 = (home s.m h.val).l3 ∧ m.mem = s.m.mem) := by
  refine completes_runMesh (exec_maintenanceComplete s (.l3 h)) runs ?_
  simp [maintDone]

theorem maintenanceComplete_l2 {b : BenchId} (busy : (l2 s.m b.val).op.busy = true) (answered : selfWaits s.m b.val none = false) :
    Completes (.maintenanceComplete (.l2 b)) s (fun m =>
      (l2 m b.val).op.busy = false ∧ (l2 m b.val).lines = (l2 s.m b.val).lines ∧ m.mem = s.m.mem) := by
  refine completes_runMesh (exec_maintenanceComplete s (.l2 b)) runs ?_
  simp [maintDone, l2SetwayDone, busy, answered]

end

/-- Settles O14: what an operation does when it begins is told by its slot and by the cache that it names, and what ends it by its unit. -/
theorem setwayAndMaintenance : Obligations.SetwayAndMaintenance := by
  unfold Obligations.SetwayAndMaintenance
  refine ⟨fun s a b v may idle good => ?begins, fun s a b v may => ?refused, fun s runs => ?ends⟩
  case begins =>
    have clean := exec_setwayClean s a (.l2 b) v
    have invalidate := exec_setwayInvalidate s a (.l2 b) v
    have both := exec_setwayCleanInvalidate s a (.l2 b) v
    refine ⟨fun l1d => ⟨?_, ?_, ?_⟩, fun l1i => ⟨?_, ?_, ?_⟩, fun l2_ empty => ⟨?_, ?_, ?_⟩⟩
    · exact setway_invalidateL1d invalidate may idle good one_ne_zero l1d
    · exact setway_invalidateL1d both may idle good two_ne_zero l1d
    · exact setway_cleanL1 clean may idle good rfl (.inl l1d)
    · exact setway_invalidateL1i invalidate may idle good one_ne_zero l1i
    · exact setway_invalidateL1i both may idle good two_ne_zero l1i
    · exact setway_cleanL1 clean may idle good rfl (.inr l1i)
    · exact setway_emptyL2 clean may idle good l2_ empty
    · exact setway_emptyL2 invalidate may idle good l2_ empty
    · exact setway_emptyL2 both may idle good l2_ empty
  case refused =>
    have next := ctlWrite_next (exec_setwayInvalidate s a (.l2 b) v) may
    refine ⟨fun busy => ?_, fun idle bad => ?_⟩
    · exact next.trans (by rw [setwayStart, l2SetwayStart_of_busy busy])
    · exact next.trans (by rw [setwayStart, l2SetwayStart_of_bad idle bad])
  case ends =>
    refine ⟨fun m1 k left busy acts => maintenanceComplete_range runs busy acts, fun busy none_ => ?_, maintenanceComplete_l3 runs,
      fun b busy answered => maintenanceComplete_l2 runs busy answered⟩
    have acts : crangeLines s.m.crange.count s.m s.m.crange.first s.m.crange.op s.m.crange.incl 0 = (s.m, 0, 0) := by rw [none_]; rfl
    exact (maintenanceComplete_range runs busy acts).mono fun m ⟨ends, _, _, _, mem, l2_, homes⟩ => ⟨by simpa using ends, mem, l2_, homes⟩

end Sys2Proof.Machine
end
section
/-! Disabling and enabling caches, and locked ways (R408, R411, R421 to R423). -/

namespace Sys2Proof.Machine

/-! ## Caches without a line -/

section
variable {m : Mach} {b h : Nat}

theorem l2HasDirty_of_empty {x : L2St} (empty : x.lines = []) : l2HasDirty x = false := by rw [l2HasDirty, empty]; rfl
theorem l2Invalidate_of_empty (empty : (l2 m b).lines = []) : l2Invalidate m b = m := by rw [l2Invalidate, empty]; rfl
theorem l3Invalidate_of_empty (empty : (home m h).l3 = []) : l3Invalidate m h = m := by rw [l3Invalidate, empty]; rfl

end

/-! ## The first level (R423) -/

section
variable (m : Mach) (e : Nat) (dOff iOff : Bool)

theorem l1Ctl_flags : (eng (l1Ctl m e dOff iOff) e).l1dOff = dOff ∧ (eng (l1Ctl m e dOff iOff) e).l1iOff = iOff ∧
    (l1Ctl m e dOff iOff).mem = m.mem := by
  have flags : eng (l1Ctl m e dOff iOff) e = { eng m e with l1dOff := dOff, l1iOff := iOff } := by
    rw [← eng_modEng m e (fun x => { x with l1dOff := dOff, l1iOff := iOff })]
    cases dOff <;> cases iOff <;> rfl
  refine ⟨by rw [flags], by rw [flags], ?_⟩
  cases dOff <;> cases iOff <;> rfl

theorem l1Ctl_l1d_off : tget (l1Ctl m e true iOff).l1d e [] = [] := by cases iOff <;> exact tget_tset_self ..
theorem l1Ctl_l1i_off : tget (l1Ctl m e dOff true).l1i e [] = [] := tget_tset_self ..

end

section
variable {s : State} {a : Actor} (e : EngineId) (may : Writable s.m a 0x02 e.val)
include may

theorem cacheDisable_l1d : Completes (.cacheDisable a (.l1d e)) s (fun m =>
    (eng m e.val).l1dOff = true ∧ tget m.l1d e.val [] = [] ∧ m.mem = s.m.mem) :=
  have ⟨d, _, mem⟩ := l1Ctl_flags s.m e.val true (eng s.m e.val).l1iOff
  completes_ctlWrite (exec_cacheDisable ..) may ⟨d, l1Ctl_l1d_off .., mem⟩

theorem cacheDisable_l1i : Completes (.cacheDisable a (.l1i e)) s (fun m =>
    (eng m e.val).l1iOff = true ∧ tget m.l1i e.val [] = [] ∧ m.mem = s.m.mem) :=
  have ⟨_, i, mem⟩ := l1Ctl_flags s.m e.val (eng s.m e.val).l1dOff true
  completes_ctlWrite (exec_cacheDisable ..) may ⟨i, l1Ctl_l1i_off .., mem⟩

theorem cacheEnable_l1d : Completes (.cacheEnable a (.l1d e)) s (fun m => (eng m e.val).l1dOff = false ∧ m.mem = s.m.mem) :=
  have ⟨d, _, mem⟩ := l1Ctl_flags s.m e.val false (eng s.m e.val).l1iOff
  completes_ctlWrite (exec_cacheEnable ..) may ⟨d, mem⟩

theorem cacheEnable_l1i : Completes (.cacheEnable a (.l1i e)) s (fun m => (eng m e.val).l1iOff = false ∧ m.mem = s.m.mem) :=
  have ⟨_, i, mem⟩ := l1Ctl_flags s.m e.val (eng s.m e.val).l1dOff false
  completes_ctlWrite (exec_cacheEnable ..) may ⟨i, mem⟩

end

/-! ## The L2 (R422) -/

section
variable {m : Mach} {b : Nat}

/-- A clean of each dirty line is under way already: an L2 that empties itself sends no further request. -/
theorem l2CleanAll_of_waiting (waits : (l2 m b).lines.all (fun p => selfWaits m b (some p.1)) = true) : l2CleanAll m b = m := by
  rw [l2CleanAll]
  split
  · rfl
  · refine foldl_idle fun p at_ => if_neg ?_
    have waiting : selfWaits m b (some p.1) = true := List.all_eq_true.1 waits p at_
    simp [waiting]

theorem l2Disable_empty (empty : (l2 m b).lines = []) (on : (l2 m b).ctl = .enabled) : l2Disable m b =
    modL2 (modL2 m b (fun x => { x with disableReq := true })) b (fun x => { x with ctl := .disabled, side := [] }) := by
  simp [l2Disable, on, l2HasDirty_of_empty, l2Invalidate_of_empty, empty]

theorem l2Disable_dirty (dirty : l2HasDirty (l2 m b) = true) (on : (l2 m b).ctl = .enabled)
    (waits : (l2 m b).lines.all (fun p => selfWaits m b (some p.1)) = true) : l2Disable m b =
    modL2 (modL2 m b (fun x => { x with disableReq := true })) b (fun x => { x with ctl := .disabling }) := by
  refine (if_neg (not_not.2 ?on)).trans ((if_pos ?dirty).trans (l2CleanAll_of_waiting ?waits))
  case on => rwa [l2_modL2]
  case dirty => rwa [l2_modL2]
  case waits => rwa [l2_modL2, l2_modL2]

end

section
variable {s : State} {a : Actor} {b : BenchId} (may : Writable s.m a 0x01 b.val)
include may

theorem cacheDisable_l2_empty (empty : (l2 s.m b.val).lines = []) (on : (l2 s.m b.val).ctl = .enabled) :
    Completes (.cacheDisable a (.l2 b)) s (fun m =>
      (l2 m b.val).ctl = .disabled ∧ (l2 m b.val).disableReq = true ∧ (l2 m b.val).lines = [] ∧ m.mem = s.m.mem) := by
  refine completes_ctlWrite (exec_cacheDisable ..) may ?_
  rw [cacheOff, l2Disable_empty empty on]
  simp [empty]

theorem cacheDisable_l2_dirty (dirty : l2HasDirty (l2 s.m b.val) = true) (on : (l2 s.m b.val).ctl = .enabled)
    (waits : (l2 s.m b.val).lines.all (fun p => selfWaits s.m b.val (some p.1)) = true) :
    Completes (.cacheDisable a (.l2 b)) s (fun m =>
      (l2 m b.val).ctl = .disabling ∧ (l2 m b.val).disableReq = true ∧ m.mem = s.m.mem) := by
  refine completes_ctlWrite (exec_cacheDisable ..) may ?_
  rw [cacheOff, l2Disable_dirty dirty on waits]
  simp

theorem cacheEnable_l2 : Completes (.cacheEnable a (.l2 b)) s (fun m =>
    (l2 m b.val).ctl = .enabled ∧ (l2 m b.val).disableReq = false ∧ m.mem = s.m.mem) := by
  refine completes_ctlWrite (exec_cacheEnable ..) may ?_
  simp [cacheOn, l2Enable]

end

/-! ## The L3 (R422) -/

theorem l3Disable_empty {m : Mach} {h : Nat} (empty : (home m h).l3 = []) (on : (home m h).ctl = .enabled) : l3Disable m h =
    modHome (modHome m h (fun x => { x with disableReq := true })) h (fun x => { x with ctl := .disabled }) := by
  simp [l3Disable, on, l3Invalidate_of_empty, empty]

section
variable {s : State} {a : Actor} {h : HomeId} (may : Writable s.m a 0x03 h.val)
include may

theorem cacheDisable_l3_empty (empty : (home s.m h.val).l3 = []) (on : (home s.m h.val).ctl = .enabled) :
    Completes (.cacheDisable a (.l3 h)) s (fun m =>
      (home m h.val).ctl = .disabled ∧ (home m h.val).disableReq = true ∧ m.mem = s.m.mem) := by
  refine completes_ctlWrite (exec_cacheDisable ..) may ?_
  rw [cacheOff, l3Disable_empty empty on]
  simp

theorem cacheEnable_l3 : Completes (.cacheEnable a (.l3 h)) s (fun m =>
    (home m h.val).ctl = .enabled ∧ (home m h.val).disableReq = false ∧ m.mem = s.m.mem) := by
  refine completes_ctlWrite (exec_cacheEnable ..) may ?_
  simp [cacheOn, l3Enable]

end

/-- Settles O15: each cache by what a write of its DISABLE field does to it, and WAY_LOCK by the mask that it is cut with. -/
theorem cacheControl : Obligations.CacheControl := fun _ _ =>
  ⟨fun e may => ⟨cacheDisable_l1d e may, cacheDisable_l1i e may, cacheEnable_l1d e may, cacheEnable_l1i e may⟩,
    fun _ may => ⟨cacheDisable_l2_empty may, cacheDisable_l2_dirty may, cacheEnable_l2 may, fun _ => ctlWrite_next (exec_wayLock ..) may⟩,
    fun _ may => ⟨cacheDisable_l3_empty may, cacheEnable_l3 may⟩⟩

end Sys2Proof.Machine
end
section
/-! Events of the caches: a Disabling cache that is empty, the dirty-age limit, and the scrub (R422, R424, R425, R428). -/

namespace Sys2Proof.Machine

/-! ## Disabling ends (R422) -/

theorem l2Emptied_empty {m : Mach} {b : Nat} (disabling : (l2 m b).ctl = .disabling) (empty : (l2 m b).lines = []) :
    l2Emptied m b = modL2 m b (fun x => { x with ctl := .disabled, side := [] }) := by
  simp [l2Emptied, disabling, l2HasDirty_of_empty empty, l2Invalidate_of_empty empty]

theorem l3Emptied_empty {m : Mach} {h : Nat} (disabling : (home m h).ctl = .disabling) (empty : (home m h).l3 = []) :
    l3Emptied m h = modHome m h (fun x => { x with ctl := .disabled }) := by
  simp [l3Emptied, disabling, empty, l3Invalidate_of_empty empty]

/-! ## The dirty-age limit (R428) -/

theorem dirtyAge_cleans {m : Mach} {b n t : Nat} {x : L2Line} (held : lineAt m b n = some x) (dirty : x.dirtyAt = some t) (st : x.st = .m)
    (old : t + 750 * (l2 m b).age ≤ m.now) (first : selfWaits m b (some n) = false) :
    dirtyAge m b n = benchReq m b .mntC n x.lease true true 0 false := by
  simp [dirtyAge, held, dirty, st, old, first]

/-! ## The scrub (R424, R425) -/

theorem arrayRec_logged (m : Mach) (cause src array part set way n : Nat) : Logged m (arrayRec m cause src array part set way n) :=
  raiseErrD_logged m cause src src _ _ _ _

/-- The machine after a corrected error in an L2's data array is counted. -/
def errDataCounted (m : Mach) (b : Nat) : Mach := modL2 m b (fun y => { y with errData := sat 0xFFFF (y.errData + 1) })

/-- A single-bit error is counted, and recorded where the line is not one of the side buffer. -/
theorem scrubL2_single_logged {m : Mach} {b n : Nat} {x : L2Line} (held : lineAt m b n = some x) :
    Logged (errDataCounted m b) (scrubL2 m b n .single) := by
  simp only [scrubL2, held]
  split
  · simp only [scrubSide, reduceCtorEq, if_false, or_true, if_true]
    exact .refl _
  · exact arrayRec_logged ..

section
variable {s : State} (runs : meshRuns s.m = true)
include runs

theorem cacheScrub_l1d_multi {e : EngineId} {n : LineNo} (held : (tget s.m.l1d e.val []).any (fun x => x.line == n.toNat) = true) :
    Completes (.cacheScrub (.l1d e) n .multi) s (fun m => (tget m.l1d e.val []).any (fun x => x.line == n.toNat) = false ∧
      (eng m e.val).l1Errs = lset (eng s.m e.val).l1Errs 0 (sat 0xFFFF ((eng s.m e.val).l1Errs.getD 0 0 + 1)) ∧ m.mem = s.m.mem) := by
  refine completes_runMesh (exec_cacheScrub ..) runs ?_
  simp only [scrubLine, scrubL1, held, Bool.true_or, if_true]
  refine ⟨?_, congrArg Eng.l1Errs (eng_modEng ..), rfl⟩
  simp [countL1, modEng, setEng]

theorem cacheScrub_l2_single {b : BenchId} {n : LineNo} {x : L2Line} (held : lineAt s.m b.val n.toNat = some x) :
    Completes (.cacheScrub (.l2 b) n .single) s (fun m => lineAt m b.val n.toNat = some x ∧
      (l2 m b.val).errData = sat 0xFFFF ((l2 s.m b.val).errData + 1) ∧ m.mem = s.m.mem) := by
  refine completes_runMesh (exec_cacheScrub ..) runs ?_
  have logged := scrubL2_single_logged held
  have same : l2 (scrubL2 s.m b.val n.toNat .single) b.val = l2 (errDataCounted s.m b.val) b.val := by rw [l2, logged.l2]; rfl
  refine ⟨?_, ?_, logged.mem⟩
  · rw [scrubLine, lineAt, same, ← held]
    exact lineAt_modL2 rfl
  · rw [scrubLine, same, errDataCounted, l2_modL2]

end

/-- Settles O16: an empty cache has nothing to write back, an old dirty line sends its clean, and the scrub counts what it finds. -/
theorem cacheEvents : Obligations.CacheEvents := by
  intro s run
  have runs := meshRuns_of_unitsRun run
  refine ⟨fun b disabling empty => ?l2, fun h disabling empty => ?l3, fun b n x t held dirty st old first => ?clean,
    fun e n held => cacheScrub_l1d_multi runs held, fun b n x held => cacheScrub_l2_single runs held⟩
  case l2 =>
    refine completes_runUnits (exec_disablingComplete s (.l2 b)) run ?_
    rw [cacheEmptied, l2Emptied_empty disabling empty]
    simp
  case l3 =>
    refine completes_runUnits (exec_disablingComplete s (.l3 h)) run ?_
    rw [cacheEmptied, l3Emptied_empty disabling empty]
    simp
  case clean =>
    rw [runUnits_next (exec_dirtyAgeClean s b n) run, dirtyAge_cleans held dirty st old first]
    rfl

end Sys2Proof.Machine
end
section
/-! What a bench's L2 leaves when it gives up lines: the rest of the bench and of the machine, and each of its other lines (R402, R406, R459). -/

namespace Sys2Proof.Machine

/-- The machine after is the one before as far as an exchange about one line reads it: the lines of the L2 of bench `b`, its side buffer and
what the bench's engines hold of the lines may differ, and messages may have been sent. -/
structure BenchKeeps (b : Nat) (m m' : Mach) : Prop where
  now : m'.now = m.now
  mem : m'.mem = m.mem
  homes : m'.homes = m.homes
  image : m'.image = m.image
  ctl : (l2 m' b).ctl = (l2 m b).ctl
  stale : (l2 m' b).stale = (l2 m b).stale

section
variable {m m' m'' : Mach} {b : Nat}

theorem BenchKeeps.refl (m : Mach) : BenchKeeps b m m := ⟨rfl, rfl, rfl, rfl, rfl, rfl⟩

theorem BenchKeeps.trans (h : BenchKeeps b m m') (g : BenchKeeps b m' m'') : BenchKeeps b m m'' :=
  ⟨g.now.trans h.now, g.mem.trans h.mem, g.homes.trans h.homes, g.image.trans h.image, g.ctl.trans h.ctl, g.stale.trans h.stale⟩

theorem BenchKeeps.homeOf (h : BenchKeeps b m m') (n : Nat) : Machine.homeOf m' n = Machine.homeOf m n := homeOf_congr h.image h.homes n

theorem modL2_benchKeeps (m : Mach) {f : L2St → L2St} (ctl : (f (l2 m b)).ctl = (l2 m b).ctl) (stale : (f (l2 m b)).stale = (l2 m b).stale) :
    BenchKeeps b m (modL2 m b f) :=
  ⟨rfl, rfl, rfl, rfl, by rw [l2_modL2, ctl], by rw [l2_modL2, stale]⟩

end

section
variable (m : Mach) (b n : Nat)

theorem setLine_benchKeeps (x : L2Line) : BenchKeeps b m (setLine m b n x) := modL2_benchKeeps m rfl rfl
theorem delLine_benchKeeps : BenchKeeps b m (delLine m b n) := modL2_benchKeeps m rfl rfl
theorem send_benchKeeps (x : Msg) : BenchKeeps b m (send m x) := ⟨rfl, rfl, rfl, rfl, rfl, rfl⟩
theorem touch_benchKeeps : BenchKeeps b m (touch m) := ⟨rfl, rfl, rfl, rfl, rfl, rfl⟩

theorem dropL1_benchKeeps : BenchKeeps b m (dropL1 m b n) :=
  ⟨rfl, rfl, rfl, rfl, by rw [dropL1, l2_modL2]; rfl, by rw [dropL1, l2_modL2]; rfl⟩

/-- The first level is not the L2: its lines stay. -/
theorem lineAt_dropL1 (k : Nat) : lineAt (dropL1 m b n) b k = lineAt m b k := lineAt_modL2 rfl

/-- What giving up a line can do (R459, column Replace): nothing, where the bench does not hold it; else the first level loses it, and it stays
in its transient state, goes silently, or waits with its eviction sent. -/
theorem replaceLine_cases : replaceLine m b n = m ∨ replaceLine m b n = dropL1 m b n ∨ replaceLine m b n = delLine (dropL1 m b n) b n ∨
    ∃ y msg, replaceLine m b n = send (setLine (dropL1 m b n) b n y) msg := by
  unfold replaceLine
  cases lineAt m b n with
  | none => exact .inl rfl
  | some x =>
    dsimp only
    cases x.st
    case s => exact .inr (.inr (.inl rfl))
    case e | m | o => exact .inr (.inr (.inr ⟨_, _, rfl⟩))
    all_goals exact .inr (.inl rfl)

theorem replaceLine_benchKeeps : BenchKeeps b m (replaceLine m b n) := by
  have dropped := dropL1_benchKeeps m b n
  obtain e | e | e | ⟨y, msg, e⟩ := replaceLine_cases m b n <;> rw [e]
  · exact .refl m
  · exact dropped
  · exact dropped.trans (delLine_benchKeeps _ b n)
  · exact dropped.trans ((setLine_benchKeeps _ b n y).trans (send_benchKeeps _ b msg))

end

section
variable {m : Mach} {b n : Nat}

theorem lineAt_replaceLine_other {k : Nat} (other : k ≠ n) : lineAt (replaceLine m b k) b n = lineAt m b n := by
  obtain e | e | e | ⟨y, msg, e⟩ := replaceLine_cases m b k <;> rw [e]
  · exact lineAt_dropL1 ..
  · rw [lineAt_delLine_other other, lineAt_dropL1]
  · exact (lineAt_setLine_other _ other).trans (lineAt_dropL1 ..)

/-- A line that the bench does not hold does not come by giving up any. -/
theorem lineAt_replaceLine_none (gone : lineAt m b n = none) (k : Nat) : lineAt (replaceLine m b k) b n = none := by
  by_cases same : k = n
  · rw [same, replaceLine, gone]
    exact gone
  · rw [lineAt_replaceLine_other same, gone]

/-! ## A disabled L2 goes on to give up its lines (R422, R449) -/

/-- Giving up one line after another keeps what giving up each keeps. -/
theorem l2Invalidate_keeps (gone : lineAt m b n = none) : BenchKeeps b m (l2Invalidate m b) ∧ lineAt (l2Invalidate m b) b n = none := by
  unfold l2Invalidate
  generalize (l2 m b).lines = lines
  induction lines generalizing m with
  | nil => exact ⟨.refl m, gone⟩
  | cons p rest ih =>
    rw [List.foldl_cons]
    split
    · have ⟨keeps, still⟩ := ih (lineAt_replaceLine_none gone p.1)
      exact ⟨(replaceLine_benchKeeps m b p.1).trans keeps, still⟩
    · exact ih gone

theorem trackerFree_keeps (gone : lineAt m b n = none) : BenchKeeps b m (trackerFree m b) ∧ lineAt (trackerFree m b) b n = none := by
  unfold trackerFree
  split
  · exact l2Invalidate_keeps gone
  · exact ⟨.refl m, gone⟩

end

end Sys2Proof.Machine
end
section
/-! Grants and acknowledgements at a bench (R405, R450, R455, R456, R459, R489). -/

namespace Sys2Proof.Machine

/-! ## A message that is next in its channel arrives (R20, R450) -/

section
variable {m : Mach} {p : Msg → Bool}

theorem arrive_of_inTurn (turn : InTurn m p) (k : Mach → Mach) : arrive m p k = k (takeMsg m p) := by
  rw [arrive, turn]
  rfl

/-- The oldest message of the mesh has none before it, and leaves the others. -/
theorem arrive_of_head {x : Msg} {rest : List Msg} (mesh : m.mesh = x :: rest) (k : Mach → Mach) :
    arrive m (fun y => y == x) k = k { m with mesh := rest } := by
  have turn : InTurn m (fun y => y == x) := by simp [InTurn, behind, mesh]
  rw [arrive_of_inTurn turn, takeMsg, mesh, List.eraseP_cons_of_pos (p := fun y => y == x) (beq_self_eq_true x)]

end

section
variable {m : Mach} {p : Msg → Bool} {b n : Nat}

theorem lineAt_takeMsg : lineAt (takeMsg m p) b n = lineAt m b n := rfl
theorem stAt_takeMsg : stAt (takeMsg m p) b n = stAt m b n := rfl
theorem chooseWay_takeMsg (ls : Nat) : chooseWay (takeMsg m p) b n ls = chooseWay m b n ls := by
  have cache : l2 (takeMsg m p) b = l2 m b := rfl
  have time : (takeMsg m p).now = m.now := rfl
  rw [chooseWay, chooseWay, cache, time]
theorem causeOf_takeMsg {x : L2Line} (held : lineAt m b n = some x) : causeOf (takeMsg m p) b n = x.cause := by
  rw [causeOf, lineAt_takeMsg, held]
  rfl

end

/-! ## A grant with data (R456, R459) -/

/-- The state that a grant gives: DataS S, DataE E, DataM M. -/
def grantedSt : Nat → CohSt
  | 0 => .s
  | 1 => .e
  | _ => .m

/-- A line that waits for its data takes a grant of the kind: one that is to be written takes DataM alone. -/
def TakesGrant (x : L2Line) (kind : Nat) : Prop := x.st = .isD ∨ x.st = .imD ∧ kind = 2

/-- The line that a grant fills, in a way or in the side buffer. -/
def filledLine (m : Mach) (b kind : Nat) (x : L2Line) (d : Line) (p : Bool) (way : Option Nat) : L2Line :=
  { x with st := grantedSt kind, data := d, poison := p, way := way, dirtyAt := if kind = 2 then some m.now else none,
           tenureEnd := if kind = 0 then none else some (m.now + tenureNs (benchMhz m b)), lastUse := m.tick, cause := none, pf := false }

/-- The victim of a fill gives up its way. -/
def victimLeaves (m : Mach) (b : Nat) (victim : Option Nat) : Mach := match victim with | some v => replaceLine m b v | none => m

theorem victimLeaves_benchKeeps (m : Mach) (b : Nat) (victim : Option Nat) : BenchKeeps b m (victimLeaves m b victim) := by
  cases victim with
  | none => exact .refl m
  | some v => exact replaceLine_benchKeeps m b v

section
variable {m : Mach} {b n kind : Nat} {x : L2Line} {d : Line} {p : Bool}

/-- A demand fill, and every fill that comes dirty, takes a way. -/
theorem benchFill_way {w : Nat} {v : Option Nat} (held : lineAt m b n = some x) (takes : TakesGrant x kind) (demand : x.pf = false ∨ kind = 2)
    (way : chooseWay m b n x.lease = some (w, v)) : benchFill m b n kind d p (benchMhz m b) =
      send (setLine (touch (victimLeaves m b v)) b n (filledLine m b kind x d p (some w))) (.done (homeOf (victimLeaves m b v) n) n b) := by
  have needsWay : (x.pf && kind != 2) = false := by
    obtain pf | two := demand
    · rw [pf]; rfl
    · rw [two]; exact Bool.and_false _
  obtain st | ⟨st, rfl⟩ := takes
  all_goals
    simp only [benchFill, held, st, needsWay, way]
    cases v <;> rfl

/-- A prefetched line that comes clean goes to the side buffer. -/
theorem benchFill_side (held : lineAt m b n = some x) (st : x.st = .isD) (pf : x.pf = true) (clean : kind ≠ 2) :
    benchFill m b n kind d p (benchMhz m b) =
      send (sideFill (touch m) b n (filledLine m b kind x d p none)) (.done (homeOf m n) n b) := by
  have needsNone : (x.pf && kind != 2) = true := by simp [pf, clean]
  simp only [benchFill, held, st, needsNone]
  rfl

end

/-! ## The side buffer of the stride prefetcher (R405, R406) -/

section
variable (m : Mach) (b n : Nat) (y : L2Line)

/-- The line is the newest of the bench's side buffer, which may hold one too many now. -/
def sideEntered : Mach := modL2 (setLine m b n y) b (fun z => { z with side := z.side.filter (fun k => k != n) ++ [n] })

theorem sideEntered_benchKeeps : BenchKeeps b m (sideEntered m b n y) :=
  (setLine_benchKeeps m b n y).trans (modL2_benchKeeps _ rfl rfl)

theorem lineAt_sideEntered : lineAt (sideEntered m b n y) b n = some y := (lineAt_modL2 rfl).trans (lineAt_setLine ..)

/-- A full buffer gives up its oldest line, which is never the one that has entered. -/
theorem sideFill_cases : sideFill m b n y = sideEntered m b n y ∨ ∃ v, v ≠ n ∧ sideFill m b n y = replaceLine (sideEntered m b n y) b v := by
  have side : (l2 (sideEntered m b n y) b).side = (l2 (setLine m b n y) b).side.filter (fun k => k != n) ++ [n] := by
    rw [sideEntered, l2_modL2]
  have fill : sideFill m b n y = match (l2 (sideEntered m b n y) b).side with
    | v :: r => if 32 ≤ r.length then replaceLine (sideEntered m b n y) b v else sideEntered m b n y
    | [] => sideEntered m b n y := rfl
  rw [side] at fill
  cases older : (l2 (setLine m b n y) b).side.filter (fun k => k != n) with
  | nil =>
    rw [older] at fill
    exact .inl fill
  | cons v r =>
    rw [older, List.cons_append] at fill
    have held : v ∈ (l2 (setLine m b n y) b).side.filter (fun k => k != n) := by rw [older]; exact List.mem_cons_self
    have other : v ≠ n := bne_iff_ne.1 (List.mem_filter.1 held).2
    dsimp only at fill
    split at fill
    · exact .inr ⟨v, other, fill⟩
    · exact .inl fill

theorem sideFill_benchKeeps : BenchKeeps b m (sideFill m b n y) := by
  have entered := sideEntered_benchKeeps m b n y
  obtain e | ⟨v, _, e⟩ := sideFill_cases m b n y <;> rw [e]
  · exact entered
  · exact entered.trans (replaceLine_benchKeeps _ b v)

theorem lineAt_sideFill : lineAt (sideFill m b n y) b n = some y := by
  have entered := lineAt_sideEntered m b n y
  obtain e | ⟨v, other, e⟩ := sideFill_cases m b n y <;> rw [e]
  · exact entered
  · exact (lineAt_replaceLine_other other).trans entered

end

/-! ## The fill, and the access that asked for it -/

section
variable {m : Mach} {b n kind : Nat} {x : L2Line} {d : Line} {p : Bool} {way : Option Nat}

/-- A fill done: memory and the homes as they were, Done on its way to the home, and the line at the bench. -/
def Filled (m : Mach) (b n kind : Nat) (d : Line) (p : Bool) (way : Option Nat) (m' : Mach) : Prop :=
  m'.mem = m.mem ∧ m'.homes = m.homes ∧ .done (homeOf m n) n b ∈ m'.mesh ∧ ∃ y, lineAt m' b n = some y ∧ y.st = grantedSt kind ∧ y.data = d ∧
    y.poison = p ∧ y.way = way ∧ y.tenureEnd = if kind = 0 then none else some (m.now + tenureNs (benchMhz m b))

theorem filled_of_done {m' : Mach} {h : Nat} (keeps : BenchKeeps b m m') (line : lineAt m' b n = some (filledLine m b kind x d p way))
    (at_ : h = homeOf m n) : Filled m b n kind d p way (send m' (.done h n b)) := by
  subst at_
  exact ⟨keeps.mem, keeps.homes, List.mem_append_right _ List.mem_cons_self, _, line, rfl, rfl, rfl, rfl, rfl⟩

/-- A grant of the kind fills the line, and keeps what an exchange reads. -/
def FillsAt (m : Mach) (b n kind : Nat) (d : Line) (p : Bool) (way : Option Nat) : Prop :=
  BenchKeeps b m (benchFill m b n kind d p (benchMhz m b)) ∧ Filled m b n kind d p way (benchFill m b n kind d p (benchMhz m b))

theorem fillsAt_way {w : Nat} {v : Option Nat} (held : lineAt m b n = some x) (takes : TakesGrant x kind) (demand : x.pf = false ∨ kind = 2)
    (way : chooseWay m b n x.lease = some (w, v)) : FillsAt m b n kind d p (some w) := by
  have left := victimLeaves_benchKeeps m b v
  have keeps := left.trans ((touch_benchKeeps _ b).trans (setLine_benchKeeps _ b n (filledLine m b kind x d p (some w))))
  rw [FillsAt, benchFill_way held takes demand way]
  exact ⟨keeps.trans (send_benchKeeps ..), filled_of_done keeps (lineAt_setLine ..) (left.homeOf n)⟩

theorem fillsAt_side (held : lineAt m b n = some x) (st : x.st = .isD) (pf : x.pf = true) (clean : kind ≠ 2) : FillsAt m b n kind d p none := by
  have keeps := (touch_benchKeeps m b).trans (sideFill_benchKeeps _ b n (filledLine m b kind x d p none))
  rw [FillsAt, benchFill_side held st pf clean]
  exact ⟨keeps.trans (send_benchKeeps ..), filled_of_done keeps (lineAt_sideFill ..) rfl⟩

/-- A line that no access waits for, at an enabled L2: the fill is all that the grant does. -/
theorem fillLine_of_fillsAt (held : lineAt m b n = some x) (takes : TakesGrant x kind) (on : (l2 m b).ctl = .enabled)
    (fills : FillsAt m b n kind d p way) : Filled m b n kind d p way (fillLine m b n kind d p id) := by
  obtain ⟨keeps, filled⟩ := fills
  have kept : fillKept (benchFill m b n kind d p (benchMhz m b)) b n = benchFill m b n kind d p (benchMhz m b) := if_pos (keeps.ctl.trans on)
  have same : fillLine m b n kind d p id = benchFill m b n kind d p (benchMhz m b) := by
    obtain st | ⟨st, -⟩ := takes <;> simp only [fillLine, stAt_of_line held, st, id] <;> exact kept
  rwa [same]

end

/-! ## The rows DATAS, DATAE and DATAM -/

section
variable {i : Instr} {s : State} {b : BenchId} {n : LineNo} {x : L2Line} {kind : Nat} {d : Line} {p : Bool}
  (e : exec i s = runMesh s (fun m => arriveData m b.val n.toNat kind d p)) (runs : meshRuns s.m = true)
  (held : lineAt s.m b.val n.toNat = some x) (none_ : x.cause = none) (on : (l2 s.m b.val).ctl = .enabled)
  (turn : InTurn s.m (fun y => y == .data b.val kind n.toNat d p))
include e runs held none_ on turn

theorem grant_completes {way : Option Nat} (takes : TakesGrant x kind) (ready : fillWaits s.m b.val n.toNat kind = false)
    (fills : FillsAt (takeMsg s.m (fun y => y == .data b.val kind n.toNat d p)) b.val n.toNat kind d p way) :
    Completes i s (Filled s.m b.val n.toNat kind d p way) := by
  refine completes_runMesh e runs ?_
  rw [arriveData, ready, if_neg Bool.false_ne_true, arrive_of_inTurn turn, causeOf_takeMsg held, none_]
  exact fillLine_of_fillsAt held takes on fills

theorem grant_fillsWay {w : Nat} {v : Option Nat} (takes : TakesGrant x kind) (demand : x.pf = false ∨ kind = 2)
    (way : chooseWay s.m b.val n.toNat x.lease = some (w, v)) : Completes i s (Filled s.m b.val n.toNat kind d p (some w)) := by
  refine grant_completes e runs held none_ on turn takes ?_ (fillsAt_way held takes demand ((chooseWay_takeMsg ..).trans way))
  simp [fillWaits, held, way]

theorem grant_fillsSide (st : x.st = .isD) (pf : x.pf = true) (clean : kind ≠ 2) :
    Completes i s (Filled s.m b.val n.toNat kind d p none) := by
  refine grant_completes e runs held none_ on turn (.inl st) ?_ (fillsAt_side held st pf clean)
  simp [fillWaits, held, pf, clean]

end

/-! ## Acknowledgements: GRANTM, WBACK, WBSTALE and those of units without lines -/

section
variable {m : Mach} {b n : Nat}

/-- An upgrade that is granted, of a line that no access waits for. -/
theorem benchGrant_upgrades {x : L2Line} (held : lineAt m b n = some x) (waits : x.st = .smA ∨ x.st = .omA) (mhz : Nat) :
    ∃ y : L2Line, y.st = .m ∧ benchGrant m b n mhz = send (setLine m b n y) (.done (homeOf m n) n b) := by
  refine ⟨{ x with st := .m, dirtyAt := some (x.dirtyAt.getD m.now), tenureEnd := some (m.now + tenureNs mhz), cause := none }, rfl, ?_⟩
  obtain st | st := waits <;> simp only [benchGrant, held, st]

theorem grantLine_upgrades {x : L2Line} (held : lineAt m b n = some x) (waits : x.st = .smA ∨ x.st = .omA) (on : (l2 m b).ctl = .enabled) :
    stAt (grantLine m b n id) b n = some .m ∧ .done (homeOf m n) n b ∈ (grantLine m b n id).mesh ∧ (grantLine m b n id).mem = m.mem := by
  obtain ⟨y, st', done⟩ := benchGrant_upgrades held waits (benchMhz m b)
  have on' : (l2 (setLine m b n y) b).ctl = .enabled := (setLine_benchKeeps m b n y).ctl.trans on
  have same : grantLine m b n id = send (setLine m b n y) (.done (homeOf m n) n b) := by
    obtain st | st := waits <;> simp [grantLine, stAt_of_line held, st, done, on']
  rw [same]
  refine ⟨?_, List.mem_append_right _ List.mem_cons_self, rfl⟩
  rw [← st']
  exact stAt_of_line (lineAt_setLine m b n y)

theorem benchWbAck_ends (leaves : stAt m b n = some .eiA ∨ stAt m b n = some .miA ∨ stAt m b n = some .oiA) :
    benchWbAck m b n = trackerFree (delLine m b n) b := by
  obtain st | st | st := leaves <;> simp only [benchWbAck, st]

end

section
variable {s : State} {n : LineNo} (runs : meshRuns s.m = true)
include runs

section
variable {b : BenchId}

theorem grantm_upgrades {x : L2Line} (held : lineAt s.m b.val n.toNat = some x) (waits : x.st = .smA ∨ x.st = .omA) (none_ : x.cause = none)
    (on : (l2 s.m b.val).ctl = .enabled) (turn : InTurn s.m (fun y => y == .ack (0x0500 + b.val) 4 n.toNat)) :
    Completes (.grantm b n) s (fun m =>
      stAt m b.val n.toNat = some .m ∧ .done (homeOf s.m n.toNat) n.toNat b.val ∈ m.mesh ∧ m.mem = s.m.mem) := by
  refine completes_runMesh (exec_grantm ..) runs ?_
  rw [arriveAck, arrive_of_inTurn turn, causeOf_takeMsg held, none_]
  exact grantLine_upgrades (m := takeMsg s.m _) held waits on

theorem wback_ends (leaves : stAt s.m b.val n.toNat = some .eiA ∨ stAt s.m b.val n.toNat = some .miA ∨ stAt s.m b.val n.toNat = some .oiA)
    (turn : InTurn s.m (fun y => y == .ack (0x0500 + b.val) 0 n.toNat)) :
    Completes (.wback b n) s (fun m => lineAt m b.val n.toNat = none ∧ m.mem = s.m.mem ∧ m.homes = s.m.homes) := by
  refine completes_runMesh (exec_wback ..) runs ?_
  rw [arriveAck, arrive_of_inTurn turn, benchWbAck_ends (by rwa [stAt_takeMsg])]
  have ⟨keeps, gone⟩ := trackerFree_keeps (lineAt_delLine (takeMsg s.m (fun y => y == .ack (0x0500 + b.val) 0 n.toNat)) b.val n.toNat)
  exact ⟨gone, keeps.mem, keeps.homes⟩

theorem wbstale_counts (handed : stAt s.m b.val n.toNat = some .iiA) (turn : InTurn s.m (fun y => y == .ack (0x0500 + b.val) 1 n.toNat)) :
    Completes (.wbstale b n) s (fun m => lineAt m b.val n.toNat = none ∧ (l2 m b.val).stale = sat 0xFFFF ((l2 s.m b.val).stale + 1) ∧
      m.mem = s.m.mem ∧ m.homes = s.m.homes) := by
  refine completes_runMesh (exec_wbstale ..) runs ?_
  rw [arriveAck, arrive_of_inTurn turn, benchWbStale, stAt_takeMsg, handed]
  have uncounted := lineAt_delLine (takeMsg s.m (fun y => y == .ack (0x0500 + b.val) 1 n.toNat)) b.val n.toNat
  have ⟨keeps, gone⟩ := trackerFree_keeps ((lineAt_modL2 (f := fun y => { y with stale := sat 0xFFFF (y.stale + 1) }) rfl).trans uncounted)
  refine ⟨gone, keeps.stale.trans ?_, keeps.mem, keeps.homes⟩
  rw [l2_modL2, (delLine_benchKeeps _ b.val n.toNat).stale]
  rfl

end

theorem iodata_leaves {src : Source} {d : Line} {p : Bool} {rest : List Msg} (mesh : s.m.mesh = .ioData src.toNat n.toNat d p :: rest) :
    exec (.iodata src n d p) s = .next { s with m := { s.m with mesh := rest } } := by
  rw [runMesh_next (exec_iodata s src n d p) runs, arrive_of_head mesh, id]

theorem ioack_leaves {src : Source} {rest : List Msg} (mesh : s.m.mesh = .ack src.toNat 2 n.toNat :: rest) :
    exec (.ioack src n) s = .next { s with m := { s.m with mesh := rest } } := by
  rw [runMesh_next (exec_ioack s src n) runs, arriveAck, arrive_of_head mesh, id]

/-- An acknowledgement to a unit that is no engine finds no operation that waits for it. -/
theorem mntack_leaves {src : Source} {rest : List Msg} (mesh : s.m.mesh = .ack src.toNat 3 n.toNat :: rest) (unit : 0x0440 ≤ src.toNat) :
    exec (.mntack src n) s = .next { s with m := { s.m with mesh := rest } } := by
  rw [runMesh_next (exec_mntack s src n) runs, arriveMntAck, arriveAck, arrive_of_head mesh]
  dsimp only
  rw [if_neg (Nat.not_lt.2 unit)]

end

/-- Settles O29: a grant fills a way or the side buffer by what asked for the line, and an acknowledgement ends what waits for it. -/
theorem grantsAndAcknowledgements : Obligations.GrantsAndAcknowledgements := by
  intro s n b runs
  refine ⟨fun x d p held none_ on => ⟨fun w v way => ⟨fun st pf => ⟨fun turn => ?_, fun turn => ?_⟩, fun st turn => ?_⟩,
      fun st pf => ⟨fun turn => ?_, fun turn => ?_⟩⟩,
    fun x held waits none_ on turn => grantm_upgrades runs held waits none_ on turn, wback_ends runs, wbstale_counts runs,
    fun src d p rest => ⟨iodata_leaves runs, ioack_leaves runs, mntack_leaves runs⟩⟩
  · exact grant_fillsWay (exec_datas ..) runs held none_ on turn (.inl st) (.inl pf) way
  · exact grant_fillsWay (exec_datae ..) runs held none_ on turn (.inl st) (.inl pf) way
  · exact grant_fillsWay (exec_datam ..) runs held none_ on turn (st.imp_right fun st => ⟨st, rfl⟩) (.inr rfl) way
  · exact grant_fillsSide (exec_datas ..) runs held none_ on turn st pf (by decide)
  · exact grant_fillsSide (exec_datae ..) runs held none_ on turn st pf (by decide)

end Sys2Proof.Machine
end
section
/-! Home nodes: what each operation of the home side leaves of the home that does it, and of the rest (R448, R464, R467). -/

namespace Sys2Proof.Machine

theorem tdel_of_unlisted {α : Type} {t : Tbl α} {k : Nat} (unlisted : tfind t k = none) : tdel t k = t := by
  induction t with
  | nil => rfl
  | cons p r ih =>
    rw [tfind] at unlisted
    split at unlisted
    · cases unlisted
    · next other =>
      rw [tdel, List.filter_cons_of_pos (by simpa using other)]
      exact congrArg (p :: ·) (ih unlisted)

theorem home_modHome_other {m : Mach} {h k : Nat} (other : k ≠ h) (f : Home → Home) : home (modHome m k f) h = home m h :=
  tget_tset_ne _ _ _ _ _ other

/-! ## One line's request, entry and L3 copy -/

section
variable (m : Mach) (h n : Nat)

@[simp] theorem home_send (x : Msg) : home (send m x) h = home m h := rfl
@[simp] theorem home_endRead : home (endRead m n) h = home m h := rfl
@[simp] theorem home_touch : home (touch m) h = home m h := rfl

@[simp] theorem home_setTxn (t : HTxn) : home (setTxn m h n t) h = { home m h with txns := tset (home m h).txns n t } := home_modHome ..

@[simp] theorem home_setDir (e : DirEnt) : home (setDir m h n e) h = { home m h with
    dir := if e.owner.isNone && e.sharers.isEmpty then tdel (home m h).dir n else tset (home m h).dir n e } := home_modHome ..

@[simp] theorem home_useL3 : home (useL3 m h n) h = { home m h with
    l3 := (home m h).l3.map (fun p => if p.1 = n then (p.1, { p.2 with lastUse := m.tick }) else p) } := home_modHome ..

@[simp] theorem home_homeStable : home (homeStable m h n) h = { home m h with txns := tdel (home m h).txns n } := home_modHome ..

@[simp] theorem home_dropL3 : home (dropL3 m h n) h = { home m h with l3 := tdel (home m h).l3 n } := by
  rw [dropL3]
  split
  · next gone => rw [tdel_of_unlisted gone]
  · split <;> simp

theorem tfind_home_setTxn (t : HTxn) : tfind (home (setTxn m h n t) h).txns n = some t := by simp

@[simp] theorem takeMsg_mem (p : Msg → Bool) : (takeMsg m p).mem = m.mem := rfl
@[simp] theorem takeMsg_l2 (p : Msg → Bool) : (takeMsg m p).l2 = m.l2 := rfl
@[simp] theorem home_takeMsg (p : Msg → Bool) : home (takeMsg m p) h = home m h := rfl
@[simp] theorem homeOf_takeMsg (p : Msg → Bool) : homeOf (takeMsg m p) n = homeOf m n := rfl
@[simp] theorem dirOf_takeMsg (p : Msg → Bool) : dirOf (takeMsg m p) h n = dirOf m h n := rfl
@[simp] theorem setTxn_mem (t : HTxn) : (setTxn m h n t).mem = m.mem := rfl
@[simp] theorem setTxn_l2 (t : HTxn) : (setTxn m h n t).l2 = m.l2 := rfl
@[simp] theorem setDir_mem (e : DirEnt) : (setDir m h n e).mem = m.mem := rfl
@[simp] theorem setDir_l2 (e : DirEnt) : (setDir m h n e).l2 = m.l2 := rfl
@[simp] theorem homeStable_cells : (homeStable m h n).mem.cells = m.mem.cells := rfl
@[simp] theorem homeStable_mesh : (homeStable m h n).mesh = m.mesh := rfl
@[simp] theorem homeStable_l2 : (homeStable m h n).l2 = m.l2 := rfl

@[simp] theorem dropL3_mem : (dropL3 m h n).mem = m.mem := by
  rw [dropL3]
  split
  · rfl
  · split <;> rfl

@[simp] theorem dropL3_l2 : (dropL3 m h n).l2 = m.l2 := by
  rw [dropL3]
  split
  · rfl
  · split <;> rfl

end

/-! ## The entry of a line (R448, R464) -/

section
variable (m : Mach) (h n : Nat) (e : DirEnt)

theorem dirOf_of_listed {m : Mach} {h n : Nat} {e : DirEnt} (listed : tfind (home m h).dir n = some e) : dirOf m h n = e := by
  rw [dirOf, tget, listed]
  rfl

theorem dirOf_of_unlisted {m : Mach} {h n : Nat} (unlisted : tfind (home m h).dir n = none) : (dirOf m h n).owner = none ∧ (dirOf m h n).sharers = [] := by
  rw [dirOf, tget, unlisted]
  exact ⟨rfl, rfl⟩

/-- A home that lists the same entries gives a line the same. -/
theorem dirOf_congr {m m' : Mach} {h : Nat} (dir : (home m' h).dir = (home m h).dir) (n : Nat) : dirOf m' h n = dirOf m h n := by
  rw [dirOf, dirOf, dir]

@[simp] theorem dirOf_setTxn (k : Nat) (t : HTxn) : dirOf (setTxn m h k t) h n = dirOf m h n := dirOf_congr (by simp) n
@[simp] theorem dirOf_dropL3 (k : Nat) : dirOf (dropL3 m h k) h n = dirOf m h n := dirOf_congr (by simp) n
@[simp] theorem dirOf_send (x : Msg) : dirOf (send m x) h n = dirOf m h n := rfl

/-- An entry is as it was written, or gone where it holds nobody. -/
theorem dirOf_setDir_holders : (dirOf (setDir m h n e) h n).owner = e.owner ∧ (dirOf (setDir m h n e) h n).sharers = e.sharers := by
  cases held : e.owner.isNone && e.sharers.isEmpty with
  | true =>
    have ⟨none_, empty⟩ : e.owner = none ∧ e.sharers = [] := by simpa using held
    rw [none_, empty]
    exact dirOf_of_unlisted (by simp [held])
  | false =>
    rw [dirOf_of_listed (e := e) (by simp [held])]
    exact ⟨rfl, rfl⟩

theorem dirOf_setDir_owned {o : Nat} (owned : e.owner = some o) : dirOf (setDir m h n e) h n = e := dirOf_of_listed (by simp [owned])

end

/-! ## A line that leaves its busy state where nothing waits (R454) -/

/-- A request has ended, and its line has no queue. -/
def requestEnded (m : Mach) (h n : Nat) : Mach := modHome (homeStable m h n) h (fun y => { y with queues := tdel y.queues n })

section
variable (m : Mach) (h n : Nat)

@[simp] theorem home_requestEnded : home (requestEnded m h n) h =
    { home m h with txns := tdel (home m h).txns n, queues := tdel (home m h).queues n } := by simp [requestEnded]

@[simp] theorem dirOf_requestEnded : dirOf (requestEnded m h n) h n = dirOf m h n := dirOf_congr (by simp) n
@[simp] theorem requestEnded_cells : (requestEnded m h n).mem.cells = m.mem.cells := rfl
@[simp] theorem requestEnded_l2 : (requestEnded m h n).l2 = m.l2 := rfl
@[simp] theorem requestEnded_mesh : (requestEnded m h n).mesh = m.mesh := rfl
@[simp] theorem requestEnded_mode : (requestEnded m h n).mode = m.mode := rfl

end

section
variable {m : Mach} {h n : Nat} (room : (home m h).waitDir = [])
include room

theorem dirRetry_of_empty : dirRetry m h = m := by rw [dirRetry, room]; rfl

theorem homeDrain_of_busy (busy : (tfind (home m h).txns n).isSome = true) : homeDrain m h n = m := by
  rw [homeDrain, homeQueue, homeNext, lineBusy, busy]
  exact dirRetry_of_empty room

theorem homeDrain_of_idle (idle : tfind (home m h).txns n = none) (queue : tget (home m h).queues n [] = []) :
    homeDrain m h n = modHome m h (fun y => { y with queues := tdel y.queues n }) := by
  have free : lineBusy (home m h) n = false := by simp [lineBusy, idle, room]
  have drained : homeQueue m h n = modHome m h (fun y => { y with queues := tdel y.queues n }) := by
    rw [homeQueue, homeNext, free, queue]
    rfl
  rw [homeDrain, drained, dirRetry_of_empty (by simpa using room)]

/-- A request ends, and no other waits for the line. -/
theorem homeDrain_homeStable (queue : tget (home m h).queues n [] = []) : homeDrain (homeStable m h n) h n = requestEnded m h n :=
  homeDrain_of_idle (by simpa using room) (by simp) (by simpa using queue)

end

end Sys2Proof.Machine
end
section
/-! Requests at their home: those of a busy line wait (R454), those of a stable line are served at once where there is room (R448, R449, R465). -/

namespace Sys2Proof.Machine

/-! ## Arrival -/

theorem homeFull_of_room {m : Mach} {h : Nat} (room : homeLoad (home m h) < 512) : homeFull m h = false := by
  have below : ¬ 512 ≤ homeLoad (home m h) := Nat.not_le.2 room
  simp [homeFull, below]

theorem arriveReq_of_room {m : Mach} {r : HReq} (room : homeLoad (home m (homeOf m r.n)) < 512) (turn : InTurn m (isReq r)) :
    arriveReq m r = homeReq (takeMsg m (isReq r)) (homeOf m r.n) r := by
  rw [arriveReq, homeFull_of_room room, arrive_of_inTurn turn]
  rfl

theorem homeReq_of_busy {m : Mach} {h : Nat} {r : HReq} {t : HTxn} (inService : (home m h).lost = false) (room : homeLoad (home m h) < 512)
    (busy : tfind (home m h).txns r.n = some t) :
    homeReq m h r = modHome m h (fun y => { y with queues := tset y.queues r.n (tget y.queues r.n [] ++ [r]) }) := by
  have below : ¬ 512 ≤ homeLoad (home m h) := Nat.not_le.2 room
  simp [homeReq, inService, below, lineBusy, busy]

/-- Settles O25: the home queues what comes for a line that it serves. -/
theorem requestsOfBusyLinesWait : Obligations.RequestsOfBusyLinesWait := by
  intro s n b l t runs h inService room busy waits
  have queued {c : Instr} {r : HReq} (line : r.n = n.toNat) (e : exec c s = runMesh s (fun m => arriveReq m r)) : waits c r := by
    intro turn
    subst h
    rw [← line] at inService room busy ⊢
    rw [runMesh_next e runs, arriveReq_of_room room turn, homeReq_of_busy (m := takeMsg s.m (isReq r)) inService room busy]
  exact ⟨queued rfl (exec_rds ..), queued rfl (exec_rdx ..), queued rfl (exec_upg ..), fun _ => queued rfl (exec_iord ..),
    fun _ _ _ _ => queued rfl (exec_iowr ..),
    fun _ _ _ => ⟨queued rfl (exec_mntc ..), queued rfl (exec_mnti ..), queued rfl (exec_mntci ..)⟩⟩

/-- Serving the request leaves no other waiting for room in the directory, and the machine as `P` says. -/
def ServesAs (r : HReq) (m : Mach) (h : Nat) (P : Mach → Prop) : Prop := (home (serveReq m h r) h).waitDir = [] ∧ P (serveReq m h r)

theorem servesAs_of_eq {m m' : Mach} {h : Nat} {r : HReq} {P : Mach → Prop} (served : serveReq m h r = m') (left : (home m' h).waitDir = [])
    (p : P m') : ServesAs r m h P := by
  rw [ServesAs, served]
  exact ⟨left, p⟩

/-- A request that its home serves at once: nothing else moves at the home. -/
theorem homeReq_of_servesAs {m : Mach} {r : HReq} {P : Mach → Prop} (serves : HomeServes m r.n) (as : ServesAs r m (homeOf m r.n) P) :
    P (homeReq m (homeOf m r.n) r) := by
  obtain ⟨inService, room, free, none_, fits⟩ := serves
  have below : ¬ 512 ≤ homeLoad (home m (homeOf m r.n)) := Nat.not_le.2 room
  have stable : lineBusy (home m (homeOf m r.n)) r.n = false := by simp [lineBusy, free, none_]
  have notFull : dirFull (home m (homeOf m r.n)) r = false := by
    obtain listed | space := fits
    · simp [dirFull, ← Option.not_isSome, listed]
    · have := Nat.not_le.2 space
      simp [dirFull, this]
  have served : homeReq m (homeOf m r.n) r = serveReq m (homeOf m r.n) r := by
    rw [homeReq]
    simp only [inService, below, stable, serveOrWait, notFull]
    exact dirRetry_of_empty as.1
  rw [served]
  exact as.2

theorem request_completes {i : Instr} {s : State} {n : LineNo} {P : Mach → Prop} (runs : meshRuns s.m = true) (serves : HomeServes s.m n.toNat)
    (r : HReq) (e : exec i s = runMesh s (fun m => arriveReq m r)) (line : r.n = n.toNat)
    (as : ServesAs r (takeMsg s.m (isReq r)) (homeOf s.m n.toNat) P) (turn : InTurn s.m (isReq r)) : Completes i s P := by
  rw [← line] at serves as
  refine completes_runMesh e runs ?_
  rw [arriveReq_of_room serves.2.1 turn]
  exact homeReq_of_servesAs serves as

end Sys2Proof.Machine
end
section
/-! Requests for a line that no bench holds, and for one that another bench owns (R464, R465, R473). -/

namespace Sys2Proof.Machine

/-! ## No bench holds the line, the L3 has a copy (column U) -/

/-- What needs the line's bytes where no bench holds it: a read, an upgrade, which the home takes as RdX, a write of a part. -/
def ReadsUnheld (r : HReq) : Prop :=
  r.op = .rdS ∨ r.op = .rdX ∨ r.op = .upg ∨ r.op = .ioRd ∨ r.op = .ioWr ∧ r.mask ≠ BitVec.allOnes 256

/-- A home serves a request: memory and the benches' lines are as they were. -/
theorem homeBusy_of_txn {m m' : Mach} {n : Nat} {r : HReq} {t : HTxn} (txn : tfind (home m' (homeOf m n)).txns n = some t) (req : t.req = r)
    (mem : m'.mem = m.mem) (l2 : m'.l2 = m.l2) : HomeBusy m m' n r t.st t.awaited :=
  ⟨⟨t, txn, req, rfl, rfl⟩, mem, l2⟩

section
variable {m : Mach} {h : Nat} {r : HReq} (unheld : tfind (home m h).dir r.n = none)
include unheld

theorem serveReq_of_readsUnheld (reads : ReadsUnheld r) :
    serveReq m h r = homeStartRead (setTxn m h r.n { freshTxn m r .hr with readPend := true }) h r := by
  obtain op | op | op | op | ⟨op, part⟩ := reads
  case inr.inr.inr.inr =>
    have notWhole := beq_eq_false_iff_ne.2 part
    simp only [serveReq, unheld, stableCode, op, notWhole]
    rfl
  all_goals simp [serveReq, unheld, stableCode, op]

theorem serveReq_ioWr_unheld (op : r.op = .ioWr) (whole : r.mask = BitVec.allOnes 256) :
    serveReq m h r = homeWrite m h (freshTxn m r .hw) r.data r.poison .ioAck false := by
  simp only [serveReq, unheld, stableCode, op, whole]
  rfl

theorem serveReq_mntC_unheld (op : r.op = .mntC) (clean : l3Dirty m h r.n = false) : serveReq m h r = homeAck m r := by
  simp [serveReq, unheld, stableCode, op, clean]

theorem serveReq_mntI_unheld (op : r.op = .mntI) : serveReq m h r = homeAck (dropL3 m h r.n) r := by
  simp [serveReq, unheld, stableCode, op]

theorem serveReq_mntCI_unheld (op : r.op = .mntCI) (clean : l3Dirty m h r.n = false) : serveReq m h r =
    homeStable (homeAck (dropL3 (setTxn m h r.n (freshTxn m r .hs)) h r.n) r) h r.n := by
  have clean' : l3Dirty (setTxn m h r.n (freshTxn m r .hs)) h r.n = false := by rwa [l3Dirty, home_setTxn]
  have resolved : homeResolve (setTxn m h r.n (freshTxn m r .hs)) h (freshTxn m r .hs) =
      homeStable (homeAck (dropL3 (setTxn m h r.n (freshTxn m r .hs)) h r.n) r) h r.n := by
    rw [homeResolve, show (freshTxn m r .hs).req = r from rfl, op]
    simp only [clean']
    rfl
  rw [← resolved]
  simp [serveReq, unheld, stableCode, op]

end

theorem l3Dirty_of_clean {m : Mach} {h n : Nat} {x : L3Line} (copy : tfind (home m h).l3 n = some x) (clean : x.dirty = false) :
    l3Dirty m h n = false := by
  rw [l3Dirty, copy]
  exact clean

theorem homeAck_of_mnt {r : HReq} (op : r.op = .mntC ∨ r.op = .mntI ∨ r.op = .mntCI) (m : Mach) : homeAck m r = send m (.ack r.src 3 r.n) := by
  obtain op | op | op := op <;> rw [homeAck, op]

/-! ## A write that goes to memory (R473) -/

/-- The reservations on a line that a unit writes, or that becomes 0, are cleared (R237). -/
def resvCleared (m : Mach) (r : HReq) : Mach := if r.op = .ioWr ∨ r.op = .zero then clearResv m r.n none else m

/-- The request while the memory takes its line (HW). -/
def memTxn (m : Mach) (t : HTxn) (d : Line) (poison : Bool) (after : HAfter) : HTxn :=
  { t with st := .hw, awaited := [], readPend := false, mirPend := false, newest := some (d, poison), toMem := true, after := after,
           deadline := m.now + 50000 }

section
variable (m : Mach) (r : HReq)

theorem resvCleared_cases : resvCleared m r = clearResv m r.n none ∨ resvCleared m r = m := ite_eq_or_eq ..

@[simp] theorem home_resvCleared (h : Nat) : home (resvCleared m r) h = home m h := by
  obtain e | e := resvCleared_cases m r <;> rw [e]
  rfl
@[simp] theorem dirOf_resvCleared (h n : Nat) : dirOf (resvCleared m r) h n = dirOf m h n := dirOf_congr (by simp) n
@[simp] theorem resvCleared_mem : (resvCleared m r).mem = m.mem := by
  obtain e | e := resvCleared_cases m r <;> rw [e]
  rfl
@[simp] theorem resvCleared_l2 : (resvCleared m r).l2 = m.l2 := by
  obtain e | e := resvCleared_cases m r <;> rw [e]
  rfl

end

theorem homeWrite_toMem {m : Mach} {h : Nat} {t : HTxn} {r : HReq} (req : t.req = r) (toMem : writesToMem m h r.n = true) (d : Line)
    (poison : Bool) (after : HAfter) :
    homeWrite m h t d poison after false = setTxn (resvCleared m r) h r.n (memTxn m t d poison after) := by
  subst req
  unfold homeWrite resvCleared
  split
  · have toMem' : writesToMem (clearResv m t.req.n none) h t.req.n = true := toMem
    simp only [toMem', Bool.or_true, if_true]
    rfl
  · simp only [toMem, Bool.or_true, if_true]
    rfl

/-- A line whose read is served by the home's L3. -/
theorem homeStartRead_of_copy {m : Mach} {h : Nat} {r : HReq} {x : L3Line} (copy : tfind (home m h).l3 r.n = some x) :
    homeStartRead m h r = useL3 m h r.n := by
  rw [homeStartRead, copy]
  rfl

/-- A maintenance request is acknowledged, and its line stands as it stood in memory and at the benches. -/
def MntAcked (m m' : Mach) (r : HReq) : Prop :=
  .ack r.src 3 r.n ∈ m'.mesh ∧ tfind (home m' (homeOf m r.n)).txns r.n = none ∧ m'.mem.cells = m.mem.cells ∧ m'.l2 = m.l2

section
variable {m : Mach} {p : Msg → Bool} {r : HReq} (none_ : (home m (homeOf m r.n)).waitDir = [])
  (unheld : tfind (home m (homeOf m r.n)).dir r.n = none)
include none_ unheld

theorem servesAs_read {x : L3Line} (copy : tfind (home m (homeOf m r.n)).l3 r.n = some x) (reads : ReadsUnheld r) :
    ServesAs r (takeMsg m p) (homeOf m r.n) (fun m' => HomeBusy m m' r.n r .hr []) := by
  have served := serveReq_of_readsUnheld (m := takeMsg m p) unheld reads
  rw [homeStartRead_of_copy (x := x) (by simpa using copy)] at served
  exact servesAs_of_eq served (by simpa using none_)
    (homeBusy_of_txn (t := { freshTxn (takeMsg m p) r .hr with readPend := true }) (by simp) rfl rfl rfl)

/-- A whole line written by a unit goes to memory where the home keeps no dirty lines (R473). -/
theorem servesAs_write (op : r.op = .ioWr) (whole : r.mask = BitVec.allOnes 256) (toMem : writesToMem m (homeOf m r.n) r.n = true) :
    ServesAs r (takeMsg m p) (homeOf m r.n) (fun m' => HomeBusy m m' r.n r .hw [] ∧
      ∃ t, tfind (home m' (homeOf m r.n)).txns r.n = some t ∧ t.newest = some (r.data, r.poison) ∧ t.toMem = true) := by
  have served := serveReq_ioWr_unheld (m := takeMsg m p) unheld op whole
  rw [homeWrite_toMem (m := takeMsg m p) (t := freshTxn (takeMsg m p) r .hw) (r := r) rfl toMem] at served
  refine servesAs_of_eq served (by simpa using none_)
    ⟨homeBusy_of_txn (t := memTxn (takeMsg m p) (freshTxn (takeMsg m p) r .hw) r.data r.poison .ioAck) ?_ rfl ?_ ?_, _, tfind_home_setTxn .., rfl, rfl⟩
  · exact tfind_home_setTxn ..
  all_goals simp

/-- A clean line is as memory holds it: maintenance has nothing to write. -/
theorem servesAs_mntC (free : tfind (home m (homeOf m r.n)).txns r.n = none) (op : r.op = .mntC) (clean : l3Dirty m (homeOf m r.n) r.n = false) :
    ServesAs r (takeMsg m p) (homeOf m r.n) (fun m' => MntAcked m m' r ∧ m'.homes = m.homes) := by
  have served := serveReq_mntC_unheld (m := takeMsg m p) unheld op clean
  rw [homeAck_of_mnt (.inl op)] at served
  exact servesAs_of_eq served none_ ⟨⟨by simp, free, rfl, rfl⟩, rfl⟩

theorem servesAs_mntI (free : tfind (home m (homeOf m r.n)).txns r.n = none) (op : r.op = .mntI) :
    ServesAs r (takeMsg m p) (homeOf m r.n) (fun m' => MntAcked m m' r ∧ tfind (home m' (homeOf m r.n)).l3 r.n = none) := by
  have served := serveReq_mntI_unheld (m := takeMsg m p) unheld op
  rw [homeAck_of_mnt (.inr (.inl op))] at served
  refine servesAs_of_eq served (by simpa using none_) ⟨⟨?_, by simpa using free, ?_, ?_⟩, ?_⟩
  all_goals simp

theorem servesAs_mntCI (op : r.op = .mntCI) (clean : l3Dirty m (homeOf m r.n) r.n = false) :
    ServesAs r (takeMsg m p) (homeOf m r.n) (fun m' => MntAcked m m' r ∧ tfind (home m' (homeOf m r.n)).l3 r.n = none) := by
  have served := serveReq_mntCI_unheld (m := takeMsg m p) unheld op clean
  rw [homeAck_of_mnt (.inr (.inr op))] at served
  refine servesAs_of_eq served (by simpa using none_) ⟨⟨?_, ?_, ?_, ?_⟩, ?_⟩
  all_goals simp

end

/-- Settles O22: by what the request asks of the home's own side, which alone has the line. -/
theorem requestsOfUnheldLines : Obligations.RequestsOfUnheldLines := by
  intro s n b l src x runs fits h copy unheld serves reads
  obtain ⟨-, -, free, none_, -⟩ := id fits
  have row {c : Instr} {P : Mach → Prop} := request_completes (i := c) (P := P) runs fits
  refine ⟨?_, ?_, ?_, ?_, fun mask d p part => ?_, fun d p toMem => ?_, fun self incl clean => ⟨?_, ?_, ?_⟩⟩
  · exact row _ (exec_rds ..) rfl (servesAs_read none_ unheld copy (.inl rfl))
  · exact row _ (exec_rdx ..) rfl (servesAs_read none_ unheld copy (.inr (.inl rfl)))
  · exact row _ (exec_upg ..) rfl (servesAs_read none_ unheld copy (.inr (.inr (.inl rfl))))
  · exact row _ (exec_iord ..) rfl (servesAs_read none_ unheld copy (.inr (.inr (.inr (.inl rfl)))))
  · exact row _ (exec_iowr ..) rfl (servesAs_read none_ unheld copy (.inr (.inr (.inr (.inr ⟨rfl, part⟩)))))
  · exact row _ (exec_iowr ..) rfl (servesAs_write none_ unheld rfl rfl toMem)
  · exact row _ (exec_mntc ..) rfl (servesAs_mntC none_ unheld free rfl (l3Dirty_of_clean copy clean))
  · exact row _ (exec_mnti ..) rfl (servesAs_mntI none_ unheld free rfl)
  · exact row _ (exec_mntci ..) rfl (servesAs_mntCI none_ unheld rfl (l3Dirty_of_clean copy clean))

/-! ## Another bench owns the line (column X) -/

/-- The snoop that the home sends to the owner; none for what column X answers otherwise. -/
def snoopInX (r : HReq) : Option SnpOp :=
  match r.op with
  | .rdS | .ioRd => some .snpS
  | .rdX | .upg | .mntCI => some .snpX
  | .mntC => some .snpCln
  | .mntI => some .snpDrop
  | .ioWr => some (if r.mask = BitVec.allOnes 256 then .snpDrop else .snpX)
  | .wbM | .evE | .dirEvict | .zero | .rebuild => none

/-- A snoop says whether a maintenance request asks for it (R462). -/
def asksMaint (r : HReq) : Bool := r.op == .mntC || r.op == .mntI || r.op == .mntCI

section
variable {m : Mach} {h o : Nat} {r : HReq}

/-- A round of one snoop, to a bench that did not ask. -/
theorem snoopRound_one (op : SnpOp) (other : r.src ≠ 0x0500 + o) (self : r.self = false) : snoopRound m h r op [o] false false =
    send (setTxn m h r.n { freshTxn m r .hs with awaited := [o], sent := op }) (.snp o op r.n (asksMaint r) r.incl) := by
  have asked : (r.src != 0x0500 + o) = true := by simpa using other
  simp [snoopRound, self, asked, sendSnoops, asksMaint, freshTxn]

theorem serveReq_of_owned {e : DirEnt} {op : SnpOp} (entry : tfind (home m h).dir r.n = some e) (owner : e.owner = some o)
    (exclusive : e.ownerO = false) (alone : e.sharers = []) (stranger : r.op = .upg → o ≠ r.src - 0x0500) (column : snoopInX r = some op) :
    serveReq m h r = snoopRound m h r op [o] false false := by
  have st : stableCode (some e) = 3 := by simp [stableCode, owner, exclusive]
  have snooped : holders e = [o] := by simp [holders, owner, alone]
  unfold snoopInX at column
  cases asks : r.op <;> simp only [asks, reduceCtorEq] at column
  all_goals
    obtain rfl := Option.some.inj column
    simp only [serveReq, dirOf_of_listed entry, entry, st, asks, owner, snooped]
  case upg =>
    rw [if_neg fun own => stranger asks (Option.some.inj own)]
    rfl
  case ioWr =>
    simp only [beq_iff_eq]
    rfl
  all_goals rfl

end

theorem servesAs_snoop {m : Mach} {p : Msg → Bool} {o : Nat} {r : HReq} {e : DirEnt} {op : SnpOp} (none_ : (home m (homeOf m r.n)).waitDir = [])
    (entry : tfind (home m (homeOf m r.n)).dir r.n = some e) (owner : e.owner = some o) (exclusive : e.ownerO = false) (alone : e.sharers = [])
    (other : r.src ≠ 0x0500 + o) (self : r.self = false) (stranger : r.op = .upg → o ≠ r.src - 0x0500) (column : snoopInX r = some op) :
    ServesAs r (takeMsg m p) (homeOf m r.n) (fun m' => HomeBusy m m' r.n r .hs [o] ∧ .snp o op r.n (asksMaint r) r.incl ∈ m'.mesh) := by
  have served := serveReq_of_owned (m := takeMsg m p) entry owner exclusive alone stranger column
  rw [snoopRound_one _ other self] at served
  exact servesAs_of_eq served (by simpa using none_)
    ⟨homeBusy_of_txn (tfind_home_setTxn (takeMsg m p) (homeOf m r.n) r.n _) rfl rfl rfl, List.mem_append_right _ List.mem_cons_self⟩

/-- Settles O23: by column X, row by row. -/
theorem requestsOfOwnedLines : Obligations.RequestsOfOwnedLines := by
  intro s n b l src e o runs fits entry owner exclusive alone other unit snoops
  obtain ⟨-, -, -, none_, -⟩ := id fits
  have row {c : Instr} {op : SnpOp} (r : HReq) (ex : exec c s = runMesh s (fun m => arriveReq m r)) (line : r.n = n.toNat)
      (asker : r.src ≠ 0x0500 + o) (self : r.self = false) (stranger : r.op = .upg → o ≠ r.src - 0x0500) (column : snoopInX r = some op) :
      snoops c r op (asksMaint r) r.incl := by
    refine request_completes runs fits r ex line ?_
    rw [← line] at none_ entry ⊢
    exact servesAs_snoop none_ entry owner exclusive alone asker self stranger column
  have bench : 0x0500 + b.val ≠ 0x0500 + o := fun same => other (Nat.add_left_cancel same)
  have upgrader : o ≠ 0x0500 + b.val - 0x0500 := by omega
  exact ⟨row _ (exec_rds ..) rfl bench rfl nofun rfl, row _ (exec_rdx ..) rfl bench rfl nofun rfl,
    row _ (exec_upg ..) rfl bench rfl (fun _ => upgrader) rfl, row _ (exec_iord ..) rfl unit rfl nofun rfl,
    fun mask d p => row _ (exec_iowr ..) rfl unit rfl nofun rfl,
    fun incl => ⟨row _ (exec_mntc ..) rfl unit rfl nofun rfl, row _ (exec_mnti ..) rfl unit rfl nofun rfl,
      row _ (exec_mntci ..) rfl unit rfl nofun rfl⟩⟩

end Sys2Proof.Machine
end
section
/-! Upgrades and evictions at the home (R465, R467, R469, R489). -/

namespace Sys2Proof.Machine

/-! ## An upgrade of the only sharer -/

/-- The request of an upgrade whose requester holds the line, and nobody else: no snoop is awaited. -/
def upgTxn (m : Mach) (r : HReq) : HTxn := { freshTxn m r .hs with sent := .snpX, upgHolder := true }

section
variable {m : Mach} {h b : Nat} {r : HReq} {e : DirEnt} (op : r.op = .upg) (src : r.src = 0x0500 + b) (self : r.self = false)
  (entry : tfind (home m h).dir r.n = some e) (owner : e.owner = none) (alone : e.sharers = [b])
include op src self entry owner alone

theorem serveReq_upg_alone : serveReq m h r = homeResolve (setTxn m h r.n (upgTxn m r)) h (upgTxn m r) := by
  have st : stableCode (some e) = 2 := by simp [stableCode, owner, alone]
  have holds : r.src - 0x0500 = b := by omega
  have nobody : [b].filter (fun k => r.src != 0x0500 + k) = [] := by simp [src]
  have round : snoopRound m h r .snpX [b] false true = homeResolve (setTxn m h r.n (upgTxn m r)) h (upgTxn m r) := by
    simp only [snoopRound, self, Bool.false_eq_true, if_false, nobody, op]
    rfl
  rw [← round]
  simp [serveReq, dirOf_of_listed entry, entry, st, op, holds, alone]

omit self owner alone in
/-- The grant: the requester is the owner, and the home has no copy and awaits Done (R467). -/
theorem homeResolve_upg : ∃ t : HTxn, t.req = r ∧ t.st = .hd ∧ t.awaited = [] ∧ homeResolve (setTxn m h r.n (upgTxn m r)) h (upgTxn m r) =
    send (setTxn (dropL3 (setDir (setTxn m h r.n (upgTxn m r)) h r.n { e with owner := some b, ownerO := false, sharers := [], lease := r.lease }) h r.n)
      h r.n t) (.ack r.src 4 r.n) := by
  have holds : r.src - 0x0500 = b := by omega
  have held : dirOf (setTxn m h r.n (upgTxn m r)) h r.n = e := by rw [dirOf_setTxn, dirOf_of_listed entry]
  simp only [homeResolve, show (upgTxn m r).req = r from rfl, op, holds, held]
  exact ⟨_, rfl, rfl, rfl, rfl⟩

end

theorem servesAs_upg {m : Mach} {p : Msg → Bool} {b : Nat} {r : HReq} {e : DirEnt} (none_ : (home m (homeOf m r.n)).waitDir = [])
    (op : r.op = .upg) (src : r.src = 0x0500 + b) (self : r.self = false) (entry : tfind (home m (homeOf m r.n)).dir r.n = some e)
    (owner : e.owner = none) (alone : e.sharers = [b]) :
    ServesAs r (takeMsg m p) (homeOf m r.n) (fun m' => HomeBusy m m' r.n r .hd [] ∧ .ack r.src 4 r.n ∈ m'.mesh ∧
      (dirOf m' (homeOf m r.n) r.n).owner = some b ∧ (dirOf m' (homeOf m r.n) r.n).sharers = []) := by
  have served := serveReq_upg_alone (m := takeMsg m p) op src self entry owner alone
  obtain ⟨t, req, st, awaited, granted⟩ := homeResolve_upg (m := takeMsg m p) op src entry
  rw [granted] at served
  refine servesAs_of_eq served (by simpa using none_) ⟨⟨⟨t, ?_, req, st, awaited⟩, ?_, ?_⟩, List.mem_append_right _ List.mem_cons_self, ?_⟩
  · exact tfind_home_setTxn ..
  · simp
  · simp
  · rw [dirOf_send, dirOf_setTxn, dirOf_dropL3]
    exact dirOf_setDir_holders ..

/-! ## An eviction reaches the home -/

/-- The request of an eviction notice. -/
def evictReqOf (op : ReqOp) (n b ls : Nat) (d : Line) (p : Bool) : HReq :=
  { op := op, n := n, src := 0x0500 + b, lease := ls, self := false, incl := false, mask := 0, data := d, poison := p }

/-- The notice carries the lease that its sender put there. -/
theorem evict_completes {i : Instr} {s : State} {op : ReqOp} {n : LineNo} {b : Nat} {d : Line} {p : Bool} {P : Mach → Prop}
    (runs : meshRuns s.m = true) (serves : HomeServes s.m n.toNat) (e : exec i s = runMesh s (fun m => arriveEvict m op n.toNat b d p))
    (turn : InTurn s.m (isEvict op n.toNat b d p))
    (as : ∀ ls, ServesAs (evictReqOf op n.toNat b ls d p) (takeMsg s.m (isEvict op n.toNat b d p)) (homeOf s.m n.toNat) P) : Completes i s P := by
  refine completes_runMesh e runs ?_
  rw [arriveEvict, homeFull_of_room serves.2.1, arrive_of_inTurn turn]
  exact homeReq_of_servesAs (m := takeMsg s.m (isEvict op n.toNat b d p)) (r := evictReqOf op n.toNat b _ d p) serves (as _)

/-! ## What the home does with it -/

section
variable {m : Mach} {h b : Nat} {r : HReq}

/-- What a bench evicts that owns nothing of the line is stale (R469). -/
theorem serveReq_stale (op : r.op = .wbM ∨ r.op = .evE) (stranger : (dirOf m h r.n).owner ≠ some (r.src - 0x0500)) : serveReq m h r =
    send (modHome m h (fun x => { x with staleN := sat 0xFFFF (x.staleN + 1) })) (.ack r.src 1 r.n) := by
  obtain op | op := op <;> simp [serveReq, op, stranger]

theorem serveReq_wbM (op : r.op = .wbM) (owner : (dirOf m h r.n).owner = some (r.src - 0x0500)) : serveReq m h r =
    homeWrite (setDir m h r.n { dirOf m h r.n with owner := none, ownerO := false }) h (freshTxn m r .hw) r.data r.poison .wbAck false := by
  simp [serveReq, op, owner]

/-- A clean line goes to the L3 where that takes it, and nobody owns it. -/
theorem serveReq_evE {e : DirEnt} (op : r.op = .evE) (entry : tfind (home m h).dir r.n = some e) (owner : e.owner = some (r.src - 0x0500))
    (exclusive : e.ownerO = false) : serveReq m h r =
    send (setDir (if l3Takes m h r.n then putL3 m h r.n r.data r.poison false else m) h r.n { e with owner := none }) (.ack r.src 0 r.n) := by
  have st : stableCode (some e) = 3 := by simp [stableCode, owner, exclusive]
  simp [serveReq, op, dirOf_of_listed entry, entry, owner, st, homeAck]

/-- What decides where a write goes is not in the directory. -/
theorem writesToMem_setDir (n : Nat) (e : DirEnt) : writesToMem (setDir m h n e) h n = writesToMem m h n := by
  have ways (g : Nat) : (home (setDir m h n e) g).pairWays = (home m g).pairWays := by
    by_cases same : g = h
    · rw [same, home_setDir]
    · rw [setDir, home_modHome_other (Ne.symm same)]
  simp only [writesToMem, foreignShare, ways, home_setDir]
  rfl

/-- A copy that the L3 has already is replaced in its way. -/
theorem putL3_of_copy {n : Nat} {x : L3Line} (copy : tfind (home m h).l3 n = some x) (d : Line) (poison : Bool) :
    ∃ y : L3Line, y.data = d ∧ y.poison = poison ∧ y.dirty = false ∧
      putL3 m h n d poison false = modHome (touch m) h (fun z => { z with l3 := tset z.l3 n y }) := by
  rw [putL3]
  simp only [copy]
  exact ⟨_, rfl, rfl, rfl, rfl⟩

end

section
variable {m : Mach} {p : Msg → Bool} {r : HReq} (none_ : (home m (homeOf m r.n)).waitDir = [])
include none_

theorem servesAs_stale (op : r.op = .wbM ∨ r.op = .evE) (stranger : (dirOf m (homeOf m r.n) r.n).owner ≠ some (r.src - 0x0500)) :
    ServesAs r (takeMsg m p) (homeOf m r.n) (fun m' => .ack r.src 1 r.n ∈ m'.mesh ∧
      (home m' (homeOf m r.n)).staleN = sat 0xFFFF ((home m (homeOf m r.n)).staleN + 1) ∧ m'.mem = m.mem ∧ m'.l2 = m.l2) := by
  refine servesAs_of_eq (serveReq_stale (m := takeMsg m p) op stranger) (by simpa using none_) ⟨?_, ?_, rfl, rfl⟩
  all_goals simp

theorem servesAs_wbM (op : r.op = .wbM) (owner : (dirOf m (homeOf m r.n) r.n).owner = some (r.src - 0x0500))
    (toMem : writesToMem m (homeOf m r.n) r.n = true) :
    ServesAs r (takeMsg m p) (homeOf m r.n) (fun m' => (dirOf m' (homeOf m r.n) r.n).owner = none ∧ m'.mem = m.mem ∧ m'.l2 = m.l2 ∧
      ∃ t, tfind (home m' (homeOf m r.n)).txns r.n = some t ∧ t.st = .hw ∧ t.newest = some (r.data, r.poison) ∧ t.toMem = true ∧ t.after = .wbAck) := by
  have served := serveReq_wbM (m := takeMsg m p) op owner
  have unowned := dirOf_setDir_holders (takeMsg m p) (homeOf m r.n) r.n { dirOf m (homeOf m r.n) r.n with owner := none, ownerO := false }
  rw [homeWrite_toMem (t := freshTxn (takeMsg m p) r .hw) (r := r) rfl ((writesToMem_setDir (m := takeMsg m p) ..).trans toMem)] at served
  refine servesAs_of_eq served (by simpa using none_) ⟨?_, by simp, by simp, _, tfind_home_setTxn .., rfl, rfl, rfl, rfl⟩
  rw [dirOf_setTxn, dirOf_resvCleared]
  exact unowned.1

section
variable {e : DirEnt} (op : r.op = .evE) (entry : tfind (home m (homeOf m r.n)).dir r.n = some e) (owner : e.owner = some (r.src - 0x0500))
  (exclusive : e.ownerO = false) (alone : e.sharers = [])
include op entry owner exclusive alone

/-- An L3 that is off takes no line. -/
theorem servesAs_evE_off (off : (home m (homeOf m r.n)).ctl ≠ .enabled) :
    ServesAs r (takeMsg m p) (homeOf m r.n) (fun m' => .ack r.src 0 r.n ∈ m'.mesh ∧ tfind (home m' (homeOf m r.n)).dir r.n = none ∧
      m'.mem = m.mem ∧ m'.l2 = m.l2) := by
  have takes : l3Takes (takeMsg m p) (homeOf m r.n) r.n = false := by simp [l3Takes, off]
  have served := serveReq_evE (m := takeMsg m p) op entry owner exclusive
  rw [takes, if_neg Bool.false_ne_true] at served
  exact servesAs_of_eq served (by simpa using none_) ⟨by simp, by simp [alone], rfl, rfl⟩

theorem servesAs_evE_copy {x : L3Line} (takes : l3Takes m (homeOf m r.n) r.n = true) (copy : tfind (home m (homeOf m r.n)).l3 r.n = some x) :
    ServesAs r (takeMsg m p) (homeOf m r.n) (fun m' => .ack r.src 0 r.n ∈ m'.mesh ∧ tfind (home m' (homeOf m r.n)).dir r.n = none ∧
      m'.mem = m.mem ∧ m'.l2 = m.l2 ∧
      ∃ y, tfind (home m' (homeOf m r.n)).l3 r.n = some y ∧ y.data = r.data ∧ y.poison = r.poison ∧ y.dirty = false) := by
  obtain ⟨y, data, poison, clean, placed⟩ := putL3_of_copy (m := takeMsg m p) copy r.data r.poison
  have served := serveReq_evE (m := takeMsg m p) op entry owner exclusive
  rw [show l3Takes (takeMsg m p) (homeOf m r.n) r.n = true from takes, if_pos rfl, placed] at served
  exact servesAs_of_eq served (by simpa using none_) ⟨by simp, by simp [alone], rfl, rfl, y, by simp, data, poison, clean⟩

end

end

/-- Settles O24: by what the home's entry says of the bench. -/
theorem upgradesAndEvictions : Obligations.UpgradesAndEvictions := by
  intro s n b l runs fits h ack
  obtain ⟨-, -, -, none_, -⟩ := id fits
  have sender : 0x0500 + b.val - 0x0500 = b.val := Nat.add_sub_cancel_left ..
  refine ⟨fun e entry owner alone => request_completes runs fits _ (exec_upg ..) rfl (servesAs_upg none_ rfl rfl rfl entry owner alone),
    fun d p turn => ⟨fun e entry owner toMem => ?_, fun stranger => ?_⟩,
    fun d p turn => ⟨fun e entry owner exclusive alone => ⟨fun off => ?_, fun x takes copy => ?_⟩, fun stranger => ?_⟩⟩
  case refine_1 =>
    have owns : (dirOf s.m h n.toNat).owner = some (0x0500 + b.val - 0x0500) := by rw [dirOf_of_listed entry, owner, sender]
    exact evict_completes runs fits (exec_wbm ..) turn fun ls => servesAs_wbM (r := evictReqOf .wbM n.toNat b.val ls d p) none_ rfl owns toMem
  case refine_2 =>
    rw [← sender] at stranger
    exact evict_completes runs fits (exec_wbm ..) turn fun ls => servesAs_stale (r := evictReqOf .wbM n.toNat b.val ls d p) none_ (.inl rfl) stranger
  case refine_3 =>
    rw [← sender] at owner
    exact evict_completes runs fits (exec_eve ..) turn fun ls =>
      servesAs_evE_off (r := evictReqOf .evE n.toNat b.val ls d p) none_ rfl entry owner exclusive alone off
  case refine_4 =>
    rw [← sender] at owner
    exact evict_completes runs fits (exec_eve ..) turn fun ls =>
      servesAs_evE_copy (r := evictReqOf .evE n.toNat b.val ls d p) none_ rfl entry owner exclusive alone takes copy
  case refine_5 =>
    rw [← sender] at stranger
    exact evict_completes runs fits (exec_eve ..) turn fun ls => servesAs_stale (r := evictReqOf .evE n.toNat b.val ls d p) none_ (.inr rfl) stranger

end Sys2Proof.Machine
end
section
/-! Snoops at a bench (R456, R460). -/

namespace Sys2Proof.Machine

/-! ## An answer leaves for the line's home -/

/-- A bench has answered a snoop: the line's state after it, and the response, with the line's bytes where it carries data. Memory and the homes
are as they were. -/
def SnoopAnswered (m m' : Mach) (b n : Nat) (x : L2Line) (st : Option CohSt) (kind : Nat) (data : Bool) : Prop :=
  stAt m' b n = st ∧ m'.mem = m.mem ∧ m'.homes = m.homes ∧
    .rsp (homeOf m n) kind n b (if data then some (x.data, x.poison) else none) ∈ m'.mesh

/-- The state in which each snoop leaves a line, the kind of the response, and whether it carries data (R460); a transient line is not
spoken of. -/
def snoopAnswer : CohSt → SnpOp → Option (Option CohSt × Nat × Bool)
  | .s, .snpS | .s, .snpCln => some (some .s, 1, false)
  | .s, .snpX => some (none, 0, false)
  | .e, .snpS => some (some .s, 5, true)
  | .e, .snpCln => some (some .e, 1, false)
  | .e, .snpX => some (none, 3, true)
  | .o, .snpS => some (some .o, 4, true)
  | .o, .snpCln => some (some .s, 6, true)
  | .m, .snpS => some (some .o, 4, true)
  | .m, .snpCln => some (some .e, 7, true)
  | .o, .snpX | .m, .snpX => some (none, 2, true)
  | .s, .snpDrop | .e, .snpDrop | .o, .snpDrop | .m, .snpDrop => some (none, 0, false)
  | _, _ => none

section
variable {m m' : Mach} {b n : Nat} {x : L2Line}

theorem dropL1I_benchKeeps (m : Mach) (b n : Nat) : BenchKeeps b m (dropL1I m b n) := ⟨rfl, rfl, rfl, rfl, rfl, rfl⟩

theorem snoopAnswered_of_rsp {st : Option CohSt} (keeps : BenchKeeps b m m') (line : stAt m' b n = st) (kind : Nat) (data : Bool) :
    SnoopAnswered m (benchRsp m' b n kind (if data then some (x.data, x.poison) else none)) b n x st kind data :=
  ⟨line, keeps.mem, keeps.homes, by rw [← keeps.homeOf n]; exact List.mem_append_right _ List.mem_cons_self⟩

theorem snoopAnswered_gone (kind : Nat) (data : Bool) :
    SnoopAnswered m (benchRsp (delLine (dropL1 m b n) b n) b n kind (if data then some (x.data, x.poison) else none)) b n x none kind data :=
  snoopAnswered_of_rsp ((dropL1_benchKeeps m b n).trans (delLine_benchKeeps _ b n)) (by rw [stAt, lineAt_delLine]; rfl) kind data

theorem snoopAnswered_kept {y : L2Line} (keeps : BenchKeeps b m m') (kind : Nat) (data : Bool) :
    SnoopAnswered m (benchRsp (setLine m' b n y) b n kind (if data then some (x.data, x.poison) else none)) b n x (some y.st) kind data :=
  snoopAnswered_of_rsp (keeps.trans (setLine_benchKeeps ..)) (stAt_of_line (lineAt_setLine ..)) kind data

theorem answerSnoop_answers {op : SnpOp} {f g : Bool} {st : Option CohSt} {kind : Nat} {data : Bool} (held : lineAt m b n = some x)
    (unlocked : wayLocked (l2 m b) x.way = false) (row : snoopAnswer x.st op = some (st, kind, data)) :
    SnoopAnswered m (answerSnoop m b n op f g) b n x st kind data := by
  have same : stAt m b n = some x.st := stAt_of_line held
  unfold answerSnoop
  simp only [held, unlocked, Bool.false_and, Bool.false_eq_true, if_false]
  cases was : x.st <;> cases op <;> simp only [was, snoopAnswer, reduceCtorEq, Option.some.injEq, Prod.mk.injEq] at row
  all_goals
    obtain ⟨rfl, rfl, rfl⟩ := row
    rw [was] at same
    dsimp only
  -- the bench keeps the line as it is
  case s.snpS => exact snoopAnswered_of_rsp (x := x) (.refl m) same 1 false
  case s.snpCln | e.snpCln => exact snoopAnswered_of_rsp (x := x) (dropL1I_benchKeeps m b n) same 1 false
  case o.snpS => exact snoopAnswered_of_rsp (x := x) (.refl m) same 4 true
  -- the bench keeps the line in another state
  case e.snpS => exact snoopAnswered_kept (.refl m) 5 true
  case m.snpS => exact snoopAnswered_kept (.refl m) 4 true
  case o.snpCln => exact snoopAnswered_kept (dropL1I_benchKeeps m b n) 6 true
  case m.snpCln => exact snoopAnswered_kept (dropL1I_benchKeeps m b n) 7 true
  -- the bench gives the line up
  all_goals exact snoopAnswered_gone _ _

end

/-! ## A snoop arrives: it is answered, or kept through a tenure -/

theorem benchSnoop_answers {m : Mach} {b n : Nat} {x : L2Line} {op : SnpOp} {f g : Bool} {st : Option CohSt} {kind : Nat} {data : Bool}
    (held : lineAt m b n = some x) (unlocked : wayLocked (l2 m b) x.way = false) (now : op = .snpX ∨ op = .snpDrop → inTenure m x = false)
    (row : snoopAnswer x.st op = some (st, kind, data)) : SnoopAnswered m (benchSnoop m b n op f g) b n x st kind data := by
  have answers : (inTenure m x && (x.st == .e || x.st == .m) && (op == .snpX || op == .snpDrop)) = false := by
    cases op
    case snpX | snpDrop => simp [now]
    all_goals simp
  rw [benchSnoop]
  simp only [held, answers, Bool.false_eq_true, if_false]
  exact answerSnoop_answers (m := modL2 m b _) ((lineAt_modL2 rfl).trans held) (by rwa [l2_modL2]) row

/-- The first line of a table that has the key is the one that is found. -/
theorem tfind_map_at {α : Type} {n : Nat} {x : α} {f : α → α} {t : Tbl α} (held : tfind t n = some x) :
    tfind (t.map (fun p => if p.1 = n then (p.1, f p.2) else p)) n = some (f x) := by
  induction t with
  | nil => cases held
  | cons p r ih =>
    rw [tfind] at held
    by_cases at_ : p.1 = n
    · rw [if_pos at_] at held
      obtain rfl := Option.some.inj held
      simp [tfind, at_]
    · rw [if_neg at_] at held
      simpa [tfind, at_] using ih held

/-- The L2 keeps a snoop of a line, and counts it. -/
def snoopKept (n : Nat) (op : SnpOp) (f g : Bool) (y : L2St) : L2St :=
  { y with
    deferredN := sat 0xFFFF (y.deferredN + 1)
    lines := y.lines.map (fun p => if p.1 = n then (p.1, { p.2 with deferred := some (op, f, g) }) else p) }

theorem benchSnoop_defers {m : Mach} {b n : Nat} {x : L2Line} {op : SnpOp} {f g : Bool} (held : lineAt m b n = some x)
    (runs : inTenure m x = true) (st : x.st = .e ∨ x.st = .m) (takes : op = .snpX ∨ op = .snpDrop) :
    benchSnoop m b n op f g = modL2 m b (snoopKept n op f g) := by
  have waits : (inTenure m x && (x.st == .e || x.st == .m) && (op == .snpX || op == .snpDrop)) = true := by simp [runs, st, takes]
  rw [benchSnoop]
  simp only [held, waits, if_true]
  rfl

section
variable {i : Instr} {s : State} {b : BenchId} {n : LineNo} {x : L2Line} {op : SnpOp} {f g : Bool}
  (e : exec i s = runMesh s (fun m => arriveSnoop m b.val op n.toNat f g)) (runs : meshRuns s.m = true) (held : lineAt s.m b.val n.toNat = some x)
  (turn : InTurn s.m (isSnoop b.val op n.toNat f g))
include e runs held turn

theorem snoop_completes {st : Option CohSt} {kind : Nat} {data : Bool} (unlocked : wayLocked (l2 s.m b.val) x.way = false)
    (now : op = .snpX ∨ op = .snpDrop → inTenure s.m x = false) (row : snoopAnswer x.st op = some (st, kind, data)) :
    Completes i s (fun m => SnoopAnswered s.m m b.val n.toNat x st kind data) := by
  refine completes_runMesh e runs ?_
  rw [arriveSnoop, arrive_of_inTurn turn]
  exact benchSnoop_answers (m := takeMsg s.m (isSnoop b.val op n.toNat f g)) held unlocked now row

theorem snoop_deferred (tenure : inTenure s.m x = true) (st : x.st = .e ∨ x.st = .m) (takes : op = .snpX ∨ op = .snpDrop) :
    Completes i s (fun m => m.mesh = s.m.mesh.eraseP (isSnoop b.val op n.toNat f g) ∧ m.mem = s.m.mem ∧ m.homes = s.m.homes ∧
      (l2 m b.val).deferredN = sat 0xFFFF ((l2 s.m b.val).deferredN + 1) ∧ lineAt m b.val n.toNat = some { x with deferred := some (op, f, g) }) := by
  refine completes_runMesh e runs ?_
  rw [arriveSnoop, arrive_of_inTurn turn, benchSnoop_defers (m := takeMsg s.m (isSnoop b.val op n.toNat f g)) held tenure st takes]
  refine ⟨rfl, rfl, rfl, by rw [l2_modL2]; rfl, ?_⟩
  rw [lineAt, l2_modL2]
  exact tfind_map_at (f := fun y => { y with deferred := some (op, f, g) }) held

end

/-- Settles O26: a stable line is answered for by the table, and one in tenure keeps what would take it away. -/
theorem snoops : Obligations.Snoops := by
  refine ⟨fun s n b x runs held unlocked => ?_, fun s n b x f g runs held tenure st => ?_⟩
  · intro answers quick clean taken dropped
    have row {c : Instr} {op : SnpOp} {f g : Bool} {st : Option CohSt} {kind : Nat} {data : Bool}
        (e : exec c s = runMesh s (fun m => arriveSnoop m b.val op n.toNat f g)) (now : op = .snpX ∨ op = .snpDrop → inTenure s.m x = false)
        (entry : snoopAnswer x.st op = some (st, kind, data)) : answers c op f g st kind data :=
      fun turn => snoop_completes e runs held turn unlocked now entry
    have rows {was : CohSt} {st1 st2 : Option CohSt} {k1 k2 k3 : Nat} {d1 d2 d3 : Bool} (shares : snoopAnswer was .snpS = some (st1, k1, d1))
        (cleans : snoopAnswer was .snpCln = some (st2, k2, d2)) (takes : snoopAnswer was .snpX = some (none, k3, d3))
        (drops : snoopAnswer was .snpDrop = some (none, 0, false)) (at_ : x.st = was) :
        quick st1 k1 d1 ∧ clean st2 k2 d2 ∧ taken k3 d3 ∧ dropped := by
      subst at_
      exact ⟨row (exec_snps ..) (by simp) shares, row (exec_snpcln ..) (by simp) cleans, fun f g late => row (exec_snpx ..) (fun _ => late) takes,
        fun f g late => row (exec_snpdrop ..) (fun _ => late) drops⟩
    exact ⟨rows rfl rfl rfl rfl, rows rfl rfl rfl rfl, rows rfl rfl rfl rfl, rows rfl rfl rfl rfl⟩
  · exact ⟨fun turn => snoop_deferred (exec_snpx ..) runs held turn tenure st (.inl rfl),
      fun turn => snoop_deferred (exec_snpdrop ..) runs held turn tenure st (.inr rfl)⟩

end Sys2Proof.Machine
end
section
/-! Snoop responses at the home (R466, R467). -/

namespace Sys2Proof.Machine

/-! ## What a response says of its bench -/

/-- The entry of a line after a response of each kind. -/
def entryAfterRsp (kind b : Nat) (e : DirEnt) : DirEnt :=
  match kind with
  | 0 | 2 | 3 => { e with
      owner := if e.owner = some b then none else e.owner
      sharers := e.sharers.filter (fun k => k != b)
      ownerO := e.ownerO && e.owner != some b }
  | 4 => { e with ownerO := if e.owner = some b then true else e.ownerO }
  | 5 | 6 => { e with
      owner := if e.owner = some b then none else e.owner
      ownerO := e.ownerO && e.owner != some b
      sharers := insNat e.sharers b }
  | 7 => { e with ownerO := if e.owner = some b then false else e.ownerO }
  | _ => e

theorem mem_insNat (l : List Nat) (n : Nat) : n ∈ insNat l n := by
  induction l with
  | nil => exact List.mem_singleton_self n
  | cons x r ih =>
    rw [insNat]
    split
    · next same => exact same ▸ List.mem_cons_self
    · split
      · exact List.mem_cons_self
      · exact List.mem_cons_of_mem x ih

/-- The entry says that a bench holds nothing of the line; that it shares it. -/
def HoldsNothing (b : Nat) (e : DirEnt) : Prop := e.owner ≠ some b ∧ b ∉ e.sharers
def HoldsShared (b : Nat) (e : DirEnt) : Prop := e.owner ≠ some b ∧ b ∈ e.sharers

theorem struck_ne (o : Option Nat) (b : Nat) : (if o = some b then none else o) ≠ some b := by
  split
  · exact nofun
  · next other => exact other

section
variable {kind b : Nat} (e : DirEnt)

theorem entryAfterRsp_gone (gone : kind = 0 ∨ kind = 2 ∨ kind = 3) : HoldsNothing b (entryAfterRsp kind b e) := by
  obtain rfl | rfl | rfl := gone
  all_goals exact ⟨struck_ne e.owner b, by simp [entryAfterRsp]⟩

theorem entryAfterRsp_shares (shares : kind = 5 ∨ kind = 6) : HoldsShared b (entryAfterRsp kind b e) := by
  obtain rfl | rfl := shares
  all_goals exact ⟨struck_ne e.owner b, mem_insNat e.sharers b⟩

end

/-! ## Others are outstanding -/

theorem homeRsp_awaiting {m : Mach} {n b : Nat} {t : HTxn} (txn : tfind (home m (homeOf m n)).txns n = some t) (st : t.st = .hs)
    (awaits : t.awaited.contains b = true) (more : t.awaited.erase b ≠ []) (kind : Nat) (d : Option (Line × Bool)) :
    ∃ u : HTxn, u.st = .hs ∧ u.req = t.req ∧ u.awaited = t.awaited.erase b ∧ u.newest = d.or t.newest ∧
      homeRsp m n b kind d = setTxn (setDir m (homeOf m n) n (entryAfterRsp kind b (dirOf m (homeOf m n) n))) (homeOf m n) n u := by
  have waits : (t.awaited.erase b).isEmpty = false := by simpa using more
  have expected : ¬ (t.st ≠ .hs ∨ (!t.awaited.contains b) = true) := by rw [awaits]; simp [st]
  rw [homeRsp]
  simp only [txn, if_neg expected, waits, Bool.false_and, Bool.false_eq_true, if_false]
  refine ⟨_, ?_, ?_, ?_, ?_, rfl⟩
  · exact st
  · rfl
  · rfl
  · cases d <;> rfl

theorem rsp_completes {i : Instr} {s : State} {n : LineNo} {b kind : Nat} {t : HTxn} {d v : Option (Line × Bool)} {holds : DirEnt → Prop}
    (e : exec i s = runMesh s (fun m => arriveRsp m n.toNat b kind d)) (runs : meshRuns s.m = true)
    (txn : tfind (home s.m (homeOf s.m n.toNat)).txns n.toNat = some t) (st : t.st = .hs) (awaits : t.awaited.contains b = true)
    (more : t.awaited.erase b ≠ []) (turn : InTurn s.m (isRsp n.toNat b kind d)) (newest : d.or t.newest = v)
    (entry : ∀ m : Mach, holds (dirOf (setDir m (homeOf s.m n.toNat) n.toNat (entryAfterRsp kind b (dirOf s.m (homeOf s.m n.toNat) n.toNat)))
      (homeOf s.m n.toNat) n.toNat)) :
    Completes i s (fun m => (∃ u, tfind (home m (homeOf s.m n.toNat)).txns n.toNat = some u ∧ u.st = .hs ∧ u.req = t.req ∧
      u.awaited = t.awaited.erase b ∧ u.newest = v) ∧ holds (dirOf m (homeOf s.m n.toNat) n.toNat) ∧ m.mem = s.m.mem ∧ m.l2 = s.m.l2) := by
  refine completes_runMesh e runs ?_
  rw [arriveRsp, arrive_of_inTurn turn]
  obtain ⟨u, st', req, awaited, new, done⟩ := homeRsp_awaiting (m := takeMsg s.m (isRsp n.toNat b kind d)) txn st awaits more kind d
  rw [homeOf_takeMsg, dirOf_takeMsg] at done
  rw [done]
  refine ⟨⟨u, tfind_home_setTxn .., st', req, awaited, new.trans newest⟩, ?_, rfl, rfl⟩
  rw [dirOf_setTxn]
  exact entry _

/-- Settles O27: by what each kind of response says of its bench. -/
theorem snoopResponses : Obligations.SnoopResponses := by
  intro s n b t d p runs h txn st awaits more after e
  have row {c : Instr} {kind : Nat} {v : Option (Line × Bool)} (holds : DirEnt → Prop)
      (ex : exec c s = runMesh s (fun m => arriveRsp m n.toNat b.val kind (if kind < 2 then none else some (d, p))))
      (newest : (if kind < 2 then none else some (d, p)).or t.newest = v)
      (entry : ∀ m : Mach, holds (dirOf (setDir m h n.toNat (entryAfterRsp kind b.val e)) h n.toNat)) : after c kind v holds :=
    fun turn => rsp_completes ex runs txn st awaits more turn newest entry
  have gone {kind : Nat} (lost : kind = 0 ∨ kind = 2 ∨ kind = 3) (m : Mach) :
      HoldsNothing b.val (dirOf (setDir m h n.toNat (entryAfterRsp kind b.val e)) h n.toNat) := by
    have ⟨owner, sharers⟩ := dirOf_setDir_holders m h n.toNat (entryAfterRsp kind b.val e)
    rw [HoldsNothing, owner, sharers]
    exact entryAfterRsp_gone e lost
  have shares {kind : Nat} (kept : kind = 5 ∨ kind = 6) (m : Mach) :
      HoldsShared b.val (dirOf (setDir m h n.toNat (entryAfterRsp kind b.val e)) h n.toNat) := by
    have ⟨owner, sharers⟩ := dirOf_setDir_holders m h n.toNat (entryAfterRsp kind b.val e)
    rw [HoldsShared, owner, sharers]
    exact entryAfterRsp_shares e kept
  have kept (kind : Nat) (owned : (entryAfterRsp kind b.val e).owner = some b.val) (m : Mach) :
      dirOf (setDir m h n.toNat (entryAfterRsp kind b.val e)) h n.toNat = entryAfterRsp kind b.val e := dirOf_setDir_owned m h n.toNat _ owned
  refine ⟨?_, ?_, ?_, ?_, ?_, ?_, fun owned => ⟨?_, ?_⟩⟩
  · exact row (HoldsNothing b.val) (exec_rspi ..) rfl (gone (.inl rfl))
  · exact row (HoldsNothing b.val) (exec_rspd ..) rfl (gone (.inr (.inl rfl)))
  · exact row (HoldsNothing b.val) (exec_rspc ..) rfl (gone (.inr (.inr rfl)))
  · exact row (HoldsShared b.val) (exec_rspcs ..) rfl (shares (.inl rfl))
  · exact row (HoldsShared b.val) (exec_rspds ..) rfl (shares (.inr rfl))
  · exact row (fun k => k.owner = e.owner ∧ k.sharers = e.sharers) (exec_rspk ..) rfl (dirOf_setDir_holders · h n.toNat e)
  · refine row (fun k => k.owner = some b.val ∧ k.ownerO = true) (exec_rspdo ..) rfl fun m => ?_
    rw [kept 4 owned]
    exact ⟨owned, if_pos owned⟩
  · refine row (fun k => k.owner = some b.val ∧ k.ownerO = false) (exec_rspde ..) rfl fun m => ?_
    rw [kept 7 owned]
    exact ⟨owned, if_pos owned⟩

end Sys2Proof.Machine
end
section
/-! What a home waits for comes: Done, the mirror's acknowledgement, its write, its read, or the end of its patience (R455, R467, R468, R471). -/

namespace Sys2Proof.Machine

section
variable {m : Mach} {n : Nat} {t : HTxn} (txn : tfind (home m (homeOf m n)).txns n = some t)
include txn

theorem homeMirAck_comes (st : t.st = .hw) (pend : t.mirPend = true) : homeMirAck m n = setTxn m (homeOf m n) n { t with mirPend := false } := by
  simp only [homeMirAck, txn]
  rw [if_pos ⟨st, pend⟩]

section
variable (queue : tget (home m (homeOf m n)).queues n [] = []) (room : (home m (homeOf m n)).waitDir = [])
include queue room

theorem homeDone_ends {b : Nat} (st : t.st = .hd) (src : t.req.src = 0x0500 + b) : homeDone m n b = requestEnded m (homeOf m n) n := by
  simp only [homeDone, txn]
  rw [if_pos ⟨st, src⟩, homeDrain_homeStable room queue]

/-- A write-back that the home's L3 has taken, and whose mirror stands, is acknowledged. -/
theorem homeWriteDone_acks (st : t.st = .hw) (pend : t.mirPend = false) (toMem : t.toMem = false) (after : t.after = .wbAck)
    (op : t.req.op = .wbM) (line : t.req.n = n) :
    homeWriteDone m n = requestEnded (send m (.ack t.req.src 0 n)) (homeOf m n) n := by
  have acked : homeAck m t.req = send m (.ack t.req.src 0 n) := by rw [homeAck, op, line]
  rw [← homeDrain_homeStable (m := send m (.ack t.req.src 0 n)) room queue]
  simp [homeWriteDone, homeWritten, txn, st, pend, toMem, after, acked]

end

end

/-- A grant in E: the data leaves, its receiver is the owner, and the home awaits Done. -/
theorem grant_exclusive (m : Mach) (h : Nat) (t : HTxn) (d : Line) (p : Bool) : ∃ (u : HTxn) (e : DirEnt), u.st = .hd ∧
    e.owner = some (t.req.src - 0x0500) ∧ grant m h t 1 d p =
      send (setTxn (setDir (touch (dropL3 m h t.req.n)) h t.req.n e) h t.req.n u) (.data (t.req.src - 0x0500) 1 t.req.n d p) :=
  ⟨_, _, rfl, rfl, rfl⟩

section
variable {m : Mach} {n : Nat} {t : HTxn} {x : L3Line} (txn : tfind (home m (homeOf m n)).txns n = some t) (st : t.st = .hr) (op : t.req.op = .rdS)
  (none_ : t.awaited = []) (pend : t.readPend = true) (ready : readReady m n = true) (unheld : tfind (home m (homeOf m n)).dir n = none)
  (copy : tfind (home m (homeOf m n)).l3 n = some x) (clean : x.dirty = false)
include txn st op none_ pend ready unheld copy clean

theorem homeReadBack_rdS : ∃ t' : HTxn, t'.req = t.req ∧
    homeReadBack m n = homeDrain (grant (endRead m n) (homeOf m n) t' 1 x.data x.poison) (homeOf m n) n := by
  have read : homeRead m (homeOf m n) n = (x.data, x.poison) := by rw [homeRead, copy]
  have kind : l3Dirty (endRead m n) (homeOf m n) n = false := l3Dirty_of_clean (m := endRead m n) copy clean
  refine ⟨{ t with readPend := false, newest := t.newest.or (some (x.data, x.poison)) }, rfl, ?_⟩
  cases seen : t.newest <;>
    simp [homeReadBack, txn, pend, ready, copy, read, unheld, kind, none_, st, op, stableCode, seen]

/-- A home's read that is back is granted in E to a bench that asked to read, where no other holds the line (R467). -/
theorem homeReadBack_grants (room : (home m (homeOf m n)).waitDir = []) (line : t.req.n = n) : ∃ (u : HTxn) (e : DirEnt), u.st = .hd ∧
    e.owner = some (t.req.src - 0x0500) ∧ homeReadBack m n =
      send (setTxn (setDir (touch (dropL3 (endRead m n) (homeOf m n) n)) (homeOf m n) n e) (homeOf m n) n u)
        (.data (t.req.src - 0x0500) 1 n x.data x.poison) := by
  obtain ⟨t', req, back⟩ := homeReadBack_rdS txn st op none_ pend ready unheld copy clean
  obtain ⟨u, e, st', owner, granted⟩ := grant_exclusive (endRead m n) (homeOf m n) t' x.data x.poison
  rw [req] at owner granted
  rw [line] at granted
  refine ⟨u, e, st', owner, ?_⟩
  rw [back, granted, homeDrain_of_busy (by simpa using room) (by simp)]

end

/-! ## A bench that never sends Done (R468) -/

/-- The home counts the time-out, records it, and finds the bench lost. -/
def benchTimedOut (m : Mach) (h b n : Nat) : Mach :=
  noteFault (raiseErrD (modHome m h (fun x => { x with timeoutN := sat 0xFFFF (x.timeoutN + 1) })) 0x0031 (0x0500 + b) (0x0600 + h)
    (le 1 h ++ le 1 11) none (some (256 * n)) 0) (.bench b true)

section
variable (m : Mach) (h b n : Nat)

theorem noteFault_found (f : FaultEv) : f ∈ (noteFault m f).mode.found := by
  unfold noteFault modMode
  dsimp only
  split
  · next listed => exact List.contains_iff_mem.1 listed
  · exact List.mem_append_right _ List.mem_cons_self

/-- A record leaves the homes as they were. -/
theorem home_raiseErrD (k cause src det : Nat) (d : Bytes) (ls addr : Option Nat) (i : Nat) : home (raiseErrD m cause src det d ls addr i) k = home m k := by
  rw [home, (raiseErrD_logged ..).homes]
  rfl

/-- A record and a fault found leave the homes, the memory and the L2s. -/
theorem benchTimedOut_keeps : (benchTimedOut m h b n).mem = m.mem ∧ (benchTimedOut m h b n).l2 = m.l2 ∧
    home (benchTimedOut m h b n) h = { home m h with timeoutN := sat 0xFFFF ((home m h).timeoutN + 1) } := by
  have logged := raiseErrD_logged (modHome m h (fun x => { x with timeoutN := sat 0xFFFF (x.timeoutN + 1) })) 0x0031 (0x0500 + b) (0x0600 + h)
    (le 1 h ++ le 1 11) none (some (256 * n)) 0
  exact ⟨logged.mem, logged.l2, (home_raiseErrD ..).trans (home_modHome ..)⟩

end

/-- The bench counts as having answered RspI, and its request ends. -/
theorem homeTimeout_done {m : Mach} {n : Nat} {t : HTxn} (txn : tfind (home m (homeOf m n)).txns n = some t) (st : t.st = .hd)
    (late : t.deadline ≤ m.now) (queue : tget (home m (homeOf m n)).queues n [] = []) (room : (home m (homeOf m n)).waitDir = []) :
    homeTimeout m n = requestEnded (setDir (benchTimedOut m (homeOf m n) (t.req.src - 0x0500) n) (homeOf m n) n
      (entryAfterRsp 0 (t.req.src - 0x0500) (dirOf (benchTimedOut m (homeOf m n) (t.req.src - 0x0500) n) (homeOf m n) n))) (homeOf m n) n := by
  obtain ⟨-, -, kept⟩ := benchTimedOut_keeps m (homeOf m n) (t.req.src - 0x0500) n
  have notYet : ¬ m.now < t.deadline := Nat.not_lt.2 late
  rw [← homeDrain_homeStable (by simpa [kept] using room) (by simpa [kept] using queue)]
  simp only [homeTimeout, txn, if_neg notYet, st]
  rfl

end Sys2Proof.Machine
end
section
/-! The end of requests, mirrors, tenures and takeovers (R455, R456, R467, R468, R471, R474 to R477). -/

namespace Sys2Proof.Machine

/-! ## What the home waits for comes -/

section
variable {s : State} {n : LineNo} {t : HTxn} (runs : meshRuns s.m = true) (txn : tfind (home s.m (homeOf s.m n.toNat)).txns n.toNat = some t)
include runs txn

theorem mirack_completes (st : t.st = .hw) (pend : t.mirPend = true) (turn : InTurn s.m (isMirAck n.toNat)) :
    Completes (.mirack n) s (fun m => tfind (home m (homeOf s.m n.toNat)).txns n.toNat = some { t with mirPend := false } ∧ m.mem = s.m.mem ∧
      m.l2 = s.m.l2) := by
  refine completes_runMesh (exec_mirack ..) runs ?_
  rw [arrive_of_inTurn turn, homeMirAck_comes (m := takeMsg s.m (isMirAck n.toNat)) txn st pend]
  exact ⟨tfind_home_setTxn .., rfl, rfl⟩

section
variable (queue : tget (home s.m (homeOf s.m n.toNat)).queues n.toNat [] = []) (room : (home s.m (homeOf s.m n.toNat)).waitDir = [])
include queue room

theorem done_completes {b : BenchId} (st : t.st = .hd) (src : t.req.src = 0x0500 + b.val) (turn : InTurn s.m (isDone n.toNat b.val)) :
    Completes (.done n b) s (fun m => tfind (home m (homeOf s.m n.toNat)).txns n.toNat = none ∧ m.mem.cells = s.m.mem.cells ∧ m.l2 = s.m.l2) := by
  refine completes_runMesh (exec_done ..) runs ?_
  rw [arrive_of_inTurn turn, homeDone_ends (m := takeMsg s.m (isDone n.toNat b.val)) txn queue room st src]
  exact ⟨by simp, rfl, rfl⟩

theorem hwWriteComplete_completes (st : t.st = .hw) (pend : t.mirPend = false) (toMem : t.toMem = false) (after : t.after = .wbAck)
    (op : t.req.op = .wbM) (line : t.req.n = n.toNat) :
    Completes (.hwWriteComplete n) s (fun m => tfind (home m (homeOf s.m n.toNat)).txns n.toNat = none ∧ .ack t.req.src 0 n.toNat ∈ m.mesh ∧
      m.mem.cells = s.m.mem.cells ∧ m.l2 = s.m.l2) := by
  refine completes_runMesh (exec_hwWriteComplete ..) runs ?_
  rw [homeWriteDone_acks txn queue room st pend toMem after op line]
  exact ⟨by simp, by simp, rfl, rfl⟩

theorem snoopTimeout_completes (st : t.st = .hd) (late : t.deadline ≤ s.m.now) :
    Completes (.snoopTimeout n) s (fun m => tfind (home m (homeOf s.m n.toNat)).txns n.toNat = none ∧
      (home m (homeOf s.m n.toNat)).timeoutN = sat 0xFFFF ((home s.m (homeOf s.m n.toNat)).timeoutN + 1) ∧
      .bench (t.req.src - 0x0500) true ∈ m.mode.found ∧ (dirOf m (homeOf s.m n.toNat) n.toNat).owner ≠ some (t.req.src - 0x0500) ∧
      m.mem.cells = s.m.mem.cells ∧ m.l2 = s.m.l2) := by
  obtain ⟨mem, l2, kept⟩ := benchTimedOut_keeps s.m (homeOf s.m n.toNat) (t.req.src - 0x0500) n.toNat
  refine completes_runMesh (exec_snoopTimeout ..) runs ?_
  rw [homeTimeout_done txn st late queue room]
  refine ⟨by simp, by simp [kept], noteFault_found .., ?_, by simp [mem], by simp [l2]⟩
  rw [dirOf_requestEnded, (dirOf_setDir_holders ..).1]
  exact struck_ne _ _

end

theorem hrReadReturn_completes {x : L3Line} (room : (home s.m (homeOf s.m n.toNat)).waitDir = []) (st : t.st = .hr) (op : t.req.op = .rdS)
    (line : t.req.n = n.toNat) (none_ : t.awaited = []) (pend : t.readPend = true) (ready : readReady s.m n.toNat = true)
    (unheld : tfind (home s.m (homeOf s.m n.toNat)).dir n.toNat = none) (copy : tfind (home s.m (homeOf s.m n.toNat)).l3 n.toNat = some x)
    (clean : x.dirty = false) :
    Completes (.hrReadReturn n) s (fun m => .data (t.req.src - 0x0500) 1 n.toNat x.data x.poison ∈ m.mesh ∧
      (dirOf m (homeOf s.m n.toNat) n.toNat).owner = some (t.req.src - 0x0500) ∧ m.mem.cells = s.m.mem.cells ∧ m.l2 = s.m.l2 ∧
      ∃ u, tfind (home m (homeOf s.m n.toNat)).txns n.toNat = some u ∧ u.st = .hd) := by
  obtain ⟨u, e, hd, owner, granted⟩ := homeReadBack_grants txn st op none_ pend ready unheld copy clean room line
  refine completes_runMesh (exec_hrReadReturn ..) runs ?_
  rw [granted]
  refine ⟨by simp, ?_, ?_, ?_, u, tfind_home_setTxn .., hd⟩
  · rw [dirOf_send, dirOf_setTxn, (dirOf_setDir_holders ..).1, owner]
  · simp [endRead]
  · simp [endRead]

end

/-! ## Mirrors at the buddy, and a tenure's end -/

section
variable {s : State} {n : LineNo} (runs : meshRuns s.m = true)
include runs

theorem mir_completes {g : HomeId} {d : Line} {p : Bool} (turn : InTurn s.m (isMir g.val n.toNat d p)) : Completes (.mir g n d p) s (fun m =>
    tfind (home m g.val).pair n.toNat = some { owner := homeOf s.m n.toNat, data := d, poison := p } ∧
      .mirAck (homeOf s.m n.toNat) n.toNat ∈ m.mesh ∧ m.mem = s.m.mem ∧ m.l2 = s.m.l2) := by
  refine completes_runMesh (exec_mir ..) runs ?_
  rw [arrive_of_inTurn turn, buddyMir]
  exact ⟨by simp, by simp, rfl, rfl⟩

theorem mirrel_completes {g : HomeId} (turn : InTurn s.m (fun y => y == .mirRel g.val n.toNat)) :
    Completes (.mirrel g n) s (fun m => tfind (home m g.val).pair n.toNat = none ∧ m.mem = s.m.mem ∧ m.l2 = s.m.l2) := by
  refine completes_runMesh (exec_mirrel ..) runs ?_
  rw [arrive_of_inTurn turn, buddyMirRel]
  exact ⟨by simp, rfl, rfl⟩

theorem tenureEnd_completes {b : BenchId} {x : L2Line} {t : Nat} (held : lineAt s.m b.val n.toNat = some x) (tenure : x.tenureEnd = some t)
    (due : t ≤ s.m.now) (none_ : x.deferred = none) : Completes (.tenureEnd b n) s (fun m =>
      lineAt m b.val n.toNat = some { x with tenureEnd := none } ∧ m.mesh = s.m.mesh ∧ m.mem = s.m.mem ∧ m.homes = s.m.homes) := by
  refine completes_runMesh (exec_tenureEnd ..) runs ?_
  have ends : tenureOver s.m b.val n.toNat = setLine s.m b.val n.toNat { x with tenureEnd := none } := by
    have notNow : ¬ s.m.now < t := Nat.not_lt.2 due
    simp [tenureOver, tenureEnds, held, tenure, notNow, none_]
  rw [ends]
  exact ⟨lineAt_setLine .., rfl, rfl, rfl⟩

end

/-! ## A lost home's share is taken over -/

section
variable {m : Mach} {h : Nat} (takes : (home m (buddyOf m h)).st = .takingOver)
include takes

/-- A report reaches the buddy; the last one of a bench for a line counts. -/
theorem takeoverReportAt_kept (b n : Nat) (r : Report) : takeoverReportAt m h b n r = modHome m (buddyOf m h) (fun x => { x with
    reports := tset x.reports n ((tget x.reports n []).filter (fun p => p.1 != b) ++ [(b, r)]) }) := by
  rw [takeoverReportAt, if_pos takes]

theorem reports_takeoverReportAt (b n : Nat) (r : Report) : tget (home (takeoverReportAt m h b n r) (buddyOf m h)).reports n [] =
    (tget (home m (buddyOf m h)).reports n []).filter (fun p => p.1 != b) ++ [(b, r)] := by
  rw [takeoverReportAt_kept takes, home_modHome]
  exact tget_tset_self ..

end

section
variable {s : State} {h : HomeId} {b : BenchId} (runs : meshRuns s.m = true) (lost : (home s.m h.val).lost = true)
  (takes : (home s.m (buddyOf s.m h.val)).st = .takingOver)
include runs lost takes

theorem takeoverReport_completes (n : LineNo) (r : Report) : Completes (.takeoverReport h b n r) s (fun m =>
    tget (home m (buddyOf s.m h.val)).reports n.toNat [] =
      (tget (home s.m (buddyOf s.m h.val)).reports n.toNat []).filter (fun p => p.1 != b.val) ++ [(b.val, r)] ∧ m.mem = s.m.mem ∧ m.l2 = s.m.l2) := by
  refine completes_runMesh (exec_takeoverReport ..) runs ?_
  rw [if_pos lost]
  refine ⟨reports_takeoverReportAt takes b.val n.toNat r, ?_, ?_⟩
  all_goals
    rw [takeoverReportAt_kept takes]
    rfl

/-- A bench that holds one line, modified, of the share. -/
theorem homeLost_completes {k : Nat} {x : L2Line} (only : (l2 s.m b.val).lines = [(k, x)]) (share : ownHome s.m k = h.val) (st : x.st = .m) :
    Completes (.homeLost b h) s (fun m => (b.val, .modified x.data x.poison) ∈ tget (home m (buddyOf s.m h.val)).reports k [] ∧
      m.mem = s.m.mem ∧ m.l2 = s.m.l2) := by
  have reported : benchReports s.m b.val h.val = takeoverReportAt s.m h.val b.val k (.modified x.data x.poison) := by
    simp [benchReports, lost, only, share, reportOf, st]
  refine completes_runMesh (exec_homeLost ..) runs ?_
  rw [reported]
  refine ⟨?_, ?_, ?_⟩
  · rw [reports_takeoverReportAt takes]
    exact List.mem_append_right _ List.mem_cons_self
  all_goals
    rw [takeoverReportAt_kept takes]
    rfl

end

end Sys2Proof.Machine
end
section
/-! A takeover ends without a report, a mirror, a request held or a line of a bench (R475, R477). -/

namespace Sys2Proof.Machine

/-! ## The share is the buddy's -/

/-- The requests held for the homes of some shares have been taken up. -/
def heldTaken (m : Mach) (shares : BitVec 16) : Mach :=
  (List.range 16).foldl (fun m i => if shares.getLsbD i then modHome m i (fun x => { x with heldReqs := [] }) else m) m

/-- The shares that a home had: its own, and those that it covered. -/
def sharesOf (m : Mach) (h : Nat) : BitVec 16 := (home m h).covered ||| (1#16 <<< h)

/-- The buddy's state once it covers the share. -/
def coveringHome (h : Nat) (shares : BitVec 16) (us : Nat) (x : Home) : Home :=
  { x with
    st := .covering
    covered := x.covered ||| shares
    takeoverUs := us
    reports := []
    pair := x.pair.filter (fun p => p.2.owner != h) }

/-- The share is routed to the buddy, and all are told. -/
def shareRouted (m : Mach) (h us : Nat) : Mach :=
  send (modHome (modHome (heldTaken m (sharesOf m h)) (buddyOf m h) (coveringHome h (sharesOf m h) us)) h (fun x => { x with covered := 0 }))
    (.shareOpen h)

section
variable (m : Mach) (shares : BitVec 16)

theorem heldTaken_mem : (heldTaken m shares).mem = m.mem :=
  foldl_keeps (fun m : Mach => m.mem) (fun m i => by split <;> rfl) _ m

theorem heldTaken_l2 : (heldTaken m shares).l2 = m.l2 :=
  foldl_keeps (fun m : Mach => m.l2) (fun m i => by split <;> rfl) _ m

end

theorem shareRouted_l2 (m : Mach) (h us : Nat) : (shareRouted m h us).l2 = m.l2 := by
  rw [shareRouted, send_l2, modHome_l2, modHome_l2, heldTaken_l2]

theorem shareRouted_mem (m : Mach) (h us : Nat) : (shareRouted m h us).mem = m.mem := by
  rw [shareRouted, send_mem, modHome_mem, modHome_mem, heldTaken_mem]

section
variable {m : Mach} {h : Nat} (reports : (home m (buddyOf m h)).reports = []) (pair : (home m (buddyOf m h)).pair = []) (noLines : m.l2 = [])
  (noHeld : ∀ i, (home m i).heldReqs = [])
include reports pair noLines noHeld

theorem homeTakeoverEnd_empty : ∃ us, homeTakeoverEnd m h = (shareRouted m h us, 0) := by
  have held : ((List.range 16).flatMap fun i => if ((home m h).covered ||| 1#16 <<< h).getLsbD i then (home m i).heldReqs else []) = [] := by
    simp [noHeld]
  unfold homeTakeoverEnd
  simp only [reports, pair, List.filter_nil, List.map_nil, List.append_nil, List.eraseDups_nil, List.foldl_nil, held, List.length_nil]
  refine ⟨sat 0xFFFF (ceilDiv ((heldTaken m (sharesOf m h)).now - (home (heldTaken m (sharesOf m h)) (buddyOf m h)).takeoverAt) 1000), ?_⟩
  change ((shareRouted m h _).l2.foldl _ (shareRouted m h _), 0) = _
  rw [shareRouted_l2, noLines]
  rfl

end

/-- What the homes and the memory are once the share is routed. -/
theorem shareRouted_covers {m : Mach} {h : Nat} (small : h < 16) (other : buddyOf m h ≠ h) (us : Nat) :
    (home (shareRouted m h us) (buddyOf m h)).st = .covering ∧ (home (shareRouted m h us) (buddyOf m h)).covered.getLsbD h = true ∧
      (home (shareRouted m h us) h).covered = 0 ∧ (shareRouted m h us).mem = m.mem := by
  have own : (sharesOf m h).getLsbD h = true := by simp [sharesOf, small]
  have buddy : home (shareRouted m h us) (buddyOf m h) = coveringHome h (sharesOf m h) us (home (heldTaken m (sharesOf m h)) (buddyOf m h)) := by
    rw [shareRouted, home_send, home_modHome_other other.symm, home_modHome]
  rw [buddy]
  refine ⟨rfl, ?_, ?_, shareRouted_mem m h us⟩
  · rw [coveringHome, BitVec.getLsbD_or, own, Bool.or_true]
  · rw [shareRouted, home_send, home_modHome]

theorem home_endRecovery (m : Mach) (f : FaultEv) (h : Nat) : home (endRecovery m f) h = home m h := rfl

theorem shareOpen_completes {s : State} {h : HomeId} (runs : meshRuns s.m = true) (lost : (home s.m h.val).lost = true)
    (takes : (home s.m (buddyOf s.m h.val)).st = .takingOver) (of : (home s.m (buddyOf s.m h.val)).takeoverOf = h.val)
    (reports : (home s.m (buddyOf s.m h.val)).reports = []) (pair : (home s.m (buddyOf s.m h.val)).pair = []) (noLines : s.m.l2 = [])
    (noHeld : ∀ i, (home s.m i).heldReqs = []) (other : buddyOf s.m h.val ≠ h.val) : Completes (.shareOpen h) s (fun m =>
      (home m (buddyOf s.m h.val)).st = .covering ∧ (home m (buddyOf s.m h.val)).covered.getLsbD h.val = true ∧ (home m h.val).covered = 0 ∧
        m.mem = s.m.mem) := by
  obtain ⟨us, ended⟩ := homeTakeoverEnd_empty reports pair noLines noHeld
  have covers := shareRouted_covers h.isLt other us
  have opens : ((home s.m h.val).lost && (home s.m (buddyOf s.m h.val)).st == .takingOver &&
      (home s.m (buddyOf s.m h.val)).takeoverOf == h.val) = true := by simp [lost, takes, of]
  refine completes_runMesh (exec_shareOpen ..) runs ?_
  simp only [shareOpens, opens, ended, Bool.not_true, Bool.false_eq_true, if_false]
  obtain ⟨st, covered, gone, mem⟩ := covers
  refine ⟨?_, ?_, ?_, (raiseErrD_logged ..).mem.trans mem⟩
  all_goals rwa [home_endRecovery, home_raiseErrD, home_takeMsg, home_takeMsg]

/-- Settles O30: each event by what it finds at the home, the buddy or the bench. -/
theorem homeEvents : Obligations.HomeEvents := by
  constructor
  · intro s n b runs h
    refine ⟨fun t txn queue room => ⟨?_, ?_, ?_, ?_, ?_⟩, ?_, ?_, ?_⟩
    · exact done_completes runs txn queue room
    · exact mirack_completes runs txn
    · exact hwWriteComplete_completes runs txn queue room
    · exact fun x st op line none_ pend ready unheld copy clean => hrReadReturn_completes runs txn room st op line none_ pend ready unheld copy clean
    · exact snoopTimeout_completes runs txn queue room
    · exact fun g d p => mir_completes runs
    · exact fun g => mirrel_completes runs
    · exact fun x t => tenureEnd_completes runs
  · intro s h b runs lost d takes
    refine ⟨?_, ?_, ?_⟩
    · exact takeoverReport_completes runs lost takes
    · exact fun k x => homeLost_completes runs lost takes
    · exact shareOpen_completes runs lost takes

end Sys2Proof.Machine
end

section
/-! Every step keeps the form of memory (R498, R525). Memory is touched by a write of a line and by a poison mark alone; every other
function of the model hands on the memory that it was given. One lemma per function says so, in the order of the model: a result that is a
machine, or holds one, is formed when the machine it came from is. -/

namespace Sys2Proof.Machine

/-! ## What is formed -/

/-- Main memory has its canonical form. -/
def MemFormed (m : Mach) : Prop := m.mem.wf = true

/-- A result with a machine in its second place: the form of that machine. -/
def SndFormed {α : Type} (r : α × Mach) : Prop := MemFormed r.2

/-- A result with a machine in its third place. -/
def ThdFormed {α β : Type} (r : α × β × Mach) : Prop := MemFormed r.2.2

/-- A result with a machine in its first place. -/
def FstFormed {α : Type} (r : Mach × α) : Prop := MemFormed r.1

/-- What an option gives, if it gives anything, has the property. -/
def Gives {α : Type} (P : α → Prop) (r : Option α) : Prop := ∀ a, r = some a → P a

/-- What a computation answers, if it does not fail, has the property. -/
def Answers {ε α : Type} (P : α → Prop) (r : Except ε α) : Prop := ∀ a, r = .ok a → P a

/-- The next state, where there is one, is formed. -/
def NextFormed (o : Host.Outcome State Fault Refusal) : Prop := ∀ t, o = .next t → MemFormed t.m

/-! ## Branches and folds -/

theorem holds_ite {α : Type} {P : α → Prop} {c : Prop} [Decidable c] {a b : α} (ha : P a) (hb : P b) : P (if c then a else b) := by
  split
  · exact ha
  · exact hb

theorem holds_dite {α : Type} {P : α → Prop} {c : Prop} [Decidable c] {a : c → α} {b : ¬ c → α} (ha : ∀ h, P (a h)) (hb : ∀ h, P (b h)) :
    P (dite c a b) := by
  split
  · exact ha _
  · exact hb _

theorem foldl_holds {α β : Type} {P : β → Prop} {f : β → α → β} (step : ∀ b a, P b → P (f b a)) {l : List α} {b : β} (h : P b) :
    P (l.foldl f b) := by
  induction l generalizing b with
  | nil => exact h
  | cons a l ih => exact ih (step b a h)

theorem memory_foldl {α : Type} {f : Memory → α → Memory} (step : ∀ x a, x.wf = true → (f x a).wf = true) {l : List α} {x : Memory}
    (h : x.wf = true) : (l.foldl f x).wf = true :=
  foldl_holds (P := fun x : Memory => x.wf = true) step h

theorem Gives.none {α : Type} {P : α → Prop} : Gives P none := nofun

theorem Gives.some {α : Type} {P : α → Prop} {a : α} (h : P a) : Gives P (some a) := by
  rintro _ ⟨⟩
  exact h

theorem Gives.getD {α : Type} {P : α → Prop} {r : Option α} {a : α} (hr : Gives P r) (ha : P a) : P (r.getD a) := by
  cases r with
  | none => exact ha
  | some b => exact hr b rfl

theorem Gives.map {α β : Type} {P : α → Prop} {Q : β → Prop} {r : Option α} {f : α → β} (hr : Gives P r) (hf : ∀ a, P a → Q (f a)) :
    Gives Q (r.map f) := by
  cases r with
  | none => exact .none
  | some a => exact .some (hf a (hr a rfl))

theorem Gives.findSome {α β : Type} {P : β → Prop} {f : α → Option β} (h : ∀ a, Gives P (f a)) (l : List α) : Gives P (l.findSome? f) := by
  intro b e
  obtain ⟨a, _, ha⟩ := List.exists_of_findSome?_eq_some e
  exact h a b ha

theorem Answers.error {ε α : Type} {P : α → Prop} {e : ε} : Answers P (.error e) := nofun

theorem Answers.ok {ε α : Type} {P : α → Prop} {a : α} (h : P a) : Answers P (.ok a : Except ε α) := by
  rintro _ ⟨⟩
  exact h

theorem next_formed {s : State} (h : MemFormed s.m) : NextFormed (.next s) := by
  rintro _ ⟨⟩
  exact h

/-! ## A machine, and a result that holds one -/

theorem MemFormed.mem {m : Mach} (h : MemFormed m) : m.mem.wf = true := h

theorem MemFormed.of_mem {m m' : Mach} (h : MemFormed m) (e : m'.mem = m.mem) : MemFormed m' := by
  rw [MemFormed, e]
  exact h

/-- A machine is formed by its memory alone, whatever its other fields are. -/
theorem formed_mk {now freeIdx tick out mode units resets errs notes noteSeq noteDropped evt leases hubTlb hubsLost image l2 homes mesh l1d l1i eside
    resv crange crangeBase crangeLen mem chans seams ident macBase answers chn links fqs pcie jobs engs benches stores microMask doms svc load flash
    subs pins} (h : Memory.wf mem = true) : MemFormed ⟨now, freeIdx, tick, out, mode, units, resets, errs, notes, noteSeq, noteDropped, evt, leases,
      hubTlb, hubsLost, image, l2, homes, mesh, l1d, l1i, eside, resv, crange, crangeBase, crangeLen, mem, chans, seams, ident, macBase, answers,
      chn, links, fqs, pcie, jobs, engs, benches, stores, microMask, doms, svc, load, flash, subs, pins⟩ := h

/-- The queues of the channels are no part of the form. -/
theorem memory_mk {x : Memory} {writes reads lines seq} (h : x.wf = true) : Memory.wf ⟨x.cells, x.poisoned, writes, reads, lines, seq⟩ = true := h

theorem SndFormed.mk {α : Type} {a : α} {m : Mach} (h : MemFormed m) : SndFormed (a, m) := h

theorem SndFormed.snd {α : Type} {r : α × Mach} (h : SndFormed r) : MemFormed r.2 := h

theorem SndFormed.of_eq {α : Type} {r : α × Mach} {a : α} {m : Mach} (h : SndFormed r) (e : r = (a, m)) : MemFormed m := by
  subst e
  exact h

theorem ThdFormed.mk {α β : Type} {a : α} {b : β} {m : Mach} (h : MemFormed m) : ThdFormed (a, b, m) := h

theorem ThdFormed.snd {α β : Type} {r : α × β × Mach} (h : ThdFormed r) : MemFormed r.2.2 := h

theorem ThdFormed.of_eq {α β : Type} {r : α × β × Mach} {a : α} {b : β} {m : Mach} (h : ThdFormed r) (e : r = (a, b, m)) : MemFormed m := by
  subst e
  exact h

theorem FstFormed.mk {α : Type} {a : α} {m : Mach} (h : MemFormed m) : FstFormed (m, a) := h

theorem FstFormed.fst {α : Type} {r : Mach × α} (h : FstFormed r) : MemFormed r.1 := h

theorem FstFormed.of_eq {α : Type} {r : Mach × α} {a : α} {m : Mach} (h : FstFormed r) (e : r = (m, a)) : MemFormed m := by
  subst e
  exact h

/-! ## The state -/

theorem Mach.reset_formed : MemFormed Mach.reset := formed_mk Memory.wf_reset

/-! ## The shared operations -/

theorem setUnit_formed {m kind index u} (hm : MemFormed m) : MemFormed (setUnit m kind index u) := hm.of_mem (setUnit_mem ..)

theorem setUState_formed {m kind index st} (hm : MemFormed m) : MemFormed (setUState m kind index st) := hm.of_mem (setUState_mem ..)

theorem setLease_formed {m l x} (hm : MemFormed m) : MemFormed (setLease m l x) := hm.of_mem (setLease_mem ..)

theorem modLease_formed {m l f} (hm : MemFormed m) : MemFormed (modLease m l f) := hm.of_mem (modLease_mem ..)

theorem setL2_formed {m b x} (hm : MemFormed m) : MemFormed (setL2 m b x) := hm.of_mem (setL2_mem ..)

theorem modL2_formed {m b f} (hm : MemFormed m) : MemFormed (modL2 m b f) := hm.of_mem (modL2_mem ..)

theorem setHome_formed {m h x} (hm : MemFormed m) : MemFormed (setHome m h x) := hm.of_mem (setHome_mem ..)

theorem modHome_formed {m h f} (hm : MemFormed m) : MemFormed (modHome m h f) := hm.of_mem (modHome_mem ..)

theorem setChan_formed {m c x} (hm : MemFormed m) : MemFormed (setChan m c x) := hm.of_mem (setChan_mem ..)

theorem modChan_formed {m c f} (hm : MemFormed m) : MemFormed (modChan m c f) := hm.of_mem (modChan_mem ..)

theorem setSeam_formed {m s x} (hm : MemFormed m) : MemFormed (setSeam m s x) := hm.of_mem (setSeam_mem ..)

theorem modSeam_formed {m s f} (hm : MemFormed m) : MemFormed (modSeam m s f) := hm.of_mem (modSeam_mem ..)

theorem modEvt_formed {m f} (hm : MemFormed m) : MemFormed (modEvt m f) := hm.of_mem (modEvt_mem ..)

theorem modMode_formed {m f} (hm : MemFormed m) : MemFormed (modMode m f) := hm.of_mem (modMode_mem ..)

theorem emit_formed {m o} (hm : MemFormed m) : MemFormed (emit m o) := hm.of_mem (emit_mem ..)

theorem send_formed {m x} (hm : MemFormed m) : MemFormed (send m x) := hm.of_mem (send_mem ..)

theorem touch_formed {m} (hm : MemFormed m) : MemFormed (touch m) := hm.of_mem (touch_mem ..)

theorem takeFree_formed {m} (hm : MemFormed m) : SndFormed (takeFree m) := hm.of_mem (takeFree_logged ..).mem

theorem takeChoice_formed {m n} (hm : MemFormed m) : SndFormed (takeChoice m n) := hm.of_mem (takeChoice_logged ..).mem

theorem setMaster_formed {m i x} (hm : MemFormed m) : MemFormed (setMaster m i x) := modEvt_formed hm

theorem takeStamp_formed {m src} (hm : MemFormed m) : SndFormed (takeStamp m src) := hm.of_mem (takeStamp_logged ..).mem

theorem svcSend_formed {m p type seq status body} (hm : MemFormed m) : MemFormed (svcSend m p type seq status body) := by
  dsimp only [svcSend]
  exact emit_formed hm

theorem noteSend_formed {m n} (hm : MemFormed m) : SndFormed (noteSend m n) := hm.of_mem (noteSend_logged ..).mem

theorem notify_formed {m content body} (hm : MemFormed m) : MemFormed (notify m content body) := hm.of_mem (notify_logged ..).mem

theorem raiseEventAt_formed {m cls src lease vector payload engine} (hm : MemFormed m) : MemFormed (raiseEventAt m cls src lease vector payload
    engine) :=
  hm.of_mem (raiseEventAt_logged ..).mem

theorem raiseEvent_formed {m cls src lease vector payload} (hm : MemFormed m) : MemFormed (raiseEvent m cls src lease vector payload) :=
  hm.of_mem (raiseEvent_logged ..).mem

theorem raiseManager_formed {m cls src payload} (hm : MemFormed m) : MemFormed (raiseManager m cls src payload) :=
  hm.of_mem (raiseManager_logged ..).mem

theorem raiseCopy_formed {m cls src payload} (hm : MemFormed m) : MemFormed (raiseCopy m cls src payload) := hm.of_mem (raiseCopy_logged ..).mem

theorem raiseErrD_formed {m cause src det detail ls addr interruption} (hm : MemFormed m) : MemFormed (raiseErrD m cause src det detail ls addr
    interruption) :=
  hm.of_mem (raiseErrD_logged ..).mem

theorem raiseErr_formed {m cause src detail} (hm : MemFormed m) : MemFormed (raiseErr m cause src detail) := hm.of_mem (raiseErr_logged ..).mem

/-! ## Rejections and held units (R105, R126, R127, R129, R139 to R141) -/

theorem reject_formed {m img r further st} (hm : MemFormed m) : MemFormed (reject m img r further st) := hm.of_mem (reject_logged ..).mem

theorem releaseHeld_formed {m} (hm : MemFormed m) : MemFormed (releaseHeld m) := by
  dsimp only [releaseHeld]
  exact formed_mk (MemFormed.mem (foldl_holds (fun _ _ g => holds_ite (setUState_formed g) g) hm))

theorem loadAbandoned_formed {m r} (hm : MemFormed m) : MemFormed (loadAbandoned m r) := reject_formed (releaseHeld_formed hm)

theorem preempt_formed {m units} (hm : MemFormed m) : MemFormed (preempt m units) := by
  dsimp only [preempt]
  refine holds_ite hm ?_
  split
  · exact hm
  · exact loadAbandoned_formed hm

/-! ## Memory channels and seams (R490 to R539) -/

theorem enterMode_formed {m st cause} (hm : MemFormed m) : MemFormed (enterMode m st cause) := hm.of_mem (enterMode_logged ..).mem

theorem beginRecovery_formed {m f} (hm : MemFormed m) : MemFormed (beginRecovery m f) := by
  dsimp only [beginRecovery]
  exact holds_ite (enterMode_formed (modMode_formed hm)) (modMode_formed hm)

theorem endRecovery_formed {m f} (hm : MemFormed m) : MemFormed (endRecovery m f) := modMode_formed hm

theorem memRange_formed {m h n src} (hm : MemFormed m) : MemFormed (memRange m h n src) := raiseErrD_formed hm

theorem markCatchUp_formed {m n} (hm : MemFormed m) : MemFormed (markCatchUp m n) := by
  dsimp only [markCatchUp]
  exact holds_ite (setSeam_formed hm) hm

theorem modSub_formed {m cs f} (hm : MemFormed m) : MemFormed (modSub m cs f) := modChan_formed hm

theorem writeLeft_formed {m cs} (hm : MemFormed m) : MemFormed (writeLeft m cs) := modSub_formed hm

theorem dropWrites_formed {m n} (hm : MemFormed m) : MemFormed (dropWrites m n) :=
  foldl_holds (fun _ _ g => foldl_holds (fun _ _ g1 => writeLeft_formed g1) (formed_mk (memory_mk g))) hm

theorem writeSettled_formed {m w} (hm : MemFormed m) : MemFormed (writeSettled m w) := formed_mk (memory_mk (memPut_wf _ _ _ _ hm))

theorem dropPieces_formed {m w keep} (hm : MemFormed m) : MemFormed (dropPieces m w keep) := by
  dsimp only [dropPieces]
  exact foldl_holds (fun _ _ g => writeLeft_formed g) (holds_ite (writeSettled_formed hm) (formed_mk (memory_mk hm)))

theorem memWriteNow_formed {m n d poison} (hm : MemFormed m) : MemFormed (memWriteNow m n d poison) := by
  dsimp only [memWriteNow]
  exact holds_ite hm (formed_mk (memPut_wf _ _ _ _ (dropWrites_formed (markCatchUp_formed hm))))

theorem poisonNow_formed {m n} (hm : MemFormed m) : MemFormed (poisonNow m n) := formed_mk (memPoison_wf _ _ (memory_mk hm))

theorem abortSelfRefresh_formed {m cs} (hm : MemFormed m) : MemFormed (abortSelfRefresh m cs) := modChan_formed hm

theorem queueRead_formed {m n p src ls stream} (hm : MemFormed m) : MemFormed (queueRead m n p src ls stream) := by
  dsimp only [queueRead]
  exact formed_mk (memory_mk (modSub_formed (abortSelfRefresh_formed hm)))

theorem setRead_formed {m n r} (hm : MemFormed m) : MemFormed (setRead m n r) := formed_mk (memory_mk hm)

theorem startRead_formed {m n src ls stream} (hm : MemFormed m) : MemFormed (startRead m n src ls stream) := by
  dsimp only [startRead]
  refine holds_ite (setRead_formed hm) ?_
  refine setRead_formed ?_
  exact holds_ite (foldl_holds (fun _ _ g => queueRead_formed g) hm) (modSeam_formed (foldl_holds (fun _ _ g => queueRead_formed g) hm))

theorem readServed_formed {m n} (hm : MemFormed m) : MemFormed (readServed m n) := by
  dsimp only [readServed]
  split
  · exact hm
  · exact setRead_formed (foldl_holds (fun _ _ g => modSub_formed g) hm)

theorem endRead_formed {m n} (hm : MemFormed m) : MemFormed (endRead m n) := formed_mk (memory_mk hm)

theorem acceptWrite_formed {m h n d poison src ls} (hm : MemFormed m) : MemFormed (acceptWrite m h n d poison src ls) := by
  dsimp only [acceptWrite]
  refine holds_ite (memRange_formed hm) ?_
  exact holds_ite hm (foldl_holds (fun _ _ g => modSub_formed (abortSelfRefresh_formed g)) (formed_mk (memory_mk (markCatchUp_formed hm))))

theorem machineCheck_formed {m src l lines} (hm : MemFormed m) : MemFormed (machineCheck m src l lines) := by
  dsimp only [machineCheck]
  exact foldl_holds (fun _ _ g => holds_ite (raiseCopy_formed (raiseEvent_formed g)) (raiseEvent_formed g)) hm

theorem linesLost_formed {m s ks} (hm : MemFormed m) : MemFormed (linesLost m s ks) := by
  dsimp only [linesLost]
  exact holds_ite hm (raiseErr_formed (modSeam_formed (foldl_holds (fun _ _ g => holds_ite g (machineCheck_formed g)) hm)))

theorem lineLost_formed {m n} (hm : MemFormed m) : MemFormed (lineLost m n) := linesLost_formed (formed_mk (memPoison_wf _ _ hm))

theorem startRebuild_formed {m s p target} (hm : MemFormed m) : MemFormed (startRebuild m s p target) := by
  dsimp only [startRebuild]
  exact modChan_formed (modSeam_formed hm)

theorem seamLoses_formed {m s p spare} (hm : MemFormed m) : MemFormed (seamLoses m s p spare) := by
  dsimp only [seamLoses]
  split
  · split
    · exact startRebuild_formed hm
    · exact modSeam_formed hm
  · exact holds_ite hm (raiseErr_formed (linesLost_formed (modSeam_formed hm)))
  · exact holds_ite hm (raiseErr_formed (linesLost_formed (modSeam_formed hm)))
  · refine holds_ite ?_ (linesLost_formed (modSeam_formed (formed_mk (memory_foldl (fun _ _ g => memPoison_wf _ _ g) ?_))))
    · split
      · exact startRebuild_formed hm
      · exact modSeam_formed hm
    · split
      · exact modChan_formed hm
      · exact modChan_formed (holds_ite (modSeam_formed (modChan_formed hm)) (modChan_formed hm))
  · exact hm

theorem readLost_formed {m n q} (hm : MemFormed m) : MemFormed (readLost m n q) := by
  dsimp only [readLost]
  exact holds_ite (setRead_formed hm) (lineLost_formed (setRead_formed hm))

theorem pieceGone_formed {m n p src ls unc} (hm : MemFormed m) : MemFormed (pieceGone m n p src ls unc) := by
  dsimp only [pieceGone]
  split
  · exact hm
  · exact holds_ite (readLost_formed hm) (queueRead_formed (holds_ite (setRead_formed hm) (modSeam_formed (setRead_formed hm))))

theorem drainChan_formed {m c} (hm : MemFormed m) : MemFormed (drainChan m c) := by
  dsimp only [drainChan]
  refine foldl_holds (fun _ _ g => ?_) ?_
  · exact foldl_holds (fun _ _ g1 => pieceGone_formed g1) (modSub_formed g)
  · exact foldl_holds (fun _ _ g => holds_ite (dropPieces_formed g) g) hm

theorem channelGone_formed {m c spare} (hm : MemFormed m) : MemFormed (channelGone m c spare) := by
  dsimp only [channelGone]
  refine foldl_holds (fun _ _ g => holds_ite ?_ g) (foldl_holds (fun _ _ g => holds_ite g (seamLoses_formed g)) hm)
  split
  · exact startRebuild_formed g
  · exact modSeam_formed g

theorem channelFails_formed {m c trigger} (hm : MemFormed m) : MemFormed (channelFails m c trigger) := by
  dsimp only [channelFails]
  refine holds_ite hm ?_
  refine holds_ite ?_ ?_
  · refine modMode_formed (drainChan_formed (channelGone_formed ?_))
    split
    · exact preempt_formed (preempt_formed (raiseErr_formed (setUState_formed (modChan_formed hm))))
    · exact preempt_formed (raiseErr_formed (setUState_formed (modChan_formed hm)))
  · refine holds_ite (beginRecovery_formed (drainChan_formed (channelGone_formed ?_))) (drainChan_formed (channelGone_formed ?_))
    · split
      · exact preempt_formed (preempt_formed (raiseErr_formed (setUState_formed (modChan_formed hm))))
      · exact preempt_formed (raiseErr_formed (setUState_formed (modChan_formed hm)))
    · split
      · exact preempt_formed (preempt_formed (raiseErr_formed (setUState_formed (modChan_formed hm))))
      · exact preempt_formed (raiseErr_formed (setUState_formed (modChan_formed hm)))

theorem chanRecovers_formed {m c trigger} (hm : MemFormed m) : MemFormed (chanRecovers m c trigger) := by
  dsimp only [chanRecovers]
  split
  · exact hm
  · exact hm
  · exact beginRecovery_formed (foldl_holds (fun _ _ g => startRebuild_formed g) (preempt_formed hm))

theorem countUnc_formed {m c n} (hm : MemFormed m) : MemFormed (countUnc m c n) := modChan_formed hm

theorem uncFails_formed {m c} (hm : MemFormed m) : MemFormed (uncFails m c) := holds_ite (channelFails_formed hm) hm

theorem pieceRebuilt_formed {m c n p} (hm : MemFormed m) : MemFormed (pieceRebuilt m c n p) := by
  dsimp only [pieceRebuilt]
  exact raiseErrD_formed (modSeam_formed hm)

theorem pieceGood_formed {m n p} (hm : MemFormed m) : MemFormed (pieceGood m n p) := by
  dsimp only [pieceGood]
  split
  · exact hm
  · split
    · exact holds_ite (pieceRebuilt_formed (setRead_formed hm)) (setRead_formed hm)
    · exact setRead_formed hm

theorem pieceBad_formed {m c n p src ls} (hm : MemFormed m) : MemFormed (pieceBad m c n p src ls) :=
  uncFails_formed (pieceGone_formed (countUnc_formed hm))

theorem pieceCorrected_formed {m c sub n} (hm : MemFormed m) : MemFormed (pieceCorrected m c sub n) := by
  dsimp only [pieceCorrected]
  exact raiseErrD_formed (modChan_formed hm)

theorem caParityError_formed {m c} (hm : MemFormed m) : MemFormed (caParityError m c) := by
  dsimp only [caParityError]
  exact holds_ite (channelFails_formed (modChan_formed hm)) (modChan_formed hm)

theorem touchRow_formed {m c i r} (hm : MemFormed m) : MemFormed (touchRow m c i r) := by
  dsimp only [touchRow]
  exact modSub_formed hm

theorem answered_formed {m c} (hm : MemFormed m) : MemFormed (answered m c) := modChan_formed hm

theorem servePiece_formed {m c i ecc} (hm : MemFormed m) : MemFormed (servePiece m c i ecc) := by
  dsimp only [servePiece]
  refine holds_ite hm ?_
  split
  · exact hm
  · refine holds_ite (pieceGood_formed (modSub_formed hm)) (holds_ite (caParityError_formed hm) ?_)
    split
    · exact pieceGood_formed (modSub_formed (touchRow_formed (answered_formed hm)))
    · exact pieceCorrected_formed (pieceGood_formed (modSub_formed (touchRow_formed (answered_formed hm))))
    · exact pieceBad_formed (modSub_formed (touchRow_formed (answered_formed hm)))
    · exact modSub_formed (touchRow_formed (answered_formed hm))

theorem serveWrite_formed {m c i parity} (hm : MemFormed m) : MemFormed (serveWrite m c i parity) := by
  dsimp only [serveWrite]
  refine holds_ite hm ?_
  split
  · exact hm
  · refine holds_ite (caParityError_formed hm) ?_
    split
    · exact hm
    · exact dropPieces_formed (touchRow_formed (answered_formed hm))

theorem startRetrain_formed {m c} (hm : MemFormed m) : MemFormed (startRetrain m c) := by
  dsimp only [startRetrain]
  exact drainChan_formed (modChan_formed (foldl_holds (fun _ _ g => modSeam_formed g) hm))

theorem offerSpare_formed {m c} (hm : MemFormed m) : MemFormed (offerSpare m c) := by
  dsimp only [offerSpare]
  split
  · exact hm
  · exact beginRecovery_formed (foldl_holds (fun _ _ g => startRebuild_formed g) hm)

theorem becomeSpare_formed {m c} (hm : MemFormed m) : MemFormed (becomeSpare m c) := by
  dsimp only [becomeSpare]
  exact offerSpare_formed (setUState_formed (modChan_formed hm))

theorem applyTraining_formed {m c r} (hm : MemFormed m) : MemFormed (applyTraining m c r) := by
  dsimp only [applyTraining]
  exact setChan_formed hm

theorem mchCmd_formed {m c code} (hm : MemFormed m) : MemFormed (mchCmd m c code) := by
  dsimp only [mchCmd]
  split
  · exact holds_ite (modChan_formed hm) (holds_ite (modChan_formed hm) (modChan_formed (startRetrain_formed hm)))
  · refine holds_ite (modChan_formed (setUState_formed (modChan_formed hm))) (holds_ite ?_ (modChan_formed hm))
    split
    · exact modChan_formed hm
    · refine modChan_formed ?_
      refine holds_ite ?_ ?_
      · exact beginRecovery_formed (drainChan_formed (setUState_formed (modChan_formed (channelGone_formed hm))))
      · exact drainChan_formed (setUState_formed (modChan_formed (channelGone_formed hm)))
  · refine holds_ite ?_ (modChan_formed hm)
    exact holds_ite (modChan_formed (setUState_formed (drainChan_formed (channelGone_formed (modChan_formed hm))))) (modChan_formed hm)
  · exact holds_ite (modChan_formed (emit_formed (modChan_formed hm))) (modChan_formed hm)
  · exact holds_ite (holds_ite (modChan_formed (emit_formed (modChan_formed hm))) (modChan_formed hm)) (modChan_formed hm)
  · exact holds_ite (modChan_formed (becomeSpare_formed hm)) (modChan_formed hm)
  · exact modChan_formed hm

/-! ## The bench L2s and the home nodes (R400 to R489) -/

theorem modDom_formed {m d f} (hm : MemFormed m) : MemFormed (modDom m d f) := formed_mk hm

theorem noteFault_formed {m f} (hm : MemFormed m) : MemFormed (noteFault m f) := modMode_formed hm

theorem benchError_formed {m b code n} (hm : MemFormed m) : MemFormed (benchError m b code n) := by
  dsimp only [benchError]
  exact noteFault_formed (raiseErrD_formed hm)

theorem homeError_formed {m h code n} (hm : MemFormed m) : MemFormed (homeError m h code n) := by
  dsimp only [homeError]
  exact noteFault_formed (modHome_formed (raiseErrD_formed hm))

theorem dropL1I_formed {m b n} (hm : MemFormed m) : MemFormed (dropL1I m b n) := formed_mk hm

theorem dropL1_formed {m b n} (hm : MemFormed m) : MemFormed (dropL1 m b n) := by
  dsimp only [dropL1]
  exact modL2_formed (formed_mk (dropL1I_formed hm))

theorem clearResv_formed {m n except} (hm : MemFormed m) : MemFormed (clearResv m n except) := formed_mk hm

theorem setLine_formed {m b n x} (hm : MemFormed m) : MemFormed (setLine m b n x) := modL2_formed hm

theorem delLine_formed {m b n} (hm : MemFormed m) : MemFormed (delLine m b n) := modL2_formed hm

theorem benchReq_formed {m b op n ls self incl d poison} (hm : MemFormed m) : MemFormed (benchReq m b op n ls self incl d poison) := send_formed hm

theorem replaceLine_formed {m b n} (hm : MemFormed m) : MemFormed (replaceLine m b n) := by
  dsimp only [replaceLine]
  split
  · exact hm
  · split
    exacts [delLine_formed (dropL1_formed hm), benchReq_formed (setLine_formed (dropL1_formed hm)),
      benchReq_formed (setLine_formed (dropL1_formed hm)), benchReq_formed (setLine_formed (dropL1_formed hm)), dropL1_formed hm]

theorem l2Miss_formed {m b n ls own pf cause} (hm : MemFormed m) : MemFormed (l2Miss m b n ls own pf cause) := by
  dsimp only [l2Miss]
  exact benchReq_formed (setLine_formed hm)

theorem l2Seat_formed {m b n ls} (hm : MemFormed m) : Gives MemFormed (l2Seat m b n ls) := by
  dsimp only [l2Seat]
  refine holds_ite (.some hm) ?_
  split
  · refine .some (modL2_formed (setLine_formed ?_))
    split
    · exact replaceLine_formed hm
    · exact hm
  · exact .none

theorem l2Load_formed {m b n ls cause} (hm : MemFormed m) : SndFormed (l2Load m b n ls cause) := by
  dsimp only [l2Load]
  split
  · exact holds_ite (l2Miss_formed hm) hm
  · split
    exacts [modL2_formed (touch_formed (Gives.getD (l2Seat_formed hm) hm)), modL2_formed (touch_formed (Gives.getD (l2Seat_formed hm) hm)),
      modL2_formed (touch_formed (Gives.getD (l2Seat_formed hm) hm)), modL2_formed (touch_formed (Gives.getD (l2Seat_formed hm) hm)),
      modL2_formed (touch_formed (Gives.getD (l2Seat_formed hm) hm)), modL2_formed (touch_formed (Gives.getD (l2Seat_formed hm) hm)),
      holds_ite (setLine_formed hm) hm, hm]

theorem l2Store_formed {m b n ls cause} (hm : MemFormed m) : SndFormed (l2Store m b n ls cause) := by
  dsimp only [l2Store]
  split
  · exact holds_ite (l2Miss_formed hm) hm
  · split
    · exact hm
    · next e1 =>
      have h2 := l2Seat_formed hm _ e1
      split
      · exact h2
      · split
        exacts [setLine_formed (touch_formed h2), setLine_formed (touch_formed h2), holds_ite (benchReq_formed (setLine_formed h2)) h2,
          holds_ite (benchReq_formed (setLine_formed h2)) h2, h2]

theorem l2Prefetch_formed {m b n ls} (hm : MemFormed m) : MemFormed (l2Prefetch m b n ls) := holds_ite hm (l2Miss_formed hm)

theorem l2Put_formed {m b n mask d level} (hm : MemFormed m) : MemFormed (l2Put m b n mask d level) := by
  dsimp only [l2Put]
  split
  · exact hm
  · exact clearResv_formed (setLine_formed hm)

theorem benchRsp_formed {m b n kind d} (hm : MemFormed m) : MemFormed (benchRsp m b n kind d) := send_formed hm

theorem answerSnoop_formed {m b n op maint incl} (hm : MemFormed m) : MemFormed (answerSnoop m b n op maint incl) := by
  dsimp only [answerSnoop]
  split
  · exact benchRsp_formed hm
  · refine holds_ite (benchRsp_formed hm) ?_
    split
    exacts [benchRsp_formed hm, benchRsp_formed (delLine_formed (dropL1_formed hm)), benchRsp_formed (dropL1I_formed hm),
      benchRsp_formed (delLine_formed (dropL1_formed hm)), benchRsp_formed (setLine_formed hm),
      benchRsp_formed (delLine_formed (dropL1_formed hm)), benchRsp_formed (dropL1I_formed hm),
      benchRsp_formed (delLine_formed (dropL1_formed hm)), benchRsp_formed hm, benchRsp_formed (delLine_formed (dropL1_formed hm)),
      benchRsp_formed (setLine_formed (dropL1I_formed hm)), benchRsp_formed (delLine_formed (dropL1_formed hm)),
      benchRsp_formed (setLine_formed hm), benchRsp_formed (delLine_formed (dropL1_formed hm)),
      benchRsp_formed (setLine_formed (dropL1I_formed hm)), benchRsp_formed (delLine_formed (dropL1_formed hm)), benchRsp_formed hm,
      benchRsp_formed hm, benchRsp_formed hm, benchRsp_formed (setLine_formed (dropL1_formed hm)), benchRsp_formed (dropL1I_formed hm),
      benchRsp_formed (setLine_formed (dropL1_formed hm)), benchRsp_formed hm, benchRsp_formed (setLine_formed (dropL1_formed hm)),
      benchRsp_formed (setLine_formed (dropL1I_formed hm)), benchRsp_formed (setLine_formed (dropL1_formed hm)),
      benchRsp_formed (setLine_formed (dropL1_formed hm)), benchRsp_formed (setLine_formed (dropL1_formed hm)),
      benchRsp_formed (setLine_formed (dropL1_formed hm)), benchRsp_formed (setLine_formed (dropL1_formed hm)),
      benchRsp_formed (setLine_formed (dropL1_formed hm)), benchRsp_formed (setLine_formed (dropL1_formed hm)), benchRsp_formed hm]

theorem benchSnoop_formed {m b n op maint incl} (hm : MemFormed m) : MemFormed (benchSnoop m b n op maint incl) := by
  dsimp only [benchSnoop]
  exact holds_ite (modL2_formed hm) (answerSnoop_formed (modL2_formed hm))

theorem sideFill_formed {m b n y} (hm : MemFormed m) : MemFormed (sideFill m b n y) := by
  dsimp only [sideFill]
  split
  · exact holds_ite (replaceLine_formed (modL2_formed (setLine_formed hm))) (modL2_formed (setLine_formed hm))
  · exact modL2_formed (setLine_formed hm)

theorem benchFill_formed {m b n kind d poison mhz} (hm : MemFormed m) : MemFormed (benchFill m b n kind d poison mhz) := by
  dsimp only [benchFill]
  split
  · exact benchError_formed hm
  · refine holds_ite (benchError_formed hm) (holds_ite (send_formed (sideFill_formed (touch_formed hm))) ?_)
    split
    · exact hm
    · refine send_formed (setLine_formed (touch_formed ?_))
      split
      · exact replaceLine_formed hm
      · exact hm

theorem benchGrant_formed {m b n mhz} (hm : MemFormed m) : MemFormed (benchGrant m b n mhz) := by
  dsimp only [benchGrant]
  split
  · exact benchError_formed hm
  · split
    · exact send_formed (setLine_formed hm)
    · exact send_formed (setLine_formed hm)
    · exact benchError_formed hm

theorem fillKept_formed {m b n} (hm : MemFormed m) : MemFormed (fillKept m b n) := holds_ite hm (replaceLine_formed hm)

theorem fillLine_formed {m b n kind d poison access} (hm : MemFormed m) (haccess : ∀ m, MemFormed m → MemFormed (access m)) : MemFormed (fillLine m b
    n kind d poison access) := by
  dsimp only [fillLine]
  split
  · exact fillKept_formed (haccess _ (benchFill_formed hm))
  · exact fillKept_formed (haccess _ (benchFill_formed hm))
  · exact benchFill_formed hm

theorem grantLine_formed {m b n access} (hm : MemFormed m) (haccess : ∀ m, MemFormed m → MemFormed (access m)) : MemFormed (grantLine m b n access)
    := by
  dsimp only [grantLine]
  split
  · exact holds_ite (replaceLine_formed (haccess _ (benchGrant_formed hm))) (haccess _ (benchGrant_formed hm))
  · exact holds_ite (replaceLine_formed (haccess _ (benchGrant_formed hm))) (haccess _ (benchGrant_formed hm))
  · exact benchGrant_formed hm

theorem l2Invalidate_formed {m b} (hm : MemFormed m) : MemFormed (l2Invalidate m b) :=
  foldl_holds (fun _ _ g => holds_ite (replaceLine_formed g) g) hm

theorem trackerFree_formed {m b} (hm : MemFormed m) : MemFormed (trackerFree m b) := holds_ite (l2Invalidate_formed hm) hm

theorem benchWbAck_formed {m b n} (hm : MemFormed m) : MemFormed (benchWbAck m b n) := by
  dsimp only [benchWbAck]
  split
  exacts [trackerFree_formed (delLine_formed hm), trackerFree_formed (delLine_formed hm), trackerFree_formed (delLine_formed hm),
    benchError_formed hm]

theorem benchWbStale_formed {m b n} (hm : MemFormed m) : MemFormed (benchWbStale m b n) := by
  dsimp only [benchWbStale]
  split
  · exact trackerFree_formed (modL2_formed (delLine_formed hm))
  · exact benchError_formed hm

theorem tenureEnds_formed {m b n} (hm : MemFormed m) : MemFormed (tenureEnds m b n) := by
  dsimp only [tenureEnds]
  split
  · exact hm
  · split
    · exact setLine_formed hm
    · exact answerSnoop_formed (modL2_formed (setLine_formed hm))

theorem tenureOver_formed {m b n} (hm : MemFormed m) : MemFormed (tenureOver m b n) := by
  dsimp only [tenureOver]
  split
  · exact hm
  · exact holds_ite hm (tenureEnds_formed hm)

theorem dropL3_formed {m h n} (hm : MemFormed m) : MemFormed (dropL3 m h n) := hm.of_mem (dropL3_mem ..)

theorem cleanL3_formed {m h n} (hm : MemFormed m) : MemFormed (cleanL3 m h n) := by
  dsimp only [cleanL3]
  split
  · exact hm
  · exact holds_ite hm (send_formed (modHome_formed (memWriteNow_formed hm)))

theorem putL3_formed {m h n d poison dirty} (hm : MemFormed m) : MemFormed (putL3 m h n d poison dirty) := by
  dsimp only [putL3]
  split
  · exact modHome_formed (touch_formed hm)
  · split
    · exact modHome_formed (touch_formed hm)
    · split
      · exact modHome_formed (touch_formed (dropL3_formed (cleanL3_formed hm)))
      · exact hm

theorem useL3_formed {m h n} (hm : MemFormed m) : MemFormed (useL3 m h n) := modHome_formed (touch_formed hm)

theorem makeRoom_formed {m h n} (hm : MemFormed m) : MemFormed (makeRoom m h n) := by
  dsimp only [makeRoom]
  refine holds_ite hm ?_
  split
  · exact cleanL3_formed hm
  · exact hm

theorem setTxn_formed {m h n t} (hm : MemFormed m) : MemFormed (setTxn m h n t) := hm.of_mem (setTxn_mem ..)

theorem setDir_formed {m h n d} (hm : MemFormed m) : MemFormed (setDir m h n d) := hm.of_mem (setDir_mem ..)

theorem sendSnoops_formed {m r op dst} (hm : MemFormed m) : MemFormed (sendSnoops m r op dst) := by
  dsimp only [sendSnoops]
  exact foldl_holds (fun _ _ g => send_formed g) hm

theorem homeStartRead_formed {m h r} (hm : MemFormed m) : MemFormed (homeStartRead m h r) := holds_ite (useL3_formed hm) (startRead_formed hm)

theorem grant_formed {m h t kind d poison} (hm : MemFormed m) : MemFormed (grant m h t kind d poison) := by
  dsimp only [grant]
  exact send_formed (setTxn_formed (setDir_formed (touch_formed (holds_ite hm (dropL3_formed hm)))))

theorem homeWrite_formed {m h t d poison after forceMem} (hm : MemFormed m) : MemFormed (homeWrite m h t d poison after forceMem) := by
  dsimp only [homeWrite]
  refine setTxn_formed ?_
  exact holds_ite (holds_ite (clearResv_formed hm) hm) (send_formed (putL3_formed (makeRoom_formed (holds_ite (clearResv_formed hm) hm))))

theorem homeAck_formed {m r} (hm : MemFormed m) : MemFormed (homeAck m r) := by
  dsimp only [homeAck]
  split
  exacts [send_formed hm, send_formed hm, send_formed hm, send_formed hm, send_formed hm, send_formed hm, send_formed hm, hm]

theorem homeStable_formed {m h n} (hm : MemFormed m) : MemFormed (homeStable m h n) := modHome_formed (endRead_formed hm)

theorem homeResolve_formed {m h t} (hm : MemFormed m) : MemFormed (homeResolve m h t) := by
  dsimp only [homeResolve]
  split
  · exact holds_ite (grant_formed hm) (holds_ite (homeWrite_formed hm) (grant_formed hm))
  · exact grant_formed hm
  · exact holds_ite (send_formed (setTxn_formed (dropL3_formed (setDir_formed hm)))) (grant_formed hm)
  · exact holds_ite (homeWrite_formed (send_formed hm)) (homeStable_formed (send_formed hm))
  · exact homeWrite_formed hm
  · exact holds_ite (homeWrite_formed hm) (holds_ite (homeWrite_formed hm) (homeStable_formed (homeAck_formed hm)))
  · exact holds_ite (homeWrite_formed (dropL3_formed hm)) (homeStable_formed (homeAck_formed (dropL3_formed hm)))
  · exact homeStable_formed (homeAck_formed (dropL3_formed hm))
  · exact holds_ite (homeWrite_formed (setDir_formed hm)) (homeStable_formed (setDir_formed hm))
  · exact homeWrite_formed (dropL3_formed hm)
  · exact homeStable_formed hm
  · exact homeStable_formed hm
  · exact homeStable_formed hm

theorem evictStart_formed {m h n} (hm : MemFormed m) : MemFormed (evictStart m h n) := by
  dsimp only [evictStart]
  split
  · exact hm
  · exact sendSnoops_formed (setTxn_formed (modHome_formed hm))

theorem dirWait_formed {m h r} (hm : MemFormed m) : MemFormed (dirWait m h r) := evictStart_formed (modHome_formed hm)

theorem snoopRound_formed {m h r op dst withRead upgHolder} (hm : MemFormed m) : MemFormed (snoopRound m h r op dst withRead upgHolder) := by
  dsimp only [snoopRound]
  refine holds_ite ?_ ?_
  · exact homeResolve_formed (setTxn_formed (holds_ite (homeStartRead_formed hm) hm))
  · exact sendSnoops_formed (setTxn_formed (holds_ite (homeStartRead_formed hm) hm))

theorem serveReq_formed {m h r} (hm : MemFormed m) : MemFormed (serveReq m h r) := by
  dsimp only [serveReq]
  split
  · exact holds_ite (homeStartRead_formed (setTxn_formed hm)) (snoopRound_formed hm)
  · split
    exacts [homeStartRead_formed (setTxn_formed hm), snoopRound_formed hm, snoopRound_formed hm, snoopRound_formed hm]
  · split
    · refine holds_ite (snoopRound_formed hm) ?_
      split
      exacts [homeStartRead_formed (setTxn_formed hm), snoopRound_formed hm, snoopRound_formed hm, snoopRound_formed hm]
    · refine holds_ite (homeError_formed hm) ?_
      split
      exacts [homeStartRead_formed (setTxn_formed hm), snoopRound_formed hm, snoopRound_formed hm, snoopRound_formed hm]
    · refine holds_ite (snoopRound_formed hm) ?_
      split
      exacts [homeStartRead_formed (setTxn_formed hm), snoopRound_formed hm, snoopRound_formed hm, snoopRound_formed hm]
    · split
      exacts [homeStartRead_formed (setTxn_formed hm), snoopRound_formed hm, snoopRound_formed hm, snoopRound_formed hm]
  · refine holds_ite ?_ ?_
    · exact homeAck_formed (setDir_formed (holds_ite (putL3_formed hm) hm))
    · exact holds_ite (homeError_formed hm) (send_formed (modHome_formed hm))
  · exact holds_ite (homeWrite_formed (setDir_formed hm)) (send_formed (modHome_formed hm))
  · exact holds_ite (homeStartRead_formed (setTxn_formed hm)) (snoopRound_formed hm)
  · split
    exacts [holds_ite (homeWrite_formed hm) (homeStartRead_formed (setTxn_formed hm)), snoopRound_formed hm, snoopRound_formed hm,
      sendSnoops_formed (sendSnoops_formed (setTxn_formed hm))]
  · split
    exacts [holds_ite (homeResolve_formed (setTxn_formed hm)) (homeAck_formed hm), snoopRound_formed hm, snoopRound_formed hm,
      snoopRound_formed hm]
  · exact holds_ite (homeAck_formed (dropL3_formed hm)) (snoopRound_formed hm)
  · exact holds_ite (homeResolve_formed (setTxn_formed hm)) (snoopRound_formed hm)
  · exact snoopRound_formed hm
  · exact hm

theorem serveOrWait_formed {m h r} (hm : MemFormed m) : MemFormed (serveOrWait m h r) := holds_ite (dirWait_formed hm) (serveReq_formed hm)

theorem homeNext_formed {fuel m h n} (hm : MemFormed m) : MemFormed (homeNext fuel m h n) := by
  induction fuel generalizing m with
  | zero => exact hm
  | succ _ ih =>
    dsimp only [homeNext]
    refine holds_ite hm ?_
    split
    · exact modHome_formed hm
    · exact ih (serveOrWait_formed (modHome_formed hm))

theorem homeQueue_formed {m h n} (hm : MemFormed m) : MemFormed (homeQueue m h n) := homeNext_formed hm

theorem dirRetry_formed {m h} (hm : MemFormed m) : MemFormed (dirRetry m h) :=
  foldl_holds (fun _ _ g => holds_ite (evictStart_formed g) (homeQueue_formed (serveReq_formed (modHome_formed g)))) hm

theorem homeDrain_formed {m h n} (hm : MemFormed m) : MemFormed (homeDrain m h n) := dirRetry_formed (homeQueue_formed hm)

theorem homeReq_formed {m h r} (hm : MemFormed m) : MemFormed (homeReq m h r) := by
  dsimp only [homeReq]
  exact holds_ite (modHome_formed hm) (holds_ite (send_formed hm) (holds_ite (modHome_formed hm) (dirRetry_formed (serveOrWait_formed hm))))

theorem homeRsp_formed {m n b kind d} (hm : MemFormed m) : MemFormed (homeRsp m n b kind d) := by
  dsimp only [homeRsp]
  split
  · exact homeError_formed hm
  · refine holds_ite (homeError_formed hm) ?_
    refine holds_ite ?_ (setTxn_formed (setDir_formed hm))
    refine holds_ite ?_ ?_
    · exact homeStartRead_formed (setTxn_formed (setTxn_formed (setDir_formed hm)))
    · exact homeDrain_formed (homeResolve_formed (setTxn_formed (setDir_formed hm)))

theorem homeReadBack_formed {m n} (hm : MemFormed m) : MemFormed (homeReadBack m n) := by
  unfold homeReadBack
  extract_lets h inL3
  split
  · exact hm
  · refine holds_ite hm ?_
    extract_lets m1 v m2 stS keeps m3 t' m4
    have h2 : MemFormed m2 := endRead_formed (holds_ite (memRange_formed hm) hm)
    have h3 : MemFormed m3 := holds_ite (putL3_formed h2) h2
    refine holds_ite (setTxn_formed h3) (holds_ite (homeDrain_formed ?_) (homeDrain_formed (homeResolve_formed h3)))
    exact holds_ite (grant_formed h3) (grant_formed h3)

theorem homeWritten_formed {m n now} (hm : MemFormed m) : MemFormed (homeWritten m n now) := by
  unfold homeWritten
  extract_lets h
  split
  · exact hm
  refine holds_ite hm ?_
  extract_lets v taken m1
  have h1 : MemFormed taken := holds_ite (acceptWrite_formed hm) (memWriteNow_formed hm)
  have h2 : MemFormed m1 := by
    refine holds_ite ?_ hm
    split
    · exact holds_ite (send_formed (modHome_formed h1)) (modHome_formed h1)
    · exact h1
  split
  · exact homeDrain_formed (grant_formed h2)
  · exact homeDrain_formed (homeStable_formed h2)
  · exact homeDrain_formed (homeStable_formed (homeAck_formed h2))

theorem homeWriteDone_formed {m n} (hm : MemFormed m) : MemFormed (homeWriteDone m n) := homeWritten_formed hm

theorem homeDone_formed {m n b} (hm : MemFormed m) : MemFormed (homeDone m n b) := by
  dsimp only [homeDone]
  split
  · exact homeError_formed hm
  · exact holds_ite (homeDrain_formed (homeStable_formed hm)) (homeError_formed hm)

theorem homeTimeout_formed {m n} (hm : MemFormed m) : MemFormed (homeTimeout m n) := by
  dsimp only [homeTimeout]
  split
  · exact hm
  · refine holds_ite hm ?_
    split
    · refine holds_ite hm ?_
      exact foldl_holds (fun _ _ g => homeRsp_formed g) (foldl_holds (fun _ _ g => noteFault_formed (raiseErrD_formed g)) (modHome_formed hm))
    · exact homeDrain_formed (homeStable_formed (setDir_formed (noteFault_formed (raiseErrD_formed (modHome_formed hm)))))
    · exact hm

theorem buddyMir_formed {m h n d poison} (hm : MemFormed m) : MemFormed (buddyMir m h n d poison) := by
  dsimp only [buddyMir]
  exact send_formed (modHome_formed hm)

theorem buddyMirRel_formed {m h n} (hm : MemFormed m) : MemFormed (buddyMirRel m h n) := modHome_formed hm

theorem homeMirAck_formed {m n} (hm : MemFormed m) : MemFormed (homeMirAck m n) := by
  dsimp only [homeMirAck]
  split
  · exact holds_ite (setTxn_formed hm) (homeError_formed hm)
  · exact homeError_formed hm

theorem benchLinesLost_formed {m b} (hm : MemFormed m) : MemFormed (benchLinesLost m b) := by
  dsimp only [benchLinesLost]
  refine setL2_formed ?_
  refine foldl_holds (fun _ _ g => modHome_formed (foldl_holds (fun _ _ g1 => machineCheck_formed g1) (foldl_holds (fun _ _ g1 => ?_) g))) hm
  split
  · exact memWriteNow_formed g1
  · exact poisonNow_formed g1

theorem mirrorsLost_formed {m h} (hm : MemFormed m) : MemFormed (mirrorsLost m h) := by
  dsimp only [mirrorsLost]
  refine foldl_holds (fun _ _ g => ?_) hm
  exact holds_ite (raiseErr_formed (modHome_formed (foldl_holds (fun _ _ g1 => holds_ite (memWriteNow_formed g1) g1) g))) g

theorem homeTakeoverBegin_formed {m h} (hm : MemFormed m) : MemFormed (homeTakeoverBegin m h) := by
  dsimp only [homeTakeoverBegin]
  refine mirrorsLost_formed ?_
  refine foldl_holds (fun _ _ g => machineCheck_formed g) ?_
  refine foldl_holds (fun _ _ g => poisonNow_formed g) ?_
  exact foldl_holds (fun _ _ g => modHome_formed g) (send_formed (formed_mk (modHome_formed (setUState_formed (modHome_formed hm)))))

theorem takeoverReportAt_formed {m h b n r} (hm : MemFormed m) : MemFormed (takeoverReportAt m h b n r) := by
  dsimp only [takeoverReportAt]
  exact holds_ite (modHome_formed hm) hm

theorem homeTakeoverEnd_formed {m h} (hm : MemFormed m) : FstFormed (homeTakeoverEnd m h) := by
  dsimp only [homeTakeoverEnd]
  refine foldl_holds (fun _ _ g => homeReq_formed g) ?_
  refine foldl_holds (fun _ _ g => ?_) ?_
  · refine foldl_holds (fun _ _ g1 => holds_ite g1 ?_) g
    split
    exacts [benchReq_formed g1, benchReq_formed g1, benchReq_formed g1, benchReq_formed g1, benchReq_formed g1, benchReq_formed g1,
      benchReq_formed g1, delLine_formed g1, g1]
  · refine send_formed ?_
    refine modHome_formed ?_
    refine modHome_formed (foldl_holds (fun _ _ g => holds_ite (modHome_formed g) g) (foldl_holds (fun _ _ g => setDir_formed ?_) hm))
    split
    · exact g
    · split
      · exact memWriteNow_formed g
      · split
        · exact memWriteNow_formed g
        · exact g

/-! ## Accesses and maintenance of one line in one step -/

theorem deliverMsg_formed {m x} (hm : MemFormed m) : MemFormed (deliverMsg m x) := by
  dsimp only [deliverMsg]
  split
  exacts [homeReq_formed hm, homeDone_formed hm, benchSnoop_formed hm, homeRsp_formed hm, fillLine_formed hm (fun _ g => g), benchWbAck_formed hm,
    benchWbStale_formed hm, grantLine_formed hm (fun _ g => g), buddyMir_formed hm, buddyMirRel_formed hm, homeMirAck_formed hm, hm]

theorem settleLine_formed {m n} (hm : MemFormed m) : Gives MemFormed (settleLine m n) := by
  dsimp only [settleLine]
  split
  · exact .some (deliverMsg_formed (formed_mk hm))
  · split
    · exact .some (tenureEnds_formed hm)
    · split
      · exact .none
      · exact holds_ite (.some (homeReadBack_formed (readServed_formed hm))) (holds_ite (.some (homeWritten_formed hm)) .none)

theorem settleStep_formed {m n} (hm : MemFormed m) : Gives MemFormed (settleStep m n) := by
  dsimp only [settleStep]
  split
  · next e => exact .some (settleLine_formed hm _ e)
  · exact holds_ite .none (.findSome (fun _ => settleLine_formed hm) _)

theorem settleTo_formed {fuel m n done} (hm : MemFormed m) : MemFormed (settleTo fuel m n done) := by
  induction fuel generalizing m with
  | zero => exact hm
  | succ _ ih =>
    dsimp only [settleTo]
    refine holds_ite hm ?_
    split
    · exact hm
    · next e => exact ih (settleStep_formed hm _ e)

theorem dropLast_formed {m p} (hm : MemFormed m) : MemFormed (dropLast m p) := formed_mk hm

theorem askHome_formed {m r answer} (hm : MemFormed m) : Gives SndFormed (askHome m r answer) := by
  have last {α : Type} (a : Option α) {m' : Mach} (h : MemFormed m') : Gives SndFormed (a.map fun x => (x, m')) := by
    cases a with
    | none => exact .none
    | some x => exact .some h
  dsimp only [askHome]
  exact holds_ite .none (holds_ite .none (last _ (dropLast_formed (settleTo_formed (homeReq_formed hm)))))

theorem cohStore_formed {m n d poison} (hm : MemFormed m) : MemFormed (cohStore m n d poison) := by
  unfold cohStore
  extract_lets h m1 m2 busy m3 m4 m5
  have h1 : MemFormed m1 := by
    refine foldl_holds (fun _ _ g => ?_) hm
    split
    · exact g
    · dsimp only
      have h0 {b : Nat} := dropL1_formed (b := b) (n := n) g
      split
      exacts [delLine_formed h0, delLine_formed h0, delLine_formed h0, delLine_formed h0, setLine_formed h0, setLine_formed h0, setLine_formed h0,
        setLine_formed h0, setLine_formed h0, h0]
  have h3 : MemFormed m3 := by
    dsimp only [m3, busy]
    split
    · exact setTxn_formed (formed_mk h1)
    · exact modHome_formed (formed_mk h1)
  have h4 : MemFormed m4 := clearResv_formed h3
  exact holds_ite (memWriteNow_formed (modHome_formed h4)) (modHome_formed (putL3_formed (makeRoom_formed h4)))

theorem cohWrite_formed {m n mask d} (hm : MemFormed m) : MemFormed (cohWrite m n mask d) := by
  dsimp only [cohWrite]
  exact cohStore_formed hm

theorem ioRead_formed {m src ls n} (hm : MemFormed m) : SndFormed (ioRead m src ls n) := by
  dsimp only [ioRead]
  refine holds_ite (memRange_formed hm) ?_
  split
  · next e => exact askHome_formed hm _ e
  · exact hm

theorem ioWrite_formed {m src ls n mask d} (hm : MemFormed m) : MemFormed (ioWrite m src ls n mask d) := by
  dsimp only [ioWrite]
  refine holds_ite (memRange_formed hm) (holds_ite (homeReq_formed hm) ?_)
  split
  · next e => exact askHome_formed hm _ e
  · exact cohWrite_formed hm

theorem benchRead_formed {m b e ls n} (hm : MemFormed m) : SndFormed (benchRead m b e ls n) := by
  dsimp only [benchRead]
  refine holds_ite (ioRead_formed hm) ?_
  split
  · next e => exact (l2Load_formed hm).of_eq e
  · next e =>
    split
    · next e1 => exact (l2Load_formed (settleTo_formed ((l2Load_formed hm).of_eq e))).of_eq e1
    · exact hm

theorem benchWrite_formed {m b e ls n mask d level} (hm : MemFormed m) : MemFormed (benchWrite m b e ls n mask d level) := by
  dsimp only [benchWrite]
  refine holds_ite (formed_mk (ioWrite_formed hm)) ?_
  split
  · next e => exact l2Put_formed ((l2Store_formed hm).of_eq e)
  · next e =>
    split
    · next e1 => exact l2Put_formed ((l2Store_formed (settleTo_formed ((l2Store_formed hm).of_eq e))).of_eq e1)
    · exact formed_mk (cohWrite_formed hm)

theorem maintClean_formed {m n} (hm : MemFormed m) : MemFormed (maintClean m n) := by
  unfold maintClean
  extract_lets v h dirty m1 e m2 m3
  have h1 : MemFormed m1 := by
    refine foldl_holds (fun _ _ g => ?_) hm
    split
    · exact g
    · dsimp only
      split
      · exact setLine_formed (dropL1I_formed g)
      · exact setLine_formed (dropL1I_formed g)
      · exact setLine_formed (dropL1I_formed g)
      · exact dropL1I_formed g
  have h2 : MemFormed m2 := by
    dsimp only [m2]
    split
    · exact holds_ite (setDir_formed h1) h1
    · exact h1
  have h3 : MemFormed m3 := holds_ite (memWriteNow_formed h2) h2
  split
  · exact holds_ite (send_formed (modHome_formed h3)) (modHome_formed h3)
  · exact h3

theorem maintDrop_formed {m n incl} (hm : MemFormed m) : MemFormed (maintDrop m n incl) := by
  dsimp only [maintDrop]
  refine dropL3_formed (foldl_holds (fun _ _ g => ?_) hm)
  split
  · exact g
  · refine holds_ite g ?_
    split
    exacts [setDir_formed (delLine_formed (dropL1_formed g)), setDir_formed (delLine_formed (dropL1_formed g)),
      setDir_formed (delLine_formed (dropL1_formed g)), setDir_formed (delLine_formed (dropL1_formed g)), setLine_formed (dropL1_formed g),
      setLine_formed (dropL1_formed g), setLine_formed (dropL1_formed g), setLine_formed (dropL1_formed g), setLine_formed (dropL1_formed g),
      dropL1_formed g]

theorem maintAsk_formed {m op src ls n self incl} (hm : MemFormed m) : Gives MemFormed (maintAsk m op src ls n self incl) :=
  Gives.map (askHome_formed hm) (fun _ g => g)

theorem maintLine_formed {m n op incl} (hm : MemFormed m) : Gives FstFormed (maintLine m n op incl) := by
  dsimp only [maintLine]
  exact Gives.map (maintAsk_formed hm) (fun _ g => g)

theorem maintNow_formed {m n op incl} (hm : MemFormed m) : MemFormed (maintNow m n op incl) := by
  dsimp only [maintNow]
  split
  · next e => exact maintLine_formed hm _ e
  · split
    exacts [maintClean_formed hm, maintDrop_formed hm, maintDrop_formed (maintClean_formed hm),
      memWriteNow_formed (clearResv_formed (maintDrop_formed hm))]

/-! ## Translation and the accesses of units that hold no line (R724 to R729) -/

theorem refuseAccess_formed {m a addr reason} (hm : MemFormed m) : MemFormed (refuseAccess m a addr reason) := hm.of_mem (refuseAccess_logged ..).mem

theorem refuseRaw_formed {m l pa len} (hm : MemFormed m) : MemFormed (refuseRaw m l pa len) := refuseAccess_formed hm

theorem hubAddr_formed {m hub l va n} (hm : MemFormed m) : SndFormed (hubAddr m hub l va n) := by
  dsimp only [hubAddr]
  split
  · exact formed_mk hm
  · split <;> exact formed_mk hm

theorem unitLine_formed {m src l pa len} (hm : MemFormed m) : SndFormed (unitLine m src l pa len) :=
  holds_ite (refuseRaw_formed hm) (ioRead_formed hm)

theorem unitPut_formed {m src l pa b} (hm : MemFormed m) : MemFormed (unitPut m src l pa b) := holds_ite (refuseRaw_formed hm) (ioWrite_formed hm)

theorem physRead_formed {fuel m src pa len} (hm : MemFormed m) : SndFormed (physRead fuel m src pa len) := by
  induction fuel generalizing m pa len with
  | zero => exact hm
  | succ _ ih =>
    dsimp only [physRead]
    exact holds_ite hm (holds_ite (SndFormed.mk (unitLine_formed hm)) (SndFormed.mk (ih (unitLine_formed hm))))

theorem physWrite_formed {fuel m src pa b} (hm : MemFormed m) : MemFormed (physWrite fuel m src pa b) := by
  induction fuel generalizing m pa b with
  | zero => exact hm
  | succ _ ih =>
    dsimp only [physWrite]
    exact holds_ite hm (ih (unitPut_formed hm))

theorem unitRead_formed {fuel m hub src l va len} (hm : MemFormed m) : SndFormed (unitRead fuel m hub src l va len) := by
  induction fuel generalizing m va len with
  | zero => exact hm
  | succ _ ih =>
    dsimp only [unitRead]
    refine holds_ite hm ?_
    split
    · next e => exact (hubAddr_formed hm).of_eq e
    · next e =>
      have h1 := (hubAddr_formed hm).of_eq e
      refine holds_ite (SndFormed.mk (unitLine_formed h1)) ?_
      split
      · next e1 => exact (ih (unitLine_formed h1)).of_eq e1
      · next e1 => exact (ih (unitLine_formed h1)).of_eq e1

theorem unitWrite_formed {fuel m hub src l va b} (hm : MemFormed m) : SndFormed (unitWrite fuel m hub src l va b) := by
  induction fuel generalizing m va b with
  | zero => exact hm
  | succ _ ih =>
    dsimp only [unitWrite]
    refine holds_ite hm ?_
    split
    · next e => exact (hubAddr_formed hm).of_eq e
    · next e => exact ih (unitPut_formed ((hubAddr_formed hm).of_eq e))

theorem rdLease_formed {m hub src l va len} (hm : MemFormed m) : SndFormed (rdLease m hub src l va len) := unitRead_formed hm

theorem wrLease_formed {m hub src l va b} (hm : MemFormed m) : SndFormed (wrLease m hub src l va b) := unitWrite_formed hm

theorem rdPhys_formed {m src pa len} (hm : MemFormed m) : SndFormed (rdPhys m src pa len) := physRead_formed hm

theorem wrPhys_formed {m src pa b} (hm : MemFormed m) : MemFormed (wrPhys m src pa b) := physWrite_formed hm

theorem canAccess_formed {fuel m hub l va len n} (hm : MemFormed m) : SndFormed (canAccess fuel m hub l va len n) := by
  induction fuel generalizing m va len with
  | zero => exact hm
  | succ _ ih =>
    dsimp only [canAccess]
    refine holds_ite hm ?_
    split
    · next e => exact (hubAddr_formed hm).of_eq e
    · next e => exact ih ((hubAddr_formed hm).of_eq e)

theorem canWrite_formed {m hub l va len} (hm : MemFormed m) : SndFormed (canWrite m hub l va len) := by
  dsimp only [canWrite]
  exact SndFormed.mk (canAccess_formed hm)

theorem ringFault_formed {m l} (hm : MemFormed m) : MemFormed (ringFault m l) := modLease_formed hm

theorem ringHead_formed {m hub src l base last tail} (hm : MemFormed m) : SndFormed (ringHead m hub src l base last tail) := by
  dsimp only [ringHead]
  split
  · next e => exact (rdLease_formed hm).of_eq e
  · next e =>
    have h1 := (rdLease_formed hm).of_eq e
    exact holds_ite (ringFault_formed h1) h1

theorem ringPut_formed {m hub src l base size recSize tail rec_} (hm : MemFormed m) : SndFormed (ringPut m hub src l base size recSize tail rec_) :=
    by
  dsimp only [ringPut]
  split
  · next e => exact (wrLease_formed hm).of_eq e
  · next e => exact wrLease_formed ((wrLease_formed hm).of_eq e)

/-! ## Checksums and addresses of datagrams -/

theorem setLink_formed {m l x} (hm : MemFormed m) : MemFormed (setLink m l x) := formed_mk hm

theorem modLink_formed {m l f} (hm : MemFormed m) : MemFormed (modLink m l f) := setLink_formed hm

theorem helarOut_formed {m p d} (hm : MemFormed m) : MemFormed (helarOut m p d) := by
  dsimp only [helarOut]
  split
  · exact emit_formed hm
  · exact holds_ite (emit_formed hm) hm

/-! ## The channel subsystem and Helar (R540 to R588, R614 to R635) -/

theorem modChn_formed {m f} (hm : MemFormed m) : MemFormed (modChn m f) := formed_mk hm

theorem setPath_formed {m p x} (hm : MemFormed m) : MemFormed (setPath m p x) := modChn_formed hm

theorem modPath_formed {m p f} (hm : MemFormed m) : MemFormed (modPath m p f) := setPath_formed hm

theorem modHelar_formed {m p f} (hm : MemFormed m) : MemFormed (modHelar m p f) := modPath_formed hm

theorem setTxnSt_formed {m t x} (hm : MemFormed m) : MemFormed (setTxnSt m t x) := modChn_formed hm

theorem setRing_formed {m l e r} (hm : MemFormed m) : MemFormed (setRing m l e r) := modChn_formed hm

theorem freeBytes_formed {m n} (hm : MemFormed m) : SndFormed (freeBytes m n) := formed_mk hm

theorem journalWrite_formed {m t x} (hm : MemFormed m) : SndFormed (journalWrite m t x) := by
  unfold journalWrite
  extract_lets x' m1 base ok m2
  have h1 : MemFormed m1 := setTxnSt_formed hm
  refine holds_ite ?_ (SndFormed.mk (holds_ite h1 (raiseErr_formed (modChn_formed h1))))
  split
  next stamp m3 e =>
  have h3 : MemFormed m3 := (takeStamp_formed h1).of_eq e
  extract_lets b m4
  have h4 : MemFormed m4 := holds_ite (wrPhys_formed h3) h3
  refine SndFormed.mk ?_
  split
  · exact wrPhys_formed h4
  · exact h4

theorem journal_formed {m t x} (hm : MemFormed m) : MemFormed (journal m t x) := journalWrite_formed hm

theorem readProgram_formed {m hub l va} (hm : MemFormed m) : SndFormed (readProgram m hub l va) := by
  dsimp only [readProgram]
  split
  · next e => exact (rdLease_formed hm).of_eq e
  · next e =>
    have h1 := (rdLease_formed hm).of_eq e
    refine holds_ite h1 ?_
    split
    · next e1 => exact (rdLease_formed h1).of_eq e1
    · next e1 => exact (rdLease_formed h1).of_eq e1

theorem buffersOk_formed {m hub l steps} (hm : MemFormed m) : SndFormed (buffersOk m hub l steps) := by
  dsimp only [buffersOk]
  refine foldl_holds (fun _ _ g => holds_ite g ?_) hm
  split
  exacts [SndFormed.mk (canAccess_formed g), SndFormed.mk (canAccess_formed g), SndFormed.mk (canAccess_formed g), g]

theorem ringChan_formed {m level l arg a} (hm : MemFormed m) : MemFormed (ringChan m level l arg a) := by
  dsimp only [ringChan]
  refine holds_ite (formed_mk hm) (holds_ite (formed_mk hm) (holds_ite (formed_mk hm) (holds_ite (formed_mk hm) ?_)))
  split
  · next e => exact formed_mk ((readProgram_formed hm).of_eq e)
  · next e =>
    have h1 := (readProgram_formed hm).of_eq e
    refine holds_ite (formed_mk h1) ?_
    split
    · next e1 => exact formed_mk ((buffersOk_formed h1).of_eq e1)
    · next e1 =>
      have h2 := (buffersOk_formed h1).of_eq e1
      split
      · refine holds_ite ?_ ?_
        · exact formed_mk (setRing_formed (ringHead_formed h2))
        · refine holds_ite ?_ ?_
          · exact formed_mk (setRing_formed (ringHead_formed h2))
          · exact setTxnSt_formed (modChn_formed (hubAddr_formed (takeStamp_formed (setRing_formed (ringHead_formed h2)))))
      · exact formed_mk (setRing_formed (ringHead_formed h2))

theorem txnComplete_formed {m t x status outcome} (hm : MemFormed m) : MemFormed (txnComplete m t x status outcome) := by
  dsimp only [txnComplete]
  exact journal_formed (modChn_formed hm)

theorem txnBack_formed {m t x} (hm : MemFormed m) : MemFormed (txnBack m t x) := journal_formed hm

theorem journalSubmitted_formed {m t} (hm : MemFormed m) : MemFormed (journalSubmitted m t) := by
  dsimp only [journalSubmitted]
  split
  · exact hm
  · refine holds_ite hm (holds_ite ?_ (formed_mk (modChn_formed (journalWrite_formed hm))))
    split
    · refine holds_ite ?_ ?_
      · exact txnComplete_formed (modChn_formed (formed_mk (journalWrite_formed hm)))
      · refine holds_ite ?_ ?_
        · exact journal_formed (modChn_formed (formed_mk (journalWrite_formed hm)))
        · exact modChn_formed (formed_mk (journalWrite_formed hm))
    · exact modChn_formed (formed_mk (journalWrite_formed hm))

theorem sumpPut_formed {m src rec_} (hm : MemFormed m) : SndFormed (sumpPut m src rec_) := by
  dsimp only [sumpPut]
  refine holds_ite hm ?_
  split
  · next e =>
    have h1 := (ringHead_formed hm).of_eq e
    exact holds_ite h1 (raiseEvent_formed (raiseErr_formed (modChn_formed h1)))
  · next e =>
    have h1 := (ringHead_formed hm).of_eq e
    refine holds_ite (modChn_formed h1) ?_
    split
    · next e1 =>
      have h2 := (hubAddr_formed (modChn_formed h1)).of_eq e1
      exact holds_ite h2 (raiseEvent_formed (raiseErr_formed (modChn_formed h2)))
    · next e1 =>
      have h2 := (hubAddr_formed (modChn_formed h1)).of_eq e1
      refine holds_ite (holds_ite h2 (raiseEvent_formed (raiseErr_formed (modChn_formed h2)))) ?_
      split
      · next e2 =>
        have h3 := (ringPut_formed h2).of_eq e2
        exact holds_ite h3 (raiseEvent_formed (raiseErr_formed (modChn_formed h3)))
      · next e2 => exact raiseEvent_formed (modChn_formed ((ringPut_formed h2).of_eq e2))

theorem endpointOff_formed {m l e} (hm : MemFormed m) : MemFormed (endpointOff m l e) := by
  dsimp only [endpointOff]
  exact holds_ite (modLease_formed hm) hm

theorem txnReported_formed {m t x} (hm : MemFormed m) : MemFormed (txnReported m t x) := by
  dsimp only [txnReported]
  exact holds_ite (endpointOff_formed (modChn_formed (journal_formed hm))) (modChn_formed (journal_formed hm))

theorem txnToSump_formed {m t x reason} (hm : MemFormed m) : MemFormed (txnToSump m t x reason) := by
  dsimp only [txnToSump]
  split
  · next e => exact txnReported_formed ((sumpPut_formed hm).of_eq e)
  · next e => exact setTxnSt_formed ((sumpPut_formed hm).of_eq e)

theorem txnRecord_formed {m t} (hm : MemFormed m) : MemFormed (txnRecord m t) := by
  dsimp only [txnRecord]
  split
  · exact hm
  · refine holds_ite hm (holds_ite (txnToSump_formed hm) (holds_ite (txnToSump_formed (hubAddr_formed hm)) ?_))
    split
    · next e1 => exact txnToSump_formed ((ringPut_formed (hubAddr_formed hm)).of_eq e1)
    · next e1 => exact txnReported_formed (raiseEvent_formed (setRing_formed ((ringPut_formed (hubAddr_formed hm)).of_eq e1)))

theorem helarSend_formed {m p type flags seq body} (hm : MemFormed m) : MemFormed (helarSend m p type flags seq body) := by
  dsimp only [helarSend]
  exact modHelar_formed (helarOut_formed hm)

theorem helarPump_formed {fuel m p} (hm : MemFormed m) : MemFormed (helarPump fuel m p) := by
  induction fuel generalizing m with
  | zero => exact hm
  | succ _ ih =>
    dsimp only [helarPump]
    split
    · exact hm
    · exact holds_ite hm (ih (helarSend_formed (modHelar_formed hm)))

theorem helarQueue_formed {m p type t msg} (hm : MemFormed m) : MemFormed (helarQueue m p type t msg) := by
  dsimp only [helarQueue]
  exact helarPump_formed (modHelar_formed hm)

theorem requestMsg_formed {m hub x steps} (hm : MemFormed m) : SndFormed (requestMsg m hub x steps) := by
  dsimp only [requestMsg]
  refine SndFormed.mk (SndFormed.snd (foldl_holds (fun _ _ g => holds_ite ?_ g) hm))
  split
  · next e => exact (rdLease_formed g).of_eq e
  · next e => exact SndFormed.mk (freeBytes_formed ((rdLease_formed g).of_eq e))

theorem programOf_formed {m hub x} (hm : MemFormed m) : SndFormed (programOf m hub x) := by
  dsimp only [programOf]
  split
  · next e => exact (readProgram_formed hm).of_eq e
  · next e => exact (readProgram_formed hm).of_eq e

theorem nvmeIssue_formed {m t p x steps} (hm : MemFormed m) : MemFormed (nvmeIssue m t p x steps) := by
  dsimp only [nvmeIssue]
  refine setTxnSt_formed (foldl_holds (fun _ _ g => ?_) hm)
  split
  · exact emit_formed (hubAddr_formed g)
  · exact g

theorem txnIssueOn_formed {m t} (hm : MemFormed m) : MemFormed (txnIssueOn m t) := by
  dsimp only [txnIssueOn]
  split
  · exact hm
  · refine holds_ite hm ?_
    split
    · exact holds_ite (txnComplete_formed (programOf_formed hm)) (programOf_formed hm)
    · split
      · exact journal_formed (programOf_formed hm)
      · refine holds_ite ?_ ?_
        · exact nvmeIssue_formed (journal_formed (programOf_formed hm))
        · exact helarQueue_formed (requestMsg_formed (journal_formed (programOf_formed hm)))

theorem txnSentAll_formed {m t} (hm : MemFormed m) : MemFormed (txnSentAll m t) := by
  dsimp only [txnSentAll]
  split
  · exact hm
  · exact holds_ite hm (holds_ite hm (journal_formed hm))

theorem txnLosesPath_formed {m t x} (hm : MemFormed m) : SndFormed (txnLosesPath m t x) := by
  dsimp only [txnLosesPath]
  exact holds_ite (journal_formed hm) (holds_ite (txnBack_formed (modChn_formed hm)) (txnComplete_formed hm))

theorem pathFails_formed {m p reason} (hm : MemFormed m) : MemFormed (pathFails m p reason) := by
  dsimp only [pathFails]
  refine holds_ite hm ?_
  refine holds_ite ?_ ?_
  · exact raiseErr_formed (SndFormed.snd (foldl_holds (fun _ _ g => SndFormed.mk (txnLosesPath_formed g)) (setPath_formed hm)))
  · exact SndFormed.snd (foldl_holds (fun _ _ g => SndFormed.mk (txnLosesPath_formed g)) (setPath_formed hm))

theorem linkPathsFail_formed {m link reason} (hm : MemFormed m) : MemFormed (linkPathsFail m link reason) :=
  foldl_holds (fun _ _ g => holds_ite (pathFails_formed g) g) hm

theorem portPathsFail_formed {m port bus reason} (hm : MemFormed m) : MemFormed (portPathsFail m port bus reason) := by
  dsimp only [portPathsFail]
  exact foldl_holds (fun _ _ g => holds_ite (pathFails_formed g) g) hm

theorem cpAdopt_formed {m c failed} (hm : MemFormed m) : SndFormed (cpAdopt m c failed) := by
  dsimp only [cpAdopt]
  refine foldl_holds (fun _ _ g => ?_) hm
  split
  · exact modChn_formed (setTxnSt_formed g)
  · exact g

theorem groupAdopt_formed {m hub} (hm : MemFormed m) : SndFormed (groupAdopt m hub) := by
  dsimp only [groupAdopt]
  refine foldl_holds (fun _ _ g => ?_) hm
  split
  · exact g
  · exact holds_ite (modChn_formed (setTxnSt_formed g)) (txnComplete_formed (modChn_formed (setTxnSt_formed g)))

theorem writeReads_formed {m hub x steps data} (hm : MemFormed m) : MemFormed (writeReads m hub x steps data) := by
  dsimp only [writeReads]
  exact SndFormed.snd (foldl_holds (fun _ _ g => holds_ite (SndFormed.mk (wrLease_formed g)) g) hm)

theorem helarAnswer_formed {m p msg} (hm : MemFormed m) : MemFormed (helarAnswer m p msg) := by
  dsimp only [helarAnswer]
  split
  · exact modChn_formed hm
  · refine holds_ite (raiseErr_formed (programOf_formed hm)) ?_
    exact holds_ite (txnComplete_formed (writeReads_formed (programOf_formed hm))) (txnComplete_formed (programOf_formed hm))

theorem nvmeDone_formed {m p t step status gen data} (hm : MemFormed m) : MemFormed (nvmeDone m p t step status gen data) := by
  dsimp only [nvmeDone]
  split
  · exact modChn_formed hm
  · refine holds_ite (modChn_formed hm) ?_
    refine holds_ite (txnComplete_formed ?_) (holds_ite (holds_ite (txnComplete_formed ?_) (nvmeIssue_formed ?_)) (setTxnSt_formed ?_))
    · split
      · exact holds_ite (wrLease_formed (programOf_formed hm)) (programOf_formed hm)
      · exact programOf_formed hm
    · split
      · exact holds_ite (wrLease_formed (programOf_formed hm)) (programOf_formed hm)
      · exact programOf_formed hm
    · split
      · exact holds_ite (wrLease_formed (programOf_formed hm)) (programOf_formed hm)
      · exact programOf_formed hm
    · split
      · exact holds_ite (wrLease_formed (programOf_formed hm)) (programOf_formed hm)
      · exact programOf_formed hm

theorem chanQuiesce_formed {m l} (hm : MemFormed m) : MemFormed (chanQuiesce m l) := by
  dsimp only [chanQuiesce]
  refine foldl_holds (fun _ _ g => holds_ite g ?_) hm
  split
  · exact journal_formed g
  · exact journal_formed g
  · exact g

theorem chanResume_formed {m l} (hm : MemFormed m) : MemFormed (chanResume m l) := by
  dsimp only [chanResume]
  refine foldl_holds (fun _ _ g => holds_ite g ?_) hm
  split
  · exact journal_formed g
  · exact setTxnSt_formed g
  · exact g

theorem chanReset_formed {m l reason} (hm : MemFormed m) : MemFormed (chanReset m l reason) := by
  dsimp only [chanReset]
  refine foldl_holds (fun _ _ g => holds_ite g ?_) hm
  split
  exacts [txnComplete_formed g, txnComplete_formed g, setTxnSt_formed g, setTxnSt_formed g, setTxnSt_formed g, setTxnSt_formed g, g]

theorem sendCapReq_formed {m p} (hm : MemFormed m) : MemFormed (sendCapReq m p) := by
  dsimp only [sendCapReq]
  exact modHelar_formed (helarOut_formed hm)

theorem pathOnlineNow_formed {m p} (hm : MemFormed m) : MemFormed (pathOnlineNow m p) := by
  dsimp only [pathOnlineNow]
  refine holds_ite ?_ ?_
  · exact holds_ite (pathFails_formed (setPath_formed (takeFree_formed hm))) (sendCapReq_formed (setPath_formed (takeFree_formed hm)))
  · exact emit_formed (emit_formed (emit_formed (setPath_formed (takeFree_formed hm))))

theorem pathUp_formed {m p} (hm : MemFormed m) : MemFormed (pathUp m p) := modPath_formed hm

theorem pathCmd_formed {m p code} (hm : MemFormed m) : MemFormed (pathCmd m p code) := by
  dsimp only [pathCmd]
  split
  · exact holds_ite (pathOnlineNow_formed hm) hm
  · exact holds_ite (pathOnlineNow_formed hm) hm
  · exact foldl_holds (fun _ _ g => holds_ite (journal_formed g) (txnBack_formed g)) (modPath_formed hm)
  · exact modPath_formed hm
  · exact hm

/-! ## Running a command, roles, control-space accesses (R9, R25, R736) -/

theorem runM_formed {s f} (hm : MemFormed s.m) (hf : ∀ m, MemFormed m → MemFormed (f m)) : NextFormed (runM s f) := next_formed (hf _ hm)

theorem runUnits_formed {s f} (hm : MemFormed s.m) (hf : ∀ m, MemFormed m → MemFormed (f m)) : NextFormed (runUnits s f) :=
  runM_formed hm (fun _ g => holds_ite (hf _ g) g)

theorem runMesh_formed {s f} (hm : MemFormed s.m) (hf : ∀ m, MemFormed m → MemFormed (f m)) : NextFormed (runMesh s f) :=
  runM_formed hm (fun _ g => holds_ite (hf _ g) g)

theorem runAlive_formed {s f} (hm : MemFormed s.m) (hf : ∀ m, MemFormed m → MemFormed (f m)) : NextFormed (runAlive s f) :=
  runM_formed hm (fun _ g => holds_ite (hf _ g) g)

theorem ctlWrite_formed {a kind index off f m} (hf : ∀ m, MemFormed m → MemFormed (f m)) (hm : MemFormed m) : MemFormed (ctlWrite a kind index off f
    m) :=
  holds_ite hm (holds_ite (refuseAccess_formed hm) (holds_ite (refuseAccess_formed hm) (hf _ hm)))

theorem ctlWriteRule_formed {a kind index off f m} (hf : ∀ m, MemFormed m → Gives MemFormed (f m)) (hm : MemFormed m) : MemFormed (ctlWriteRule a
    kind index off f m) :=
  ctlWrite_formed (fun _ g => Gives.getD (hf _ g) (refuseAccess_formed g)) hm

/-! ## Banks, setts, queues and the level-3 bank (R293 to R335) -/

theorem setEng_formed {m e x} (hm : MemFormed m) : MemFormed (setEng m e x) := formed_mk hm

theorem modEng_formed {m e f} (hm : MemFormed m) : MemFormed (modEng m e f) := hm.of_mem (modEng_mem ..)

theorem setBank_formed {m e l b} (hm : MemFormed m) : MemFormed (setBank m e l b) := hm.of_mem (setBank_mem ..)

theorem modBank_formed {m e l f} (hm : MemFormed m) : MemFormed (modBank m e l f) := setBank_formed hm

theorem modBench_formed {m b f} (hm : MemFormed m) : MemFormed (modBench m b f) := hm.of_mem (modBench_mem ..)

theorem engAddr_formed {m e l va n} (hm : MemFormed m) : SndFormed (engAddr m e l va n) := by
  dsimp only [engAddr]
  split
  · exact modEng_formed hm
  · split <;> exact modEng_formed hm

theorem engPut_formed {m e l pa b level} (hm : MemFormed m) : MemFormed (engPut m e l pa b level) :=
  holds_ite (refuseRaw_formed hm) (benchWrite_formed hm)

theorem engLine_formed {m e l pa len} (hm : MemFormed m) : SndFormed (engLine m e l pa len) := holds_ite (refuseRaw_formed hm) (benchRead_formed hm)

theorem engRead_formed {fuel m e l va len n} (hm : MemFormed m) : SndFormed (engRead fuel m e l va len n) := by
  induction fuel generalizing m va len with
  | zero => exact hm
  | succ _ ih =>
    dsimp only [engRead]
    refine holds_ite hm ?_
    split
    · next e => exact (engAddr_formed hm).of_eq e
    · next e =>
      have h1 := (engAddr_formed hm).of_eq e
      refine holds_ite (SndFormed.mk (engLine_formed h1)) ?_
      split
      · next e1 => exact (ih (engLine_formed h1)).of_eq e1
      · next e1 => exact (ih (engLine_formed h1)).of_eq e1

theorem engWrite_formed {fuel m e l va b n level} (hm : MemFormed m) : SndFormed (engWrite fuel m e l va b n level) := by
  induction fuel generalizing m va b with
  | zero => exact hm
  | succ _ ih =>
    dsimp only [engWrite]
    refine holds_ite hm ?_
    split
    · next e => exact (engAddr_formed hm).of_eq e
    · next e => exact ih (engPut_formed ((engAddr_formed hm).of_eq e))

theorem rdEng_formed {m e l va len} (hm : MemFormed m) : SndFormed (rdEng m e l va len) := engRead_formed hm

theorem writeSett_formed {m e ls va n link task content level groups flags payload} (hm : MemFormed m) : MemFormed (writeSett m e ls va n link task
    content level groups flags payload) := by
  dsimp only [writeSett]
  exact engWrite_formed (takeStamp_formed hm)

theorem readSett_formed {m e ls va want} (hm : MemFormed m) : SndFormed (readSett m e ls va want) := by
  dsimp only [readSett]
  refine holds_ite hm ?_
  split
  · next e => exact (rdEng_formed hm).of_eq e
  · next e => exact (rdEng_formed hm).of_eq e
  · next e =>
    have h1 := (rdEng_formed hm).of_eq e
    exact holds_ite h1 (holds_ite h1 (holds_ite h1 h1))

theorem settUse_formed {m l take back lost} (hm : MemFormed m) : MemFormed (settUse m l take back lost) := modLease_formed hm

theorem poolEmpty_formed {m e l k reason} (hm : MemFormed m) : MemFormed (poolEmpty m e l k reason) := by
  dsimp only [poolEmpty]
  exact raiseEventAt_formed (modLease_formed hm)

theorem takeSetts_formed {m e l k reason} (hm : MemFormed m) : SndFormed (takeSetts m e l k reason) := by
  dsimp only [takeSetts]
  refine holds_ite ?_ ?_
  · refine poolEmpty_formed (SndFormed.snd (foldl_holds (fun _ _ g => holds_ite g ?_) hm))
    split
    · next e => exact (engAddr_formed g).of_eq e
    · next e => exact (engAddr_formed g).of_eq e
  · refine settUse_formed (modLease_formed (modBench_formed (SndFormed.snd (foldl_holds (fun _ _ g => holds_ite g ?_) hm))))
    split
    · next e => exact (engAddr_formed g).of_eq e
    · next e => exact (engAddr_formed g).of_eq e

theorem returnSett_formed {m e l va} (hm : MemFormed m) : MemFormed (returnSett m e l va) := by
  dsimp only [returnSett]
  refine settUse_formed (modLease_formed ?_)
  split
  · exact writeSett_formed (takeFree_formed (rdEng_formed hm))
  · exact takeFree_formed (rdEng_formed hm)

theorem settChain_formed {fuel m e l va want} (hm : MemFormed m) : SndFormed (settChain fuel m e l va want) := by
  induction fuel generalizing m va with
  | zero => exact hm
  | succ _ ih =>
    dsimp only [settChain]
    refine holds_ite hm ?_
    split
    · next e => exact (readSett_formed hm).of_eq e
    · next e => exact SndFormed.mk (ih ((readSett_formed hm).of_eq e))

theorem served_formed {m b l} (hm : MemFormed m) : MemFormed (served m b l) := by
  dsimp only [served]
  exact modBench_formed (foldl_holds (fun _ _ g => modLease_formed g) hm)

theorem taskLost_formed {m e l task area} (hm : MemFormed m) : MemFormed (taskLost m e l task area) := by
  dsimp only [taskLost]
  exact raiseCopy_formed (raiseEvent_formed hm)

theorem vectorEntry_formed {m l v} (hm : MemFormed m) : SndFormed (vectorEntry m l v) := by
  dsimp only [vectorEntry]
  refine holds_ite hm ?_
  split
  · next e => exact (rdLease_formed hm).of_eq e
  · next e => exact (rdLease_formed hm).of_eq e

theorem queueGrew_formed {m b} (hm : MemFormed m) : MemFormed (queueGrew m b) := formed_mk hm

theorem entriesChanged_formed {m} (hm : MemFormed m) : MemFormed (entriesChanged m) := foldl_holds (fun _ _ g => holds_ite g (queueGrew_formed g)) hm

theorem enqueueAll_formed {m b l} (hm : MemFormed m) : MemFormed (enqueueAll m b l) := hm.of_mem (enqueueAll_mem ..)

theorem enqueue_formed {m b q} (hm : MemFormed m) : MemFormed (enqueue m b q) := enqueueAll_formed hm

theorem placeVector_formed {m l v rec_ b} (hm : MemFormed m) : MemFormed (placeVector m l v rec_ b) := by
  dsimp only [placeVector]
  split
  · exact hm
  · exact holds_ite (enqueue_formed (modLease_formed hm)) (modEvt_formed (modLease_formed hm))

theorem countBadVector_formed {m} (hm : MemFormed m) : MemFormed (countBadVector m) := modEvt_formed hm

theorem vectorDone_formed {m l v} (hm : MemFormed m) : MemFormed (vectorDone m l v) := by
  dsimp only [vectorDone]
  split
  · exact hm
  · split
    · exact modLease_formed hm
    · split
      · next e2 => exact countBadVector_formed ((vectorEntry_formed (modLease_formed hm)).of_eq e2)
      · next e2 =>
        have h3 := (vectorEntry_formed (modLease_formed hm)).of_eq e2
        exact holds_ite (countBadVector_formed h3) (placeVector_formed h3)

theorem l3Start_formed {m e pc ev} (hm : MemFormed m) : MemFormed (l3Start m e pc ev) := by
  dsimp only [l3Start]
  exact modEng_formed (setBank_formed hm)

theorem l3Next_formed {m e} (hm : MemFormed m) : MemFormed (l3Next m e) := by
  dsimp only [l3Next]
  refine holds_ite hm ?_
  split
  · exact hm
  · exact l3Start_formed (modEvt_formed hm)

theorem l3End_formed {m e} (hm : MemFormed m) : MemFormed (l3End m e) := by
  dsimp only [l3End]
  exact l3Next_formed (modEng_formed (modBank_formed hm))

theorem taskGone_formed {m l v setts} (hm : MemFormed m) : MemFormed (taskGone m l v setts) := vectorDone_formed (settUse_formed hm)

theorem doubleFault_formed {m e l x rep} (hm : MemFormed m) : MemFormed (doubleFault m e l x rep) := by
  dsimp only [doubleFault]
  refine modEng_formed ?_
  refine modBank_formed ?_
  exact foldl_holds (fun _ _ g => holds_ite g (setBank_formed (taskGone_formed (taskLost_formed g)))) (setUState_formed (raiseErr_formed hm))

theorem excRegs_formed {m e l x rep} (hm : MemFormed m) : MemFormed (excRegs m e l x rep) := by
  dsimp only [excRegs]
  exact modEng_formed hm

theorem deliver_formed {m e l x rep} (hm : MemFormed m) : MemFormed (deliver m e l x rep) := by
  dsimp only [deliver]
  refine holds_ite (doubleFault_formed hm) ?_
  exact holds_ite (doubleFault_formed (excRegs_formed hm)) (l3Start_formed (modEng_formed (setBank_formed (excRegs_formed hm))))

theorem returnChain_formed {m e l chain} (hm : MemFormed m) : MemFormed (returnChain m e l chain) := foldl_holds (fun _ _ g => returnSett_formed g) hm

theorem releaseTask_formed {m e l} (hm : MemFormed m) : MemFormed (releaseTask m e l) := by
  dsimp only [releaseTask]
  refine vectorDone_formed ?_
  refine setBank_formed ?_
  exact formed_mk (returnChain_formed (returnChain_formed (settChain_formed (SndFormed.snd (holds_ite (settChain_formed hm) hm)))))

theorem emptyBank_formed {m e l} (hm : MemFormed m) : MemFormed (emptyBank m e l) := by
  dsimp only [emptyBank]
  exact modEng_formed (setBank_formed (formed_mk hm))

theorem checkWait_formed {m e l} (hm : MemFormed m) : MemFormed (checkWait m e l) := by
  dsimp only [checkWait]
  exact holds_ite (modEng_formed (setBank_formed hm)) hm

theorem drainWaits_formed {m b now} (hm : MemFormed m) : MemFormed (drainWaits m b now) := hm.of_mem (drainWaits_mem ..)

theorem wakeTask_formed {m l task} (hm : MemFormed m) : SndFormed (wakeTask m l task) := by
  dsimp only [wakeTask]
  refine foldl_holds (fun _ _ g => ?_) ?_
  · exact holds_ite (drainWaits_formed g) g
  · refine foldl_holds (fun _ _ g => ?_) (formed_mk hm)
    exact foldl_holds (fun _ _ g1 => holds_ite g1 (holds_ite (setBank_formed g1) (checkWait_formed (setBank_formed g1)))) g

/-! ## Cache maintenance, disabling, array errors (R412 to R428, R436 to R440) -/

theorem crangeStart_formed {m op incl} (hm : MemFormed m) : MemFormed (crangeStart m op incl) := formed_mk hm

theorem crangeLines_formed {count m n op incl k} (hm : MemFormed m) : FstFormed (crangeLines count m n op incl k) := by
  induction count generalizing m n k with
  | zero => exact hm
  | succ _ ih =>
    dsimp only [crangeLines]
    refine holds_ite (ih (memRange_formed hm)) ?_
    split
    · exact hm
    · next e => exact ih (maintLine_formed hm _ e)

theorem crangeRun_formed {m} (hm : MemFormed m) : MemFormed (crangeRun m) := by
  dsimp only [crangeRun]
  exact holds_ite hm (formed_mk (crangeLines_formed hm))

theorem l2SetwayLine_formed {m b op incl n x} (hm : MemFormed m) : FstFormed (l2SetwayLine m b op incl n x) := by
  dsimp only [l2SetwayLine]
  refine holds_ite hm ?_
  split
  · exact holds_ite hm (delLine_formed (dropL1_formed hm))
  · exact benchReq_formed hm

theorem l2SetwayStart_formed {m b op v} (hm : MemFormed m) : MemFormed (l2SetwayStart m b op v) := by
  dsimp only [l2SetwayStart]
  refine holds_ite (modL2_formed hm) ?_
  split
  · exact modL2_formed (FstFormed.fst (foldl_holds (fun _ _ g => FstFormed.mk (l2SetwayLine_formed g)) (modL2_formed hm)))
  · exact holds_ite (modL2_formed hm) (formed_mk (modL2_formed hm))
  · exact holds_ite (modL2_formed hm) (formed_mk (modL2_formed hm))

theorem l2SetwayDone_formed {m b} (hm : MemFormed m) : MemFormed (l2SetwayDone m b) := holds_ite hm (modL2_formed hm)

theorem l3SetwayStart_formed {m h op v} (hm : MemFormed m) : MemFormed (l3SetwayStart m h op v) := by
  dsimp only [l3SetwayStart]
  refine holds_ite (modHome_formed hm) ?_
  refine modHome_formed ?_
  refine holds_ite ?_ ?_
  · exact holds_ite (modHome_formed hm) (foldl_holds (fun _ _ g => cleanL3_formed g) (modHome_formed hm))
  · refine foldl_holds (fun _ _ g => dropL3_formed g) ?_
    exact holds_ite (modHome_formed hm) (foldl_holds (fun _ _ g => cleanL3_formed g) (modHome_formed hm))

theorem setwayStart_formed {m u op v} (hm : MemFormed m) : MemFormed (setwayStart m u op v) := by
  dsimp only [setwayStart]
  split
  · exact hm
  · exact l2SetwayStart_formed hm
  · exact l3SetwayStart_formed hm

theorem maintDone_formed {m u} (hm : MemFormed m) : MemFormed (maintDone m u) := by
  dsimp only [maintDone]
  split
  · exact crangeRun_formed hm
  · exact holds_ite (l2SetwayDone_formed hm) hm
  · exact modHome_formed hm

theorem l2CleanAll_formed {m b} (hm : MemFormed m) : MemFormed (l2CleanAll m b) :=
  holds_ite hm (foldl_holds (fun _ _ g => holds_ite (benchReq_formed g) g) hm)

theorem l2Disable_formed {m b} (hm : MemFormed m) : MemFormed (l2Disable m b) := by
  dsimp only [l2Disable]
  refine holds_ite (modL2_formed hm) ?_
  exact holds_ite (l2CleanAll_formed (modL2_formed (modL2_formed hm))) (modL2_formed (l2Invalidate_formed (modL2_formed hm)))

theorem l2Enable_formed {m b} (hm : MemFormed m) : MemFormed (l2Enable m b) := modL2_formed hm

theorem l2Emptied_formed {m b} (hm : MemFormed m) : MemFormed (l2Emptied m b) :=
  holds_ite hm (holds_ite (l2CleanAll_formed hm) (modL2_formed (l2Invalidate_formed hm)))

theorem l3Invalidate_formed {m h} (hm : MemFormed m) : MemFormed (l3Invalidate m h) := foldl_holds (fun _ _ g => dropL3_formed g) hm

theorem l3Disable_formed {m h} (hm : MemFormed m) : MemFormed (l3Disable m h) := by
  dsimp only [l3Disable]
  exact holds_ite (modHome_formed hm) (holds_ite (modHome_formed (modHome_formed hm)) (modHome_formed (l3Invalidate_formed (modHome_formed hm))))

theorem l3Enable_formed {m h} (hm : MemFormed m) : MemFormed (l3Enable m h) := modHome_formed hm

theorem l3Emptied_formed {m h} (hm : MemFormed m) : MemFormed (l3Emptied m h) := by
  dsimp only [l3Emptied]
  exact holds_ite hm (modHome_formed (l3Invalidate_formed (foldl_holds (fun _ _ g => cleanL3_formed g) hm)))

theorem l1Ctl_formed {m e dOff iOff} (hm : MemFormed m) : MemFormed (l1Ctl m e dOff iOff) := by
  dsimp only [l1Ctl]
  refine holds_ite ?_ ?_
  · exact formed_mk (MemFormed.mem (holds_ite (formed_mk (modEng_formed hm)) (modEng_formed hm)))
  · exact holds_ite (formed_mk (modEng_formed hm)) (modEng_formed hm)

theorem cacheOff_formed {m c} (hm : MemFormed m) : MemFormed (cacheOff m c) := by
  dsimp only [cacheOff]
  split
  exacts [l1Ctl_formed hm, l1Ctl_formed hm, l2Disable_formed hm, l3Disable_formed hm]

theorem cacheOn_formed {m c} (hm : MemFormed m) : MemFormed (cacheOn m c) := by
  dsimp only [cacheOn]
  split
  exacts [l1Ctl_formed hm, l1Ctl_formed hm, l2Enable_formed hm, l3Enable_formed hm]

theorem setLock_formed {m b mask} (hm : MemFormed m) : MemFormed (setLock m b mask) := modL2_formed hm

theorem dirtyAge_formed {m b n} (hm : MemFormed m) : MemFormed (dirtyAge m b n) := by
  dsimp only [dirtyAge]
  split
  · exact hm
  · split
    · exact hm
    · exact holds_ite (benchReq_formed hm) hm

theorem arrayRec_formed {m cause src array part set way n} (hm : MemFormed m) : MemFormed (arrayRec m cause src array part set way n) :=
  hm.of_mem (arrayRec_logged ..).mem

theorem countL1_formed {m e i} (hm : MemFormed m) : MemFormed (countL1 m e i) := modEng_formed hm

theorem scrubL1_formed {m e n data err} (hm : MemFormed m) : MemFormed (scrubL1 m e n data err) := by
  dsimp only [scrubL1]
  split
  exacts [hm, holds_ite (countL1_formed hm) hm, holds_ite (countL1_formed (formed_mk hm)) hm, holds_ite (countL1_formed (formed_mk hm)) hm,
    holds_ite (countL1_formed (formed_mk hm)) hm, holds_ite (countL1_formed (formed_mk hm)) hm]

theorem l2Reread_formed {m b n x} (hm : MemFormed m) : MemFormed (l2Reread m b n x) := by
  dsimp only [l2Reread]
  split
  · exact delLine_formed (dropL1_formed hm)
  · exact setLine_formed (dropL1_formed hm)
  · exact dropL1_formed hm

theorem scrubSide_formed {m b n err} (hm : MemFormed m) : MemFormed (scrubSide m b n err) := by
  dsimp only [scrubSide]
  exact holds_ite (holds_ite hm (modL2_formed hm)) (replaceLine_formed (holds_ite hm (modL2_formed hm)))

theorem scrubL2_formed {m b n err} (hm : MemFormed m) : MemFormed (scrubL2 m b n err) := by
  dsimp only [scrubL2]
  split
  · exact hm
  · refine holds_ite (scrubSide_formed hm) ?_
    split
    · exact hm
    · exact arrayRec_formed (modL2_formed hm)
    · refine holds_ite ?_ ?_
      · exact machineCheck_formed (arrayRec_formed (modL2_formed (setLine_formed hm)))
      · exact arrayRec_formed (modL2_formed (l2Reread_formed hm))
    · refine holds_ite ?_ ?_
      · exact machineCheck_formed (arrayRec_formed (modL2_formed (setLine_formed hm)))
      · exact arrayRec_formed (modL2_formed (l2Reread_formed hm))
    · exact arrayRec_formed (modL2_formed hm)
    · exact noteFault_formed (arrayRec_formed hm)

theorem scrubOwn_formed {m h n x err} (hm : MemFormed m) : MemFormed (scrubOwn m h n x err) := by
  dsimp only [scrubOwn]
  split
  · exact hm
  · exact arrayRec_formed (modHome_formed hm)
  · refine holds_ite (arrayRec_formed (modHome_formed (dropL3_formed hm))) ?_
    split
    · exact arrayRec_formed (modHome_formed (modHome_formed hm))
    · exact machineCheck_formed (arrayRec_formed (modHome_formed (modHome_formed hm)))
  · refine holds_ite (arrayRec_formed (modHome_formed (dropL3_formed hm))) ?_
    split
    · exact arrayRec_formed (modHome_formed (modHome_formed hm))
    · exact machineCheck_formed (arrayRec_formed (modHome_formed (modHome_formed hm)))
  · exact arrayRec_formed (modHome_formed hm)
  · exact noteFault_formed (arrayRec_formed hm)

theorem scrubPair_formed {m h n y err} (hm : MemFormed m) : MemFormed (scrubPair m h n y err) := by
  dsimp only [scrubPair]
  split
  · exact hm
  · exact arrayRec_formed (modHome_formed hm)
  · refine arrayRec_formed (modHome_formed ?_)
    split
    · exact modHome_formed hm
    · exact hm
  · refine arrayRec_formed (modHome_formed ?_)
    split
    · exact modHome_formed hm
    · exact hm
  · exact arrayRec_formed (modHome_formed hm)
  · exact noteFault_formed (arrayRec_formed hm)

theorem scrubL3_formed {m h n err} (hm : MemFormed m) : MemFormed (scrubL3 m h n err) := by
  dsimp only [scrubL3]
  split
  · exact scrubOwn_formed hm
  · exact scrubPair_formed hm
  · exact hm

theorem scrubLine_formed {m c n err} (hm : MemFormed m) : MemFormed (scrubLine m c n err) := by
  dsimp only [scrubLine]
  split
  exacts [scrubL1_formed hm, scrubL1_formed hm, scrubL2_formed hm, scrubL3_formed hm]

/-! ## The commands of the caches (R400 to R444) -/

theorem execCrangeClean_formed {a inclLocked s} (hm : MemFormed s.m) : NextFormed (execCrangeClean a inclLocked s) :=
  runM_formed hm (fun _ g => ctlWrite_formed (fun _ g1 => crangeStart_formed g1) g)

theorem execCrangeInvalidate_formed {a inclLocked s} (hm : MemFormed s.m) : NextFormed (execCrangeInvalidate a inclLocked s) :=
  runM_formed hm (fun _ g => ctlWrite_formed (fun _ g1 => crangeStart_formed g1) g)

theorem execCrangeCleanInvalidate_formed {a inclLocked s} (hm : MemFormed s.m) : NextFormed (execCrangeCleanInvalidate a inclLocked s) :=
  runM_formed hm (fun _ g => ctlWrite_formed (fun _ g1 => crangeStart_formed g1) g)

theorem execCrangeZero_formed {a inclLocked s} (hm : MemFormed s.m) : NextFormed (execCrangeZero a inclLocked s) :=
  runM_formed hm (fun _ g => ctlWrite_formed (fun _ g1 => crangeStart_formed g1) g)

theorem setwayWrite_formed {a u op v m} (hm : MemFormed m) : MemFormed (setwayWrite a u op v m) :=
  ctlWrite_formed (fun _ g => setwayStart_formed g) hm

theorem execSetwayClean_formed {a u v s} (hm : MemFormed s.m) : NextFormed (execSetwayClean a u v s) :=
  runM_formed hm (fun _ g => setwayWrite_formed g)

theorem execSetwayInvalidate_formed {a u v s} (hm : MemFormed s.m) : NextFormed (execSetwayInvalidate a u v s) :=
  runM_formed hm (fun _ g => setwayWrite_formed g)

theorem execSetwayCleanInvalidate_formed {a u v s} (hm : MemFormed s.m) : NextFormed (execSetwayCleanInvalidate a u v s) :=
  runM_formed hm (fun _ g => setwayWrite_formed g)

theorem execMaintenanceComplete_formed {u s} (hm : MemFormed s.m) : NextFormed (execMaintenanceComplete u s) :=
  runMesh_formed hm (fun _ g => maintDone_formed g)

theorem execCacheDisable_formed {a c s} (hm : MemFormed s.m) : NextFormed (execCacheDisable a c s) :=
  runM_formed hm (fun _ g => ctlWrite_formed (fun _ g1 => cacheOff_formed g1) g)

theorem execCacheEnable_formed {a c s} (hm : MemFormed s.m) : NextFormed (execCacheEnable a c s) :=
  runM_formed hm (fun _ g => ctlWrite_formed (fun _ g1 => cacheOn_formed g1) g)

theorem cacheEmptied_formed {m c} (hm : MemFormed m) : MemFormed (cacheEmptied m c) := by
  dsimp only [cacheEmptied]
  split
  exacts [hm, hm, l2Emptied_formed hm, l3Emptied_formed hm]

theorem execDisablingComplete_formed {c s} (hm : MemFormed s.m) : NextFormed (execDisablingComplete c s) :=
  runUnits_formed hm (fun _ g => cacheEmptied_formed g)

theorem execWayLock_formed {a b mask s} (hm : MemFormed s.m) : NextFormed (execWayLock a b mask s) :=
  runM_formed hm (fun _ g => ctlWrite_formed (fun _ g1 => setLock_formed g1) g)

theorem execDirtyAgeClean_formed {b n s} (hm : MemFormed s.m) : NextFormed (execDirtyAgeClean b n s) :=
  runUnits_formed hm (fun _ g => dirtyAge_formed g)

theorem execCacheScrub_formed {c n err s} (hm : MemFormed s.m) : NextFormed (execCacheScrub c n err s) :=
  runMesh_formed hm (fun _ g => scrubLine_formed g)

/-! ## What crushers and cipher engines share (R666 to R677, R706 to R715) -/

theorem modJobs_formed {m f} (hm : MemFormed m) : MemFormed (modJobs m f) := formed_mk hm

theorem setJob_formed {m x} (hm : MemFormed m) : MemFormed (setJob m x) := modJobs_formed hm

theorem modWork_formed {m kind u f} (hm : MemFormed m) : MemFormed (modWork m kind u f) := by
  dsimp only [modWork]
  exact modJobs_formed hm

theorem countWork_formed {m kind u i max} (hm : MemFormed m) : MemFormed (countWork m kind u i max) := modWork_formed hm

theorem setJobRing_formed {m kind l q r} (hm : MemFormed m) : MemFormed (setJobRing m kind l q r) := modJobs_formed hm

theorem queuesOff_formed {m l} (hm : MemFormed m) : MemFormed (queuesOff m l) :=
  foldl_holds (fun _ _ g => foldl_holds (fun _ _ g1 => holds_ite (modLease_formed g1) g1) g) hm

theorem ledgerAdd_formed {m kind l taken freed} (hm : MemFormed m) : MemFormed (ledgerAdd m kind l taken freed) := modJobs_formed hm

theorem freeJob_formed {m x} (hm : MemFormed m) : MemFormed (freeJob m x) := by
  dsimp only [freeJob]
  exact holds_ite (queuesOff_formed (ledgerAdd_formed (modJobs_formed hm))) (ledgerAdd_formed (modJobs_formed hm))

theorem jobToSump_formed {m x reason} (hm : MemFormed m) : SndFormed (jobToSump m x reason) := by
  dsimp only [jobToSump]
  split
  · next e => exact freeJob_formed ((sumpPut_formed hm).of_eq e)
  · next e => exact setJob_formed ((sumpPut_formed hm).of_eq e)

theorem jobOut_formed {m x} (hm : MemFormed m) : SndFormed (jobOut m x) := by
  dsimp only [jobOut]
  split
  · exact jobToSump_formed hm
  · split
    · next e1 => exact jobToSump_formed ((ringPut_formed hm).of_eq e1)
    · next e1 => exact raiseEvent_formed (freeJob_formed (setJobRing_formed ((ringPut_formed hm).of_eq e1)))

theorem queueOut_formed {fuel m kind l q} (hm : MemFormed m) : MemFormed (queueOut fuel m kind l q) := by
  induction fuel generalizing m with
  | zero => exact hm
  | succ _ ih =>
    dsimp only [queueOut]
    split
    · exact hm
    · refine holds_ite hm ?_
      split
      · next e1 => exact ih ((jobOut_formed hm).of_eq e1)
      · next e1 => exact (jobOut_formed hm).of_eq e1

theorem outputFree_formed {m x} (hm : MemFormed m) : MemFormed (outputFree m x) := by
  dsimp only [outputFree]
  exact holds_ite hm (wrLease_formed (freeBytes_formed hm))

theorem endJob_formed {m x status} (hm : MemFormed m) : MemFormed (endJob m x status) := by
  dsimp only [endJob]
  exact queueOut_formed (modWork_formed (setJob_formed (holds_ite hm (outputFree_formed hm))))

theorem jobsDrain_formed {m} (hm : MemFormed m) : MemFormed (jobsDrain m) := foldl_holds (fun _ _ g => queueOut_formed g) hm

theorem chooseJob_formed {m kind u} (hm : MemFormed m) : SndFormed (chooseJob m kind u) := by
  dsimp only [chooseJob]
  split
  · exact modWork_formed hm
  · split
    · exact modWork_formed hm
    · exact modWork_formed (modWork_formed hm)

theorem chargeJob_formed {m x bytes} (hm : MemFormed m) : MemFormed (chargeJob m x bytes) := modWork_formed hm

theorem jobsReset_formed {m l reason} (hm : MemFormed m) : MemFormed (jobsReset m l reason) := by
  dsimp only [jobsReset]
  refine queuesOff_formed ?_
  refine foldl_holds (fun _ _ g => queueOut_formed g) ?_
  exact foldl_holds (fun _ _ g => holds_ite (setJob_formed g) (holds_ite (setJob_formed g) (setJob_formed (outputFree_formed g)))) hm

theorem handOn_formed {m kind u} (hm : MemFormed m) : ThdFormed (handOn m kind u) := by
  dsimp only [handOn]
  refine foldl_holds (fun _ _ g => holds_ite (ThdFormed.mk (endJob_formed g)) ?_) (ThdFormed.mk (modWork_formed hm))
  split
  · exact ThdFormed.mk (setJob_formed g)
  · exact ThdFormed.mk (endJob_formed g)

theorem workFails_formed {m kind u} (hm : MemFormed m) : MemFormed (workFails m kind u) := by
  dsimp only [workFails]
  exact raiseErr_formed (handOn_formed (holds_ite (setUState_formed hm) (modWork_formed hm)))

theorem workCmd_formed {m kind u code} (hm : MemFormed m) : MemFormed (workCmd m kind u code) := by
  dsimp only [workCmd]
  refine holds_ite ?_ ?_
  · exact holds_ite (setUState_formed (modWork_formed hm)) (modWork_formed hm)
  · exact holds_ite (setUState_formed (modWork_formed hm)) (modWork_formed hm)

theorem workDrained_formed {m kind u} (hm : MemFormed m) : MemFormed (workDrained m kind u) := holds_ite (setUState_formed hm) hm

/-! ## Links, frame queues and PCIe ports (R589 to R613, R636 to R644) -/

theorem setFq_formed {m l q x} (hm : MemFormed m) : MemFormed (setFq m l q x) := formed_mk hm

theorem setPcie_formed {m p x} (hm : MemFormed m) : MemFormed (setPcie m p x) := formed_mk hm

theorem modPcie_formed {m p f} (hm : MemFormed m) : MemFormed (modPcie m p f) := setPcie_formed hm

theorem linkDrop_formed {m l reason} (hm : MemFormed m) : MemFormed (linkDrop m l reason) := modLink_formed hm

theorem fqPosted_formed {m src l q} (hm : MemFormed m) : MemFormed (fqPosted m src l q) := by
  dsimp only [fqPosted]
  split
  · next e => exact (rdLease_formed hm).of_eq e
  · next e =>
    have h1 := (rdLease_formed hm).of_eq e
    exact holds_ite (setFq_formed h1) (ringFault_formed h1)

theorem fqSignal_formed {m link l q} (hm : MemFormed m) : MemFormed (fqSignal m link l q) := by
  dsimp only [fqSignal]
  exact raiseEvent_formed (setFq_formed hm)

theorem fqComplete_formed {m link l q desc} (hm : MemFormed m) : MemFormed (fqComplete m link l q desc) := by
  dsimp only [fqComplete]
  exact holds_ite (fqSignal_formed (setFq_formed (wrLease_formed (wrLease_formed hm)))) (setFq_formed (wrLease_formed (wrLease_formed hm)))

theorem fqDrop_formed {m link l q reason} (hm : MemFormed m) : MemFormed (fqDrop m link l q reason) := linkDrop_formed (setFq_formed hm)

theorem placeFrame_formed {m link l q rule f x} (hm : MemFormed m) : MemFormed (placeFrame m link l q rule f x) := by
  dsimp only [placeFrame]
  refine holds_ite (fqDrop_formed hm) (holds_ite (fqDrop_formed (fqPosted_formed hm)) ?_)
  split
  · next e => exact fqDrop_formed ((rdLease_formed (fqPosted_formed hm)).of_eq e)
  · next e =>
    have h1 := (rdLease_formed (fqPosted_formed hm)).of_eq e
    refine holds_ite (fqDrop_formed h1) ?_
    exact holds_ite (fqDrop_formed (canWrite_formed h1)) (fqComplete_formed (takeStamp_formed (wrLease_formed (canWrite_formed h1))))

theorem helarDiscard_formed {m p} (hm : MemFormed m) : MemFormed (helarDiscard m p) := linkDrop_formed hm

theorem helarAckIn_formed {m p h} (hm : MemFormed m) : MemFormed (helarAckIn m p h) := by
  dsimp only [helarAckIn]
  exact holds_ite hm (helarPump_formed (modHelar_formed hm))

theorem helarSeen_formed {m p} (hm : MemFormed m) : MemFormed (helarSeen m p) := modHelar_formed hm

theorem helarTake_formed {m p flags body} (hm : MemFormed m) : MemFormed (helarTake m p flags body) := by
  dsimp only [helarTake]
  exact holds_ite (helarAnswer_formed (modHelar_formed hm)) (modHelar_formed hm)

theorem helarTakeKept_formed {fuel m p} (hm : MemFormed m) : MemFormed (helarTakeKept fuel m p) := by
  induction fuel generalizing m with
  | zero => exact hm
  | succ _ ih =>
    dsimp only [helarTakeKept]
    split
    · exact hm
    · exact ih (helarTake_formed (modHelar_formed hm))

theorem helarSegment_formed {m p h} (hm : MemFormed m) : MemFormed (helarSegment m p h) := by
  dsimp only [helarSegment]
  refine holds_ite ?_ ?_
  · exact helarTakeKept_formed (helarTake_formed (modHelar_formed hm))
  · exact holds_ite (modHelar_formed (modHelar_formed hm)) (modHelar_formed hm)

theorem helarCapRsp_formed {m p h} (hm : MemFormed m) : MemFormed (helarCapRsp m p h) := by
  dsimp only [helarCapRsp]
  refine holds_ite hm ?_
  exact holds_ite (pathFails_formed hm) (holds_ite (pathFails_formed hm) (holds_ite (pathFails_formed hm) (pathUp_formed (modHelar_formed hm))))

theorem helarCapReq_formed {m p h} (hm : MemFormed m) : MemFormed (helarCapReq m p h) := by
  dsimp only [helarCapReq]
  exact holds_ite hm (pathFails_formed (helarOut_formed hm))

theorem helarReceive_formed {m p d checksumGood} (hm : MemFormed m) : MemFormed (helarReceive m p d checksumGood) := by
  dsimp only [helarReceive]
  refine holds_ite hm ?_
  refine holds_ite (helarDiscard_formed hm) ?_
  refine holds_ite (helarCapReq_formed (helarSeen_formed hm)) ?_
  refine holds_ite (helarCapRsp_formed (helarSeen_formed hm)) (holds_ite (helarDiscard_formed hm) ?_)
  split
  · exact pathFails_formed (helarAckIn_formed (helarSeen_formed hm))
  · exact helarSegment_formed (helarAckIn_formed (helarSeen_formed hm))
  · exact helarAckIn_formed (helarSeen_formed hm)

theorem settleFrame_formed {m l f} (hm : MemFormed m) : MemFormed (settleFrame m l f) := by
  dsimp only [settleFrame]
  refine holds_ite (linkDrop_formed hm) (holds_ite hm ?_)
  split
  · exact emit_formed hm
  · exact emit_formed hm
  · refine holds_ite (modLink_formed hm) ?_
    split
    · exact helarReceive_formed hm
    · split
      · exact linkDrop_formed hm
      · exact placeFrame_formed hm

theorem takePause_formed {m l f} (hm : MemFormed m) : MemFormed (takePause m l f) := by
  dsimp only [takePause]
  exact holds_ite (modLink_formed hm) (holds_ite (modLink_formed hm) hm)

theorem receiveFrame_formed {m l f fcsGood} (hm : MemFormed m) : MemFormed (receiveFrame m l f fcsGood) := by
  dsimp only [receiveFrame]
  refine holds_ite hm ?_
  refine holds_ite (linkDrop_formed hm) ?_
  refine holds_ite (linkDrop_formed (modLink_formed hm)) ?_
  exact holds_ite (takePause_formed (modLink_formed hm)) (settleFrame_formed (modLink_formed hm))

theorem txComplete_formed {m link l q d status stamp} (hm : MemFormed m) : MemFormed (txComplete m link l q d status stamp) := by
  dsimp only [txComplete]
  exact fqComplete_formed hm

theorem txPoll_formed {m l} (hm : MemFormed m) : MemFormed (txPoll m l) :=
  foldl_holds (fun _ _ g => foldl_holds (fun _ _ g1 => holds_ite (fqPosted_formed g1) g1) g) hm

theorem transmitFrame_formed {m l} (hm : MemFormed m) : MemFormed (transmitFrame m l) := by
  dsimp only [transmitFrame]
  refine holds_ite hm ?_
  split
  · exact modLink_formed (txPoll_formed hm)
  · split
    · next e1 => exact (rdLease_formed (modLink_formed (modLink_formed (txPoll_formed hm)))).of_eq e1
    · next e1 =>
      have h2 := (rdLease_formed (modLink_formed (modLink_formed (txPoll_formed hm)))).of_eq e1
      refine holds_ite (txComplete_formed h2) (holds_ite (txComplete_formed h2) ?_)
      split
      · next e2 => exact txComplete_formed ((rdLease_formed h2).of_eq e2)
      · next e2 =>
        have h3 := (rdLease_formed h2).of_eq e2
        refine holds_ite h3 ?_
        refine holds_ite ?_ ?_
        · exact txComplete_formed (takeStamp_formed (modLink_formed (emit_formed h3)))
        · exact txComplete_formed (modLink_formed (emit_formed h3))

theorem txFlush_formed {fuel m link l q} (hm : MemFormed m) : MemFormed (txFlush fuel m link l q) := by
  induction fuel generalizing m with
  | zero => exact hm
  | succ _ ih =>
    dsimp only [txFlush]
    refine holds_ite hm ?_
    split
    · next e => exact (rdLease_formed hm).of_eq e
    · next e => exact ih (txComplete_formed ((rdLease_formed hm).of_eq e))

theorem setLinkState_formed {m l st} (hm : MemFormed m) : MemFormed (setLinkState m l st) := modLink_formed hm

theorem linkAttemptFailed_formed {m l} (hm : MemFormed m) : MemFormed (linkAttemptFailed m l) := by
  dsimp only [linkAttemptFailed]
  exact holds_ite (raiseErr_formed (setUState_formed (setLinkState_formed (modLink_formed hm)))) (modLink_formed hm)

theorem linkCmd_formed {m l cmd} (hm : MemFormed m) : MemFormed (linkCmd m l cmd) := by
  dsimp only [linkCmd]
  split
  · exact holds_ite (modLink_formed hm) (setUState_formed (setLinkState_formed (modLink_formed (modLink_formed hm))))
  · exact holds_ite (modLink_formed hm) (setUState_formed (setLinkState_formed (modLink_formed (modLink_formed hm))))
  · refine holds_ite ?_ ?_
    · exact linkPathsFail_formed (setUState_formed (setLinkState_formed (modLink_formed hm)))
    · exact setUState_formed (setLinkState_formed (modLink_formed hm))
  · exact modLink_formed hm

theorem dmaFault_formed {m p rid ls addr} (hm : MemFormed m) : MemFormed (dmaFault m p rid ls addr) := by
  dsimp only [dmaFault]
  split
  · exact raiseEvent_formed (raiseErrD_formed (emit_formed (modPcie_formed hm)))
  · exact raiseErrD_formed (emit_formed (modPcie_formed hm))

theorem pcieDma_formed {m p rid write addr len data} (hm : MemFormed m) : MemFormed (pcieDma m p rid write addr len data) := by
  dsimp only [pcieDma]
  split
  · refine holds_ite (emit_formed (modLease_formed hm)) (holds_ite ?_ ?_)
    · split
      · next e1 => exact dmaFault_formed ((canWrite_formed hm).of_eq e1)
      · next e1 => exact emit_formed (wrLease_formed ((canWrite_formed hm).of_eq e1))
    · split
      · next e1 => exact emit_formed ((rdLease_formed hm).of_eq e1)
      · next e1 => exact emit_formed ((rdLease_formed hm).of_eq e1)
      · next e1 => exact dmaFault_formed ((rdLease_formed hm).of_eq e1)
  · split
    · exact dmaFault_formed hm
    · refine holds_ite (dmaFault_formed hm) (holds_ite (emit_formed (wrPhys_formed hm)) ?_)
      split
      · next e2 => exact emit_formed ((rdPhys_formed hm).of_eq e2)
      · next e2 => exact emit_formed ((rdPhys_formed hm).of_eq e2)

/-! ## The commands of the channel subsystem (R540 to R588) -/

theorem execPathOnline_formed {a p s} (hm : MemFormed s.m) : NextFormed (execPathOnline a p s) :=
  runM_formed hm (fun _ g => ctlWrite_formed (fun _ g1 => holds_ite (pathCmd_formed g1) g1) g)

theorem execPathOffline_formed {a p s} (hm : MemFormed s.m) : NextFormed (execPathOffline a p s) :=
  runM_formed hm (fun _ g => ctlWrite_formed (fun _ g1 => holds_ite (pathCmd_formed g1) g1) g)

theorem cpOfflineNow_formed {m c} (hm : MemFormed m) : MemFormed (cpOfflineNow m c) := by
  dsimp only [cpOfflineNow]
  exact holds_ite hm (setUState_formed (cpAdopt_formed (setUState_formed hm)))

theorem execCpOffline_formed {a c s} (hm : MemFormed s.m) : NextFormed (execCpOffline a c s) :=
  runM_formed hm (fun _ g => ctlWrite_formed (fun _ g1 => cpOfflineNow_formed g1) g)

theorem cpOnlineNow_formed {m c} (hm : MemFormed m) : MemFormed (cpOnlineNow m c) := holds_ite (setUState_formed hm) hm

theorem execCpOnline_formed {a c s} (hm : MemFormed s.m) : NextFormed (execCpOnline a c s) :=
  runM_formed hm (fun _ g => ctlWrite_formed (fun _ g1 => cpOnlineNow_formed g1) g)

theorem cpFails_formed {m c} (hm : MemFormed m) : MemFormed (cpFails m c) := by
  dsimp only [cpFails]
  exact holds_ite hm (raiseErr_formed (cpAdopt_formed (setUState_formed hm)))

theorem execCpFailure_formed {c s} (hm : MemFormed s.m) : NextFormed (execCpFailure c s) := runUnits_formed hm (fun _ g => cpFails_formed g)

theorem jrnMove_formed {v m} (hm : MemFormed m) : MemFormed (jrnMove v m) := modChn_formed hm

theorem execChnJrnMove_formed {a v s} (hm : MemFormed s.m) : NextFormed (execChnJrnMove a v s) :=
  runM_formed hm (fun _ g => ctlWrite_formed (fun _ g1 => jrnMove_formed g1) g)

theorem movedEntry_formed {m t x} (hm : MemFormed m) : SndFormed (movedEntry m t x) := by
  dsimp only [movedEntry]
  exact holds_ite hm (SndFormed.mk (takeStamp_formed hm))

theorem jrnMoved_formed {m} (hm : MemFormed m) : MemFormed (jrnMoved m) := by
  unfold jrnMoved
  split
  · exact hm
  · refine modChn_formed (foldl_holds (fun m p g => ?_) hm)
    split
    next e => exact wrPhys_formed ((movedEntry_formed g).of_eq e)

theorem execJournalMoveComplete_formed {s} (hm : MemFormed s.m) : NextFormed (execJournalMoveComplete s) :=
  runUnits_formed hm (fun _ g => jrnMoved_formed g)

theorem sumpDrain_formed {m} (hm : MemFormed m) : MemFormed (sumpDrain m) := by
  dsimp only [sumpDrain]
  refine holds_ite (jobsDrain_formed (foldl_holds (fun _ _ g => ?_) hm)) (foldl_holds (fun _ _ g => ?_) hm)
  · split
    · exact holds_ite g (txnToSump_formed g)
    · exact g
  · split
    · exact holds_ite g (txnToSump_formed g)
    · exact g

theorem sumpWrite_formed {v m} (hm : MemFormed m) : Gives MemFormed (sumpWrite v m) := by
  dsimp only [sumpWrite]
  exact holds_ite .none (holds_ite (.some (sumpDrain_formed (modChn_formed hm))) (holds_ite .none (.some (modChn_formed hm))))

theorem execChnSumpReplace_formed {a v s} (hm : MemFormed s.m) : NextFormed (execChnSumpReplace a v s) :=
  runM_formed hm (fun _ g => ctlWriteRule_formed (fun _ g1 => sumpWrite_formed g1) g)

theorem execSumpSpaceAvailable_formed {s} (hm : MemFormed s.m) : NextFormed (execSumpSpaceAvailable s) :=
  runUnits_formed hm (fun _ g => sumpDrain_formed g)

theorem execJournalEntryWritten_formed {t s} (hm : MemFormed s.m) : NextFormed (execJournalEntryWritten t s) :=
  runUnits_formed hm (fun _ g => journalSubmitted_formed g)

theorem execTxnIssue_formed {t s} (hm : MemFormed s.m) : NextFormed (execTxnIssue t s) := runUnits_formed hm (fun _ g => txnIssueOn_formed g)

theorem execTxnSent_formed {t s} (hm : MemFormed s.m) : NextFormed (execTxnSent t s) := runUnits_formed hm (fun _ g => txnSentAll_formed g)

theorem execNvmeCompletion_formed {p t step status gen data s} (hm : MemFormed s.m) : NextFormed (execNvmeCompletion p t step status gen data s) :=
  runUnits_formed hm (fun _ g => nvmeDone_formed g)

theorem deadlineExpires_formed {m t} (hm : MemFormed m) : MemFormed (deadlineExpires m t) := by
  dsimp only [deadlineExpires]
  split
  · exact hm
  · exact holds_ite (txnComplete_formed hm) hm

theorem execIssueDeadlineExpiry_formed {t s} (hm : MemFormed s.m) : NextFormed (execIssueDeadlineExpiry t s) :=
  runUnits_formed hm (fun _ g => deadlineExpires_formed g)

theorem partnerWaitExpires_formed {m t} (hm : MemFormed m) : MemFormed (partnerWaitExpires m t) := by
  dsimp only [partnerWaitExpires]
  split
  · exact hm
  · exact holds_ite (raiseErr_formed (txnComplete_formed hm)) hm

theorem execPartnerWaitExpiry_formed {t s} (hm : MemFormed s.m) : NextFormed (execPartnerWaitExpiry t s) :=
  runUnits_formed hm (fun _ g => partnerWaitExpires_formed g)

theorem nvmeReset_formed {m p} (hm : MemFormed m) : MemFormed (nvmeReset m p) := by
  dsimp only [nvmeReset]
  exact holds_ite hm (foldl_holds (fun _ _ g => setTxnSt_formed g) (emit_formed (modChn_formed (modPath_formed hm))))

theorem completionWaitExpires_formed {m t} (hm : MemFormed m) : MemFormed (completionWaitExpires m t) := by
  dsimp only [completionWaitExpires]
  split
  · exact hm
  · exact holds_ite hm (holds_ite (nvmeReset_formed (setTxnSt_formed hm)) (txnLosesPath_formed hm))

theorem execCompletionWaitExpiry_formed {t s} (hm : MemFormed s.m) : NextFormed (execCompletionWaitExpiry t s) :=
  runUnits_formed hm (fun _ g => completionWaitExpires_formed g)

theorem pathFailure_formed {m p reason} (hm : MemFormed m) : MemFormed (pathFailure m p reason) := holds_ite (pathFails_formed hm) hm

theorem execPathFailure_formed {p reason s} (hm : MemFormed s.m) : NextFormed (execPathFailure p reason s) :=
  runUnits_formed hm (fun _ g => pathFailure_formed g)

theorem txnRecordOut_formed {m t} (hm : MemFormed m) : MemFormed (txnRecordOut m t) := by
  dsimp only [txnRecordOut]
  split
  · exact hm
  · exact holds_ite (helarQueue_formed (txnRecord_formed hm)) (txnRecord_formed hm)

theorem execTxnCompletionRecord_formed {t s} (hm : MemFormed s.m) : NextFormed (execTxnCompletionRecord t s) :=
  runUnits_formed hm (fun _ g => txnRecordOut_formed g)

theorem establishTimeout_formed {m p} (hm : MemFormed m) : MemFormed (establishTimeout m p) := holds_ite (pathFails_formed hm) hm

theorem execEstablishTimeout_formed {p s} (hm : MemFormed s.m) : NextFormed (execEstablishTimeout p s) :=
  runUnits_formed hm (fun _ g => establishTimeout_formed g)

theorem pathDrained_formed {m p} (hm : MemFormed m) : MemFormed (pathDrained m p) := by
  dsimp only [pathDrained]
  exact holds_ite hm (modPath_formed (holds_ite (helarSend_formed hm) (emit_formed hm)))

theorem execPathDrained_formed {p s} (hm : MemFormed s.m) : NextFormed (execPathDrained p s) := runUnits_formed hm (fun _ g => pathDrained_formed g)

theorem execNvmeControllerReset_formed {p s} (hm : MemFormed s.m) : NextFormed (execNvmeControllerReset p s) :=
  runUnits_formed hm (fun _ g => nvmeReset_formed g)

theorem nvmeReady_formed {m p i} (hm : MemFormed m) : MemFormed (nvmeReady m p i) := by
  dsimp only [nvmeReady]
  refine holds_ite hm (holds_ite ?_ (holds_ite ?_ hm))
  · exact holds_ite (pathFails_formed hm) (holds_ite (pathFails_formed hm) (pathUp_formed (modPath_formed hm)))
  · refine raiseErr_formed (SndFormed.snd (foldl_holds (fun _ _ g => ?_) (SndFormed.mk (modPath_formed hm))))
    exact nvmeIssue_formed (programOf_formed (journal_formed g))

theorem execNvmeReady_formed {p i s} (hm : MemFormed s.m) : NextFormed (execNvmeReady p i s) := runUnits_formed hm (fun _ g => nvmeReady_formed g)

theorem nvmeReadyTimeout_formed {m p} (hm : MemFormed m) : MemFormed (nvmeReadyTimeout m p) := holds_ite (pathFails_formed hm) hm

theorem execNvmeReadyTimeout_formed {p s} (hm : MemFormed s.m) : NextFormed (execNvmeReadyTimeout p s) :=
  runUnits_formed hm (fun _ g => nvmeReadyTimeout_formed g)

/-! ## Crushers (R646 to R677) -/

theorem chainPut_formed {fuel m x b} (hm : MemFormed m) : SndFormed (chainPut fuel m x b) := by
  induction fuel generalizing m x b with
  | zero => exact hm
  | succ _ ih =>
    dsimp only [chainPut]
    refine holds_ite hm (holds_ite (holds_ite hm ?_) ?_)
    · split
      · next e => exact (rdLease_formed hm).of_eq e
      · next e => exact (rdLease_formed hm).of_eq e
      · next e =>
        have h1 := (rdLease_formed hm).of_eq e
        exact holds_ite h1 (ih h1)
    · split
      · next e => exact (wrLease_formed hm).of_eq e
      · next e => exact (wrLease_formed hm).of_eq e
      · next e => exact ih ((wrLease_formed hm).of_eq e)

theorem chainFree_formed {m x n} (hm : MemFormed m) : MemFormed (chainFree m x n) := by
  dsimp only [chainFree]
  exact chainPut_formed (freeBytes_formed hm)

theorem compressSlab_formed {m x n last} (hm : MemFormed m) : SndFormed (compressSlab m x n last) := by
  dsimp only [compressSlab]
  split
  · next e => exact (rdLease_formed hm).of_eq e
  · next e => exact (rdLease_formed hm).of_eq e
  · next e =>
    have h1 := (rdLease_formed hm).of_eq e
    split
    · next e1 => exact (chainPut_formed h1).of_eq e1
    · next e1 => exact (chainPut_formed h1).of_eq e1

theorem decompressSlab_formed {m x} (hm : MemFormed m) : SndFormed (decompressSlab m x) := by
  dsimp only [decompressSlab]
  refine holds_ite hm ?_
  split
  · next e => exact (rdLease_formed hm).of_eq e
  · next e => exact (rdLease_formed hm).of_eq e
  · next e =>
    have h1 := (rdLease_formed hm).of_eq e
    refine holds_ite h1 (holds_ite h1 (holds_ite h1 ?_))
    split
    · next e1 => exact (rdLease_formed h1).of_eq e1
    · next e1 => exact (rdLease_formed h1).of_eq e1
    · next e1 =>
      have h2 := (rdLease_formed h1).of_eq e1
      split
      · next e2 => exact (chainPut_formed h2).of_eq e2
      · next e2 =>
        have h3 := (chainPut_formed h2).of_eq e2
        exact holds_ite h3 (holds_ite h3 (holds_ite h3 h3))

theorem countStatus_formed {m k st} (hm : MemFormed m) : MemFormed (countStatus m k st) :=
  holds_ite (countWork_formed hm) (holds_ite (countWork_formed hm) (holds_ite (countWork_formed hm) (holds_ite (countWork_formed hm) hm)))

theorem crushEnd_formed {m x st} (hm : MemFormed m) : MemFormed (crushEnd m x st) := endJob_formed (countStatus_formed hm)

theorem slabEnds_formed {m x} (hm : MemFormed m) : MemFormed (slabEnds m x) := by
  unfold slabEnds
  extract_lets before
  split
  next r m1 e =>
  have h1 : MemFormed m1 := by
    refine SndFormed.of_eq ?_ e
    refine holds_ite ?_ (holds_ite hm (decompressSlab_formed hm))
    split
    · exact compressSlab_formed hm
    · exact hm
  split
  · exact crushEnd_formed (holds_ite h1 (chainFree_formed h1))
  · extract_lets m2 m3
    have h3 : MemFormed m3 := chargeJob_formed (countWork_formed h1)
    exact holds_ite (endJob_formed h3) (holds_ite (crushEnd_formed h3) (modWork_formed (setJob_formed h3)))

theorem crushNext_formed {m k} (hm : MemFormed m) : MemFormed (crushNext m k) := by
  dsimp only [crushNext]
  refine holds_ite hm ?_
  split
  · next e => exact (chooseJob_formed hm).of_eq e
  · next e =>
    have h1 := (chooseJob_formed hm).of_eq e
    exact holds_ite (crushEnd_formed h1) (holds_ite (crushEnd_formed h1) (modWork_formed (setJob_formed h1)))

theorem crushBoundary_formed {m k} (hm : MemFormed m) : MemFormed (crushBoundary m k) := by
  dsimp only [crushBoundary]
  refine holds_ite hm (crushNext_formed ?_)
  split
  · exact slabEnds_formed hm
  · exact hm

theorem execSlabBoundary_formed {k s} (hm : MemFormed s.m) : NextFormed (execSlabBoundary k s) :=
  runUnits_formed hm (fun _ g => crushBoundary_formed g)

theorem queueRoom_formed {m kind hub l q} (hm : MemFormed m) : SndFormed (queueRoom m kind hub l q) := by
  dsimp only [queueRoom]
  exact setJobRing_formed (ringHead_formed hm)

theorem takeJob_formed {m x} (hm : MemFormed m) : MemFormed (takeJob m x) := by
  dsimp only [takeJob]
  exact ledgerAdd_formed (modJobs_formed (setJob_formed hm))

theorem answerRing_formed {m level code} (hm : MemFormed m) : MemFormed (answerRing m level code) := formed_mk hm

theorem ringCrush_formed {m level l arg a} (hm : MemFormed m) : MemFormed (ringCrush m level l arg a) := by
  dsimp only [ringCrush]
  refine holds_ite (answerRing_formed hm) (holds_ite (answerRing_formed hm) (holds_ite (answerRing_formed hm) ?_))
  split
  · exact answerRing_formed hm
  · exact answerRing_formed hm
  · split
    · next e1 => exact answerRing_formed ((rdLease_formed hm).of_eq e1)
    · next e1 =>
      have h2 := (rdLease_formed hm).of_eq e1
      refine holds_ite (answerRing_formed h2) ?_
      split
      · exact answerRing_formed h2
      · refine holds_ite (answerRing_formed h2) ?_
        split
        · next e3 => exact answerRing_formed ((queueRoom_formed h2).of_eq e3)
        · next e3 => exact answerRing_formed (takeJob_formed ((queueRoom_formed h2).of_eq e3))

theorem execCrusherOnline_formed {a k s} (hm : MemFormed s.m) : NextFormed (execCrusherOnline a k s) :=
  runM_formed hm (fun _ g => ctlWrite_formed (fun _ g1 => workCmd_formed g1) g)

theorem execCrusherOffline_formed {a k s} (hm : MemFormed s.m) : NextFormed (execCrusherOffline a k s) :=
  runM_formed hm (fun _ g => ctlWrite_formed (fun _ g1 => workCmd_formed g1) g)

theorem execCrusherDrained_formed {k s} (hm : MemFormed s.m) : NextFormed (execCrusherDrained k s) :=
  runUnits_formed hm (fun _ g => workDrained_formed g)

theorem execCrusherFailure_formed {k s} (hm : MemFormed s.m) : NextFormed (execCrusherFailure k s) :=
  runUnits_formed hm (fun _ g => holds_ite (workFails_formed g) g)

/-! ## The session contexts and their store (R693 to R698) -/

theorem tableWrite_formed {m half i b} (hm : MemFormed m) : MemFormed (tableWrite m half i b) := wrPhys_formed hm

theorem ctxRoom_formed {m} (hm : MemFormed m) : MemFormed (ctxRoom m) := by
  dsimp only [ctxRoom]
  refine holds_ite hm ?_
  split
  · exact hm
  · exact modJobs_formed (tableWrite_formed hm)

theorem ctxPut_formed {m i c} (hm : MemFormed m) : MemFormed (ctxPut m i c) := by
  dsimp only [ctxPut]
  exact modJobs_formed (touch_formed (holds_ite (ctxRoom_formed hm) hm))

theorem ctxGet_formed {m i} (hm : MemFormed m) : SndFormed (ctxGet m i) := by
  unfold ctxGet
  cases tfind m.jobs.ctx i with
  | some e => exact ctxPut_formed hm
  | none =>
    have h1 := rdPhys_formed (src := 0x0C00 + ctxHalf m) (pa := 256 * ctxLine m i) (len := 256) hm
    generalize rdPhys m (0x0C00 + ctxHalf m) (256 * ctxLine m i) 256 = r at h1 ⊢
    obtain ⟨x, m1⟩ := r
    cases x with
    | none => exact h1
    | some b =>
      refine holds_ite h1 (holds_ite h1 ?_)
      cases keyUnwrap (nb m1.jobs.ctxKey) (nb (bslice b 64 136)) with
      | none => exact h1
      | some k => exact ctxPut_formed h1

theorem ctxClear_formed {m i} (hm : MemFormed m) : MemFormed (ctxClear m i) := by
  dsimp only [ctxClear]
  exact tableWrite_formed (modJobs_formed hm)

/-! ## Cipher engines and public-key units (R690 to R715) -/

theorem cipherEnd_formed {m x st} (hm : MemFormed m) : MemFormed (cipherEnd m x st) := by
  dsimp only [cipherEnd]
  exact endJob_formed (holds_ite (countWork_formed hm) (holds_ite (countWork_formed hm) hm))

theorem jobCtx_formed {m x} (hm : MemFormed m) : SndFormed (jobCtx m x) := by
  dsimp only [jobCtx]
  refine holds_ite hm ?_
  split
  · exact hm
  · refine holds_ite hm ?_
    split
    · next e1 => exact (ctxGet_formed hm).of_eq e1
    · next e1 => exact (ctxGet_formed hm).of_eq e1

theorem cipherCheck_formed {m x} (hm : MemFormed m) : SndFormed (cipherCheck m x) := by
  dsimp only [cipherCheck]
  split
  · next e => exact (jobCtx_formed hm).of_eq e
  · next e =>
    have h1 := (jobCtx_formed hm).of_eq e
    exact holds_ite h1 (holds_ite h1 h1)

theorem readAux_formed {m x} (hm : MemFormed m) : SndFormed (readAux m x) := by
  dsimp only [readAux]
  split
  · next e => exact (rdLease_formed hm).of_eq e
  · next e => exact (rdLease_formed hm).of_eq e

theorem kekOf_formed {m x aux} (hm : MemFormed m) : SndFormed (kekOf m x aux) := by
  dsimp only [kekOf]
  split
  · exact hm
  · split
    · next e1 => exact (ctxGet_formed hm).of_eq e1
    · next e1 => exact (ctxGet_formed hm).of_eq e1

theorem hmacKey_formed {m c} (hm : MemFormed m) : SndFormed (hmacKey m c) := by
  dsimp only [hmacKey]
  exact holds_ite hm (holds_ite hm (SndFormed.mk (takeChoice_formed hm)))

theorem runOp_formed {m x c} (hm : MemFormed m) : SndFormed (runOp m x c) := by
  dsimp only [runOp]
  split
  · next e => exact (readAux_formed hm).of_eq e
  · next e =>
    have h1 := (readAux_formed hm).of_eq e
    split
    · exact h1
    · exact h1
    · refine holds_ite ?_ h1
      split
      · next e2 => exact (kekOf_formed h1).of_eq e2
      · next e2 => exact (kekOf_formed h1).of_eq e2
    · split
      · next e2 => exact (kekOf_formed h1).of_eq e2
      · next e2 => exact (kekOf_formed h1).of_eq e2
    · exact h1
    · exact SndFormed.mk (SndFormed.snd (foldl_holds (fun _ _ g => SndFormed.mk (takeFree_formed g)) h1))
    · exact SndFormed.mk (hmacKey_formed h1)
    · exact SndFormed.mk (hmacKey_formed h1)
    · exact h1

theorem cipherFinish_formed {m x c} (hm : MemFormed m) : MemFormed (cipherFinish m x c) := by
  dsimp only [cipherFinish]
  split
  · next e => exact cipherEnd_formed ((runOp_formed hm).of_eq e)
  · next e =>
    have h1 := (runOp_formed hm).of_eq e
    split
    · next e1 => exact cipherEnd_formed ((wrLease_formed h1).of_eq e1)
    · next e1 =>
      have h2 := (wrLease_formed h1).of_eq e1
      refine cipherEnd_formed ?_
      split
      · exact holds_ite (ctxClear_formed h2) (ctxPut_formed h2)
      · exact h2

theorem cipherStep_formed {m x} (hm : MemFormed m) : MemFormed (cipherStep m x) := by
  dsimp only [cipherStep]
  split
  · next e => exact cipherEnd_formed ((cipherCheck_formed hm).of_eq e)
  · next e =>
    have h1 := (cipherCheck_formed hm).of_eq e
    split
    · next e1 => exact cipherEnd_formed ((rdLease_formed h1).of_eq e1)
    · next e1 =>
      have h2 := (rdLease_formed h1).of_eq e1
      refine holds_ite (endJob_formed (chargeJob_formed h2)) ?_
      exact holds_ite (cipherFinish_formed (chargeJob_formed h2)) (modWork_formed (setJob_formed (chargeJob_formed h2)))

theorem cipherNext_formed {m u} (hm : MemFormed m) : MemFormed (cipherNext m u) := by
  dsimp only [cipherNext]
  refine holds_ite hm ?_
  split
  · next e => exact (chooseJob_formed hm).of_eq e
  · next e =>
    have h1 := (chooseJob_formed hm).of_eq e
    split
    · next e1 => exact cipherEnd_formed ((cipherCheck_formed (setJob_formed h1)).of_eq e1)
    · next e1 => exact modWork_formed ((cipherCheck_formed (setJob_formed h1)).of_eq e1)

theorem cipherBoundary_formed {m u} (hm : MemFormed m) : MemFormed (cipherBoundary m u) := by
  dsimp only [cipherBoundary]
  refine holds_ite hm (holds_ite (workDrained_formed (cipherNext_formed ?_)) (cipherNext_formed ?_))
  · split
    · exact cipherStep_formed hm
    · exact hm
  · split
    · exact cipherStep_formed hm
    · exact hm

theorem execRecordBoundary_formed {u s} (hm : MemFormed s.m) : NextFormed (execRecordBoundary u s) :=
  runUnits_formed hm (fun _ g => cipherBoundary_formed g)

theorem ringCipher_formed {m level l arg a} (hm : MemFormed m) : MemFormed (ringCipher m level l arg a) := by
  dsimp only [ringCipher]
  refine holds_ite (answerRing_formed hm) (holds_ite (answerRing_formed hm) (holds_ite (answerRing_formed hm) ?_))
  split
  · exact answerRing_formed (rdLease_formed hm)
  · exact answerRing_formed (rdLease_formed hm)
  · exact answerRing_formed (rdLease_formed hm)
  · refine holds_ite (answerRing_formed (rdLease_formed hm)) ?_
    split
    · exact answerRing_formed (rdLease_formed hm)
    · refine holds_ite (answerRing_formed (rdLease_formed hm)) ?_
      split
      · next e2 => exact answerRing_formed ((queueRoom_formed (rdLease_formed hm)).of_eq e2)
      · next e2 => exact answerRing_formed (takeJob_formed ((queueRoom_formed (rdLease_formed hm)).of_eq e2))

theorem execCipherOnline_formed {a x s} (hm : MemFormed s.m) : NextFormed (execCipherOnline a x s) :=
  runM_formed hm (fun _ g => ctlWrite_formed (fun _ g1 => workCmd_formed g1) g)

theorem execCipherOffline_formed {a x s} (hm : MemFormed s.m) : NextFormed (execCipherOffline a x s) :=
  runM_formed hm (fun _ g => ctlWrite_formed (fun _ g1 => workCmd_formed g1) g)

theorem execCipherUnitFailure_formed {u s} (hm : MemFormed s.m) : NextFormed (execCipherUnitFailure u s) :=
  runUnits_formed hm (fun _ g => holds_ite (workFails_formed g) g)

theorem halfLost_formed {m h} (hm : MemFormed m) : MemFormed (halfLost m h) := by
  dsimp only [halfLost]
  refine raiseErr_formed ?_
  split
  · exact modJobs_formed (setUState_formed hm)
  · exact holds_ite (modJobs_formed (setUState_formed hm)) (modJobs_formed (setUState_formed hm))

theorem execCtxHalfLoss_formed {h s} (hm : MemFormed s.m) : NextFormed (execCtxHalfLoss h s) :=
  runUnits_formed hm (fun _ g => holds_ite (halfLost_formed g) g)

theorem halfReturns_formed {m h} (hm : MemFormed m) : MemFormed (halfReturns m h) := holds_ite (modJobs_formed (setUState_formed hm)) hm

theorem execCtxHalfCopyComplete_formed {h s} (hm : MemFormed s.m) : NextFormed (execCtxHalfCopyComplete h s) :=
  runUnits_formed hm (fun _ g => holds_ite (modJobs_formed (setUState_formed g)) g)

/-! ## Clock domains (R831 to R842) -/

theorem domStart_formed {m d} (hm : MemFormed m) : MemFormed (domStart m d) := modDom_formed hm

theorem clkWord_formed {m d} (hm : MemFormed m) : SndFormed (clkWord m d) := by
  dsimp only [clkWord]
  exact SndFormed.mk (takeFree_formed hm)

/-! ## Control stores (R353 to R360, R389, R390) -/

theorem modStore_formed {m k f} (hm : MemFormed m) : MemFormed (modStore m k f) := hm.of_mem (modStore_mem ..)

theorem microStart_formed {m e code} (hm : MemFormed m) : MemFormed (microStart m e code) := by
  dsimp only [microStart]
  exact modEng_formed hm

theorem microPlace_formed {m e} (hm : MemFormed m) : SndFormed (microPlace m e) := by
  dsimp only [microPlace]
  exact modEng_formed (takeChoice_formed (takeFree_formed hm))

theorem microCorrected_formed {m u k} (hm : MemFormed m) : MemFormed (microCorrected m u k) := by
  dsimp only [microCorrected]
  exact raiseErr_formed (modStore_formed hm)

theorem microRetried_formed {m u a kind} (hm : MemFormed m) : MemFormed (microRetried m u a kind) := by
  dsimp only [microRetried]
  exact raiseErr_formed (modStore_formed hm)

theorem microMeets_formed {m e err} (hm : MemFormed m) : SndFormed (microMeets m e err) := by
  dsimp only [microMeets]
  split
  · exact holds_ite (microCorrected_formed hm) hm
  · exact hm
  · exact hm
  · refine holds_ite hm ?_
    split <;> exact SndFormed.mk (takeFree_formed hm)

/-! ## The hardware scheduler (R311 to R335) -/

theorem armSlice_formed {m e l} (hm : MemFormed m) : MemFormed (armSlice m e l) := by
  dsimp only [armSlice]
  exact holds_ite hm (setBank_formed (takeStamp_formed hm))

theorem loadChain_formed {fuel m e ls va next home b} (hm : MemFormed m) : SndFormed (loadChain fuel m e ls va next home b) := by
  induction fuel generalizing m va next b with
  | zero => exact hm
  | succ _ ih =>
    dsimp only [loadChain]
    refine holds_ite hm ?_
    split
    · next e => exact (readSett_formed hm).of_eq e
    · next e =>
      have h1 := (readSett_formed hm).of_eq e
      split
      · next e1 => exact (ih h1).of_eq e1
      · next e1 => exact (ih h1).of_eq e1

theorem settRejected_formed {m e ls task va code kind} (hm : MemFormed m) : MemFormed (settRejected m e ls task va code kind) := raiseErrD_formed hm

theorem seatTask_formed {m e q b} (hm : MemFormed m) : MemFormed (seatTask m e q b) := by
  dsimp only [seatTask]
  exact armSlice_formed (served_formed (modEng_formed (setBank_formed hm)))

theorem microResume_formed {m e l} (hm : MemFormed m) : MemFormed (microResume m e l) := by
  dsimp only [microResume]
  refine holds_ite hm ?_
  refine holds_ite ?_ ?_
  · exact holds_ite (modEng_formed (setBank_formed (modEng_formed hm))) (setBank_formed (modEng_formed hm))
  · exact holds_ite (returnSett_formed (setBank_formed hm)) (setBank_formed hm)

theorem dispatchTo_formed {m e q} (hm : MemFormed m) : MemFormed (dispatchTo m e q) := by
  unfold dispatchTo
  refine holds_ite (seatTask_formed hm) ?_
  extract_lets ls b0
  split
  · next e1 =>
    have h1 := (loadChain_formed hm).of_eq e1
    exact taskGone_formed (taskLost_formed (settRejected_formed h1))
  next b used m1 e1 =>
  have h1 : MemFormed m1 := (loadChain_formed hm).of_eq e1
  split
  next sp m2 e2 =>
  have h2 : MemFormed m2 := (settChain_formed h1).of_eq e2
  extract_lets m3 b1 b2
  have h3 : MemFormed m3 := holds_ite (foldl_holds (fun _ _ g => returnSett_formed g) h2) h2
  split
  next t m4 e4 =>
  have h4 : MemFormed m4 := (takeStamp_formed h3).of_eq e4
  extract_lets b3 b4 b5 m5
  have h5 : MemFormed m5 := seatTask_formed h4
  exact holds_ite (microResume_formed h5) h5

theorem dispatchNext_formed {m b} (hm : MemFormed m) : MemFormed (dispatchNext m b) := by
  dsimp only [dispatchNext]
  refine holds_ite hm ?_
  split
  · exact hm
  · exact dispatchTo_formed (modBench_formed hm)

theorem fillQueue_formed {m b} (hm : MemFormed m) : MemFormed (fillQueue m b) := by
  dsimp only [fillQueue]
  exact foldl_holds (fun _ _ g => enqueue_formed g) (modEvt_formed (drainWaits_formed hm))

theorem stackBack_formed {m e l} (hm : MemFormed m) : SndFormed (stackBack m e l) := by
  dsimp only [stackBack]
  refine holds_ite ?_ ?_
  · refine modBank_formed (SndFormed.snd (foldl_holds (fun _ _ g => holds_ite g ?_) hm))
    split
    · next e => exact (engWrite_formed g).of_eq e
    · next e => exact (engWrite_formed g).of_eq e
  · refine SndFormed.snd (foldl_holds (fun _ _ g => holds_ite g ?_) hm)
    split
    · next e => exact (engWrite_formed g).of_eq e
    · next e => exact (engWrite_formed g).of_eq e

theorem spillInto_formed {m e l va k} (hm : MemFormed m) : MemFormed (spillInto m e l va k) := by
  dsimp only [spillInto]
  exact setBank_formed (writeSett_formed hm)

theorem writeItems_formed {m e ls task level flags n old l} (hm : MemFormed m) : MemFormed (writeItems m e ls task level flags n old l) := by
  dsimp only [writeItems]
  exact foldl_holds (fun _ _ g => holds_ite g (writeSett_formed g)) hm

theorem reserveNoted_formed {m e l} (hm : MemFormed m) : MemFormed (reserveNoted m e l) := by
  dsimp only [reserveNoted]
  split
  · exact modBank_formed hm
  · exact hm

theorem leavePoint_formed {m e l} (hm : MemFormed m) : MemFormed (leavePoint m e l) := by
  dsimp only [leavePoint]
  exact holds_ite (armSlice_formed (setBank_formed hm)) (setBank_formed hm)

theorem displace_formed {m e l} (hm : MemFormed m) : MemFormed (displace m e l) := by
  unfold displace
  extract_lets b ls bn q0 ours
  refine holds_ite (leavePoint_formed hm) ?_
  split
  · next e1 => exact leavePoint_formed ((stackBack_formed hm).of_eq e1)
  next m1 e1 =>
  have h1 : MemFormed m1 := (stackBack_formed hm).of_eq e1
  extract_lets dirty m2 b' spills after
  have h2 : MemFormed m2 := holds_ite h1 (reserveNoted_formed h1)
  split
  next old m3 e3 =>
  have h3 : MemFormed m3 := SndFormed.of_eq (by exact holds_ite (settChain_formed h2) h2) e3
  split
  next res m4 e4 =>
  have h4 : MemFormed m4 := by
    refine SndFormed.of_eq (holds_ite (SndFormed.mk h3) ?_) e4
    split
    · exact h3
    · dsimp only
      exact SndFormed.mk (engAddr_formed (engAddr_formed h3))
  extract_lets kept need gone
  split
  · next e5 => exact leavePoint_formed ((takeSetts_formed h4).of_eq e5)
  next m5 e5 =>
  have h5 : MemFormed m5 := (takeSetts_formed h4).of_eq e5
  extract_lets m6 m7 b'' items fresh place m8 m9 area q m10
  have h7 : MemFormed m7 := foldl_holds (fun _ _ g => spillInto_formed g) (modBank_formed h5)
  have h9 : MemFormed m9 := foldl_holds (fun _ _ g => returnSett_formed g) (writeItems_formed h7)
  have h10 : MemFormed m10 := formed_mk h9
  exact setBank_formed h10

theorem leaveBank_formed {m e l} (hm : MemFormed m) : MemFormed (leaveBank m e l) := holds_ite (releaseTask_formed hm) (displace_formed hm)

theorem savingDone_formed {m e l} (hm : MemFormed m) : MemFormed (savingDone m e l) := by
  dsimp only [savingDone]
  split
  · exact holds_ite (holds_ite hm (modBench_formed (setBank_formed hm))) (holds_ite hm (enqueue_formed (setBank_formed hm)))
  · exact hm

theorem engineLeft_formed {m e} (hm : MemFormed m) : MemFormed (engineLeft m e) := holds_ite (setUState_formed hm) hm

theorem placeReserve_formed {m e l} (hm : MemFormed m) : MemFormed (placeReserve m e l) := by
  dsimp only [placeReserve]
  refine holds_ite hm ?_
  split
  · next e => exact reserveNoted_formed ((stackBack_formed hm).of_eq e)
  · next e => exact (stackBack_formed hm).of_eq e

theorem reachPoint_formed {m e l} (hm : MemFormed m) : MemFormed (reachPoint m e l) := by
  dsimp only [reachPoint]
  exact holds_ite (modBank_formed (placeReserve_formed hm)) (placeReserve_formed hm)

theorem stealNow_formed {m e v} (hm : MemFormed m) : MemFormed (stealNow m e v) := by
  dsimp only [stealNow]
  split
  · exact hm
  · exact dispatchTo_formed (enqueueAll_formed (modBench_formed (modBench_formed hm)))

theorem persistent_formed {m e} (hm : MemFormed m) : MemFormed (persistent m e) := noteFault_formed (setUState_formed hm)

theorem countRetry_formed {m e l fails} (hm : MemFormed m) : SndFormed (countRetry m e l fails) := by
  dsimp only [countRetry]
  exact modEng_formed (raiseErr_formed (takeChoice_formed hm))

/-! ## Memory operations of an engine in flight, MAC, CX, SAVE (R165, R234 to R266) -/

theorem arrayTake_formed {m e u} (hm : MemFormed m) : MemFormed (arrayTake m e u) := by
  dsimp only [arrayTake]
  refine holds_ite hm ?_
  split
  · exact hm
  · exact setEng_formed hm

theorem arrayFree_formed {m e u l op} (hm : MemFormed m) : MemFormed (arrayFree m e u l op) := holds_ite (arrayTake_formed (modEng_formed hm)) hm

theorem l1dAdd_formed {m e n} (hm : MemFormed m) : MemFormed (l1dAdd m e n) := by
  dsimp only [l1dAdd]
  exact holds_ite hm (formed_mk (touch_formed hm))

theorem sideUsed_formed {m e n} (hm : MemFormed m) : MemFormed (sideUsed m e n) := formed_mk hm

theorem sideAdd_formed {m e n} (hm : MemFormed m) : MemFormed (sideAdd m e n) := formed_mk hm

theorem l1iAdd_formed {m e n d} (hm : MemFormed m) : MemFormed (l1iAdd m e n d) := by
  dsimp only [l1iAdd]
  exact holds_ite hm (formed_mk (touch_formed hm))

theorem l1iUse_formed {m e n} (hm : MemFormed m) : MemFormed (l1iUse m e n) := by
  dsimp only [l1iUse]
  exact holds_ite hm (formed_mk (touch_formed hm))

theorem isyncNow_formed {m e} (hm : MemFormed m) : MemFormed (isyncNow m e) := modEng_formed hm

theorem stride_formed {m e ls n} (hm : MemFormed m) : MemFormed (stride m e ls n) := by
  dsimp only [stride]
  refine holds_ite hm ?_
  split
  · exact modEng_formed hm
  · refine holds_ite (modEng_formed hm) ?_
    exact holds_ite (takeChoice_formed (modEng_formed hm)) (l2Prefetch_formed (takeChoice_formed (modEng_formed hm)))

theorem fencesDone_formed {fuel m e} (hm : MemFormed m) : MemFormed (fencesDone fuel m e) := by
  induction fuel generalizing m with
  | zero => exact hm
  | succ _ ih =>
    dsimp only [fencesDone]
    split
    · exact hm
    · exact ih (holds_ite (isyncNow_formed (setEng_formed hm)) (setEng_formed hm))

theorem opDone_formed {m e o} (hm : MemFormed m) : MemFormed (opDone m e o) := by
  dsimp only [opDone]
  exact fencesDone_formed (modEng_formed hm)

theorem fetchLine_formed {m e ls n op} (hm : MemFormed m) : SndFormed (fetchLine m e ls n op) := by
  dsimp only [fetchLine]
  refine holds_ite (SndFormed.mk (ioRead_formed hm)) ?_
  split
  · next e => exact (l2Load_formed hm).of_eq e
  · next e => exact (l2Load_formed hm).of_eq e

theorem answerRead_formed {m e o v poison} (hm : MemFormed m) : MemFormed (answerRead m e o v poison) := hm.of_mem (answerRead_mem ..)

theorem loadDone_formed {m e o sgn} (hm : MemFormed m) : MemFormed (loadDone m e o sgn) := by
  dsimp only [loadDone]
  refine holds_ite hm ?_
  split
  · next e => exact (fetchLine_formed hm).of_eq e
  · next e =>
    have h1 := (fetchLine_formed hm).of_eq e
    exact answerRead_formed (holds_ite (formed_mk (sideUsed_formed (l1dAdd_formed h1))) (sideUsed_formed (l1dAdd_formed h1)))

theorem putLine_formed {m e o b} (hm : MemFormed m) : MemFormed (putLine m e o b) := by
  dsimp only [putLine]
  refine holds_ite ?_ (engPut_formed (sideUsed_formed hm))
  exact Gives.getD (maintAsk_formed (engPut_formed (sideUsed_formed hm))) (maintClean_formed (engPut_formed (sideUsed_formed hm)))

theorem ownLine_formed {m e o} (hm : MemFormed m) : SndFormed (ownLine m e o) := by
  dsimp only [ownLine]
  refine holds_ite (SndFormed.mk (ioRead_formed hm)) ?_
  split
  · next e => exact (l2Store_formed hm).of_eq e
  · next e => exact (l2Store_formed hm).of_eq e

theorem storeDone_formed {m e o} (hm : MemFormed m) : MemFormed (storeDone m e o) := by
  dsimp only [storeDone]
  refine holds_ite hm (holds_ite (opDone_formed (putLine_formed hm)) ?_)
  split
  · next e => exact (ownLine_formed hm).of_eq e
  · next e => exact opDone_formed (putLine_formed ((ownLine_formed hm).of_eq e))

theorem atomicDone_formed {m e o} (hm : MemFormed m) : MemFormed (atomicDone m e o) := by
  dsimp only [atomicDone]
  refine holds_ite hm ?_
  split
  · next e => exact (ownLine_formed hm).of_eq e
  · next e =>
    have h1 := (ownLine_formed hm).of_eq e
    refine holds_ite (answerRead_formed (formed_mk (MemFormed.mem (holds_ite (putLine_formed h1) h1)))) (answerRead_formed ?_)
    split
    · exact putLine_formed h1
    · exact h1

theorem macFetchDone_formed {m e o v poison} (hm : MemFormed m) : MemFormed (macFetchDone m e o v poison) := by
  dsimp only [macFetchDone]
  exact opDone_formed (modBank_formed hm)

theorem macLineDone_formed {m e o} (hm : MemFormed m) : MemFormed (macLineDone m e o) := by
  dsimp only [macLineDone]
  refine holds_ite hm ?_
  split
  · next e => exact (fetchLine_formed hm).of_eq e
  · next e => exact macFetchDone_formed (sideUsed_formed (l1dAdd_formed ((fetchLine_formed hm).of_eq e)))

theorem cxRead.canAccessEng_formed {fuel m e l va len n} (hm : MemFormed m) : SndFormed (cxRead.canAccessEng fuel m e l va len n) := by
  induction fuel generalizing m va len with
  | zero => exact hm
  | succ _ ih =>
    dsimp only [cxRead.canAccessEng]
    refine holds_ite hm ?_
    split
    · next e => exact (engAddr_formed hm).of_eq e
    · next e => exact ih ((engAddr_formed hm).of_eq e)

theorem cxRead_formed {m e ls va len} (hm : MemFormed m) : SndFormed (cxRead m e ls va len) := by
  dsimp only [cxRead]
  split
  · next e => exact (cxRead.canAccessEng_formed hm).of_eq e
  · next e =>
    have h1 := (cxRead.canAccessEng_formed hm).of_eq e
    split
    · next e1 => exact (rdEng_formed h1).of_eq e1
    · next e1 => exact (rdEng_formed h1).of_eq e1

theorem cxInterval_formed {m e l code a} (hm : MemFormed m) : SndFormed (cxInterval m e l code a) := by
  dsimp only [cxInterval]
  refine holds_ite hm ?_
  split
  · next e => exact (cxRead_formed hm).of_eq e
  · next e =>
    have h1 := (cxRead_formed hm).of_eq e
    split
    · split
      · next e2 => exact (cxRead.canAccessEng_formed h1).of_eq e2
      · next e2 => exact modBank_formed (engWrite_formed ((cxRead.canAccessEng_formed h1).of_eq e2))
    · split
      · next e2 => exact (cxRead_formed h1).of_eq e2
      · next e2 =>
        have h3 := (cxRead_formed h1).of_eq e2
        split <;> exact modBank_formed h3
    · exact modBank_formed h1
    · split
      · next e2 => exact (cxRead_formed h1).of_eq e2
      · next e2 =>
        have h3 := (cxRead_formed h1).of_eq e2
        split
        · next e3 => exact (cxRead.canAccessEng_formed h3).of_eq e3
        · next e3 => exact modBank_formed (engWrite_formed ((cxRead.canAccessEng_formed h3).of_eq e3))

theorem cxRun_formed {fuel m e l code a} (hm : MemFormed m) : SndFormed (cxRun fuel m e l code a) := by
  induction fuel generalizing m with
  | zero => exact hm
  | succ _ ih =>
    dsimp only [cxRun]
    split
    · next e => exact ih ((cxInterval_formed hm).of_eq e)
    · exact cxInterval_formed hm

theorem coverLines_formed {m e ls d n} (hm : MemFormed m) : MemFormed (coverLines m e ls d n) := by
  dsimp only [coverLines]
  refine foldl_holds (fun _ _ g => holds_ite g ?_) hm
  split
  · next e => exact (engAddr_formed g).of_eq e
  · next e =>
    have h1 := (engAddr_formed g).of_eq e
    exact holds_ite (engPut_formed h1) h1

theorem moveCovers_formed {m e l} (hm : MemFormed m) : MemFormed (moveCovers m e l) := by
  dsimp only [moveCovers]
  split
  · exact modBank_formed (coverLines_formed hm)
  · exact hm

theorem cxEnd_formed {m e l} (hm : MemFormed m) : MemFormed (cxEnd m e l) := by
  dsimp only [cxEnd]
  split
  · exact hm
  · refine holds_ite hm ?_
    split
    · next e1 => exact modBank_formed (moveCovers_formed ((cxRun_formed hm).of_eq e1))
    · next e1 => exact deliver_formed (modBank_formed (moveCovers_formed ((cxRun_formed hm).of_eq e1)))
    · next e1 => exact (cxRun_formed hm).of_eq e1

theorem saveEnd_formed {m e l} (hm : MemFormed m) : MemFormed (saveEnd m e l) := by
  unfold saveEnd
  extract_lets b
  split
  · exact hm
  refine holds_ite hm ?_
  extract_lets code a upper fin fail
  have hfail {m : Mach} (st : Nat) (h : MemFormed m) : MemFormed (fail m st) := modBank_formed h
  refine holds_ite ?_ ?_
  · split
    next prev m1 e1 =>
    have h1 : MemFormed m1 := by
      refine SndFormed.of_eq (holds_ite (SndFormed.mk hm) ?_) e1
      split
      · next e2 => exact (readSett_formed hm).of_eq e2
      · next e2 => exact (readSett_formed hm).of_eq e2
    split
    · exact hfail _ (holds_ite h1 (returnSett_formed h1))
    split
    · next e2 => exact hfail _ (SndFormed.of_eq (by exact holds_ite (takeSetts_formed h1) h1) e2)
    next m2 e2 =>
    have h2 : MemFormed m2 := SndFormed.of_eq (by exact holds_ite (takeSetts_formed h1) h1) e2
    extract_lets va b2 out link m3 m4
    have h3 : MemFormed m3 := writeSett_formed h2
    refine modBank_formed ?_
    dsimp only [m4]
    split
    · exact writeSett_formed h3
    · exact h3
  · split
    · next e1 => exact hfail _ ((readSett_formed hm).of_eq e1)
    next m1 e1 =>
    have h1 : MemFormed m1 := (readSett_formed hm).of_eq e1
    extract_lets m2 m3 m4
    have h4 : MemFormed m4 := modEng_formed (modBank_formed (holds_ite h1 (modBank_formed (stackBack_formed h1))))
    exact holds_ite h4 (returnSett_formed h4)

theorem microSave_formed {m e l code w} (hm : MemFormed m) : MemFormed (microSave m e l code w) := by
  dsimp only [microSave]
  exact modBank_formed (takeFree_formed (takeFree_formed (microPlace_formed hm)))

theorem suspend_formed {m e l} (hm : MemFormed m) : MemFormed (suspend m e l) := by
  dsimp only [suspend]
  split
  · exact microSave_formed (modBank_formed hm)
  · exact holds_ite hm (microSave_formed (modBank_formed hm))
  · exact hm

theorem cxSome_formed {m e l} (hm : MemFormed m) : MemFormed (cxSome m e l) := by
  dsimp only [cxSome]
  split
  · exact hm
  · split
    · exact moveCovers_formed (cxRun_formed (takeChoice_formed hm))
    · exact takeChoice_formed hm

theorem saveSome_formed {m e l} (hm : MemFormed m) : MemFormed (saveSome m e l) := by
  dsimp only [saveSome]
  split
  · refine holds_ite (takeChoice_formed hm) ?_
    split
    · next e1 => exact modBank_formed ((takeSetts_formed (takeChoice_formed hm)).of_eq e1)
    · exact takeChoice_formed hm
  · exact hm

theorem microTrap_formed {m e l fails} (hm : MemFormed m) : MemFormed (microTrap m e l fails) := by
  dsimp only [microTrap]
  refine holds_ite hm ?_
  refine holds_ite (persistent_formed hm) ?_
  refine holds_ite ?_ ?_
  · refine persistent_formed ?_
    refine holds_ite ?_ ?_
    · refine emptyBank_formed ?_
      exact SndFormed.snd (holds_ite (saveSome_formed (cxSome_formed hm)) (countRetry_formed (saveSome_formed (cxSome_formed hm))))
    · refine suspend_formed ?_
      exact SndFormed.snd (holds_ite (saveSome_formed (cxSome_formed hm)) (countRetry_formed (saveSome_formed (cxSome_formed hm))))
  · refine l3Next_formed ?_
    refine holds_ite ?_ ?_
    · refine emptyBank_formed ?_
      exact SndFormed.snd (holds_ite (saveSome_formed (cxSome_formed hm)) (countRetry_formed (saveSome_formed (cxSome_formed hm))))
    · refine suspend_formed ?_
      exact SndFormed.snd (holds_ite (saveSome_formed (cxSome_formed hm)) (countRetry_formed (saveSome_formed (cxSome_formed hm))))

theorem cxEnds_formed {m e l err} (hm : MemFormed m) : MemFormed (cxEnds m e l err) := by
  dsimp only [cxEnds]
  refine holds_ite hm ?_
  split
  · next e => exact l3Next_formed (cxEnd_formed ((microMeets_formed hm).of_eq e))
  · next e =>
    have h1 := (microMeets_formed hm).of_eq e
    exact holds_ite (persistent_formed (cxSome_formed (microRetried_formed h1))) (l3Next_formed (cxEnd_formed (microRetried_formed h1)))

/-! ## A bundle's attempt (R158 to R191) -/

theorem askWalk_formed {m e l ls va} (hm : MemFormed m) : MemFormed (askWalk m e l ls va) := modEng_formed hm

theorem freshFails_formed {m e l} (hm : MemFormed m) : MemFormed (freshFails m e l) := modEng_formed hm

theorem walkDone_formed {m e} (hm : MemFormed m) : MemFormed (walkDone m e) := by
  dsimp only [walkDone]
  split
  · exact hm
  · split <;> exact modEng_formed (modEng_formed hm)

theorem fetchHand_formed {m e n} (hm : MemFormed m) : SndFormed (fetchHand m e n) := hm.of_mem (fetchHand_logged ..).mem

theorem fetchBundle_formed {m e l} (hm : MemFormed m) : SndFormed (fetchBundle m e l) := by
  dsimp only [fetchBundle]
  split
  · exact SndFormed.mk hm
  · exact SndFormed.mk (askWalk_formed hm)
  · refine holds_ite (SndFormed.mk (refuseAccess_formed hm)) (holds_ite (SndFormed.mk (modEng_formed hm)) ?_)
    split
    · next e1 => exact SndFormed.mk (modEng_formed ((fetchHand_formed hm).of_eq e1))
    · next e1 => exact SndFormed.mk (modEng_formed (l1iUse_formed ((fetchHand_formed hm).of_eq e1)))

theorem fetchArrives_formed {m e} (hm : MemFormed m) : MemFormed (fetchArrives m e) := by
  dsimp only [fetchArrives]
  split
  · exact hm
  · split
    · next e1 => exact (fetchLine_formed hm).of_eq e1
    · next e1 =>
      have h2 := (fetchLine_formed hm).of_eq e1
      exact holds_ite (modEng_formed (modEng_formed h2)) (holds_ite (modEng_formed (modEng_formed h2)) (l1iAdd_formed (modEng_formed h2)))

theorem stallOf_formed {m e l b b' ms} (hm : MemFormed m) : Gives MemFormed (stallOf m e l b b' ms) := by
  dsimp only [stallOf]
  refine holds_ite (.some hm) ?_
  split
  · exact .some (askWalk_formed hm)
  · refine holds_ite (.some (setBank_formed hm)) ?_
    exact holds_ite (.some hm) (holds_ite (.some (setBank_formed hm)) (holds_ite (.some (setBank_formed hm)) .none))

/-! ## The effect of a bundle that issues (R160) -/

theorem takeOp_formed {m e} (hm : MemFormed m) : SndFormed (takeOp m e) := modEng_formed hm

theorem startMul_formed {m e l o a} (hm : MemFormed m) : MemFormed (startMul m e l o a) := by
  dsimp only [startMul]
  exact arrayTake_formed (modBank_formed (takeOp_formed hm))

theorem startDiv_formed {m e l o a} (hm : MemFormed m) : MemFormed (startDiv m e l o a) := by
  dsimp only [startDiv]
  exact arrayTake_formed (modBank_formed (takeOp_formed hm))

theorem startFpu_formed {m e l o a} (hm : MemFormed m) : MemFormed (startFpu m e l o a) := by
  dsimp only [startFpu]
  exact holds_ite (arrayTake_formed (setBank_formed (takeOp_formed hm))) (setBank_formed (takeOp_formed hm))

theorem askLine_formed {m e ls pa own op} (hm : MemFormed m) : MemFormed (askLine m e ls pa own op) := by
  dsimp only [askLine]
  exact holds_ite hm (holds_ite (l2Store_formed hm) (holds_ite (stride_formed (l2Load_formed hm)) (l2Load_formed hm)))

theorem startLsu_formed {m e l u o a} (hm : MemFormed m) : MemFormed (startLsu m e l u o a) := by
  dsimp only [startLsu]
  refine holds_ite ?_ ?_
  · split
    · exact hm
    · exact holds_ite hm (sideAdd_formed (askLine_formed hm))
  · split
    · exact hm
    · split
      · exact fencesDone_formed (modEng_formed (holds_ite (modBank_formed (takeOp_formed hm)) (takeOp_formed hm)))
      · exact fencesDone_formed (modEng_formed (holds_ite (modBank_formed (takeOp_formed hm)) (takeOp_formed hm)))
      · refine holds_ite ?_ ?_
        · exact holds_ite (modBank_formed (takeOp_formed hm)) (takeOp_formed hm)
        · exact send_formed (modEng_formed (holds_ite (modBank_formed (takeOp_formed hm)) (takeOp_formed hm)))
      · exact askLine_formed (modEng_formed (holds_ite (modBank_formed (takeOp_formed hm)) (takeOp_formed hm)))

theorem startFetch_formed {m e l va size y} (hm : MemFormed m) : SndFormed (startFetch m e l va size y) := by
  dsimp only [startFetch]
  split
  · exact hm
  · exact askLine_formed (modEng_formed (takeOp_formed hm))

theorem startMac_formed {m e l c a} (hm : MemFormed m) : MemFormed (startMac m e l c a) := by
  dsimp only [startMac]
  refine modBank_formed ?_
  refine SndFormed.snd ?_
  refine holds_ite ?_ ?_
  · exact SndFormed.mk (SndFormed.snd (holds_ite hm (startFetch_formed hm)))
  · exact startFetch_formed (SndFormed.snd (holds_ite hm (startFetch_formed hm)))

theorem replaceHead_formed {m e q v} (hm : MemFormed m) : MemFormed (replaceHead m e q v) := by
  dsimp only [replaceHead]
  split
  · exact hm
  · split
    · exact hm
    · exact modEng_formed (modBank_formed hm)

theorem replaceMac_formed {m e v} (hm : MemFormed m) : MemFormed (replaceMac m e v) := by
  dsimp only [replaceMac]
  split
  · exact hm
  · exact modBank_formed hm

theorem disposeExc_formed {m e v} (hm : MemFormed m) : MemFormed (disposeExc m e v) := by
  dsimp only [disposeExc]
  split
  · exact hm
  · refine holds_ite hm (l3End_formed ?_)
    split
    · exact setBank_formed (modEng_formed hm)
    · exact setBank_formed (modEng_formed hm)
    · exact releaseTask_formed (raiseEvent_formed (modEng_formed hm))

theorem yieldNow_formed {m e l} (hm : MemFormed m) : MemFormed (yieldNow m e l) := holds_ite (holds_ite hm (l3End_formed hm)) (reachPoint_formed hm)

theorem waitNow_formed {m e l mask} (hm : MemFormed m) : MemFormed (waitNow m e l mask) := by
  dsimp only [waitNow]
  exact holds_ite (holds_ite (setBank_formed hm) hm) (modBank_formed (placeReserve_formed hm))

theorem stackMoves_formed {m e l ms} (hm : MemFormed m) : MemFormed (stackMoves m e l ms) := by
  dsimp only [stackMoves]
  split
  · exact holds_ite hm (setBank_formed hm)
  · refine modBank_formed (holds_ite (holds_ite hm (setBank_formed hm)) ?_)
    split
    · exact engWrite_formed (holds_ite hm (setBank_formed hm))
    · exact holds_ite hm (setBank_formed hm)

theorem applyTrig_formed {e l rep guards time m p} (hm : MemFormed m) : MemFormed (applyTrig e l rep guards time m p) := by
  dsimp only [applyTrig]
  split
  · exact modBank_formed hm
  · split
    · exact startLsu_formed hm
    · split
      · exact startMac_formed hm
      · split
        · exact microStart_formed (modBank_formed (takeOp_formed hm))
        · split
          · exact holds_ite (microStart_formed (modBank_formed hm)) (modBank_formed hm)
          · split
            · exact replaceHead_formed hm
            · refine holds_ite (startMul_formed hm) ?_
              refine holds_ite (startDiv_formed hm) (holds_ite (startFpu_formed hm) (holds_ite (modBank_formed hm) ?_))
              split
              exacts [replaceMac_formed hm, modBank_formed hm, modBank_formed hm, modBank_formed hm, modBank_formed hm, modBank_formed hm,
                modBank_formed hm, modBank_formed hm, hm]

theorem applyBundle_formed {m e l rep ms time} (hm : MemFormed m) : MemFormed (applyBundle m e l rep ms time) := by
  unfold applyBundle
  extract_lets b0 rc guards fl m1 popped m2 m3 m4 m5 busy held m6 m7 m8 m9
  have h1 : MemFormed m1 := holds_ite (stackBack_formed hm) hm
  have h5 : MemFormed m5 := foldl_holds (fun _ _ g => applyTrig_formed g) (stackMoves_formed (modEng_formed (modBank_formed h1)))
  have h8 : MemFormed m8 := holds_ite (yieldNow_formed (modEng_formed (modBank_formed h5))) (modEng_formed (modBank_formed h5))
  have h9 : MemFormed m9 := by
    dsimp only [m9]
    split
    · exact waitNow_formed h8
    · exact h8
  split
  · exact disposeExc_formed h9
  · exact h9

theorem takeExc_formed {m e l x rep} (hm : MemFormed m) : MemFormed (takeExc m e l x rep) := by
  dsimp only [takeExc]
  refine deliver_formed (holds_ite ?_ hm)
  split
  · exact modBank_formed hm
  · exact hm

theorem attempt_formed {m e l fails} (hm : MemFormed m) : MemFormed (attempt m e l fails) := by
  unfold attempt
  extract_lets m1 b
  have h1 : MemFormed m1 := freshFails_formed hm
  split
  · next e => exact (fetchBundle_formed h1).of_eq e
  · next e => exact deliver_formed ((fetchBundle_formed h1).of_eq e)
  next m2 e =>
  have h2 : MemFormed m2 := (fetchBundle_formed h1).of_eq e
  extract_lets rep
  split
  · exact deliver_formed h2
  extract_lets timed
  split
  next m3 e3 =>
  have h3 : MemFormed m3 := SndFormed.of_eq (by exact holds_ite (takeStamp_formed h2) h2) e3
  split
  next m4 e4 =>
  have h4 : MemFormed m4 := SndFormed.of_eq (by exact holds_ite (takeFree_formed h3) h3) e4
  extract_lets cycles m5 all
  have h5 : MemFormed m5 := modEng_formed h4
  split
  · exact deliver_formed h5
  refine holds_ite (modBank_formed h5) ?_
  extract_lets
  split
  · next e6 => exact stallOf_formed h5 _ e6
  split
  · exact takeExc_formed h5
  refine holds_ite (persistent_formed h5) (holds_ite (applyBundle_formed h5) ?_)
  split
  next e6 =>
  have h6 := (countRetry_formed h5).of_eq e6
  extract_lets m7
  have h7 : MemFormed m7 := applyBundle_formed h6
  exact holds_ite (persistent_formed h7) h7

theorem bundleIssue_formed {m e fails fix} (hm : MemFormed m) : MemFormed (bundleIssue m e fails fix) := by
  unfold bundleIssue
  refine holds_ite hm ?_
  extract_lets m1 e' m2
  have h1 : MemFormed m1 := by
    dsimp only [m1]
    split
    · exact microMeets_formed hm
    · exact hm
  have h2 : MemFormed m2 := l3Next_formed h1
  refine holds_ite h1 ?_
  split
  · exact h2
  · extract_lets b idle wait m3
    have h3 : MemFormed m3 := holds_ite (leavePoint_formed h2) h2
    exact holds_ite (emptyBank_formed h2) (holds_ite h2 (holds_ite h2 (holds_ite (microResume_formed h3) (attempt_formed h3))))

/-! ## The commands of the engines and benches -/

theorem onEngine_formed {s e f} (hm : MemFormed s.m) (hf : ∀ m, MemFormed m → MemFormed (f m)) : NextFormed (onEngine s e f) :=
  runUnits_formed hm (fun _ g => holds_ite (hf _ g) g)

theorem execFetchLineArrival_formed {e s} (hm : MemFormed s.m) : NextFormed (execFetchLineArrival e s) :=
  runMesh_formed hm (fun _ g => fetchArrives_formed g)

theorem execTranslationComplete_formed {e s} (hm : MemFormed s.m) : NextFormed (execTranslationComplete e s) :=
  runMesh_formed hm (fun _ g => walkDone_formed g)

theorem arrayDone_formed {m e u l op} (hm : MemFormed m) : MemFormed (arrayDone m e u l op) := by
  dsimp only [arrayDone]
  exact arrayFree_formed (modBank_formed hm)

theorem operationDone_formed {m e l u} (hm : MemFormed m) : MemFormed (operationDone m e l u) := by
  dsimp only [operationDone]
  exact holds_ite hm (holds_ite (arrayDone_formed (takeChoice_formed hm)) (modBank_formed (takeChoice_formed hm)))

theorem execOperationComplete_formed {e l u s} (hm : MemFormed s.m) : NextFormed (execOperationComplete e l u s) :=
  onEngine_formed hm (fun _ g => operationDone_formed g)

theorem dstkFill_formed {fuel m e l} (hm : MemFormed m) : MemFormed (dstkFill fuel m e l) := by
  induction fuel generalizing m with
  | zero => exact hm
  | succ _ ih =>
    dsimp only [dstkFill]
    refine holds_ite (setBank_formed hm) ?_
    split
    · next e => exact modBank_formed ((engAddr_formed hm).of_eq e)
    · next e =>
      have h1 := (engAddr_formed hm).of_eq e
      refine holds_ite h1 ?_
      split
      · next e1 => exact modBank_formed ((rdEng_formed h1).of_eq e1)
      · next e1 => exact modBank_formed ((rdEng_formed h1).of_eq e1)
      · next e1 => exact ih (modBank_formed ((rdEng_formed h1).of_eq e1))

theorem execDstkFillComplete_formed {e l s} (hm : MemFormed s.m) : NextFormed (execDstkFillComplete e l s) :=
  onEngine_formed hm (fun _ g => holds_ite g (dstkFill_formed g))

theorem rstkSpill_formed {m e l} (hm : MemFormed m) : MemFormed (rstkSpill m e l) := by
  dsimp only [rstkSpill]
  refine holds_ite hm ?_
  split
  · next e => exact (takeSetts_formed hm).of_eq e
  · next e => exact modBank_formed (spillInto_formed ((takeSetts_formed hm).of_eq e))

theorem execRstkSpillComplete_formed {e l s} (hm : MemFormed s.m) : NextFormed (execRstkSpillComplete e l s) :=
  onEngine_formed hm (fun _ g => rstkSpill_formed g)

theorem rstkFill_formed {m e l} (hm : MemFormed m) : MemFormed (rstkFill m e l) := by
  dsimp only [rstkFill]
  refine holds_ite hm ?_
  split
  · next e => exact modBank_formed (settRejected_formed ((readSett_formed hm).of_eq e))
  · next e => exact returnSett_formed (modBank_formed ((readSett_formed hm).of_eq e))

theorem execRstkFillComplete_formed {e l s} (hm : MemFormed s.m) : NextFormed (execRstkFillComplete e l s) :=
  onEngine_formed hm (fun _ g => rstkFill_formed g)

theorem execSaveComplete_formed {e l s} (hm : MemFormed s.m) : NextFormed (execSaveComplete e l s) :=
  onEngine_formed hm (fun _ g => l3Next_formed (saveEnd_formed g))

theorem execMicroTrap_formed {e l check s} (hm : MemFormed s.m) : NextFormed (execMicroTrap e l check s) :=
  onEngine_formed hm (fun _ g => microTrap_formed g)

theorem spawnAnswer_formed {m e ls arg a} (hm : MemFormed m) : SndFormed (spawnAnswer m e ls arg a) := by
  dsimp only [spawnAnswer]
  refine holds_ite hm (holds_ite hm (holds_ite hm (holds_ite hm ?_)))
  split
  · next e => exact (rdEng_formed hm).of_eq e
  · next e =>
    have h1 := (rdEng_formed hm).of_eq e
    exact holds_ite h1 (holds_ite h1 (enqueue_formed h1))

theorem postAnswer_formed {m ls arg a} (hm : MemFormed m) : SndFormed (postAnswer m ls arg a) := holds_ite hm (holds_ite hm (raiseEvent_formed hm))

theorem wakeAnswer_formed {m ls a} (hm : MemFormed m) : SndFormed (wakeAnswer m ls a) := by
  dsimp only [wakeAnswer]
  exact holds_ite hm (SndFormed.mk (wakeTask_formed hm))

theorem ringDone_formed {m e l code txn} (hm : MemFormed m) : MemFormed (ringDone m e l code txn) := modBank_formed hm

theorem ringAnswer_formed {m e l} (hm : MemFormed m) : MemFormed (ringAnswer m e l) := by
  dsimp only [ringAnswer]
  split
  · exact hm
  · refine holds_ite hm ?_
    split
    · split
      · exact ringDone_formed (formed_mk (ringCrush_formed hm))
      · exact ringCrush_formed hm
    · split
      · exact ringDone_formed (formed_mk (ringCipher_formed hm))
      · exact ringCipher_formed hm
    · refine holds_ite ?_ ?_
      · split
        · exact ringDone_formed (formed_mk hm)
        · exact hm
      · split
        · exact ringDone_formed (formed_mk (ringChan_formed hm))
        · exact ringChan_formed hm
    · exact ringDone_formed (spawnAnswer_formed hm)
    · exact ringDone_formed (postAnswer_formed hm)
    · exact ringDone_formed (wakeAnswer_formed hm)

theorem execRingAnswer_formed {e l s} (hm : MemFormed s.m) : NextFormed (execRingAnswer e l s) := runMesh_formed hm (fun _ g => ringAnswer_formed g)

theorem timerExpiry_formed {m e l t} (hm : MemFormed m) : MemFormed (timerExpiry m e l t) := by
  dsimp only [timerExpiry]
  refine holds_ite (takeStamp_formed hm) ?_
  refine holds_ite ?_ ?_
  · refine holds_ite ?_ ?_
    · refine holds_ite ?_ ?_
      · exact reachPoint_formed (setBank_formed (takeStamp_formed hm))
      · exact leavePoint_formed (reachPoint_formed (setBank_formed (takeStamp_formed hm)))
    · exact holds_ite (setBank_formed (takeStamp_formed hm)) (armSlice_formed (setBank_formed (takeStamp_formed hm)))
  · exact checkWait_formed (setBank_formed (takeStamp_formed hm))

theorem execTimerExpiry_formed {e l t s} (hm : MemFormed s.m) : NextFormed (execTimerExpiry e l t s) :=
  onEngine_formed hm (fun _ g => timerExpiry_formed g)

theorem execWaitGraceExpiry_formed {e l s} (hm : MemFormed s.m) : NextFormed (execWaitGraceExpiry e l s) := by
  dsimp only [execWaitGraceExpiry]
  refine onEngine_formed hm (fun _ g => ?_)
  split
  · exact holds_ite g (setEng_formed (setBank_formed g))
  · exact g

theorem displaceNow_formed {m e l} (hm : MemFormed m) : MemFormed (displaceNow m e l) := by
  dsimp only [displaceNow]
  exact holds_ite hm (holds_ite (holds_ite (displace_formed hm) hm) (holds_ite (leaveBank_formed hm) hm))

theorem execDisplacement_formed {e l s} (hm : MemFormed s.m) : NextFormed (execDisplacement e l s) :=
  runUnits_formed hm (fun _ g => displaceNow_formed g)

theorem execSavingComplete_formed {e l s} (hm : MemFormed s.m) : NextFormed (execSavingComplete e l s) :=
  runUnits_formed hm (fun _ g => engineLeft_formed (savingDone_formed g))

theorem execTaskEnd_formed {e l s} (hm : MemFormed s.m) : NextFormed (execTaskEnd e l s) := by
  dsimp only [execTaskEnd]
  exact onEngine_formed hm (fun _ g => holds_ite (releaseTask_formed g) g)

theorem execQueueEntryDispatch_formed {b s} (hm : MemFormed s.m) : NextFormed (execQueueEntryDispatch b s) :=
  runUnits_formed hm (fun _ g => dispatchNext_formed g)

theorem stealProbe_formed {m e} (hm : MemFormed m) : MemFormed (stealProbe m e) := by
  dsimp only [stealProbe]
  refine holds_ite hm ?_
  split <;> exact setEng_formed hm

theorem execStealProbe_formed {e s} (hm : MemFormed s.m) : NextFormed (execStealProbe e s) := onEngine_formed hm (fun _ g => stealProbe_formed g)

theorem stealCommit_formed {m e} (hm : MemFormed m) : MemFormed (stealCommit m e) := by
  dsimp only [stealCommit]
  split
  · exact hm
  · exact holds_ite (stealNow_formed (modEng_formed hm)) (modEng_formed hm)

theorem execStealCommit_formed {e s} (hm : MemFormed s.m) : NextFormed (execStealCommit e s) := onEngine_formed hm (fun _ g => stealCommit_formed g)

theorem execIdleReprobe_formed {e s} (hm : MemFormed s.m) : NextFormed (execIdleReprobe e s) := by
  dsimp only [execIdleReprobe]
  refine onEngine_formed hm (fun _ g => ?_)
  split
  · exact holds_ite g (modEng_formed g)
  · exact g

theorem execWaitTableTimer_formed {b s} (hm : MemFormed s.m) : NextFormed (execWaitTableTimer b s) := by
  dsimp only [execWaitTableTimer]
  exact runUnits_formed hm (fun _ g => drainWaits_formed (takeStamp_formed g))

theorem execQueuePlaceFreed_formed {b s} (hm : MemFormed s.m) : NextFormed (execQueuePlaceFreed b s) :=
  runUnits_formed hm (fun _ g => fillQueue_formed g)

theorem stockRefill_formed {m b l} (hm : MemFormed m) : MemFormed (stockRefill m b l) := by
  dsimp only [stockRefill]
  exact holds_ite hm (modBench_formed (modLease_formed hm))

theorem execStockRefill_formed {b l s} (hm : MemFormed s.m) : NextFormed (execStockRefill b l s) :=
  runUnits_formed hm (fun _ g => stockRefill_formed g)

theorem settAdd_formed {m l v} (hm : MemFormed m) : Gives MemFormed (settAdd m l v) := by
  dsimp only [settAdd]
  refine holds_ite .none ?_
  split
  · exact .none
  · exact holds_ite .none (.some (modLease_formed (wrPhys_formed (takeStamp_formed (takeFree_formed hm)))))

theorem execLeaseSettAdd_formed {a l v s} (hm : MemFormed s.m) : NextFormed (execLeaseSettAdd a l v s) :=
  runM_formed hm (fun _ g => ctlWriteRule_formed (fun _ g1 => settAdd_formed g1) g)

theorem microOverrun_formed {m u cycles} (hm : MemFormed m) : MemFormed (microOverrun m u cycles) := by
  dsimp only [microOverrun]
  refine holds_ite hm (raiseErr_formed (modStore_formed (SndFormed.snd ?_)))
  split
  · exact SndFormed.mk (microPlace_formed hm)
  · exact SndFormed.mk (takeFree_formed hm)

theorem execMicroTimingOverrun_formed {u cycles s} (hm : MemFormed s.m) : NextFormed (execMicroTimingOverrun u cycles s) :=
  runUnits_formed hm (fun _ g => microOverrun_formed g)

theorem storeStarted_formed {m k} (hm : MemFormed m) : MemFormed (storeStarted m k) :=
  holds_ite hm (holds_ite (setUState_formed hm) (holds_ite (modEng_formed (setUState_formed hm)) (holds_ite (modEng_formed (setUState_formed hm))
    (setUState_formed hm))))

theorem microLoad_formed {m u readBack} (hm : MemFormed m) : MemFormed (microLoad m u readBack) := by
  dsimp only [microLoad]
  refine holds_ite hm ?_
  split
  · exact holds_ite (modStore_formed hm) (raiseErr_formed (setUState_formed (modStore_formed hm)))
  · exact storeStarted_formed (setUnit_formed (modStore_formed (modStore_formed hm)))

/-! ## Events and time (R761 to R787) -/

theorem evtPut_formed {m l ev released} (hm : MemFormed m) : SndFormed (evtPut m l ev released) := by
  dsimp only [evtPut]
  refine holds_ite hm ?_
  split
  · next e => exact (ringHead_formed hm).of_eq e
  · next e =>
    have h1 := (ringHead_formed hm).of_eq e
    refine holds_ite (modLease_formed h1) ?_
    split
    · next e1 => exact (ringPut_formed (modLease_formed h1)).of_eq e1
    · next e1 => exact modLease_formed ((ringPut_formed (modLease_formed h1)).of_eq e1)

theorem vectorAct_formed {m l ev num entry} (hm : MemFormed m) : MemFormed (vectorAct m l ev num entry) := by
  dsimp only [vectorAct]
  split
  · exact countBadVector_formed hm
  · refine holds_ite (countBadVector_formed hm) ?_
    split
    · refine holds_ite ?_ ?_
      · split
        · exact hm
        · exact l3Next_formed (modEvt_formed hm)
      · split
        · exact modLease_formed hm
        · exact placeVector_formed hm
    · exact wakeTask_formed hm
    · exact hm

theorem evtDeliver_formed {m l ev released} (hm : MemFormed m) : SndFormed (evtDeliver m l ev released) := by
  dsimp only [evtDeliver]
  split
  · next e => exact (evtPut_formed (vectorEntry_formed hm)).of_eq e
  · next e => exact vectorAct_formed ((evtPut_formed (vectorEntry_formed hm)).of_eq e)

theorem evtKeep_formed {m l ev held} (hm : MemFormed m) : MemFormed (evtKeep m l ev held) := by
  dsimp only [evtKeep]
  exact holds_ite (modLease_formed hm) (holds_ite (modLease_formed (wrPhys_formed hm)) (modLease_formed (wrPhys_formed hm)))

theorem spillDrain_formed {fuel m l} (hm : MemFormed m) : MemFormed (spillDrain fuel m l) := by
  induction fuel generalizing m with
  | zero => exact hm
  | succ _ ih =>
    dsimp only [spillDrain]
    split
    · exact hm
    · refine holds_ite hm ?_
      split
      · next e1 => exact (evtDeliver_formed hm).of_eq e1
      · next e1 => exact ih (modLease_formed ((evtDeliver_formed hm).of_eq e1))

theorem heldRelease_formed {m l} (hm : MemFormed m) : MemFormed (heldRelease m l) := by
  dsimp only [heldRelease]
  exact spillDrain_formed (modLease_formed hm)

theorem heldDiscard_formed {m l} (hm : MemFormed m) : MemFormed (heldDiscard m l) := modLease_formed hm

theorem evtLog_formed {m ev} (hm : MemFormed m) : MemFormed (evtLog m ev) := by
  dsimp only [evtLog]
  refine holds_ite hm ?_
  exact modEvt_formed (wrPhys_formed (holds_ite (wrPhys_formed (wrPhys_formed (rdPhys_formed hm))) (wrPhys_formed (rdPhys_formed hm))))

theorem evtRelease_formed {m ev} (hm : MemFormed m) : MemFormed (evtRelease m ev) := by
  unfold evtRelease
  extract_lets m1 m2 m3 l gone
  have h2 : MemFormed m2 := holds_ite (evtLog_formed (modEvt_formed hm)) (modEvt_formed hm)
  have h3 : MemFormed m3 := holds_ite (notify_formed h2) h2
  have hgone (n : Nat) : MemFormed (gone m3 n) := modLease_formed h3
  refine holds_ite h3 ?_
  split
  · exact hgone 0
  · exact hgone 1
  · exact hgone 1
  · exact hgone 1
  · exact evtKeep_formed h3
  · exact evtKeep_formed h3
  · refine holds_ite (evtKeep_formed h3) ?_
    split
    · next e => exact (evtDeliver_formed h3).of_eq e
    · next e => exact evtKeep_formed ((evtDeliver_formed h3).of_eq e)

theorem releaseNext_formed {m} (hm : MemFormed m) : MemFormed (releaseNext m) := by
  dsimp only [releaseNext]
  split
  · exact hm
  · exact holds_ite (evtRelease_formed (modEvt_formed (takeStamp_formed hm))) (takeStamp_formed hm)

theorem spillRecheck_formed {m l} (hm : MemFormed m) : MemFormed (spillRecheck m l) := by
  dsimp only [spillRecheck]
  exact holds_ite hm (spillDrain_formed (modLease_formed hm))

theorem evtTakeover_formed {m} (hm : MemFormed m) : MemFormed (evtTakeover m) := by
  dsimp only [evtTakeover]
  exact holds_ite hm (raiseErr_formed (modEvt_formed hm))

theorem tsTakeover_formed {m} (hm : MemFormed m) : MemFormed (tsTakeover m) := by
  dsimp only [tsTakeover]
  exact holds_ite hm (raiseErr_formed (modEvt_formed hm))

theorem timeTick_formed {m} (hm : MemFormed m) : MemFormed (timeTick m) := by
  dsimp only [timeTick]
  exact modEvt_formed (setMaster_formed (formed_mk hm))

theorem distribute_formed {m} (hm : MemFormed m) : MemFormed (distribute m) := by
  dsimp only [distribute]
  split
  · exact hm
  · exact modEvt_formed hm

theorem tsSetNow_formed {m v} (hm : MemFormed m) : MemFormed (tsSetNow m v) := modEvt_formed hm

theorem tsAdjNow_formed {m v} (hm : MemFormed m) : MemFormed (tsAdjNow m v) := modEvt_formed hm

theorem timeEvent_formed {m i code offset} (hm : MemFormed m) : MemFormed (timeEvent m i code offset) := raiseManager_formed hm

theorem correctRate_formed {m i} (hm : MemFormed m) : MemFormed (correctRate m i) := by
  dsimp only [correctRate]
  exact setMaster_formed (takeFree_formed hm)

theorem sample_formed {m i raw} (hm : MemFormed m) : MemFormed (sample m i raw) := by
  dsimp only [sample]
  split
  · refine holds_ite ?_ ?_
    · exact setMaster_formed (holds_ite (modEvt_formed (setMaster_formed hm)) (setMaster_formed hm))
    · refine holds_ite ?_ ?_
      · exact timeEvent_formed (setMaster_formed (correctRate_formed (setMaster_formed hm)))
      · exact setMaster_formed (correctRate_formed (setMaster_formed hm))
  · exact holds_ite (correctRate_formed (setMaster_formed hm)) (timeEvent_formed (setMaster_formed (setMaster_formed hm)))
  · exact setMaster_formed (correctRate_formed (setMaster_formed hm))
  · exact setMaster_formed hm

theorem inputAbsent_formed {m i} (hm : MemFormed m) : MemFormed (inputAbsent m i) := by
  dsimp only [inputAbsent]
  exact holds_ite (timeEvent_formed (setMaster_formed hm)) hm

theorem disciplineStart_formed {m i} (hm : MemFormed m) : MemFormed (disciplineStart m i) := by
  dsimp only [disciplineStart]
  exact setMaster_formed hm

theorem ptpAnnounce_formed {m p d} (hm : MemFormed m) : MemFormed (ptpAnnounce m p d) := by
  dsimp only [ptpAnnounce]
  split
  · exact hm
  · exact holds_ite (setMaster_formed hm) hm

theorem ptpTimed_formed {m i s t1 corr} (hm : MemFormed m) : MemFormed (ptpTimed m i s t1 corr) := by
  dsimp only [ptpTimed]
  exact emit_formed (setMaster_formed (takeStamp_formed hm))

theorem ptpSync_formed {m p} (hm : MemFormed m) : MemFormed (ptpSync m p) := by
  dsimp only [ptpSync]
  split
  · exact hm
  · exact holds_ite hm (holds_ite (setMaster_formed hm) (ptpTimed_formed hm))

theorem ptpFollowUp_formed {m p} (hm : MemFormed m) : MemFormed (ptpFollowUp m p) := by
  dsimp only [ptpFollowUp]
  split
  · exact hm
  · split
    · exact hm
    · exact holds_ite (ptpTimed_formed hm) hm

theorem ptpDelayResp_formed {m p} (hm : MemFormed m) : MemFormed (ptpDelayResp m p) := by
  dsimp only [ptpDelayResp]
  split
  · exact hm
  · split
    · exact hm
    · exact holds_ite hm (sample_formed (setMaster_formed hm))

theorem ppsEdge_formed {m h stamp} (hm : MemFormed m) : MemFormed (ppsEdge m h stamp) := by
  dsimp only [ppsEdge]
  exact holds_ite hm (sample_formed hm)

/-! ## Leases (R717 to R760, R869) -/

theorem leaseCleared_formed {m l} (hm : MemFormed m) : MemFormed (leaseCleared m l) := by
  dsimp only [leaseCleared]
  exact setUnit_formed (formed_mk (modChn_formed (modJobs_formed (setLease_formed hm))))

theorem leaseLoaded_formed {m l st} (hm : MemFormed m) : MemFormed (leaseLoaded m l st) := by
  dsimp only [leaseLoaded]
  exact modLease_formed (modEvt_formed (leaseCleared_formed hm))

theorem pendRefresh_formed {m l} (hm : MemFormed m) : MemFormed (pendRefresh m l) := by
  dsimp only [pendRefresh]
  exact modLease_formed hm

theorem pendStart_formed {m l} (hm : MemFormed m) : MemFormed (pendStart m l) := by
  dsimp only [pendStart]
  exact modLease_formed hm

theorem quiesceBegin_formed {m l} (hm : MemFormed m) : MemFormed (quiesceBegin m l) := by
  dsimp only [quiesceBegin]
  exact pendStart_formed (modLease_formed (chanQuiesce_formed (foldl_holds (fun _ _ g => setFq_formed (fqPosted_formed g)) hm)))

theorem resumeNow_formed {m l} (hm : MemFormed m) : MemFormed (resumeNow m l) := by
  dsimp only [resumeNow]
  exact entriesChanged_formed (heldRelease_formed (chanResume_formed (foldl_holds (fun _ _ g => setFq_formed g) (modLease_formed hm))))

theorem resetBegin_formed {m l reason st} (hm : MemFormed m) : MemFormed (resetBegin m l reason st) := by
  dsimp only [resetBegin]
  refine pendStart_formed ?_
  refine foldl_holds (fun _ _ g => endpointOff_formed g) ?_
  refine chanReset_formed ?_
  refine jobsReset_formed ?_
  refine foldl_holds (fun _ _ g => modLease_formed g) ?_
  refine foldl_holds (fun _ _ g => ?_) ?_
  · exact txFlush_formed (fqPosted_formed g)
  · exact foldl_holds (fun _ _ g => holds_ite g (emptyBank_formed g)) (modLease_formed hm)

theorem resetEnds_formed {m l} (hm : MemFormed m) : MemFormed (resetEnds m l) := by
  dsimp only [resetEnds]
  exact modLease_formed (heldDiscard_formed (modEvt_formed (formed_mk hm)))

theorem unlockLease_formed {m l} (hm : MemFormed m) : MemFormed (unlockLease m l) := formed_mk hm

theorem ctxRangeFree_formed {m l} (hm : MemFormed m) : MemFormed (ctxRangeFree m l) := by
  dsimp only [ctxRangeFree]
  exact holds_ite (modJobs_formed hm) (foldl_holds (fun _ _ g => maintNow_formed g) (modJobs_formed hm))

theorem leaseLedgers_formed {m l} (hm : MemFormed m) : MemFormed (leaseLedgers m l) := hm.of_mem (leaseLedgers_logged ..).mem

theorem leaseEvent_formed {m l prior} (hm : MemFormed m) : MemFormed (leaseEvent m l prior) := raiseManager_formed hm

theorem cmdTaken_formed {m l code} (hm : MemFormed m) : MemFormed (cmdTaken m l code) := by
  dsimp only [cmdTaken]
  split
  exacts [leaseLoaded_formed hm, entriesChanged_formed (modLease_formed hm), quiesceBegin_formed hm, resumeNow_formed hm, resetBegin_formed hm,
    resetBegin_formed hm, modLease_formed (holds_ite (resetBegin_formed hm) (modLease_formed hm))]

theorem leaseCmd_formed {m l key code} (hm : MemFormed m) : MemFormed (leaseCmd m l key code) := by
  dsimp only [leaseCmd]
  split
  · exact modLease_formed hm
  · exact modLease_formed (cmdTaken_formed hm)

theorem pendCleared_formed {m l} (hm : MemFormed m) : MemFormed (pendCleared m l) := by
  dsimp only [pendCleared]
  refine holds_ite (pendRefresh_formed (foldl_holds (fun _ _ g => holds_ite (emptyBank_formed g) g) hm)) ?_
  split
  · refine leaseLedgers_formed ?_
    exact leaseEvent_formed (modLease_formed (pendRefresh_formed (foldl_holds (fun _ _ g => holds_ite (emptyBank_formed g) g) hm)))
  · refine leaseLedgers_formed ?_
    refine leaseEvent_formed ?_
    exact modLease_formed (resetEnds_formed (pendRefresh_formed (foldl_holds (fun _ _ g => holds_ite (emptyBank_formed g) g) hm)))
  · refine leaseEvent_formed ?_
    refine leaseCleared_formed ?_
    refine resetEnds_formed ?_
    exact unlockLease_formed (ctxRangeFree_formed (pendRefresh_formed (foldl_holds (fun _ _ g => holds_ite (emptyBank_formed g) g) hm)))
  · exact pendRefresh_formed (foldl_holds (fun _ _ g => holds_ite (emptyBank_formed g) g) hm)

theorem spawnTry_formed {m l v} (hm : MemFormed m) : SndFormed (spawnTry m l v) := by
  dsimp only [spawnTry]
  refine holds_ite hm (holds_ite hm ?_)
  split
  · exact hm
  · split
    · next e1 => exact (rdLease_formed hm).of_eq e1
    · next e1 =>
      have h2 := (rdLease_formed hm).of_eq e1
      exact holds_ite h2 (holds_ite h2 h2)

theorem leaseSpawn_formed {m l v} (hm : MemFormed m) : MemFormed (leaseSpawn m l v) := by
  dsimp only [leaseSpawn]
  split
  · next e => exact modLease_formed ((spawnTry_formed hm).of_eq e)
  · next e => exact modLease_formed (enqueue_formed ((spawnTry_formed hm).of_eq e))

theorem tlbInval_formed {m l v} (hm : MemFormed m) : MemFormed (tlbInval m l v) := holds_ite (modLease_formed hm) (modLease_formed hm)

theorem tlbInvalDone_formed {m l} (hm : MemFormed m) : MemFormed (tlbInvalDone m l) := by
  dsimp only [tlbInvalDone]
  exact holds_ite hm (modLease_formed (formed_mk hm))

/-! ## Reads of registers (R10, R12, R42 to R44) -/

theorem roW_formed {m w} (hm : MemFormed m) : Gives SndFormed (roW m w) := .some hm

theorem roN_formed {m l} (hm : MemFormed m) : Gives SndFormed (roN m l) := .some hm

theorem readCommon_formed {m k i off} (hm : MemFormed m) : Gives SndFormed (readCommon m k i off) := by
  dsimp only [readCommon]
  split
  exacts [roN_formed hm, roN_formed hm, roW_formed hm, roW_formed hm, roW_formed hm, roW_formed hm, roW_formed hm, .some (setUnit_formed hm),
    .none]

theorem supplyWord_formed {m} (hm : MemFormed m) : SndFormed (supplyWord m) := by
  dsimp only [supplyWord]
  exact SndFormed.mk (takeFree_formed hm)

theorem readModule_formed {m off} (hm : MemFormed m) : Gives SndFormed (readModule m off) := by
  dsimp only [readModule]
  split
  case h_33 =>
    split
    case h_6 =>
      split
      · exact roN_formed hm
      · exact .some (clkWord_formed hm)
      · exact .none
    exacts [roN_formed hm, holds_ite .none (roN_formed hm), roN_formed hm, roW_formed hm, roW_formed hm]
  exacts [roW_formed hm, roN_formed hm, roW_formed hm, roW_formed hm, roN_formed hm, roW_formed hm, roW_formed hm, roW_formed hm, roW_formed hm,
    roN_formed hm, roN_formed hm, roW_formed hm, .some (formed_mk hm), roN_formed hm, roW_formed hm, roW_formed hm, roN_formed hm, roW_formed hm,
    roW_formed hm, roW_formed hm, roW_formed hm, .some (modChn_formed hm), roN_formed hm, roW_formed hm, roW_formed hm, roW_formed hm,
    roN_formed hm, roN_formed hm, roN_formed hm, .some (supplyWord_formed hm), .some (formed_mk hm), roN_formed hm]

theorem readBench_formed {m b off} (hm : MemFormed m) : Gives SndFormed (readBench m b off) := by
  dsimp only [readBench]
  split
  exacts [roW_formed hm, roN_formed hm, .some (modBench_formed hm), roN_formed hm, roW_formed hm, .some (modL2_formed hm), roW_formed hm,
    .some (modL2_formed hm), roN_formed hm, roN_formed hm, .some (modL2_formed hm), .none]

theorem readStore_formed {m key off} (hm : MemFormed m) : Gives SndFormed (readStore m key off) := by
  dsimp only [readStore]
  split
  · exact roN_formed hm
  · exact .some (modStore_formed hm)
  · split
    · exact .none
    · split
      · exact roW_formed hm
      · exact roN_formed hm

theorem readEngine_formed {m e off} (hm : MemFormed m) : Gives SndFormed (readEngine m e off) := by
  dsimp only [readEngine]
  split
  exacts [roW_formed hm, roW_formed hm, roW_formed hm, .some (modEng_formed hm), roW_formed hm, roW_formed hm, roW_formed hm, roN_formed hm,
    .some (modEng_formed hm), .some (modEng_formed hm), readStore_formed hm]

theorem readHome_formed {m h off} (hm : MemFormed m) : Gives SndFormed (readHome m h off) := by
  dsimp only [readHome]
  split
  exacts [roN_formed hm, roW_formed hm, .some (modHome_formed hm), .some (modHome_formed hm), roN_formed hm, roN_formed hm,
    .some (modHome_formed hm), roN_formed hm, .none]

theorem readChan_formed {m c off} (hm : MemFormed m) : Gives SndFormed (readChan m c off) := by
  dsimp only [readChan]
  split
  case h_8 =>
    split
    · exact .none
    · split
      · exact roW_formed hm
      · exact roN_formed hm
  exacts [roW_formed hm, roN_formed hm, roW_formed hm, roW_formed hm, .some (modChan_formed hm), roN_formed hm, roN_formed hm]

theorem readSeam_formed {m s off} (hm : MemFormed m) : Gives SndFormed (readSeam m s off) := by
  dsimp only [readSeam]
  split
  exacts [roN_formed hm, roW_formed hm, roN_formed hm, .some (modSeam_formed hm), .none]

theorem readLink_formed {m l off} (hm : MemFormed m) : Gives SndFormed (readLink m l off) := by
  dsimp only [readLink]
  split
  case h_7 =>
    split
    · exact roW_formed hm
    · exact .none
  exacts [roN_formed hm, roN_formed hm, roW_formed hm, .some (modLink_formed hm), .some (modLink_formed hm), roW_formed hm]

theorem cfgReadFree_formed {m p} (hm : MemFormed m) : SndFormed (cfgReadFree m p) := by
  dsimp only [cfgReadFree]
  exact modPcie_formed (emit_formed (takeFree_formed (takeChoice_formed hm)))

theorem readPcie_formed {m p off} (hm : MemFormed m) : Gives SndFormed (readPcie m p off) := by
  dsimp only [readPcie]
  split
  exacts [roN_formed hm, roW_formed hm, roN_formed hm, .some (cfgReadFree_formed hm), .some (modPcie_formed hm), .none]

theorem readCp_formed {m c off} (hm : MemFormed m) : Gives SndFormed (readCp m c off) := by
  dsimp only [readCp]
  split
  · exact roN_formed hm
  · exact roW_formed hm
  · exact readStore_formed hm

theorem readCrush_formed {m k off} (hm : MemFormed m) : Gives SndFormed (readCrush m k off) := by
  dsimp only [readCrush]
  split
  exacts [roN_formed hm, roN_formed hm, .some (modWork_formed hm), .some (modWork_formed hm), .none]

theorem readCipher_formed {m x off} (hm : MemFormed m) : Gives SndFormed (readCipher m x off) := by
  dsimp only [readCipher]
  split
  exacts [roN_formed hm, roN_formed hm, .some (modWork_formed hm), .none]

theorem readCtx_formed {m off} (hm : MemFormed m) : Gives SndFormed (readCtx m off) := by
  dsimp only [readCtx]
  split
  exacts [roW_formed hm, roN_formed hm, roN_formed hm, .none]

theorem readLease_formed {m l off} (hm : MemFormed m) : Gives SndFormed (readLease m l off) := by
  dsimp only [readLease]
  split
  case h_23 =>
    split
    exacts [holds_ite (roW_formed hm) (roW_formed hm), holds_ite (roN_formed hm) (holds_ite .none (roW_formed hm)),
      holds_ite (roW_formed hm) (holds_ite .none (roW_formed hm)), holds_ite (roW_formed hm) (holds_ite .none (roW_formed hm)), .none]
  exacts [roW_formed hm, roW_formed hm, roW_formed hm, roW_formed hm, roN_formed hm, roW_formed hm, roW_formed hm, roW_formed hm,
    .some (modLease_formed hm), .some (modLease_formed hm), roN_formed hm, roW_formed hm, roW_formed hm, roW_formed hm,
    .some (modLease_formed hm), roN_formed hm, roN_formed hm, .some (modLease_formed hm), roN_formed hm, roN_formed hm, roN_formed hm,
    roN_formed hm]

theorem readTime_formed {m h off} (hm : MemFormed m) : Gives SndFormed (readTime m h off) := by
  dsimp only [readTime]
  split
  exacts [roW_formed hm, roW_formed hm, roW_formed hm, roN_formed hm, roN_formed hm, .some (modEvt_formed hm), .none]

theorem readReg_formed {m k i off} (hm : MemFormed m) : Gives SndFormed (readReg m k i off) := by
  dsimp only [readReg]
  split
  · next e => exact .some (readCommon_formed hm _ e)
  · split
    exacts [readModule_formed hm, readBench_formed hm, readEngine_formed hm, readHome_formed hm, readChan_formed hm, readSeam_formed hm,
      readLink_formed hm, readPcie_formed hm, readCp_formed hm, readCrush_formed hm, readCipher_formed hm, readCtx_formed hm, readLease_formed hm,
      readTime_formed hm, .none]

theorem readCheck_formed {m a addr size} (hm : MemFormed m) : Answers SndFormed (readCheck m a addr size) := by
  dsimp only [readCheck]
  refine holds_ite .error (holds_ite .error ?_)
  split
  · exact .error
  · split
    · exact .error
    · next e1 => exact holds_ite .error (holds_ite .error (.ok (readReg_formed hm _ e1)))

theorem readCtl_formed {m a addr size} (hm : MemFormed m) : SndFormed (readCtl m a addr size) := by
  dsimp only [readCtl]
  split
  · exact refuseAccess_formed hm
  · next e => exact readCheck_formed hm _ e

/-! ## Check-stop and its dump (R37, R817 to R822) -/

theorem checkStop_formed {m item} (hm : MemFormed m) : MemFormed (checkStop m item) := by
  dsimp only [checkStop]
  refine holds_ite hm ?_
  refine holds_ite (raiseErr_formed (takeFree_formed hm)) ?_
  refine modMode_formed ?_
  refine enterMode_formed ?_
  refine foldl_holds (fun _ _ g => modPcie_formed g) ?_
  exact foldl_holds (fun _ _ g => holds_ite (setChan_formed g) g) (takeStamp_formed (raiseErr_formed (takeFree_formed hm)))

theorem lossCheck_formed {m} (hm : MemFormed m) : MemFormed (lossCheck m) := hm.of_mem (lossCheck_mem ..)

theorem runUnitsLoss_formed {s f} (hm : MemFormed s.m) (hf : ∀ m, MemFormed m → MemFormed (f m)) : NextFormed (runUnitsLoss s f) :=
  runUnits_formed hm (fun _ g => lossCheck_formed (hf _ g))

theorem runMeshLoss_formed {s f} (hm : MemFormed s.m) (hf : ∀ m, MemFormed m → MemFormed (f m)) : NextFormed (runMeshLoss s f) :=
  runMesh_formed hm (fun _ g => lossCheck_formed (hf _ g))

theorem runAliveLoss_formed {s f} (hm : MemFormed s.m) (hf : ∀ m, MemFormed m → MemFormed (f m)) : NextFormed (runAliveLoss s f) :=
  runAlive_formed hm (fun _ g => lossCheck_formed (hf _ g))

/-! ## Fuses and flashes (R50 to R55, R85) -/

theorem modFlash_formed {m h f} (hm : MemFormed m) : MemFormed (modFlash m h f) := hm.of_mem (modFlash_mem ..)

/-! ## Patch bundles (R364 to R370) -/

theorem setHeld_formed {m i b} (hm : MemFormed m) : MemFormed (setHeld m i b) := formed_mk hm

theorem bundleHold_formed {f m b flash} (hm : MemFormed m) : Answers MemFormed (bundleHold f m b flash) := by
  dsimp only [bundleHold]
  split
  · exact .error
  · refine holds_ite .error ?_
    split
    · exact .error
    · exact .ok (setHeld_formed hm)

theorem patchChecked_formed {f m b} (hm : MemFormed m) : MemFormed (patchChecked f m b) := by
  dsimp only [patchChecked]
  split
  · next e => exact notify_formed (formed_mk (bundleHold_formed hm _ e))
  · exact notify_formed (formed_mk hm)

/-! ## The messages of the coherence protocol (R445 to R489) -/

theorem takeMsg_formed {m p} (hm : MemFormed m) : MemFormed (takeMsg m p) := hm.of_mem (takeMsg_mem ..)

theorem arrive_formed {m p k} (hm : MemFormed m) (hk : ∀ m, MemFormed m → MemFormed (k m)) : MemFormed (arrive m p k) :=
  holds_ite hm (hk _ (takeMsg_formed hm))

theorem arriveReq_formed {m r} (hm : MemFormed m) : MemFormed (arriveReq m r) := holds_ite hm (arrive_formed hm (fun _ g => homeReq_formed g))

theorem arriveEvict_formed {m op n b d poison} (hm : MemFormed m) : MemFormed (arriveEvict m op n b d poison) := by
  dsimp only [arriveEvict]
  exact holds_ite hm (arrive_formed hm (fun _ g => homeReq_formed g))

theorem arriveSnoop_formed {m b op n maint incl} (hm : MemFormed m) : MemFormed (arriveSnoop m b op n maint incl) :=
  arrive_formed hm (fun _ g => benchSnoop_formed g)

theorem arriveRsp_formed {m n b kind d} (hm : MemFormed m) : MemFormed (arriveRsp m n b kind d) := arrive_formed hm (fun _ g => homeRsp_formed g)

theorem accessAt_formed {cause n m} (hm : MemFormed m) : MemFormed (accessAt cause n m) := by
  dsimp only [accessAt]
  split
  · exact hm
  · exact holds_ite (fetchArrives_formed hm) hm
  · split
    · exact hm
    · split
      exacts [loadDone_formed hm, loadDone_formed hm, storeDone_formed hm, macLineDone_formed hm, holds_ite (atomicDone_formed hm) hm]

theorem arriveData_formed {m b n kind d poison} (hm : MemFormed m) : MemFormed (arriveData m b n kind d poison) :=
  holds_ite hm (arrive_formed hm (fun _ g => fillLine_formed g (fun _ g1 => accessAt_formed g1)))

theorem arriveAck_formed {m dst kind n k} (hm : MemFormed m) (hk : ∀ m, MemFormed m → MemFormed (k m)) : MemFormed (arriveAck m dst kind n k) :=
  arrive_formed hm (fun _ g => hk _ g)

theorem arriveMntAck_formed {m src n} (hm : MemFormed m) : MemFormed (arriveMntAck m src n) := by
  dsimp only [arriveMntAck]
  refine arriveAck_formed hm (fun _ g => ?_)
  split
  · exact opDone_formed g
  · exact g

theorem execRds_formed {n b l s} (hm : MemFormed s.m) : NextFormed (execRds n b l s) := runMesh_formed hm (fun _ g => arriveReq_formed g)

theorem execRdx_formed {n b l s} (hm : MemFormed s.m) : NextFormed (execRdx n b l s) := runMesh_formed hm (fun _ g => arriveReq_formed g)

theorem execUpg_formed {n b l s} (hm : MemFormed s.m) : NextFormed (execUpg n b l s) := runMesh_formed hm (fun _ g => arriveReq_formed g)

theorem execMntc_formed {n src l self incl s} (hm : MemFormed s.m) : NextFormed (execMntc n src l self incl s) :=
  runMesh_formed hm (fun _ g => arriveReq_formed g)

theorem execMnti_formed {n src l self incl s} (hm : MemFormed s.m) : NextFormed (execMnti n src l self incl s) :=
  runMesh_formed hm (fun _ g => arriveReq_formed g)

theorem execMntci_formed {n src l self incl s} (hm : MemFormed s.m) : NextFormed (execMntci n src l self incl s) :=
  runMesh_formed hm (fun _ g => arriveReq_formed g)

theorem execIord_formed {n src l s} (hm : MemFormed s.m) : NextFormed (execIord n src l s) := runMesh_formed hm (fun _ g => arriveReq_formed g)

theorem execIowr_formed {n src l mask d poison s} (hm : MemFormed s.m) : NextFormed (execIowr n src l mask d poison s) :=
  runMesh_formed hm (fun _ g => arriveReq_formed g)

theorem execWbm_formed {n b d poison s} (hm : MemFormed s.m) : NextFormed (execWbm n b d poison s) :=
  runMesh_formed hm (fun _ g => arriveEvict_formed g)

theorem execEve_formed {n b d poison s} (hm : MemFormed s.m) : NextFormed (execEve n b d poison s) :=
  runMesh_formed hm (fun _ g => arriveEvict_formed g)

theorem execDone_formed {n b s} (hm : MemFormed s.m) : NextFormed (execDone n b s) :=
  runMesh_formed hm (fun _ g => arrive_formed g (fun _ g1 => homeDone_formed g1))

theorem execSnps_formed {b n s} (hm : MemFormed s.m) : NextFormed (execSnps b n s) := runMesh_formed hm (fun _ g => arriveSnoop_formed g)

theorem execSnpx_formed {b n maint incl s} (hm : MemFormed s.m) : NextFormed (execSnpx b n maint incl s) :=
  runMesh_formed hm (fun _ g => arriveSnoop_formed g)

theorem execSnpcln_formed {b n s} (hm : MemFormed s.m) : NextFormed (execSnpcln b n s) := runMesh_formed hm (fun _ g => arriveSnoop_formed g)

theorem execSnpdrop_formed {b n maint incl s} (hm : MemFormed s.m) : NextFormed (execSnpdrop b n maint incl s) :=
  runMesh_formed hm (fun _ g => arriveSnoop_formed g)

theorem execRspi_formed {n b s} (hm : MemFormed s.m) : NextFormed (execRspi n b s) := runMesh_formed hm (fun _ g => arriveRsp_formed g)

theorem execRspk_formed {n b s} (hm : MemFormed s.m) : NextFormed (execRspk n b s) := runMesh_formed hm (fun _ g => arriveRsp_formed g)

theorem execRspd_formed {n b d poison s} (hm : MemFormed s.m) : NextFormed (execRspd n b d poison s) :=
  runMesh_formed hm (fun _ g => arriveRsp_formed g)

theorem execRspc_formed {n b d poison s} (hm : MemFormed s.m) : NextFormed (execRspc n b d poison s) :=
  runMesh_formed hm (fun _ g => arriveRsp_formed g)

theorem execRspdo_formed {n b d poison s} (hm : MemFormed s.m) : NextFormed (execRspdo n b d poison s) :=
  runMesh_formed hm (fun _ g => arriveRsp_formed g)

theorem execRspcs_formed {n b d poison s} (hm : MemFormed s.m) : NextFormed (execRspcs n b d poison s) :=
  runMesh_formed hm (fun _ g => arriveRsp_formed g)

theorem execRspds_formed {n b d poison s} (hm : MemFormed s.m) : NextFormed (execRspds n b d poison s) :=
  runMesh_formed hm (fun _ g => arriveRsp_formed g)

theorem execRspde_formed {n b d poison s} (hm : MemFormed s.m) : NextFormed (execRspde n b d poison s) :=
  runMesh_formed hm (fun _ g => arriveRsp_formed g)

theorem execDatas_formed {b n d poison s} (hm : MemFormed s.m) : NextFormed (execDatas b n d poison s) :=
  runMesh_formed hm (fun _ g => arriveData_formed g)

theorem execDatae_formed {b n d poison s} (hm : MemFormed s.m) : NextFormed (execDatae b n d poison s) :=
  runMesh_formed hm (fun _ g => arriveData_formed g)

theorem execDatam_formed {b n d poison s} (hm : MemFormed s.m) : NextFormed (execDatam b n d poison s) :=
  runMesh_formed hm (fun _ g => arriveData_formed g)

theorem execGrantm_formed {b n s} (hm : MemFormed s.m) : NextFormed (execGrantm b n s) :=
  runMesh_formed hm (fun _ g => arriveAck_formed g (fun _ g1 => grantLine_formed g1 (fun _ g2 => accessAt_formed g2)))

theorem execWback_formed {b n s} (hm : MemFormed s.m) : NextFormed (execWback b n s) :=
  runMesh_formed hm (fun _ g => arriveAck_formed g (fun _ g1 => benchWbAck_formed g1))

theorem execWbstale_formed {b n s} (hm : MemFormed s.m) : NextFormed (execWbstale b n s) :=
  runMesh_formed hm (fun _ g => arriveAck_formed g (fun _ g1 => benchWbStale_formed g1))

theorem execIodata_formed {src n d poison s} (hm : MemFormed s.m) : NextFormed (execIodata src n d poison s) :=
  runMesh_formed hm (fun _ g => arrive_formed g (fun _ g1 => g1))

theorem execIoack_formed {src n s} (hm : MemFormed s.m) : NextFormed (execIoack src n s) :=
  runMesh_formed hm (fun _ g => arriveAck_formed g (fun _ g1 => g1))

theorem execMntack_formed {src n s} (hm : MemFormed s.m) : NextFormed (execMntack src n s) := runMesh_formed hm (fun _ g => arriveMntAck_formed g)

theorem execMir_formed {h n d poison s} (hm : MemFormed s.m) : NextFormed (execMir h n d poison s) :=
  runMesh_formed hm (fun _ g => arrive_formed g (fun _ g1 => buddyMir_formed g1))

theorem execMirrel_formed {h n s} (hm : MemFormed s.m) : NextFormed (execMirrel h n s) :=
  runMesh_formed hm (fun _ g => arrive_formed g (fun _ g1 => buddyMirRel_formed g1))

theorem execMirack_formed {n s} (hm : MemFormed s.m) : NextFormed (execMirack n s) :=
  runMesh_formed hm (fun _ g => arrive_formed g (fun _ g1 => homeMirAck_formed g1))

theorem execHrReadReturn_formed {n s} (hm : MemFormed s.m) : NextFormed (execHrReadReturn n s) := runMesh_formed hm (fun _ g => homeReadBack_formed g)

theorem execHwWriteComplete_formed {n s} (hm : MemFormed s.m) : NextFormed (execHwWriteComplete n s) :=
  runMesh_formed hm (fun _ g => homeWriteDone_formed g)

theorem execTenureEnd_formed {b n s} (hm : MemFormed s.m) : NextFormed (execTenureEnd b n s) := runMesh_formed hm (fun _ g => tenureOver_formed g)

theorem execSnoopTimeout_formed {n s} (hm : MemFormed s.m) : NextFormed (execSnoopTimeout n s) := runMesh_formed hm (fun _ g => homeTimeout_formed g)

theorem benchReports_formed {m b h} (hm : MemFormed m) : MemFormed (benchReports m b h) := by
  dsimp only [benchReports]
  refine holds_ite hm (foldl_holds (fun _ _ g => holds_ite ?_ g) hm)
  split
  · exact takeoverReportAt_formed g
  · exact g

theorem shareOpens_formed {m h} (hm : MemFormed m) : MemFormed (shareOpens m h) := by
  dsimp only [shareOpens]
  exact holds_ite hm (endRecovery_formed (raiseErrD_formed (takeMsg_formed (takeMsg_formed (homeTakeoverEnd_formed hm)))))

theorem execHomeLost_formed {b h s} (hm : MemFormed s.m) : NextFormed (execHomeLost b h s) := runMesh_formed hm (fun _ g => benchReports_formed g)

theorem execTakeoverReport_formed {h b n r s} (hm : MemFormed s.m) : NextFormed (execTakeoverReport h b n r s) :=
  runMesh_formed hm (fun _ g => holds_ite (takeoverReportAt_formed g) g)

theorem execShareOpen_formed {h s} (hm : MemFormed s.m) : NextFormed (execShareOpen h s) := runMesh_formed hm (fun _ g => shareOpens_formed g)

/-! ## The commands of events and time (R761 to R787) -/

theorem execEventRelease_formed {s} (hm : MemFormed s.m) : NextFormed (execEventRelease s) := runAlive_formed hm (fun _ g => releaseNext_formed g)

theorem execEvtBlockTakeover_formed {s} (hm : MemFormed s.m) : NextFormed (execEvtBlockTakeover s) :=
  runAlive_formed hm (fun _ g => evtTakeover_formed g)

theorem execSpillRecheck_formed {l s} (hm : MemFormed s.m) : NextFormed (execSpillRecheck l s) :=
  runAlive_formed hm (fun _ g => spillRecheck_formed g)

theorem execPtpSync_formed {p s} (hm : MemFormed s.m) : NextFormed (execPtpSync p s) := runAlive_formed hm (fun _ g => ptpSync_formed g)

theorem execPtpFollowUp_formed {p s} (hm : MemFormed s.m) : NextFormed (execPtpFollowUp p s) := runAlive_formed hm (fun _ g => ptpFollowUp_formed g)

theorem execPtpAnnounce_formed {p d s} (hm : MemFormed s.m) : NextFormed (execPtpAnnounce p d s) :=
  runAlive_formed hm (fun _ g => ptpAnnounce_formed g)

theorem execPtpDelayResp_formed {p s} (hm : MemFormed s.m) : NextFormed (execPtpDelayResp p s) :=
  runAlive_formed hm (fun _ g => ptpDelayResp_formed g)

theorem execPpsEdge_formed {h stamp s} (hm : MemFormed s.m) : NextFormed (execPpsEdge h stamp s) := runAlive_formed hm (fun _ g => ppsEdge_formed g)

theorem execDisciplineInputAbsent_formed {h s} (hm : MemFormed s.m) : NextFormed (execDisciplineInputAbsent h s) :=
  runAlive_formed hm (fun _ g => inputAbsent_formed g)

theorem execTsDistributionPulse_formed {s} (hm : MemFormed s.m) : NextFormed (execTsDistributionPulse s) :=
  runAlive_formed hm (fun _ g => distribute_formed g)

theorem tsSetWrite_formed {a hub v m} (hm : MemFormed m) : MemFormed (tsSetWrite a hub v m) := by
  dsimp only [tsSetWrite]
  refine holds_ite hm (holds_ite (refuseAccess_formed hm) ?_)
  split
  · exact refuseAccess_formed hm
  · exact holds_ite (tsSetNow_formed hm) (refuseAccess_formed hm)

theorem execTsSet_formed {a hub v s} (hm : MemFormed s.m) : NextFormed (execTsSet a hub v s) := runM_formed hm (fun _ g => tsSetWrite_formed g)

theorem execTsAdj_formed {a hub v s} (hm : MemFormed s.m) : NextFormed (execTsAdj a hub v s) :=
  runM_formed hm (fun _ g => ctlWrite_formed (fun _ g1 => tsAdjNow_formed g1) g)

/-! ## The commands of leases (R717 to R760, R869) -/

theorem execLeaseCreate_formed {a l s} (hm : MemFormed s.m) : NextFormed (execLeaseCreate a l s) :=
  runM_formed hm (fun _ g => ctlWrite_formed (fun _ g1 => leaseCmd_formed g1) g)

theorem execLeaseStart_formed {a l s} (hm : MemFormed s.m) : NextFormed (execLeaseStart a l s) :=
  runM_formed hm (fun _ g => ctlWrite_formed (fun _ g1 => leaseCmd_formed g1) g)

theorem execLeaseQuiesce_formed {a l s} (hm : MemFormed s.m) : NextFormed (execLeaseQuiesce a l s) :=
  runM_formed hm (fun _ g => ctlWrite_formed (fun _ g1 => leaseCmd_formed g1) g)

theorem execLeaseResume_formed {a l s} (hm : MemFormed s.m) : NextFormed (execLeaseResume a l s) :=
  runM_formed hm (fun _ g => ctlWrite_formed (fun _ g1 => leaseCmd_formed g1) g)

theorem execLeaseReset_formed {a l key s} (hm : MemFormed s.m) : NextFormed (execLeaseReset a l key s) :=
  runM_formed hm (fun _ g => ctlWrite_formed (fun _ g1 => leaseCmd_formed g1) g)

theorem execLeaseForcedReset_formed {a l key s} (hm : MemFormed s.m) : NextFormed (execLeaseForcedReset a l key s) :=
  runM_formed hm (fun _ g => ctlWrite_formed (fun _ g1 => leaseCmd_formed g1) g)

theorem execLeaseRemove_formed {a l key s} (hm : MemFormed s.m) : NextFormed (execLeaseRemove a l key s) :=
  runM_formed hm (fun _ g => ctlWrite_formed (fun _ g1 => leaseCmd_formed g1) g)

theorem execLeaseCmdReserved_formed {a l key code s} (hm : MemFormed s.m) : NextFormed (execLeaseCmdReserved a l key code s) :=
  runM_formed hm (fun _ g => ctlWrite_formed (fun _ g1 => leaseCmd_formed g1) g)

theorem execLeasePendingCleared_formed {l s} (hm : MemFormed s.m) : NextFormed (execLeasePendingCleared l s) :=
  runUnits_formed hm (fun _ g => pendCleared_formed g)

theorem execLeaseSpawn_formed {a l v s} (hm : MemFormed s.m) : NextFormed (execLeaseSpawn a l v s) :=
  runM_formed hm (fun _ g => ctlWrite_formed (fun _ g1 => leaseSpawn_formed g1) g)

theorem execLeaseTlbInval_formed {a l v s} (hm : MemFormed s.m) : NextFormed (execLeaseTlbInval a l v s) :=
  runM_formed hm (fun _ g => ctlWrite_formed (fun _ g1 => tlbInval_formed g1) g)

theorem execTlbInvalComplete_formed {l s} (hm : MemFormed s.m) : NextFormed (execTlbInvalComplete l s) :=
  runAlive_formed hm (fun _ g => tlbInvalDone_formed g)

/-! ## The commands of links, frame queues, PCIe ports and Helar (R589 to R644) -/

theorem execLinkOnline_formed {a l s} (hm : MemFormed s.m) : NextFormed (execLinkOnline a l s) :=
  runM_formed hm (fun _ g => ctlWrite_formed (fun _ g1 => linkCmd_formed g1) g)

theorem execFrameReceive_formed {l f fcs s} (hm : MemFormed s.m) : NextFormed (execFrameReceive l f fcs s) :=
  runMesh_formed hm (fun _ g => receiveFrame_formed g)

theorem execFrameTransmit_formed {l s} (hm : MemFormed s.m) : NextFormed (execFrameTransmit l s) :=
  runUnits_formed hm (fun _ g => transmitFrame_formed g)

theorem coalesceTimeout_formed {m l q} (hm : MemFormed m) : MemFormed (coalesceTimeout m l q) := by
  dsimp only [coalesceTimeout]
  exact holds_ite hm (fqSignal_formed hm)

theorem execCoalesceTimeout_formed {l q s} (hm : MemFormed s.m) : NextFormed (execCoalesceTimeout l q s) :=
  runUnits_formed hm (fun _ g => coalesceTimeout_formed g)

theorem linkComesUp_formed {m l} (hm : MemFormed m) : MemFormed (linkComesUp m l) := holds_ite (setLinkState_formed (modLink_formed hm)) hm

theorem execLinkUp_formed {l s} (hm : MemFormed s.m) : NextFormed (execLinkUp l s) := runM_formed hm (fun _ g => holds_ite (linkComesUp_formed g) g)

theorem trainingAttemptTimeout_formed {m l} (hm : MemFormed m) : MemFormed (trainingAttemptTimeout m l) := holds_ite (linkAttemptFailed_formed hm) hm

theorem execTrainingAttemptTimeout_formed {l s} (hm : MemFormed s.m) : NextFormed (execTrainingAttemptTimeout l s) :=
  runAlive_formed hm (fun _ g => trainingAttemptTimeout_formed g)

theorem linkGoesDown_formed {m l} (hm : MemFormed m) : MemFormed (linkGoesDown m l) := by
  dsimp only [linkGoesDown]
  exact holds_ite hm (setLinkState_formed (linkPathsFail_formed (setLinkState_formed hm)))

theorem pauseAgain_formed {m l} (hm : MemFormed m) : MemFormed (pauseAgain m l) := holds_ite (emit_formed (modLink_formed hm)) hm

theorem execPauseRepeat_formed {l s} (hm : MemFormed s.m) : NextFormed (execPauseRepeat l s) := runM_formed hm (fun _ g => pauseAgain_formed g)

theorem execPcieDmaRequest_formed {p rid write addr len data s} (hm : MemFormed s.m) : NextFormed (execPcieDmaRequest p rid write addr len data s) :=
  runUnits_formed hm (fun _ g => pcieDma_formed g)

theorem msixIn_formed {m p rid addr data} (hm : MemFormed m) : MemFormed (msixIn m p rid addr data) := by
  dsimp only [msixIn]
  refine holds_ite (pcieDma_formed hm) (holds_ite (modPcie_formed hm) ?_)
  split
  · exact raiseEvent_formed hm
  · exact holds_ite hm (dmaFault_formed hm)

theorem execMsixMessage_formed {p rid addr data s} (hm : MemFormed s.m) : NextFormed (execMsixMessage p rid addr data s) :=
  runUnits_formed hm (fun _ g => msixIn_formed g)

theorem pcieLinkDownNow_formed {m p j aer} (hm : MemFormed m) : MemFormed (pcieLinkDownNow m p j aer) := by
  dsimp only [pcieLinkDownNow]
  refine holds_ite hm ?_
  split <;> exact raiseErr_formed (portPathsFail_formed (modPcie_formed hm))

theorem pcieLinkUpNow_formed {m p j speed width} (hm : MemFormed m) : MemFormed (pcieLinkUpNow m p j speed width) := by
  dsimp only [pcieLinkUpNow]
  exact holds_ite hm (modPcie_formed hm)

theorem execPcieLinkUp_formed {p j speed width s} (hm : MemFormed s.m) : NextFormed (execPcieLinkUp p j speed width s) :=
  runM_formed hm (fun _ g => holds_ite (pcieLinkUpNow_formed g) g)

theorem cfgReadNow_formed {m p answer} (hm : MemFormed m) : MemFormed (cfgReadNow m p answer) := by
  dsimp only [cfgReadNow]
  exact modPcie_formed (emit_formed hm)

theorem execPcieCfgRead_formed {a p answer s} (hm : MemFormed s.m) : NextFormed (execPcieCfgRead a p answer s) :=
  runM_formed hm (fun _ g => ctlWrite_formed (fun _ g1 => cfgReadNow_formed g1) g)

theorem cfgWriteNow_formed {p v done m} (hm : MemFormed m) : Gives MemFormed (cfgWriteNow p v done m) := by
  dsimp only [cfgWriteNow]
  exact holds_ite .none (.some (modPcie_formed (emit_formed hm)))

theorem execPcieCfgWrite_formed {a p v done s} (hm : MemFormed s.m) : NextFormed (execPcieCfgWrite a p v done s) :=
  runM_formed hm (fun _ g => ctlWriteRule_formed (fun _ g1 => cfgWriteNow_formed g1) g)

theorem execCapReq_formed {p d good s} (hm : MemFormed s.m) : NextFormed (execCapReq p d good s) :=
  runUnits_formed hm (fun _ g => helarReceive_formed g)

theorem execCapRsp_formed {p d good s} (hm : MemFormed s.m) : NextFormed (execCapRsp p d good s) :=
  runUnits_formed hm (fun _ g => helarReceive_formed g)

theorem execHelarAck_formed {p d good s} (hm : MemFormed s.m) : NextFormed (execHelarAck p d good s) :=
  runUnits_formed hm (fun _ g => helarReceive_formed g)

theorem execHelarKeepalive_formed {p d good s} (hm : MemFormed s.m) : NextFormed (execHelarKeepalive p d good s) :=
  runUnits_formed hm (fun _ g => helarReceive_formed g)

theorem execHelarClose_formed {p d good s} (hm : MemFormed s.m) : NextFormed (execHelarClose p d good s) :=
  runUnits_formed hm (fun _ g => helarReceive_formed g)

theorem execAnswerSegment_formed {p d good s} (hm : MemFormed s.m) : NextFormed (execAnswerSegment p d good s) :=
  runUnits_formed hm (fun _ g => helarReceive_formed g)

theorem capReqAgain_formed {m p} (hm : MemFormed m) : MemFormed (capReqAgain m p) := by
  dsimp only [capReqAgain]
  exact holds_ite (sendCapReq_formed hm) hm

theorem execCapReqResend_formed {p s} (hm : MemFormed s.m) : NextFormed (execCapReqResend p s) := runUnits_formed hm (fun _ g => capReqAgain_formed g)

theorem ackNow_formed {m p} (hm : MemFormed m) : MemFormed (ackNow m p) := by
  dsimp only [ackNow]
  split
  · exact holds_ite (helarSend_formed hm) hm
  · exact hm

theorem execAckDue_formed {p s} (hm : MemFormed s.m) : NextFormed (execAckDue p s) := runUnits_formed hm (fun _ g => ackNow_formed g)

theorem retransmit_formed {m p seq} (hm : MemFormed m) : MemFormed (retransmit m p seq) := by
  dsimp only [retransmit]
  split
  · exact hm
  · exact holds_ite hm (holds_ite (pathFails_formed hm) (helarSend_formed (modHelar_formed hm)))

theorem execRetransmitTimeout_formed {p seq s} (hm : MemFormed s.m) : NextFormed (execRetransmitTimeout p seq s) :=
  runUnits_formed hm (fun _ g => retransmit_formed g)

theorem keepaliveNow_formed {m p} (hm : MemFormed m) : MemFormed (keepaliveNow m p) := by
  dsimp only [keepaliveNow]
  exact holds_ite (helarSend_formed hm) hm

theorem execKeepaliveDue_formed {p s} (hm : MemFormed s.m) : NextFormed (execKeepaliveDue p s) :=
  runUnits_formed hm (fun _ g => keepaliveNow_formed g)

theorem silenceNow_formed {m p} (hm : MemFormed m) : MemFormed (silenceNow m p) := by
  dsimp only [silenceNow]
  exact holds_ite (pathFails_formed hm) hm

theorem execSilenceTimeout_formed {p s} (hm : MemFormed s.m) : NextFormed (execSilenceTimeout p s) :=
  runUnits_formed hm (fun _ g => silenceNow_formed g)

/-! ## Cache policy and unit resets (R40, R41, R432 to R435) -/

theorem policyL2_formed {m b} (hm : MemFormed m) : MemFormed (policyL2 m b) := by
  dsimp only [policyL2]
  exact holds_ite (modL2_formed hm) (holds_ite (l2Disable_formed (modL2_formed hm)) (l2Enable_formed (modL2_formed hm)))

theorem policyL3_formed {m h} (hm : MemFormed m) : MemFormed (policyL3 m h) := by
  dsimp only [policyL3]
  refine holds_ite ?_ ?_
  · refine modHome_formed ?_
    refine foldl_holds (fun _ _ g => ?_) ?_
    · exact dropL3_formed (cleanL3_formed g)
    · exact holds_ite hm (foldl_holds (fun _ _ g => foldl_holds (fun _ _ g1 => holds_ite (cleanL3_formed g1) g1) g) hm)
  · refine holds_ite ?_ ?_
    · refine l3Disable_formed ?_
      refine modHome_formed ?_
      refine foldl_holds (fun _ _ g => ?_) ?_
      · exact dropL3_formed (cleanL3_formed g)
      · exact holds_ite hm (foldl_holds (fun _ _ g => foldl_holds (fun _ _ g1 => holds_ite (cleanL3_formed g1) g1) g) hm)
    · refine l3Enable_formed ?_
      refine modHome_formed ?_
      refine foldl_holds (fun _ _ g => ?_) ?_
      · exact dropL3_formed (cleanL3_formed g)
      · exact holds_ite hm (foldl_holds (fun _ _ g => foldl_holds (fun _ _ g1 => holds_ite (cleanL3_formed g1) g1) g) hm)

theorem unitCleared_formed {m k i st} (hm : MemFormed m) : MemFormed (unitCleared m k i st) := setUnit_formed hm

theorem unitStarts_formed {m k i back} (hm : MemFormed m) : MemFormed (unitStarts m k i back) := by
  dsimp only [unitStarts]
  exact formed_mk (unitCleared_formed hm)

theorem resetsEnd_formed {m} (hm : MemFormed m) : MemFormed (resetsEnd m) :=
  foldl_holds (fun _ _ g => holds_ite (setUState_formed g) g) (formed_mk hm)

theorem creditsBack_formed {m} (hm : MemFormed m) : MemFormed (creditsBack m) := formed_mk hm

theorem engineReset_formed {m e} (hm : MemFormed m) : MemFormed (engineReset m e) := by
  dsimp only [engineReset]
  exact unitCleared_formed (formed_mk (setEng_formed hm))

theorem benchReset_formed {m b} (hm : MemFormed m) : MemFormed (benchReset m b) := by
  dsimp only [benchReset]
  exact policyL2_formed (unitStarts_formed (foldl_holds (fun _ _ g => engineReset_formed g) (formed_mk hm)))

theorem homeReset_formed {m h} (hm : MemFormed m) : MemFormed (homeReset m h) := by
  dsimp only [homeReset]
  exact policyL3_formed (unitStarts_formed (setHome_formed hm))

theorem chanResetNow_formed {m c} (hm : MemFormed m) : MemFormed (chanResetNow m c) := by
  dsimp only [chanResetNow]
  exact unitStarts_formed (setChan_formed (drainChan_formed (holds_ite (modChan_formed (channelGone_formed hm)) hm)))

theorem resetNow_formed {m k i} (hm : MemFormed m) : MemFormed (resetNow m k i) := by
  dsimp only [resetNow]
  split
  exacts [benchReset_formed hm, engineReset_formed hm, homeReset_formed hm, chanResetNow_formed hm, unitStarts_formed (setLink_formed hm),
    unitStarts_formed (setPcie_formed hm), unitCleared_formed (formed_mk hm), unitStarts_formed (modWork_formed hm),
    unitStarts_formed (modWork_formed hm), halfReturns_formed (unitCleared_formed hm), unitStarts_formed hm, formed_mk (unitCleared_formed hm),
    hm]

theorem domReset_formed {m k i} (hm : MemFormed m) : MemFormed (domReset m k i) :=
  foldl_holds (fun _ _ g => holds_ite (domStart_formed (modDom_formed g)) g) hm

/-! ## Writes of registers (R9, R10, R14, R45 to R49, R723) -/

theorem jrnWrite_formed {m n} (hm : MemFormed m) : MemFormed (jrnWrite m n) := modChn_formed hm

theorem evtLogWrite_formed {m n} (hm : MemFormed m) : MemFormed (evtLogWrite m n) := modEvt_formed hm

theorem errSelectNow_formed {m v} (hm : MemFormed m) : MemFormed (errSelectNow m v) := formed_mk hm

theorem writeModule_formed {m off v} (hm : MemFormed m) : Gives MemFormed (writeModule m off v) := by
  dsimp only [writeModule]
  split
  case h_15 =>
    split
    · exact .some (holds_ite (pathCmd_formed hm) hm)
    · exact .some hm
  exacts [.some (formed_mk hm), .some (formed_mk hm), .some (crangeStart_formed hm), holds_ite .none (.some (jrnWrite_formed hm)),
    .some (jrnMove_formed hm), holds_ite .none (.some (modChn_formed hm)), sumpWrite_formed hm, holds_ite .none (.some (modChn_formed hm)),
    .some (evtLogWrite_formed hm), .some (modEvt_formed hm), .some (holds_ite (formed_mk hm) hm), .some (formed_mk hm),
    .some (errSelectNow_formed hm), .some (formed_mk hm)]

theorem benchCtlWrite_formed {m b n} (hm : MemFormed m) : MemFormed (benchCtlWrite m b n) := modBench_formed hm

theorem l2CtlWrite_formed {m b n} (hm : MemFormed m) : MemFormed (l2CtlWrite m b n) := by
  dsimp only [l2CtlWrite]
  exact holds_ite (l2Disable_formed (modL2_formed (setLock_formed hm))) (l2Enable_formed (modL2_formed (setLock_formed hm)))

theorem writeBench_formed {m b off v} (hm : MemFormed m) : Gives MemFormed (writeBench m b off v) := by
  dsimp only [writeBench]
  split
  exacts [.some (benchCtlWrite_formed hm), .some (l2CtlWrite_formed hm), .some (holds_ite (modL2_formed hm) (l2SetwayStart_formed hm)), .some hm]

theorem writeEngine_formed {m e off v} (hm : MemFormed m) : Gives MemFormed (writeEngine m e off v) := by
  dsimp only [writeEngine]
  split
  exacts [.some (modEng_formed hm), .some (modEng_formed hm), .some (modEng_formed hm), .some (l1Ctl_formed hm), .some hm]

theorem writeHome_formed {m h off v} (hm : MemFormed m) : Gives MemFormed (writeHome m h off v) := by
  dsimp only [writeHome]
  split
  · exact .some (holds_ite (l3Disable_formed hm) (l3Enable_formed hm))
  · exact .some (holds_ite (modHome_formed hm) (l3SetwayStart_formed hm))
  · exact .some hm

theorem writeLink_formed {m l off v} (hm : MemFormed m) : Gives MemFormed (writeLink m l off v) := by
  dsimp only [writeLink]
  split
  · exact .some (holds_ite hm (linkCmd_formed hm))
  · exact .some (modLink_formed hm)
  · exact .some (modLink_formed hm)
  · split
    · exact holds_ite .none (.some (modLink_formed hm))
    · exact .some hm

theorem writePcie_formed {m p off v} (hm : MemFormed m) : Gives MemFormed (writePcie m p off v) := by
  dsimp only [writePcie]
  split
  · exact .some (modPcie_formed hm)
  · exact cfgWriteNow_formed (takeChoice_formed hm)
  · exact .some hm

theorem writeCp_formed {m c off v} (hm : MemFormed m) : Gives MemFormed (writeCp m c off v) := by
  dsimp only [writeCp]
  refine holds_ite (.some ?_) (.some hm)
  split
  · exact cpOfflineNow_formed hm
  · exact cpOnlineNow_formed hm
  · exact hm

theorem writeWork_formed {m kind u off v} (hm : MemFormed m) : Gives MemFormed (writeWork m kind u off v) := .some (holds_ite (workCmd_formed hm) hm)

theorem writeCtx_formed {m off v} (hm : MemFormed m) : Gives MemFormed (writeCtx m off v) :=
  holds_ite (.some hm) (holds_ite (.some (modJobs_formed hm)) .none)

theorem setLeaseReg_formed {m l off w} (hm : MemFormed m) : MemFormed (setLeaseReg m l off w) := modLease_formed hm

theorem epCtlWrite_formed {m l e n} (hm : MemFormed m) : Gives MemFormed (epCtlWrite m l e n) := by
  dsimp only [epCtlWrite]
  refine holds_ite (.some (setLeaseReg_formed hm)) ?_
  exact holds_ite .none (holds_ite .none (holds_ite .none (holds_ite .none (.some (setLeaseReg_formed hm)))))

theorem epRingWrite_formed {m l e n} (hm : MemFormed m) : Gives MemFormed (epRingWrite m l e n) := by
  dsimp only [epRingWrite]
  exact holds_ite .none (.some (holds_ite (setLeaseReg_formed hm) (setRing_formed (setLeaseReg_formed hm))))

theorem epTimersWrite_formed {m l e n} (hm : MemFormed m) : Gives MemFormed (epTimersWrite m l e n) := .some (setLeaseReg_formed hm)

theorem fqCtlWrite_formed {m l q n} (hm : MemFormed m) : Gives MemFormed (fqCtlWrite m l q n) := by
  dsimp only [fqCtlWrite]
  refine holds_ite ?_ ?_
  · exact .some (setLeaseReg_formed (holds_ite hm (txFlush_formed (fqPosted_formed hm))))
  · refine holds_ite .none ?_
    refine holds_ite .none ?_
    exact holds_ite (.some (setLeaseReg_formed (holds_ite hm (txFlush_formed (fqPosted_formed hm))))) (.some (setLeaseReg_formed hm))

theorem fqRingWrite_formed {m l q n} (hm : MemFormed m) : Gives MemFormed (fqRingWrite m l q n) := by
  dsimp only [fqRingWrite]
  exact holds_ite .none (.some (holds_ite (setLeaseReg_formed hm) (setFq_formed (setLeaseReg_formed hm))))

theorem jqCtlWrite_formed {m kind l q n} (hm : MemFormed m) : Gives MemFormed (jqCtlWrite m kind l q n) := by
  dsimp only [jqCtlWrite]
  exact holds_ite .none (holds_ite .none (.some (setLeaseReg_formed hm)))

theorem jqRingWrite_formed {m kind l q n} (hm : MemFormed m) : Gives MemFormed (jqRingWrite m kind l q n) := by
  dsimp only [jqRingWrite]
  exact holds_ite .none (.some (holds_ite (setLeaseReg_formed hm) (setJobRing_formed (setLeaseReg_formed hm))))

theorem sharesWrite_formed {m l n} (hm : MemFormed m) : MemFormed (sharesWrite m l n) := modLease_formed hm

theorem evtRingWrite_formed {m l n} (hm : MemFormed m) : MemFormed (evtRingWrite m l n) := by
  dsimp only [evtRingWrite]
  exact holds_ite (setLeaseReg_formed hm) (modLease_formed (setLeaseReg_formed hm))

theorem writeLease_formed {m l off v} (hm : MemFormed m) : Gives MemFormed (writeLease m l off v) := by
  dsimp only [writeLease]
  split
  case h_11 =>
    split
    · split
      exacts [epCtlWrite_formed hm, epRingWrite_formed hm, epTimersWrite_formed hm, .some hm]
    · split
      · exact fqCtlWrite_formed hm
      · exact fqRingWrite_formed hm
      · exact .some hm
    · split
      · exact jqCtlWrite_formed hm
      · exact jqRingWrite_formed hm
      · exact .some hm
    · split
      · exact jqCtlWrite_formed hm
      · exact jqRingWrite_formed hm
      · exact .some hm
    · exact .some hm
  exacts [.some (leaseCmd_formed hm), .some (sharesWrite_formed hm), .some (entriesChanged_formed (modLease_formed hm)),
    .some (modLease_formed hm), .some (tlbInval_formed hm), .some (leaseSpawn_formed hm), .some (evtRingWrite_formed hm),
    .some (setLeaseReg_formed hm), settAdd_formed hm, holds_ite (.some (setLeaseReg_formed hm)) .none]

theorem writeTime_formed {m off v} (hm : MemFormed m) : Gives MemFormed (writeTime m off v) := by
  dsimp only [writeTime]
  split
  · exact holds_ite (.some (tsSetNow_formed hm)) .none
  · exact .some (tsAdjNow_formed hm)
  · exact .some hm

theorem writeReg_formed {m k i off v} (hm : MemFormed m) : Gives MemFormed (writeReg m k i off v) := by
  dsimp only [writeReg]
  refine holds_ite (holds_ite (.some hm) (holds_ite (.some (domReset_formed (resetNow_formed hm))) .none)) (holds_ite (.some hm) ?_)
  split
  exacts [writeModule_formed hm, writeBench_formed hm, writeEngine_formed hm, writeHome_formed hm, .some (holds_ite (mchCmd_formed hm) hm),
    writeLink_formed hm, writePcie_formed hm, writeCp_formed hm, writeWork_formed hm, writeWork_formed hm, writeCtx_formed hm,
    writeLease_formed hm, writeTime_formed hm, .some hm]

theorem tagWrite_formed {m k i j v} (hm : MemFormed m) : MemFormed (tagWrite m k i j v) := setUnit_formed hm

theorem writeCheck_formed {m a addr size v} (hm : MemFormed m) : Answers MemFormed (writeCheck m a addr size v) := by
  dsimp only [writeCheck]
  refine holds_ite .error (holds_ite .error ?_)
  split
  · exact .error
  · refine holds_ite .error ?_
    refine holds_ite (holds_ite (.ok (tagWrite_formed hm)) .error) ?_
    refine holds_ite .error (holds_ite .error (holds_ite .error (holds_ite .error ?_)))
    split
    · exact .error
    · next e1 => exact .ok (writeReg_formed hm _ e1)

theorem writeCtl_formed {m a addr size v} (hm : MemFormed m) : MemFormed (writeCtl m a addr size v) := by
  dsimp only [writeCtl]
  split
  · exact refuseAccess_formed hm
  · next e => exact writeCheck_formed hm _ e

/-! ## Memory operations of an engine that complete (R234 to R242) -/

theorem ctlLoadDone_formed {m e o sgn} (hm : MemFormed m) : MemFormed (ctlLoadDone m e o sgn) := by
  dsimp only [ctlLoadDone]
  exact holds_ite hm (answerRead_formed (holds_ite (formed_mk (readCtl_formed hm)) (readCtl_formed hm)))

theorem ctlStoreDone_formed {m e o} (hm : MemFormed m) : MemFormed (ctlStoreDone m e o) := holds_ite hm (opDone_formed (writeCtl_formed hm))

theorem ctlAtomicDone_formed {m e o} (hm : MemFormed m) : MemFormed (ctlAtomicDone m e o) := by
  dsimp only [ctlAtomicDone]
  refine holds_ite hm ?_
  refine holds_ite ?_ (answerRead_formed (refuseAccess_formed hm))
  exact answerRead_formed (formed_mk (MemFormed.mem (holds_ite (writeCtl_formed hm) hm)))

theorem loadComplete_formed {m e op} (hm : MemFormed m) : MemFormed (loadComplete m e op) := by
  dsimp only [loadComplete]
  split
  · exact hm
  · exact holds_ite hm (holds_ite (ctlLoadDone_formed hm) (loadDone_formed hm))

theorem storeComplete_formed {m e op} (hm : MemFormed m) : MemFormed (storeComplete m e op) := by
  dsimp only [storeComplete]
  split
  · exact hm
  · exact holds_ite hm (holds_ite (ctlStoreDone_formed hm) (storeDone_formed hm))

theorem atomicComplete_formed {m e op} (hm : MemFormed m) : MemFormed (atomicComplete m e op) := by
  dsimp only [atomicComplete]
  split
  · exact hm
  · exact holds_ite hm (holds_ite (ctlAtomicDone_formed hm) (atomicDone_formed hm))

theorem macFetchComplete_formed {m e op} (hm : MemFormed m) : MemFormed (macFetchComplete m e op) := by
  dsimp only [macFetchComplete]
  split
  · exact hm
  · exact holds_ite hm (holds_ite (macLineDone_formed hm) (holds_ite hm (macFetchDone_formed (readCtl_formed hm))))

theorem execLoadComplete_formed {e op s} (hm : MemFormed s.m) : NextFormed (execLoadComplete e op s) :=
  runMesh_formed hm (fun _ g => loadComplete_formed g)

theorem execStoreComplete_formed {e op s} (hm : MemFormed s.m) : NextFormed (execStoreComplete e op s) :=
  runMeshLoss_formed hm (fun _ g => storeComplete_formed g)

theorem execAtomicComplete_formed {e op s} (hm : MemFormed s.m) : NextFormed (execAtomicComplete e op s) :=
  runMeshLoss_formed hm (fun _ g => atomicComplete_formed g)

theorem execMacFetchComplete_formed {e op s} (hm : MemFormed s.m) : NextFormed (execMacFetchComplete e op s) :=
  runMesh_formed hm (fun _ g => macFetchComplete_formed g)

/-! ## Faults and recoveries (R789, R795 to R816) -/

theorem faultTaken_formed {m f} (hm : MemFormed m) : MemFormed (faultTaken m f) := modMode_formed hm

theorem recoverNow_formed {m f act} (hm : MemFormed m) (hact : ∀ m, MemFormed m → MemFormed (act m)) : MemFormed (recoverNow m f act) := by
  dsimp only [recoverNow]
  exact endRecovery_formed (faultTaken_formed (hact _ (holds_ite (beginRecovery_formed hm) hm)))

theorem recover_formed {m f act} (hm : MemFormed m) (hact : ∀ m, MemFormed m → MemFormed (act m)) : MemFormed (recover m f act) := by
  dsimp only [recover]
  refine holds_ite ?_ ?_
  · exact lossCheck_formed (recoverNow_formed (noteFault_formed hm) (fun _ g => hact _ g))
  · exact holds_ite (lossCheck_formed (hact _ (noteFault_formed hm))) (modMode_formed (noteFault_formed hm))

theorem l3Give_formed {m t w} (hm : MemFormed m) : MemFormed (l3Give m t w) := l3Next_formed (modEvt_formed hm)

theorem l3Moves_formed {m e b} (hm : MemFormed m) : MemFormed (l3Moves m e b) := by
  dsimp only [l3Moves]
  split
  · exact modBank_formed (modEng_formed hm)
  · exact foldl_holds (fun _ _ g => l3Give_formed g) (modEvt_formed (modBank_formed (modEng_formed hm)))

theorem bankLost_formed {m e l} (hm : MemFormed m) : MemFormed (bankLost m e l) := by
  dsimp only [bankLost]
  exact emptyBank_formed (taskGone_formed (taskLost_formed hm))

theorem routineStops_formed {m e l} (hm : MemFormed m) : MemFormed (routineStops m e l) := by
  dsimp only [routineStops]
  split
  · exact holds_ite (saveEnd_formed hm) (suspend_formed hm)
  · exact suspend_formed hm

theorem stateLost_formed {m e lost} (hm : MemFormed m) : MemFormed (stateLost m e lost) := holds_ite hm (raiseErr_formed hm)

theorem engineMoves_formed {m e s bad t0} (hm : MemFormed m) : MemFormed (engineMoves m e s bad t0) := by
  dsimp only [engineMoves]
  refine stateLost_formed ?_
  refine raiseErrD_formed ?_
  refine holds_ite ?_ ?_
  · refine l3Start_formed ?_
    refine modBank_formed ?_
    refine foldl_holds (fun _ _ g => ?_) ?_
    · exact holds_ite (microResume_formed g) g
    · refine setUState_formed ?_
      refine setUState_formed ?_
      refine modEvt_formed ?_
      refine modEng_formed ?_
      exact formed_mk (modEng_formed (foldl_holds (fun _ _ g => bankLost_formed g) (foldl_holds (fun _ _ g => routineStops_formed g) hm)))
  · refine l3Next_formed ?_
    refine foldl_holds (fun _ _ g => ?_) ?_
    · exact holds_ite (microResume_formed g) g
    · refine setUState_formed ?_
      refine setUState_formed ?_
      refine modEvt_formed ?_
      refine modEng_formed ?_
      exact formed_mk (modEng_formed (foldl_holds (fun _ _ g => bankLost_formed g) (foldl_holds (fun _ _ g => routineStops_formed g) hm)))

theorem engineStrands_formed {m e t0} (hm : MemFormed m) : MemFormed (engineStrands m e t0) := by
  dsimp only [engineStrands]
  refine engineLeft_formed ?_
  refine faultTaken_formed ?_
  refine stateLost_formed ?_
  refine raiseErrD_formed ?_
  refine l3Moves_formed ?_
  refine foldl_holds (fun _ _ g => ?_) ?_
  · exact leaveBank_formed (modBank_formed g)
  · exact modEng_formed (foldl_holds (fun _ _ g => bankLost_formed g) (foldl_holds (fun _ _ g => routineStops_formed g) hm))

theorem engineSparing_formed {m e bad} (hm : MemFormed m) : MemFormed (engineSparing m e bad) := by
  dsimp only [engineSparing]
  refine holds_ite hm ?_
  refine holds_ite hm (holds_ite (holds_ite hm (persistent_formed hm)) (recover_formed (holds_ite hm (persistent_formed hm)) (fun _ g => ?_)))
  split
  · exact engineMoves_formed (preempt_formed (preempt_formed g))
  · exact engineStrands_formed (preempt_formed g)

theorem giveEntry_formed {m heirs q} (hm : MemFormed m) : Gives MemFormed (giveEntry m heirs q) := by
  dsimp only [giveEntry]
  split
  · exact holds_ite (.some (enqueue_formed hm)) .none
  · exact .none

theorem entryLost_formed {m b q} (hm : MemFormed m) : MemFormed (entryLost m b q) := taskGone_formed (taskLost_formed hm)

theorem giveAll_formed {m b heirs dead l} (hm : MemFormed m) : ThdFormed (giveAll m b heirs dead l) := by
  dsimp only [giveAll]
  refine foldl_holds (fun _ _ g => ?_) hm
  split
  · next e => exact holds_ite (giveEntry_formed (SndFormed.snd (holds_ite (takeChoice_formed g) (SndFormed.mk g)))) .none _ e
  · exact entryLost_formed (SndFormed.snd (holds_ite (takeChoice_formed g) (SndFormed.mk g)))

theorem flushOp_formed {m o} (hm : MemFormed m) : MemFormed (flushOp m o) := by
  dsimp only [flushOp]
  refine holds_ite (holds_ite (writeCtl_formed hm) hm) (holds_ite (ioWrite_formed hm) ?_)
  split
  · exact ioWrite_formed hm
  · exact hm

theorem flushOps_formed {m e} (hm : MemFormed m) : MemFormed (flushOps m e) := modEng_formed (foldl_holds (fun _ _ g => flushOp_formed g) hm)

theorem bankSaved_formed {m heirs e l} (hm : MemFormed m) : SndFormed (bankSaved m heirs e l) := by
  dsimp only [bankSaved]
  refine holds_ite (holds_ite (modBank_formed hm) (leaveBank_formed (modBank_formed hm))) ?_
  split
  · split
    · next e1 => exact setBank_formed (giveEntry_formed (holds_ite (modBank_formed hm) (leaveBank_formed (modBank_formed hm))) _ e1)
    · exact bankLost_formed (holds_ite (modBank_formed hm) (leaveBank_formed (modBank_formed hm)))
  · exact bankLost_formed (holds_ite (modBank_formed hm) (leaveBank_formed (modBank_formed hm)))

theorem benchLost_formed {m b alive} (hm : MemFormed m) : MemFormed (benchLost m b alive) := by
  unfold benchLost
  extract_lets t0 m1 heirs first m2 m3 m4 banks
  have h3 : MemFormed m3 := benchLinesLost_formed (setUState_formed (preempt_formed hm))
  have h4 : MemFormed m4 := foldl_holds
    (fun _ _ g => holds_ite (foldl_holds (fun _ _ g => routineStops_formed g) (flushOps_formed g)) (modEng_formed g)) h3
  split
  next saved lost m5 e5 =>
  have h5 : MemFormed m5 := by
    refine ThdFormed.of_eq (foldl_holds (fun a p g => ?_) (ThdFormed.mk h4)) e5
    extract_lets r
    have hr : SndFormed r := holds_ite (bankSaved_formed g) (SndFormed.mk (bankLost_formed g))
    exact holds_ite hr hr
  extract_lets x m6 m7
  have h7 : MemFormed m7 := foldl_holds (fun _ _ g => holds_ite (modLease_formed g) (settUse_formed g)) (modBench_formed h5)
  split
  next moved gone m8 e8 =>
  have h8 : MemFormed m8 := (giveAll_formed h7).of_eq e8
  extract_lets m9 m10 m11
  have h10 : MemFormed m10 := foldl_holds (fun _ _ g => modEng_formed (holds_ite g (setUState_formed g))) (modEvt_formed h8)
  exact raiseErrD_formed (foldl_holds (fun _ _ g => l3Moves_formed g) h10)

theorem benchGoes_formed {m b alive} (hm : MemFormed m) : MemFormed (benchGoes m b alive) :=
  holds_ite hm (recover_formed hm (fun _ g => faultTaken_formed (benchLost_formed g)))

theorem homeLostNow_formed {m h} (hm : MemFormed m) : MemFormed (homeLostNow m h) := by
  dsimp only [homeLostNow]
  refine holds_ite (checkStop_formed (preempt_formed hm)) ?_
  exact homeTakeoverBegin_formed (holds_ite (shareOpens_formed (preempt_formed hm)) (preempt_formed hm))

theorem homeGoes_formed {m h} (hm : MemFormed m) : MemFormed (homeGoes m h) := by
  dsimp only [homeGoes]
  refine holds_ite hm ?_
  refine holds_ite ?_ ?_
  · exact recover_formed (noteFault_formed hm) (fun _ g => homeLostNow_formed g)
  · refine lossCheck_formed ?_
    exact faultTaken_formed (homeLostNow_formed (holds_ite (beginRecovery_formed (noteFault_formed hm)) (noteFault_formed hm)))

theorem sessionLapses_formed {m} (hm : MemFormed m) : MemFormed (sessionLapses m) := formed_mk hm

theorem coreLost_formed {m h} (hm : MemFormed m) : MemFormed (coreLost m h) := by
  dsimp only [coreLost]
  refine holds_ite hm (setUState_formed (raiseErr_formed ?_))
  split
  · exact holds_ite (sessionLapses_formed (formed_mk hm)) (formed_mk hm)
  · exact formed_mk hm

theorem portDown_formed {m p} (hm : MemFormed m) : MemFormed (portDown m p) := portPathsFail_formed (modPcie_formed hm)

theorem groupLost_formed {m h} (hm : MemFormed m) : MemFormed (groupLost m h) := by
  dsimp only [groupLost]
  exact raiseErr_formed (groupAdopt_formed (foldl_holds (fun _ _ g => holds_ite g (setUState_formed g)) hm))

theorem worksLost_formed {m kind us} (hm : MemFormed m) : MemFormed (worksLost m kind us) := by
  dsimp only [worksLost]
  exact foldl_holds (fun _ _ g => workFails_formed g) (foldl_holds (fun _ _ g => holds_ite (setUState_formed g) (modWork_formed g)) hm)

theorem timeGone_formed {m h} (hm : MemFormed m) : MemFormed (timeGone m h) := by
  dsimp only [timeGone]
  exact setUState_formed (holds_ite (setMaster_formed hm) hm)

theorem hubLostNow_formed {m h} (hm : MemFormed m) : MemFormed (hubLostNow m h) := by
  unfold hubLostNow
  extract_lets m1 m2 m3 m4 m5 m6 m7 m8
  have h3 : MemFormed m3 := formed_mk (worksLost_formed (worksLost_formed (raiseErr_formed hm)))
  have h4 : MemFormed m4 := holds_ite (groupLost_formed h3) h3
  have h5 : MemFormed m5 := foldl_holds (fun _ _ g => holds_ite (pathFails_formed g) g) h4
  have h6 : MemFormed m6 := holds_ite (halfLost_formed h5) h5
  have h8 : MemFormed m8 :=
    foldl_holds (fun _ _ g => holds_ite g (setUState_formed (setLinkState_formed g))) (coreLost_formed (timeGone_formed h6))
  exact holds_ite h8 (setUState_formed (portDown_formed h8))

theorem hubGoes_formed {m h} (hm : MemFormed m) : MemFormed (hubGoes m h) := holds_ite hm (recover_formed hm (fun _ g => hubLostNow_formed g))

theorem tileLostNow_formed {m t} (hm : MemFormed m) : MemFormed (tileLostNow m t) := by
  dsimp only [tileLostNow]
  refine foldl_holds (fun _ _ g => channelFails_formed g) ?_
  refine foldl_holds (fun _ _ g => ?_) ?_
  · exact holds_ite (setUState_formed (modChan_formed g)) g
  · refine foldl_holds (fun _ _ g => homeLostNow_formed g) ?_
    exact foldl_holds (fun _ _ g => benchLost_formed g) (foldl_holds (fun _ _ g => setUState_formed g) (raiseErr_formed (formed_mk hm)))

theorem tileGoes_formed {m t} (hm : MemFormed m) : MemFormed (tileGoes m t) := holds_ite hm (recover_formed hm (fun _ g => tileLostNow_formed g))

theorem modSubLink_formed {m l f} (hm : MemFormed m) : MemFormed (modSubLink m l f) := formed_mk hm

theorem endLost_formed {m t} (hm : MemFormed m) : MemFormed (endLost m t) := holds_ite (tileGoes_formed hm) (hubGoes_formed hm)

theorem linkLostNow_formed {m l} (hm : MemFormed m) : MemFormed (linkLostNow m l) := by
  dsimp only [linkLostNow]
  refine foldl_holds (fun _ _ g => ?_) ?_
  · exact foldl_holds (fun _ _ g1 => holds_ite (endLost_formed g1) g1) g
  · exact foldl_holds (fun _ _ g => endLost_formed g) (raiseErr_formed (modSubLink_formed hm))

theorem meshLinkGoes_formed {m l} (hm : MemFormed m) : MemFormed (meshLinkGoes m l) :=
  holds_ite hm (recover_formed hm (fun _ g => linkLostNow_formed g))

theorem meshTransfer_formed {m l k good vc} (hm : MemFormed m) : MemFormed (meshTransfer m l k good vc) := by
  dsimp only [meshTransfer]
  refine holds_ite hm ?_
  refine holds_ite ?_ ?_
  · exact holds_ite (modSubLink_formed hm) (raiseErr_formed (modSubLink_formed hm))
  · exact holds_ite (meshLinkGoes_formed hm) (modSubLink_formed hm)

theorem domainLost_formed {m d} (hm : MemFormed m) : MemFormed (domainLost m d) := by
  dsimp only [domainLost]
  refine holds_ite (benchGoes_formed (modDom_formed hm)) ?_
  refine holds_ite (homeGoes_formed (modDom_formed hm)) ?_
  refine holds_ite ?_ ?_
  · exact holds_ite (modDom_formed hm) (lossCheck_formed (channelFails_formed (modDom_formed hm)))
  · refine holds_ite ?_ ?_
    · exact holds_ite (modDom_formed hm) (lossCheck_formed (linkPathsFail_formed (setUState_formed (setLinkState_formed (modDom_formed hm)))))
    · refine holds_ite ?_ ?_
      · exact holds_ite (modDom_formed hm) (lossCheck_formed (setUState_formed (portDown_formed (modDom_formed hm))))
      · refine holds_ite (worksLost_formed (modDom_formed hm)) ?_
        refine holds_ite (worksLost_formed (modDom_formed hm)) ?_
        refine holds_ite ?_ ?_
        · exact holds_ite (halfLost_formed (modDom_formed hm)) (modDom_formed hm)
        · refine holds_ite ?_ ?_
          · exact foldl_holds (fun _ _ g => meshLinkGoes_formed g) (tileGoes_formed (modDom_formed hm))
          · refine holds_ite ?_ ?_
            · exact foldl_holds (fun _ _ g => meshLinkGoes_formed g) (hubGoes_formed (modDom_formed hm))
            · refine holds_ite ?_ ?_
              · exact holds_ite (groupLost_formed (modDom_formed hm)) (modDom_formed hm)
              · exact holds_ite (lossCheck_formed (coreLost_formed (timeGone_formed (modDom_formed hm)))) (modDom_formed hm)

theorem heartbeatLost_formed {m d} (hm : MemFormed m) : MemFormed (heartbeatLost m d) := holds_ite hm (domainLost_formed hm)

theorem deferredNow_formed {m f} (hm : MemFormed m) : MemFormed (deferredNow m f) := by
  dsimp only [deferredNow]
  split
  exacts [holds_ite (engineSparing_formed (noteFault_formed hm)) (noteFault_formed hm), benchGoes_formed hm, homeGoes_formed hm,
    tileGoes_formed hm, hubGoes_formed hm, meshLinkGoes_formed hm, lossCheck_formed (chanRecovers_formed hm)]

/-! ## The commands of clock domains, supplies and lands (R831 to R839, R846, R853) -/

theorem thermalStep_formed {m d temp} (hm : MemFormed m) : MemFormed (thermalStep m d temp) := by
  dsimp only [thermalStep]
  exact holds_ite (modDom_formed hm) (holds_ite (modDom_formed hm) (formed_mk (modDom_formed hm)))

theorem freqRaise_formed {m d temp} (hm : MemFormed m) : MemFormed (freqRaise m d temp) := by
  dsimp only [freqRaise]
  exact holds_ite hm (modDom_formed hm)

theorem freqDecide_formed {m d target temp} (hm : MemFormed m) : MemFormed (freqDecide m d target temp) := by
  dsimp only [freqDecide]
  exact holds_ite (modDom_formed (thermalStep_formed hm)) (holds_ite (freqRaise_formed (thermalStep_formed hm)) (thermalStep_formed hm))

theorem execFrequencyDecision_formed {d target temp s} (hm : MemFormed s.m) : NextFormed (execFrequencyDecision d target temp s) :=
  runUnits_formed hm (fun _ g => holds_ite (freqDecide_formed g) g)

theorem execThermalLimitStep_formed {d temp s} (hm : MemFormed s.m) : NextFormed (execThermalLimitStep d temp s) :=
  runUnits_formed hm (fun _ g => holds_ite (thermalStep_formed g) g)

theorem thermalTrip_formed {m d temp} (hm : MemFormed m) : MemFormed (thermalTrip m d temp) := by
  dsimp only [thermalTrip]
  refine holds_ite hm ?_
  refine holds_ite ?_ ?_
  · exact domainLost_formed (holds_ite (modDom_formed hm) (emit_formed (formed_mk (modDom_formed hm))))
  · exact holds_ite (modDom_formed hm) (emit_formed (formed_mk (modDom_formed hm)))

theorem execThermalTrip_formed {d temp s} (hm : MemFormed s.m) : NextFormed (execThermalTrip d temp s) :=
  runAlive_formed hm (fun _ g => thermalTrip_formed g)

theorem execRefclkFailure_formed {h s} (hm : MemFormed s.m) : NextFormed (execRefclkFailure h s) := by
  dsimp only [execRefclkFailure]
  exact runM_formed hm (fun _ g => formed_mk g)

theorem execRefclkRecovery_formed {h s} (hm : MemFormed s.m) : NextFormed (execRefclkRecovery h s) := runM_formed hm (fun _ g => formed_mk g)

theorem domsGone_formed {m n} (hm : MemFormed m) : MemFormed (domsGone m n) := foldl_holds (fun _ _ g => holds_ite g (modDom_formed g)) hm

theorem execRefclkHoldoverExpiry_formed {s} (hm : MemFormed s.m) : NextFormed (execRefclkHoldoverExpiry s) := by
  dsimp only [execRefclkHoldoverExpiry]
  refine runAlive_formed hm (fun _ g => ?_)
  split
  · exact g
  · exact holds_ite g (checkStop_formed (coreLost_formed (coreLost_formed (domsGone_formed g))))

theorem execPwrgdMainRise_formed {s} (hm : MemFormed s.m) : NextFormed (execPwrgdMainRise s) := runM_formed hm (fun _ g => holds_ite (formed_mk g) g)

theorem execPwrgdMainFall_formed {s} (hm : MemFormed s.m) : NextFormed (execPwrgdMainFall s) := by
  dsimp only [execPwrgdMainFall]
  exact runM_formed hm (fun _ g => holds_ite (formed_mk g) (checkStop_formed (domsGone_formed (formed_mk g))))

theorem ppsOut_formed {m i} (hm : MemFormed m) : MemFormed (ppsOut m i) := by
  dsimp only [ppsOut]
  split
  · exact hm
  · exact holds_ite (holds_ite hm (emit_formed (formed_mk hm))) (holds_ite (emit_formed (formed_mk hm)) hm)

theorem execPpsOutputEdge_formed {land s} (hm : MemFormed s.m) : NextFormed (execPpsOutputEdge land s) :=
  runAlive_formed hm (fun _ g => ppsOut_formed g)

theorem execTapInstruction_formed {code s} (hm : MemFormed s.m) : NextFormed (execTapInstruction code s) := runM_formed hm (fun _ g => formed_mk g)

theorem execModeMachineUncorrectableError_formed {s} (hm : MemFormed s.m) : NextFormed (execModeMachineUncorrectableError s) :=
  runAlive_formed hm (fun _ g => checkStop_formed g)

/-! ## The commands of faults and recoveries (R789, R797, R803 to R813) -/

theorem execHeartbeatLoss_formed {d s} (hm : MemFormed s.m) : NextFormed (execHeartbeatLoss d s) :=
  runAlive_formed hm (fun _ g => heartbeatLost_formed g)

theorem execEngineSparing_formed {e bad s} (hm : MemFormed s.m) : NextFormed (execEngineSparing e bad s) :=
  runMesh_formed hm (fun _ g => engineSparing_formed g)

theorem execBenchLoss_formed {b s} (hm : MemFormed s.m) : NextFormed (execBenchLoss b s) := runMesh_formed hm (fun _ g => benchGoes_formed g)

theorem execHomeNodeLoss_formed {h s} (hm : MemFormed s.m) : NextFormed (execHomeNodeLoss h s) := runMesh_formed hm (fun _ g => homeGoes_formed g)

theorem execTileLoss_formed {t s} (hm : MemFormed s.m) : NextFormed (execTileLoss t s) := runMesh_formed hm (fun _ g => tileGoes_formed g)

theorem execMeshTransfer_formed {link dir vc crcGood s} (hm : MemFormed s.m) : NextFormed (execMeshTransfer link dir vc crcGood s) :=
  runMesh_formed hm (fun _ g => meshTransfer_formed g)

theorem execServiceCoreLoss_formed {h s} (hm : MemFormed s.m) : NextFormed (execServiceCoreLoss h s) :=
  runM_formed hm (fun _ g => holds_ite (lossCheck_formed (coreLost_formed g)) g)

theorem execHubLoss_formed {h s} (hm : MemFormed s.m) : NextFormed (execHubLoss h s) := runMesh_formed hm (fun _ g => hubGoes_formed g)

theorem coreReturns_formed {m h} (hm : MemFormed m) : MemFormed (coreReturns m h) := by
  dsimp only [coreReturns]
  refine holds_ite ?_ ?_
  · exact domStart_formed (modDom_formed (setUState_formed (formed_mk hm)))
  · refine disciplineStart_formed ?_
    exact modEvt_formed (setMaster_formed (setUState_formed (domStart_formed (modDom_formed (setUState_formed (formed_mk hm))))))

theorem hubReturns_formed {m h} (hm : MemFormed m) : MemFormed (hubReturns m h) := by
  dsimp only [hubReturns]
  refine holds_ite (coreReturns_formed hm) ?_
  refine holds_ite ?_ ?_
  · refine foldl_holds (fun _ _ g => ?_) ?_
    · exact holds_ite g (setUState_formed (setLinkState_formed g))
    · exact domStart_formed (modDom_formed (coreReturns_formed (formed_mk hm)))
  · refine setUState_formed ?_
    refine modPcie_formed ?_
    refine foldl_holds (fun _ _ g => ?_) ?_
    · exact holds_ite g (setUState_formed (setLinkState_formed g))
    · exact domStart_formed (modDom_formed (coreReturns_formed (formed_mk hm)))

theorem execHubReturn_formed {h s} (hm : MemFormed s.m) : NextFormed (execHubReturn h s) :=
  runAlive_formed hm (fun _ g => holds_ite (hubReturns_formed g) g)

/-! ## The commands of memory channels and seams (R490 to R539) -/

theorem mchWrite_formed {a c code s} (hm : MemFormed s.m) : NextFormed (mchWrite a c code s) :=
  runM_formed hm (fun _ g => ctlWrite_formed (fun _ g1 => mchCmd_formed g1) g)

theorem execMchRetrain_formed {a c s} (hm : MemFormed s.m) : NextFormed (execMchRetrain a c s) := mchWrite_formed hm

theorem execMchOfflineForce_formed {a c s} (hm : MemFormed s.m) : NextFormed (execMchOfflineForce a c s) := mchWrite_formed hm

theorem execMchPowerOff_formed {a c s} (hm : MemFormed s.m) : NextFormed (execMchPowerOff a c s) := mchWrite_formed hm

theorem execMchPowerOn_formed {a c s} (hm : MemFormed s.m) : NextFormed (execMchPowerOn a c s) := mchWrite_formed hm

theorem execMchOnline_formed {a c s} (hm : MemFormed s.m) : NextFormed (execMchOnline a c s) := mchWrite_formed hm

theorem commandTimeout_formed {m c} (hm : MemFormed m) : MemFormed (commandTimeout m c) := by
  dsimp only [commandTimeout]
  exact holds_ite hm (holds_ite (channelFails_formed (modChan_formed hm)) (modChan_formed hm))

theorem rebuilds_formed {m s k bad goOn} (hm : MemFormed m) (hgoOn : ∀ m, MemFormed m → MemFormed (goOn m)) : MemFormed (rebuilds m s k bad goOn) :=
    by
  dsimp only [rebuilds]
  split
  · exact hgoOn _ hm
  · exact holds_ite hm (uncFails_formed (hgoOn _ (lineLost_formed (countUnc_formed hm))))

theorem rebuildRequest_formed {m s bad} (hm : MemFormed m) : MemFormed (rebuildRequest m s bad) := by
  dsimp only [rebuildRequest]
  split
  · refine holds_ite hm (rebuilds_formed ?_ (fun _ g => modSeam_formed g))
    split
    · exact modChan_formed hm
    · exact hm
  · split
    · exact hm
    · split
      · exact modSeam_formed hm
      · exact holds_ite hm (rebuilds_formed hm (fun _ g => modSeam_formed g))
  · exact hm

theorem seamRebuilt_formed {m s} (hm : MemFormed m) : MemFormed (seamRebuilt m s) := by
  dsimp only [seamRebuilt]
  refine holds_ite hm ?_
  refine holds_ite ?_ ?_
  · refine setUState_formed ?_
    refine modChan_formed ?_
    refine modChan_formed ?_
    refine foldl_holds (fun _ _ g => endRecovery_formed g) ?_
    exact endRecovery_formed (endRecovery_formed (setUState_formed (modChan_formed (setSeam_formed hm))))
  · refine modChan_formed ?_
    refine foldl_holds (fun _ _ g => endRecovery_formed g) ?_
    exact endRecovery_formed (endRecovery_formed (setUState_formed (modChan_formed (setSeam_formed hm))))

theorem execSeamRebuildComplete_formed {k s} (hm : MemFormed s.m) : NextFormed (execSeamRebuildComplete k s) :=
  runUnits_formed hm (fun _ g => seamRebuilt_formed g)

theorem retrainDue_formed {m c temp} (hm : MemFormed m) : MemFormed (retrainDue m c temp) := by
  dsimp only [retrainDue]
  split
  · exact modChan_formed hm
  · exact holds_ite (startRetrain_formed (modChan_formed hm)) (modChan_formed hm)

theorem execRetrainDue_formed {c temp s} (hm : MemFormed s.m) : NextFormed (execRetrainDue c temp s) :=
  runUnits_formed hm (fun _ g => retrainDue_formed g)

theorem retrainComplete_formed {m c lanes} (hm : MemFormed m) : MemFormed (retrainComplete m c lanes) := by
  dsimp only [retrainComplete]
  exact holds_ite hm (holds_ite (channelFails_formed (modChan_formed hm)) (foldl_holds (fun _ _ g => modSeam_formed g) (modChan_formed hm)))

theorem catchUpComplete_formed {m s} (hm : MemFormed m) : MemFormed (catchUpComplete m s) := by
  dsimp only [catchUpComplete]
  exact holds_ite hm (holds_ite (modChan_formed (setSeam_formed hm)) (setSeam_formed hm))

theorem execCatchUpComplete_formed {k s} (hm : MemFormed s.m) : NextFormed (execCatchUpComplete k s) :=
  runUnits_formed hm (fun _ g => catchUpComplete_formed g)

theorem refreshDue_formed {m c i} (hm : MemFormed m) : MemFormed (refreshDue m c i) := holds_ite hm (modSub_formed hm)

theorem execRefreshDue_formed {c i s} (hm : MemFormed s.m) : NextFormed (execRefreshDue c i s) := runMesh_formed hm (fun _ g => refreshDue_formed g)

theorem selfRefreshExit_formed {m c} (hm : MemFormed m) : MemFormed (selfRefreshExit m c) := by
  dsimp only [selfRefreshExit]
  exact holds_ite (modChan_formed hm) hm

theorem execSelfRefreshExit_formed {c s} (hm : MemFormed s.m) : NextFormed (execSelfRefreshExit c s) :=
  runUnits_formed hm (fun _ g => selfRefreshExit_formed g)

theorem rowIdleClose_formed {m c i bank} (hm : MemFormed m) : MemFormed (rowIdleClose m c i bank) := by
  dsimp only [rowIdleClose]
  split
  · exact hm
  · exact holds_ite (modSub_formed hm) hm

theorem execRowIdleClose_formed {c i bank s} (hm : MemFormed s.m) : NextFormed (execRowIdleClose c i bank s) :=
  runMesh_formed hm (fun _ g => rowIdleClose_formed g)

theorem memoryScrub_formed {m c n ecc} (hm : MemFormed m) : MemFormed (memoryScrub m c n ecc) := by
  dsimp only [memoryScrub]
  refine holds_ite hm ?_
  split
  · exact hm
  · split
    · exact hm
    · exact pieceCorrected_formed hm
    · exact caParityError_formed hm
    · exact uncFails_formed (holds_ite (lineLost_formed (countUnc_formed hm)) (pieceRebuilt_formed (countUnc_formed hm)))

theorem execMchPrsntNChange_formed {c low s} (hm : MemFormed s.m) : NextFormed (execMchPrsntNChange c low s) :=
  runM_formed hm (fun _ g => holds_ite g (modChan_formed g))

theorem channelTrained_formed {m c r} (hm : MemFormed m) : MemFormed (channelTrained m c r) := by
  dsimp only [channelTrained]
  exact holds_ite hm (setUState_formed (modChan_formed (applyTraining_formed hm)))

theorem execChannelTrained_formed {c r s} (hm : MemFormed s.m) : NextFormed (execChannelTrained c r s) :=
  runUnits_formed hm (fun _ g => channelTrained_formed g)

/-! ## The commands that may lose a unit -/

theorem execMemRead_formed {c sub ecc s} (hm : MemFormed s.m) : NextFormed (execMemRead c sub ecc s) :=
  runMeshLoss_formed hm (fun _ g => servePiece_formed g)

theorem execMemWrite_formed {c sub parity s} (hm : MemFormed s.m) : NextFormed (execMemWrite c sub parity s) :=
  runMesh_formed hm (fun _ g => holds_ite (lossCheck_formed (serveWrite_formed g)) (serveWrite_formed g))

theorem execRebuildRequest_formed {k bad s} (hm : MemFormed s.m) : NextFormed (execRebuildRequest k bad s) :=
  runUnits_formed hm (fun _ g => holds_ite (lossCheck_formed (rebuildRequest_formed g)) (rebuildRequest_formed g))

theorem execMchOffline_formed {a c s} (hm : MemFormed s.m) : NextFormed (execMchOffline a c s) := by
  dsimp only [execMchOffline]
  exact runM_formed hm (fun _ g => ctlWrite_formed (fun _ g1 => holds_ite (lossCheck_formed (mchCmd_formed g1)) (mchCmd_formed g1)) g)

theorem execCommandTimeout_formed {c s} (hm : MemFormed s.m) : NextFormed (execCommandTimeout c s) :=
  runMeshLoss_formed hm (fun _ g => commandTimeout_formed g)

theorem execRetrainComplete_formed {c lanes s} (hm : MemFormed s.m) : NextFormed (execRetrainComplete c lanes s) :=
  runUnitsLoss_formed hm (fun _ g => retrainComplete_formed g)

theorem execMemoryScrub_formed {c n ecc s} (hm : MemFormed s.m) : NextFormed (execMemoryScrub c n ecc s) :=
  runUnitsLoss_formed hm (fun _ g => memoryScrub_formed g)

theorem execLinkOffline_formed {a l s} (hm : MemFormed s.m) : NextFormed (execLinkOffline a l s) :=
  runAliveLoss_formed hm (fun _ g => ctlWrite_formed (fun _ g1 => linkCmd_formed g1) g)

theorem execLinkDown_formed {l s} (hm : MemFormed s.m) : NextFormed (execLinkDown l s) := runAliveLoss_formed hm (fun _ g => linkGoesDown_formed g)

theorem execPcieLinkDown_formed {p j aer s} (hm : MemFormed s.m) : NextFormed (execPcieLinkDown p j aer s) :=
  runAliveLoss_formed hm (fun _ g => pcieLinkDownNow_formed g)

theorem execBundleIssue_formed {e check fix s} (hm : MemFormed s.m) : NextFormed (execBundleIssue e check fix s) :=
  runUnitsLoss_formed hm (fun _ g => bundleIssue_formed g)

theorem execCxRoutineEnd_formed {e l err s} (hm : MemFormed s.m) : NextFormed (execCxRoutineEnd e l err s) :=
  runUnitsLoss_formed hm (fun _ g => holds_ite (cxEnds_formed g) g)

theorem execMicrocodeLoad_formed {u readBack s} (hm : MemFormed s.m) : NextFormed (execMicrocodeLoad u readBack s) :=
  runAliveLoss_formed hm (fun _ g => microLoad_formed g)

theorem execTsMasterTakeover_formed {s} (hm : MemFormed s.m) : NextFormed (execTsMasterTakeover s) :=
  runAliveLoss_formed hm (fun _ g => tsTakeover_formed g)

/-! ## Resets, START, Training and Hold (R28, R34, R35, R38, R39) -/

theorem afterReset_formed {m} (_ : MemFormed m) : MemFormed (afterReset m) := formed_mk Mach.reset_formed

theorem powerOn_formed {f m ao} (hm : MemFormed m) : MemFormed (powerOn f m ao) := by
  dsimp only [powerOn]
  exact formed_mk (afterReset_formed hm)

theorem moduleResetNow_formed {f m cause} (hm : MemFormed m) : MemFormed (moduleResetNow f m cause) := by
  dsimp only [moduleResetNow]
  exact notify_formed (formed_mk (afterReset_formed hm))

theorem serviceRelease_formed {f m} (hm : MemFormed m) : MemFormed (serviceRelease f m) := by
  dsimp only [serviceRelease]
  refine holds_ite ?_ ?_
  · refine domStart_formed ?_
    refine domStart_formed ?_
    refine domStart_formed ?_
    refine foldl_holds (fun _ _ g => setUState_formed g) ?_
    refine modEvt_formed ?_
    exact formed_mk (takeFree_formed (takeFree_formed (takeFree_formed (takeFree_formed (takeFree_formed (takeFree_formed hm))))))
  · refine raiseErr_formed ?_
    refine takeFree_formed ?_
    refine domStart_formed ?_
    refine domStart_formed ?_
    refine domStart_formed ?_
    refine foldl_holds (fun _ _ g => setUState_formed g) ?_
    refine modEvt_formed ?_
    exact formed_mk (takeFree_formed (takeFree_formed (takeFree_formed (takeFree_formed (takeFree_formed (takeFree_formed hm))))))

theorem chanStart_formed {m c} (hm : MemFormed m) : MemFormed (chanStart m c) := by
  dsimp only [chanStart]
  exact holds_ite hm (domStart_formed (setUState_formed (modChan_formed (holds_ite hm (emit_formed hm)))))

theorem linkStart_formed {m l} (hm : MemFormed m) : MemFormed (linkStart m l) :=
  holds_ite hm (domStart_formed (setUState_formed (setLinkState_formed hm)))

theorem portStart_formed {m p} (hm : MemFormed m) : MemFormed (portStart m p) := by
  dsimp only [portStart]
  exact holds_ite hm (domStart_formed (setUState_formed (modPcie_formed hm)))

theorem startNow_formed {m} (hm : MemFormed m) : MemFormed (startNow m) := by
  dsimp only [startNow]
  split
  · exact hm
  · refine enterMode_formed ?_
    refine foldl_holds (fun _ _ g => domStart_formed g) ?_
    refine foldl_holds (fun _ _ g => portStart_formed g) ?_
    refine foldl_holds (fun _ _ g => linkStart_formed g) ?_
    exact foldl_holds (fun _ _ g => holds_ite (setSeam_formed g) g) (foldl_holds (fun _ _ g => chanStart_formed g) (formed_mk hm))

theorem physicalReset_formed {m} (hm : MemFormed m) : MemFormed (physicalReset m) := by
  unfold physicalReset
  extract_lets x m1 m2 m3 m4 m5 m6 m7
  have h3 : MemFormed m3 := foldl_holds (fun _ _ g => setUState_formed (setPcie_formed g))
    (foldl_holds (fun _ _ g => setUState_formed (setLink_formed g)) (foldl_holds (fun _ _ g => setUState_formed (modChan_formed g)) hm))
  have h4 : MemFormed m4 := foldl_holds (fun _ _ g => holds_ite g (setUState_formed g)) h3
  have h5 : MemFormed m5 := foldl_holds (fun _ _ g => holds_ite g (setUState_formed g)) h4
  have h6 : MemFormed m6 := foldl_holds (fun _ _ g => holds_ite g (modDom_formed g)) h5
  have h7 : MemFormed m7 := formed_mk h6
  exact formed_mk h7

theorem chanTrainEnd_formed {m r c} (hm : MemFormed m) : MemFormed (chanTrainEnd m r c) := by
  dsimp only [chanTrainEnd]
  refine holds_ite hm ?_
  split
  · exact setUState_formed (modChan_formed hm)
  · exact holds_ite (modChan_formed (applyTraining_formed hm)) (setUState_formed (modChan_formed (applyTraining_formed hm)))

theorem linkTrainEnd_formed {m up l} (hm : MemFormed m) : MemFormed (linkTrainEnd m up l) :=
  holds_ite (setLinkState_formed (modLink_formed hm)) (holds_ite hm (holds_ite hm (setUState_formed (setLinkState_formed hm))))

theorem portTrainEnd_formed {m r p} (hm : MemFormed m) : MemFormed (portTrainEnd m r p) := by
  dsimp only [portTrainEnd]
  refine holds_ite (setUState_formed (modPcie_formed (foldl_holds (fun _ _ g => ?_) hm))) (modPcie_formed (foldl_holds (fun _ _ g => ?_) hm))
  · split
    · exact holds_ite (modPcie_formed g) g
    · exact g
  · split
    · exact holds_ite (modPcie_formed g) g
    · exact g

theorem storesStart_formed {m all} (hm : MemFormed m) : MemFormed (storesStart m all) := by
  dsimp only [storesStart]
  refine foldl_holds (fun _ _ g => ?_) ?_
  · exact holds_ite (setUState_formed g) g
  · exact foldl_holds (fun _ _ g => holds_ite (foldl_holds (fun _ _ g1 => setUState_formed g1) g) g) hm

theorem trainedUnits_formed {m r} (hm : MemFormed m) : MemFormed (trainedUnits m r) := by
  dsimp only [trainedUnits]
  refine foldl_holds (fun _ _ g => portTrainEnd_formed g) ?_
  exact foldl_holds (fun _ _ g => linkTrainEnd_formed g) (foldl_holds (fun _ _ g => chanTrainEnd_formed g) hm)

theorem trainingEnds_formed {m r} (hm : MemFormed m) : MemFormed (trainingEnds m r) := by
  dsimp only [trainingEnds]
  refine holds_ite hm ?_
  refine holds_ite ?_ ?_
  · exact storesStart_formed (enterMode_formed (formed_mk (trainedUnits_formed hm)))
  · exact enterMode_formed (physicalReset_formed (raiseErr_formed (trainedUnits_formed hm)))

theorem holdBegins_formed {m} (hm : MemFormed m) : MemFormed (holdBegins m) := by
  dsimp only [holdBegins]
  refine foldl_holds (fun _ _ g => ?_) ?_
  · exact holds_ite (emit_formed (modLink_formed g)) g
  · exact foldl_holds (fun _ _ g => holds_ite (modChan_formed g) g) (modMode_formed hm)

theorem ledgersCheck_formed {m} (hm : MemFormed m) : MemFormed (ledgersCheck m) := hm.of_mem (ledgersCheck_logged ..).mem

theorem holdEntered_formed {m} (hm : MemFormed m) : MemFormed (holdEntered m) := by
  dsimp only [holdEntered]
  refine holds_ite hm ?_
  refine enterMode_formed ?_
  refine modMode_formed ?_
  refine ledgersCheck_formed ?_
  refine foldl_holds (fun _ _ g => modChan_formed g) ?_
  exact foldl_holds (fun _ _ g => holds_ite (cipherBoundary_formed g) g) (foldl_holds (fun _ _ g => holds_ite (crushBoundary_formed g) g) hm)

theorem txnClocksShift_formed {m ns} (hm : MemFormed m) : MemFormed (txnClocksShift m ns) := modChn_formed hm

theorem holdExited_formed {m} (hm : MemFormed m) : MemFormed (holdExited m) := by
  dsimp only [holdExited]
  refine holds_ite hm ?_
  refine foldl_holds (fun _ _ g => deferredNow_formed g) ?_
  exact enterMode_formed (modMode_formed (formed_mk (txnClocksShift_formed (foldl_holds (fun _ _ g => modChan_formed g) hm))))

/-! ## The commit of a full image and the application of a partial one (R125 to R130) -/

theorem substituted_formed {m src sub} (hm : MemFormed m) : MemFormed (substituted m src sub) := raiseErr_formed hm

theorem engineRoles_formed {m b acting} (hm : MemFormed m) : MemFormed (engineRoles m b acting) :=
  foldl_holds (fun _ _ g => holds_ite g (setUState_formed g)) hm

theorem engineSubst_formed {m b} (hm : MemFormed m) : MemFormed (engineSubst m b) := by
  dsimp only [engineSubst]
  refine foldl_holds (fun _ _ g => ?_) hm
  split
  · exact substituted_formed (setUState_formed g)
  · exact substituted_formed g

theorem loadRest_formed {m b} (hm : MemFormed m) : MemFormed (loadRest m b) :=
  foldl_holds (fun _ _ g => holds_dite (fun _ => holds_ite (microLoad_formed g) g) (fun _ => g)) hm

theorem benchCommit_formed {m b} (hm : MemFormed m) : MemFormed (benchCommit m b) :=
  holds_ite hm (domStart_formed (policyL2_formed (setUState_formed (engineSubst_formed (engineRoles_formed hm)))))

theorem homeCommit_formed {m h} (hm : MemFormed m) : MemFormed (homeCommit m h) := by
  dsimp only [homeCommit]
  exact holds_ite hm (domStart_formed (policyL3_formed (holds_ite (setHome_formed hm) (setUState_formed (setHome_formed hm)))))

theorem homeSubst_formed {m h} (hm : MemFormed m) : MemFormed (homeSubst m h) := holds_ite hm (homeTakeoverBegin_formed (substituted_formed hm))

theorem chanCommit_formed {m c} (hm : MemFormed m) : MemFormed (chanCommit m c) := by
  dsimp only [chanCommit]
  exact holds_ite hm (holds_ite (setUState_formed (modChan_formed hm)) (holds_ite (setUState_formed hm) hm))

theorem seamCommit_formed {m s} (hm : MemFormed m) : MemFormed (seamCommit m s) := by
  dsimp only [seamCommit]
  refine holds_ite hm ?_
  split
  · exact setUState_formed hm
  · exact modSeam_formed (setUState_formed hm)
  · exact modSeam_formed (setUState_formed hm)

theorem chanSubst_formed {m} (hm : MemFormed m) : SndFormed (chanSubst m) := by
  dsimp only [chanSubst]
  refine foldl_holds (fun _ _ g => ?_) hm
  split
  · exact substituted_formed (foldl_holds (fun _ _ g1 => startRebuild_formed g1) (modChan_formed (setUState_formed g)))
  · exact substituted_formed (modChan_formed (setUState_formed g))

theorem pathsDead_formed {m hit} (hm : MemFormed m) : MemFormed (pathsDead m hit) := foldl_holds (fun _ _ g => holds_ite (modPath_formed g) g) hm

theorem linkCommit_formed {m l} (hm : MemFormed m) : MemFormed (linkCommit m l) :=
  holds_ite hm (holds_ite (setUState_formed hm) (substituted_formed (pathsDead_formed (setUState_formed (setLinkState_formed hm)))))

theorem portCommit_formed {m p} (hm : MemFormed m) : MemFormed (portCommit m p) := by
  dsimp only [portCommit]
  exact holds_ite hm (holds_ite (setUState_formed hm) (substituted_formed (pathsDead_formed (setUState_formed hm))))

theorem workCommit_formed {m kind u} (hm : MemFormed m) : MemFormed (workCommit m kind u) :=
  holds_ite hm (holds_ite (substituted_formed hm) (domStart_formed (setUState_formed hm)))

theorem pathAtCommit_formed {m p} (hm : MemFormed m) : MemFormed (pathAtCommit m p) := holds_ite (pathCmd_formed hm) hm

theorem leasesCommit_formed {m} (hm : MemFormed m) : MemFormed (leasesCommit m) := by
  dsimp only [leasesCommit]
  refine foldl_holds (fun _ _ g => ?_) hm
  exact holds_ite (leaseLoaded_formed (setUState_formed g)) (holds_ite (leaseLoaded_formed (setUState_formed g)) (setUState_formed g))

theorem commitFull_formed {m b} (hm : MemFormed m) : MemFormed (commitFull m b) := by
  dsimp only [commitFull]
  refine foldl_holds (fun _ _ g => beginRecovery_formed g) ?_
  refine foldl_holds (fun _ _ g => pathAtCommit_formed g) ?_
  refine enterMode_formed ?_
  refine foldl_holds (fun _ _ g => homeSubst_formed g) ?_
  refine formed_mk ?_
  refine disciplineStart_formed ?_
  refine disciplineStart_formed ?_
  refine leasesCommit_formed ?_
  refine foldl_holds (fun _ _ g => ?_) ?_
  · exact holds_ite (domStart_formed (domStart_formed (setUState_formed g))) g
  · refine foldl_holds (fun _ _ g => ?_) ?_
    · exact holds_ite (setUState_formed g) g
    · refine foldl_holds (fun _ _ g => workCommit_formed g) ?_
      refine foldl_holds (fun _ _ g => workCommit_formed g) ?_
      refine foldl_holds (fun _ _ g => portCommit_formed g) ?_
      refine foldl_holds (fun _ _ g => linkCommit_formed g) ?_
      refine chanSubst_formed ?_
      refine foldl_holds (fun _ _ g => seamCommit_formed g) ?_
      refine formed_mk ?_
      refine memory_mk ?_
      refine MemFormed.mem ?_
      refine foldl_holds (fun _ _ g => chanCommit_formed g) ?_
      refine foldl_holds (fun _ _ g => homeCommit_formed g) ?_
      refine foldl_holds (fun _ _ g => benchCommit_formed g) ?_
      refine formed_mk ?_
      refine MemFormed.mem ?_
      refine foldl_holds (fun _ _ g => ?_) ?_
      · exact holds_dite (fun _ => holds_ite (microLoad_formed g) g) (fun _ => g)
      · exact foldl_holds (fun _ _ g => loadRest_formed g) hm

theorem holdUnit_formed {m u} (hm : MemFormed m) : MemFormed (holdUnit m u) := by
  dsimp only [holdUnit]
  exact holds_ite hm (setUState_formed (formed_mk hm))

theorem prepareBegin_formed {m b} (hm : MemFormed m) : MemFormed (prepareBegin m b) := by
  dsimp only [prepareBegin]
  refine formed_mk ?_
  refine MemFormed.mem ?_
  refine foldl_holds (fun _ _ g => holds_ite (setMaster_formed g) g) (foldl_holds (fun _ _ g => ?_) (holds_ite (enterMode_formed hm) hm))
  split
  · exact holdUnit_formed g
  · exact g

theorem setProgress_formed {m w} (hm : MemFormed m) : MemFormed (setProgress m w) := formed_mk hm

theorem applyBegin_formed {m} (hm : MemFormed m) : MemFormed (applyBegin m) := by
  dsimp only [applyBegin]
  exact holds_ite (formed_mk hm) (setProgress_formed (formed_mk hm))

theorem putRec_formed {m kind i r} (hm : MemFormed m) : MemFormed (putRec m kind i r) := formed_mk hm

theorem benchOut_formed {m b} (hm : MemFormed m) : MemFormed (benchOut m b) := by
  dsimp only [benchOut]
  refine modDom_formed ?_
  refine setUState_formed ?_
  refine foldl_holds (fun _ _ g => ?_) ?_
  · exact holds_ite g (setUState_formed (setEng_formed g))
  · exact formed_mk (MemFormed.mem (foldl_holds (fun _ _ g => maintNow_formed g) hm))

theorem benchRoles_formed {m b} (hm : MemFormed m) : MemFormed (benchRoles m b) := by
  dsimp only [benchRoles]
  refine holds_ite hm ?_
  exact holds_ite (benchOut_formed hm) (setUState_formed (engineRoles_formed (holds_ite (domStart_formed (policyL2_formed hm)) hm)))

theorem keepActing_formed {m b} (hm : MemFormed m) : MemFormed (keepActing m b) := foldl_holds (fun _ _ g => formed_mk g) hm

theorem benchEnginesReset_formed {m b} (hm : MemFormed m) : MemFormed (benchEnginesReset m b) :=
  foldl_holds (fun _ _ g => holds_ite g (engineReset_formed g)) hm

theorem rolesApply_formed {m rs} (hm : MemFormed m) : MemFormed (rolesApply m rs) := by
  dsimp only [rolesApply]
  refine foldl_holds (fun _ _ g => benchRoles_formed g) ?_
  exact foldl_holds (fun _ _ g => putRec_formed (loadRest_formed g)) (foldl_holds (fun _ _ g => holds_ite g (benchEnginesReset_formed g)) hm)

theorem patchNext_formed {m n} (hm : MemFormed m) : SndFormed (patchNext m n) := by
  dsimp only [patchNext]
  exact formed_mk (setProgress_formed hm)

theorem patchBench_formed {m n b r} (hm : MemFormed m) : SndFormed (patchBench m n b r) := by
  dsimp only [patchBench]
  refine holds_ite ?_ ?_
  · refine holds_ite (setProgress_formed (setUState_formed hm)) ?_
    refine holds_ite (patchNext_formed (putRec_formed hm)) ?_
    exact holds_ite hm (formed_mk (benchEnginesReset_formed (keepActing_formed (putRec_formed hm))))
  · exact patchNext_formed (holds_ite (setUState_formed (engineRoles_formed (loadRest_formed hm))) (loadRest_formed hm))

theorem patchCp_formed {m n c r} (hm : MemFormed m) : SndFormed (patchCp m n c r) := by
  dsimp only [patchCp]
  refine holds_ite ?_ ?_
  · refine holds_ite (patchNext_formed (putRec_formed hm)) ?_
    exact formed_mk (setProgress_formed (resetNow_formed (putRec_formed (cpOfflineNow_formed (formed_mk hm)))))
  · refine patchNext_formed ?_
    refine holds_ite ?_ ?_
    · exact holds_dite (fun _ => holds_ite (microLoad_formed hm) hm) (fun _ => hm)
    · exact setUState_formed (holds_dite (fun _ => holds_ite (microLoad_formed hm) hm) (fun _ => hm))

theorem patchApply_formed {m rs} (hm : MemFormed m) : SndFormed (patchApply m rs) := by
  dsimp only [patchApply]
  split
  · exact formed_mk hm
  · exact holds_ite (patchNext_formed hm) (holds_ite (patchBench_formed hm) (patchCp_formed hm))

theorem chanApply_formed {m c} (hm : MemFormed m) : MemFormed (chanApply m c) := by
  dsimp only [chanApply]
  refine holds_ite hm ?_
  refine holds_ite ?_ ?_
  · exact modDom_formed (setUState_formed (setChan_formed (holds_ite (emit_formed hm) hm)))
  · exact holds_ite (becomeSpare_formed hm) (setUState_formed (modChan_formed hm))

theorem carrierApply_formed {m i} (hm : MemFormed m) : MemFormed (carrierApply m i) := by
  dsimp only [carrierApply]
  refine holds_ite hm ?_
  refine holds_ite ?_ ?_
  · exact modDom_formed (setUState_formed (holds_ite (setLink_formed hm) (setPcie_formed hm)))
  · exact holds_ite (domStart_formed (setUState_formed hm)) (setUState_formed (portStart_formed hm))

theorem workApply_formed {m kind u} (hm : MemFormed m) : MemFormed (workApply m kind u) := by
  dsimp only [workApply]
  exact holds_ite hm (holds_ite (holds_ite (domStart_formed (setUState_formed hm)) (setUState_formed hm)) (modDom_formed (setUState_formed hm)))

theorem homeBack_formed {m h g} (hm : MemFormed m) : MemFormed (homeBack m h g) := by
  dsimp only [homeBack]
  exact modHome_formed (modHome_formed (foldl_holds (fun _ _ g => holds_ite (memWriteNow_formed g) g) hm))

theorem remirror_formed {m h} (hm : MemFormed m) : MemFormed (remirror m h) := by
  dsimp only [remirror]
  exact modHome_formed (foldl_holds (fun _ _ g => holds_ite (cleanL3_formed g) g) hm)

theorem homeHeldEnds_formed {m h} (hm : MemFormed m) : MemFormed (homeHeldEnds m h) := holds_ite (setUState_formed hm) hm

theorem buddyApply_formed {m h} (hm : MemFormed m) : MemFormed (buddyApply m h) := by
  dsimp only [buddyApply]
  refine holds_ite hm (holds_ite (holds_ite hm ?_) (homeHeldEnds_formed (remirror_formed hm)))
  split
  · exact hm
  · exact policyL3_formed (remirror_formed (setUState_formed (homeBack_formed hm)))

theorem recApply_formed {m kind i r} (hm : MemFormed m) : MemFormed (recApply m kind i r) := by
  dsimp only [recApply]
  split
  case h_2 =>
    refine holds_ite ?_ ?_
    · exact holds_ite (policyL2_formed (putRec_formed hm)) (putRec_formed hm)
    · exact holds_ite (policyL3_formed (putRec_formed hm)) (putRec_formed hm)
  exacts [holds_ite (chanApply_formed (putRec_formed hm)) (modSeam_formed (putRec_formed hm)), pathAtCommit_formed (putRec_formed hm),
    carrierApply_formed (putRec_formed hm), holds_ite (workApply_formed (putRec_formed hm)) (putRec_formed hm),
    holds_ite (workApply_formed (putRec_formed hm)) (putRec_formed hm), holds_ite (putRec_formed hm) (disciplineStart_formed (putRec_formed hm)),
    buddyApply_formed (putRec_formed hm), putRec_formed hm]

theorem sectionStep_formed {m b e} (hm : MemFormed m) : SndFormed (sectionStep m b e) := by
  dsimp only [sectionStep]
  split
  · exact rolesApply_formed hm
  · exact patchApply_formed hm
  · exact foldl_holds (fun _ _ g => recApply_formed g) hm

theorem loadEnds_formed {m} (hm : MemFormed m) : MemFormed (loadEnds m) := by
  dsimp only [loadEnds]
  exact notify_formed (formed_mk hm)

theorem sectionApplied_formed {m} (hm : MemFormed m) : MemFormed (sectionApplied m) := by
  dsimp only [sectionApplied]
  refine holds_ite hm ?_
  split
  · exact loadEnds_formed hm
  · split
    · next e1 => exact (sectionStep_formed hm).of_eq e1
    · next e1 =>
      have h2 := (sectionStep_formed hm).of_eq e1
      exact holds_ite (loadEnds_formed (formed_mk h2)) (formed_mk h2)

theorem checkEnds_formed {gone m} (hm : MemFormed m) : MemFormed (checkEnds gone m) := by
  dsimp only [checkEnds]
  refine holds_ite hm ?_
  split
  exacts [commitFull_formed hm, prepareBegin_formed hm, enterMode_formed (physicalReset_formed (reject_formed (modMode_formed (formed_mk hm)))),
    reject_formed hm]

theorem prepareEnds_formed {m} (hm : MemFormed m) : MemFormed (prepareEnds m) := holds_ite hm (applyBegin_formed hm)

theorem quiesceEnds_formed {m} (hm : MemFormed m) : MemFormed (quiesceEnds m) := by
  dsimp only [quiesceEnds]
  split
  · exact holds_ite hm (loadAbandoned_formed hm)
  · exact hm

theorem reworkEnds_formed {m} (hm : MemFormed m) : MemFormed (reworkEnds m) := holds_ite hm (enterMode_formed (modMode_formed hm))

/-! ## The commands of resets, boot, Training, Hold and the loader -/

theorem execPowerOnReset_formed {s} (hm : MemFormed s.m) : NextFormed (execPowerOnReset s) := runM_formed hm (fun _ g => powerOn_formed g)

theorem execMrstNReset_formed {s} (hm : MemFormed s.m) : NextFormed (execMrstNReset s) :=
  runM_formed hm (fun _ g => holds_ite (moduleResetNow_formed g) g)

theorem execPwrgdAoFall_formed {s} (hm : MemFormed s.m) : NextFormed (execPwrgdAoFall s) := runM_formed hm (fun _ g => powerOn_formed g)

theorem execServiceDomainRelease_formed {s} (hm : MemFormed s.m) : NextFormed (execServiceDomainRelease s) :=
  runM_formed hm (fun _ g => holds_ite (serviceRelease_formed g) g)

theorem flashBundle_formed {f m l} (hm : MemFormed m) : MemFormed (flashBundle f m l) := by
  induction l with
  | nil => exact hm
  | cons b r ih =>
    dsimp only [flashBundle]
    split
    · next e => exact bundleHold_formed hm _ e
    · exact ih

theorem bootRead_formed {f m} (hm : MemFormed m) : MemFormed (bootRead f m) := by
  dsimp only [bootRead]
  refine holds_ite hm ?_
  split
  · exact flashBundle_formed hm
  · exact formed_mk (flashBundle_formed hm)

theorem execBootImageRead_formed {s} (hm : MemFormed s.m) : NextFormed (execBootImageRead s) := runAlive_formed hm (fun _ g => bootRead_formed g)

theorem execTrainingEnd_formed {r s} (hm : MemFormed s.m) : NextFormed (execTrainingEnd r s) := runAlive_formed hm (fun _ g => trainingEnds_formed g)

theorem execHoldEntryComplete_formed {s} (hm : MemFormed s.m) : NextFormed (execHoldEntryComplete s) :=
  runAliveLoss_formed hm (fun _ g => holdEntered_formed g)

theorem execHoldExitComplete_formed {s} (hm : MemFormed s.m) : NextFormed (execHoldExitComplete s) :=
  runAliveLoss_formed hm (fun _ g => holdExited_formed g)

theorem verifyEnds_formed {f m} (hm : MemFormed m) : MemFormed (verifyEnds f m) := by
  dsimp only [verifyEnds]
  refine holds_ite hm ?_
  split
  · exact reject_formed hm
  · exact holds_ite (modMode_formed (formed_mk hm)) (formed_mk hm)

theorem execVerifyComplete_formed {s} (hm : MemFormed s.m) : NextFormed (execVerifyComplete s) := runAlive_formed hm (fun _ g => verifyEnds_formed g)

theorem execPatchCheckComplete_formed {s} (hm : MemFormed s.m) : NextFormed (execPatchCheckComplete s) :=
  runAlive_formed hm (fun _ g => holds_ite g (patchChecked_formed g))

theorem execCheckComplete_formed {absent s} (hm : MemFormed s.m) : NextFormed (execCheckComplete absent s) :=
  runAliveLoss_formed hm (fun _ g => checkEnds_formed g)

theorem execPrepareComplete_formed {s} (hm : MemFormed s.m) : NextFormed (execPrepareComplete s) :=
  runUnits_formed hm (fun _ g => prepareEnds_formed g)

theorem execQuiesceTimeout_formed {s} (hm : MemFormed s.m) : NextFormed (execQuiesceTimeout s) := runUnits_formed hm (fun _ g => quiesceEnds_formed g)

theorem execSectionApplied_formed {s} (hm : MemFormed s.m) : NextFormed (execSectionApplied s) :=
  runUnitsLoss_formed hm (fun _ g => sectionApplied_formed g)

theorem execReworkComplete_formed {s} (hm : MemFormed s.m) : NextFormed (execReworkComplete s) := runUnits_formed hm (fun _ g => reworkEnds_formed g)

/-! ## Registers without a row of their own (R8 to R10, R41, R45) -/

theorem execRegisterWrite_formed {a addr size v s} (hm : MemFormed s.m) : NextFormed (execRegisterWrite a addr size v s) :=
  runAliveLoss_formed hm (fun _ g => writeCtl_formed g)

theorem readNow_formed {m a addr size} (hm : MemFormed m) : ThdFormed (readNow m a addr size) := by
  dsimp only [readNow]
  split
  · exact refuseAccess_formed hm
  · next e => exact holds_ite (readCheck_formed hm _ e) hm

theorem readAndClear_formed {m a addr size} (hm : MemFormed m) : MemFormed (readAndClear m a addr size) := by
  dsimp only [readAndClear]
  exact emit_formed (readNow_formed hm)

theorem execReadAndClear_formed {a addr size s} (hm : MemFormed s.m) : NextFormed (execReadAndClear a addr size s) :=
  runM_formed hm (fun _ g => readAndClear_formed g)

theorem execUnitReset_formed {a kind index v s} (hm : MemFormed s.m) : NextFormed (execUnitReset a kind index v s) :=
  runAliveLoss_formed hm (fun _ g => writeCtl_formed g)

theorem execErrSelect_formed {a v s} (hm : MemFormed s.m) : NextFormed (execErrSelect a v s) := runAliveLoss_formed hm (fun _ g => writeCtl_formed g)

/-! ## Service messages: the checks before one is executed (R59 to R75) -/

theorem answerAs_formed {m p seq type status body} (hm : MemFormed m) : MemFormed (answerAs m p seq type status body) := by
  dsimp only [answerAs]
  exact svcSend_formed (formed_mk hm)

theorem answer_formed {m h status body} (hm : MemFormed m) : MemFormed (answer m h status body) := hm.of_mem (answer_mem ..)

theorem ownerHeard_formed {m p} (hm : MemFormed m) : MemFormed (ownerHeard m p) := hm.of_mem (ownerHeard_mem ..)

theorem reply_formed {m h r} (hm : MemFormed m) : MemFormed (reply m h r) := by
  dsimp only [reply]
  split
  · exact answer_formed hm
  · exact formed_mk (takeChoice_formed hm)

theorem runningEnd_formed {m} (hm : MemFormed m) : MemFormed (runningEnd m) := by
  dsimp only [runningEnd]
  exact foldl_holds (fun _ _ g => answerAs_formed g) (formed_mk hm)

theorem serveAs_formed {m t h p act} (hm : MemFormed m) (hact : ∀ m, MemFormed m → SndFormed (act m)) : MemFormed (serveAs m t h p act) := by
  dsimp only [serveAs]
  split
  exacts [hm, svcSend_formed (ownerHeard_formed hm), svcSend_formed (ownerHeard_formed hm), answer_formed (ownerHeard_formed hm),
    reply_formed (SndFormed.snd (hact _ (ownerHeard_formed hm)))]

theorem serve_formed {m t h p act} (hm : MemFormed m) (hact : ∀ m, MemFormed m → ThdFormed (act m)) : MemFormed (serve m t h p act) := by
  dsimp only [serve]
  exact serveAs_formed hm (fun _ g => SndFormed.mk (ThdFormed.snd (hact _ g)))

theorem refusedWith_formed {c m} (hm : MemFormed m) : ThdFormed (refusedWith c m) := hm

/-! ## The service messages of the session, registers, modes, the dump and notifications -/

theorem helloAct_formed {port p m} (hm : MemFormed m) : ThdFormed (helloAct port p m) := by
  dsimp only [helloAct]
  split
  · exact hm
  · exact formed_mk hm

theorem execHello_formed {h p s} (hm : MemFormed s.m) : NextFormed (execHello h p s) :=
  runM_formed hm (fun _ g => serve_formed g (fun _ g1 => helloAct_formed g1))

theorem sessionTo_formed {m p ms} (hm : MemFormed m) : MemFormed (sessionTo m p ms) := hm.of_mem (sessionTo_mem ..)

theorem sessionNew_formed {m p ms} (hm : MemFormed m) : MemFormed (sessionNew m p ms) := hm.of_mem (sessionNew_logged ..).mem

theorem sessionAct_formed {waiting port p m} (hm : MemFormed m) : ThdFormed (sessionAct waiting port p m) := by
  dsimp only [sessionAct]
  refine holds_ite (refusedWith_formed hm) ?_
  refine holds_ite ?_ ?_
  · exact holds_ite (refusedWith_formed hm) (sessionNew_formed hm)
  · exact holds_ite (refusedWith_formed hm) (holds_ite (sessionTo_formed hm) (refusedWith_formed hm))

theorem execSessionOpen_formed {h p s} (hm : MemFormed s.m) : NextFormed (execSessionOpen h p s) :=
  runM_formed hm (fun _ g => serve_formed g (fun _ g1 => sessionAct_formed g1))

theorem sessionCloses_formed {m} (hm : MemFormed m) : MemFormed (sessionCloses m) := hm.of_mem (sessionCloses_mem ..)

theorem execSessionClose_formed {h p s} (hm : MemFormed s.m) : NextFormed (execSessionClose h p s) :=
  runM_formed hm (fun _ g => serve_formed g (fun _ g1 => sessionCloses_formed g1))

theorem execKeepalive_formed {h p s} (hm : MemFormed s.m) : NextFormed (execKeepalive h p s) :=
  runM_formed hm (fun _ g => serve_formed g (fun _ g1 => g1))

theorem handoverAct_formed {m} (hm : MemFormed m) : ThdFormed (handoverAct m) := by
  dsimp only [handoverAct]
  exact formed_mk (takeFree_formed hm)

theorem execHandoverPrepare_formed {h p s} (hm : MemFormed s.m) : NextFormed (execHandoverPrepare h p s) :=
  runM_formed hm (fun _ g => serve_formed g (fun _ g1 => handoverAct_formed g1))

theorem execSessionLapse_formed {s} (hm : MemFormed s.m) : NextFormed (execSessionLapse s) :=
  runM_formed hm (fun _ g => holds_ite (sessionLapses_formed g) g)

theorem execHandoverTokenExpiry_formed {s} (hm : MemFormed s.m) : NextFormed (execHandoverTokenExpiry s) := by
  dsimp only [execHandoverTokenExpiry]
  refine runM_formed hm (fun _ g => ?_)
  split
  · exact holds_ite (formed_mk g) g
  · exact g

theorem regReadAct_formed {p m} (hm : MemFormed m) : ThdFormed (regReadAct p m) := by
  dsimp only [regReadAct]
  exact holds_ite hm (ThdFormed.mk (readNow_formed hm))

theorem execRegRead_formed {h p s} (hm : MemFormed s.m) : NextFormed (execRegRead h p s) :=
  runM_formed hm (fun _ g => serve_formed g (fun _ g1 => regReadAct_formed g1))

theorem regWriteAct_formed {p m} (hm : MemFormed m) : ThdFormed (regWriteAct p m) := by
  dsimp only [regWriteAct]
  refine holds_ite (refusedWith_formed hm) ?_
  split
  · exact refusedWith_formed (refuseAccess_formed hm)
  · next e => exact writeCheck_formed hm _ e

theorem execRegWrite_formed {h p s} (hm : MemFormed s.m) : NextFormed (execRegWrite h p s) := by
  dsimp only [execRegWrite]
  refine runM_formed hm (fun _ g => ?_)
  exact holds_ite (lossCheck_formed (serve_formed g (fun _ g1 => regWriteAct_formed g1))) (serve_formed g (fun _ g1 => regWriteAct_formed g1))

theorem tagEntries_formed {write size es p m} (hm : MemFormed m) : ThdFormed (tagEntries write size es p m) := by
  induction es generalizing m with
  | nil => exact hm
  | cons _ _ ih =>
    dsimp only [tagEntries]
    split
    · exact hm
    · exact holds_ite (ih (setUnit_formed hm)) (ThdFormed.mk (ih hm))

theorem tagBulkAct_formed {p m} (hm : MemFormed m) : ThdFormed (tagBulkAct p m) := by
  dsimp only [tagBulkAct]
  exact holds_ite (refusedWith_formed hm) (ThdFormed.mk (tagEntries_formed hm))

theorem execTagBulk_formed {h p s} (hm : MemFormed s.m) : NextFormed (execTagBulk h p s) :=
  runM_formed hm (fun _ g => serve_formed g (fun _ g1 => tagBulkAct_formed g1))

theorem modeAct_formed {p allowed act m} (hact : ∀ m, MemFormed m → MemFormed (act m)) (hm : MemFormed m) : ThdFormed (modeAct p allowed act m) :=
  holds_ite (refusedWith_formed hm) (holds_ite (refusedWith_formed hm) (holds_ite (hact _ hm) (refusedWith_formed hm)))

theorem execStart_formed {h p s} (hm : MemFormed s.m) : NextFormed (execStart h p s) :=
  runM_formed hm (fun _ g => serve_formed g (fun _ g1 => modeAct_formed (fun _ g2 => startNow_formed g2) g1))

theorem execModuleReset_formed {h p s} (hm : MemFormed s.m) : NextFormed (execModuleReset h p s) := by
  dsimp only [execModuleReset]
  refine runM_formed hm (fun _ g => ?_)
  refine holds_ite ?_ ?_
  · exact moduleResetNow_formed (serve_formed g (fun _ g1 => holds_ite (refusedWith_formed g1) (holds_ite (refusedWith_formed g1) g1)))
  · exact serve_formed g (fun _ g1 => holds_ite (refusedWith_formed g1) (holds_ite (refusedWith_formed g1) g1))

theorem execHoldEnter_formed {h p s} (hm : MemFormed s.m) : NextFormed (execHoldEnter h p s) :=
  runM_formed hm (fun _ g => serve_formed g (fun _ g1 => modeAct_formed (fun _ g2 => holdBegins_formed g2) g1))

theorem execHoldExit_formed {h p s} (hm : MemFormed s.m) : NextFormed (execHoldExit h p s) :=
  runM_formed hm (fun _ g => serve_formed g (fun _ g1 => modeAct_formed (fun _ g2 => modMode_formed g2) g1))

theorem execTestEnter_formed {h p s} (hm : MemFormed s.m) : NextFormed (execTestEnter h p s) :=
  runM_formed hm (fun _ g => serve_formed g (fun _ g1 => modeAct_formed (fun _ g2 => enterMode_formed g2) g1))

theorem execTestExit_formed {h p s} (hm : MemFormed s.m) : NextFormed (execTestExit h p s) := by
  dsimp only [execTestExit]
  refine runM_formed hm (fun _ g => ?_)
  refine holds_ite ?_ ?_
  · exact moduleResetNow_formed (serve_formed g (fun _ g1 => modeAct_formed (fun _ g2 => g2) g1))
  · exact serve_formed g (fun _ g1 => modeAct_formed (fun _ g2 => g2) g1)

theorem dumpAct_formed {p m} (hm : MemFormed m) : ThdFormed (dumpAct p m) := by
  dsimp only [dumpAct]
  exact holds_ite (refusedWith_formed hm) hm

theorem execDumpRead_formed {h p s} (hm : MemFormed s.m) : NextFormed (execDumpRead h p s) :=
  runM_formed hm (fun _ g => serve_formed g (fun _ g1 => dumpAct_formed g1))

theorem execNotifyAnswer_formed {h p s} (hm : MemFormed s.m) : NextFormed (execNotifyAnswer h p s) := by
  dsimp only [execNotifyAnswer]
  exact runM_formed hm (fun _ g => holds_ite (formed_mk (ownerHeard_formed g)) g)

theorem execNotifyResend_formed {s} (hm : MemFormed s.m) : NextFormed (execNotifyResend s) := by
  dsimp only [execNotifyResend]
  exact runM_formed hm (fun _ g => foldl_holds (fun _ _ g1 => holds_ite (formed_mk (noteSend_formed g1)) (formed_mk g1)) (formed_mk g))

/-! ## The service messages of staging, loading, the flashes and the fuses (R80, R84 to R89) -/

theorem imagePutAct_formed {p m} (hm : MemFormed m) : ThdFormed (imagePutAct p m) := by
  dsimp only [imagePutAct]
  refine holds_ite (refusedWith_formed hm) ?_
  refine holds_ite (refusedWith_formed hm) ?_
  refine holds_ite ?_ ?_
  · exact holds_ite (refusedWith_formed hm) (holds_ite (refusedWith_formed hm) (formed_mk hm))
  · exact holds_ite (refusedWith_formed hm) (formed_mk hm)

theorem execImagePut_formed {h p s} (hm : MemFormed s.m) : NextFormed (execImagePut h p s) :=
  runM_formed hm (fun _ g => serve_formed g (fun _ g1 => imagePutAct_formed g1))

theorem imageLoadAct_formed {p m} (hm : MemFormed m) : ThdFormed (imageLoadAct p m) := by
  dsimp only [imageLoadAct]
  refine holds_ite (refusedWith_formed hm) ?_
  exact holds_ite (refusedWith_formed hm) (holds_ite (refusedWith_formed hm) (holds_ite (refusedWith_formed hm) (formed_mk hm)))

theorem execImageLoad_formed {h p s} (hm : MemFormed s.m) : NextFormed (execImageLoad h p s) :=
  runM_formed hm (fun _ g => serve_formed g (fun _ g1 => imageLoadAct_formed g1))

theorem flashReadAct_formed {port p m} (hm : MemFormed m) : ThdFormed (flashReadAct port p m) := by
  dsimp only [flashReadAct]
  exact holds_ite (refusedWith_formed hm) hm

theorem execFlashRead_formed {h p s} (hm : MemFormed s.m) : NextFormed (execFlashRead h p s) :=
  runM_formed hm (fun _ g => serve_formed g (fun _ g1 => flashReadAct_formed g1))

theorem flashWriteAct_formed {port p m} (hm : MemFormed m) : ThdFormed (flashWriteAct port p m) := by
  dsimp only [flashWriteAct]
  exact holds_ite (refusedWith_formed hm) (holds_ite (modFlash_formed hm) (refusedWith_formed (modFlash_formed hm)))

theorem execFlashWrite_formed {h p s} (hm : MemFormed s.m) : NextFormed (execFlashWrite h p s) :=
  runM_formed hm (fun _ g => serve_formed g (fun _ g1 => flashWriteAct_formed g1))

theorem eraseSectors_formed {m hub off count failAt} (hm : MemFormed m) : SndFormed (eraseSectors m hub off count failAt) := by
  dsimp only [eraseSectors]
  split
  · refine holds_ite (SndFormed.mk (modFlash_formed hm)) (SndFormed.mk (modFlash_formed ?_))
    exact freeBytes_formed (modFlash_formed hm)
  · exact SndFormed.mk (modFlash_formed hm)

theorem flashEraseAct_formed {port p failAt m} (hm : MemFormed m) : SndFormed (flashEraseAct port p failAt m) := by
  dsimp only [flashEraseAct]
  exact holds_ite hm (SndFormed.mk (eraseSectors_formed hm))

theorem execFlashErase_formed {h p failAt s} (hm : MemFormed s.m) : NextFormed (execFlashErase h p failAt s) :=
  runM_formed hm (fun _ g => serveAs_formed g (fun _ g1 => flashEraseAct_formed g1))

theorem disarm_formed {m} (hm : MemFormed m) : MemFormed (disarm m) := hm.of_mem (disarm_mem ..)

theorem fuseArmAct_formed {f p m} (hm : MemFormed m) : ThdFormed (fuseArmAct f p m) := by
  dsimp only [fuseArmAct]
  refine holds_ite (refusedWith_formed hm) ?_
  exact holds_ite (refusedWith_formed hm) (holds_ite (refusedWith_formed (disarm_formed hm)) (formed_mk (takeFree_formed hm)))

theorem execFuseArm_formed {h p s} (hm : MemFormed s.m) : NextFormed (execFuseArm h p s) :=
  runM_formed hm (fun _ g => serve_formed g (fun _ g1 => fuseArmAct_formed g1))

theorem confirmAct_formed {p m} (hm : MemFormed m) : SndFormed (confirmAct p m) := by
  dsimp only [confirmAct]
  exact holds_ite hm (holds_ite (disarm_formed hm) (modMode_formed (disarm_formed hm)))

theorem execFuseConfirm_formed {h p s} (hm : MemFormed s.m) : NextFormed (execFuseConfirm h p s) := by
  dsimp only [execFuseConfirm]
  split
  · refine holds_ite ?_ ?_
    · exact next_formed (serveAs_formed hm (fun _ g => confirmAct_formed g))
    · exact next_formed (serveAs_formed hm (fun _ g => confirmAct_formed g))
  · exact next_formed (serveAs_formed hm (fun _ g => confirmAct_formed g))

theorem execFuseArmExpiry_formed {s} (hm : MemFormed s.m) : NextFormed (execFuseArmExpiry s) := by
  dsimp only [execFuseArmExpiry]
  refine runM_formed hm (fun _ g => ?_)
  split
  · exact holds_ite (formed_mk g) g
  · exact g

/-! ## Every command -/

theorem exec_formed {i s} (hm : MemFormed s.m) : NextFormed (exec i s) := by
  dsimp only [exec]
  split
  exacts [execPowerOnReset_formed hm, execMrstNReset_formed hm, execPwrgdAoFall_formed hm, execPwrgdMainFall_formed hm,
    execServiceDomainRelease_formed hm, execBootImageRead_formed hm, execHello_formed hm, execSessionOpen_formed hm, execSessionClose_formed hm,
    execKeepalive_formed hm, execHandoverPrepare_formed hm, execSessionLapse_formed hm, execHandoverTokenExpiry_formed hm, execRegRead_formed hm,
    execRegWrite_formed hm, execTagBulk_formed hm, execStart_formed hm, execModuleReset_formed hm, execHoldEnter_formed hm,
    execHoldEntryComplete_formed hm, execHoldExit_formed hm, execHoldExitComplete_formed hm, execTestEnter_formed hm, execTestExit_formed hm,
    execImagePut_formed hm, execImageLoad_formed hm, execFlashRead_formed hm, execFlashWrite_formed hm, execFlashErase_formed hm,
    execDumpRead_formed hm, execNotifyAnswer_formed hm, execNotifyResend_formed hm, execFuseArm_formed hm, execFuseConfirm_formed hm,
    execFuseArmExpiry_formed hm, execTrainingEnd_formed hm, execVerifyComplete_formed hm, execPatchCheckComplete_formed hm,
    execCheckComplete_formed hm, execPrepareComplete_formed hm, execQuiesceTimeout_formed hm, execSectionApplied_formed hm,
    execReworkComplete_formed hm, execRegisterWrite_formed hm, execReadAndClear_formed hm, execUnitReset_formed hm, execMicrocodeLoad_formed hm,
    execLeaseSettAdd_formed hm, execCrangeClean_formed hm, execCrangeInvalidate_formed hm, execCrangeCleanInvalidate_formed hm,
    execCrangeZero_formed hm, execSetwayClean_formed hm, execSetwayInvalidate_formed hm, execSetwayCleanInvalidate_formed hm,
    execMaintenanceComplete_formed hm, execCacheDisable_formed hm, execCacheEnable_formed hm, execDisablingComplete_formed hm,
    execWayLock_formed hm, execMchRetrain_formed hm, execMchOffline_formed hm, execMchOfflineForce_formed hm, execMchPowerOff_formed hm,
    execMchPowerOn_formed hm, execMchOnline_formed hm, execPathOnline_formed hm, execPathOffline_formed hm, execCpOffline_formed hm,
    execCpOnline_formed hm, execLinkOnline_formed hm, execLinkOffline_formed hm, execCrusherOnline_formed hm, execCrusherOffline_formed hm,
    execCrusherDrained_formed hm, execCipherOnline_formed hm, execCipherOffline_formed hm, execLeaseCreate_formed hm, execLeaseStart_formed hm,
    execLeaseQuiesce_formed hm, execLeaseResume_formed hm, execLeaseReset_formed hm, execLeaseForcedReset_formed hm, execLeaseRemove_formed hm,
    execLeaseCmdReserved_formed hm, execLeasePendingCleared_formed hm, execLeaseSpawn_formed hm, execLeaseTlbInval_formed hm,
    execTlbInvalComplete_formed hm, execChnJrnMove_formed hm, execJournalMoveComplete_formed hm, execChnSumpReplace_formed hm,
    execPcieCfgRead_formed hm, execPcieCfgWrite_formed hm, execTsSet_formed hm, execTsAdj_formed hm, execErrSelect_formed hm,
    execBundleIssue_formed hm, execFetchLineArrival_formed hm, execTranslationComplete_formed hm, execOperationComplete_formed hm,
    execLoadComplete_formed hm, execStoreComplete_formed hm, execAtomicComplete_formed hm, execMacFetchComplete_formed hm,
    execDstkFillComplete_formed hm, execRstkSpillComplete_formed hm, execRstkFillComplete_formed hm, execSaveComplete_formed hm,
    execCxRoutineEnd_formed hm, execMicroTrap_formed hm, execMicroTimingOverrun_formed hm, execRingAnswer_formed hm, execTimerExpiry_formed hm,
    execWaitGraceExpiry_formed hm, execDisplacement_formed hm, execSavingComplete_formed hm, execTaskEnd_formed hm,
    execQueueEntryDispatch_formed hm, execStealProbe_formed hm, execStealCommit_formed hm, execIdleReprobe_formed hm,
    execWaitTableTimer_formed hm, execQueuePlaceFreed_formed hm, execStockRefill_formed hm, execDirtyAgeClean_formed hm, execCacheScrub_formed hm,
    execRds_formed hm, execRdx_formed hm, execUpg_formed hm, execMntc_formed hm, execMnti_formed hm, execMntci_formed hm, execIord_formed hm,
    execIowr_formed hm, execWbm_formed hm, execEve_formed hm, execDone_formed hm, execSnps_formed hm, execSnpx_formed hm, execSnpcln_formed hm,
    execSnpdrop_formed hm, execRspi_formed hm, execRspk_formed hm, execRspd_formed hm, execRspc_formed hm, execRspdo_formed hm,
    execRspcs_formed hm, execRspds_formed hm, execRspde_formed hm, execDatas_formed hm, execDatae_formed hm, execDatam_formed hm,
    execGrantm_formed hm, execWback_formed hm, execWbstale_formed hm, execIodata_formed hm, execIoack_formed hm, execMntack_formed hm,
    execMir_formed hm, execMirrel_formed hm, execMirack_formed hm, execHrReadReturn_formed hm, execHwWriteComplete_formed hm,
    execTenureEnd_formed hm, execSnoopTimeout_formed hm, execHomeLost_formed hm, execTakeoverReport_formed hm, execShareOpen_formed hm,
    execMemRead_formed hm, execMemWrite_formed hm, execCommandTimeout_formed hm, execRebuildRequest_formed hm, execSeamRebuildComplete_formed hm,
    execRetrainDue_formed hm, execRetrainComplete_formed hm, execCatchUpComplete_formed hm, execRefreshDue_formed hm,
    execSelfRefreshExit_formed hm, execRowIdleClose_formed hm, execMemoryScrub_formed hm, execJournalEntryWritten_formed hm,
    execTxnIssue_formed hm, execTxnSent_formed hm, execNvmeCompletion_formed hm, execIssueDeadlineExpiry_formed hm,
    execPartnerWaitExpiry_formed hm, execCompletionWaitExpiry_formed hm, execPathFailure_formed hm, execTxnCompletionRecord_formed hm,
    execSumpSpaceAvailable_formed hm, execEstablishTimeout_formed hm, execPathDrained_formed hm, execNvmeControllerReset_formed hm,
    execNvmeReady_formed hm, execNvmeReadyTimeout_formed hm, execCpFailure_formed hm, execFrameReceive_formed hm, execFrameTransmit_formed hm,
    execCoalesceTimeout_formed hm, execLinkUp_formed hm, execTrainingAttemptTimeout_formed hm, execLinkDown_formed hm, execPauseRepeat_formed hm,
    execPcieDmaRequest_formed hm, execMsixMessage_formed hm, execPcieLinkDown_formed hm, execCapReq_formed hm, execCapReqResend_formed hm,
    execCapRsp_formed hm, execHelarAck_formed hm, execHelarKeepalive_formed hm, execHelarClose_formed hm, execAnswerSegment_formed hm,
    execAckDue_formed hm, execRetransmitTimeout_formed hm, execKeepaliveDue_formed hm, execSilenceTimeout_formed hm, execSlabBoundary_formed hm,
    execCrusherFailure_formed hm, execRecordBoundary_formed hm, execCipherUnitFailure_formed hm, execCtxHalfLoss_formed hm,
    execCtxHalfCopyComplete_formed hm, execEventRelease_formed hm, execEvtBlockTakeover_formed hm, execSpillRecheck_formed hm,
    execPtpSync_formed hm, execPtpFollowUp_formed hm, execPtpAnnounce_formed hm, execPtpDelayResp_formed hm, execPpsEdge_formed hm,
    execDisciplineInputAbsent_formed hm, execTsDistributionPulse_formed hm, execTsMasterTakeover_formed hm, execHeartbeatLoss_formed hm,
    execEngineSparing_formed hm, execBenchLoss_formed hm, execHomeNodeLoss_formed hm, execTileLoss_formed hm, execMeshTransfer_formed hm,
    execServiceCoreLoss_formed hm, execHubLoss_formed hm, execFrequencyDecision_formed hm, execThermalLimitStep_formed hm,
    execThermalTrip_formed hm, execRefclkFailure_formed hm, execRefclkHoldoverExpiry_formed hm, execPwrgdMainRise_formed hm,
    execMchPrsntNChange_formed hm, execChannelTrained_formed hm, execRefclkRecovery_formed hm, execPpsOutputEdge_formed hm,
    execPcieLinkUp_formed hm, execModeMachineUncorrectableError_formed hm, execHubReturn_formed hm, execTapInstruction_formed hm]

/-! ## The step -/

theorem idleTick_formed {s} (hm : MemFormed s.m) : MemFormed (idleTick s).m := by
  dsimp only [idleTick]
  exact runningEnd_formed (holds_ite (resetsEnd_formed (creditsBack_formed (timeTick_formed hm))) (timeTick_formed hm))

theorem step_formed {s} (hm : MemFormed s.m) : NextFormed (step s) := by
  dsimp only [step]
  split
  · exact next_formed (idleTick_formed hm)
  · exact exec_formed hm

/-- Settles O9: every command and the idle tick keep the form, function by function. -/
theorem stepKeepsTheMemoryForm : Obligations.StepKeepsTheMemoryForm := fun _ t formed next => step_formed formed t next

end Sys2Proof.Machine
end

section
/-! What a read of a channel or a seam gives after an update of one of them, and a channel that has nothing to finish (R503, R512). -/

namespace Sys2Proof.Machine

/-! ## Reads after updates -/

section
variable (m : Mach) (c s : Nat)

@[simp] theorem chan_modChan_self (f : Chan → Chan) : chan (modChan m c f) c = f (chan m c) := tget_tset_self ..
@[simp] theorem chan_setUState (k i : Nat) (x : UState) : chan (setUState m k i x) c = chan m c := rfl
@[simp] theorem chan_modSeam (f : Seam → Seam) : chan (modSeam m s f) c = chan m c := rfl
@[simp] theorem chan_emit (o : Out) : chan (emit m o) c = chan m c := rfl
@[simp] theorem seam_modSeam_self (f : Seam → Seam) : seam (modSeam m s f) s = f (seam m s) := tget_tset_self ..
@[simp] theorem seam_modChan (f : Chan → Chan) : seam (modChan m c f) s = seam m s := rfl
@[simp] theorem seam_setUState (k i : Nat) (x : UState) : seam (setUState m k i x) s = seam m s := rfl
@[simp] theorem ustate_setUState_self (k i : Nat) (x : UState) : ustate (setUState m k i x) k i = x := by rw [ustate_setUState, if_pos rfl]
@[simp] theorem ustate_modChan (f : Chan → Chan) (k i : Nat) : ustate (modChan m c f) k i = ustate m k i := rfl

theorem seam_modSeam (k : Nat) (f : Seam → Seam) : seam (modSeam m s f) k = if s = k then f (seam m s) else seam m k := by
  simp [seam, tget_tset]

end

/-- A field of a seam that an update of any seam keeps. -/
theorem seam_modSeam_keeps {α : Type} (field : Seam → α) {f : Seam → Seam} (keeps : ∀ x, field (f x) = field x) (m : Mach) (s k : Nat) :
    field (seam (modSeam m s f) k) = field (seam m k) := by
  rw [seam_modSeam]
  split
  · next e => rw [keeps, e]
  · rfl

/-- The seam that a channel serves turns on the members of the seams alone. -/
theorem seamServed_congr {m m' : Mach} (same : ∀ k, (seam m' k).members = (seam m k).members) (c i : Nat) :
    seamServed m' c i = seamServed m c i := by
  simp only [seamServed, same]

/-! ## What the check for losses leaves of a channel -/

/-- A channel but for its phase. -/
def phaseless (x : Chan) : Chan := { x with phase := .reset }

theorem phaseless_checkStop (m : Mach) (item c : Nat) : phaseless (chan (checkStop m item) c) = phaseless (chan m c) := by
  have recorded (d : Bytes) : chan (raiseErr (takeFree m).2 0x0006 0x0F00 d) c = chan m c := by
    rw [chan, ((takeFree_logged m).trans (raiseErr_logged _ _ _ d)).chans, chan]
  have refreshed (x : Mach) (d : Nat) (p : Phase) : phaseless (chan (setChan x d { chan x d with phase := p }) c) = phaseless (chan x c) := by
    change phaseless (chan (modChan x d (fun y => { y with phase := p })) c) = _
    rw [chan_modChan]
    split
    · next e =>
      subst e
      rfl
    · rfl
  have entered (x : Mach) (st : Mode) (cause : Nat) : chan (enterMode x st cause) c = chan x c := by rw [chan, enterMode_chans, chan]
  have moded (x : Mach) (f : ModeSt → ModeSt) : phaseless (chan (modMode x f) c) = phaseless (chan x c) := rfl
  have ported (x : Mach) (p : Nat) (f : PcieSt → PcieSt) : phaseless (chan (modPcie x p f) c) = phaseless (chan x c) := rfl
  unfold checkStop
  split
  · rfl
  · dsimp only
    split
    · rw [recorded]
    · refine (moded _ _).trans ((congrArg phaseless (entered _ _ _)).trans ?_)
      refine (foldl_keeps (fun x => phaseless (chan x c)) (fun x p => ported x p _) _ _).trans ?_
      refine (foldl_keeps (fun x => phaseless (chan x c)) (fun x d => ?_) _ _).trans ?_
      · split
        · exact refreshed ..
        · rfl
      · rw [chan, (takeStamp_logged _ _).chans, ← chan, recorded]

/-- The check for losses may put a channel into self-refresh, and changes nothing else of it. -/
theorem chan_lossCheck (m : Mach) (c : Nat) : ∃ p, chan (lossCheck m) c = { chan m c with phase := p } := by
  have same : phaseless (chan (lossCheck m) c) = phaseless (chan m c) := by
    unfold lossCheck
    split
    · exact phaseless_checkStop ..
    · rfl
  refine ⟨(chan (lossCheck m) c).phase, ?_⟩
  have back (x : Chan) : { phaseless x with phase := x.phase } = x := rfl
  rw [← back (chan (lossCheck m) c), same]
  rfl

theorem lossCheck_seams (m : Mach) : (lossCheck m).seams = m.seams :=
  lossCheck_blind ⟨fun logged => logged.seams, fun _ _ => rfl, fun _ _ _ => rfl, fun _ _ _ => rfl⟩ m

/-! ## A channel with nothing to finish -/

/-- A subchannel whose queue of reads has been returned while it was empty. -/
def returnedSub (x : SubSt) : SubSt := { x with reads := [], ledgerOut := x.ledgerOut % 2 ^ 32 }

/-- A channel whose queues have been returned while they were empty. -/
def returnedChan (x : Chan) : Chan := { x with sub0 := returnedSub x.sub0, sub1 := returnedSub x.sub1 }

theorem modChan_modChan (m : Mach) (c : Nat) (f g : Chan → Chan) : modChan (modChan m c f) c g = modChan m c (fun x => g (f x)) := by
  have twice (t : Tbl Chan) (x y : Chan) : tset (tset t c x) c y = tset t c y := by
    induction t with
    | nil => simp [tset]
    | cons p r ih =>
      simp only [tset]
      split
      · next e => simp [tset]
      · next e => simp [tset, e, ih]
  rw [modChan, chan_modChan_self, modChan, modChan, setChan, setChan, setChan, twice]

/-- Nothing is returned of a quiet channel but its empty queues. -/
theorem drainChan_of_quiet {m : Mach} {c : Nat} (quiet : Quiet m c) : drainChan m c = modChan m c returnedChan := by
  obtain ⟨reads0, reads1, writes⟩ := quiet
  have unwritten : m.mem.writes.foldl
      (fun m w => if w.left.any (fun e => e.1 / 2 == c) then dropPieces m w (fun e => e.1 / 2 != c) else m) m = m := by
    refine foldl_idle fun w h => if_neg ?_
    simpa using fun a b h' => writes w h (a, b) h'
  have half0 : 2 * c / 2 = c := by omega
  have half1 : (2 * c + 1) / 2 = c := by omega
  rw [drainChan, unwritten]
  simp only [List.foldl_cons, List.foldl_nil, Nat.add_zero, modSub, half0, half1, Nat.mul_add_mod, Nat.one_mod, subOf, setSub,
    if_true, chan_modChan_self, reads0, reads1, Nat.one_ne_zero, if_false, List.length_nil, modChan_modChan]
  rfl

/-- The channel as its retraining begins, with nothing to return. -/
def retrained (x : Chan) : Chan := returnedChan { x with phase := .retraining, oldLanes := x.lanes, dueSince := none }

/-- The retraining of a quiet channel begins: its seams catch up, and its old lane settings are kept. -/
theorem startRetrain_of_quiet {m : Mach} {c : Nat} (quiet : Quiet m c) :
    ∃ seams, startRetrain m c = modChan { m with seams := seams } c retrained := by
  have seamsAlone (l : List Nat) : ∀ m : Mach, ∃ seams, l.foldl (fun m s => modSeam m s (fun x =>
      { x with st := .catchUp, missing := some ((seam m s).members.findIdx (fun cs => cs / 2 == c)), map := [], sweep := none })) m =
        { m with seams := seams } := by
    induction l with
    | nil => exact fun m => ⟨m.seams, rfl⟩
    | cons s l ih =>
      intro m
      obtain ⟨seams, e⟩ := ih (modSeam m s _)
      exact ⟨seams, e⟩
  obtain ⟨seams, caught⟩ := seamsAlone (chanSeams m c) m
  refine ⟨seams, ?_⟩
  have still : Quiet (modChan { m with seams := seams } c (fun x => { x with phase := .retraining, oldLanes := x.lanes, dueSince := none })) c := by
    obtain ⟨reads0, reads1, writes⟩ := quiet
    exact ⟨by rw [chan_modChan_self]; exact reads0, by rw [chan_modChan_self]; exact reads1, writes⟩
  rw [startRetrain, caught, drainChan_of_quiet still, modChan_modChan]
  rfl

end Sys2Proof.Machine
end

section
/-! The command register of a memory channel (R510, R511, R536, R537). -/

namespace Sys2Proof.Machine

/-! ## One command at a time -/

/-- What every command of `MCH_CMD` leaves: its code, and whether it was taken. -/
def cmdEnds (code r : Nat) (x : Chan) : Chan := { x with lastCmd := code, cmdResult := r }

/-- The channel is out of service. -/
def chanOffline (m : Mach) (c : Nat) : Mach := modChan m c (fun x => { x with offline := true })

section
variable (m : Mach) (c : Nat)

/-- A member channel in service, which its seams can lose. -/
def memberServes : Prop :=
  chanSeams m c ≠ [] ∧ (chan m c).role = 1 ∧ (chan m c).offline = false ∧ (chan m c).draining = false ∧ (chan m c).phase ≠ .failed ∧
    (chan m c).phase ≠ .poweredOff

theorem mchCmd_retrain : mchCmd m c 1 =
    if !retrainOk m c || (retrainSeamsOk m c && !noneRetrains m c) then modChan m c (cmdEnds 1 1)
    else if !retrainSeamsOk m c then modChan m c (cmdEnds 1 2)
    else modChan (startRetrain m c) c (cmdEnds 1 0) := rfl

theorem mchCmd_offline_spare (role : (chan m c).role = 2) (here : (chan m c).offline = false)
    (runs : (chan m c).phase = .running ∨ (chan m c).phase = .selfRefresh) :
    mchCmd m c 2 = modChan (setUState (chanOffline m c) 0x04 c .offline) c (cmdEnds 2 0) :=
  if_pos ⟨role, here, runs⟩

theorem mchCmd_force (serves : memberServes m c) (complete : (chanSeams m c).all (fun s => (seam m s).st == .complete) = true) :
    mchCmd m c 3 = modChan (setUState (drainChan (channelGone (chanOffline m c) c none) c) 0x04 c .offline) c (cmdEnds 3 0) :=
  (if_pos serves).trans (if_pos complete)

theorem mchCmd_powerOff : mchCmd m c 4 =
    if (chan m c).powered ∧ ((chan m c).offline ∨ (chan m c).phase = .failed) then
      modChan (emit (modChan m c (fun x => { x with phase := .poweredOff, powered := false, trained := false, offline := true }))
        (.land (6800 + 2 * c) false)) c (cmdEnds 4 0)
    else modChan m c (cmdEnds 4 1) := rfl

theorem mchCmd_powerOn : mchCmd m c 5 =
    if !(chan m c).powered && (chan m c).phase == .poweredOff then
      if (chan m c).present && decide ((chan m c).presentSince + 100000000 ≤ m.now) then
        modChan (emit (modChan m c (fun x => { x with powered := true, phase := .training, pwrOnAt := m.now })) (.land (6800 + 2 * c) true)) c
          (cmdEnds 5 0)
      else modChan m c (cmdEnds 5 4)
    else modChan m c (cmdEnds 5 1) := rfl

theorem mchCmd_online : mchCmd m c 6 =
    if (chan m c).offline ∧ (chan m c).powered ∧ (chan m c).trained ∧ (chan m c).phase ≠ .failed ∧ (chan m c).phase ≠ .training then
      modChan (becomeSpare m c) c (cmdEnds 6 0)
    else modChan m c (cmdEnds 6 1) := rfl

end

/-! ## Refused commands -/

section
variable {i : Instr} {s : State} {a : Actor} {c : ChanId} {code : Nat}

theorem mchWrite_next (e : exec i s = mchWrite a c code s) (may : Writable s.m a 0x04 c.val) :
    exec i s = .next { s with m := mchCmd s.m c.val code } :=
  ctlWrite_next e may

theorem completes_mchWrite {P : Mach → Prop} (e : exec i s = mchWrite a c code s) (may : Writable s.m a 0x04 c.val)
    (q : P (mchCmd s.m c.val code)) : Completes i s P :=
  completes_ctlWrite e may q

end

/-- Settles O18: each command by the condition that fails first. -/
theorem channelCommandsRefused : Obligations.ChannelCommandsRefused := by
  intro s a c may
  dsimp only
  refine ⟨fun bad => ?_, fun ok seams => ?_, fun seams other => ?_, fun off => ?_, fun off phase gone => ?_, fun on => ?_, fun untrained => ?_⟩
  · rw [mchWrite_next rfl may, mchCmd_retrain, if_pos (by simp [bad])]
    rfl
  · rw [mchWrite_next rfl may, mchCmd_retrain, if_neg (by simp [ok, seams]), if_pos (by simp [seams])]
    rfl
  · rw [mchWrite_next rfl may, mchCmd_retrain, if_pos (by simp [seams, other])]
    rfl
  · rw [mchWrite_next rfl may, mchCmd_powerOff, if_neg fun h => absurd h.1 (by simp [off])]
    rfl
  · rw [mchWrite_next rfl may, mchCmd_powerOn, if_pos (by simp [off, phase]), if_neg (by simp [gone])]
    rfl
  · rw [mchWrite_next rfl may, mchCmd_powerOn, if_neg (by simp [on])]
    rfl
  · rw [mchWrite_next rfl may, mchCmd_online, if_neg fun h => absurd h.2.2.1 (by simp [untrained])]
    rfl

/-! ## Accepted commands -/

/-- No seam waits for a spare: a channel that becomes one changes no seam. -/
theorem offerSpare_of_none {m : Mach} (c : Nat) (none_ : ∀ q, q < 4 → (seam m q).st ≠ .degraded) : offerSpare m c = m := by
  have needs : (List.range 4).filter (fun s => (seam m s).st == .degraded) = [] := by simpa using none_
  simp only [offerSpare, needs]

section
variable {s : State} {a : Actor} {c : ChanId} (may : Writable s.m a 0x04 c.val)
include may

theorem mchRetrain_completes (ok : retrainOk s.m c.val = true) (seamsOk : retrainSeamsOk s.m c.val = true) (alone : noneRetrains s.m c.val = true)
    (quiet : Quiet s.m c.val) : Completes (.mchRetrain a c) s (fun m => (chan m c.val).phase = .retraining ∧ (chan m c.val).lastCmd = 1 ∧
      (chan m c.val).cmdResult = 0 ∧ (chan m c.val).oldLanes = (chan s.m c.val).lanes ∧ m.mem.cells = s.m.mem.cells) := by
  obtain ⟨seams, begun⟩ := startRetrain_of_quiet quiet
  refine completes_mchWrite rfl may ?_
  rw [mchCmd_retrain, if_neg (by simp [ok, alone]), if_neg (by simp [seamsOk]), begun, modChan_modChan]
  simp only [chan_modChan_self]
  exact ⟨rfl, rfl, rfl, rfl, rfl⟩

theorem mchOffline_completes (role : (chan s.m c.val).role = 2) (here : (chan s.m c.val).offline = false)
    (runs : (chan s.m c.val).phase = .running ∨ (chan s.m c.val).phase = .selfRefresh) :
    Completes (.mchOffline a c) s (fun m => (chan m c.val).offline = true ∧ (chan m c.val).cmdResult = 0 ∧ (chan m c.val).lastCmd = 2 ∧
      ustate m 0x04 c.val = .offline ∧ m.seams = s.m.seams ∧ m.mem = s.m.mem) := by
  refine completes_ctlWrite (off := 0x0100) rfl may ?_
  dsimp only
  rw [mchCmd_offline_spare _ _ role here runs]
  split
  · obtain ⟨p, rule⟩ := chan_lossCheck (modChan (setUState (chanOffline s.m c.val) 0x04 c.val .offline) c.val (cmdEnds 2 0)) c.val
    rw [rule, (lossCheck_stopKeeps _).ustate, lossCheck_seams, lossCheck_mem, chan_modChan_self, ustate_modChan, ustate_setUState_self]
    simp [cmdEnds, chanOffline]
  · simp [cmdEnds, chanOffline]

theorem mchPowerOff_completes (on : (chan s.m c.val).powered = true) (out : (chan s.m c.val).offline = true ∨ (chan s.m c.val).phase = .failed) :
    Completes (.mchPowerOff a c) s (fun m => (chan m c.val).phase = .poweredOff ∧ (chan m c.val).powered = false ∧
      (chan m c.val).offline = true ∧ (chan m c.val).cmdResult = 0 ∧ m.out = s.m.out ++ [.land (6800 + 2 * c.val) false] ∧
      m.mem = s.m.mem) := by
  refine completes_mchWrite rfl may ?_
  rw [mchCmd_powerOff, if_pos ⟨on, out⟩]
  simp [cmdEnds]

theorem mchPowerOn_completes (off : (chan s.m c.val).powered = false) (phase : (chan s.m c.val).phase = .poweredOff)
    (filled : (chan s.m c.val).present = true) (since : (chan s.m c.val).presentSince + 100000000 ≤ s.m.now) :
    Completes (.mchPowerOn a c) s (fun m => (chan m c.val).phase = .training ∧ (chan m c.val).powered = true ∧ (chan m c.val).cmdResult = 0 ∧
      m.out = s.m.out ++ [.land (6800 + 2 * c.val) true] ∧ m.mem = s.m.mem) := by
  refine completes_mchWrite rfl may ?_
  rw [mchCmd_powerOn, if_pos (by simp [off, phase]), if_pos (by simp [filled, since])]
  simp [cmdEnds]

theorem mchOnline_completes (out : (chan s.m c.val).offline = true) (on : (chan s.m c.val).powered = true) (fit : (chan s.m c.val).trained = true)
    (phase : (chan s.m c.val).phase = .selfRefresh) (none_ : ∀ q, q < 4 → (seam s.m q).st ≠ .degraded) :
    Completes (.mchOnline a c) s (fun m => (chan m c.val).role = 2 ∧ (chan m c.val).offline = false ∧ (chan m c.val).cmdResult = 0 ∧
      ustate m 0x04 c.val = .spare ∧ m.seams = s.m.seams ∧ m.mem = s.m.mem) := by
  refine completes_mchWrite rfl may ?_
  rw [mchCmd_online, if_pos ⟨out, on, fit, by simp [phase], by simp [phase]⟩, becomeSpare, offerSpare_of_none _ (by simpa using none_)]
  simp [cmdEnds]

end

/-! ## A member taken out without a spare (R510) -/

/-- A seam that has lost a position and has no spare to rebuild onto. -/
def degradedAt (p : Nat) (x : Seam) : Seam := { x with st := .degraded, missing := some p, map := [], sweep := none }

/-- A channel that serves one Complete seam, and is no rebuild target, goes without a spare: that seam is Degraded. -/
theorem channelGone_of_one_seam {m : Mach} {c q : Nat} (small : q < 4) (first : seamServed m c 0 = q) (second : seamServed m c 1 = 0xF)
    (complete : (seam m q).st = .complete) (target : ∀ k, k < 4 → (seam m k).target ≠ some c) :
    channelGone m c none = modSeam m q (degradedAt (memberPos m q (2 * c))) := by
  have loses : seamLoses m q (memberPos m q (2 * c)) none = modSeam m q (degradedAt (memberPos m q (2 * c))) := by
    simp only [seamLoses, complete]
    rfl
  have still : seamServed (modSeam m q (degradedAt (memberPos m q (2 * c)))) c 1 = 0xF := by
    rw [seamServed_congr (seam_modSeam_keeps Seam.members (f := degradedAt _) (fun _ => rfl) m q), second]
  have other : (List.range 4).foldl (fun m s =>
      let x := seam m s
      if x.st = .rebuilding ∧ x.target = some c then modSeam m s (fun x => { x with st := .degraded, target := none }) else m)
      (modSeam m q (degradedAt (memberPos m q (2 * c)))) = modSeam m q (degradedAt (memberPos m q (2 * c))) := by
    refine foldl_idle fun k h => if_neg fun h' => target k (List.mem_range.mp h) ?_
    rw [← h'.2, seam_modSeam_keeps Seam.target (f := degradedAt _) (fun _ => rfl) m q]
  rw [channelGone, List.foldl_cons, List.foldl_cons, List.foldl_nil]
  simp only [first, Nat.add_zero, if_neg (show q ≠ 0xF by omega), loses, still, if_true, other]

theorem mchOfflineForce_completes {s : State} {a : Actor} {c : ChanId} {q : SeamId} (may : Writable s.m a 0x04 c.val)
    (role : (chan s.m c.val).role = 1) (here : (chan s.m c.val).offline = false) (still : (chan s.m c.val).draining = false)
    (phase : (chan s.m c.val).phase = .running) (quiet : Quiet s.m c.val) (first : seamServed s.m c.val 0 = q.val)
    (second : seamServed s.m c.val 1 = 0xF) (complete : (seam s.m q.val).st = .complete)
    (target : ∀ k, k < 4 → (seam s.m k).target ≠ some c.val) :
    Completes (.mchOfflineForce a c) s (fun m => (chan m c.val).offline = true ∧ (chan m c.val).cmdResult = 0 ∧ (chan m c.val).lastCmd = 3 ∧
      ustate m 0x04 c.val = .offline ∧ (seam m q.val).st = .degraded ∧ (seam m q.val).missing = some (memberPos s.m q.val (2 * c.val)) ∧
      m.mem.cells = s.m.mem.cells) := by
  have served : chanSeams s.m c.val = [q.val] := by
    have real : q.val ≠ 0xF := by omega
    simp [chanSeams, first, second, real]
  have member : memberServes s.m c.val := ⟨by simp [served], role, here, still, by simp [phase], by simp [phase]⟩
  have gone : channelGone (chanOffline s.m c.val) c.val none = modSeam (chanOffline s.m c.val) q.val (degradedAt (memberPos s.m q.val (2 * c.val))) :=
    channelGone_of_one_seam (m := chanOffline s.m c.val) q.isLt first second complete target
  have idle : Quiet (modSeam (chanOffline s.m c.val) q.val (degradedAt (memberPos s.m q.val (2 * c.val)))) c.val := by
    obtain ⟨reads0, reads1, writes⟩ := quiet
    exact ⟨by simpa [chanOffline] using reads0, by simpa [chanOffline] using reads1, writes⟩
  refine completes_mchWrite rfl may ?_
  rw [mchCmd_force _ _ member (by simp [served, complete]), gone, drainChan_of_quiet idle]
  simp [cmdEnds, degradedAt, returnedChan, chanOffline]

/-- Settles O17: each command by its conditions, with what it leaves. -/
theorem channelCommandsAccepted : Obligations.ChannelCommandsAccepted := by
  refine ⟨fun s a c may => ⟨?_, ?_, ?_, ?_, ?_⟩, ?_⟩
  · exact mchRetrain_completes may
  · exact mchOffline_completes may
  · exact mchPowerOff_completes may
  · exact mchPowerOn_completes may
  · exact mchOnline_completes may
  · exact fun _ _ _ _ => mchOfflineForce_completes

end Sys2Proof.Machine
end

section
/-! MEM_WRITE: a piece is written, and with the last one its line stands in memory (R498, R502, R523, R525). -/

namespace Sys2Proof.Machine

/-! ## Memory after a line is written -/

/-- A line written has the poison mark that it was written with. -/
theorem memPut_poisoned_contains (x : Memory) (n : Nat) (d : Line) (p : Bool) : (memPut x n d p).poisoned.contains n = p := by
  rw [memPut_poisoned]
  cases p with
  | true => simp [insNat_mem]
  | false => simp

/-! ## Pieces that leave a write -/

theorem writeLeft_mem (m : Mach) (cs : Nat) : (writeLeft m cs).mem = m.mem := rfl
theorem writeLeft_l2 (m : Mach) (cs : Nat) : (writeLeft m cs).l2 = m.l2 := rfl
theorem writeLeft_homes (m : Mach) (cs : Nat) : (writeLeft m cs).homes = m.homes := rfl

section
variable (m : Mach) (w : WReq) (keep : Nat × PReq → Bool)

/-- The machine once the pieces have left the write, before the subchannels count them. -/
def piecesGone : Mach :=
  if (w.left.filter keep).isEmpty then writeSettled m w
  else { m with mem := { m.mem with writes := m.mem.writes.map (fun x => if x = w then { w with left := w.left.filter keep } else x) } }

/-- Counting the pieces changes neither memory nor a cache. -/
theorem dropPieces_keeps : (dropPieces m w keep).mem = (piecesGone m w keep).mem ∧ (dropPieces m w keep).l2 = m.l2 ∧
    (dropPieces m w keep).homes = m.homes := by
  have counted {α : Type} (view : Mach → α) (step : ∀ x cs, view (writeLeft x cs) = view x) :
      view (dropPieces m w keep) = view (piecesGone m w keep) :=
    foldl_keeps view (f := fun x (e : Nat × PReq) => writeLeft x e.1) (fun x e => step x e.1) _ _
  refine ⟨counted Mach.mem writeLeft_mem, (counted Mach.l2 writeLeft_l2).trans ?_, (counted Mach.homes writeLeft_homes).trans ?_⟩
  all_goals
    unfold piecesGone
    split
    · simp only [writeSettled]
    · rfl

theorem dropPieces_mem_last (last : w.left.filter keep = []) :
    (dropPieces m w keep).mem = { memPut m.mem w.n w.data w.poison with writes := m.mem.writes.erase w } := by
  rw [(dropPieces_keeps m w keep).1, piecesGone, if_pos (by simp [last]), writeSettled]

theorem dropPieces_mem_more (more : w.left.filter keep ≠ []) : (dropPieces m w keep).mem =
    { m.mem with writes := m.mem.writes.map (fun x => if x = w then { w with left := w.left.filter keep } else x) } := by
  rw [(dropPieces_keeps m w keep).1, piecesGone, if_neg (by simpa using more)]

end

/-! ## A subchannel serves the write that it chooses -/

section
variable {m : Mach} {c i : Nat} {r : PReq} (serves : chanServes m c = true) (writes : servesWrites m c i = true) (choice : chooseWrite m c i = some r)
include serves writes choice

theorem serveWrite_parity : serveWrite m c i true = caParityError m c := by
  simp [serveWrite, serves, writes, choice]

theorem serveWrite_piece {w : WReq} (found : m.mem.writes.find? (fun q => q.left.any (fun e => e.1 == 2 * c + i && e.2 == r)) = some w) :
    serveWrite m c i false = dropPieces (touchRow (answered m c) c i r) w (fun e => e.1 != 2 * c + i || e.2 != r) := by
  simp [serveWrite, serves, writes, choice, found]

end

theorem touchRow_answered_mem (m : Mach) (c i : Nat) (r : PReq) : (touchRow (answered m c) c i r).mem = m.mem := rfl

/-- Fewer than sixteen parity errors in a row are counted and no more. -/
theorem caParityError_of_few {m : Mach} {c : Nat} (few : (chan m c).caParity < 15) :
    caParityError m c = modChan m c (fun x => { x with caErrors := sat 0xFFFF (x.caErrors + 1), caParity := x.caParity + 1 }) := by
  rw [caParityError, if_neg]
  rw [chan_modChan_self]
  change ¬ 16 ≤ (chan m c).caParity + 1
  omega

/-- Settles O19: by what is left of the write, once the chosen piece has left it. -/
theorem memWriteStoresItsLine : Obligations.MemWriteStoresItsLine := by
  intro s c i r w runs formed serves writes choice found rest
  have piece := serveWrite_piece serves writes choice found
  obtain ⟨_, l2, homes⟩ := dropPieces_keeps (touchRow (answered s.m c.val) c.val i.val r) w (fun e => e.1 != 2 * c.val + i.val || e.2 != r)
  refine ⟨fun last => ?_, fun more => ?_, fun few => ?_⟩
  · refine completes_runMesh (exec_memWrite ..) runs ?_
    rw [if_neg Bool.false_ne_true, piece, dropPieces_mem_last _ _ _ last, touchRow_answered_mem]
    dsimp only
    exact ⟨fun j small => memPut_inside _ _ _ _ _ formed small, fun k out => memPut_outside _ _ _ _ _ formed out,
      memPut_poisoned_contains .., rfl, memory_mk (memPut_wf _ _ _ _ formed), l2, homes⟩
  · refine completes_runMesh (exec_memWrite ..) runs ?_
    rw [if_neg Bool.false_ne_true, piece, dropPieces_mem_more _ _ _ more, touchRow_answered_mem]
    exact ⟨rfl, l2, homes⟩
  · refine completes_runMesh (exec_memWrite ..) runs ?_
    obtain ⟨p, rule⟩ := chan_lossCheck (caParityError s.m c.val) c.val
    rw [if_pos rfl, serveWrite_parity serves writes choice, rule, lossCheck_mem, caParityError_of_few few, chan_modChan_self]
    exact ⟨rfl, rfl⟩

end Sys2Proof.Machine
end

section
/-! Events of memory channels and seams (R502, R504, R507, R511, R513, R519, R521, R526 to R530). -/

namespace Sys2Proof.Machine

@[simp] theorem endRecovery_seams (m : Mach) (f : FaultEv) : (endRecovery m f).seams = m.seams := rfl
@[simp] theorem endRecovery_mem (m : Mach) (f : FaultEv) : (endRecovery m f).mem = m.mem := rfl

/-! ## Seams: rebuild and catch-up (R504, R507, R513) -/

section
variable {m : Mach} {k : Nat}

/-- A line that no home serves is rebuilt, and the watermark moves past it. -/
theorem rebuildRequest_of_free (st : (seam m k).st = .rebuilding) (target : (seam m k).target = none) (more : (seam m k).w < m.mem.lines)
    (free : tfind (home m (homeOf m (lineOfSeam k (seam m k).w))).txns (lineOfSeam k (seam m k).w) = none) :
    rebuildRequest m k none = modSeam m k (fun y => { y with w := (seam m k).w + 1 }) := by
  simp [rebuildRequest, rebuilds, st, target, free, Nat.not_le.mpr more]

/-- The seam once the spare channel `t` has the position `p`. -/
def rebuiltSeam (p t : Nat) (x : Seam) : Seam :=
  { x with st := .complete, members := lset x.members p (2 * t + x.members.getD p 0 % 2), missing := none, target := none }

theorem seamRebuilt_of_done {p t : Nat} (st : (seam m k).st = .rebuilding) (done : m.mem.lines ≤ (seam m k).w)
    (missing : (seam m k).missing = some p) (target : (seam m k).target = some t) :
    seam (seamRebuilt m k) k = rebuiltSeam p t (seam m k) ∧ (seamRebuilt m k).mem = m.mem := by
  have rule : (seamRebuilt m k).seams = (modSeam m k (rebuiltSeam p t)).seams ∧ (seamRebuilt m k).mem = m.mem := by
    rw [seamRebuilt, if_neg (by simp [st, done]), missing, target]
    refine holds_ite (P := fun x : Mach => x.seams = (modSeam m k (rebuiltSeam p t)).seams ∧ x.mem = m.mem) ?_ ?_
    all_goals
      simp only [setUState_seams, modChan_seams, endRecovery_seams, List.foldl_cons, List.foldl_nil, setUState_mem, modChan_mem, endRecovery_mem]
      exact ⟨rfl, rfl⟩
  obtain ⟨seams, mem⟩ := rule
  refine ⟨?_, mem⟩
  rw [seam, seams, ← seam, seam_modSeam_self]

/-- The seam once its catch-up has ended. -/
def caughtUp (x : Seam) : Seam := { x with st := .complete, missing := none, map := [], sweep := none }

theorem catchUpComplete_of_done (st : (seam m k).st = .catchUp) (swept : (seam m k).sweep.isSome = true) (clear : (seam m k).map = []) :
    seam (catchUpComplete m k) k = caughtUp (seam m k) ∧ (catchUpComplete m k).mem = m.mem := by
  have begun : (seam m k).sweep ≠ none := fun e => by simp [e] at swept
  have rule : (catchUpComplete m k).seams = (modSeam m k caughtUp).seams ∧ (catchUpComplete m k).mem = m.mem := by
    rw [catchUpComplete, if_neg (by simp [st, begun, clear])]
    exact holds_ite (P := fun x : Mach => x.seams = (modSeam m k caughtUp).seams ∧ x.mem = m.mem) ⟨rfl, rfl⟩ ⟨rfl, rfl⟩
  obtain ⟨seams, mem⟩ := rule
  refine ⟨?_, mem⟩
  rw [seam, seams, ← seam, seam_modSeam_self]

end

theorem lset_getD_self {l : List Nat} {p : Nat} (h : p < l.length) (v : Nat) : (lset l p v).getD p 0 = v := by
  simp [lset, h]

/-! ## Retraining (R513, R521) -/

section
variable {m : Mach} {c : Nat}

/-- The channel's temperature has been read, and its retraining is due since `due`. -/
def measured (temp : Nat) (due : Option Nat) (x : Chan) : Chan := { x with temp := temp, dueSince := due }

@[simp] theorem chanFlag_modChan (d i : Nat) (f : Chan → Chan) : chanFlag (modChan m d f) c i = chanFlag m c i := rfl

/-- Since when the retraining is due by the temperature alone. -/
def driftedSince (m : Mach) (c temp : Nat) : Option Nat :=
  if retrainDrift m c < max temp (chan m c).tempAtTrain - min temp (chan m c).tempAtTrain then some ((chan m c).dueSince.getD m.now) else none

/-- The machine once the temperature has been read. -/
def tempRead (m : Mach) (c temp : Nat) : Mach := modChan m c (measured temp (driftedSince m c temp))

theorem chan_tempRead (temp : Nat) : chan (tempRead m c temp) c = measured temp (driftedSince m c temp) (chan m c) := chan_modChan_self ..

theorem retrainDue_of_not_due {temp : Nat} (notDue : dueFrom (tempRead m c temp) c = none) : retrainDue m c temp = tempRead m c temp := by
  rw [retrainDue]
  dsimp only
  split
  · rfl
  · next t e => exact absurd (notDue.symm.trans e) nofun

/-- Within the drift limit, and without an interval, nothing is due. -/
theorem retrainDue_within (manual : chanFlag m c 1 = false) {temp : Nat} (below : temp ≤ (chan m c).tempAtTrain + retrainDrift m c)
    (above : (chan m c).tempAtTrain ≤ temp + retrainDrift m c) : retrainDue m c temp = modChan m c (measured temp none) := by
  have within : driftedSince m c temp = none := if_neg (by omega)
  have notDue : dueFrom (tempRead m c temp) c = none := by
    simp [dueFrom, tempRead, manual, measured, within]
  rw [retrainDue_of_not_due notDue, tempRead, within]

/-- A retraining that is due, allowed, and due longest begins. -/
theorem retrainDue_of_longest {temp t : Nat} (due : dueFrom (tempRead m c temp) c = some t) (may : mayRetrain (tempRead m c temp) c = true)
    (others : ∀ d, d < 12 → d ≠ c → dueFrom (tempRead m c temp) d = none) : retrainDue m c temp = startRetrain (tempRead m c temp) c := by
  have longest : (List.range 12).all (fun d => d == c || !mayRetrain (tempRead m c temp) d ||
      (match dueFrom (tempRead m c temp) d with | none => true | some u => decide (t < u) || (t == u && decide (c < d)))) = true := by
    refine List.all_eq_true.mpr fun d h => ?_
    by_cases same : d = c
    · simp [same]
    · simp [others d (List.mem_range.mp h) same]
  rw [retrainDue]
  dsimp only
  split
  · next e => exact absurd (due.symm.trans e) nofun
  · next u e =>
    obtain rfl : t = u := Option.some.inj (due.symm.trans e)
    exact if_pos (Bool.and_eq_true_iff.mpr ⟨may, longest⟩)

/-- The reading changes nothing on which the permission to retrain turns. -/
theorem mayRetrain_tempRead (temp : Nat) : mayRetrain (tempRead m c temp) c = mayRetrain m c := by
  have fits : retrainOk (tempRead m c temp) c = retrainOk m c := by simp [retrainOk, chanGone, tempRead, measured]
  have phase (d : Nat) : (chan (tempRead m c temp) d).phase = (chan m d).phase := by
    rw [tempRead, chan_modChan]
    split
    · next e => rw [← e, measured]
    · rfl
  have alone : noneRetrains (tempRead m c temp) c = noneRetrains m c := by simp only [noneRetrains, phase]
  rw [mayRetrain, fits, alone]
  rfl

theorem dueFrom_tempRead_other {d : Nat} (other : d ≠ c) (temp : Nat) : dueFrom (tempRead m c temp) d = dueFrom m d := by
  have same : chan (tempRead m c temp) d = chan m d := by rw [tempRead, chan_modChan, if_neg (Ne.symm other)]
  rw [dueFrom, same]
  rfl

/-- Beyond the drift limit the retraining is due. -/
theorem dueFrom_tempRead_of_drift {temp : Nat} (drift : retrainDrift m c + (chan m c).tempAtTrain < temp) :
    ∃ t, dueFrom (tempRead m c temp) c = some t := by
  have since : (chan (tempRead m c temp) c).dueSince = some ((chan m c).dueSince.getD m.now) := by
    rw [tempRead, chan_modChan_self]
    exact if_pos (by omega)
  rw [dueFrom, since]
  split
  · exact ⟨_, rfl⟩
  · exact ⟨_, rfl⟩

/-- Beyond the drift limit a quiet channel that may retrain does, where no other is due. -/
theorem retrainDue_beyond {temp : Nat} (may : mayRetrain m c = true) (drift : retrainDrift m c + (chan m c).tempAtTrain < temp) (quiet : Quiet m c)
    (others : ∀ d, d < 12 → d ≠ c → dueFrom m d = none) :
    ∃ seams, retrainDue m c temp = modChan { tempRead m c temp with seams := seams } c retrained := by
  obtain ⟨t, due⟩ := dueFrom_tempRead_of_drift drift
  have still : Quiet (tempRead m c temp) c := by
    obtain ⟨reads0, reads1, writes⟩ := quiet
    exact ⟨by simpa [tempRead, measured] using reads0, by simpa [tempRead, measured] using reads1, writes⟩
  rw [retrainDue_of_longest due ((mayRetrain_tempRead temp).trans may) fun d small other =>
    (dueFrom_tempRead_other other temp).trans (others d small other)]
  exact startRetrain_of_quiet still

/-- A member without a seam has retrained well: it runs with its new lanes. -/
theorem retrainComplete_alone {lanes : List Lane} (phase : (chan m c).phase = .retraining) (good : lanesOk lanes = true) (seams : chanSeams m c = [])
    (role : (chan m c).role = 1) : retrainComplete m c lanes = modChan m c (fun x => { x with
      lanes := lanes, oldLanes := [], retrainings := sat 0xFFFF (x.retrainings + 1), lastTrain := m.now, tempAtTrain := x.temp,
      phase := .running }) := by
  rw [retrainComplete, if_neg (by simp [phase]), if_neg (by simp [good]), seams]
  simp [role]

end

/-! ## Commands of a channel (R502, R511, R519, R526 to R530) -/

section
variable {m : Mach} {c : Nat}

/-- A row that has been idle is closed. -/
theorem rowIdleClose_of_idle {i bank : Nat} {e : Nat × Nat} (open_ : tfind (subOf (chan m c) i).openRows bank = some e)
    (idle : e.2 + rowIdleNs m c ≤ m.now) :
    rowIdleClose m c i bank = modSub m (2 * c + i) (fun x => { x with openRows := tdel x.openRows bank }) := by
  simp [rowIdleClose, open_, idle]

theorem subOf_modSub {i : Nat} (small : i < 2) (f : SubSt → SubSt) :
    subOf (chan (modSub m (2 * c + i) f) c) i = f (subOf (chan m c) i) := by
  have ch : (2 * c + i) / 2 = c := by omega
  have sub : (2 * c + i) % 2 = i := by omega
  rw [modSub, ch, sub, chan_modChan_self]
  simp only [subOf, setSub]
  split <;> rfl

/-- A corrected error of a line that the channel holds is counted. -/
theorem memoryScrub_corrected {n : Nat} {cs : Nat × Nat} (serves : chanServes m c = true) (inside : n < memLines m) (held : lineGone m n = false)
    (piece : (lineSubs m n).find? (fun q => q.2 / 2 == c) = some cs) :
    memoryScrub m c n .corrected = pieceCorrected m c (cs.2 % 2) n := by
  simp [memoryScrub, serves, held, piece, Nat.not_le.mpr inside]

theorem chan_pieceCorrected (sub n : Nat) :
    chan (pieceCorrected m c sub n) c = { chan m c with corrected := sat 0xFFFF ((chan m c).corrected + 1) } := by
  rw [pieceCorrected, chan, (raiseErrD_logged ..).chans, ← chan, chan_modChan_self]

theorem pieceCorrected_mem (sub n : Nat) : (pieceCorrected m c sub n).mem = m.mem := (raiseErrD_logged ..).mem

/-- The channel once a training that POWER_ON began has ended. -/
def poweredTrained (m : Mach) (c : Nat) (r : ChanTrain) : Mach :=
  modChan (applyTraining m c r) c (fun x => { x with phase := if x.trained then .running else .failed, offline := true })

theorem chan_poweredTrained (r : ChanTrain) : chan (poweredTrained m c r) c = { chan (applyTraining m c r) c with
    phase := if (chan (applyTraining m c r) c).trained then .running else .failed, offline := true } := chan_modChan_self ..

theorem not_training_of_unitsRun (run : unitsRun m = true) : m.mode.st ≠ .training := by
  intro e
  simp [unitsRun, e] at run

theorem chan_applyTraining_kept (r : ChanTrain) :
    (chan (applyTraining m c r) c).lanes = r.lanes ∧ (chan (applyTraining m c r) c).dimm0 = r.dimm0 := by
  rw [applyTraining, chan, setChan, tget_tset_self]
  exact ⟨rfl, rfl⟩

theorem channelTrained_of_ready {r : ChanTrain} (phase : (chan m c).phase = .training) (mode : m.mode.st ≠ .training)
    (ready : (chan m c).pwrOnAt + 50000000 ≤ m.now) : channelTrained m c r =
      setUState (poweredTrained m c r) 0x04 c (if (chan (poweredTrained m c r) c).trained then .offline else .failed) :=
  if_neg (by simp [phase, mode, Nat.not_lt.mpr ready])

end

/-! ## What no event of a channel or a seam changes -/

/-- Memory, the caches, the leases, the engines and the mode. -/
def besides (m : Mach) : Memory × Tbl L2St × Tbl Home × Tbl Lease × Tbl Eng × ModeSt := (m.mem, m.l2, m.homes, m.leases, m.engs, m.mode)

section
variable (m : Mach) (c : Nat)

@[simp] theorem besides_modChan (f : Chan → Chan) : besides (modChan m c f) = besides m := rfl
@[simp] theorem besides_modSeam (f : Seam → Seam) : besides (modSeam m c f) = besides m := rfl
@[simp] theorem besides_modSub (f : SubSt → SubSt) : besides (modSub m c f) = besides m := rfl
@[simp] theorem besides_setUState (k i : Nat) (x : UState) : besides (setUState m k i x) = besides m := rfl

theorem besides_rebuildRequest : besides (rebuildRequest m c none) = besides m := by
  unfold rebuildRequest
  dsimp only [rebuilds]
  split
  · refine holds_ite (P := fun x => besides x = besides m) rfl ?_
    split
    · rw [besides_modSeam, besides_modChan]
    · rw [besides_modSeam]
  · split
    · rfl
    · split
      · rw [besides_modSeam]
      · exact holds_ite (P := fun x => besides x = besides m) rfl (besides_modSeam ..)
  · rfl

theorem besides_catchUpComplete : besides (catchUpComplete m c) = besides m := by
  unfold catchUpComplete
  refine holds_ite (P := fun x => besides x = besides m) rfl ?_
  exact holds_ite (P := fun x => besides x = besides m) rfl rfl

theorem besides_refreshDue (i : Nat) : besides (refreshDue m c i) = besides m :=
  holds_ite (P := fun x => besides x = besides m) rfl (besides_modSub ..)

theorem besides_selfRefreshExit : besides (selfRefreshExit m c) = besides m :=
  holds_ite (P := fun x => besides x = besides m) (besides_modChan ..) rfl

theorem besides_rowIdleClose (i bank : Nat) : besides (rowIdleClose m c i bank) = besides m := by
  unfold rowIdleClose
  split
  · rfl
  · exact holds_ite (P := fun x => besides x = besides m) (besides_modSub ..) rfl

theorem besides_channelTrained (r : ChanTrain) : besides (channelTrained m c r) = besides m :=
  holds_ite (P := fun x => besides x = besides m) rfl (besides_setUState ..)

theorem besides_prsntNChange (low : Bool) :
    besides (if (chan m c).present = low then m else modChan m c (fun x => { x with present := low, presentSince := m.now })) = besides m :=
  holds_ite (P := fun x => besides x = besides m) rfl (besides_modChan ..)

end

/-- A command that runs a function of the machine keeps what the function keeps. -/
theorem besides_next {i : Instr} {s t : State} {f : Mach → Mach} (e : exec i s = runM s f) (keeps : ∀ m, besides (f m) = besides m)
    (next : exec i s = .next t) : besides t.m = besides s.m := by
  rw [e, runM] at next
  cases next
  exact keeps s.m

theorem besides_if {f : Mach → Mach} (keeps : ∀ m, besides (f m) = besides m) (c : Mach → Bool) (m : Mach) :
    besides (if c m then f m else m) = besides m :=
  holds_ite (P := fun x => besides x = besides m) (keeps m) rfl

/-! ## The events -/

/-- Settles O20: each event by its conditions, and the frame of those that write no line. -/
theorem seamAndChannelEvents : Obligations.SeamAndChannelEvents := by
  constructor
  · intro s run
    refine ⟨?_, ?_, ?_, ?_, ?_, ?_, ?_, ?_, ?_, ?_, ?_, ?_⟩
    · intro k st target more free
      rw [runUnits_next (exec_rebuildRequest ..) run]
      simp only [Option.isSome_none, Bool.false_eq_true, if_false, rebuildRequest_of_free st target more free]
    · intro k p t st done missing target place
      obtain ⟨rule, mem⟩ := seamRebuilt_of_done st done missing target
      refine completes_runUnits (exec_seamRebuildComplete ..) run ?_
      rw [rule]
      exact ⟨rfl, rfl, rfl, lset_getD_self place _, mem⟩
    · intro k st swept clear
      obtain ⟨rule, mem⟩ := catchUpComplete_of_done st swept clear
      refine completes_runUnits (exec_catchUpComplete ..) run ?_
      rw [rule]
      exact ⟨rfl, rfl, mem⟩
    · intro c temp manual below above
      rw [runUnits_next (exec_retrainDue ..) run, retrainDue_within manual below above]
      rfl
    · intro c temp may drift quiet others
      obtain ⟨seams, rule⟩ := retrainDue_beyond may drift quiet others
      have warm : (chan (tempRead s.m c.val temp.toNat) c.val).temp = temp.toNat := by rw [chan_tempRead, measured]
      have lanes : (chan (tempRead s.m c.val temp.toNat) c.val).lanes = (chan s.m c.val).lanes := by rw [chan_tempRead, measured]
      refine completes_runUnits (exec_retrainDue ..) run ?_
      rw [rule, chan_modChan_self]
      exact ⟨rfl, warm, lanes, rfl, rfl, rfl⟩
    · intro c lanes phase good seams role
      refine completes_runUnitsLoss (exec_retrainComplete ..) run ?_
      obtain ⟨p, rule⟩ := chan_lossCheck (retrainComplete s.m c.val lanes) c.val
      rw [rule, lossCheck_mem, retrainComplete_alone phase good seams role, chan_modChan_self]
      exact ⟨rfl, rfl, rfl, rfl, rfl⟩
    · intro c i serves
      rw [runMesh_next (exec_refreshDue ..) (meshRuns_of_unitsRun run), refreshDue, if_neg (by simp [serves])]
    · intro c phase role
      rw [runUnits_next (exec_selfRefreshExit ..) run, selfRefreshExit]
      simp only [phase, role]
      rfl
    · intro c i bank e open_ idle
      refine completes_runMesh (exec_rowIdleClose ..) (meshRuns_of_unitsRun run) ?_
      rw [rowIdleClose_of_idle open_ idle, subOf_modSub i.isLt]
      exact tfind_tdel_self ..
    · intro c n cs serves inside held piece
      obtain ⟨p, rule⟩ := chan_lossCheck (memoryScrub s.m c.val n.toNat .corrected) c.val
      refine completes_runUnitsLoss (exec_memoryScrub ..) run ?_
      rw [rule, lossCheck_mem, memoryScrub_corrected serves inside held piece, chan_pieceCorrected, pieceCorrected_mem]
      exact ⟨rfl, rfl⟩
    · intro c low other
      rw [exec_mchPrsntNChange, execMchPrsntNChange, runM, if_neg other]
    · intro c r phase ready
      refine completes_runUnits (exec_channelTrained ..) run ?_
      rw [channelTrained_of_ready phase (not_training_of_unitsRun run) ready, chan_setUState, chan_poweredTrained]
      obtain ⟨lanes, dimm⟩ := chan_applyTraining_kept (m := s.m) (c := c.val) r
      exact ⟨rfl, lanes, dimm, rfl⟩
  · intro s t c k i bank low r next
    have kept : besides t.m = besides s.m := by
      rcases next with next | next | next | next | next | next | next
      · exact besides_next rfl (besides_if (fun m => besides_rebuildRequest m k.val) unitsRun) next
      · exact besides_next rfl (besides_if (fun m => besides_catchUpComplete m k.val) unitsRun) next
      · exact besides_next rfl (besides_if (fun m => besides_refreshDue m c.val i.val) meshRuns) next
      · exact besides_next rfl (besides_if (fun m => besides_selfRefreshExit m c.val) unitsRun) next
      · exact besides_next rfl (besides_if (fun m => besides_rowIdleClose m c.val i.val bank) meshRuns) next
      · exact besides_next rfl (fun m => besides_prsntNChange m c.val low) next
      · exact besides_next rfl (besides_if (fun m => besides_channelTrained m c.val r) unitsRun) next
    simpa only [besides, Prod.mk.injEq] using kept

end Sys2Proof.Machine
end

section
/-! Channel paths: what a read of a path gives after an update, what leaves a path alone, and how a path fails, comes up, drains and is reset
(R541 to R543, R566, R568, R585). -/

namespace Sys2Proof.Machine

/-! ## Reads of a path -/

section
variable (m : Mach) (p : Nat)

@[simp] theorem path_setPath (x : Path) : path (setPath m p x) p = x := tget_tset_self ..
@[simp] theorem path_modPath (f : Path → Path) : path (modPath m p f) p = f (path m p) := path_setPath ..
@[simp] theorem path_modHelar (f : HelarSt → HelarSt) : path (modHelar m p f) p = { path m p with helar := f (path m p).helar } := path_setPath ..

theorem path_of_chn {m' : Mach} (e : m'.chn = m.chn) : path m' p = path m p := by rw [path, path, e]

end

/-! ## Datagrams and NVMe commands that leave (R541, R595, R627) -/

section
variable (m : Mach) (p : Nat)

/-- A datagram, the resolution of its hop, or nothing leaves. -/
theorem helarOut_logged (d : Bytes) : Logged m (helarOut m p d) := by
  dsimp only [helarOut]
  split
  · exact emit_logged ..
  · split
    · exact emit_logged ..
    · exact .refl m

theorem helarSend_mem (type flags seq : Nat) (body : Bytes) : (helarSend m p type flags seq body).mem = m.mem := (helarOut_logged ..).mem

end

/-! ## A path fails (R542, R566, R585) -/

/-- The path stands as failed for a reason, before its transactions are looked at and its failure is recorded. -/
def pathFailed (m : Mach) (p reason : Nat) : Mach :=
  setPath m p { path m p with
    st := .failed, reason := reason, lastOp := m.now, resetting := false, ready := false,
    helar := { (path m p).helar with unacked := [], queue := [], kept := [], partial_ := [], inMsg := false, ackDue := none } }

section
variable {m : Mach} {p : Nat}

/-- A path without transactions fails: nothing is redriven, and the failure of an Operational path is recorded. -/
theorem pathFails_of_idle (live : (path m p).st = .operational ∨ (path m p).st = .establishing) (idle : pathTxns m p = []) (reason : Nat) :
    pathFails m p reason = if (path m p).st = .operational
      then raiseErr (pathFailed m p reason) 0x0060 (0x0900 + 8 * pathHub m p) (le 1 p ++ le 1 reason ++ le 2 0)
      else pathFailed m p reason := by
  have none_ : pathTxns (pathFailed m p reason) p = [] := idle
  have goes : ¬((path m p).st = .failed ∨ (path m p).st = .offline ∨ (path m p).st = .draining ∧ reason ≠ 6) := by
    rcases live with st | st <;> simp [st]
  unfold pathFails
  dsimp only
  rw [if_neg goes, ← pathFailed, none_]
  rfl

/-- What a path without transactions shows once it has failed. -/
theorem pathFails_shows (live : (path m p).st = .operational ∨ (path m p).st = .establishing) (idle : pathTxns m p = []) (reason : Nat) :
    (path (pathFails m p reason) p).st = .failed ∧ (path (pathFails m p reason) p).reason = reason ∧ (pathFails m p reason).mem = m.mem ∧
      (pathFails m p reason).chn.txns = m.chn.txns := by
  have failed : Logged (pathFailed m p reason) (pathFails m p reason) := by
    rw [pathFails_of_idle live idle]
    split
    · exact raiseErr_logged ..
    · exact .refl _
  rw [path_of_chn _ p failed.chn, pathFailed, path_setPath]
  exact ⟨rfl, rfl, failed.mem, by rw [failed.chn]; rfl⟩

theorem pathFailure_of_operational (up : (path m p).st = .operational) (reason : Nat) : pathFailure m p reason = pathFails m p reason := by
  simp [pathFailure, operational, up]

theorem establishTimeout_of_late (st : (path m p).st = .establishing) (late : (path m p).estAt + 2000000000 ≤ m.now) :
    establishTimeout m p = pathFails m p 7 :=
  if_pos ⟨st, late⟩

theorem nvmeReadyTimeout_of_establishing (kind : pathKind m p = 2) (st : (path m p).st = .establishing) :
    nvmeReadyTimeout m p = pathFails m p 5 :=
  if_pos ⟨kind, .inr st⟩

/-! ## A path without transactions is drained, its controller reset, or ready (R541 to R543, R568) -/

theorem pathDrained_of_idle (st : (path m p).st = .draining) (idle : pathTxns m p = []) : pathDrained m p =
    modPath (if pathKind m p = 1 then helarSend m p 5 0 0 [] else emit m (.nvmeAdmin p "delete queues")) p
      (fun x => { x with st := .offline, helar := HelarSt.reset }) :=
  if_neg (by simp [st, idle])

/-- A controller is being reset: the generation rises, the reset is counted, and the command leaves. -/
def controllerReset (m : Mach) (p : Nat) : Mach :=
  emit (modChn (modPath m p (fun x => { x with resetting := true, ready := false, resetAt := m.now, gen := (x.gen + 1) % 65536 }))
    (fun c => { c with nvmeResets := sat 0xFFFF (c.nvmeResets + 1) })) (.nvmeAdmin p "reset controller")

theorem path_controllerReset : path (controllerReset m p) p =
    { path m p with resetting := true, ready := false, resetAt := m.now, gen := ((path m p).gen + 1) % 65536 } := tget_tset_self ..

theorem nvmeReset_of_idle (kind : pathKind m p = 2) (up : (path m p).st = .operational) (calm : (path m p).resetting = false)
    (idle : pathTxns m p = []) : nvmeReset m p = controllerReset m p := by
  have goes : ¬(pathKind m p ≠ 2 ∨ (path m p).st ≠ .operational ∨ (path m p).resetting = true) := by simp [kind, up, calm]
  have none_ : pathTxns (controllerReset m p) p = [] := idle
  unfold nvmeReset
  rw [if_neg goes]
  dsimp only
  rw [← controllerReset, none_]
  rfl

/-- A controller whose namespace is as R541 and R543 ask, and which is the path's own, makes its path Operational. -/
theorem nvmeReady_of_fit {i : NvmeIdent} (kind : pathKind m p = 2) (st : (path m p).st = .establishing) (plain : i.metadata = false)
    (bare : i.protection = false) (size : i.lbaShift = 9 ∨ i.lbaShift = 12) (own : le 16 i.nguid.toNat = pathIdent m p) :
    nvmeReady m p i = pathUp (modPath m p (fun y => { y with ready := true, lbaShift := i.lbaShift.toNat, gen := (y.gen + 1) % 65536 })) p := by
  have fits : ¬(i.metadata = true ∨ i.protection = true ∨ i.lbaShift ≠ 9 ∧ i.lbaShift ≠ 12) := by
    rcases size with e | e <;> simp [plain, bare, e]
  unfold nvmeReady
  dsimp only
  rw [if_neg (not_not.mpr kind), if_pos st, if_neg fits, if_neg (not_not.mpr own)]

end

/-! ## Path events -/

/-- Settles O33: each event by what it makes of a path without transactions. -/
theorem pathEvents : Obligations.PathEvents := by
  intro s p run idle
  refine ⟨fun r up => ?_, fun st late => ?_, fun st => ?_, fun kind up calm => ?_, fun i kind st plain bare size own => ?_, fun kind st => ?_⟩
  · refine completes_runUnits (exec_pathFailure ..) run ?_
    rw [pathFailure_of_operational up]
    exact pathFails_shows (.inl up) idle _
  · refine completes_runUnits (exec_establishTimeout ..) run ?_
    rw [establishTimeout_of_late st late]
    obtain ⟨failed, reason, mem, -⟩ := pathFails_shows (.inr st) idle 7
    exact ⟨failed, reason, mem⟩
  · refine completes_runUnits (exec_pathDrained ..) run ?_
    rw [pathDrained_of_idle st idle, path_modPath]
    refine ⟨rfl, rfl, ?_⟩
    change (if _ then helarSend _ _ _ _ _ _ else emit _ _).mem = _
    split
    · exact helarSend_mem ..
    · rfl
  · refine completes_runUnits (exec_nvmeControllerReset ..) run ?_
    rw [nvmeReset_of_idle kind up calm idle, path_controllerReset]
    exact ⟨rfl, rfl, rfl, rfl⟩
  · refine completes_runUnits (exec_nvmeReady ..) run ?_
    rw [nvmeReady_of_fit kind st plain bare size own, pathUp, path_modPath, path_modPath]
    exact ⟨rfl, rfl, rfl, rfl⟩
  · refine completes_runUnits (exec_nvmeReadyTimeout ..) run ?_
    rw [nvmeReadyTimeout_of_establishing kind st]
    obtain ⟨failed, reason, mem, -⟩ := pathFails_shows (.inr st) idle 5
    exact ⟨failed, reason, mem⟩

end Sys2Proof.Machine
end

section
/-! No access to memory touches the channel subsystem (R22, R445 to R489, R490 to R539): one equation per operation that an access of a unit
can reach, in the order of the model. -/

namespace Sys2Proof.Machine

/-! ## Memory channels and seams -/

section
variable (m : Mach) (n h : Nat)

@[simp] theorem raiseErrD_chn (cause src det : Nat) (d : Bytes) (ls addr : Option Nat) (i : Nat) :
    (raiseErrD m cause src det d ls addr i).chn = m.chn := (raiseErrD_logged ..).chn
@[simp] theorem raiseErr_chn (cause src : Nat) (d : Bytes) : (raiseErr m cause src d).chn = m.chn := (raiseErr_logged ..).chn
@[simp] theorem raiseEvent_chn (cls src l vector : Nat) (p : Bytes) : (raiseEvent m cls src l vector p).chn = m.chn := (raiseEvent_logged ..).chn
@[simp] theorem takeStamp_chn (src : Nat) : (takeStamp m src).2.chn = m.chn := (takeStamp_logged ..).chn
@[simp] theorem memRange_chn (src : Nat) : (memRange m h n src).chn = m.chn := raiseErrD_chn ..
@[simp] theorem setRead_chn (r : LineRead) : (setRead m n r).chn = m.chn := rfl
@[simp] theorem endRead_chn : (endRead m n).chn = m.chn := rfl
@[simp] theorem queueRead_chn (p src : Nat) (ls : Option Nat) (stream : Bool) : (queueRead m n p src ls stream).chn = m.chn := rfl

@[simp] theorem markCatchUp_chn : (markCatchUp m n).chn = m.chn := by
  dsimp only [markCatchUp]
  split <;> rfl

@[simp] theorem dropWrites_chn : (dropWrites m n).chn = m.chn := by
  refine foldl_keeps Mach.chn (fun m w => ?_) _ _
  exact foldl_keeps Mach.chn (fun _ _ => by rfl) _ _

@[simp] theorem memWriteNow_chn (d : Line) (poison : Bool) : (memWriteNow m n d poison).chn = m.chn := by
  dsimp only [memWriteNow]
  split
  · rfl
  · simp

@[simp] theorem acceptWrite_chn (d : Line) (poison : Bool) (src : Nat) (ls : Option Nat) : (acceptWrite m h n d poison src ls).chn = m.chn := by
  dsimp only [acceptWrite]
  split
  · simp
  · split
    · rfl
    · exact (foldl_keeps Mach.chn (by exact fun _ _ => rfl) _ _).trans (markCatchUp_chn ..)

@[simp] theorem startRead_chn (src : Nat) (ls : Option Nat) (stream : Bool) : (startRead m n src ls stream).chn = m.chn := by
  dsimp only [startRead]
  split
  · rfl
  · have queued (l : List Nat) : (l.foldl (fun m p => queueRead m n p src ls stream) m).chn = m.chn := foldl_keeps Mach.chn (fun _ _ => by rfl) _ _
    rw [setRead_chn]
    split <;> simp [queued]

@[simp] theorem readServed_chn : (readServed m n).chn = m.chn := by
  dsimp only [readServed]
  split
  · rfl
  · exact foldl_keeps Mach.chn (fun _ _ => by rfl) _ _

end

/-! ## The benches -/

section
variable (m : Mach) (b n : Nat)

@[simp] theorem noteFault_chn (f : FaultEv) : (noteFault m f).chn = m.chn := rfl
@[simp] theorem dropL1I_chn : (dropL1I m b n).chn = m.chn := rfl
@[simp] theorem dropL1_chn : (dropL1 m b n).chn = m.chn := rfl
@[simp] theorem clearResv_chn (except : Option Nat) : (clearResv m n except).chn = m.chn := rfl
@[simp] theorem setLine_chn (x : L2Line) : (setLine m b n x).chn = m.chn := rfl
@[simp] theorem delLine_chn : (delLine m b n).chn = m.chn := rfl
@[simp] theorem benchRsp_chn (kind : Nat) (d : Option (Line × Bool)) : (benchRsp m b n kind d).chn = m.chn := rfl

@[simp] theorem benchError_chn (code : Nat) : (benchError m b code n).chn = m.chn := by simp [benchError]

@[simp] theorem replaceLine_chn : (replaceLine m b n).chn = m.chn := by
  dsimp only [replaceLine]
  split
  · rfl
  · split <;> rfl

/-- A snoop changes the line, and sends its response. -/
@[simp] theorem answerSnoop_chn (op : SnpOp) (maint incl : Bool) : (answerSnoop m b n op maint incl).chn = m.chn := by
  unfold answerSnoop
  split
  · rfl
  · extract_lets held op dat gone keep clean lose hand
    split
    · rfl
    · split <;> simp [gone, keep, clean, lose, hand]

@[simp] theorem benchSnoop_chn (op : SnpOp) (maint incl : Bool) : (benchSnoop m b n op maint incl).chn = m.chn := by
  unfold benchSnoop
  extract_lets defer
  split <;> simp

@[simp] theorem sideFill_chn (y : L2Line) : (sideFill m b n y).chn = m.chn := by
  dsimp only [sideFill]
  split
  · split <;> simp
  · simp

@[simp] theorem benchFill_chn (kind : Nat) (d : Line) (poison : Bool) (mhz : Nat) : (benchFill m b n kind d poison mhz).chn = m.chn := by
  unfold benchFill
  split
  · simp
  · extract_lets ok st y
    split
    · simp
    · split
      · simp
      · split
        · rfl
        · dsimp only
          split <;> simp

@[simp] theorem benchGrant_chn (mhz : Nat) : (benchGrant m b n mhz).chn = m.chn := by
  dsimp only [benchGrant]
  split
  · simp
  · split <;> simp

@[simp] theorem fillKept_chn : (fillKept m b n).chn = m.chn := by
  dsimp only [fillKept]
  split <;> simp

@[simp] theorem fillLine_chn (kind : Nat) (d : Line) (poison : Bool) : (fillLine m b n kind d poison id).chn = m.chn := by
  dsimp only [fillLine]
  split <;> simp

@[simp] theorem grantLine_chn : (grantLine m b n id).chn = m.chn := by
  dsimp only [grantLine]
  split
  · simp [apply_ite Mach.chn]
  · simp [apply_ite Mach.chn]
  · simp

@[simp] theorem trackerFree_chn : (trackerFree m b).chn = m.chn := by
  dsimp only [trackerFree]
  split
  · refine foldl_keeps Mach.chn (fun m p => ?_) _ _
    split <;> simp
  · rfl

@[simp] theorem benchWbAck_chn : (benchWbAck m b n).chn = m.chn := by
  dsimp only [benchWbAck]
  split <;> simp

@[simp] theorem benchWbStale_chn : (benchWbStale m b n).chn = m.chn := by
  dsimp only [benchWbStale]
  split <;> simp

@[simp] theorem tenureEnds_chn : (tenureEnds m b n).chn = m.chn := by
  dsimp only [tenureEnds]
  split
  · rfl
  · split <;> simp

end

/-! ## The home nodes: the L3, the directory, one request -/

section
variable (m : Mach) (h n : Nat)

@[simp] theorem setTxn_chn (t : HTxn) : (setTxn m h n t).chn = m.chn := rfl
@[simp] theorem setDir_chn (d : DirEnt) : (setDir m h n d).chn = m.chn := rfl
@[simp] theorem useL3_chn : (useL3 m h n).chn = m.chn := rfl
@[simp] theorem homeStable_chn : (homeStable m h n).chn = m.chn := rfl
@[simp] theorem buddyMir_chn (d : Line) (poison : Bool) : (buddyMir m h n d poison).chn = m.chn := rfl
@[simp] theorem buddyMirRel_chn : (buddyMirRel m h n).chn = m.chn := rfl

@[simp] theorem homeError_chn (code : Nat) : (homeError m h code n).chn = m.chn := by simp [homeError]

@[simp] theorem dropL3_chn : (dropL3 m h n).chn = m.chn := by
  dsimp only [dropL3]
  split
  · rfl
  · split <;> rfl

@[simp] theorem cleanL3_chn : (cleanL3 m h n).chn = m.chn := by
  dsimp only [cleanL3]
  split
  · rfl
  · split <;> simp

@[simp] theorem putL3_chn (d : Line) (poison dirty : Bool) : (putL3 m h n d poison dirty).chn = m.chn := by
  dsimp only [putL3]
  split
  · rfl
  · split
    · rfl
    · split <;> simp

@[simp] theorem makeRoom_chn : (makeRoom m h n).chn = m.chn := by
  dsimp only [makeRoom]
  split
  · rfl
  · split <;> simp

@[simp] theorem sendSnoops_chn (r : HReq) (op : SnpOp) (dst : List Nat) : (sendSnoops m r op dst).chn = m.chn :=
  foldl_keeps Mach.chn (fun _ _ => by rfl) _ _

@[simp] theorem homeStartRead_chn (r : HReq) : (homeStartRead m h r).chn = m.chn := by
  dsimp only [homeStartRead]
  split <;> simp

@[simp] theorem grant_chn (t : HTxn) (kind : Nat) (d : Line) (poison : Bool) : (grant m h t kind d poison).chn = m.chn := by
  simp [grant, apply_ite Mach.chn]

@[simp] theorem homeWrite_chn (t : HTxn) (d : Line) (poison : Bool) (after : HAfter) (forceMem : Bool) :
    (homeWrite m h t d poison after forceMem).chn = m.chn := by
  simp [homeWrite, apply_ite Mach.chn]

@[simp] theorem homeAck_chn (r : HReq) : (homeAck m r).chn = m.chn := by
  dsimp only [homeAck]
  split <;> rfl

/-- However a request ends, it ends with a grant, a write, an acknowledgement or none. -/
@[simp] theorem homeResolve_chn (t : HTxn) : (homeResolve m h t).chn = m.chn := by
  dsimp only [homeResolve]
  split <;> simp [apply_ite Mach.chn]

@[simp] theorem evictStart_chn : (evictStart m h n).chn = m.chn := by
  dsimp only [evictStart]
  split <;> simp

@[simp] theorem dirWait_chn (r : HReq) : (dirWait m h r).chn = m.chn := by simp [dirWait]

@[simp] theorem snoopRound_chn (r : HReq) (op : SnpOp) (dst : List Nat) (withRead upgHolder : Bool) :
    (snoopRound m h r op dst withRead upgHolder).chn = m.chn := by
  simp [snoopRound, apply_ite Mach.chn]

end

/-! ## The home nodes: requests, responses, reads and writes -/

section
variable (m : Mach) (h n : Nat)

@[simp] theorem serveReq_chn (r : HReq) : (serveReq m h r).chn = m.chn := by
  unfold serveReq
  extract_lets n e st b read owner whole asRdX given _ t
  clear_value st
  have rdX : (asRdX m).chn = m.chn := by
    dsimp only [asRdX, read]
    split <;> simp
  split
  · split <;> simp [read]
  · exact rdX
  · split
    · split <;> simp [rdX]
    · split <;> simp [rdX]
    · split <;> simp [rdX]
    · exact rdX
  · simp [apply_ite Mach.chn, given]
  · simp [apply_ite Mach.chn]
  · split <;> simp [read]
  · split <;> simp [apply_ite Mach.chn, read]
  · split <;> simp [apply_ite Mach.chn]
  · split <;> simp
  · split <;> simp
  · simp
  · rfl

@[simp] theorem serveOrWait_chn (r : HReq) : (serveOrWait m h r).chn = m.chn := by
  dsimp only [serveOrWait]
  split <;> simp

@[simp] theorem homeNext_chn (fuel : Nat) : (homeNext fuel m h n).chn = m.chn := by
  induction fuel generalizing m with
  | zero => rfl
  | succ f ih =>
    dsimp only [homeNext]
    split
    · rfl
    · split <;> simp [ih]

@[simp] theorem homeQueue_chn : (homeQueue m h n).chn = m.chn := homeNext_chn ..

@[simp] theorem dirRetry_chn : (dirRetry m h).chn = m.chn := by
  refine foldl_keeps Mach.chn (fun m r => ?_) _ _
  split <;> simp

@[simp] theorem homeDrain_chn : (homeDrain m h n).chn = m.chn := by simp [homeDrain]

@[simp] theorem homeReq_chn (r : HReq) : (homeReq m h r).chn = m.chn := by simp [homeReq, apply_ite Mach.chn]

@[simp] theorem homeRsp_chn (b kind : Nat) (d : Option (Line × Bool)) : (homeRsp m n b kind d).chn = m.chn := by
  dsimp only [homeRsp]
  split
  · simp
  · simp [apply_ite Mach.chn]

@[simp] theorem homeReadBack_chn : (homeReadBack m n).chn = m.chn := by
  dsimp only [homeReadBack]
  split
  · rfl
  · simp [apply_ite Mach.chn]

@[simp] theorem homeWritten_chn (now : Bool) : (homeWritten m n now).chn = m.chn := by
  unfold homeWritten
  extract_lets h
  split
  · rfl
  · split
    · rfl
    · extract_lets v taken written
      have kept : written.chn = m.chn := by
        dsimp only [written, taken]
        split
        · split <;> simp [apply_ite Mach.chn]
        · rfl
      split <;> simp [kept]

@[simp] theorem homeDone_chn (b : Nat) : (homeDone m n b).chn = m.chn := by
  dsimp only [homeDone]
  split
  · simp
  · split <;> simp

@[simp] theorem homeMirAck_chn : (homeMirAck m n).chn = m.chn := by
  dsimp only [homeMirAck]
  split
  · split <;> simp
  · simp

end

/-! ## Accesses of one line in one step -/

section
variable (m : Mach) (n : Nat)

@[simp] theorem deliverMsg_chn (x : Msg) : (deliverMsg m x).chn = m.chn := by
  unfold deliverMsg
  split <;> simp

theorem settleLine_chn {m m' : Mach} {n : Nat} (next : settleLine m n = some m') : m'.chn = m.chn := by
  unfold settleLine at next
  split at next
  · obtain rfl := Option.some.inj next
    simp
  · split at next
    · obtain rfl := Option.some.inj next
      simp
    · split at next
      · nomatch next
      · split_ifs at next
        · obtain rfl := Option.some.inj next
          simp
        · obtain rfl := Option.some.inj next
          simp

theorem settleStep_chn {m m' : Mach} {n : Nat} (next : settleStep m n = some m') : m'.chn = m.chn := by
  unfold settleStep at next
  split at next
  · next line =>
    obtain rfl := Option.some.inj next
    exact settleLine_chn line
  · dsimp only at next
    split_ifs at next
    obtain ⟨p, -, line⟩ := List.exists_of_findSome?_eq_some next
    exact settleLine_chn line

@[simp] theorem settleTo_chn (fuel : Nat) (done : Mach → Bool) : (settleTo fuel m n done).chn = m.chn := by
  induction fuel generalizing m with
  | zero => rfl
  | succ f ih =>
    dsimp only [settleTo]
    split
    · rfl
    · split
      · rfl
      · next line => exact (ih _).trans (settleStep_chn line)

theorem askHome_chn {m m' : Mach} {r : HReq} {answer : Msg → Bool} {x : Msg} (asked : askHome m r answer = some (x, m')) : m'.chn = m.chn := by
  dsimp only [askHome] at asked
  split_ifs at asked
  obtain ⟨y, -, last⟩ := Option.map_eq_some_iff.mp asked
  obtain ⟨-, rfl⟩ := Prod.mk.inj last
  simp [dropLast]

@[simp] theorem cohStore_chn (d : Line) (poison : Bool) : (cohStore m n d poison).chn = m.chn := by
  unfold cohStore
  extract_lets h dropped sent busy served cleared placed
  have drops : dropped.chn = m.chn := by
    refine foldl_keeps Mach.chn (fun m p => ?_) _ _
    split
    · rfl
    · dsimp only
      split <;> simp
  have serves : cleared.chn = m.chn := by
    dsimp only [cleared, served, busy]
    split <;> simp [sent, drops]
  split <;> simp [placed, serves]

@[simp] theorem cohWrite_chn (mask : BitVec 256) (d : Line) : (cohWrite m n mask d).chn = m.chn := cohStore_chn ..

@[simp] theorem ioRead_chn (src ls : Nat) : (ioRead m src ls n).2.chn = m.chn := by
  dsimp only [ioRead]
  split
  · simp
  · split
    · next asked => exact askHome_chn asked
    · rfl

@[simp] theorem ioWrite_chn (src ls : Nat) (mask : BitVec 256) (d : Line) : (ioWrite m src ls n mask d).chn = m.chn := by
  dsimp only [ioWrite]
  split
  · simp
  · split
    · simp
    · split
      · next asked => exact askHome_chn asked
      · simp

end

/-! ## Translation, and the accesses of units that hold no line -/

section
variable (m : Mach) (hub src l va : Nat)

@[simp] theorem refuseRaw_chn (pa len : Nat) : (refuseRaw m l pa len).chn = m.chn := (refuseAccess_logged ..).chn

@[simp] theorem hubAddr_chn (need : Need) : (hubAddr m hub l va need).2.chn = m.chn := by
  dsimp only [hubAddr]
  split
  · rfl
  · split <;> rfl

@[simp] theorem unitLine_chn (pa len : Nat) : (unitLine m src l pa len).2.chn = m.chn := by
  unfold unitLine
  split <;> simp

@[simp] theorem unitPut_chn (pa : Nat) (b : Bytes) : (unitPut m src l pa b).chn = m.chn := by
  unfold unitPut
  split <;> simp

@[simp] theorem physWrite_chn (fuel pa : Nat) (b : Bytes) : (physWrite fuel m src pa b).chn = m.chn := by
  induction fuel generalizing m pa b with
  | zero => rfl
  | succ f ih =>
    dsimp only [physWrite]
    split <;> simp [ih]

@[simp] theorem wrPhys_chn (pa : Nat) (b : Bytes) : (wrPhys m src pa b).chn = m.chn := physWrite_chn ..

/-- What an access answers beside its machine does not matter. -/
theorem chn_of_eq {α : Type} {r : α × Mach} {a : α} {m m' : Mach} (e : r = (a, m')) (kept : r.2.chn = m.chn) : m'.chn = m.chn := by
  rw [← kept, e]

@[simp] theorem unitRead_chn (fuel len : Nat) : (unitRead fuel m hub src l va len).2.chn = m.chn := by
  induction fuel generalizing m va len with
  | zero => rfl
  | succ f ih =>
    dsimp only [unitRead]
    split
    · rfl
    · split
      · next e => exact chn_of_eq e (hubAddr_chn ..)
      · next e =>
        have line (pa len : Nat) := (unitLine_chn _ src l pa len).trans (chn_of_eq e (hubAddr_chn ..))
        split
        · exact line ..
        · split
          · next rest => exact chn_of_eq rest ((ih ..).trans (line ..))
          · next rest => exact chn_of_eq rest ((ih ..).trans (line ..))

@[simp] theorem unitWrite_chn (fuel : Nat) (b : Bytes) : (unitWrite fuel m hub src l va b).2.chn = m.chn := by
  induction fuel generalizing m va b with
  | zero => rfl
  | succ f ih =>
    dsimp only [unitWrite]
    split
    · rfl
    · split
      · next e => exact chn_of_eq e (hubAddr_chn ..)
      · next e => exact (ih ..).trans ((unitPut_chn ..).trans (chn_of_eq e (hubAddr_chn ..)))

@[simp] theorem rdLease_chn (len : Nat) : (rdLease m hub src l va len).2.chn = m.chn := unitRead_chn ..
@[simp] theorem wrLease_chn (b : Bytes) : (wrLease m hub src l va b).2.chn = m.chn := unitWrite_chn ..

@[simp] theorem ringHead_chn (base last tail : Nat) : (ringHead m hub src l base last tail).2.chn = m.chn := by
  dsimp only [ringHead]
  split
  · next e => exact chn_of_eq e (rdLease_chn ..)
  · next e =>
    have read := chn_of_eq e (rdLease_chn ..)
    split <;> exact read

@[simp] theorem ringPut_chn (base size recSize tail : Nat) (rec_ : Bytes) :
    (ringPut m hub src l base size recSize tail rec_).2.chn = m.chn := by
  dsimp only [ringPut]
  split
  · next e => exact chn_of_eq e (wrLease_chn ..)
  · next e => exact (wrLease_chn ..).trans (chn_of_eq e (wrLease_chn ..))

end
end Sys2Proof.Machine
end

section
/-! Paths brought online and taken out, channel processors that leave their group and return (R542, R569, R585, R586, R638). -/

namespace Sys2Proof.Machine

/-! ## A path begins to establish (R542, R618, R638) -/

/-- The path begins to establish, with a fresh token, before anything has been sent. -/
def pathEstablishing (m : Mach) (p : Nat) : Mach :=
  setPath (takeFree m).2 p { path m p with
    st := .establishing, estAt := m.now,
    helar := { HelarSt.reset with token := (takeFree m).1.toNat % (2 ^ 32 - 1) + 1, lastRx := m.now, lastTx := m.now } }

section
variable {m : Mach} {p : Nat}

theorem pathOnlineNow_eq (m : Mach) (p : Nat) : pathOnlineNow m p = if pathKind m p = 1
    then (if !onPrefix m (pathLink m p) p ∧ nextHop m (pathLink m p) = 0 then pathFails (pathEstablishing m p) p 7
      else sendCapReq (pathEstablishing m p) p)
    else emit (emit (emit (pathEstablishing m p) (.nvmeAdmin p "enable controller")) (.nvmeAdmin p "identify")) (.nvmeAdmin p "create queues") :=
  rfl

theorem pathOnlineNow_of_unreachable (kind : pathKind m p = 1) (off : onPrefix m (pathLink m p) p = false) (hop : nextHop m (pathLink m p) = 0) :
    pathOnlineNow m p = pathFails (pathEstablishing m p) p 7 := by
  rw [pathOnlineNow_eq, if_pos kind, if_pos (by simp [off, hop])]

/-- What the path's partner is asked for: of the channel subsystem only the path's own Helar state moves. -/
theorem sendCapReq_shows (m : Mach) (p : Nat) :
    (∃ h, path (sendCapReq m p) p = { path m p with helar := h }) ∧ (sendCapReq m p).chn.txns = m.chn.txns ∧ (sendCapReq m p).mem = m.mem ∧
      (sendCapReq m p).leases = m.leases := by
  have sent (d : Bytes) : path (helarOut m p d) p = path m p ∧ (helarOut m p d).chn.txns = m.chn.txns ∧ (helarOut m p d).mem = m.mem ∧
      (helarOut m p d).leases = m.leases := by
    dsimp only [helarOut]
    split
    · exact ⟨rfl, rfl, rfl, rfl⟩
    · split <;> exact ⟨rfl, rfl, rfl, rfl⟩
  unfold sendCapReq
  extract_lets body h out
  obtain ⟨path_, txns, mem, leases⟩ := sent (helarHeader { h with mask := 0 } 0 1 0 0 0 body ++ body)
  rw [path_modHelar, path_]
  exact ⟨⟨_, rfl⟩, txns, mem, leases⟩

/-- A path whose partner can be reached establishes: CAP_REQ goes out, or the commands that bring an NVMe controller up. -/
theorem pathOnlineNow_shows (reach : pathKind m p = 2 ∨ onPrefix m (pathLink m p) p = true ∨ nextHop m (pathLink m p) ≠ 0) :
    (path (pathOnlineNow m p) p).st = .establishing ∧ (path (pathOnlineNow m p) p).estAt = m.now ∧
      (pathOnlineNow m p).chn.txns = m.chn.txns ∧ (pathOnlineNow m p).mem = m.mem ∧ (pathOnlineNow m p).leases = m.leases := by
  have begun : (path (pathEstablishing m p) p).st = .establishing ∧ (path (pathEstablishing m p) p).estAt = m.now := by
    rw [pathEstablishing, path_setPath]
    exact ⟨rfl, rfl⟩
  obtain ⟨st, estAt⟩ := begun
  rw [pathOnlineNow_eq]
  split
  · next kind =>
    have near : ¬((!onPrefix m (pathLink m p) p) = true ∧ nextHop m (pathLink m p) = 0) := by
      rcases reach with nvme | near | hop
      · omega
      · simp [near]
      · exact fun off => hop off.2
    rw [if_neg near]
    obtain ⟨⟨h, path_⟩, txns, mem, leases⟩ := sendCapReq_shows (pathEstablishing m p) p
    rw [path_]
    exact ⟨st, estAt, txns, mem, leases⟩
  · exact ⟨st, estAt, rfl, rfl, rfl⟩

/-! ## `CHN_PATH_CMD` (R542, R585) -/

theorem pathCmd_online (rests : (path m p).st = .offline ∨ (path m p).st = .failed) (carrier : pathCarrierActive m p = true) :
    pathCmd m p 1 = pathOnlineNow m p := by
  rcases rests with st | st <;> simp [pathCmd, st, carrier]

theorem pathCmd_drain (up : (path m p).st = .operational) (idle : pathTxns m p = []) :
    pathCmd m p 2 = modPath m p (fun x => { x with st := .draining, lastOp := m.now }) := by
  have none_ (f : Path → Path) : pathTxns (modPath m p f) p = [] := idle
  simp [pathCmd, up, none_]

theorem pathCmd_offline (failed : (path m p).st = .failed) : pathCmd m p 2 = modPath m p (fun x => { x with st := .offline }) := by
  simp [pathCmd, failed]

/-- A path command that is written completes with what `CHN_PATH_CMD` does. -/
theorem completes_pathCmd {i : Instr} {s : State} {a : Actor} {off code : Nat} {P : Mach → Prop}
    (e : exec i s = runM s (ctlWrite a 0x00 0 off (fun m => if unitsRun m then pathCmd m p code else m))) (may : Writable s.m a 0 0)
    (run : unitsRun s.m = true) (q : P (pathCmd s.m p code)) : Completes i s P :=
  completes_ctlWrite e may (by rwa [if_pos run])

end

/-! ## Adoption (R569) -/

/-- The machine without what an adoption changes: of the channel subsystem only the paths stay. -/
def besidesAdoption (m : Mach) : Mach := { m with chn := { ChnSt.reset with paths := m.chn.paths } }

section
variable (m : Mach) (c : Nat)

theorem cpAdopt_besides (failed : Bool) : besidesAdoption (cpAdopt m c failed).2 = besidesAdoption m := by
  refine foldl_keeps (fun a : Nat × Mach => besidesAdoption a.2) (fun a q => ?_) _ (0, m)
  dsimp only
  split <;> rfl

theorem cpAdopt_mem (failed : Bool) : (cpAdopt m c failed).2.mem = m.mem := (congrArg Mach.mem (cpAdopt_besides m c failed) :)
theorem cpAdopt_errs (failed : Bool) : (cpAdopt m c failed).2.errs = m.errs := (congrArg Mach.errs (cpAdopt_besides m c failed) :)
theorem cpAdopt_paths (failed : Bool) : (cpAdopt m c failed).2.chn.paths = m.chn.paths :=
  (congrArg (fun m => m.chn.paths) (cpAdopt_besides m c failed) :)
theorem ustate_cpAdopt (failed : Bool) (k i : Nat) : ustate (cpAdopt m c failed).2 k i = ustate m k i :=
  (congrArg (fun m => ustate m k i) (cpAdopt_besides m c failed) :)

/-! ## A channel processor leaves its group, in order or by failing -/

theorem cpOfflineNow_shows {m : Mach} {c : Nat} (active : ustate m 0x08 c = .active) :
    ustate (cpOfflineNow m c) 0x08 c = .offline ∧ (cpOfflineNow m c).mem = m.mem ∧ (cpOfflineNow m c).errs = m.errs := by
  unfold cpOfflineNow
  rw [if_neg (not_not.mpr active)]
  refine ⟨ustate_setUState_self .., ?_, ?_⟩
  · exact cpAdopt_mem ..
  · exact cpAdopt_errs ..

theorem cpFails_shows {m : Mach} {c : Nat} (active : ustate m 0x08 c = .active) :
    ustate (cpFails m c) 0x08 c = .failed ∧ (cpFails m c).mem = m.mem ∧ (cpFails m c).chn.paths = m.chn.paths := by
  unfold cpFails
  rw [if_neg (by simp [active])]
  have recorded := raiseErr_logged (cpAdopt (setUState m 0x08 c .failed) c true).2 0x0063 (0x0900 + c)
    (le 2 (cpAdopt (setUState m 0x08 c .failed) c true).1)
  refine ⟨?_, recorded.mem.trans (cpAdopt_mem ..), ?_⟩
  · exact (recorded.ustate ..).trans ((ustate_cpAdopt ..).trans (ustate_setUState_self ..))
  · exact (congrArg ChnSt.paths recorded.chn).trans (cpAdopt_paths ..)

end

end Sys2Proof.Machine
end

section
/-! The journal and the sump: what a journal entry, a record and the records that wait leave of the open transactions; a journal that moves, a
sump that is replaced or has room again (R557 to R560, R571, R573, R574, R581, R582). -/

namespace Sys2Proof.Machine

/-! ## The transactions as a property of the machine

A predicate, not an equation: it goes through an operation's branches without the kernel comparing the machines themselves. -/

/-- The transactions of the channel subsystem are those given. -/
structure TxnsAre (txns : Tbl Txn) (m : Mach) : Prop where
  eq : m.chn.txns = txns

/-- The same of an operation that also answers something. -/
structure SndTxnsAre {α : Type} (txns : Tbl Txn) (r : α × Mach) : Prop where
  snd : TxnsAre txns r.2

section
variable {m m' : Mach} {txns : Tbl Txn}

theorem TxnsAre.of_chn (h : TxnsAre txns m) (e : m'.chn = m.chn) : TxnsAre txns m' := ⟨(congrArg ChnSt.txns e).trans h.eq⟩

theorem TxnsAre.modChn {f : ChnSt → ChnSt} (h : TxnsAre txns m) (e : (f m.chn).txns = m.chn.txns) : TxnsAre txns (modChn m f) := ⟨e.trans h.eq⟩

theorem TxnsAre.answer {α : Type} {a : α} (h : TxnsAre txns m) : SndTxnsAre txns (a, m) := ⟨h⟩

theorem SndTxnsAre.of_eq {α : Type} {r : α × Mach} {a : α} (h : SndTxnsAre txns r) (e : r = (a, m')) : TxnsAre txns m' := by
  subst e
  exact h.snd

/-! ## A journal entry and a record that is out (R557 to R561, R571) -/

theorem journalWrite_txns (m : Mach) (t : Nat) (x : Txn) :
    SndTxnsAre (tset m.chn.txns t { x with writes := x.writes + 1 }) (journalWrite m t x) := by
  unfold journalWrite
  extract_lets entry noted base ok lost
  have first : TxnsAre (tset m.chn.txns t entry) noted := ⟨rfl⟩
  refine holds_ite ?_ (holds_ite first ((first.modChn rfl).of_chn (raiseErr_chn ..))).answer
  split
  next stamp stamped e =>
  have second := first.of_chn (chn_of_eq e (takeStamp_chn ..))
  extract_lets bytes written
  have third : TxnsAre (tset m.chn.txns t entry) written := holds_ite (second.of_chn (wrPhys_chn ..)) second
  refine TxnsAre.answer ?_
  split
  · exact third.of_chn (wrPhys_chn ..)
  · exact third

theorem endpointOff_txns {l e : Nat} (h : TxnsAre txns m) : TxnsAre txns (endpointOff m l e) := by
  unfold endpointOff
  extract_lets gone
  exact holds_ite (h.of_chn rfl) h

/-- The transaction as it stands once its record is out. -/
def txnOut (x : Txn) : Txn := { x with st := .reported, reserved := false, sumpWaiting := false, writes := x.writes + 1 }

theorem txnReported_txns (m : Mach) (t : Nat) (x : Txn) : TxnsAre (tset m.chn.txns t (txnOut x)) (txnReported m t x) := by
  have entered := (journalWrite_txns m t { x with st := .reported, reserved := false, sumpWaiting := false }).snd
  unfold txnReported journal
  extract_lets noted counted
  have out : TxnsAre (tset m.chn.txns t (txnOut x)) counted := entered.modChn rfl
  exact holds_ite (endpointOff_txns out) out

/-! ## Records for the sump (R573, R574) -/

theorem sumpPut_txns {src : Nat} {rec_ : Bytes} (h : TxnsAre txns m) : SndTxnsAre txns (sumpPut m src rec_) := by
  unfold sumpPut
  extract_lets vec lost hub
  have lostKeeps {n : Mach} {line : Nat} (h : TxnsAre txns n) : SndTxnsAre txns (lost n line) := by
    dsimp only [lost]
    exact holds_ite h.answer (TxnsAre.answer (((h.modChn rfl).of_chn (raiseErr_chn ..)).of_chn (raiseEvent_chn ..)))
  refine holds_ite (TxnsAre.answer h) ?_
  split
  next e => exact lostKeeps (h.of_chn (chn_of_eq e (ringHead_chn ..)))
  next head n e =>
  have headRead := h.of_chn (chn_of_eq e (ringHead_chn ..))
  extract_lets noted va
  have noted_ : TxnsAre txns noted := headRead.modChn rfl
  refine holds_ite noted_.answer ?_
  split
  next e1 => exact lostKeeps (noted_.of_chn (chn_of_eq e1 (hubAddr_chn ..)))
  next pa found e1 =>
  have found_ := noted_.of_chn (chn_of_eq e1 (hubAddr_chn ..))
  refine holds_ite (lostKeeps found_) ?_
  split
  next e2 => exact lostKeeps (found_.of_chn (chn_of_eq e2 (ringPut_chn ..)))
  next e2 => exact TxnsAre.answer (((found_.of_chn (chn_of_eq e2 (ringPut_chn ..))).modChn rfl).of_chn (raiseEvent_chn ..))

/-! ## The jobs whose records wait for the sump (R573, R668, R674) -/

theorem queuesOff_chn (m : Mach) (l : Nat) : (queuesOff m l).chn = m.chn := by
  refine foldl_keeps Mach.chn (fun m kind => foldl_keeps Mach.chn (fun m q => ?_) _ _) _ _
  split <;> rfl

theorem freeJob_txns {x : Job} (h : TxnsAre txns m) : TxnsAre txns (freeJob m x) := by
  have freed : TxnsAre txns (ledgerAdd (modJobs m (fun j => { j with jobs := tdel j.jobs x.num })) x.kind x.lease 0 1) := h.of_chn rfl
  exact holds_ite (freed.of_chn (queuesOff_chn ..)) freed

theorem jobToSump_txns {x : Job} {reason : Nat} (h : TxnsAre txns m) : SndTxnsAre txns (jobToSump m x reason) := by
  unfold jobToSump
  extract_lets rec_
  split
  next e => exact TxnsAre.answer (freeJob_txns ((sumpPut_txns h).of_eq e))
  next e => exact TxnsAre.answer (((sumpPut_txns h).of_eq e).of_chn rfl)

theorem jobOut_txns {x : Job} (h : TxnsAre txns m) : SndTxnsAre txns (jobOut m x) := by
  unfold jobOut
  split
  · exact jobToSump_txns h
  · extract_lets hub src r base size
    split
    next e => exact jobToSump_txns (h.of_chn (chn_of_eq e (ringPut_chn ..)))
    next n e =>
    have put := h.of_chn (chn_of_eq e (ringPut_chn ..))
    have tail : TxnsAre txns (setJobRing n x.kind x.lease x.queue { r with tail := r.tail + 1 }) := put.of_chn rfl
    exact TxnsAre.answer ((freeJob_txns tail).of_chn (raiseEvent_chn ..))

theorem queueOut_txns {fuel kind l q : Nat} (h : TxnsAre txns m) : TxnsAre txns (queueOut fuel m kind l q) := by
  induction fuel generalizing m with
  | zero => exact h
  | succ f ih =>
    unfold queueOut
    split
    · exact h
    · refine holds_ite h ?_
      split
      next e => exact ih ((jobOut_txns h).of_eq e)
      next e => exact (jobOut_txns h).of_eq e

theorem jobsDrain_txns (h : TxnsAre txns m) : TxnsAre txns (jobsDrain m) := foldl_holds (fun _ _ held => queueOut_txns held) h

end

end Sys2Proof.Machine
end

section
/-! The commands of channel processors, paths, journal and sump (R542, R569, R573, R581, R582, R585, R586, R638). -/

namespace Sys2Proof.Machine

/-! ## The journal moves and the sump is replaced (R573, R581, R582) -/

section
variable {m : Mach}

theorem jrnMoved_of_idle {nb : Nat} (move : m.chn.jrnMove = some nb) (idle : openTxns m = []) :
    jrnMoved m = modChn m (fun c => { c with jrn := BitVec.ofNat 64 (nb + 1), jrnMove := none, journal := 1 }) := by
  unfold jrnMoved
  split
  · next e => exact absurd (move.symm.trans e) (Option.some_ne_none nb)
  · next base e =>
    obtain rfl : base = nb := Option.some.inj (e.symm.trans move)
    extract_lets copied
    have none_ : copied = m := by rw [show copied = List.foldl _ m (openTxns m) from rfl, idle, List.foldl_nil]
    rw [none_]

/-- A system vector is no vector of the sump. -/
theorem sumpWrite_of_system_vector {v : Word} (system : bits v.toNat 59 48 < 16) : sumpWrite v m = none := if_pos system

/-- A sump that has lost nothing and that no open transaction uses is replaced by one of another base. -/
theorem sumpWrite_of_moved {v : Word} (vector : 16 ≤ bits v.toNat 59 48) (whole : m.chn.sumpLost = false) (idle : openTxns m = [])
    (moved : bits v.toNat 47 6 ≠ bits m.chn.sump.toNat 47 6) (size : bits v.toNat 63 60 ≤ 11) :
    sumpWrite v m = some (modChn m (fun c => { c with
      sump := pack [(60, 4, bits v.toNat 63 60), (48, 12, bits v.toNat 59 48), (6, 42, bits v.toNat 47 6), (0, 1, v.toNat % 2)],
      sumpTail := 0, sumpHead := 0 })) := by
  have base : (bits v.toNat 47 6 == bits m.chn.sump.toNat 47 6) = false := beq_eq_false_iff_ne.mpr moved
  have fits : ¬11 < bits v.toNat 63 60 := Nat.not_lt.mpr size
  simp [sumpWrite, Nat.not_lt.mpr vector, whole, idle, base, fits]

/-! ## The record that waits for the sump (R573, R574) -/

theorem sumpWaiters_of_one {t : Nat} {x : Txn} (txns : TxnsAre [(t, x)] m) : sumpWaiters m = if x.sumpWaiting then [t] else [] := by
  cases waits : x.sumpWaiting <;> simp [sumpWaiters, txns.eq, waits]

/-- The only record that waits is written to a sump that has room; then the jobs' records may follow. -/
theorem sumpDrain_of_one {m1 : Mach} {t : Nat} {x : Txn} (txns : TxnsAre [(t, x)] m) (waits : x.sumpWaiting = true)
    (put : sumpPut m (0x0900 + x.cp) (sumpRecord { x with sumpWaiting := false } x.sumpReason m) = (.written, m1)) (kept : TxnsAre [(t, x)] m1) :
    TxnsAre [(t, txnOut { x with sumpWaiting := false })] (sumpDrain m) := by
  have found : txn m t = some x := by simp [txn, txns.eq, tfind]
  have first : m.chn.txns.any (fun p => p.2.sumpWaiting && decide (p.2.order < x.order)) = false := by simp [txns.eq]
  have reported : TxnsAre [(t, txnOut { x with sumpWaiting := false })] (txnReported m1 t { x with sumpWaiting := false }) := by
    have out := txnReported_txns m1 t { x with sumpWaiting := false }
    rwa [kept.eq, tset, if_pos rfl] at out
  unfold sumpDrain
  extract_lets tried
  have tried_ : TxnsAre [(t, txnOut { x with sumpWaiting := false })] tried := by
    dsimp only [tried]
    rw [sumpWaiters_of_one txns, if_pos waits, List.foldl_cons, List.foldl_nil]
    split
    next y e =>
      obtain rfl : y = x := Option.some.inj (e.symm.trans found)
      rw [if_neg (ne_true_of_eq_false first), txnToSump, put]
      exact reported
    next e => exact absurd (found.symm.trans e) (Option.some_ne_none x)
  rw [sumpWaiters_of_one tried_]
  exact jobsDrain_txns tried_

end

/-! ## The commands -/

/-- A path whose partner cannot be reached fails with reason 7 and sends nothing (R638). -/
theorem pathOnlineNow_fails {m : Mach} {p : Nat} (kind : pathKind m p = 1) (off : onPrefix m (pathLink m p) p = false)
    (hop : nextHop m (pathLink m p) = 0) (idle : pathTxns m p = []) : (path (pathOnlineNow m p) p).st = .failed ∧
      (path (pathOnlineNow m p) p).reason = 7 ∧ (pathOnlineNow m p).out = m.out ∧ (pathOnlineNow m p).mem = m.mem := by
  have st : (path (pathEstablishing m p) p).st = .establishing := by rw [pathEstablishing, path_setPath]
  have idle_ : pathTxns (pathEstablishing m p) p = [] := idle
  have silent : (pathFails (pathEstablishing m p) p 7).out = m.out := by
    rw [pathFails_of_idle (.inr st) idle_, if_neg (by simp [st])]
    rfl
  obtain ⟨failed, reason, mem, -⟩ := pathFails_shows (.inr st) idle_ 7
  rw [pathOnlineNow_of_unreachable kind off hop]
  exact ⟨failed, reason, silent, mem⟩

/-- Settles O31: each command by what it makes of its path, its channel processor, the journal or the sump. -/
theorem channelProcessorCommands : Obligations.ChannelProcessorCommands := by
  refine ⟨fun s a run => ⟨?_, ?_, ?_, ?_, ?_, ?_, ?_⟩, fun s a v may => ⟨?_, ?_, ?_, ?_, ?_⟩⟩
  · intro p may rests carrier reach
    refine completes_pathCmd (exec_pathOnline ..) may run ?_
    rw [pathCmd_online rests carrier]
    exact pathOnlineNow_shows reach
  · intro p may rests carrier kind off hop idle
    refine completes_pathCmd (exec_pathOnline ..) may run ?_
    rw [pathCmd_online rests carrier]
    exact pathOnlineNow_fails kind off hop idle
  · intro p may up idle
    refine completes_pathCmd (exec_pathOffline ..) may run ?_
    rw [pathCmd_drain up idle, path_modPath]
    exact ⟨rfl, rfl, rfl⟩
  · intro p may failed
    refine completes_pathCmd (exec_pathOffline ..) may run ?_
    rw [pathCmd_offline failed, path_modPath]
    exact ⟨rfl, rfl, rfl⟩
  · intro c may active
    exact completes_ctlWrite (exec_cpOffline ..) may (cpOfflineNow_shows active)
  · intro c may offline
    rw [ctlWrite_next (exec_cpOnline ..) may, cpOnlineNow, if_pos offline]
  · intro c active
    exact completes_runUnits (exec_cpFailure ..) run (cpFails_shows active)
  · exact ctlWrite_next (exec_chnJrnMove ..) may
  · intro nb run move idle
    rw [runUnits_next (exec_journalMoveComplete ..) run, jrnMoved_of_idle move idle]
    rfl
  · intro system
    rw [exec_chnSumpReplace, execChnSumpReplace, runM, ctlWriteRule_of_writable may, sumpWrite_of_system_vector system]
    rfl
  · intro vector whole idle moved size
    refine completes_runM (exec_chnSumpReplace ..) ?_
    rw [ctlWriteRule_of_writable may, sumpWrite_of_moved vector whole idle moved size]
    exact ⟨rfl, rfl, rfl, rfl⟩
  · intro t x m1 run txns waits put kept
    refine completes_runUnits (exec_sumpSpaceAvailable ..) run ⟨txnOut { x with sumpWaiting := false }, ?_, rfl, rfl, rfl⟩
    rw [txn, (sumpDrain_of_one ⟨txns⟩ waits put ⟨kept.trans txns⟩).eq, tfind, if_pos rfl]

end Sys2Proof.Machine
end

section
/-! What no write of memory can change (R22, R445 to R489, R490 to R539): for every view of the machine that leaves out the logs and what memory,
caches, homes and mesh hold, one equation per operation that a write of a unit can reach, in the order of the model. Links, PCIe ports and the
states of units are such views, and so no path that fails touches them. -/

namespace Sys2Proof.Machine

/-! ## Views that leave memory out -/

/-- The machine without what memory, its channels, the caches, the home nodes and the mesh hold, and without the protocol errors found. -/
def withoutMemory (m : Mach) : Mach :=
  { m with tick := 0, mode := { m.mode with found := [], foundAt := [] }, l2 := [], homes := [], mesh := [], l1d := [], l1i := [], eside := [],
           resv := [], mem := Memory.reset, chans := [], seams := [] }

/-- A view of the machine in which neither logs nor what an access to memory works on show. -/
structure MemBlind (α : Type) where
  see : Mach → α
  logged : ∀ {m m'}, Logged m m' → see m' = see m
  memory : ∀ {m m'}, withoutMemory m' = withoutMemory m → see m' = see m

section
variable {α : Type} (v : MemBlind α) (m : Mach)

@[simp] theorem see_touch : v.see (touch m) = v.see m := v.memory rfl
@[simp] theorem see_send (x : Msg) : v.see (send m x) = v.see m := v.memory rfl
@[simp] theorem see_modL2 (b : Nat) (f : L2St → L2St) : v.see (modL2 m b f) = v.see m := v.memory rfl
@[simp] theorem see_modHome (h : Nat) (f : Home → Home) : v.see (modHome m h f) = v.see m := v.memory rfl
@[simp] theorem see_modChan (c : Nat) (f : Chan → Chan) : v.see (modChan m c f) = v.see m := v.memory rfl
@[simp] theorem see_modSeam (k : Nat) (f : Seam → Seam) : v.see (modSeam m k f) = v.see m := v.memory rfl

theorem see_mem (x : Memory) : v.see { m with mem := x } = v.see m := v.memory rfl

end

/-! ## Memory channels and seams -/

section
variable {α : Type} (v : MemBlind α) (m : Mach) (n h : Nat)

@[simp] theorem see_raiseErrD (cause src det : Nat) (d : Bytes) (ls addr : Option Nat) (i : Nat) :
    v.see (raiseErrD m cause src det d ls addr i) = v.see m := v.logged (raiseErrD_logged ..)
@[simp] theorem see_raiseErr (cause src : Nat) (d : Bytes) : v.see (raiseErr m cause src d) = v.see m := v.logged (raiseErr_logged ..)
@[simp] theorem see_takeStamp (src : Nat) : v.see (takeStamp m src).2 = v.see m := v.logged (takeStamp_logged ..)
@[simp] theorem see_memRange (src : Nat) : v.see (memRange m h n src) = v.see m := see_raiseErrD ..
@[simp] theorem see_setRead (r : LineRead) : v.see (setRead m n r) = v.see m := v.memory rfl
@[simp] theorem see_endRead : v.see (endRead m n) = v.see m := v.memory rfl
@[simp] theorem see_queueRead (p src : Nat) (ls : Option Nat) (stream : Bool) : v.see (queueRead m n p src ls stream) = v.see m := v.memory rfl

@[simp] theorem see_markCatchUp : v.see (markCatchUp m n) = v.see m := by
  dsimp only [markCatchUp]
  split <;> exact v.memory rfl

@[simp] theorem see_writeLeft (c : Nat) : v.see (writeLeft m c) = v.see m := v.memory rfl

@[simp] theorem see_dropWrites : v.see (dropWrites m n) = v.see m := by
  refine foldl_keeps v.see (fun m w => ?_) _ _
  exact (foldl_keeps v.see (fun m (e : Nat × PReq) => see_writeLeft v m e.1) _ _).trans (see_mem v m _)

@[simp] theorem see_memWriteNow (d : Line) (poison : Bool) : v.see (memWriteNow m n d poison) = v.see m := by
  unfold memWriteNow
  split
  · rfl
  · exact (see_mem v _ _).trans (by simp)

@[simp] theorem see_acceptWrite (d : Line) (poison : Bool) (src : Nat) (ls : Option Nat) : v.see (acceptWrite m h n d poison src ls) = v.see m := by
  dsimp only [acceptWrite]
  split
  · simp
  · split
    · rfl
    · exact (foldl_keeps v.see (fun m _ => (see_modChan ..).trans (see_modChan ..)) _ _).trans ((see_mem v _ _).trans (see_markCatchUp ..))

@[simp] theorem see_startRead (src : Nat) (ls : Option Nat) (stream : Bool) : v.see (startRead m n src ls stream) = v.see m := by
  dsimp only [startRead]
  split
  · simp
  · have queued (l : List Nat) : v.see (l.foldl (fun m p => queueRead m n p src ls stream) m) = v.see m :=
      foldl_keeps v.see (fun m p => see_queueRead v m n p src ls stream) _ _
    rw [see_setRead]
    split <;> simp [queued]

@[simp] theorem see_readServed : v.see (readServed m n) = v.see m := by
  dsimp only [readServed]
  split
  · rfl
  · exact (see_setRead ..).trans (foldl_keeps v.see (fun m _ => see_modChan v m _ _) _ _)

end

/-! ## The benches -/

section
variable {α : Type} (v : MemBlind α) (m : Mach) (b n : Nat)

@[simp] theorem see_noteFault (f : FaultEv) : v.see (noteFault m f) = v.see m := by
  refine v.memory ?_
  dsimp only [noteFault, modMode, withoutMemory]
  split <;> rfl

@[simp] theorem see_dropL1I : v.see (dropL1I m b n) = v.see m := v.memory rfl
@[simp] theorem see_dropL1 : v.see (dropL1 m b n) = v.see m := by
  unfold dropL1
  exact (see_modL2 ..).trans (v.memory rfl)
@[simp] theorem see_clearResv (except : Option Nat) : v.see (clearResv m n except) = v.see m := v.memory rfl
@[simp] theorem see_setLine (x : L2Line) : v.see (setLine m b n x) = v.see m := see_modL2 ..
@[simp] theorem see_delLine : v.see (delLine m b n) = v.see m := see_modL2 ..
@[simp] theorem see_benchRsp (kind : Nat) (d : Option (Line × Bool)) : v.see (benchRsp m b n kind d) = v.see m := see_send ..
@[simp] theorem see_benchReq (op : ReqOp) (ls : Nat) (self incl : Bool) (d : Line) (poison : Bool) :
    v.see (benchReq m b op n ls self incl d poison) = v.see m := see_send ..

@[simp] theorem see_benchError (code : Nat) : v.see (benchError m b code n) = v.see m := by simp [benchError]

@[simp] theorem see_replaceLine : v.see (replaceLine m b n) = v.see m := by
  dsimp only [replaceLine]
  split
  · rfl
  · split <;> simp

/-- A snoop changes the line, and sends its response. -/
@[simp] theorem see_answerSnoop (op : SnpOp) (maint incl : Bool) : v.see (answerSnoop m b n op maint incl) = v.see m := by
  unfold answerSnoop
  split
  · exact see_benchRsp ..
  · extract_lets held op dat gone keep clean lose hand
    split
    · exact see_benchRsp ..
    · split <;> simp [gone, keep, clean, lose, hand]

@[simp] theorem see_benchSnoop (op : SnpOp) (maint incl : Bool) : v.see (benchSnoop m b n op maint incl) = v.see m := by
  unfold benchSnoop
  extract_lets defer
  split <;> simp

@[simp] theorem see_sideFill (y : L2Line) : v.see (sideFill m b n y) = v.see m := by
  dsimp only [sideFill]
  split
  · split <;> simp
  · simp

@[simp] theorem see_benchFill (kind : Nat) (d : Line) (poison : Bool) (mhz : Nat) : v.see (benchFill m b n kind d poison mhz) = v.see m := by
  unfold benchFill
  split
  · simp
  · extract_lets ok st y
    split
    · simp
    · split
      · simp
      · split
        · rfl
        · dsimp only
          split <;> simp

@[simp] theorem see_benchGrant (mhz : Nat) : v.see (benchGrant m b n mhz) = v.see m := by
  dsimp only [benchGrant]
  split
  · simp
  · split <;> simp

@[simp] theorem see_fillKept : v.see (fillKept m b n) = v.see m := by
  dsimp only [fillKept]
  split <;> simp

@[simp] theorem see_fillLine (kind : Nat) (d : Line) (poison : Bool) : v.see (fillLine m b n kind d poison id) = v.see m := by
  dsimp only [fillLine]
  split <;> simp

@[simp] theorem see_grantLine : v.see (grantLine m b n id) = v.see m := by
  dsimp only [grantLine]
  split
  · simp [apply_ite v.see]
  · simp [apply_ite v.see]
  · simp

@[simp] theorem see_trackerFree : v.see (trackerFree m b) = v.see m := by
  dsimp only [trackerFree]
  split
  · refine foldl_keeps v.see (fun m p => ?_) _ _
    split <;> simp
  · rfl

@[simp] theorem see_benchWbAck : v.see (benchWbAck m b n) = v.see m := by
  dsimp only [benchWbAck]
  split <;> simp

@[simp] theorem see_benchWbStale : v.see (benchWbStale m b n) = v.see m := by
  dsimp only [benchWbStale]
  split <;> simp

@[simp] theorem see_tenureEnds : v.see (tenureEnds m b n) = v.see m := by
  dsimp only [tenureEnds]
  split
  · rfl
  · split <;> simp

end

/-! ## The home nodes: the L3, the directory, one request -/

section
variable {α : Type} (v : MemBlind α) (m : Mach) (h n : Nat)

@[simp] theorem see_setTxn (t : HTxn) : v.see (setTxn m h n t) = v.see m := v.memory rfl
@[simp] theorem see_setDir (d : DirEnt) : v.see (setDir m h n d) = v.see m := v.memory rfl
@[simp] theorem see_useL3 : v.see (useL3 m h n) = v.see m := v.memory rfl
@[simp] theorem see_homeStable : v.see (homeStable m h n) = v.see m := v.memory rfl
@[simp] theorem see_buddyMir (d : Line) (poison : Bool) : v.see (buddyMir m h n d poison) = v.see m := v.memory rfl
@[simp] theorem see_buddyMirRel : v.see (buddyMirRel m h n) = v.see m := v.memory rfl

@[simp] theorem see_homeError (code : Nat) : v.see (homeError m h code n) = v.see m := by simp [homeError]

@[simp] theorem see_dropL3 : v.see (dropL3 m h n) = v.see m := by
  dsimp only [dropL3]
  split
  · rfl
  · split <;> exact v.memory rfl

@[simp] theorem see_cleanL3 : v.see (cleanL3 m h n) = v.see m := by
  dsimp only [cleanL3]
  split
  · rfl
  · split <;> simp

@[simp] theorem see_putL3 (d : Line) (poison dirty : Bool) : v.see (putL3 m h n d poison dirty) = v.see m := by
  dsimp only [putL3]
  split
  · simp
  · split
    · simp
    · split <;> simp

@[simp] theorem see_makeRoom : v.see (makeRoom m h n) = v.see m := by
  dsimp only [makeRoom]
  split
  · rfl
  · split <;> simp

@[simp] theorem see_sendSnoops (r : HReq) (op : SnpOp) (dst : List Nat) : v.see (sendSnoops m r op dst) = v.see m :=
  foldl_keeps v.see (fun _ _ => by exact v.memory rfl) _ _

@[simp] theorem see_homeStartRead (r : HReq) : v.see (homeStartRead m h r) = v.see m := by
  dsimp only [homeStartRead]
  split <;> simp

@[simp] theorem see_grant (t : HTxn) (kind : Nat) (d : Line) (poison : Bool) : v.see (grant m h t kind d poison) = v.see m := by
  simp [grant, apply_ite v.see]

@[simp] theorem see_homeWrite (t : HTxn) (d : Line) (poison : Bool) (after : HAfter) (forceMem : Bool) :
    v.see (homeWrite m h t d poison after forceMem) = v.see m := by
  simp [homeWrite, apply_ite v.see]

@[simp] theorem see_homeAck (r : HReq) : v.see (homeAck m r) = v.see m := by
  dsimp only [homeAck]
  split <;> exact v.memory rfl

/-- However a request ends, it ends with a grant, a write, an acknowledgement or none. -/
@[simp] theorem see_homeResolve (t : HTxn) : v.see (homeResolve m h t) = v.see m := by
  dsimp only [homeResolve]
  split <;> simp [apply_ite v.see]

@[simp] theorem see_evictStart : v.see (evictStart m h n) = v.see m := by
  dsimp only [evictStart]
  split <;> simp

@[simp] theorem see_dirWait (r : HReq) : v.see (dirWait m h r) = v.see m := by simp [dirWait]

@[simp] theorem see_snoopRound (r : HReq) (op : SnpOp) (dst : List Nat) (withRead upgHolder : Bool) :
    v.see (snoopRound m h r op dst withRead upgHolder) = v.see m := by
  simp [snoopRound, apply_ite v.see]

end

/-! ## The home nodes: requests, responses, reads and writes -/

section
variable {α : Type} (v : MemBlind α) (m : Mach) (h n : Nat)

@[simp] theorem see_serveReq (r : HReq) : v.see (serveReq m h r) = v.see m := by
  unfold serveReq
  extract_lets n e st b read owner whole asRdX given _ t
  clear_value st
  have rdX : v.see (asRdX m) = v.see m := by
    dsimp only [asRdX, read]
    split <;> simp
  split
  · split <;> simp [read]
  · exact rdX
  · split
    · split <;> simp [rdX]
    · split <;> simp [rdX]
    · split <;> simp [rdX]
    · exact rdX
  · simp [apply_ite v.see, given]
  · simp [apply_ite v.see]
  · split <;> simp [read]
  · split <;> simp [apply_ite v.see, read]
  · split <;> simp [apply_ite v.see]
  · split <;> simp
  · split <;> simp
  · simp
  · rfl

@[simp] theorem see_serveOrWait (r : HReq) : v.see (serveOrWait m h r) = v.see m := by
  dsimp only [serveOrWait]
  split <;> simp

@[simp] theorem see_homeNext (fuel : Nat) : v.see (homeNext fuel m h n) = v.see m := by
  induction fuel generalizing m with
  | zero => rfl
  | succ f ih =>
    dsimp only [homeNext]
    split
    · rfl
    · split <;> simp [ih]

@[simp] theorem see_homeQueue : v.see (homeQueue m h n) = v.see m := see_homeNext ..

@[simp] theorem see_dirRetry : v.see (dirRetry m h) = v.see m := by
  refine foldl_keeps v.see (fun m r => ?_) _ _
  split <;> simp

@[simp] theorem see_homeDrain : v.see (homeDrain m h n) = v.see m := by simp [homeDrain]

@[simp] theorem see_homeReq (r : HReq) : v.see (homeReq m h r) = v.see m := by simp [homeReq, apply_ite v.see]

@[simp] theorem see_homeRsp (b kind : Nat) (d : Option (Line × Bool)) : v.see (homeRsp m n b kind d) = v.see m := by
  dsimp only [homeRsp]
  split
  · simp
  · simp [apply_ite v.see]

@[simp] theorem see_homeReadBack : v.see (homeReadBack m n) = v.see m := by
  dsimp only [homeReadBack]
  split
  · rfl
  · simp [apply_ite v.see]

@[simp] theorem see_homeWritten (now : Bool) : v.see (homeWritten m n now) = v.see m := by
  unfold homeWritten
  extract_lets h
  split
  · rfl
  · split
    · rfl
    · extract_lets newest taken written
      have kept : v.see written = v.see m := by
        dsimp only [written, taken]
        split
        · split <;> simp [apply_ite v.see]
        · rfl
      split <;> simp [kept]

@[simp] theorem see_homeDone (b : Nat) : v.see (homeDone m n b) = v.see m := by
  dsimp only [homeDone]
  split
  · simp
  · split <;> simp

@[simp] theorem see_homeMirAck : v.see (homeMirAck m n) = v.see m := by
  dsimp only [homeMirAck]
  split
  · split <;> simp
  · simp

end

/-! ## Accesses of one line in one step -/

section
variable {α : Type} (v : MemBlind α) (m : Mach) (n : Nat)

@[simp] theorem see_deliverMsg (x : Msg) : v.see (deliverMsg m x) = v.see m := by
  unfold deliverMsg
  split <;> simp

theorem see_settleLine {m m' : Mach} {n : Nat} (next : settleLine m n = some m') : v.see m' = v.see m := by
  unfold settleLine at next
  split at next
  · obtain rfl := Option.some.inj next
    exact (see_deliverMsg ..).trans (v.memory rfl)
  · split at next
    · obtain rfl := Option.some.inj next
      simp
    · split at next
      · nomatch next
      · split_ifs at next
        · obtain rfl := Option.some.inj next
          simp
        · obtain rfl := Option.some.inj next
          simp

theorem see_settleStep {m m' : Mach} {n : Nat} (next : settleStep m n = some m') : v.see m' = v.see m := by
  unfold settleStep at next
  split at next
  · next line =>
    obtain rfl := Option.some.inj next
    exact see_settleLine v line
  · dsimp only at next
    split_ifs at next
    obtain ⟨p, -, line⟩ := List.exists_of_findSome?_eq_some next
    exact see_settleLine v line

@[simp] theorem see_settleTo (fuel : Nat) (done : Mach → Bool) : v.see (settleTo fuel m n done) = v.see m := by
  induction fuel generalizing m with
  | zero => rfl
  | succ f ih =>
    dsimp only [settleTo]
    split
    · rfl
    · split
      · rfl
      · next line => exact (ih _).trans (see_settleStep v line)

@[simp] theorem see_dropLast (p : Msg → Bool) : v.see (dropLast m p) = v.see m := v.memory rfl

theorem see_askHome {m m' : Mach} {r : HReq} {answer : Msg → Bool} {x : Msg} (asked : askHome m r answer = some (x, m')) : v.see m' = v.see m := by
  dsimp only [askHome] at asked
  split_ifs at asked
  obtain ⟨y, -, last⟩ := Option.map_eq_some_iff.mp asked
  obtain ⟨-, rfl⟩ := Prod.mk.inj last
  simp

@[simp] theorem see_cohStore (d : Line) (poison : Bool) : v.see (cohStore m n d poison) = v.see m := by
  unfold cohStore
  extract_lets h dropped sent busy served cleared placed
  have drops : v.see dropped = v.see m := by
    refine foldl_keeps v.see (fun m p => ?_) _ _
    split
    · rfl
    · dsimp only
      split <;> simp
  have sends : v.see sent = v.see m := Eq.trans (b := v.see dropped) (v.memory rfl) drops
  have serves : v.see cleared = v.see m := by
    dsimp only [cleared, served, busy]
    split <;> simp [sends]
  split <;> simp [placed, serves]

@[simp] theorem see_cohWrite (mask : BitVec 256) (d : Line) : v.see (cohWrite m n mask d) = v.see m := see_cohStore ..

@[simp] theorem see_ioWrite (src ls : Nat) (mask : BitVec 256) (d : Line) : v.see (ioWrite m src ls n mask d) = v.see m := by
  dsimp only [ioWrite]
  split
  · simp
  · split
    · simp
    · split
      · next asked => exact see_askHome v asked
      · simp

end

/-! ## Writes of units that hold no line (R22) -/

section
variable {α : Type} (v : MemBlind α) (m : Mach) (src : Nat)

@[simp] theorem see_unitPut (l pa : Nat) (b : Bytes) : v.see (unitPut m src l pa b) = v.see m := by
  unfold unitPut
  split
  · exact v.logged (refuseAccess_logged ..)
  · simp

@[simp] theorem see_physWrite (fuel pa : Nat) (b : Bytes) : v.see (physWrite fuel m src pa b) = v.see m := by
  induction fuel generalizing m pa b with
  | zero => rfl
  | succ f ih =>
    dsimp only [physWrite]
    split <;> simp [ih]

@[simp] theorem see_wrPhys (pa : Nat) (b : Bytes) : v.see (wrPhys m src pa b) = v.see m := see_physWrite ..

end

/-! ## Paths that fail (R542, R557 to R561, R566 to R571) -/

/-- The view leaves the channel subsystem out as well. -/
def ChnBlind {α : Type} (v : MemBlind α) : Prop := ∀ m f, v.see (modChn m f) = v.see m

/-- The view shows what is given. A predicate, which goes through an operation's branches where the kernel would compare the machines. -/
structure Shows {α : Type} (v : MemBlind α) (a : α) (m : Mach) : Prop where
  eq : v.see m = a

/-- The same of an operation that also answers something. -/
structure SndShows {α β : Type} (v : MemBlind α) (a : α) (r : β × Mach) : Prop where
  snd : Shows v a r.2

section
variable {α : Type} {v : MemBlind α} {m : Mach}

theorem Shows.of_see {a : α} {m' : Mach} (h : Shows v a m) (e : v.see m' = v.see m) : Shows v a m' := ⟨e.trans h.eq⟩

theorem Shows.answer {β : Type} {a : α} {b : β} (h : Shows v a m) : SndShows v a (b, m) := ⟨h⟩

theorem SndShows.of_eq {β : Type} {a : α} {r : β × Mach} {b : β} (h : SndShows v a r) (e : r = (b, m)) : Shows v a m := by
  subst e
  exact h.snd

variable (m) (blind : ChnBlind v) (p : Nat)
include blind

theorem ChnBlind.journalWrite (t : Nat) (x : Txn) : SndShows v (v.see m) (journalWrite m t x) := by
  unfold Machine.journalWrite
  extract_lets entry entered base ok lost
  have first : Shows v (v.see m) entered := ⟨blind ..⟩
  refine holds_ite ?_ (holds_ite first (.of_see ⟨(blind ..).trans first.eq⟩ (see_raiseErr ..))).answer
  split
  next stamp stamped e =>
  have second : Shows v (v.see m) stamped := SndShows.of_eq ⟨first.of_see (see_takeStamp ..)⟩ e
  extract_lets bytes written
  have third : Shows v (v.see m) written := holds_ite (second.of_see (see_wrPhys ..)) second
  refine Shows.answer ?_
  split
  · exact third.of_see (see_wrPhys ..)
  · exact third

theorem ChnBlind.journal (t : Nat) (x : Txn) : v.see (journal m t x) = v.see m := (blind.journalWrite m t x).snd.eq

theorem ChnBlind.txnLosesPath (t : Nat) (x : Txn) : v.see (txnLosesPath m t x).2 = v.see m := by
  unfold Machine.txnLosesPath
  extract_lets y counted
  split
  · exact blind.journal ..
  · split
    · exact (blind.journal ..).trans (blind ..)
    · exact (blind.journal ..).trans (blind ..)

theorem ChnBlind.pathFails (reason : Nat) : v.see (pathFails m p reason) = v.see m := by
  unfold Machine.pathFails
  extract_lets x wasOp helar failed
  split
  · rfl
  · have failed_ : v.see failed = v.see m := blind ..
    have lost : v.see ((pathTxns failed p).foldl (fun a q =>
        let (r, m) := Machine.txnLosesPath a.2 q.1 q.2
        (a.1 + b2n r, m)) (0, failed)).2 = v.see m :=
      (foldl_keeps (fun a : Nat × Mach => v.see a.2) (fun a q => blind.txnLosesPath ..) _ _).trans failed_
    split
    next n m' e =>
    rw [e] at lost
    split
    · exact (see_raiseErr ..).trans lost
    · exact lost

theorem ChnBlind.linkPathsFail (l reason : Nat) : v.see (linkPathsFail m l reason) = v.see m := by
  refine foldl_keeps v.see (fun m p => ?_) _ _
  split
  · exact blind.pathFails ..
  · rfl

theorem ChnBlind.portPathsFail (bus : Option Nat) (reason : Nat) : v.see (portPathsFail m p bus reason) = v.see m := by
  refine foldl_keeps v.see (fun m k => ?_) _ _
  extract_lets hit
  split
  · exact blind.pathFails ..
  · rfl

end

/-! ## Links, ports and the states of units are such views -/

def linksView : MemBlind (Tbl LinkSt) := ⟨Mach.links, Logged.links, congrArg Mach.links⟩
def portsView : MemBlind (Tbl PcieSt) := ⟨Mach.pcie, Logged.pcie, congrArg Mach.pcie⟩
def ustateView (k i : Nat) : MemBlind UState := ⟨fun m => ustate m k i, fun h => h.ustate k i, congrArg fun m => ustate m k i⟩

theorem linksView_see (m : Mach) : linksView.see m = m.links := rfl
theorem portsView_see (m : Mach) : portsView.see m = m.pcie := rfl
theorem ustateView_see (k i : Nat) (m : Mach) : (ustateView k i).see m = ustate m k i := rfl

theorem linksView_chn : ChnBlind linksView := fun _ _ => rfl
theorem portsView_chn : ChnBlind portsView := fun _ _ => rfl
theorem ustateView_chn (k i : Nat) : ChnBlind (ustateView k i) := fun _ _ => rfl

section
variable (m : Mach)

theorem linkPathsFail_links (k reason : Nat) : (linkPathsFail m k reason).links = m.links := by
  have kept := linksView_chn.linkPathsFail m k reason
  rwa [linksView_see, linksView_see] at kept

theorem ustate_linkPathsFail (k i l reason : Nat) : ustate (linkPathsFail m l reason) k i = ustate m k i := by
  have kept := (ustateView_chn k i).linkPathsFail m l reason
  rwa [ustateView_see, ustateView_see] at kept

theorem portPathsFail_pcie (k : Nat) (bus : Option Nat) (reason : Nat) : (portPathsFail m k bus reason).pcie = m.pcie := by
  have kept := portsView_chn.portPathsFail m k bus reason
  rwa [portsView_see, portsView_see] at kept

end

end Sys2Proof.Machine
end

section
/-! Links: what a read of a link gives after an update, and how a link trains, comes up, goes down and is taken out (R592, R593, R607, R640). -/

namespace Sys2Proof.Machine

/-! ## Reads and updates of a link -/

/-- Of two values set at one key the later one stands. -/
theorem tset_tset {α : Type} (t : Tbl α) (k : Nat) (v w : α) : tset (tset t k v) k w = tset t k w := by
  induction t with
  | nil => simp [tset]
  | cons p r ih =>
    by_cases e : p.1 = k <;> simp [tset, e, ih]

section
variable (m : Mach) (l : Nat)

@[simp] theorem link_modLink (f : LinkSt → LinkSt) : link (modLink m l f) l = f (link m l) := tget_tset_self ..
@[simp] theorem link_setUState (k i : Nat) (x : UState) : link (setUState m k i x) l = link m l := rfl

theorem link_of_links {m' : Mach} (e : m'.links = m.links) : link m' l = link m l := by rw [link, link, e]

/-- Two updates of a link are one. -/
theorem modLink_modLink (f g : LinkSt → LinkSt) : modLink (modLink m l f) l g = modLink m l (fun x => g (f x)) := by
  rw [modLink, link_modLink]
  exact congrArg (fun t => ({ m with links := t } : Mach)) (tset_tset ..)

theorem link_linkPathsFail (k reason : Nat) : link (linkPathsFail m k reason) l = link m l := link_of_links _ _ (linkPathsFail_links ..)

theorem link_lossCheck : link (lossCheck m) l = link m l :=
  lossCheck_blind (view := fun m => link m l) ⟨fun logged => link_of_links _ _ logged.links, fun _ _ => rfl, fun _ _ _ => rfl, fun _ _ _ => rfl⟩ m

theorem link_setLinkState (st : LinkState) : link (setLinkState m l st) l =
    { link m l with st := st, since := m.now, pausedTill := if st = .up then (link m l).pausedTill else [] } := link_modLink ..

end

/-! ## States (R592, R593, R607, R640) -/

section
variable {m : Mach} {l : Nat}

/-- ONLINE begins to train a link whose record gives it a speed. -/
theorem linkCmd_online (rests : (link m l).st = .offline ∨ (link m l).st = .failed) (speed : imgFld m 0x000C l 0 1 ≠ 0) :
    linkCmd m l 1 = setUState (modLink m l (fun x => { x with cmd := 1, attempts := 0, st := .training, since := m.now, pausedTill := [] }))
      0x06 l .active := by
  have noted : (link (modLink m l (fun x => { x with cmd := 1 })) l).st = (link m l).st := by rw [link_modLink]
  have record : imgFld (modLink m l (fun x => { x with cmd := 1 })) 0x000C l 0 1 ≠ 0 := speed
  unfold linkCmd
  dsimp only
  rcases rests with st | st <;>
  · rw [noted, st]
    rw [if_neg record, setLinkState, modLink_modLink, modLink_modLink]
    rfl

/-- What OFFLINE leaves before the link's paths fail. -/
def linkOff (m : Mach) (l : Nat) : Mach := setUState (setLinkState (modLink m l (fun x => { x with cmd := 2 })) l .offline) 0x06 l .offline

theorem linkCmd_offline (m : Mach) (l : Nat) : linkCmd m l 2 = linkOff m l ∨ linkCmd m l 2 = linkPathsFail (linkOff m l) l 1 := by
  unfold linkCmd
  extract_lets noted up off
  split
  next e _ => cases e
  next e _ => cases e
  next =>
    split
    · exact .inr rfl
    · exact .inl rfl
  next other _ _ => exact absurd rfl other

theorem linkCmd_offline_shows (m : Mach) (l : Nat) : (link (linkCmd m l 2) l).st = .offline ∧ ustate (linkCmd m l 2) 0x06 l = .offline := by
  have off : (link (linkOff m l) l).st = .offline ∧ ustate (linkOff m l) 0x06 l = .offline := by
    rw [linkOff, link_setUState, link_setLinkState, ustate_setUState_self]
    exact ⟨rfl, rfl⟩
  rcases linkCmd_offline m l with e | e <;> rw [e]
  · exact off
  · rwa [link_linkPathsFail, ustate_linkPathsFail]

theorem linkComesUp_of_training (trains : (link m l).st = .training) :
    linkComesUp m l = modLink m l (fun x => { x with attempts := 0, st := .up, since := m.now }) := by
  rw [linkComesUp, if_pos trains, setLinkState, modLink_modLink]
  rfl

theorem trainingAttemptTimeout_of_late (trains : (link m l).st = .training) (late : (link m l).since + 500000000 ≤ m.now) :
    trainingAttemptTimeout m l = linkAttemptFailed m l :=
  if_pos ⟨trains, late⟩

theorem linkAttemptFailed_again (few : (link m l).attempts < 15) :
    linkAttemptFailed m l = modLink m l (fun x => { x with attempts := x.attempts + 1, since := m.now }) :=
  if_neg (by omega)

/-- The sixteenth failed attempt in a row fails the link. -/
theorem linkAttemptFailed_last (many : 15 ≤ (link m l).attempts) : (link (linkAttemptFailed m l) l).st = .failed ∧
    ustate (linkAttemptFailed m l) 0x06 l = .failed ∧ (linkAttemptFailed m l).mem = m.mem := by
  unfold linkAttemptFailed
  extract_lets n counted
  have last : 16 ≤ n := by dsimp only [n]; omega
  rw [if_pos last]
  have recorded := raiseErr_logged (setUState (setLinkState counted l .failed) 0x06 l .failed) 0x0070 (0x0800 + l) (le 2 n)
  refine ⟨?_, (recorded.ustate ..).trans (ustate_setUState_self ..), recorded.mem⟩
  rw [link_of_links _ _ recorded.links, link_setUState, link_setLinkState]

theorem linkGoesDown_of_up (up : (link m l).st = .up) : (link (linkGoesDown m l) l).st = .training := by
  unfold linkGoesDown
  rw [if_neg (not_not.mpr up), link_setLinkState]

theorem pauseAgain_of_due (hold : m.mode.st = .hold) (up : (link m l).st = .up) (due : (link m l).pauseAt + 200000 ≤ m.now) :
    pauseAgain m l = emit (modLink m l (fun x => { x with pauseAt := m.now })) (.pause l (bit (imgFld m 0x000C l 1 1) 2) 0xFFFF) :=
  if_pos ⟨hold, up, due⟩

end

/-- A command register whose write may lose a unit: what the check for losses makes of the write's effect. -/
theorem completes_ctlWriteLoss {i : Instr} {s : State} {a : Actor} {kind index off : Nat} {f : Mach → Mach} {P : Mach → Prop}
    (e : exec i s = runAliveLoss s (ctlWrite a kind index off f)) (may : Writable s.m a kind index) (q : P (lossCheck (f s.m))) :
    Completes i s P :=
  completes_runAliveLoss e may.1 (by rwa [ctlWrite_of_writable may])

/-- Settles O34: each command by what it makes of its link, which neither failing paths nor the check for losses touch. -/
theorem linkStates : Obligations.LinkStates := by
  intro s a l may
  have ⟨live, role, _⟩ := may
  refine ⟨fun rests => ?_, ?_, fun trains notBare notTest => ?_, fun trains late few => ?_, fun trains late many => ?_, fun up => ?_,
    fun hold up due => ?_⟩
  · have speed : imgFld s.m 0x000C l.val 0 1 ≠ 0 := by simpa [unitHasRole] using role
    refine completes_ctlWrite (exec_linkOnline ..) may ?_
    rw [linkCmd_online rests speed, link_setUState, link_modLink, ustate_setUState_self]
    exact ⟨rfl, rfl, rfl, rfl, rfl, rfl⟩
  · refine completes_ctlWriteLoss (exec_linkOffline ..) may ?_
    rw [link_lossCheck, (lossCheck_stopKeeps _).ustate]
    exact linkCmd_offline_shows ..
  · have mode : (alive s.m && s.m.mode.st != .bare && s.m.mode.st != .test) = true := by simp [live, notBare, notTest]
    rw [exec_linkUp, execLinkUp, runM, if_pos mode, linkComesUp_of_training trains]
  · rw [runAlive_next (exec_trainingAttemptTimeout ..) live, trainingAttemptTimeout_of_late trains late, linkAttemptFailed_again few]
  · refine completes_runAlive (exec_trainingAttemptTimeout ..) live ?_
    rw [trainingAttemptTimeout_of_late trains late]
    exact linkAttemptFailed_last many
  · refine completes_runAliveLoss (exec_linkDown ..) live ?_
    rw [link_lossCheck]
    exact linkGoesDown_of_up up
  · rw [exec_pauseRepeat, execPauseRepeat, runM, pauseAgain_of_due hold up due]

end Sys2Proof.Machine
end

section
/-! Frames that a link receives: the MAC's checks, how a frame settles, and its place in a queue (R589, R590, R594, R595, R600, R601). -/

namespace Sys2Proof.Machine

/-! ## The MAC (R589, R590) -/

theorem not_hold_of_unitsRun {m : Mach} (run : unitsRun m = true) : m.mode.st ≠ .hold := by
  intro hold
  rw [unitsRun, hold] at run
  cases run

/-- A frame that passed the MAC's check has been counted. -/
def frameCounted (m : Mach) (l : Nat) : Mach := modLink m l (fun y => { y with rx := sat 0xFFFFFFFF (y.rx + 1) })

section
variable {m : Mach} {l : Nat} {f : Bytes}

theorem receiveFrame_of_bad_fcs (up : (link m l).st = .up) : receiveFrame m l f false = linkDrop m l 0 := by
  rw [receiveFrame, if_neg (not_not.mpr up)]
  rfl

theorem receiveFrame_of_good_fcs (run : unitsRun m = true) (up : (link m l).st = .up) :
    receiveFrame m l f true = if isMacControl f then takePause (frameCounted m l) l f else settleFrame (frameCounted m l) l f := by
  have works : (frameCounted m l).mode.st ≠ .hold := not_hold_of_unitsRun run
  rw [receiveFrame, if_neg (not_not.mpr up), if_neg (by simp)]
  exact if_neg works

end

/-! ## How a frame settles (R594, R595) -/

section
variable {m : Mach} {l : Nat} {f : Bytes}

theorem settleFrame_of_other_station (mac : (frameInfo f).dst ≠ linkMac m l) (cast : (frameInfo f).dst ≠ 0xFFFFFFFFFFFF)
    (group : bit (link m l).mcast.toNat 63 = false) (v6 : (frameInfo f).etype ≠ 0x86DD) : settleFrame m l f = linkDrop m l 1 := by
  unfold settleFrame
  exact if_pos ⟨mac, cast, by simp [group], by simp [v6]⟩

/-- A frame for the link's own address that is no PTP message is answered where it asks for that address. -/
theorem settleFrame_of_arp {r : Bytes} (mac : (frameInfo f).dst = linkMac m l) (ptp : isPtp (frameInfo f) = false)
    (arp : arpReply m l (frameInfo f) = some r) : settleFrame m l f = emit m (.frame l r) := by
  have plain : ¬(isPtp (frameInfo f) = true ∧ (ptpMasterOf m l).isSome = true) := by simp [ptp]
  unfold settleFrame
  dsimp only
  rw [if_neg fun away => away.1 mac, if_neg plain, arp]

/-- One that no protocol of the link takes goes to the queue that its rules or the default give. -/
theorem settleFrame_of_payload (mac : (frameInfo f).dst = linkMac m l) (ptp : isPtp (frameInfo f) = false)
    (arp : arpReply m l (frameInfo f) = none) (nd : ndReply m l (frameInfo f) = none) (other : isResolution (frameInfo f) = false)
    (udp : (frameInfo f).proto ≠ 17) :
    (classify m l (frameInfo f) = none → settleFrame m l f = linkDrop m l 2) ∧
    (∀ n q rule, classify m l (frameInfo f) = some (n, q, rule) → settleFrame m l f = placeFrame m l n q rule f (frameInfo f)) := by
  have plain : ¬(isPtp (frameInfo f) = true ∧ (ptpMasterOf m l).isSome = true) := by simp [ptp]
  have payload : ¬isResolution (frameInfo f) = true := by simp [other]
  have helar : ¬((frameInfo f).proto = 17 ∧ (frameInfo f).dst6 = linkAddr m l) := fun h => udp h.1
  unfold settleFrame
  dsimp only
  rw [if_neg fun away => away.1 mac, if_neg plain, arp, nd]
  dsimp only
  rw [if_neg payload, if_neg helar]
  refine ⟨fun none_ => ?_, fun n q rule queue => ?_⟩
  · rw [none_]
  · rw [queue]

end

/-! ## The count of received frames moves nothing that a frame settles by -/

section
variable (m : Mach) (l : Nat)

theorem ruleBytes_frameCounted : ruleBytes (frameCounted m l) l = ruleBytes m l := by
  funext r
  simp [ruleBytes, frameCounted]

theorem classify_frameCounted (x : FrameInfo) : classify (frameCounted m l) l x = classify m l x := by
  unfold classify
  rw [ruleBytes_frameCounted]
  rfl

end

/-! ## Frame queues (R600 to R603) -/

section
variable (m : Mach) (l q : Nat)

@[simp] theorem fq_setFq (x : FqSt) : fq (setFq m l q x) l q = x := tget_tset_self ..

theorem fq_of_fqs {m' : Mach} (e : m'.fqs = m.fqs) : fq m' l q = fq m l q := by rw [fq, fq, e]

/-- A signal leaves its queue with no descriptor to signal. -/
theorem fq_fqSignal (k : Nat) : fq (fqSignal m k l q) l q = { fq m l q with unsignalled := 0 } := by
  unfold fqSignal
  extract_lets x cleared
  rw [fq_of_fqs _ _ _ (raiseEvent_logged ..).fqs, fq_setFq]

/-- A descriptor that completes raises DONE by one, signalled at once or not. -/
theorem fqComplete_done (k : Nat) (d : Bytes) : (fq (fqComplete m k l q d) l q).done = (fq m l q).done + 1 := by
  unfold fqComplete
  extract_lets x hub written told noted
  have done : (fq noted l q).done = (fq m l q).done + 1 := by rw [fq_setFq]
  split
  · rwa [fq_fqSignal]
  · exact done

end

/-! ## A frame's place in a queue (R600, R601) -/

theorem length_le (n v : Nat) : (le n v).length = n := by
  induction n generalizing v with
  | zero => rfl
  | succ n ih => rw [le, List.length_cons, ih]

/-- The descriptor of a received frame (R601): buffer, length, what the link found of the frame, the rule that decided, VLAN and time stamp. -/
def frameDesc (m : Mach) (n q rule : Nat) (buf : Nat) (f : Bytes) (x : FrameInfo) (t : Word) : Bytes :=
  le 8 buf ++ le 2 f.length ++ le 1 (fqPhase m n q + 2 * b2n x.ipGood + 4 * b2n x.l4Good +
    8 * b2n ((x.v4 && !x.ipGood) || (x.l4Checked && !x.l4Good)) + 16 * b2n x.vlan.isSome) ++ le 1 0 ++ le 2 rule ++ le 2 (x.vlan.getD 0) ++
    le 8 t.toNat ++ le 8 0

theorem frameDesc_buffer (m : Mach) (n q rule buf : Nat) (f : Bytes) (x : FrameInfo) (t : Word) :
    (frameDesc m n q rule buf f x t).take 8 = le 8 buf := by
  simp [frameDesc, length_le]

theorem frameDesc_length (m : Mach) (n q rule buf : Nat) (f : Bytes) (x : FrameInfo) (t : Word) :
    bslice (frameDesc m n q rule buf f x t) 8 2 = le 2 f.length := by
  simp [frameDesc, bslice, length_le]

section
variable {m m1 m2 m3 m4 : Mach} {l n q rule : Nat} {f d : Bytes} {x : FrameInfo} {t : Word}

/-- A queue that is on, has a posted buffer and a buffer large enough that the lease may write takes the frame. -/
theorem placeFrame_of_room (on : fqOn m n q l = true) (posted : fqPosted m (0x0800 + l) n q = m1) (left : (fq m1 n q).done < (fq m1 n q).posted)
    (read : rdLease m1 (linkHub l) (0x0800 + l) n (fqBase m1 n q + 64 + 32 * ((fq m1 n q).done % fqSize m1 n q)) 32 = (.ok d, m2))
    (fits : f.length ≤ fld d 8 4) (may : canWrite m2 (linkHub l) n (fld d 0 8) f.length = (true, m3))
    (stamp : takeStamp (wrLease m3 (linkHub l) (0x0800 + l) n (fld d 0 8) f).2 (0x0800 + l) = (t, m4)) :
    placeFrame m l n q rule f x = fqComplete m4 l n q (frameDesc m4 n q rule (fld d 0 8) f x t) := by
  unfold placeFrame
  dsimp only
  rw [if_neg (by simp [on]), posted, if_neg (Nat.not_le.mpr left), read]
  dsimp only
  rw [if_neg (Nat.not_lt.mpr fits), may]
  dsimp only
  rw [if_neg (by simp), stamp]
  rfl

end

/-- Settles O35: a frame by the MAC's checks and by what it is, and its place by the queue's checks in their order. -/
theorem framesReceived : Obligations.FramesReceived := by
  refine ⟨fun s l f run up => ?_, fun m m1 m2 m3 m4 l n q rule f d x t on posted left read fits may stamp => ?_⟩
  · intro x counted
    have good : exec (.frameReceive l f true) s =
        .next { s with m := if isMacControl f then takePause counted l.val f else settleFrame counted l.val f } := by
      rw [runMesh_next (exec_frameReceive ..) (meshRuns_of_unitsRun run), receiveFrame_of_good_fcs run up]
      rfl
    have settles (data : isMacControl f = false) : exec (.frameReceive l f true) s = .next { s with m := settleFrame counted l.val f } := by
      rw [good, if_neg (by simp [data])]
    have group : (link counted l.val).mcast = (link s.m l.val).mcast := by rw [link_modLink]
    refine ⟨?_, fun control => ?_, fun data mac cast off v6 => ?_, fun r data mac ptp arp => ?_,
      fun data mac ptp arp nd other udp => ⟨fun none_ => ?_, fun n q r queue => ?_⟩⟩
    · rw [runMesh_next (exec_frameReceive ..) (meshRuns_of_unitsRun run), receiveFrame_of_bad_fcs up]
    · rw [good, if_pos control]
    · rw [settles data, settleFrame_of_other_station (m := counted) mac cast (by rwa [group]) v6]
    · rw [settles data, settleFrame_of_arp (m := counted) mac ptp arp]
    · rw [settles data, (settleFrame_of_payload (m := counted) mac ptp arp nd other udp).1 ((classify_frameCounted ..).trans none_)]
    · rw [settles data, (settleFrame_of_payload (m := counted) mac ptp arp nd other udp).2 n q r ((classify_frameCounted ..).trans queue)]
  · exact ⟨_, placeFrame_of_room on posted left read fits may stamp, frameDesc_buffer .., frameDesc_length .., fqComplete_done ..⟩

end Sys2Proof.Machine
end

section
/-! Frames that a link sends, and the signal of a queue's completed descriptors (R603, R605, R606). -/

namespace Sys2Proof.Machine

/-! ## The lease and queue that are served (R606, R736) -/

/-- The link has chosen a lease's queue: the choice counts, and the queue after it is next in the lease's round. -/
def txChosen (m : Mach) (l n q : Nat) (fair : Fair) : Mach :=
  modLink (modLink m l (fun x => { x with fair := fair })) l (fun x => { x with nextQ := tset x.nextQ n (16 + (q - 15) % 16) })

section
variable {m m1 m2 : Mach} {l n q : Nat} {fair : Fair} {d : Bytes}

/-- A chosen queue whose descriptor is read: on a link that is not Up it completes with status 1, and a good one's frame goes out. -/
theorem transmitFrame_of_choice (works : m.mode.st ≠ .hold) (polled : txPoll m l = m1)
    (pick : fairPick (link m1 l).fair ((List.range 256).filter (fun k => (txNextQueue m1 l k).isSome))
      (fun k => bits (lease m1 k).shares.toNat 31 24) = (some n, fair))
    (next : txNextQueue (modLink m1 l (fun x => { x with fair := fair })) l n = some q)
    (read : rdLease (txChosen m1 l n q fair) (linkHub l) (0x0800 + l) n (fqBase m1 n q + 64 + 32 * ((fq m1 n q).done % fqSize m1 n q)) 32 =
      (.ok d, m2)) :
    ((link m2 l).st ≠ .up → transmitFrame m l = txComplete m2 l n q d 1 0) ∧
    (∀ f m3, (link m2 l).st = .up → txDescOk m2 l d = true → rdLease m2 (linkHub l) (0x0800 + l) n (fld d 0 8) (fld d 8 2) = (.ok f, m3) →
      txHeld m3 l f = false → bit (fld d 10 1) 2 = false →
      transmitFrame m l = txComplete (modLink (emit m3 (.frame l (insertSums f (fld d 10 1)))) l (fun y => { y with
        tx := sat 0xFFFFFFFF (y.tx + 1),
        fair := fairCharge y.fair n (fld d 8 2 + 4) (bits (lease m1 n).shares.toNat 31 24) })) l n q d 0 0) := by
  have chosen : rdLease (txChosen m1 l n q fair) (linkHub l) (0x0800 + l) n (fqBase (txChosen m1 l n q fair) n q + 64 +
      32 * ((fq (txChosen m1 l n q fair) n q).done % fqSize (txChosen m1 l n q fair) n q)) 32 = (.ok d, m2) := read
  unfold transmitFrame
  rw [if_neg works]
  dsimp only
  rw [polled, pick]
  dsimp only
  rw [next, Option.getD_some, ← txChosen, chosen]
  dsimp only
  refine ⟨fun down => ?_, fun f m3 up good frame free plain => ?_⟩
  · rw [if_pos down]
  · rw [if_neg (not_not.mpr up), if_neg (by simp [good]), frame]
    dsimp only
    rw [if_neg (by simp [free]), if_neg (by simp [plain])]
end

/-! ## A queue's signal (R603) -/

theorem evtInsert_length (w : List Event) (e : Event) : (evtInsert w e).length = w.length + 1 := by
  induction w with
  | nil => rfl
  | cons x r ih =>
    unfold evtInsert
    split
    · simp [ih]
    · rfl

/-- An event waits in the window once it has been raised. -/
theorem raiseEvent_window (m : Mach) (cls src l vector : Nat) (p : Bytes) :
    (raiseEvent m cls src l vector p).evt.window.length = m.evt.window.length + 1 := by
  have stamped : (takeStamp m src).2.evt.window = m.evt.window := rfl
  rw [← stamped]
  exact evtInsert_length ..

theorem coalesceTimeout_of_due {m : Mach} {l q : Nat} (some_ : (fq m l q).unsignalled ≠ 0)
    (due : (fq m l q).firstAt + 1000 * bits (fqCtl m l q) 7 0 ≤ m.now) :
    coalesceTimeout m l q = fqSignal m (bits (fqCtl m l q) 58 56) l q :=
  if_neg (not_or.mpr ⟨some_, Nat.not_lt.mpr due⟩)

/-- Settles O36: the queue that the choice gives by its descriptor, and a queue's signal by what an event leaves. -/
theorem framesTransmitted : Obligations.FramesTransmitted := by
  refine ⟨fun s l n q fair d m1 m2 run polled pick next read => ?_, fun s n q run some_ due => ?_⟩
  · obtain ⟨down, sends⟩ := transmitFrame_of_choice (not_hold_of_unitsRun run) polled pick next read
    rw [runUnits_next (exec_frameTransmit ..) run]
    exact ⟨fun h => by rw [down h], fun f m3 up good frame free plain => by rw [sends f m3 up good frame free plain]⟩
  · refine completes_runUnits (exec_coalesceTimeout ..) run ?_
    rw [coalesceTimeout_of_due some_ due]
    exact ⟨fq_fqSignal .., (raiseEvent_logged ..).mem, raiseEvent_window ..⟩

end Sys2Proof.Machine
end

section
/-! PCIe ports: configuration accesses, interrupts, DMA and a downstream link that goes down (R609 to R613, R643). -/

namespace Sys2Proof.Machine

/-! ## Reads of a port -/

section
variable (m : Mach) (p : Nat)

@[simp] theorem pcie_modPcie (f : PcieSt → PcieSt) : pcie (modPcie m p f) p = f (pcie m p) := tget_tset_self ..

theorem pcie_of_pcie {m' : Mach} (e : m'.pcie = m.pcie) : pcie m' p = pcie m p := by rw [pcie, pcie, e]

end

/-! ## What has left the module stays in its record -/

section
variable (m : Mach)

theorem out_subset_noteSend (n : Notify) : m.out ⊆ (noteSend m n).2.out := by
  unfold noteSend
  split
  · exact List.Subset.refl _
  · exact List.subset_append_left ..

theorem out_subset_notify (c : Nat) (b : Bytes) : m.out ⊆ (notify m c b).out := by
  unfold notify
  extract_lets cut sent
  have kept : cut.out = m.out := by
    dsimp only [cut]
    split <;> rfl
  rw [← kept]
  exact out_subset_noteSend ..

theorem out_subset_raiseErrD (cause src det : Nat) (d : Bytes) (ls addr : Option Nat) (i : Nat) : m.out ⊆ (raiseErrD m cause src det d ls addr i).out := by
  have toManager (m : Mach) (r : ErrRec) : (tellManager m r).out = m.out := by
    unfold tellManager
    split <;> rfl
  have toOwner (m' : Mach) (r : ErrRec) (same : m'.out = m.out) : m.out ⊆ (tellOwner m' r).out := by
    rw [← same]
    unfold tellOwner
    split
    · exact out_subset_notify ..
    · exact List.Subset.refl _
  unfold raiseErrD
  extract_lets key u rec_
  split
  · exact List.Subset.refl _
  · split
    · exact List.Subset.refl _
    · rw [toManager]
      exact toOwner _ _ rfl

end

/-! ## Configuration accesses (R612, R643) -/

section
variable {m : Mach} {p : Nat}

theorem cfgWriteNow_of_free {v : Word} {done : Bool} (free : functionPath m p (cfgRid m p) = none) :
    cfgWriteNow p v done m = some (modPcie (emit m (.cfgWrite p (bits (pcie m p).cfgAddr.toNat 31 0) (bits v.toNat 31 0))) p
      (fun x => { x with cfgFailed := !done, cfgData := if done then v &&& 0xFFFFFFFF#64 else 0xFFFFFFFF#64 })) :=
  if_neg (by simp [free])

/-- A function that a channel path holds takes no configuration write. -/
theorem cfgWriteNow_of_held {v : Word} {done : Bool} {k : Nat} (held : functionPath m p (cfgRid m p) = some k) : cfgWriteNow p v done m = none :=
  if_pos (by simp [held])

/-! ## Interrupts and DMA (R610, R611, R749) -/

theorem msixIn_of_vector {rid addr data n : Nat} (port : addr = regAddr 0x07 p 0 + 0x80000) (vector : data < 4096)
    (owner : functionLease m p rid = some n) : msixIn m p rid addr data = raiseEvent m 0x06 (0x0880 + p) n data (le 2 rid) := by
  unfold msixIn
  rw [if_neg (not_not.mpr port), if_neg (by omega), owner]

variable {rid addr len n : Nat} {data : Bytes}

/-- A request of a function without a lease and a path ends in an abort. -/
theorem pcieDma_of_stranger {w : Bool} (nobody : functionLease m p rid = none) (none_ : functionPath m p rid = none) :
    pcieDma m p rid w addr len data = dmaFault m p rid none addr := by
  rw [pcieDma, nobody]
  dsimp only
  rw [none_]

theorem pcieDma_of_stopped {w : Bool} (owner : functionLease m p rid = some n)
    (stopped : (lease m n).st = .stopped ∨ (lease m n).st = .resetting ∨ (lease m n).st = .removing) : pcieDma m p rid w addr len data =
    emit (modLease m n (fun x => { x with dDma := sat 0xFFFF (x.dDma + 1) })) (.dmaAnswer p rid false []) := by
  rw [pcieDma, owner]
  exact if_pos (by rcases stopped with st | st | st <;> simp [st])

theorem pcieDma_of_read {b : Bytes} {m1 : Mach} (owner : functionLease m p rid = some n) (active : (lease m n).st = .active)
    (read : rdLease m p (0x0880 + p) n addr len = (.ok b, m1)) :
    pcieDma m p rid false addr len data = emit m1 (.dmaAnswer p rid true b) := by
  rw [pcieDma, owner]
  dsimp only
  rw [if_neg (by simp [active]), if_neg Bool.false_ne_true, read]

theorem pcieDma_of_write {m1 : Mach} (owner : functionLease m p rid = some n) (active : (lease m n).st = .active)
    (may : canWrite m p n addr data.length = (true, m1)) :
    pcieDma m p rid true addr len data = emit (wrLease m1 p (0x0880 + p) n addr data).2 (.dmaAnswer p rid true []) := by
  rw [pcieDma, owner]
  dsimp only
  rw [if_neg (by simp [active]), if_pos rfl, may]

/-- An abort is answered, counted and recorded; memory and caches stay. -/
theorem dmaFault_shows (m : Mach) (p rid addr : Nat) :
    (pcie (dmaFault m p rid none addr) p).dmaFaults = sat 0xFFFF ((pcie m p).dmaFaults + 1) ∧
      .dmaAnswer p rid false [] ∈ (dmaFault m p rid none addr).out ∧ (dmaFault m p rid none addr).mem = m.mem ∧
      (dmaFault m p rid none addr).l2 = m.l2 := by
  unfold dmaFault
  extract_lets counted answered recorded
  have record : Logged answered recorded := raiseErrD_logged ..
  refine ⟨?_, ?_, record.mem, record.l2⟩
  · have same : pcie answered p = pcie counted p := rfl
    rw [pcie_of_pcie _ _ record.pcie, same]
    exact congrArg PcieSt.dmaFaults (pcie_modPcie m p _)
  · exact out_subset_raiseErrD answered _ _ _ _ _ _ _ (List.mem_append_right _ List.mem_cons_self)

/-! ## A downstream link goes down (R609, R613) -/

/-- A downstream link's state: 0 unused, 1 training, 2 up, 3 down (R643). -/
def downState (m : Mach) (p j : Nat) : Nat := (vget (pcie m p).links j { st := 0, speed := 0, width := 0 }).st

theorem pcieLinkDownNow_of_up {j : Nat} (lt : j < 4) (up : downState m p j = 2) (aer : Option (BitVec 32)) :
    downState (pcieLinkDownNow m p j aer) p j = 1 := by
  unfold pcieLinkDownNow
  extract_lets d down failed
  have training : downState failed p j = 1 := by
    rw [downState, pcie_of_pcie _ _ (portPathsFail_pcie ..), pcie_modPcie, vget_vset_self _ _ _ _ lt]
  rw [if_neg (show ¬d.st ≠ 2 from not_not.mpr up)]
  split
  · rwa [downState, pcie_of_pcie _ _ (raiseErr_logged ..).pcie]
  · rwa [downState, pcie_of_pcie _ _ (raiseErr_logged ..).pcie]

/-- The check for losses enters Check-stop or changes nothing. -/
theorem lossCheck_stops_or_keeps (m : Mach) : (lossCheck m).mode.st = .checkStop ∨ lossCheck m = m := by
  by_cases lost : meshRuns m = true ∧ minUnmet m ≠ 0
  · exact .inl (lossCheck_st_of_unmet lost.1 lost.2)
  · exact .inr (if_neg (by simpa using lost))

end

/-- Settles O37: each access by what the port, the function's lease and its path say, and the link's fall by what failing paths leave. -/
theorem pciePorts : Obligations.PciePorts := by
  intro s p
  refine ⟨fun a answer may => ?_, fun a v done may free => ?_, fun a v done k may held => ?_, fun rid addr data n run port vector owner => ?_,
    fun rid w addr len data run => ⟨fun nobody none_ => ?_, fun n owner stopped => ?_, fun n b m1 owner active reads read => ?_,
      fun n m1 owner active writes may => ?_⟩, fun j aer live up => ?_⟩
  · refine completes_ctlWrite (exec_pcieCfgRead ..) may ?_
    rw [cfgReadNow, pcie_modPcie]
    exact ⟨rfl, rfl, rfl, rfl⟩
  · refine completes_runM (exec_pcieCfgWrite ..) ?_
    rw [ctlWriteRule_of_writable may, cfgWriteNow_of_free free, Option.getD_some, pcie_modPcie]
    exact ⟨rfl, rfl, rfl⟩
  · rw [exec_pcieCfgWrite, execPcieCfgWrite, runM, ctlWriteRule_of_writable may, cfgWriteNow_of_held held]
    rfl
  · rw [runUnits_next (exec_msixMessage ..) run, msixIn_of_vector port vector owner]
  · refine completes_runUnits (exec_pcieDmaRequest ..) run ?_
    rw [pcieDma_of_stranger nobody none_]
    exact dmaFault_shows ..
  · rw [runUnits_next (exec_pcieDmaRequest ..) run, pcieDma_of_stopped owner stopped]
  · rw [runUnits_next (exec_pcieDmaRequest ..) run, reads, pcieDma_of_read owner active read]
  · rw [runUnits_next (exec_pcieDmaRequest ..) run, writes, pcieDma_of_write owner active may]
  · refine completes_runAliveLoss (exec_pcieLinkDown ..) live ?_
    rcases lossCheck_stops_or_keeps (pcieLinkDownNow s.m p.val j.val aer) with stop | same
    · exact .inl stop
    · rw [same]
      exact .inr (pcieLinkDownNow_of_up j.isLt up aer)

end Sys2Proof.Machine
end

section
/-! Crushers, cipher engines and the halves of the context store go online, offline and fail (R676, R677, R699, R711, R715). -/

namespace Sys2Proof.Machine

/-! ## A unit's entry: what a change of it gives and what it leaves -/

section
variable (m : Mach) (kind u : Nat) (f : WorkUnit → WorkUnit)

@[simp] theorem workUnit_modWork : workUnit (modWork m kind u f) kind u = f (workUnit m kind u) := by
  by_cases crusher : kind = 0 <;> simp [workUnit, modWork, modJobs, crusher]

@[simp] theorem modWork_jobs_jobs : (modWork m kind u f).jobs.jobs = m.jobs.jobs := by
  by_cases crusher : kind = 0 <;> simp [modWork, modJobs, crusher]

@[simp] theorem modWork_mem : (modWork m kind u f).mem = m.mem := rfl
@[simp] theorem ustate_modWork (k i : Nat) : ustate (modWork m kind u f) k i = ustate m k i := rfl
@[simp] theorem workUnit_setUState (k i : Nat) (x : UState) : workUnit (setUState m k i x) kind u = workUnit m kind u := rfl

end

section
variable {m m' : Mach} (kind u : Nat)

theorem workUnit_of_jobs (e : m'.jobs = m.jobs) : workUnit m' kind u = workUnit m kind u := by rw [workUnit, workUnit, e]

theorem unitJobs_of_jobs (e : m'.jobs.jobs = m.jobs.jobs) : unitJobs m' kind u = unitJobs m kind u := by
  rw [unitJobs, unitJobs, openJobs, openJobs, e]

theorem job_setJob (x : Job) : job (setJob m x) x.num = some x := tfind_tset_self ..

end

/-! ## ONLINE, OFFLINE and the end of draining (R677, R715) -/

section
variable {m : Mach} {kind u : Nat}

/-- A command of a unit has left the unit in a state: its code is kept, and neither memory nor a job has changed. -/
def workCmdLeft (m : Mach) (kind u code : Nat) (st : UState) (m' : Mach) : Prop :=
  ustate m' (workBlock kind) u = st ∧ (workUnit m' kind u).cmd = code ∧ m'.mem = m.mem ∧ m'.jobs.jobs = m.jobs.jobs

/-- What both commands come to: the code is entered, then the state is set. -/
theorem workCmdLeft_setUState (m : Mach) (kind u code : Nat) (st : UState) :
    workCmdLeft m kind u code st (setUState (modWork m kind u (fun w => { w with cmd := code })) (workBlock kind) u st) :=
  ⟨by simp, by simp, rfl, by simp⟩

theorem workCmd_online (out : ustate m (workBlock kind) u = .draining ∨ ustate m (workBlock kind) u = .offline ∨
    ustate m (workBlock kind) u = .failed) : workCmdLeft m kind u 1 .active (workCmd m kind u 1) := by
  have sets : workCmd m kind u 1 = setUState (modWork m kind u (fun w => { w with cmd := 1 })) (workBlock kind) u .active := by
    unfold workCmd
    exact if_pos out
  rw [sets]
  exact workCmdLeft_setUState ..

theorem workCmd_offline (active : ustate m (workBlock kind) u = .active) :
    workCmdLeft m kind u 2 (if (unitJobs m kind u).isEmpty then .offline else .draining) (workCmd m kind u 2) := by
  have sets : workCmd m kind u 2 = setUState (modWork m kind u (fun w => { w with cmd := 2 })) (workBlock kind) u
      (if (unitJobs m kind u).isEmpty then .offline else .draining) := by
    rw [← unitJobs_of_jobs kind u (modWork_jobs_jobs m kind u (fun w => { w with cmd := 2 }))]
    exact if_pos active
  rw [sets]
  exact workCmdLeft_setUState ..

theorem workDrained_of_empty (draining : ustate m (workBlock kind) u = .draining) (empty : unitJobs m kind u = [])
    (whole : tfind m.load.prior (ukey (workBlock kind) u) = none) :
    workDrained m kind u = setUState m (workBlock kind) u .offline :=
  if_pos ⟨draining, by rw [empty]; rfl, by rw [whole]; rfl⟩

end

/-! ## A unit fails (R676, R711) -/

/-- A unit's entry once it works on no job. -/
def atRest (w : WorkUnit) : WorkUnit := { w with run := none }

/-- A job as a unit gets it from a failed one: it begins again from its first byte. -/
def handedOn (x : Job) (v : Nat) (reserved : Bool) : Job :=
  { x with unit := v, reserved := reserved, restarted := x.restarted || x.begun, begun := false, consumed := 0, written := 0, slabs := 0,
           lastSeen := false, chainIdx := 0, outAddr := 0, outLeft := 0, buf := [] }

section
variable {m : Mach} {kind u : Nat}

theorem handOn_of_noJob (empty : unitJobs m kind u = []) : handOn m kind u = (0, 0, modWork m kind u atRest) := by
  simp only [handOn, empty, List.filter_nil, List.mergeSort_nil, List.foldl_nil]
  rfl

theorem handOn_of_oneJob {j : Job} {v : Nat} {r : Bool} (only : m.jobs.jobs = [(j.num, j)]) (same : j.kind = kind) (here : j.unit = u)
    (open_ : j.ended = none) (goesOn : j.stop = false) (taken : handTo (modWork m kind u atRest) j = some (v, r)) :
    handOn m kind u = (1, 0, setJob (modWork m kind u atRest) (handedOn j v r)) := by
  have its : (unitJobs m kind u).filter (fun x => x.ended.isNone) = [j] := by simp [unitJobs, openJobs, only, same, here, open_]
  change handTo (modWork m kind u (fun w => { w with run := none })) j = _ at taken
  simp only [handOn, its, List.mergeSort_singleton, List.foldl_cons, List.foldl_nil]
  rw [if_neg (by simp [goesOn]), taken]
  rfl

/-- A failure of a crusher or a cipher engine: the state, then the jobs, then the error record. -/
theorem workFails_logged (m : Mach) (kind : Nat) (engine : u < 8) :
    Logged (handOn (setUState m (workBlock kind) u .failed) kind u).2.2 (workFails m kind u) := by
  rw [workFails, if_pos engine]
  exact raiseErr_logged ..

theorem workFails_of_noJob (engine : u < 8) (empty : unitJobs m kind u = []) :
    ustate (workFails m kind u) (workBlock kind) u = .failed ∧ (workUnit (workFails m kind u) kind u).run = none ∧
      (workFails m kind u).mem = m.mem ∧ (workFails m kind u).jobs.jobs = m.jobs.jobs := by
  have log := workFails_logged m kind engine
  rw [handOn_of_noJob (m := setUState m (workBlock kind) u .failed) empty] at log
  refine ⟨(log.ustate _ _).trans (by simp), ?_, log.mem, (congrArg JobsSt.jobs log.jobs).trans (by simp)⟩
  rw [workUnit_of_jobs _ _ log.jobs, workUnit_modWork]
  rfl

theorem workFails_of_oneJob {j : Job} {v : Nat} {r : Bool} (engine : u < 8) (only : m.jobs.jobs = [(j.num, j)]) (same : j.kind = kind)
    (here : j.unit = u) (open_ : j.ended = none) (goesOn : j.stop = false)
    (taken : handTo (modWork (setUState m (workBlock kind) u .failed) kind u atRest) j = some (v, r)) :
    ustate (workFails m kind u) (workBlock kind) u = .failed ∧ (workFails m kind u).mem = m.mem ∧
      job (workFails m kind u) j.num = some (handedOn j v r) := by
  have log := workFails_logged m kind engine
  rw [handOn_of_oneJob (m := setUState m (workBlock kind) u .failed) only same here open_ goesOn taken] at log
  refine ⟨(log.ustate _ _).trans (ustate_setUState_self ..), log.mem, ?_⟩
  rw [job, log.jobs]
  exact job_setJob (handedOn j v r)

end

/-! ## The halves of the context store (R699) -/

section
variable {m : Mach} {h : Nat}

/-- Whatever a loss makes of the store, the half is Failed and the error record leaves the rest. -/
theorem halfLost_of_jobs {f : JobsSt → JobsSt}
    (store : halfLost m h = raiseErr (modJobs (setUState m 0x0B h .failed) f) 0x0082 (0x0C00 + h) (le 1 h)) :
    ustate (halfLost m h) 0x0B h = .failed ∧ (halfLost m h).jobs = f m.jobs ∧ (halfLost m h).mem = m.mem := by
  have log := raiseErr_logged (modJobs (setUState m 0x0B h .failed) f) 0x0082 (0x0C00 + h) (le 1 h)
  rw [store]
  exact ⟨(log.ustate _ _).trans (ustate_setUState_self ..), log.jobs, log.mem⟩

theorem halfLost_of_first (both : m.jobs.halfLost = none) : ustate (halfLost m h) 0x0B h = .failed ∧
    (halfLost m h).jobs = { m.jobs with halfLost := some h, mirror := 2 } ∧ (halfLost m h).mem = m.mem :=
  halfLost_of_jobs (f := fun j => { j with halfLost := some h, mirror := 2 }) (by simp only [halfLost, setUState_jobs, both])

theorem halfLost_of_second {o : Nat} (one : m.jobs.halfLost = some o) (other : o ≠ h) : ustate (halfLost m h) 0x0B h = .failed ∧
    (halfLost m h).jobs = { m.jobs with ctx := [], ctxOut := (m.jobs.ctxOut + m.jobs.ctx.length) % 2 ^ 32, mirror := 2 } ∧
    (halfLost m h).mem = m.mem :=
  halfLost_of_jobs (f := fun j => { j with ctx := [], ctxOut := (j.ctxOut + j.ctx.length) % 2 ^ 32, mirror := 2 })
    (by simp only [halfLost, setUState_jobs, one, if_neg other])

end

/-- Settles O39: the commands by the state they set, a failure by the jobs that the unit held, a half by whether the other is lost. -/
theorem workUnits : Obligations.WorkUnits := by
  refine ⟨fun s a k x => ⟨fun may => ⟨fun out => ?_, fun active => ?_⟩, fun may => ⟨fun out => ?_, fun active => ?_⟩, fun run =>
    ⟨fun draining empty whole => ?_, fun works empty => ?_, fun works empty => ?_, fun j v r works only kind here open_ goesOn taken => ?_⟩⟩,
    fun s h run => ⟨fun active both => ?_, fun o active one other => ?_, fun copying lost => ?_⟩⟩
  · exact completes_ctlWrite (exec_crusherOnline ..) may (workCmd_online out)
  · exact completes_ctlWrite (exec_crusherOffline ..) may (workCmd_offline active)
  · exact completes_ctlWrite (exec_cipherOnline ..) may (workCmd_online out)
  · exact completes_ctlWrite (exec_cipherOffline ..) may (workCmd_offline active)
  · rw [runUnits_next (exec_crusherDrained ..) run, workDrained_of_empty (kind := 0) draining empty whole]
    rfl
  · refine completes_runUnits (exec_crusherFailure ..) run ?_
    rw [if_pos (by rw [works]; rfl)]
    exact workFails_of_noJob k.isLt empty
  · refine completes_runUnits (exec_cipherUnitFailure ..) run ?_
    rw [if_pos (by rw [Fin.val_castLE, works]; rfl)]
    exact workFails_of_noJob x.isLt empty
  · refine completes_runUnits (exec_crusherFailure ..) run ?_
    rw [if_pos (by rw [works]; rfl)]
    obtain ⟨failed, mem, handed⟩ := workFails_of_oneJob k.isLt only kind here open_ goesOn taken
    exact ⟨failed, mem, handedOn j v r, handed, rfl, rfl, rfl, rfl, rfl⟩
  · refine completes_runUnits (exec_ctxHalfLoss ..) run ?_
    rw [if_pos (by rw [active]; rfl)]
    obtain ⟨failed, jobs, mem⟩ := halfLost_of_first (h := h.val) both
    exact ⟨failed, by rw [jobs], by rw [jobs], by rw [jobs], mem⟩
  · refine completes_runUnits (exec_ctxHalfLoss ..) run ?_
    rw [if_pos (by rw [active]; rfl)]
    obtain ⟨failed, jobs, mem⟩ := halfLost_of_second one other
    exact ⟨failed, by rw [jobs], by rw [jobs], by rw [jobs], mem⟩
  · rw [runUnits_next (exec_ctxHalfCopyComplete ..) run, if_pos ⟨copying, lost⟩]

end Sys2Proof.Machine
end

section
/-! Slab and record boundaries: the job that a unit takes, the slab or the input that is complete, and what a compress slab gives
(R646, R649, R653, R673, R709). -/

namespace Sys2Proof.Machine

/-! ## A crusher at a boundary (R673) -/

section
variable {m m1 : Mach} {k : Nat} {x y : Job}

theorem crushBoundary_of_idle (works : workActive m 0 k = true) (idle : (workUnit m 0 k).run.bind (job m) = none) :
    crushBoundary m k = crushNext m k := by
  rw [crushBoundary, if_neg (by simp [works]), idle]

theorem crushBoundary_of_run (works : workActive m 0 k = true) (run : (workUnit m 0 k).run.bind (job m) = some x) :
    crushBoundary m k = crushNext (slabEnds m x) k := by
  rw [crushBoundary, if_neg (by simp [works]), run]

/-- A chosen COMPRESS job without FLUSH that has a slab left is the one that the crusher works on. -/
theorem crushNext_of_choice (free : m.mode.holdStart = none) (choice : chooseJob m 0 k = (some x, m1)) (plain : jFlush x = false)
    (left : jobDone x = false) :
    crushNext m k = modWork (setJob m1 { x with begun := true }) 0 k (fun w => { w with run := some x.num }) := by
  rw [crushNext, if_neg (by simp [free]), choice]
  dsimp only
  rw [if_neg (by simp [plain]), if_neg (by simp [left])]

/-- The machine once a compress slab has been counted at the unit and charged to the job's lease. -/
def slabCounted (m : Mach) (x y : Job) : Mach := chargeJob (countWork m 0 x.unit 0 0xFFFFFFFF) x (y.consumed - x.consumed)

/-- A status of 0 is no error to be counted. -/
theorem crushEnd_ok (m : Mach) (x : Job) : crushEnd m x 0 = endJob m x 0 := rfl

/-- A compress slab that is complete, of a job that no reset stops: the job ends OK, or waits for its next slab. -/
theorem slabEnds_of_compressed {n : Nat} {last : Bool} (compress : isCompress x = true) (next : nextSlab x = some (n, last))
    (slab : compressSlab m x n last = (.ok y, m1)) (goesOn : y.stop = false) :
    slabEnds m x = if jobDone y then endJob (slabCounted m1 x y) y 0
      else modWork (setJob (slabCounted m1 x y) y) 0 x.unit (fun w => { w with run := none }) := by
  simp only [slabEnds, compress, next, slab, goesOn, if_true, Bool.false_eq_true, if_false, crushEnd_ok, slabCounted]

end

/-! ## A cipher engine or public-key unit at a boundary (R709) -/

section
variable {m m1 m2 : Mach} {u : Nat} {x : Job} {c : List Nat}

/-- A chosen job that passes its checks is the one that the unit works on. -/
theorem cipherNext_of_choice (free : m.mode.holdStart = none) (choice : chooseJob m 1 u = (some x, m1))
    (check : cipherCheck (setJob m1 { x with begun := true }) x = (.ok c, m2)) :
    cipherNext m u = modWork m2 1 u (fun w => { w with run := some x.num }) := by
  rw [cipherNext, if_neg (by simp [free]), choice]
  dsimp only
  rw [check]

theorem cipherBoundary_of_idle (works : workActive m 1 u = true) (idle : (workUnit m 1 u).run.bind (job m) = none) :
    cipherBoundary m u = if u < 8 then workDrained (cipherNext m u) 1 u else cipherNext m u := by
  rw [cipherBoundary, if_neg (by simp [works]), idle]

/-- A public-key unit has no draining to end. -/
theorem cipherBoundary_of_run (public_ : 8 ≤ u) (works : workActive m 1 u = true) (run : (workUnit m 1 u).run.bind (job m) = some x) :
    cipherBoundary m u = cipherNext (cipherStep m x) u := by
  rw [cipherBoundary, if_neg (by simp [works]), run]
  exact if_neg (Nat.not_lt.mpr public_)

/-- The end of draining sets the unit's state and nothing else. -/
theorem workDrained_keeps (m : Mach) (kind u : Nat) : (workDrained m kind u).jobs = m.jobs ∧ (workDrained m kind u).mem = m.mem := by
  unfold workDrained
  split
  · exact ⟨rfl, rfl⟩
  · exact ⟨rfl, rfl⟩

/-- A public-key job takes its whole input at one boundary and is then finished; it is charged as 4096 bytes. -/
theorem cipherStep_of_publicKey {b : Bytes} (check : cipherCheck m x = (.ok c, m1)) (whole : isBulk (jOp x) = false)
    (publicKey : isPk (jOp x) = true) (goesOn : x.stop = false)
    (read : rdLease m1 (unitHub x.unit) (workSource 1 x.unit) x.lease (fld x.desc 8 8 + x.consumed) (jIn x - x.consumed) = (.ok b, m2)) :
    cipherStep m x = cipherFinish (chargeJob m2 x 4096) { x with consumed := x.consumed + (jIn x - x.consumed), buf := x.buf ++ b } c := by
  have taken : jIn x ≤ x.consumed + (jIn x - x.consumed) := by omega
  simp only [cipherStep, check, whole, Bool.false_eq_true, if_false, read, publicKey, if_true, goesOn]
  exact if_pos taken

end

/-! ## A compress slab (R646, R649, R653) -/

/-- Two stages of a job count the same input, output and slabs. -/
def sameCounts (x y : Job) : Prop := y.consumed = x.consumed ∧ y.written = x.written ∧ y.slabs = x.slabs

/-- Putting bytes into the output chain moves the job's place in it and no count. -/
theorem chainPut_sameCounts {fuel : Nat} {m m' : Mach} {x y : Job} {b : Bytes} (put : chainPut fuel m x b = (.ok y, m')) : sameCounts x y := by
  induction fuel generalizing m x b with
  | zero => cases put
  | succ f ih =>
    unfold chainPut at put
    split at put
    case isTrue => cases put; exact ⟨rfl, rfl, rfl⟩
    extract_lets hub src k at put
    split at put
    case isFalse =>
      split at put
      · cases put
      · cases put
      · have kept := ih put
        exact kept
    split at put
    case isTrue => cases put
    split at put
    · cases put
    · cases put
    extract_lets n at put
    split at put
    · cases put
    · have kept := ih put
      exact kept

theorem compressSlab_of_put {m m1 m2 : Mach} {x y : Job} {n : Nat} {last : Bool} {b g : Bytes}
    (read : rdLease m (unitHub x.unit) (workSource 0 x.unit) x.lease (fld x.desc 16 8 + x.consumed) n = (.ok b, m1))
    (slab : makeSlab (fld x.desc 1 1) (fld x.desc 2 1) ((fld x.desc 8 8 + x.slabs) % 2 ^ 64) last b = g)
    (put : chainPut (chainFuel g.length) m1 x g = (.ok y, m2)) :
    compressSlab m x n last = (.ok { y with consumed := y.consumed + n, written := y.written + g.length, slabs := y.slabs + 1 }, m2) := by
  subst slab
  rw [compressSlab, read]
  dsimp only
  rw [put]

/-- The header's fields at their places, in a header that a payload follows (R646). -/
theorem slabHeader_fields (raw last : Bool) (level code inLen stored crc seq : Nat) (payload : Bytes) :
    bslice (slabHeader raw last level code inLen stored crc seq ++ payload) 0 3 = [0x4A, 0x53, 0x01] ∧
    bslice (slabHeader raw last level code inLen stored crc seq ++ payload) 8 4 = le 4 inLen ∧
    bslice (slabHeader raw last level code inLen stored crc seq ++ payload) 16 4 = le 4 crc := ⟨rfl, rfl, rfl⟩

/-- A slab's header carries the length and the check word of its input, whether it is stored raw or compressed (R649). -/
theorem makeSlab_fields (level code seq : Nat) (last : Bool) (input : Bytes) :
    bslice (makeSlab level code seq last input) 0 3 = [0x4A, 0x53, 0x01] ∧
    bslice (makeSlab level code seq last input) 8 4 = le 4 input.length ∧
    bslice (makeSlab level code seq last input) 16 4 = le 4 (crc32c input) := slabHeader_fields ..

/-- Settles O40: a boundary by the job at work or the one that is chosen, and a compress slab by its header and the chain it is put into. -/
theorem jobBoundaries : Obligations.JobBoundaries := by
  refine ⟨fun s run free => ⟨fun k x m1 works idle choice _ plain left => ?_,
    fun k x y n last m1 works at_ compress here next slab goesOn left => ?_,
    fun k x y n last m1 works at_ compress here next slab goesOn done => ?_,
    fun u x m1 m2 c works idle choice check => ?_,
    fun u x c b m1 m2 public_ works at_ here check whole publicKey goesOn read => ?_⟩,
    fun m m1 m2 x y n last b read => ?_⟩
  · rw [runUnits_next (exec_slabBoundary ..) run, crushBoundary_of_idle works idle, crushNext_of_choice free choice plain left]
  · rw [runUnits_next (exec_slabBoundary ..) run, crushBoundary_of_run works at_, slabEnds_of_compressed compress next slab goesOn,
      if_neg (by simp [left]), slabCounted, here]
  · rw [runUnits_next (exec_slabBoundary ..) run, crushBoundary_of_run works at_, slabEnds_of_compressed compress next slab goesOn,
      if_pos done, slabCounted, here]
  · refine completes_runUnits (exec_recordBoundary ..) run ?_
    have took := cipherNext_of_choice free choice check
    rw [cipherBoundary_of_idle works idle, took]
    split
    · obtain ⟨jobs, mem⟩ := workDrained_keeps (modWork m2 1 u.val (fun w => { w with run := some x.num })) 1 u.val
      exact ⟨by rw [workUnit_of_jobs _ _ jobs, workUnit_modWork], mem, by rw [jobs, modWork_jobs_jobs]⟩
    · exact ⟨by rw [workUnit_modWork], rfl, modWork_jobs_jobs ..⟩
  · rw [runUnits_next (exec_recordBoundary ..) run, cipherBoundary_of_run public_ works at_,
      cipherStep_of_publicKey check whole publicKey goesOn read]
  · intro g put
    obtain ⟨consumed, written, slabs⟩ := chainPut_sameCounts put
    exact ⟨compressSlab_of_put read rfl put, consumed, written, slabs, makeSlab_fields ..⟩

end Sys2Proof.Machine
end
section
/-! The step: the command in front runs on the queue's rest, no command touches the queue or stops the block, and on an empty queue a
nanosecond passes (log entries 1 and 108). -/

namespace Sys2Proof.Machine

/-! ## A command answers and leaves the queue -/

/-- FUSE_CONFIRM alone writes beside the machine, and only the fuse block. -/
theorem execFuseConfirm_next (h : SvcHdr) (p : Bytes) (s : State) : ∃ u m, exec (.fuseConfirm h p) s = .next { s with fuse := u, m := m } := by
  rw [exec_fuseConfirm, execFuseConfirm]
  split
  · split
    · exact ⟨_, _, rfl⟩
    · exact ⟨s.fuse, _, rfl⟩
  · exact ⟨s.fuse, _, rfl⟩

/-- Every command answers a state whose queue is the one before. -/
theorem exec_next (c : Instr) (s : State) : ∃ t, exec c s = .next t ∧ t.pending = s.pending := by
  by_cases other : ∀ h p, c ≠ .fuseConfirm h p
  · obtain ⟨m, next⟩ := exec_machineOnly s other
    exact ⟨_, next, rfl⟩
  · push Not at other
    obtain ⟨h, p, rfl⟩ := other
    obtain ⟨u, m, next⟩ := execFuseConfirm_next h p s
    exact ⟨_, next, rfl⟩

/-- Settles O4: the state that a command answers has the queue of the one before. -/
theorem execLeavesTheQueue : Obligations.ExecLeavesTheQueue := by
  intro c s t next
  obtain ⟨u, here, queue⟩ := exec_next c s
  cases next.symm.trans here
  exact queue

/-- Settles O5: a command's meaning is an operation on the machine, and FUSE_CONFIRM's one on the machine and the fuse block. -/
theorem everyCommandAnswers : Obligations.EveryCommandAnswers := fun c s =>
  have ⟨t, next, _⟩ := exec_next c s
  ⟨t, next⟩

/-- Settles O1: the step's equation on a queue that is not empty. -/
theorem stepRunsFrontCommand : Obligations.StepRunsFrontCommand := by
  intro s c rest front
  rw [step, front]

/-! ## An idle nanosecond -/

theorem resetsEnd_keeps {γ : Type} (view : Mach → γ) (resets : ∀ m, view { m with resets := [] } = view m)
    (units : ∀ m k i x, view (setUState m k i x) = view m) (m : Mach) : view (resetsEnd m) = view m := by
  refine (foldl_keeps view (fun m p => ?_) _ _).trans (resets m)
  split
  · exact units ..
  · rfl

theorem runningEnd_keeps {γ : Type} (view : Mach → γ) (svc : ∀ m x, view { m with svc := x } = view m) (out : ∀ m x, view { m with out := x } = view m)
    (m : Mach) : view (runningEnd m) = view m :=
  (foldl_keeps view (fun _ _ => (out ..).trans (svc ..)) _ _).trans (svc ..)

/-- Beside the time, an idle nanosecond ends resets, gives credits back and answers requests: none of this is seen by a view of the machine
without units, links, the service controller and the output. -/
theorem idleTick_keeps {γ : Type} (view : Mach → γ) (svc : ∀ m x, view { m with svc := x } = view m) (out : ∀ m x, view { m with out := x } = view m)
    (resets : ∀ m, view { m with resets := [] } = view m) (units : ∀ m k i x, view (setUState m k i x) = view m)
    (subs : ∀ m x, view { m with subs := x } = view m) (s : State) : view (idleTick s).m = view (timeTick s.m) := by
  refine (runningEnd_keeps view svc out _).trans ?_
  split
  · exact (resetsEnd_keeps view resets units _).trans (subs ..)
  · rfl

/-- The active master counts the nanosecond where neither a slew nor a rate correction is under way (R761). -/
theorem timeNow_timeTick {m : Mach} (active : m.evt.activeMaster < 2) (running : (master m m.evt.activeMaster).running = true)
    (works : (master m m.evt.activeMaster).failed = false) (slew : (master m m.evt.activeMaster).slew = 0)
    (freq : (master m m.evt.activeMaster).freq = 0) (freqAcc : (master m m.evt.activeMaster).freqAcc = 0) :
    timeNow (timeTick m) = timeNow m + 1 := by
  have steps : slewStep (master m m.evt.activeMaster) = (0, { master m m.evt.activeMaster with slewAcc := 0 }) := if_pos slew
  have rate : freqStep { master m m.evt.activeMaster with slewAcc := 0 } = (0, { master m m.evt.activeMaster with slewAcc := 0, freqAcc := 0 }) := by
    simp [freqStep, freq, freqAcc]
  unfold timeNow master at *
  simp only [timeTick, master, setMaster, modEvt, steps, rate]
  rw [vget_vmap _ _ _ _ active, vget_vset_self _ _ _ _ active]
  simp [running, works]

/-- The one request that is executing is answered once its time is over, and its answer is the newest that is kept (R67, R81). -/
theorem runningEnd_answers {m : Mach} {x : Running} (only : m.svc.running = [x]) (due : x.till ≤ m.now) :
    (runningEnd m).svc.running = [] ∧ ∃ k, (runningEnd m).svc.kept.getLast? = some k ∧ k.port = x.port ∧ k.seq = x.seq ∧ k.status = x.status ∧
      k.body = x.body := by
  have answered : runningEnd m = answerAs { m with svc := { m.svc with running := [] } } x.port x.seq x.type x.status x.body := by
    simp [runningEnd, only, due]
  rw [answered]
  refine ⟨rfl, { port := x.port, seq := x.seq, type := x.type, status := x.status, body := x.body }, ?_, rfl, rfl, rfl, rfl⟩
  change (List.drop _ (m.svc.kept ++ _)).getLast? = _
  rw [List.getLast?_drop, if_neg (by simp), List.getLast?_append, List.getLast?_singleton, Option.some_or]

theorem idleTick_answers {s : State} {x : Running} (only : s.m.svc.running = [x]) (due : x.till ≤ s.m.now + 1) :
    (idleTick s).m.svc.running = [] ∧ ∃ k, (idleTick s).m.svc.kept.getLast? = some k ∧ k.port = x.port ∧ k.seq = x.seq ∧ k.status = x.status ∧
      k.body = x.body := by
  have before : (if alive (timeTick s.m) then resetsEnd (creditsBack (timeTick s.m)) else timeTick s.m).svc = s.m.svc ∧
      (if alive (timeTick s.m) then resetsEnd (creditsBack (timeTick s.m)) else timeTick s.m).now = s.m.now + 1 := by
    split
    · exact ⟨resetsEnd_keeps (fun m => m.svc) (fun _ => rfl) (fun _ _ _ _ => rfl) _, resetsEnd_keeps (fun m => m.now) (fun _ => rfl) (fun _ _ _ _ => rfl) _⟩
    · exact ⟨rfl, rfl⟩
  obtain ⟨svc, now⟩ := before
  exact runningEnd_answers (by rw [svc, only]) (by rw [now]; exact due)

/-- Settles O2: the idle nanosecond's parts, each by what it leaves of the clock, of the masters and of the requests that are executing. -/
theorem emptyQueueCountsANanosecond : Obligations.EmptyQueueCountsANanosecond := by
  intro s empty
  have now : (idleTick s).m.now = s.m.now + 1 :=
    idleTick_keeps (fun m => m.now) (fun _ _ => rfl) (fun _ _ => rfl) (fun _ => rfl) (fun _ _ _ _ => rfl) (fun _ _ => rfl) s
  have time : timeNow (idleTick s).m = timeNow (timeTick s.m) :=
    idleTick_keeps timeNow (fun _ _ => rfl) (fun _ _ => rfl) (fun _ => rfl) (fun _ _ _ _ => rfl) (fun _ _ => rfl) s
  refine ⟨by rw [step, empty], now, empty, rfl, fun active running works slew freq freqAcc => ?_, fun x only due => ?_⟩
  · rw [time, timeNow_timeTick active running works slew freq freqAcc]
  · exact idleTick_answers only due

end Sys2Proof.Machine
end
section
/-! Check-stop: every command of units, of time and of lands, and every register write, finds its own condition false and leaves the state
(R820). -/

namespace Sys2Proof.Machine

variable {s : State}

/-- The answer of a command that does not act. -/
theorem next_same {m : Mach} (same : m = s.m) : (.next { s with m := m } : Host.Outcome State Fault Refusal) = .next s := by rw [same]

section
variable (stopped : alive s.m = false)
include stopped

theorem next_of_unitsIdle (m : Mach) : (.next { s with m := if unitsRun s.m then m else s.m } : Host.Outcome State Fault Refusal) = .next s :=
  next_same (if_neg (by simp [unitsRun_of_checkStop stopped]))

theorem next_of_meshIdle (m : Mach) : (.next { s with m := if meshRuns s.m then m else s.m } : Host.Outcome State Fault Refusal) = .next s :=
  next_same (if_neg (by simp [meshRuns_of_checkStop stopped]))

theorem next_of_stopped (m : Mach) : (.next { s with m := if alive s.m then m else s.m } : Host.Outcome State Fault Refusal) = .next s :=
  next_same (if_neg (by simp [stopped]))

theorem next_of_writeIdle (a : Actor) (kind index off : Nat) (f : Mach → Mach) :
    (.next { s with m := ctlWrite a kind index off f s.m } : Host.Outcome State Fault Refusal) = .next s :=
  next_same (if_pos (by simp [stopped]))

/-- The check of `TS_SET` begins as that of every register does. -/
theorem tsSet_idle (a : Actor) (h : HubId) (v : Word) : exec (.tsSet a h v) s = .next s := next_same (if_pos (by simp [stopped]))

/-- Flow control is renewed in Hold alone. -/
theorem pauseRepeat_idle (l : LinkId) : exec (.pauseRepeat l) s = .next s :=
  next_same (if_neg fun ⟨hold, _⟩ => by simp [alive, hold] at stopped)

theorem linkUp_idle (l : LinkId) : exec (.linkUp l) s = .next s := next_same (if_neg (by simp [stopped]))

theorem pcieLinkUp_idle (p : PcieId) (j : Fin 4) (speed : BitVec 4) (width : BitVec 8) : exec (.pcieLinkUp p j speed width) s = .next s :=
  next_same (if_neg (by simp [stopped]))

end

/-- Settles O11: a command of units, of the mesh or of any mode but Check-stop does not run, a register write is not taken, and the four rows
that test the mode themselves find it wrong. -/
theorem checkStopFreezesUnits : Obligations.CheckStopFreezesUnits := by
  intro s c stopped
  cases c
  case prepareComplete | quiesceTimeout | reworkComplete | disablingComplete | crusherDrained | leasePendingCleared | journalMoveComplete |
    microTimingOverrun | displacement | savingComplete | queueEntryDispatch | waitTableTimer | queuePlaceFreed | stockRefill | dirtyAgeClean |
    rebuildRequest | seamRebuildComplete | retrainDue | catchUpComplete | selfRefreshExit | journalEntryWritten | txnIssue | txnSent |
    nvmeCompletion | issueDeadlineExpiry | partnerWaitExpiry | completionWaitExpiry | pathFailure | txnCompletionRecord | sumpSpaceAvailable |
    establishTimeout | pathDrained | nvmeControllerReset | nvmeReady | nvmeReadyTimeout | cpFailure | frameTransmit | coalesceTimeout |
    pcieDmaRequest | msixMessage | capReq | capReqResend | capRsp | helarAck | helarKeepalive | helarClose | answerSegment | ackDue |
    retransmitTimeout | keepaliveDue | silenceTimeout | slabBoundary | crusherFailure | recordBoundary | cipherUnitFailure | ctxHalfLoss |
    ctxHalfCopyComplete | frequencyDecision | thermalLimitStep | channelTrained | sectionApplied | bundleIssue | cxRoutineEnd | retrainComplete
    | memoryScrub | operationComplete | dstkFillComplete | rstkSpillComplete | rstkFillComplete | saveComplete | microTrap | timerExpiry |
    waitGraceExpiry | taskEnd | stealProbe | stealCommit | idleReprobe =>
    exact next_of_unitsIdle stopped _
  case maintenanceComplete | fetchLineArrival | translationComplete | loadComplete | macFetchComplete | ringAnswer | cacheScrub | rds | rdx | upg |
    mntc | mnti | mntci | iord | iowr | wbm | eve | done | snps | snpx | snpcln | snpdrop | rspi | rspk | rspd | rspc | rspdo | rspcs | rspds |
    rspde | datas | datae | datam | grantm | wback | wbstale | iodata | ioack | mntack | mir | mirrel | mirack | hrReadReturn | hwWriteComplete
    | tenureEnd | snoopTimeout | homeLost | takeoverReport | shareOpen | memWrite | refreshDue | rowIdleClose | frameReceive | engineSparing |
    benchLoss | homeNodeLoss | tileLoss | meshTransfer | hubLoss | storeComplete | atomicComplete | memRead | commandTimeout =>
    exact next_of_meshIdle stopped _
  case bootImageRead | trainingEnd | verifyComplete | patchCheckComplete | tlbInvalComplete | trainingAttemptTimeout | eventRelease |
    evtBlockTakeover | spillRecheck | ptpSync | ptpFollowUp | ptpAnnounce | ptpDelayResp | ppsEdge | disciplineInputAbsent | tsDistributionPulse
    | heartbeatLoss | thermalTrip | refclkHoldoverExpiry | ppsOutputEdge | modeMachineUncorrectableError | hubReturn | holdEntryComplete |
    holdExitComplete | checkComplete | registerWrite | unitReset | microcodeLoad | linkOffline | errSelect | linkDown | pcieLinkDown |
    tsMasterTakeover =>
    exact next_of_stopped stopped _
  case leaseSettAdd | crangeClean | crangeInvalidate | crangeCleanInvalidate | crangeZero | setwayClean | setwayInvalidate | setwayCleanInvalidate
    | cacheDisable | cacheEnable | wayLock | mchOffline | pathOnline | pathOffline | cpOffline | cpOnline | linkOnline | crusherOnline |
    crusherOffline | cipherOnline | cipherOffline | leaseCreate | leaseStart | leaseQuiesce | leaseResume | leaseReset | leaseForcedReset |
    leaseRemove | leaseCmdReserved | leaseSpawn | leaseTlbInval | chnJrnMove | chnSumpReplace | pcieCfgRead | pcieCfgWrite | tsAdj | mchRetrain
    | mchOfflineForce | mchPowerOff | mchPowerOn | mchOnline =>
    exact next_of_writeIdle stopped ..
  case tsSet a hub v => exact tsSet_idle stopped a hub v
  case pauseRepeat l => exact pauseRepeat_idle stopped l
  case linkUp l => exact linkUp_idle stopped l
  case pcieLinkUp p j speed width => exact pcieLinkUp_idle stopped p j speed width
  all_goals exact trivial

end Sys2Proof.Machine
end
section
/-! Accesses that are refused: a register write without its role or its right, and the record of it (R25, R723, R790 to R794; the order of
the tests is log entry 85). -/

namespace Sys2Proof.Machine

/-! ## A write that is refused -/

section
variable {m : Mach} {a : Actor} {kind index : Nat} (running : alive m = true)
include running

theorem ctlWrite_noRole (role : unitHasRole m kind index = false) (off : Nat) (f : Mach → Mach) :
    ctlWrite a kind index off f m = refuseAccess m a (regAddr kind index off) 5 := by simp [ctlWrite, running, role]

theorem ctlWrite_notManager (role : unitHasRole m kind index = true) (other : privileged a = false) (off : Nat) (f : Mach → Mach) :
    ctlWrite a kind index off f m = refuseAccess m a (regAddr kind index off) 4 := by simp [ctlWrite, running, role, other]

end

section
variable {s : State} {a : Actor} {i : Instr} {kind index off : Nat} {f : Mach → Mach} (running : alive s.m = true)
include running

/-- A unit without a role refuses a write whoever makes it (R25). -/
theorem write_noRole (e : exec i s = runM s (ctlWrite a kind index off f)) (role : unitHasRole s.m kind index = false) :
    exec i s = .next { s with m := refuseAccess s.m a (regAddr kind index off) 5 } := by
  rw [e, runM, ctlWrite_noRole running role]

/-- A command register is not written by a lease other than the manager (R723). -/
theorem write_notManager (other : privileged a = false) (e : exec i s = runM s (ctlWrite a kind index off f))
    (role : unitHasRole s.m kind index = true) : exec i s = .next { s with m := refuseAccess s.m a (regAddr kind index off) 4 } := by
  rw [e, runM, ctlWrite_notManager running role other]

theorem tsSet_notManager (n : LeaseId) (h : HubId) (v : Word) (role : unitHasRole s.m 0x0D h.val = true) :
    exec (.tsSet (.lease n) h v) s = .next { s with m := refuseAccess s.m (.lease n) (regAddr 0x0D h.val 0x0108) 4 } := by
  simp [execTsSet, runM, tsSetWrite, running, role]

end

/-! ## The record of a refused access -/

theorem getLast?_lastN_append {α : Type} {n : Nat} (some_ : 0 < n) (l : List α) (x : α) : (lastN n (l ++ [x])).getLast? = some x := by
  rw [lastN, List.getLast?_drop, if_neg (by simp; omega), List.getLast?_append, List.getLast?_singleton, Option.some_or]

section
variable (m : Mach)

theorem takeStamp_errs (src : Nat) : (takeStamp m src).2.errs = m.errs := rfl
theorem countUnit_errs (src cause : Nat) : (countUnit m src cause).errs = m.errs := rfl

theorem tellOwner_errs (r : ErrRec) : (tellOwner m r).errs = m.errs := by
  unfold tellOwner
  split
  · exact (notify_errs m 2 _).1
  · rfl

theorem tellManager_errs (r : ErrRec) : (tellManager m r).errs = m.errs := by
  unfold tellManager
  split <;> rfl

/-- A record that is not suppressed is the newest of the retained log, and the error log goes on by one (R791). -/
theorem raiseErrD_placed {cause src det : Nat} {d : Bytes} {ls addr : Option Nat} {n : Nat} (mode : m.mode.st ≠ .test)
    (fresh : suppressed m cause src = none) : ∃ x, (raiseErrD m cause src det d ls addr n).errs.retained.getLast? = some x ∧ x.cause = cause ∧
      x.sev = causeSev cause ∧ x.index = m.errs.index + 1 ∧ x.lease = ls ∧ x.addr = addr ∧ x.detail = d ∧
      (raiseErrD m cause src det d ls addr n).errs.index = m.errs.index + 1 := by
  simp only [raiseErrD, if_neg mode, fresh, tellManager_errs, tellOwner_errs, countUnit_errs, placeRecord, takeStamp_errs]
  exact ⟨_, getLast?_lastN_append (by decide) _ _, rfl, rfl, rfl, rfl, rfl, rfl, trivial⟩

end

/-- Settles O12: the row's write stops at the test of its writer or of its unit's role, and the record of a refusal is placed as any is that is
not suppressed. -/
theorem refusedAccesses : Obligations.RefusedAccesses := by
  refine ⟨fun s n tenant running => ?_, fun s a running => ?_, fun m n addr r mode none_ => ?_⟩
  · have other : privileged (.lease n) = false := by simpa [privileged] using tenant
    have refused {i : Instr} {kind index off : Nat} {f : Mach → Mach} := write_notManager (i := i) (kind := kind) (index := index) (off := off) (f := f) running other
    exact ⟨fun i => refused (exec_crangeClean ..) rfl, fun i => refused (exec_crangeZero ..) rfl, fun v => refused (exec_chnJrnMove ..) rfl,
      fun v => refused (exec_chnSumpReplace ..) rfl, fun l => refused (exec_leaseCreate ..), fun l k => refused (exec_leaseRemove ..),
      fun l v => refused (exec_leaseSpawn ..), fun c => refused (exec_mchOffline ..), fun c => refused (exec_cpOffline ..),
      fun l => refused (exec_linkOnline ..), fun h v => tsSet_notManager running n h v⟩
  · exact ⟨fun l => write_noRole running (exec_leaseStart ..), fun c => write_noRole running (exec_mchOnline ..),
      fun c => write_noRole running (exec_cpOnline ..), fun l => write_noRole running (exec_linkOnline ..),
      fun k => write_noRole running (exec_crusherOffline ..), fun b w => write_noRole running (exec_wayLock ..)⟩
  · exact raiseErrD_placed m mode (by simp [suppressed, none_])

end Sys2Proof.Machine
end
section
/-! START of a lease whose entries make a parked engine wake (R317, R333). -/

namespace Sys2Proof.Machine

/-- Lease 1 is Stopped with a valid root, an entry of it waits in bench 0's queue, and engine 0 is parked. -/
def parkedEngine : State := { State.reset with m := { Mach.reset with
  mode := { ModeSt.reset with st := .service }
  load := { Mach.reset.load with active := 1 }
  leases := [(1, { Lease.reset with st := .stopped, ptRoot := 1 })]
  engs := [(0, { Eng.reset with parkedTill := some 100 })]
  benches := [(0, { Bench.reset with queue := [freshTask 1 0 9 0x40 0 0 0 none] })] } }

theorem parkedEngine_writable : Writable parkedEngine.m .service 0x0C (1 : LeaseId).val := ⟨rfl, rfl, rfl⟩

/-- Lease 1 is Active, and entries of every queue may have become eligible. -/
def parkedEngineStarted : Mach := entriesChanged (modLease parkedEngine.m 1 (fun x => { x with st := .active }))

theorem parkedEngine_leaseStart : exec (.leaseStart .service 1) parkedEngine =
    .next { parkedEngine with m := modLease parkedEngineStarted 1 (fun x => { x with lastCmd := 2, cmdResult := 0 }) } :=
  ctlWrite_next (exec_leaseStart ..) parkedEngine_writable

theorem parkedEngine_wakes : (eng parkedEngine.m 0).parkedTill = some 100 ∧ (eng parkedEngineStarted 0).parkedTill = none := ⟨rfl, rfl⟩

/-- Refutes O41: START makes the entries of its lease eligible, and so engine 0, which is parked while one waits in its bench's queue, wakes
(R317, R333): the engines are not as they were. -/
theorem not_leaseCommands : ¬ Obligations.LeaseCommands := by
  intro h
  obtain ⟨accepted, -⟩ := h
  obtain ⟨-, starts, -⟩ := accepted parkedEngine .service 1 parkedEngine_writable rfl
  obtain ⟨t, run, -, -, -, -, engines⟩ := starts rfl rfl
  cases parkedEngine_leaseStart.symm.trans run
  obtain ⟨parked, woken⟩ := parkedEngine_wakes
  have same : eng parkedEngineStarted 0 = eng parkedEngine.m 0 := congrArg (fun l => tget l 0 Eng.reset) engines
  rw [same, parked] at woken
  cases woken

end Sys2Proof.Machine
end
section
/-! Quiescing, the invalidation of translations and spawns (R718, R730, R744, R760). -/

namespace Sys2Proof.Machine

@[simp] theorem lease_modLease (m : Mach) (l : Nat) (f : Lease → Lease) : lease (modLease m l f) l = f (lease m l) := tget_tset_self ..

/-! ## A lease with nothing at work -/

section
variable {m : Mach} {l : Nat}

/-- No class has work outstanding (R744). -/
theorem workLeft_of_idle (idle : LeaseIdle m l) : workLeft m l = (false, false, false, false) := by
  obtain ⟨banks, -, jobs, txns⟩ := idle
  have none_ (k : Nat) : leaseJobs m k l = [] := by
    rw [leaseJobs, List.filter_eq_nil_iff] at *
    exact fun x at_ => by simp [jobs x at_]
  have settled : chanSettled m l = true := by
    rw [List.filter_eq_nil_iff] at txns
    exact List.all_eq_true.2 fun q at_ => by simp [show q.2.id.lease ≠ l by simpa using txns q at_]
  simp [workLeft, jobsSettled, banks, none_, settled]

/-- The pending flags of a lease with nothing at work clear. -/
theorem pendRefresh_of_idle (idle : LeaseIdle m l) :
    pendRefresh m l = modLease m l (fun x => { x with pendBanks := false, pendCrush := false, pendCipher := false, pendChan := false }) := by
  simp [pendRefresh, workLeft_of_idle idle]

theorem leaseEvent_logged (m : Mach) (l prior : Nat) : Logged m (leaseEvent m l prior) := raiseManager_logged ..

/-- The lease once its last pending class has cleared. -/
def quiesced (m : Mach) (l : Nat) : Mach := modLease (pendRefresh m l) l (fun x => { x with st := .quiesced })

/-- A Quiescing lease becomes Quiesced, its event is raised and its ledgers are compared. -/
theorem pendCleared_of_quiescing (idle : LeaseIdle m l) (quiescing : (lease m l).st = .quiescing) :
    pendCleared m l = leaseLedgers (leaseEvent (quiesced m l) l 3) l := by
  have refreshed := pendRefresh_of_idle idle
  obtain ⟨banks, -⟩ := idle
  simp [pendCleared, quiesced, banks, refreshed, quiescing]

theorem pendCleared_quiesces (idle : LeaseIdle m l) (quiescing : (lease m l).st = .quiescing) :
    (lease (pendCleared m l) l).st = .quiesced ∧ (pendCleared m l).mem = m.mem ∧ (pendCleared m l).engs = m.engs := by
  have told := (leaseEvent_logged (quiesced m l) l 3).trans (leaseLedgers_logged _ l)
  rw [pendCleared_of_quiescing idle quiescing, told.leaseSt, told.mem, told.engs, quiesced, lease_modLease]
  exact ⟨rfl, rfl, rfl⟩

/-! ## Translations -/

/-- An invalidation of all of a lease's translations keeps none of them. -/
theorem tlbInvalDone_all (busy : (lease m l).tlbBusy = true) (all : (lease m l).tlbTarget.getLsbD 63 = true) :
    (∀ t ∈ (tlbInvalDone m l).hubTlb, ∀ e ∈ t, e.lease ≠ l) ∧ (∀ p ∈ (tlbInvalDone m l).engs, ∀ e ∈ p.2.tlb, e.lease ≠ l) := by
  have named : bit (lease m l).tlbTarget.toNat 63 = true := by
    simpa [bit, BitVec.getLsbD, Nat.testBit_eq_decide_div_mod_eq] using all
  simp only [tlbInvalDone, busy, named]
  constructor
  · simp
  · intro p at_
    obtain ⟨q, -, rfl⟩ := List.mem_map.1 at_
    simp

theorem tlbInvalDone_clears (busy : (lease m l).tlbBusy = true) :
    (lease (tlbInvalDone m l) l).tlbBusy = false ∧ (tlbInvalDone m l).mem = m.mem := by
  simp [tlbInvalDone, busy]

end

/-! ## Spawns -/

theorem leaseSpawn_of_code {m m1 : Mach} {l c : Nat} {v : Word} (try_ : spawnTry m l v.toNat = (.error c, m1)) :
    leaseSpawn m l v = modLease m1 l (fun x => { x with lastCmd := 0x10, cmdResult := c }) := by simp [leaseSpawn, try_]

theorem leaseSpawn_of_task {m m1 : Mach} {l b : Nat} {q : QTask} {v : Word} (try_ : spawnTry m l v.toNat = (.ok (b, q), m1)) :
    leaseSpawn m l v = modLease (enqueue m1 b q) l (fun x => { x with lastCmd := 0x10, cmdResult := 0 }) := by simp [leaseSpawn, try_]

theorem spawnTry_of_halted {m : Mach} (halted : unitsRun m = false) (l v : Nat) : spawnTry m l v = (.error 2, m) := by simp [spawnTry, halted]

/-- Settles O42: each service by the equation of its operation on the lease. -/
theorem leaseServices : Obligations.LeaseServices := by
  refine fun s a l => ⟨fun run idle quiescing => ?_, fun v may => ⟨fun free => ?_, fun busy => ?_⟩, fun alive_ busy => ?_,
    fun v m1 may => ⟨fun c try_ => ?_, fun b q try_ => ?_, fun halted => ?_⟩⟩
  · exact completes_runUnits (exec_leasePendingCleared ..) run (pendCleared_quiesces idle quiescing)
  · rw [ctlWrite_next (exec_leaseTlbInval ..) may, tlbInval, if_neg (by simp [free])]
  · rw [ctlWrite_next (exec_leaseTlbInval ..) may, tlbInval, if_pos busy]
  · obtain ⟨clear, mem⟩ := tlbInvalDone_clears busy
    exact completes_runAlive (exec_tlbInvalComplete ..) alive_ ⟨clear, mem, tlbInvalDone_all busy⟩
  · rw [ctlWrite_next (exec_leaseSpawn ..) may, leaseSpawn_of_code try_]
  · rw [ctlWrite_next (exec_leaseSpawn ..) may, leaseSpawn_of_task try_]
  · rw [ctlWrite_next (exec_leaseSpawn ..) may, leaseSpawn_of_code (spawnTry_of_halted halted ..)]

end Sys2Proof.Machine
end
section
/-! What neither a record nor the check for losses can change (R28, R790 to R792, R818): the machine behind its logs. -/

namespace Sys2Proof.Machine

/-- The machine without its logs, the events that wait, the mode, the states of units, leases, PCIe ports and memory channels: what a record, a
notification, an event raised and a Check-stop leave as it is. -/
def lasting (m : Mach) : Mach :=
  { m with freeIdx := 0, out := [], notes := [], noteSeq := 0, noteDropped := 0, mode := ModeSt.reset, units := [], leases := [], pcie := [], chans := []
           evt := { m.evt with lastStamp := [], window := [], late := 0 }
           errs := { m.errs with index := 0, retained := [], hubLogs := [], suppress := [], testLog := [] } }

section
variable (m : Mach)

@[simp] theorem lasting_takeStamp (src : Nat) : lasting (takeStamp m src).2 = lasting m := rfl
@[simp] theorem lasting_takeFree : lasting (takeFree m).2 = lasting m := rfl
@[simp] theorem lasting_raiseManager (cls src : Nat) (p : Bytes) : lasting (raiseManager m cls src p) = lasting m := rfl
@[simp] theorem lasting_modMode (f : ModeSt → ModeSt) : lasting (modMode m f) = lasting m := rfl
@[simp] theorem lasting_setUState (k i : Nat) (x : UState) : lasting (setUState m k i x) = lasting m := rfl
@[simp] theorem lasting_setChan (c : Nat) (x : Chan) : lasting (setChan m c x) = lasting m := rfl
@[simp] theorem lasting_modPcie (p : Nat) (f : PcieSt → PcieSt) : lasting (modPcie m p f) = lasting m := rfl

@[simp] theorem lasting_noteSend (n : Notify) : lasting (noteSend m n).2 = lasting m := by
  unfold noteSend
  split <;> rfl

@[simp] theorem lasting_notify (c : Nat) (b : Bytes) : lasting (notify m c b) = lasting m := by
  unfold notify
  refine (lasting_noteSend _ _).trans ?_
  split <;> rfl

@[simp] theorem lasting_raiseErrD (cause src det : Nat) (d : Bytes) (ls addr : Option Nat) (n : Nat) :
    lasting (raiseErrD m cause src det d ls addr n) = lasting m := by
  have owner (x : Mach) (r : ErrRec) : lasting (tellOwner x r) = lasting x := by
    unfold tellOwner
    split
    · exact lasting_notify ..
    · rfl
  have manager (x : Mach) (r : ErrRec) : lasting (tellManager x r) = lasting x := by
    unfold tellManager
    split <;> rfl
  unfold raiseErrD
  extract_lets key u rec_
  split
  · rfl
  · split
    · rfl
    · exact (manager _ _).trans ((owner _ _).trans rfl)

@[simp] theorem lasting_raiseErr (cause src : Nat) (d : Bytes) : lasting (raiseErr m cause src d) = lasting m := lasting_raiseErrD ..

@[simp] theorem lasting_enterMode (st : Mode) (c : Nat) : lasting (enterMode m st c) = lasting m := by
  unfold enterMode
  dsimp only
  split <;> exact lasting_notify ..

@[simp] theorem lasting_checkStop (item : Nat) : lasting (checkStop m item) = lasting m := by
  unfold checkStop
  split
  · rfl
  · dsimp only
    split
    · simp
    · rw [lasting_modMode, lasting_enterMode, foldl_keeps lasting (fun x p => lasting_modPcie x p _), foldl_keeps lasting (fun x c => ?_)]
      · simp
      · split <;> simp

@[simp] theorem lasting_lossCheck : lasting (lossCheck m) = lasting m := by
  unfold lossCheck
  split <;> simp

end

theorem mem_of_lasting {m m' : Mach} (same : lasting m' = lasting m) : m'.mem = m.mem := (congrArg (fun x => x.mem) same :)

end Sys2Proof.Machine
end
section
/-! The release of events, and the hubs' blocks and masters taking over from lost ones (R743, R763, R773, R774, R778, R782). -/

namespace Sys2Proof.Machine

/-! ## The event at the front of the window -/

/-- An event is counted as released, before anything is done with it. -/
def eventReleased (m : Mach) (ev : Event) : Mach :=
  modEvt m (fun x => { x with released := lastN 256 (x.released ++ [ev]), releasedN := x.releasedN + 1,
                              lastReleased := BitVec.ofNat 64 (max x.lastReleased.toNat ev.stamp.toNat) })

/-- The machine whose event block has looked at the time and taken the event at the front of its window. -/
def windowTaken (m : Mach) (rest : List Event) : Mach := modEvt (takeStamp m (evtSrc m)).2 (fun x => { x with window := rest })

theorem releaseNext_of_due {m : Mach} {ev : Event} {rest : List Event} (window : m.evt.window = ev :: rest)
    (due : bit ev.flags 2 = true ∨ ev.stamp.toNat + 1500 ≤ (takeStamp m (evtSrc m)).1.toNat) :
    releaseNext m = evtRelease (windowTaken m rest) ev := by
  simp only [releaseNext, window]
  exact if_pos (by simpa using due)

section
variable {m : Mach} {ev : Event} {l : Nat}

@[simp] theorem lease_modEvt (f : EvtSt → EvtSt) : lease (modEvt m f) l = lease m l := rfl
@[simp] theorem routeFlag_modEvt (f : EvtSt → EvtSt) (cls i : Nat) : routeFlag (modEvt m f) cls i = routeFlag m cls i := rfl
@[simp] theorem loadHolds_modEvt (f : EvtSt → EvtSt) (k i : Nat) : loadHolds (modEvt m f) k i = loadHolds m k i := rfl

@[simp] theorem lease_eventReleased : lease (eventReleased m ev) l = lease m l := by rw [eventReleased, lease_modEvt]
@[simp] theorem routeFlag_eventReleased (cls i : Nat) : routeFlag (eventReleased m ev) cls i = routeFlag m cls i := by
  rw [eventReleased, routeFlag_modEvt]
@[simp] theorem loadHolds_eventReleased (k i : Nat) : loadHolds (eventReleased m ev) k i = loadHolds m k i := by
  rw [eventReleased, loadHolds_modEvt]

variable (unlogged : routeFlag m ev.cls 0 = false) (untold : routeFlag m ev.cls 1 = false ∨ ev.cls = 0x13) (kept : bit ev.flags 9 = false)
include unlogged untold kept

/-- A lease that is not running receives nothing, and the event is counted (R743). -/
theorem evtRelease_of_stopped (st : (lease m ev.lease).st = .stopped) :
    evtRelease m ev = modLease (eventReleased m ev) ev.lease (fun x => { x with
      dEvents := sat 0xFFFF (x.dEvents + 1), evtReturned := (x.evtReturned + 1) % 2 ^ 32 }) := by
  have silent : ¬ (routeFlag m ev.cls 1 = true ∧ ev.cls ≠ 0x13) := fun ⟨on, other⟩ => untold.elim (by simp [on]) other
  unfold evtRelease
  rw [← eventReleased]
  simp [unlogged, silent, kept, st]

/-- An Active lease without spilled events gets its record at once (R778). -/
theorem evtRelease_of_active {m1 : Mach} (st : (lease m ev.lease).st = .active) (drained : (lease m ev.lease).spill = [])
    (routed : loadHolds m 0x000A ev.cls = false) (delivered : evtDeliver (eventReleased m ev) ev.lease ev false = (true, m1)) :
    evtRelease m ev = m1 := by
  have silent : ¬ (routeFlag m ev.cls 1 = true ∧ ev.cls ≠ 0x13) := fun ⟨on, other⟩ => untold.elim (by simp [on]) other
  unfold evtRelease
  rw [← eventReleased]
  simp [unlogged, silent, kept, st, drained, routed, delivered]

/-- A Quiesced lease's event is held (R743). -/
theorem evtRelease_of_quiesced (st : (lease m ev.lease).st = .quiesced) :
    evtRelease m ev = evtKeep (eventReleased m ev) ev.lease ev true := by
  have silent : ¬ (routeFlag m ev.cls 1 = true ∧ ev.cls ≠ 0x13) := fun ⟨on, other⟩ => untold.elim (by simp [on]) other
  unfold evtRelease
  rw [← eventReleased]
  simp [unlogged, silent, kept, st]

end

section
variable (m : Mach) (rest : List Event)

theorem lease_windowTaken (l : Nat) : lease (windowTaken m rest) l = lease m l := by rw [windowTaken, lease_modEvt]; rfl
theorem routeFlag_windowTaken (cls i : Nat) : routeFlag (windowTaken m rest) cls i = routeFlag m cls i := by
  rw [windowTaken, routeFlag_modEvt]; rfl
theorem loadHolds_windowTaken (k i : Nat) : loadHolds (windowTaken m rest) k i = loadHolds m k i := by
  rw [windowTaken, loadHolds_modEvt]; rfl

end

/-- EVENT_RELEASE of an event that is due, whatever its lease's state makes of it. -/
theorem eventRelease_next {s : State} {ev : Event} {rest : List Event} {m1 : Mach} (alive_ : alive s.m = true)
    (window : s.m.evt.window = ev :: rest) (due : bit ev.flags 2 = true ∨ ev.stamp.toNat + 1500 ≤ (takeStamp s.m (evtSrc s.m)).1.toNat)
    (released : evtRelease (windowTaken s.m rest) ev = m1) : exec .eventRelease s = .next { s with m := m1 } := by
  rw [runAlive_next (exec_eventRelease ..) alive_, releaseNext_of_due window due, released]

/-! ## Blocks and masters that take over -/

section
variable {m : Mach}

theorem evtTakeover_takes (lost : timeLost m m.evt.activeBlock = true) (works : timeLost m (1 - m.evt.activeBlock) = false) :
    (evtTakeover m).evt.activeBlock = 1 - m.evt.activeBlock ∧ (evtTakeover m).mem = m.mem := by
  have same : lasting (evtTakeover m) = lasting (modEvt m (fun x => { x with activeBlock := 1 - m.evt.activeBlock })) := by
    simp [evtTakeover, lost, works]
  exact ⟨(congrArg (fun x => x.evt.activeBlock) same :), (mem_of_lasting same :)⟩

theorem tsTakeover_takes (lost : timeLost m m.evt.activeMaster = true) (works : timeLost m (1 - m.evt.activeMaster) = false) :
    lasting (tsTakeover m) = lasting (modEvt m (fun x => { x with activeMaster := 1 - m.evt.activeMaster, takeoverUntil := m.now + 50000 })) := by
  simp [tsTakeover, lost, works]

theorem spillRecheck_of_due {l : Nat} (spilled : (lease m l).spill ≠ []) (active : (lease m l).st = .active)
    (due : (lease m l).rerecheck + 10000 ≤ m.now) :
    spillRecheck m l = spillDrain ((lease m l).spill.length + 1) (modLease m l (fun x => { x with rerecheck := m.now })) l := by
  simp [spillRecheck, spilled, active, due]

end

/-- Settles O43: the event at the window's front by its lease's state, and each takeover by what it writes, which no record changes. -/
theorem eventRelease : Obligations.EventRelease := by
  refine ⟨fun s ev rest alive_ window kept unlogged untold due => ?_,
    fun s alive_ => ⟨fun lost works => ?_, fun lost works => ?_, fun l spilled active due => ?_⟩⟩
  · rw [← routeFlag_windowTaken s.m rest] at unlogged untold
    have st := lease_windowTaken s.m rest ev.lease
    have next (m1 : Mach) := eventRelease_next (m1 := m1) alive_ window due
    refine ⟨fun stopped => next _ ?_, fun m1 active drained routed delivered => next _ ?_, fun quiesced => next _ ?_⟩
    · exact evtRelease_of_stopped unlogged untold kept (st ▸ stopped)
    · rw [← loadHolds_windowTaken s.m rest] at routed
      exact evtRelease_of_active unlogged untold kept (st ▸ active) (st ▸ drained) routed delivered
    · exact evtRelease_of_quiesced unlogged untold kept (st ▸ quiesced)
  · exact completes_runAlive (exec_evtBlockTakeover ..) alive_ (evtTakeover_takes lost works)
  · have same := (lasting_lossCheck _).trans (tsTakeover_takes lost works)
    exact completes_runAliveLoss (exec_tsMasterTakeover ..) alive_ ⟨(congrArg (fun x => x.evt.activeMaster) same :),
      (congrArg (fun x => x.evt.takeoverUntil) same :), (mem_of_lasting same :)⟩
  · rw [runAlive_next (exec_spillRecheck ..) alive_, spillRecheck_of_due spilled active due]

end Sys2Proof.Machine
end
section
/-! The substrate's links: a transfer by its own virtual channel's credit, and the credits that come back (R20, R807, R824; log entry 69). -/

namespace Sys2Proof.Machine

theorem subLink_modSubLink (m : Mach) (k : Nat) (f : SubLink → SubLink) : subLink (modSubLink m k f) k = f (subLink m k) := tget_tset_self ..

theorem subLink_of_lasting {m m' : Mach} (same : lasting m' = lasting m) (k : Nat) : subLink m' k = subLink m k :=
  (congrArg (fun x => tget x.subs k SubLink.reset) same :)

/-! ## A transfer -/

/-- Virtual channel `i` of a direction of link `k` has a credit (R20). -/
def HasCredit (m : Mach) (k i : Nat) : Prop := creditsOut (subLink m k) i = 0 ∨ creditsOut (subLink m k) i < (Config.creditPool k i).toNat + 1

/-- What a transfer that comes over well does to its link: the failures of its direction and channel are over, and a credit is out. -/
def transferred (i : Nat) (x : SubLink) : SubLink :=
  { x with fails := tdel x.fails i, issued := tset x.issued i ((tget x.issued i 0 + 1) % 2 ^ 32) }

section
variable {m : Mach} {k i : Nat}

theorem blocked_iff (up : (subLink m k).lost = false) :
    ((subLink m k).lost || !(creditsOut (subLink m k) i == 0 || decide (creditsOut (subLink m k) i < (Config.creditPool k i).toNat + 1))) = true ↔
      ¬ HasCredit m k i := by simp [up, HasCredit]

/-- Nothing is sent without a credit. -/
theorem meshTransfer_blocked (up : (subLink m k).lost = false) (none_ : ¬ HasCredit m k i) (good : Bool) (vc : Nat) :
    meshTransfer m k i good vc = m := by
  rw [meshTransfer]
  exact if_pos ((blocked_iff up).2 none_)

theorem meshTransfer_good (up : (subLink m k).lost = false) (credit : HasCredit m k i) (vc : Nat) :
    lasting (meshTransfer m k i true vc) = lasting (modSubLink m k (transferred i)) := by
  have free := mt (blocked_iff up).1 (not_not.2 credit)
  rw [meshTransfer]
  dsimp only
  rw [if_neg free, if_pos rfl]
  split
  · rfl
  · exact lasting_raiseErr ..

/-- A failed transfer short of the ninth is counted, to be sent again (R807). -/
theorem meshTransfer_failed (up : (subLink m k).lost = false) (credit : HasCredit m k i) (vc : Nat) (few : tget (subLink m k).fails i 0 < 8) :
    meshTransfer m k i false vc = modSubLink m k (fun x => { x with fails := tset x.fails i (tget x.fails i 0 + 1) }) := by
  have free := mt (blocked_iff up).1 (not_not.2 credit)
  rw [meshTransfer]
  dsimp only
  rw [if_neg free, if_neg Bool.false_ne_true, if_neg (by omega)]
  rfl

end

/-- A transfer that comes over well takes a credit of its own channel, and no other channel's pool feels it. -/
theorem meshTransfer_takes {m : Mach} {k i : Nat} (up : (subLink m k).lost = false) (credit : HasCredit m k i) (vc : Nat) :
    let m' := meshTransfer m k i true vc
    tfind (subLink m' k).fails i = none ∧ tget (subLink m' k).issued i 0 = (tget (subLink m k).issued i 0 + 1) % 2 ^ 32 ∧
      (∀ j, j ≠ i → tget (subLink m' k).issued j 0 = tget (subLink m k).issued j 0 ∧ tfind (subLink m' k).fails j = tfind (subLink m k).fails j) ∧
      (subLink m' k).returned = (subLink m k).returned ∧ (subLink m' k).lost = false ∧ m'.mem = m.mem := by
  have same := meshTransfer_good up credit vc
  intro m'
  have link : subLink m' k = transferred i (subLink m k) := (subLink_of_lasting same k).trans (subLink_modSubLink ..)
  rw [link]
  exact ⟨tfind_tdel_self .., tget_tset_self .., fun j other => ⟨tget_tset_ne _ _ _ _ _ other.symm, tfind_tdel_ne _ _ _ other.symm⟩, rfl, up,
    (mem_of_lasting same :)⟩

/-! ## An idle nanosecond -/

/-- A table with every value changed. -/
theorem tget_map {α : Type} (f : α → α) (d : α) (base : f d = d) (k : Nat) (t : Tbl α) : tget (t.map (fun p => (p.1, f p.2))) k d = f (tget t k d) := by
  induction t with
  | nil => exact base.symm
  | cons p t ih =>
    simp only [tget, tfind, List.map_cons] at ih ⊢
    split
    · rfl
    · exact ih

/-- Every credit that is out has come back. -/
theorem subLink_creditsBack (m : Mach) (k : Nat) :
    subLink (creditsBack m) k = { subLink m k with returned := (subLink m k).issued } :=
  tget_map (fun x : SubLink => { x with returned := x.issued }) SubLink.reset rfl k m.subs

theorem subLink_idleTick {s : State} (running : alive s.m = true) (k : Nat) :
    subLink (idleTick s).m k = { subLink s.m k with returned := (subLink s.m k).issued } := by
  have subs : (idleTick s).m.subs = (creditsBack s.m).subs := by
    have here : alive (timeTick s.m) = true := running
    simp only [idleTick, here, if_true]
    exact (runningEnd_keeps (fun m => m.subs) (fun _ _ => rfl) (fun _ _ => rfl) _).trans (resetsEnd_keeps (fun m => m.subs) (fun _ => rfl) (fun _ _ _ _ => rfl) _)
  rw [← subLink_creditsBack, subLink, subs]
  rfl

end Sys2Proof.Machine
end
section
/-! Service cores that are lost and that return, and clock domains that are lost (R63, R789, R811, R813, R838). -/

namespace Sys2Proof.Machine

/-! ## A service core is lost -/

section
variable {m : Mach} {h : Nat}

/-- The service controller once a hub's core is gone, before the loss is recorded. -/
def coreGone (m : Mach) (h : Nat) : Mach :=
  let m := { m with svc := { m.svc with coresLost := insNat m.svc.coresLost h, agreed := m.svc.agreed.filter (fun p => p.1 / 2 != h),
                                        kept := m.svc.kept.filter (fun k => portHub k.port != h),
                                        running := m.svc.running.filter (fun k => portHub k.port != h) } }
  match m.svc.owner with | some p => if portHub p = h then sessionLapses m else m | none => m

theorem coreLost_of_works (works : h ∉ m.svc.coresLost) :
    coreLost m h = setUState (raiseErr (coreGone m h) 0x0054 (0x0D00 + h) (le 1 h)) 0x0E h .failed := by
  rw [coreLost, if_neg (by simpa using works)]
  rfl

/-- The core is among those lost, and a session at one of its ports has ended (R63). -/
theorem coreGone_svc (m : Mach) (h : Nat) : ∃ x, coreGone m h = { m with svc := x } ∧ x.coresLost = insNat m.svc.coresLost h ∧
    ∀ p, m.svc.owner = some p → x.owner = if portHub p = h then none else some p := by
  unfold coreGone
  dsimp only
  split
  · next p owner =>
    split
    · next here => exact ⟨_, rfl, rfl, fun q at_ => by cases owner.symm.trans at_; rw [if_pos here]⟩
    · next other => exact ⟨_, rfl, rfl, fun q at_ => by cases owner.symm.trans at_; rw [if_neg other]; exact owner⟩
  · next none_ => exact ⟨_, rfl, rfl, fun q at_ => nomatch none_.symm.trans at_⟩

theorem coreLost_leaves (works : h ∉ m.svc.coresLost) :
    h ∈ (coreLost m h).svc.coresLost ∧ ustate (coreLost m h) 0x0E h = .failed ∧ (coreLost m h).mem = m.mem ∧
      ∀ p, m.svc.owner = some p → (coreLost m h).svc.owner = if portHub p = h then none else some p := by
  obtain ⟨x, gone, cores, owner⟩ := coreGone_svc m h
  have told := raiseErr_logged (coreGone m h) 0x0054 (0x0D00 + h) (le 1 h)
  rw [coreLost_of_works works, setUState_svc, setUState_mem, told.svc, told.mem, gone]
  exact ⟨cores ▸ (insNat_mem ..).2 (.inl rfl), ustate_setUState_self .., rfl, owner⟩

end

theorem svc_of_lasting {m m' : Mach} (same : lasting m' = lasting m) : m'.svc = m.svc := (congrArg (fun x => x.svc) same :)

theorem serviceCoreLoss_completes {s : State} {h : HubId} (released : s.m.svc.released = true) (works : h.val ∉ s.m.svc.coresLost) :
    Completes (.serviceCoreLoss h) s (fun m => h.val ∈ m.svc.coresLost ∧ ustate m 0x0E h.val = .failed ∧ m.mem = s.m.mem ∧
      ∀ p, s.m.svc.owner = some p → m.svc.owner = if portHub p = h.val then none else some p) := by
  refine completes_runM (exec_serviceCoreLoss ..) ?_
  rw [if_pos released, svc_of_lasting (lasting_lossCheck _), (lossCheck_stopKeeps _).ustate, (lossCheck_stopKeeps _).mem]
  exact coreLost_leaves works

/-! ## A service core works again -/

/-- The core of hub `h` works, its hub is in service, and memory holds what it held. -/
structure CoreWorks (mem : Memory) (h : Nat) (m : Mach) : Prop where
  core : h ∉ m.svc.coresLost
  reset : h ∉ m.svc.returning
  hub : h ∉ m.hubsLost
  unit : ustate m 0x0E h = .active
  mem : m.mem = mem

section
variable {m : Mach} {mem : Memory} {h : Nat}

theorem CoreWorks.setUState (works : CoreWorks mem h m) {k i : Nat} (other : ukey k i ≠ ukey 0x0E h) (x : UState) :
    CoreWorks mem h (setUState m k i x) :=
  ⟨works.core, works.reset, works.hub, by rw [ustate_setUState, if_neg other, works.unit], works.mem⟩

theorem CoreWorks.modPcie (works : CoreWorks mem h m) (p : Nat) (f : PcieSt → PcieSt) : CoreWorks mem h (modPcie m p f) :=
  ⟨works.core, works.reset, works.hub, works.unit, works.mem⟩

theorem CoreWorks.setLinkState (works : CoreWorks mem h m) (l : Nat) (st : LinkState) : CoreWorks mem h (setLinkState m l st) :=
  ⟨works.core, works.reset, works.hub, works.unit, works.mem⟩

theorem CoreWorks.domStarted (works : CoreWorks mem h m) (d : Nat) : CoreWorks mem h (domStart (modDom m d (fun _ => Dom.reset)) d) :=
  ⟨works.core, works.reset, works.hub, works.unit, works.mem⟩

/-- A core whose block has been reset works once its firmware has been checked (R813). -/
theorem coreReturns_works (hub : h ∉ m.hubsLost) : CoreWorks m.mem h (coreReturns m h) := by
  have started : CoreWorks m.mem h (domStart (modDom (Machine.setUState { m with svc := { m.svc with
      coresLost := m.svc.coresLost.filter (fun k => k != h), returning := m.svc.returning.filter (fun k => k != h) } } 0x0E h .active) (128 + h)
        (fun _ => Dom.reset)) (128 + h)) := by
    refine ⟨?_, ?_, hub, ustate_setUState_self .., rfl⟩
    · exact fun at_ => by simpa using (List.mem_filter.1 at_).2
    · exact fun at_ => by simpa using (List.mem_filter.1 at_).2
  unfold coreReturns
  dsimp only
  split
  · exact started
  · have again := started.setUState (k := 0x0D) (i := h) (by unfold ukey; omega) .active
    exact ⟨again.core, again.reset, again.hub, again.unit, again.mem⟩

/-- A link of a hub that returns is offline, where it has a role. -/
def linkReturns (h : Nat) (m : Mach) (i : Nat) : Mach :=
  if imgFld m 0x000C (4 * h + i) 0 1 = 0 then m else Machine.setUState (setLinkState m (4 * h + i) .offline) 0x06 (4 * h + i) .offline

/-- A hub that was lost is back with its core, its mesh's domain and its links. -/
def hubBack (m : Mach) (h : Nat) : Mach :=
  (List.range 4).foldl (linkReturns h)
    (domStart (modDom (coreReturns { m with hubsLost := m.hubsLost.filter (fun k => k != h) } h) (124 + h) (fun _ => Dom.reset)) (124 + h))

theorem hubReturns_of_lost (lost : h ∈ m.hubsLost) : hubReturns m h =
    if imgFld (hubBack m h) 0x000C (8 + h) 0 1 = 0 then hubBack m h
    else Machine.setUState (modPcie (hubBack m h) h (fun x => { x with links := vmap (fun d => { d with st := 0 }) x.links })) 0x07 h .offline := by
  rw [hubReturns, if_neg (by simpa using lost)]
  rfl

theorem linkReturns_works (works : CoreWorks mem h m) (small : h < 2) {i : Nat} (lt : i < 4) : CoreWorks mem h (linkReturns h m i) := by
  unfold linkReturns
  split
  · exact works
  · exact (works.setLinkState _ _).setUState (by unfold ukey; omega) _

theorem hubBack_works (small : h < 2) : CoreWorks m.mem h (hubBack m h) := by
  have core := coreReturns_works (m := { m with hubsLost := m.hubsLost.filter (fun k => k != h) }) (h := h)
    fun at_ => by simpa using (List.mem_filter.1 at_).2
  exact List.foldlRecOn (motive := CoreWorks m.mem h) _ _ (core.domStarted _)
    fun _ works i at_ => linkReturns_works works small (List.mem_range.1 at_)

/-- A hub that was lost returns with its links and its port offline. -/
theorem hubReturns_works (small : h < 2) : CoreWorks m.mem h (hubReturns m h) := by
  by_cases lost : h ∈ m.hubsLost
  · rw [hubReturns_of_lost lost]
    split
    · exact hubBack_works small
    · exact ((hubBack_works small).modPcie _ _).setUState (by unfold ukey; omega) _
  · rw [hubReturns, if_pos (by simpa using lost)]
    exact coreReturns_works lost

end

theorem hubReturn_completes {s : State} {h : HubId} (alive_ : alive s.m = true) (reset : h.val ∈ s.m.svc.returning) (lost : h.val ∈ s.m.svc.coresLost)
    (fuses : fusesBad s.fuse = false) (firmware : (bothItems s.m 1).any (firmwareGood s.fuse) = true) :
    Completes (.hubReturn h) s (CoreWorks s.m.mem h.val) := by
  refine completes_runAlive (exec_hubReturn ..) alive_ ?_
  rw [if_pos (by simp [reset, lost, fuses, firmware])]
  exact hubReturns_works h.isLt

/-! ## A clock domain is lost -/

section
variable {m : Mach} {d : Nat}

@[simp] theorem dom_modDom (f : Dom → Dom) : dom (modDom m d f) d = f (dom m d) := tget_tset_self ..

/-- The domain of a link that is offline takes no unit with it. -/
theorem domainLost_of_offlineLink (lo : 92 ≤ d) (hi : d < 100) (offline : (link m (d - 92)).st = .offline) :
    domainLost m d = modDom m d (fun x => { x with mhz := 0, lost := true }) := by
  have still : (link (modDom m d (fun x => { x with mhz := 0, lost := true })) (d - 92)).st = .offline := offline
  simp only [domainLost, still, if_true, if_pos hi, if_neg (show ¬ d < 64 by omega), if_neg (show ¬ d < 80 by omega), if_neg (show ¬ d < 92 by omega)]

theorem heartbeatLost_of_running (runs : unitsRun m = true) (clocked : (dom m d).mhz ≠ 0) : heartbeatLost m d = domainLost m d := by
  have gated : holdGates m d = false := by
    have held : (m.mode.st == .hold) = false := by
      unfold unitsRun at runs
      cases st : m.mode.st <;> simp_all
    simp [holdGates, held]
  rw [heartbeatLost, if_neg (by simp [clocked, gated])]

/-- A domain that reads the trip temperature, with THERMTRIP_N driven. -/
def tripRead (m : Mach) (d temp : Nat) : Mach :=
  let m := modDom m d (fun x => { x with temp := temp, tripped := true })
  if m.pins.thermtrip then m else emit { m with pins := { m.pins with thermtrip := true } } (.land 5103 false)

theorem thermalTrip_of_running {temp : Nat} (hot : 115 ≤ temp) (own : d ≠ 130) (first : (dom m d).tripped = false) (clocked : (dom m d).mhz ≠ 0) :
    thermalTrip m d temp = domainLost (tripRead m d temp) d := by
  rw [thermalTrip, if_neg (by simp [first, own]; omega)]
  exact if_pos (by simpa using clocked)

theorem tripRead_leaves (temp : Nat) : (dom (tripRead m d temp) d).tripped = true ∧ (tripRead m d temp).pins.thermtrip = true ∧
    (tripRead m d temp).mem = m.mem ∧ (tripRead m d temp).links = m.links := by
  have tripped : (dom (modDom m d (fun x => { x with temp := temp, tripped := true })) d).tripped = true := by rw [dom_modDom]
  unfold tripRead
  dsimp only
  split
  · next driven => exact ⟨tripped, driven, rfl, rfl⟩
  · exact ⟨tripped, rfl, rfl, rfl⟩

end

theorem heartbeatLoss_completes {s : State} {d : DomainId} (run : unitsRun s.m = true) (lo : 92 ≤ d.val) (hi : d.val < 100)
    (clocked : (dom s.m d.val).mhz ≠ 0) (offline : (link s.m (d.val - 92)).st = .offline) :
    Completes (.heartbeatLoss d) s (fun m => (dom m d.val).lost = true ∧ (dom m d.val).mhz = 0 ∧ m.mem = s.m.mem ∧ m.links = s.m.links) := by
  refine completes_runAlive (exec_heartbeatLoss ..) (alive_of_unitsRun run) ?_
  rw [heartbeatLost_of_running run clocked, domainLost_of_offlineLink lo hi offline, dom_modDom]
  exact ⟨rfl, rfl, rfl, rfl⟩

theorem thermalTrip_completes {s : State} {d : DomainId} {temp : Byte} (run : unitsRun s.m = true) (lo : 92 ≤ d.val) (hi : d.val < 100)
    (hot : 115 ≤ temp.toNat) (first : (dom s.m d.val).tripped = false) (clocked : (dom s.m d.val).mhz ≠ 0)
    (offline : (link s.m (d.val - 92)).st = .offline) :
    Completes (.thermalTrip d temp) s (fun m => (dom m d.val).tripped = true ∧ (dom m d.val).mhz = 0 ∧ m.pins.thermtrip = true ∧
      m.mem = s.m.mem) := by
  refine completes_runAlive (exec_thermalTrip ..) (alive_of_unitsRun run) ?_
  obtain ⟨tripped, driven, mem, links⟩ := tripRead_leaves (m := s.m) (d := d.val) temp.toNat
  rw [thermalTrip_of_running hot (by omega) first clocked, domainLost_of_offlineLink lo hi (by rw [link_of_links _ _ links, offline]), dom_modDom]
  exact ⟨tripped, rfl, driven, mem⟩

end Sys2Proof.Machine
end
section
/-! Recoveries outside Hold (R28, R32, R814 to R816): what the recovery of a fault adds to its act, and the loss of a compute tile (R806). -/

namespace Sys2Proof.Machine

/-! ## What a record, a mode and the check for losses leave -/

/-- Behind the logs, the mode, leases, channels and ports a machine is as another, and its units are in the states of the other's. -/
structure Lasts (m m' : Mach) : Prop where
  rest : lasting m' = lasting m
  ustate : ∀ k i, ustate m' k i = ustate m k i

namespace Lasts

variable {m m' m'' : Mach}

theorem refl (m : Mach) : Lasts m m := ⟨rfl, fun _ _ => rfl⟩
theorem trans (h : Lasts m m') (g : Lasts m' m'') : Lasts m m'' := ⟨g.rest.trans h.rest, fun k i => (g.ustate k i).trans (h.ustate k i)⟩
theorem mem (h : Lasts m m') : m'.mem = m.mem := mem_of_lasting h.rest
theorem svc (h : Lasts m m') : m'.svc = m.svc := svc_of_lasting h.rest
theorem image (h : Lasts m m') : m'.image = m.image := (congrArg (fun x => x.image) h.rest :)
theorem load (h : Lasts m m') : m'.load = m.load := (congrArg (fun x => x.load) h.rest :)
theorem engs (h : Lasts m m') : m'.engs = m.engs := (congrArg (fun x => x.engs) h.rest :)
theorem homes (h : Lasts m m') : m'.homes = m.homes := (congrArg (fun x => x.homes) h.rest :)
theorem benches (h : Lasts m m') : m'.benches = m.benches := (congrArg (fun x => x.benches) h.rest :)
theorem l3Waiting (h : Lasts m m') : m'.evt.l3Waiting = m.evt.l3Waiting := (congrArg (fun x => x.evt.l3Waiting) h.rest :)
theorem chn (h : Lasts m m') : m'.chn = m.chn := (congrArg (fun x => x.chn) h.rest :)
theorem jobs (h : Lasts m m') : m'.jobs = m.jobs := (congrArg (fun x => x.jobs) h.rest :)
theorem hubsLost (h : Lasts m m') : m'.hubsLost = m.hubsLost := (congrArg (fun x => x.hubsLost) h.rest :)
theorem tilesLost (h : Lasts m m') : m'.errs.tilesLost = m.errs.tilesLost := (congrArg (fun x => x.errs.tilesLost) h.rest :)

end Lasts

section
variable (m : Mach)

theorem lossCheck_lasts : Lasts m (lossCheck m) := ⟨lasting_lossCheck m, (lossCheck_stopKeeps m).ustate⟩
theorem modMode_lasts (f : ModeSt → ModeSt) : Lasts m (modMode m f) := ⟨rfl, fun _ _ => rfl⟩
theorem raiseErrD_lasts (cause src det : Nat) (d : Bytes) (ls addr : Option Nat) (n : Nat) : Lasts m (raiseErrD m cause src det d ls addr n) :=
  ⟨lasting_raiseErrD .., (raiseErrD_logged ..).ustate⟩
theorem raiseErr_lasts (cause src : Nat) (d : Bytes) : Lasts m (raiseErr m cause src d) := raiseErrD_lasts ..

end

/-! ## A recovery outside Hold -/

/-- The machine when the recovery of a fault begins: the fault is noted, and Service gives way to Rework (R32). -/
def recovering (m : Mach) (f : FaultEv) : Mach := beginRecovery (noteFault m f) f

theorem recovering_lasts (m : Mach) (f : FaultEv) : Lasts m (recovering m f) := by
  unfold recovering beginRecovery
  dsimp only
  split
  · exact ⟨(lasting_enterMode ..).trans rfl, ustate_enterMode _ _ _⟩
  · exact ⟨rfl, fun _ _ => rfl⟩

theorem recovering_chans (m : Mach) (f : FaultEv) : (recovering m f).chans = m.chans := by
  unfold recovering beginRecovery
  dsimp only
  split
  · exact (enterMode_logged ..).chans
  · rfl

/-- A fault that is noted leaves the mode, and Hold, as they were. -/
theorem noteFault_mode (m : Mach) (f : FaultEv) :
    (noteFault m f).mode.st = m.mode.st ∧ (noteFault m f).mode.holdStart = m.mode.holdStart := by
  simp only [noteFault, modMode]
  split <;> exact ⟨rfl, rfl⟩

theorem unitsRun_noteFault {m : Mach} (run : unitsRun m = true) (f : FaultEv) : unitsRun (noteFault m f) = true := by
  rw [unitsRun, (noteFault_mode m f).1]
  exact run

section
variable {m : Mach} (run : unitsRun m = true) (stays : m.mode.holdStart = none)
include run stays

theorem noteFault_runs (f : FaultEv) : unitsRun (noteFault m f) = true ∧ holding (noteFault m f) = false := by
  have runs := unitsRun_noteFault run f
  exact ⟨runs, not_holding_of_unitsRun runs ((noteFault_mode m f).2.trans stays)⟩

/-- Outside Hold a fault is handled at once: its act is done between the beginning and the end of its recovery. -/
theorem recover_of_runs (f : FaultEv) (act : Mach → Mach) :
    recover m f act = lossCheck (endRecovery (faultTaken (act (recovering m f)) f) f) := by
  obtain ⟨runs, free⟩ := noteFault_runs run stays f
  rw [recover]
  dsimp only
  rw [free, recoverNow, runs]
  rfl

theorem recover_lasts (f : FaultEv) (act : Mach → Mach) : Lasts (act (recovering m f)) (recover m f act) := by
  rw [recover_of_runs run stays]
  exact ((modMode_lasts _ _).trans (modMode_lasts _ _)).trans (lossCheck_lasts _)

end

/-! ## A compute tile -/

/-- Whether a home node has a role is said by the image alone (R25). -/
theorem homeRole_of_image {m m' : Mach} (image : m'.image = m.image) (h : Nat) : unitHasRole m' 0x03 h = unitHasRole m 0x03 h := by
  simp only [unitHasRole, imgRec, image]

/-- The tile is noted as lost, and its loss is recorded. -/
def tileNoted (m : Mach) (t : Nat) : Mach :=
  raiseErr { m with errs := { m.errs with tilesLost := insNat m.errs.tilesLost t } } 0x0052 0x0F00 (le 1 t)

/-- None of the `n` units of a tile is picked. -/
theorem filter_block_nil {n t : Nat} {p : Nat → Bool} (none_ : ∀ i, i < n → p (n * t + i) = false) :
    ((List.range n).map (fun i => n * t + i)).filter p = [] := by
  refine List.filter_eq_nil_iff.2 fun k at_ => ?_
  obtain ⟨i, lt, rfl⟩ := List.mem_map.1 at_
  simp [none_ i (List.mem_range.1 lt)]

section
variable {m : Mach} {t : Nat}

/-- A tile of which no bench takes work, no home has a role and no channel is used is lost without any of its units. -/
theorem tileLostNow_of_idle (tile : t < 4)
    (benches : ∀ b, b < 64 → b / 16 = t → ustate m 0x01 b ≠ .active ∧ ustate m 0x01 b ≠ .draining)
    (homes : ∀ h, h < 16 → h / 4 = t → unitHasRole m 0x03 h = false) (chans : ∀ c, c < 12 → c / 3 = t → (chan m c).role = 0) :
    tileLostNow m t = tileNoted m t := by
  have told : Logged { m with errs := { m.errs with tilesLost := insNat m.errs.tilesLost t } } (tileNoted m t) := raiseErr_logged ..
  have noBench : ((List.range 16).map (fun i => 16 * t + i)).filter (fun b => benchIn (tileNoted m t) b || benchDraining (tileNoted m t) b) = [] := by
    refine filter_block_nil fun i lt => ?_
    obtain ⟨active, draining⟩ := benches (16 * t + i) (by omega) (by omega)
    have state : ustate (tileNoted m t) 0x01 (16 * t + i) = ustate m 0x01 (16 * t + i) := told.ustate ..
    simp [benchIn, benchDraining, state, active, draining]
  have noHome : ((List.range 4).map (fun i => 4 * t + i)).filter
      (fun h => unitHasRole (tileNoted m t) 0x03 h && !(home (tileNoted m t) h).lost) = [] := by
    refine filter_block_nil fun i lt => ?_
    have role : unitHasRole (tileNoted m t) 0x03 (4 * t + i) = unitHasRole m 0x03 (4 * t + i) := homeRole_of_image told.image _
    simp [role, homes _ (show 4 * t + i < 16 by omega) (by omega)]
  have noChan : ((List.range 3).map (fun i => 3 * t + i)).filter
      (fun c => (chan (tileNoted m t) c).role != 0 && (chan (tileNoted m t) c).phase != .failed) = [] := by
    refine filter_block_nil fun i lt => ?_
    have role : chan (tileNoted m t) (3 * t + i) = chan m (3 * t + i) := congrArg (fun x => tget x (3 * t + i) Chan.reset) told.chans
    simp [role, chans _ (show 3 * t + i < 12 by omega) (by omega)]
  unfold tileLostNow
  dsimp only
  rw [← tileNoted]
  simp only [noBench, List.foldl_nil, noHome, noChan]

end

theorem tileLoss_completes {s : State} {t : Fin 4} (run : unitsRun s.m = true) (stays : s.m.mode.holdStart = none)
    (works : t.val ∉ s.m.errs.tilesLost)
    (benches : ∀ b, b < 64 → b / 16 = t.val → ustate s.m 0x01 b ≠ .active ∧ ustate s.m 0x01 b ≠ .draining)
    (homes : ∀ h, h < 16 → h / 4 = t.val → unitHasRole s.m 0x03 h = false) (chans : ∀ c, c < 12 → c / 3 = t.val → (chan s.m c).role = 0) :
    Completes (.tileLoss t) s (fun m => t.val ∈ m.errs.tilesLost ∧ m.mem = s.m.mem) := by
  refine completes_runMesh (exec_tileLoss ..) (meshRuns_of_unitsRun run) ?_
  have goes : tileGoes s.m t.val = recover s.m (.tile t.val) (fun m => tileLostNow m t.val) := if_neg (by simpa using works)
  have start := recovering_lasts s.m (.tile t.val)
  have lost := tileLostNow_of_idle (m := recovering s.m (.tile t.val)) t.isLt (fun b => by rw [start.ustate]; exact benches b)
    (fun h => by rw [homeRole_of_image start.image]; exact homes h)
    (fun c => by rw [chan, recovering_chans]; exact chans c)
  have ends := recover_lasts run stays (.tile t.val) (fun m => tileLostNow m t.val)
  have told : Lasts { recovering s.m (.tile t.val) with errs := { (recovering s.m (.tile t.val)).errs with
      tilesLost := insNat (recovering s.m (.tile t.val)).errs.tilesLost t.val } } (tileNoted (recovering s.m (.tile t.val)) t.val) := raiseErr_lasts ..
  rw [goes, ends.tilesLost, ends.mem, lost, told.tilesLost, told.mem]
  exact ⟨(insNat_mem ..).2 (.inl rfl), start.mem⟩

end Sys2Proof.Machine
end
section
/-! The loss of a hub without transactions and jobs (R570, R812). -/

namespace Sys2Proof.Machine

/-! ## What the units of a hub take with them -/

/-- Memory, the service controller, the hubs, jobs, transactions and the states of time and service blocks are as they were. -/
structure HubFrame (m m' : Mach) : Prop where
  mem : m'.mem = m.mem
  svc : m'.svc = m.svc
  hubs : m'.hubsLost = m.hubsLost
  jobs : m'.jobs.jobs = m.jobs.jobs
  txns : m'.chn.txns = m.chn.txns
  blocks : ∀ k i, 0x0D ≤ k → ustate m' k i = ustate m k i

namespace HubFrame

variable {m m' m'' : Mach}

theorem refl (m : Mach) : HubFrame m m := ⟨rfl, rfl, rfl, rfl, rfl, fun _ _ _ => rfl⟩

theorem trans (h : HubFrame m m') (g : HubFrame m' m'') : HubFrame m m'' :=
  ⟨g.mem.trans h.mem, g.svc.trans h.svc, g.hubs.trans h.hubs, g.jobs.trans h.jobs, g.txns.trans h.txns,
    fun k i block => (g.blocks k i block).trans (h.blocks k i block)⟩

theorem of_logged (h : Logged m m') : HubFrame m m' :=
  ⟨h.mem, h.svc, h.hubsLost, by rw [h.jobs], by rw [h.chn], fun k i _ => h.ustate k i⟩

/-- A fold whose every step keeps the frame, where the machine so far keeps it. -/
theorem foldl {α : Type} {f : Mach → α → Mach} (l : List α) (step : ∀ x, HubFrame m x → ∀ a ∈ l, HubFrame x (f x a)) : HubFrame m (l.foldl f m) :=
  List.foldlRecOn (motive := HubFrame m) l f (.refl m) fun x kept a at_ => kept.trans (step x kept a at_)

end HubFrame

section
variable (m : Mach)

/-- The state of a unit that is neither a time block nor a service block. -/
theorem setUState_hubFrame {k i : Nat} (small : k < 0x0D) (index : i < 65536) (x : UState) : HubFrame m (setUState m k i x) :=
  ⟨rfl, rfl, rfl, rfl, rfl, fun k' i' block => by rw [ustate_setUState, if_neg (by unfold ukey; omega)]⟩

theorem modWork_hubFrame (kind u : Nat) (f : WorkUnit → WorkUnit) : HubFrame m (modWork m kind u f) :=
  ⟨rfl, rfl, rfl, modWork_jobs_jobs .., rfl, fun _ _ _ => rfl⟩

theorem raiseErr_hubFrame (cause src : Nat) (d : Bytes) : HubFrame m (raiseErr m cause src d) := .of_logged (raiseErr_logged ..)

theorem modJobs_hubFrame {f : JobsSt → JobsSt} (same : (f m.jobs).jobs = m.jobs.jobs) : HubFrame m (modJobs m f) :=
  ⟨rfl, rfl, rfl, same, rfl, fun _ _ _ => rfl⟩

theorem halfLost_hubFrame {h : Nat} (small : h < 2) : HubFrame m (halfLost m h) := by
  unfold halfLost
  dsimp only
  refine HubFrame.trans ?_ (raiseErr_hubFrame ..)
  have failed : HubFrame m (setUState m 0x0B h .failed) := setUState_hubFrame m (by decide) (by omega) _
  split
  · exact failed.trans (modJobs_hubFrame _ rfl)
  · split <;> exact failed.trans (modJobs_hubFrame _ rfl)

variable {m}

theorem workFails_hubFrame (none_ : m.jobs.jobs = []) {kind u : Nat} (work : kind < 2) (small : u < 10) : HubFrame m (workFails m kind u) := by
  unfold workFails
  have failed : HubFrame m (if u < 8 then setUState m (workBlock kind) u .failed else modWork m 1 u (fun w => { w with failed := true })) := by
    split
    · exact setUState_hubFrame m (by unfold workBlock; omega) (by omega) _
    · exact modWork_hubFrame ..
  generalize (if u < 8 then setUState m (workBlock kind) u .failed else modWork m 1 u (fun w => { w with failed := true })) = x at failed
  have empty : unitJobs x kind u = [] := by rw [unitJobs, openJobs, failed.jobs, none_]; rfl
  simp only [handOn_of_noJob empty]
  exact (failed.trans (modWork_hubFrame ..)).trans (raiseErr_hubFrame ..)

/-- Crushers or cipher engines without jobs fail together. -/
theorem worksLost_hubFrame (none_ : m.jobs.jobs = []) {kind : Nat} {us : List Nat} (work : kind < 2) (small : ∀ u ∈ us, u < 10) :
    HubFrame m (worksLost m kind us) := by
  unfold worksLost
  extract_lets us' failed
  have inside : ∀ u ∈ us', u < 10 := fun u at_ => small u (List.mem_filter.1 at_).1
  have states : HubFrame m failed := .foldl us' fun x _ u at_ => by
    split
    · exact setUState_hubFrame x (by unfold workBlock; omega) (by have := inside u at_; omega) _
    · exact modWork_hubFrame ..
  exact states.trans (.foldl us' fun x kept u at_ => workFails_hubFrame (by rw [kept.jobs, states.jobs, none_]) work (inside u at_))

theorem groupAdopt_of_noTxns (none_ : m.chn.txns = []) (h : Nat) : groupAdopt m h = ((0, 0), m) := by simp [groupAdopt, openTxns, none_]

/-- The channel processors of a hub are lost, and there is no transaction for the other group to adopt (R570). -/
theorem groupLost_hubFrame (none_ : m.chn.txns = []) {h : Nat} (small : h < 2) : HubFrame m (groupLost m h) := by
  unfold groupLost
  extract_lets failed
  have states : HubFrame m failed := .foldl _ fun x _ i at_ => by
    have lt := List.mem_range.1 at_
    split
    · exact .refl x
    · exact setUState_hubFrame x (by decide) (by omega) _
  rw [groupAdopt_of_noTxns (states.txns.trans none_)]
  exact states.trans (raiseErr_hubFrame ..)

theorem pathFails_hubFrame (none_ : m.chn.txns = []) (p reason : Nat) : HubFrame m (pathFails m p reason) := by
  unfold pathFails
  extract_lets x wasOp helar failed
  have alone : pathTxns failed p = [] := by rw [pathTxns, show failed.chn.txns = m.chn.txns from rfl, none_]; rfl
  have stands : HubFrame m failed := ⟨rfl, rfl, rfl, rfl, rfl, fun _ _ _ => rfl⟩
  split
  · exact .refl m
  · rw [alone]
    dsimp only [List.foldl_nil]
    split
    · exact stands.trans (raiseErr_hubFrame ..)
    · exact stands

theorem portDown_hubFrame (none_ : m.chn.txns = []) (p : Nat) : HubFrame m (portDown m p) := by
  unfold portDown portPathsFail
  have down (f : PcieSt → PcieSt) : HubFrame m (modPcie m p f) := ⟨rfl, rfl, rfl, rfl, rfl, fun _ _ _ => rfl⟩
  refine (down _).trans (.foldl _ fun x kept k _ => ?_)
  dsimp only
  split
  · exact pathFails_hubFrame (kept.txns.trans none_) ..
  · exact .refl x

end

/-! ## The hub -/

/-- A hub's crushers and cipher engines have failed. -/
def hubWorksLost (m : Mach) (h : Nat) : Mach :=
  worksLost (worksLost (raiseErr m 0x0053 (0x0D00 + h) (le 1 h)) 0 ((List.range 4).map (fun i => 4 * h + i))) 1
    (((List.range 4).map (fun i => 4 * h + i)) ++ [8 + h])

/-- The hub is out of service. -/
def hubOut (m : Mach) (h : Nat) : Mach := { m with hubsLost := insNat m.hubsLost h, hubTlb := lset m.hubTlb h [] }

/-- A hub's channel processors, paths and half of the context store are lost. -/
def hubPathsLost (m : Mach) (h : Nat) : Mach :=
  let m := if committed m then groupLost m h else m
  let m := (List.range 64).foldl (fun m p => if pathKind m p != 0 && pathHub m p == h then pathFails m p 6 else m) m
  if ustate m 0x0B h == .active || ustate m 0x0B h == .starting then halfLost m h else m

/-- A hub's links and its port are down for good. -/
def hubLinksLost (m : Mach) (h : Nat) : Mach :=
  let m := (List.range 4).foldl (fun m i =>
    let l := 4 * h + i
    if (link m l).st = .offline ∧ ustate m 0x06 l = .reset then m
    else setUState (setLinkState m l .down) 0x06 l .failed) m
  if ustate m 0x07 h = .reset then m else setUState (portDown m h) 0x07 h .failed

theorem hubLostNow_eq (m : Mach) (h : Nat) :
    hubLostNow m h = hubLinksLost (coreLost (timeGone (hubPathsLost (hubOut (hubWorksLost m h) h) h) h) h) h := rfl

/-- A hub's time-stamp master and event block are lost: only the masters and the state of the block change. -/
theorem timeGone_leaves (m : Mach) (h : Nat) : ustate (timeGone m h) 0x0D h = .failed ∧ (timeGone m h).mem = m.mem ∧ (timeGone m h).svc = m.svc ∧
    (timeGone m h).hubsLost = m.hubsLost ∧ (timeGone m h).chn = m.chn := by
  unfold timeGone
  dsimp only
  refine ⟨ustate_setUState_self .., ?_, ?_, ?_, ?_⟩ <;> split <;> rfl

/-- The loss of a service core says nothing of the hubs, of channels and of its hub's time block. -/
theorem coreLost_keeps {m : Mach} {h : Nat} (works : h ∉ m.svc.coresLost) :
    (coreLost m h).hubsLost = m.hubsLost ∧ (coreLost m h).chn = m.chn ∧ ustate (coreLost m h) 0x0D h = ustate m 0x0D h := by
  obtain ⟨x, gone, -⟩ := coreGone_svc m h
  have told := raiseErr_logged (coreGone m h) 0x0054 (0x0D00 + h) (le 1 h)
  have other : ukey 0x0E h ≠ ukey 0x0D h := by unfold ukey; omega
  rw [coreLost_of_works works, ustate_setUState, if_neg other, told.ustate]
  exact ⟨told.hubsLost.trans (by rw [gone]), told.chn.trans (by rw [gone]), by rw [gone]; rfl⟩

section
variable {m : Mach} {h : Nat} (small : h < 2)
include small

theorem hubWorksLost_hubFrame (none_ : m.jobs.jobs = []) : HubFrame m (hubWorksLost m h) := by
  have told := raiseErr_hubFrame m 0x0053 (0x0D00 + h) (le 1 h)
  have crushers := worksLost_hubFrame (told.jobs.trans none_) (kind := 0) (us := (List.range 4).map (fun i => 4 * h + i)) (by decide)
    (by simp; omega)
  exact (told.trans crushers).trans (worksLost_hubFrame ((told.trans crushers).jobs.trans none_) (by decide) (by simp; omega))

theorem hubPathsLost_hubFrame (none_ : m.chn.txns = []) : HubFrame m (hubPathsLost m h) := by
  unfold hubPathsLost
  extract_lets group paths
  have first : HubFrame m group := by
    unfold group
    split
    · exact groupLost_hubFrame none_ small
    · exact .refl m
  have second : HubFrame m paths := first.trans (.foldl _ fun x kept p _ => by
    split
    · exact pathFails_hubFrame (kept.txns.trans (first.txns.trans none_)) ..
    · exact .refl x)
  split
  · exact second.trans (halfLost_hubFrame _ small)
  · exact second

theorem hubLinksLost_hubFrame (none_ : m.chn.txns = []) : HubFrame m (hubLinksLost m h) := by
  unfold hubLinksLost
  extract_lets links
  have first : HubFrame m links := .foldl _ fun x _ i at_ => by
    have lt := List.mem_range.1 at_
    have linked : HubFrame x (setLinkState x (4 * h + i) .down) := ⟨rfl, rfl, rfl, rfl, rfl, fun _ _ _ => rfl⟩
    dsimp only
    split
    · exact .refl x
    · exact linked.trans (setUState_hubFrame _ (by decide) (by omega) _)
  split
  · exact first
  · exact (first.trans (portDown_hubFrame (first.txns.trans none_) h)).trans (setUState_hubFrame _ (by decide) (by omega) _)

/-- A hub without transactions and jobs is lost with its service core and its time-stamp master. -/
theorem hubLostNow_leaves (core : h ∉ m.svc.coresLost) (txns : m.chn.txns = []) (jobs : m.jobs.jobs = []) :
    h ∈ (hubLostNow m h).hubsLost ∧ h ∈ (hubLostNow m h).svc.coresLost ∧ ustate (hubLostNow m h) 0x0E h = .failed ∧
      ustate (hubLostNow m h) 0x0D h = .failed ∧ (hubLostNow m h).mem = m.mem := by
  have works := hubWorksLost_hubFrame small jobs
  have paths := hubPathsLost_hubFrame (m := hubOut (hubWorksLost m h) h) small (works.txns.trans txns)
  obtain ⟨block, timeMem, timeSvc, timeHubs, timeChn⟩ := timeGone_leaves (hubPathsLost (hubOut (hubWorksLost m h) h) h) h
  have runs : h ∉ (timeGone (hubPathsLost (hubOut (hubWorksLost m h) h) h) h).svc.coresLost := by
    rw [timeSvc, paths.svc]; exact works.svc ▸ core
  obtain ⟨gone, unit, coreMem, -⟩ := coreLost_leaves runs
  obtain ⟨coreHubs, coreChn, coreBlock⟩ := coreLost_keeps runs
  have out : h ∈ (timeGone (hubPathsLost (hubOut (hubWorksLost m h) h) h) h).hubsLost := by
    rw [timeHubs, paths.hubs]; exact (insNat_mem ..).2 (.inl rfl)
  have links := hubLinksLost_hubFrame (m := coreLost (timeGone (hubPathsLost (hubOut (hubWorksLost m h) h) h) h) h) small
    (by rw [coreChn, timeChn, paths.txns]; exact works.txns.trans txns)
  rw [hubLostNow_eq, links.hubs, links.svc, links.blocks _ _ (by decide), links.blocks _ _ (by decide), links.mem, coreHubs, coreBlock, coreMem,
    timeMem, paths.mem]
  exact ⟨out, gone, unit, block, works.mem⟩

end

theorem hubLoss_completes {s : State} {h : HubId} (run : unitsRun s.m = true) (stays : s.m.mode.holdStart = none)
    (works : h.val ∉ s.m.hubsLost) (core : h.val ∉ s.m.svc.coresLost) (txns : s.m.chn.txns = []) (jobs : s.m.jobs.jobs = []) :
    Completes (.hubLoss h) s (fun m => h.val ∈ m.hubsLost ∧ h.val ∈ m.svc.coresLost ∧ ustate m 0x0E h.val = .failed ∧
      ustate m 0x0D h.val = .failed ∧ m.mem = s.m.mem) := by
  refine completes_runMesh (exec_hubLoss ..) (meshRuns_of_unitsRun run) ?_
  have goes : hubGoes s.m h.val = recover s.m (.hub h.val) (fun m => hubLostNow m h.val) := if_neg (by simpa [hubIn] using works)
  have start := recovering_lasts s.m (.hub h.val)
  have ends := recover_lasts run stays (.hub h.val) (fun m => hubLostNow m h.val)
  have lost := hubLostNow_leaves h.isLt (start.svc ▸ core) (start.chn ▸ txns) (start.jobs ▸ jobs)
  rw [goes, ends.hubsLost, ends.svc, ends.ustate, ends.ustate, ends.mem, ← start.mem]
  exact lost

end Sys2Proof.Machine
end
section
/-! The loss of a home node whose buddy serves (R480 to R487, R806): the buddy takes its share over. -/

namespace Sys2Proof.Machine

/-! ## How the home nodes stand -/

/-- Whether a home node is lost, what it is at, and for whom. -/
def standing (x : Home) : Bool × HomeState × Nat := (x.lost, x.st, x.takeoverOf)

/-- The home nodes stand as they did, and their units are in the same states. -/
structure HomesStand (m m' : Mach) : Prop where
  units : ∀ g, ustate m' 0x03 g = ustate m 0x03 g
  homes : ∀ g, standing (home m' g) = standing (home m g)

namespace HomesStand

variable {m m' m'' : Mach}

theorem refl (m : Mach) : HomesStand m m := ⟨fun _ => rfl, fun _ => rfl⟩
theorem trans (h : HomesStand m m') (g : HomesStand m' m'') : HomesStand m m'' :=
  ⟨fun k => (g.units k).trans (h.units k), fun k => (g.homes k).trans (h.homes k)⟩
theorem of_homes (units : ∀ g, ustate m' 0x03 g = ustate m 0x03 g) (homes : m'.homes = m.homes) : HomesStand m m' :=
  ⟨units, fun g => by rw [home, homes]; rfl⟩
theorem of_lasts (h : Lasts m m') : HomesStand m m' := of_homes (h.ustate 0x03) h.homes

/-- A fold whose every step keeps the homes as they stand. -/
theorem foldl {α : Type} {f : Mach → α → Mach} (step : ∀ x a, HomesStand x (f x a)) (l : List α) : HomesStand m (l.foldl f m) :=
  List.foldlRecOn (motive := HomesStand m) l f (.refl m) fun x kept a _ => kept.trans (step x a)

end HomesStand

section
variable (m : Mach)

/-- A change of a home node that says nothing of how it stands. -/
theorem modHome_stands (h : Nat) {f : Home → Home} (same : standing (f (home m h)) = standing (home m h)) : HomesStand m (modHome m h f) := by
  refine ⟨fun _ => rfl, fun g => ?_⟩
  by_cases here : g = h
  · rw [here, home_modHome, same]
  · rw [home_modHome_other fun e => here e.symm]

theorem foldl_writeLeft_homes (l : List (Nat × PReq)) : (l.foldl (fun m e => writeLeft m e.1) m).homes = m.homes :=
  foldl_keeps Mach.homes (f := fun m (e : Nat × PReq) => writeLeft m e.1) (fun x e => writeLeft_homes x e.1) _ _

theorem memWriteNow_stands (n : Nat) (d : Line) (poison : Bool) : HomesStand m (memWriteNow m n d poison) := by
  refine .of_homes (fun g => see_memWriteNow (ustateView 0x03 g) ..) ?_
  have caught (x : Mach) : (markCatchUp x n).homes = x.homes := by
    dsimp only [markCatchUp]
    split <;> rfl
  have dropped (x : Mach) : (dropWrites x n).homes = x.homes :=
    foldl_keeps Mach.homes (fun x w => foldl_writeLeft_homes { x with mem := { x.mem with writes := x.mem.writes.erase w } } w.left) _ _
  unfold memWriteNow
  split
  · rfl
  · dsimp only
    rw [dropped, caught]

theorem raiseEvent_homes (cls src l vector : Nat) (p : Bytes) : (raiseEvent m cls src l vector p).homes = m.homes := rfl
theorem raiseCopy_homes (cls src : Nat) (p : Bytes) : (raiseCopy m cls src p).homes = m.homes := rfl

theorem machineCheck_stands (src l : Nat) (lines : List Nat) : HomesStand m (machineCheck m src l lines) := by
  refine .foldl (fun x c => ?_) _
  have raised : HomesStand x (raiseEvent x 0x0A src l 0 (padTo 48 (c.flatMap (fun n => le 8 (256 * n + 1))))) :=
    .of_homes ((raiseEvent_logged ..).ustate 0x03) (raiseEvent_homes ..)
  dsimp only
  split
  · exact raised.trans (.of_homes ((raiseCopy_logged ..).ustate 0x03) (raiseCopy_homes ..))
  · exact raised

/-- Where the lost home node held the mirrors of another, the dirty lines of that one are written. -/
theorem mirrorsLost_stands (h : Nat) : HomesStand m (mirrorsLost m h) := by
  refine .foldl (fun x g => ?_) _
  dsimp only
  split
  · refine (HomesStand.trans (.foldl (fun x p => ?_) _) (modHome_stands _ _ rfl)).trans (.of_lasts (raiseErr_lasts ..))
    split
    · exact memWriteNow_stands ..
    · exact .refl x
  · exact .refl x

end

/-! ## The buddy takes over -/

/-- Home node `h` is lost, and `b` is taking its share over. -/
structure TakenOver (h b : Nat) (m : Mach) : Prop where
  lost : (home m h).lost = true
  unit : ustate m 0x03 h = .failed
  st : (home m b).st = .takingOver
  of : (home m b).takeoverOf = h

theorem TakenOver.stands {h b : Nat} {m m' : Mach} (taken : TakenOver h b m) (same : HomesStand m m') : TakenOver h b m' := by
  have of_lost := congrArg Prod.fst (same.homes h)
  have of_buddy := congrArg Prod.snd (same.homes b)
  simp only [standing, Prod.mk.injEq] at of_lost of_buddy
  exact ⟨of_lost.trans taken.lost, (same.units h).trans taken.unit, of_buddy.1.trans taken.st, of_buddy.2.trans taken.of⟩

theorem homeTakeoverBegin_takesOver {m : Mach} {h : Nat} (other : buddyOf m h ≠ h) : TakenOver h (buddyOf m h) (homeTakeoverBegin m h) := by
  unfold homeTakeoverBegin
  extract_lets b shares again open_ gone failed taking inShare cleared told rep all reported adopted poisoned checked
  have begun : TakenOver h b taking := by
    refine ⟨?_, ?_, ?_, ?_⟩
    · rw [home_modHome_other other]
      exact congrArg Home.lost (home_modHome m h fun x => { x with
        lost := true, txns := [], queues := [], waitDir := [], l3 := [], heldReqs := x.heldReqs ++ open_.filter again })
    · exact ustate_setUState_self ..
    · exact congrArg Home.st (home_modHome ..)
    · exact congrArg Home.takeoverOf (home_modHome ..)
  have sent : HomesStand taking told := .of_homes (fun _ => rfl) rfl
  have reports : HomesStand told reported := .foldl (fun x t => modHome_stands _ _ rfl) _
  have poisons : HomesStand reported poisoned := .foldl (f := fun x (p : Nat × Mirror) => poisonNow x p.1) (fun x (p : Nat × Mirror) => .of_homes (fun _ => rfl) rfl) _
  have checks : HomesStand poisoned checked := .foldl (fun x p => machineCheck_stands ..) _
  exact begun.stands ((((sent.trans reports).trans poisons).trans checks).trans (mirrorsLost_stands ..))

/-- No load is under way that takes the unit from its caller. -/
theorem preempt_of_idle {m : Mach} (idle : m.load.st = .idle) (units : List (Nat × Nat)) : preempt m units = m :=
  if_pos (by rw [idle]; decide)

theorem homeLostNow_takesOver {m : Mach} {h : Nat} (other : buddyOf m h ≠ h) (works : (home m (buddyOf m h)).lost = false)
    (serves : (home m (buddyOf m h)).st = .serving) (idle : m.load.st = .idle) : TakenOver h (buddyOf m h) (homeLostNow m h) := by
  have alone : applyingNames m 0x12 (buddyOf m h) = false := by rw [applyingNames, idle]; rfl
  unfold homeLostNow
  dsimp only
  rw [preempt_of_idle idle, if_neg (by simp [works, other, alone]), if_neg (by rw [serves]; decide)]
  exact homeTakeoverBegin_takesOver other

theorem homeNodeLoss_completes {s : State} {h : HomeId} (run : unitsRun s.m = true) (stays : s.m.mode.holdStart = none)
    (role : unitHasRole s.m 0x03 h.val = true) (works : (home s.m h.val).lost = false) (other : buddyOf s.m h.val ≠ h.val)
    (buddy : (home s.m (buddyOf s.m h.val)).lost = false) (serves : (home s.m (buddyOf s.m h.val)).st = .serving)
    (idle : s.m.load.st = .idle) : Completes (.homeNodeLoss h) s (TakenOver h.val (buddyOf s.m h.val)) := by
  refine completes_runMesh (exec_homeNodeLoss ..) (meshRuns_of_unitsRun run) ?_
  obtain ⟨runs, free⟩ := noteFault_runs run stays (.home h.val)
  have start := recovering_lasts s.m (.home h.val)
  have goes : homeGoes s.m h.val = lossCheck (faultTaken (homeLostNow (recovering s.m (.home h.val)) h.val) (.home h.val)) := by
    rw [homeGoes, if_neg (by simp [role, works])]
    dsimp only
    rw [free, runs]
    rfl
  have same (g : Nat) : home (recovering s.m (.home h.val)) g = home s.m g := congrArg (fun x => tget x g Home.reset) start.homes
  have whose : buddyOf (recovering s.m (.home h.val)) h.val = buddyOf s.m h.val := congrArg Home.buddy (same _)
  have taken := homeLostNow_takesOver (m := recovering s.m (.home h.val)) (h := h.val) (by rw [whose]; exact other) (by rw [whose, same]; exact buddy)
    (by rw [whose, same]; exact serves) (start.load ▸ idle)
  rw [whose] at taken
  rw [goes]
  exact taken.stands (.of_lasts ((modMode_lasts _ _).trans (lossCheck_lasts _)))

end Sys2Proof.Machine
end
section
/-! The loss of a bench that holds nothing (R806): no lines, no tasks and nothing at work on its engines. -/

namespace Sys2Proof.Machine

/-! ## A bench that holds nothing -/

/-- An engine without memory operations, with empty banks and no waiting event of level 3. -/
structure EngEmpty (x : Eng) : Prop where
  memops : x.memops = []
  banks : ∀ l, l < 4 → vget x.lv l Bank.reset = Bank.reset
  l3Event : x.l3Event = none

/-- Bench `b` is in state `st`, and neither it nor one of its engines holds anything; memory is `mem`. -/
structure BenchEmpty (mem : Memory) (b : Nat) (st : UState) (m : Mach) : Prop where
  mem : m.mem = mem
  unit : ustate m 0x01 b = st
  engs : ∀ e, e ∈ enginesOf b → EngEmpty (eng m e)
  bench : bench m b = Bench.reset
  waiting : m.evt.l3Waiting = []

theorem engEmpty_reset : EngEmpty Eng.reset := ⟨rfl, fun l lt => by interval_cases l <;> rfl, rfl⟩

/-- Putting the empty bank into an empty engine leaves its banks empty. -/
theorem EngEmpty.setBank {x : Eng} (empty : EngEmpty x) (l : Nat) : EngEmpty { x with lv := vset x.lv l Bank.reset } := by
  refine ⟨empty.memops, fun k lt => ?_, empty.l3Event⟩
  by_cases here : l = k
  · exact here ▸ vget_vset_self _ _ _ _ (here.symm ▸ lt)
  · exact (vget_vset_ne _ _ _ _ _ here).trans (empty.banks k lt)

namespace BenchEmpty

variable {mem : Memory} {b : Nat} {st : UState} {m m' : Mach}

theorem lasts (empty : BenchEmpty mem b st m) (same : Lasts m m') : BenchEmpty mem b st m' :=
  ⟨same.mem.trans empty.mem, (same.ustate ..).trans empty.unit, fun e at_ => by rw [eng, same.engs]; exact empty.engs e at_,
    by rw [Machine.bench, same.benches]; exact empty.bench, same.l3Waiting.trans empty.waiting⟩

/-- A change of an engine that leaves it empty where it was. -/
theorem modEng (empty : BenchEmpty mem b st m) (e : Nat) {f : Eng → Eng} (keeps : EngEmpty (eng m e) → EngEmpty (f (eng m e))) :
    BenchEmpty mem b st (modEng m e f) := by
  refine ⟨empty.mem, empty.unit, fun k at_ => ?_, empty.bench, empty.waiting⟩
  by_cases here : k = e
  · subst here
    rw [eng_modEng]
    exact keeps (empty.engs k at_)
  · rw [eng_modEng_other _ _ _ here]
    exact empty.engs k at_

theorem setEngState (empty : BenchEmpty mem b st m) (e : Nat) (small : b < 65536) (x : UState) : BenchEmpty mem b st (setUState m 0x02 e x) := by
  refine ⟨empty.mem, ?_, empty.engs, empty.bench, empty.waiting⟩
  rw [ustate_setUState, if_neg (by unfold ukey; omega)]
  exact empty.unit

theorem modHome (empty : BenchEmpty mem b st m) (h : Nat) (f : Home → Home) : BenchEmpty mem b st (modHome m h f) :=
  ⟨empty.mem, empty.unit, empty.engs, empty.bench, empty.waiting⟩
theorem setL2 (empty : BenchEmpty mem b st m) (k : Nat) (x : L2St) : BenchEmpty mem b st (setL2 m k x) :=
  ⟨empty.mem, empty.unit, empty.engs, empty.bench, empty.waiting⟩

/-- A fold over the engines of a bench, each step of which leaves the bench empty. -/
theorem foldl {α : Type} (empty : BenchEmpty mem b st m) {f : Mach → α → Mach} (l : List α)
    (step : ∀ x, BenchEmpty mem b st x → ∀ a ∈ l, BenchEmpty mem b st (f x a)) : BenchEmpty mem b st (l.foldl f m) :=
  List.foldlRecOn (motive := BenchEmpty mem b st) l f empty fun x kept a at_ => step x kept a at_

theorem bank {e l : Nat} (empty : BenchEmpty mem b st m) (at_ : e ∈ enginesOf b) (lt : l < 4) : bank m e l = Bank.reset := (empty.engs e at_).banks l lt

/-- No operation is flushed, and no routine stops. -/
theorem routineStops {e l : Nat} (empty : BenchEmpty mem b st m) (at_ : e ∈ enginesOf b) (lt : l < 4) :
    BenchEmpty mem b st (routineStops m e l) := by
  rw [Machine.routineStops, empty.bank at_ lt]
  change BenchEmpty mem b st (suspend m e l)
  rw [suspend, empty.bank at_ lt]
  exact empty

theorem flushOps {e : Nat} (empty : BenchEmpty mem b st m) (at_ : e ∈ enginesOf b) : BenchEmpty mem b st (flushOps m e) := by
  rw [Machine.flushOps, (empty.engs e at_).memops]
  exact empty.modEng e fun x => ⟨rfl, x.banks, x.l3Event⟩

theorem clearBank (empty : BenchEmpty mem b st m) (e l : Nat) : BenchEmpty mem b st (modBank m e l fun _ => Bank.reset) :=
  empty.modEng e (f := fun x => { x with lv := vset x.lv l Bank.reset }) fun x => x.setBank l

/-- No event of level 3 moves to another engine. -/
theorem l3Moves {e : Nat} (empty : BenchEmpty mem b st m) (at_ : e ∈ enginesOf b) (k : Nat) : BenchEmpty mem b st (l3Moves m e k) := by
  have noEvent : BenchEmpty mem b st (Machine.modEng m e fun x => { x with l3Event := none }) :=
    empty.modEng e fun x => ⟨x.memops, x.banks, rfl⟩
  have dropped := noEvent.clearBank e 3
  unfold Machine.l3Moves
  rw [(empty.engs e at_).l3Event, empty.waiting]
  dsimp only [List.filter_nil, Option.toList_none, List.append_nil]
  split
  · exact dropped
  · exact ⟨dropped.mem, dropped.unit, dropped.engs, dropped.bench, by simp [modEvt, dropped.waiting]⟩

end BenchEmpty

/-! ## Its lines -/

/-- Home nodes without directory entries have nothing of a lost bench. -/
theorem benchLinesLost_empty {mem : Memory} {b : Nat} {st : UState} {m : Mach} (empty : BenchEmpty mem b st m) (homes : m.homes = []) :
    BenchEmpty mem b st (benchLinesLost m b) := by
  unfold benchLinesLost
  extract_lets strip stripped
  have bare : BenchEmpty mem b st stripped ∧ ∀ h, (home stripped h).dir = [] := by
    refine List.foldlRecOn (motive := fun x => BenchEmpty mem b st x ∧ ∀ h, (home x h).dir = []) _ _
      ⟨empty, fun h => by rw [home, homes]; rfl⟩ fun x kept h _ => ?_
    obtain ⟨still, none_⟩ := kept
    simp only [none_, List.filter_nil, List.foldl_nil, List.map_nil, List.eraseDups_nil]
    refine ⟨still.modHome .., fun g => ?_⟩
    by_cases here : h = g
    · rw [here, home_modHome, none_]; rfl
    · rw [home_modHome_other here, none_]
  exact bare.1.setL2 ..

/-! ## The bench -/

theorem benchLost_empty {mem : Memory} {b : Nat} {st : UState} {m : Mach} (empty : BenchEmpty mem b st m) (homes : m.homes = []) (small : b < 64)
    (idle : m.load.st = .idle) (alive : Bool) : BenchEmpty mem b .failed (benchLost m b alive) := by
  have failed : BenchEmpty mem b .failed (setUState m 0x01 b .failed) :=
    ⟨empty.mem, ustate_setUState_self .., empty.engs, empty.bench, empty.waiting⟩
  unfold benchLost
  rw [preempt_of_idle idle]
  extract_lets t0 m' heirs first failed' lines stopped banks
  have stops : BenchEmpty mem b .failed stopped := (benchLinesLost_empty failed homes).foldl _ fun x kept e at_ => by
    split
    · exact (kept.flushOps at_).foldl _ fun y now l lt => now.routineStops at_ (by have := List.mem_range.1 lt; omega)
    · exact kept.modEng e fun y => ⟨rfl, y.banks, y.l3Event⟩
  have none_ : banks = [] := by
    refine List.flatMap_eq_nil_iff.2 fun e at_ => ?_
    rw [List.map_eq_nil_iff, List.filter_eq_nil_iff]
    intro l lt
    rw [stops.bank at_ (by have := List.mem_range.1 lt; omega)]
    decide
  rw [none_, List.foldl_nil]
  dsimp -zeta only
  extract_lets x emptied returned events off moved
  have bare : x = Bench.reset := stops.bench
  have emptied_ : BenchEmpty mem b .failed emptied := ⟨stops.mem, stops.unit, stops.engs, by
    rw [Machine.bench]; exact (tget_tset_self ..).trans (by rw [stops.bench]; rfl), stops.waiting⟩
  have returned_ : returned = emptied := by unfold returned; rw [bare]; rfl
  have events_ : BenchEmpty mem b .failed events := by
    unfold events
    rw [returned_, bare]
    exact ⟨emptied_.mem, emptied_.unit, emptied_.engs, emptied_.bench, emptied_.waiting⟩
  have off_ : BenchEmpty mem b .failed off := events_.foldl _ fun y kept e _ => by
    refine BenchEmpty.modEng ?_ e fun x => ⟨x.memops, x.banks, x.l3Event⟩
    split
    · exact kept
    · exact kept.setEngState e (by omega) .offline
  exact (off_.foldl _ fun y kept e at_ => kept.l3Moves at_ first).lasts (raiseErrD_lasts ..)

theorem benchLoss_completes {s : State} {b : BenchId} (run : unitsRun s.m = true) (stays : s.m.mode.holdStart = none)
    (works : ustate s.m 0x01 b.val = .active) (homes : s.m.homes = []) (bare : bench s.m b.val = Bench.reset)
    (engs : ∀ e, e ∈ enginesOf b.val → eng s.m e = Eng.reset) (waiting : s.m.evt.l3Waiting = []) (idle : s.m.load.st = .idle) :
    Completes (.benchLoss b) s (fun m => ustate m 0x01 b.val = .failed ∧ m.mem = s.m.mem) := by
  refine completes_runMesh (exec_benchLoss ..) (meshRuns_of_unitsRun run) ?_
  have empty : BenchEmpty s.m.mem b.val .active s.m := ⟨rfl, works, fun e at_ => engs e at_ ▸ engEmpty_reset, bare, waiting⟩
  generalize (!s.m.mode.found.contains (.bench b.val false)) = answers
  have start := recovering_lasts s.m (.bench b.val answers)
  have lost := benchLost_empty (empty.lasts start) (start.homes.trans homes) b.isLt (start.load ▸ idle) answers
  have taken : Lasts (benchLost (recovering s.m (.bench b.val answers)) b.val answers)
      (faultTaken (benchLost (recovering s.m (.bench b.val answers)) b.val answers) (.bench b.val (!answers))) := modMode_lasts ..
  have goes : benchGoes s.m b.val answers = recover s.m (.bench b.val answers) (fun m => faultTaken (benchLost m b.val answers) (.bench b.val (!answers))) :=
    if_neg (by simp [benchIn, works])
  have ended := (lost.lasts taken).lasts (recover_lasts run stays (.bench b.val answers) (fun m => faultTaken (benchLost m b.val answers) (.bench b.val (!answers))))
  rw [goes]
  exact ⟨ended.unit, ended.mem⟩

end Sys2Proof.Machine
end
section
/-! An engine is spared, or stands where no spare is found (R797 to R800). -/

namespace Sys2Proof.Machine

/-! ## What level 3 of an engine can change -/

/-- Memory, the states of units, the other engines and the banks below level 3 of engine `e` are as they were. -/
structure Level3 (e : Nat) (m m' : Mach) : Prop where
  mem : m'.mem = m.mem
  ustate : ∀ k i, ustate m' k i = ustate m k i
  others : ∀ k, k ≠ e → eng m' k = eng m k
  banks : ∀ l, l < 3 → bank m' e l = bank m e l

namespace Level3

variable {e : Nat} {m m' m'' : Mach}

theorem refl (m : Mach) : Level3 e m m := ⟨rfl, fun _ _ => rfl, fun _ _ => rfl, fun _ _ => rfl⟩
theorem trans (h : Level3 e m m') (g : Level3 e m' m'') : Level3 e m m'' :=
  ⟨g.mem.trans h.mem, fun k i => (g.ustate k i).trans (h.ustate k i), fun k other => (g.others k other).trans (h.others k other),
    fun l low => (g.banks l low).trans (h.banks l low)⟩
theorem of_engs (mem : m'.mem = m.mem) (ustate : ∀ k i, Machine.ustate m' k i = Machine.ustate m k i) (engs : m'.engs = m.engs) : Level3 e m m' :=
  ⟨mem, ustate, fun k _ => by rw [eng, engs]; rfl, fun l _ => by rw [bank, eng, engs]; rfl⟩
theorem of_lasts (h : Lasts m m') : Level3 e m m' := of_engs h.mem h.ustate h.engs

/-- A change of the engine that leaves its banks. -/
theorem modEng {f : Eng → Eng} (lv : (f (eng m e)).lv = (eng m e).lv) : Level3 e m (modEng m e f) :=
  ⟨rfl, fun _ _ => rfl, fun _ other => eng_modEng_other _ _ _ other, fun l _ => bank_modEng _ _ _ l lv⟩

theorem setBank (x : Bank) : Level3 e m (setBank m e 3 x) :=
  ⟨rfl, fun _ _ => rfl, fun _ other => eng_setBank_other _ _ _ _ other, fun l low => bank_setBank_other _ _ _ _ (by omega)⟩

end Level3

section
variable (m : Mach) (e : Nat)

theorem modEvt_level3 (f : EvtSt → EvtSt) : Level3 e m (modEvt m f) := .of_engs rfl (fun _ _ => rfl) rfl

theorem l3Start_level3 (pc : Nat) (ev : Option WaitEntry) : Level3 e m (l3Start m e pc ev) := by
  unfold l3Start
  exact (Level3.setBank _).trans (.modEng rfl)

theorem l3Next_level3 : Level3 e m (l3Next m e) := by
  unfold l3Next
  split
  · exact .refl m
  · split
    · exact .refl m
    · exact (modEvt_level3 ..).trans (l3Start_level3 ..)

variable {m e}

/-- Without an event of level 3 that waits, only bank 3 is emptied. -/
theorem l3Moves_level3 (none_ : (eng m e).l3Event = none) (waiting : m.evt.l3Waiting = []) (b : Nat) : Level3 e m (l3Moves m e b) := by
  unfold l3Moves
  rw [none_, waiting]
  dsimp only [List.filter_nil, Option.toList_none, List.append_nil]
  have dropped : Level3 e m (modBank (Machine.modEng m e fun x => { x with l3Event := none }) e 3 fun _ => Bank.reset) :=
    (Level3.modEng rfl).trans (.setBank _)
  split
  · exact dropped
  · exact dropped.trans (modEvt_level3 ..)

/-- No routine is at work in a bank without a context and a save, so that none stops. -/
theorem routineStops_of_idle {l : Nat} (cx : (bank m e l).cx = none) (save : (bank m e l).save = none) : routineStops m e l = m := by
  have calm : suspend m e l = m := by rw [suspend, cx, save]
  rw [routineStops, cx, save]
  exact calm

theorem routinesStop_of_idle {ls : List Nat} (calm : ∀ l, l ∈ ls → (bank m e l).cx = none ∧ (bank m e l).save = none) :
    ls.foldl (fun m l => routineStops m e l) m = m :=
  List.foldlRecOn (motive := (· = m)) ls _ rfl fun x same l at_ => by
    obtain ⟨cx, save⟩ := calm l at_
    rw [same, routineStops_of_idle cx save]

end

/-! ## The engine whose fault is found -/

/-- The machine when the recovery of an engine's persistent fault begins. -/
def engineFails (m : Mach) (e : Nat) : Mach := recovering (persistent m e) (.engine e)

theorem noteFault_lasts (m : Mach) (f : FaultEv) : Lasts m (noteFault m f) := modMode_lasts ..

theorem engineFails_lasts (m : Mach) (e : Nat) : Lasts (setUState m 0x02 e .draining) (engineFails m e) :=
  (noteFault_lasts _ _).trans (recovering_lasts _ _)

/-- The spare of a bench that takes over for it or for another. -/
def spareAt (m : Mach) (k : Nat) : Option Nat :=
  if applyingNames m 0x0001 k || applyingNames m 0x0010 k || !(benchIn m k || benchDraining m k) then none
  else (enginesOf k).find? (fun s => ustate m 0x02 s == .spare)

theorem spareFor_eq (m : Mach) (e : Nat) : spareFor m e = match spareAt m (benchOf e) with
    | some s => some s
    | none => if imgFld m 0x0001 (benchOf e) 4 1 < 16 then spareAt m (16 * tileOfBench (benchOf e) + imgFld m 0x0001 (benchOf e) 4 1) else none := rfl

theorem spareAt_engineFails {m : Mach} {e k : Nat} (active : engActive m e = true) (small : k < 65536) :
    spareAt (engineFails m e) k = spareAt m k := by
  have start := engineFails_lasts m e
  have names (kind : Nat) : applyingNames (engineFails m e) kind k = applyingNames m kind k := by
    rw [applyingNames, start.load]; rfl
  have bench_ : ustate (engineFails m e) 0x01 k = ustate m 0x01 k := by
    rw [start.ustate, ustate_setUState, if_neg (by unfold ukey; omega)]
  have spare (s : Nat) : (ustate (engineFails m e) 0x02 s == .spare) = (ustate m 0x02 s == .spare) := by
    rw [start.ustate, ustate_setUState]
    split
    · next here =>
      have same : e = s := by unfold ukey at here; omega
      rw [← same, eq_of_beq active]
      rfl
    · rfl
  unfold spareAt benchIn benchDraining
  rw [names, names, bench_, funext spare]

theorem spareFor_engineFails {m : Mach} {e : Nat} (active : engActive m e = true) (small : e < 1088) :
    spareFor (engineFails m e) e = spareFor m e := by
  have cover : imgFld (engineFails m e) 0x0001 (benchOf e) 4 1 = imgFld m 0x0001 (benchOf e) 4 1 := by
    simp only [imgFld, imgRec, (engineFails_lasts m e).image]
    rfl
  rw [spareFor_eq, spareFor_eq, cover, spareAt_engineFails active (by unfold benchOf; omega)]
  split
  · rfl
  · split
    · next few => exact spareAt_engineFails active (by have : tileOfBench (benchOf e) < 1088 := by unfold tileOfBench benchOf; omega
                                                       omega)
    · rfl

theorem stateLost_nil (m : Mach) (e : Nat) : stateLost m e [] = m := rfl

/-- What the recovery of an engine does: a spare takes its banks, or it stands. -/
def engineSpares (e bad t0 : Nat) (m : Mach) : Mach :=
  let m := preempt m [(1, benchOf e)]
  match spareFor m e with
  | some x => engineMoves (preempt m [(1, benchOf x)]) e x bad t0
  | none => engineStrands m e t0

section
variable {m : Mach} {e bad t0 : Nat} (idle : m.load.st = .idle)
include idle

theorem engineSpares_of_spare {x : Nat} (spare : spareFor m e = some x) : engineSpares e bad t0 m = engineMoves m e x bad t0 := by
  unfold engineSpares
  rw [preempt_of_idle idle]
  dsimp only
  rw [spare]
  exact congrArg (fun m => engineMoves m e x bad t0) (preempt_of_idle idle _)

theorem engineSpares_of_none (none_ : spareFor m e = none) : engineSpares e bad t0 m = engineStrands m e t0 := by
  unfold engineSpares
  rw [preempt_of_idle idle]
  dsimp only
  rw [none_]

end

/-- An engine without memory operations is spared at once, outside Hold and where no load is under way. -/
theorem engineSparing_lasts {m : Mach} {e : Nat} (run : unitsRun m = true) (stays : m.mode.holdStart = none) (active : engActive m e = true)
    (found : .engine e ∉ m.mode.found) (memops : (eng m e).memops = []) (bad : Nat) :
    ∃ t0, Lasts (engineSpares e bad t0 (engineFails m e)) (engineSparing m e bad) := by
  have runs : unitsRun (persistent m e) = true := unitsRun_noteFault (m := setUState m 0x02 e .draining) run _
  have stays' : (persistent m e).mode.holdStart = none := (noteFault_mode (setUState m 0x02 e .draining) _).2.trans stays
  have empty : (eng (persistent m e) e).memops = [] := memops
  have goes : engineSparing m e bad = recover (persistent m e) (.engine e) (engineSpares e bad (sinceFound (persistent m e) (.engine e))) := by
    rw [engineSparing, if_neg (by simp [run])]
    dsimp only
    rw [if_neg (by simp [active]), if_neg (c := m.mode.found.contains (.engine e) = true) (by simpa using found), if_neg (by simp [empty])]
    rfl
  exact ⟨_, goes ▸ recover_lasts runs stays' _ _⟩

/-! ## A spare takes over -/

/-- Engine `e` has failed, and engine `x` is in its place with its banks below level 3; memory is as it was. -/
structure Spared (m : Mach) (e x : Nat) (m' : Mach) : Prop where
  failed : ustate m' 0x02 e = .failed
  active : ustate m' 0x02 x = .active
  mem : m'.mem = m.mem
  banks : ∀ l, l < 3 → bank m' x l = bank m e l
  left : ∀ l, l < 3 → bank m' e l = Bank.reset

theorem Spared.level3 {m m' m'' : Mach} {e x : Nat} (spared : Spared m e x m') (other : e ≠ x) (same : Level3 x m' m'') : Spared m e x m'' :=
  ⟨(same.ustate ..).trans spared.failed, (same.ustate ..).trans spared.active, same.mem.trans spared.mem,
    fun l low => (same.banks l low).trans (spared.banks l low),
    fun l low => by rw [bank, same.others e other]; exact spared.left l low⟩

theorem engineMoves_spares {m : Mach} {e x : Nat} (other : x ≠ e)
    (calm : ∀ l, l < 4 → (bank m e l).cx = none ∧ (bank m e l).save = none)
    (waits : ∀ l, l < 4 → (bank m e l).st = .waiting ∨ (bank m e l).st = .empty) (t0 : Nat) : Spared m e x (engineMoves m e x 0 t0) := by
  unfold engineMoves
  rw [routinesStop_of_idle fun l at_ => calm l (List.mem_range.1 at_)]
  extract_lets m' lost ids bad3 dropped y moved again placed gone cleared events failed started pc next told
  have spares (l : Nat) : bit 0 l = false := by simp [bit]
  have noneLost : lost = [] := List.filter_eq_nil_iff.2 fun l _ => by simp [spares]
  have good : bad3 = false := by simp [bad3, spares]
  have same : m = dropped := by unfold dropped; rw [noneLost]; rfl
  clear_value dropped bad3 lost
  subst good noneLost same
  have taken : (eng placed x).lv = (eng m e).lv := by
    unfold placed
    rw [eng_modEng]
  have withdrawn (k : Nat) : eng gone k = eng placed k := rfl
  have swapped (k : Nat) : eng failed k = eng cleared k := rfl
  have spare : (eng failed x).lv = (eng m e).lv := by
    rw [swapped]
    unfold cleared
    rw [eng_modEng_other _ _ _ other, withdrawn, taken]
  have freed : (eng failed e).lv = Vector.replicate 4 Bank.reset := by
    rw [swapped]
    unfold cleared
    rw [eng_modEng]
  have memory : failed.mem = m.mem := by
    have place : placed.mem = m.mem := rfl
    have clear : cleared.mem = gone.mem := rfl
    unfold failed
    rw [setUState_mem, setUState_mem]
    exact clear.trans place
  have states : Spared m e x failed := by
    constructor
    · unfold failed
      rw [ustate_setUState, if_neg (by unfold ukey; omega), ustate_setUState_self]
    · unfold failed
      rw [ustate_setUState_self]
    · exact memory
    · intro l _
      rw [bank, spare, ← bank]
    · intro l low
      rw [bank, freed]
      interval_cases l <;> rfl
  have rests : started = failed := List.foldlRecOn (motive := (· = failed)) _ _ rfl fun z kept l at_ => by
    have waiting := waits l (List.mem_range.1 at_)
    have st : (bank z x l).st = (bank m e l).st := by rw [kept, bank, spare]; rfl
    rw [if_neg (by rw [st]; rcases waiting with h | h <;> rw [h] <;> decide)]
    exact kept
  have third : Level3 x failed next := by
    unfold next
    rw [if_neg (by decide), rests]
    exact l3Next_level3 ..
  rw [if_neg (by decide), show ids = [] from rfl, stateLost_nil]
  exact states.level3 other.symm (third.trans (.of_lasts (raiseErrD_lasts ..)))

theorem engineSparing_completes {s : State} {e : EngineId} {x : Nat} (run : unitsRun s.m = true) (stays : s.m.mode.holdStart = none)
    (active : engActive s.m e.val = true) (found : .engine e.val ∉ s.m.mode.found) (memops : (eng s.m e.val).memops = [])
    (idle : s.m.load.st = .idle) (spare : spareFor s.m e.val = some x) (other : x ≠ e.val)
    (calm : ∀ l, l < 4 → (bank s.m e.val l).cx = none ∧ (bank s.m e.val l).save = none)
    (waits : ∀ l, l < 3 → (bank s.m e.val l).st = .waiting ∨ (bank s.m e.val l).st = .empty) (third : (bank s.m e.val 3).st = .empty) :
    Completes (.engineSparing e 0) s (Spared s.m e.val x) := by
  refine completes_runMesh (exec_engineSparing ..) (meshRuns_of_unitsRun run) ?_
  obtain ⟨t0, ends⟩ := engineSparing_lasts run stays active found memops 0
  have start := engineFails_lasts s.m e.val
  have idle' : (engineFails s.m e.val).load.st = .idle := start.load ▸ idle
  have engs (k : Nat) : eng (engineFails s.m e.val) k = eng s.m k := by rw [eng, start.engs]; rfl
  have banks (l : Nat) : bank (engineFails s.m e.val) e.val l = bank s.m e.val l := by rw [bank, engs]; rfl
  have spare' : spareFor (engineFails s.m e.val) e.val = some x := (spareFor_engineFails active e.isLt).trans spare
  have moves := engineMoves_spares (m := engineFails s.m e.val) other (fun l low => by rw [banks]; exact calm l low)
    (fun l low => by
      rw [banks]
      by_cases top : l = 3
      · exact .inr (top ▸ third)
      · exact waits l (by omega)) t0
  rw [engineSpares_of_spare idle' spare'] at ends
  have spared := moves.level3 other.symm (.of_lasts ends)
  exact ⟨spared.failed, spared.active, spared.mem.trans start.mem, fun l low => (spared.banks l low).trans (banks l), spared.left⟩

/-! ## No spare is found -/

theorem engineStrands_fails {m : Mach} {e : Nat} (draining : ustate m 0x02 e = .draining)
    (calm : ∀ l, l < 4 → (bank m e l).st = .empty ∧ (bank m e l).cx = none ∧ (bank m e l).save = none) (event : (eng m e).l3Event = none)
    (waiting : m.evt.l3Waiting = []) (t0 : Nat) : ustate (engineStrands m e t0) 0x02 e = .failed ∧ (engineStrands m e t0).mem = m.mem := by
  have empty (p : BankSt → Bool) (none_ : p .empty = false) : (List.range 3).filter (fun l => p (bank m e l).st) = [] :=
    List.filter_eq_nil_iff.2 fun l at_ => by
      have lt := List.mem_range.1 at_
      rw [(calm l (by omega)).1, none_]
      decide
  unfold engineStrands
  rw [routinesStop_of_idle fun l at_ => (calm l (by have := List.mem_range.1 at_; omega)).2]
  extract_lets m' pend ids dropped rest live left out moved told
  have noException : pend = [] := empty (· == .exception) rfl
  have same : m = dropped := by unfold dropped; rw [noException]; rfl
  clear_value dropped pend
  subst noException same
  have paused : Level3 e m rest := .modEng rfl
  have banks (l : Nat) : bank rest e l = bank m e l := bank_modEng _ _ _ l rfl
  have noneLive : live = [] := by
    unfold live
    simp only [banks]
    exact empty (fun st => st == .ready || st == .waiting) rfl
  have stays : left = rest := by unfold left; rw [noneLive]; rfl
  clear_value left live
  subst noneLive stays
  have event_ : (eng rest e).l3Event = none := by
    unfold rest
    rw [eng_modEng]
    exact event
  have kept : Level3 e m (faultTaken told (.engine e)) :=
    ((paused.trans (l3Moves_level3 event_ waiting (benchOf e))).trans (.of_lasts (raiseErrD_lasts ..))).trans (.of_lasts (modMode_lasts ..))
  have stranded : engineStranded (faultTaken told (.engine e)) e = true := by
    rw [engineStranded, kept.ustate, draining]
    simp [faultTaken, modMode]
  have bare : (List.range 3).all (fun l => (bank (faultTaken told (.engine e)) e l).st == .empty) = true := by
    refine List.all_eq_true.2 fun l at_ => ?_
    have lt := List.mem_range.1 at_
    rw [kept.banks l lt, (calm l (by omega)).1]
    rfl
  rw [show ids = [] from rfl, stateLost_nil, engineLeft, if_pos (by rw [stranded, bare]; rfl)]
  rw [setUState_mem, ustate_setUState_self]
  exact ⟨rfl, kept.mem⟩

theorem engineStranding_completes {s : State} {e : EngineId} {bad : BitVec 4} (run : unitsRun s.m = true) (stays : s.m.mode.holdStart = none)
    (active : engActive s.m e.val = true) (found : .engine e.val ∉ s.m.mode.found) (memops : (eng s.m e.val).memops = [])
    (idle : s.m.load.st = .idle) (noSpare : spareFor s.m e.val = none)
    (calm : ∀ l, l < 4 → (bank s.m e.val l).st = .empty ∧ (bank s.m e.val l).cx = none ∧ (bank s.m e.val l).save = none)
    (event : (eng s.m e.val).l3Event = none) (waiting : s.m.evt.l3Waiting = []) :
    Completes (.engineSparing e bad) s (fun m => ustate m 0x02 e.val = .failed ∧ m.mem = s.m.mem) := by
  refine completes_runMesh (exec_engineSparing ..) (meshRuns_of_unitsRun run) ?_
  obtain ⟨t0, ends⟩ := engineSparing_lasts run stays active found memops bad.toNat
  have start := engineFails_lasts s.m e.val
  have idle' : (engineFails s.m e.val).load.st = .idle := start.load ▸ idle
  have engs : eng (engineFails s.m e.val) e.val = eng s.m e.val := by rw [eng, start.engs]; rfl
  have banks (l : Nat) : bank (engineFails s.m e.val) e.val l = bank s.m e.val l := by rw [bank, engs]; rfl
  have none_ : spareFor (engineFails s.m e.val) e.val = none := (spareFor_engineFails active e.isLt).trans noSpare
  obtain ⟨failed, mem_⟩ := engineStrands_fails (m := engineFails s.m e.val) (e := e.val)
    (by rw [start.ustate, ustate_setUState_self]) (fun l low => by rw [banks]; exact calm l low) (by rw [engs]; exact event)
    (start.l3Waiting.trans waiting) t0
  rw [engineSpares_of_none idle' none_] at ends
  exact ⟨(ends.ustate ..).trans failed, ends.mem.trans (mem_.trans start.mem)⟩

end Sys2Proof.Machine
end
section
/-! O52, from what each unit's loss leaves. -/

namespace Sys2Proof.Machine

/-- Settles O52: each loss by what its recovery leaves where nothing of the unit is at work, a link's transfers by their credits, and the return of a
service core by the checks of its firmware. -/
theorem unitsLost : Obligations.UnitsLost := by
  refine ⟨fun s e bad run stays active found memops idle => ⟨fun x spare other calm waits third well => ?_, fun noSpare calm event waiting => ?_⟩,
    fun s run stays => ⟨fun b works _ homes bare engs waiting idle => ?_, fun h role works other buddy serves idle => ?_,
      fun t works benches homes chans => tileLoss_completes run stays works benches homes chans,
      fun h works core txns jobs => hubLoss_completes run stays works core txns jobs,
      fun h released works => serviceCoreLoss_completes released works,
      fun d lo hi clocked offline => heartbeatLoss_completes run lo hi clocked offline,
      fun d temp lo hi hot first clocked offline => thermalTrip_completes run lo hi hot first clocked offline⟩,
    fun s => ⟨fun k dir vc runs up => ⟨fun credit => ?_, fun credit few => ?_, fun none_ good => ?_⟩, fun k empty alive_ => ?_,
      fun h alive_ reset lost fuses firmware => ?_⟩⟩
  · subst well
    exact (engineSparing_completes run stays active found memops idle spare other calm waits third).mono fun m spared =>
      ⟨spared.failed, spared.active, spared.mem, fun l low => ⟨spared.banks l low, spared.left l low⟩⟩
  · exact engineStranding_completes run stays active found memops idle noSpare calm event waiting
  · exact benchLoss_completes run stays works homes bare engs waiting idle
  · exact (homeNodeLoss_completes run stays role works other buddy serves idle).mono fun m taken => ⟨taken.lost, taken.unit, taken.st, taken.of⟩
  · exact completes_runMesh (exec_meshTransfer ..) runs (meshTransfer_takes up credit vc.val)
  · rw [runMesh_next (exec_meshTransfer ..) runs, meshTransfer_failed up credit vc.val few]
  · rw [runMesh_next (exec_meshTransfer ..) runs, meshTransfer_blocked up none_ good vc.val]
  · rw [subLink_idleTick alive_ k]
    exact ⟨by rw [step, empty], rfl, rfl⟩
  · exact (hubReturn_completes alive_ reset lost fuses firmware).mono fun m works => ⟨works.core, works.reset, works.hub, works.unit, works.mem⟩

end Sys2Proof.Machine
end
